-- ==== Sys2Proof/Word.lean ====
section
/-! DEFINITION. The word types of the CM7 (R8, R43) and the sparse table type that State is built from. -/

namespace Sys2Proof

/-- A byte of any memory, message or record. -/
abbrev Byte := BitVec 8

/-- A 32-bit value: a sync counter, an FP32 or INT32 element, a VN lane. -/
abbrev W32 := BitVec 32

/-- A 64-bit register or command word (R9, R49). -/
abbrev W64 := BitVec 64

/-- A 64-byte row: a core-memory row, a descriptor, a vector-network word (R43, R167). -/
abbrev W512 := BitVec 512

/-- A sparse table by number: keys strictly rising, an absent key reads as the table's default value
(Machine/Table.lean says how it is read and written). -/
abbrev Tbl (α : Type) := List (Nat × α)

end Sys2Proof
end

