-- ==== Sys2Proof/Syntax.lean ====
section
/-! DEFINITION. The commands of the block: one constructor of `Instr` for each row of spec/opcode_table.json.
The rows are the part's steps, each whole and indivisible (95_what_each_step_holds). A step of a unit names that
unit; a step caused from outside carries what arrives. Units are named as the manual numbers them: a physical core by
its PhysCoreID, a position by its 12-bit code (R200), a cluster by 16 × die + index (R18), a partition by its PartID. -/

namespace Sys2Proof

/-- A host buffer (R398): remote address, rkey and length. -/
structure HostBuf where
  addr : Nat
  rkey : Nat
  len  : Nat
  deriving DecidableEq, Repr

/-- A mailbox request as it arrives on a queue pair (R381): the header's fields, the body bytes and, for a signed
request, the signature. `trail` is what the message's length leaves over or short of 64 + length (+ 2,420). -/
structure Mbx where
  qpn     : Nat
  tag     : Nat
  version : Nat
  flags   : Nat
  status  : Nat
  scope   : Nat
  rsv     : Nat
  seq     : Nat
  time    : Nat
  retry   : Nat
  lost    : Nat
  len     : Nat
  body    : List Byte
  sig     : List Byte
  trail   : Int
  deriving DecidableEq, Repr

/-- An Ethernet frame's addressing as a logical port receives it (R361, R363): `lport` the logical port, `octets` the
frame's length, `fcsOk` whether its FCS holds, its MAC, VLAN tags (outermost first), and, when it is protected, its
MACsec SCI, AN and packet number (`sectag`) and whether its ICV verifies. -/
structure Frame where
  lport   : Nat
  octets  : Nat
  fcsOk   : Bool
  dmac    : Nat
  smac    : Nat
  vlans   : List Nat
  sectag  : Option (Nat × Nat × Nat)
  icvOk   : Bool
  v6      : Bool
  srcIp   : Nat
  dstIp   : Nat
  fragment : Bool
  extHdr  : Bool
  mld     : Bool := false
  deriving DecidableEq, Repr

/-- A RoCEv2 packet for queue pair `qpn` as the port takes it (R370): its packet sequence number, whether it came
marked CE (R374), and the frame that carried it. -/
structure Packet where
  frame : Frame
  qpn   : Nat
  psn   : Nat
  ce    : Bool
  deriving DecidableEq, Repr

/-- A router that spreads a broadcast cell (R211), with what its eastward and southward links do to the copies' 320 bits. -/
structure BcastHop where
  router : Nat
  flipE  : BitVec 320
  flipS  : BitVec 320
  deriving DecidableEq, Repr

/-- The commands of the block. -/
inductive Instr where
  -- command threads (R44 to R64): `core` is a PhysCoreID, `thread` a ThreadID
  | halt (core thread : Nat)
  | nop (core thread : Nat)
  | replay (core thread : Nat)
  | illegalOpcode (core thread : Nat)
  | issueTe (core thread : Nat)
  | issueVe (core thread : Nat)
  | issueDma (core thread : Nat)
  | issueSend (core thread : Nat)
  | issueRecv (core thread : Nat)
  | syncSet (core thread : Nat)
  | syncAdd (core thread : Nat)
  | syncSub (core thread : Nat)
  | syncAddRemote (core thread : Nat)
  | waitGe (core thread : Nat)
  | waitEq (core thread : Nat)
  | waitTake (core thread : Nat)
  | loop (core thread : Nat)
  | loopEnd (core thread : Nat)
  | branch (core thread : Nat)
  | jump (core thread : Nat)
  | call (core thread : Nat)
  | ret (core thread : Nat)
  | commandFetch (core thread : Nat)
  | agePromotion (core thread : Nat)
  | waitSatisfied (core thread : Nat)
  | waitWatchdog (core thread : Nat)
  | remoteSyncTimeout (core tag : Nat)
  | heldRecordEntersRing (die : Nat)
  -- tensor engine (R75 to R98)
  | matmul (core : Nat)
  | teDrain (core : Nat)
  | teClear (core : Nat)
  | teBlockLoad (core : Nat)
  | teKblockStep (core : Nat)
  | teOpComplete (core : Nat)
  -- vector engine (R123 to R140)
  | add (core : Nat)
  | sub (core : Nat)
  | mul (core : Nat)
  | fma (core : Nat)
  | max (core : Nat)
  | min (core : Nat)
  | div (core : Nat)
  | sqrt (core : Nat)
  | rsqrt (core : Nat)
  | f2i (core : Nat)
  | i2f (core : Nat)
  | iadd (core : Nat)
  | isub (core : Nat)
  | imul (core : Nat)
  | imax (core : Nat)
  | imin (core : Nat)
  | shl (core : Nat)
  | shra (core : Nat)
  | and (core : Nat)
  | or (core : Nat)
  | xor (core : Nat)
  | exp (core : Nat)
  | exp2 (core : Nat)
  | log (core : Nat)
  | tanh (core : Nat)
  | sigmoid (core : Nat)
  | silu (core : Nat)
  | gelu (core : Nat)
  | sin (core : Nat)
  | cos (core : Nat)
  | rsum (core : Nat)
  | rmax (core : Nat)
  | rmin (core : Nat)
  | rsumsq (core : Nat)
  | rdot (core : Nat)
  | lnorm (core : Nat)
  | rmsnorm (core : Nat)
  | quant (core : Nat)
  | dequant (core : Nat)
  | cmp (core : Nat)
  | select (core : Nat)
  | veGather (core : Nat)
  | veScatter (core : Nat)
  | scatterAdd (core : Nat)
  | gfmul (core : Nat)
  | gfmac (core : Nat)
  | smaxStep (core : Nat)
  | smaxFinal (core : Nat)
  | rope (core : Nat)
  | angle (core : Nat)
  | veOpComplete (core : Nat)
  -- DMA (R221 to R237, R260, R261); `pos` is an endpoint position (R200)
  | dmaCopy (core : Nat)
  | dmaGather (core : Nat)
  | dmaScatter (core : Nat)
  | dmaPattern (core : Nat)
  | dmaCreditTake (core tag : Nat)
  | patternChunk (core tag : Nat)
  | dmaOpComplete (core tag : Nat)
  | dmaTransferTimeout (core tag xfer : Nat)
  | dmaTagHoldExpiry (core tag : Nat)
  | write (pos : Nat)
  | writeIndexed (pos : Nat)
  | readReq (pos : Nat)
  | readReply (pos : Nat)
  | writeAck (pos : Nat)
  | endpointTransferTimeout (pos src : Nat) (reply : Bool)
  | syncRaise (pos : Nat)
  | syncAck (pos : Nat)
  -- packet network and channels (R198 to R220); `flip` is what the link crossed did to the cell's 320 bits
  | pnCellHop (router out : Nat) (flip : BitVec 320)
  | bcast (router : BcastHop)
  | sendOperation (core : Nat)
  | receiveOperation (core : Nat)
  | receiveTakesRecord (core chan : Nat)
  | msgFirst (pos : Nat)
  | msgNext (pos : Nat)
  | msgAck (pos : Nat)
  | msgNack (pos : Nat)
  | msgAckTimeout (core chan : Nat)
  | msgRetryBackoff (core chan : Nat)
  | reservationTimeout (core chan res : Nat)
  -- scheduled networks (R167 to R197); `faults` lists (switch, port, network) whose arriving word is uncorrectable
  | vnSwitchSlot (part : Nat) (faults : List (Nat × Nat × Nat))
  | adderFire (switch : Nat)
  | steeringMove (core unit : Nat)
  | snReturnWord (switch kind idx : Nat)
  | sliceContextHeader (switch ctx : Nat)
  -- reductions and updates (R262 to R295)
  | reduce (die : Nat)
  | deviceTotal (tag tile : Nat)
  | bucketStartWord (part tag : Nat)
  | bucketRearm (tag : Nat)
  | bucketRoundTimeout (tag : Nat)
  | updateStartWord (part group : Nat)
  | updateGroupStart (die : Nat)
  | updatePass1End (die : Nat)
  | updateResumeWord (part group : Nat)
  | updateGroupEnd (die : Nat)
  -- fault events, fencing, Sounding, recovery (R296 to R359)
  | faultEventTaken (die : Nat)
  | remapSettled (part : Nat)
  | settleTimeout (part : Nat)
  | coreFenceState (core state reason : Nat)
  | coreFreeze (core : Nat) (frozen : Bool)
  | coreHold (core : Nat) (hold : Bool)
  | clusterFenceState (cluster state part : Nat)
  | vnShiftWrite (seg value : Nat)
  | soundingSweepTick
  | soundingSlice (core : Nat) (pass : Bool) (addr bit : Nat)
  | isolateSuspectReplay (part : Nat)
  | isolateReplayTimeout (part : Nat)
  | gooseDeadlock (part : Nat)
  -- power, clocks, thermal (R469 to R481)
  | lendFlagSet (cluster : Nat)
  | grantChangeDone (cluster : Nat)
  | powerBudgetTick (estimate : Nat)
  | thermalSensorRead (sensor temp : Nat)
  | voltageClamp (a b : Nat) (va vb : Nat)
  | clusterIdleEntry (cluster : Nat)
  | clusterWake (cluster : Nat)
  | pwrLimitWrite (value : W64)
  | pwrBrakeAssert
  | pwrBrakeRelease
  | refclkStop
  | powerOn
  | powerLoss
  | resetInputAssert
  | resetInputRelease
  | managementWatchdogExpiry
  -- boot (R482 to R495): what each stage finds arrives with it
  | bootStage0 (straps : Nat)
  | bootStage1 (fuseError : Bool)
  | bootStage2
  | bootStage3 (answered : Bool)
  | bootStage4 (badLanes : List (Nat × Nat))
  | bootStage5 (failedStacks failedChannels : Nat) (dimms : List (Nat × Nat × Nat × Nat × Nat))
  | bootStage6 (failed : List (Nat × Nat × Nat × Nat))
  | bootStage7 (missing : List (Nat × Nat))
  | bootStage8 (up : Nat)
  | bootStage9
  | stageOverrun
  | stageWaitingReport
  | flockRollCall (part : Nat) (lacking : List (Nat × Nat))
  | flockRollCallTimeout (part target : Nat)
  | selftestSlice (results : List (Nat × Nat × Nat × Nat × Nat))
  | screeBinTick (temps : List (Nat × Nat)) (volts : List (Nat × Int))
  | screeGenerationWrite
  | dumpCopy (slot : Nat)
  | dramRefresh (tier unit : Nat) (calOk : Bool)
  -- mailbox commands (R397)
  | deviceStatus (m : Mbx)
  | subscribe (m : Mbx)
  | portMode (m : Mbx)
  | addrSet (m : Mbx)
  | ptpSet (m : Mbx)
  | reinstate (m : Mbx)
  | dieReset (m : Mbx)
  | deviceReset (m : Mbx)
  | shutdown (m : Mbx)
  | partCreate (m : Mbx)
  | partDelete (m : Mbx)
  | partReserve (m : Mbx)
  | partWindows (m : Mbx)
  | partMemory (m : Mbx)
  | partRekey (m : Mbx)
  | mbxBind (m : Mbx)
  | mbxUnbind (m : Mbx)
  | partCm5 (m : Mbx)
  | partGoose (m : Mbx)
  | partReset (m : Mbx)
  | partStatus (m : Mbx)
  | imageLoad (m : Mbx)
  | jobStart (m : Mbx)
  | jobAbort (m : Mbx)
  | jobRestart (m : Mbx)
  | jobStatus (m : Mbx)
  | bucketOpen (m : Mbx)
  | bucketClose (m : Mbx)
  | bucketQuery (m : Mbx)
  | peerTable (m : Mbx)
  | regionRegister (m : Mbx)
  | regionDeregister (m : Mbx)
  | qpCreate (m : Mbx)
  | qpDestroy (m : Mbx)
  | recvPost (m : Mbx)
  | memWrite (m : Mbx)
  | memRead (m : Mbx)
  | countersRead (m : Mbx)
  | coreStateRead (m : Mbx)
  | screeRead (m : Mbx)
  | dumpRead (m : Mbx)
  | spoilRead (m : Mbx)
  | soundingCfg (m : Mbx)
  | attest (m : Mbx)
  | identityRead (m : Mbx)
  | macsecSa (m : Mbx)
  | stewardKeySet (m : Mbx)
  | fwUpdate (m : Mbx)
  | fwActivate (m : Mbx)
  | lifecycle (m : Mbx)
  | meterRecords (m : Mbx)
  | meterAudit (m : Mbx)
  | meterIdentity (m : Mbx)
  | commandTimeout (qpn tag : Nat)
  -- Ethernet and RoCEv2 (R360 to R380)
  | cmConnectRequest (lport remoteIp remoteQpn mtu retry rnr timeout : Nat)
  | arpRequest (f : Frame) (target : Nat)
  | neighbourSolicitation (f : Frame) (target : Nat)
  | icmpEchoRequest (f : Frame) (data : List Byte)
  | neighbourEntryAgeing (ip : Nat)
  | pfcFrame (lport : Nat) (enable : Nat) (quanta : List Nat)
  | pfcPauseHeld (lport prio : Nat)
  | ptpEventMessage (f : Frame) (seqId : Nat) (ingress : Nat)
  | ptpMasterTimeout
  | roceSend (p : Packet) (data : List Byte)
  | rdmaWrite (p : Packet) (rkey addr : Nat) (data : List Byte)
  | rdmaWriteWithImmediate (p : Packet) (rkey addr : Nat) (imm : W32) (data : List Byte)
  | rdmaRead (p : Packet) (rkey addr len : Nat)
  | digestList (p : Packet) (data : List Byte)
  | rdmaAck (p : Packet) (syndrome : Nat)
  | localAckTimeout (qpn : Nat)
  | rnrRetryTimer (qpn : Nat)
  | cnp (qpn : Nat)
  | cnpRateTimer (qpn : Nat)
  | cm5Load (f : Frame) (udpSrc udpDst : Nat) (payload : List Byte)
  | cm5Run (f : Frame) (udpSrc udpDst : Nat) (payload : List Byte)
  | cm5Read (f : Frame) (udpSrc udpDst : Nat) (payload : List Byte)
  -- test access (R508)
  | jtagIdcode
  | jtagBypass (bits : List Bool)
  -- the Islon meter (R439 to R468)
  | meterSample (volts amps : List Nat)
  | tapFrame (die : Nat) (crcOk : Bool) (charge cycles withdrawn inPlace other : List Nat)
  | tapGapTimeout (die : Nat)
  | ballastChip (damaged : List Nat)
  | ballastCalibration (gains : List (Nat × Option (Nat × Nat)))
  | calibrationStale (cluster : Nat)
  | settlementClose
  | meterCommit
  | meterVddLow
  | meterPowerOn (fwOk calOk : Bool)
  | meterWatchdogExpiry
  | meterClkFault
  | mtrCfgWrite (value : W64)
  | mtrTimeWrite (value : W64)
  | meterReset
  | fwCommit
  | registerWrite (port : Nat) (offset : Nat) (value : W64)
  | pwrLimitRead
  | ethernetLinkChange (lport : Nat) (up : Bool)
  | portModeTakedown (port : Nat)
  | deviceResetBegin
  | dieResetEnd (die : Nat)
  | ouvosRestartEnd
  | oxLaneRetraining (link lane : Nat) (recovered : Bool)
  | rdmaReadResponse (p : Packet) (data : List Byte)
  | ptpGeneralMessage (f : Frame) (kind : Nat) (seqId : Nat) (timestamp : Nat)
  | arpOrNeighbourReply (f : Frame) (ip mac : Nat)
  | unsupportedRequest (m : Mbx) (opcode : Nat)
  | meterTestAccessOpen
  | mtrLastAdvance
  | gradientRelease (die : Nat)
  deriving DecidableEq, Repr

end Sys2Proof
end

