-- ==== Sys2Proof/WellFormed.lean ====
section
/-! DEFINITION. Which commands are well formed: every operand lies in the field that the manual gives it (R200, R299, R360, R381,
R384). A command that is not well formed is one that no interface of the block can carry. -/

namespace Sys2Proof

/-- A PhysCoreID or an endpoint position: 12 bits (R15, R200). -/
def fits12 (n : Nat) : Bool := decide (n < 4096)

/-- A core and a ThreadID (R44). -/
def threadOk (core thread : Nat) : Bool := fits12 core && decide (thread < 16)

def dieNo (d : Nat) : Bool := decide (d < 4)
def partNo (p : Nat) : Bool := decide (p < 64)
def clusterNo (c : Nat) : Bool := decide (c < 64)
def tagNo (t : Nat) : Bool := decide (t < 1024)
def qpNo (q : Nat) : Bool := decide (q < 2 ^ 24)
def macNo (m : Nat) : Bool := decide (m < 2 ^ 48)
def ipNo (a : Nat) : Bool := decide (a < 2 ^ 128)
def udpNo (p : Nat) : Bool := decide (p < 65536)

/-- A mailbox request's header fields fit their widths (R381). -/
def Mbx.wf (m : Mbx) : Bool :=
  qpNo m.qpn && decide (m.tag < 2 ^ 16 ∧ m.version < 2 ^ 8 ∧ m.flags < 2 ^ 8 ∧ m.status < 2 ^ 16 ∧ m.scope < 2 ^ 8 ∧ m.seq < 2 ^ 64 ∧
    m.time < 2 ^ 64 ∧ m.retry < 2 ^ 32 ∧ m.lost < 2 ^ 32 ∧ m.len < 2 ^ 32)

/-- A frame at a logical port (R360, R361). -/
def Frame.wf (f : Frame) : Bool :=
  decide (f.lport < 8) && macNo f.dmac && macNo f.smac && ipNo f.srcIp && ipNo f.dstIp && f.vlans.all (fun v => decide (v < 65536)) &&
  (match f.sectag with | none => true | some (sci, an, pn) => decide (sci < 2 ^ 64 ∧ an < 4 ∧ pn < 2 ^ 32))

/-- A RoCEv2 packet (R370). -/
def Packet.wf (p : Packet) : Bool := p.frame.wf && qpNo p.qpn && decide (p.psn < 2 ^ 24)

/-- Well-formedness of a command. -/
def Instr.wf : Instr → Bool
  | .halt core thread => threadOk core thread
  | .nop core thread => threadOk core thread
  | .replay core thread => threadOk core thread
  | .illegalOpcode core thread => threadOk core thread
  | .issueTe core thread => threadOk core thread
  | .issueVe core thread => threadOk core thread
  | .issueDma core thread => threadOk core thread
  | .issueSend core thread => threadOk core thread
  | .issueRecv core thread => threadOk core thread
  | .syncSet core thread => threadOk core thread
  | .syncAdd core thread => threadOk core thread
  | .syncSub core thread => threadOk core thread
  | .syncAddRemote core thread => threadOk core thread
  | .waitGe core thread => threadOk core thread
  | .waitEq core thread => threadOk core thread
  | .waitTake core thread => threadOk core thread
  | .loop core thread => threadOk core thread
  | .loopEnd core thread => threadOk core thread
  | .branch core thread => threadOk core thread
  | .jump core thread => threadOk core thread
  | .call core thread => threadOk core thread
  | .ret core thread => threadOk core thread
  | .commandFetch core thread => threadOk core thread
  | .agePromotion core thread => threadOk core thread
  | .waitSatisfied core thread => threadOk core thread
  | .waitWatchdog core thread => threadOk core thread
  | .remoteSyncTimeout core tag => fits12 core && tagNo tag
  | .heldRecordEntersRing die => dieNo die
  | .matmul core => fits12 core
  | .teDrain core => fits12 core
  | .teClear core => fits12 core
  | .teBlockLoad core => fits12 core
  | .teKblockStep core => fits12 core
  | .teOpComplete core => fits12 core
  | .add core => fits12 core
  | .sub core => fits12 core
  | .mul core => fits12 core
  | .fma core => fits12 core
  | .max core => fits12 core
  | .min core => fits12 core
  | .div core => fits12 core
  | .sqrt core => fits12 core
  | .rsqrt core => fits12 core
  | .f2i core => fits12 core
  | .i2f core => fits12 core
  | .iadd core => fits12 core
  | .isub core => fits12 core
  | .imul core => fits12 core
  | .imax core => fits12 core
  | .imin core => fits12 core
  | .shl core => fits12 core
  | .shra core => fits12 core
  | .and core => fits12 core
  | .or core => fits12 core
  | .xor core => fits12 core
  | .exp core => fits12 core
  | .exp2 core => fits12 core
  | .log core => fits12 core
  | .tanh core => fits12 core
  | .sigmoid core => fits12 core
  | .silu core => fits12 core
  | .gelu core => fits12 core
  | .sin core => fits12 core
  | .cos core => fits12 core
  | .rsum core => fits12 core
  | .rmax core => fits12 core
  | .rmin core => fits12 core
  | .rsumsq core => fits12 core
  | .rdot core => fits12 core
  | .lnorm core => fits12 core
  | .rmsnorm core => fits12 core
  | .quant core => fits12 core
  | .dequant core => fits12 core
  | .cmp core => fits12 core
  | .select core => fits12 core
  | .veGather core => fits12 core
  | .veScatter core => fits12 core
  | .scatterAdd core => fits12 core
  | .gfmul core => fits12 core
  | .gfmac core => fits12 core
  | .smaxStep core => fits12 core
  | .smaxFinal core => fits12 core
  | .rope core => fits12 core
  | .angle core => fits12 core
  | .veOpComplete core => fits12 core
  | .dmaCopy core => fits12 core
  | .dmaGather core => fits12 core
  | .dmaScatter core => fits12 core
  | .dmaPattern core => fits12 core
  | .dmaCreditTake core tag => fits12 core && tagNo tag
  | .patternChunk core tag => fits12 core && tagNo tag
  | .dmaOpComplete core tag => fits12 core && tagNo tag
  | .dmaTransferTimeout core tag _ => fits12 core && decide (tag < 2048)
  | .dmaTagHoldExpiry core tag => fits12 core && tagNo tag
  | .write pos => fits12 pos
  | .writeIndexed pos => fits12 pos
  | .readReq pos => fits12 pos
  | .readReply pos => fits12 pos
  | .writeAck pos => fits12 pos
  | .endpointTransferTimeout pos src _ => fits12 pos && fits12 src
  | .syncRaise pos => fits12 pos
  | .syncAck pos => fits12 pos
  | .pnCellHop router out _ => fits12 router && decide (out < 13)
  | .bcast hop => fits12 hop.router
  | .sendOperation core => fits12 core
  | .receiveOperation core => fits12 core
  | .receiveTakesRecord core chan => fits12 core && decide (chan < 64)
  | .msgFirst pos => fits12 pos
  | .msgNext pos => fits12 pos
  | .msgAck pos => fits12 pos
  | .msgNack pos => fits12 pos
  | .msgAckTimeout core chan => fits12 core && decide (chan < 64)
  | .msgRetryBackoff core chan => fits12 core && decide (chan < 64)
  | .reservationTimeout core chan _ => fits12 core && decide (chan < 64)
  | .vnSwitchSlot part faults => partNo part && faults.all (fun e => fits12 e.1 && decide (e.2.1 < 8 ∧ (e.2.2 < 3 ∨ e.2.2 = 4)))
  | .adderFire switch => fits12 switch
  | .steeringMove core unit => fits12 core && decide (unit < 4)
  | .snReturnWord switch kind idx => fits12 switch && decide (kind < 4 ∧ idx < 64)
  | .sliceContextHeader switch ctx => fits12 switch && decide (ctx < 16)
  | .reduce die => dieNo die
  | .deviceTotal tag tile => tagNo tag && decide (tile < 4096)
  | .bucketStartWord part tag => partNo part && tagNo tag
  | .bucketRearm tag => tagNo tag
  | .bucketRoundTimeout tag => tagNo tag
  | .updateStartWord part group => partNo part && decide (group < 256)
  | .updateGroupStart die => dieNo die
  | .updatePass1End die => dieNo die
  | .updateResumeWord part group => partNo part && decide (group < 256)
  | .updateGroupEnd die => dieNo die
  | .faultEventTaken die => dieNo die
  | .remapSettled part => partNo part
  | .settleTimeout part => partNo part
  | .coreFenceState core state reason => fits12 core && decide (state < 8 ∧ reason < 256)
  | .coreFreeze core _ => fits12 core
  | .coreHold core _ => fits12 core
  | .clusterFenceState cluster state part => clusterNo cluster && decide (state < 4) && partNo part
  | .vnShiftWrite seg value => decide (seg < 256 ∧ value < 256)
  | .soundingSweepTick => true
  | .soundingSlice core _ _ b => fits12 core && decide (b < 8)
  | .isolateSuspectReplay part => partNo part
  | .isolateReplayTimeout part => partNo part
  | .gooseDeadlock part => partNo part
  | .lendFlagSet cluster => clusterNo cluster
  | .grantChangeDone cluster => clusterNo cluster
  | .powerBudgetTick _ => true
  | .thermalSensorRead sensor temp => decide (sensor < 80 ∧ temp < 1024)
  | .voltageClamp a b _ _ => clusterNo a && clusterNo b
  | .clusterIdleEntry cluster => clusterNo cluster
  | .clusterWake cluster => clusterNo cluster
  | .pwrLimitWrite _ => true
  | .pwrBrakeAssert => true
  | .pwrBrakeRelease => true
  | .refclkStop => true
  | .powerOn => true
  | .powerLoss => true
  | .resetInputAssert => true
  | .resetInputRelease => true
  | .managementWatchdogExpiry => true
  | .bootStage0 straps => decide (straps < 4)
  | .bootStage1 _ => true
  | .bootStage2 => true
  | .bootStage3 _ => true
  | .bootStage4 badLanes => badLanes.all (fun e => decide (e.1 < 8 ∧ e.2 < 136))
  | .bootStage5 stackSet chans dimms => decide (stackSet < 256 ∧ chans < 4096) && dimms.all (fun d => decide (d.1 < 12))
  | .bootStage6 failed => failed.all (fun r => decide (r.1 < 12 ∧ r.2.1 < 2 ^ 48 ∧ r.2.2.2 < 8))
  | .bootStage7 missing => missing.all (fun e => fits12 e.1)
  | .bootStage8 up => decide (up < 256)
  | .bootStage9 => true
  | .stageOverrun => true
  | .stageWaitingReport => true
  | .flockRollCall part _ => partNo part
  | .flockRollCallTimeout part _ => partNo part
  | .selftestSlice results => results.all (fun r => decide (r.1 < 12 ∧ r.2.1 < 3 ∧ r.2.2.1 < 2 ^ 48 ∧ r.2.2.2.2 < 8))
  | .screeBinTick _ _ => true
  | .screeGenerationWrite => true
  | .dumpCopy slot => decide (slot < 2)
  | .dramRefresh tier unit _ => decide (tier < 2 ∧ unit < 512)
  | .deviceStatus m => m.wf
  | .subscribe m => m.wf
  | .portMode m => m.wf
  | .addrSet m => m.wf
  | .ptpSet m => m.wf
  | .reinstate m => m.wf
  | .dieReset m => m.wf
  | .deviceReset m => m.wf
  | .shutdown m => m.wf
  | .partCreate m => m.wf
  | .partDelete m => m.wf
  | .partReserve m => m.wf
  | .partWindows m => m.wf
  | .partMemory m => m.wf
  | .partRekey m => m.wf
  | .mbxBind m => m.wf
  | .mbxUnbind m => m.wf
  | .partCm5 m => m.wf
  | .partGoose m => m.wf
  | .partReset m => m.wf
  | .partStatus m => m.wf
  | .imageLoad m => m.wf
  | .jobStart m => m.wf
  | .jobAbort m => m.wf
  | .jobRestart m => m.wf
  | .jobStatus m => m.wf
  | .bucketOpen m => m.wf
  | .bucketClose m => m.wf
  | .bucketQuery m => m.wf
  | .peerTable m => m.wf
  | .regionRegister m => m.wf
  | .regionDeregister m => m.wf
  | .qpCreate m => m.wf
  | .qpDestroy m => m.wf
  | .recvPost m => m.wf
  | .memWrite m => m.wf
  | .memRead m => m.wf
  | .countersRead m => m.wf
  | .coreStateRead m => m.wf
  | .screeRead m => m.wf
  | .dumpRead m => m.wf
  | .spoilRead m => m.wf
  | .soundingCfg m => m.wf
  | .attest m => m.wf
  | .identityRead m => m.wf
  | .macsecSa m => m.wf
  | .stewardKeySet m => m.wf
  | .fwUpdate m => m.wf
  | .fwActivate m => m.wf
  | .lifecycle m => m.wf
  | .meterRecords m => m.wf
  | .meterAudit m => m.wf
  | .meterIdentity m => m.wf
  | .commandTimeout qpn tag => qpNo qpn && decide (tag < 65536)
  | .cmConnectRequest lport ip qpn _ _ _ _ => decide (lport < 8) && ipNo ip && qpNo qpn
  | .arpRequest f target => f.wf && decide (target < 2 ^ 32)
  | .neighbourSolicitation f target => f.wf && ipNo target
  | .icmpEchoRequest f _ => f.wf
  | .neighbourEntryAgeing ip => ipNo ip
  | .pfcFrame lport enable quanta => decide (lport < 8 ∧ enable < 256) && quanta.all (fun q => decide (q < 65536))
  | .pfcPauseHeld lport prio => decide (lport < 8 ∧ prio < 8)
  | .ptpEventMessage f seqId _ => f.wf && decide (seqId < 65536)
  | .ptpMasterTimeout => true
  | .roceSend p _ => p.wf
  | .rdmaWrite p rkey addr _ => p.wf && decide (rkey < 2 ^ 32 ∧ addr < 2 ^ 64)
  | .rdmaWriteWithImmediate p rkey addr _ _ => p.wf && decide (rkey < 2 ^ 32 ∧ addr < 2 ^ 64)
  | .rdmaRead p rkey addr len => p.wf && decide (rkey < 2 ^ 32 ∧ addr < 2 ^ 64 ∧ len < 2 ^ 32)
  | .digestList p _ => p.wf
  | .rdmaAck p syndrome => p.wf && decide (syndrome < 256)
  | .localAckTimeout qpn => qpNo qpn
  | .rnrRetryTimer qpn => qpNo qpn
  | .cnp qpn => qpNo qpn
  | .cnpRateTimer qpn => qpNo qpn
  | .cm5Load f src dst _ => f.wf && udpNo src && udpNo dst
  | .cm5Run f src dst _ => f.wf && udpNo src && udpNo dst
  | .cm5Read f src dst _ => f.wf && udpNo src && udpNo dst
  | .jtagIdcode => true
  | .jtagBypass _ => true
  | .meterSample volts amps => decide (volts.length = 8 ∧ amps.length = 8)
  | .tapFrame die _ charge cycles withdrawn inPlace other =>
    dieNo die && decide (charge.length = 16 ∧ cycles.length = 16 ∧ withdrawn.length = 16 ∧ inPlace.length = 16 ∧ other.length = 2)
  | .tapGapTimeout die => dieNo die
  | .ballastChip damaged => damaged.all dieNo
  | .ballastCalibration gains => gains.all (fun g => clusterNo g.1)
  | .calibrationStale cluster => clusterNo cluster
  | .settlementClose => true
  | .meterCommit => true
  | .meterVddLow => true
  | .meterPowerOn _ _ => true
  | .meterWatchdogExpiry => true
  | .meterClkFault => true
  | .mtrCfgWrite _ => true
  | .mtrTimeWrite _ => true
  | .meterReset => true
  | .fwCommit => true
  | .registerWrite port _ _ => decide (port < 0x3000)
  | .pwrLimitRead => true
  | .ethernetLinkChange lport _ => decide (lport < 8)
  | .portModeTakedown port => decide (port < 2)
  | .deviceResetBegin => true
  | .dieResetEnd die => dieNo die
  | .ouvosRestartEnd => true
  | .oxLaneRetraining link lane _ => decide (link < 8 ∧ lane < 136)
  | .rdmaReadResponse p _ => p.wf
  | .ptpGeneralMessage f kind seqId _ => f.wf && decide (kind < 16 ∧ seqId < 65536)
  | .arpOrNeighbourReply f ip mac => f.wf && ipNo ip && macNo mac
  | .unsupportedRequest m opcode => m.wf && decide (opcode < 65536)
  | .meterTestAccessOpen => true
  | .mtrLastAdvance => true
  | .gradientRelease die => dieNo die

end Sys2Proof
end

