-- ==== Sys2Proof/Config.lean ====
section
/-! DEFINITION. What the manual leaves open: free values (nothing constrains them) and the functions of the security
engines whose keys nothing on the device can read (R386, R431). None has a body. -/

namespace Sys2Proof

/-- The free value number `use` (State.freeSeq counts the uses), element `index`: a result within a permitted error
(R129), a stochastic or unstated value, a random draw of the DRBG. -/
opaque Config.freeValue (use index : Nat) : Nat

/-- Bank and row bits that the controller gives a sector of tier 0 (HBM4) or 1 (DDR5), in the place that the unit
encoding of R299 gives them (R245: the placement is exposed by no data interface). -/
opaque Config.dramPlace (tier sector : Nat) : Nat

/-- The hash of a queue pair's number that gives its UDP source port (R370): the manual names it and does not state it. -/
opaque Config.udpPort (qpn : Nat) : Nat

/-- Whether a signature verifies: public key, message, signature (R386, R424). -/
opaque Config.sigVerifies (key message signature : List Byte) : Bool

/-- The storage key that the security engine derives from ID_SEED (R430): the manual does not state how. -/
opaque Config.storageKey (idSeed : BitVec 256) : BitVec 256

/-- The KMAC128 tag of the steward key under the storage key (R430): the manual states neither the length of the tag nor its customisation
string. -/
opaque Config.keyTag (storageKey : BitVec 256) (key : List Byte) : List Byte

/-- The ML-DSA-44 public key that a seed generates (R430). -/
opaque Config.publicOf (seed : BitVec 256) : List Byte

/-- The ML-DSA-44 signature that the key of a seed makes over a message (R430). -/
opaque Config.signOf (seed : BitVec 256) (message : List Byte) : List Byte

/-- The signature that a key whose seed the device does not hold makes over a message: 2 the meter, 3 Nirhal's endorsement (R432, R439). -/
opaque Config.signWith (purpose : Nat) (message : List Byte) : List Byte

/-- Part number and manufacturer code of the IDCODE register (R508): the manual gives neither. -/
opaque Config.jtagId : BitVec 27

/-- The content of the meter's ROM, a part of what MTR_FWID digests (R439). -/
opaque Config.meterRom : List Byte

/-- SHA3-256 of the boot ROM, fixed for each silicon revision (R437). -/
opaque Config.romId : BitVec 256

/-- Whether the image staged in MTR_FW_WIN verifies under the key digest fused in the meter (R466). -/
opaque Config.meterImageOk (image : List Byte) : Bool

/-- The public key of a purpose, numbered as in `signWith`; 4 is Nirhal's endorsement of the meter's key (R466). -/
opaque Config.publicKey (purpose : Nat) : List Byte

/-- Whether a repair resource is left in the bank group of a DRAM row (R257): tier, row unit (R299) and the repairs made so
far. The manual does not say how many a bank group has. -/
opaque Config.repairLeft (tier unit made : Nat) : Bool

/-- Whether an hPPR resource is left for a DRAM row (R331): tier, row unit and the rows of the tier made permanent so far. The manual does not
say how many there are. -/
opaque Config.hpprLeft (tier unit made : Nat) : Bool

/-- The 64 KiB units of a tier that hold a byte of a DRAM row (R257), beside the unit of the failing sector; they follow
from the placement that the manual leaves open. -/
opaque Config.rowUnits (tier unit : Nat) : List Nat

end Sys2Proof
end

