-- ==== Sys2Proof/Machine/Bits.lean ====
section
/-! DEFINITION. Bit fields, byte order (R8), CRC-16 (R198), CRC-32C (R232) and SHA3-256. -/

namespace Sys2Proof.Machine

/-- Bits [hi:lo] of a word, as a number (R8). -/
def fld {w : Nat} (x : BitVec w) (hi lo : Nat) : Nat := (x.toNat >>> lo) % 2 ^ (hi + 1 - lo)

/-- Bit n of a word. -/
def bit {w : Nat} (x : BitVec w) (n : Nat) : Bool := x.getLsbD n

/-- The word with bits [hi:lo] replaced by `v`. -/
def setFld {w : Nat} (x : BitVec w) (hi lo v : Nat) : BitVec w :=
  BitVec.ofNat w (x.toNat - (fld x hi lo) <<< lo + (v % 2 ^ (hi + 1 - lo)) <<< lo)

/-- A number's low `n` bits read as two's complement. -/
def signed (n v : Nat) : Int := if 2 * (v % 2 ^ n) < 2 ^ n then (v % 2 ^ n : Nat) else (v % 2 ^ n : Nat) - (2 ^ n : Nat)

/-- Two's-complement low `n` bits of an integer. -/
def unsigned (n : Nat) (v : Int) : Nat := (v % ((2 ^ n : Nat) : Int)).toNat

/-- `n` bytes of a number, least significant first (R8). -/
def leBytes : Nat → Nat → List Byte
  | 0, _ => []
  | n + 1, v => BitVec.ofNat 8 v :: leBytes n (v >>> 8)

/-- The number that bytes spell, least significant first. -/
def leNat : List Byte → Nat
  | [] => 0
  | b :: r => b.toNat + leNat r * 256

/-- The number that bytes spell, most significant first (R376). -/
def beNat (l : List Byte) : Nat := leNat l.reverse

/-- `n` bytes of a number, most significant first. -/
def beBytes (n v : Nat) : List Byte := (leBytes n v).reverse

/-- `n` zero bytes. -/
def zeros (n : Nat) : List Byte := List.replicate n 0

/-- Bytes `off` to `off + n − 1` of a list, zero where it is shorter (R382). -/
def slice (l : List Byte) (off n : Nat) : List Byte := (List.range n).map (fun i => l.getD (off + i) 0)

/-- The number at bytes `off` to `off + n − 1`, little-endian. -/
def numAt (l : List Byte) (off n : Nat) : Nat := leNat (slice l off n)

/-- All bytes of the list are zero. -/
def allZero (l : List Byte) : Bool := l.all (· == 0)

/-- A 64-byte row from its bytes. -/
def rowOf (l : List Byte) : W512 := BitVec.ofNat 512 (leNat (l.take 64))

/-- The bytes of a 64-byte row. -/
def rowBytes (r : W512) : List Byte := leBytes 64 r.toNat

/-- One bit step of the CRC-16 of polynomial 0x1021. -/
def crc16Bit (c : Nat) : Nat := if c / 32768 % 2 = 1 then ((c * 2) % 65536) ^^^ 0x1021 else (c * 2) % 65536

/-- `n` bit steps. -/
def iter {α : Type} (f : α → α) : Nat → α → α
  | 0, x => x
  | n + 1, x => iter f n (f x)

/-- CRC-16, polynomial 0x1021, initial value 0xFFFF (R198, R448). -/
def crc16 (l : List Byte) : BitVec 16 :=
  BitVec.ofNat 16 (l.foldl (fun c b => iter crc16Bit 8 (c ^^^ (b.toNat * 256))) 0xFFFF)

/-- One bit step of the reflected CRC-32C. -/
def crc32cBit (c : Nat) : Nat := if c % 2 = 1 then (c / 2) ^^^ 0x82F63B78 else c / 2

/-- CRC-32C (R232). -/
def crc32c (l : List Byte) : W32 :=
  BitVec.ofNat 32 (l.foldl (fun c b => iter crc32cBit 8 (c ^^^ b.toNat)) 0xFFFFFFFF ^^^ 0xFFFFFFFF)

/-! Keccak-f[1600] (FIPS 202). Lane (x, y) of the state stands at 5 y + x. The offsets and constants are not listed here: the walk that
FIPS 202 defines them by is carried along. -/

/-- Rotate a 64-bit lane left by `n`, `n` below 64. -/
def spin (v n : Nat) : Nat := (v <<< n) % 2 ^ 64 + v / 2 ^ (64 - n)

/-- One clock of the degree-8 feedback register x^8 + x^6 + x^5 + x^4 + 1. -/
def lfsr8 (r : Nat) : Nat := if r < 128 then 2 * r else (2 * r - 256) ^^^ 0x71

/-- The seven bits of a round constant, read while the register is clocked: the constant and the register afterwards. -/
def roundWord : Nat → Nat → Nat × Nat → Nat × Nat
  | 0, _, p => p
  | k + 1, place, (w, r) => roundWord k (2 * place) (if r % 2 = 1 then w + 2 ^ (place - 1) else w, lfsr8 r)

/-- The rho and pi steps: from lane (1, 0) the walk (x, y) to (y, 2 x + 3 y) meets every other lane, and the lane met at step `t` is turned by
t (t + 1) / 2 and put down at the next stop. -/
def turnLanes (from_ : List Nat) : Nat → Nat → Nat → List Nat → List Nat
  | 0, _, _, into => into
  | k + 1, t, lane, into =>
    let stop := lane / 5 + 5 * ((2 * (lane % 5) + 3 * (lane / 5)) % 5)
    turnLanes from_ k (t + 1) stop (into.set stop (spin (from_.getD lane 0) (t * (t + 1) / 2 % 64)))

/-- A round: the column parities are mixed in, the lanes turned and moved, each row combined, and the constant added to the first lane. -/
def stir25 (a : List Nat) (k : Nat) : List Nat :=
  let sums := (List.range 5).map (fun x => (List.range 5).foldl (fun v y => v ^^^ a.getD (x + 5 * y) 0) 0)
  let mixed := a.zipIdx.map (fun e => e.1 ^^^ sums.getD ((e.2 + 4) % 5) 0 ^^^ spin (sums.getD ((e.2 + 1) % 5) 0) 1)
  let moved := turnLanes mixed 24 1 1 mixed
  let rows := moved.zipIdx.map (fun e =>
    let row := e.2 - e.2 % 5
    e.1 ^^^ (moved.getD (row + (e.2 + 2) % 5) 0 &&& (moved.getD (row + (e.2 + 1) % 5) 0 ^^^ (2 ^ 64 - 1))))
  rows.modifyHead (· ^^^ k)

/-- `n` rounds, with the register of the round constants. -/
def keccakGo : Nat → Nat → List Nat → List Nat
  | 0, _, a => a
  | n + 1, r, a => let p := roundWord 7 1 (0, r); keccakGo n p.2 (stir25 a p.1)

/-- Take in blocks of `8 × lanes` bytes, `n` of them. -/
def takeIn (lanes : Nat) : Nat → List Byte → List Nat → List Nat
  | 0, _, a => a
  | n + 1, l, a =>
    takeIn lanes n (l.drop (8 * lanes))
      (keccakGo 24 1 (a.zipIdx.map (fun e => if e.2 < lanes then e.1 ^^^ numAt l (8 * e.2) 8 else e.1)))

/-- The first `out` bytes of the sponge of rate `8 × lanes` bytes over a message with the given suffix byte; `out` at most one block. -/
def sponge (lanes suffix out : Nat) (l : List Byte) : List Byte :=
  let rate := 8 * lanes
  let gap := rate - l.length % rate
  let tail := (BitVec.ofNat 8 suffix :: zeros (gap - 1)).modify (gap - 1) (· ||| 0x80)
  ((takeIn lanes (l.length / rate + 1) (l ++ tail) (List.replicate 25 0)).flatMap (leBytes 8)).take out

/-- SHA3-256 of a byte string (FIPS 202), the digest's first byte least significant. -/
def sha3 (l : List Byte) : BitVec 256 := BitVec.ofNat 256 (leNat (sponge 17 0x06 32 l))

/-- Bytes of a number with the fewest bytes, most significant first, at least one. -/
def fewBytes (v : Nat) : List Byte := beBytes (max 1 ((Nat.log2 v + 8) / 8)) v

/-- encode_string of NIST SP 800-185 for a string of whole bytes. -/
def encodeStr (l : List Byte) : List Byte :=
  let n := fewBytes (8 * l.length)
  BitVec.ofNat 8 n.length :: (n ++ l)

/-- bytepad of NIST SP 800-185 to 168 bytes. -/
def pad168 (l : List Byte) : List Byte :=
  let m : List Byte := 0x01 :: 0xA8 :: l
  m ++ zeros ((168 - m.length % 168) % 168)

/-- The bytes of "KMAC". -/
def kmacName : List Byte := [0x4B, 0x4D, 0x41, 0x43]

/-- KMAC128 (NIST SP 800-185) with an output of `out` bytes, `out` below 32: key, customisation string, input. -/
def kmac128 (out : Nat) (key custom input : List Byte) : List Byte :=
  let n := fewBytes (8 * out)
  sponge 21 0x04 out (pad168 (encodeStr kmacName ++ encodeStr custom) ++ pad168 (encodeStr key) ++ input ++ n ++ [BitVec.ofNat 8 n.length])

/-- The bytes of a digest. -/
def digestBytes (d : BitVec 256) : List Byte := leBytes 32 d.toNat

end Sys2Proof.Machine
end

