-- ==== Sys2Proof/Machine/State.lean ====
section
/-! DEFINITION. The state of the CM7 as the manual gives it, and the state right after reset. Registers that the
manual numbers are bit vectors of their full width; everything else is named data. Tables that the manual numbers
are sparse (`Tbl`): an absent entry reads as the reset value given beside the table. Keys: a core, switch or router
by its PhysCoreID; an endpoint by its 12-bit position (R200); a cluster by 16 × die + index; a slice by
4 × cluster + slice; a row segment by 64 × die + 4 × row + k; a partition by its PartID. -/

namespace Sys2Proof.Machine

/-- Why a step stops the machine. -/
inductive Fault where
  /-- A command that names a core, cluster, die, link, port or other unit that no part of the product has (R5, R15,
  R20, R360). Raised by every meaning that takes a unit number. Safe: the real device has no such unit. -/
  | absentUnit
  deriving DecidableEq, Repr

/-- Why a step gives a command no meaning. -/
inductive Refusal where
  /-- The command has no meaning in this model yet. Raised by arms of Dispatch only. Safe. -/
  | notModelled (mnemonic : String)
  deriving DecidableEq, Repr

/-- The four order codes (R2). -/
inductive Product where
  | cm74m | cm74u | cm72m | cm72u
  deriving DecidableEq, Repr

/-! ## Command threads (R43 to R71) -/

/-- The states of a thread (R44). -/
inductive ThreadState where
  | idle | ready | waiting | stalled | draining | trapped | halted
  deriving DecidableEq, Repr

/-- A row in a thread's fetch buffer (R46): its row number and the 64 bytes as they were read. -/
structure Fetched where
  row  : Nat
  data : W512
  deriving DecidableEq, Repr

/-- A trap record (R70), field by field. -/
structure TrapRec where
  cause   : Nat := 0
  precise : Bool := false
  who     : Nat := 0
  phys    : Nat := 0
  opTag   : Nat := 0
  index   : Nat := 0
  part    : Nat := 0
  syncId  : Nat := 0
  extra   : Nat := 0
  detail  : W64 := 0
  time    : Nat := 0
  deriving DecidableEq, Repr

/-- One of the 16 command threads of a core (R43, R44, R66, R119). -/
structure Thread where
  state    : ThreadState := .idle
  pc       : Nat := 0
  age      : Nat := 0
  fetch    : List Fetched := []
  lc       : Tbl W32 := []           -- LC0 to LC3, reset 0
  lcStart  : Tbl Nat := []           -- their start indices
  calls    : List Nat := []          -- return indices, newest first
  cfg      : W64 := 0                -- CORE_THR_CFG
  range    : W64 := 0                -- CORE_THR_RANGE
  replay   : W64 := 0                -- CORE_THR_REPLAY
  fpctl    : W64 := 0                -- CORE_THR_FPCTL
  flags    : W64 := 0                -- CORE_THR_FLAGS
  flagPos  : Tbl W64 := []           -- CORE_THR_FLAGPOS 0 to 2, reset 0
  waitSync : Nat := 0                -- wait_sync of CORE_THR_STATUS
  waitImm  : W32 := 0
  waitOp   : Nat := 0                -- opcode of the command that waits or drains
  waitFrom : Option Nat := none      -- core time of the first entry into WAITING on this command (R67)
  cause    : Nat := 0
  trap     : Option TrapRec := none  -- the thread's record slot (R28)
  opsOut   : Nat := 0                -- engine operations issued and not completed
  altSlot  : Bool := false           -- which replay slot is written next (R58)
  lastOp   : Tbl (Option Nat) := []  -- descriptor row of the last operation issued to each engine (R350)
  used     : List Nat := []          -- engines given an operation since the newest replay record (R354)
  deriving DecidableEq, Repr

/-- CORE_SYNC_VALUE and CORE_SYNC_LIMIT of one counter (R65). -/
structure SyncCtr where
  value : W32 := 0
  limit : W32 := 0xFFFFFFFF
  fault : Bool := false
  excess  : Bool := false              -- fault_kind: overflow
  deriving DecidableEq, Repr

/-- An operation in an engine's issue queue (R51): what its ISSUE command named. -/
structure IssueOp where
  thread   : Nat := 0
  index    : Nat := 0
  word     : W64 := 0
  deriving DecidableEq, Repr

/-- What a remote raise belongs to (R64, R261, R279). -/
inductive RaiseSrc where
  | thread (t : Nat) (index : Nat)
  | pattern (tag : Nat)
  deriving DecidableEq, Repr

/-- A remote raise without its acknowledgement yet. -/
structure Raise where
  tag    : Nat
  src    : RaiseSrc
  target : Nat
  syncId : Nat
  sentAt : Nat
  deriving DecidableEq, Repr

/-- A replay record on its way to another memory (R58): the DMA tag that its transfer holds, the thread, whether HALT writes it, the
core time of its sending, and the WRITE_ACK's status once it has come. -/
structure RecordWrite where
  tag    : Nat
  thread : Nat
  halts  : Bool
  sentAt : Nat
  answer : Option Nat := none
  deriving DecidableEq, Repr

/-! ## Tensor engine (R75 to R98) -/

/-- A side-store entry (R80, R93, R515). -/
structure SideEntry where
  fmt  : Nat
  esc  : Bool
  slot : Nat
  exps : List Int
  least : Int
  wide : Bool
  sums : List W32
  deriving DecidableEq, Repr

/-- An accumulator tile with its checksum accumulators (R84, R93). Element (i, j) at key 32 i + j; `ovf` holds 1 for
ovf with a positive dir, 2 with a negative one. -/
structure Tile where
  val : Tbl W32 := []
  ovf : Tbl Nat := []
  x   : Tbl W32 := []
  y   : Tbl W32 := []
  z   : W32 := 0
  bad : Bool := false
  deriving DecidableEq, Repr

/-- A vector-network word with its poison mark (R167). -/
structure VnWord where
  data   : W512 := 0
  poison : Bool := false
  deriving DecidableEq, Repr

/-- Where an operation of the TE stands (R76, R91). -/
inductive TePhase where
  | run | drain | merge | deliver | answer | done
  deriving DecidableEq, Repr

/-- An operation that the TE has started. -/
structure TeOp where
  op      : IssueOp
  desc    : W512
  phase   : TePhase := .run
  loaded  : Nat := 0                       -- K-block groups loaded, of A and B together
  stepped : Nat := 0                       -- K-blocks stepped
  rowA    : Nat := 0                       -- next stored-form row of A
  rowB    : Nat := 0
  fault   : Option (Nat × W64) := none     -- trap cause and detail found
  trapped : Bool := false                  -- the trap of that fault has been taken
  sat     : Option Nat := none             -- first saturated position (R84)
  inf     : Option Nat := none
  poison  : Bool := false
  poisonQ : Nat := 0                       -- queue of the first poisoned word taken (R197)
  merged  : List VnWord := []              -- words taken for a merge (R267)
  out     : List VnWord := []              -- words of the output stage not yet in the output queue
  contrib : List Byte := []                -- the converted tile of an out = 5 drain
  sentAt  : Nat := 0
  deriving DecidableEq, Repr

/-- The tensor engine of a core. -/
structure Te where
  bufA  : Tbl Byte := []
  bufB  : Tbl Byte := []
  sideA : Tbl (Option SideEntry) := []
  sideB : Tbl (Option SideEntry) := []
  tiles : Tbl Tile := []
  ops   : List TeOp := []
  last  : W64 := 0                         -- TE_ABFT_LAST
  count : W32 := 0                         -- TE_ABFT_COUNT
  merge : Tbl W64 := []                    -- TE_RED_MERGE 0 to 3, reset 0
  deriving DecidableEq, Repr

/-! ## Vector engine (R123 to R140) -/

/-- A softmax state slot (R135); empty is m = −∞, l = 0. -/
structure Slot where
  m : W32 := 0xFF800000
  l : W32 := 0
  deriving DecidableEq, Repr

/-- The operation that the VE has in progress: the words its queue operands have given so far, whether it has been
computed, and what it will report at its completion. -/
structure VeOp where
  op       : IssueOp
  desc     : W512
  needA    : Nat := 0                      -- words that its queue operands still give
  needB    : Nat := 0
  needC    : Nat := 0
  gotA     : List VnWord := []
  gotB     : List VnWord := []
  gotC     : List VnWord := []
  computed : Bool := false
  toD      : Bool := false                 -- operand d is an output queue
  toC      : Bool := false                 -- operand c is an output queue
  use      : Nat := 0                      -- number of its free values
  since    : Nat := 0                      -- input words taken since it last let results go (R182)
  sentD    : Nat := 0                      -- words that it has let go to d and c before its end
  sentC    : Nat := 0
  out      : List VnWord := []
  outC     : List VnWord := []
  sat      : Option Nat := none
  inf      : Option Nat := none
  nan      : Option Nat := none
  quantSrc : Bool := false
  fault    : Option (Nat × W64) := none
  poison   : Option Nat := none
  deriving DecidableEq, Repr

/-- The vector engine of a core. -/
structure Ve where
  store : Tbl Byte := []
  lanes : Tbl W32 := []                    -- stochastic generators (R114)
  seed  : W64 := 1                         -- VE_SR_SEED
  quant : W64 := 0                         -- VE_QUANT_COUNT
  slots : Tbl Slot := []
  cur   : Option VeOp := none
  deriving DecidableEq, Repr

/-! ## DMA (R221 to R237, R260, R261) -/

/-- An outstanding transfer of a DMA operation (R226): `n` its number within the operation, `item` what it reads for or
writes for, `off` its byte offset in that item, `addr` the partition address of its first byte. -/
structure Xfer where
  n      : Nat
  item   : Nat
  off    : Nat
  bytes  : Nat
  addr   : Nat
  write  : Bool
  sentAt : Nat
  deriving DecidableEq, Repr

/-- What is staged together: a piece of a COPY or PATTERN, a whole block when check values are used (R235), an element
of a GATHER or SCATTER (R237). `left` counts its reads (then its writes) without an answer. -/
structure Item where
  id      : Nat
  src     : Nat
  dst     : Nat
  size    : Nat
  chunk   : Nat := 0
  no      : Nat := 0                       -- number of its first transfer in transfer order (R230)
  left    : Nat := 0
  writing : Bool := false
  slot    : Option Nat := none             -- the staging slot that it holds (R225)
  failed  : Bool := false                  -- a read of it has failed; its other reads are still awaited (R230)
  buf     : Tbl Byte := []
  cv      : W32 := 0
  stored  : Option W32 := none             -- the source's stored value, as returned with the block's first byte
  stale   : Bool := false                  -- that value was not valid when the last of the block's rows was read (R235)
  deriving DecidableEq, Repr

/-- A DMA operation that has started and holds a tag (R224). -/
structure DmaOp where
  op      : IssueOp
  desc    : W512
  go      : Bool := true                   -- false when nothing moves: a failed check or nothing to do
  run     : Nat := 0                       -- next run, or next element
  off     : Nat := 0                       -- byte offset in that run
  nextItem : Nat := 0
  xferNo  : Nat := 0
  wait    : Option (Nat × Nat) := none     -- credits awaited: counter, units (R156)
  items   : List Item := []
  live    : List Xfer := []
  fail    : Option (Nat × W64 × Nat) := none -- cause, detail and transfer number of the first failure
  timedOut : Bool := false
  chunk   : Nat := 0                       -- PATTERN: chunks whose credits have been taken
  raised  : Nat := 0                       -- PATTERN: chunks whose raises have all been sent
  badChunk : Option Nat := none            -- PATTERN: the first chunk that has failed (R261)
  toRaise : List Nat := []                 -- PATTERN: consumers still to be raised for the chunk in hand
  deriving DecidableEq, Repr

/-! ## Message channels and rings (R159 to R163, R213 to R220) -/

/-- A message in flight on a send channel (R214 to R216). -/
structure SendMsg where
  op      : IssueOp
  src     : Nat
  len     : Nat
  attempt : Nat := 0
  backoff : Bool := false
  frozenNack : Option Nat := none
  acked   : Bool := false
  at_     : Nat := 0
  deriving DecidableEq, Repr

/-- A send channel. -/
structure SendCh where
  cfg    : W64 := 0
  parity : Bool := false
  cur    : Option SendMsg := none
  wait   : List (IssueOp × Nat × Nat) := [] -- sends that wait: operation, source address, length
  stats  : W64 := 0
  waited : Nat := 0                        -- fabric cycles counted toward stalls
  deriving DecidableEq, Repr

/-- A record placed in a receive ring, in the order of reservation. -/
structure RingRec where
  off    : Nat
  need   : Nat
  len    : Nat
  kind   : Nat                             -- 0 message, 1 pad, 2 abandoned
  seq    : Nat
  sender : Nat
  chan   : Nat
  attempt : Nat
  parity : Bool
  got    : Nat
  done   : Bool
  since  : Nat                             -- fabric time of the reservation; once complete, core time of the completion
  deriving DecidableEq, Repr

/-- A receive channel with its ring. -/
structure RecvCh where
  cfg    : W64 := 0
  state  : Nat := 0                        -- R217
  ring   : W64 := 0                        -- CORE_RING_CFG
  wp     : Nat := 0
  rp     : Nat := 0
  seq    : Nat := 0
  recs   : List RingRec := []
  table  : List (Nat × Nat × Bool) := []   -- completed messages: sender, channel, parity; newest first
  ops    : List (IssueOp × W512 × Nat) := [] -- receives waiting: operation, descriptor, since when it waits at the head
  stats  : W64 := 0
  waited : Nat := 0
  deriving DecidableEq, Repr

/-- A Flock-load chunk that a target is receiving (R489): its header and the bytes so far. -/
structure Chunk where
  sidx   : Nat
  kind   : Nat
  store  : Nat
  target : Nat
  bytes  : Nat
  addr   : Nat
  cv     : W32
  got    : List Byte := []
  deriving DecidableEq, Repr

/-! ## Scheduled networks (R167 to R197) -/

/-- A core output queue (R177, R190). -/
structure OutQ where
  cfg    : W64 := 0
  tokens : Nat := 0
  hold   : Bool := false
  words  : List VnWord := []
  elem   : Nat := 0                        -- elements of the head word already sent as tokens (R187)
  deriving DecidableEq, Repr

/-- A core input queue with its Spill area and landing buffer (R164, R165, R177, R179, R181). -/
structure InQ where
  words   : List VnWord := []
  landing : List VnWord := []
  spill   : W64 := 0                       -- CORE_SPILL_CFG
  used    : Nat := 0
  high    : Nat := 0
  head    : Nat := 0                       -- slot of the Spill area's oldest word
  freed   : Nat := 0
  hold    : Bool := false                  -- hold as it stands
  holdSent : Bool := false                 -- hold as last returned
  origin  : List Nat := []                 -- inputs that supplied the words, for a queue under a steering unit
  pace    : Nat := 0                       -- compute cycles carried over toward the next Spill write, in 1/72
  deriving DecidableEq, Repr

/-- A steering unit (R186 to R189). -/
structure Steer where
  cfg   : W64 := 0
  d0    : List VnWord := []
  d1    : List VnWord := []
  ctl   : List Nat := []
  moved : Nat := 0
  freed0 : Nat := 0
  freed1 : Nat := 0
  sent0 : Bool := false                    -- hold as last returned for D0 and D1
  sent1 : Bool := false
  busy  : Bool := false                    -- a word has been moved or discarded in this cycle
  fault : Option Nat := none
  deriving DecidableEq, Repr

/-- A scheduled-network switch (R168, R171 to R175, R185): schedule registers, the words present at its ports for the
slot to come (N, E, S, W, L, X as 1 to 6), the adder with its queues, and, at a spare column, the slice port. -/
structure Switch where
  cfg     : W64 := 0                       -- VN_SCHED_CFG
  vn      : Tbl W64 := []                  -- VN_SCHED
  sn      : Tbl W64 := []                  -- VN_SN_SCHED
  cn      : Tbl W64 := []                  -- VN_CN_SCHED
  slot    : Nat := 0
  running : Bool := false
  vnIn    : Tbl (Option VnWord) := []
  snIn    : Tbl (Option W32) := []
  cnIn    : Tbl (Option Byte) := []
  aa      : List VnWord := []
  ab      : List VnWord := []
  ar      : List VnWord := []
  arNew   : Nat := 0                       -- sums of this cycle, which can leave from the next slot on
  outVn   : List (VnWord × Nat) := []      -- words crossing from the core, with the slots to go (R183)
  outSn   : List (W32 × Nat) := []
  outCn   : List (Byte × Nat) := []
  arTok   : Nat := 0
  arHold  : Bool := false
  freedAA : Nat := 0
  freedAB : Nat := 0
  xctx    : Tbl W64 := []                  -- VN_XCTX_CFG
  corrected : Nat := 0                     -- VN words corrected at the switch's inputs, not yet gathered (R196, R337)
  linkErrs : Nat := 0                      -- words with errors that could not be corrected, not yet gathered (R196)
  ret     : List (Nat × Nat × W32) := []   -- token return words delivered: producer kind (0 the core at the switch, 3 the
                                           -- core over the slack link, 1 a slice context, 2 the adder), index, word (R179)
  chunk   : Option Chunk := none           -- Flock-load chunk being received
  chunkNo : Nat := 1024
  chunksHeld : List Nat := []
  inbound : List (Nat × VnWord × Nat × Bool) := [] -- words crossing into the core: destination, word, slots to go, over slack
  deriving DecidableEq, Repr

/-- A slice context pair (R191): words waiting inbound and outbound, the transfer in progress. -/
structure Ctx where
  inW     : List VnWord := []
  outW    : List VnWord := []
  tokens  : Nat := 0
  hold    : Bool := false
  freed   : Nat := 0
  op      : Nat := 0                       -- 0 none, 1 write, 2 read
  row     : Nat := 0
  left    : Nat := 0
  stopped : Bool := false
  deriving DecidableEq, Repr

/-- A shared slice (R141, R191, R233). -/
structure Slice where
  mem    : Tbl Byte := []
  bad    : Tbl Bool := []                  -- uncorrectable 8-byte words
  weak   : Tbl Bool := []                  -- 8-byte words that hold a single-bit error (R147)
  corrected : Nat := 0                     -- corrected errors not yet gathered for the Scree log (R147)
  due    : List Nat := []                  -- rows to be repaired while the cluster holds no partition (R149, R300)
  poison : Tbl Bool := []                  -- rows stored poisoned
  cv     : Tbl (Option W32) := []          -- check values by block key
  ctx    : Tbl Ctx := []
  deriving DecidableEq, Repr

/-! ## One core -/


/-- A physical core (R43). -/
structure Core where
  threads : Tbl Thread := []
  rr0     : Nat := 16                      -- thread that issued last in the prio-0 group; 16 before ThreadID 0 (R45)
  rr1     : Nat := 16
  sync    : Tbl SyncCtr := []
  qTe     : List IssueOp := []
  qVe     : List IssueOp := []
  qDma    : List IssueOp := []
  qPort   : List IssueOp := []
  te      : Te := {}
  ve      : Ve := {}
  mem     : Tbl Byte := []
  bad     : Tbl Bool := []                 -- uncorrectable 8-byte words of core memory
  vbad    : Tbl Bool := []                 -- uncorrectable 8-byte words of the vector store
  cv      : Tbl (Option W32) := []         -- check values of the core's blocks (R233)
  tags    : Tbl (Option DmaOp) := []
  held    : Tbl (Option Nat) := []         -- tags held after a timeout, with the fabric time they return (R231)
  dmaCfg  : W64 := 6                       -- DMA_CFG
  credit  : Tbl W64 := []                  -- CORE_CREDIT
  pool    : Tbl W64 := []                  -- CORE_POOL
  raises  : List Raise := []
  raiseNo : Nat := 0
  records : List RecordWrite := []         -- replay records sent and not yet acted on (R58)
  send    : Tbl SendCh := []
  recv    : Tbl RecvCh := []
  outQ    : Tbl OutQ := []
  inQ     : Tbl InQ := []
  steer   : Tbl Steer := []
  stopped : Bool := false                  -- an uncorrectable read (R148)
  frozenAt : Option Nat := none            -- fabric time of the freeze in force (R304)
  frozenAcc : Nat := 0                     -- fabric cycles spent frozen before
  deferred : List (Nat × Nat) := []        -- completions deferred to the release: kind, index (R304)
  idleFrom : Option Nat := none            -- core time of the last issue, trap or TE or VE completion (R72)
  lastOpAt : Nat := 0                      -- core time of the last completion of any operation (R470)
  progress : Nat := 0                      -- R238
  issued  : Nat := 0                       -- COUNTERS_READ (R418)
  teBusy  : Nat := 0
  veBusy  : Nat := 0
  dmaBytes : Nat := 0
  weak    : Tbl Bool := []                 -- 8-byte words of core memory that hold a single-bit error (R147)
  vweak   : Tbl Bool := []                 -- the same of the vector store
  corrected : Nat := 0                     -- corrected errors not yet gathered for the Scree log (R147)
  fixes   : Tbl (List Nat) := []           -- by core-memory row: device seconds of its corrected errors of the last 24 h (R300)
  marked  : List Nat := []                 -- core-memory rows marked for repair at the next withdrawal (R300)
  dmaLast : Nat := 1023                    -- DMA tag that moved last, for the round of R224
  microcode : Bool := false                -- the microcode store holds the load of stage 7 (R470)
  micro   : Tbl Byte := []                 -- microcode store (R489, R492)
  chunk   : Option Chunk := none           -- Flock-load chunk being received
  chunkNo : Nat := 1024                    -- flock number of that chunk's load
  chunksHeld : List Nat := []              -- indices held of the current load
  deriving DecidableEq, Repr

/-! ## Packet network (R198 to R212) -/

/-- A packet-network cell (R198): 48 header bits, 32 payload bytes, CRC-16. -/
structure Cell where
  hdr : BitVec 48 := 0
  pay : BitVec 256 := 0
  crc : BitVec 16 := 0
  deriving DecidableEq, Repr

/-- A router (R201 to R210). Input channels by 4 × port + vc; the ports are numbered in Machine/PacketNet.lean. -/
structure Router where
  buf  : Tbl (List Cell) := []
  wait : Tbl Nat := []                     -- fabric time at which a channel's head reached it (R209)
  rr   : Tbl Nat := []                     -- per output and class: the input port served last
  alt  : Tbl Nat := []                     -- per input and class: the channel served last
  errs : Tbl W64 := []                     -- PN_PORT_ERR by input port
  deriving DecidableEq, Repr

/-- An open endpoint transfer (R229). -/
structure OpenX where
  src   : Nat
  tag   : Nat
  addr  : Nat
  bytes : Nat
  count : Nat
  xfer  : Nat
  cv    : W32
  ackTo : Nat
  flags : Nat
  status : Nat
  reply : Bool
  got   : List Byte := []
  last  : Nat := 0
  poolBad : Option Nat := none             -- first byte outside the sender's pools (R158)
  landed : Nat := 0                        -- bytes already written
  red   : Bool := false                    -- a REDUCE transfer (R269)
  tile  : Nat := 0
  kind  : Nat := 0
  slot  : Nat := 0
  closes : Nat := 0                        -- closes of its bucket when it was opened (R281)
  failAddr : Option Nat := none
  deriving DecidableEq, Repr

/-- An endpoint of the packet network (R200): the cells delivered to it and not yet taken, the cells it has to
inject, and its open transfers. -/
structure Endpoint where
  inbox  : List Cell := []
  outbox : List Cell := []
  opens  : List OpenX := []
  dropped : Nat := 0
  deriving DecidableEq, Repr

/-! ## Partitions, jobs and windows (R19, R30 to R35, R247, R403 to R414) -/

/-- An event record (R297), field by field. -/
structure EventRec where
  code    : Nat := 0
  certain : Bool := true
  unitKind : Nat := 0
  part    : Nat := 64
  unit    : Nat := 0
  merged  : Nat := 0
  detail  : List Byte := []
  time    : Nat := 0
  by_     : Nat := 0                       -- the detecting unit, whose hold register the record may take (R28); see `detCore`
  deriving DecidableEq, Repr

/-- An entry of a fault-event ring (R296). -/
inductive RingEntry where
  | trap (r : TrapRec)
  | event (e : EventRec)
  deriving DecidableEq, Repr

/-- A fence action of a partition (R305 to R314). -/
structure FenceAction where
  kind   : Nat                             -- 0 live remap, 1 return, 2 restart remap, 3 cluster move
  core   : Nat                             -- the core concerned (PhysCoreID), or the cluster for a move
  target : Nat                             -- CORE_FENCE state to give that core
  reason : Nat
  step   : Nat
  since  : Nat
  record : List Byte := []                 -- the event record that caused it (R413), where one did
  deriving DecidableEq, Repr

/-- The ISOLATE search (R354, R355): the core and engine of the fault, the suspects still to be replayed, the one being
replayed and since when, and the trap records that reproduced the fault. -/
structure Isolate where
  core    : Nat
  engine  : Nat
  cause   : Nat
  todo    : List Nat
  current : Option Nat
  since   : Nat
  hits    : List TrapRec
  deriving DecidableEq, Repr

/-- A RUN frame of CM5 frame mode that waits (R311, R377). -/
structure Cm5Run where
  who    : Nat                             -- sender: address × 65,536 + UDP port
  seq    : Nat
  len    : Nat                             -- length field
  offset : Nat
  args   : List Byte
  lport  : Nat
  deriving DecidableEq, Repr

/-- A partition (R19, R403). -/
structure Part where
  kind     : Nat := 0
  clusters : List Nat := []
  declared : List Nat := []                -- reserves as declared, cluster indices
  die      : Nat := 0
  bucketAt : Nat := 0
  buckets  : Nat := 0
  epoch    : Nat := 1
  xts      : List Byte := []               -- XTS key pair, 64 bytes (R249)
  tagKey   : List Byte := []               -- tag key, 32 bytes (R249)
  windows  : Tbl (BitVec 128) := []
  hbm      : List (Nat × Nat) := []        -- ranges: first unit, units
  ddr      : List (Nat × Nat) := []
  area     : Tbl Byte := []                -- device area (R407)
  touched  : List (Nat × Nat) := []        -- area words covered by a write that no step has acted on yet, with the
                                           -- writer's die
  goose    : Nat := 1000                   -- DMA_GOOSE_CFG thr_us
  gooseSeen : Nat := 0                     -- sum of progress counters when last seen moving
  gooseFrom : Nat := 0
  gooseDone : Bool := false
  image    : List Byte := []               -- the loaded image
  digest   : Option (BitVec 256) := none
  blobs    : List (BitVec 256) := []
  loading  : Bool := false
  job      : Nat := 0
  running  : Bool := false
  policy   : Nat := 0
  flags    : Nat := 0
  report   : Nat := 0
  started  : Nat := 0
  restarts : Nat := 0
  recent   : List Nat := []                -- times of the restarts within the last 10 minutes
  lastEnd  : List Byte := []               -- body of the last JOB_END
  waiting  : Bool := false                 -- waits for a reserve (R316)
  failed   : List Nat := []                -- clusters whose move is pending
  stopping : Bool := false
  actions  : List FenceAction := []
  isolate  : Option Isolate := none
  cm5      : Option Nat := none            -- UDP port of CM5 frame mode
  cm5From  : List (Nat × Nat × Option (List Byte)) := []
  cm5Drops : Nat := 0
  cm5Wait  : List Cm5Run := []             -- RUN frames that wait for a fence action
  flock    : List (Nat × Nat × Nat) := []  -- Flock-load targets not complete: target, chunks lacking, rounds used
  fenced   : Nat := 0                      -- cores fenced during the load
  chunks   : Nat := 0                      -- chunks sent for the load (R408)
  loadNo   : Nat := 1024                   -- flock number of the load
  moves    : List (Nat × Nat) := []        -- slots being loaded for a reserve: slot, reserve's cluster index
  quiet    : Nat := 0                      -- slots since a word last moved on the partition's networks (R306)
  due      : List (RingEntry × List Byte) := []
                                           -- traps and Goose events taken from a ring whose policy waits for a fence action (R311), with
                                           -- the Goose's snapshot
  deriving DecidableEq, Repr

/-! ## Buckets and updates (R262 to R295) -/

/-- A bucket (R264, R278). -/
structure Bucket where
  desc   : List Byte := []
  state  : Nat := 0
  reason : Nat := 0
  round  : Nat := 0
  parity : Bool := false
  part   : Nat := 0
  openedAt : Nat := 0
  counts : Tbl Nat := []                   -- contributions applied: key 4096 × slot + tile
  starts : Tbl Nat := []                   -- starts counted per slot
  taken  : Nat := 0                        -- device totals that the hub has taken
  closes : Nat := 0                        -- how often the bucket has been closed: what began before a close is not of the next opening (R281)
  late   : Nat := 0                        -- arrivals acknowledged and discarded (R274)
  final  : Tbl Nat := []                   -- arrivals applied per owned tile
  arrived : List (Nat × Nat × W32) := []   -- rank, tile, digest of each arrival of the round
  shadow : List (Nat × Nat × W32) := []
  sent   : List (Nat × Nat × W32) := []    -- rank, tile, digest of each total sent
  unacked : Nat := 0                       -- totals and lists sent, not acknowledged
  listsIn : List Nat := []                 -- ranks whose matching digest list has been received
  listsOut : List Nat := []                -- ranks to which the list has been sent
  logNo  : Nat := 0
  raises : List (Nat × Nat × Nat) := []    -- raises not acknowledged, in order: core index, counter, amount
  raiseBad : Bool := false                 -- a raise of this round was refused (R279)
  pend   : List Nat := []                  -- groups linked that have not released their gradient
  peers  : List (Nat × Nat × Nat) := []    -- peer table: QPN, rkey, remote address
  deriving DecidableEq, Repr

/-- The update that an engine runs (R287, R291). -/
structure Updating where
  part   : Nat
  group  : Nat
  t      : Nat
  pass   : Nat                             -- 1, 2, or 3 while U3 waits for its resume writes
  gnorm  : W32 := 0
  wnorm  : W32 := 0
  unorm  : W32 := 0
  factor : W32 := 0
  resumes : Nat := 0
  outcome : Option Nat := none
  released : Bool := false
  clipped : Bool := false
  lr     : W32 := 0                        -- η, λ, β1 and β2 of step t, as the schedule gives them at the start (R290)
  wd     : W32 := 0
  b1     : W32 := 0
  b2     : W32 := 0
  p1     : W32 := 0                        -- β1^t and β2^t, as pass 1 forms them
  p2     : W32 := 0
  ratio  : W32 := 0x3F800000
  deriving DecidableEq, Repr

/-! ## Dies and the hub -/

/-- A compute die: its fault-event ring with the records held (R28, R296), service, and update engine. -/
structure Die where
  ring    : List RingEntry := []
  held    : List RingEntry := []
  out     : Bool := false                  -- out of service (R317)
  resetAt  : Nat := 0                      -- device time of the capture before the reset under way (R349)
  resetting : Bool := false
  queue   : List (Nat × Nat) := []         -- update groups pending, in start order
  cur     : Option Updating := none
  snaps   : List (List Byte) := []         -- Goose snapshots whose events have not been taken, oldest first (R240)
  deriving DecidableEq, Repr

/-! ## External memory (R241 to R258) -/

/-- A tier of external memory: the plain contents by byte of the tier space, the sectors whose stored data is uncorrectable or holds a
correctable error, the stored tags, the check values by block, retired units, and row and calibration histories. A tag that `tags`
does not list is the one that R250 gives for the sector's contents with poison 0 under the keys and epoch in force. -/
structure Tier where
  mem     : Tbl Byte := []
  bad     : Tbl Bool := []                 -- sectors with uncorrectable data (R255)
  weak    : Tbl Bool := []                 -- sectors with an error that the code corrects (R255)
  tags    : Tbl (Option W64) := []         -- stored tags (R250), by their place (R244, R245)
  cv      : Tbl (Option W32) := []
  retired : List Nat := []
  untold  : List Nat := []                 -- retired units that Ouvos has not announced yet (R257)
  rowErrs : Tbl (List Nat) := []           -- by row unit (R299): device seconds of its corrected errors of the last 24 h (R256)
  corrected : Tbl Nat := []                -- by pseudo-channel or DIMM unit (R335): corrected errors not yet gathered
  calFail : Tbl Nat := []
  repaired : List Nat := []                -- row units repaired, one entry for each repair, newest first
  present : Bool := false
  deriving DecidableEq, Repr

/-! ## Spoil map, Scree log, dumps (R318, R335 to R339, R350 to R353) -/

/-- A Spoil-map entry (R318). -/
structure Spoil where
  kind   : Nat
  flags  : Nat
  unit   : Nat
  reason : Nat
  count  : Nat
  when_  : Nat
  deriving DecidableEq, Repr

/-- A Scree record (R336). -/
structure Scree where
  verdict   : Nat := 0
  corrected : Nat := 0
  uncorrected : Nat := 0
  abft      : Nat := 0
  sndFail   : Nat := 0
  sndRuns   : Nat := 0
  resets    : Nat := 0
  lastSound : Nat := 0
  ev        : List (Nat × Nat) := []       -- time in seconds and code of the last three charged events, newest first
  temp      : Tbl Nat := []
  volt      : Tbl Nat := []
  firstIsPermanent : Bool := false         -- R319: kept history of a removed soft entry
  charged   : List (Nat × Nat) := []       -- every charged event still inside a window: time in seconds, code
  suspect   : Bool := false                -- in service though marked suspect (R301)
  dropped   : Nat := 0                     -- cells that the unit's endpoint has dropped (R227, R229)
  deriving DecidableEq, Repr

/-- A generation of the Scree log in flash (R339): the number, record count and digest of its header, and the records. -/
structure Generation where
  number : Nat := 0
  count  : Nat := 0
  digest : BitVec 256 := 0
  recs   : List (Nat × Scree) := []
  deriving DecidableEq, Repr

/-- A core under test by Sounding (R322, R323): the slice in hand, whether it repeats a failure, and the clock in MHz and the LDO trim in
mV below the cluster's setting at which it runs. -/
structure CoreTest where
  core  : Nat
  slice : Nat
  again : Bool
  clock : Nat
  trim  : Nat
  begun : Bool := true                     -- false while Sounding yields before the slice (R325)
  deriving DecidableEq, Repr

/-- The tap counters of a cluster (R448): charge drawn, active cycles of its cores in service, cycles of cores that Sounding tests. -/
structure TapCount where
  charge   : Nat := 0
  cycles   : Nat := 0
  sounding : Nat := 0
  deriving DecidableEq, Repr

/-- A crash dump (R351): header fields and sections. -/
structure Dump where
  bytes  : List Byte := []
  ms     : List Byte := []                 -- its sections with the counts of the whole millisecond before, for a tenant (R435)
  scope  : Nat := 0
  part   : Nat := 64
  copied : Bool := false
  deriving DecidableEq, Repr

/-! ## Ethernet, queue pairs, mailboxes (R360 to R396) -/

/-- A MACsec SA (R367). -/
structure Sa where
  tx     : Bool
  an     : Nat
  sci    : Nat
  pn     : Nat
  window : Nat
  active : Bool
  sak    : List Byte
  deriving DecidableEq, Repr

/-- An address entry of a logical port (R362). -/
structure AddrEntry where
  flags  : Nat := 0
  pd     : Nat := 3
  pc     : Nat := 6
  vlan   : Nat := 0
  mac    : Nat := 0
  ip4    : Nat := 0
  ip6    : Nat := 0
  sas    : List Sa := []
  held   : Nat := 0                        -- packets of queue pairs held at packet-number exhaustion
  deriving DecidableEq, Repr

/-- A logical port: link, address entries (entry number as ADDR_SET counts it), pause state, and counts. -/
structure LPort where
  up       : Bool := false
  entries  : Tbl (Option AddrEntry) := []
  paused   : Tbl Nat := []                 -- priority: 1 + fabric time since which it is paused
  pauseEnd : Tbl Nat := []                 -- fabric time at which the pause in force runs out
  pauseSeen : Tbl Nat := []                -- the pause start for which the 100 ms event has been raised, plus 1
  waitTx   : List (Nat × Nat × List Byte) := [] -- the port's own frames that wait: class, entry, content
  tooLong  : Nat := 0
  badFcs   : Nat := 0
  fragments : Nat := 0
  unmatched : Nat := 0
  unprotected : Nat := 0
  pauseEvents : Nat := 0
  rx       : Tbl Nat := []                 -- octets in the receive buffer, by class: 0 data, 1 control, 2 lossy (R366)
  xoff     : List Nat := []                -- classes for which the last PFC frame sent was an XOFF
  rxDrops  : Nat := 0                      -- lossy frames discarded for want of buffer
  deriving DecidableEq, Repr

/-- A response or event as sent: queue pair, header fields, body. -/
structure Sent where
  qpn    : Nat
  op     : Nat
  tag    : Nat
  flags  : Nat
  status : Nat
  scope  : Nat
  seq    : Nat
  time   : Nat
  retry  : Nat
  lost   : Nat
  body   : List Byte
  deriving DecidableEq, Repr

/-- A message or packet that a queue pair has to send or has sent without its acknowledgement. -/
structure OutMsg where
  psn   : Nat
  kind  : Nat                              -- 0 SEND, 1 RDMA WRITE, 2 RDMA READ, 3 WRITE with immediate, 4 digest list
  addr  : Nat := 0
  rkey  : Nat := 0
  imm   : Nat := 0
  data  : List Byte := []
  len   : Nat := 0
  job   : Nat := 0                         -- mailbox command, bucket or peer it belongs to
  closes : Nat := 0                        -- closes of its bucket when it was sent
  deriving DecidableEq, Repr

/-- What a queue pair's port has to put on the wire: the packets of a message, first sent or sent again, a mailbox message, an answer, a read
response, a CNP. -/
inductive Tx
  | request (psn n : Nat)
  | again (n : Nat)
  | mail (m : Sent) (psn n : Nat)
  | answer (psn code : Nat)
  | reply (data : List Byte)
  | cnp
  deriving DecidableEq, Repr

/-- A queue pair (R370, R371, R374, R379). -/
structure Qp where
  owner   : Nat := 64                      -- PartID, or 64 for the device
  mbx     : Bool := false
  lport   : Nat := 0
  mtu     : Nat := 5
  retry   : Nat := 7
  rnr     : Nat := 7
  timeout : Nat := 14
  remote  : Nat := 0
  remoteIp : Nat := 0
  reads   : Nat := 16
  error   : Bool := false
  ePsn    : Nat := 0
  sPsn    : Nat := 0
  outstanding : List OutMsg := []
  retries : Nat := 0
  rnrTries : Nat := 0
  sentAt  : Nat := 0
  rnrWait : Bool := false
  udp     : Nat := 0                       -- UDP source port
  rate    : Nat := 65536                   -- in 1/65,536 of the line rate
  quiet   : Nat := 0
  cnpSent : Nat := 0
  quietFrom : Nat := 0                     -- start of the 55 µs in hand without a CNP (R374)
  txq     : List Tx := []                  -- what a pause or the end of the packet numbers holds back, oldest first (R366, R367)
  later   : List (OutMsg × Option Sent) := [] -- messages behind a READ that the limit of reads in flight holds (R370)
  filled  : Nat := 0                       -- receive buffers of a mailbox pair in use (R380)
  outTag  : Option Nat := none             -- VLAN tag, PCP included, of the packets sent (R363)
  outEcn  : Nat := 2                       -- ECN field of the packets sent: ECT(0) (R374)
  recvs   : List (Nat × Nat × Nat × Nat × Nat) := []  -- address, length, notify core, SyncID, add
  msgNo   : Nat := 0
  partial_ : List Byte := []               -- a message of several packets, so far
  subs    : BitVec 64 := 0                 -- SUBSCRIBE set
  events  : List Sent := []                -- unsent events, oldest first
  evNo    : Nat := 0
  lost    : Nat := 0
  busyTill : Nat := 0
  acks    : List (Nat × Nat) := []         -- answers sent: PSN, 0 ACK, 1 RNR NAK, 2 remote-access NAK, 3 invalid-request NAK
  reply   : List (List Byte) := []         -- RDMA READ responses sent
  cnps    : Nat := 0
  deriving DecidableEq, Repr

/-- A memory region (R370, R416). -/
structure Region where
  owner  : Nat
  addr   : Nat
  len    : Nat
  access : Nat
  tag    : Nat
  deriving DecidableEq, Repr

/-- An outstanding mailbox command (R384, R391): the request, its opcode, and the host content it waits for. -/
structure Cmd where
  op      : Nat
  m       : Mbx
  since   : Nat
  started : Bool
  fetched : List (List Byte) := []          -- host buffers read so far
  want    : Nat := 0                        -- bytes still to come of the buffer in hand
  stage   : Nat := 0                        -- 0 reading from the host, 1 waiting for what ends it, 2 content complete
  deriving DecidableEq, Repr

/-! ## Power (R469 to R481) -/

/-- Power state, grant and clamps of a cluster (R470, R471). At reset PWR_CLAMP reads zero (R479); boot stage 6 gives the nominal
grant. -/
structure Pow where
  mode    : Nat := 0                       -- 0 ACTIVE, 1 IDLE, 2 SLEEP, 3 OFF
  grant   : Nat := 0
  target  : Nat := 0
  pacing  : Nat := 1
  lend    : Bool := false
  kind    : Nat := 0
  clamps  : Nat := 0
  hot     : Bool := false
  hotTemp : Int := 0
  tclamp  : Bool := false
  vclamp  : Bool := false
  own     : Nat := 0                       -- grant to which a lender is restored
  stepAt  : Nat := 0                       -- fabric time of the last thermal step
  waking  : Bool := false
  deriving DecidableEq, Repr

/-! ## The Islon meter (R439 to R467) -/

/-- An audit entry (R461). -/
structure Audit where
  seq  : Nat
  code : Nat
  time : Nat
  old  : Nat
  new  : Nat
  chain : BitVec 256
  deriving DecidableEq, Repr

/-- Accumulators of one partition line or of the overhead account in the open interval: energy in units of 10^-12 J. -/
structure Line where
  energy : Nat := 0
  cycles : Nat := 0
  time   : Nat := 0
  began  : Bool := false
  ended  : Bool := false
  stale  : Bool := false
  inUse  : Bool := false                   -- the PartID has had a session in the interval
  deriving DecidableEq, Repr

/-- A group's accumulators in the open interval (R446, R457). -/
structure Group where
  energy : Nat := 0
  volts  : Nat := 0
  amps   : Nat := 0
  vmin   : Nat := 65535
  imax   : Nat := 0
  sample : Nat := 0                        -- energy since the last tap frame
  sense  : Bool := false                   -- the sense fault as it stands
  sensed : Bool := false                   -- a sense fault within the interval
  above  : Bool := false
  low    : Bool := true
  deriving DecidableEq, Repr

/-- What the meter last read of a cluster (R448, R451). -/
structure Tap where
  charge : Nat := 0
  cycles : Nat := 0
  sounding : Nat := 0
  label  : Nat := 0
  gainNum : Nat := 1
  gainDen : Nat := 1
  ampl   : Nat := 0                        -- Ballast amplitude at the shunt, in units of 10 µA
  renewed : Nat := 0
  stale  : Bool := false
  ballast : Bool := false                  -- the load is enabled in this chip
  next   : Bool := false                   -- what the last good Ballast frame asks for the next chip
  onAcc  : Nat := 0                        -- µs enabled since the last tap frame, up to onFrom
  onFrom : Nat := 0
  deriving DecidableEq, Repr

/-- The meter (R439). -/
structure Meter where
  powered  : Bool := false
  measuring : Bool := false
  selfOk   : Bool := false
  clkFault : Bool := false
  tapFault : Bool := false
  cfgN     : Bool := true                  -- level of MTR_CFG_N
  interval : Nat := 60
  nextInterval : Option Nat := none
  time     : Nat := 0                      -- µs since 1970
  up       : Nat := 0                      -- µs of METER_CLK counted since power-on
  opened   : Bool := false                 -- a record is open
  shown    : Nat := 0                      -- MTR_TOTAL as last updated, in µJ
  total    : Nat := 0                      -- 10^-12 J since manufacture
  last     : Option Nat := none            -- MTR_LAST
  number   : Nat := 0                      -- number of the open record
  start    : Nat := 0
  shortened : Bool := false
  gap      : Bool := false
  changed  : Bool := false
  tapFlag  : Bool := false
  calFlag  : Bool := false
  groups   : Tbl Group := []
  lines    : Tbl Line := []                -- PartID, or 64 for the overhead account
  sessions : Tbl Nat := []
  taps     : Tbl Tap := []
  tapLast  : Tbl Nat := []                 -- `up` at each die's last good frame
  tapSeen  : Tbl Bool := []
  hbmBytes : Tbl Nat := []                 -- key 65 × die stack index + PartID
  hbmRecent : List (Nat × Nat × Nat) := [] -- bytes moved in the latest millisecond: `up`, PartID or 64, bytes
  chip     : Nat := 0
  lfsr     : Nat := 1                      -- the Ballast sequence as an element of GF(2)[x] mod x^15 + x^14 + 1
  frames   : Tbl Nat := []                 -- the last Ballast frame sent to each die
  audit    : List Audit := []
  auditSig : List Byte := []
  sealFuse : Bool := true
  breakFuse : Bool := false
  cause    : Nat := 0
  fwid     : BitVec 256 := 0
  fwArea   : List Byte := []               -- the sealed firmware area (R439)
  fwBad    : Bool := false                 -- the digest of the firmware failed in the last boot (R464)
  calBad   : Bool := false                 -- that of the calibration constants failed
  fwWin    : Tbl Byte := []
  records  : Tbl (List Byte) := []         -- record slots 0 to 207
  chains   : Tbl (BitVec 256) := []        -- c_N by N mod 512
  chain    : BitVec 256 := 0               -- c of the last record closed
  sigs     : Tbl (List Byte) := []         -- signature slots
  closing  : List Nat := []                -- records closed and not yet named by MTR_LAST
  committed : Nat := 0                     -- `up` at the last commit
  mramLines : Tbl Line := []               -- accumulators as last committed
  mramGroups : Tbl Group := []
  mramTotal : Nat := 0
  mramTime : Nat := 0
  deriving DecidableEq, Repr

/-! ## Firmware, life cycle, boot (R421 to R433, R482 to R495) -/

/-- A stage report (R484). -/
structure Report where
  stage    : Nat
  status   : Nat
  boot     : Nat
  duration : Nat
  failed   : Nat
  count    : Nat
  detail   : Nat
  time     : Nat
  deriving DecidableEq, Repr

/-- The flash and fuse state of the hub (R421 to R430, R509). -/
structure Flash where
  lc       : BitVec 8 := 0b00000011        -- LC[7:0]: PROVISION, in which the first steward key is installed
  rbOuvos  : Nat := 0
  rbUcode  : Nat := 0
  slotA    : List Byte := []
  slotB    : List Byte := []
  active   : Nat := 0
  pending  : Option Nat := none
  tries    : Nat := 0
  transition : Option Nat := none
  steward  : Option (List Byte) := none
  idSeed   : BitVec 256 := 0               -- ID_SEED, fused at manufacture (R430)
  stewardTag : List Byte := []             -- KMAC128 tag of the steward key under the storage key (R430)
  seqFloor : Nat := 0
  fwKey    : BitVec 256 := 0
  serial   : List Byte := []
  fused    : List Spoil := []
  soft     : List Spoil := []
  areaA    : Generation := {}              -- the two areas of the Scree region (R339)
  areaB    : Generation := {}
  dumps    : Tbl Dump := []
  dumpNext : Nat := 0
  plan     : List (Nat × Nat × Nat) := []  -- self-test plan: phase, test, unit number; one entry per slice
  planDone : List Nat := []                -- slices with their done bit
  results  : List (Nat × Nat × Nat × Nat × Nat × Nat) := []
  planDigest : Option (BitVec 256) := none -- the digest that completes the progress record (R333)
  portModes : Tbl Nat := []
  devEntries : Tbl (Option AddrEntry) := []
  ptp      : Option (Nat × Nat) := none
  windows  : List (Nat × Nat) := []        -- escalation windows, copied
  bootLog  : List Report := []
  boots    : Nat := 0
  deriving DecidableEq, Repr

/-- The slot booted and the verified copy of its image in hub SRAM (R425). -/
structure Booted where
  slot  : Nat := 0
  image : List Byte := []
  deriving DecidableEq, Repr

/-- Which part of the boot the device is in. -/
inductive BootPhase where
  | unpowered | held | stage (n : Nat) | stopped (n : Nat) | service | scrap
  deriving DecidableEq, Repr

/-! ## The whole block -/

/-- The state of a CM7 and the queue of the commands that wait. -/
structure State where
  product  : Product := .cm74m
  fab      : Nat := 0                      -- fabric cycles since the always-on domain's power-on
  idKey    : BitVec 256 := 0               -- seed of the device identity that this boot has generated (R430)
  storageKey : BitVec 256 := 0             -- as this boot has derived it (R430)
  meterUnread : Bool := false              -- the meter gave no answer in boot stage 3 (R485)
  timeBase : Int := 0                      -- device time in ns at fab = 0
  freeSeq  : Nat := 0                      -- the model's own: uses of free values so far
  boot     : BootPhase := .unpowered
  bootFull : Bool := false                 -- the full self-test was asked for (R400)
  bootFrom : Nat := 0
  report   : Option Report := none         -- TST_BOOT_REPORT
  bootLog  : List Report := []             -- in retained hub SRAM
  ibis     : List Nat := []                -- in-band interrupts raised on the board-management bus
  i3cAddr  : Nat := 0x50
  fw       : Booted := {}
  service  : Nat := 0                      -- service code (R401)
  ouvosUp  : Bool := false
  loadMode : Bool := false
  flockNo  : Nat := 0
  refclk   : Bool := false
  cores    : Tbl Core := []
  atMs     : Tbl Core := []                -- the cores as they stood at the last whole millisecond of device time (R435)
  fence    : Tbl W64 := []                 -- CORE_FENCE
  cluFence : Tbl W64 := []                 -- CORE_CLU_FENCE
  shift    : Tbl (BitVec 8) := []          -- VN_SHIFT
  switches : Tbl Switch := []
  slices   : Tbl Slice := []
  routers  : Tbl Router := []
  ends     : Tbl Endpoint := []
  landing  : Tbl Nat := []                 -- Ox landing credits in use, by link end
  dies     : Tbl Die := []
  parts    : Tbl (Option Part) := []
  reusable : Tbl Nat := []                 -- fabric time at which a PartID's last cluster left it (R443)
  buckets  : Tbl Bucket := []
  hbm      : Tier := {}
  ddr      : Tier := {}
  ddrSpeed : Nat := 0
  ddrDimms : Nat := 0
  ddrGib   : Nat := 0
  spares   : Tbl Nat := []                 -- spare rows used, by memory bank
  links    : Tbl Nat := []                 -- spare lanes used, by link
  halfLinks : List Nat := []
  fused    : List Spoil := []              -- Spoil map as held in retained hub SRAM
  soft     : List Spoil := []
  scree    : Tbl Scree := []               -- live records, by kind × 2^48 + unit
  history  : Tbl (List (Nat × Nat)) := []  -- charged events of units that have no Scree record (R335), by the same key, newest first
  charged  : List (Nat × Nat × Nat) := []  -- resets charged: unit key, device time in ns, domain (R357)
  dumps    : Tbl Dump := []                -- the two retained dumps
  skipped  : Nat := 0
  sweepMin : Nat := 15
  sweep    : List Nat := []                -- cores still to be sounded in this sweep
  sounding : List CoreTest := []           -- the cores under test
  sweepFrom : Option Nat := none           -- device time in ns at which the sweep in hand began (R326)
  sweepSize : Nat := 0                     -- cores of that sweep
  sweepOut : List Nat := []                -- cores it has taken whose withdrawal or test is not over
  unsounded : Nat := 0xFFFF
  missed   : Nat := 0                      -- cores that the sweep in hand has left unsounded
  tapCount : Tbl TapCount := []            -- the data plane's tap counters by cluster (R24, R448)
  hbmMoved : Tbl Nat := []                 -- HBM4 bytes moved: key 65 × stack + PartID, or + 64 for no partition
  tapTurn  : Tbl Nat := []                 -- the HBM4 counter that a die's next tap frame carries
  genAt    : Nat := 0
  portMode : Tbl Nat := []
  modePend : Tbl (Option Nat) := []        -- mode changes answered and not yet carried out
  resetPend : Option Nat := none           -- a device reset answered and not yet begun: 1 for REINSTATE's, else 0
  lports   : Tbl LPort := []
  neigh    : Tbl (Option (Nat × Nat)) := [] -- IP: MAC, time of the last refresh
  netOut   : List (Nat × Option Nat × List Byte) := [] -- frames sent: logical port, VLAN tag with its PCP, content; newest last
  ptpPort  : Option (Nat × Nat) := none
  ptpHeard : Nat := 0
  ptpFree  : Bool := true
  ptpSync  : Option (Nat × Nat) := none    -- sequence number and ingress time of a Sync awaiting its Follow_Up
  ptpDelay : Option Int := none            -- mean path delay as last measured
  ptpReq   : Option (Nat × Nat × Int) := none -- a Delay_Req sent: sequence number, egress time, path delay assumed
  stamps   : List (Nat × Nat) := []        -- event-message timestamps taken: sequence number, ns
  qps      : Tbl (Option Qp) := []
  regions  : Tbl (Option Region) := []
  cmds     : List Cmd := []                -- outstanding commands, oldest first
  sent     : List Sent := []               -- responses and events sent, newest last
  seqHigh  : Nat := 0                      -- H (R387)
  seqSeen  : List Nat := []                -- numbers admitted from H − 1,023 to H
  seqFlash : Nat := 0                      -- admissions since H was written to flash
  power    : Tbl Pow := []
  pwrLimit : W64 := 1500                   -- PWR_LIMIT
  pwrRefused : Bool := false
  hbmPace  : Nat := 16
  stackPace : Tbl Nat := []
  brake    : Bool := false
  temps    : Tbl Int := []
  restoredAt : Nat := 0                    -- when the power manager restored a step last (R475)
  turn     : Nat := 63                     -- partition whose command Ouvos advanced last (R396)
  outBefore : Nat := 0                     -- the out-of-service code that a shutdown has covered (R358)
  binAt    : Option Nat := none            -- second of device time in which the Scree log was last binned (R338)
  trip     : Bool := false
  resetLow : Bool := false                 -- SYS_RST_N held low
  flash    : Flash := {}
  meter    : Meter := {}
  jtagOut  : List Bool := []               -- the last value shifted out on TDO
  pending  : List Instr := []
  deriving DecidableEq, Repr

/-- The device right after reset: no stage of the boot has begun, every pool stands at its full free count (R41), the
tables are as before boot stage 1 (R303), and no command waits. -/
def State.reset : State := {}

end Sys2Proof.Machine
end

