-- ==== Sys2Proof/Machine/Table.lean ====
section
/-! DEFINITION. Reading and writing the sparse tables of State. A table is a list of (key, value) pairs in ONE
canonical form: keys strictly rising, and no entry equal to what an absent key reads as (the default `d`). -/

namespace Sys2Proof.Machine

/-- What key `k` reads as; `d` where the table lists nothing. -/
def tget {α : Type} (d : α) : Tbl α → Nat → α
  | [], _ => d
  | (j, v) :: r, k => if j = k then v else tget d r k

/-- The table without key `k`. -/
def terase {α : Type} : Tbl α → Nat → Tbl α
  | [], _ => []
  | (j, v) :: r, k => if j = k then terase r k else (j, v) :: terase r k

/-- The table with key `k` holding `v`, kept in rising order. -/
def tput {α : Type} : Tbl α → Nat → α → Tbl α
  | [], k, v => [(k, v)]
  | (j, w) :: r, k, v => if j = k then (k, v) :: r else if k < j then (k, v) :: (j, w) :: r else (j, w) :: tput r k v

/-- Write `v` at key `k`; writing the default removes the entry, so that equal tables are equal data. -/
def tset {α : Type} [DecidableEq α] (d : α) (t : Tbl α) (k : Nat) (v : α) : Tbl α :=
  if v = d then terase t k else tput t k v

/-- Change what key `k` holds by `f`. -/
def tmod {α : Type} [DecidableEq α] (d : α) (t : Tbl α) (k : Nat) (f : α → α) : Tbl α :=
  tset d t k (f (tget d t k))

/-- Keys rise strictly. -/
def trising {α : Type} : Tbl α → Bool
  | [] => true
  | [_] => true
  | (i, _) :: (j, w) :: r => decide (i < j) && trising ((j, w) :: r)

/-- The canonical form of a table with default `d`. -/
def Memory.wf {α : Type} [DecidableEq α] (d : α) (t : Tbl α) : Bool :=
  trising t && t.all (fun e => decide (e.2 ≠ d))

/-- The `n` bytes from address `a` upward. -/
def readBytes (m : Tbl Byte) (a : Nat) : Nat → List Byte
  | 0 => []
  | n + 1 => tget 0 m a :: readBytes m (a + 1) n

/-- Write a list of bytes from address `a` upward. -/
def writeBytes (m : Tbl Byte) (a : Nat) : List Byte → Tbl Byte
  | [] => m
  | b :: r => writeBytes (tset 0 m a b) (a + 1) r

/-- Every byte of `n` from `a` upward set to zero. -/
def clearBytes (m : Tbl Byte) (a n : Nat) : Tbl Byte :=
  m.filter (fun e => decide (e.1 < a ∨ a + n ≤ e.1))

end Sys2Proof.Machine
end

