-- ==== Sys2Proof/Machine/Address.lean ====
section
/-! DEFINITION. Units, numbering and placement: which units exist (R2, R15), home positions and shifts (R16 to R18,
R194), clusters and partitions (R31), and the translation of partition addresses (R30, R32 to R34, R227). -/

namespace Sys2Proof.Machine

/-- Compute dies of the product (R2, R5). -/
def dieCount : Product → Nat
  | .cm74m => 4 | .cm74u => 4 | .cm72m => 2 | .cm72u => 2

/-- An M variant (R2). -/
def metered : Product → Bool
  | .cm74m => true | .cm74u => false | .cm72m => true | .cm72u => false

/-- The die exists. -/
def dieOk (s : State) (d : Nat) : Bool := decide (d < dieCount s.product)

/-- The physical core, switch or router exists: die, row 0 to 15, column 0 to 35 (R8, R15). -/
def coreOk (s : State) (p : Nat) : Bool := decide (p / 1024 < dieCount s.product ∧ p % 64 < 36)

/-- The cluster exists. -/
def cluOk (s : State) (c : Nat) : Bool := decide (c / 16 < dieCount s.product)

/-- The row segment exists (key 64 × die + 4 × row + k). -/
def segOk (s : State) (g : Nat) : Bool := decide (g / 64 < dieCount s.product)

/-- An endpoint position names an endpoint of the product (R200). -/
def posOk (s : State) (x : Nat) : Bool :=
  decide (x / 1024 < dieCount s.product ∧
    (x % 64 < 36 ∨ (48 ≤ x % 64 ∧ x % 64 < 52 ∧ x / 64 % 16 = 0)))

/-- Die, row and column of a 12-bit code. -/
def dieOf (p : Nat) : Nat := p / 1024
def rowIx (p : Nat) : Nat := p / 64 % 16
def colIx (p : Nat) : Nat := p % 64

/-- Key of the cluster at a die, row and cluster column (R18). -/
def cluAt (d r k : Nat) : Nat := 16 * d + 4 * (r / 4) + k

/-- Cluster of a physical core. -/
def cluOfPhys (p : Nat) : Nat := cluAt (dieOf p) (rowIx p) (colIx p / 9)

/-- Cluster of a logical core or of the slice position of a segment. -/
def cluOfLog (l : Nat) : Nat := cluAt (dieOf l) (rowIx l) (colIx l / 8)

/-- Row segment of a physical column and of a logical position. -/
def segOfPhys (p : Nat) : Nat := 64 * dieOf p + 4 * rowIx p + colIx p / 9
def segOfLog (l : Nat) : Nat := 64 * dieOf l + 4 * rowIx l + colIx l / 8

/-- Home switch of a logical position (R16). -/
def homeOf (l : Nat) : Nat := 1024 * dieOf l + 64 * rowIx l + 9 * (colIx l / 8) + colIx l % 8

/-- Physical core that serves a logical position (R194). -/
def servedBy (s : State) (l : Nat) : Nat :=
  homeOf l + if bit (tget (0 : BitVec 8) s.shift (segOfLog l)) (colIx l % 8) then 1 else 0

/-- Logical position that a physical core serves, if any. -/
def logOf (s : State) (p : Nat) : Option Nat :=
  let sh := tget (0 : BitVec 8) s.shift (segOfPhys p)
  let k := colIx p / 9
  let j := colIx p % 9
  let base := 1024 * dieOf p + 64 * rowIx p + 8 * k
  if j < 8 ∧ bit sh j = false then some (base + j)
  else if 1 ≤ j ∧ bit sh (j - 1) then some (base + (j - 1))
  else none

/-- State field of CORE_CLU_FENCE (R303). -/
def cluState (s : State) (c : Nat) : Nat := fld (tget (0 : W64) s.cluFence c) 1 0

/-- Partition that a cluster serves. -/
def partOfCluster (s : State) (c : Nat) : Option Nat :=
  if cluState s c = 1 then some (fld (tget (0 : W64) s.cluFence c) 7 2) else none

/-- The partition of an identifier. -/
def getPart (s : State) (p : Nat) : Option Part := tget none s.parts p

/-- Write a partition. -/
def setPart (s : State) (p : Nat) (v : Option Part) : State := { s with parts := tset none s.parts p v }

/-- Change a partition where it exists. -/
def modPart (s : State) (p : Nat) (f : Part → Part) : State := { s with parts := tmod none s.parts p (Option.map f) }

/-- Position of a value in a list. -/
def indexIn (l : List Nat) (v : Nat) : Option Nat := l.findIdx? (fun x => x == v)

/-- Number of cores that a partition addresses (R30). -/
def coresOf (pt : Part) : Nat := 32 * pt.clusters.length

/-- Logical core of a partition core index (R32). -/
def logAt (pt : Part) (n : Nat) : Nat :=
  let c := pt.clusters.getD (n / 32) 0
  1024 * (c / 16) + 64 * (4 * (c % 16 / 4) + n % 32 / 8) + 8 * (c % 4) + n % 8

/-- Physical core of a partition core index. -/
def physAt (s : State) (pt : Part) (n : Nat) : Nat := servedBy s (logAt pt n)

/-- Partition and partition core index of a logical position. -/
def indexOfLog (s : State) (l : Nat) : Option (Nat × Nat) :=
  match partOfCluster s (cluOfLog l) with
  | none => none
  | some p =>
    match getPart s p with
    | none => none
    | some pt => (indexIn pt.clusters (cluOfLog l)).map (fun i => (p, 32 * i + 8 * (rowIx l % 4) + colIx l % 8))

/-- Partition and partition core index of a physical core. -/
def indexOf (s : State) (p : Nat) : Option (Nat × Nat) := (logOf s p).bind (indexOfLog s)

/-- Physical cores of a partition in ascending index. -/
def partCores (s : State) (pt : Part) : List Nat := (List.range (coresOf pt)).map (physAt s pt)

/-- All physical cores of a cluster: 4 rows of 9 columns. -/
def clusterPhys (c : Nat) : List Nat :=
  (List.range 36).map (fun i =>
    1024 * (c / 16) + 64 * (4 * (c % 16 / 4) + i / 9) + 9 * (c % 4) + i % 9)

/-! ### Partition addresses -/

/-- Where an access goes: the endpoint's position and its byte address there (R200, R227). -/
structure Dest where
  pos  : Nat
  addr : Nat
  deriving DecidableEq, Repr

/-- Base and last 64 KiB unit, target and permissions of a window (R34). -/
def winHas (w : BitVec 128) (u : Nat) : Bool :=
  bit w 98 && decide (fld w 31 0 ≤ u ∧ u ≤ fld w 63 32)

/-- The window in force over a 64 KiB unit. -/
def winFor (pt : Part) (u : Nat) : Option (BitVec 128) :=
  (pt.windows.find? (fun e => winHas e.2 u)).map (·.2)

/-- End of the stretch of accessible bytes that begins at `a`; `a` itself where the byte is not accessible (R30, R36).
Writes need `wr`, reads `rd`. -/
def reachEnd (pt : Part) (wr : Bool) (a : Nat) : Nat :=
  let c := pt.clusters.length
  if a < 2 ^ 32 then (if a < 2 ^ 26 * c then 2 ^ 26 * c else a)
  else if a < 2 ^ 36 then (if a < 2 ^ 32 + 2 ^ 24 * c then 2 ^ 32 + 2 ^ 24 * c else a)
  else if a < 2 ^ 48 then
    match winFor pt (a / 65536) with
    | none => a
    | some w => if bit w (if wr then 97 else 96) then (fld w 63 32 + 1) * 65536 else a
  else a

/-- First byte of `n` from `a` that is not accessible; `fuel` bounds the stretches passed (64 windows and 2 regions). -/
def firstBadGo (pt : Part) (wr : Bool) : Nat → Nat → Nat → Option Nat
  | 0, a, n => if n = 0 then none else some a
  | k + 1, a, n =>
    if n = 0 then none
    else
      let e := reachEnd pt wr a
      if e ≤ a then some a
      else if a + n ≤ e then none
      else firstBadGo pt wr k e (n - (e - a))

/-- First byte of an extent that fails the check of R36. -/
def firstBad (pt : Part) (wr : Bool) (a n : Nat) : Option Nat := firstBadGo pt wr 68 a n

/-- Slice key and byte offset of an offset in the shared region (R33). -/
def slicePlace (pt : Part) (o : Nat) : Nat × Nat :=
  let n := 4 * pt.clusters.length
  let k := o / 256 % n
  (4 * pt.clusters.getD (k / 4) 0 + k % 4, o / (256 * n) * 256 + o % 256)

/-- Endpoint position of a slice (R200). -/
def slicePos (key : Nat) : Nat :=
  let c := key / 4
  1024 * (c / 16) + 64 * (4 * (c % 16 / 4) + key % 4) + 32 + c % 4

/-- Slice key of a position with column code 32 to 35. -/
def sliceOfPos (x : Nat) : Nat := 4 * cluAt (dieOf x) (rowIx x) (x % 64 - 32) + rowIx x % 4

/-- Where an accessible byte lies, seen from a die (R32 to R34, R227). -/
def placeOf (pt : Part) (die a : Nat) : Dest :=
  if a < 2 ^ 32 then ⟨logAt pt (a / 2 ^ 21), a % 2 ^ 21⟩
  else if a < 2 ^ 36 then
    let (k, o) := slicePlace pt (a - 2 ^ 32)
    ⟨slicePos k, o⟩
  else
    let t := match winFor pt (a / 65536) with
      | none => 0
      | some w => (fld w 95 64 + (a / 65536 - fld w 31 0)) * 65536 + a % 65536
    if a < 2 ^ 40 then ⟨1024 * (t / 2 ^ 37) + 48 + t / 2 ^ 36 % 2, t⟩
    else if a < 2 ^ 43 then ⟨1024 * die + 50, t⟩
    else ⟨1024 * die + 50, 2 ^ 46 + t⟩

/-- Length of the piece at `a`, at most `n`: it ends at 4 KiB, and at 256 bytes in the shared region (R226). -/
def pieceLen (a n : Nat) : Nat :=
  let g := if 2 ^ 32 ≤ a ∧ a < 2 ^ 36 then 256 else 4096
  min n (g - a % g)

/-- Whether an address lies in the shared region. -/
def inShared (a : Nat) : Bool := decide (2 ^ 32 ≤ a ∧ a < 2 ^ 36)

end Sys2Proof.Machine
end

