-- ==== Sys2Proof/Machine/Ops.lean ====
section
/-! DEFINITION. The named operations that the meanings share: units and time, the fault-event rings (R28, R70, R296),
traps (R69), sync counters (R60 to R63), memories (R145 to R148, R234, R252, R253, R516), cells (R198, R199). -/

namespace Sys2Proof.Machine

/-- What a meaning answers. -/
abbrev Out := Host.Outcome State Fault Refusal

/-- Answer a next state where the unit exists, a fault by name where it does not. -/
def onUnit (ok : Bool) (s : State) : Out := if ok then .next s else .fault .absentUnit

/-! ### Access to parts of the state -/

def getCore (s : State) (p : Nat) : Core := tget {} s.cores p
def setCore (s : State) (p : Nat) (c : Core) : State := { s with cores := tset {} s.cores p c }
def modCore (s : State) (p : Nat) (f : Core → Core) : State := setCore s p (f (getCore s p))
def getThread (c : Core) (t : Nat) : Thread := tget {} c.threads t
def setThread (c : Core) (t : Nat) (v : Thread) : Core := { c with threads := tset {} c.threads t v }
def modThread (c : Core) (t : Nat) (f : Thread → Thread) : Core := setThread c t (f (getThread c t))
def getDie (s : State) (d : Nat) : Die := tget {} s.dies d
def setDie (s : State) (d : Nat) (v : Die) : State := { s with dies := tset {} s.dies d v }
def modDie (s : State) (d : Nat) (f : Die → Die) : State := setDie s d (f (getDie s d))
def getEnd (s : State) (x : Nat) : Endpoint := tget {} s.ends x
def setEnd (s : State) (x : Nat) (e : Endpoint) : State := { s with ends := tset {} s.ends x e }
def modEnd (s : State) (x : Nat) (f : Endpoint → Endpoint) : State := setEnd s x (f (getEnd s x))
def getSlice (s : State) (k : Nat) : Slice := tget {} s.slices k
def setSlice (s : State) (k : Nat) (v : Slice) : State := { s with slices := tset {} s.slices k v }
def modSlice (s : State) (k : Nat) (f : Slice → Slice) : State := setSlice s k (f (getSlice s k))
def getSwitch (s : State) (p : Nat) : Switch := tget {} s.switches p
def setSwitch (s : State) (p : Nat) (w : Switch) : State := { s with switches := tset {} s.switches p w }
def modSwitch (s : State) (p : Nat) (f : Switch → Switch) : State := setSwitch s p (f (getSwitch s p))
def getTag (c : Core) (t : Nat) : Option DmaOp := tget none c.tags t
def setTag (c : Core) (t : Nat) (o : Option DmaOp) : Core := { c with tags := tset none c.tags t o }
def getBucket (s : State) (t : Nat) : Bucket := tget {} s.buckets t
def setBucket (s : State) (t : Nat) (b : Bucket) : State := { s with buckets := tset {} s.buckets t b }
def modBucket (s : State) (t : Nat) (f : Bucket → Bucket) : State := setBucket s t (f (getBucket s t))

/-! ### Time -/

/-- Device time in nanoseconds: 1.8 fabric cycles each. -/
def devNs (s : State) : Nat := (s.timeBase + (s.fab * 5 / 9 : Nat)).toNat

/-- Fabric cycles of a number of microseconds. -/
def usCycles (us : Nat) : Nat := us * 1800

/-- Fabric time of a core, which stands still while the core is frozen (R304). -/
def coreNow (s : State) (c : Core) : Nat :=
  s.fab - c.frozenAcc - (match c.frozenAt with | none => 0 | some f => s.fab - f)

/-- The core is frozen. -/
def isFrozen (c : Core) : Bool := c.frozenAt.isSome

/-- State of CORE_FENCE (R303). -/
def fenceState (s : State) (p : Nat) : Nat := fld (tget (0 : W64) s.fence p) 2 0

/-! ### Grants and lending (R472 to R479) -/

def getPow (s : State) (c : Nat) : Pow := tget {} s.power c
def setPow (s : State) (c : Nat) (v : Pow) : State := { s with power := tset {} s.power c v }
def modPow (s : State) (c : Nat) (f : Pow → Pow) : State := setPow s c (f (getPow s c))

/-- Clusters of the device. -/
def allClusters (s : State) : List Nat := List.range (16 * dieCount s.product)

/-- Clock of a grant in MHz (R471). -/
def clockOf (g : Nat) : Nat := 600 + 25 * g

/-- Neighbours of a cluster on its die (R479). -/
def neighbours (c : Nat) : List Nat :=
  let i := c % 16
  (if i % 4 = 0 then [] else [c - 1]) ++ (if i % 4 = 3 then [] else [c + 1]) ++
  (if i / 4 = 0 then [] else [c - 4]) ++ (if i / 4 = 3 then [] else [c + 4])

/-- Neighbours that are ACTIVE or IDLE. -/
def awakeBeside (s : State) (c : Nat) : List Nat := (neighbours c).filter (fun n => decide ((getPow s n).mode ≤ 1))

/-- The cluster may take a further 25 MHz step: no grant above twice that of a neighbour (R479). -/
def mayRaise (s : State) (c : Nat) : Bool :=
  let w := getPow s c
  decide (w.target < 72) && (awakeBeside s c).all (fun n => decide (clockOf (w.target + 1) ≤ 2 * clockOf (getPow s n).target))

/-- The cluster may be lowered a step: no grant below half that of a neighbour (R479). -/
def mayLower (s : State) (c : Nat) : Bool :=
  let w := getPow s c
  decide (0 < w.target) && (awakeBeside s c).all (fun n => decide (clockOf (getPow s n).target ≤ 2 * clockOf (w.target - 1)))

/-- The cluster's loaded schedule uses the vector network (R473). -/
def usesVn (s : State) (c : Nat) : Bool := (clusterPhys c).any (fun x => !(getSwitch s x).vn.isEmpty)

/-- Floor of a cluster as a grant: 1.2 GHz or 0.6 GHz (R473). -/
def floorOf (s : State) (c : Nat) : Nat := if usesVn s c then 24 else 0

/-- Clusters below their floor are raised to it (R184). -/
def raiseFloors (s : State) (cs : List Nat) : State :=
  cs.foldl (fun s c => modPow s c (fun w => { w with target := max w.target (floorOf s c), own := max w.own (floorOf s c) })) s

/-- Smallest grant whose clock is at least half another's, and the largest whose clock is at most twice it (R479). -/
def halfGrant (g : Nat) : Nat := (clockOf g / 2 - 600 + 24) / 25
def twiceGrant (g : Nat) : Nat := min 72 ((2 * clockOf g - 600) / 25)

/-- A grant brought within the floor and the ratio to the neighbours that are awake (R473, R479). -/
def fitGrant (s : State) (c g : Nat) : Nat :=
  let near := (awakeBeside s c).map (fun n => (getPow s n).target)
  let low := near.foldl (fun m n => max m (halfGrant n)) (floorOf s c)
  max low (near.foldl (fun m n => min m (twiceGrant n)) g)

/-- A cluster becomes ACTIVE (R470), at its floor with pacing 8 while the brake is held (R477). -/
def awaken (s : State) (c : Nat) : State :=
  let w := getPow s c
  let g := fitGrant s c (if s.brake then floorOf s c else w.target)
  setPow s c { w with mode := 0, waking := false, target := g, pacing := if s.brake then min w.pacing 8 else w.pacing }

/-- A cluster whose budget is lent (R478): by its flag, by its power state, or because it serves no partition. -/
def lends (s : State) (c : Nat) : Bool :=
  let w := getPow s c
  w.lend || decide (w.mode ≠ 0) || decide (fld (tget (0 : W64) s.cluFence c) 1 0 ≠ 1)

/-- The cluster can take lent budget. -/
def borrows (s : State) (c : Nat) : Bool :=
  let w := getPow s c
  decide (w.mode = 0) && !w.lend && !w.hot && !w.tclamp && decide (w.hotTemp ≤ 100) && mayRaise s c

/-- One round: every recipient that can takes a step. -/
def lendRound (s : State) : State :=
  ((allClusters s).filter (borrows s)).foldl (fun s c => if mayRaise s c then modPow s c (fun w => { w with target := w.target + 1 }) else s) s

/-- Share lent budget (R478): every borrower starts from 2.1 GHz. How many rounds the budget pays depends on measured draws,
which the manual leaves to the part's telemetry: a free value. None is given while the brake is held (R477). -/
def shareLent (s : State) : State :=
  let s1 := (allClusters s).foldl (fun s c => modPow s c (fun w => { w with target := min w.target 60 })) s
  if !s.brake && (allClusters s).any (lends s) then
    (List.range (min 12 (Config.freeValue s.freeSeq 0))).foldl (fun s _ => lendRound s) { s1 with freeSeq := s.freeSeq + 1 }
  else s1

/-- The lend flag of a core's cluster clears (R72); the lender's grant is restored (R73, R478). -/
def unlend (s : State) (p : Nat) : State :=
  let c := cluOfPhys p
  let w := getPow s c
  if w.lend then shareLent (setPow s c { w with lend := false, target := if s.brake then w.target else fitGrant s c w.own }) else s

/-- A thread of the core is READY, or its TE or VE has an operation in progress (R72). -/
def stirs (c : Core) : Bool :=
  (List.range 16).any (fun t => (getThread c t).state == .ready) || !c.te.ops.isEmpty || c.ve.cur.isSome

/-- The lend flag clears when the core has a READY thread or an operation of its TE or VE in progress (R72). -/
def stir (s : State) (p : Nat) : State := if stirs (getCore s p) then unlend s p else s

/-- The core may issue commands and start engine operations (R148, R303, R304). -/
def runs (s : State) (p : Nat) : Bool :=
  decide (fenceState s p ≤ 1) && !isFrozen (getCore s p) && !(getCore s p).stopped

/-- Deliveries reach the core (R212, R303). -/
def reached (s : State) (p : Nat) : Bool :=
  decide (fenceState s p ≤ 1) && !(getDie s (dieOf p)).resetting

/-! ### Fault-event ring (R28, R296) -/

/-- Entries of a die's ring (R296). -/
def ringDepth : Nat := 4096

/-- A new entry enters the ring, or waits behind the records already held. -/
def postEntry (d : Die) (e : RingEntry) : Die :=
  if d.held = [] ∧ d.ring.length < ringDepth then { d with ring := d.ring ++ [e] }
  else { d with held := d.held ++ [e] }

/-! Detecting units, each with one hold register (R28). The numbers are the model's own; they are not in the record's bytes. -/

def detCore (p : Nat) : Nat := p
def detSlice (key : Nat) : Nat := 0x10000 + key
def detSwitch (x : Nat) : Nat := 0x20000 + x
/-- The fence table block's check of a cluster's shift values. -/
def detShift (c : Nat) : Nat := 0x30000 + c
/-- The controller of an HBM4 stack or a DDR5 channel. -/
def detTier (t unit : Nat) : Nat := 0x40000 + 256 * t + unit
/-- Goose, for a partition. -/
def detGoose (part : Nat) : Nat := 0x50000 + part
/-- A die's update engine. -/
def detUpdate (die : Nat) : Nat := 0x60000 + die

/-- The entry is an event record of that detecting unit. -/
def eventOf (by_ : Nat) : RingEntry → Bool
  | .event r => r.by_ == by_
  | .trap _ => false

/-- One more event merged into a held record (R28). -/
def mergeOne : RingEntry → RingEntry
  | .event r => .event { r with merged := min (r.merged + 1) 0xFFFF }
  | .trap r => .trap r

/-- Merge into the first entry that `q` picks. -/
def mergeFirst (q : RingEntry → Bool) : List RingEntry → List RingEntry
  | [] => []
  | e :: r => if q e then mergeOne e :: r else e :: mergeFirst q r

/-- A unit raises an event (R28, R297): into the ring, into its hold register, or merged into the record held there. -/
def postEvent (s : State) (die : Nat) (r : EventRec) : State :=
  let d := getDie s die
  let q := eventOf r.by_
  let e := RingEntry.event { r with time := devNs s }
  if d.held.any q then setDie s die { d with held := mergeFirst q d.held }
  else setDie s die (postEntry d e)

/-- PartID field of an event record: 64 stands for "no partition involved" (R297). -/
def partOrNone : Option Nat → Nat
  | some p => p
  | none => 64

/-- An event of a core (unit kind 1). -/
def coreEvent (s : State) (p code : Nat) (detail : List Byte) : State :=
  postEvent s (dieOf p) { code := code, unitKind := 1, unit := p, detail := detail, by_ := detCore p,
                          part := partOrNone ((indexOf s p).map (·.1)) }

/-! ### Traps (R67 to R70) -/

/-- Causes of R68. -/
def causeIllegal : Nat := 0x01
def causeBadField : Nat := 0x02
def causeCallOver : Nat := 0x03
def causeCallUnder : Nat := 0x04
def causePcRange : Nat := 0x05
def causeUnder : Nat := 0x06
def causeOver : Nat := 0x07
def causeAddress : Nat := 0x08
def causeDescriptor : Nat := 0x09
def causeChannel : Nat := 0x0A
def causeAbft : Nat := 0x0B
def causeNan : Nat := 0x0C
def causeCheck : Nat := 0x0D
def causeDmaTimeout : Nat := 0x0E
def causeWatchdog : Nat := 0x0F
def causeRemote : Nat := 0x10
def causeReplay : Nat := 0x11

/-- What a trap reports beside its cause. -/
structure Why where
  precise : Bool := true
  opTag   : Nat := 0
  index   : Nat := 0
  syncId  : Nat := 0
  detail  : W64 := 0
  deriving DecidableEq, Repr

/-- A further fault raises the extra count of the record that is still in the ring or held. -/
def extraIn (r : TrapRec) (n : Nat) : RingEntry → RingEntry
  | .trap q => if q.who = r.who ∧ q.time = r.time ∧ q.phys = r.phys then .trap { q with extra := n } else .trap q
  | .event e => .event e

/-- A fault traps a thread (R69): dropped in IDLE, counted in the first record in TRAPPED; otherwise the thread is
TRAPPED, its record slot is filled and the record goes to the ring. A WAITING thread's pc stays at its WAIT. -/
def trap (s : State) (p t cause : Nat) (w : Why) : State :=
  let c := getCore s p
  let th := getThread c t
  match th.state with
  | .idle => s
  | .trapped =>
    match th.trap with
    | none => s
    | some r =>
      let n := min (r.extra + 1) 0xFFFF
      let d := getDie s (dieOf p)
      let s1 := setCore s p (setThread c t { th with trap := some { r with extra := n } })
      setDie s1 (dieOf p) { d with ring := d.ring.map (extraIn r n), held := d.held.map (extraIn r n) }
  | _ =>
    let r : TrapRec :=
      { cause := cause, precise := w.precise, who := (logOf s p).getD 0 + 4096 * t, phys := p,
        opTag := w.opTag, index := w.index, part := ((indexOf s p).map (·.1)).getD 0,
        syncId := if cause = causeUnder ∨ cause = causeOver ∨ cause = causeRemote then w.syncId else 0,
        detail := w.detail, time := devNs s }
    let th1 := { th with state := .trapped, cause := cause, trap := some r, age := 0, waitFrom := none }
    let s1 := setCore s p { setThread c t th1 with idleFrom := some (coreNow s c) }
    modDie s1 (dieOf p) (fun d => postEntry d (.trap r))

/-- A precise trap at the command that the thread stands at. -/
def trapHere (s : State) (p t cause : Nat) (syncId : Nat) (detail : W64) : State :=
  trap s p t cause { index := (getThread (getCore s p) t).pc, syncId := syncId, detail := detail }

/-! ### The word of an operation (R50) -/

def IssueOp.doneSync (o : IssueOp) : Nat := fld o.word 55 48
def IssueOp.doneAdd (o : IssueOp) : Nat := fld o.word 47 40
def IssueOp.opTag (o : IssueOp) : Nat := fld o.word 39 28
def IssueOp.row (o : IssueOp) : Nat := fld o.word 14 0

/-- An imprecise trap of the thread that issued an operation. -/
def trapOp (s : State) (p : Nat) (o : IssueOp) (cause syncId : Nat) (detail : W64) : State :=
  trap s p o.thread cause { precise := false, opTag := o.opTag, index := o.index, syncId := syncId, detail := detail }

/-! ### Sync counters (R60 to R63) -/

def getCtr (c : Core) (i : Nat) : SyncCtr := tget {} c.sync i
def setCtr (c : Core) (i : Nat) (k : SyncCtr) : Core := { c with sync := tset {} c.sync i k }

/-- The counter with a refused update recorded. -/
def ctrFail (k : SyncCtr) (excess : Bool) : SyncCtr := if k.fault then k else { k with fault := true, excess := excess }

/-- Add: `true` when applied. Nothing is added without a fault by an add of 0; a faulted counter refuses (R62, R63). -/
def ctrAdd (k : SyncCtr) (v : Nat) : SyncCtr × Bool :=
  if v = 0 then (k, true)
  else if k.fault then (k, false)
  else if k.value.toNat + v > k.limit.toNat then (ctrFail k true, false)
  else ({ k with value := BitVec.ofNat 32 (k.value.toNat + v) }, true)

/-- Subtract. -/
def ctrSub (k : SyncCtr) (v : Nat) : SyncCtr × Bool :=
  if k.fault then (k, false)
  else if v > k.value.toNat then (ctrFail k false, false)
  else ({ k with value := BitVec.ofNat 32 (k.value.toNat - v) }, true)

/-- Set. -/
def ctrSet (k : SyncCtr) (v : Nat) : SyncCtr × Bool :=
  if k.fault then (k, false)
  else if v > k.limit.toNat then (ctrFail k true, false)
  else ({ k with value := BitVec.ofNat 32 v }, true)

/-- Trap cause of a counter's recorded fault kind. -/
def ctrCause (k : SyncCtr) : Nat := if k.excess then causeOver else causeUnder

/-- A counter's value as a trap's detail. -/
def ctrDetail (k : SyncCtr) : W64 := BitVec.ofNat 64 k.value.toNat

/-- ThreadIDs of a core. -/
def threadIds : List Nat := List.range 16

/-- Threads WAITING on a counter that has faulted trap with its fault kind (R63). -/
def faultWaiters (s : State) (p i : Nat) : State :=
  threadIds.foldl (fun s t =>
    let c := getCore s p
    let th := getThread c t
    if th.state = .waiting ∧ th.waitSync = i then
      trapHere s p t (ctrCause (getCtr c i)) i (ctrDetail (getCtr c i))
    else s) s

/-- Write a counter after an update; when the update was refused, trap its waiters too. -/
def writeCtr (s : State) (p i : Nat) (r : SyncCtr × Bool) : State :=
  let s1 := modCore s p (fun c => setCtr c i r.1)
  if r.2 then s1 else faultWaiters s1 p i

/-- An engine of the core raises a counter; a refused raise traps the thread that issued the operation (R62). -/
def raiseFor (s : State) (p i v : Nat) (o : IssueOp) : State :=
  let r := ctrAdd (getCtr (getCore s p) i) v
  let s1 := writeCtr s p i r
  if r.2 then s1 else trapOp s1 p o (ctrCause r.1) i (ctrDetail r.1)

/-- One unit of progress (R238). -/
def progress (s : State) (p : Nat) : State := modCore s p (fun c => { c with progress := c.progress + 1 })

/-- An engine operation completes (R53): done_sync is raised, and it no longer counts as outstanding. -/
def opDone (s : State) (p : Nat) (o : IssueOp) : State :=
  let s1 := modCore s p (fun c =>
    { modThread c o.thread (fun th => { th with opsOut := th.opsOut - 1 }) with
        progress := c.progress + 1, lastOpAt := coreNow s c,
        idleFrom := if fld o.word 63 56 = 0x10 ∨ fld o.word 63 56 = 0x11 then some (coreNow s c) else c.idleFrom })
  if o.doneAdd = 0 then s1 else raiseFor s1 p o.doneSync o.doneAdd o

/-! ### Core memory, vector store and slices -/

/-- Event 0x82 and the stop of R148. `row` and `word` name the place, `store` the vector store. -/
def coreStop (s : State) (p row word : Nat) (store : Bool) : State :=
  let banks := if store then 8 else 16
  let unit := p + 4096 * (row % banks) + 65536 * (row / banks)
  let s1 := postEvent s (dieOf p)
    { code := 0x82, unitKind := 2, unit := unit, part := partOrNone ((indexOf s p).map (·.1)), by_ := detCore p,
      detail := [if store then 1 else 0, BitVec.ofNat 8 word] }
  modCore s1 p (fun c => { c with stopped := true })

/-- First uncorrectable 8-byte word that a read of `n` bytes at `a` touches. -/
def badWord (t : Tbl Bool) (a n : Nat) : Option Nat :=
  if n = 0 then none else (t.find? (fun e => e.2 && decide (a / 8 ≤ e.1 ∧ e.1 ≤ (a + n - 1) / 8))).map (·.1)

/-- Words that a write of `n` bytes covers whole become good again (R516). -/
def healWords (t : Tbl Bool) (a n : Nat) : Tbl Bool := t.filter (fun e => decide (e.1 * 8 < a ∨ a + n < e.1 * 8 + 8))

/-- Check values of the blocks that a write touches become invalid (R234). -/
def dropCv (t : Tbl (Option W32)) (a n : Nat) : Tbl (Option W32) :=
  if n = 0 then t else t.filter (fun e => decide (e.1 < a / 4096 ∨ (a + n - 1) / 4096 < e.1))

/-- The 8-byte words with a single-bit error that a read of `n` bytes at `a` touches. -/
def weakWords (t : Tbl Bool) (a n : Nat) : List Nat :=
  if n = 0 then [] else (t.filter (fun e => e.2 && decide (a / 8 ≤ e.1 ∧ e.1 ≤ (a + n - 1) / 8))).map (·.1)

/-- The words that a read corrects and writes back, or that a write touches, have a fresh code (R147, R516). -/
def freshWords (t : Tbl Bool) (a n : Nat) : Tbl Bool :=
  if n = 0 then t else t.filter (fun e => decide (e.1 < a / 8 ∨ (a + n - 1) / 8 < e.1))

/-- Device time in seconds. -/
def devSec (s : State) : Nat := devNs s / 1000000000

/-- The times of the last 24 hours with one more (R256, R300). -/
def dayTimes (now : Nat) (l : List Nat) : List Nat := l.filter (fun t => decide (now < t + 86400)) ++ [now]

/-- A corrected error in a core-memory row; the sixteenth within 24 hours marks the row for repair (R300). -/
def noteFix (now : Nat) (c : Core) (row : Nat) : Core :=
  let l := dayTimes now (tget [] c.fixes row)
  { c with fixes := tset [] c.fixes row l, marked := if 16 ≤ l.length ∧ !c.marked.contains row then c.marked ++ [row] else c.marked }

/-- A read corrects the single-bit errors that it meets, writes the words back and counts them (R147). -/
def fixCore (now : Nat) (c : Core) (a n : Nat) : Core :=
  let ws := weakWords c.weak a n
  if ws = [] then c
  else ws.foldl (fun c w => noteFix now c (w / 8)) { c with weak := freshWords c.weak a n, corrected := c.corrected + ws.length }

/-- The same in the vector store. -/
def fixStore (c : Core) (a n : Nat) : Core :=
  let ws := weakWords c.vweak a n
  if ws = [] then c else { c with vweak := freshWords c.vweak a n, corrected := c.corrected + ws.length }

/-- Read core memory: bytes, or the stop of R148. -/
def readCore (s : State) (p a n : Nat) : State × Option (List Byte) :=
  let c := getCore s p
  match badWord c.bad a n with
  | some w => (coreStop s p (w / 8) (w % 8) false, none)
  | none => (if c.weak = [] then s else setCore s p (fixCore (devSec s) c a n), some (readBytes c.mem a n))

/-- Write core memory (R145, R234, R516). -/
def writeCore (c : Core) (a : Nat) (l : List Byte) : Core :=
  { c with mem := writeBytes c.mem a l, bad := healWords c.bad a l.length, weak := freshWords c.weak a l.length,
           cv := dropCv c.cv a l.length }

/-- Read the vector store. -/
def readStore (s : State) (p a n : Nat) : State × Option (List Byte) :=
  let c := getCore s p
  match badWord c.vbad a n with
  | some w => (coreStop s p (w / 8) (w % 8) true, none)
  | none => (if c.vweak = [] then s else setCore s p (fixStore c a n), some (readBytes c.ve.store a n))

/-- Write the vector store. -/
def writeStore (c : Core) (a : Nat) (l : List Byte) : Core :=
  { c with ve := { c.ve with store := writeBytes c.ve.store a l }, vbad := healWords c.vbad a l.length,
           vweak := freshWords c.vweak a l.length }

/-- Slice and grain that hold the check value of the block of the shared region to which a slice byte belongs (R233). -/
def sliceCvPlace (s : State) (key off : Nat) : Option (Nat × Nat) :=
  match partOfCluster s (key / 4) with
  | none => none
  | some p =>
    match getPart s p with
    | none => none
    | some pt =>
      (indexIn pt.clusters (key / 4)).map (fun slot =>
        let n := 4 * pt.clusters.length
        let o := off / 256 * (256 * n) + (4 * slot + key % 4) * 256 + off % 256
        let b := o / 4096 * 16
        (4 * pt.clusters.getD (b % n / 4) 0 + b % n % 4, b / n))

/-- The check value of the block of a slice byte becomes invalid. -/
def dropSliceCv (s : State) (key off : Nat) : State :=
  match sliceCvPlace s key off with
  | none => s
  | some (k, g) => modSlice s k (fun v => { v with cv := terase v.cv g })

/-- Write a slice; `keepCv` for the pieces of a SEAL or VERIFY transfer (R234). A write inside one 256-byte grain. -/
def writeSlice (s : State) (key a : Nat) (l : List Byte) (keepCv : Bool) : State :=
  let s1 := modSlice s key (fun v =>
    { v with mem := writeBytes v.mem a l, bad := healWords v.bad a l.length, weak := freshWords v.weak a l.length,
             poison := v.poison.filter (fun e => decide (e.1 * 64 < a ∨ a + l.length < e.1 * 64 + 64)) })
  if keepCv then s1 else dropSliceCv s1 key a

/-- Unit encoding of a slice row (R299). -/
def sliceRowUnit (key row : Nat) : Nat :=
  key / 64 + 4 * (key / 4 % 16) + 64 * (key % 4) + 256 * (row % 32) + 8192 * (row / 32)

/-- Read a slice: bytes and whether they carry a poison mark; an uncorrectable word raises event 0x83 (R148),
single-bit errors are corrected, written back and counted (R147). -/
def readSlice (s : State) (key a n : Nat) : State × List Byte × Bool :=
  let v := getSlice s key
  let old := v.poison.any (fun e => e.2 && decide (a / 64 ≤ e.1 ∧ e.1 * 64 < a + n))
  match badWord v.bad a n with
  | none =>
    let ws := weakWords v.weak a n
    (if ws = [] then s
     else setSlice s key { v with weak := freshWords v.weak a n, corrected := v.corrected + ws.length }, readBytes v.mem a n, old)
  | some w =>
    (postEvent s (key / 64) { code := 0x83, unitKind := 3, unit := sliceRowUnit key (w / 8), by_ := detSlice key,
                              part := partOrNone (partOfCluster s (key / 4)), detail := [BitVec.ofNat 8 (w % 8)] },
     readBytes v.mem a n, true)

/-! ### External memory (R246, R252, R253, R257) -/

def getTier (s : State) (t : Nat) : Tier := if t = 0 then s.hbm else s.ddr
def setTier (s : State) (t : Nat) (v : Tier) : State := if t = 0 then { s with hbm := v } else { s with ddr := v }

/-- Place of a sector's tag (R244, R245): the stack and stack offset, or the channel and channel offset as 2^42 × channel + offset; `d` is
the data part D of a DDR5 channel. -/
def tagPlace (t d sec : Nat) : Nat :=
  if t = 0 then sec / 2 ^ 27 * 2 ^ 36 + 0xFB8000000 + sec % 2 ^ 27 * 8
  else sec / 8 % 12 * 2 ^ 42 + d + (sec / 96 * 8 + sec % 8) * 8

/-- The sector whose tag has a place. -/
def tagSector (t d place : Nat) : Nat :=
  if t = 0 then place / 2 ^ 36 * 2 ^ 27 + (place % 2 ^ 36 - 0xFB8000000) / 8
  else
    let o := (place % 2 ^ 42 - d) / 8
    o / 8 * 96 + place / 2 ^ 42 * 8 + o % 8

/-- Place of a block's check-value entry, in the same form (R244, R245). -/
def cvPlace (t d block : Nat) : Nat :=
  if t = 0 then block / 2 ^ 24 * 2 ^ 36 + 0xFF8000000 + block % 2 ^ 24 * 8
  else block % 12 * 2 ^ 42 + d + d / 503 * 8 + block / 12 * 8

/-- Data part D of a DDR5 channel in bytes (R245). -/
def channelData (s : State) : Nat := s.ddrDimms * s.ddrGib * 503 * 2 ^ 21

/-- Partition that holds a sector. -/
def sectorPart (s : State) (t sec : Nat) : Option Nat :=
  (s.parts.find? (fun e => match e.2 with
    | none => false
    | some pt => (if t = 0 then pt.hbm else pt.ddr).any (fun r => decide (r.1 ≤ sec / 128 ∧ sec / 128 < r.1 + r.2)))).map (·.1)

/-- Tweak of a sector (R249). -/
def sectorTweak (t sec : Nat) : BitVec 128 := BitVec.ofNat 128 (sec % 2 ^ 64 + 2 ^ 64 * t)

/-- The 528 bytes that a sector's tag covers (R250): its ciphertext, index, tier, PartID, key epoch and poison. -/
def tagInput (s : State) (t sec part : Nat) (pt : Part) (poison : Nat) : List Byte :=
  slice (xtsEncrypt pt.xts (sectorTweak t sec) (readBytes (getTier s t).mem (512 * sec) 512)) 0 512 ++ leBytes 8 sec ++
    leBytes 1 t ++ leBytes 1 part ++ leBytes 4 pt.epoch ++ leBytes 1 poison ++ [0]

/-- The bytes of "CM7 sector". -/
def tagCustom : List Byte := [0x43, 0x4D, 0x37, 0x20, 0x73, 0x65, 0x63, 0x74, 0x6F, 0x72]

/-- The tag of a sector as it stands (R250); a sector that no partition holds has no key, and none. -/
def sectorTag (s : State) (t sec poison : Nat) : Option W64 :=
  match sectorPart s t sec with
  | none => none
  | some p => (getPart s p).map (fun pt => BitVec.ofNat 64 (leNat (kmac128 8 pt.tagKey tagCustom (tagInput s t sec p pt poison))))

/-- Verdict of the stored tag: 0 it matches, 1 it does not, 2 it matches with poison 1 (R252). -/
def tagVerdict (s : State) (t sec : Nat) : Nat :=
  match tget none (getTier s t).tags (tagPlace t (channelData s) sec) with
  | none => 0
  | some w => if sectorTag s t sec 0 = some w then 0 else if sectorTag s t sec 1 = some w then 2 else 1

/-- Cause for which a sector does not verify, 0 when it does: 1 tag mismatch, 2 poisoned or retired, 3 uncorrectable. -/
def sectorBad (s : State) (t sec : Nat) : Nat :=
  let v := getTier s t
  if v.retired.contains (sec / 128) then 2 else if tget false v.bad sec then 3 else tagVerdict s t sec

/-- Unit kind and encoding of the row of a sector (R299): stack, pseudo-channel, bank and row, or channel, DIMM, rank, subchannel, bank and
row. What the controller's placement decides (R245) is a free value; with one DIMM per channel the DIMM bit is 0. -/
def sectorUnit (s : State) (t sec : Nat) : Nat × Nat :=
  if t = 0 then (8, sec / 2 ^ 27 % 8 + 8 * (sec % 64) + 2 ^ 9 * (Config.dramPlace 0 sec % 2 ^ 24))
  else (9, sec / 8 % 12 + 16 * (if s.ddrDimms ≤ 1 then 2 * (Config.dramPlace 1 sec % 2 ^ 26) else Config.dramPlace 1 sec % 2 ^ 27))

/-- Kind and unit of the Scree record of a row's pseudo-channel or DIMM (R335). -/
def rowScree (k u : Nat) : Nat × Nat := if k = 8 then (0x20, u % 512) else (0x21, u % 32)

/-- Die whose ring takes the events of a tier's controller: the stack's die, or die 0 for the hub. -/
def tierDie (t sec : Nat) : Nat := if t = 0 then sec / 2 ^ 28 else 0

/-- Integrity event of R252. -/
def integrityEvent (s : State) (t sec cause : Nat) : State :=
  let (k, u) := sectorUnit s t sec
  postEvent s (tierDie t sec)
    { code := 0x8A, unitKind := k, unit := u, by_ := detTier t (if t = 0 then sec / 2 ^ 27 else sec / 8 % 12), part := partOrNone (sectorPart s t sec),
      detail := BitVec.ofNat 8 cause :: leBytes 8 sec }

/-- A soft Spoil-map entry, marked for retest, in retained SRAM and in flash at once (R302, R318, R339); a unit that has one
already keeps it, and flash holds 4,096 (R319). -/
def addSoft (s : State) (kind unit reason count : Nat) : State :=
  if s.soft.any (fun e => e.kind == kind && e.unit == unit) ∨ s.soft.length ≥ 4096 then s
  else
    let e : Spoil := { kind := kind, flags := 4, unit := unit, reason := reason, count := min count 255,
                       when_ := devNs s / 1000000000 }
    { s with soft := s.soft ++ [e], flash := { s.flash with soft := s.flash.soft ++ [e] } }

/-- The units of a tier that hold a byte of a sector's row (R257). -/
def unitsOfRow (s : State) (t sec : Nat) : List Nat :=
  sec / 128 :: (Config.rowUnits t (sectorUnit s t sec).2).filter (fun x => x != sec / 128)

/-- A DRAM row that failed is repaired with sPPR while its bank group has a resource left, its contents copied out and back; otherwise
every unit that holds a byte of it is retired (R256, R257). -/
def repairRow (s : State) (t sec : Nat) : State :=
  let v := getTier s t
  let (k, u) := sectorUnit s t sec
  if Config.repairLeft t u v.repaired.length then
    addSoft (setTier s t { v with repaired := u :: v.repaired, rowErrs := terase v.rowErrs u }) k u 0x8A 1
  else
    let us := (unitsOfRow s t sec).filter (fun x => !v.retired.contains x)
    us.foldl (fun s x => addSoft s 0x0A (t + 2 * x) 0x8A 1) (setTier s t { v with retired := us ++ v.retired, untold := v.untold ++ us })

/-- A sector is read with an error that the code corrects: the controller counts it against the pseudo-channel or DIMM and writes the
sector back corrected; the sixteenth within 24 hours repairs the row (R255, R256). -/
def correctSector (s : State) (t sec : Nat) : State :=
  let v := getTier s t
  let (k, u) := sectorUnit s t sec
  let l := dayTimes (devSec s) (tget [] v.rowErrs u)
  let s1 := setTier s t { v with weak := terase v.weak sec, rowErrs := tset [] v.rowErrs u l,
                                 corrected := tmod 0 v.corrected (rowScree k u).2 (· + 1) }
  if 16 ≤ l.length then repairRow s1 t sec else s1

/-- The controller reads one sector and verifies it (R246, R252, R255): whether it verifies. A sector that does not raises the integrity
event, and uncorrectable data repairs the row (R256). -/
def checkSector (s : State) (t sec : Nat) : State × Bool :=
  match sectorBad s t sec with
  | 0 => (if tget false (getTier s t).weak sec then correctSector s t sec else s, true)
  | 3 => (repairRow (integrityEvent s t sec 3) t sec, false)
  | k => (integrityEvent s t sec k, false)

/-- The sectors from `sec` on are read in turn: whether all verify. -/
def checkSectors (s : State) (t sec : Nat) : Nat → State × Bool
  | 0 => (s, true)
  | k + 1 =>
    let (s1, good) := checkSector s t sec
    let (s2, rest) := checkSectors s1 t (sec + 1) k
    (s2, good && rest)

/-- Sectors that `n` bytes from `a` touch. -/
def sectorCount (a n : Nat) : Nat := if n = 0 then 0 else (a + n - 1) / 512 - a / 512 + 1

/-- The stack's controllers count the HBM4 bytes moved, for the partition of the window or for none (R448). -/
def countMoved (s : State) (t a n : Nat) : State :=
  if t = 0 then
    let k := 65 * (a / 2 ^ 36) + (sectorPart s 0 (a / 512)).getD 64
    { s with hbmMoved := tset 0 s.hbmMoved k ((tget 0 s.hbmMoved k + n) % 2 ^ 48) }
  else s

/-- Read external memory: bytes and poison mark (R252). -/
def readTier (s : State) (t a n : Nat) : State × List Byte × Bool :=
  let (s1, good) := checkSectors (countMoved s t a n) t (a / 512) (sectorCount a n)
  (s1, if good then readBytes (getTier s t).mem a n else zeros n, !good)

/-- Store bytes of one sector: it is encrypted and tagged anew (R253). -/
def storeSector (s : State) (t sec a : Nat) (l : List Byte) : State :=
  let v := getTier s t
  setTier s t { v with mem := writeBytes v.mem a l, bad := terase v.bad sec, weak := terase v.weak sec,
                       tags := terase v.tags (tagPlace t (channelData s) sec) }

/-- Write the part of a transfer in each sector; answers the first byte of the lowest refused sector (R253). -/
def writeTierGo (s : State) (t : Nat) : Nat → Nat → List Byte → Option Nat → State × Option Nat
  | 0, _, _, r => (s, r)
  | k + 1, a, l, r =>
    let n := min l.length (512 - a % 512)
    let sec := a / 512
    if (getTier s t).retired.contains (sec / 128) then
      writeTierGo s t k (a + n) (l.drop n) (r.or (some (sec * 512)))
    else if n = 512 then writeTierGo (storeSector s t sec a (l.take n)) t k (a + n) (l.drop n) r
    else
      match checkSector s t sec with
      | (s1, false) => writeTierGo s1 t k (a + n) (l.drop n) (r.or (some (sec * 512)))
      | (s1, true) => writeTierGo (storeSector s1 t sec a (l.take n)) t k (a + n) (l.drop n) r

/-- Write external memory; the check values of the blocks become invalid (R234). -/
def writeTier (s : State) (t a : Nat) (l : List Byte) : State × Option Nat :=
  let s1 := countMoved s t a l.length
  let v := getTier s1 t
  writeTierGo (setTier s1 t { v with cv := dropCv v.cv a l.length }) t (sectorCount a l.length) a l none

/-! ### Cells (R198, R199) -/

def Cell.vc (c : Cell) : Nat := fld c.hdr 1 0
def Cell.type (c : Cell) : Nat := fld c.hdr 6 2
def Cell.len (c : Cell) : Nat := fld c.hdr 12 7
def Cell.dst (c : Cell) : Nat := fld c.hdr 24 13
def Cell.src (c : Cell) : Nat := fld c.hdr 36 25
def Cell.tag (c : Cell) : Nat := fld c.hdr 46 37

/-- The payload's bytes. -/
def Cell.bytes (c : Cell) : List Byte := leBytes 32 c.pay.toNat

/-- Cell types of the control class (R199). -/
def isControl (ty : Nat) : Bool := [0x03, 0x05, 0x08, 0x09, 0x0A, 0x0B, 0x0D].contains ty

/-- CRC of a cell's header and payload. -/
def cellCrc (hdr : BitVec 48) (pay : BitVec 256) : BitVec 16 := crc16 (leBytes 6 hdr.toNat ++ leBytes 32 pay.toNat)

/-- A cell whose CRC covers its header. -/
def sealCell (hdr : BitVec 48) (pay : BitVec 256) : Cell := { hdr := hdr, pay := pay, crc := cellCrc hdr pay }

/-- A new cell on the first channel of its class. -/
def mkCell (ty len dst src tag : Nat) (l : List Byte) : Cell :=
  let vc := if isControl ty then 2 else 0
  sealCell (BitVec.ofNat 48 (vc + 4 * ty + 2 ^ 7 * len + 2 ^ 13 * (dst % 4096) + 2 ^ 25 * (src % 4096) + 2 ^ 37 * (tag % 1024)))
    (BitVec.ofNat 256 (leNat (l.take 32)))

/-- An endpoint has cells to inject. -/
def sendCells (s : State) (x : Nat) (l : List Cell) : State :=
  modEnd s x (fun e => { e with outbox := e.outbox ++ l })

/-- Cells of 32 bytes each for a run of data. -/
def dataCells (ty dst src tag : Nat) : Nat → List Byte → List Cell
  | 0, _ => []
  | k + 1, l => if l = [] then [] else mkCell ty (min l.length 32) dst src tag l :: dataCells ty dst src tag k (l.drop 32)

/-- Opener payload of WRITE_INDEXED and READ_REPLY (R228). -/
def openerBytes (addr count status bytes xfer cv ackTo flags data : Nat) : List Byte :=
  leBytes 6 addr ++ leBytes 1 count ++ leBytes 1 status ++ leBytes 2 bytes ++ leBytes 2 xfer ++ leBytes 4 cv ++
    leBytes 2 ackTo ++ leBytes 1 flags ++ zeros 5 ++ leBytes 8 data

/-- A remote raise leaves (R64, R261): its cell, and the record of it. Sync id, amount and the raise's own tag are the
model's layout (the manual gives none). -/
def sendRaise (s : State) (p pos dst : Nat) (src : RaiseSrc) (target syncId amt : Nat) : State :=
  let c := getCore s p
  let tag := c.raiseNo % 1024
  let r : Raise := { tag := tag, src := src, target := target, syncId := syncId, sentAt := coreNow s c }
  let s1 := setCore s p { c with raiseNo := c.raiseNo + 1, raises := c.raises ++ [r] }
  sendCells s1 pos [mkCell 0x0A 8 dst pos tag (leBytes 1 syncId ++ zeros 3 ++ leBytes 4 amt)]

/-- Lowest free tag (R224): neither an operation nor a replay record holds it, and it is not held after a timeout. -/
def freeTag (c : Core) : Option Nat :=
  (List.range 1024).find? (fun t => (getTag c t).isNone && (tget none c.held t).isNone && !c.records.any (fun r => r.tag == t))

/-- DMA_CFG timeout in fabric cycles (R231). -/
def dmaTimeout (c : Core) : Nat := usCycles (16 * 2 ^ fld c.dmaCfg 3 0)

/-- Time for which a tag is held after a timeout (R231). -/
def holdTime (c : Core) : Nat := max (2 * dmaTimeout c) (usCycles 512)

/-- The next free value, and the state that has used it. -/
def useFree (s : State) : State := { s with freeSeq := s.freeSeq + 1 }

/-! ### The cluster table (R303) -/

/-- Write CORE_CLU_FENCE; the PartID only in states 1 and 2. -/
def setClu (s : State) (c state part : Nat) : State :=
  { s with cluFence := tset 0 s.cluFence c (BitVec.ofNat 64 (state + if state = 1 ∨ state = 2 then 4 * (part % 64) else 0)) }

/-! ### Scree records (R335 to R337) -/

/-- Key of a unit's live record. -/
def screeKey (kind unit : Nat) : Nat := kind * 2 ^ 48 + unit
def getScree (s : State) (kind unit : Nat) : Scree := tget {} s.scree (screeKey kind unit)
def modScree (s : State) (kind unit : Nat) (f : Scree → Scree) : State :=
  { s with scree := tset {} s.scree (screeKey kind unit) (f (getScree s kind unit)) }

def sat32 (n : Nat) : Nat := min n 0xFFFFFFFF

/-- Unit encoding of a cluster (R299). -/
def cluUnit (c : Nat) : Nat := c / 16 + 4 * (c % 16)

/-- Uncorrected errors count for a unit and, summed over units, for the device (R337). -/
def addUncorrected (s : State) (kind unit n : Nat) : State :=
  modScree (modScree s kind unit (fun r => { r with uncorrected := sat32 (r.uncorrected + n) })) 0x22 0
    (fun r => { r with uncorrected := sat32 (r.uncorrected + n) })

/-- Corrected errors count for a unit and for the device (R337). -/
def addCorrected (s : State) (kind unit n : Nat) : State :=
  if n = 0 then s
  else modScree (modScree s kind unit (fun r => { r with corrected := sat32 (r.corrected + n) })) 0x22 0
    (fun r => { r with corrected := sat32 (r.corrected + n) })

/-- A reset of a unit counts (R336). -/
def countReset (s : State) (kind unit : Nat) : State :=
  modScree s kind unit (fun r => { r with resets := sat32 (r.resets + 1) })

/-! ### Channels -/

/-- A receive channel closes (R217): the space of every record is freed, open reservations end abandoned. -/
def closeChan (c : Core) (i : Nat) : Core :=
  let ch : RecvCh := tget {} c.recv i
  let base := 64 * fld ch.ring 14 0
  let c1 := (ch.recs.filter (fun r => r.kind == 0 && !r.done)).foldl
    (fun c r => writeCore c (base + r.off)
      (leBytes 4 r.len ++ leBytes 1 2 ++ leBytes 1 r.chan ++ leBytes 2 r.sender ++ leBytes 4 r.seq ++ zeros 4)) c
  { c1 with recv := tset {} c1.recv i { ch with state := 1, rp := ch.wp, recs := [] } }

/-- Records that the receive passes over, and the message it takes, when the next one in order is complete (R162). -/
def nextMessage : List RingRec → Option (List RingRec × RingRec × List RingRec)
  | [] => none
  | q :: r =>
    if q.kind = 0 then (if q.done then some ([], q, r) else none)
    else (nextMessage r).map (fun (a, m, b) => (q :: a, m, b))

/-- Add to a saturating count of PN_CHAN_STATS (R220). -/
def bumpStat (w : W64) (hi lo n : Nat) : W64 := setFld w hi lo (min (fld w hi lo + n) (2 ^ (hi + 1 - lo) - 1))

/-- Set the stalls count from the cycles waited. -/
def stallStat (w : W64) (waited : Nat) : W64 := setFld w 63 44 (min (waited / 1024) (2 ^ 20 - 1))

/-- Backoff before attempt `n` of a send channel, in fabric cycles (R216). -/
def backoffTime (cfg : W64) (n : Nat) : Nat := fld cfg 25 22 * 2 ^ (min n 8 - 1) * 256

/-- Fabric cycles for which the sends of a channel have waited for an answer or a backoff, up to core time `now` (R220). -/
def sendWaited (now : Nat) (v : SendCh) : Nat :=
  match v.cur with
  | none => v.waited
  | some m => v.waited + (now - (if m.backoff then m.at_ - backoffTime v.cfg m.attempt else m.at_))

/-- Fabric cycles for which a channel's receives have waited on an empty ring, up to core time `now` (R220). -/
def recvWaited (now : Nat) (r : RecvCh) : Nat :=
  match r.ops, nextMessage r.recs with
  | (_, _, since) :: _, none => r.waited + (now - since)
  | (_, _, since) :: _, some (_, q, _) => r.waited + (q.since - since)
  | [], _ => r.waited

/-- The channels of a core with the time waited up to core time `now` counted: what their PN_CHAN_STATS show, and what a stop leaves (R220). -/
def settleWaits (now : Nat) (c : Core) : Core :=
  { c with send := c.send.map (fun e => (e.1, { e.2 with waited := sendWaited now e.2, stats := stallStat e.2.stats (sendWaited now e.2) })),
           recv := c.recv.map (fun e => (e.1, { e.2 with waited := recvWaited now e.2, stats := stallStat e.2.stats (recvWaited now e.2) })) }

/-- The cores as they stand, with the waits in hand counted (R220, R435). -/
def msCopy (s : State) : Tbl Core := s.cores.map (fun e => (e.1, settleWaits (coreNow s e.2) e.2))

/-- From `s` to `s1`: where a whole millisecond of device time has come, the counts of that moment are kept (R435). -/
def passMs (s s1 : State) : State := if devNs s / 1000000 = devNs s1 / 1000000 then s1 else { s1 with atMs := msCopy s1 }

end Sys2Proof.Machine
end

