-- ==== Sys2Proof/Machine/Mail.lean ====
section
/-! DEFINITION. What leaves on mailbox queue pairs (R381, R389, R390, R412 to R414), access to a partition's memory by
the hub, and the end of a job (R48, R348, R411). -/

namespace Sys2Proof.Machine

/-! ### Status codes (R393) -/

def stOk : Nat := 0x0000
def stBusy : Nat := 0x0001
def stInvalid : Nat := 0x0002
def stNoResource : Nat := 0x0003
def stAuth : Nat := 0x0004
def stDigest : Nat := 0x0005
def stOut : Nat := 0x0006
def stTimeout : Nat := 0x0007
def stReset : Nat := 0x0008
def stFrozenSkip : Nat := 0x000B
def stUnsupported : Nat := 0x000D
def stReplayed : Nat := 0x000E
def stNotFound : Nat := 0x000F

/-! ### Sending on a queue pair -/

def getQp (s : State) (q : Nat) : Option Qp := tget none s.qps q
def setQp (s : State) (q : Nat) (v : Option Qp) : State := { s with qps := tset none s.qps q v }
def modQp (s : State) (q : Nat) (f : Qp → Qp) : State := { s with qps := tmod none s.qps q (Option.map f) }

/-! ### Address entries and packet numbers (R362, R365, R367) -/

def getLport (s : State) (l : Nat) : LPort := tget {} s.lports l
def setLport (s : State) (l : Nat) (v : LPort) : State := { s with lports := tset {} s.lports l v }
def modLport (s : State) (l : Nat) (f : LPort → LPort) : State := setLport s l (f (getLport s l))
def getEntry (s : State) (l k : Nat) : Option AddrEntry := tget none (getLport s l).entries k
def setEntry (s : State) (l k : Nat) (e : Option AddrEntry) : State :=
  modLport s l (fun p => { p with entries := tset none p.entries k e })

/-- Entry number of an owner: 0 the device, n + 1 PartID n (R400). -/
def entryOf (owner : Nat) : Nat := if owner = 64 then 0 else owner + 1

/-- The active transmit SA of an entry. -/
def txSa (e : AddrEntry) : Option Sa := e.sas.find? (fun a => a.tx && a.active)

def pnLimit : Nat := 0xFFFFFFFF

/-- An entry's packet numbers are exhausted: nothing of it is transmitted (R367). -/
def exhausted (e : AddrEntry) : Bool := match txSa e with | none => false | some a => decide (a.pn ≥ pnLimit)

/-- Nothing of an entry is transmitted: its packet numbers are exhausted, or it carries MACsec and no transmit SA is active (R367). -/
def blocked (e : AddrEntry) : Bool := exhausted e || (!e.sas.isEmpty && (txSa e).isNone)

/-- A priority is paused (R366). -/
def pausedAt (s : State) (l prio : Nat) : Bool :=
  let p := getLport s l
  decide (tget 0 p.paused prio ≠ 0 ∧ s.fab < tget 0 p.pauseEnd prio)

/-- Traffic classes of an entry: 0 data, 1 control, 2 lossy. -/
def classPaused (s : State) (l : Nat) (e : AddrEntry) (cls : Nat) : Bool :=
  if cls = 0 then pausedAt s l e.pd else if cls = 1 then pausedAt s l e.pc else false

/-- The priority of a class; lossy frames take the lowest priority that is not lossless (DESIGN CHOICE, log entry 87). -/
def classPrio (e : AddrEntry) (cls : Nat) : Nat :=
  if cls = 0 then e.pd else if cls = 1 then e.pc else if e.pd ≠ 0 ∧ e.pc ≠ 0 then 0 else if e.pd ≠ 1 ∧ e.pc ≠ 1 then 1 else 2

/-- The VLAN tag of an entry's frames: PCP of the class and VLAN ID; none where the VLAN ID is 0 (R363). -/
def frameTag (e : AddrEntry) (cls : Nat) : Option Nat := if e.vlan = 0 then none else some (8192 * classPrio e cls + e.vlan)

/-- An event waits on a queue pair: it takes its number, and the oldest of more than 256 is discarded (R390). -/
def queueEvent (v : Qp) (e : Sent) : Qp :=
  let all := v.events ++ [{ e with seq := v.evNo }]
  if all.length > 256 then { v with events := all.drop 1, lost := min (v.lost + 1) 0xFFFFFFFF, evNo := v.evNo + 1 }
  else { v with events := all, evNo := v.evNo + 1 }

/-- A device event that the port raises while it transmits waits on every device pair (R413). -/
def noteEvent (s : State) (body : List Byte) : State :=
  { s with qps := s.qps.map (fun e => (e.1, e.2.map (fun v =>
      if v.mbx && v.owner == 64 then
        queueEvent v { qpn := e.1, op := 0x0080, tag := 0, flags := 0x04, status := 0, scope := 64, seq := 0, time := devNs s,
                       retry := 0, lost := 0, body := body }
      else v))) }

/-- `n` packets of an entry leave under MACsec: packet numbers advance; the device events of R367 are raised. -/
def burnPn (s : State) (l k n : Nat) : State :=
  match getEntry s l k with
  | none => s
  | some e =>
    match txSa e with
    | none => s
    | some a =>
      let pn := min (a.pn + n) pnLimit
      let s1 := setEntry s l k (some { e with
        sas := e.sas.map (fun x => if x.tx && x.active then { x with pn := pn } else x),
        held := e.held + (a.pn + n - pn) })
      let body (kind : Nat) : List Byte := leBytes 1 kind ++ leBytes 1 0 ++ leBytes 1 l ++ leBytes 1 k ++ zeros 44
      let s2 := if a.pn < 0xC0000000 ∧ 0xC0000000 ≤ pn then noteEvent s1 (body 6) else s1
      if a.pn < pnLimit ∧ pn = pnLimit then noteEvent s2 (body 7) else s2

/-! ### Messages -/

/-- Packets of a message under a path MTU code (R370). -/
def packetsOf (mtu len : Nat) : Nat := max 1 ((len + 128 * 2 ^ mtu - 1) / (128 * 2 ^ mtu))

/-- A pair's traffic class: control for mailbox pairs, else data (R365). -/
def pairClass (v : Qp) : Nat := if v.mbx then 1 else 0

/-- The port transmits nothing of a pair: its class is paused, or its entry is blocked (R366, R367). -/
def pairHeld (s : State) (v : Qp) : Bool :=
  match getEntry s v.lport (entryOf v.owner) with
  | none => false
  | some e => blocked e || classPaused s v.lport e (pairClass v)

/-- A pair's packets leave, with the entry's tag (R363), the ECN field of R374 and the packet numbers of R367. -/
def putOut (s : State) (q : Nat) (v : Qp) (n : Nat) : State :=
  let tag := match getEntry s v.lport (entryOf v.owner) with | none => none | some e => frameTag e (pairClass v)
  burnPn (setQp s q (some { v with outTag := tag })) v.lport (entryOf v.owner) n

/-- What a pair had to send leaves. -/
def emit (s : State) (q : Nat) (t : Tx) : State :=
  match getQp s q with
  | none => s
  | some v =>
    match t with
    | .request _ n => putOut s q v n
    | .again n => putOut s q v n
    | .mail m _ n => putOut { s with sent := s.sent ++ [m] } q v n
    | .answer psn code => putOut s q { v with acks := v.acks ++ [(psn, code)] } 1
    | .reply l => putOut s q { v with reply := v.reply ++ [l] } (packetsOf v.mtu l.length)
    | .cnp => putOut s q { v with cnps := v.cnps + 1 } 1

/-- What a pair has to send leaves at once, or waits behind what is held back. -/
def transmitOn (s : State) (q : Nat) (t : Tx) : State :=
  match getQp s q with
  | none => s
  | some v => if v.txq ≠ [] ∨ pairHeld s v then setQp s q (some { v with txq := v.txq ++ [t] }) else emit s q t

/-- RDMA READs of a pair in flight (R370). -/
def readsOut (v : Qp) : Nat := (v.outstanding.filter (fun o => o.kind == 2)).length

/-- A message waits behind the limit of reads in flight (R370). -/
def mustWait (v : Qp) (m : OutMsg) : Bool := decide (m.kind = 2 ∧ readsOut v ≥ v.reads)

/-- A message takes its packet numbers and is outstanding until it is acknowledged; held frames count toward the retry timer (R367). -/
def post (s : State) (q : Nat) (v : Qp) (m : OutMsg) (mail : Option Sent) : State :=
  let n := packetsOf v.mtu m.len
  transmitOn (setQp s q (some { v with outstanding := v.outstanding ++ [{ m with psn := v.sPsn }], sPsn := (v.sPsn + n) % 2 ^ 24,
                                       sentAt := if v.outstanding = [] then s.fab else v.sentAt })) q
    (match mail with | none => .request v.sPsn n | some x => .mail x v.sPsn n)

/-- A message of a queue pair, with the mailbox message that it is; nothing leaves on a pair in the error state. -/
def sendOn (s : State) (q : Nat) (m : OutMsg) (mail : Option Sent := none) : State :=
  match getQp s q with
  | none => s
  | some v =>
    if v.error then s
    else if v.later ≠ [] ∨ mustWait v m then setQp s q (some { v with later := v.later ++ [(m, mail)] })
    else post s q v m mail

/-- Post the messages that waited for a READ to end. -/
def postLater (s : State) (q : Nat) : Nat → State
  | 0 => s
  | k + 1 =>
    match getQp s q with
    | none => s
    | some v =>
      match v.later with
      | [] => s
      | (m, mail) :: r => if mustWait v m then s else postLater (post s q { v with later := r } m mail) q k

/-- A response or event leaves. -/
def sendMail (s : State) (m : Sent) : State :=
  match getQp s m.qpn with
  | none => s
  | some v => if v.error then s else sendOn s m.qpn { psn := 0, kind := 0, len := 64 + m.body.length } (some m)

/-- A response (R381): flags bit 1, and bit 3 when the request was not admitted. -/
def respond (s : State) (q op tag status scope seq retry : Nat) (admitted : Bool) (body : List Byte) : State :=
  sendMail s { qpn := q, op := op, tag := tag, flags := if admitted then 0x02 else 0x0A, status := status, scope := scope,
               seq := seq, time := devNs s, retry := retry, lost := 0, body := body }

/-- Send the unsent events of a pair that is not waiting for the host's receive buffers (R380, R390): the lost count
goes with the first. -/
def flushGo (s : State) (q : Nat) : Nat → State
  | 0 => s
  | k + 1 =>
    match getQp s q with
    | none => s
    | some v =>
      match v.events with
      | [] => s
      | e :: r =>
        if v.rnrWait || v.error then s
        else
          let s1 := setQp s q (some { v with events := r, lost := 0 })
          flushGo (sendMail s1 { e with lost := v.lost, time := devNs s }) q k

def flushEvents (s : State) (q : Nat) : State := flushGo s q 256

/-- An event is produced for a queue pair (R390): it takes its number, the oldest of more than 256 is discarded. -/
def pushEvent (s : State) (q op status scope : Nat) (body : List Byte) : State :=
  match getQp s q with
  | none => s
  | some v =>
    let e : Sent := { qpn := q, op := op, tag := 0, flags := 0x04, status := status, scope := scope, seq := v.evNo,
                      time := devNs s, retry := 0, lost := 0, body := body }
    flushEvents (setQp s q (some (queueEvent v e))) q

/-- Queue pairs that satisfy a test, in ascending number. -/
def qpsWhere (s : State) (f : Qp → Bool) : List Nat :=
  s.qps.filterMap (fun e => match e.2 with | none => none | some v => if f v then some e.1 else none)

/-- A job event goes to the partition's mailbox pairs and to the device pairs subscribed to it (R390). -/
def jobEvent (s : State) (p op status : Nat) (body : List Byte) : State :=
  (qpsWhere s (fun v => v.mbx && (v.owner == p || (v.owner == 64 && bit v.subs p)))).foldl
    (fun s q => pushEvent s q op status p body) s

/-- A device event goes to every device mailbox pair. -/
def devEvent (s : State) (op : Nat) (body : List Byte) : State :=
  (qpsWhere s (fun v => v.mbx && v.owner == 64)).foldl (fun s q => pushEvent s q op stOk 64 body) s

/-- A trap record's bytes (R70). -/
def trapBytes (r : TrapRec) : List Byte :=
  leBytes 1 r.cause ++ leBytes 1 ((if r.precise then 1 else 0) + (if r.extra = 0 then 0 else 2)) ++ leBytes 2 r.who ++
  leBytes 2 r.phys ++ leBytes 2 r.opTag ++ leBytes 4 r.index ++ leBytes 1 r.part ++ leBytes 1 r.syncId ++
  leBytes 2 r.extra ++ leBytes 8 r.detail.toNat ++ leBytes 8 r.time

/-- An event record's bytes (R297). -/
def eventBytes (r : EventRec) : List Byte :=
  leBytes 1 r.code ++ leBytes 1 (if r.certain then 1 else 0) ++ leBytes 1 r.unitKind ++ leBytes 1 r.part ++
  leBytes 6 r.unit ++ leBytes 2 r.merged ++ slice r.detail 0 12 ++ leBytes 8 r.time

/-- Bytes of a ring entry. -/
def entryBytes : RingEntry → List Byte
  | .trap r => trapBytes r
  | .event r => eventBytes r

/-- Body of DEV_EVENT and JOB_FAULT (R413). -/
def faultBody (kind unitKind unit : Nat) (record : List Byte) : List Byte :=
  leBytes 1 kind ++ leBytes 1 unitKind ++ leBytes 6 unit ++ zeros 8 ++ slice record 0 32

/-- DEV_EVENT of a kind, and JOB_FAULT to the tenant as well when a partition is affected. -/
def devFault (s : State) (kind unitKind unit : Nat) (record : List Byte) : State :=
  devEvent s 0x0080 (faultBody kind unitKind unit record)
def jobFault (s : State) (p kind unitKind unit : Nat) (record : List Byte) : State :=
  jobEvent s p 0x0283 stOk (faultBody kind unitKind unit record)

/-- Dies in service (R401). -/
def diesOk (s : State) : Nat :=
  ((List.range 4).map (fun d => if dieOk s d && !(getDie s d).out then 2 ^ d else 0)).sum

/-- Set the service code and announce it (R412). -/
def setService (s : State) (code : Nat) : State :=
  devEvent { s with service := code } 0x0081 (leBytes 1 code ++ leBytes 1 (diesOk s))

/-! ### The hub's own access to a partition's memory -/

/-- Words of 8 bytes of the device area that a write of `n` bytes at `o` covers. -/
def coveredWords (o n : Nat) : List Nat :=
  if n = 0 then [] else (List.range ((o + n - 1) / 8 - o / 8 + 1)).map (fun i => 8 * (o / 8 + i))

/-- Write a partition's device area (R407): the reserved part ignores writes; a covered word waits for its step, once for each write: `again`
says that a part of the same write has reached the first byte's word before. -/
def writeArea (pt : Part) (die o : Nat) (l : List Byte) (noting : Bool) (again : Bool := false) : Part :=
  let ws := (coveredWords o l.length).drop (if again ∧ o % 8 ≠ 0 then 1 else 0)
  let keep := (List.range l.length).filter (fun i => decide (o + i < 0x2000 ∨ 0x10000 ≤ o + i))
  { pt with area := keep.foldl (fun m i => tset 0 m (o + i) (l.getD i 0)) pt.area,
            touched := if noting then pt.touched ++ ws.map (fun w => (w, die)) else pt.touched }

/-- Write one piece at an endpoint's byte address for partition `p`: the state, and the first refused byte's address. -/
def putPiece (s : State) (p : Nat) (d : Dest) (l : List Byte) (keepCv noting : Bool) (again : Bool := false) : State × Option Nat :=
  let col := d.pos % 64
  if col < 32 then (modCore s (servedBy s d.pos) (fun c => writeCore c d.addr l), none)
  else if col < 36 then (writeSlice s (sliceOfPos d.pos) d.addr l keepCv, none)
  else if col < 50 then writeTier s 0 d.addr l
  else if d.addr < 2 ^ 46 then writeTier s 1 d.addr l
  else (modPart s p (fun pt => writeArea pt (d.pos / 1024) (d.addr - 2 ^ 46) l noting again), none)

/-- Read one piece: the bytes, and whether they are poisoned (an uncorrectable word of a core counts as that here). -/
def getPiece (s : State) (p : Nat) (d : Dest) (n : Nat) : State × List Byte × Bool :=
  let col := d.pos % 64
  if col < 32 then
    match readCore s (servedBy s d.pos) d.addr n with
    | (s1, none) => (s1, zeros n, true)
    | (s1, some l) => (s1, l, false)
  else if col < 36 then readSlice s (sliceOfPos d.pos) d.addr n
  else if col < 50 then readTier s 0 d.addr n
  else if d.addr < 2 ^ 46 then readTier s 1 d.addr n
  else (s, readBytes ((getPart s p).getD {}).area (d.addr - 2 ^ 46) n, false)

/-- Write bytes at a partition address, piece by piece; answers the partition address of the first refused byte. -/
def putMemGo (s : State) (p die : Nat) : Nat → Nat → List Byte → State × Option Nat
  | 0, _, _ => (s, none)
  | k + 1, a, l =>
    if l = [] then (s, none)
    else
      match getPart s p with
      | none => (s, some a)
      | some pt =>
        let n := pieceLen a l.length
        let d := placeOf pt die a
        let (s1, bad) := putPiece s p d (l.take n) false true
        match bad with
        | some b => (s1, some (a + (b - d.addr)))
        | none => putMemGo s1 p die k (a + n) (l.drop n)

/-- The hub writes a checked extent (R36): `none` on success. -/
def putMem (s : State) (p die a : Nat) (l : List Byte) : State × Option Nat :=
  match getPart s p with
  | none => (s, some a)
  | some pt =>
    match firstBad pt true a l.length with
    | some b => (s, some b)
    | none => putMemGo s p die (l.length / 256 + 2) a l

/-- Read bytes at a partition address, piece by piece, stopping at the first poisoned piece. -/
def getMemGo (s : State) (p die : Nat) : Nat → Nat → Nat → List Byte → State × List Byte × Option Nat
  | 0, _, _, acc => (s, acc, none)
  | k + 1, a, n, acc =>
    if n = 0 then (s, acc, none)
    else
      match getPart s p with
      | none => (s, acc, some a)
      | some pt =>
        let m := pieceLen a n
        let (s1, l, poison) := getPiece s p (placeOf pt die a) m
        if poison then (s1, acc, some a) else getMemGo s1 p die k (a + m) (n - m) (acc ++ l)

/-- The hub reads a checked extent: the bytes before the first failure, and where it failed. -/
def getMem (s : State) (p die a n : Nat) : State × List Byte × Option Nat :=
  match getPart s p with
  | none => (s, [], some a)
  | some pt =>
    match firstBad pt false a n with
    | some b => (s, [], some b)
    | none => getMemGo s p die (n / 256 + 2) a n []

/-! ### The end of a job (R48, R348, R411, R414) -/

/-- A thread's enable bit (R66). -/
def enabled (th : Thread) : Bool := bit th.cfg 18

/-- A core's share of the job is complete (R48). -/
def coreComplete (c : Core) : Bool :=
  threadIds.all (fun t =>
    let th := getThread c t
    !(enabled th) || (th.state == .halted && th.opsOut == 0)) &&
  c.raises.all (fun r => match r.src with | .thread _ _ => false | .pattern _ => true)

/-- Thread-report entries of a partition (R411): 32 bytes for each enabled thread. -/
def reportBytes (s : State) (pt : Part) : List Byte :=
  (List.range (coresOf pt)).flatMap (fun n =>
    let c := getCore s (physAt s pt n)
    threadIds.flatMap (fun t =>
      let th := getThread c t
      if enabled th then
        leBytes 2 (logAt pt n + 4096 * t) ++ leBytes 1 (fld th.flags 2 0) ++
        leBytes 1 (match th.state with
          | .idle => 0 | .ready => 1 | .waiting => 2 | .stalled => 3 | .draining => 4 | .trapped => 5 | .halted => 6) ++
        zeros 4 ++ leBytes 8 (tget (0 : W64) th.flagPos 0).toNat ++ leBytes 8 (tget (0 : W64) th.flagPos 1).toNat ++
        leBytes 8 (tget (0 : W64) th.flagPos 2).toNat
      else []))

/-- Union of the flags of all threads of a partition. -/
def flagUnion (s : State) (pt : Part) : Nat :=
  (partCores s pt).foldl (fun u p =>
    threadIds.foldl (fun u t => u ||| fld (getThread (getCore s p) t).flags 2 0) u) 0

/-- JOB_END body (R414). -/
def endBody (pt : Part) (code flags threads now : Nat) : List Byte :=
  leBytes 8 pt.job ++ leBytes 1 code ++ leBytes 1 flags ++ leBytes 2 threads ++ leBytes 4 pt.restarts ++
  leBytes 8 pt.started ++ leBytes 8 now

/-- The counter of every valid CORE_CREDIT entry of a core takes the value `units` (R348). -/
def restoreCredits (c : Core) : Core :=
  c.credit.foldl (fun c e =>
    if bit e.2 58 then
      setCtr c (fld e.2 57 50) { getCtr c (fld e.2 57 50) with value := BitVec.ofNat 32 (fld e.2 49 38) }
    else c) c

/-- Apply a change to every core of a partition. -/
def eachCore (s : State) (pt : Part) (f : Core → Core) : State :=
  (partCores s pt).foldl (fun s p => modCore s p f) s

/-- The job of a partition ends: the thread report when asked for, JOB_END, no job running, its clusters in SLEEP (R470). -/
def endJob (s : State) (p code : Nat) : State :=
  match getPart s p with
  | none => s
  | some pt =>
    let rep := reportBytes s pt
    let s1 := if pt.flags % 2 = 1 then (putMem s p pt.die pt.report rep).1 else s
    let n := if pt.flags % 2 = 1 then rep.length / 32 else 0
    let body := endBody pt code (flagUnion s pt) n (devNs s)
    let s2 := pt.clusters.foldl (fun s c => modPow s c (fun w => { w with mode := if w.mode ≤ 1 then 2 else w.mode, lend := false })) s1
    jobEvent (modPart s2 p (fun q => { q with running := false, lastEnd := body, waiting := false, isolate := none }))
      p 0x0280 stOk body

/-- When every core of a running job reports its share complete, the job ends and credits return (R48, R348). -/
def jobCheck (s : State) (p : Nat) : State :=
  match getPart s p with
  | none => s
  | some pt =>
    if pt.running && !pt.stopping && (partCores s pt).all (fun q => coreComplete (getCore s q)) then
      endJob (eachCore s pt restoreCredits) p 0
    else s

/-- `jobCheck` of the partition that a physical core serves. -/
def jobCheckAt (s : State) (phys : Nat) : State :=
  match indexOf s phys with
  | none => s
  | some (p, _) => jobCheck s p

end Sys2Proof.Machine
end

