-- ==== Sys2Proof/Machine/Operands.lean ====
section
/-! DEFINITION. Operand forms of the command word (R49, R50): its fields, and which bits and encodings are reserved. -/

namespace Sys2Proof.Machine

def opcode (w : W64) : Nat := fld w 63 56
def syncIdOf (w : W64) : Nat := fld w 55 48
def immOf (w : W64) : Nat := fld w 31 0
def coreIndexOf (w : W64) : Nat := fld w 46 36
def lcOf (w : W64) : Nat := fld w 55 54
def cntSrc (w : W64) : Bool := bit w 53
def bodyOf (w : W64) : Nat := fld w 49 32
def condOf (w : W64) : Nat := fld w 47 45
def branchImm (w : W64) : Nat := fld w 23 0
def targetOf (w : W64) : Nat := fld w 17 0
def replayId (w : W64) : Nat := fld w 55 40

/-- The signed 18-bit offset of BRANCH. -/
def offsetOf (w : W64) : Int := signed 18 (fld w 41 24)

/-- The opcodes of R49. -/
def opHalt : Nat := 0x01
def opNop : Nat := 0x02
def opReplay : Nat := 0x03
def opIssueTe : Nat := 0x10
def opIssueVe : Nat := 0x11
def opIssueDma : Nat := 0x12
def opIssueSend : Nat := 0x13
def opIssueRecv : Nat := 0x14
def opSyncSet : Nat := 0x20
def opSyncAdd : Nat := 0x21
def opSyncSub : Nat := 0x22
def opRemote : Nat := 0x23
def opWaitGe : Nat := 0x24
def opWaitEq : Nat := 0x25
def opWaitTake : Nat := 0x26
def opLoop : Nat := 0x30
def opLoopEnd : Nat := 0x31
def opBranch : Nat := 0x32
def opJump : Nat := 0x33
def opCall : Nat := 0x34
def opRet : Nat := 0x35

/-- An opcode that the table assigns (R49). -/
def assigned (op : Nat) : Bool :=
  decide ((1 ≤ op ∧ op ≤ 3) ∨ (0x10 ≤ op ∧ op ≤ 0x14) ∨ (0x20 ≤ op ∧ op ≤ 0x26) ∨ (0x30 ≤ op ∧ op ≤ 0x35))

/-- No reserved bit of the command is set and no reserved encoding is used (R50, R55). -/
def fieldsOk (w : W64) : Bool :=
  let op := opcode w
  if op = opHalt ∨ op = opNop ∨ op = opRet then decide (fld w 55 0 = 0)
  else if op = opReplay then decide (fld w 39 0 = 0 ∧ replayId w ≠ 0xFFFF)
  else if 0x10 ≤ op ∧ op ≤ 0x14 then decide (fld w 27 15 = 0)
  else if op = opRemote then decide (fld w 47 47 = 0 ∧ fld w 35 32 = 0)
  else if 0x20 ≤ op ∧ op ≤ 0x26 then decide (fld w 47 32 = 0)
  else if op = opLoop then decide (fld w 52 50 = 0) && (!cntSrc w || decide (fld w 31 8 = 0))
  else if op = opLoopEnd then decide (fld w 53 0 = 0)
  else if op = opBranch then decide (fld w 44 42 = 0 ∧ condOf w < 6)
  else if op = opJump ∨ op = opCall then decide (fld w 55 18 = 0)
  else false

/-- The comparison of BRANCH (R55). -/
def branchHolds (cond v imm : Nat) : Bool :=
  match cond with
  | 0 => v == imm
  | 1 => v != imm
  | 2 => decide (v < imm)
  | 3 => decide (v ≥ imm)
  | 4 => decide (v ≤ imm)
  | 5 => decide (v > imm)
  | _ => false

/-- The condition of a WAIT on a counter's value (R49). -/
def waitHolds (op v imm : Nat) : Bool := if op = opWaitEq then v == imm else decide (v ≥ imm)

end Sys2Proof.Machine
end

