-- ==== Sys2Proof/Machine/Threads.lean ====
section
/-! DEFINITION. The command threads (R43 to R67): issue, the thread's own commands, its fetch, waits and watchdogs. A
thread's command takes effect in the compute cycle that the command names the thread for, when R45 picks that thread
and the word it stands at has that opcode; otherwise no command issues and the step changes nothing. -/

namespace Sys2Proof.Machine

/-! ### Which thread issues (R45, R46) -/

/-- The word at an index, as the thread's fetch buffer holds it. -/
def wordAt (th : Thread) (i : Nat) : Option W64 :=
  (th.fetch.find? (fun f => f.row == i / 8)).map (fun f => BitVec.ofNat 64 (f.data.toNat >>> (64 * (i % 8))))

/-- The word that the thread would issue: the WAIT it waits on, or the word at its pc. -/
def curWord (th : Thread) : Option W64 :=
  if th.waitFrom.isSome then
    some (BitVec.ofNat 64 (2 ^ 56 * th.waitOp + 2 ^ 48 * th.waitSync + th.waitImm.toNat))
  else wordAt th th.pc

/-- The thread may issue in this cycle. -/
def eligible (th : Thread) : Bool := th.state == .ready && (curWord th).isSome

/-- The thread is served as prio 1 (R45). -/
def highPrio (th : Thread) : Bool := bit th.cfg 19 || decide (th.age ≥ 64)

/-- ThreadIDs in rotation order, beginning after the one that issued last (16: before ThreadID 0). -/
def rotation (last : Nat) : List Nat := (List.range 16).map (fun i => (last + 1 + i + (if last ≥ 16 then 15 else 0)) % 16)

/-- The thread that the core issues from (R45). -/
def pick (c : Core) : Option Nat :=
  match (rotation c.rr1).find? (fun t => eligible (getThread c t) && highPrio (getThread c t)) with
  | some t => some t
  | none => (rotation c.rr0).find? (fun t => eligible (getThread c t))

/-- Bookkeeping of an issue: the rotation moves, the other READY threads age, the core makes progress (R45, R238). DESIGN CHOICE
(log 68): an ISSUE that finds its queue full, or a fifth remote raise, uses the cycle and moves the rotation as an issue does, and so does
a command that traps as it issues. -/
def noteIssue (now : Nat) (c : Core) (t : Nat) : Core :=
  let hi := highPrio (getThread c t)
  let aged := threadIds.foldl (fun c u =>
    modThread c u (fun th =>
      if u = t then { th with age := 0 }
      else if eligible th ∧ bit th.cfg 19 = false ∧ th.age < 63 then { th with age := th.age + 1 } else th)) c
  { aged with rr1 := if hi then t else c.rr1, rr0 := if hi then c.rr0 else t,
              issued := c.issued + 1, progress := c.progress + 1, idleFrom := some now }

/-- Next index inside the thread's range (R57). -/
def inRange (th : Thread) (i : Nat) : Bool := decide (fld th.range 17 0 ≤ i ∧ i ≤ fld th.range 35 18)

/-- Move a thread to an index: READY when its row is in the fetch buffer, STALLED for its fetch otherwise; rows other
than that one and the next leave the buffer (R46). -/
def goTo (th : Thread) (i : Nat) : Thread :=
  let f := th.fetch.filter (fun r => r.row == i / 8 || r.row == i / 8 + 1)
  { th with pc := i, fetch := f, waitFrom := none, age := 0,
            state := if f.any (fun r => r.row == i / 8) then .ready else .stalled }

/-- The picked thread's word, when the core runs, this is the thread, and the word has the opcode. -/
def ready (s : State) (p t : Nat) (q : Nat → Bool) : Option W64 :=
  let c := getCore s p
  if runs s p && pick c == some t then
    match curWord (getThread c t) with
    | none => none
    | some w => if q (opcode w) then some w else none
  else none

/-- Issue a command: reserved bits trap with BAD_FIELD and nothing else happens (R50); otherwise `f` gives the effect on
the state in which the issue has been noted. -/
def issue (s : State) (p t op : Nat) (f : State → W64 → State) : State :=
  match ready s p t (· == op) with
  | none => s
  | some w =>
    let s1 := modCore s p (fun c => noteIssue (coreNow s c) c t)
    if fieldsOk w then f s1 w else trapHere s1 p t causeBadField 0 w

/-- `issue` where the core and the thread exist. -/
def issueOut (s : State) (p t op : Nat) (f : State → W64 → State) : Out :=
  onUnit (coreOk s p && decide (t < 16)) (issue s p t op f)

/-- Continue at index `i`, or trap with PC_RANGE; `f` is the command's effect, which a trap leaves out (R57). -/
def continueAt (s : State) (p t i : Nat) (f : State → State) : State :=
  if inRange (getThread (getCore s p) t) i then
    let s1 := f s
    if (getThread (getCore s1 p) t).state = .trapped then s1 else modCore s1 p (fun c => modThread c t (fun th => goTo th i))
  else trapHere s p t causePcRange 0 0

/-- pc of a thread. -/
def pcOf (s : State) (p t : Nat) : Nat := (getThread (getCore s p) t).pc

/-! ### Control -/

/-- NOP (R49). -/
def execNop (p t : Nat) (s : State) : Out :=
  issueOut s p t opNop (fun s _ => continueAt s p t (pcOf s p t + 1) id)

/-- Opcode 0x00 or a reserved opcode traps the thread (R49); the cycle counts as an issue (DESIGN CHOICE, log 68). -/
def execIllegalOpcode (p t : Nat) (s : State) : Out :=
  onUnit (coreOk s p && decide (t < 16))
    (match ready s p t (fun op => !assigned op) with
     | none => s
     | some w => trapHere (modCore s p (fun c => noteIssue (coreNow s c) c t)) p t causeIllegal 0 w)

/-! ### Engine issue (R51) -/

/-- Depth of an engine's issue queue (R43). -/
def queueDepth : Nat := 8

/-- Issue queue of the engine that an ISSUE opcode names. -/
def queueOf (c : Core) (op : Nat) : List IssueOp :=
  if op = opIssueTe then c.qTe else if op = opIssueVe then c.qVe else if op = opIssueDma then c.qDma else c.qPort

def withQueue (c : Core) (op : Nat) (q : List IssueOp) : Core :=
  if op = opIssueTe then { c with qTe := q } else if op = opIssueVe then { c with qVe := q }
  else if op = opIssueDma then { c with qDma := q } else { c with qPort := q }

/-- Engine number for the record of last operations: 0 TE, 1 VE, 2 DMA, 3 queue ports. -/
def engineOf (op : Nat) : Nat := if op = opIssueTe then 0 else if op = opIssueVe then 1 else if op = opIssueDma then 2 else 3

/-- ISSUE: queue the operation, or stall while the queue is full. -/
def issueEngine (op p t : Nat) (s : State) : Out :=
  issueOut s p t op (fun s w =>
    let c := getCore s p
    let i := pcOf s p t
    if inRange (getThread c t) (i + 1) = false then trapHere s p t causePcRange 0 0
    else if (queueOf c op).length ≥ queueDepth then
      modCore s p (fun c => modThread c t (fun th => { th with state := .stalled, age := 0 }))
    else
      let o : IssueOp := { thread := t, index := i, word := w }
      modCore s p (fun c =>
        modThread (withQueue c op (queueOf c op ++ [o])) t (fun th =>
          goTo { th with used := if th.used.contains (engineOf op) then th.used else engineOf op :: th.used, opsOut := th.opsOut + 1, lastOp := tset none th.lastOp (engineOf op) (some (fld w 14 0)) } (i + 1))))

def execIssueTe (p t : Nat) (s : State) : Out := issueEngine opIssueTe p t s
def execIssueVe (p t : Nat) (s : State) : Out := issueEngine opIssueVe p t s
def execIssueDma (p t : Nat) (s : State) : Out := issueEngine opIssueDma p t s
def execIssueSend (p t : Nat) (s : State) : Out := issueEngine opIssueSend p t s
def execIssueRecv (p t : Nat) (s : State) : Out := issueEngine opIssueRecv p t s

/-- Remote raises of a thread without their acknowledgement (R64). -/
def raisesOf (c : Core) (t : Nat) : Nat :=
  (c.raises.filter (fun r => match r.src with | .thread u _ => u == t | .pattern _ => false)).length

/-- Threads stalled on a full queue or on 4 raises become READY once the cause has cleared (R44). -/
def unstall (c : Core) : Core :=
  threadIds.foldl (fun c t =>
    let th := getThread c t
    match th.state, wordAt th th.pc with
    | .stalled, some w =>
      let op := opcode w
      let clear := if op = opRemote then decide (raisesOf c t < 4)
                   else if 0x10 ≤ op ∧ op ≤ 0x14 then decide ((queueOf c op).length < queueDepth) else true
      if clear then setThread c t { th with state := .ready } else c
    | _, _ => c) c

/-! ### Counters (R60 to R64) -/

/-- A counter update by the issuing thread; a refused one traps it precisely (R62). One that is refused only because the counter's fault bit is
set traps with the cause of the fault kind recorded (R63; DEDUCED, log 16). -/
def syncCmd (op p t : Nat) (f : SyncCtr → Nat → SyncCtr × Bool) (s : State) : Out :=
  issueOut s p t op (fun s w =>
    let i := syncIdOf w
    let r := f (getCtr (getCore s p) i) (immOf w)
    continueAt s p t (pcOf s p t + 1) (fun s =>
      let s1 := writeCtr s p i r
      if r.2 then s1 else trapHere s1 p t (ctrCause r.1) i (ctrDetail r.1)))

def execSyncSet (p t : Nat) (s : State) : Out := syncCmd opSyncSet p t ctrSet s
def execSyncAdd (p t : Nat) (s : State) : Out := syncCmd opSyncAdd p t ctrAdd s
def execSyncSub (p t : Nat) (s : State) : Out := syncCmd opSyncSub p t ctrSub s

/-- Partition of a physical core, with the core's own index and position. -/
def homeIn (s : State) (p : Nat) : Option (Nat × Part × Nat) :=
  match indexOf s p with
  | none => none
  | some (q, n) => (getPart s q).map (fun pt => (q, pt, n))

/-- SYNC_ADD_REMOTE (R64). -/
def execSyncAddRemote (p t : Nat) (s : State) : Out :=
  issueOut s p t opRemote (fun s w =>
    let n := coreIndexOf w
    let i := pcOf s p t
    match homeIn s p with
    | none => s
    | some (_, pt, own) =>
      if inRange (getThread (getCore s p) t) (i + 1) = false then trapHere s p t causePcRange 0 0
      else if n ≥ coresOf pt then trapHere s p t causeRemote (syncIdOf w) (BitVec.ofNat 64 n)
      else if raisesOf (getCore s p) t ≥ 4 then
        modCore s p (fun c => modThread c t (fun th => { th with state := .stalled, age := 0 }))
      else
        let s1 := sendRaise s p (logAt pt own) (logAt pt n) (.thread t i) n (syncIdOf w) (immOf w)
        modCore s1 p (fun c => modThread c t (fun th => goTo th (i + 1))))

/-- A WAIT: it issues when its condition holds, traps on a faulted counter, and otherwise leaves the thread WAITING
with its watchdog running from the first entry (R61, R63, R67). -/
def waitCmd (op p t : Nat) (s : State) : Out :=
  issueOut s p t op (fun s w =>
    let c := getCore s p
    let th := getThread c t
    let i := syncIdOf w
    let k := getCtr c i
    if inRange th (th.pc + 1) = false then trapHere s p t causePcRange 0 0
    else if k.fault then trapHere s p t (ctrCause k) i (ctrDetail k)
    else if waitHolds op k.value.toNat (immOf w) then
      modCore s p (fun c =>
        modThread (if op = opWaitTake then setCtr c i (ctrSub k (immOf w)).1 else c) t (fun th => goTo th (th.pc + 1)))
    else
      modCore s p (fun c => modThread c t (fun th =>
        { th with state := .waiting, waitSync := i, waitImm := BitVec.ofNat 32 (immOf w), waitOp := op, age := 0,
                  waitFrom := th.waitFrom.or (some (coreNow s c)) })))

def execWaitGe (p t : Nat) (s : State) : Out := waitCmd opWaitGe p t s
def execWaitEq (p t : Nat) (s : State) : Out := waitCmd opWaitEq p t s
def execWaitTake (p t : Nat) (s : State) : Out := waitCmd opWaitTake p t s

/-- A waiting thread's condition holds: it becomes READY and its fetch buffer is discarded (R46, R61). -/
def execWaitSatisfied (p t : Nat) (s : State) : Out :=
  onUnit (coreOk s p && decide (t < 16))
    (let c := getCore s p
     let th := getThread c t
     if th.state = .waiting ∧ runs s p ∧ (getCtr c th.waitSync).fault = false ∧
        waitHolds th.waitOp (getCtr c th.waitSync).value.toNat th.waitImm.toNat then
       unlend (setCore s p (setThread c t { th with state := .ready, fetch := [], age := 0 })) p
     else s)

/-- Watchdog limit of a thread in fabric cycles (R66). -/
def wdogLimit (th : Thread) : Nat := usCycles (16 * 2 ^ fld th.cfg 24 21)

/-- The wait watchdog expires (R67); a core stopped by R148 leaves every thread in its state. -/
def execWaitWatchdog (p t : Nat) (s : State) : Out :=
  onUnit (coreOk s p && decide (t < 16))
    (let c := getCore s p
     let th := getThread c t
     match th.waitFrom with
     | none => s
     | some f =>
       if bit th.cfg 20 ∧ (th.state = .waiting ∨ th.state = .ready) ∧ isFrozen c = false ∧ c.stopped = false ∧
          coreNow s c > f + wdogLimit th then
         trapHere s p t causeWatchdog 0 0
       else s)

/-! ### Flow (R54 to R57) -/

/-- LOOP. A faulted counter is found before the next index's range is looked at (DESIGN CHOICE, log 3). -/
def execLoop (p t : Nat) (s : State) : Out :=
  issueOut s p t opLoop (fun s w =>
    let c := getCore s p
    let th := getThread c t
    let k := getCtr c (fld w 7 0)
    if cntSrc w ∧ k.fault then trapHere s p t (ctrCause k) (fld w 7 0) (ctrDetail k)
    else
      let n := if cntSrc w then k.value.toNat else immOf w
      if n = 0 then continueAt s p t (th.pc + bodyOf w + 2) id
      else continueAt s p t (th.pc + 1) (fun s =>
        modCore s p (fun c => modThread c t (fun th =>
          { th with lc := tset 0 th.lc (lcOf w) (BitVec.ofNat 32 n),
                    lcStart := tset 0 th.lcStart (lcOf w) (th.pc + 1) }))))

/-- LOOP_END. -/
def execLoopEnd (p t : Nat) (s : State) : Out :=
  issueOut s p t opLoopEnd (fun s w =>
    let th := getThread (getCore s p) t
    let v := (tget (0 : W32) th.lc (lcOf w)).toNat
    let next := if v ≤ 1 then th.pc + 1 else tget 0 th.lcStart (lcOf w)
    continueAt s p t next (fun s =>
      modCore s p (fun c => modThread c t (fun th =>
        { th with lc := tset 0 th.lc (lcOf w) (BitVec.ofNat 32 (v - 1)) }))))

/-- BRANCH: an index below 0 lies outside every range. A faulted counter is found first (DESIGN CHOICE, log 3). -/
def execBranch (p t : Nat) (s : State) : Out :=
  issueOut s p t opBranch (fun s w =>
    let c := getCore s p
    let th := getThread c t
    let k := getCtr c (syncIdOf w)
    if k.fault then trapHere s p t (ctrCause k) (syncIdOf w) (ctrDetail k)
    else if branchHolds (condOf w) k.value.toNat (branchImm w) then
      (if (th.pc : Int) + offsetOf w < 0 then trapHere s p t causePcRange 0 0
       else continueAt s p t ((th.pc : Int) + offsetOf w).toNat id)
    else continueAt s p t (th.pc + 1) id)

/-- JUMP. -/
def execJump (p t : Nat) (s : State) : Out := issueOut s p t opJump (fun s w => continueAt s p t (targetOf w) id)

/-- CALL (R56). A full call stack is found before the target's range is looked at (DESIGN CHOICE, log 3). -/
def execCall (p t : Nat) (s : State) : Out :=
  issueOut s p t opCall (fun s w =>
    let th := getThread (getCore s p) t
    if th.calls.length ≥ 8 then trapHere s p t causeCallOver 0 0
    else continueAt s p t (targetOf w) (fun s =>
      modCore s p (fun c => modThread c t (fun th => { th with calls := (th.pc + 1) :: th.calls }))))

/-- RET. -/
def execRet (p t : Nat) (s : State) : Out :=
  issueOut s p t opRet (fun s _ =>
    match (getThread (getCore s p) t).calls with
    | [] => trapHere s p t causeCallUnder 0 0
    | i :: r => continueAt s p t i (fun s => modCore s p (fun c => modThread c t (fun th => { th with calls := r }))))

/-! ### Replay records and HALT (R58, R59) -/

/-- The 128 bytes of a replay record. -/
def replayRecord (th : Thread) (t rid resume time job : Nat) : List Byte :=
  let calls := th.calls.reverse
  let b := leBytes 2 rid ++ leBytes 1 t ++ leBytes 1 th.calls.length ++ leBytes 4 resume ++
    (List.range 4).flatMap (fun i => leBytes 4 (tget (0 : W32) th.lc i).toNat) ++
    (List.range 4).flatMap (fun i => leBytes 4 (tget 0 th.lcStart i)) ++
    (List.range 8).flatMap (fun i => leBytes 4 (calls.getD i 0)) ++
    leBytes 8 time ++ leBytes 8 job ++ zeros 36
  b ++ leBytes 4 (crc32c b).toNat

/-- Area of a thread's replay slots (R66): a 128-byte aligned partition address. -/
def replayArea (th : Thread) : Nat := 128 * fld th.replay 47 7

/-- Receive channels that a thread owns close when it becomes HALTED. -/
def closeOwned (c : Core) (t : Nat) : Core :=
  (List.range 64).foldl (fun c i =>
    let ch : RecvCh := tget {} c.recv i
    if bit ch.cfg 0 ∧ fld ch.cfg 4 1 = t ∧ ch.state = 0 then closeChan c i else c) c

/-- The record is in memory: the thread goes on after its REPLAY, or becomes HALTED and its channels close (R58, R59, R217). -/
def finishRecord (s : State) (p t : Nat) (halts : Bool) : State :=
  let s1 := modCore s p (fun c => modThread c t (fun th =>
    if halts then { th with state := .halted, altSlot := !th.altSlot, age := 0, used := [] }
    else goTo { th with altSlot := !th.altSlot, used := [] } (th.pc + 1)))
  if halts then jobCheckAt (modCore s1 p (fun c => closeOwned c t)) p else stir s1 p

/-- The write of the record failed (R58). -/
def failRecord (s : State) (p t : Nat) : State :=
  jobCheckAt (trap s p t causeReplay { precise := false, index := (getThread (getCore s p) t).pc }) p

/-- The thread has drained: its record is written where CORE_THR_REPLAY points (R58). A record for the core's own memory is there at
once; any other goes out as one write transfer, and the thread waits for its WRITE_ACK. A suspect that is replayed alone ends its
replay here and writes no record (R354). DESIGN CHOICES (log 68): the transfer holds the lowest free DMA tag while it is under way,
and waits where none is free; HALT's record names HALT's own index as the one to resume at; the first record of a thread goes into
slot 0, and the alternation goes on over a restart. -/
def sendRecord (s : State) (p t : Nat) (halts : Bool) (rid : Nat) : State :=
  let c := getCore s p
  let th := getThread c t
  match homeIn s p with
  | none => s
  | some (_, pt, own) =>
    if pt.isolate.isSome then s
    else
      let a := replayArea th + if th.altSlot then 128 else 0
      let l := replayRecord th t rid (if halts then th.pc else th.pc + 1) (devNs s) pt.job
      let d := placeOf pt (dieOf p) a
      if (firstBad pt true a 128).isSome then failRecord s p t
      else if d.pos = logAt pt own then finishRecord (modCore s p (fun c => writeCore c d.addr l)) p t halts
      else
        match freeTag c with
        | none => s
        | some tag =>
          let r : RecordWrite := { tag := tag, thread := t, halts := halts, sentAt := coreNow s c }
          sendCells (modCore s p (fun c => { c with records := c.records ++ [r] })) (logAt pt own)
            (mkCell 0x02 32 d.pos (logAt pt own) tag (openerBytes d.addr 4 0 128 0 0 (logAt pt own) 0 0) ::
              dataCells 0x01 d.pos (logAt pt own) tag 4 l)

/-- The thread's record has been answered: it goes on or traps; the tag of an incomplete transfer is held (R231). A thread that has been
trapped meanwhile stays TRAPPED (R71), and a failure then counts as a further fault (R69). -/
def settleRecord (s : State) (p : Nat) (r : RecordWrite) : State :=
  match r.answer with
  | none => s
  | some st =>
    let s1 := modCore s p (fun c => 
      let h := if st = 2 then tset none c.held r.tag (some (s.fab + holdTime c)) else c.held
      { c with records := c.records.erase r, held := h })
    if st ≠ 0 then failRecord s1 p r.thread
    else if (getThread (getCore s p) r.thread).state = .draining then finishRecord s1 p r.thread r.halts
    else s1

/-- The WRITE_ACK of a replay record arrives; a core that does not run acts on it later. -/
def recordAnswered (s : State) (p : Nat) (r : RecordWrite) (st : Nat) : State :=
  let r1 := { r with answer := some st }
  let s1 := modCore s p (fun c => { c with records := c.records.map (fun x => if x = r then r1 else x) })
  if runs s p then settleRecord s1 p r1 else s1

/-- REPLAY and HALT: the thread enters DRAINING; its record is sent once none of its engine operations is outstanding, which may be
in this step or in a later run of the same command, and a later run also acts on an answer that a core at rest has received. -/
def drainCmd (op p t : Nat) (s : State) : Out :=
  onUnit (coreOk s p && decide (t < 16))
    (let th := getThread (getCore s p) t
     let halts := decide (op = opHalt)
     if th.state = .draining then
       (if th.waitOp = op ∧ th.opsOut = 0 ∧ runs s p then
          match (getCore s p).records.find? (fun r => r.thread == t) with
          | some r => settleRecord s p r
          | none => sendRecord s p t halts (if halts then 0xFFFF else (wordAt th th.pc).elim 0 replayId)
        else s)
     else
       issue s p t op (fun s w =>
         if op = opReplay ∧ inRange (getThread (getCore s p) t) (pcOf s p t + 1) = false then
           trapHere s p t causePcRange 0 0
         else
           let s1 := modCore s p (fun c => modThread c t (fun th => { th with state := .draining, waitOp := op, age := 0 }))
           if (getThread (getCore s p) t).opsOut = 0 then sendRecord s1 p t halts (if halts then 0xFFFF else replayId w) else s1))

def execReplay (p t : Nat) (s : State) : Out := drainCmd opReplay p t s
def execHalt (p t : Nat) (s : State) : Out := drainCmd opHalt p t s

/-! ### Fetch, ageing and remote raises -/

/-- The row that the thread needs next: that of its pc, or the row after it. -/
def wantedRow (th : Thread) : Option Nat :=
  if !(th.fetch.any (fun f => f.row == th.pc / 8)) then some (th.pc / 8)
  else if !(th.fetch.any (fun f => f.row == th.pc / 8 + 1)) && decide (th.pc / 8 + 1 < 32768) then some (th.pc / 8 + 1)
  else none

/-- A command row arrives in the fetch buffer (R46, R47); an uncorrectable word stops the core (R148). -/
def execCommandFetch (p t : Nat) (s : State) : Out :=
  onUnit (coreOk s p && decide (t < 16))
    (let th := getThread (getCore s p) t
     if (th.state = .ready ∨ th.state = .stalled) ∧ runs s p then
       match wantedRow th with
       | none => s
       | some r =>
         match readCore s p (64 * r) 64 with
         | (s1, none) => s1
         | (s1, some l) =>
           stir (modCore s1 p (fun c => unstall (modThread c t (fun th =>
             { th with fetch := th.fetch ++ [{ row := r, data := rowOf l }] })))) p
     else s)

/-- A READY thread of prio 0 reaches an age of 64 (R45). -/
def execAgePromotion (p t : Nat) (s : State) : Out :=
  onUnit (coreOk s p && decide (t < 16))
    (modCore s p (fun c => modThread c t (fun th =>
      if th.state = .ready ∧ bit th.cfg 19 = false ∧ th.age = 63 then { th with age := 64 } else th)))

/-- A remote raise has had no acknowledgement in time (R64). -/
def execRemoteSyncTimeout (p tag : Nat) (s : State) : Out :=
  onUnit (coreOk s p)
    (let c := getCore s p
     match c.raises.find? (fun r => r.tag == tag) with
     | none => s
     | some r =>
       match r.src with
       | .pattern _ => s
       | .thread t i =>
         if isFrozen c = false ∧ c.stopped = false ∧ coreNow s c ≥ r.sentAt + dmaTimeout c then
           let s1 := stir (setCore s p (unstall { c with raises := c.raises.filter (fun x => x.tag != tag) })) p
           jobCheckAt (trap s1 p t causeRemote { precise := false, index := i, syncId := r.syncId,
                                                 detail := BitVec.ofNat 64 (r.target + 2 ^ 63) }) p
         else s)

/-- A held record enters the ring once a slot has freed (R28). -/
def execHeldRecordEntersRing (d : Nat) (s : State) : Out :=
  onUnit (dieOk s d)
    (let v := getDie s d
     match v.held with
     | [] => s
     | e :: r => if v.ring.length < ringDepth then setDie s d { v with ring := v.ring ++ [e], held := r } else s)

end Sys2Proof.Machine
end

