-- ==== Sys2Proof/Machine/Dma.lean ====
section
/-! DEFINITION. The DMA engine (R156, R221 to R237, R260, R261): descriptors, checks, cutting into transfers, staging,
check values, credits, completion. `p` is the physical core; a transfer's cells leave by the core's position. -/

namespace Sys2Proof.Machine

/-! ### The descriptor (R221, R260) -/

def dMode (d : W512) : Nat := fld d 2 0
def dCv (d : W512) : Nat := fld d 4 3
def dSize0 (d : W512) : Nat := fld d 24 5
def dSize1 (d : W512) : Nat := fld d 40 25
def dSize2 (d : W512) : Nat := fld d 56 41
def dSize3 (d : W512) : Nat := fld d 127 112
def dSrc (d : W512) : Nat := fld d 111 64
def dDst (d : W512) : Nat := fld d 175 128
def dSrcS (d : W512) (i : Nat) : Int := signed 32 (fld d (191 + 32 * i) (160 + 32 * i))
def dDstS (d : W512) (i : Nat) : Int := signed 32 (fld d (287 + 32 * i) (256 + 32 * i))
def dIdx (d : W512) : Nat := fld d 404 384
def dLimit (d : W512) : Nat := fld d 428 405
def dFreeSync (d : W512) : Nat := fld d 436 429
def dFreeTake (d : W512) : Nat := fld d 452 437
def dReadySync (d : W512) : Nat := fld d 460 453
def dReadyAdd (d : W512) : Nat := fld d 468 461
def dReadyCore (d : W512) : Nat := fld d 479 469
def dReadySpan (d : W512) : Nat := fld d 491 480

def isIndexed (d : W512) : Bool := dMode d == 1 || dMode d == 2
def isPattern (d : W512) : Bool := dMode d == 3

/-- A reserved field or encoding is used (R11, R260). -/
def dReserved (d : W512) : Bool :=
  decide (dMode d > 3 ∨ dCv d = 3 ∨ fld d 63 57 ≠ 0 ∨ fld d 191 176 ≠ 0) ||
  (if isPattern d then decide (fld d 511 492 ≠ 0 ∨ dIdx d ≠ 0 ∨ dLimit d ≠ 0 ∨ dSrcS d 3 ≠ 0 ∨ dDstS d 3 ≠ 0)
   else decide (fld d 511 429 ≠ 0))

/-- Nothing to do (R13, R222, R237, R260). -/
def dNothing (d : W512) : Bool :=
  dSize0 d == 0 || dSize1 d == 0 || dSize2 d == 0 || dSize3 d == 0 || (isIndexed d && dLimit d == 0)

/-- Alignment rule of R223 under cv = 1 or 2. -/
def dMisaligned (d : W512) : Bool :=
  let ok (v : Int) : Bool := v % 4096 == 0
  let dim (n : Nat) (v : Int) : Bool := decide (n ≤ 1) || ok v
  !(ok (dSrc d) && ok (dDst d) && ok (dSize0 d) &&
    dim (dSize1 d) (dSrcS d 1) && dim (dSize1 d) (dDstS d 1) && dim (dSize2 d) (dSrcS d 2) &&
    dim (if isPattern d then dSize3 d else dSize2 d) (dDstS d 2) && dim (dSize3 d) (dSrcS d 3) && dim (dSize3 d) (dDstS d 3))

/-- Reason of DESCRIPTOR_FAULT (R223), 0 when the descriptor passes; `cores` is the partition's number of cores. -/
def dReason (d : W512) (cores : Nat) : Nat :=
  if dReserved d then 1
  else if dNothing d then 0
  else if isPattern d && decide (dReadyCore d + dReadySpan d > cores ∧ dReadySpan d ≠ 0) then 1
  else if !isIndexed d && decide (dCv d ≠ 0) && dMisaligned d then 2
  else if isIndexed d && decide (dIdx d % 4 ≠ 0) then 2
  else if isIndexed d && decide (dSize0 d > 4096 ∨ dSize0 d % 8 ≠ 0 ∨ dSize2 d > 1 ∨ dSize3 d > 1 ∨ dCv d ≠ 0) then 3
  else if isIndexed d && decide (dIdx d + 4 * dSize1 d > 2 ^ 21) then 4
  else 0

/-! ### Runs and extents -/

/-- Number of runs, or of elements. -/
def runTotal (d : W512) : Nat :=
  if isIndexed d then dSize1 d else if isPattern d then dSize1 d * dSize2 d else dSize1 d * dSize2 d * dSize3 d

/-- Source and destination of run `r` of a COPY, PATTERN chunk run, or the regular side of an element. -/
def runAddr (d : W512) (r : Nat) : Int × Int :=
  if isIndexed d then ((dSrc d : Int) + r * dSrcS d 1, (dDst d : Int) + r * dDstS d 1)
  else
    let i1 := r % dSize1 d
    let q := r / dSize1 d
    if isPattern d then
      ((dSrc d : Int) + i1 * dSrcS d 1 + q * dSrcS d 2, (dDst d : Int) + i1 * dDstS d 1 + (q % dSize3 d : Nat) * dDstS d 2)
    else
      let i2 := q % dSize2 d
      let i3 := q / dSize2 d
      ((dSrc d : Int) + i1 * dSrcS d 1 + i2 * dSrcS d 2 + i3 * dSrcS d 3,
       (dDst d : Int) + i1 * dDstS d 1 + i2 * dDstS d 2 + i3 * dDstS d 3)

/-- First failing byte of an extent whose address may lie outside 48 bits. -/
def badExtent (pt : Part) (wr : Bool) (a : Int) (n : Nat) : Option Nat :=
  if a < 0 then some (unsigned 48 a) else firstBad pt wr a.toNat n

/-- First failing byte of the runs from `r` on, in run order, source before destination (R36). -/
def badRuns (pt : Part) (d : W512) : Nat → Nat → Option Nat
  | 0, _ => none
  | k + 1, r =>
    let (a, b) := runAddr d r
    match badExtent pt false a (dSize0 d) with
    | some x => some x
    | none =>
      match badExtent pt true b (dSize0 d) with
      | some x => some x
      | none => badRuns pt d k (r + 1)

/-- Destination of run `r` of the ring of a PATTERN, slot by slot. -/
def ringAddr (d : W512) (r : Nat) : Int :=
  (dDst d : Int) + (r % dSize1 d : Nat) * dDstS d 1 + (r / dSize1 d : Nat) * dDstS d 2

/-- First failing byte of the ring's runs from `r` on: the whole ring is checked, slots that no chunk reaches too (R260). -/
def badRing (pt : Part) (d : W512) : Nat → Nat → Option Nat
  | 0, _ => none
  | k + 1, r => (badExtent pt true (ringAddr d r) (dSize0 d)).or (badRing pt d k (r + 1))

/-- First failing byte of the shape of an operation that is not index-list DMA (R36, R260). -/
def badShape (pt : Part) (d : W512) : Option Nat :=
  (badRuns pt d (runTotal d) 0).or (if isPattern d then badRing pt d (dSize1 d * dSize3 d) 0 else none)

/-- Lowest and one past the highest destination byte of runs `r` to `r + k − 1`. -/
def dstSpan (d : W512) : Nat → Nat → Nat × Nat → Nat × Nat
  | 0, _, acc => acc
  | k + 1, r, (lo, hi) =>
    let b := (runAddr d r).2.toNat
    dstSpan d k (r + 1) (min lo b, max hi (b + dSize0 d))

/-- Core index of another core's memory in which an address lies. -/
def otherCore (own a : Nat) : Option Nat := if a < 2 ^ 32 ∧ a / 2 ^ 21 ≠ own then some (a / 2 ^ 21) else none

/-- First run from `r` on of which a byte goes to another core's memory. -/
def firstOther (own : Nat) (d : W512) : Nat → Nat → Option Nat
  | 0, _ => none
  | k + 1, r =>
    let b := (runAddr d r).2.toNat
    match (otherCore own b).or (otherCore own (b + dSize0 d - 1)) with
    | some t => some t
    | none => firstOther own d k (r + 1)

/-- The credit counter and the units that an extent [lo, hi) takes in the pool of the receiver, or the first byte that
no single pool holds (R155, R156). -/
def creditFor (c : Core) (target lo hi : Nat) : Except Nat (Nat × Nat) :=
  let off := lo - target * 2 ^ 21
  let pool := c.credit.find? (fun e =>
    bit e.2 58 && decide (fld e.2 10 0 = target ∧ 64 * fld e.2 25 11 ≤ off ∧
      off < 64 * fld e.2 25 11 + 64 * fld e.2 37 26 * fld e.2 49 38))
  match (if lo < target * 2 ^ 21 then none else pool) with
  | none => .error lo
  | some e =>
    let base := 64 * fld e.2 25 11
    let unit := 64 * fld e.2 37 26
    let top := target * 2 ^ 21 + base + unit * fld e.2 49 38
    if hi > top then .error top
    else .ok (fld e.2 57 50, (hi - 1 - target * 2 ^ 21 - base) / unit - (off - base) / unit + 1)

/-! ### Failures -/

/-- Detail of a DMA trap: reason in [7:0], partition address in [55:8] (R231, R236). -/
def dmaDetail (reason addr : Nat) : W64 := BitVec.ofNat 64 (reason + 256 * (addr % 2 ^ 48))

/-- Record a failure of transfer `n`; the first in transfer order names the cause (R230). -/
def DmaOp.failWith (o : DmaOp) (cause : Nat) (detail : W64) (n : Nat) : DmaOp :=
  let o1 := { o with timedOut := o.timedOut || cause == causeDmaTimeout }
  match o.fail with
  | none => { o1 with fail := some (cause, detail, n) }
  | some f => if n < f.2.2 then { o1 with fail := some (cause, detail, n) } else o1

/-- A chunk of a PATTERN has failed (R261). -/
def DmaOp.failChunk (o : DmaOp) (c : Nat) : DmaOp := { o with badChunk := some (match o.badChunk with | none => c | some b => min b c) }

/-- Change the operation that holds a tag. -/
def modTag (s : State) (p tag : Nat) (f : DmaOp → DmaOp) : State :=
  modCore s p (fun c => { c with tags := tmod none c.tags tag (Option.map f) })

/-- Unit kind and encoding of a destination for event 0x81 (R298). -/
def destUnit (s : State) (d : Dest) : Nat × Nat :=
  if d.pos % 64 < 32 then (1, servedBy s d.pos)
  else if d.pos % 64 < 36 then (3, sliceRowUnit (sliceOfPos d.pos) (d.addr / 64))
  else (0, 0)

/-- Check-value event 0x81 (R236). -/
def checkEvent (s : State) (p part reason : Nat) (src dst : Dest) (addr : Nat) : State :=
  let (k, u) := destUnit s dst
  postEvent s (dieOf p)
    { code := 0x81, certain := false, unitKind := k, unit := u, part := part, by_ := detCore p,
      detail := leBytes 1 reason ++ zeros 1 ++ leBytes 2 src.pos ++ leBytes 2 dst.pos ++ leBytes 6 addr }

/-- The stored check value of the block at an endpoint address (R233). -/
def storedCv (s : State) (d : Dest) : Option W32 :=
  let col := d.pos % 64
  if col < 32 then tget none (getCore s (servedBy s d.pos)).cv (d.addr / 4096)
  else if col < 36 then tget none (getSlice s (sliceOfPos d.pos)).cv (d.addr / 256)
  else if col < 50 then tget none s.hbm.cv (d.addr / 4096)
  else if d.addr < 2 ^ 46 then tget none s.ddr.cv (d.addr / 4096)
  else none

/-- Store (or, with `none`, invalidate) the check value of the block at an endpoint address. -/
def storeCv (s : State) (d : Dest) (v : Option W32) : State :=
  let col := d.pos % 64
  if col < 32 then modCore s (servedBy s d.pos) (fun c => { c with cv := tset none c.cv (d.addr / 4096) v })
  else if col < 36 then modSlice s (sliceOfPos d.pos) (fun x => { x with cv := tset none x.cv (d.addr / 256) v })
  else if col < 50 then { s with hbm := { s.hbm with cv := tset none s.hbm.cv (d.addr / 4096) v } }
  else if d.addr < 2 ^ 46 then { s with ddr := { s.ddr with cv := tset none s.ddr.cv (d.addr / 4096) v } }
  else s

/-- The check value of the block at an endpoint address becomes invalid, wherever in the block the address lies (R234). -/
def dropCvAt (s : State) (d : Dest) : State :=
  if 32 ≤ d.pos % 64 ∧ d.pos % 64 < 36 then dropSliceCv s (sliceOfPos d.pos) d.addr else storeCv s d none

/-! ### Items and transfers -/

/-- Staging slots of the engine (R225). -/
def stagingSlots : Nat := 16

/-- Staging slots in use. -/
def slotsUsed (c : Core) : Nat :=
  c.tags.foldl (fun n e => match e.2 with | none => n | some o => n + (o.items.filter (·.slot.isSome)).length) 0

/-- Lowest staging slot that no item holds (R225). -/
def freeSlot (c : Core) : Option Nat :=
  (List.range stagingSlots).find? (fun k =>
    c.tags.all (fun e => match e.2 with | none => true | some o => o.items.all (fun it => it.slot != some k)))

/-- Pieces of a run, as (offset, length) pairs: each ends where the source or the destination meets a boundary of R226. -/
def cutGo (a b : Nat) : Nat → Nat → Nat → List (Nat × Nat)
  | 0, _, _ => []
  | k + 1, off, n =>
    if n = 0 then [] else
      let m := min (pieceLen (a + off) n) (pieceLen (b + off) n)
      (off, m) :: cutGo a b k (off + m) (n - m)

/-- The pieces of the indexed side, of 8 bytes each; one ends where the address meets a boundary of R226 too, as a piece lies at one endpoint
(R226, R237). -/
def cutIdx (a : Nat) : Nat → Nat → Nat → List (Nat × Nat)
  | 0, _, _ => []
  | k + 1, off, n =>
    if n = 0 then [] else
      let m := min 8 (pieceLen (a + off) n)
      (off, m) :: cutIdx a k (off + m) (n - m)

/-- The pieces in which an item is read: on the indexed side of a GATHER those of R237, from the other side of a SCATTER as the source cuts
them, otherwise those of R226. -/
def cutRead (it : Item) (mode : Nat) : List (Nat × Nat) :=
  if mode = 1 then cutIdx it.src (it.size + 1) 0 it.size
  else if mode = 2 then cutGo it.src it.src (it.size + 1) 0 it.size
  else cutGo it.src it.dst (it.size + 1) 0 it.size

/-- The pieces in which an item is written. -/
def cutWrite (it : Item) (mode : Nat) : List (Nat × Nat) :=
  if mode = 2 then cutIdx it.dst (it.size + 1) 0 it.size
  else if mode = 1 then cutGo it.dst it.dst (it.size + 1) 0 it.size
  else cutGo it.src it.dst (it.size + 1) 0 it.size

/-- Bytes of an item's staging. -/
def itemBytes (it : Item) : List Byte := readBytes it.buf 0 it.size

/-- What the write side of an item needs to know: partition, position and the operation. -/
structure Ctx4 where
  p    : Nat
  tag  : Nat
  part : Nat
  pt   : Part
  own  : Nat
  pos  : Nat
  die  : Nat
  deriving DecidableEq, Repr

/-- Replace an item of an operation. -/
def putItem (o : DmaOp) (it : Item) : DmaOp :=
  { o with items := o.items.map (fun x => if x.id = it.id then it else x) }

/-- One write transfer of an item leaves: a piece (R237) or an opener with its cells (R226, R235). -/
def sendWrite (s : State) (x : Ctx4) (it : Item) (piece : Bool) (off n : Nat) (cv flags : Nat) : State :=
  let a := it.dst + off
  let d := placeOf x.pt x.die a
  let data := readBytes it.buf off n
  match getTag (getCore s x.p) x.tag with
  | none => s
  | some o =>
    let xf : Xfer := { n := o.xferNo, item := it.id, off := off, bytes := n, addr := a, write := true,
                       sentAt := coreNow s (getCore s x.p) }
    let cells :=
      if piece then
        [mkCell 0x02 32 d.pos x.pos x.tag
          (openerBytes d.addr 0 0 n o.xferNo (crc32c (leBytes 6 d.addr ++ slice data 0 8)).toNat x.pos 4 (leNat data))]
      else
        mkCell 0x02 32 d.pos x.pos x.tag (openerBytes d.addr ((n + 31) / 32) 0 n o.xferNo cv x.pos flags 0) ::
          dataCells 0x01 d.pos x.pos x.tag 128 data
    sendCells (modTag s x.p x.tag (fun o => { o with live := o.live ++ [xf], xferNo := o.xferNo + 1 })) x.pos cells

/-- The operation without an item. -/
def dropItem (o : DmaOp) (id : Nat) : DmaOp := { o with items := o.items.filter (fun it => it.id ≠ id) }

/-- Source and destination endpoints of a byte of an item. -/
def itemPlaces (x : Ctx4) (it : Item) (off : Nat) : Dest × Dest :=
  (placeOf x.pt x.die (it.src + off), placeOf x.pt x.die (it.dst + off))

/-- An extent lies in the core's own memory. -/
def isOwn (x : Ctx4) (a n : Nat) : Bool :=
  (placeOf x.pt x.die a).pos == x.pos && (placeOf x.pt x.die (a + n - 1)).pos == x.pos

/-- cvflags and cv of piece `i` of `m` (R228, R235): a block split across slices has its value stored with the first piece; a block of one
endpoint is verified and its value stored with the last, when all of it has arrived. -/
def pieceFlags (mode dst i m : Nat) (v : W32) : Nat × Nat :=
  if mode = 0 then (0, 0)
  else if inShared dst then (if i = 0 then (2, v.toNat) else (0, 0))
  else if i + 1 = m then (3, v.toNat) else (0, 0)

/-- The item's data is complete: check it (R235), then write it where it goes. A failed check writes nothing. -/
def beginWrite (s : State) (x : Ctx4) (it : Item) : State :=
  match getTag (getCore s x.p) x.tag with
  | none => s
  | some o =>
    let d := o.desc
    let mode := dCv d
    let data := itemBytes it
    let v := if mode = 0 then 0 else crc32c data
    let (src, dst) := itemPlaces x it 0
    let reason := if mode = 2 then (match it.stored with | none => 2 | some w => if it.stale then 2 else if w = v then 0 else 1) else 0
    if reason ≠ 0 then
      let s1 := checkEvent (dropCvAt s dst) x.p x.part reason src dst it.src
      modTag s1 x.p x.tag (fun o => dropItem ((o.failWith causeCheck (dmaDetail reason it.src) it.no).failChunk it.chunk) it.id)
    else if isOwn x it.dst it.size then
      let s1 := modCore s x.p (fun c => { writeCore c dst.addr data with dmaBytes := c.dmaBytes + it.size })
      let s2 := if mode = 0 then s1 else storeCv s1 dst (some v)
      modTag s2 x.p x.tag (fun o => { dropItem o it.id with xferNo := o.xferNo + 1 })
    else
      let scatter := dMode d == 2
      let ps := cutWrite it (dMode d)
      let s1 := modTag s x.p x.tag (fun o => putItem o { it with left := ps.length, writing := true, slot := none, cv := v })
      let s2 := modCore s1 x.p (fun c => { c with dmaBytes := c.dmaBytes + it.size })
      ps.zipIdx.foldl (fun s q =>
        let f := pieceFlags mode it.dst q.2 ps.length v
        sendWrite s x it scatter q.1.1 q.1.2 f.2 f.1) s2

/-- Staging units of 32 bytes that the first `i` pieces of an item take: every piece begins at a unit of its own, so that replies to reads that
are outstanding together share none (R228). -/
def unitsBefore (ps : List (Nat × Nat)) (i : Nat) : Nat := ((ps.take i).map (fun q => (q.2 + 31) / 32)).sum

/-- Piece `i` of an item fits the 128 units of its slot together with those before it. -/
def fitsSlot (ps : List (Nat × Nat)) (i : Nat) : Bool := decide (unitsBefore ps (i + 1) ≤ 128)

/-- Ask for piece `i` of an item, `q` (R226, R228): the reply lands in the item's staging slot. -/
def askRead (s : State) (x : Ctx4) (it : Item) (i : Nat) (q : Nat × Nat) : State :=
  let d := placeOf x.pt x.die (it.src + q.1)
  match getTag (getCore s x.p) x.tag with
  | none => s
  | some o =>
    let xf : Xfer := { n := o.xferNo, item := it.id, off := q.1, bytes := q.2, addr := it.src + q.1, write := false,
                       sentAt := coreNow s (getCore s x.p) }
    let ps := cutRead it (dMode o.desc)
    let unit := if fitsSlot ps i then unitsBefore ps i else if dMode o.desc = 1 then i % 128 else 0
    let req := leBytes 6 d.addr ++ leBytes 2 q.2 ++ leBytes 2 o.xferNo ++ leBytes 2 (it.slot.getD 0 * 128 + unit) ++
      leBytes 1 (if dCv o.desc = 2 ∧ q.1 = 0 then 1 else 0)
    sendCells (modTag s x.p x.tag (fun o => { o with live := o.live ++ [xf], xferNo := o.xferNo + 1 })) x.pos
      [mkCell 0x03 13 d.pos x.pos x.tag req]

/-- An item starts: its data is read from the core's own memory at once, or asked for (R226, R237). -/
def beginItem (s : State) (x : Ctx4) (it : Item) : State :=
  match getTag (getCore s x.p) x.tag with
  | none => s
  | some o =>
    let add (s : State) (it : Item) : State := modTag s x.p x.tag (fun o => { o with items := o.items ++ [it] })
    if isOwn x it.src it.size then
      let a := (placeOf x.pt x.die it.src).addr
      match readCore s x.p a it.size with
      | (s1, none) => s1
      | (s1, some l) =>
        let it1 := { it with buf := writeBytes [] 0 l, stored := tget none (getCore s1 x.p).cv (a / 4096), no := o.xferNo }
        beginWrite (add s1 it1) x it1
    else
      let ps := cutRead it (dMode o.desc)
      let it1 := { it with left := ps.length, slot := freeSlot (getCore s x.p), no := o.xferNo }
      (ps.zipIdx.filter (fun q => fitsSlot ps q.2)).foldl (fun s q => askRead s x it1 q.2 q.1) (add s it1)

/-- Destination ranges overlap. -/
def overlaps (a n b m : Nat) : Bool := decide (a < b + m ∧ b < a + n)

/-- Chunks of a PATTERN that are read: those started, of which none after the first that fails (R261). -/
def chunksRead (o : DmaOp) : Nat := match o.badChunk with | none => o.chunk | some c => min o.chunk (c + 1)

/-- Runs that may be moved now. -/
def runBound (o : DmaOp) : Nat := if isPattern o.desc then chunksRead o * dSize1 o.desc else runTotal o.desc

/-- What the operation would move next: `none` when nothing may start now. -/
def nextItem (s : State) (x : Ctx4) (o : DmaOp) : Option Item :=
  let d := o.desc
  if !o.go || o.wait.isSome || decide (o.run ≥ runBound o) then none
  else
    let c := getCore s x.p
    let (a, b) := runAddr d o.run
    let idx := leNat (readBytes c.mem (dIdx d + 4 * o.run) 4)
    let off := if isIndexed d then 0 else o.off
    let src := if dMode d = 1 then ((dSrc d : Int) + idx * dSrcS d 1).toNat else a.toNat + off
    let dst := if dMode d = 2 then ((dDst d : Int) + idx * dDstS d 1).toNat else b.toNat + off
    let left := dSize0 d - off
    let n := if isIndexed d then dSize0 d
             else if dCv d ≠ 0 then min left 4096
             else min (pieceLen src left) (pieceLen dst left)
    if (!isOwn x src n && (freeSlot c).isNone) || o.items.any (fun it => overlaps it.dst it.size dst n) then none
    else some { id := o.nextItem, src := src, dst := dst, size := n, chunk := if isPattern d then o.run / dSize1 d else 0 }

/-- Advance the cursor past an item. -/
def stepCursor (o : DmaOp) (it : Item) : DmaOp :=
  if isIndexed o.desc ∨ o.off + it.size ≥ dSize0 o.desc then { o with run := o.run + 1, off := 0, nextItem := o.nextItem + 1 }
  else { o with off := o.off + it.size, nextItem := o.nextItem + 1 }

/-- Check an element before it moves (R237): its index, its extents, and the credits of a SCATTER into another core. The
answer is the operation stopped or waiting, or nothing to hold it back. -/
def elementHold (s : State) (x : Ctx4) (o : DmaOp) : Option DmaOp :=
  let d := o.desc
  if !isIndexed d || !o.go || o.wait.isSome || decide (o.run ≥ runTotal d) then none
  else
    let c := getCore s x.p
    let idx := leNat (readBytes c.mem (dIdx d + 4 * o.run) 4)
    let (a, b) := runAddr d o.run
    let src : Int := if dMode d = 1 then (dSrc d : Int) + idx * dSrcS d 1 else a
    let dst : Int := if dMode d = 2 then (dDst d : Int) + idx * dDstS d 1 else b
    let stop (addr : Nat) : DmaOp := { o.failWith causeAddress (BitVec.ofNat 64 addr) o.xferNo with go := false }
    if idx ≥ dLimit d then some (stop (unsigned 48 (if dMode d = 1 then src else dst)))
    else
      match badExtent x.pt false src (dSize0 d) with
      | some e => some (stop e)
      | none =>
        match badExtent x.pt true dst (dSize0 d) with
        | some e => some (stop e)
        | none =>
          if dMode d = 2 ∧ o.off = 0 then
            match otherCore x.own dst.toNat with
            | none => none
            | some t =>
              match creditFor c t dst.toNat (dst.toNat + dSize0 d) with
              | .error e => some (stop e)
              | .ok w => some { o with wait := some w, off := 1 }
          else none

/-- Context of an operation of a core. -/
def ctxOf (s : State) (p tag : Nat) : Option Ctx4 :=
  match homeIn s p with
  | none => none
  | some (q, pt, n) => some { p := p, tag := tag, part := q, pt := pt, own := n, pos := logAt pt n, die := dieOf p }

/-- An item whose data has all arrived and that is not being written: it waits for a core that runs (R304). -/
def readyItem (o : DmaOp) : Option Item := o.items.find? (fun it => decide (it.left = 0) && !it.writing && !it.failed)

/-- Start what one operation may start next; `none` when it holds. -/
def pumpOne (s : State) (p tag : Nat) : Option State :=
  match getTag (getCore s p) tag, ctxOf s p tag with
  | some o, some x =>
    if !runs s p then none
    else
      match readyItem o with
      | some it => some (beginWrite s x it)
      | none =>
        let s0 : State × Bool :=
          if isIndexed o.desc && o.go && o.wait.isNone && decide (o.run < runTotal o.desc) then
            let r := readCore s p (dIdx o.desc + 4 * o.run) 4
            (r.1, r.2.isSome)
          else (s, true)
        if s0.2 = false then some s0.1
        else
          match elementHold s0.1 x o with
          | some o1 => some (modTag s0.1 p tag (fun _ => o1))
          | none =>
            match nextItem s0.1 x o with
            | none => none
            | some it => some (beginItem (modTag s0.1 p tag (fun _ => stepCursor o it)) x it)
  | _, _ => none

/-- The operation stands inside a run of which it still has pieces to move: the engine stays with it (R224). -/
def midRun (o : DmaOp) : Bool :=
  o.go && decide (o.off ≠ 0) && !isIndexed o.desc && decide (o.run < runBound o)

/-- The started operations in the order of their turns: round-robin from the one that moved last (R224). -/
def turns (c : Core) : List Nat :=
  let ts := c.tags.map (·.1)
  ts.filter (fun t => decide (c.dmaLast < t)) ++ ts.filter (fun t => decide (t ≤ c.dmaLast))

/-- One turn of the engine: the operation in hand goes on with its run, or the next that can start something does. -/
def pumpTurn (s : State) (p : Nat) : Option State :=
  let c := getCore s p
  let one (t : Nat) : Option State := (pumpOne s p t).map (fun s => modCore s p (fun c => { c with dmaLast := t }))
  if ((getTag c c.dmaLast).map midRun).getD false then one c.dmaLast else (turns c).findSome? one

/-- Turns until nothing more may start. -/
def pumpGo (p : Nat) : Nat → State → State
  | 0, s => s
  | k + 1, s =>
    match pumpTurn s p with
    | none => s
    | some s1 => pumpGo p k s1

/-- Bytes that the started operations may still move, which bounds the rounds. -/
def pumpBound (c : Core) : Nat :=
  c.tags.foldl (fun n e => match e.2 with | none => n | some o => n + 3 * (runTotal o.desc + 1) * (dSize0 o.desc + 1)) 1

/-- Start every transfer that the engine can start now. -/
def pump (s : State) (p : Nat) : State := pumpGo p (pumpBound (getCore s p)) s

/-! ### Starting an operation -/

/-- Read a descriptor from the core's own memory (R51). -/
def readDesc (s : State) (p : Nat) (o : IssueOp) : State × Option W512 :=
  match readCore s p (64 * o.row) 64 with
  | (s1, none) => (s1, none)
  | (s1, some l) => (s1, some (rowOf l))

/-- The operation as it starts, after the checks of R223, R36 and R156. -/
def startState (s : State) (x : Ctx4) (op : IssueOp) (d : W512) : DmaOp :=
  let o : DmaOp := { op := op, desc := d }
  let reason := dReason d (coresOf x.pt)
  let stop (cause : Nat) (detail : W64) : DmaOp := { o with go := false, fail := some (cause, detail, 0) }
  if reason ≠ 0 then stop causeDescriptor (BitVec.ofNat 64 reason)
  else if dNothing d then { o with go := false }
  else
    match (if isIndexed d then none else badShape x.pt d) with
    | some a => stop causeAddress (BitVec.ofNat 64 a)
    | none =>
      if dMode d = 2 then o
      else
        match firstOther x.own d (runTotal d) 0 with
        | none => o
        | some t =>
          let (lo, hi) := dstSpan d (runTotal d) 0 (2 ^ 48, 0)
          match creditFor (getCore s x.p) t lo hi with
          | .error a => stop causeAddress (BitVec.ofNat 64 a)
          | .ok w => { o with wait := some w }

/-- The operation at the head of the DMA issue queue starts when its mode is one of `modes`, no started operation waits
for credits of R156 (an element of a SCATTER among them, R237), and a tag is free (R52, R156, R224). -/
def startDma (p : Nat) (modes : Nat → Bool) (s : State) : Out :=
  onUnit (coreOk s p)
    (let c := getCore s p
     match c.qDma with
     | [] => s
     | op :: rest =>
       if !runs s p || c.tags.any (fun e => match e.2 with | none => false | some o => o.wait.isSome) then s
       else
         match freeTag c with
         | none => s
         | some tag =>
           match readDesc s p op with
           | (s1, none) => s1
           | (s1, some d) =>
             match ctxOf s1 p tag with
             | none => s1
             | some x =>
               if modes (dMode d) then
                 let s2 := modCore s1 p (fun c => unstall { setTag c tag (some (startState s1 x op d)) with qDma := rest })
                 pump (stir s2 p) p
               else s1)

/-- COPY; a descriptor with a reserved mode starts here and fails its check. -/
def execDmaCopy (p : Nat) (s : State) : Out := startDma p (fun m => m == 0 || decide (m > 3)) s
def execDmaGather (p : Nat) (s : State) : Out := startDma p (· == 1) s
def execDmaScatter (p : Nat) (s : State) : Out := startDma p (· == 2) s
def execDmaPattern (p : Nat) (s : State) : Out := startDma p (· == 3) s

/-- A waiting operation finds enough credits, takes them and goes on (R60 step 4, R156, R237). -/
def execDmaCreditTake (p tag : Nat) (s : State) : Out :=
  onUnit (coreOk s p)
    (match getTag (getCore s p) tag with
     | none => s
     | some o =>
       match o.wait with
       | none => s
       | some (i, u) =>
         let k := getCtr (getCore s p) i
         if runs s p ∧ k.fault = false ∧ k.value.toNat ≥ u then
           pump (modTag (modCore s p (fun c => setCtr c i (ctrSub k u).1)) p tag (fun o => { o with wait := none })) p
         else s)

/-! ### PATTERN (R261) -/

/-- Chunk `c` of a PATTERN has been written whole. -/
def chunkDone (o : DmaOp) (c : Nat) : Bool :=
  decide (o.run ≥ (c + 1) * dSize1 o.desc) && !(o.items.any (fun it => decide (it.chunk ≤ c)))

/-- Raises of a PATTERN without their acknowledgement. -/
def patternRaises (c : Core) (tag : Nat) : Nat :=
  (c.raises.filter (fun r => match r.src with | .pattern t => t == tag | .thread _ _ => false)).length

/-- Consumers that a PATTERN raises at each chunk. -/
def consumers (d : W512) : List Nat :=
  if dReadyAdd d = 0 then [] else (List.range (dReadySpan d)).map (· + dReadyCore d)

/-- Send the raises that may leave: at most 64 without acknowledgement, chunks in ascending order, and only after
every earlier chunk's writes have been acknowledged; none of a chunk that has failed, nor of a later one. -/
def raiseGo (x : Ctx4) : Nat → State → State
  | 0, s => s
  | k + 1, s =>
    match getTag (getCore s x.p) x.tag with
    | none => s
    | some o =>
      match o.toRaise with
      | n :: r =>
        if patternRaises (getCore s x.p) x.tag ≥ 64 then s
        else
          let s1 := modTag s x.p x.tag (fun o => { o with toRaise := r })
          raiseGo x k (sendRaise s1 x.p x.pos (logAt x.pt n) (.pattern x.tag) n (dReadySync o.desc) (dReadyAdd o.desc))
      | [] =>
        if o.raised < (o.badChunk.getD o.chunk) ∧ o.raised < o.chunk ∧ chunkDone o o.raised then
          raiseGo x k (modTag s x.p x.tag (fun o => { o with raised := o.raised + 1, toRaise := consumers o.desc }))
        else s

def raiseReady (s : State) (p tag : Nat) : State :=
  match ctxOf s p tag, getTag (getCore s p) tag with
  | some x, some o => if isPattern o.desc ∧ runs s p then raiseGo x (2 * (dSize2 o.desc + 1) * (dReadySpan o.desc + 1)) s else s
  | _, _ => s

/-- The counter and units that a PATTERN waits for before its next chunk (R261). -/
def patternShort (c : Core) (o : DmaOp) : Option (Nat × Nat) :=
  let k := getCtr c (dFreeSync o.desc)
  if isPattern o.desc && o.go && o.fail.isNone && o.wait.isNone && decide (o.chunk < dSize2 o.desc ∧ dFreeTake o.desc ≠ 0) &&
      (k.fault || decide (k.value.toNat < dFreeTake o.desc)) then some (dFreeSync o.desc, dFreeTake o.desc)
  else none

/-- A PATTERN takes the next chunk's credits and starts it, and raises the consumers of the chunks that are done. -/
def execPatternChunk (p tag : Nat) (s : State) : Out :=
  onUnit (coreOk s p)
    (match getTag (getCore s p) tag with
     | none => s
     | some o =>
       if !(isPattern o.desc) || !runs s p || o.wait.isSome then s
       else
         let i := dFreeSync o.desc
         let u := dFreeTake o.desc
         let k := getCtr (getCore s p) i
         let s1 :=
           if o.go ∧ o.fail.isNone ∧ o.chunk < dSize2 o.desc ∧ (u = 0 ∨ (k.fault = false ∧ k.value.toNat ≥ u)) then
             pump (modTag (if u = 0 then s else modCore s p (fun c => setCtr c i (ctrSub k u).1)) p tag
               (fun o => { o with chunk := o.chunk + 1 })) p
           else s
         raiseReady s1 p tag)

/-! ### Answers and completion -/

/-- The operation without a transfer that has been answered; a failed item goes with its last read. -/
def settleXfer (o : DmaOp) (xf : Xfer) : DmaOp :=
  let live := o.live.filter (fun y => y.n ≠ xf.n)
  { o with live := live, items := o.items.filter (fun it => !(it.failed && !live.any (fun y => y.item == it.id))) }

/-- The piece that is asked for when the piece at an offset has been answered: of a GATHER the one 128 pieces on; of another item the last one,
when it did not fit the slot, once only it is left. -/
def nextRead (it : Item) (mode off : Nat) : Option ((Nat × Nat) × Nat) :=
  let ps := cutRead it mode
  let i := if mode = 1 then (ps.findIdx (fun q => q.1 == off)) + 128 else ps.length - 1
  if fitsSlot ps i || (mode != 1 && decide (it.left ≠ 1)) then none else ps[i]?.map (fun q => (q, i))

/-- A read transfer of an item has been answered with its data: when the item is complete it is written. -/
def readDone (s : State) (p tag : Nat) (xf : Xfer) (l : List Byte) (cv : Option W32) : State :=
  match getTag (getCore s p) tag, ctxOf s p tag with
  | some o, some x =>
    match o.items.find? (fun it => it.id == xf.item && !it.failed) with
    | none => pump (modTag s p tag (fun o => settleXfer o xf)) p
    | some it =>
      let it1 := { it with buf := writeBytes it.buf xf.off l, left := it.left - 1,
                           stored := if xf.off = 0 then cv else it.stored }
      let s1 := modTag s p tag (fun o => putItem (settleXfer o xf) it1)
      pump (match nextRead it1 (dMode o.desc) xf.off with | some q => askRead s1 x it1 q.2 q.1 | none => s1) p
  | _, _ => s

/-- A transfer fails: the cause is recorded; a read's item is written nowhere, its other reads still being awaited, and the destination
block's check value is invalid (R230, R234, R236). -/
def xferFail (s : State) (p tag : Nat) (xf : Xfer) (cause : Nat) (detail : W64) : State :=
  let s0 := match getTag (getCore s p) tag, ctxOf s p tag with
    | some o, some x =>
      (match o.items.find? (fun it => it.id == xf.item) with
       | none => s
       | some it => dropCvAt s (itemPlaces x it xf.off).2)
    | _, _ => s
  let s1 := modTag s0 p tag (fun o =>
    let o1 := (o.failWith cause detail xf.n).failChunk (((o.items.find? (fun it => it.id == xf.item)).map (·.chunk)).getD o.chunk)
    if xf.write then
      { o1 with live := o.live.filter (fun y => y.n ≠ xf.n),
                items := (o1.items.map (fun it => if it.id = xf.item then { it with left := it.left - 1 } else it)).filter
                           (fun it => !(it.id == xf.item && it.left == 0)) }
    else
      settleXfer { o1 with items := o1.items.map (fun it => if it.id = xf.item then { it with failed := true } else it) } xf)
  pump s1 p

/-- A write transfer has been acknowledged. -/
def writeDone (s : State) (p tag : Nat) (xf : Xfer) : State :=
  let s1 := modTag s p tag (fun o =>
    { o with live := o.live.filter (fun y => y.n ≠ xf.n),
             items := (o.items.map (fun it => if it.id = xf.item then { it with left := it.left - 1 } else it)).filter
                        (fun it => !(it.id == xf.item && it.left == 0)) })
  raiseReady (pump s1 p) p tag

/-- Everything that the operation moves has been moved and answered. -/
def dmaFinished (c : Core) (tag : Nat) (o : DmaOp) : Bool :=
  o.items == [] && o.live == [] && o.toRaise == [] && patternRaises c tag == 0 &&
  (!o.go || (o.wait.isNone && (if isPattern o.desc then
        (match o.badChunk with
         | none => o.fail.isSome || decide (o.raised ≥ dSize2 o.desc)
         | some b => decide (o.run ≥ runBound o ∧ min b o.chunk ≤ o.raised))
      else decide (o.run ≥ runTotal o.desc))))

/-- An operation completes: done_sync, tag, and the trap of its first failure (R230, R53). One that is not finished goes on with what it
can start, as after the release of its core (R304). -/
def execDmaOpComplete (p tag : Nat) (s : State) : Out :=
  onUnit (coreOk s p)
    (let c := getCore s p
     match getTag c tag with
     | none => s
     | some o =>
       if runs s p && dmaFinished c tag o then
         let c1 := setTag c tag none
         let c2 := if o.timedOut then { c1 with held := tset none c1.held tag (some (s.fab + holdTime c)) } else c1
         let s1 := opDone (setCore s p c2) p o.op
         let s2 := match o.fail with
           | none => s1
           | some (cause, detail, _) => trapOp s1 p o.op cause 0 detail
         jobCheckAt s2 p
       else pump s p)

/-- The drain of a TE has had no answer from the reduction unit in time (R270). -/
def teLate (s : State) (p : Nat) : State :=
  modCore s p (fun c =>
    { c with te := { c.te with ops := c.te.ops.map (fun o =>
        if o.phase = .answer ∧ isFrozen c = false ∧ coreNow s c ≥ o.sentAt + dmaTimeout c then
          { o with phase := .done, fault := o.fault.or (some (causeDmaTimeout, 0x02)) } else o) } })

/-- A transfer has not been answered in time (R231); `xfer` may also be the number of a PATTERN's ready raise (R261). A
tag of 1,024 or more stands for the TE's contribution, which holds no DMA tag (R270). -/
def execDmaTransferTimeout (p tag xfer : Nat) (s : State) : Out :=
  onUnit (coreOk s p)
    (let c := getCore s p
     if tag ≥ 1024 then teLate s p else
     match c.records.find? (fun r => r.tag == tag && r.answer.isNone) with
     | some r => if !isFrozen c && decide (coreNow s c ≥ r.sentAt + dmaTimeout c) then recordAnswered s p r 2 else s
     | none =>
     match getTag c tag with
     | none => s
     | some o =>
       let late (t : Nat) : Bool := !isFrozen c && decide (coreNow s c ≥ t + dmaTimeout c)
       match o.live.find? (fun y => y.n == xfer) with
       | some xf =>
         if late xf.sentAt then xferFail s p tag xf causeDmaTimeout (dmaDetail (if xf.write then 2 else 1) xf.addr) else s
       | none =>
         match c.raises.find? (fun r => r.tag == xfer && r.src == .pattern tag) with
         | some r =>
           if late r.sentAt then
             let s1 := setCore s p { c with raises := c.raises.filter (fun y => y.tag != xfer) }
             modTag s1 p tag (fun o => { (o.failWith causeDmaTimeout (dmaDetail 4 r.target) o.xferNo).failChunk (o.raised - 1) with toRaise := [] })
           else s
         | none => s)

/-- A held tag returns to the pool (R231). -/
def execDmaTagHoldExpiry (p tag : Nat) (s : State) : Out :=
  onUnit (coreOk s p)
    (match tget none (getCore s p).held tag with
     | none => s
     | some t => if s.fab ≥ t then modCore s p (fun c => { c with held := tset none c.held tag none }) else s)

end Sys2Proof.Machine
end

