-- ==== Sys2Proof/Machine/Endpoint.lean ====
section
/-! DEFINITION. The endpoints of the packet network (R158, R208, R212, R227 to R230, R234, R253): write and reply
transfers, read requests, acknowledgements, and remote raises (R62, R64). Each command takes the cell at the head of the
endpoint's arrivals when it has that command's type; otherwise nothing has arrived for it and the step changes nothing. -/

namespace Sys2Proof.Machine

/-- The position is a core's: column codes 0 to 31 (R200). -/
def isCorePos (x : Nat) : Bool := decide (x % 64 < 32)

/-- The endpoint is served (R470): a cluster in SLEEP or OFF serves none, and a cell into an IDLE cluster waits until CLUSTER_WAKE has woken
it. The hub's and the memories' endpoints lie in no cluster. -/
def endServed (s : State) (x : Nat) : Bool :=
  let c := if isCorePos x then cluOfPhys (servedBy s x) else sliceOfPos x / 4
  decide (36 ≤ x % 64) || (getPow s c).mode == 0

/-- The cell at the head of an endpoint's arrivals, when it has the type and the endpoint is served. -/
def headCell (s : State) (x ty : Nat) : Option Cell :=
  match (getEnd s x).inbox with
  | [] => none
  | c :: _ => if c.type = ty ∧ endServed s x then some c else none

/-- The arrivals without their head, which the endpoint takes. -/
def popCell (s : State) (x : Nat) : State := modEnd s x (fun e => { e with inbox := e.inbox.drop 1 })

/-- The unit with a Scree record to which an endpoint belongs: the core, the slice's cluster, or the device (R335). -/
def endRecord (s : State) (x : Nat) : Nat × Nat :=
  if isCorePos x then (1, servedBy s x) else if x % 64 < 36 then (6, cluUnit (sliceOfPos x / 4)) else (0x22, 0)

/-- A dropped cell is counted, at the endpoint and in its Scree history, which resets do not clear (R227, R229, R339). -/
def dropCell (s : State) (x : Nat) : State :=
  let o := endRecord s x
  modScree (modEnd s x (fun e => { e with dropped := e.dropped + 1 })) o.1 o.2 (fun r => { r with dropped := sat32 (r.dropped + 1) })

/-- An arrival at a core counts as its progress (R238). -/
def hear (s : State) (x : Nat) : State := if isCorePos x then progress s (servedBy s x) else s

/-- The position serves no partition, or its core is out of reach: fenced, or in a die that is being reset (R212, R303). A stop (R343) and a
partition reset are each whole within one step, so no cell arrives during one. -/
def deaf (s : State) (x : Nat) : Bool := isCorePos x && (!reached s (servedBy s x) || (indexOfLog s x).isNone)

/-- The endpoint has the byte addresses of an access (R227): of an HBM4 stack its data part (R244), of the DDR5 space the 12 × D bytes that
it holds (R245), `d` being D. -/
def addrOk (d x a n : Nat) : Bool :=
  let col := x % 64
  if col < 32 then decide (a + n ≤ 2 ^ 21)
  else if col < 36 then decide (a + n ≤ 2 ^ 22)
  else if col < 50 then decide (a / 2 ^ 36 = 2 * (x / 1024) + (col - 48) ∧ a % 2 ^ 36 + n ≤ 0xFB8000000)
  else if col = 50 then decide (a + n ≤ 12 * d ∨ (2 ^ 46 ≤ a ∧ a + n ≤ 2 ^ 46 + 2 ^ 17))
  else false

/-- Partition of the cluster at a position (R227). -/
def partAt (s : State) (x : Nat) : Option Nat := partOfCluster s (cluOfLog x)

/-- WRITE_ACK leaves (R228). -/
def sendAck (s : State) (x toWhom tag xfer status addr : Nat) : State :=
  sendCells s x [mkCell 0x05 10 toWhom x tag (leBytes 2 xfer ++ leBytes 1 status ++ zeros 1 ++ leBytes 6 addr)]

/-- End of the pool of the sender `src` in which a byte lies, in the CORE_POOL entries of a core; the byte itself where none holds it. -/
def poolEnd (c : Core) (src a : Nat) : Nat :=
  c.pool.foldl (fun m e =>
    let top := 64 * fld e.2 25 11 + 64 * fld e.2 37 26 * fld e.2 49 38
    if bit e.2 50 && decide (fld e.2 10 0 = src ∧ 64 * fld e.2 25 11 ≤ a ∧ a < top) then max m top else m) a

/-- The receiver's pool check (R158): the first byte of a write of `n` bytes that lies outside the sender's pools. -/
def poolOk (c : Core) (src a n : Nat) : Option Nat :=
  if a + n ≤ poolEnd c src a then none else some (poolEnd c src a)

/-- First byte of a write from `src` into the memory of the core at `x` that lies outside the sender's pools. -/
def poolRefuses (s : State) (x src a n : Nat) : Option Nat :=
  if isCorePos x ∧ src ≠ x then poolOk (getCore s (servedBy s x)) (((indexOfLog s src).map (·.2)).getD 4096) a n else none

/-- Event 0x88 (R158, R298). -/
def poolEvent (s : State) (x src a : Nat) : State :=
  coreEvent s (servedBy s x) 0x88 (leBytes 2 (((indexOfLog s src).map (·.2)).getD 0) ++ leBytes 6 a)

/-- The write belongs to a SEAL or VERIFY of the sender (R234). -/
def sealed (s : State) (src tag : Nat) : Bool :=
  match getTag (getCore s (servedBy s src)) tag with
  | none => false
  | some o => decide (dCv o.desc ≠ 0)

/-- Write the bytes of a transfer at its endpoint. -/
def applyBytes (s : State) (x src tag a : Nat) (l : List Byte) (again : Bool := false) : State × Option Nat :=
  putPiece s ((partAt s src).getD 64) ⟨x, a⟩ l (sealed s src tag) true again

/-- Bytes of an open transfer that can be written now (R229, R253): all that came, but external memory takes a transfer's part in each
sector as one request, when that part has arrived or the transfer ends. -/
def ripe (x : Nat) (o : OpenX) (ends : Bool) : Nat :=
  let n := o.got.length
  if ends ∨ x % 64 < 48 ∨ 2 ^ 46 ≤ o.addr then n
  else max o.landed ((o.addr + n) / 512 * 512 - o.addr)

/-- Write what can be written of an open transfer; the first refused byte stays recorded. -/
def land (s : State) (x : Nat) (o : OpenX) (ends : Bool) : State × OpenX :=
  let n := ripe x o ends
  if o.reply ∨ o.red ∨ o.poolBad.isSome ∨ n ≤ o.landed then (s, o)
  else
    let (s1, bad) := applyBytes s x o.src o.tag (o.addr + o.landed) ((o.got.take n).drop o.landed) (decide (0 < o.landed))
    (s1, { o with landed := n, failAddr := o.failAddr.or bad })

/-- A transfer ends incomplete: the bytes that came are written, and a write transfer is answered with status 2. -/
def closeIncomplete (s : State) (x : Nat) (o : OpenX) : State :=
  if o.reply || o.red then s
  else
    let (s1, o1) := land s x o true
    sendAck (dropCvAt s1 ⟨x, o1.addr⟩) x o1.ackTo o1.tag o1.xfer 2 (o1.addr + o1.got.length)

/-- The bytes of the block at an endpoint address, as they stand. -/
def heldBlock (s : State) (d : Dest) : List Byte :=
  let a := d.addr / 4096 * 4096
  if d.pos % 64 < 32 then readBytes (getCore s (servedBy s d.pos)).mem a 4096
  else if d.pos % 64 < 50 then readBytes s.hbm.mem a 4096
  else readBytes s.ddr.mem a 4096

/-- The verify flag of a transfer that has arrived (R235): the value is that of the whole block, which the transfer itself may carry or end. -/
def arrivalOk (s : State) (x : Nat) (o : OpenX) : Bool :=
  o.flags % 2 = 0 || crc32c (if o.bytes = 4096 then o.got else heldBlock s ⟨x, o.addr⟩) == o.cv

/-- A write transfer has received its last cell: check value, store, answer (R229, R230, R235, R253). -/
def closeComplete (s : State) (x : Nat) (o : OpenX) : State :=
  match o.poolBad with
  | some a => sendAck s x o.ackTo o.tag o.xfer 3 a
  | none =>
    let (s1, o1) := land s x o true
    match o1.failAddr with
    | some a => sendAck (dropCvAt s1 ⟨x, o.addr⟩) x o.ackTo o.tag o.xfer 1 a
    | none =>
      if arrivalOk s1 x o then
        let s2 := if o.flags / 2 % 2 = 1 then storeCv s1 ⟨x, o.addr⟩ (some o.cv) else s1
        sendAck s2 x o.ackTo o.tag o.xfer 0 0
      else sendAck (dropCvAt s1 ⟨x, o.addr⟩) x o.ackTo o.tag o.xfer 1 o.addr

/-- Same kind from the same source. -/
def sameKind (src : Nat) (reply : Bool) (o : OpenX) : Bool := o.src == src && o.reply == reply && !o.red

/-- Close what is open of the same kind from the same source (R229). -/
def closeOld (s : State) (x src : Nat) (reply : Bool) : State :=
  let old := (getEnd s x).opens.filter (sameKind src reply)
  let s1 := modEnd s x (fun e => { e with opens := e.opens.filter (fun o => !sameKind src reply o) })
  old.foldl (fun s o => closeIncomplete s x o) s1

/-- Open a transfer. -/
def openNew (s : State) (x : Nat) (o : OpenX) : State := modEnd s x (fun e => { e with opens := o :: e.opens })

/-- A write opener, or a piece, arrives (R229, R237). -/
def execWriteIndexed (x : Nat) (s : State) : Out :=
  onUnit (posOk s x)
    (match headCell s x 0x02 with
     | none => s
     | some c =>
       let s0 := popCell s x
       if deaf s x then s0
       else
         let b := c.bytes
         let a := numAt b 0 6
         let n := numAt b 8 2
         let xf := numAt b 10 2
         let cv : W32 := BitVec.ofNat 32 (numAt b 12 4)
         let toWhom := numAt b 16 2 % 4096
         let fl := numAt b 18 1
         if !addrOk (channelData s) x a n then dropCell s0 x
         else
           let s1 := hear s0 x
           let refuse := poolRefuses s1 x c.src a n
           let s2 := closeOld (match refuse with | some e => poolEvent s1 x c.src e | none => s1) x c.src false
           if fl / 4 % 2 = 1 then
             let l := slice b 24 n
             if crc32c (leBytes 6 a ++ slice b 24 8) ≠ cv then sendAck s2 x toWhom c.tag xf 1 a
             else
               match refuse with
               | some e => sendAck s2 x toWhom c.tag xf 3 e
               | none =>
                 match applyBytes s2 x c.src c.tag a l with
                 | (s3, some e) => sendAck s3 x toWhom c.tag xf 1 e
                 | (s3, none) => sendAck s3 x toWhom c.tag xf 0 0
           else
             openNew s2 x
               { src := c.src, tag := c.tag, addr := a, bytes := n, count := numAt b 6 1, xfer := xf, cv := cv, ackTo := toWhom,
                 flags := fl, status := 0, reply := false, last := s.fab, poolBad := refuse })

/-- The outstanding read of an operation that a reply answers. -/
def liveXfer (s : State) (x tag xf : Nat) (wr : Bool) : Option (Nat × Xfer) :=
  let p := servedBy s x
  match getTag (getCore s p) tag with
  | none => none
  | some o => (o.live.find? (fun y => y.n % 65536 == xf && y.write == wr)).map (fun y => (p, y))

/-- A check failure of an outstanding transfer (R236): the event names the endpoints of source and destination, the trap the failing
block, or the piece where check values are not used. -/
def checkFail (s : State) (p tag : Nat) (y : Xfer) (reason : Nat) : State :=
  match getTag (getCore s p) tag, ctxOf s p tag with
  | some o, some x =>
    (match o.items.find? (fun it => it.id == y.item) with
     | none => xferFail s p tag y causeCheck (dmaDetail reason y.addr)
     | some it =>
       let a := if dCv o.desc = 0 then y.addr else if y.write then it.dst else it.src
       let (src, dst) := itemPlaces x it y.off
       xferFail (checkEvent s p x.part reason src dst a) p tag y causeCheck (dmaDetail reason a))
  | _, _ => s

/-- A READ_REPLY opener, or a piece, arrives at the requesting engine (R228, R230, R236, R252). -/
def execReadReply (x : Nat) (s : State) : Out :=
  onUnit (posOk s x)
    (match headCell s x 0x04 with
     | none => s
     | some c =>
       let s0 := popCell s x
       if deaf s x then s0
       else
         let b := c.bytes
         let st := numAt b 7 1
         let n := numAt b 8 2
         let xf := numAt b 10 2
         let cv : W32 := BitVec.ofNat 32 (numAt b 12 4)
         let s1 := closeOld (hear s0 x) x c.src true
         match liveXfer s1 x c.tag xf false with
         | none => s1
         | some (p, y) =>
           let fail (reason : Nat) : State := checkFail s1 p c.tag y reason
           if st = 1 then fail 4
           else if st = 2 then fail 2
           else if numAt b 18 1 / 4 % 2 = 1 then
             (if crc32c (slice b 0 6 ++ slice b 24 8) ≠ cv then fail 5 else readDone s1 p c.tag y (slice b 24 n) none)
           else
             openNew s1 x
               { src := c.src, tag := c.tag, addr := numAt b 0 6, bytes := n, count := numAt b 6 1, xfer := xf, cv := cv,
                 ackTo := 0, flags := 0, status := st, reply := true, last := s.fab })

/-- A WRITE cell arrives (R229): it belongs to the transfer opened last by its source under its tag. -/
def execWrite (x : Nat) (s : State) : Out :=
  onUnit (posOk s x)
    (match headCell s x 0x01 with
     | none => s
     | some c =>
       let s0 := popCell s x
       if deaf s x then s0
       else
         let e := getEnd s0 x
         match e.opens.find? (fun o => o.src == c.src && o.tag == c.tag && decide (0 < o.count)) with
         | none => dropCell s0 x
         | some o =>
           let l := c.bytes.take (min c.len (o.bytes - o.got.length))
           let o1 := { o with got := o.got ++ l, count := o.count - 1, last := s.fab }
           let rest := e.opens.erase o
           let s1 := hear s0 x
           let (s2, o2) := land s1 x o1 false
           let back (open_ : List OpenX) : State := setEnd s2 x { getEnd s2 x with opens := open_ }
           if o1.count ≠ 0 || o.red then back (o2 :: rest)
           else if o.reply then
             match liveXfer (back rest) x o.tag o.xfer false with
             | none => back rest
             | some (p, y) => readDone (back rest) p o.tag y o1.got (some o.cv)
           else closeComplete (back rest) x o2)

/-- An open transfer has received no cell for 256 µs (R229). -/
def execEndpointTransferTimeout (x src : Nat) (reply : Bool) (s : State) : Out :=
  onUnit (posOk s x)
    (match (getEnd s x).opens.find? (fun o => sameKind src reply o && !o.red) with
     | none => s
     | some o =>
       if s.fab ≥ o.last + usCycles 256 then
         closeIncomplete (modEnd s x (fun e => { e with opens := e.opens.erase o })) x o
       else s)

/-- The requester's operation is a GATHER, whose READ_REQs ask for pieces (R237). DEDUCED (log 69): READ_REQ itself has no bit that says so. -/
def asksPiece (s : State) (src tag : Nat) : Bool :=
  match getTag (getCore s (servedBy s src)) tag with
  | none => false
  | some o => dMode o.desc == 1

/-- When a block's rows are read for a VERIFY, the engine samples the valid bit; the last row's reading decides (R235). -/
def sampleValid (s : State) (src tag xf : Nat) : State :=
  match liveXfer s src tag xf false, ctxOf s (servedBy s src) tag with
  | some (p, y), some x =>
    modTag s p tag (fun o =>
      if dCv o.desc = 2 then
        { o with items := o.items.map (fun it =>
          if it.id = y.item then { it with stale := (storedCv s (placeOf x.pt x.die it.src)).isNone } else it) }
      else o)
  | _, _ => s

/-- Answer a read: READ_REPLY with its cells, a piece with its data in the opener (R237); a nonzero status goes without cells. -/
def sendReply (s : State) (x toWhom tag stage xf status : Nat) (cv : W32) (l : List Byte) (piece : Bool) : State :=
  let a := 32 * stage
  let n := l.length
  if status ≠ 0 then
    sendCells s x [mkCell 0x04 32 toWhom x tag (openerBytes a ((n + 31) / 32) status n xf 0 0 0 0)]
  else if piece then
    sendCells s x [mkCell 0x04 32 toWhom x tag
      (openerBytes a 0 0 n xf (crc32c (leBytes 6 a ++ slice l 0 8)).toNat 0 4 (leNat l))]
  else
    sendCells s x (mkCell 0x04 32 toWhom x tag (openerBytes a ((n + 31) / 32) 0 n xf cv.toNat 0 0 0) ::
      dataCells 0x01 toWhom x tag 128 l)

/-- A READ_REQ arrives (R226, R227, R252). -/
def execReadReq (x : Nat) (s : State) : Out :=
  onUnit (posOk s x)
    (match headCell s x 0x03 with
     | none => s
     | some c =>
       let s0 := popCell s x
       if deaf s x then s0
       else
         let b := c.bytes
         let a := numAt b 0 6
         let n := numAt b 6 2
         let xf := numAt b 8 2
         let stage := numAt b 10 2
         if !addrOk (channelData s) x a n then dropCell s0 x
         else
           let s1 := hear s0 x
           let d : Dest := ⟨x, a⟩
           let (s2, l, poison) := getPiece (sampleValid s1 c.src c.tag xf) ((partAt s c.src).getD 64) d n
           let want := numAt b 12 1
           let status := if poison then 1 else if want = 1 ∧ (storedCv s2 d).isNone then 2 else 0
           let cv := if want = 1 then (storedCv s2 d).getD 0 else 0
           sendReply s2 x c.src c.tag stage xf status cv l (decide (n ≤ 8) && asksPiece s2 c.src c.tag))

/-- The TE's drain has been answered by the reduction unit (R91, R270). -/
def teAnswer (s : State) (p status : Nat) : State :=
  modCore s p (fun c =>
    { c with te := { c.te with ops := c.te.ops.map (fun o =>
        if o.phase ≠ .answer then o
        else if status = 0 then { o with phase := .done }
        else if status = 3 then { o with phase := .done, fault := o.fault.or (some (causeDescriptor, 0x0B)) }
        else { o with phase := .done, fault := o.fault.or (some (causeCheck, 0x03)) }) } })

/-- Partition address of the byte that a WRITE_ACK names. -/
def ackAddr (s : State) (x : Nat) (y : Xfer) (a : Nat) : Nat :=
  match indexOfLog s x with
  | none => y.addr
  | some (q, _) => y.addr + (a - (placeOf ((getPart s q).getD {}) (dieOf x) y.addr).addr)

/-- A WRITE_ACK arrives (R230, R231, R236). -/
def execWriteAck (x : Nat) (s : State) : Out :=
  onUnit (posOk s x)
    (match headCell s x 0x05 with
     | none => s
     | some c =>
       let s0 := popCell s x
       if deaf s x then s0
       else
         let b := c.bytes
         let st := numAt b 2 1
         let s1 := hear s0 x
         if x % 64 = 51 then s1
         else if c.src % 64 = 51 then teAnswer s1 (servedBy s x) st
         else
           match (getCore s1 (servedBy s x)).records.find? (fun r => r.tag == c.tag && r.answer.isNone) with
           | some r => recordAnswered s1 (servedBy s x) r st
           | none =>
           match liveXfer s1 x c.tag (numAt b 0 2) true with
           | none => s1
           | some (p, y) =>
             if st = 0 then writeDone s1 p c.tag y
             else if st = 2 then xferFail s1 p c.tag y causeDmaTimeout (dmaDetail 3 y.addr)
             else if st = 3 then
               xferFail s1 p c.tag y causeAddress (BitVec.ofNat 64 (ackAddr s x y (numAt b 4 6)))
             else
               let piece := match getTag (getCore s p) c.tag with
                 | none => false
                 | some o => decide (dMode o.desc = 2)
               let reason := if piece then 5 else 3
               checkFail s1 p c.tag y reason)

/-! ### Remote raises -/

/-- A remote raise arrives: applied or refused, and answered (R60, R62). -/
def execSyncRaise (x : Nat) (s : State) : Out :=
  onUnit (posOk s x)
    (match headCell s x 0x0A with
     | none => s
     | some c =>
       let s0 := popCell s x
       if deaf s x || !isCorePos x then s0
       else
         let p := servedBy s x
         let i := numAt c.bytes 0 1
         let s1 := hear s0 x
         let r := ctrAdd (getCtr (getCore s1 p) i) (numAt c.bytes 4 4)
         sendCells (writeCtr s1 p i r) x [mkCell 0x0B 2 c.src x c.tag (leBytes 1 (if r.2 then 0 else 1) ++ leBytes 1 (numAt c.bytes 1 1))])

/-- The acknowledgement of a core's raise takes effect (R62, R64, R261). -/
def raiseAcked (s : State) (p tag : Nat) (ok : Bool) : State :=
  let c := getCore s p
  match c.raises.find? (fun r => r.tag == tag) with
  | none => s
  | some r =>
    let s1 := stir (setCore s p (unstall { c with raises := c.raises.filter (fun y => y.tag != tag) })) p
    let d : W64 := BitVec.ofNat 64 r.target
    match r.src with
    | .thread t i =>
      jobCheckAt (if ok then s1 else trap s1 p t causeRemote { precise := false, index := i, syncId := r.syncId, detail := d }) p
    | .pattern g =>
      let s2 := if ok then s1 else
        match getTag c g with
        | none => s1
        | some o => trapOp s1 p o.op causeRemote r.syncId d
      raiseReady s2 p g

/-- A raise of the core at a position `l` from column code `col` of its die; `origin` comes back with the
acknowledgement. -/
def unitRaise (s : State) (col l tag origin i v : Nat) : State :=
  let x := 1024 * dieOf l + col
  sendCells s x [mkCell 0x0A 8 l x tag (leBytes 1 i ++ leBytes 1 origin ++ zeros 2 ++ leBytes 4 v)]

/-- The hub raises a counter for a bucket (R279), through the hub link of the core's die. -/
def hubRaise (s : State) (l tag i v : Nat) : State := unitRaise s 50 l tag 0 i v

/-- An acknowledgement of a bucket's raise reaches the hub (R279): a refused one is posted as job event kind 9. -/
def hubRaiseAcked (s : State) (tag : Nat) (ok : Bool) : State :=
  let b := getBucket s tag
  let s1 := setBucket s tag { b with raises := b.raises.drop 1, raiseBad := b.raiseBad || !ok }
  let s2 := match b.raises with
    | _ :: (n, i, v) :: _ =>
      match getPart s b.part with
      | none => s1
      | some pt => hubRaise s1 (logAt pt n) tag i v
    | _ => s1
  if ok then s2 else jobFault s2 b.part 9 0 0 []

/-- A SYNC_ACK arrives (R64); on a frozen core its effect waits for the release (R304), and a stopped one holds it (R148). -/
def execSyncAck (x : Nat) (s : State) : Out :=
  onUnit (posOk s x)
    (match headCell s x 0x0B with
     | none => s
     | some c =>
       let s0 := popCell s x
       let ok := decide (numAt c.bytes 0 1 = 0)
       if deaf s x then s0
       else if isCorePos x then
         let p := servedBy s x
         let s1 := hear s0 x
         if isFrozen (getCore s1 p) || (getCore s1 p).stopped then
           modCore s1 p (fun k => { k with deferred := k.deferred ++ [(if ok then 2 else 3, c.tag)] })
         else raiseAcked s1 p c.tag ok
       else if x % 64 = 50 then (if numAt c.bytes 1 1 = 0 then hubRaiseAcked s0 c.tag ok else s0)
       else if x % 64 = 51 ∧ ok = false then
         match partAt s0 c.src with
         | none => s0
         | some p => jobFault s0 p 9 0 0 []
       else s0)

end Sys2Proof.Machine
end

