-- ==== Sys2Proof/Machine/Regs.lean ====
section
/-! DEFINITION. Register views: the registers that an image sets, in the order of section type 0x0003 (R410); the status
registers (R65, R66, R98, R140, R159, R164, R189, R190, R217, R220, R231); the full state of a core (R352). -/

namespace Sys2Proof.Machine

/-! ### Registers that Ouvos writes from the image -/

def setSendCfg (c : Core) (i : Nat) (v : W64) : Core := { c with send := tmod {} c.send i (fun x => { x with cfg := v }) }
/-- An open receive channel whose enable is written 0 closes (R217). -/
def setRecvCfg (c : Core) (i : Nat) (v : W64) : Core :=
  let x : RecvCh := tget {} c.recv i
  let c1 := if !bit v 0 && x.state == 0 && bit x.cfg 0 then closeChan c i else c
  { c1 with recv := tmod {} c1.recv i (fun x => { x with cfg := v }) }
def setRingCfg (c : Core) (i : Nat) (v : W64) : Core := { c with recv := tmod {} c.recv i (fun x => { x with ring := v }) }
def setOqCfg (c : Core) (i : Nat) (v : W64) : Core := { c with outQ := tmod {} c.outQ i (fun x => { x with cfg := v }) }
def setSpillCfg (c : Core) (i : Nat) (v : W64) : Core := { c with inQ := tmod {} c.inQ i (fun x => { x with spill := v }) }
def setSteerCfg (c : Core) (i : Nat) (v : W64) : Core := { c with steer := tmod {} c.steer i (fun x => { x with cfg := v }) }

/-- Registers of a core in an image (R410). -/
def coreRegs : Nat := 874

/-- Write register `i` of the order of R410; of CORE_SYNC_VALUE the fault bit is W1C and fault_kind RO (R65). -/
def setCoreReg (c : Core) (i : Nat) (v : W64) : Core :=
  if i < 16 then modThread c i (fun t => { t with cfg := v })
  else if i < 32 then modThread c (i - 16) (fun t => { t with range := v })
  else if i < 48 then modThread c (i - 32) (fun t => { t with replay := v })
  else if i < 64 then modThread c (i - 48) (fun t => { t with fpctl := v })
  else if i < 320 then
    setCtr c (i - 64) { getCtr c (i - 64) with value := BitVec.ofNat 32 (fld v 31 0), fault := (getCtr c (i - 64)).fault && !bit v 32 }
  else if i < 576 then setCtr c (i - 320) { getCtr c (i - 320) with limit := BitVec.ofNat 32 (fld v 31 0) }
  else if i < 608 then { c with credit := tset 0 c.credit (i - 576) v }
  else if i < 640 then { c with pool := tset 0 c.pool (i - 608) v }
  else if i < 704 then setRingCfg c (i - 640) v
  else if i < 720 then setSpillCfg c (i - 704) v
  else if i < 736 then setOqCfg c (i - 720) v
  else if i < 740 then setSteerCfg c (i - 736) v
  else if i < 804 then setSendCfg c (i - 740) v
  else if i < 868 then setRecvCfg c (i - 804) v
  else if i < 872 then { c with te := { c.te with merge := tset 0 c.te.merge (i - 868) v } }
  else if i = 872 then { c with ve := { c.ve with seed := BitVec.ofNat 64 (fld v 31 0) } }
  else if i = 873 then { c with dmaCfg := v }
  else c

/-- Bits of register `i` that the manual reserves. -/
def regReserved (i : Nat) (v : W64) : Bool :=
  let z (lo : Nat) : Bool := decide (fld v 63 lo ≠ 0)
  if i < 16 then z 25 else if i < 32 then z 36 else if i < 48 then z 48 || decide (fld v 6 0 ≠ 0)
  else if i < 64 then z 1 else if i < 320 then z 34 else if i < 576 then z 32
  else if i < 608 then z 59 else if i < 640 then z 51
  else if i < 704 then
    z 21 || (if bit v 20 then decide (fld v 19 15 < 8 ∨ 20 < fld v 19 15) else decide (fld v 19 15 ≠ 0))
  else if i < 720 then z 28
  else if i < 736 then z 16 || decide (fld v 15 2 > 8223) || (bit v 1 && decide (fld v 15 2 ≠ 0))
  else if i < 740 then z 5 else if i < 804 then z 30 else if i < 868 then z 9
  else if i < 872 then z 5 else if i = 872 then z 32 else if i = 873 then z 4 else false

/-- Write word `i` (8 bytes) of a switch's section (R410): its configuration, at a spare column the 16 registers of its
slice port, then three words per slot. -/
def setSwitchReg (w : Switch) (spare : Bool) (i : Nat) (v : W64) : Switch :=
  if i = 0 then { w with cfg := v }
  else
    let h := if spare then 17 else 1
    if i < h then { w with xctx := tset 0 w.xctx (i - 1) v }
    else
      let j := i - h
      if j % 3 = 0 then { w with vn := tset 0 w.vn (j / 3) v }
      else if j % 3 = 1 then { w with sn := tset 0 w.sn (j / 3) v }
      else { w with cn := tset 0 w.cn (j / 3) v }

/-- The words of 8 bytes that a run of bytes at a byte offset covers whole. -/
def wordsOf (addr : Nat) (l : List Byte) : List (Nat × W64) :=
  (List.range (l.length / 8)).map (fun i => (addr / 8 + i, BitVec.ofNat 64 (numAt l (8 * i) 8)))

/-! ### Status registers -/

/-- State code of R44. -/
def stateCode : ThreadState → Nat
  | .idle => 0 | .ready => 1 | .waiting => 2 | .stalled => 3 | .draining => 4 | .trapped => 5 | .halted => 6

/-- CORE_THR_STATUS (R66). -/
def threadStatus (th : Thread) : Nat :=
  th.pc + 2 ^ 18 * stateCode th.state + 2 ^ 21 * th.calls.length +
  2 ^ 32 * (if th.state = .waiting then th.waitSync else 0) + 2 ^ 40 * th.cause

/-- CORE_SYNC_VALUE (R65). -/
def syncWord (k : SyncCtr) : Nat :=
  k.value.toNat + (if k.fault then 2 ^ 32 else 0) + (if k.excess then 2 ^ 33 else 0)

/-- TE_STATUS (R98). -/
def teStatus (c : Core) : Nat :=
  (if c.te.ops = [] then 0 else 1) +
  ((List.range 4).map (fun t => if (tget {} c.te.tiles t).bad then 2 ^ (t + 1) else 0)).sum + 2 ^ 5 * c.qTe.length

/-- Softmax slots that are not empty (R135, R140). -/
def slotsOpen (v : Ve) : Nat := v.slots.length

/-- VE_STATUS (R140). -/
def veStatus (c : Core) : Nat := (if c.ve.cur.isSome then 1 else 0) + 2 * c.qVe.length + 2 ^ 5 * slotsOpen c.ve

/-- Tags in use, held tags included, and held tags (R231). -/
def tagsUsed (c : Core) : Nat := c.tags.length + c.held.length + c.records.length

/-- DMA_STATUS (R231). -/
def dmaStatus (c : Core) : Nat :=
  tagsUsed c + 2 ^ 11 * c.held.length + 2 ^ 22 * slotsUsed c + (if c.tags = [] then 0 else 2 ^ 27)

/-- VN_OQ_STATUS (R190). -/
def oqStatus (q : OutQ) : Nat := q.tokens + (if q.hold then 2 ^ 14 else 0) + 2 ^ 15 * q.words.length

/-- CORE_SPILL_STATUS (R164). -/
def spillStatus (q : InQ) : Nat := q.used + 2 ^ 13 * q.high

/-- VN_STEER_STATUS (R189). -/
def steerStatus (u : Steer) : Nat :=
  u.ctl.length + 2 ^ 3 * u.d0.length + 2 ^ 6 * u.d1.length +
  (match u.fault with | none => 0 | some k => 2 ^ 9 + 2 ^ 10 * k)

/-- CORE_RING_PTR (R159). -/
def ringPtr (r : RecvCh) : Nat := r.wp % 2 ^ 32 + 2 ^ 32 * (r.rp % 2 ^ 32)

/-- PN_CHAN_RECV_STATUS (R217). -/
def recvStatus (r : RecvCh) : Nat := r.state + 4 * min 63 (r.recs.filter (fun x => x.kind == 0 && !x.done)).length

/-- All words of one kind, 8 bytes each. -/
def words8 (n : Nat) (f : Nat → Nat) : List Byte := (List.range n).flatMap (fun i => leBytes 8 (f i))

/-- Section type 2 of R352. -/
def fullState (s : State) (p : Nat) : List Byte :=
  let c := settleWaits (coreNow s (getCore s p)) (getCore s p)
  let job := match indexOf s p with
    | none => 0
    | some (q, _) => ((getPart s q).map (·.job)).getD 0
  words8 16 (fun t => threadStatus (getThread c t)) ++
  words8 16 (fun t => (getThread c t).flags.toNat) ++
  words8 48 (fun i => (tget (0 : W64) (getThread c (i / 3)).flagPos (i % 3)).toNat) ++
  (List.range 16).flatMap (fun t => replayRecord (getThread c t) t 0 (getThread c t).pc (devNs s) job) ++
  words8 256 (fun i => syncWord (getCtr c i)) ++
  leBytes 8 (teStatus c) ++ leBytes 8 c.te.last.toNat ++ leBytes 8 c.te.count.toNat ++ leBytes 8 (veStatus c) ++
  leBytes 8 c.ve.quant.toNat ++ leBytes 8 (dmaStatus c) ++
  words8 16 (fun i => oqStatus (tget {} c.outQ i)) ++ words8 16 (fun i => spillStatus (tget {} c.inQ i)) ++
  words8 4 (fun i => steerStatus (tget {} c.steer i)) ++ words8 64 (fun i => ringPtr (tget {} c.recv i)) ++
  words8 64 (fun i => recvStatus (tget {} c.recv i)) ++ words8 64 (fun i => (tget ({} : SendCh) c.send i).stats.toNat) ++
  words8 64 (fun i => (tget ({} : RecvCh) c.recv i).stats.toNat) ++
  (List.range 512).flatMap (fun i => leBytes 4 (tget ({} : Slot) c.ve.slots i).m.toNat ++ leBytes 4 (tget ({} : Slot) c.ve.slots i).l.toNat) ++
  [c.qTe, c.qVe, c.qDma, c.qPort].flatMap (fun q => words8 8 (fun i => (q[i]?.map (fun o => o.word.toNat)).getD 0))

end Sys2Proof.Machine
end

