-- ==== Sys2Proof/Machine/PacketNet.lean ====
section
/-! DEFINITION. Routers and broadcast (R198 to R212, R489, R492). Ports of a router: 0 N, 1 E, 2 S, 3 W, 4 core, 5 slice,
6 HBM4 controller, 7 hub link, 8 forward Ox link (OX_A on a CM7-2), 9 backward Ox link, 10 pass-through path, 11
reduction unit, 12 request landing buffer, 13 the slack link of a shifted position. An input channel has the key 4 × port + vc. -/

namespace Sys2Proof.Machine

def getRouter (s : State) (r : Nat) : Router := tget {} s.routers r
def setRouter (s : State) (r : Nat) (v : Router) : State := { s with routers := tset {} s.routers r v }
def modRouter (s : State) (r : Nat) (f : Router → Router) : State := setRouter s r (f (getRouter s r))

/-- Depth of an input channel (R203). -/
def channelDepth : Nat := 8

/-- Landing credits of a port for each direction (R207). -/
def landingCredits : Nat := 256

/-- First channel of a type's class (R199, R203). -/
def classBase (ty : Nat) : Nat := if isControl ty then 2 else 0

/-- Four compute dies. -/
def isFour (s : State) : Bool := dieCount s.product == 4

/-- Next and previous die in ring order 0, 1, 3, 2 (R20, R205). -/
def nextDie (d : Nat) : Nat := match d with | 0 => 1 | 1 => 3 | 3 => 2 | _ => 0
def prevDie (d : Nat) : Nat := match d with | 0 => 2 | 1 => 0 | 3 => 1 | _ => 3

/-- Port by which a cell leaves die `d` for die `e` (R205, R207): two hops go forward. -/
def oxPort (s : State) (d e : Nat) : Nat := if isFour s ∧ prevDie d = e then 9 else 8

/-- Attachment columns of an Ox port (R205). -/
def oxCols (s : State) (port : Nat) : List Nat :=
  if isFour s then (if port = 8 then [0, 9] else [26, 35]) else [0, 9, 26, 35]

/-- Paired column on the far die. -/
def pairedCol (c : Nat) : Nat := 35 - c

/-- Distance between two columns around the ring. -/
def colDist (a b : Nat) : Nat := min ((a + 36 - b) % 36) ((b + 36 - a) % 36)

/-- Nearer of the columns, the lower at equal distance. -/
def nearest (c : Nat) : List Nat → Nat
  | [] => c
  | [a] => a
  | a :: r => let b := nearest c r; if colDist c a ≤ colDist c b then a else b

/-- Attachment column and row of a destination on the die of router (r, c) (R200, R201), and the port there. -/
def attach (r c dst : Nat) : Nat × Nat × Nat :=
  let k := dst % 64
  if k < 32 then (9 * (k / 8) + k % 8, rowIx dst, 4)
  else if k < 36 then (9 * (k - 32) + 8, rowIx dst, 5)
  else if k = 48 then (c, 0, 6)
  else if k = 49 then (c, 15, 6)
  else if k = 50 then (17, r, 7)
  else (17, r, 11)

/-- Ring link toward a column: east at equal distance (R201). -/
def rowStep (c a : Nat) : Nat := if (a + 36 - c) % 36 ≤ 18 then 1 else 3

/-- Ring link toward a row: south at equal distance. -/
def colStep (r a : Nat) : Nat := if (a + 16 - r) % 16 ≤ 8 then 2 else 0

/-- Output of a cell at a router (R201, R205, R206). -/
def routeOut (s : State) (x dst : Nat) : Nat :=
  let d := dieOf x; let r := rowIx x; let c := colIx x
  if dieOf dst ≠ d then
    let q := oxPort s d (dieOf dst)
    let a := nearest c (oxCols s q)
    if c = a then q else rowStep c a
  else
    let (ac, ar, port) := attach r c dst
    if c ≠ ac then rowStep c ac else if r ≠ ar then colStep r ar else port

/-- A cell between the reduction units of two dies: it crosses Ox links and enters no die's packet network (R269). -/
def unitCell (c : Cell) : Bool := c.src % 64 == 51 && c.dst % 64 == 51

/-- Lane group by which a reduction unit puts its cells for die `e` onto the Ox link. DESIGN CHOICE (log 73): the group of row 0 at the link's first
attachment column. -/
def unitLane (s : State) (d e : Nat) : Nat := 1024 * d + (oxCols s (oxPort s d e)).headD 0

/-- Output of a cell at a router; a unit's cell goes from the arriving link straight to the unit. -/
def cellOut (s : State) (x : Nat) (c : Cell) : Nat := if unitCell c ∧ dieOf c.dst = dieOf x then 11 else routeOut s x c.dst

/-- The cell goes on in the ring in which it came (R203). -/
def goesOn (inp out : Nat) : Bool := decide ((inp = 3 ∧ out = 1) ∨ (inp = 1 ∧ out = 3) ∨ (inp = 0 ∧ out = 2) ∨ (inp = 2 ∧ out = 0))

/-- The link crosses its ring's date line. -/
def crossesDate (x out : Nat) : Bool :=
  decide ((out = 1 ∧ colIx x = 35) ∨ (out = 3 ∧ colIx x = 0) ∨ (out = 2 ∧ rowIx x = 15) ∨ (out = 0 ∧ rowIx x = 0))

/-- Channel on the link that the cell crosses (R203, R207). -/
def outVc (s : State) (x inp vc out ty : Nat) : Nat :=
  if out < 4 then
    (if crossesDate x out then classBase ty + 1 else if goesOn inp out then vc else classBase ty)
  else if out = 8 ∨ out = 9 then
    (if isFour s then
      (if (out = 8 ∧ dieOf x = 2) ∨ (out = 9 ∧ dieOf x = 0) then 1 else if inp = 10 then vc else 0)
     else classBase ty)
  else classBase ty

/-- Neighbour on a ring link. -/
def neighbour (x out : Nat) : Nat :=
  let r := rowIx x; let c := colIx x
  let (r1, c1) := match out with
    | 0 => ((r + 15) % 16, c)
    | 1 => (r, (c + 1) % 36)
    | 2 => ((r + 1) % 16, c)
    | _ => (r, (c + 35) % 36)
  1024 * dieOf x + 64 * r1 + c1

/-- Die at the far end of an Ox port. -/
def farDie (s : State) (d port : Nat) : Nat :=
  if isFour s then (if port = 8 then nextDie d else prevDie d) else 1 - d

/-- Router, input port and channel that a cell reaches over a link (R205, R207). -/
def arrives (s : State) (x out vc : Nat) (c : Cell) : Nat × Nat × Nat :=
  if out < 4 then (neighbour x out, (out + 2) % 4, vc)
  else
    let e := farDie s (dieOf x) out
    let col := pairedCol (colIx x)
    let at_ (col : Nat) : Nat := 1024 * e + 64 * rowIx x + col
    if dieOf c.dst ≠ e then
      (at_ (nearest col (oxCols s (oxPort s e (dieOf c.dst)))), 10, vc)
    else if isFour s ∧ c.type = 0x03 then (at_ col, 12, 2)
    else (at_ col, if isFour s then 17 - out else 8, vc)

/-- The destination is valid under R200 and R5, or, for BCAST, R211. -/
def dstOk (s : State) (c : Cell) : Bool :=
  decide (dieOf c.dst < dieCount s.product) &&
  (if c.type = 0x0E then decide (c.dst / 64 % 16 = 0) else posOk s c.dst)

/-- A router accepts an arriving cell (R210): 0 accepted, 1 damaged, 2 invalid. -/
def cellFault (s : State) (c : Cell) (inp : Nat) : Nat :=
  if cellCrc c.hdr c.pay ≠ c.crc then 1
  else if c.len = 0 ∨ c.len > 32 ∨ c.type = 0 ∨ c.type > 0x0E ∨ !dstOk s c ∨ bit c.hdr 47 then 2
  else if c.type = 0x0E ∧ inp ≥ 4 ∧ inp ≠ 7 then 2
  else if isFour s ∧ (inp = 8 ∨ inp = 9 ∨ inp = 10) ∧ c.vc > 1 then 2
  else 0

/-- A discard counted in PN_PORT_ERR (R210). -/
def countDiscard (v : Router) (port kind : Nat) : Router :=
  let w := tget (0 : W64) v.errs port
  let lo := if kind = 1 then 0 else 20
  let n := min (fld w (lo + 19) lo + 1) 0xFFFFF
  { v with errs := tset 0 v.errs port (setFld (setFld w (lo + 19) lo n) 40 40 1) }

/-! ### What a router may send -/

/-- Column at which an HBM4 controller injects a cell, and row at which the hub or the reduction unit injects it. -/
def hbmCol (s : State) (x dst : Nat) : Nat :=
  if dieOf dst ≠ dieOf x then (oxCols s (oxPort s (dieOf x) (dieOf dst))).headD 0
  else (attach (rowIx x) 0 dst).1
def hubRow (dst : Nat) : Nat := (attach 0 0 dst).2.1

/-- Row by which the hub or the reduction unit sends a cell in; a broadcast enters by row 0. -/
def injectRow (c : Cell) : Nat := if c.type = 0x0E then 0 else hubRow c.dst

/-- The logical position whose home router this is has been shifted (R194): its core's cells come over the slack link (R202). -/
def shiftedAt (s : State) (x : Nat) : Bool :=
  decide (colIx x % 9 < 8) && bit (tget (0 : BitVec 8) s.shift (segOfPhys x)) (colIx x % 9)

/-- Endpoints attached at a router, as (port, position). -/
def attached (s : State) (x : Nat) : List (Nat × Nat) :=
  let d := 1024 * dieOf x; let r := rowIx x; let c := colIx x
  (if c % 9 < 8 then [(if shiftedAt s x then 13 else 4, d + 64 * r + 8 * (c / 9) + c % 9)] else [(5, d + 64 * r + 32 + c / 9)]) ++
  (if r = 0 then [(6, d + 48)] else if r = 15 then [(6, d + 49)] else []) ++
  (if c = 17 then [(7, d + 50), (11, d + 51)] else []) ++
  (if (List.range (dieCount s.product)).any (fun e => e != dieOf x && unitLane s (dieOf x) e == x) then [(11, d + 51)] else [])

/-- The cell at an endpoint's head enters at this router. -/
def entersHere (s : State) (x port : Nat) (c : Cell) : Bool :=
  if port = 6 then hbmCol s x c.dst == colIx x
  else if port = 11 ∧ unitCell c then unitLane s (dieOf x) (dieOf c.dst) == x
  else if port = 7 ∨ port = 11 then colIx x == 17 && injectRow c == rowIx x
  else true

/-- First cell of a class that waits to be injected by an endpoint. -/
def firstOf (control : Bool) (l : List Cell) : Option Cell := l.find? (fun c => isControl c.type == control)

/-- The cells that may leave when the openers picked by `hold` may not: such an opener keeps the data cells of its
transfer or message back with it. -/
def sendableGo (hold : Cell → Bool) : List Cell → List (Nat × Nat) → List Cell
  | [], _ => []
  | c :: r, keys =>
    if hold c then sendableGo hold r ((c.dst, c.tag) :: keys)
    else if c.type = 0x04 then c :: sendableGo hold r (keys.filter (· != (c.dst, c.tag)))
    else if (c.type = 0x01 ∨ c.type = 0x07) ∧ keys.contains (c.dst, c.tag) then sendableGo hold r keys
    else c :: sendableGo hold r keys

/-- A frozen or stopped core opens nothing (R148, R304). -/
def opensOwn (c : Cell) : Bool := [0x02, 0x03, 0x06, 0x0A, 0x0C].contains c.type

/-- What a suspect's replay must not put on the network (R354). -/
def leavesCore (pos : Nat) (c : Cell) : Bool :=
  c.type == 0x06 || c.type == 0x0A || c.type == 0x0C || (c.type == 0x02 && c.dst != pos)

/-- The core of which a suspect is being replayed, in the partition of a position. -/
def isolating (s : State) (pos : Nat) : Bool :=
  match indexOfLog s pos with
  | none => false
  | some (p, _) =>
    match (getPart s p).bind (·.isolate) with
    | none => false
    | some v => v.current.isSome && v.core == servedBy s pos

/-- The cells of an endpoint that may enter the network now. -/
def sendable (s : State) (pos : Nat) : List Cell :=
  let l := (getEnd s pos).outbox
  if pos % 64 < 32 then
    let c := getCore s (servedBy s pos)
    if isFrozen c || c.stopped then sendableGo opensOwn l []
    else if isolating s pos then sendableGo (leavesCore pos) l [] else l
  else l

/-- A cell goes into an input channel; the head's waiting begins when it finds the channel empty (R203, R209). -/
def pushCell (now : Nat) (v : Router) (key : Nat) (c : Cell) : Router :=
  { v with buf := tmod [] v.buf key (· ++ [c]), wait := if tget [] v.buf key = [] then tset 0 v.wait key now else v.wait }

/-- The head of an input channel leaves it. -/
def popHead (now : Nat) (v : Router) (key : Nat) : Router :=
  { v with buf := tmod [] v.buf key (List.drop 1), wait := tset 0 v.wait key now }

/-- An input channel has a free buffer. -/
def roomAt (v : Router) (key : Nat) : Bool := decide ((tget [] v.buf key).length < channelDepth)

/-- An endpoint injects one cell of a class into the input channel of its port, where the router checks it (R203, R210). -/
def injectOne (s : State) (x port pos : Nat) (control : Bool) : State :=
  if isCorePos pos ∧ fenceState s (servedBy s pos) > 1 then s
  else
    match firstOf control (sendable s pos) with
    | none => s
    | some c =>
      let key := 4 * port + classBase c.type
      if entersHere s x port c && roomAt (getRouter s x) key then
        let s1 := modEnd s pos (fun e => { e with outbox := e.outbox.erase c })
        let k := cellFault s c port
        modRouter s1 x (fun v => if k = 0 then pushCell s.fab v key c else countDiscard v port k)
      else s

/-- Every endpoint at a router injects what it can: one cell of each class. -/
def inject (s : State) (x : Nat) : State :=
  (attached s x).foldl (fun s e => injectOne (injectOne s x e.1 e.2 true) x e.1 e.2 false) s

/-- Heads of the input channels, as (port, vc, cell). -/
def channelHeads (v : Router) : List (Nat × Nat × Cell) :=
  v.buf.filterMap (fun (k, l) => match l with | [] => none | c :: _ => some (k / 4, k % 4, c))

/-- Take the head cell of an input channel; one that leaves the landing buffer returns its landing credit. -/
def takeHead (s : State) (x port vc : Nat) : State :=
  let s1 := modRouter s x (fun v => popHead s.fab v (4 * port + vc))
  if port = 12 then
    let k := 2 * dieOf x + (if colIx x < 18 then 1 else 0)
    { s1 with landing := tmod 0 s1.landing k (· - 1) }
  else s1

/-- Key of the landing credits that a request needs to enter the ring: the far end's die and direction (R207). -/
def landingKey (s : State) (out dst : Nat) : Nat :=
  2 * dieOf dst + (if isFour s ∧ out = 8 then 0 else 1)

/-- A cell may go to an output: the next buffer has room, the landing credit is there, the column is not held; nothing moves in a die
that is being reset, or over a link to one until its links have retrained (R347). -/
def maySend (s : State) (x out : Nat) (h : Nat × Nat × Cell) : Bool :=
  let (inp, vc, c) := h
  if c.type = 0x0E ∨ cellOut s x c ≠ out ∨ (getDie s (dieOf x)).resetting then false
  else if (out = 8 ∨ out = 9) ∧ (getDie s (farDie s (dieOf x) out)).resetting then false
  else if out < 4 ∨ out = 8 ∨ out = 9 then
    let w := outVc s x inp vc out c.type
    let (y, port, v) := arrives s x out w c
    let room := port == 12 || roomAt (getRouter s y) (4 * port + v)
    let credit := !(isFour s && (out == 8 || out == 9) && c.type == 0x03 && inp != 10) ||
      decide (tget 0 s.landing (landingKey s out c.dst) < landingCredits)
    room && credit
  else if out = 4 ∨ out = 13 then !(bit (tget (0 : W64) s.fence x) 4)
  else true

/-- Ports in round-robin order after the one served last. -/
def portOrder (last : Nat) : List Nat := (List.range 14).map (fun i => (last + 1 + i) % 14)

/-- The cell that an output takes (R209): data cells that have waited 32 cycles first, then control before data; the input ports round-robin,
an input's channels in alternation. -/
def choose (now : Nat) (v : Router) (out : Nat) (l : List (Nat × Nat × Cell)) : Option (Nat × Nat × Cell) :=
  let old := l.filter (fun h => !isControl h.2.2.type && decide (now ≥ tget 0 v.wait (4 * h.1 + h.2.1) + 32))
  let cls := if old = [] ∧ l.any (fun h => isControl h.2.2.type) then 1 else 0
  let m := if old = [] then l.filter (fun h => isControl h.2.2.type == (cls == 1)) else old
  match (portOrder (tget 13 v.rr (2 * out + cls))).find? (fun q => m.any (fun h => h.1 == q)) with
  | none => none
  | some q =>
    let ch := m.filter (fun h => h.1 == q)
    match ch.find? (fun h => h.2.1 != tget 4 v.alt (2 * q + cls)) with
    | some h => some h
    | none => ch.head?

/-- An output has taken the head of an input channel. -/
def served (v : Router) (out inp vc ty : Nat) : Router :=
  let cls := if isControl ty then 1 else 0
  { v with rr := tset 13 v.rr (2 * out + cls) inp, alt := tset 4 v.alt (2 * inp + cls) vc }

/-- The bits of a cell on the wire, with those of `flip` inverted. -/
def damaged (c : Cell) (flip : BitVec 320) : Cell :=
  { hdr := c.hdr ^^^ flip.setWidth 48, pay := c.pay ^^^ (flip >>> 48).setWidth 256, crc := c.crc ^^^ (flip >>> 304).setWidth 16 }

/-- Input port whose link a cell crosses to an input: the landing buffer stands behind the Ox link's (R207). -/
def linkPort (out port : Nat) : Nat := if port = 12 then 17 - out else port

/-- A cell crosses a link, as `c`: the next router checks it before it buffers it (R210); a discarded request of the Ox ring returns the landing
credit that it took as it was sent, `sent`. -/
def crossLink (s : State) (out y port v : Nat) (sent c : Cell) : State :=
  let k := cellFault s c (linkPort out port)
  if k = 0 then modRouter s y (fun q => pushCell s.fab q (4 * port + v) c)
  else
    let s1 := modRouter s y (fun q => countDiscard q (linkPort out port) k)
    if isFour s1 && (out == 8 || out == 9) && sent.type == 0x03 then
      { s1 with landing := tmod 0 s1.landing (landingKey s1 out sent.dst) (· - 1) } else s1

/-- Row by which the hub sends a broadcast in. DESIGN CHOICE (log 70): the row of R206 that the hub chooses is row 0, whose routers therefore
know where the rings of R211 end. -/
def bcastRow : Nat := 0

/-- The ring links over which a router sends copies of a broadcast that came in by a port (R211): eastward until 35 hops are done, southward until
15 are. -/
def bcastOuts (x inp : Nat) : List Nat :=
  (if (inp = 7 ∨ inp = 3) ∧ colIx x ≠ 16 then [1] else []) ++ (if (rowIx x + 1) % 16 ≠ bcastRow then [2] else [])

/-- The first broadcast that stands at the head of an input channel. -/
def bcastHead (v : Router) : Option (Nat × Nat × Cell) := (channelHeads v).find? (fun h => h.2.2.type == 0x0E)

/-- Heads that an output may take. -/
def headsFor (s : State) (x out : Nat) : List (Nat × Nat × Cell) := (channelHeads (getRouter s x)).filter (maySend s x out)

/-- The copies of a broadcast for the neighbours: link, channel, and where each arrives. -/
def bcastLegs (s : State) (x inp vc : Nat) (c : Cell) : List (Nat × Nat × Nat × Nat × Nat) :=
  (bcastOuts x inp).map (fun out => let w := outVc s x inp vc out c.type; (out, w, arrives s x out w c))

/-- A broadcast goes on in this cycle: every copy has its buffer, and each of its outputs would take it before the other cells (R209, R211). -/
def bcastGoes (s : State) (x inp vc : Nat) (c : Cell) : Bool :=
  (bcastLegs s x inp vc c).all (fun l => roomAt (getRouter s l.2.2.1) (4 * l.2.2.2.1 + l.2.2.2.2) &&
    choose s.fab (getRouter s x) l.1 ((inp, vc, c) :: headsFor s x l.1) == some (inp, vc, c))

/-- The broadcast at a router takes an output in this cycle; BCAST forwards it. -/
def bcastTakes (s : State) (x out : Nat) : Bool :=
  match bcastHead (getRouter s x) with
  | none => false
  | some (inp, vc, c) => (bcastOuts x inp).contains out && bcastGoes s x inp vc c

/-- A router output takes one cell and the next router checks it (R209, R210). -/
def execPnCellHop (x out : Nat) (flip : BitVec 320) (s : State) : Out :=
  onUnit (coreOk s x && decide (out < 12))
    (let s0 := inject s x
     match (if bcastTakes s0 x out then none else choose s0.fab (getRouter s0 x) out (headsFor s0 x out)) with
     | none => s0
     | some (inp, vc, c) =>
       let s1 := modRouter (takeHead s0 x inp vc) x (fun v => served v out inp vc c.type)
       if out < 4 ∨ out = 8 ∨ out = 9 then
         let w := outVc s1 x inp vc out c.type
         let (y, port, v) := arrives s1 x out w c
         let s2 := if isFour s1 && (out == 8 || out == 9) && c.type == 0x03 && inp != 10 then
             { s1 with landing := tmod 0 s1.landing (landingKey s1 out c.dst) (· + 1) } else s1
         crossLink s2 out y port v c (damaged (sealCell (setFld c.hdr 1 0 w) c.pay) flip)
       else modEnd s1 (if out = 7 then 1024 * dieOf x + 50 else if out = 11 then 1024 * dieOf x + 51 else c.dst)
         (fun e => { e with inbox := e.inbox ++ [c] }))

/-! ### Broadcast (R211, R489, R492) -/

/-- A target takes one cell of a Flock load: a header opens a chunk, the cells after it fill it. Answers the chunk when
it is complete and matches its length and check value. -/
def takeChunk (cur : Option Chunk) (c : Cell) : Option Chunk × Option Chunk :=
  match cur with
  | none =>
    let b := c.bytes
    let k : Chunk := { sidx := numAt b 4 2, kind := numAt b 6 1, store := numAt b 7 1, target := numAt b 8 2, bytes := numAt b 10 2,
                       addr := numAt b 12 4, cv := BitVec.ofNat 32 (numAt b 16 4) }
    (some k, none)
  | some k =>
    let k1 := { k with got := k.got ++ c.bytes.take c.len }
    if k1.got.length < k1.bytes then (some k1, none)
    else (none, if k1.got.length = k1.bytes ∧ crc32c k1.got = k1.cv then some k1 else none)

/-- A complete chunk is written into a core's store (R489). -/
def applyCore (s : State) (p : Nat) (k : Chunk) : State :=
  if k.store = 0 then modCore s p (fun c => { c with micro := writeBytes c.micro k.addr k.got, microcode := true })
  else if k.store = 1 then modCore s p (fun c => writeCore c k.addr k.got)
  else if k.store = 2 then
    modCore s p (fun c => (wordsOf k.addr k.got).foldl (fun c e => setCoreReg c e.1 e.2) c)
  else if k.store = 4 then
    match logOf s p with
    | none => s
    | some l => writeSlice s (4 * cluOfLog l + rowIx l % 4) k.addr k.got false
  else s

/-- The chunk is meant for the core: every core, or this one. -/
def forCore (s : State) (p : Nat) (k : Chunk) : Bool :=
  k.kind == 0 || (k.kind == 1 && (if s.loadMode then k.target == p else (indexOf s p).map (·.2) == some k.target))

/-- One BCAST cell reaches a core. -/
def bcastCore (s : State) (c : Cell) (p : Nat) : State :=
  let k0 := getCore s p
  let k1 := if k0.chunkNo = c.tag then k0 else { k0 with chunkNo := c.tag, chunk := none, chunksHeld := [] }
  let (cur, full) := takeChunk k1.chunk c
  let s1 := setCore s p { k1 with chunk := cur, progress := k1.progress + 1 }
  match full with
  | none => s1
  | some k =>
    if forCore s1 p k then
      applyCore (modCore s1 p (fun c => { c with chunksHeld := c.chunksHeld ++ [k.sidx] })) p k
    else s1

/-- One BCAST cell reaches a switch's service port: chunks of kind 2 that name it are loaded. -/
def bcastSwitch (s : State) (c : Cell) (x : Nat) : State :=
  let w0 := getSwitch s x
  let w1 := if w0.chunkNo = c.tag then w0 else { w0 with chunkNo := c.tag, chunk := none, chunksHeld := [] }
  let (cur, full) := takeChunk w1.chunk c
  let w2 := { w1 with chunk := cur }
  match full with
  | some k =>
    if k.kind = 2 ∧ k.target = x ∧ k.store = 3 then
      setSwitch s x { (wordsOf k.addr k.got).foldl (fun w e => setSwitchReg w (colIx x % 9 == 8) e.1 e.2) w2 with
                        chunksHeld := w2.chunksHeld ++ [k.sidx] }
    else setSwitch s x w2
  | none => setSwitch s x w2

/-- Physical cores of a die. -/
def diePhys (d : Nat) : List Nat := (List.range 576).map (fun i => 1024 * d + 64 * (i / 36) + i % 36)

/-- A broadcast for `part` is under way on a die's routers. -/
def bcastUnderWay (s : State) (d part : Nat) : Bool :=
  s.routers.any (fun e => e.1 / 1024 == d && e.2.buf.any (fun b => b.2.any (fun c => c.type == 0x0E && c.dst % 64 == part)))

/-- A broadcast for `part` is delivered to the core at a router (R211, R492). -/
def bcastHears (s : State) (part p : Nat) : Bool :=
  decide (fenceState s p ≤ 1) && !(getDie s (dieOf p)).resetting && (s.loadMode || (indexOf s p).map (·.1) == some part)

/-- Flock number that a load for `part` carries. -/
def loadTag (s : State) (part : Nat) : Nat := if s.loadMode then s.flockNo % 1024 else ((getPart s part).map (·.loadNo)).getD 1024

/-- The core to which a router delivers: in load mode its own (R492), else the core that serves its home position, over the slack link where the
position is shifted (R202). A spare column is no home. -/
def bcastTo (s : State) (x : Nat) : Option Nat :=
  if s.loadMode then some x else if colIx x % 9 = 8 then none else some (if shiftedAt s x then x + 1 else x)

/-- The copies for the router's core and switch. -/
def bcastHere (s : State) (x : Nat) (c : Cell) : State :=
  let part := c.dst % 64
  if c.tag ≠ loadTag s part then s
  else
    let s1 := match bcastTo s x with
      | none => s
      | some p => if bcastHears s part p then bcastCore s c p else s
    if partOfCluster s1 (cluOfPhys x) = some part then bcastSwitch s1 c x else s1

/-- A router forwards a broadcast, when it can place every copy and its outputs take it (R209, R211): along its row and its column, and to the
core that it serves. `flipE` and `flipS` are the bits damaged on the eastward and southward links. -/
def execBcast (hop : BcastHop) (s : State) : Out :=
  let x := hop.router
  onUnit (coreOk s x)
    (let s0 := inject s x
     match bcastHead (getRouter s0 x) with
     | none => s0
     | some (inp, vc, c) =>
       if bcastGoes s0 x inp vc c then
         let legs := bcastLegs s0 x inp vc c
         let s1 := modRouter (takeHead s0 x inp vc) x (fun v => legs.foldl (fun v l => served v l.1 inp vc c.type) v)
         let s2 := legs.foldl (fun s l =>
           crossLink s l.1 l.2.2.1 l.2.2.2.1 l.2.2.2.2 c
             (damaged (sealCell (setFld c.hdr 1 0 l.2.1) c.pay) (if l.1 = 1 then hop.flipE else hop.flipS))) s1
         bcastHere s2 x c
       else s0)

end Sys2Proof.Machine
end

