-- ==== Sys2Proof/Machine/Channels.lean ====
section
/-! DEFINITION. Message channels and receive rings (R159 to R163, R212 to R220). -/

namespace Sys2Proof.Machine

def getSend (c : Core) (i : Nat) : SendCh := tget {} c.send i
def setSend (c : Core) (i : Nat) (v : SendCh) : Core := { c with send := tset {} c.send i v }
def getRecv (c : Core) (i : Nat) : RecvCh := tget {} c.recv i
def setRecv (c : Core) (i : Nat) (v : RecvCh) : Core := { c with recv := tset {} c.recv i v }

/-- Timeout of 4 µs × 2^e in fabric cycles (R213). -/
def chanTime (e : Nat) : Nat := usCycles (4 * 2 ^ e)

/-! ### Descriptors (R218, R219) -/

def qChan (d : W512) : Nat := fld d 5 0
def qAddr (d : W512) : Nat := fld d 28 8
def qLen (d : W512) : Nat := fld d 48 29
def qReceipt (d : W512) : Nat := fld d 69 49

/-- Reason of DESCRIPTOR_FAULT of a send or receive, 0 when it passes (R219, R517). -/
def portReason (c : Core) (send : Bool) (d : W512) : Nat :=
  let top := if send then 49 else 70
  if fld d 7 6 ≠ 0 ∨ fld d 511 top ≠ 0 ∨ qLen d > 1048560 then 1
  else if qLen d = 0 then 0
  else if (if send then !bit (getSend c (qChan d)).cfg 0 else !bit (getRecv c (qChan d)).cfg 0) then 2
  else if qAddr d % 16 ≠ 0 ∨ qAddr d + qLen d > 2 ^ 21 then 3
  else if !send && decide (qReceipt d % 16 ≠ 0 ∨ qReceipt d + 16 > 2 ^ 21) then 3
  else 0

/-! ### Sending (R214, R216) -/

/-- Cells of a message attempt. -/
def messageCells (tag pos dst chanTo : Nat) (l : List Byte) : List Cell :=
  let n := l.length
  mkCell 0x06 (8 + min n 24) dst pos tag (leBytes 4 n ++ leBytes 1 chanTo ++ zeros 3 ++ l.take 24) ::
    dataCells 0x07 dst pos tag (n / 32 + 1) (l.drop 24)

/-- Send one attempt of the message in flight on a channel; the source is read again each time. -/
def transmit (s : State) (p i : Nat) : State :=
  let c := getCore s p
  let v := getSend c i
  match v.cur, homeIn s p with
  | some m, some (_, pt, own) =>
    match readCore s p m.src m.len with
    | (s1, none) => s1
    | (s1, some l) =>
      let tag := 16 * i + (if v.parity then 8 else 0) + m.attempt % 8
      let s2 := modCore s1 p (fun c => setSend c i { getSend c i with cur := some { m with backoff := false, at_ := coreNow s c } })
      sendCells s2 (logAt pt own) (messageCells tag (logAt pt own) (logAt pt (fld v.cfg 11 1)) (fld v.cfg 17 12) l)
  | _, _ => s

/-- Put the next waiting message of a channel in flight. -/
def nextSend (s : State) (p i : Nat) : State :=
  let v := getSend (getCore s p) i
  match v.cur, v.wait with
  | none, (o, a, n) :: r =>
    transmit (modCore s p (fun c => setSend c i { v with cur := some { op := o, src := a, len := n }, wait := r })) p i
  | _, _ => s

/-- The queue port starts a send (R214, R218). -/
def execSendOperation (p : Nat) (s : State) : Out :=
  onUnit (coreOk s p)
    (match (getCore s p).qPort with
     | [] => s
     | o :: rest =>
       if !runs s p || opcode o.word != opIssueSend then s
       else
         match readDesc s p o with
         | (s1, none) => s1
         | (s1, some d) =>
           let s2 := stir (modCore s1 p (fun c => unstall { c with qPort := rest })) p
           let r := portReason (getCore s2 p) true d
           if r ≠ 0 then jobCheckAt (trapOp (opDone s2 p o) p o causeDescriptor 0 (BitVec.ofNat 64 r)) p
           else if qLen d = 0 then jobCheckAt (opDone s2 p o) p
           else
             let i := qChan d
             nextSend (modCore s2 p (fun c => setSend c i { getSend c i with wait := (getSend c i).wait ++ [(o, qAddr d, qLen d)] })) p i)

/-- The message in flight ends: its wait is counted, the parity turns, the next message goes. -/
def sendEnds (s : State) (p i : Nat) (acked : Bool) (fail : Option W64) : State :=
  let v := getSend (getCore s p) i
  match v.cur with
  | none => s
  | some m =>
    let v1 := { v with cur := none, parity := !v.parity, stats := if acked then bumpStat v.stats 23 0 1 else v.stats }
    let s1 := opDone (modCore s p (fun c => setSend c i v1)) p m.op
    let s2 := match fail with
      | none => s1
      | some d => trapOp s1 p m.op causeChannel 0 d
    jobCheckAt (nextSend s2 p i) p

/-- Count an answer's waiting time, and a failed attempt as a NACK (R220). -/
def countWait (s : State) (p i : Nat) (failed : Bool) : State :=
  modCore s p (fun c =>
    let v := getSend c i
    match v.cur with
    | none => c
    | some _ =>
      let w := sendWaited (coreNow s c) v
      let st := stallStat (if failed then bumpStat v.stats 43 24 1 else v.stats) w
      setSend c i { v with waited := w, stats := st })

/-- An attempt has failed: outcome 1 FULL, 2 CLOSED, 3 RESET, 4 timeout (R216). -/
def attemptFails (s : State) (p i outcome : Nat) : State :=
  let s0 := countWait s p i true
  let c := getCore s0 p
  let v := getSend c i
  match v.cur with
  | none => s0
  | some m =>
    let detail : W64 := BitVec.ofNat 64 (outcome + 2 ^ 8 * i + 2 ^ 14 * m.attempt)
    if outcome = 2 ∨ m.attempt ≥ fld v.cfg 21 18 then sendEnds s0 p i false (some detail)
    else
      let n := m.attempt + 1
      let wait := backoffTime v.cfg n
      let s1 := modCore s0 p (fun c => setSend c i { v with cur := some { m with attempt := n, backoff := true, at_ := coreNow s0 c + wait } })
      if wait = 0 then transmit s1 p i else s1

/-- The sending channel that an answer's tag names, when its parity and attempt are the current ones (R214, R216). -/
def answered (s : State) (x : Nat) (c : Cell) : Option (Nat × Nat) :=
  let p := servedBy s x
  let i := c.tag / 16
  let v := getSend (getCore s p) i
  match v.cur with
  | none => none
  | some m =>
    if !m.backoff && (c.tag / 8 % 2 == 1) == v.parity && c.tag % 8 == m.attempt % 8 then some (p, i) else none

/-- A MSG_ACK arrives; on a frozen core the send completes at the release (R304), and on a stopped one it does not complete (R148). -/
def execMsgAck (x : Nat) (s : State) : Out :=
  onUnit (posOk s x)
    (match headCell s x 0x08 with
     | none => s
     | some c =>
       let s0 := popCell s x
       if deaf s x || !isCorePos x then s0
       else
         match answered s0 x c with
         | none => hear s0 x
         | some (p, i) =>
           let s1 := hear s0 x
           if isFrozen (getCore s1 p) || (getCore s1 p).stopped then modCore s1 p (fun k => { k with deferred := k.deferred ++ [(0, i)] })
           else sendEnds (countWait s1 p i false) p i true none)

/-- A MSG_NACK arrives; on a frozen core its backoff starts at the release (R304), and on a stopped one it is held (R148). -/
def execMsgNack (x : Nat) (s : State) : Out :=
  onUnit (posOk s x)
    (match headCell s x 0x09 with
     | none => s
     | some c =>
       let s0 := popCell s x
       if deaf s x || !isCorePos x then s0
       else
         match answered s0 x c with
         | none => hear s0 x
         | some (p, i) =>
           let s1 := hear s0 x
           let r := numAt c.bytes 0 1
           if isFrozen (getCore s1 p) || (getCore s1 p).stopped then modCore s1 p (fun k => { k with deferred := k.deferred ++ [(16 + r, i)] })
           else attemptFails s1 p i r)

/-- An attempt has had no answer in time (R216). -/
def execMsgAckTimeout (p i : Nat) (s : State) : Out :=
  onUnit (coreOk s p && decide (i < 64))
    (let c := getCore s p
     let v := getSend c i
     match v.cur with
     | none => s
     | some m =>
       if runs s p && !m.backoff && decide (coreNow s c ≥ m.at_ + chanTime (fld v.cfg 29 26)) then attemptFails s p i 4 else s)

/-- A backoff expires and the retry is sent (R216). -/
def execMsgRetryBackoff (p i : Nat) (s : State) : Out :=
  onUnit (coreOk s p && decide (i < 64))
    (let c := getCore s p
     match (getSend c i).cur with
     | none => s
     | some m =>
       if runs s p && m.backoff && decide (coreNow s c ≥ m.at_) then
         let v := getSend c i
         let w := sendWaited (coreNow s c) v
         transmit (modCore s p (fun c => setSend c i { v with waited := w, stats := stallStat v.stats w })) p i
       else s)

/-! ### Receive rings (R159 to R163) -/

/-- Size of a ring in bytes. -/
def ringSize (r : RecvCh) : Nat := 2 ^ fld r.ring 19 15

/-- Byte address of the ring. -/
def ringBase (r : RecvCh) : Nat := 64 * fld r.ring 14 0

/-- Round up to 16. -/
def up16 (n : Nat) : Nat := (n + 15) / 16 * 16

/-- Header of a ring record (R160). -/
def ringHeader (len kind chan sender seq : Nat) : List Byte :=
  leBytes 4 len ++ leBytes 1 kind ++ leBytes 1 chan ++ leBytes 2 sender ++ leBytes 4 seq ++ zeros 4

/-- Reserve space for a record of `len` bytes (R161): the core with a pad written when one is needed, or nothing. -/
def reserve (c : Core) (i len sender chan attempt : Nat) (parity : Bool) (now : Nat) : Option Core :=
  let r := getRecv c i
  let size := ringSize r
  let need := 16 + up16 len
  let off := r.wp % size
  let tail := if off = 0 then 0 else size - off
  let free := size - (r.wp - r.rp)
  let rec_ (off seq : Nat) : RingRec :=
    { off := off, need := need, len := len, kind := 0, seq := seq, sender := sender, chan := chan, attempt := attempt,
      parity := parity, got := 0, done := false, since := now }
  let at0 := if off = 0 then true else decide (need ≤ tail)
  if at0 then
    (if need ≤ free then
      some (setRecv c i { r with wp := r.wp + need, seq := r.seq + 1, recs := r.recs ++ [rec_ off (r.seq % 2 ^ 32)] })
     else none)
  else if tail + need ≤ free then
    let pad : RingRec := { off := off, need := tail, len := tail - 16, kind := 1, seq := r.seq % 2 ^ 32, sender := 0, chan := 0,
                           attempt := 0, parity := false, got := 0, done := true, since := now }
    let c1 := writeCore c (ringBase r + off) (ringHeader (tail - 16) 1 0 0 (r.seq % 2 ^ 32))
    some (setRecv c1 i { r with wp := r.wp + tail + need, seq := r.seq + 2,
                                recs := r.recs ++ [pad, rec_ 0 ((r.seq + 1) % 2 ^ 32)] })
  else none

/-- Change the record with a sequence number. -/
def modRec (r : RecvCh) (seq : Nat) (f : RingRec → RingRec) : RecvCh :=
  { r with recs := r.recs.map (fun x => if x.seq = seq then f x else x) }

/-- MSG_ACK or MSG_NACK leaves. -/
def sendMsgAck (s : State) (x toWhom tag : Nat) : State := sendCells s x [mkCell 0x08 1 toWhom x tag []]
def sendNack (s : State) (x toWhom tag reason : Nat) : State := sendCells s x [mkCell 0x09 1 toWhom x tag (leBytes 1 reason)]

/-- Enter a completed message in the channel's table of 32 (R215). -/
def noteDone (r : RecvCh) (sender chan : Nat) (parity : Bool) : RecvCh :=
  { r with table := ((sender, chan, parity) :: r.table.filter (fun e => !(e.1 == sender && e.2.1 == chan))).take 32 }

/-- Bytes of a message fill its record; the last ones write the header and send the MSG_ACK (R162, R215). -/
def fillRecord (s : State) (x i : Nat) (q : RingRec) (toWhom tag : Nat) (l : List Byte) : State :=
  let p := servedBy s x
  let r := getRecv (getCore s p) i
  let take := l.take (q.len - q.got)
  let s1 := modCore s p (fun c => writeCore c (ringBase r + q.off + 16 + q.got) take)
  let got := q.got + take.length
  if got < q.len then modCore s1 p (fun c => setRecv c i (modRec (getRecv c i) q.seq (fun y => { y with got := got })))
  else
    let s2 := modCore s1 p (fun c =>
      let c1 := writeCore c (ringBase r + q.off) (ringHeader q.len 0 q.chan q.sender q.seq)
      { setRecv c1 i (noteDone (modRec (getRecv c1 i) q.seq (fun y => { y with got := got, done := true, since := coreNow s1 c })) q.sender q.chan q.parity)
          with progress := c1.progress + 1 })
    sendMsgAck s2 x toWhom tag

/-- The first cell of a message arrives (R212, R215). -/
def execMsgFirst (x : Nat) (s : State) : Out :=
  onUnit (posOk s x)
    (match headCell s x 0x06 with
     | none => s
     | some c =>
       let s0 := popCell s x
       if !isCorePos x then s0
       else if deaf s x then sendNack s0 x c.src c.tag 3
       else
         let p := servedBy s x
         let i := numAt c.bytes 4 1 % 64
         let len := numAt c.bytes 0 4
         let r := getRecv (getCore s0 p) i
         let nack (k : Nat) : State :=
           sendNack (modCore (hear s0 x) p (fun c => setRecv c i { getRecv c i with stats := bumpStat r.stats 43 24 1 })) x c.src c.tag k
         let sender := ((indexOfLog s x).bind (fun _ => (indexOfLog s c.src).map (·.2))).getD 0
         let chan := c.tag / 16
         let parity := c.tag / 8 % 2 == 1
         if r.state = 2 then nack 3
         else if r.state = 1 ∨ !bit r.cfg 0 then nack 2
         else if r.table.contains (sender, chan, parity) then sendMsgAck (hear s0 x) x c.src c.tag
         else
           match reserve (getCore s0 p) i len sender chan (c.tag % 8) parity s.fab with
           | none => nack 1
           | some k =>
             let s1 := hear (setCore s0 p k) x
             match (getRecv (getCore s1 p) i).recs.getLast? with
             | none => s1
             | some q => fillRecord s1 x i q c.src c.tag (slice c.bytes 8 24))

/-- A following message cell arrives; a cell that matches no reservation is dropped (R215). -/
def execMsgNext (x : Nat) (s : State) : Out :=
  onUnit (posOk s x)
    (match headCell s x 0x07 with
     | none => s
     | some c =>
       let s0 := popCell s x
       if deaf s x || !isCorePos x then s0
       else
         let p := servedBy s x
         let sender := ((indexOfLog s c.src).map (·.2)).getD 0
         let isIt (q : RingRec) : Bool :=
           q.kind == 0 && !q.done && q.sender == sender && q.chan == c.tag / 16 && q.parity == (c.tag / 8 % 2 == 1) &&
           q.attempt == c.tag % 8
         let hit := (List.range 64).findSome? (fun i => ((getRecv (getCore s0 p) i).recs.find? isIt).map (fun q => (i, q)))
         match hit with
         | none => hear s0 x
         | some (i, q) => fillRecord (hear s0 x) x i q c.src c.tag c.bytes)

/-- A reserved message is not complete in time: its record is abandoned (R163). `res` is its placement number. -/
def execReservationTimeout (p i res : Nat) (s : State) : Out :=
  onUnit (coreOk s p && decide (i < 64))
    (let r := getRecv (getCore s p) i
     match r.recs.find? (fun q => q.seq == res && q.kind == 0 && !q.done) with
     | none => s
     | some q =>
       if s.fab ≥ q.since + chanTime (fld r.cfg 8 5) then
         modCore s p (fun c =>
           let c1 := writeCore c (ringBase r + q.off) (ringHeader q.len 2 q.chan q.sender q.seq)
           setRecv c1 i (modRec (getRecv c1 i) res (fun y => { y with kind := 2, done := true })))
       else s)

/-- The queue port starts a receive (R218). -/
def execReceiveOperation (p : Nat) (s : State) : Out :=
  onUnit (coreOk s p)
    (match (getCore s p).qPort with
     | [] => s
     | o :: rest =>
       if !runs s p || opcode o.word != opIssueRecv then s
       else
         match readDesc s p o with
         | (s1, none) => s1
         | (s1, some d) =>
           let s2 := stir (modCore s1 p (fun c => unstall { c with qPort := rest })) p
           let r := portReason (getCore s2 p) false d
           if r ≠ 0 then jobCheckAt (trapOp (opDone s2 p o) p o causeDescriptor 0 (BitVec.ofNat 64 r)) p
           else if qLen d = 0 then jobCheckAt (opDone s2 p o) p
           else
             let i := qChan d
             modCore s2 p (fun c => setRecv c i { getRecv c i with ops := (getRecv c i).ops ++ [(o, d, coreNow s2 c)] }))

/-- The receipt of a delivered message (R218). -/
def receiptBytes (q : RingRec) (trunc : Bool) : List Byte :=
  leBytes 4 q.len ++ leBytes 2 q.sender ++ leBytes 1 q.chan ++ leBytes 1 (if trunc then 1 else 0) ++ leBytes 4 q.seq ++ zeros 4

/-- A receive takes the next complete record in order (R162, R218). The time for which the ring had nothing for the receive at its head counts
once, until the record was complete (R220). -/
def execReceiveTakesRecord (p i : Nat) (s : State) : Out :=
  onUnit (coreOk s p && decide (i < 64))
    (let r := getRecv (getCore s p) i
     match r.ops, nextMessage r.recs with
     | (o, d, since) :: ops, some (skip, q, rest) =>
       if !runs s p then s
       else
         match readCore s p (ringBase r + q.off + 16) (min q.len (qLen d)) with
         | (s1, none) => s1
         | (s1, some l) =>
           let s2 := modCore s1 p (fun c =>
             let c1 := writeCore c (qAddr d) l
             let c2 := writeCore c1 (qReceipt d) (receiptBytes q (decide (q.len > qLen d)))
             let w := r.waited + (q.since - since)
             let now := coreNow s1 c
             let freed := (skip.map (·.need)).sum + q.need
             setRecv c2 i { r with ops := ops.map (fun e => (e.1, e.2.1, max e.2.2 now)), recs := rest, rp := r.rp + freed, waited := w,
                                   stats := stallStat (bumpStat r.stats 23 0 1) w })
           jobCheckAt (opDone s2 p o) p
     | _, _ => s)

end Sys2Proof.Machine
end

