-- ==== Sys2Proof/Machine/Float.lean ====
section
/-! DEFINITION. FP32 as the manual uses it (R101): IEEE 754 binary32 on exact dyadic numbers, and results that the
manual bounds in units in the last place (R129), on rational approximations of the exact result. -/

namespace Sys2Proof.Machine

/-- The one NaN that the device produces (R101). -/
def qnan : W32 := 0x7FC00000

/-- Sign bit. -/
def fneg (x : W32) : Bool := bit x 31

/-- Exponent and fraction bits, which order the magnitudes. -/
def fmag (x : W32) : Nat := fld x 30 0

/-- NaN, quiet or signalling. -/
def isNan (x : W32) : Bool := decide (fmag x > 0x7F800000)

/-- An infinity. -/
def isInf (x : W32) : Bool := decide (fmag x = 0x7F800000)

/-- Neither NaN nor infinity. -/
def isFinite (x : W32) : Bool := decide (fmag x < 0x7F800000)

/-- A zero of either sign. -/
def isZero (x : W32) : Bool := decide (fmag x = 0)

/-- The word of a sign and a magnitude. -/
def fword (s : Bool) (m : Nat) : W32 := BitVec.ofNat 32 (m + if s then 2 ^ 31 else 0)

/-- Significand of a finite value: its magnitude is `fman x × 2^(fexp x)`. -/
def fman (x : W32) : Nat := if fmag x < 2 ^ 23 then fmag x else fmag x % 2 ^ 23 + 2 ^ 23

/-- Exponent of that significand. -/
def fexp (x : W32) : Int := if fmag x < 2 ^ 23 then -149 else (fmag x / 2 ^ 23 : Nat) - 150

/-- Bit length of a number. -/
def bitLen (n : Nat) : Nat := if n = 0 then 0 else n.log2 + 1

/-- The magnitude of `m × 2^e` cut down to a binary32 magnitude, the lost part's relation to half a unit (0 none,
1 below, 2 half, 3 above); `sticky` says that the exact value lies a little above `m × 2^e`. -/
def cutMag (m : Nat) (e : Int) (sticky : Bool) : Nat × Nat :=
  let q : Int := max (e + bitLen m - 24) (-149)
  let (quot, rem, half) : Nat × Nat × Nat :=
    if q ≤ e then (m <<< (e - q).toNat, 0, 1)
    else (m >>> (q - e).toNat, m % 2 ^ (q - e).toNat, 2 ^ ((q - e).toNat - 1))
  let pos : Nat :=
    if rem = 0 then (if sticky then 1 else 0)
    else if rem < half then 1 else if rem = half then (if sticky then 3 else 2) else 3
  let bits : Nat := if quot < 2 ^ 23 then quot else (q + 149).toNat * 2 ^ 23 + quot
  (min bits 0x7F800000, pos)

/-- Round to nearest, ties to even (R101); beyond the range, infinity. -/
def roundF (s : Bool) (m : Nat) (e : Int) (sticky : Bool) : W32 :=
  let (b, pos) := cutMag m e sticky
  fword s (min 0x7F800000 (if pos = 3 ∨ (pos = 2 ∧ b % 2 = 1) then b + 1 else b))

/-- The signed word magnitude `r` lies within `n × 2^q` of `m × 2^e` (of a value a little above it when `sticky`). -/
def withinUlp (n m : Nat) (e q : Int) (sticky : Bool) (r : Int) : Bool :=
  let w : W32 := BitVec.ofNat 32 r.natAbs
  let f := min q (min e (fexp w))
  let v : Int := (if r < 0 then -1 else 1) * (fman w <<< (fexp w - f).toNat : Nat)
  let x : Int := (m <<< (e - f).toNat : Nat)
  let lim : Int := (n <<< (q - f).toNat : Nat)
  if v > x then decide (v - x ≤ lim) else if sticky then decide (x - v < lim) else decide (x - v ≤ lim)

/-- A result within `n` units in the last place of the exact value `m × 2^e` (a little above it when `sticky`), chosen by
a free value among the words that lie so near. The unit is that of the exact value, 2^−149 where that is subnormal
(R129): beside a power of two the words of the next binade stand twice as far apart, or half as far. -/
def nearF (n free : Nat) (s : Bool) (m : Nat) (e : Int) (sticky : Bool) : W32 :=
  let (b, _) := cutMag m e sticky
  if b = 0x7F800000 then fword s b
  else
    let rs := ((List.range (3 * n + 2)).map (fun i => (b : Int) + i - 2 * n)).filter
      (withinUlp n m e (max (e + bitLen m - 24) (-149)) sticky)
    let r := rs.getD (free % max 1 rs.length) b
    if r < 0 then fword (!s) (-r).toNat else fword s (min 0x7F800000 r.toNat)

/-- A positive ratio as `m × 2^e` with at least 80 bits, and whether anything was cut off. -/
def ratCut (num den : Nat) : Nat × Int × Bool :=
  let sh := 80 + bitLen den - min (80 + bitLen den) (bitLen num)
  ((num <<< sh) / den, -(sh : Int), decide ((num <<< sh) % den ≠ 0))

/-- `nearF` of a ratio; a zero numerator gives a zero. -/
def nearRat (n free : Nat) (s : Bool) (num den : Nat) (exact : Bool) : W32 :=
  let (m, e, st) := ratCut num den
  nearF n free s m e (st || !exact)

/-- Signed exact value of a finite word at exponent `e0 ≤ fexp x`. -/
def atExp (x : W32) (e0 : Int) : Int :=
  let v : Int := (fman x <<< (fexp x - e0).toNat : Nat)
  if fneg x then -v else v

/-- Round a signed exact integer times 2^e; an exact zero takes the sign given. -/
def roundInt (v : Int) (e : Int) (zeroNeg : Bool) : W32 :=
  if v = 0 then fword zeroNeg 0 else roundF (decide (v < 0)) v.natAbs e false

/-- a + b. -/
def fadd (a b : W32) : W32 :=
  if isNan a || isNan b then qnan
  else if isInf a then (if isInf b && fneg a != fneg b then qnan else a)
  else if isInf b then b
  else
    let e0 := min (fexp a) (fexp b)
    roundInt (atExp a e0 + atExp b e0) e0 (fneg a && fneg b)

/-- The negative of a value. -/
def fminus (a : W32) : W32 := a ^^^ 0x80000000

/-- a − b. -/
def fsub (a b : W32) : W32 := if isNan b then qnan else fadd a (fminus b)

/-- a × b. -/
def fmul (a b : W32) : W32 :=
  if isNan a || isNan b then qnan
  else
    let s := fneg a != fneg b
    if isInf a || isInf b then (if isZero a || isZero b then qnan else fword s 0x7F800000)
    else roundInt ((if s then -1 else 1) * (fman a * fman b : Nat)) (fexp a + fexp b) s

/-- a × b + c with one rounding. -/
def ffma (a b c : W32) : W32 :=
  if isNan a || isNan b || isNan c then qnan
  else
    let s := fneg a != fneg b
    if isInf a || isInf b then
      (if isZero a || isZero b then qnan
       else if isInf c && fneg c != s then qnan else fword s 0x7F800000)
    else if isInf c then c
    else
      let ep := fexp a + fexp b
      let e0 := min ep (fexp c)
      let p : Int := (fman a * fman b) <<< (ep - e0).toNat
      roundInt ((if s then -p else p) + atExp c e0) e0 (s && fneg c)

/-- Order of two values that are not NaN: negative, zero or positive as a < b, a = b, a > b; zeros are equal. -/
def fcmp (a b : W32) : Int :=
  let k (x : W32) : Int := if fneg x then -(fmag x : Int) else fmag x
  k a - k b

/-- The larger, +0 above −0; NaN if either is NaN (R129). -/
def fmax (a b : W32) : W32 :=
  if isNan a || isNan b then qnan
  else if fcmp a b > 0 ∨ (fcmp a b = 0 ∧ fneg b) then a else b

/-- The smaller, −0 below +0; NaN if either is NaN. -/
def fmin (a b : W32) : W32 :=
  if isNan a || isNan b then qnan
  else if fcmp a b < 0 ∨ (fcmp a b = 0 ∧ fneg a) then a else b

/-- a / b within 1 ulp (R129). -/
def fdiv (free : Nat) (a b : W32) : W32 :=
  let s := fneg a != fneg b
  if isNan a || isNan b then qnan
  else if isInf a then (if isInf b then qnan else fword s 0x7F800000)
  else if isInf b then fword s 0
  else if isZero b then (if isZero a then qnan else fword s 0x7F800000)
  else if isZero a then fword s 0
  else
    let e := fexp a - fexp b
    let num := fman a <<< 80
    nearF 1 free s (num / fman b) (e - 80) (decide (num % fman b ≠ 0))

/-- a / b rounded to nearest (the update engine's formulas, R286). -/
def fdivR (a b : W32) : W32 :=
  let s := fneg a != fneg b
  if isNan a || isNan b then qnan
  else if isInf a then (if isInf b then qnan else fword s 0x7F800000)
  else if isInf b then fword s 0
  else if isZero b then (if isZero a then qnan else fword s 0x7F800000)
  else if isZero a then fword s 0
  else
    let num := fman a <<< 80
    roundF s (num / fman b) (fexp a - fexp b - 80) (decide (num % fman b ≠ 0))

/-- Largest r with r² ≤ n, found bit by bit from bit `k − 1` down. -/
def isqrtGo (n : Nat) : Nat → Nat → Nat
  | 0, r => r
  | k + 1, r => isqrtGo n k (if (r + 2 ^ k) * (r + 2 ^ k) ≤ n then r + 2 ^ k else r)

/-- Integer square root. -/
def isqrt (n : Nat) : Nat := isqrtGo n (bitLen n / 2 + 1) 0

/-- √a, correctly rounded. -/
def fsqrt (a : W32) : W32 :=
  if isNan a then qnan
  else if isZero a then a
  else if fneg a then qnan
  else if isInf a then a
  else
    let (m, e) := if fexp a % 2 = 0 then (fman a, fexp a) else (2 * fman a, fexp a - 1)
    let n := m <<< 100
    let r := isqrt n
    roundF false r (e / 2 - 50) (decide (r * r ≠ n))

/-- 1 / √a within 1 ulp. -/
def frsqrt (free : Nat) (a : W32) : W32 :=
  if isNan a then qnan
  else if isZero a then fword (fneg a) 0x7F800000
  else if fneg a then qnan
  else if isInf a then 0
  else
    let (m, e) := if fexp a % 2 = 0 then (fman a, fexp a) else (2 * fman a, fexp a - 1)
    let r := isqrt (m <<< 200)
    let exact := decide (r * r = m <<< 200)
    let num := 2 ^ 300
    nearF 1 free false (num / r) (-(e / 2) - 200) (!exact || decide (num % r ≠ 0))

/-- Round `m × 2^e` to the nearest integer, ties to even. -/
def rneNat (m : Nat) (e : Int) : Nat :=
  if e ≥ 0 then m <<< e.toNat
  else
    let k := (-e).toNat
    let q := m >>> k; let r := m % 2 ^ k; let h := 2 ^ (k - 1)
    if r > h ∨ (r = h ∧ q % 2 = 1) then q + 1 else q

/-- FP32 to INT32, ties to even (R118): the result, whether sat is set, whether nan is set. -/
def f2iF (a : W32) : W32 × Bool × Bool :=
  if isNan a then (0, false, true)
  else if isInf a then (if fneg a then 0x80000000 else 0x7FFFFFFF, true, false)
  else
    let n := rneNat (fman a) (fexp a)
    if fneg a then (if n > 2 ^ 31 then (0x80000000, true, false) else (BitVec.ofInt 32 (-(n : Int)), false, false))
    else (if n > 2 ^ 31 - 1 then (0x7FFFFFFF, true, false) else (BitVec.ofNat 32 n, false, false))

/-- INT32 to FP32. -/
def i2fF (a : W32) : W32 := roundInt a.toInt 0 false

/-- A finite value times 2^k, rounded (R134, R90). -/
def scaleInt (v k : Int) : W32 := roundInt v k false

/-! ### Elementary functions: fixed point with 256 fraction bits -/

/-- ln 2 × 2^256. -/
def ln2Fx : Nat :=
  80260960185991308862233904206310070533990667611589946606122867505419956976170

/-- π × 2^432. -/
def piFx : Nat :=
  34842394967524044381230059702115069015342791476468011786734947260245722570069759841126751861584682471644267575784907737413266688372

/-- Σ x^i / i! on [0, 1), 256 fraction bits. -/
def expTaylor (x : Nat) : Nat → Nat → Nat → Nat → Nat
  | 0, _, _, acc => acc
  | n + 1, i, term, acc =>
    let t := (term * x) >>> 256 / i
    expTaylor x n (i + 1) t (acc + t)

/-- e^x of x = v / 2^256: a ratio (numerator, denominator); beyond ±2,000 it is taken at that end, which lies far
outside the binary32 range. -/
def expRat (v : Int) : Nat × Nat :=
  let w : Int := max (-(2000 * 2 ^ 256)) (min (2000 * 2 ^ 256) v)
  let k : Int := w / (ln2Fx : Int)
  let r := (w - k * (ln2Fx : Int)).toNat
  let m := expTaylor r 70 1 (2 ^ 256) (2 ^ 256)
  if k ≥ 0 then (m <<< k.toNat, 2 ^ 256) else (m, 2 ^ 256 <<< (-k).toNat)

/-- A finite value as a fixed-point integer with 256 fraction bits. -/
def toFx (a : W32) : Int :=
  let v : Int := (fman a <<< (fexp a + 256).toNat : Nat)
  if fneg a then -v else v

/-- Σ z^(2i+1) / (2i+1). -/
def atanhSum (z z2 : Nat) : Nat → Nat → Nat → Nat → Nat
  | 0, _, _, acc => acc
  | n + 1, i, t, acc => atanhSum z z2 n (i + 2) ((t * z2) >>> 256) (acc + t / i)

/-- ln of a positive finite value, 256 fraction bits. -/
def lnFx (a : W32) : Int :=
  let k : Int := bitLen (fman a) - 1
  let f := (fman a <<< 256) >>> k.toNat
  let z := ((f - 2 ^ 256) <<< 256) / (f + 2 ^ 256)
  (fexp a + k) * (ln2Fx : Int) + 2 * (atanhSum z ((z * z) >>> 256) 100 1 z 0 : Nat)

/-- Alternating Taylor sum of sine (start `i = 2`, `t = x`) or cosine (start `i = 1`, `t = 1`). -/
def trigSum (x2 : Nat) : Nat → Nat → Bool → Nat → Int → Int
  | 0, _, _, _, acc => acc
  | n + 1, i, sub, t, acc =>
    let t1 := (t * x2) >>> 256 / (i * (i + 1))
    trigSum x2 n (i + 2) (!sub) t1 (if sub then acc - t1 else acc + t1)

/-- Sine and cosine of an angle given as a multiple of 2^−432, as integers with 256 fraction bits. -/
def sinCosFx (x : Int) : Int × Int :=
  let r := (x % (2 * piFx : Int)).toNat
  let h := piFx / 2
  let q := r / h
  let y := (r % h) >>> 176
  let y2 := (y * y) >>> 256
  let s := trigSum y2 60 2 true y y
  let c := trigSum y2 60 1 true (2 ^ 256) (2 ^ 256)
  match q with
  | 0 => (s, c)
  | 1 => (c, -s)
  | 2 => (-s, -c)
  | 3 => (-c, s)
  | _ => (s, c)

/-- A signed fixed-point value within `n` ulp; zero where it is exactly zero. -/
def nearFx (n free : Nat) (v : Int) : W32 :=
  if v = 0 then 0 else nearF n free (decide (v < 0)) v.natAbs (-256) true

/-- e^a within 2 ulp (R129). -/
def fexpE (n free : Nat) (a : W32) : W32 :=
  if isNan a then qnan
  else if isInf a then (if fneg a then 0 else a)
  else let (p, q) := expRat (toFx a); nearRat n free false p q (isZero a)

/-- 2^a within 1 ulp. -/
def fexp2 (free : Nat) (a : W32) : W32 :=
  if isNan a then qnan
  else if isInf a then (if fneg a then 0 else a)
  else
    let k : Int := toFx a / (2 ^ 256 : Int)
    let fr := (toFx a % (2 ^ 256 : Int)).toNat
    let m := expTaylor ((fr * ln2Fx) >>> 256) 70 1 (2 ^ 256) (2 ^ 256)
    let k1 : Int := max (-400) (min 400 k)
    nearF 1 free false m (k1 - 256) (decide (fr ≠ 0))

/-- ln a within 2 ulp; ln of ±0 is −∞ and of a negative number NaN, as IEEE results (R118). -/
def flog (free : Nat) (a : W32) : W32 :=
  if isNan a then qnan
  else if isZero a then 0xFF800000
  else if fneg a then qnan
  else if isInf a then a
  else if fmag a = 0x3F800000 then 0
  else nearFx 2 free (lnFx a)

/-- tanh a within 3 ulp. -/
def ftanh (free : Nat) (a : W32) : W32 :=
  if isNan a then qnan
  else if isInf a then fword (fneg a) 0x3F800000
  else if isZero a then a
  else
    let (p, q) := expRat (2 * (toFx a).natAbs)
    nearRat 3 free (fneg a) (p - q) (p + q) false

/-- 1 / (1 + e^−x) as a ratio, x with 256 fraction bits. -/
def sigRat (x : Int) : Nat × Nat := let (p, q) := expRat x; (p, p + q)

/-- 1 / (1 + e^−a) within 3 ulp. -/
def fsigmoid (free : Nat) (a : W32) : W32 :=
  if isNan a then qnan
  else if isInf a then (if fneg a then 0 else 0x3F800000)
  else let (p, q) := sigRat (toFx a); nearRat 3 free false p q (isZero a)

/-- a × sigmoid(a) within 4 ulp; its limits at the infinities (R129). -/
def fsilu (free : Nat) (a : W32) : W32 :=
  if isNan a then qnan
  else if isInf a then (if fneg a then 0x80000000 else a)
  else if isZero a then a
  else
    let (p, q) := sigRat (toFx a)
    nearRat 4 free (fneg a) ((toFx a).natAbs * p) (2 ^ 256 * q) false

/-- 0.5 a (1 + tanh(0.79788456 (a + 0.044715 a³))) = a × sigmoid(2u) within 4 ulp. -/
def fgelu (free : Nat) (a : W32) : W32 :=
  if isNan a then qnan
  else if isInf a then (if fneg a then 0x80000000 else a)
  else if isZero a then a
  else
    let x := toFx a
    let a3 := x * x * x / (2 ^ 512 : Int)
    let u2 := 2 * 79788456 * (x * 1000000 + 44715 * a3) / (100000000 * 1000000)
    let (p, q) := sigRat u2
    nearRat 4 free (fneg a) (x.natAbs * p) (2 ^ 256 * q) false

/-- sin a (`cosine` false) or cos a, full argument reduction, within 2 ulp. -/
def ftrig (cosine : Bool) (free : Nat) (a : W32) : W32 :=
  if isNan a || isInf a then qnan
  else if isZero a then (if cosine then 0x3F800000 else a)
  else
    let v : Int := (fman a <<< (fexp a + 432).toNat : Nat)
    let (s, c) := sinCosFx (if fneg a then -v else v)
    nearFx 2 free (if cosine then c else s)

/-- (cos θ, sin θ) of θ = 2π φ / 2^40, each within 1 ulp (R138). -/
def angleF (free : Nat) (phi : Nat) : W32 × W32 :=
  if phi = 0 then (0x3F800000, 0)
  else if phi = 2 ^ 38 then (0, 0x3F800000)
  else if phi = 2 ^ 39 then (0xBF800000, 0)
  else if phi = 3 * 2 ^ 38 then (0, 0xBF800000)
  else
    let (s, c) := sinCosFx ((phi * piFx / 2 ^ 39 : Nat) : Int)
    (nearFx 1 (free / 3) c, nearFx 1 free s)

end Sys2Proof.Machine
end

