-- ==== Sys2Proof/Machine/Flags.lean ====
section
/-! DEFINITION. Flag computations of the engines (R119 to R121): the sticky flags of a thread with the position of the
first value that set each, and the NaN trap. -/

namespace Sys2Proof.Machine

/-- Sources of a flag (R119). -/
def srcTe : Nat := 0
def srcVe : Nat := 1
def srcQuant : Nat := 2

/-- A flag of a thread is set by position `pos` of an operation; a flag already set keeps its position (R120). -/
def setFlag (th : Thread) (i pos tag src : Nat) : Thread :=
  if bit th.flags i then th
  else { th with flags := th.flags ||| BitVec.ofNat 64 (2 ^ i),
                 flagPos := tset 0 th.flagPos i (BitVec.ofNat 64 (pos % 2 ^ 32 + 2 ^ 32 * tag + 2 ^ 44 * src)) }

/-- `setFlag` where there is such a position. -/
def setFlagOpt (th : Thread) (i : Nat) (pos : Option Nat) (tag src : Nat) : Thread :=
  match pos with
  | none => th
  | some p => setFlag th i p tag src

/-- An operation sets its flags in the issuing thread before its done_sync (R120); the job's first NaN traps a thread
whose nan_trap is 1 (R121). -/
def reportFlags (s : State) (p : Nat) (o : IssueOp) (sat inf nan : Option Nat) (src : Nat) : State :=
  let th := getThread (getCore s p) o.thread
  let th1 := setFlagOpt (setFlagOpt (setFlagOpt th 0 sat o.opTag src) 1 inf o.opTag src) 2 nan o.opTag src
  let s1 := modCore s p (fun c => setThread c o.thread th1)
  if bit th.fpctl 0 && !bit th.flags 2 && bit th1.flags 2 then
    trapOp s1 p o causeNan 0 (tget 0 th1.flagPos 2)
  else s1

/-- The earlier of two positions. -/
def earlier : Option Nat → Option Nat → Option Nat
  | none, b => b
  | a, none => a
  | some a, some b => some (min a b)

end Sys2Proof.Machine
end

