-- ==== Sys2Proof/Machine/Fabric.lean ====
section
/-! DEFINITION. The scheduled networks (R164, R165, R167 to R197): one slot of the switches of a partition, crossings,
input and output queues with Spill, adders, steering units, token returns and slice contexts. The words that are on
their way to a core stand in its home switch with the slots they still need. -/

namespace Sys2Proof.Machine

/-! ### Queues at the core (R164, R165, R177 to R182, R190) -/

/-- Depths in words (R177, R181). -/
def outDepth : Nat := 16
def inDepth : Nat := 32
def steerDepth : Nat := 4
def ctlDepth : Nat := 4
def portDepth : Nat := 8

def spillBase (q : InQ) : Nat := fld q.spill 14 0
def spillLimit (q : InQ) : Nat := fld q.spill 27 15

def getIn (s : State) (p q : Nat) : InQ := tget {} (getCore s p).inQ q
def modIn (s : State) (p q : Nat) (f : InQ → InQ) : State := modCore s p (fun c => { c with inQ := tmod {} c.inQ q f })

/-- Write one word and its mark into slot `i` of a Spill area (R164). -/
def spillPut (c : Core) (q : InQ) (i : Nat) (w : VnWord) : Core :=
  let c1 := writeCore c (64 * (spillBase q + i)) (rowBytes w.data)
  let a := 64 * (spillBase q + spillLimit q) + i / 8
  let old := tget 0 c.mem a
  let m : Byte := BitVec.ofNat 8 (2 ^ (i % 8))
  writeCore c1 a [if w.poison then old ||| m else old &&& (~~~ m)]

/-- Read slot `i` of a Spill area. -/
def spillGet (s : State) (p : Nat) (q : InQ) (i : Nat) : State × Option VnWord :=
  match readCore s p (64 * (spillBase q + i)) 64 with
  | (s1, none) => (s1, none)
  | (s1, some l) =>
    match readCore s1 p (64 * (spillBase q + spillLimit q) + i / 8) 1 with
    | (s2, some [b]) => (s2, some { data := rowOf l, poison := bit b (i % 8) })
    | (s2, _) => (s2, none)

/-- The queue refills its entries from the head of the area (R165). -/
def refill (p q : Nat) : Nat → State → State
  | 0, s => s
  | k + 1, s =>
    let v := getIn s p q
    if v.used = 0 ∨ v.words.length ≥ inDepth then s
    else
      match spillGet s p v v.head with
      | (s1, none) => s1
      | (s1, some w) =>
        refill p q k (modIn s1 p q (fun v =>
          { v with words := v.words ++ [w], used := v.used - 1, head := (v.head + 1) % max 1 (spillLimit v) }))

/-- A word moves from the landing buffer into the area. -/
def spillOne (s : State) (p q : Nat) : State :=
  let v := getIn s p q
  match v.landing with
  | [] => s
  | w :: r =>
    if v.used ≥ spillLimit v then s
    else
      let s1 := modCore s p (fun c => spillPut c v ((v.head + v.used) % max 1 (spillLimit v)) w)
      modIn s1 p q (fun v => { v with landing := r, used := v.used + 1, high := max v.high (v.used + 1) })

/-- Words from the landing buffer go straight into the entries while the area is empty and there is room (R192). -/
def landDirect (v : InQ) : InQ :=
  if v.used ≠ 0 then v
  else
    let n := inDepth - v.words.length
    { v with words := v.words ++ v.landing.take n, landing := v.landing.drop n }

/-- State of hold by the landing buffer (R181). -/
def judgeHold (v : InQ) : InQ :=
  if v.landing.length ≥ 8 then { v with hold := true } else if v.landing = [] then { v with hold := false } else v

/-- Compute cycles per fabric cycle of a core's cluster, in 1/72: a clock of 600 + 25 g MHz (R471) against 1,800 MHz (R167). -/
def computePace (s : State) (p : Nat) : Nat := 24 + (tget ({} : Pow) s.power (cluOfPhys p)).grant

/-- One fabric cycle of an input queue: direct entries, one Spill write per compute cycle, refill, hold. -/
def serveQueue (s : State) (p q : Nat) : State :=
  let s1 := modIn s p q landDirect
  let v := getIn s1 p q
  let n := v.pace + computePace s p
  let s2 := if v.landing = [] then modIn s1 p q (fun v => { v with pace := 0 })
            else iter (fun s => spillOne s p q) (n / 72) (modIn s1 p q (fun v => { v with pace := n % 72 }))
  modIn (refill p q inDepth s2) p q judgeHold

/-- A word reaches its input queue. -/
def queueArrive (s : State) (p q : Nat) (w : VnWord) : State :=
  modIn s p q (fun v => judgeHold (landDirect { v with landing := v.landing ++ [w] }))

/-- The steering unit that feeds a queue (R186). -/
def feeder (c : Core) (q : Nat) : Option Nat :=
  (List.range 4).find? (fun u =>
    let cfg := (tget ({} : Steer) c.steer u).cfg
    bit cfg 0 && fld cfg 4 1 == q)

/-- A word has left an input queue: its token is freed (R179). -/
def freeToken (s : State) (p q : Nat) : State :=
  match feeder (getCore s p) q with
  | none => modIn s p q (fun v => { v with freed := v.freed + 1 })
  | some u =>
    let i := (getIn s p q).origin.headD 0
    let s1 := modIn s p q (fun v => { v with origin := v.origin.drop 1 })
    modCore s1 p (fun c => { c with steer := tmod {} c.steer u (fun x =>
      if i = 0 then { x with freed0 := x.freed0 + 1 } else { x with freed1 := x.freed1 + 1 }) })

/-- An engine takes the head word of an input queue: the core makes progress (R238). -/
def takeWord (s : State) (p q : Nat) : State × Option VnWord :=
  match (getIn s p q).words with
  | [] => (s, none)
  | w :: r =>
    let s1 := freeToken (modIn s p q (fun v => { v with words := r })) p q
    (progress (refill p q inDepth s1) p, some w)

/-- An engine takes up to `n` words. -/
def takeWords (p q : Nat) : Nat → State → State × List VnWord
  | 0, s => (s, [])
  | n + 1, s =>
    match takeWord s p q with
    | (s1, none) => (s1, [])
    | (s1, some w) => let (s2, l) := takeWords p q n s1; (s2, w :: l)

/-- Room in an output queue. -/
def outRoom (s : State) (p q : Nat) : Nat := outDepth - (tget ({} : OutQ) (getCore s p).outQ q).words.length

/-- An engine writes words into an output queue: as many as it has room for; answers the rest. -/
def putWords (s : State) (p q : Nat) (l : List VnWord) : State × List VnWord :=
  let n := outRoom s p q
  (modCore s p (fun c => { c with outQ := tmod {} c.outQ q (fun v => { v with words := v.words ++ l.take n }) }),
   l.drop n)

/-! ### Tables and links (R168 to R175) -/

/-- Period of a switch's schedule. -/
def periodOf (w : Switch) : Nat := fld w.cfg 12 0
def addMode (w : Switch) : Nat := fld w.cfg 14 13

/-- The 3-bit source fields of a table entry, lowest first. -/
def sources (e : W64) (n : Nat) : List Nat := (List.range n).map (fun i => fld e (3 * i + 2) (3 * i))

/-- A spare column, whose switch has the slice port X (R168). -/
def isSpare (x : Nat) : Bool := colIx x % 9 == 8

/-- Slice at a switch's X port. -/
def sliceAt (x : Nat) : Nat := 4 * cluOfPhys x + rowIx x % 4

/-- Logical position whose home switch this is. -/
def homedAt (x : Nat) : Option Nat :=
  if isSpare x then none else some (1024 * dieOf x + 64 * rowIx x + 8 * (colIx x / 9) + colIx x % 9)

/-- Core at a switch's L port, and whether it is reached over the slack link (R193, R194). The L port of a spare column's switch leads to the
core of that column (R168). -/
def coreAt (s : State) (x : Nat) : Option (Nat × Bool) :=
  match homedAt x with
  | some l => some (servedBy s l, servedBy s l != x)
  | none => some (x, false)

/-- Switch beyond port N, E, S or W (0 to 3), where the link exists and is open (R168 to R170). -/
def beyond (s : State) (x port : Nat) : Option Nat :=
  let r := rowIx x; let c := colIx x
  let y : Option Nat := match port with
    | 0 => if r = 0 then none else some (x - 64)
    | 1 => if c = 35 then none else some (x + 1)
    | 2 => if r = 15 then none else some (x + 64)
    | _ => if c = 0 then none else some (x - 1)
  y.bind (fun y =>
    let a := partOfCluster s (cluOfPhys x)
    if a.isSome && a == partOfCluster s (cluOfPhys y) then some y else none)

/-- Port code (1 to 4) at which a word sent out of port `i` (0 to 3) arrives. -/
def arrivesAt (i : Nat) : Nat := (i + 2) % 4 + 1

/-! ### Return words (R179, R181) -/

/-- The return word of an endpoint with `freed` tokens, its hold, and its hold as last returned. -/
def returnWord (freed : Nat) (hold sent : Bool) : Option (Nat × W32) :=
  if freed = 0 ∧ hold = sent then none
  else
    let n := min freed 65535
    some (n, BitVec.ofNat 32 (n + if hold then 65536 else 0))

/-- A core return point answers: 0 to 15 an input queue, 16 to 23 a steering input. -/
def coreReturn (s : State) (p i : Nat) : State × Option W32 :=
  let c := getCore s p
  if i < 16 then
    let v := tget {} c.inQ i
    match returnWord v.freed v.hold v.holdSent with
    | none => (s, none)
    | some (n, w) => (modIn s p i (fun v => { v with freed := v.freed - n, holdSent := v.hold }), some w)
  else if i < 24 then
    let u := tget ({} : Steer) c.steer ((i - 16) / 2)
    let h := (tget ({} : InQ) c.inQ (fld u.cfg 4 1)).hold
    let d0 := i % 2 = 0
    match returnWord (if d0 then u.freed0 else u.freed1) h (if d0 then u.sent0 else u.sent1) with
    | none => (s, none)
    | some (n, w) =>
      (modCore s p (fun c => { c with steer := tmod {} c.steer ((i - 16) / 2) (fun u =>
        if d0 then { u with freed0 := u.freed0 - n, sent0 := h } else { u with freed1 := u.freed1 - n, sent1 := h }) }),
       some w)
  else (s, none)

/-- A slice context's return point; one that a bad header has stopped returns no further tokens (R191). -/
def sliceReturn (s : State) (key i : Nat) : State × Option W32 :=
  let x := tget ({} : Ctx) (getSlice s key).ctx i
  match (if x.stopped then none else returnWord x.freed false false) with
  | none => (s, none)
  | some (n, w) => (modSlice s key (fun v => { v with ctx := tmod {} v.ctx i (fun x => { x with freed := x.freed - n }) }), some w)

/-- The return points of an adder. -/
def adderReturn (w : Switch) (ab : Bool) : Switch × Option W32 :=
  match returnWord (if ab then w.freedAB else w.freedAA) false false with
  | none => (w, none)
  | some (n, v) => (if ab then { w with freedAB := w.freedAB - n } else { w with freedAA := w.freedAA - n }, some v)

/-! ### Sources of a slot (R173 to R175, R178) -/

/-- The word of a vector source in the slot, and the state after the producer has sent it. -/
def vnSource (s : State) (x : Nat) (e : W64) (code : Nat) : State × Option VnWord :=
  let w := getSwitch s x
  if code = 5 then (s, (w.outVn.find? (fun y => y.2 == 0)).map (·.1))
  else if code = 6 then
    if isSpare x then
      let key := sliceAt x
      let i := fld e 40 37
      let v := tget ({} : Ctx) (getSlice s key).ctx i
      match v.outW with
      | [] => (s, none)
      | d :: r =>
        if v.tokens = 0 ∨ v.hold then (s, none)
        else (modSlice s key (fun y => { y with ctx := tmod {} y.ctx i (fun v => { v with outW := r, tokens := v.tokens - 1 }) }), some d)
    else (s, none)
  else if code = 7 then
    match w.ar with
    | [] => (s, none)
    | d :: r =>
      if w.ar.length ≤ w.arNew ∨ w.arTok = 0 ∨ w.arHold then (s, none)
      else (setSwitch s x { w with ar := r, arTok := w.arTok - 1 }, some d)
  else (s, tget none w.vnIn code)

/-- A steering fault: the unit stops and raises its event (R189). -/
def steerFault (s : State) (p u kind : Nat) : State :=
  let s1 := modCore s p (fun c => { c with steer := tmod {} c.steer u (fun x => { x with fault := some kind }) })
  coreEvent s1 p 0x85 [BitVec.ofNat 8 u, BitVec.ofNat 8 kind]

/-- A word or token reaches its endpoint in a core: 0 to 15 an input queue, 16 to 23 a steering input, 32 to 35 a control
FIFO, 64 to 79 the token counter of an output queue (kept in the switch until SN_RETURN_WORD). -/
def landAt (s : State) (x p dst : Nat) (w : VnWord) : State :=
  if dst < 16 then queueArrive s p dst w
  else if dst < 24 then
    let u := (dst - 16) / 2
    let v := tget ({} : Steer) (getCore s p).steer u
    if v.fault.isSome then s
    else if (if dst % 2 = 0 then v.d0 else v.d1).length ≥ steerDepth then steerFault s p u 1
    else modCore s p (fun c => { c with steer := tmod {} c.steer u (fun v =>
      if dst % 2 = 0 then { v with d0 := v.d0 ++ [w] } else { v with d1 := v.d1 ++ [w] }) })
  else if 32 ≤ dst ∧ dst < 36 then
    let u := dst - 32
    let v := tget ({} : Steer) (getCore s p).steer u
    if v.fault.isSome then s
    else if v.ctl.length ≥ ctlDepth then steerFault s p u 0
    else modCore s p (fun c => { c with steer := tmod {} c.steer u (fun v => { v with ctl := v.ctl ++ [w.data.toNat % 256] }) })
  else if 64 ≤ dst then modSwitch s x (fun v => { v with ret := v.ret ++ [(if p = x then 0 else 3, dst - 64, BitVec.ofNat 32 w.data.toNat)] })
  else s

/-- The words crossing into the core come one slot nearer; those that have crossed land (R183). -/
def landInbound (s : State) (x : Nat) : State :=
  let l := (getSwitch s x).inbound
  let s1 := modSwitch s x (fun w => { w with inbound := (l.filter (fun y => decide (y.2.2.1 > 1))).map (fun y => (y.1, y.2.1, y.2.2.1 - 1, y.2.2.2)) })
  (l.filter (fun y => decide (y.2.2.1 ≤ 1))).foldl (fun s y => landAt s x (if y.2.2.2 then x + 1 else x) y.1 y.2.1) s1

/-- A word sets out across the slack stage of the core that the switch serves now (R193, R195). -/
def sendInbound (s : State) (x dst slots : Nat) (w : VnWord) : State :=
  match coreAt s x with
  | none => s
  | some (_, excess) => modSwitch s x (fun v => { v with inbound := v.inbound ++ [(dst, w, slots, excess)] })

/-- What leaves toward neighbours in a slot: switch, port code and word, per network. -/
structure Moves where
  vn : List (Nat × Nat × VnWord) := []
  sn : List (Nat × Nat × W32) := []
  cn : List (Nat × Nat × Byte) := []

/-- Deliver a vector word to output field `i` of the entry. -/
def vnDeliver (x : Nat) (e : W64) (w : VnWord) (i : Nat) (a : State × Moves) : State × Moves :=
  let (s, m) := a
  if i < 4 then
    match beyond s x i with
    | none => (s, m)
    | some y => (s, { m with vn := (y, arrivesAt i, w) :: m.vn })
  else if i = 4 then
    let d := fld e 28 24
    if d < 24 then (sendInbound s x d (if d < 16 then 2 else 1) w, m) else (s, m)
  else if i = 5 then
    if isSpare x then
      (modSlice s (sliceAt x) (fun v => { v with ctx := tmod {} v.ctx (fld e 36 33) (fun c => { c with inW := c.inW ++ [w] }) }), m)
    else (s, m)
  else if i = 6 then (modSwitch s x (fun v => { v with aa := v.aa ++ [w] }), m)
  else (modSwitch s x (fun v => { v with ab := v.ab ++ [w] }), m)

/-- Fields that select a source. -/
def selecting (l : List Nat) (code : Nat) : List Nat := (List.range l.length).filter (fun i => l.getD i 0 == code)

/-- The vector entry of a slot: each selected source sends its word to the outputs that select it. -/
def vnEntry (x : Nat) (e : W64) (a : State × Moves) : State × Moves :=
  let f := sources e 8
  [1, 2, 3, 4, 5, 6, 7].foldl (fun (a : State × Moves) code =>
    match selecting f code with
    | [] => a
    | sel =>
      match vnSource a.1 x e code with
      | (s1, none) => (s1, a.2)
      | (s1, some w) => sel.foldl (fun a i => vnDeliver x e w i a) (s1, a.2)) a

/-- The word of a scalar source in the slot. -/
def snSource (s : State) (x : Nat) (e : W64) (code : Nat) : State × Option W32 :=
  let w := getSwitch s x
  if code = 5 then (s, (w.outSn.find? (fun y => y.2 == 0)).map (·.1))
  else if code = 6 then (if isSpare x then sliceReturn s (sliceAt x) (fld e 33 30) else (s, none))
  else if code = 7 then let (v, r) := adderReturn w (bit e 38); (setSwitch s x v, r)
  else (s, tget none w.snIn code)

/-- Deliver a scalar word to output field `i`. -/
def snDeliver (x : Nat) (e : W64) (w : W32) (i : Nat) (a : State × Moves) : State × Moves :=
  let (s, m) := a
  if i < 4 then
    match beyond s x i with
    | none => (s, m)
    | some y => (s, { m with sn := (y, arrivesAt i, w) :: m.sn })
  else if i = 4 then (sendInbound s x (64 + fld e 29 26) 2 { data := BitVec.ofNat 512 w.toNat }, m)
  else if i = 5 then
    (if isSpare x then modSwitch s x (fun v => { v with ret := v.ret ++ [(1, fld e 37 34, w)] }) else s, m)
  else (modSwitch s x (fun v => { v with ret := v.ret ++ [(2, 0, w)] }), m)

/-- The scalar entry of a slot. -/
def snEntry (x : Nat) (e : W64) (a : State × Moves) : State × Moves :=
  let f := sources e 7
  [1, 2, 3, 4, 5, 6, 7].foldl (fun (a : State × Moves) code =>
    match selecting f code with
    | [] => a
    | sel =>
      match snSource a.1 x e code with
      | (s1, none) => (s1, a.2)
      | (s1, some w) => sel.foldl (fun a i => snDeliver x e w i a) (s1, a.2)) a

/-- The control entry of a slot (R175, R187). -/
def cnEntry (x : Nat) (e : W64) (a : State × Moves) : State × Moves :=
  let f := sources e 5
  [1, 2, 3, 4, 5, 6].foldl (fun (a : State × Moves) code =>
    let w := getSwitch a.1 x
    let v : Option Byte :=
      if code = 6 then some (BitVec.ofNat 8 (fld e 28 21))
      else if code = 5 then (w.outCn.find? (fun y => y.2 == 0)).map (·.1)
      else tget none w.cnIn code
    match v with
    | none => a
    | some b =>
      (selecting f code).foldl (fun (a : State × Moves) i =>
        if i < 4 then
          match beyond a.1 x i with
          | none => a
          | some y => (a.1, { a.2 with cn := (y, arrivesAt i, b) :: a.2.cn })
        else (sendInbound a.1 x (32 + fld e 16 15) 1 { data := BitVec.ofNat 512 b.toNat }, a.2)) a) a

/-! ### Outbound crossing: the port reads the table two slots ahead (R183) -/

/-- The core's head word leaves its output queue when it may (R178). -/
def leaveVn (s : State) (x p q : Nat) : State :=
  let v := tget ({} : OutQ) (getCore s p).outQ q
  match v.words with
  | [] => s
  | d :: r =>
    if bit v.cfg 0 = false ∨ bit v.cfg 1 ∨ v.tokens = 0 ∨ v.hold then s
    else
      let s1 := modCore s p (fun c => { c with outQ := tset {} c.outQ q { v with words := r, tokens := v.tokens - 1 } })
      modSwitch s1 x (fun w => { w with outVn := w.outVn ++ [(d, 2)] })

/-- One element of a token-mode queue leaves as a steering token (R187). -/
def leaveCn (s : State) (x p q : Nat) : State :=
  let v := tget ({} : OutQ) (getCore s p).outQ q
  match v.words with
  | [] => s
  | d :: r =>
    if bit v.cfg 0 = false ∨ bit v.cfg 1 = false then s
    else
      let b := BitVec.ofNat 8 (d.data.toNat >>> (32 * v.elem))
      let v1 := if v.elem + 1 < 16 then { v with elem := v.elem + 1 } else { v with words := r, elem := 0 }
      modSwitch (modCore s p (fun c => { c with outQ := tset {} c.outQ q v1 })) x
        (fun w => { w with outCn := w.outCn ++ [(b, 2)] })

/-- What the core's port sends out for the slot two slots ahead. -/
def lookAhead (s : State) (x : Nat) : State :=
  match coreAt s x with
  | none => s
  | some (p, _) =>
    let w := getSwitch s x
    let t := (w.slot + 2) % max 1 (periodOf w)
    let ev := tget (0 : W64) w.vn t
    let es := tget (0 : W64) w.sn t
    let ec := tget (0 : W64) w.cn t
    let s1 := if (sources ev 8).contains 5 then leaveVn s x p (fld ev 32 29) else s
    let s2 := if (sources es 7).contains 5 then
                match coreReturn s1 p (fld es 25 21) with
                | (s2, none) => s2
                | (s2, some r) => modSwitch s2 x (fun w => { w with outSn := w.outSn ++ [(r, 2)] })
              else s1
    if (sources ec 5).contains 5 then leaveCn s2 x p (fld ec 20 17) else s2

/-- The words crossing out of the core come one slot nearer; those whose slot has passed are gone. -/
def agedOut {α : Type} (l : List (α × Nat)) : List (α × Nat) :=
  (l.filter (fun y => decide (y.2 > 0))).map (fun y => (y.1, y.2 - 1))

/-! ### Slice contexts at work (R191) -/

/-- One row written by the lowest inbound context that has a data word. -/
def ctxWrite (s : State) (key : Nat) : State :=
  match (getSlice s key).ctx.find? (fun e => e.2.op == 1 && !e.2.inW.isEmpty) with
  | none => s
  | some (i, v) =>
    match v.inW with
    | [] => s
    | w :: r =>
      let s1 := writeSlice s key (64 * v.row) (rowBytes w.data) false
      let v1 : Ctx := { v with inW := r, row := v.row + 1, left := v.left - 1, freed := v.freed + 1,
                               op := if v.left ≤ 1 then 0 else 1 }
      modSlice s1 key (fun y =>
        { y with poison := if w.poison then tset false y.poison v.row true else y.poison, ctx := tset {} y.ctx i v1 })

/-- One row read for the lowest context that has a read in progress and room. -/
def ctxRead (s : State) (key : Nat) : State :=
  match (getSlice s key).ctx.find? (fun e => e.2.op == 2 && decide (e.2.outW.length < portDepth)) with
  | none => s
  | some (i, v) =>
    let (s1, l, bad) := readSlice s key (64 * v.row) 64
    let v1 : Ctx := { v with outW := v.outW ++ [{ data := rowOf l, poison := bad }], row := v.row + 1, left := v.left - 1,
                             op := if v.left ≤ 1 then 0 else 2 }
    modSlice s1 key (fun y => { y with ctx := tset {} y.ctx i v1 })

/-! ### One slot (R171) -/

/-- Number of the first entry of a list that `q` picks, and the list with that entry changed or, with none, taken out. -/
def editFirst {α : Type} (q : α → Bool) (f : α → Option α) : List α → Option (List α)
  | [] => none
  | a :: r => if q a then some ((f a).toList ++ r) else (editFirst q f r).map (a :: ·)

/-- The vector word at a switch's input port in the slot, with `f` applied: ports N to W, the core's port L, the slice's port X, and the slack
links east and west (R168, R193). -/
def atVnPort (s : State) (x port : Nat) (f : VnWord → VnWord) : Option State :=
  let w := getSwitch s x
  let e := tget (0 : W64) w.vn w.slot
  if port < 4 then (tget none w.vnIn (port + 1)).map (fun d => setSwitch s x { w with vnIn := tset none w.vnIn (port + 1) (some (f d)) })
  else if port = 5 then
    if isSpare x && (sources e 8).contains 6 then
      let c := tget ({} : Ctx) (getSlice s (sliceAt x)).ctx (fld e 40 37)
      match c.outW with
      | d :: r =>
        if c.tokens = 0 ∨ c.hold then none
        else some (modSlice s (sliceAt x) (fun v => { v with ctx := tset {} v.ctx (fld e 40 37) { c with outW := f d :: r } }))
      | [] => none
    else none
  else if port = 6 then
    (editFirst (fun y => y.2.2.2 && decide (y.1 < 24)) (fun y => some (y.1, f y.2.1, y.2.2)) w.inbound).map
      (fun l => setSwitch s x { w with inbound := l })
  else
    let at_ := if port = 4 then 0 else 1
    if port = 7 ∧ ((coreAt s x).map (·.2)).getD false = false then none
    else (editFirst (fun y => y.2 == at_) (fun y => some (f y.1, y.2)) w.outVn).map (fun l => setSwitch s x { w with outVn := l })

/-- The scalar or control word at a switch's input port in the slot is discarded. -/
def dropScalar (s : State) (x port net : Nat) : Option State :=
  let w := getSwitch s x
  let e := tget (0 : W64) w.sn w.slot
  if port < 4 then
    if net = 1 then (tget none w.snIn (port + 1)).map (fun _ => setSwitch s x { w with snIn := terase w.snIn (port + 1) })
    else (tget none w.cnIn (port + 1)).map (fun _ => setSwitch s x { w with cnIn := terase w.cnIn (port + 1) })
  else if port = 5 then
    if net = 1 && isSpare x && (sources e 7).contains 6 then
      match sliceReturn s (sliceAt x) (fld e 33 30) with
      | (s1, some _) => some s1
      | (_, none) => none
    else none
  else if port = 6 then
    (editFirst (fun y => y.2.2.2 && (if net = 1 then decide (64 ≤ y.1) else decide (32 ≤ y.1 ∧ y.1 < 36))) (fun _ => none) w.inbound).map
      (fun l => setSwitch s x { w with inbound := l })
  else
    let at_ := if port = 4 then 0 else 1
    if port = 7 ∧ ((coreAt s x).map (·.2)).getD false = false then none
    else if net = 1 then (editFirst (fun y => y.2 == at_) (fun _ => none) w.outSn).map (fun l => setSwitch s x { w with outSn := l })
    else (editFirst (fun y => y.2 == at_) (fun _ => none) w.outCn).map (fun l => setSwitch s x { w with outCn := l })

/-- An error at a switch's input (R196). An uncorrectable vector word is poisoned, another is discarded; either raises an event. The port is that of the
unit encoding (0 N to 4 L, 5 X, 6 and 7 the slack links), the network 0 VN, 1 SN, 2 CN; 4 is a vector word that the code corrects. -/
def linkFault (s : State) (f : Nat × Nat × Nat) : State :=
  let (x, port, net) := f
  let w := getSwitch s x
  let ev (s : State) : State :=
    postEvent (modSwitch s x (fun w => { w with linkErrs := w.linkErrs + 1 })) (dieOf x)
      { code := 0x84, unitKind := 4, unit := x + 4096 * port + 32768 * net, by_ := detSwitch x,
        part := partOrNone (partOfCluster s (cluOfPhys x)), detail := leBytes 2 w.slot }
  if net = 4 then ((atVnPort s x port id).map (fun s => modSwitch s x (fun w => { w with corrected := w.corrected + 1 }))).getD s
  else if net = 0 then ((atVnPort s x port (fun d => { d with poison := true })).map ev).getD s
  else ((dropScalar s x port net).map ev).getD s

/-- Switches of a partition, by cluster and position. -/
def partSwitches (pt : Part) : List Nat := pt.clusters.flatMap clusterPhys

/-- A switch takes part in the slot. -/
def inService (s : State) (x : Nat) : Bool := (getSwitch s x).running && decide (periodOf (getSwitch s x) ≠ 0)

/-- One switch executes its entries: what it had at its inputs is gone afterwards. -/
def slotOf (x : Nat) (a : State × Moves) : State × Moves :=
  if inService a.1 x = false then a
  else
    let w := getSwitch a.1 x
    let s1 := landInbound a.1 x
    let a1 := vnEntry x (tget 0 w.vn w.slot) (s1, a.2)
    let a2 := cnEntry x (tget 0 w.cn w.slot) (snEntry x (tget 0 w.sn w.slot) a1)
    let s2 := lookAhead a2.1 x
    (modSwitch s2 x (fun w => { w with vnIn := [], snIn := [], cnIn := [], arNew := 0,
                                       slot := (w.slot + 1) % max 1 (periodOf w) }), a2.2)

/-- What has left is present at the next switches. -/
def place (a : State × Moves) : State :=
  let s1 := a.2.vn.foldl (fun s m => modSwitch s m.1 (fun w => { w with vnIn := tset none w.vnIn m.2.1 (some m.2.2) })) a.1
  let s2 := a.2.sn.foldl (fun s m => modSwitch s m.1 (fun w => { w with snIn := tset none w.snIn m.2.1 (some m.2.2) })) s1
  a.2.cn.foldl (fun s m => modSwitch s m.1 (fun w => { w with cnIn := tset none w.cnIn m.2.1 (some m.2.2) })) s2

/-- Change the operation number `i` of the TE. -/
def modTe (s : State) (p i : Nat) (f : TeOp → TeOp) : State :=
  modCore s p (fun c => { c with te := { c.te with ops := c.te.ops.modify i f } })

/-- The TE's ports (R182, R267): the oldest operation that merges takes words of its stream, the oldest that delivers to
the vector network fills its output queue. -/
def tePort (s : State) (p : Nat) : State :=
  let ops := (getCore s p).te.ops
  match ops.findIdx? (fun o => o.phase == .merge || o.phase == .deliver) with
  | none => s
  | some i =>
    match ops[i]? with
    | none => s
    | some o =>
      if o.phase = .merge then
        let q := fld (tget (0 : W64) (getCore s p).te.merge (fld o.desc 4 3)) 4 1
        let (s1, l) := takeWords p q (64 - o.merged.length) s
        modTe s1 p i (fun o => { o with merged := o.merged ++ l })
      else
        let (s1, l) := putWords s p (fld o.desc 218 215) o.out
        modTe s1 p i (fun o => { o with out := l })

/-- First poisoned word among new ones of a queue. -/
def poisonOf (old : Option Nat) (q : Nat) (l : List VnWord) : Option Nat :=
  match old with
  | some x => some x
  | none => if l.any (·.poison) then some q else none

/-- A queue operand of the VE that still needs words has one. -/
def veHas (s : State) (p q need : Nat) : Bool := need == 0 || !(getIn s p q).words.isEmpty

/-- The VE's port fires: every queue operand that still needs words gives one, when each has one and the output queues have room (R182). -/
def veFire (s : State) (p : Nat) : Option State :=
  match (getCore s p).ve.cur with
  | none => none
  | some o =>
    let qa := fld o.desc 67 64; let qb := fld o.desc 131 128; let qc := fld o.desc 195 192; let qd := fld o.desc 259 256
    if (o.needA = 0 ∧ o.needB = 0 ∧ o.needC = 0) || !(veHas s p qa o.needA && veHas s p qb o.needB && veHas s p qc o.needC) ||
        (o.toD && (!o.out.isEmpty || decide (outRoom s p qd ≤ o.since))) || (o.toC && (!o.outC.isEmpty || decide (outRoom s p qc ≤ o.since))) then none
    else
      let (s1, a) := takeWords p qa (min 1 o.needA) s
      let (s2, b) := takeWords p qb (min 1 o.needB) s1
      let (s3, c) := takeWords p qc (min 1 o.needC) s2
      let o1 : VeOp := { o with since := o.since + 1, needA := o.needA - a.length, needB := o.needB - b.length, needC := o.needC - c.length,
                                gotA := o.gotA ++ a, gotB := o.gotB ++ b, gotC := o.gotC ++ c,
                                poison := poisonOf (poisonOf (poisonOf o.poison qa a) qb b) qc c }
      some (modCore s3 p (fun k => { k with ve := { k.ve with cur := some o1 } }))

/-- The port fires until it must wait. -/
def veFires (p : Nat) : Nat → State → State
  | 0, s => s
  | k + 1, s =>
    match veFire s p with
    | none => s
    | some s1 => veFires p k s1

/-- The VE's ports (R124, R182): queue operands take the words they need, results enter their queues. -/
def vePort (s0 : State) (p : Nat) : State :=
  let s := veFires p 64 s0
  match (getCore s p).ve.cur with
  | none => s
  | some o =>
    let (s1, out) := if o.out = [] then (s, []) else putWords s p (fld o.desc 259 256) o.out
    let (s2, outC) := if o.outC = [] then (s1, []) else putWords s1 p (fld o.desc 195 192) o.outC
    modCore s2 p (fun k => { k with ve := { k.ve with cur := some { o with out := out, outC := outC } } })

/-- The queue on which the VE's operation stalls (R182): an input queue that lacks a word, or a full output queue. -/
def veWait (s : State) (p : Nat) (o : VeOp) : Option (Bool × Nat) :=
  let qa := fld o.desc 67 64; let qb := fld o.desc 131 128; let qc := fld o.desc 195 192; let qd := fld o.desc 259 256
  if veHas s p qa o.needA = false then some (false, qa)
  else if veHas s p qb o.needB = false then some (false, qb)
  else if veHas s p qc o.needC = false then some (false, qc)
  else
    let more := decide (o.needA ≠ 0 ∨ o.needB ≠ 0 ∨ o.needC ≠ 0)
    if ((o.toD && more) || !o.out.isEmpty) && outRoom s p qd == 0 then some (true, qd)
    else if ((o.toC && more) || !o.outC.isEmpty) && outRoom s p qc == 0 then some (true, qc)
    else none

/-- The queue ports of a core's engines, while the core runs. -/
def enginePorts (s : State) (p : Nat) : State := if runs s p then vePort (tePort s p) p else s

/-- One fabric cycle of the core's side: input queues, steering units, engine ports. -/
def coreSlot (s : State) (p : Nat) : State :=
  let c := getCore s p
  let s1 := enginePorts (c.inQ.foldl (fun s e => serveQueue s p e.1) s) p
  modCore s1 p (fun c => { c with steer := c.steer.foldl (fun t e => tmod {} t e.1 (fun u => { u with busy := false })) c.steer })

/-- One slot of a partition's switches; `faults` are the link errors of the slot. -/
def vnSlot (s : State) (pt : Part) (faults : List (Nat × Nat × Nat)) : State :=
  let sw := partSwitches pt
  let s0 := sw.foldl (fun s x => if inService s x then modSwitch s x (fun w =>
    { w with outVn := agedOut w.outVn, outSn := agedOut w.outSn, outCn := agedOut w.outCn }) else s) s
  let s1 := (faults.filter (fun f => sw.contains f.1)).foldl linkFault s0
  let s2 := place (sw.foldl (fun a x => slotOf x a) (s1, {}))
  let s3 := (sw.filter isSpare).foldl (fun s x => ctxRead (ctxWrite s (sliceAt x)) (sliceAt x)) s2
  sw.foldl coreSlot s3

/-- A word is on a link or a crossing at the switch. -/
def inMotion (w : Switch) : Bool :=
  !(w.vnIn.isEmpty && w.snIn.isEmpty && w.cnIn.isEmpty && w.outVn.isEmpty && w.outSn.isEmpty && w.outCn.isEmpty && w.inbound.isEmpty)

/-! ### Tokens (R39, R178, R180) -/

/-- Tokens that return words carry. -/
def carried (l : List W32) : Nat := (l.map (fun w => fld w 15 0)).sum

/-- Tokens of the streams as a switch holds them: words on links, in crossings and in the adder, tokens freed or on their way back, the
adder's own. -/
def switchTokens (w : Switch) : Nat :=
  w.vnIn.length + (w.outVn.filter (fun y => decide (y.2 > 0))).length + (w.inbound.filter (fun y => decide (y.1 < 24))).length +
  w.aa.length + w.ab.length + w.freedAA + w.freedAB + w.arTok +
  carried (w.snIn.filterMap (·.2)) + carried ((w.outSn.filter (fun y => decide (y.2 > 0))).map (·.1)) +
  carried ((w.inbound.filter (fun y => decide (64 ≤ y.1))).map (fun y => BitVec.ofNat 32 y.2.1.data.toNat)) + carried (w.ret.map (·.2.2))

/-- Tokens at a core: those of its output queues, the words in its input queues with landing buffers and Spill, in its steering inputs, and the
tokens that these have freed. -/
def coreTokens (c : Core) : Nat :=
  (c.outQ.map (fun e => if bit e.2.cfg 1 then 0 else e.2.tokens)).sum +
  (c.inQ.map (fun e => e.2.words.length + e.2.landing.length + e.2.used + e.2.freed)).sum +
  (c.steer.map (fun e => e.2.d0.length + e.2.d1.length + e.2.freed0 + e.2.freed1)).sum

/-- Tokens at a slice's contexts. -/
def sliceTokens (v : Slice) : Nat := (v.ctx.map (fun e => e.2.tokens + e.2.inW.length + e.2.freed)).sum

/-- Initial tokens of the producers at a core and at a switch. -/
def coreInitial (c : Core) : Nat := (c.outQ.map (fun e => if bit e.2.cfg 1 then 0 else fld e.2.cfg 15 2)).sum
def switchInitial (w : Switch) : Nat := fld w.cfg 28 15 + (w.xctx.map (fun e => fld e.2 13 0)).sum

/-- VN_SWITCH_SLOT of a partition (R171). -/
def execVnSwitchSlot (part : Nat) (faults : List (Nat × Nat × Nat)) (s : State) : Out :=
  onUnit (decide (part < 64))
    (match getPart s part with
     | none => s
     | some pt =>
       let s1 := vnSlot s pt faults
       let moving := (partSwitches pt).any (fun x => inMotion (getSwitch s x) || inMotion (getSwitch s1 x))
       modPart s1 part (fun q => { q with quiet := if moving then 0 else q.quiet + 1 }))

/-! ### Adders, steering, returns, contexts -/

/-- Lanes of 4 bytes of a word. -/
def lane (w : W512) (i : Nat) : W32 := BitVec.ofNat 32 (w.toNat >>> (32 * i))

/-- A word from its 16 lanes. -/
def fromLanes (f : Nat → W32) : W512 := BitVec.ofNat 512 (leNat ((List.range 16).flatMap (fun i => leBytes 4 (f i).toNat)))

/-- Lane-by-lane sum (R185). -/
def addWords (fp : Bool) (a b : VnWord) : VnWord :=
  { data := fromLanes (fun i => if fp then fadd (lane a.data i) (lane b.data i) else lane a.data i + lane b.data i),
    poison := a.poison || b.poison }

/-- A switch adder fires (R185). -/
def execAdderFire (switch : Nat) (s : State) : Out :=
  onUnit (coreOk s switch)
    (let w := getSwitch s switch
     match w.aa, w.ab with
     | a :: ra, b :: rb =>
       if w.arNew ≠ 0 ∨ w.ar.length ≥ portDepth ∨ addMode w = 0 ∨ addMode w = 3 then s
       else setSwitch s switch { w with aa := ra, ab := rb, ar := w.ar ++ [addWords (addMode w == 2) a b], arNew := 1,
                                        freedAA := w.freedAA + 1, freedAB := w.freedAB + 1 }
     | _, _ => s)

/-- A steering unit retires its head token when it has handled `n` of its words. -/
def steerCount (u : Steer) (n tok : Nat) : Steer :=
  if n ≥ tok % 32 then { u with ctl := u.ctl.drop 1, moved := 0, busy := true } else { u with moved := n, busy := true }

/-- A steering unit works on its head token (R187, R188). -/
def execSteeringMove (core unit : Nat) (s : State) : Out :=
  onUnit (coreOk s core && decide (unit < 4))
    (let u := tget ({} : Steer) (getCore s core).steer unit
     let put (s : State) (v : Steer) : State := modCore s core (fun c => { c with steer := tset {} c.steer unit v })
     if bit u.cfg 0 = false ∨ u.fault.isSome ∨ u.busy then s
     else
       match u.ctl with
       | [] => s
       | tok :: rest =>
         if tok / 64 ≥ 2 then steerFault (put s { u with ctl := rest }) core unit 2
         else if tok % 32 = 0 then put s { u with ctl := rest, busy := true }
         else
           let d1 := tok / 32 % 2 = 1
           match (if d1 then u.d1 else u.d0) with
           | [] => s
           | w :: r =>
             let v := steerCount (if d1 then { u with d1 := r } else { u with d0 := r }) (u.moved + 1) tok
             if tok / 64 = 1 then progress (put s (if d1 then { v with freed1 := v.freed1 + 1 } else { v with freed0 := v.freed0 + 1 })) core
             else
               let q := fld u.cfg 4 1
               let s1 := modIn (put s v) core q (fun x => { x with origin := x.origin ++ [if d1 then 1 else 0] })
               match logOf s core with
               | none => s1
               | some l => modSwitch s1 (homeOf l) (fun y => { y with inbound := y.inbound ++ [(q, w, 2, core != homeOf l)] }))

/-- The first waiting return word for a producer. -/
def firstRet (kind idx : Nat) : List (Nat × Nat × W32) → Option (W32 × List (Nat × Nat × W32))
  | [] => none
  | e :: r => if e.1 = kind ∧ e.2.1 = idx then some (e.2.2, r) else (firstRet kind idx r).map (fun x => (x.1, e :: x.2))

/-- SN_RETURN_WORD: a producer's token counter takes a return word (R179, R181). Kind 0 is output queue `idx` of the core at the switch, 3 that of the
core beyond the slack link, as the word found the segment when it set out across the slack stage (R195); 1 is the slice context `idx`, 2 the adder output. -/
def execSnReturnWord (switch kind idx : Nat) (s : State) : Out :=
  onUnit (coreOk s switch)
    (let w := getSwitch s switch
     match firstRet kind idx w.ret with
     | none => s
     | some (v, r) =>
       let n := fld v 15 0
       let h := bit v 16
       let s1 := setSwitch s switch { w with ret := r }
       if kind = 0 ∨ kind = 3 then
         modCore s1 (if kind = 0 then switch else switch + 1)
           (fun c => { c with outQ := tmod {} c.outQ idx (fun q => { q with tokens := q.tokens + n, hold := h }) })
       else if kind = 1 then
         modSlice s1 (sliceAt switch) (fun v => { v with ctx := tmod {} v.ctx idx (fun x => { x with tokens := x.tokens + n, hold := h }) })
       else modSwitch s1 switch (fun w => { w with arTok := w.arTok + n, arHold := h }))

/-- SLICE_CONTEXT_HEADER: an idle inbound context takes its next word as a header (R191). -/
def execSliceContextHeader (switch ctx : Nat) (s : State) : Out :=
  onUnit (coreOk s switch && isSpare switch && decide (ctx < 16))
    (let key := sliceAt switch
     let v := tget ({} : Ctx) (getSlice s key).ctx ctx
     match v.inW with
     | [] => s
     | w :: r =>
       if v.op ≠ 0 ∨ v.stopped then s
       else
         let op := fld w.data 1 0
         let row := fld w.data 17 2
         let n := fld w.data 33 18
         let put (v : Ctx) : State := modSlice s key (fun y => { y with ctx := tset {} y.ctx ctx v })
         if w.data.toNat / 2 ^ 34 ≠ 0 ∨ op = 0 ∨ op = 3 ∨ row + n > 65536 then
           postEvent (put { v with inW := r, freed := v.freed + 1, stopped := true }) (key / 64)
             { code := 0x86, unitKind := 3, unit := sliceRowUnit key row, by_ := detSlice key, part := partOrNone (partOfCluster s (key / 4)),
               detail := BitVec.ofNat 8 ctx :: leBytes 8 (w.data.toNat % 2 ^ 64) }
         else if n = 0 then put { v with inW := r, freed := v.freed + 1 }
         else put { v with inW := r, freed := v.freed + 1, op := op, row := row, left := n })

end Sys2Proof.Machine
end

