-- ==== Sys2Proof/Machine/Formats.lean ====
section
/-! DEFINITION. Number formats and the quantiser (R99 to R118): decoded elements, the stored form of a panel, quantiser
control words, exponents, rounding, marking, the lane generators. Values are exact: a finite FP32 value is
`fman × 2^fexp`. -/

namespace Sys2Proof.Machine

/-! ### Formats (R86, R99, R104) -/

def fINT8 : Nat := 0
def fINT4 : Nat := 1
def fN8 : Nat := 2
def fN4 : Nat := 3
def fT2 : Nat := 4

/-- Bits of a narrow element. -/
def elemBits (fmt : Nat) : Nat := if fmt = fT2 then 2 else if fmt = fN4 ∨ fmt = fINT4 then 4 else 8

/-- Bytes of a block's narrow part. -/
def blockBytes (fmt : Nat) : Nat := 4 * elemBits fmt

/-- A block format, with exponents. -/
def isBlock (fmt : Nat) : Bool := decide (fmt ≥ fN8)

/-- Buffer slot of a block (R79); `none` where the escalation bit is not permitted. -/
def slotBytes (fmt : Nat) (esc : Bool) : Option Nat :=
  if fmt = fINT8 then (if esc then none else some 1024)
  else if fmt = fINT4 then (if esc then none else some 512)
  else if fmt = fN8 then some 1024
  else if esc then some 1024 else if fmt = fN4 then some 512 else some 256

/-- Element value of a code (R104). -/
def decodeCode (bits code : Nat) : Int :=
  if bits = 2 then (if code = 1 then 1 else if code = 3 then -1 else 0) else signed bits code

/-- Code of element `k` in a block's bytes (R105). -/
def codeAt (bits : Nat) (l : List Byte) (k : Nat) : Nat :=
  (l.getD (k * bits / 8) 0).toNat >>> (k * bits % 8) % 2 ^ bits

/-! ### Stored form (R105 to R107) -/

/-- A K-block group: exponents and escalation bitmap as the header holds them, element values by block, its rows. -/
structure Panel where
  exps  : List Int
  marks : Nat
  vals  : List (List Int)
  rows  : Nat

/-- Marked blocks below index `r`. -/
def marksBelow (marks r : Nat) : Nat := ((List.range r).filter (fun i => marks.testBit i)).length

/-- Rows of the narrow part and of a whole group. -/
def narrowRows (fmt : Nat) : Nat := blockBytes fmt / 2
def groupRows (fmt : Nat) (esc : Bool) (marks : Nat) : Nat :=
  (if isBlock fmt then 1 else 0) + narrowRows fmt +
    (if esc && decide (fmt ≥ fN4) then (marksBelow marks 32 + 1) / 2 else 0)

/-- Bitmap of a header. -/
def headerMarks (fmt : Nat) (esc : Bool) (hdr : List Byte) : Nat :=
  if esc && decide (fmt ≥ fN4) then numAt hdr 32 4 else 0

/-- A reserved byte of the header is nonzero (R107). -/
def headerBad (fmt : Nat) (esc : Bool) (hdr : List Byte) : Bool :=
  isBlock fmt && (!(allZero (slice hdr 36 28)) || (!(esc && decide (fmt ≥ fN4)) && decide (numAt hdr 32 4 ≠ 0)))

/-- The stretches of a group's rows, as offset, length, and whether the stretch is passed over: the narrow-part slots of marked blocks are not read
(R106). -/
def groupParts (fmt : Nat) (esc : Bool) (marks : Nat) : List (Nat × Nat × Bool) :=
  let n := 64 * groupRows fmt esc marks
  if marks = 0 then [(0, n, false)]
  else
    let bb := blockBytes fmt
    (0, 64, false) :: (List.range 32).map (fun r => (64 + r * bb, bb, marks.testBit r)) ++ [(64 + 32 * bb, n - (64 + 32 * bb), false)]

/-- Read the stretches that are not passed over, by `rd`; the others count as zero. -/
def readParts (rd : State → Nat → Nat → State × Option (List Byte)) (a : Nat) : List (Nat × Nat × Bool) → State → State × Option (List Byte)
  | [], s => (s, some [])
  | (off, n, skip) :: r, s =>
    let (s1, l) := if skip then (s, some (zeros n)) else rd s (a + off) n
    match l with
    | none => (s1, none)
    | some l =>
      let (s2, m) := readParts rd a r s1
      (s2, m.map (l ++ ·))

/-- A group from the bytes of its rows. -/
def groupOf (fmt : Nat) (esc : Bool) (l : List Byte) : Panel :=
  let h := if isBlock fmt then 64 else 0
  let marks := if isBlock fmt then headerMarks fmt esc l else 0
  let bb := blockBytes fmt
  { exps := (List.range 32).map (fun r => if isBlock fmt then signed 8 (l.getD r 0).toNat else 0)
    marks := marks
    vals := (List.range 32).map (fun r =>
      if marks.testBit r then
        let b := slice l (h + 32 * bb + 32 * marksBelow marks r) 32
        (List.range 32).map (fun k => signed 8 (b.getD k 0).toNat)
      else
        let b := slice l (h + r * bb) bb
        (List.range 32).map (fun k => decodeCode (elemBits fmt) (codeAt (elemBits fmt) b k)))
    rows := groupRows fmt esc marks }

/-- Bytes of a block's codes. -/
def packCodes (bits : Nat) (v : List Int) : List Byte :=
  leBytes (4 * bits) (v.foldr (fun q acc => unsigned bits q + acc * 2 ^ bits) 0)

/-- A group as its rows hold it. -/
def groupBytes (fmt : Nat) (esc : Bool) (g : Panel) : List Byte :=
  let bits := elemBits fmt
  let hdr := if isBlock fmt then g.exps.map (fun e => BitVec.ofNat 8 (unsigned 8 e)) ++ leBytes 4 g.marks ++ zeros 28 else []
  let narrow := (List.range 32).flatMap (fun r =>
    if g.marks.testBit r then zeros (blockBytes fmt) else packCodes bits (g.vals.getD r []))
  let ext := (List.range 32).flatMap (fun r => if g.marks.testBit r then packCodes 8 (g.vals.getD r []) else [])
  let all := hdr ++ narrow ++ ext
  slice all 0 (64 * groupRows fmt esc g.marks)

/-! ### Quantiser control word (R109, R110) -/

def qFmt (q : W64) : Nat := fld q 2 0
def qRnd (q : W64) : Nat := fld q 4 3
def qEsc (q : W64) : Bool := bit q 5
def qClip (q : W64) : Nat := fld q 8 6
def qThr (q : W64) : Nat := fld q 16 9
def qMin (q : W64) : Int := signed 8 (fld q 24 17)
def qMax (q : W64) : Int := signed 8 (fld q 32 25)
def qFix (q : W64) : Int := signed 8 (fld q 40 33)

/-- Neither a reserved encoding nor a nonzero reserved bit. -/
def qcwClean (q : W64) : Bool := decide (qFmt q ≤ 4 ∧ qRnd q ≠ 3 ∧ qClip q ≤ 4 ∧ fld q 63 41 = 0)

/-- The word is valid (R110). -/
def qcwOk (q : W64) : Bool :=
  qcwClean q &&
  !(decide (qFmt q ≤ 1) && qEsc q) && !(decide (qFmt q ≤ 2) && decide (qClip q ≠ 0)) && decide (qMin q ≤ qMax q)

/-- Largest magnitude written in a narrow block of the N formats. -/
def qLimit (fmt : Nat) : Nat := if fmt = fN8 then 127 else if fmt = fN4 then 7 else 1

/-! ### Exponent, error and rounding (R111 to R113) -/

/-- m × 2^e ≤ n × 2^f. -/
def dyLe (m : Nat) (e : Int) (n : Nat) (f : Int) : Bool :=
  if f ≤ e then decide (m <<< (e - f).toNat ≤ n) else decide (m ≤ n <<< (f - e).toNat)

/-- The smallest ε0 with M ≤ qmax × 2^c × 2^ε0, for a finite M ≠ 0. -/
def leastExp (fmt c : Nat) (x : W32) : Int :=
  let e1 : Int := (bitLen (fman x) : Int) + fexp x - c - bitLen (qLimit fmt)
  if dyLe (fman x) (fexp x) (qLimit fmt) (c + e1) then e1 else e1 + 1

/-- The block's largest magnitude, NaN left out, an infinity counting as infinite. -/
def blockMax (xs : List W32) : W32 :=
  xs.foldl (fun m x => if isNan x then m else if fmag x > fmag m then fword false (fmag x) else m) 0

/-- |y − clamp(rne y)| > thr / 16, y = x / 2^ε. -/
def errorOver (fmt thr : Nat) (eps : Int) (x : W32) : Bool :=
  if isNan x then false
  else if isInf x then true
  else
    let e := fexp x - eps
    let q := min (rneNat (fman x) e) (qLimit fmt)
    if e ≥ 0 then
      let y := fman x <<< e.toNat
      decide (16 * ((y - q) + (q - y)) > thr)
    else
      let k := (-e).toNat
      let y := fman x; let z := q <<< k
      decide (16 * ((y - z) + (z - y)) > thr <<< k)

/-- What the quantiser decides of a block (R111, R113, R116). -/
structure BlockPlan where
  eps  : Int
  mark : Bool := false
  excess : Bool := false                     -- its error is above the threshold
  out  : Bool := false                     -- ε0 > e_max

/-- The plan of one block. -/
def planBlock (q : W64) (xs : List W32) : BlockPlan :=
  if qFmt q ≤ 1 then { eps := qFix q }
  else
    let m := blockMax xs
    let (eps, out) : Int × Bool :=
      if fmag m = 0 then (qMin q, false)
      else if isInf m then (qMax q, true)
      else
        let e0 := leastExp (qFmt q) (qClip q) m
        (max (qMin q) (min (qMax q) e0), decide (e0 > qMax q))
    let excess := xs.any (errorOver (qFmt q) (qThr q) eps)
    { eps := eps, excess := excess, out := out, mark := excess && qEsc q && decide (qFmt q ≥ fN4) }

/-- Rounding of y = x / 2^ε (R112); `draw` is the 16-bit draw of R114. -/
def roundElem (rnd : Nat) (eps : Int) (draw : Nat) (x : W32) : Int :=
  let e := fexp x - eps
  let m := fman x
  let mag : Nat := if rnd = 0 then rneNat m e else if e ≥ 0 then m <<< e.toNat else m >>> (-e).toNat
  if rnd ≠ 1 ∨ e ≥ 0 then (if fneg x then -(mag : Int) else mag)
  else
    let k := (-e).toNat
    let v : Int := if fneg x then -(m : Int) else m
    (v * 65536 + ((draw <<< k : Nat) : Int)) / ((65536 <<< k : Nat) : Int)

/-- Range written (R99, R104, R112). -/
def writeRange (fmt : Nat) (mark : Bool) : Int × Int :=
  if fmt = fINT8 then (-128, 127) else if fmt = fINT4 then (-8, 7)
  else if mark then (-127, 127) else (-(qLimit fmt : Int), qLimit fmt)

/-- Code of one element and the flags it sets: sat, inf, nan (R112, R118). An infinite element of an integer format becomes the range
limit and sets sat as well as inf (DEDUCED, log 72). -/
def quantElem (q : W64) (b : BlockPlan) (draw : Nat) (x : W32) : Int × Bool × Bool × Bool :=
  let (lo, hi) := writeRange (qFmt q) b.mark
  let int := decide (qFmt q ≤ 1)
  if isNan x then (0, false, false, true)
  else if isInf x then (if fneg x then lo else hi, int, true, false)
  else
    let v := roundElem (qRnd q) b.eps draw x
    let w := max lo (min hi v)
    (w, int && decide (w ≠ v), false, false)

/-! ### Lane generators (R114, R115) -/

/-- One advance of a generator. -/
def laneNext (w : W32) : W32 := if bit w 0 then (w >>> 1) ^^^ 0x80200003 else w >>> 1

/-- The seed of a lane. -/
def laneSeed (seed l : Nat) : W32 := if (seed + l + 1) % 2 ^ 32 = 0 then 1 else BitVec.ofNat 32 (seed + l + 1)

/-- A lane's state; a lane that no job has seeded stands as the core reset seeds it (R114, R115: seed 1). -/
def laneOf (t : Tbl W32) (l : Nat) : W32 := if tget 0 t l = 0 then laneSeed 1 l else tget 0 t l

/-- Seed every lane from VE_SR_SEED. -/
def seedLanes (seed : Nat) : Tbl W32 := (List.range 64).foldl (fun t l => tset 0 t l (laneSeed seed l)) []

/-! ### Whole panels (R114, R116, R134) -/

/-- A quantise operation under way: the elements taken, the plans and codes of their blocks (the newest first), the lanes,
the first flag positions, the counts of R116. -/
structure QuantOut where
  n     : Nat := 0
  blocks : List (BlockPlan × List Int) := []
  lanes : Tbl W32 := []
  sat   : Option Nat := none
  inf   : Option Nat := none
  nan   : Option Nat := none
  marked : Nat := 0
  unmarked : Nat := 0
  out   : Nat := 0

/-- Quantise the next element under the plan of its block. -/
def quantStep (q : W64) (plan : BlockPlan) (a : QuantOut × List Int) (x : W32) : QuantOut × List Int :=
  let (o, l) := a
  let draws := qRnd q = 1
  let w := laneNext (laneOf o.lanes (o.n % 64))
  let (v, sat, inf, nan) := quantElem q plan (if draws then w.toNat >>> 16 else 0) x
  let first (old : Option Nat) (b : Bool) : Option Nat := if old.isNone && b then some o.n else old
  ({ o with n := o.n + 1, lanes := if draws then tset 0 o.lanes (o.n % 64) w else o.lanes,
            sat := first o.sat sat, inf := first o.inf inf, nan := first o.nan nan }, v :: l)

/-- Quantise the next block: 32 elements of one row, in ascending index (R111 to R116). -/
def quantBlock (q : W64) (o : QuantOut) (xs : List W32) : QuantOut :=
  let plan := planBlock q xs
  let (o1, rev) := xs.foldl (quantStep q plan) (o, [])
  let one (b : Bool) : Nat := if b then 1 else 0
  { o1 with blocks := (plan, rev.reverse) :: o1.blocks, marked := o1.marked + one plan.mark,
            unmarked := o1.unmarked + one (plan.excess && !plan.mark), out := o1.out + one plan.out }

/-- The bytes of K-block group `b` of a panel of `kb` groups, once the block of its last row has been quantised. -/
def quantGroup (q : W64) (kb : Nat) (o : QuantOut) (b : Nat) : List Byte :=
  let at_ (r : Nat) : BlockPlan × List Int := o.blocks.getD (o.blocks.length - 1 - (r * kb + b)) ({ eps := 0 }, [])
  groupBytes (qFmt q) (qEsc q)
    { exps := (List.range 32).map (fun r => (at_ r).1.eps)
      marks := ((List.range 32).map (fun r => if (at_ r).1.mark then 2 ^ r else 0)).sum
      vals := (List.range 32).map (fun r => (at_ r).2)
      rows := 0 }

/-- Quantise 32 rows of `rowLen` elements, given in ascending index, to the bytes of one panel. -/
def quantPanel (q : W64) (rowLen : Nat) (lanes : Tbl W32) (xs : List W32) : QuantOut × List Byte :=
  let o := (List.range (xs.length / 32)).foldl (fun o i => quantBlock q o ((xs.drop (32 * i)).take 32)) { lanes := lanes }
  (o, (List.range (rowLen / 32)).flatMap (quantGroup q (rowLen / 32) o))

/-- Add to a saturating 21-bit field of VE_QUANT_COUNT. -/
def countUp (w : W64) (hi lo n : Nat) : W64 := setFld w hi lo (min 0x1FFFFF (fld w hi lo + n))

/-- VE_QUANT_COUNT after a quantise operation (R116). -/
def countQuant (w : W64) (o : QuantOut) : W64 := countUp (countUp (countUp w 20 0 o.marked) 41 21 o.unmarked) 62 42 o.out

/-- q × 2^ε as FP32 (R118). -/
def dequantElem (v eps : Int) : W32 := scaleInt v eps

end Sys2Proof.Machine
end

