-- ==== Sys2Proof/Machine/Image.lean ====
section
/-! DEFINITION. Veset images (R409, R410): their form, the checks at a load (R66, R155, R159, R166, R176, R213), the
setting up of a core as at a job load (R411), and the pieces of a Flock load (R489). -/

namespace Sys2Proof.Machine

/-! ### Header and directory (R409) -/

/-- A directory entry. -/
structure Sec where
  type : Nat
  slot : Nat
  var  : Nat
  off  : Nat
  len  : Nat
  deriving DecidableEq, Repr

def imgSections (img : List Byte) : Nat := numAt img 8 4
def imgReplaySafe (img : List Byte) : Bool := numAt img 6 2 == 1

def secAt (img : List Byte) (i : Nat) : Sec :=
  let o := 64 + 16 * i
  { type := numAt img o 2, slot := numAt img (o + 2) 2, var := numAt img (o + 4) 1, off := numAt img (o + 8) 4,
    len := numAt img (o + 12) 4 }

/-- Sections of an image whose directory lies within it. -/
def secsOf (img : List Byte) : List Sec :=
  if 64 + 16 * imgSections img ≤ img.length then (List.range (imgSections img)).map (secAt img) else []

def secData (img : List Byte) (x : Sec) : List Byte := (img.drop x.off).take x.len

/-- Sections of a type, slot and variant, in directory order. -/
def secsFor (img : List Byte) (type slot var : Nat) : List Sec :=
  (secsOf img).filter (fun x => x.type == type && x.slot == slot && x.var == var && decide (x.len ≠ 0))

/-- Reserved fields and encodings of the header and the directory. -/
def imgHeaderBad (img : List Byte) : Bool :=
  decide (img.length < 64) || decide (numAt img 0 4 ≠ 0x56E5C7A1) || decide (numAt img 4 2 ≠ 1) || decide (numAt img 6 2 > 1) ||
  decide (numAt img 12 4 ≠ img.length) || !allZero (slice img 18 46) || decide (64 + 16 * imgSections img > img.length) ||
  (List.range (imgSections img)).any (fun i =>
    let x := secAt img i
    decide (x.type = 0 ∨ x.type > 7 ∨ x.var > 16) || decide (numAt img (64 + 16 * i + 5) 3 ≠ 0))

/-- Sections that overlap nothing (R409). -/
def secsDisjoint : List Sec → Bool
  | [] => true
  | a :: r => r.all (fun b => decide (a.off + a.len ≤ b.off ∨ b.off + b.len ≤ a.off)) && secsDisjoint r

/-- At most one section of a type for each slot and variant. -/
def secsOnce : List Sec → Bool
  | [] => true
  | a :: r => r.all (fun b => a.type != b.type || a.slot != b.slot || a.var != b.var) && secsOnce r

/-- The arrangement of the sections breaks R409; `slots` clusters, `reserves` the declared cluster indices. -/
def arrangementBad (img : List Byte) (slots : Nat) (reserves : List Nat) : Bool :=
  let l := (secsOf img).filter (fun x => decide (x.len ≠ 0))
  l.any (fun x => decide (x.off < 64 + 16 * imgSections img ∨ x.off + x.len > img.length) ||
    (if x.type ≤ 4 then decide (x.slot ≥ slots) else decide (x.slot ≠ 0xFFFF)) ||
    (decide (x.type ≠ 1) && decide (x.var ≠ 0))) ||
  !secsDisjoint l || !secsOnce (l.filter (fun x => x.type == 1 || x.type == 3 || x.type == 7)) ||
  reserves.any (fun r => (List.range slots).any (fun i => (secsFor img 1 i (1 + r)).isEmpty))

/-! ### Section contents (R410) -/

/-- Content records of types 2 and 4: unit, address, bytes; `none` where the form is broken. -/
def contentGo (units limit : Nat) : Nat → List Byte → Option (List (Nat × Nat × List Byte))
  | 0, _ => none
  | k + 1, l =>
    if l = [] then some []
    else
      let n := numAt l 8 4
      let pad := (n + 15) / 16 * 16
      if l.length < 16 + pad ∨ numAt l 2 2 ≠ 0 ∨ numAt l 12 4 ≠ 0 ∨ numAt l 0 2 ≥ units ∨ (n ≠ 0 ∧ numAt l 4 4 + n > limit) then none
      else (contentGo units limit k (l.drop (16 + pad))).map (fun r => (numAt l 0 2, numAt l 4 4, (l.drop 16).take n) :: r)

def contentOf (img : List Byte) (x : Sec) : Option (List (Nat × Nat × List Byte)) :=
  if x.type = 2 then contentGo 32 (2 ^ 21) (x.len / 16 + 1) (secData img x)
  else contentGo 4 (2 ^ 22) (x.len / 16 + 1) (secData img x)

/-- The 36 switch positions of a schedule section, each as its own bytes. -/
def schedGo : Nat → Nat → List Byte → Option (List (List Byte))
  | 0, _, l => if l = [] then some [] else none
  | k + 1, i, l =>
    let n := (if i % 9 = 8 then 136 else 8) + 24 * fld (BitVec.ofNat 64 (numAt l 0 8)) 12 0
    if l.length < n then none else (schedGo k (i + 1) (l.drop n)).map (fun r => l.take n :: r)

def schedOf (img : List Byte) (x : Sec) : Option (List (List Byte)) := schedGo 36 0 (secData img x)

/-- A switch's tables from its bytes. -/
def switchOf (spare : Bool) (l : List Byte) : Switch :=
  (wordsOf 0 l).foldl (fun w e => setSwitchReg w spare e.1 e.2) {}

/-- Replay declarations: replay_id with its items (core index, SyncID, value). -/
def declGo : Nat → List Byte → Option (List (Nat × List (Nat × Nat × Nat)))
  | 0, _ => none
  | k + 1, l =>
    if l = [] then some []
    else
      let n := numAt l 4 4
      if l.length < 8 + 8 * n ∨ numAt l 2 2 ≠ 0 ∨ numAt l 0 2 = 0xFFFF then none
      else
        let items := (List.range n).map (fun i => (numAt l (8 + 8 * i) 2, numAt l (10 + 8 * i) 1, numAt l (12 + 8 * i) 4))
        if (List.range n).any (fun i => numAt l (11 + 8 * i) 1 != 0) then none
        else (declGo k (l.drop (8 + 8 * n))).map (fun r => (numAt l 0 2, items) :: r)

def declsOf (img : List Byte) : List (Nat × List (Nat × Nat × Nat)) :=
  (secsFor img 5 0xFFFF 0).flatMap (fun x => (declGo (x.len / 8 + 1) (secData img x)).getD [])

/-- Items of 8 bytes of the bucket references: core index, desc_row, image bucket number, zero. -/
def bucketRefs (img : List Byte) : List (Nat × Nat × Nat × Nat) :=
  (secsFor img 6 0xFFFF 0).flatMap (fun x =>
    let l := secData img x
    (List.range (x.len / 8)).map (fun i => (numAt l (8 * i) 2, numAt l (8 * i + 2) 2, numAt l (8 * i + 4) 2, numAt l (8 * i + 6) 2)))

/-! ### Registers of a core in an image -/

/-- Reset value of register `i` of the order of R410 (R65, R115, R231). -/
def regReset (i : Nat) : W64 :=
  if 320 ≤ i ∧ i < 576 then 0xFFFFFFFF else if i = 872 then 1 else if i = 873 then 6 else 0

/-- Register `i` of partition core index `n`; its reset value where the image has no register section for the slot. -/
def imgReg (img : List Byte) (n i : Nat) : W64 :=
  match (secsFor img 3 (n / 32) 0).head? with
  | none => regReset i
  | some x => BitVec.ofNat 64 (numAt img (x.off + 6992 * (n % 32) + 8 * i) 8)

/-- All 874 registers of a core. -/
def imgRegs (img : List Byte) (n : Nat) : List W64 := (List.range coreRegs).map (imgReg img n)

/-! ### Checks of the register tables (R66, R155, R159, R166, R213) -/

/-- Areas of a core's memory that must not overlap, as (first row, rows): rings, Spill areas and pools (R166). -/
def imgAreas (img : List Byte) (n : Nat) : List (Nat × Nat) :=
  (List.range 64).filterMap (fun i =>
    let w := imgReg img n (640 + i)
    if bit w 20 then some (fld w 14 0, 2 ^ fld w 19 15 / 64) else none) ++
  (List.range 16).filterMap (fun i =>
    let w := imgReg img n (704 + i)
    let m := fld w 27 15
    if m ≠ 0 then some (fld w 14 0, m + (m + 511) / 512) else none) ++
  (List.range 32).filterMap (fun i =>
    let w := imgReg img n (608 + i)
    if bit w 50 ∧ fld w 37 26 * fld w 49 38 ≠ 0 then some (fld w 25 11, fld w 37 26 * fld w 49 38) else none)

def areasBad : List (Nat × Nat) → Bool
  | [] => false
  | a :: r => decide (a.1 + a.2 > 32768) || r.any (fun b => decide (a.1 < b.1 + b.2 ∧ b.1 < a.1 + a.2)) || areasBad r

/-- Thread ranges (R66). -/
def threadsBad (img : List Byte) (n : Nat) : Bool :=
  (List.range 16).any (fun t =>
    let cfg := imgReg img n t
    let rg := imgReg img n (16 + t)
    let base := fld rg 17 0
    let last := fld rg 35 18
    decide (last < base) || (bit cfg 18 && decide (fld cfg 17 0 < base ∨ last < fld cfg 17 0)))

/-- Credits and pools (R154, R155). -/
def creditsBad (img : List Byte) (cores n : Nat) : Bool :=
  (List.range 32).any (fun i =>
    let w := imgReg img n (576 + i)
    let dest := fld w 10 0
    let units := fld w 49 38
    let ctr := fld w 57 50
    bit w 58 &&
      (decide (dest ≥ cores) ||
       !((List.range 32).any (fun j =>
          let q := imgReg img dest (608 + j)
          bit q 50 && decide (fld q 10 0 = n ∧ fld q 49 11 = fld w 49 11))) ||
       decide (fld (imgReg img n (64 + ctr)) 31 0 ≠ units ∨ fld (imgReg img n (320 + ctr)) 31 0 ≠ units))) ||
  (List.range 32).any (fun i => let w := imgReg img n (608 + i); bit w 50 && decide (fld w 10 0 ≥ cores))

/-- Channels (R213). -/
def channelsBad (img : List Byte) (cores n : Nat) : Bool :=
  (List.range 64).any (fun i =>
    let v := imgReg img n (740 + i)
    let r := imgReg img n (804 + i)
    (bit r 0 && !bit (imgReg img n (640 + i)) 20) ||
    (bit v 0 && (decide (fld v 11 1 ≥ cores) || !bit (imgReg img (fld v 11 1) (804 + fld v 17 12)) 0)))

/-- The registers of partition core index `n` break a load rule. -/
def coreRegsBad (img : List Byte) (cores n : Nat) : Bool :=
  (List.range coreRegs).any (fun i => regReserved i (imgReg img n i)) || threadsBad img n || areasBad (imgAreas img n) ||
  creditsBad img cores n || channelsBad img cores n

/-! ### Checks of the schedules (R172 to R178, R181) -/

/-- One source selected by two fields. -/
def selectsTwice (l : List Nat) : Bool := (List.range l.length).any (fun i => l.getD i 0 != 0 && (l.take i).contains (l.getD i 0))

/-- An output selects the port it leads out of: field i out of port i + 1. -/
def selectsItself (l : List Nat) (ports : Nat) : Bool := (List.range ports).any (fun i => l.getD i 0 == i + 1)

/-- A vector entry that no load accepts. -/
def vnEntryBad (spare adder : Bool) (e : W64) : Bool :=
  let f := sources e 8
  decide (fld e 63 41 ≠ 0 ∨ fld e 28 24 ≥ 24) || selectsTwice f || selectsItself f 6 ||
  (!spare && (f.contains 6 || f.getD 5 0 != 0)) ||
  (!adder && (f.contains 7 || f.getD 6 0 != 0 || f.getD 7 0 != 0)) || f.getD 6 0 == 7 || f.getD 7 0 == 7

def snEntryBad (spare adder : Bool) (e : W64) : Bool :=
  let f := sources e 7
  decide (fld e 63 39 ≠ 0 ∨ fld e 25 21 ≥ 24) || selectsTwice f || selectsItself f 6 ||
  (!spare && (f.contains 6 || f.getD 5 0 != 0)) || (!adder && (f.contains 7 || f.getD 6 0 != 0))

def cnEntryBad (e : W64) : Bool :=
  let f := sources e 5
  decide (fld e 63 29 ≠ 0) || f.contains 7 || selectsTwice f || selectsItself f 5

/-- A switch's registers and entries taken by themselves. -/
def switchBad (spare : Bool) (w : Switch) : Bool :=
  let a := decide (addMode w = 1 ∨ addMode w = 2)
  decide (fld w.cfg 63 29 ≠ 0 ∨ periodOf w = 0 ∨ periodOf w > 4096 ∨ addMode w = 3 ∨ fld w.cfg 28 15 > 8223) ||
  w.xctx.any (fun e => decide (fld e.2 63 14 ≠ 0 ∨ fld e.2 13 0 > 8223)) ||
  w.vn.any (fun e => vnEntryBad spare a e.2) || w.sn.any (fun e => snEntryBad spare a e.2) || w.cn.any (fun e => cnEntryBad e.2)

/-- Where a word goes that the entry of switch `x` in slot `t` finds at source `code`: hops made, and the output field
(4 and above) with its switch and entry; `none` where it meets no output or no open link. -/
def trace (s : State) (T : Tbl Switch) (tab : Switch → Tbl W64) (n period : Nat) : Nat → Nat → Nat → Nat → Nat → Option (Nat × Nat × Nat × W64)
  | 0, _, _, _, _ => none
  | k + 1, x, t, code, hops =>
    let e := tget 0 (tab (tget {} T x)) t
    match (sources e n).findIdx? (· == code) with
    | none => none
    | some i =>
      if i < 4 then
        match beyond s x i with
        | none => none
        | some y => trace s T tab n period k y ((t + 1) % period) (arrivesAt i) (hops + 1)
      else some (hops, x, i, e)

/-- A stream's leg: producer, receiving endpoint, hops. Producers and endpoints are (kind, switch, index): producers 0 an
output queue, 1 a slice outbound context, 2 AR; endpoints 0 in the core (coded as l_dst), 1 a slice inbound context, 2 AA,
3 AB. -/
structure Leg where
  src  : Nat × Nat × Nat
  dst  : Nat × Nat × Nat
  hops : Nat
  deriving DecidableEq, Repr

/-- Partition core index homed at a switch. -/
def indexHomed (pt : Part) (x : Nat) : Option Nat :=
  match homedAt x with
  | none => none
  | some l => (indexIn pt.clusters (cluOfLog l)).map (fun i => 32 * i + 8 * (rowIx l % 4) + colIx l % 8)

/-- Register `i` of the core homed at a switch. -/
def regAt (img : List Byte) (pt : Part) (x i : Nat) : W64 :=
  match indexHomed pt x with
  | none => 0
  | some n => imgReg img n i

/-- A vector-stream output queue that is in use. -/
def oqUsed (img : List Byte) (pt : Part) (x q : Nat) : Bool := bit (regAt img pt x (720 + q)) 0 && !bit (regAt img pt x (720 + q)) 1

/-- Legs of the vector network: `none` where a route is broken. -/
def legsOf (s : State) (img : List Byte) (pt : Part) (T : Tbl Switch) (period : Nat) : List (Option Leg) :=
  T.flatMap (fun sw =>
    sw.2.vn.flatMap (fun te =>
      let f := sources te.2 8
      let starts : List (Nat × (Nat × Nat × Nat)) :=
        (if f.contains 5 ∧ oqUsed img pt sw.1 (fld te.2 32 29) then [(5, (0, sw.1, fld te.2 32 29))] else []) ++
        (if f.contains 6 then [(6, (1, sw.1, fld te.2 40 37))] else []) ++
        (if f.contains 7 then [(7, (2, sw.1, 0))] else [])
      starts.map (fun st =>
        (trace s T (·.vn) 8 period (4096 + 64) sw.1 te.1 st.1 0).map (fun r =>
          { src := st.2, hops := r.1,
            dst := if r.2.2.1 = 4 then (0, r.2.1, fld r.2.2.2 28 24) else if r.2.2.1 = 5 then (1, r.2.1, fld r.2.2.2 36 33)
                   else if r.2.2.1 = 6 then (2, r.2.1, 0) else (3, r.2.1, 0) }))))

/-- Queue that an endpoint's words reach: a steering input's are those of its unit's queue. -/
def poolOf (img : List Byte) (pt : Part) (e : Nat × Nat × Nat) : Nat × Nat × Nat :=
  if e.1 = 0 ∧ e.2.2 ≥ 16 then (0, e.2.1, fld (regAt img pt e.2.1 (736 + (e.2.2 - 16) / 2)) 4 1) else e

/-- Size of a token pool (R178). -/
def poolSize (img : List Byte) (pt : Part) (e : Nat × Nat × Nat) : Nat :=
  if e.1 = 0 then 32 + fld (regAt img pt e.2.1 (704 + e.2.2)) 27 15 else 8

/-- Initial tokens of a producer. -/
def tokensOf (img : List Byte) (pt : Part) (T : Tbl Switch) (p : Nat × Nat × Nat) : Nat :=
  if p.1 = 0 then fld (regAt img pt p.2.1 (720 + p.2.2)) 15 2
  else if p.1 = 1 then fld (tget (0 : W64) (tget {} T p.2.1).xctx p.2.2) 13 0
  else fld (tget ({} : Switch) T p.2.1).cfg 28 15

/-- Steering units of the core at a switch that are in use. -/
def unitsUsed (img : List Byte) (pt : Part) (x : Nat) : List Nat := (List.range 4).filter (fun u => bit (regAt img pt x (736 + u)) 0)

/-- Producers and endpoints that must be the end of a stream: output queues in use, adders that are on, slice contexts
with tokens, steering units in use. -/
def mustProduce (img : List Byte) (pt : Part) (T : Tbl Switch) : List (Nat × Nat × Nat) :=
  T.flatMap (fun sw =>
    ((List.range 16).filter (oqUsed img pt sw.1)).map (fun q => (0, sw.1, q)) ++
    (if addMode sw.2 ≠ 0 then [(2, sw.1, 0)] else []) ++
    (sw.2.xctx.filter (fun e => decide (fld e.2 13 0 ≠ 0))).map (fun e => (1, sw.1, e.1)))
def mustReceive (img : List Byte) (pt : Part) (T : Tbl Switch) : List (Nat × Nat × Nat) :=
  T.flatMap (fun sw =>
    (if addMode sw.2 ≠ 0 then [(2, sw.1, 0), (3, sw.1, 0)] else []) ++
    (unitsUsed img pt sw.1).flatMap (fun u => [(0, sw.1, 16 + 2 * u), (0, sw.1, 17 + 2 * u)]))

/-- Values without repeats, in order of first appearance. -/
def nubBy {α : Type} [DecidableEq α] (l : List α) : List α := l.foldl (fun a x => if a.contains x then a else a ++ [x]) []

/-- Return routes of the scalar network: endpoint, slot, token counter reached, hops; `none` where broken. -/
def returnsOf (s : State) (T : Tbl Switch) (period : Nat) : List (Option ((Nat × Nat × Nat) × Nat × (Nat × Nat × Nat) × Nat)) :=
  T.flatMap (fun sw =>
    sw.2.sn.flatMap (fun te =>
      let f := sources te.2 7
      let starts : List (Nat × (Nat × Nat × Nat)) :=
        (if f.contains 5 then [(5, (0, sw.1, fld te.2 25 21))] else []) ++
        (if f.contains 6 then [(6, (1, sw.1, fld te.2 33 30))] else []) ++
        (if f.contains 7 then [(7, ((if bit te.2 38 then 3 else 2), sw.1, 0))] else [])
      starts.map (fun st =>
        (trace s T (·.sn) 7 period (4096 + 64) sw.1 te.1 st.1 0).map (fun r =>
          (st.2, te.1,
           (if r.2.2.1 = 4 then (0, r.2.1, fld r.2.2.2 29 26) else if r.2.2.1 = 5 then (1, r.2.1, fld r.2.2.2 37 34)
            else (2, r.2.1, 0)), r.1)))))

/-- Routes of the control network meet an output in every slot. -/
def controlBad (s : State) (T : Tbl Switch) (period : Nat) : Bool :=
  T.any (fun sw => sw.2.cn.any (fun te =>
    [5, 6].any (fun code => (sources te.2 5).contains code && (trace s T (·.cn) 5 period (4096 + 64) sw.1 te.1 code 0).isNone)))

/-- Longest gap between slots of a period, cyclically; `none` for no slot. -/
def longestGap (period : Nat) (l : List Nat) : Option Nat :=
  if l = [] then none
  else some ((l.map (fun t => (((l.map (fun u => (u + period - t - 1) % period + 1)).foldl min period)))).foldl max 0)

/-- The routes of a schedule break R176. -/
def routesBad (s : State) (img : List Byte) (pt : Part) (T : Tbl Switch) (period : Nat) : Bool :=
  let legs := legsOf s img pt T period
  let l := legs.filterMap id
  let rets := returnsOf s T period
  let r := rets.filterMap id
  let dsts := nubBy (l.map (·.dst))
  let pools := nubBy (dsts.map (poolOf img pt))
  legs.contains none || rets.contains none || controlBad s T period ||
  l.any (fun a => l.any (fun b => (a.src == b.src) != (a.dst == b.dst))) ||
  (mustProduce img pt T).any (fun p => !(l.any (fun a => a.src == p))) ||
  (mustReceive img pt T).any (fun e => !(l.any (fun a => a.dst == e))) ||
  T.any (fun sw => let q := (unitsUsed img pt sw.1).map (fun u => fld (regAt img pt sw.1 (736 + u)) 4 1)
                   selectsTwice (q.map (· + 1)) || q.any (fun i => dsts.contains (0, sw.1, i))) ||
  dsts.any (fun e => e.1 == 0 && decide (e.2.2 ≥ 16) && !((unitsUsed img pt e.2.1).contains ((e.2.2 - 16) / 2))) ||
  pools.any (fun p =>
    ((nubBy ((l.filter (fun a => poolOf img pt a.dst == p)).map (·.src))).map (tokensOf img pt T)).sum != poolSize img pt p) ||
  r.any (fun x => l.any (fun a => a.dst == x.1 && a.src != x.2.2.1)) ||
  l.any (fun a =>
    let p := poolOf img pt a.dst
    p.1 == 0 && decide (poolSize img pt p ≠ 32) &&
      (let mine := r.filter (fun x => x.1 == a.dst)
       match longestGap period (mine.map (·.2.1)) with
       | none => true
       | some g => decide (a.hops + (if a.src.1 = 0 then 4 else 2) + g + (mine.map (·.2.2.2)).foldl max 0 > 24)))

/-- Tables of a variant at the switches of the clusters that would hold it. -/
def schedTables (img : List Byte) (clusters : List Nat) (var : Nat) : Tbl Switch :=
  (List.range clusters.length).foldl (fun T i =>
    match (secsFor img 1 i var).head? with
    | none => T
    | some x =>
      match schedOf img x with
      | none => T
      | some l =>
        (List.range 36).foldl (fun T k =>
          tput T ((clusterPhys (clusters.getD i 0)).getD k 0) (switchOf (k % 9 == 8) (l.getD k []))) T) []

/-- The period of a schedule set. -/
def periodIn (T : Tbl Switch) : Nat := match T with | [] => 0 | e :: _ => periodOf e.2

/-- The set for a reserve breaks R176 on the cluster list that the partition has once the reserve stands in slot `i`: it is traced when the
move loads it (log 23). -/
def movedBad (s : State) (part i r : Nat) (pt : Part) : Bool :=
  let res := 16 * pt.die + r
  let pt1 : Part := { pt with clusters := pt.clusters.set i res }
  let T := schedTables pt.image pt1.clusters (1 + r)
  routesBad (setClu (setPart s part (some pt1)) res 1 part) pt.image pt1 T (periodIn T)

/-- The schedules of an image break a load rule. Routes are traced for the primary set. The sets of reserves are checked entry by entry, since the
slot that a reserve takes is not known at the load: `movedBad` traces them when they are loaded. -/
def schedulesBad (s : State) (img : List Byte) (pt : Part) : Bool :=
  let prim := (secsOf img).filter (fun x => x.type == 1 && decide (x.len ≠ 0))
  prim.any (fun x =>
    match schedOf img x with
    | none => true
    | some l => (List.range 36).any (fun k => switchBad (k % 9 == 8) (switchOf (k % 9 == 8) (l.getD k [])))) ||
  (0 :: pt.declared.map (· + 1)).any (fun var =>
    let T := schedTables img pt.clusters var
    let period := periodIn T
    T != [] && (T.any (fun e => periodOf e.2 != period) || T.length != 36 * pt.clusters.length ||
                (if var = 0 then routesBad s img pt T period
                 else (List.range pt.clusters.length).all (fun i =>
                   movedBad s ((partOfCluster s (pt.clusters.headD 0)).getD 0) i (var - 1) { pt with image := img }))))

/-- The primary schedules select a CN generator (R305, R325). -/
def usesGenerator (img : List Byte) : Bool :=
  (secsOf img).any (fun x => x.type == 1 && x.var == 0 && decide (x.len ≠ 0) &&
    (match schedOf img x with
     | none => false
     | some l => (List.range 36).any (fun k => (switchOf (k % 9 == 8) (l.getD k [])).cn.any (fun e => (sources e.2 5).contains 6))))

/-- The contents of the sections break R410. -/
def contentsBad (img : List Byte) (pt : Part) : Bool :=
  let cores := coresOf pt
  ((secsOf img).filter (fun x => decide (x.len ≠ 0))).any (fun x =>
    if x.type = 2 ∨ x.type = 4 then (contentOf img x).isNone
    else if x.type = 3 then decide (x.len ≠ 32 * 6992)
    else if x.type = 5 then (declGo (x.len / 8 + 1) (secData img x)).isNone
    else if x.type = 6 then decide (x.len % 8 ≠ 0)
    else if x.type = 7 then decide (x.len % 256 ≠ 0 ∨ x.len > 65536)
    else false) ||
  (declsOf img).any (fun d => d.2.any (fun i => decide (i.1 ≥ cores))) ||
  (bucketRefs img).any (fun r => decide (r.1 ≥ cores ∨ r.2.1 ≥ 32768 ∨ r.2.2.1 ≥ pt.buckets ∨ r.2.2.2 ≠ 0)) ||
  (secsFor img 7 0xFFFF 0).any (fun x =>
    (List.range (x.len / 256)).any (fun i =>
      (numAt img (x.off + 256 * i + 1) 1).testBit 3 && decide (numAt img (x.off + 256 * i + 54) 2 ≥ pt.buckets)))

/-- An image that a load answers with INVALID_ARG (R409, R410). -/
def imageBad (s : State) (img : List Byte) (pt : Part) : Bool :=
  imgHeaderBad img || decide (numAt img 16 1 ≠ pt.kind) ||
  decide (numAt img 17 1 ≠ (if pt.kind = 0 then pt.clusters.length else pt.clusters.length / 16)) ||
  arrangementBad img pt.clusters.length pt.declared || contentsBad img pt ||
  (List.range (coresOf pt)).any (fun n => coreRegsBad img (coresOf pt) n) || schedulesBad s img pt

/-! ### What a load puts into a core (R410, R411) -/

/-- Content that the image places in core `n`: addresses and bytes in the order in which they are applied, the bucket
fields rewritten last (R263; bits [228:219] of a descriptor). -/
def coreContent (img : List Byte) (pt : Part) (n : Nat) : List (Nat × List Byte) :=
  let l := (secsFor img 2 (n / 32) 0).flatMap (fun x =>
    ((contentOf img x).getD []).filterMap (fun e => if e.1 = n % 32 then some e.2 else none))
  let m := l.foldl (fun t e => writeBytes t e.1 e.2) ([] : Tbl Byte)
  l ++ ((bucketRefs img).filter (fun r => r.1 == n)).map (fun r =>
    let a := 64 * r.2.1 + 27
    let old : BitVec 16 := BitVec.ofNat 16 (leNat (readBytes m a 2))
    (a, leBytes 2 (setFld old 12 3 (pt.bucketAt + r.2.2.1)).toNat))

/-- Content that the image places in slice `k` of a slot. -/
def sliceContent (img : List Byte) (slot k : Nat) : List (Nat × List Byte) :=
  (secsFor img 4 slot 0).flatMap (fun x => ((contentOf img x).getD []).filterMap (fun e => if e.1 = k then some e.2 else none))

/-- Update-table entries of an image, with bucket fields rewritten (R263, R289). -/
def tableContent (img : List Byte) (pt : Part) : List Byte :=
  match (secsFor img 7 0xFFFF 0).head? with
  | none => []
  | some x =>
    (List.range (x.len / 256)).flatMap (fun i =>
      let e := slice (secData img x) (256 * i) 256
      let tag := if (numAt e 1 1).testBit 3 then leBytes 2 (pt.bucketAt + numAt e 54 2) else slice e 54 2
      e.take 54 ++ tag ++ slice e 56 88 ++ zeros 12 ++ slice e 156 100)

/-- The vector-network endpoints of a core are empty, its producers hold their initial tokens (R180). -/
def emptyCorePorts (c : Core) : Core :=
  { c with
    outQ := c.outQ.foldl (fun t e => tset {} t e.1 { cfg := e.2.cfg, tokens := if bit e.2.cfg 1 then 0 else fld e.2.cfg 15 2 }) [],
    inQ := c.inQ.foldl (fun t e => tset {} t e.1 { spill := e.2.spill, high := e.2.high }) [],
    steer := c.steer.foldl (fun t e => tset {} t e.1 { cfg := e.2.cfg }) [] }

/-- The engines of a core hold no operation; nothing waits. -/
def dropWork (c : Core) : Core :=
  { c with qTe := [], qVe := [], qDma := [], qPort := [], te := { c.te with ops := [] }, ve := { c.ve with cur := none },
           raises := [], deferred := [], records := [],
           send := c.send.foldl (fun t e => tset {} t e.1 { e.2 with cur := none, wait := [] }) [],
           recv := c.recv.foldl (fun t e => tset {} t e.1 { e.2 with ops := [] }) [] }

/-- A receive channel emptied and opened again (R217, R344); its counts go on unless they are cleared (R220). -/
def reopenChan (r : RecvCh) (stats : Bool) : RecvCh :=
  { cfg := r.cfg, ring := r.ring, state := if bit r.cfg 0 then 0 else 1, stats := if stats then 0 else r.stats,
    waited := if stats then 0 else r.waited }

/-- Channels as at a job load or a restart; `stats` when the counts are cleared too. -/
def reopenChannels (c : Core) (stats : Bool) : Core :=
  { c with
    send := c.send.foldl (fun t e => tset {} t e.1 { cfg := e.2.cfg, stats := if stats then 0 else e.2.stats,
                                                     waited := if stats then 0 else e.2.waited }) [],
    recv := (List.range 64).foldl (fun t i => tset {} t i (reopenChan (tget {} t i) stats)) c.recv }

/-- A thread before its job starts. -/
def freshThread (th : Thread) : Thread :=
  { cfg := th.cfg, range := th.range, replay := th.replay, fpctl := th.fpctl, pc := fld th.cfg 17 0 }

/-- Set up a core as a job load does (R411): every fault bit clear (R63), the registers of the image, and everything else that a
load sets. -/
def setupCore (regs : List W64) (c : Core) : Core :=
  let c1 := (List.range coreRegs).foldl (fun c i => setCoreReg c i (regs.getD i 0)) { dropWork c with sync := [], recv := c.recv.map (fun e => (e.1, { e.2 with recs := [], ops := [] })) }
  let c2 := threadIds.foldl (fun c t => modThread c t freshThread) c1
  let c3 := emptyCorePorts { c2 with inQ := c2.inQ.foldl (fun t e => tset {} t e.1 { e.2 with high := 0 }) [] }
  let c4 := reopenChannels c3 true
  { c4 with rr0 := 16, rr1 := 16,
            ve := { c4.ve with lanes := seedLanes c4.ve.seed.toNat, quant := 0, slots := [], cur := none } }

/-- The switches of a cluster hold no word; AR has its initial tokens (R180). -/
def emptySwitch (w : Switch) : Switch :=
  { w with slot := 0, running := false, vnIn := [], snIn := [], cnIn := [], aa := [], ab := [], ar := [], arNew := 0,
           outVn := [], outSn := [], outCn := [], arTok := fld w.cfg 28 15, arHold := false, freedAA := 0, freedAB := 0,
           ret := [], inbound := [] }

/-- The slice contexts of a partition are empty and hold the tokens of VN_XCTX_CFG (R180, R191). -/
def emptyContexts (s : State) (pt : Part) : State :=
  ((partSwitches pt).filter isSpare).foldl (fun s x =>
    modSlice s (sliceAt x) (fun v =>
      { v with ctx := (List.range 16).foldl (fun t i =>
          tset ({} : Ctx) t i { tokens := fld (tget (0 : W64) (getSwitch s x).xctx i) 13 0 }) [] })) s

/-- The vector network of a partition is emptied and every token count restored (R180). -/
def emptyNetwork (s : State) (pt : Part) : State :=
  emptyContexts ((partSwitches pt).foldl (fun s x => modSwitch s x emptySwitch) (eachCore s pt emptyCorePorts)) pt

/-- The switches of a partition set their slot counters to 0 together and run (R171). -/
def startNetwork (s : State) (pt : Part) : State :=
  (partSwitches pt).foldl (fun s x => modSwitch s x (fun w => { w with slot := 0, running := true })) s

/-- Clear a core as R151 does. -/
def wipeCore (c : Core) : Core :=
  { c with mem := [], bad := [], vbad := [], weak := [], vweak := [], cv := [], ve := { c.ve with store := [] },
           te := { c.te with bufA := [], bufB := [], sideA := [], sideB := [], tiles := [] } }

/-- R151: every memory of a cluster becomes zero, check values invalid. -/
def wipeCluster (s : State) (c : Nat) : State :=
  let s1 := (clusterPhys c).foldl (fun s p => modCore s p wipeCore) s
  (List.range 4).foldl (fun s k => modSlice s (4 * c + k) (fun v => { v with mem := [], bad := [], weak := [], poison := [], cv := [] })) s1

/-- A core reset: threads, engines, queues, ports and every register at their reset values; memories, the vector store
and the operand buffers with their side stores (R515) stay, and so do held tags and the stop of R148 (R341, R348). The receive
channels stay in RESET until a job is loaded or restarts (R212, R217). -/
def resetCore (c : Core) : Core :=
  { mem := c.mem, bad := c.bad, vbad := c.vbad, weak := c.weak, vweak := c.vweak, cv := c.cv, fixes := c.fixes, marked := c.marked,
    ve := { store := c.ve.store, lanes := seedLanes 1 },
    te := { bufA := c.te.bufA, bufB := c.te.bufB, sideA := c.te.sideA, sideB := c.te.sideB },
    recv := (List.range 64).foldl (fun t i => tset ({} : RecvCh) t i { state := 2 }) [],
    held := c.held, stopped := c.stopped, frozenAt := c.frozenAt, frozenAcc := c.frozenAcc, progress := c.progress,
    issued := c.issued, teBusy := c.teBusy, veBusy := c.veBusy, dmaBytes := c.dmaBytes, corrected := c.corrected,
    microcode := c.microcode, micro := c.micro }

/-! ### Flock load (R489) -/

/-- What one target receives of a load: store, offset and bytes. -/
structure Piece where
  kind   : Nat
  target : Nat
  store  : Nat
  addr   : Nat
  data   : List Byte
  deriving DecidableEq, Repr

/-- Cut a run of bytes into chunks of at most 4,096. -/
def chunksGo (kind target store : Nat) : Nat → Nat → List Byte → List Piece
  | 0, _, _ => []
  | k + 1, a, l =>
    if l = [] then [] else { kind := kind, target := target, store := store, addr := a, data := l.take 4096 } ::
      chunksGo kind target store k (a + 4096) (l.drop 4096)

def chunksOf (kind target store a : Nat) (l : List Byte) : List Piece := chunksGo kind target store (l.length / 4096 + 1) a l

/-- Pieces of the cores and slices of a slot. -/
def slotPieces (img : List Byte) (pt : Part) (slot : Nat) : List Piece :=
  (List.range 32).flatMap (fun c =>
    let n := 32 * slot + c
    (coreContent img pt n).flatMap (fun e => chunksOf 1 n 1 e.1 e.2) ++
    (if (secsFor img 3 slot 0).isEmpty then [] else chunksOf 1 n 2 0 ((imgRegs img n).flatMap (fun v => leBytes 8 v.toNat)))) ++
  (List.range 4).flatMap (fun k => (sliceContent img slot k).flatMap (fun e => chunksOf 1 (32 * slot + 8 * k) 4 e.1 e.2))

/-- Pieces of the switches, from the schedule set of a variant. -/
def switchPieces (img : List Byte) (pt : Part) (var : Nat) : List Piece :=
  (List.range pt.clusters.length).flatMap (fun i =>
    match (secsFor img 1 i var).head? with
    | none => []
    | some x => (List.range 36).flatMap (fun k =>
        chunksOf 2 ((clusterPhys (pt.clusters.getD i 0)).getD k 0) 3 0 (((schedOf img x).getD []).getD k [])))

/-- A chunk's cells: the header cell, then the data cells (R489). -/
def chunkCells (dst src tag index sidx : Nat) (q : Piece) : List Cell :=
  mkCell 0x0E 32 dst src tag (leBytes 4 index ++ leBytes 2 sidx ++ leBytes 1 q.kind ++ leBytes 1 q.store ++ leBytes 2 q.target ++
    leBytes 2 q.data.length ++ leBytes 4 q.addr ++ leBytes 4 (crc32c q.data).toNat ++ zeros 12) ::
  dataCells 0x0E dst src tag 129 q.data

/-- Index of each piece in its own target's series. -/
def seriesIx (l : List Piece) (i : Nat) : Nat :=
  match l[i]? with
  | none => 0
  | some q => ((l.take i).filter (fun r => r.kind == q.kind && r.target == q.target)).length

/-- The hub broadcasts a load to the dies of a partition under a new flock number. -/
def broadcast (s : State) (part : Nat) (dies : List Nat) (l : List Piece) : State :=
  let tag := (s.flockNo + 1) % 1024
  let s0 := modPart s part (fun q => { q with loadNo := tag })
  dies.foldl (fun s d =>
    sendCells s (1024 * d + 50) ((List.range l.length).flatMap (fun i =>
      match l[i]? with
      | none => []
      | some q => chunkCells (1024 * d + part) (1024 * d + 50) tag i (seriesIx l i) q))) { s0 with flockNo := tag }

/-- Write a piece into its target as a repair round does. -/
def repairPiece (s : State) (pt : Part) (q : Piece) : State :=
  if q.kind = 2 then
    modSwitch s q.target (fun w => (wordsOf q.addr q.data).foldl (fun w e => setSwitchReg w (isSpare q.target) e.1 e.2) w)
  else if q.store = 1 then modCore s (physAt s pt q.target) (fun c => writeCore c q.addr q.data)
  else if q.store = 2 then
    modCore s (physAt s pt q.target) (fun c => (wordsOf q.addr q.data).foldl (fun c e => setCoreReg c e.1 e.2) c)
  else
    let l := logAt pt q.target
    writeSlice s (4 * cluOfLog l + rowIx l % 4) q.addr q.data false

/-- Dies of a partition. -/
def diesOf (pt : Part) : List Nat := nubBy (pt.clusters.map (· / 16))

end Sys2Proof.Machine
end

