-- ==== Sys2Proof/Machine/Elementwise.lean ====
section
/-! DEFINITION. The arithmetic of the VE's primitives on words (R100, R101, R118, R129, R132 to R134, R138): one element,
one row, one GF(2^8) byte. A result that the manual only bounds takes a free value `f`. -/

namespace Sys2Proof.Machine

/-- A result and the flags that it sets. -/
structure Res where
  v   : W32
  sat : Bool := false
  inf : Bool := false
  nan : Bool := false

/-- An FP32 result: an infinite result sets inf, a NaN sets nan (R118). -/
def fres (v : W32) : Res := { v := v, inf := isInf v, nan := isNan v }

/-- An INT32 result (R100): saturated or wrapped; sat is set when the exact result lies outside the range. -/
def ires (sat : Bool) (x : Int) : Res :=
  if x < -(2 ^ 31) then { v := if sat then 0x80000000 else BitVec.ofInt 32 x, sat := true }
  else if x ≥ 2 ^ 31 then { v := if sat then 0x7FFFFFFF else BitVec.ofInt 32 x, sat := true }
  else { v := BitVec.ofInt 32 x }

/-- The comparison of CMP: the codes of R55 on FP32 values; with a NaN only ≠ holds (R130). -/
def fcmpHolds (cond : Nat) (a b : W32) : Bool :=
  if isNan a || isNan b then cond == 1
  else
    let d := fcmp a b
    match cond with
    | 0 => d == 0
    | 1 => d != 0
    | 2 => decide (d < 0)
    | 3 => decide (d ≥ 0)
    | 4 => decide (d ≤ 0)
    | _ => decide (d > 0)

/-- FP32 to INT32 with its flags. -/
def f2iRes (a : W32) : Res := let (v, s, n) := f2iF a; { v := v, sat := s, nan := n }

/-- One element of an elementwise primitive (R129). -/
def elemOp (prim : Nat) (sat : Bool) (aux : W64) (f : Nat) (a b c : W32) : Res :=
  match prim with
  | 0x01 => fres (fadd a b)
  | 0x02 => fres (fsub a b)
  | 0x03 => fres (fmul a b)
  | 0x04 => fres (ffma a b c)
  | 0x05 => fres (fmax a b)
  | 0x06 => fres (fmin a b)
  | 0x07 => fres (fdiv f a b)
  | 0x08 => fres (fsqrt a)
  | 0x09 => fres (frsqrt f a)
  | 0x0A => f2iRes a
  | 0x0B => { v := i2fF a }
  | 0x10 => ires sat (a.toInt + b.toInt)
  | 0x11 => ires sat (a.toInt - b.toInt)
  | 0x12 => ires sat (a.toInt * b.toInt)
  | 0x13 => { v := if a.toInt ≥ b.toInt then a else b }
  | 0x14 => { v := if a.toInt ≤ b.toInt then a else b }
  | 0x15 => { v := a <<< (b.toNat % 32) }
  | 0x16 => { v := a.sshiftRight (b.toNat % 32) }
  | 0x17 => { v := a &&& b }
  | 0x18 => { v := a ||| b }
  | 0x19 => { v := a ^^^ b }
  | 0x20 => fres (fexpE 2 f a)
  | 0x21 => fres (fexp2 f a)
  | 0x22 => fres (flog f a)
  | 0x23 => fres (ftanh f a)
  | 0x24 => fres (fsigmoid f a)
  | 0x25 => fres (fsilu f a)
  | 0x26 => fres (fgelu f a)
  | 0x27 => fres (ftrig false f a)
  | 0x28 => fres (ftrig true f a)
  | 0x48 => { v := if fcmpHolds (fld aux 2 0) a b then 1 else 0 }
  | 0x49 => { v := if c ≠ 0 then a else b }
  | _ => { v := 0 }

/-! ### Row reductions (R132) -/

/-- Combine the lanes in a pairwise tree; a lane without a value takes no part. -/
def treeLevel (f : W32 → W32 → W32) : List (Option W32) → List (Option W32)
  | a :: b :: r =>
    (match a, b with
     | some x, some y => some (f x y)
     | some x, none => some x
     | none, y => y) :: treeLevel f r
  | l => l

/-- Lane partials of a list of terms: element j goes to lane j mod 64; the first by `first`, later ones by `next`. -/
def lanesOf (first : W32 → W32 → W32) (next : W32 → W32 → W32 → W32) (a b : List W32) : List (Option W32) :=
  (List.range 64).map (fun l =>
    ((List.range ((a.length + 63 - l) / 64)).foldl (fun (acc : Option W32) i =>
      let x := a.getD (64 * i + l) 0; let y := b.getD (64 * i + l) 0
      some (match acc with
        | none => first x y
        | some v => next v x y)) none))

/-- A reduction: lanes, then six levels. -/
def reduceRow (first : W32 → W32 → W32) (next : W32 → W32 → W32 → W32) (f : W32 → W32 → W32) (a b : List W32) : W32 :=
  ((iter (treeLevel f) 6 (lanesOf first next a b)).headD none).getD 0

def rowSum (a : List W32) : W32 := reduceRow (fun x _ => x) (fun v x _ => fadd v x) fadd a a
def rowDot (a b : List W32) : W32 := reduceRow fmul (fun v x y => ffma x y v) fadd a b
def rowMax (a : List W32) : W32 := reduceRow (fun x _ => x) (fun v x _ => fmax v x) fmax a a
def rowMin (a : List W32) : W32 := reduceRow (fun x _ => x) (fun v x _ => fmin v x) fmin a a

/-- The value of a row reduction (R129). A single NaN term is a NaN that the device produces (R101). -/
def rowOp (prim : Nat) (a b : List W32) : W32 :=
  let v := match prim with
    | 0x30 => rowSum a
    | 0x31 => rowMax a
    | 0x32 => rowMin a
    | 0x33 => rowDot a a
    | _ => rowDot a b
  if isNan v then qnan else v

/-! ### Normalisation (R133) -/

/-- a number of elements as FP32. -/
def natF (n : Nat) : W32 := roundInt n 0 false

/-- 2^600 / √(m × 2^e) for m > 0. -/
def rsqrtFx (m : Nat) (e : Int) : Nat :=
  let (m, e2) := if e % 2 = 0 then (m, e) else (2 * m, e - 1)
  let r := isqrt (m <<< 600)
  let q := 2 ^ 1100 / max 1 r
  if e2 ≤ 0 then (q <<< ((-e2) / 2).toNat) >>> 200 else q >>> (200 + (e2 / 2).toNat)

/-- The exact sum σ² + eps of two finite words, as m × 2^e. -/
def exactSum (va eps : W32) : Int × Int :=
  let e := min (fexp va) (fexp eps)
  (atExp va e + atExp eps e, e)

/-- One output element (a − μ) × rsqrt(σ² + eps) × b + c within 3 ulp of the exact value of that expression over the
words μ and σ²; special values as in IEEE arithmetic. -/
def normElem (f : Nat) (x mu va eps b c : W32) : W32 :=
  let d := fsub x mu
  let (vm, ve) := exactSum va eps
  if isFinite x && isFinite mu && isFinite b && isFinite c && isFinite va && isFinite eps && decide (vm > 0) then
    let e0 := min (fexp x) (fexp mu)
    let dv := atExp x e0 - atExp mu e0
    let bv : Int := if fneg b then -(fman b : Int) else fman b
    let cv : Int := if fneg c then -(fman c : Int) else fman c
    let pe : Int := e0 + fexp b - 600
    let p : Int := dv * bv * (rsqrtFx vm.toNat ve : Int)
    let e := min pe (fexp c)
    let v := p * (2 ^ (pe - e).toNat : Nat) + cv * (2 ^ (fexp c - e).toNat : Nat)
    if v = 0 then fword (fneg c && fneg b != fneg d) 0 else nearF 3 f (decide (v < 0)) v.natAbs e (decide (p ≠ 0))
  else fadd (fmul (fmul d (frsqrt f (fadd va eps))) b) c

/-- Mean and variance of a row (R132, R133); RMSNORM takes mean 0. -/
def normStats (mean : Bool) (a : List W32) : W32 × W32 :=
  let n := natF a.length
  let mu : W32 := if mean then fdivR (rowSum a) n else 0
  let dev := if mean then a.map (fun x => fsub x mu) else a
  (mu, fdivR (rowDot dev dev) n)

/-! ### GF(2^8) (R134) -/

/-- One doubling. -/
def gfDouble (a : Nat) : Nat := if 2 * a ≥ 256 then (2 * a) ^^^ 0x11D else 2 * a

/-- a ⊗ b. -/
def gfMul (a b : Nat) : Nat :=
  ((List.range 8).foldl (fun (acc : Nat × Nat) i => (if b.testBit i then acc.1 ^^^ acc.2 else acc.1, gfDouble acc.2)) (0, a)).1

/-! ### Position angles (R138) -/

/-- The rotated pair or the pair of cosine and sine; the product with y is rounded, then one FMA. -/
def ropePair (f : Nat) (phi : Nat) (x y : W32) : W32 × W32 :=
  let (c, s) := angleF f phi
  (ffma x c (fminus (fmul y s)), ffma x s (fmul y c))

/-! ### Streaming softmax (R135) -/

/-- What one row of a step gives: new m and l, α, the row of p, and the first positions of a NaN or infinity. -/
structure SmaxRow where
  m : W32
  l : W32
  alpha : W32
  p : List W32
  inf : Option Nat := none
  nan : Option Nat := none

/-- One row (R135): a score that is a NaN or infinite, or a slot that holds NaN, makes m, l, α and every p a NaN. The nan flag
belongs to the row's results, of which element 0 of p is the lowest in ascending index (R120; DEDUCED, log 72); the inf flag to the
first infinite score. `a` the scores, `keep` which columns are unmasked, `f` free values for its exponentials. -/
def smaxRow (m l scale : W32) (a : List W32) (keep : Nat → Bool) (f : Nat → Nat) : SmaxRow :=
  let s := a.map (fun x => fmul x scale)
  let bad := s.findIdx? (fun x => !isFinite x)
  if bad.isSome || isNan m || isNan l then
    { m := qnan, l := qnan, alpha := qnan, p := a.map (fun _ => qnan), inf := s.findIdx? isInf, nan := some 0 }
  else
    let ix := List.range a.length
    let mc := ix.foldl (fun (acc : W32) c => if keep c then fmax acc (s.getD c 0) else acc) 0xFF800000
    let mn := fmax m mc
    if mn = 0xFF800000 then { m := mn, l := l, alpha := 0x3F800000, p := a.map (fun _ => 0) }
    else
      let alpha := fexpE 2 (f a.length) (fsub m mn)
      let p := ix.map (fun c => if keep c then fexpE 2 (f c) (fsub (s.getD c 0) mn) else 0)
      { m := mn, l := fadd (fmul l alpha) (rowSum p), alpha := alpha, p := p }

end Sys2Proof.Machine
end

