-- ==== Sys2Proof/Machine/Update.lean ====
section
/-! DEFINITION. The parameter update engine (R284 to R295): the group table in the device area, starting groups, the two
passes of the rules U0 to U3, outcomes, statistics and raises. A pass takes effect in one step. -/

namespace Sys2Proof.Machine

/-! ### The group table (R289, R407) -/

/-- Area offset of entry `g`. -/
def groupBase (g : Nat) : Nat := 0x10000 + 256 * g

/-- A field of an entry. -/
def gf (pt : Part) (g off n : Nat) : Nat := leNat (readBytes pt.area (groupBase g + off) n)

/-- Write a field of an entry. -/
def setGf (s : State) (part g off n v : Nat) : State :=
  modPart s part (fun pt => { pt with area := writeBytes pt.area (groupBase g + off) (leBytes n v) })

def gw (pt : Part) (g off : Nat) : W32 := BitVec.ofNat 32 (gf pt g off 4)
def gRule (pt : Part) (g : Nat) : Nat := gf pt g 0 1
def gFlag (pt : Part) (g i : Nat) : Bool := (gf pt g 1 1).testBit i
def gRows (pt : Part) (g : Nat) : Nat := 32 * gf pt g 2 2
def gCols (pt : Part) (g : Nat) : Nat := 32 * gf pt g 4 2
def gSize (pt : Part) (g : Nat) : Nat := gRows pt g * gCols pt g
def gQcw (pt : Part) (g : Nat) : W64 := BitVec.ofNat 64 (gf pt g 40 8)
def gStep (pt : Part) (g : Nat) : Nat := gf pt g 144 4

/-- Dies of a partition, ascending: its die slots (R264). -/
def dieSlots (pt : Part) : List Nat := (List.range 4).filter (fun d => pt.clusters.any (fun c => c / 16 == d))

/-- Die of the engine that a group names. -/
def gDie (pt : Part) (g : Nat) : Nat := let l := dieSlots pt; l.getD (gf pt g 6 1 % 4) (l.headD 0)

/-! ### Starting (R291) -/

/-- A group starts: it becomes pending, or the start is merged with one that is pending already. A reserved state waits for the
check of R292. -/
def startGroup (s : State) (part g : Nat) : State :=
  match getPart s part with
  | none => s
  | some pt =>
    let st := gf pt g 148 1
    let queue (s : State) : State := modDie s (gDie pt g) (fun d => { d with queue := d.queue ++ [(part, g)] })
    if st = 0 then queue (setGf s part g 148 1 1)
    else if st = 2 then queue (setGf s part g 148 1 3)
    else if st > 3 ∧ (getDie s (gDie pt g)).queue.contains (part, g) = false then queue s
    else setGf s part g 156 4 (min 0xFFFFFFFF (gf pt g 156 4 + 1))

/-- The write that covered an area word is acted on. -/
def takeTouch (s : State) (part o : Nat) : Option (State × Nat) :=
  match getPart s part with
  | none => none
  | some pt =>
    (pt.touched.find? (fun e => e.1 == o)).map (fun e => (setPart s part (some { pt with touched := pt.touched.erase e }), e.2))

/-- UPDATE_START_WORD: a write has covered a group's start word (R291). -/
def execUpdateStartWord (part group : Nat) (s : State) : Out :=
  onUnit (decide (part < 64 ∧ group < 256))
    (match takeTouch s part (groupBase group + 128) with
     | none => s
     | some (s1, _) =>
       match getPart s1 part with
       | none => s1
       | some pt =>
         let w := gf pt group 128 8
         let s2 := if w / 2 ^ 32 % 2 = 1 ∧ w % 2 ^ 32 ≠ 0 then setGf s1 part group 144 4 (w % 2 ^ 32 - 1) else s1
         if gFlag pt group 3 then s2 else startGroup s2 part group)

/-! ### Checks (R286, R289, R290, R292) -/

/-- A reserved value or a nonzero reserved field. A U3 group of no cores is outside the range of R289 and taken as reserved (DEDUCED, log
22). -/
def groupReserved (pt : Part) (g : Nat) : Bool :=
  let z (off n : Nat) : Bool := decide (gf pt g off n ≠ 0)
  decide (gRule pt g > 3 ∨ gf pt g 1 1 ≥ 16 ∨ gf pt g 2 2 > 4096 ∨ gf pt g 4 2 > 4096 ∨ gf pt g 6 1 ≥ 4 ∨
    gf pt g 54 2 ≥ 1024 ∨ gf pt g 72 2 ≥ 2048 ∨ gf pt g 80 2 ≥ 2048 ∨ gf pt g 128 8 ≥ 2 ^ 33) ||
  !qcwClean (gQcw pt g) || z 7 1 || z 98 30 || z 136 8 || z 149 3 || z 172 4 || z 176 80 || decide (gf pt g 148 1 > 3) || (!gFlag pt g 2 && z 32 6) ||
  (decide (gRule pt g = 3) && decide (gf pt g 84 2 = 0 ∨ gf pt g 84 2 > 2048))

/-- The start word asks for step 0. -/
def zeroStep (pt : Part) (g : Nat) : Bool := decide (gf pt g 128 8 = 2 ^ 32)

/-- Arrays of a group: address, bytes, written. -/
def groupArrays (pt : Part) (g : Nat) : List (Nat × Nat × Bool) :=
  let n := 4 * gSize pt g
  let v := gRule pt g = 1 ∨ gRule pt g = 2
  [(gf pt g 8 6, n, false), (gf pt g 14 6, n, true), (gf pt g 20 6, n, true)] ++
  (if v then [(gf pt g 26 6, n, true)] else []) ++
  (if gFlag pt g 2 then [(gf pt g 32 6, 4096 * gf pt g 38 2 * (gCols pt g / 32), true)] else []) ++
  (if gRule pt g = 3 then [(gf pt g 86 6, n, false)] else [])

/-- Two arrays overlap. -/
def arraysOverlap : List (Nat × Nat × Bool) → Bool
  | [] => false
  | x :: r => r.any (fun y => decide (x.1 < y.1 + y.2.1 ∧ y.1 < x.1 + x.2.1)) || arraysOverlap r

/-- Length of a fully marked panel of R elements per column. -/
def fullPanel (pt : Part) (g : Nat) : Nat :=
  gRows pt g / 32 * 64 * groupRows (qFmt (gQcw pt g)) (qEsc (gQcw pt g)) (2 ^ 32 - 1)

/-- A check of R292 beyond the reserved fields fails. Core memory and slices lie in no window. -/
def groupInvalid (pt : Part) (g : Nat) : Bool :=
  let bad (a n : Nat) (wr : Bool) : Bool := decide (n ≠ 0 ∧ a < 2 ^ 36) || (firstBad pt wr a n).isSome
  (groupArrays pt g).any (fun x => bad x.1 x.2.1 false || (x.2.2 && bad x.1 x.2.1 true)) ||
  arraysOverlap (groupArrays pt g) ||
  (gFlag pt g 2 && (!qcwOk (gQcw pt g) || decide (qFmt (gQcw pt g) < 2 ∨ 4096 * gf pt g 38 2 < fullPanel pt g))) ||
  (decide (gRule pt g = 0 ∨ gRule pt g = 3) && decide (gf pt g 26 6 ≠ 0)) ||
  (decide (gRule pt g = 2) && decide (gw pt g 64 ≠ 0 ∨ ¬ (fneg (gw pt g 68) = false ∧ 0 < fmag (gw pt g 68) ∧ fmag (gw pt g 68) ≤ 0x7F800000))) ||
  (decide (gRule pt g = 3) && decide (gf pt g 82 2 + gf pt g 84 2 > coresOf pt))

/-- A schedule point: step, η, λ, β1, β2. -/
structure Point where
  step : Nat
  vals : List W32

/-- The schedule's points, or the outcome of an update that has none: 3 where a read fails under R252 (R288), 4 where the table is
invalid or lies in no window (R290). -/
def readSchedule (s : State) (part g : Nat) : State × Except Nat (List Point) :=
  match getPart s part with
  | none => (s, .error 4)
  | some pt =>
    let a := gf pt g 48 6
    let failed (n : Nat) : Nat := if a < 2 ^ 36 ∨ (firstBad pt false a n).isSome then 4 else 3
    if a < 2 ^ 36 then (s, .error 4) else
    match getMem s part (gDie pt g) a 32 with
    | (s1, hdr, none) =>
      let n := numAt hdr 0 4
      if n > 32 ∨ allZero (slice hdr 4 28) = false then (s1, .error 4)
      else
        match getMem s1 part (gDie pt g) (a + 32) (32 * n) with
        | (s2, l, none) =>
          let pts := (List.range n).map (fun i =>
            let b := slice l (32 * i) 32
            ({ step := numAt b 0 4, vals := (List.range 4).map (fun j => BitVec.ofNat 32 (numAt b (4 + 4 * j) 4)) } : Point))
          let rising := (List.range (n - 1)).all (fun i =>
            decide (numAt l (32 * i) 4 < numAt l (32 * (i + 1)) 4))
          let zero := (List.range n).all (fun i => allZero (slice l (32 * i + 20) 12))
          (s2, if rising && zero then .ok pts else .error 4)
        | (s2, _, some _) => (s2, .error (failed (32 + 32 * n)))
    | (s1, _, some _) => (s1, .error (failed 32))

/-- Value `j` of the schedule at step `t` (R290). -/
def scheduleAt (pts : List Point) (t j : Nat) : W32 :=
  let v (p : Point) : W32 := p.vals.getD j 0
  match pts with
  | [] => 0
  | p0 :: _ =>
    if t ≤ p0.step then v p0
    else
      match (pts.zip (pts.drop 1)).find? (fun q => decide (q.1.step ≤ t ∧ t < q.2.step)) with
      | none => v (pts.getLastD p0)
      | some (p, q) =>
        fadd (v p) (fdivR (fmul (fsub (v q) (v p)) (natF (t - p.step))) (natF (q.step - p.step)))

/-! ### Reading the arrays -/

/-- FP32 values of an array, or the failure of R252. -/
def readF (s : State) (part die a n : Nat) : State × Option (List W32) :=
  match getMem s part die a (4 * n) with
  | (s1, l, none) => (s1, some ((List.range n).map (fun i => BitVec.ofNat 32 (numAt l (4 * i) 4))))
  | (s1, _, some _) => (s1, none)

/-- g, w, m and v of a group. -/
structure Arrays where
  g : List W32
  w : List W32
  m : List W32
  v : List W32

/-- Read the first `n` elements of the arrays that a pass reads (R287). -/
def readArrays (s : State) (part g n : Nat) : State × Option Arrays :=
  match getPart s part with
  | none => (s, none)
  | some pt =>
    let d := gDie pt g
    match readF s part d (gf pt g 8 6) n with
    | (s1, none) => (s1, none)
    | (s1, some gs) =>
      match readF s1 part d (gf pt g 14 6) n with
      | (s2, none) => (s2, none)
      | (s2, some ws) =>
        match readF s2 part d (gf pt g 20 6) n with
        | (s3, none) => (s3, none)
        | (s3, some ms) =>
          if gRule pt g = 1 ∨ gRule pt g = 2 then
            match readF s3 part d (gf pt g 26 6) n with
            | (s4, none) => (s4, none)
            | (s4, some vs) => (s4, some { g := gs, w := ws, m := ms, v := vs })
          else (s3, some { g := gs, w := ws, m := ms, v := gs.map (fun _ => 0) })

/-- Arrays that pass 2 reads, X5 of U3 among them. -/
def readBases (pt : Part) (g : Nat) : List Nat :=
  [gf pt g 8 6, gf pt g 14 6, gf pt g 20 6] ++ (if gRule pt g = 1 ∨ gRule pt g = 2 then [gf pt g 26 6] else []) ++
  (if gRule pt g = 3 then [gf pt g 86 6] else [])

/-- Elements before the first one that pass 2 fails to read (R288): the state of the probing reads is dropped. -/
def goodElems (s : State) (pt : Part) (part g n : Nat) : Nat :=
  if (readBases pt g).all (fun a => (readF s part (gDie pt g) a n).2.isSome) then n
  else ((List.range n).find? (fun i => (readBases pt g).any (fun a => (readF s part (gDie pt g) (a + 4 * i) 1).2.isNone))).getD n

/-! ### The rules (R286) -/

/-- Euclidean norm, summed as R132 sums a row. -/
def norm (l : List W32) : W32 := fsqrt (rowDot l l)

/-- Cut a significand to 300 bits. -/
def cut300 (m : Nat) (e : Int) : Nat × Int := let k := bitLen m - 300; (m >>> k, e + k)

/-- (m × 2^e)^t by squaring over the bits of t, 300 bits kept. -/
def powGo : Nat → Nat → Nat × Int → Nat × Int → Nat × Int
  | 0, _, _, acc => acc
  | k + 1, t, b, acc =>
    let acc1 := if t % 2 = 1 then cut300 (acc.1 * b.1) (acc.2 + b.2) else acc
    powGo k (t / 2) (cut300 (b.1 * b.1) (2 * b.2)) acc1

/-- β^t within 2 ulp. -/
def fpow (free : Nat) (b : W32) (t : Nat) : W32 :=
  if t = 0 then 0x3F800000
  else if isNan b then qnan
  else
    let sg := fneg b && decide (t % 2 = 1)
    if isInf b then fword sg 0x7F800000
    else if isZero b then fword sg 0
    else if fmag b = 0x3F800000 then fword sg 0x3F800000
    else
      let (m, e) := powGo 33 t (fman b, fexp b) (1, 0)
      nearF 2 free sg m e true

/-- What the schedule and the step give to an update. -/
structure Coef where
  lr : W32
  wd : W32
  b1 : W32
  b2 : W32
  p1 : W32                                 -- β1^t
  p2 : W32
  eps : W32

def one32 : W32 := 0x3F800000

/-- New moments of one element: U0 and U3 keep one, U1 and U2 two. -/
def newM (rule : Nat) (c : Coef) (m g : W32) : W32 :=
  if rule = 1 ∨ rule = 2 then fadd (fmul c.b1 m) (fmul (fsub one32 c.b1) g) else fadd (fmul c.b1 m) g
def newV (c : Coef) (v g : W32) : W32 := fadd (fmul c.b2 v) (fmul (fsub one32 c.b2) (fmul g g))

/-- u of U1 from the new moments. -/
def adamU (c : Coef) (m v : W32) : W32 :=
  fdivR (fdivR m (fsub one32 c.p1)) (fadd (fsqrt (fdivR v (fsub one32 c.p2))) c.eps)

/-- u2 of U2. -/
def u2Of (c : Coef) (w m v : W32) : W32 := fadd (adamU c m v) (fmul c.wd w)

/-- (1 − ηλ) w. -/
def decayed (c : Coef) (w : W32) : W32 := fmul (fsub one32 (fmul c.lr c.wd)) w

/-- New weight of one element; `k` is φ of U2 or s of U3, `x` the element of X5. -/
def newW (rule : Nat) (c : Coef) (k w m v x : W32) : W32 :=
  match rule with
  | 0 => fsub (decayed c w) (fmul c.lr m)
  | 1 => fsub (decayed c w) (fmul c.lr (adamU c m v))
  | 2 => fsub w (fmul (fmul c.lr k) (u2Of c w m v))
  | _ => fsub (decayed c w) (fmul (fmul c.lr k) x)

/-- The coefficients of an update. -/
def coefOf (pt : Part) (u : Updating) : Coef :=
  { lr := u.lr, wd := u.wd, b1 := u.b1, b2 := u.b2, p1 := u.p1, p2 := u.p2, eps := gw pt u.group 56 }

/-- g′: the gradient scaled, and clipped by the factor. -/
def gradOf (pt : Part) (g : Nat) (factor : W32) (clipped : Bool) (x : W32) : W32 :=
  let y := fmul (gw pt g 60) x
  if clipped then fmul y factor else y

/-! ### Ends and raises (R291, R293) -/

/-- The update engine raises a counter through its die's unit position; a refused raise becomes a job event. -/
def updateRaise (s : State) (part n i v : Nat) : State :=
  if v = 0 then s
  else
    match getPart s part with
    | none => s
    | some pt => if n < coresOf pt then unitRaise s 51 (logAt pt n) 0 2 i v else s

/-- The gradient is released: rel_sync, and the bucket of a linked group (R293, R295). -/
def releaseGrad (s : State) (part g : Nat) : State :=
  match getPart s part with
  | none => s
  | some pt =>
    let s1 := updateRaise s part (gf pt g 80 2) (gf pt g 77 1) (gf pt g 78 1)
    if gFlag pt g 3 then modBucket s1 (gf pt g 54 2) (fun b => { b with pend := b.pend.erase g }) else s1

/-- The statistics record (R293). -/
def statBytes (u : Updating) (outcome : Nat) : List Byte :=
  leBytes 4 u.t ++ leBytes 1 outcome ++ leBytes 1 (if u.clipped then 1 else 0) ++ zeros 2 ++ leBytes 4 u.lr.toNat ++
  leBytes 4 u.gnorm.toNat ++ leBytes 4 u.wnorm.toNat ++ leBytes 4 u.unorm.toNat ++ leBytes 4 u.ratio.toNat ++ zeros 4

/-- The engine's current update. -/
def setUpdating (s : State) (die : Nat) (u : Option Updating) : State := modDie s die (fun d => { d with cur := u })

/-- An update gets its outcome. -/
def decide_ (s : State) (die : Nat) (u : Updating) (o : Nat) : State := setUpdating s die (some { u with outcome := some o })

/-- UPDATE_GROUP_START: the engine takes its next pending group and checks it (R291, R292); a frozen group, a rejected
group and one with nothing to do have their outcome at once and release their gradient. A group of no elements whose start word
asks for step 0 ends with outcome 4 (DEDUCED, log 22). -/
def execUpdateGroupStart (die : Nat) (s : State) : Out :=
  onUnit (dieOk s die)
    (let d := getDie s die
     match d.cur, d.queue with
     | none, (part, g) :: rest =>
       let s0 := setDie s die { d with queue := rest }
       match getPart s0 part with
       | none => s0
       | some pt =>
         let s1 := setGf s0 part g 148 1 2
         let u : Updating := { part := part, group := g, t := (gStep pt g + 1) % 2 ^ 32, pass := 1 }
         let now (s : State) (u : Updating) (o : Nat) : State := releaseGrad (decide_ s die { u with released := true } o) part g
         if groupReserved pt g || zeroStep pt g then now s1 u 4
         else if gRows pt g = 0 ∨ gCols pt g = 0 then now s1 u 5
         else
           match readSchedule s1 part g with
           | (s2, .error o) => now s2 u o
           | (s2, .ok pts) =>
             let v (j : Nat) : W32 := scheduleAt pts u.t j
             let u1 : Updating := { u with lr := v 0, wd := v 1, b1 := v 2, b2 := v 3 }
             if pts = [] then now s2 u 5
             else if groupInvalid pt g then now s2 u1 4
             else if gFlag pt g 0 then
               let s3 := setGf s2 part g 152 4 (min 0xFFFFFFFF (gf pt g 152 4 + 1))
               if gFlag pt g 1 then
                 now (postEvent s3 die { code := 0x8B, part := part, detail := leBytes 1 g, by_ := detUpdate die }) u1 2
               else now s3 u1 1
             else setUpdating s2 die (some u1)
     | _, _ => s)

/-- Norms and factors that pass 1 finds (R287). -/
def passOne (pt : Part) (g : Nat) (c : Coef) (a : Arrays) (u : Updating) : Updating :=
  let rule := gRule pt g
  let raw := a.g.map (gradOf pt g 0 false)
  let gn := norm raw
  let clip := gw pt g 64
  let clipped := !isNan clip && !isNan gn && !fneg clip && !isZero clip && decide (fcmp gn clip > 0)
  let f := if clipped then fdivR clip gn else one32
  let wn := norm a.w
  if rule = 2 then
    let ms := (a.m.zip raw).map (fun x => newM rule c x.1 x.2)
    let vs := (a.v.zip raw).map (fun x => newV c x.1 x.2)
    let us := (a.w.zip (ms.zip vs)).map (fun x => u2Of c x.1 x.2.1 x.2.2)
    let un := norm us
    let phi := if isZero wn || isZero un then one32 else fmin (fdivR wn un) (gw pt g 68)
    { u with gnorm := gn, wnorm := wn, unorm := un, ratio := phi, factor := f, clipped := clipped }
  else if rule = 3 then
    let mm := rowDot a.m a.m; let mg := rowDot a.m raw; let gg := rowDot raw raw
    let sq := fadd (fadd (fmul (fmul c.b1 c.b1) mm) (fmul (fmul 0x40000000 (fmul c.b1 f)) mg)) (fmul (fmul f f) gg)
    { u with gnorm := gn, wnorm := wn, unorm := fsqrt sq, factor := f, clipped := clipped }
  else { u with gnorm := gn, wnorm := wn, factor := f, clipped := clipped }

/-- UPDATE_PASS_1_END: pass 1 ends (R287, R294): a read failure is outcome 3, a gradient that is not finite outcome 6, with the norms that the
pass has formed; U3
writes ns_par and raises its orthogonalisation cores; the others go on to pass 2. -/
def execUpdatePass1End (die : Nat) (s : State) : Out :=
  onUnit (dieOk s die)
    (match (getDie s die).cur with
     | none => s
     | some u =>
       if u.pass ≠ 1 ∨ u.outcome.isSome then s
       else
         match getPart s u.part with
         | none => s
         | some pt =>
           let g := u.group
           match readArrays s u.part g (gSize pt g) with
           | (s2, none) => decide_ s2 die u 3
           | (s2, some a) =>
             let u0 : Updating := { u with p1 := fpow (Config.freeValue s2.freeSeq 0) u.b1 u.t, p2 := fpow (Config.freeValue s2.freeSeq 1) u.b2 u.t }
             let c := coefOf pt u0
             let u1 := passOne pt g c a u0
             let s3 := useFree s2
             if a.g.any (fun x => !isFinite (gradOf pt g 0 false x)) then decide_ s3 die u1 6
             else if gRule pt g = 3 then
               let par := leBytes 4 c.b1.toNat ++ leBytes 4 (fmul (gw pt g 60) u1.factor).toNat ++
                 leBytes 4 (fdivR one32 (fadd u1.unorm c.eps)).toNat ++ zeros 4
               let s4 := modPart s3 u.part (fun p => { p with area := writeBytes p.area (groupBase g + 160) par })
               let s5 := (List.range (gf pt g 84 2)).foldl (fun s i => updateRaise s u.part (gf pt g 82 2 + i) (gf pt g 79 1) 1) s4
               setUpdating s5 die (some { u1 with pass := 3 })
             else setUpdating s3 die (some { u1 with pass := 2 }))

/-- UPDATE_RESUME_WORD: the writes that cover the resume word are counted while the group waits (R294). -/
def execUpdateResumeWord (part group : Nat) (s : State) : Out :=
  onUnit (decide (part < 64 ∧ group < 256))
    (match takeTouch s part (groupBase group + 136) with
     | none => s
     | some (s1, _) =>
       match getPart s1 part with
       | none => s1
       | some pt =>
         let die := gDie pt group
         match (getDie s1 die).cur with
         | none => s1
         | some u =>
           if u.part = part ∧ u.group = group ∧ u.pass = 3 then
             let n := u.resumes + 1
             setUpdating s1 die (some { u with resumes := n, pass := if n ≥ gf pt group 84 2 then 2 else 3 })
           else s1)

/-! ### Pass 2 (R285, R287, R288) -/

/-- Index in tile order of element (r, c) (R285). -/
def tileIndex (cols r c : Nat) : Nat := 1024 * (r / 32 * (cols / 32) + c / 32) + 32 * (r % 32) + c % 32

/-- Write an FP32 array. -/
def writeF (s : State) (part die a : Nat) (l : List W32) : State :=
  (putMem s part die a (l.flatMap (fun x => leBytes 4 x.toNat))).1

/-- The working copy of the first `tiles` tiles: one B panel per 32-column strip, whose K-block groups the sweep completes tile by
tile (R285, R287). `offs` holds the bytes written of each panel. The lanes' states at the start are free. -/
def writeCopy (s : State) (part g tiles : Nat) (w : List W32) : State :=
  match getPart s part with
  | none => s
  | some pt =>
    let q := gQcw pt g; let n := gf pt g 4 2
    let lanes0 : Tbl W32 := (List.range 64).foldl (fun t l => tset 0 t l (BitVec.ofNat 32 (Config.freeValue s.freeSeq (16 + l)))) []
    ((List.range tiles).foldl (fun (a : State × Tbl W32 × Tbl Nat) k =>
      let (s, lanes, offs) := a
      let p := k % n
      let o := (List.range 32).foldl (fun o j =>
        quantBlock q o ((List.range 32).map (fun i => w.getD (tileIndex (32 * n) (32 * (k / n) + i) (32 * p + j)) 0))) ({ lanes := lanes } : QuantOut)
      let l := quantGroup q 1 o 0
      ((putMem s part (gDie pt g) (gf pt g 32 6 + p * gf pt g 38 2 * 4096 + tget 0 offs p) l).1, o.lanes, tmod 0 offs p (· + l.length)))
      (useFree s, lanes0, [])).1

/-- Write the results of the first `k` elements, and the working copy of the tiles that they fill. -/
def sweepWrite (s : State) (die : Nat) (u : Updating) (pt : Part) (k : Nat) (a : Arrays) (xs : List W32) : State :=
  let g := u.group
  let rule := gRule pt g
  let c := coefOf pt u
  let gs := a.g.map (gradOf pt g u.factor u.clipped)
  let ms := (a.m.zip gs).map (fun x => newM rule c x.1 x.2)
  let vs := (a.v.zip gs).map (fun x => newV c x.1 x.2)
  let f : W32 := if rule = 3 then fsqrt (fmax one32 (fdivR (natF (gRows pt g)) (natF (gCols pt g)))) else u.ratio
  let ws := (List.range k).map (fun i => newW rule c f (a.w.getD i 0) (ms.getD i 0) (vs.getD i 0) (xs.getD i 0))
  let s1 := writeF (writeF s u.part die (gf pt g 14 6) ws) u.part die (gf pt g 20 6) ms
  let s2 := if rule = 1 ∨ rule = 2 then writeF s1 u.part die (gf pt g 26 6) vs else s1
  if gFlag pt g 2 then writeCopy s2 u.part g (k / 1024) ws else s2

/-- Pass 2: new w, m and v of every element, and the working copy. At a read that fails under R252 the elements before it are updated, the
rest is unchanged and the outcome is 3 (R288). The state, and the outcome. -/
def sweep (s : State) (die : Nat) (u : Updating) : State × Nat :=
  match getPart s u.part with
  | none => (s, 3)
  | some pt =>
    let g := u.group
    let n := gSize pt g
    let k := goodElems s pt u.part g n
    match readArrays s u.part g k with
    | (s1, none) => (s1, 3)
    | (s1, some a) =>
      match (if gRule pt g = 3 then readF s1 u.part die (gf pt g 86 6) k else (s1, some [])) with
      | (s2, none) => (s2, 3)
      | (s2, some xs) =>
        let s3 := sweepWrite s2 die u pt k a xs
        if k = n then (s3, 0)
        else ((readBases pt g).foldl (fun s a => (readF s u.part die (a + 4 * k) 1).1) s3, 3)

/-- The last element of g has been read in pass 2: the sweep is done, and the gradient is released (R293). -/
def finishPass2 (s : State) (die : Nat) (u : Updating) : State :=
  let (s1, o) := sweep s die u
  releaseGrad (setUpdating s1 die (some { u with outcome := some o, released := true })) u.part u.group

/-- GRADIENT_RELEASE. -/
def execGradientRelease (die : Nat) (s : State) : Out :=
  onUnit (dieOk s die)
    (match (getDie s die).cur with
     | none => s
     | some u => if u.pass = 2 ∧ u.outcome = none then finishPass2 s die u else s)

/-- Status of the event of an outcome (R293). -/
def outcomeStatus (o : Nat) : Nat := if o = 1 then stFrozenSkip else if o = 4 then stInvalid else stOk

/-- An update with an outcome ends: step, statistics, events, raises (R291, R293). -/
def endUpdate (s : State) (die : Nat) (u : Updating) (o : Nat) : State :=
  match getPart s u.part with
  | none => setUpdating s die none
  | some pt =>
    let g := u.group
    let s1 := if u.released then s else releaseGrad s u.part g
    let s2 := if o = 0 ∨ o = 5 then setGf s1 u.part g 144 4 u.t else s1
    let s3 := setGf s2 u.part g 148 1 (if gf pt g 148 1 = 3 then 1 else 0)
    let stat := statBytes u o
    let s4 := (putMem s3 u.part die (gf pt g 92 6) stat).1
    let s5 := if o = 1 ∨ o = 4 ∨ o = 6 then
                jobEvent s4 u.part 0x0285 (outcomeStatus o) (leBytes 1 g ++ zeros 3 ++ stat) else s4
    let s6 := if o = 2 ∨ o = 3 ∨ o = 4 ∨ o = 6 then updateRaise s5 u.part (gf pt g 72 2) (gf pt g 76 1) 1 else s5
    setUpdating (updateRaise s6 u.part (gf pt g 72 2) (gf pt g 74 1) (gf pt g 75 1)) die none

/-- UPDATE_GROUP_END: an update that has its outcome ends; one in pass 2 that has not yet released its gradient sweeps
first. -/
def execUpdateGroupEnd (die : Nat) (s : State) : Out :=
  onUnit (dieOk s die)
    (match (getDie s die).cur with
     | none => s
     | some u =>
       let s1 := if u.pass = 2 ∧ u.outcome = none then finishPass2 s die u else s
       match (getDie s1 die).cur with
       | none => s1
       | some v =>
         match v.outcome with
         | none => s1
         | some o => endUpdate s1 die v o)

end Sys2Proof.Machine
end

