-- ==== Sys2Proof/Machine/Reduction.lean ====
section
/-! DEFINITION. Collective reduction (R262 to R283, R295): bucket descriptors and geometry, die reduction units, the hub's
engine, arrivals from peers, digest lists, shadows, the log, the life cycle of a bucket. -/

namespace Sys2Proof.Machine

/-! ### The descriptor and the geometry (R264, R266, R271) -/

def bRearm (b : Bucket) : Bool := (numAt b.desc 2 1).testBit 0
def bFallback (b : Bucket) : Bool := (numAt b.desc 2 1).testBit 1
def bPeers (b : Bucket) : Nat := numAt b.desc 3 1 + 1
def bRank (b : Bucket) : Nat := if (numAt b.desc 5 1).testBit 7 then numAt b.desc 5 1 % 64 else numAt b.desc 4 1
def bShadow (b : Bucket) : Bool := (numAt b.desc 5 1).testBit 7
def bTiles (b : Bucket) : Nat := numAt b.desc 6 2
def bLog2 (b : Bucket) : Nat := numAt b.desc 8 1
def bLocal (b : Bucket) (s : Nat) : Nat := numAt b.desc (16 + 2 * s) 2
def bAcc (b : Bucket) (s : Nat) : Nat := numAt b.desc (24 + 6 * s) 6
def bRes (b : Bucket) : Nat := numAt b.desc 48 6
def bLogBase (b : Bucket) : Nat := numAt b.desc 54 6
def bLogLen (b : Bucket) : Nat := numAt b.desc 60 2

/-- Owner die slot of a tile among `D` slots. -/
def ownerSlot (D t : Nat) : Nat := t % max 1 D

/-- Owner rank and owned index of a tile. -/
def ownerRank (b : Bucket) (t : Nat) : Nat := t / 2 ^ bLog2 b % bPeers b
def ownedIndex (b : Bucket) (t : Nat) : Nat := t / 2 ^ bLog2 b / bPeers b * 2 ^ bLog2 b + t % 2 ^ bLog2 b

/-- Contributions that slot `d` expects at tile `t` (R271, R277). -/
def expected (b : Bucket) (D d t : Nat) : Nat :=
  let own := if bFallback b then min 1 (bLocal b d) else bLocal b d
  if d ≠ ownerSlot D t then own
  else own + ((List.range D).filter (fun s => s != d && decide (bLocal b s > 0))).length

/-- Tiles that a rank owns. -/
def tilesOf (b : Bucket) (r : Nat) : List Nat := (List.range (bTiles b)).filter (fun t => ownerRank b t == r)

/-- Other ranks with which the device exchanges totals: a shadow sends to its primary as well. -/
def otherRanks (b : Bucket) : List Nat := (List.range (bPeers b)).filter (fun r => bShadow b || r != bRank b)

/-- Key of a slot's count at a tile. -/
def countKey (d t : Nat) : Nat := 4096 * d + t

/-- Partition of a bucket. -/
def bucketPart (s : State) (tag : Nat) : Option Part := getPart s (getBucket s tag).part

/-! ### Log and events (R283, R412) -/

/-- A log entry. -/
def logBytes (b : Bucket) (tile rank kind : Nat) (digest : W32) : List Byte :=
  leBytes 4 b.round ++ leBytes 2 tile ++ leBytes 1 rank ++ leBytes 1 kind ++ leBytes 4 digest.toNat ++ leBytes 4 (b.logNo % 2 ^ 32)

/-- Write the next log entry. -/
def logEntry (s : State) (tag tile rank kind : Nat) (digest : W32) : State :=
  let b := getBucket s tag
  if bLogLen b = 0 then s
  else
    let die := ((bucketPart s tag).map (·.die)).getD 0
    let s1 := setBucket s tag { b with logNo := b.logNo + 1 }
    (putMem s1 b.part die (bLogBase b + b.logNo % bLogLen b * 16) (logBytes b tile rank kind digest)).1

/-- JOB_BUCKET. -/
def bucketEvent (s : State) (tag : Nat) (entry : List Byte) : State :=
  let b := getBucket s tag
  jobEvent s b.part 0x0284 stOk (leBytes 2 tag ++ leBytes 1 b.state ++ leBytes 1 b.reason ++ leBytes 4 b.round ++ slice entry 0 16)

/-! ### DONE and FAILED (R278 to R280) -/

/-- The hub makes its raises in order, each after the acknowledgement of the one before (R279). -/
def beginRaises (s : State) (tag : Nat) (l : List (Nat × Nat × Nat)) : State :=
  let b := getBucket s tag
  let s1 := setBucket s tag { b with raises := l }
  match l, getPart s b.part with
  | (n, i, v) :: _, some pt => if n < coresOf pt then hubRaise s1 (logAt pt n) tag i v else setBucket s1 tag { b with raises := [] }
  | _, _ => s1

/-- The raise of notify_sync, where it asks for one. -/
def notifyRaise (b : Bucket) : List (Nat × Nat × Nat) :=
  if numAt b.desc 13 1 = 0 then [] else [(numAt b.desc 10 2, numAt b.desc 12 1, numAt b.desc 13 1)]

/-- The bucket fails: nothing further is sent for the round. -/
def failBucket (s : State) (tag reason : Nat) (unit : Nat := 4) : State :=
  let b := getBucket s tag
  if b.state ≠ 1 then s
  else
    let s1 := setBucket s tag { b with state := 3, reason := reason }
    let s2 := bucketEvent s1 tag []
    let s3 := if reason = 2 ∨ reason = 3 then
        let key := screeKey 0x0B unit
        jobFault (devFault { s2 with history := tmod [] s2.history key (fun l => ((devSec s2, reason) :: l).take 255) } 10 0x0B unit []) b.part 10 0x0B unit []
      else s2
    beginRaises s3 tag ((numAt b.desc 10 2, numAt b.desc 14 1, 1) :: notifyRaise b)

/-- Groups linked to a bucket, by entry number. -/
def linkedGroups (pt : Part) (tag : Nat) : List Nat :=
  (List.range 256).filter (fun g => gFlag pt g 3 && gf pt g 54 2 == tag)

/-- The DONE condition (R276, R278): an owned tile is final when an arrival of every rank has been applied (R274). -/
def bucketComplete (b : Bucket) : Bool :=
  let totals := decide (b.taken ≥ bTiles b ∧ b.unacked = 0)
  let lists := (otherRanks b).all (fun r => b.listsOut.contains r)
  if bShadow b then totals && lists
  else
    totals && lists && (otherRanks b).all (fun r => b.listsIn.contains r) &&
    (tilesOf b (bRank b)).all (fun t => (List.range (bPeers b)).all (fun r => b.arrived.any (fun e => e.1 == r && e.2.1 == t)))

/-- Enter DONE when the condition holds: the event, the raises, and the start of the linked groups (R279, R291). -/
def bucketCheck (s : State) (tag : Nat) : State :=
  let b := getBucket s tag
  if b.state = 1 ∧ (bTiles b = 0 ∨ bucketComplete b) then
    let gs := ((getPart s b.part).map (fun pt => linkedGroups pt tag)).getD []
    let s1 := setBucket s tag { b with state := 2, pend := gs }
    let s2 := beginRaises (bucketEvent s1 tag []) tag (notifyRaise b)
    gs.foldl (fun s g => startGroup s b.part g) s2
  else s

/-! ### Peers: totals, lists, arrivals (R273 to R276) -/

/-- The entry of a rank in the peer table: queue pair, rkey, address. -/
def peerOf (b : Bucket) (r : Nat) : Nat × Nat × Nat := b.peers.getD r (0, 0, 0)

/-- Parity of the current round. -/
def parityBit (b : Bucket) : Nat := if b.parity then 1 else 0

/-- Immediate of a total. -/
def immOfTotal (b : Bucket) (tag t : Nat) : Nat :=
  tag + 2 ^ 10 * t + 2 ^ 22 * bRank b + (if bShadow b then 2 ^ 28 else 0) + 2 ^ 29 * parityBit b

/-- A digest list for a rank. -/
def listBytes (b : Bucket) (tag r : Nat) : List Byte :=
  let l := (tilesOf b r).filterMap (fun t => (b.sent.find? (fun e => e.1 == r && e.2.1 == t)).map (fun e => (t, e.2.2)))
  leBytes 2 tag ++ leBytes 1 (bRank b + (if bShadow b then 64 else 0) + 128 * parityBit b) ++ zeros 1 ++ leBytes 4 l.length ++
  l.flatMap (fun e => leBytes 2 e.1 ++ zeros 2 ++ leBytes 4 e.2.toNat)

/-- After the last total to a rank, its digest list follows on the same queue pair. -/
def sendLists (s : State) (tag : Nat) : State :=
  (otherRanks (getBucket s tag)).foldl (fun s r =>
    let b := getBucket s tag
    if b.state ≠ 1 ∨ b.listsOut.contains r ∨ (tilesOf b r).any (fun t => !(b.sent.any (fun e => e.1 == r && e.2.1 == t))) then s
    else
      let l := listBytes b tag r
      let s1 := setBucket s tag { b with listsOut := r :: b.listsOut, unacked := b.unacked + 1 }
      sendOn s1 (peerOf b r).1 { psn := 0, kind := 4, data := l, len := l.length, job := tag, closes := b.closes }) s

/-- Lane-wise FP32 sum of two tiles. -/
def addTiles (a l : List Byte) : List Byte :=
  (List.range 1024).flatMap (fun n =>
    leBytes 4 (fadd (BitVec.ofNat 32 (numAt a (4 * n) 4)) (BitVec.ofNat 32 (numAt l (4 * n) 4))).toNat)

/-- Store the first arrival at a result place, add a later one; a failed access fails the bucket. -/
def applyArrival (s : State) (tag rank tile : Nat) (l : List Byte) (digest : W32) : State :=
  let b := getBucket s tag
  let die := ((bucketPart s tag).map (·.die)).getD 0
  let a := bRes b + ownedIndex b tile * 4096
  let n := tget 0 b.final tile
  let note (s : State) : State :=
    modBucket s tag (fun b => { b with final := tset 0 b.final tile (n + 1), arrived := b.arrived ++ [(rank, tile, digest)] })
  let put (s : State) (l : List Byte) : State :=
    match putMem s b.part die a l with
    | (s1, none) => note s1
    | (s1, some _) => failBucket s1 tag 6
  if n = 0 then put s l
  else
    match getMem s b.part die a 4096 with
    | (s1, old, none) => put s1 (addTiles old l)
    | (s1, _, some _) => failBucket s1 tag 6

/-- A total meets a shadow's digest of the same tile and rank, or the reverse: a difference is logged and raised as an
event (R276). -/
def shadowCompare (s : State) (tag rank tile : Nat) (mine : W32) (others : List (Nat × Nat × W32)) : State :=
  match others.find? (fun e => e.1 == rank && e.2.1 == tile) with
  | none => s
  | some e =>
    if e.2.2 = mine then s
    else bucketEvent (logEntry s tag tile rank 4 mine) tag (logBytes (getBucket s tag) tile rank 4 mine)

/-- An arrival from a peer (R274, R276): `true` acknowledged, `false` answered with RNR NAK. A contribution of the next round that
meets a bucket held in DONE before its rearm is retried (R295). -/
def peerArrival (s : State) (part addr : Nat) (imm : W32) (l : List Byte) : State × Bool :=
  let tag := fld imm 9 0; let t := fld imm 21 10; let r := fld imm 27 22
  let b := getBucket s tag
  let digest := crc32c l
  let next := decide (b.state = 2 ∧ b.part = part) && bRearm b && !(bit imm 28) && bit imm 29 != b.parity
  let misplaced : Bool := decide (t ≥ bTiles b ∨ ownerRank b t ≠ bRank b ∨ addr ≠ bRes b + ownedIndex b t * 4096) || bShadow b
  if next then (s, false)
  else if b.state ≠ 1 ∨ b.part ≠ part then (modBucket s tag (fun b => { b with late := b.late + 1 }), true)
  else if bit imm 28 then
    if bit imm 29 ≠ b.parity then (logEntry s tag t r 5 digest, true)
    else if misplaced then (failBucket s tag 3, true)
    else
      let s1 := modBucket (logEntry s tag t r 3 digest) tag (fun b => { b with shadow := b.shadow ++ [(r, t, digest)] })
      (shadowCompare s1 tag r t digest b.arrived, true)
  else if bit imm 29 ≠ b.parity then (s, false)
  else if misplaced then (failBucket s tag 3, true)
  else
    let s1 := applyArrival (logEntry s tag t r 2 digest) tag r t l digest
    (bucketCheck (shadowCompare s1 tag r t digest b.shadow) tag, true)

/-- A digest list arrives (R275, R276); one of another round or of a closed tag is discarded. -/
def listArrival (s : State) (part : Nat) (l : List Byte) : State :=
  let tag := numAt l 0 2 % 1024
  let who := numAt l 2 1
  let r := who % 64
  let n := numAt l 4 4
  let b := getBucket s tag
  let ents := (List.range n).map (fun i => (numAt l (8 + 8 * i) 2, (BitVec.ofNat 32 (numAt l (12 + 8 * i) 4) : W32)))
  if b.state ≠ 1 ∨ b.part ≠ part ∨ who.testBit 7 ≠ b.parity then s
  else if who.testBit 6 then
    ents.foldl (fun s e => shadowCompare s tag r e.1 e.2 (getBucket s tag).shadow) s
  else
    let mine := (b.arrived.filter (fun e => e.1 == r)).map (fun e => e.2)
    let same := ents.all (fun e => mine.contains e) && mine.all (fun e => ents.contains e)
    if same then bucketCheck (setBucket s tag { b with listsIn := r :: b.listsIn }) tag
    else failBucket s tag 3

/-- A message of a bucket has been acknowledged by its receiver; one of an opening that has been closed counts for nothing (R278, R281). -/
def peerAcked (s : State) (tag closes : Nat) : State :=
  if (getBucket s tag).closes = closes then bucketCheck (modBucket s tag (fun b => { b with unacked := b.unacked - 1 })) tag else s

/-! ### Die units (R269 to R271, R277) -/

/-- A unit sends a tile: kind 2 to another die's unit, over Ox links; kind 3 to the hub, over its die's hub link (R269, R271). -/
def sendTile (s : State) (tag d die dst t kind : Nat) (l : List Byte) : State :=
  let x := 1024 * die + 51
  let opener := leBytes 2 t ++ leBytes 1 kind ++ [BitVec.ofNat 8 (2 * parityBit (getBucket s tag))] ++ leBytes 4 (crc32c l).toNat ++
    leBytes 2 x ++ [128, BitVec.ofNat 8 (if kind = 2 then d else 0)] ++ zeros 20
  sendCells s x (mkCell 0x0C 32 dst x tag opener :: dataCells 0x01 dst x tag 128 l)

/-- The owner's unit sends a device total to the hub. -/
def sendTotal (s : State) (tag : Nat) (dies : List Nat) (t : Nat) (l : List Byte) : State :=
  let o := ownerSlot dies.length t
  sendTile s tag o (dies.getD o 0) (1024 * dies.getD o 0 + 50) t 3 l

/-- A tile of slot `d` is complete: its partial goes to the owner's unit, the owner's sum to the hub. -/
def forward (s : State) (tag d t : Nat) : State :=
  let b := getBucket s tag
  match bucketPart s tag with
  | none => s
  | some pt =>
    let dies := dieSlots pt
    match getMem s b.part (dies.getD d 0) (bAcc b d + 4096 * t) 4096 with
    | (s1, _, some _) => failBucket s1 tag 6
    | (s1, l, none) =>
      let o := ownerSlot dies.length t
      if d = o then sendTotal s1 tag dies t l else sendTile s1 tag d (dies.getD d 0) (1024 * dies.getD o 0 + 51) t 2 l

/-- A contribution is applied whole: stored when it is the tile's first, added otherwise. -/
def applyTile (s : State) (tag d t : Nat) (l : List Byte) : State :=
  let b := getBucket s tag
  match bucketPart s tag with
  | none => s
  | some pt =>
    let die := (dieSlots pt).getD d 0
    let a := bAcc b d + 4096 * t
    let n := tget 0 b.counts (countKey d t)
    let go (s : State) (l : List Byte) : State :=
      match putMem s b.part die a l with
      | (s1, some _) => failBucket s1 tag 6
      | (s1, none) =>
        let s2 := modBucket s1 tag (fun b => { b with counts := tset 0 b.counts (countKey d t) (n + 1) })
        if n + 1 = expected b (dieSlots pt).length d t then forward s2 tag d t else s2
    if n = 0 then go s l
    else
      match getMem s b.part die a 4096 with
      | (s1, _, some _) => failBucket s1 tag 6
      | (s1, old, none) => go s1 (addTiles old l)

/-- The slot's own part of a fallback bucket is not complete yet, so that partials of other dies wait (R277). -/
def slotWaits (b : Bucket) (d : Nat) : Bool :=
  bFallback b && decide (bLocal b d > 0 ∧ tget 0 b.starts d < bLocal b d)

/-- WRITE_ACK status of a transfer that has ended at the unit of a die, and the reason for which it fails the bucket. -/
def reduceVerdict (s : State) (die : Nat) (o : OpenX) : Nat × Option Nat :=
  let b := getBucket s o.tag
  let slot := ((bucketPart s o.tag).map (fun pt => indexIn (dieSlots pt) die)).getD none
  let fromHere := o.kind == 2 || partAt s o.src == some b.part
  if o.closes ≠ b.closes then (3, none)
  else if o.count ≠ 0 then (2, some 2)
  else if crc32c o.got ≠ o.cv then (1, some 2)
  else
    match slot, bucketPart s o.tag with
    | some d, some pt =>
      if b.state ≠ 1 ∨ fromHere = false ∨ o.kind = 0 ∨ o.kind > 2 ∨ o.tile ≥ bTiles b ∨
         tget 0 b.counts (countKey d o.tile) ≥ expected b (dieSlots pt).length d o.tile ∨ (o.kind = 1 ∧ bFallback b) then (3, none)
      else if o.flags % 2 = 1 then (0, some 1)
      else (0, none)
    | _, _ => (3, none)

/-- A transfer at the unit ends (R270). -/
def endTransfer (s : State) (die : Nat) (o : OpenX) : State :=
  let x := 1024 * die + 51
  let s1 := modEnd s x (fun e => { e with opens := e.opens.erase o })
  let (st, fail) := reduceVerdict s1 die o
  let s2 := match fail with
    | some r => failBucket s1 o.tag r die
    | none =>
      if st ≠ 0 then s1
      else
        match bucketPart s1 o.tag with
        | none => s1
        | some pt => applyTile s1 o.tag ((indexIn (dieSlots pt) die).getD 0) o.tile o.got
  sendAck s2 x o.ackTo o.tag 0 st 0

/-- A transfer that has ended, or has had no cell for 256 µs (R229), and that need not wait. -/
def transferEnded (s : State) (die : Nat) (o : OpenX) : Bool :=
  let b := getBucket s o.tag
  let slot := ((bucketPart s o.tag).map (fun pt => indexIn (dieSlots pt) die)).getD none
  o.red && (decide (o.count = 0 ∨ s.fab ≥ o.last + usCycles 256)) &&
  !(o.kind == 2 && o.count == 0 && b.state == 1 && slotWaits b (slot.getD 0))

/-- The transfer that a REDUCE opener opens (R269). -/
def redOpen (s : State) (c : Cell) : OpenX :=
  let b := c.bytes
  { src := c.src, tag := c.tag, addr := 0, bytes := 4096, count := 128, xfer := 0, cv := BitVec.ofNat 32 (numAt b 4 4),
    ackTo := numAt b 8 2 % 4096, flags := numAt b 3 1, status := 0, reply := false, last := s.fab, red := true, closes := (getBucket s c.tag).closes,
    tile := numAt b 0 2, kind := numAt b 2 1, slot := numAt b 11 1 }

/-- REDUCE: the unit of a die ends the oldest transfer that has come to its end, or opens the next one (R269, R270). A new
opener of a source that has one open ends that one incomplete. -/
def execReduce (die : Nat) (s : State) : Out :=
  onUnit (dieOk s die)
    (let x := 1024 * die + 51
     match (getEnd s x).opens.reverse.find? (transferEnded s die) with
     | some o => endTransfer s die o
     | none =>
       match headCell s x 0x0C with
       | none => s
       | some c =>
         let s0 := popCell s x
         let old := (getEnd s0 x).opens.find? (fun o => o.src == c.src && o.red && decide (o.count ≠ 0))
         let s1 := match old with
           | none => s0
           | some o => endTransfer s0 die o
         openNew s1 x (redOpen s1 c))

/-! ### The hub's engine (R273, R275, R276) -/

/-- A device total at the hub ends without all its cells, or with other bytes than its digest covers: the bucket fails with reason 0x02
(R229, R280; DEDUCED, log 73). -/
def totalBad (s : State) (x : Nat) (o : OpenX) : State :=
  let s1 := modEnd s x (fun e => { e with opens := e.opens.erase o })
  if (getBucket s o.tag).closes = o.closes then failBucket s1 o.tag 2 else s1

/-- The hub opens the device total whose opener stands at the hub link of a die. -/
def hubOpen (s : State) (die : Nat) : State :=
  let x := 1024 * die + 50
  match headCell s x 0x0C with
  | none => s
  | some c =>
    let s0 := popCell s x
    let s1 := match (getEnd s0 x).opens.find? (fun o => o.src == c.src && o.red && decide (o.count ≠ 0)) with
      | none => s0
      | some o => totalBad s0 x o
    openNew s1 x (redOpen s1 c)

/-- The total of a bucket and tile at a hub link that is whole, or has had no cell for 256 µs. -/
def hubTotal (s : State) (tag tile : Nat) : Option (Nat × OpenX) :=
  (List.range (dieCount s.product)).findSome? (fun d =>
    let x := 1024 * d + 50
    ((getEnd s x).opens.find? (fun o =>
      o.red && o.tag == tag && o.tile == tile && decide (o.count = 0 ∨ s.fab ≥ o.last + usCycles 256))).map (fun o => (x, o)))

/-- A device total goes to its owner: its own arrival, logged as received, or a write to the owner's window (R273, R274). -/
def routeTotal (s : State) (tag t : Nat) (l : List Byte) : State :=
  let b := getBucket s tag
  let digest := crc32c l
  let r := ownerRank b t
  let s1 := setBucket s tag { b with taken := b.taken + 1 }
  let s2 := if r = bRank b ∧ bShadow b = false then
              shadowCompare (applyArrival (logEntry s1 tag t r 2 digest) tag r t l digest) tag r t digest b.shadow
            else
              let (q, key, a) := peerOf b r
              let s2 := modBucket s1 tag (fun b => { b with sent := b.sent ++ [(r, t, digest)], unacked := b.unacked + 1 })
              sendOn (logEntry s2 tag t r 1 digest) q
                { psn := 0, kind := 3, addr := a + ownedIndex b t * 4096, rkey := key, imm := immOfTotal b tag t,
                  data := l, len := 4096, job := tag, closes := b.closes }
  bucketCheck (sendLists s2 tag) tag

/-- DEVICE_TOTAL: the hub's engine opens the totals whose openers have come, and takes the one of this bucket and tile once it is whole. One of a
bucket that is not OPEN, or of another round, is discarded. -/
def execDeviceTotal (tag tile : Nat) (s : State) : Out :=
  onUnit (decide (tag < 1024))
    (let s0 := (List.range (dieCount s.product)).foldl hubOpen s
     match hubTotal s0 tag tile with
     | none => s0
     | some (x, o) =>
       let b := getBucket s0 tag
       let s1 := modEnd s0 x (fun e => { e with opens := e.opens.erase o })
       if b.state ≠ 1 ∨ o.closes ≠ b.closes ∨ o.tile ≥ bTiles b ∨ (BitVec.ofNat 8 o.flags).getLsbD 1 ≠ b.parity then s1
       else if o.count ≠ 0 ∨ crc32c o.got ≠ o.cv then totalBad s0 x o
       else routeTotal s1 tag o.tile o.got)

/-- BUCKET_START_WORD: a write has covered a bucket's start word: one start of the writer's die slot (R277). -/
def execBucketStartWord (part tag : Nat) (s : State) : Out :=
  onUnit (decide (part < 64 ∧ tag < 1024))
    (match getPart s part with
     | none => s
     | some pt =>
       if tag < pt.bucketAt ∨ tag ≥ pt.bucketAt + pt.buckets then s
       else
         match takeTouch s part (8 * (tag - pt.bucketAt)) with
         | none => s
         | some (s1, die) =>
           let b := getBucket s1 tag
           match indexIn (dieSlots pt) die with
           | none => s1
           | some d =>
             if b.state ≠ 1 ∨ bFallback b = false then s1
             else
               let n := tget 0 b.starts d + 1
               let s2 := setBucket s1 tag { b with starts := tset 0 b.starts d n }
               if n ≠ bLocal b d then s2
               else
                 (List.range (bTiles b)).foldl (fun s t =>
                   let s3 := modBucket s tag (fun b => { b with counts := tset 0 b.counts (countKey d t) 1 })
                   if expected b (dieSlots pt).length d t = 1 ∧ (getBucket s3 tag).state = 1 then forward s3 tag d t else s3) s2)

/-! ### A tag in use (R281) -/

/-- The cell is one of a bucket's: to or from a reduction unit. -/
def tagCell (t : Nat) (c : Cell) : Bool :=
  c.tag == t && (c.src % 64 == 51 || c.dst % 64 == 51) && [0x01, 0x05, 0x0C].contains c.type

/-- A unit or port, or the way between them, still holds a transfer of a tag. -/
def tagHeld (s : State) (t : Nat) : Bool :=
  s.ends.any (fun e => e.2.opens.any (fun o => o.red && o.tag == t) || e.2.inbox.any (tagCell t) || e.2.outbox.any (tagCell t)) ||
  s.routers.any (fun r => r.2.buf.any (fun b => b.2.any (tagCell t))) ||
  s.qps.any (fun e => match e.2 with
    | none => false
    | some q => q.outstanding.any (fun m => decide (m.kind ≥ 3) && m.job == t))

/-- The tag is in the pool. -/
def tagFree (s : State) (t : Nat) : Bool :=
  !(s.parts.any (fun e => match e.2 with | none => false | some p => decide (p.bucketAt ≤ t ∧ t < p.bucketAt + p.buckets))) &&
  (getBucket s t).state == 0 && !tagHeld s t

/-- Uses of a tag that keep it out of the pool: the partitions whose range it lies in, or, for one in no range, a transfer that is still held. -/
def tagUses (s : State) (t : Nat) : Nat :=
  let n := (s.parts.filter (fun e => match e.2 with | none => false | some p => decide (p.bucketAt ≤ t ∧ t < p.bucketAt + p.buckets))).length
  if n = 0 ∧ !tagFree s t then 1 else n

/-! ### Rounds (R271, R278, R295) -/

/-- The bucket enters OPEN: counts cleared; tiles that no slot contributes to are sent as +0.0; peers that get no tile get
their empty list. -/
def openRound (s : State) (tag round : Nat) (parity : Bool) : State :=
  let b := getBucket s tag
  let dies := ((bucketPart s tag).map dieSlots).getD [0]
  let D := dies.length
  let zero := (List.range (bTiles b)).filter (fun t => expected b D (ownerSlot D t) t == 0)
  let b1 : Bucket := { b with state := 1, reason := 0, round := round, parity := parity, openedAt := s.fab, counts := [],
                              starts := [], taken := 0, final := [],
                              arrived := [], shadow := [], sent := [], unacked := 0, listsIn := [], listsOut := [],
                              raises := [], raiseBad := false, pend := [] }
  let s1 := setBucket s tag b1
  if bTiles b = 0 then bucketCheck s1 tag
  else sendLists (zero.foldl (fun s t => sendTotal s tag dies t (zeros 4096)) s1) tag

/-- BUCKET_REARM (R278, R279, R295). -/
def execBucketRearm (tag : Nat) (s : State) : Out :=
  onUnit (decide (tag < 1024))
    (let b := getBucket s tag
     if b.state = 2 ∧ bRearm b ∧ b.raises = [] ∧ b.raiseBad = false ∧ b.pend = [] then openRound s tag (b.round + 1) (!b.parity)
     else s)

/-- BUCKET_ROUND_TIMEOUT (R264, R278). -/
def execBucketRoundTimeout (tag : Nat) (s : State) : Out :=
  onUnit (decide (tag < 1024))
    (let b := getBucket s tag
     if b.state = 1 ∧ s.fab ≥ b.openedAt + usCycles (1000 * 2 ^ numAt b.desc 9 1) then failBucket s tag 4 else s)

end Sys2Proof.Machine
end

