-- ==== Sys2Proof/Machine/Tensor.lean ====
section
/-! DEFINITION. The tensor engine (R75 to R98, R515, R267, R268): starting an operation, loading K-block groups, stepping
K-blocks, draining a tile through its route with the exact checksums, completing. Started operations stand in `te.ops`,
oldest first. -/

namespace Sys2Proof.Machine

/-! ### The descriptor (R85 to R88) -/

def tOp (d : W512) : Nat := fld d 2 0
def tTile (d : W512) : Nat := fld d 4 3
def tClear (d : W512) : Bool := bit d 5
def tSat (d : W512) : Bool := bit d 6
def tKeep (d : W512) : Bool := bit d 7
def tFmt (d : W512) (b : Bool) : Nat := if b then fld d 13 11 else fld d 10 8
def tSrc (d : W512) (b : Bool) : Nat := if b then fld d 17 16 else fld d 15 14
def tK (d : W512) : Nat := fld d 26 18
def tAcc (d : W512) : Int := signed 8 (fld d 34 27)
def tOut (d : W512) : Nat := fld d 37 35
def tEsc (d : W512) (b : Bool) : Bool := if b then bit d 39 else bit d 38
def tOff (d : W512) (b : Bool) : Nat := if b then fld d 135 128 else fld d 71 64
def tRow (d : W512) (b : Bool) : Nat := if b then fld d 150 136 else fld d 86 72
def tQueue (d : W512) (b : Bool) : Nat := if b then fld d 154 151 else fld d 90 87
def tOutRow (d : W512) : Nat := fld d 206 192
def tPitch (d : W512) : Nat := fld d 214 207
def tOutQ (d : W512) : Nat := fld d 218 215
def tBucket (d : W512) : Nat := fld d 228 219
def tPos (d : W512) : Nat := fld d 240 229

def opMatmul : Nat := 1
def opDrain : Nat := 2
def opClear : Nat := 3

/-- Rows of core memory (R141). -/
def coreRows : Nat := 32768

/-- Slot of an operand's blocks. -/
def tSlot (d : W512) (b : Bool) : Nat := (slotBytes (tFmt d b) (tEsc d b)).getD 1024

/-- A reserved field is nonzero or a reserved encoding is used (reason 0x01). DESIGN CHOICE (log 71): R88 has a MATMUL of k_blocks 0 checked for reason 0x01
and its formats, sources and output route not checked; a reserved code in one of those fields is taken as reason 0x01, and rejects it. -/
def tReserved (d : W512) : Bool :=
  decide (fld d 63 40 ≠ 0 ∨ fld d 127 91 ≠ 0 ∨ fld d 191 155 ≠ 0 ∨ fld d 511 241 ≠ 0) ||
  (if tOp d = opMatmul then
     decide (tFmt d false > 4 ∨ tFmt d true > 4 ∨ tSrc d false = 3 ∨ tSrc d true = 3 ∨ tOut d > 5)
   else if tOp d = opDrain then decide (tOut d > 5)
   else decide (tOp d ≠ opClear))

/-- MATMUL with nothing to do (R88). -/
def tNothing (d : W512) : Bool := tOp d == opMatmul && tK d == 0

/-- The output extent or pitch of a core-memory route is out of range (reason 0x08). -/
def tOutBad (d : W512) : Bool :=
  (tOut d == 1 || tOut d == 2) && decide (tPitch d < 2 ∨ tOutRow d + 31 * tPitch d + 2 > coreRows)

/-- Reason of the descriptor's own checks, 0 when it passes (R87). -/
def tReason (d : W512) : Nat :=
  let beyond (b : Bool) : Bool := decide (tOff d b * 256 + tK d * tSlot d b > 65536)
  if tReserved d then 1
  else if tOp d = opClear then (if tK d ≠ 0 ∨ tOut d ≠ 0 then 0x0C else 0)
  else if tOp d = opDrain then (if tK d ≠ 0 ∨ tOut d = 0 then 0x0C else if tOutBad d then 8 else 0)
  else if tNothing d then 0
  else if tK d > 256 then 2
  else if tFmt d false = fT2 ∧ tFmt d true = fT2 then 4
  else if (slotBytes (tFmt d false) (tEsc d false)).isNone || (slotBytes (tFmt d true) (tEsc d true)).isNone then 5
  else if beyond false || beyond true then 3
  else if tOutBad d then 8
  else 0

/-- Detail of a DESCRIPTOR_FAULT (R87). -/
def tDetail (reason : Nat) (b : Bool) (k r : Nat) : W64 :=
  BitVec.ofNat 64 (reason + (if b then 256 else 0) + 512 * k + 2 ^ 18 * r)

/-! ### Operand buffers and side stores (R79, R80, R515) -/

def sideOf (t : Te) (b : Bool) : Tbl (Option SideEntry) := if b then t.sideB else t.sideA
def bufOf (t : Te) (b : Bool) : Tbl Byte := if b then t.bufB else t.bufA

/-- Unit at which block `k` of an operand starts. -/
def unitOf (d : W512) (b : Bool) (k : Nat) : Nat := tOff d b + k * tSlot d b / 256

/-- The first block of a resident operand that its side-store entry does not describe. -/
def badResident (t : Te) (d : W512) (b : Bool) : Option Nat :=
  if tSrc d b ≠ 0 then none
  else (List.range (tK d)).find? (fun k =>
    match tget none (sideOf t b) (unitOf d b k) with
    | none => true
    | some e => !(e.fmt == tFmt d b && e.esc == tEsc d b && e.slot == tSlot d b))

/-- Entries that describe a block with a byte in units `u` to `u + n − 1` describe none any more. -/
def dropSide (t : Tbl (Option SideEntry)) (u n : Nat) : Tbl (Option SideEntry) :=
  t.filter (fun e => match e.2 with
    | none => false
    | some x => !(decide (e.1 < u + n ∧ u < e.1 + x.slot / 256)))

/-- Element `(i, k)` of a block in buffer form: `i` the row of A or column of B. -/
def bufElem (m : Tbl Byte) (base bits i k : Nat) : Int :=
  decodeCode bits ((tget 0 m (base + 32 * (k * bits / 8) + i)).toNat >>> (k * bits % 8) % 2 ^ bits)

/-- A block in buffer form: `steps` array steps of 32 bytes. -/
def bufBytes (bits : Nat) (vals : List (List Int)) : List Byte :=
  let per := 8 / bits
  (List.range (32 / per)).flatMap (fun s => (List.range 32).map (fun i =>
    BitVec.ofNat 8 ((List.range per).foldr (fun j acc => unsigned bits ((vals.getD i []).getD (per * s + j) 0) + acc * 2 ^ bits) 0)))

/-- 2^e modulo 2^32 times a value. -/
def shl32 (v : Int) (e : Int) : W32 := BitVec.ofInt 32 (v * (2 ^ e.toNat : Nat))

/-- Least of the 32 exponents. -/
def leastOf (l : List Int) : Int := l.foldl min (l.headD 0)

/-- The side-store entry of a block (R80, R93). -/
def sideEntry (fmt : Nat) (esc : Bool) (slot : Nat) (g : Panel) : SideEntry :=
  let m := leastOf g.exps
  { fmt := fmt, esc := esc, slot := slot, exps := g.exps, least := m, wide := decide (g.marks ≠ 0),
    sums := (List.range 32).map (fun k =>
      (List.range 32).foldl (fun (a : W32) i => a + shl32 ((g.vals.getD i []).getD k 0) (g.exps.getD i 0 - m)) 0) }

/-- Width at which a block runs (R77, R80). -/
def widthOf (e : SideEntry) : Nat := if e.wide then 8 else elemBits e.fmt

/-- Compute cycles of one K-block (R77). -/
def stepCycles (a b : Nat) : Nat :=
  if max a b = 8 then (if min a b = 2 then 16 else 32) else if min a b = 2 then 8 else 16

/-! ### Order among started operations (R76, R82, R89) -/

/-- Groups that an operation loads in all. -/
def groupsOf (o : TeOp) : Nat :=
  (if tSrc o.desc false ≠ 0 then tK o.desc else 0) + (if tSrc o.desc true ≠ 0 then tK o.desc else 0)

/-- The operation still has groups to load. -/
def loading (o : TeOp) : Bool :=
  o.phase == .run && tOp o.desc == opMatmul && o.fault.isNone && decide (o.loaded < groupsOf o)

/-- K-blocks present for both operands. -/
def blocksReady (o : TeOp) : Nat :=
  let la := decide (tSrc o.desc false ≠ 0); let lb := decide (tSrc o.desc true ≠ 0)
  if la && lb then o.loaded / 2 else if la || lb then o.loaded else tK o.desc

/-- The operation stands between its first step and the verdict, or keeps the tile until the bucket has answered. -/
def holdsTile (t : Nat) (o : TeOp) : Bool :=
  tTile o.desc == t &&
  (o.phase == .drain || (tOut o.desc == 5 && !tKeep o.desc && (o.phase == .merge || o.phase == .answer || o.phase == .done)))

/-- An earlier operation of the list still drains tile `t`. -/
def drainPending (before : List TeOp) (t : Nat) : Bool := before.any (holdsTile t)

def tileOf (s : State) (p t : Nat) : Tile := tget {} (getCore s p).te.tiles t
def setTile (s : State) (p t : Nat) (v : Tile) : State :=
  modCore s p (fun c => { c with te := { c.te with tiles := tset {} c.te.tiles t v } })

/-- Operations of a core's TE. -/
def teOps (s : State) (p : Nat) : List TeOp := (getCore s p).te.ops

/-! ### Starting (R51, R87, R515) -/

/-- The operation at the head of the issue queue, with its descriptor, when its op is one of `ops`. -/
def teHead (s : State) (p : Nat) (ops : Nat → Bool) : State × Option (IssueOp × W512) :=
  match (getCore s p).qTe with
  | [] => (s, none)
  | o :: _ =>
    match readDesc s p o with
    | (s1, none) => (s1, none)
    | (s1, some d) => if ops (tOp d) then (s1, some (o, d)) else (s1, none)

/-- The head operation leaves the issue queue and starts, in the given form; the lend flag clears (R72). -/
def teStart (s : State) (p : Nat) (o : TeOp) : State :=
  stir (modCore s p (fun c => unstall { c with qTe := c.qTe.drop 1, te := { c.te with ops := c.te.ops ++ [o] } })) p

/-- Operand at fault in a check of the descriptor alone: the first of A and B for reasons 0x03 and 0x05, A otherwise (R87). -/
def faultyOperand (d : W512) (r : Nat) : Bool :=
  if r = 3 then !(decide (tOff d false + tK d * tSlot d false / 256 > 256)) && decide (tOff d true + tK d * tSlot d true / 256 > 256)
  else if r = 5 then (slotBytes (tFmt d false) (tEsc d false)).isSome
  else if r = 1 then tOp d == opMatmul && !decide (tFmt d false > 4 ∨ tSrc d false = 3 ∨ fld d 127 91 ≠ 0) &&
    decide (tFmt d true > 4 ∨ tSrc d true = 3 ∨ fld d 191 155 ≠ 0)
  else false

/-- The operation as it starts: rejected by a check, with nothing to do, or to be run (R87, R88, R515). -/
def teNew (s : State) (p : Nat) (o : IssueOp) (d : W512) : TeOp :=
  let t := (getCore s p).te
  let x : TeOp := { op := o, desc := d, rowA := tRow d false, rowB := tRow d true }
  let r := tReason d
  let stop (w : W64) : TeOp := { x with phase := .done, fault := some (causeDescriptor, w) }
  if r ≠ 0 then stop (tDetail r (faultyOperand d r) 0 0)
  else if tNothing d then { x with phase := .done }
  else if tOp d ≠ opMatmul then x
  else
    match badResident t d false, badResident t d true with
    | some k, _ => stop (tDetail 0x0D false k 0)
    | none, some k => stop (tDetail 0x0D true k 0)
    | none, none => x

/-- Operand whose group the load stage takes next: A before B of each K-block. -/
def nextGroup (o : TeOp) : Bool × Nat :=
  let la := decide (tSrc o.desc false ≠ 0); let lb := decide (tSrc o.desc true ≠ 0)
  if la && lb then (o.loaded % 2 == 1, o.loaded / 2) else (lb, o.loaded)

/-- The input queue that supplies a group does not hold all of it. -/
def groupShort (c : Core) (o : TeOp) (b : Bool) : Bool :=
  let v := tget ({} : InQ) c.inQ (tQueue o.desc b)
  let fmt := tFmt o.desc b; let esc := tEsc o.desc b
  tSrc o.desc b == 2 &&
  (match v.words with
   | [] => true
   | w :: _ =>
     let hdr := rowBytes w.data
     !headerBad fmt esc hdr && decide (v.words.length + v.used < groupRows fmt esc (if isBlock fmt then headerMarks fmt esc hdr else 0)))

/-- The queue on which an operation stalls (R182): an input queue that lacks the words it takes next, or a full output queue (`true`). -/
def teWait (c : Core) (o : TeOp) : Option (Bool × Nat) :=
  if loading o then
    let b := (nextGroup o).1
    if groupShort c o b then some (false, tQueue o.desc b) else none
  else if o.phase = .merge ∧ o.merged.length < 64 then
    let q := fld (tget (0 : W64) c.te.merge (tTile o.desc)) 4 1
    if (tget ({} : InQ) c.inQ q).words.isEmpty then some (false, q) else none
  else if o.phase = .deliver ∧ o.out ≠ [] ∧ (tget ({} : OutQ) c.outQ (tOutQ o.desc)).words.length ≥ outDepth then some (true, tOutQ o.desc)
  else none

/-- The TE may start an operation: its core runs, and no operation stalls on a queue (R182). -/
def teFree (s : State) (p : Nat) : Bool := runs s p && (teOps s p).all (fun o => (teWait (getCore s p) o).isNone)

/-- MATMUL: the TE starts it when no earlier operation is still loading (R76). A reserved op starts here and fails. -/
def execMatmul (core : Nat) (s : State) : Out :=
  onUnit (coreOk s core)
    (if !teFree s core || (teOps s core).any loading then s
     else
       match teHead s core (fun o => o != opDrain && o != opClear) with
       | (s1, none) => s1
       | (s1, some (o, d)) => teStart s1 core (teNew s1 core o d))

/-- TE_CLEAR: the TE starts a CLEAR once the products of earlier operations have entered the tile (R89). -/
def execTeClear (core : Nat) (s : State) : Out :=
  onUnit (coreOk s core)
    (if !teFree s core then s
     else
       match teHead s core (· == opClear) with
       | (s1, none) => s1
       | (s1, some (o, d)) =>
         let x := teNew s1 core o d
         if x.phase = .done then teStart s1 core x
         else if (teOps s1 core).any (fun y => y.phase == .run) || drainPending (teOps s1 core) (tTile d) then s1
         else setTile (teStart s1 core { x with phase := .done }) core (tTile d) {})

/-! ### Loading (R81, R82, R105 to R107) -/

/-- The group's bytes: `none` while they are not available; else its bytes, or the reason for which it is rejected. The narrow-part slots of marked
blocks are not read (R106). DESIGN CHOICE (log 71): the words of a streamed operand that an operation ending early has not taken, a rejected header
among them, stay in the input queue. -/
def fetchGroup (s : State) (p : Nat) (o : TeOp) (b : Bool) : State × Option (Except Nat (List VnWord)) :=
  let fmt := tFmt o.desc b; let esc := tEsc o.desc b
  let marksFor (hdr : List Byte) : Nat := if isBlock fmt then headerMarks fmt esc hdr else 0
  let rowsFor (hdr : List Byte) : Nat := groupRows fmt esc (marksFor hdr)
  if tSrc o.desc b = 1 then
    let row := if b then o.rowB else o.rowA
    if row ≥ coreRows then (s, some (.error 9))
    else
      match readCore s p (64 * row) 64 with
      | (s1, none) => (s1, none)
      | (s1, some hdr) =>
        if headerBad fmt esc hdr then (s1, some (.error 1))
        else if row + rowsFor hdr > coreRows then (s1, some (.error 9))
        else
          match readParts (fun s a n => readCore s p a n) (64 * row) (groupParts fmt esc (marksFor hdr)) s1 with
          | (s2, none) => (s2, none)
          | (s2, some l) => (s2, some (.ok ((List.range (rowsFor hdr)).map (fun i => { data := rowOf (l.drop (64 * i)) }))))
  else
    let q := tQueue o.desc b
    let v := getIn s p q
    match v.words with
    | [] => (s, none)
    | w :: _ =>
      if headerBad fmt esc (rowBytes w.data) then (s, some (.error 1))
      else
        let n := rowsFor (rowBytes w.data)
        if v.words.length + v.used < n then (s, none)
        else let (s1, l) := takeWords p q n s; (s1, some (.ok l))

/-- Bytes of buffer that an earlier operation's MAC stage still reads overlap those of the group (R82). -/
def bufferBusy (before : List TeOp) (b : Bool) (at_ n : Nat) : Bool :=
  before.any (fun y => y.phase == .run && tOp y.desc == opMatmul &&
    decide (at_ < 256 * tOff y.desc b + tK y.desc * tSlot y.desc b ∧ 256 * tOff y.desc b < at_ + n))

/-- Write a loaded block: its buffer form and its side-store entry. -/
def storeBlock (t : Te) (b : Bool) (u : Nat) (e : SideEntry) (g : Panel) : Te :=
  let bits := widthOf e
  let m := writeBytes (bufOf t b) (256 * u) (bufBytes bits g.vals)
  let sd := tset none (dropSide (sideOf t b) u (e.slot / 256)) u (some e)
  if b then { t with bufB := m, sideB := sd } else { t with bufA := m, sideA := sd }

/-- TE_BLOCK_LOAD: the load stage takes one K-block group of the operation that is loading (R81, R83, R87). -/
def execTeBlockLoad (core : Nat) (s : State) : Out :=
  onUnit (coreOk s core)
    (let ops := teOps s core
     match ops.findIdx? loading with
     | none => s
     | some i =>
       match ops[i]? with
       | none => s
       | some o =>
         let (b, k) := nextGroup o
         let u := unitOf o.desc b k
         if !runs s core || bufferBusy (ops.take i) b (256 * u) (tSlot o.desc b) then s
         else
           match fetchGroup s core o b with
           | (s1, none) => s1
           | (s1, some (.error r)) => modTe s1 core i (fun o => { o with fault := some (causeDescriptor, tDetail r b k 0) })
           | (s1, some (.ok l)) =>
             let fmt := tFmt o.desc b
             let g := groupOf fmt (tEsc o.desc b) (l.flatMap (fun w => rowBytes w.data))
             let e := sideEntry fmt (tEsc o.desc b) (tSlot o.desc b) g
             let s2 := modTe s1 core i (fun o =>
               { o with poison := o.poison || l.any (·.poison),
                        poisonQ := if !o.poison && l.any (·.poison) then tQueue o.desc b else o.poisonQ })
             match g.exps.findIdx? (fun x => decide (x - e.least > 31)) with
             | some r => modTe s2 core i (fun o => { o with fault := some (causeDescriptor, tDetail 7 b k r) })
             | none =>
               modTe (modCore s2 core (fun c => { c with te := storeBlock c.te b u e g })) core i (fun o =>
                 { o with loaded := o.loaded + 1, rowA := if b then o.rowA else o.rowA + g.rows,
                          rowB := if b then o.rowB + g.rows else o.rowB }))

/-! ### Stepping (R78, R83, R84, R93) -/

/-- One operand's block as the array sees it: elements by row or column, exponents, least exponent, sums. -/
structure Side where
  vals : List (List Int)
  e    : SideEntry

/-- The block of an operand in the buffer. -/
def readSide (t : Te) (d : W512) (b : Bool) (k : Nat) : Option Side :=
  (tget none (sideOf t b) (unitOf d b k)).map (fun e =>
    { vals := (List.range 32).map (fun i => (List.range 32).map (fun j => bufElem (bufOf t b) (256 * unitOf d b k) (widthOf e) i j))
      e := e })

/-- Inner product. -/
def dot (a b : List Int) : Int := (a.zip b).foldl (fun x y => x + y.1 * y.2) 0

/-- Outside the INT32 range. -/
def beyond32 (v : Int) : Bool := decide (v < -(2 ^ 31) ∨ v ≥ 2 ^ 31)

/-- Add a shifted block partial into a tile element. The first result outside the INT32 range, the shift's own included,
sets ovf and gives dir (R84): 1 holds a positive one, 2 a negative one. -/
def addElem (t : Tile) (key : Nat) (v : Int) : Tile :=
  let old : W32 := tget 0 t.val key
  let sum := old.toInt + v
  let first := if beyond32 v then v else sum
  { t with val := tset 0 t.val key (BitVec.ofInt 32 sum),
           ovf := if beyond32 first && tget 0 t.ovf key == 0 then tset 0 t.ovf key (if first ≥ 0 then 1 else 2) else t.ovf }

/-- The first row of A for which some shift of the block lies outside 0 to 31 (R83). -/
def badShift (a b : Side) (acc : Int) : Option Nat :=
  a.e.exps.findIdx? (fun x => !b.e.exps.all (fun y => decide (0 ≤ x + y - acc ∧ x + y - acc ≤ 31)))

/-- The tile after one K-block (R83, R93). -/
def stepTile (t : Tile) (a b : Side) (acc : Int) : Tile :=
  let ex (x : Side) (i : Nat) : Int := x.e.exps.getD i 0
  let t1 := (List.range 1024).foldl (fun t n =>
    let i := n / 32; let j := n % 32
    addElem t n (dot (a.vals.getD i []) (b.vals.getD j []) * (2 ^ (ex a i + ex b j - acc).toNat : Nat))) t
  let sa := a.e.sums.map (fun w => (w.toNat : Int)); let sb := b.e.sums.map (fun w => (w.toNat : Int))
  let y := (List.range 32).foldl (fun m j =>
    tset 0 m j (tget 0 m j + shl32 (dot sa (b.vals.getD j [])) (a.e.least + ex b j - acc))) t1.y
  let x := (List.range 32).foldl (fun m i =>
    tset 0 m i (tget 0 m i + shl32 (dot (a.vals.getD i []) sb) (ex a i + b.e.least - acc))) t1.x
  { t1 with x := x, y := y, z := t1.z + shl32 (dot sa sb) (a.e.least + b.e.least - acc) }

/-- The operation ends before block `k` with a fault that marks the tile bad. -/
def endBad (s : State) (p i : Nat) (o : TeOp) (f : Nat × W64) : State :=
  let t := tTile o.desc
  setTile (modTe s p i (fun o => { o with phase := .done, fault := some f })) p t { tileOf s p t with bad := true }

/-- TE_KBLOCK_STEP: the MAC stage takes the next K-block of the oldest operation that still steps (R78, R83, R89). DESIGN CHOICES (log 71): of a bad tile
and a load fault in block 0 the load fault is reported; a shift out of range, which has a row and a column, is reported as A's, with the first such row. -/
def execTeKblockStep (core : Nat) (s : State) : Out :=
  onUnit (coreOk s core)
    (let ops := teOps s core
     match ops.findIdx? (fun o => o.phase == .run) with
     | none => s
     | some i =>
       match ops[i]? with
       | none => s
       | some o =>
         let d := o.desc
         let t := tTile d
         if !runs s core || drainPending (ops.take i) t then s
         else if o.stepped ≥ blocksReady o then
           match o.fault with
           | none => s
           | some f => endBad s core i o f
         else if o.stepped = 0 ∧ tClear d = false ∧ (tileOf s core t).bad then
           modTe s core i (fun o => { o with phase := .done, fault := some (causeDescriptor, tDetail 0x0A false 0 0) })
         else
           let te := (getCore s core).te
           match readSide te d false o.stepped, readSide te d true o.stepped with
           | some a, some b =>
             match badShift a b (tAcc d) with
             | some r => endBad s core i o (causeDescriptor, tDetail 6 false o.stepped r)
             | none =>
               let t0 : Tile := if o.stepped = 0 ∧ tClear d then {} else tileOf s core t
               let s1 := setTile s core t (stepTile t0 a b (tAcc d))
               let s2 := modCore s1 core (fun c => { c with teBusy := c.teBusy + stepCycles (widthOf a.e) (widthOf b.e) })
               let last := o.stepped + 1 = tK d
               modTe s2 core i (fun o =>
                 { o with stepped := o.stepped + 1,
                          phase := if last then (if tOut d = 0 then .done else .drain) else .run })
           | _, _ => s)

/-! ### The checker (R95, R96, R98) -/

/-- Element of a tile. -/
def elemOf (t : Tile) (i j : Nat) : W32 := tget 0 t.val (32 * i + j)

/-- Sum of 32 words. -/
def sum32 (f : Nat → W32) : W32 := (List.range 32).foldl (fun a i => a + f i) 0

/-- The 66 differences: rows, columns, z1, z2. -/
def differences (t : Tile) : List W32 × List W32 × W32 × W32 :=
  ((List.range 32).map (fun i => sum32 (fun j => elemOf t i j) - tget 0 t.x i),
   (List.range 32).map (fun j => sum32 (fun i => elemOf t i j) - tget 0 t.y j),
   sum32 (fun j => tget 0 t.y j) - t.z,
   sum32 (fun i => tget 0 t.x i) - t.z)

/-- Index of the first nonzero difference, 32 when there is none. -/
def firstNonzero (l : List W32) : Nat := (l.findIdx? (fun x => x != 0)).getD 32

/-- Kind of a mismatch (R95). -/
def mismatchKind (r c : List W32) (z1 z2 : W32) : Nat :=
  let nr := (r.filter (· != 0)).length; let nc := (c.filter (· != 0)).length
  let z := z1 != 0 || z2 != 0
  if nr = 1 ∧ nc = 1 ∧ r.getD (firstNonzero r) 0 = c.getD (firstNonzero c) 0 ∧ z = false then 0
  else if ((nr ≥ 1 ∧ nc = 0) ∨ (nc ≥ 1 ∧ nr = 0)) ∧ z then 1
  else if nr = 0 ∧ nc = 0 then 2
  else 3

/-- The verdict on a tile: `none` when it passes, else the word of TE_ABFT_LAST. -/
def verdict (t : Tile) (tile : Nat) : Option W64 :=
  let (r, c, z1, z2) := differences t
  let all := r ++ c ++ [z1, z2]
  match all.find? (· != 0) with
  | none => none
  | some delta =>
    some (BitVec.ofNat 64 (firstNonzero r + 2 ^ 6 * firstNonzero c + 2 ^ 12 * tile + 2 ^ 14 * mismatchKind r c z1 z2 +
      2 ^ 16 * delta.toNat + 2 ^ 48 * (r.filter (· != 0)).length + 2 ^ 54 * (c.filter (· != 0)).length))

/-! ### Draining (R84, R90 to R92, R267 to R269) -/

/-- The value that the drain delivers for element `n` of an INT32 route (R84). -/
def satElem (t : Tile) (sat : Bool) (n : Nat) : W32 :=
  let o := tget 0 t.ovf n
  if o ≠ 0 ∧ sat then (if o = 1 then 0x7FFFFFFF else 0x80000000) else tget 0 t.val n

/-- The delivered element: INT32, or the nearest FP32 of v × 2^acc_exp (R90). -/
def outElem (t : Tile) (d : W512) (n : Nat) : W32 :=
  let v := satElem t (tSat d) n
  if tOut d = 1 ∨ tOut d = 3 then v else scaleInt v.toInt (tAcc d)

/-- The tile's 4,096 bytes. -/
def outBytes (t : Tile) (d : W512) : List Byte := (List.range 1024).flatMap (fun n => leBytes 4 (outElem t d n).toNat)

/-- First saturated element and first infinity in drain order (R84, R90). -/
def firstSat (t : Tile) : Option Nat := (List.range 1024).find? (fun n => tget 0 t.ovf n != 0)
def firstInf (t : Tile) (d : W512) : Option Nat :=
  if tOut d = 1 ∨ tOut d = 3 then none else (List.range 1024).find? (fun n => isInf (outElem t d n))

/-- Words of 64 bytes from bytes. -/
def wordsFrom (poison : Bool) (l : List Byte) : List VnWord :=
  (List.range (l.length / 64)).map (fun i => { data := rowOf (l.drop (64 * i)), poison := poison })

/-- Send the contribution of an out = 5 drain: a REDUCE opener and 128 WRITE cells to the die's reduction unit (R269). -/
def sendContribution (s : State) (p i : Nat) (o : TeOp) (l : List Byte) (poison : Bool) : State :=
  let x := (logOf s p).getD 0
  let dst := 1024 * dieOf x + 51
  let opener := leBytes 2 (tPos o.desc) ++ [1, if poison then 1 else 0] ++ leBytes 4 (crc32c l).toNat ++ leBytes 2 x ++
    [128, 0] ++ zeros 20
  let s1 := sendCells s x (mkCell 0x0C 32 dst x (tBucket o.desc) opener :: dataCells 0x01 dst x (tBucket o.desc) 128 l)
  modTe s1 p i (fun o => { o with phase := .answer, sentAt := coreNow s (getCore s p) })

/-- The merged contribution: word r added lane by lane to bytes 64r to 64r + 63 (R267). -/
def mergeBytes (l : List Byte) (ws : List VnWord) : List Byte :=
  (List.range 1024).flatMap (fun n =>
    let a : W32 := BitVec.ofNat 32 (numAt l (4 * n) 4)
    leBytes 4 (fadd a (lane (ws.getD (n / 16) {}).data (n % 16))).toNat)

/-- Rows of a core-memory route. -/
def writeRows (c : Core) (d : W512) (l : List Byte) : Core :=
  (List.range 32).foldl (fun c r => writeCore c (64 * (tOutRow d + r * tPitch d)) (slice l (128 * r) 128)) c

/-- The output stage hands the tile to its route. -/
def deliverTile (s : State) (p i : Nat) (o : TeOp) (l : List Byte) (bad : Bool) : State :=
  let d := o.desc
  if tOut d = 1 ∨ tOut d = 2 then
    modTe (if bad then s else modCore s p (fun c => writeRows c d l)) p i (fun o => { o with phase := .done })
  else if tOut d = 3 ∨ tOut d = 4 then
    let (s1, rest) := putWords s p (tOutQ d) (wordsFrom bad l)
    modTe s1 p i (fun o => { o with phase := .deliver, out := rest })
  else if bit (tget (0 : W64) (getCore s p).te.merge (tTile d)) 0 then
    modTe s p i (fun o => { o with phase := .merge, contrib := l })
  else sendContribution s p i o l bad

/-- The tile moves through the checker and out (R90, R95, R96). A tile that fails is counted, reported and trapped at its verdict. -/
def drainTile (s : State) (p i : Nat) (o : TeOp) : State :=
  let d := o.desc
  let t := tTile d
  let v := tileOf s p t
  if v.bad ∧ tOp d = opDrain then
    modTe s p i (fun o => { o with phase := .done, fault := some (causeDescriptor, tDetail 0x0A false 0 0) })
  else
    match verdict v t with
    | none =>
      let o1 : TeOp := { o with sat := firstSat v, inf := firstInf v d }
      let s1 := modTe s p i (fun _ => o1)
      let s2 := if tKeep d ∨ tOut d = 5 then s1 else setTile s1 p t {}
      deliverTile s2 p i o1 (outBytes v d) false
    | some w =>
      let s1 := modCore s p (fun c =>
        { c with te := { c.te with last := w, count := if c.te.count = 0xFFFFFFFF then c.te.count else c.te.count + 1 } })
      let s2 := coreEvent (setTile s1 p t { bad := true }) p 0x80 (leBytes 8 w.toNat)
      let s3 := trapOp s2 p o.op causeAbft 0 w
      let o1 : TeOp := { o with fault := some (causeAbft, w), trapped := true }
      deliverTile (modTe s3 p i (fun _ => o1)) p i o1 (zeros 4096) true

/-- An operation in the output stage or on its way to the bucket. -/
def inOutput (o : TeOp) : Bool := o.phase == .merge || o.phase == .deliver || o.phase == .answer

/-- TE_DRAIN: a merge that has its 64 words sends its contribution; else the oldest MATMUL that has taken its last step
drains; else a DRAIN at the head of the queue starts and drains (R76, R89, R90). -/
def execTeDrain (core : Nat) (s : State) : Out :=
  onUnit (coreOk s core)
    (let ops := teOps s core
     if !runs s core then s
     else
       match ops.findIdx? inOutput with
       | some i =>
         match ops[i]? with
         | none => s
         | some o =>
           if o.phase = .merge ∧ o.merged.length ≥ 64 then
             sendContribution s core i o (mergeBytes o.contrib o.merged) (o.fault.isSome || o.merged.any (·.poison))
           else s
       | none =>
         match ops.findIdx? (fun o => o.phase == .drain) with
         | some i =>
           match ops[i]? with
           | none => s
           | some o => drainTile s core i o
         | none =>
           if !teFree s core then s else
           match teHead s core (· == opDrain) with
           | (s1, none) => s1
           | (s1, some (o, d)) =>
             let x := teNew s1 core o d
             if x.phase = .done then teStart s1 core x
             else if ops.any (fun y => y.phase == .run) || drainPending ops (tTile d) then s1
             else drainTile (teStart s1 core x) core ops.length x)

/-! ### Completion (R53, R91, R120) -/

/-- The operation has reached its route's completion point. -/
def teDone (o : TeOp) : Bool := o.phase == .done || (o.phase == .deliver && o.out.isEmpty)

/-- Position of a tile element in a flag (R120). -/
def tilePos (d : W512) (n : Option Nat) : Option Nat := n.map (fun n => n % 32 + 32 * (n / 32) + 1024 * tTile d)

/-- The tile of an accepted contribution is cleared unless it is kept (R85, R92). -/
def clearAfter (s : State) (p : Nat) (o : TeOp) : State :=
  let refused := match o.fault with
    | none => false
    | some (c, _) => c == causeAbft || c == causeDescriptor
  if tOut o.desc = 5 ∧ tOp o.desc ≠ opClear ∧ tNothing o.desc = false ∧ tKeep o.desc = false ∧ refused = false then
    setTile s p (tTile o.desc) {}
  else s

/-- TE_OP_COMPLETE: the oldest operation at its completion point sets its flags, raises its done_sync, and traps its
thread where it found a fault or took a poisoned word (R87, R91, R96, R197). -/
def execTeOpComplete (core : Nat) (s : State) : Out :=
  onUnit (coreOk s core)
    (let ops := teOps s core
     match ops.find? teDone with
     | none => s
     | some o =>
       if !runs s core then s
       else
         let i := (ops.findIdx? teDone).getD 0
         let s1 := modCore s core (fun c => { c with te := { c.te with ops := c.te.ops.eraseIdx i } })
         let s2 := reportFlags (clearAfter s1 core o) core o.op (tilePos o.desc o.sat) (tilePos o.desc o.inf) none srcTe
         let s3 := opDone s2 core o.op
         let s4 := match o.fault with
           | none => s3
           | some (cause, detail) => if o.trapped then s3 else trapOp s3 core o.op cause 0 detail
         let bad := o.poison || o.merged.any (·.poison)
         let q := if o.poison then o.poisonQ else fld (tget (0 : W64) (getCore s core).te.merge (tTile o.desc)) 4 1
         let s5 := if bad then trapOp s4 core o.op causeCheck 0 (BitVec.ofNat 64 (q + 2 ^ 63)) else s4
         jobCheckAt s5 core)

end Sys2Proof.Machine
end

