-- ==== Sys2Proof/Machine/Vector.lean ====
section
/-! DEFINITION. The vector engine (R123 to R140, R197): descriptors, checks, operand access, every primitive. An operation
starts when its row of the command table is commanded and it stands at the head of the issue queue; when a queue
operand still lacks words, it is computed by a later command of the same row, once its words have come (the ports take
them slot by slot); VE_OP_COMPLETE ends it. -/

namespace Sys2Proof.Machine

/-! ### The descriptor (R124, R127, R130) -/

/-- An operand: kind, address, stride and row stride in elements. -/
structure Opnd where
  kind : Nat
  addr : Nat
  str  : Int
  rstr : Int

def vPrim (d : W512) : Nat := fld d 7 0
def vSat (d : W512) : Bool := bit d 8
def vCount (d : W512) : Nat := fld d 40 17
def vRow (d : W512) : Nat := fld d 56 41
def vAux (d : W512) : W64 := BitVec.ofNat 64 (fld d 383 320)
def vQcw (d : W512) : W64 := BitVec.ofNat 64 (fld d 447 384)
def vQBase (d : W512) : Nat := fld d 471 448
def vKBase (d : W512) : Nat := fld d 495 472
def vMask (d : W512) : Nat := fld d 497 496
def vState (d : W512) : Nat := fld d 506 498

/-- Operand `i`: 0 a, 1 b, 2 c, 3 d. -/
def vOp (d : W512) (i : Nat) : Opnd :=
  let b := 64 * (i + 1)
  { kind := fld d (10 + 2 * i) (9 + 2 * i), addr := fld d (b + 20) b,
    str := signed 16 (fld d (b + 36) (b + 21)), rstr := signed 16 (fld d (b + 52) (b + 37)) }

def pQUANT : Nat := 0x40
def pDEQUANT : Nat := 0x41
def pGATHER : Nat := 0x50
def pSCATTER : Nat := 0x51
def pSCATADD : Nat := 0x52
def pGFMUL : Nat := 0x58
def pGFMAC : Nat := 0x59
def pSMAX : Nat := 0x60
def pFINAL : Nat := 0x61
def pROPE : Nat := 0x68
def pANGLE : Nat := 0x69

/-- Kinds that a primitive permits for its four operands (R129): 0 none, 1 any of 1 to 3, 2 a memory, 3 none or any, 4
core memory only. The list is empty for a code that no primitive has. Operand c of ROPE and ANGLE, which the table names "any", is
not read with pos_src = 0: every kind is then accepted (DEDUCED, log 72). -/
def vKinds (d : W512) : List Nat :=
  let p := vPrim d
  if (1 ≤ p ∧ p ≤ 3) ∨ (5 ≤ p ∧ p ≤ 7) ∨ (0x10 ≤ p ∧ p ≤ 0x19) ∨ p = 0x48 ∨ p = 0x34 then [1, 1, 0, 1]
  else if p = 4 ∨ p = 0x49 then [1, 1, 1, 1]
  else if (8 ≤ p ∧ p ≤ 0x0B) ∨ (0x20 ≤ p ∧ p ≤ 0x28) ∨ (0x30 ≤ p ∧ p ≤ 0x33) ∨ p = pGFMUL ∨ p = pGFMAC then [1, 0, 0, 1]
  else if p = 0x38 then [2, 1, 1, 1]
  else if p = 0x39 then [2, 1, 0, 1]
  else if p = pQUANT then [1, 0, 0, 2]
  else if p = pDEQUANT then [2, 0, 0, 1]
  else if p = pGATHER then [2, 1, 0, 1]
  else if p = pSCATTER ∨ p = pSCATADD then [1, 1, 0, 2]
  else if p = pSMAX then [1, 0, 1, 1]
  else if p = pFINAL then [0, 0, 0, 3]
  else if p = pROPE then [1, 4, if bit (vAux d) 0 then 1 else 3, 1]
  else if p = pANGLE then [0, 4, if bit (vAux d) 0 then 1 else 3, 1]
  else []

/-- A code that a primitive has. -/
def isPrim (p : Nat) : Bool := !(vKinds (BitVec.ofNat 512 p)).isEmpty

def kindOk (perm k : Nat) : Bool :=
  match perm with
  | 0 => k == 0
  | 1 => k != 0
  | 2 => k == 1 || k == 2
  | 3 => true
  | _ => k == 1

def isIndexedV (p : Nat) : Bool := p == pGATHER || p == pSCATTER || p == pSCATADD
def isRowOp (p : Nat) : Bool := decide (0x30 ≤ p ∧ p ≤ 0x34) || p == pFINAL
def isNorm (p : Nat) : Bool := p == 0x38 || p == 0x39
def isGf (p : Nat) : Bool := p == pGFMUL || p == pGFMAC
def isAngle (p : Nat) : Bool := p == pROPE || p == pANGLE

/-- Bits of aux that the primitive uses (R130). -/
def auxMask (p : Nat) : Nat :=
  if p = 0x48 then 7 else if isNorm p then 2 ^ 32 - 1 else if isIndexedV p then 2 ^ 24 - 1
  else if isGf p then 255 else if p = pQUANT ∨ p = pDEQUANT then 1
  else if p = pSMAX then (2 ^ 64 - 2 ^ 32) + (2 ^ 17 - 1) else if isAngle p then 1 else 0

def vLimit (d : W512) : Nat := fld (vAux d) 23 0
def vQLen (d : W512) : Nat := fld (vAux d) 15 0
def vQOut (d : W512) : Bool := vPrim d == pSMAX && bit (vAux d) 16
def vScale (d : W512) : W32 := BitVec.ofNat 32 (fld (vAux d) 63 32)
def vRows (d : W512) : Nat := vCount d / max 1 (vRow d)

/-- The primitive writes or reads a panel under qcw. -/
def usesQcw (d : W512) : Bool := vPrim d == pQUANT || vPrim d == pDEQUANT || vQOut d

/-- Element size of an operand (R124, R138). -/
def elemSize (d : W512) (i : Nat) : Nat :=
  let p := vPrim d
  if isGf p then 1
  else if (p = pQUANT ∧ i = 3) ∨ (p = pDEQUANT ∧ i = 0) ∨ (vQOut d ∧ i = 3) then 1
  else if isAngle p ∧ i = 1 then 8 else 4

/-- An operand held in stored form. -/
def isPanel (d : W512) (i : Nat) : Bool :=
  (vPrim d == pQUANT && i == 3) || (vPrim d == pDEQUANT && i == 0) || (vQOut d && i == 3)

/-! ### Checks (R128) -/

/-- Detail of a rejection: the reason and the operand; the operand field of a reason that names none is 0 (DESIGN CHOICE, log 72). -/
def vDetail (reason i : Nat) : Nat := reason + 256 * i

/-- Reserved fields and encodings of one operand (R124): kind 0 has zero fields, a queue only its number. They are looked at with a
count of 0 too (DEDUCED, log 72). -/
def opndBad (d : W512) (i : Nat) : Bool :=
  let o := vOp d i
  let b := 64 * (i + 1)
  decide (fld d (b + 63) (b + 53) ≠ 0) ||
  (if o.kind = 0 then decide (o.addr ≠ 0 ∨ o.str ≠ 0 ∨ o.rstr ≠ 0)
   else if o.kind = 3 then decide (o.addr ≥ 16 ∨ o.str ≠ 0 ∨ o.rstr ≠ 0) else false)

/-- Reserved fields outside the operands. -/
def vReserved (d : W512) : Bool :=
  let p := vPrim d
  !isPrim p || decide (fld d 63 57 ≠ 0 ∨ fld d 511 507 ≠ 0 ∨ (vAux d).toNat &&& (2 ^ 64 - 1 - auxMask p) ≠ 0) ||
  (!usesQcw d && decide (vQcw d ≠ 0)) || (p == pSMAX && decide (vMask d > 1)) || (p == 0x48 && decide (fld (vAux d) 2 0 > 5))

/-- Nothing to do (R13, R128, R131, R135). -/
def vNothing (d : W512) : Bool :=
  vCount d == 0 || vRow d == 0 || (isIndexedV (vPrim d) && vLimit d == 0) ||
  (vPrim d == pSMAX && vMask d == 1 && vQLen d == 0)

/-- Bytes of the memory of a kind. -/
def memSize (kind : Nat) : Nat := if kind = 1 then 2 ^ 21 else 2 ^ 15

/-- Byte address of element `n` of an operand (R123). -/
def elemAddr (o : Opnd) (z rowLen n : Nat) : Int :=
  (o.addr : Int) + z * ((n % rowLen : Nat) * o.str + (n / rowLen : Nat) * o.rstr)

/-- Elements at which the address of `n` elements is extreme: the corners of the whole rows and of the last part row. -/
def corners (rowLen n : Nat) : List Nat :=
  let full := n / rowLen
  (if full = 0 then [] else [0, rowLen - 1, (full - 1) * rowLen, full * rowLen - 1]) ++
  (if n % rowLen = 0 then [] else [full * rowLen, n - 1])

/-- The extent of `n` elements leaves the memory. -/
def beyondMem (o : Opnd) (z rowLen n : Nat) : Bool :=
  decide (o.kind = 1 ∨ o.kind = 2) &&
  (corners rowLen n).any (fun i => decide (elemAddr o z rowLen i < 0 ∨ elemAddr o z rowLen i + z > memSize o.kind))

/-- The operand's extent under reason 0x04; a panel's is checked with its length. -/
def extentBad (d : W512) (i : Nat) : Bool :=
  let p := vPrim d
  let o := vOp d i
  let z := elemSize d i
  if o.kind = 0 ∨ isPanel d i then false
  else if (p = pGATHER ∧ i = 0) ∨ ((p = pSCATTER ∨ p = pSCATADD) ∧ i = 3) then beyondMem o z (vRow d) (vLimit d)
  else if (isRowOp p ∧ i = 3) ∨ (p = pSMAX ∧ i = 2) ∨ (isAngle p ∧ i = 2) then beyondMem o z 1 (vRows d)
  else if isAngle p ∧ i = 1 then beyondMem o z (vRow d / 2) (vCount d / 2)
  else beyondMem o z (vRow d) (vCount d)

/-- Row limits of reason 0x03 (R128, R130). -/
def rowsBad (d : W512) : Bool :=
  let p := vPrim d
  decide (vCount d % vRow d ≠ 0) || (isNorm p && decide (vRow d > 8192)) ||
  (p == pSMAX && decide (vRow d > 8192 ∨ vRows d > 512)) || (isAngle p && decide (vRow d > 1024 ∨ vRow d % 2 = 1))

/-- First operand with a property. -/
def firstOp (f : Nat → Bool) : Option Nat := (List.range 4).find? f

/-- The checks that need nothing but the descriptor, in the order of log 7; the detail of the first that fails. An operation
that does nothing is still rejected for reserved fields and encodings, those of its QCW among them (R11, R517). With
SMAX_STEP, qout = 1 asks for 32 rows whatever d is (log 7), and mask = 0 with q_len = 0 leaves (rows − 1) mod q_len without a
value: its query positions are then not checked (DEDUCED, log 72). -/
def vReason (d : W512) : Option Nat :=
  let p := vPrim d
  if vReserved d then some 1
  else match firstOp (opndBad d) with
    | some i => some (vDetail 1 i)
    | none =>
      if usesQcw d && !(if vNothing d then qcwClean (vQcw d) else qcwOk (vQcw d)) then some 2
      else if vNothing d then none
      else if rowsBad d then some 3
      else if usesQcw d && decide (vRow d % 32 ≠ 0 ∨ vRows d ≠ 32) then some (vDetail 9 (if vPrim d = pDEQUANT then 0 else 3))
      else match firstOp (fun i => !kindOk ((vKinds d).getD i 0) (vOp d i).kind) with
        | some i => some (vDetail 5 i)
        | none =>
          match firstOp (fun i => decide ((vOp d i).kind = 1 ∨ (vOp d i).kind = 2) && elemSize d i == 4 && decide ((vOp d i).addr % 4 ≠ 0)) with
          | some i => some (vDetail 6 i)
          | none =>
            match firstOp (extentBad d) with
            | some i => some (vDetail 4 i)
            | none =>
              if isAngle p && !bit (vAux d) 0 && decide (vQBase d + vRows d - 1 ≥ 2 ^ 24) then some 7
              else if p == pSMAX && decide ((vQLen d ≠ 0 ∧ vQBase d + (vRows d - 1) % vQLen d ≥ 2 ^ 24) ∨ vKBase d + vRow d - 1 ≥ 2 ^ 24) then some 7
              else if (p == pSMAX || p == pFINAL) && decide (vState d + vRows d > 512) then some 8
              else none

/-! ### Operand access -/

/-- The work in hand: the machine, whether the core has stopped at an uncorrectable word (R148), the bytes for queue
destinations, the first flag positions, the quantiser and the offset in d that it has reached; a dry run, which writes
nothing to d and only measures a panel; a fault. -/
structure Work where
  s    : State
  ok   : Bool := true
  out  : List Byte := []
  outC : List Byte := []
  sat  : Option Nat := none
  inf  : Option Nat := none
  nan  : Option Nat := none
  q    : QuantOut := {}
  at_  : Nat := 0
  dry  : Bool := false
  fault : Option (Nat × W64) := none

/-- What the primitive reads: core, descriptor, bytes of the queue operands, the number of its free values. -/
structure VCtx where
  p   : Nat
  d   : W512
  got : Nat → List Byte
  use : Nat

/-- Read bytes of core memory or the vector store. -/
def vRead (x : VCtx) (w : Work) (kind a n : Nat) : Work × List Byte :=
  match (if kind = 1 then readCore w.s x.p a n else readStore w.s x.p a n) with
  | (s1, none) => ({ w with s := s1, ok := false }, zeros n)
  | (s1, some l) => ({ w with s := s1 }, l)

/-- Write bytes of core memory or the vector store. -/
def vWrite (x : VCtx) (w : Work) (kind a : Nat) (l : List Byte) : Work :=
  { w with s := modCore w.s x.p (fun c => if kind = 1 then writeCore c a l else writeStore c a l) }

/-- Element `n` of operand `i` under a row length. -/
def getAt (x : VCtx) (w : Work) (i rowLen n : Nat) : Work × Nat :=
  let o := vOp x.d i
  let z := elemSize x.d i
  if o.kind = 0 then (w, 0)
  else if o.kind = 3 then (w, numAt (x.got i) (z * n) z)
  else
    let (w1, l) := vRead x w o.kind (elemAddr o z rowLen n).toNat z
    (w1, leNat l)

/-- Elements of operand `i`. -/
def getAll (x : VCtx) (i rowLen : Nat) (ns : List Nat) (w : Work) : Work × List Nat :=
  let (w1, l) := ns.foldl (fun (a : Work × List Nat) n => let (w, v) := getAt x a.1 i rowLen n; (w, v :: a.2)) (w, [])
  (w1, l.reverse)

/-- FP32 or INT32 elements. -/
def getWords (x : VCtx) (i rowLen : Nat) (ns : List Nat) (w : Work) : Work × List W32 :=
  let (w1, l) := getAll x i rowLen ns w
  (w1, l.map (BitVec.ofNat 32))

/-- Neighbouring stretches of a list of writes as one: what a group writes to one row covers its words whole (R516;
DEDUCED, log 72). -/
def joinWrites (l : List (Nat × List Byte)) : List (Nat × List Byte) :=
  l.foldr (fun e acc =>
    match acc with
    | [] => [e]
    | h :: t => if e.1 + e.2.length = h.1 then (e.1, e.2 ++ h.2) :: t
                else if h.1 + h.2.length = e.1 then (h.1, h.2 ++ e.2) :: t else e :: h :: t) []

/-- Write elements of operand `i` (d, or c of SMAX_STEP), given as index and value: memory, or the next elements of its
queue. -/
def putAll (x : VCtx) (i rowLen : Nat) (l : List (Nat × Nat)) (w : Work) : Work :=
  let o := vOp x.d i
  let z := elemSize x.d i
  if !w.ok || o.kind == 0 || w.dry then w
  else if o.kind = 3 then
    let b := l.flatMap (fun e => leBytes z e.2)
    if i = 2 then { w with outC := w.outC ++ b } else { w with out := w.out ++ b }
  else (joinWrites (l.map (fun e => ((elemAddr o z rowLen e.1).toNat, leBytes z e.2)))).foldl (fun w e => vWrite x w o.kind e.1 e.2) w

/-- Note the flags of a result at an element index; a flag keeps its first position (R120). -/
def noteRes (n : Nat) (r : Res) (w : Work) : Work :=
  let first (old : Option Nat) (b : Bool) : Option Nat := if old.isNone && b then some n else old
  { w with sat := first w.sat r.sat, inf := first w.inf r.inf, nan := first w.nan r.nan }

/-- Write results of operand d at their element indices, and note their flags at the indices given. -/
def putRes (x : VCtx) (rowLen : Nat) (l : List (Nat × Nat × Res)) (w : Work) : Work :=
  l.foldl (fun w e => noteRes e.2.1 e.2.2 w) (putAll x 3 rowLen (l.map (fun e => (e.1, e.2.2.v.toNat))) w)

/-- Groups of at most `g` of `n` elements, in ascending order (R126). -/
def groupsIn (g n : Nat) : List (List Nat) :=
  (List.range ((n + g - 1) / g)).map (fun k => (List.range (min g (n - g * k))).map (fun j => g * k + j))

/-- Run over groups, stopping when the core has stopped or a fault has ended the operation. -/
def overGroups (f : List Nat → Work → Work) (gs : List (List Nat)) (w : Work) : Work :=
  gs.foldl (fun w g => if w.ok && w.fault.isNone then f g w else w) w

/-! ### Primitives -/

/-- Free value for element `n`. -/
def freeAt (x : VCtx) (n : Nat) : Nat := Config.freeValue x.use n

/-- Elementwise primitives: every source element of a group is read before any is written (R126). -/
def doElems (x : VCtx) (w : Work) : Work :=
  let rl := vRow x.d
  overGroups (fun g w =>
    let (w1, a) := getWords x 0 rl g w
    let (w2, b) := getWords x 1 rl g w1
    let (w3, c) := getWords x 2 rl g w2
    putRes x rl ((List.range g.length).map (fun i =>
      let n := g.getD i 0
      (n, n, elemOp (vPrim x.d) (vSat x.d) (vAux x.d) (freeAt x n) (a.getD i 0) (b.getD i 0) (c.getD i 0)))) w3)
    (groupsIn 64 (vCount x.d)) w

/-- Indices of row `r`. -/
def rowIxs (rl r : Nat) : List Nat := (List.range rl).map (fun c => r * rl + c)

/-- Row reductions (R132): the groups of 64 elements are read in turn, and the rows that a group ends are then written, one value
per row at row r, column 0 of d (R126). `done` counts the rows written, `a` and `b` hold the elements of the open row. -/
def doRowsGo (x : VCtx) : List (List Nat) → Nat → List W32 → List W32 → Work → Work
  | [], _, _, _, w => w
  | g :: gs, done, a, b, w =>
    let rl := vRow x.d
    let (w1, a1) := getWords x 0 rl g w
    let (w2, b1) := getWords x 1 rl g w1
    let a := a ++ a1; let b := b ++ b1
    let k := a.length / rl
    if !w2.ok then w2
    else
      doRowsGo x gs (done + k) (a.drop (k * rl)) (b.drop (k * rl))
        (putRes x 1 ((List.range k).map (fun i =>
          (done + i, (done + i) * rl, fres (rowOp (vPrim x.d) ((a.drop (i * rl)).take rl) ((b.drop (i * rl)).take rl))))) w2)

def doRows (x : VCtx) (w : Work) : Work := doRowsGo x (groupsIn 64 (vCount x.d)) 0 [] [] w

/-- The rows that begin within a group of elements. -/
def rowsBegun (rl : Nat) (g : List Nat) : List Nat := (g.filter (fun n => n % rl == 0)).map (· / rl)

/-- One 64-element group of a norm (R126, R133): the statistics of the rows it begins, its operands, its results; and the
statistics still needed. -/
def normGroup (x : VCtx) (g : List Nat) (st : List (Nat × W32 × W32)) (w : Work) : Work × List (Nat × W32 × W32) :=
  let rl := vRow x.d
  let eps : W32 := BitVec.ofNat 32 (fld (vAux x.d) 31 0)
  let (w1, new) := (rowsBegun rl g).foldl (fun (acc : Work × List (Nat × W32 × W32)) r =>
    let (w, a) := getWords x 0 rl (rowIxs rl r) acc.1
    (w, (r, normStats (vPrim x.d == 0x38) a) :: acc.2)) (w, st.take 1)
  let (w2, a) := getWords x 0 rl g w1
  let (w3, b) := getWords x 1 rl g w2
  let (w4, c) := getWords x 2 rl g w3
  if !w4.ok then (w4, new)
  else
    (putRes x rl ((List.range g.length).map (fun i =>
      let n := g.getD i 0
      let (mu, va) := ((new.find? (fun e => e.1 == n / rl)).map (·.2)).getD (0, 0)
      let cv : W32 := if vPrim x.d = 0x38 then c.getD i 0 else 0x80000000
      (n, n, fres (normElem (freeAt x n) (a.getD i 0) mu va eps (b.getD i 0) cv)))) w4, new)

/-- LNORM and RMSNORM (R133): a row's statistics are formed when the first of its elements stands in the group, before that group
writes (R126); `st` holds them by row. -/
def doNormGo (x : VCtx) : List (List Nat) → List (Nat × W32 × W32) → Work → Work
  | [], _, w => w
  | g :: gs, st, w =>
    let r := normGroup x g st w
    if !r.1.ok then r.1 else doNormGo x gs r.2 r.1

def doNorm (x : VCtx) (w : Work) : Work := doNormGo x (groupsIn 64 (vCount x.d)) [] w

/-- Write bytes of a panel to d at the offset reached: memory, or its words into the queue. Bytes beyond the memory, which only an
operation that overwrites its own operand can come to, are not written. The strides of an operand in stored form are neither used
nor looked at (R134; DEDUCED, log 72). -/
def putPanel (x : VCtx) (l : List Byte) (w : Work) : Work :=
  let o := vOp x.d 3
  let w1 := { w with at_ := w.at_ + l.length }
  if !w.ok || w.dry then w1
  else if o.kind = 3 then { w1 with out := w.out ++ l }
  else if o.addr + w.at_ + l.length > memSize o.kind then w1
  else vWrite x w1 o.kind (o.addr + w.at_) l

/-- The quantiser takes the next elements, whole blocks, and writes the K-block groups that they complete (R134). -/
def quantFeed (x : VCtx) (vals : List W32) (w : Work) : Work :=
  let kb := vRow x.d / 32
  let old := w.q.blocks.length - 31 * kb
  let q := (List.range (vals.length / 32)).foldl (fun q i => quantBlock (vQcw x.d) q ((vals.drop (32 * i)).take 32)) w.q
  let new := q.blocks.length - 31 * kb
  (List.range (new - old)).foldl (fun w i => putPanel x (quantGroup (vQcw x.d) kb q (old + i)) w) { w with q := q }

/-- The groups of QUANT: read, then quantised (R126). -/
def quantGroups (x : VCtx) (w : Work) : Work :=
  overGroups (fun g w => let (w1, a) := getWords x 0 (vRow x.d) g w; if w1.ok then quantFeed x a w1 else w1) (groupsIn 64 (vCount x.d)) w

/-- Quantise by `run`. The panel is measured first: where it reaches beyond its memory, the operation is rejected before it has
written anything (R128, reason 0x04). Then it runs, and its lanes and counts are kept (R114, R116). -/
def quantising (x : VCtx) (run : Work → Work) (w : Work) : Work :=
  let w0 : Work := { w with q := { lanes := (getCore w.s x.p).ve.lanes } }
  let o := vOp x.d 3
  let m := run { w0 with dry := true }
  if m.ok && o.kind != 3 && decide (o.addr + m.at_ > memSize o.kind) then
    { w with fault := some (causeDescriptor, BitVec.ofNat 64 (vDetail 4 3)) }
  else
    let w1 := run w0
    if !w1.ok then w1
    else
      { w1 with s := modCore w1.s x.p (fun c => { c with ve := { c.ve with lanes := w1.q.lanes, quant := countQuant c.ve.quant w1.q } }),
                sat := w1.q.sat, inf := w1.inf.or w1.q.inf, nan := w1.q.nan }

/-- QUANT. -/
def doQuant (x : VCtx) (w : Work) : Work := quantising x (quantGroups x) w

/-- The K-block groups of a stored-form operand in memory, one after the other, as address and marks, or the reason for which the
operand is rejected (R106, R107). -/
def panelGroups (x : VCtx) (kind : Nat) : Nat → Nat → Work → List (Nat × Nat) → Work × Except Nat (List (Nat × Nat))
  | 0, _, w, acc => (w, .ok acc.reverse)
  | k + 1, a, w, acc =>
    let fmt := qFmt (vQcw x.d); let esc := qEsc (vQcw x.d)
    if a + 64 > memSize kind then (w, .error 4)
    else
      let (w1, hdr) := if isBlock fmt then vRead x w kind a 64 else (w, [])
      let marks := if isBlock fmt then headerMarks fmt esc hdr else 0
      let n := 64 * groupRows fmt esc marks
      if headerBad fmt esc hdr then (w1, .error 1)
      else if a + n > memSize kind then (w1, .error 4)
      else panelGroups x kind k (a + n) w1 ((a, marks) :: acc)

/-- Exponent and codes of row `r` of a group: a marked block's codes stand in the extension (R105, R106). -/
def readBlock (x : VCtx) (kind r : Nat) (g : Nat × Nat) (w : Work) : Work × Int × List Int :=
  let fmt := qFmt (vQcw x.d)
  let h := if isBlock fmt then 64 else 0
  let bb := blockBytes fmt
  let wide := g.2.testBit r
  let (w1, e) := if isBlock fmt then vRead x w kind (g.1 + r) 1 else (w, [])
  let (w2, l) := if wide then vRead x w1 kind (g.1 + h + 32 * bb + 32 * marksBelow g.2 r) 32 else vRead x w1 kind (g.1 + h + r * bb) bb
  (w2, if isBlock fmt then signed 8 (e.getD 0 0).toNat else qFix (vQcw x.d),
   (List.range 32).map (fun k =>
     if wide then signed 8 (l.getD k 0).toNat else decodeCode (elemBits fmt) (codeAt (elemBits fmt) l k)))

/-- DEQUANT (R134): q × 2^ε, in ascending element index; a group of 64 elements is two blocks. -/
def doDequant (x : VCtx) (w : Work) : Work :=
  let rl := vRow x.d
  let o := vOp x.d 0
  match panelGroups x o.kind (rl / 32) o.addr w [] with
  | (w1, .error r) => if w1.ok then { w1 with fault := some (causeDescriptor, BitVec.ofNat 64 (vDetail r 0)) } else w1
  | (w1, .ok gs) =>
    overGroups (fun g w =>
      let n0 := g.headD 0
      let (w2, l) := (List.range (g.length / 32)).foldl (fun (acc : Work × List (Nat × Nat × Res)) i =>
        let n := n0 + 32 * i
        let (w, eps, q) := readBlock x o.kind (n / rl) (gs.getD (n % rl / 32) (0, 0)) acc.1
        (w, acc.2 ++ (List.range 32).map (fun k => (n + k, n + k, fres (dequantElem (q.getD k 0) eps))))) (w, [])
      putRes x rl l w2) (groupsIn 64 (vCount x.d)) w1

/-- An index outside the table ends the operation (R131). Of a negative index the row is the floor of its quotient and the column
the remainder that is not negative (DEDUCED, log 72). -/
def indexFault (x : VCtx) (table : Nat) (i : Int) (w : Work) : Work :=
  let o := vOp x.d table
  let rl : Int := vRow x.d
  let a : Int := (o.addr : Int) + 4 * ((i % rl) * o.str + (i / rl) * o.rstr)
  { w with fault := some (causeAddress, BitVec.ofInt 64 a) }

/-- GATHER: the sources of a group are read, then its elements are written; an index is checked as it is reached. -/
def doGather (x : VCtx) (w : Work) : Work :=
  let rl := vRow x.d
  overGroups (fun g w =>
    let (w1, b) := getWords x 1 rl g w
    let lim : Int := vLimit x.d
    let good := b.takeWhile (fun i => decide (0 ≤ i.toInt ∧ i.toInt < lim))
    let (w2, a) := getWords x 0 rl (good.map (fun i => i.toNat)) w1
    let w3 := putAll x 3 rl ((List.range good.length).map (fun k => (g.getD k 0, (a.getD k 0).toNat))) w2
    if good.length < b.length then indexFault x 0 (b.getD good.length 0).toInt w3 else w3) (groupsIn 16 (vCount x.d)) w

/-- SCATTER and SCATTER_ADD. -/
def doScatter (x : VCtx) (w : Work) : Work :=
  let rl := vRow x.d
  overGroups (fun g w =>
    let (w1, b) := getWords x 1 rl g w
    let lim : Int := vLimit x.d
    let good := b.takeWhile (fun i => decide (0 ≤ i.toInt ∧ i.toInt < lim))
    let (w2, a) := getWords x 0 rl (g.take good.length) w1
    let w3 :=
      if vPrim x.d = pSCATTER then putAll x 3 rl ((List.range good.length).map (fun k => ((good.getD k 0).toNat, (a.getD k 0).toNat))) w2
      else (List.range good.length).foldl (fun w k =>
        let i := (good.getD k 0).toNat
        let (wa, old) := getAt x w 3 rl i
        putRes x rl [(i, g.getD k 0, fres (fadd (BitVec.ofNat 32 old) (a.getD k 0)))] wa) w2
    if good.length < b.length then indexFault x 3 (b.getD good.length 0).toInt w3 else w3) (groupsIn 16 (vCount x.d)) w

/-- GFMUL and GFMAC. A queue destination of GFMAC has no old byte to read: that byte is free. -/
def doGf (x : VCtx) (w : Work) : Work :=
  let rl := vRow x.d
  let coef := fld (vAux x.d) 7 0
  overGroups (fun g w =>
    let (w1, a) := getAll x 0 rl g w
    let (w2, old) := if vPrim x.d = pGFMUL then (w1, g.map (fun _ => 0))
                     else if (vOp x.d 3).kind = 3 then (w1, g.map (fun n => freeAt x n % 256))
                     else getAll x 3 rl g w1
    putAll x 3 rl ((List.range g.length).map (fun i => (g.getD i 0, gfMul (a.getD i 0) coef ^^^ old.getD i 0))) w2)
    (groupsIn 64 (vCount x.d)) w

def slotAt (s : State) (p i : Nat) : Slot := tget {} (getCore s p).ve.slots i
def setSlot (s : State) (p i : Nat) (v : Slot) : State :=
  modCore s p (fun c => { c with ve := { c.ve with slots := tset {} c.ve.slots i v } })

/-- One row of SMAX_STEP: what its scores give (R135). -/
def smaxOf (x : VCtx) (r : Nat) (w : Work) : Work × SmaxRow :=
  let rl := vRow x.d
  let (w1, a) := getWords x 0 rl (rowIxs rl r) w
  let v := slotAt w1.s x.p (vState x.d + r)
  let qpos := vQBase x.d + r % max 1 (vQLen x.d)
  let keep (c : Nat) : Bool := vMask x.d == 0 || decide (vKBase x.d + c ≤ qpos)
  (w1, smaxRow v.m v.l (vScale x.d) a keep (fun i => freeAt x (r * (rl + 1) + i)))

/-- A row's slot, flags and α are written. -/
def smaxPut (x : VCtx) (e : Nat × SmaxRow) (w : Work) : Work :=
  let (r, o) := e
  let at_ (i : Option Nat) : Option Nat := i.map (fun c => r * vRow x.d + c)
  putAll x 2 1 [(r, o.alpha.toNat)]
    { w with s := if w.dry then w.s else setSlot w.s x.p (vState x.d + r) { m := o.m, l := o.l },
             inf := w.inf.or (at_ o.inf), nan := w.nan.or (at_ o.nan) }

/-- One 64-element group of SMAX_STEP (R126, R136): the rows it begins are computed and their slots written, then the
group's P elements go out; and the rows still needed. -/
def smaxGroup (x : VCtx) (g : List Nat) (st : List (Nat × SmaxRow)) (w : Work) : Work × List (Nat × SmaxRow) :=
  let rl := vRow x.d
  let (w1, new) := (rowsBegun rl g).foldl (fun (acc : Work × List (Nat × SmaxRow)) r =>
    let (w, o) := smaxOf x r acc.1; (w, (r, o) :: acc.2)) (w, st.take 1)
  if !w1.ok then (w1, new)
  else
    let fresh := (new.filter (fun e => (rowsBegun rl g).contains e.1)).reverse
    let w2 := fresh.foldl (fun w e => smaxPut x e w) w1
    let p := g.map (fun n => (n, (((new.find? (fun e => e.1 == n / rl)).map (fun e => e.2.p.getD (n % rl) 0)).getD 0)))
    (if vQOut x.d then quantFeed x (p.map (·.2)) w2 else putAll x 3 rl (p.map (fun e => (e.1, e.2.toNat))) w2, new)

/-- The groups of SMAX_STEP: the rows that begin in a group of 64 elements are read whole, then their slots and α are written and
the group's elements of p go to d, or through the quantiser (R126, R135). `st` holds the open row. -/
def smaxGo (x : VCtx) : List (List Nat) → List (Nat × SmaxRow) → Work → Work
  | [], _, w => w
  | g :: gs, st, w =>
    let r := smaxGroup x g st w
    if !r.1.ok then r.1 else smaxGo x gs r.2 r.1

/-- SMAX_STEP. With qout = 1 the quantiser takes p: the sat and nan flags are its own, at the first element of p that sets them
(R120; DEDUCED, log 72). -/
def doSmax (x : VCtx) (w : Work) : Work :=
  let run := smaxGo x (groupsIn 64 (vCount x.d)) []
  if vQOut x.d then quantising x run w else run w

/-- SMAX_FINAL: 1 / l per row, +0 for l = 0, and the slots emptied. -/
def doFinal (x : VCtx) (w : Work) : Work :=
  overGroups (fun g w =>
    let r := g.headD 0
    let v := slotAt w.s x.p (vState x.d + r)
    let o : Res := if isZero v.l then { v := 0 } else fres (fdiv (freeAt x r) 0x3F800000 v.l)
    let w1 := { w with s := setSlot w.s x.p (vState x.d + r) {} }
    if (vOp x.d 3).kind = 0 then w1 else putRes x 1 [(r, r * vRow x.d, o)] w1) (groupsIn 1 (vRows x.d)) w

/-- Position of a row (R138): q_base + row, or the row's element of the list c. -/
def posOfRow (x : VCtx) (r : Nat) (w : Work) : Work × Nat :=
  if bit (vAux x.d) 0 then getAt x w 2 1 r else (w, vQBase x.d + r)

/-- The checks of R138 and R139 that read operands: a frequency word beyond 40 bits, a position beyond 24 bits. -/
def angleBad (x : VCtx) (w : Work) : Work × Option Nat :=
  let h := vRow x.d / 2
  let (w1, f) := getAll x 1 h (List.range (vCount x.d / 2)) w
  let (w2, ps) := if bit (vAux x.d) 0 then getAll x 2 1 (List.range (vRows x.d)) w1 else (w1, [])
  (w2, if f.any (fun v => decide (v ≥ 2 ^ 40)) then some (vDetail 1 1)
       else if ps.any (fun v => decide (v ≥ 2 ^ 24)) then some (vDetail 7 2) else none)

/-- ROPE and ANGLE. -/
def doAngle (x : VCtx) (w : Work) : Work :=
  let rl := vRow x.d
  match angleBad x w with
  | (w0, some r) => if w0.ok then { w0 with fault := some (causeDescriptor, BitVec.ofNat 64 r) } else w0
  | (w0, none) =>
    overGroups (fun g w =>
      let (w1, f) := getAll x 1 (rl / 2) (((g.map (fun n => n / rl * (rl / 2) + n % rl / 2))).eraseDups) w
      let (w2, a) := getWords x 0 rl g w1
      let (w3, ps) := g.foldl (fun (acc : Work × List Nat) n => let (w, p) := posOfRow x (n / rl) acc.1; (w, acc.2 ++ [p])) (w2, [])
      putRes x rl ((List.range (g.length / 2)).flatMap (fun i =>
        let n := g.getD (2 * i) 0
        let (u, v) := if vPrim x.d = pROPE then
                        ropePair (freeAt x n) (ps.getD (2 * i) 0 * f.getD i 0 % 2 ^ 40) (a.getD (2 * i) 0) (a.getD (2 * i + 1) 0)
                      else angleF (freeAt x n) (ps.getD (2 * i) 0 * f.getD i 0 % 2 ^ 40)
        [(n, n, fres u), (n + 1, n + 1, fres v)])) w3) (groupsIn 64 (vCount x.d)) w0

/-- The primitive's work. -/
def vWork (x : VCtx) (w : Work) : Work :=
  let p := vPrim x.d
  if isRowOp p && p != pFINAL then doRows x w
  else if isNorm p then doNorm x w
  else if p = pQUANT then doQuant x w
  else if p = pDEQUANT then doDequant x w
  else if p = pGATHER then doGather x w
  else if p = pSCATTER ∨ p = pSCATADD then doScatter x w
  else if isGf p then doGf x w
  else if p = pSMAX then doSmax x w
  else if p = pFINAL then doFinal x w
  else if isAngle p then doAngle x w
  else doElems x w

/-! ### Starting, computing, completing -/

/-- Words that a queue operand gives: one element list packed 64 bytes a word (R125). -/
def needWords (d : W512) (i : Nat) : Nat :=
  let o := vOp d i
  if o.kind ≠ 3 then 0
  else
    let n := if i = 2 ∧ isAngle (vPrim d) then vRows d else vCount d
    if i = 2 ∧ (vPrim d = pSMAX ∨ (isAngle (vPrim d) ∧ !bit (vAux d) 0)) then 0 else (n * elemSize d i + 63) / 64

/-- Words of a queue result; the bytes beyond the last element are free. -/
def packOut (use : Nat) (l : List Byte) : List VnWord :=
  let n := (l.length + 63) / 64
  let full := l ++ (List.range (64 * n - l.length)).map (fun i => BitVec.ofNat 8 (Config.freeValue use (2 ^ 40 + l.length + i)))
  (List.range n).map (fun i => { data := rowOf (full.drop (64 * i)) })

/-- Elements per compute cycle (R129). -/
def vRate (p : Nat) : Nat :=
  if (7 ≤ p ∧ p ≤ 9) ∨ p = 0x27 ∨ p = 0x28 ∨ isIndexedV p then 16
  else if 0x20 ≤ p ∧ p ≤ 0x26 then 32 else if isGf p then 256 else 64

/-- Passes over the row. -/
def vPasses (p : Nat) : Nat := if p = 0x38 then 3 else if p = 0x39 then 2 else 1

def setCur (s : State) (p : Nat) (o : Option VeOp) : State :=
  modCore s p (fun c => { c with ve := { c.ve with cur := o } })

/-- What the primitive of an operation in hand reads: its queue operands as far as they have come, the rest as zeros. -/
def veCtx (p : Nat) (o : VeOp) : VCtx :=
  let bytes (l : List VnWord) : List Byte := l.flatMap (fun w => rowBytes w.data)
  { p := p, d := o.desc, use := o.use,
    got := fun i => if i = 0 then bytes o.gotA else if i = 1 then bytes o.gotB else bytes o.gotC }

/-- Elements of a and b, and of c where it is a row of elements, that an operation in hand has all its queue words for. -/
def elemsIn (o : VeOp) : Nat :=
  let d := o.desc
  let have_ (i : Nat) (l : List VnWord) : Nat := if (vOp d i).kind = 3 then 64 * l.length / max 1 (elemSize d i) else vCount d
  min (vCount d) (min (have_ 0 o.gotA) (min (if (vOp d 1).kind = 3 then have_ 1 o.gotB else vCount d)
    (if needWords d 2 = 0 then vCount d else if isAngle (vPrim d) then (if o.needC = 0 then vCount d else 0) else have_ 2 o.gotC)))

/-- Bytes of d, and of c of SMAX_STEP, that those elements complete: groups of elements, rows of a reduction, a norm or SMAX_STEP. A
panel is complete with the last row only. -/
def bytesReady (o : VeOp) : Nat × Nat :=
  let d := o.desc
  let p := vPrim d
  let r := elemsIn o
  let rl := max 1 (vRow d)
  if usesQcw d then (0, if vQOut d then 4 * (r / rl) else 0)
  else if isRowOp p then (4 * (r / rl), 0)
  else if isNorm p then (4 * (r / rl * rl), 0)
  else if p = pSMAX then (4 * (r / rl * rl), 4 * (r / rl))
  else
    let g := if isIndexedV p then 16 else 64
    (elemSize d 3 * (r / g * g), 0)

/-- The words that an operation in hand has completed go to its output queues before its last inputs come (R182). -/
def veEmit (s : State) (p : Nat) (o : VeOp) : State :=
  let w := vWork (veCtx p o) { s := s }
  let n := bytesReady o
  if !w.ok then setCur s p (some { o with since := 0 })
  else
    let d := (packOut o.use (w.out.take (64 * (n.1 / 64)))).drop o.sentD
    let c := (packOut o.use (w.outC.take (64 * (n.2 / 64)))).drop o.sentC
    setCur s p (some { o with since := 0, out := o.out ++ d, outC := o.outC ++ c, sentD := o.sentD + d.length, sentC := o.sentC + c.length })

/-- The operation is computed: its words stand ready, its flags and faults are noted. At an uncorrectable word it stops where it
stands and is held (R148). -/
def veCompute (s : State) (p : Nat) (o : VeOp) : State :=
  let w := vWork (veCtx p o) { s := s }
  if !w.ok then setCur w.s p (some o)
  else
    let o1 : VeOp := { o with computed := true, out := o.out ++ (packOut o.use w.out).drop o.sentD, outC := o.outC ++ (packOut o.use w.outC).drop o.sentC,
                              sat := w.sat, inf := w.inf, nan := w.nan, quantSrc := vQOut o.desc, fault := w.fault }
    let pr := vPrim o.desc
    let cyc := (vCount o.desc * vPasses pr + vRate pr - 1) / vRate pr
    setCur (modCore w.s p (fun c => { c with veBusy := c.veBusy + cyc })) p (some o1)

/-- The operation at the head of the issue queue starts: rejected by its descriptor (R127), nothing to do, or computed as soon as
its queue operands are complete. -/
def veStart (s : State) (p : Nat) (op : IssueOp) (rest : List IssueOp) (d : W512) : State :=
  let s2 := stir (modCore (useFree s) p (fun c => unstall { c with qVe := rest })) p
  let o : VeOp := { op := op, use := s.freeSeq, desc := d, toD := (vOp d 3).kind == 3, toC := vPrim d == pSMAX && (vOp d 2).kind == 3 }
  match vReason d with
  | some r => setCur s2 p (some { o with computed := true, fault := some (causeDescriptor, BitVec.ofNat 64 r) })
  | none =>
    if vNothing d then setCur s2 p (some { o with computed := true })
    else
      let o1 : VeOp := { o with needA := needWords d 0, needB := needWords d 1, needC := needWords d 2 }
      if o1.needA = 0 ∧ o1.needB = 0 ∧ o1.needC = 0 then veCompute s2 p o1 else setCur s2 p (some o1)

/-- A row of the VE's table: the head operation starts when its primitive is one of `prims`; an operation in progress of
that kind is computed once its queue operands are complete, and before that lets go what it has completed. -/
def veRow (p : Nat) (prims : Nat → Bool) (s : State) : Out :=
  onUnit (coreOk s p)
    (if !runs s p then s
     else
       match (getCore s p).ve.cur with
       | some o =>
         if !prims (vPrim o.desc) || o.computed then s
         else if o.needA = 0 ∧ o.needB = 0 ∧ o.needC = 0 then veCompute s p o
         else if o.toD || o.toC then veEmit s p o else s
       | none =>
         match (getCore s p).qVe with
         | [] => s
         | op :: rest =>
           match readDesc s p op with
           | (s1, none) => s1
           | (s1, some d) =>
             if prims (vPrim d) then veStart s1 p op rest d else s1)

/-- ADD; a descriptor whose code no primitive has starts here and is rejected. -/
def execAdd (core : Nat) (s : State) : Out := veRow core (fun m => m == 0x01 || !isPrim m) s
def execSub (core : Nat) (s : State) : Out := veRow core (· == 0x02) s
def execMul (core : Nat) (s : State) : Out := veRow core (· == 0x03) s
def execFma (core : Nat) (s : State) : Out := veRow core (· == 0x04) s
def execMax (core : Nat) (s : State) : Out := veRow core (· == 0x05) s
def execMin (core : Nat) (s : State) : Out := veRow core (· == 0x06) s
def execDiv (core : Nat) (s : State) : Out := veRow core (· == 0x07) s
def execSqrt (core : Nat) (s : State) : Out := veRow core (· == 0x08) s
def execRsqrt (core : Nat) (s : State) : Out := veRow core (· == 0x09) s
def execF2i (core : Nat) (s : State) : Out := veRow core (· == 0x0A) s
def execI2f (core : Nat) (s : State) : Out := veRow core (· == 0x0B) s
def execIadd (core : Nat) (s : State) : Out := veRow core (· == 0x10) s
def execIsub (core : Nat) (s : State) : Out := veRow core (· == 0x11) s
def execImul (core : Nat) (s : State) : Out := veRow core (· == 0x12) s
def execImax (core : Nat) (s : State) : Out := veRow core (· == 0x13) s
def execImin (core : Nat) (s : State) : Out := veRow core (· == 0x14) s
def execShl (core : Nat) (s : State) : Out := veRow core (· == 0x15) s
def execShra (core : Nat) (s : State) : Out := veRow core (· == 0x16) s
def execAnd (core : Nat) (s : State) : Out := veRow core (· == 0x17) s
def execOr (core : Nat) (s : State) : Out := veRow core (· == 0x18) s
def execXor (core : Nat) (s : State) : Out := veRow core (· == 0x19) s
def execExp (core : Nat) (s : State) : Out := veRow core (· == 0x20) s
def execExp2 (core : Nat) (s : State) : Out := veRow core (· == 0x21) s
def execLog (core : Nat) (s : State) : Out := veRow core (· == 0x22) s
def execTanh (core : Nat) (s : State) : Out := veRow core (· == 0x23) s
def execSigmoid (core : Nat) (s : State) : Out := veRow core (· == 0x24) s
def execSilu (core : Nat) (s : State) : Out := veRow core (· == 0x25) s
def execGelu (core : Nat) (s : State) : Out := veRow core (· == 0x26) s
def execSin (core : Nat) (s : State) : Out := veRow core (· == 0x27) s
def execCos (core : Nat) (s : State) : Out := veRow core (· == 0x28) s
def execRsum (core : Nat) (s : State) : Out := veRow core (· == 0x30) s
def execRmax (core : Nat) (s : State) : Out := veRow core (· == 0x31) s
def execRmin (core : Nat) (s : State) : Out := veRow core (· == 0x32) s
def execRsumsq (core : Nat) (s : State) : Out := veRow core (· == 0x33) s
def execRdot (core : Nat) (s : State) : Out := veRow core (· == 0x34) s
def execLnorm (core : Nat) (s : State) : Out := veRow core (· == 0x38) s
def execRmsnorm (core : Nat) (s : State) : Out := veRow core (· == 0x39) s
def execQuant (core : Nat) (s : State) : Out := veRow core (· == pQUANT) s
def execDequant (core : Nat) (s : State) : Out := veRow core (· == pDEQUANT) s
def execCmp (core : Nat) (s : State) : Out := veRow core (· == 0x48) s
def execSelect (core : Nat) (s : State) : Out := veRow core (· == 0x49) s
def execVeGather (core : Nat) (s : State) : Out := veRow core (· == pGATHER) s
def execVeScatter (core : Nat) (s : State) : Out := veRow core (· == pSCATTER) s
def execScatterAdd (core : Nat) (s : State) : Out := veRow core (· == pSCATADD) s
def execGfmul (core : Nat) (s : State) : Out := veRow core (· == pGFMUL) s
def execGfmac (core : Nat) (s : State) : Out := veRow core (· == pGFMAC) s
def execSmaxStep (core : Nat) (s : State) : Out := veRow core (· == pSMAX) s
def execSmaxFinal (core : Nat) (s : State) : Out := veRow core (· == pFINAL) s
def execRope (core : Nat) (s : State) : Out := veRow core (· == pROPE) s
def execAngle (core : Nat) (s : State) : Out := veRow core (· == pANGLE) s

/-- Source of an operation's flags (R119). -/
def flagSrc (p : Nat) : Nat := if p = pQUANT ∨ p = pDEQUANT then srcQuant else srcVe

/-- VE_OP_COMPLETE: the flags, done_sync, and the trap of a fault or of a poisoned word (R53, R120, R128, R131, R197). -/
def execVeOpComplete (core : Nat) (s : State) : Out :=
  onUnit (coreOk s core)
    (match (getCore s core).ve.cur with
     | none => s
     | some o =>
       if !runs s core || !o.computed || !o.out.isEmpty || !o.outC.isEmpty then s
       else
         let src := flagSrc (vPrim o.desc)
         let s1 := setCur s core none
         let s2 := if o.quantSrc then reportFlags s1 core o.op o.sat none o.nan srcQuant else s1
         let s3 := if o.quantSrc then reportFlags s2 core o.op none o.inf none src else reportFlags s1 core o.op o.sat o.inf o.nan src
         let s4 := opDone s3 core o.op
         let s5 := match o.fault with
           | none => s4
           | some (cause, detail) => trapOp s4 core o.op cause 0 detail
         let s6 := match o.poison with
           | none => s5
           | some q => trapOp s5 core o.op causeCheck 0 (BitVec.ofNat 64 (q + 2 ^ 63))
         jobCheckAt s6 core)

end Sys2Proof.Machine
end

