-- ==== Sys2Proof/Machine/Dump.lean ====
section
/-! DEFINITION. Crash dumps (R350 to R353): what a capture covers, the sections and the header; DUMP_COPY. -/

namespace Sys2Proof.Machine

/-! ### Buffers that a core samples (R350) -/

/-- Descriptor at a row of a core's memory. -/
def descAt (c : Core) (row : Nat) : W512 := rowOf (readBytes c.mem (64 * row) 64)

/-- An extent between two byte offsets of core memory, as partition addresses of core index `n`. -/
def ownExtent (n lo hi : Nat) : List (Nat × Nat) := if lo < hi ∧ hi ≤ 2 ^ 21 then [(n * 2 ^ 21 + lo, hi - lo)] else []

/-- Extents of a TE descriptor in core memory: each source from its first row over the largest stored form, and the rows
of a core-memory output. -/
def teExtents (n : Nat) (d : W512) : List (Nat × Nat) :=
  let src (b : Bool) : List (Nat × Nat) :=
    if tOp d = opMatmul ∧ tSrc d b = 1 then
      let rows := (tK d) * groupRows (tFmt d b) (tEsc d b) (2 ^ 32 - 1)
      ownExtent n (64 * tRow d b) (min (2 ^ 21) (64 * (tRow d b + rows)))
    else []
  src false ++ src true ++
  (if tOut d = 1 ∨ tOut d = 2 then ownExtent n (64 * tOutRow d) (64 * (tOutRow d + 31 * tPitch d + 2)) else [])

/-- Extents of a VE descriptor in core memory. -/
def veExtents (n : Nat) (d : W512) : List (Nat × Nat) :=
  [0, 1, 2, 3].flatMap (fun i =>
    let o := vOp d i
    if o.kind = 1 ∧ vCount d ≠ 0 ∧ vRow d ≠ 0 then
      let z := elemSize d i
      let l := (corners (vRow d) (vCount d)).map (elemAddr o z (vRow d))
      let lo := l.foldl min (l.headD 0)
      let hi := l.foldl max (l.headD 0) + z
      if lo < 0 then [] else ownExtent n lo.toNat hi.toNat
    else [])

/-- Runs at the corners of a descriptor's shape: first and last index of every dimension. -/
def cornerRuns (d : W512) : List Nat :=
  let n := dSize1 d
  let outer := if isIndexed d then [0] else if isPattern d then [0, dSize2 d - 1, min (dSize2 d) (dSize3 d) - 1]
    else [0, dSize2 d - 1, dSize2 d * (dSize3 d - 1), dSize2 d * dSize3 d - 1]
  outer.flatMap (fun q => [n * q, n * q + (n - 1)])

/-- Lowest and highest byte of one side of a COPY, PATTERN or indexed descriptor's runs. -/
def dmaSide (d : W512) (dst : Bool) : List (Nat × Nat) :=
  if dNothing d then []
  else
    let ends := (cornerRuns d).map (fun r => if dst then (runAddr d r).2 else (runAddr d r).1)
    let lo := ends.foldl min (ends.headD 0)
    let hi := ends.foldl max (ends.headD 0) + dSize0 d
    if lo < 0 ∨ hi > 2 ^ 36 then [] else [(lo.toNat, (hi - lo).toNat)]

/-- The index list of a GATHER or SCATTER. -/
def indexExtent (n : Nat) (d : W512) : List (Nat × Nat) :=
  if isIndexed d && !dNothing d then ownExtent n (dIdx d) (dIdx d + 4 * dSize1 d) else []

/-- Operand extents of an operation by engine (0 TE, 1 VE, 2 DMA, 3 queue ports; of a receive also the receipt). -/
def extentsOf (n engine : Nat) (d : W512) (receive : Bool := false) : List (Nat × Nat) :=
  if engine = 0 then teExtents n d
  else if engine = 1 then veExtents n d
  else if engine = 2 then dmaSide d false ++ dmaSide d true ++ indexExtent n d
  else ownExtent n (qAddr d) (qAddr d + qLen d) ++ (if receive then ownExtent n (qReceipt d) (qReceipt d + 16) else [])

/-- A queue-port command is a receive. -/
def isReceive (o : IssueOp) : Bool := opcode o.word == opIssueRecv

/-- Active buffers of a core: extents of operations in progress or queued, enabled rings, Spill areas in use. -/
def activeBuffers (c : Core) (n : Nat) : List (Nat × Nat) :=
  c.te.ops.flatMap (fun o => teExtents n o.desc) ++
  (match c.ve.cur with | none => [] | some o => veExtents n o.desc) ++
  c.tags.flatMap (fun e => match e.2 with | none => [] | some o => extentsOf n 2 o.desc) ++
  c.send.flatMap (fun e => (match e.2.cur with | none => [] | some m => ownExtent n m.src (m.src + m.len)) ++
    e.2.wait.flatMap (fun w => ownExtent n w.2.1 (w.2.1 + w.2.2))) ++
  c.recv.flatMap (fun e => e.2.ops.flatMap (fun o => extentsOf n 3 o.2.1 true)) ++
  [(0, c.qTe), (1, c.qVe), (2, c.qDma), (3, c.qPort)].flatMap (fun e => e.2.flatMap (fun o => extentsOf n e.1 (descAt c o.row) (isReceive o))) ++
  c.recv.flatMap (fun e => if bit e.2.ring 20 then ownExtent n (ringBase e.2) (ringBase e.2 + ringSize e.2) else []) ++
  c.inQ.flatMap (fun e =>
    if e.2.used ≠ 0 then ownExtent n (64 * spillBase e.2) (64 * (spillBase e.2 + spillLimit e.2)) else [])

/-- Samples of an extent: whole when it has at most 512 bytes, else its first and last 256 bytes. -/
def ends256 (e : Nat × Nat) : List (Nat × Nat) := if e.2 ≤ 512 then [e] else [(e.1, 256), (e.1 + e.2 - 256, 256)]

/-- The memory that holds an address: a core's memory, or the shared region of `clusters` clusters. -/
def memoryOf (clusters a : Nat) : Nat × Nat :=
  if a < 2 ^ 32 then (a / 2 ^ 21 * 2 ^ 21, (a / 2 ^ 21 + 1) * 2 ^ 21) else (2 ^ 32, 2 ^ 32 + 2 ^ 24 * clusters)

/-- The 4 KiB around each operand address of the last operation that a thread issued to an engine, clipped to the memory. -/
def aroundLast (c : Core) (n clusters : Nat) : List (Nat × Nat) :=
  threadIds.flatMap (fun t =>
    let th := getThread c t
    if th.state = .idle then []
    else
      th.lastOp.flatMap (fun e =>
        match e.2 with
        | none => []
        | some row => (extentsOf n e.1 (descAt c row)).map (fun x =>
            let m := memoryOf clusters x.1
            let lo := max (x.1 - 2048) m.1
            let hi := min (x.1 + 2048) m.2
            (lo, hi - lo))))

/-! ### Sections (R352) -/

/-- A section with its 16-byte header. -/
def section_ (type log phys : Nat) (l : List Byte) : List Byte :=
  leBytes 1 type ++ zeros 1 ++ leBytes 2 log ++ leBytes 2 phys ++ zeros 2 ++ leBytes 4 l.length ++ zeros 4 ++ l

/-- Section type 1 of a core. -/
def summaryOf (s : State) (p : Nat) : List Byte :=
  section_ 1 ((logOf s p).getD 0) p (words8 16 (fun t => threadStatus (getThread (getCore s p) t)))

/-- Sections 2 and 3 of a core. -/
def fullOf (s : State) (p : Nat) : List (List Byte) :=
  let log := (logOf s p).getD 0
  section_ 2 log p (fullState s p) ::
  (match indexOf s p with
   | none => []
   | some (q, n) =>
     let c := getCore s p
     ((activeBuffers c n).flatMap ends256 ++ aroundLast c n ((getPart s q).map (fun pt => pt.clusters.length) |>.getD 0)).map (fun e =>
       section_ 3 log p (leBytes 6 e.1 ++ zeros 2 ++ (getMem s q (dieOf p) e.1 e.2).2.1)))

/-- Largest dump, 4 MiB. -/
def dumpMax : Nat := 4194304

/-- Full sections of the cores, in order, as long as they fit beside what is already there: by core, and whether any was
left out. -/
def fillFull (s : State) : List Nat → Nat → List (Nat × List (List Byte)) × Bool
  | [], _ => ([], false)
  | p :: r, used =>
    let l := fullOf s p
    let n := (l.map List.length).sum
    if used + n > dumpMax then ([], true)
    else let (m, t) := fillFull s r (used + n); ((p, l) :: m, t)

/-- What a capture is of. -/
structure Scope where
  code  : Nat                              -- domain code of R341, 9 for a stop
  part  : Nat := 64
  unit  : Nat := 0
  cause : Nat := 0xF0
  cores : List Nat := []
  first : List Nat := []                   -- the core of the triggering fault
  snap  : List Byte := []                  -- Goose snapshot
  deriving DecidableEq, Repr

/-- Cores that a snapshot names, as positions. -/
def snapCores (s : State) (snap : List Byte) : List Nat :=
  (List.range ((snap.length - 32) / 16)).map (fun i => servedBy s (numAt snap (32 + 16 * i + 2) 2 % 4096))

/-- Cores of the scope in the order of interest (R350). -/
def interestOrder (s : State) (x : Scope) : List Nat :=
  let trapped := x.cores.filter (fun p => threadIds.any (fun t => (getThread (getCore s p) t).state == .trapped))
  nubBy ((x.first ++ trapped ++ snapCores s x.snap ++ x.cores).filter x.cores.contains)

/-- Physical cores of the device. -/
def allCores (s : State) : List Nat :=
  (List.range (dieCount s.product)).flatMap (fun d => (List.range 576).map (fun i => 1024 * d + 64 * (i / 36) + i % 36))

/-- Cores of which a capture holds a summary: those that serve a logical position, 2,048 of a whole CM7-4 (R352). -/
def serving (s : State) (l : List Nat) : List Nat := l.filter (fun p => (logOf s p).isSome)

/-- Ring entries not taken that concern the scope. -/
def untaken (s : State) (x : Scope) : List RingEntry :=
  (List.range 4).flatMap (fun d => (getDie s d).ring.filter (fun e =>
    match e with
    | .trap r => if x.part < 64 then r.part == x.part else x.cores.contains r.phys
    | .event r => if x.part < 64 then r.part == x.part else x.code == 5 || x.cores.any (fun p => dieOf p == d)))

/-- Sections of a capture, and whether it is truncated. -/
def sectionsOf (s : State) (x : Scope) : List (List Byte) × Bool :=
  let order := interestOrder s x
  let tail : List (List Byte) :=
    (if x.snap = [] then [] else [section_ 4 0 0 x.snap]) ++
    (untaken s x).map (fun e => section_ 5 0 0 (entryBytes e)) ++
    (match getPart s x.part with
     | none => []
     | some pt =>
       (List.range pt.buckets).map (fun i =>
         let b := getBucket s (pt.bucketAt + i)
         section_ 6 0 0 (leBytes 2 (pt.bucketAt + i) ++ leBytes 1 b.state ++ leBytes 1 b.reason ++ leBytes 4 b.round)) ++
       (List.range 256).map (fun g => section_ 7 0 0 (readBytes pt.area (groupBase g) 256)))
  let heads := order.map (summaryOf s)
  let used := 64 + (heads.map List.length).sum + (tail.map List.length).sum
  let (full, cut) := fillFull s order used
  (order.flatMap (fun p => summaryOf s p :: ((full.find? (fun e => e.1 == p)).map (·.2)).getD []) ++ tail, cut)

/-- A dump's bytes: header, digest, sections (R351). -/
def dumpBytes (x : Scope) (flags time skipped : Nat) (secs : List (List Byte)) : List Byte :=
  let body := secs.flatMap id
  let h := leBytes 2 1 ++ leBytes 1 x.code ++ leBytes 1 x.part ++ leBytes 6 x.unit ++ leBytes 1 x.cause ++ leBytes 1 flags ++
    leBytes 4 (64 + body.length) ++ leBytes 8 time ++ leBytes 4 secs.length ++ leBytes 2 skipped ++ zeros 2
  h ++ digestBytes (sha3 (h ++ body)) ++ body

/-- The retained slot that a new capture takes. -/
def freeDump (s : State) : Option Nat :=
  [0, 1].find? (fun i => let d := tget ({} : Dump) s.dumps i; d.bytes.isEmpty || d.copied)

/-- A core with the counts of the last whole millisecond. -/
def withMsCounts (c k : Core) : Core :=
  let send := c.send.foldl (fun (t : Tbl SendCh) e => tset {} t e.1 { e.2 with stats := (tget ({} : SendCh) k.send e.1).stats }) []
  let recv := c.recv.foldl (fun (t : Tbl RecvCh) e => tset {} t e.1 { e.2 with stats := (tget ({} : RecvCh) k.recv e.1).stats }) []
  { c with send := send, recv := recv, te := { c.te with count := k.te.count }, ve := { c.ve with quant := k.ve.quant } }

/-- The state with the counts of the last whole millisecond in every core. -/
def withMs (s : State) : State :=
  { s with cores := s.cores.foldl (fun t e => tset {} t e.1 (withMsCounts e.2 (tget {} s.atMs e.1))) [] }

/-- Capture (R350, R353): skipped and counted while both retained slots hold dumps not copied. -/
def capture (s : State) (x : Scope) : State :=
  match freeDump s with
  | none => { s with skipped := min (s.skipped + 1) 0xFFFF }
  | some i =>
    let (secs, cut) := sectionsOf s x
    { s with skipped := 0,
             dumps := tset {} s.dumps i { bytes := dumpBytes x (if cut then 1 else 0) (devNs s) s.skipped secs,
                                          ms := ((sectionsOf (withMs s) x).1).flatMap id, scope := x.code, part := x.part } }

/-- A failed census is added to the dump captured last for the scope (R349, R352 type 8). -/
def addCensus (s : State) (x : Scope) (time : Nat) (secs : List (List Byte)) : State :=
  match [0, 1].find? (fun i => let d := tget ({} : Dump) s.dumps i; !d.copied && numAt d.bytes 16 8 == time && d.scope == x.code) with
  | none => s
  | some i =>
    let d := tget ({} : Dump) s.dumps i
    let body := d.bytes.drop 64 ++ secs.flatMap id
    let h := d.bytes.take 12 ++ leBytes 4 (64 + body.length) ++ slice d.bytes 16 8 ++ leBytes 4 (numAt d.bytes 24 4 + secs.length) ++
      slice d.bytes 28 4
    { s with dumps := tset {} s.dumps i { d with bytes := h ++ digestBytes (sha3 (h ++ body)) ++ body, ms := d.ms ++ secs.flatMap id } }

/-- DUMP_COPY: Ouvos copies a retained dump to the flash ring of eight (R353). -/
def execDumpCopy (slot : Nat) (s : State) : Out :=
  onUnit (decide (slot < 2))
    (let d := tget ({} : Dump) s.dumps slot
     if d.bytes.isEmpty || d.copied then s
     else
       let h := slice d.bytes 0 11 ++ leBytes 1 (numAt d.bytes 11 1 % 2 + 2) ++ slice d.bytes 12 20
       let body := d.bytes.drop 64
       let d1 : Dump := { d with bytes := h ++ digestBytes (sha3 (h ++ body)) ++ body, copied := true }
       { s with dumps := tset {} s.dumps slot d1,
                flash := { s.flash with dumps := tset {} s.flash.dumps (s.flash.dumpNext % 8) d1,
                                        dumpNext := (s.flash.dumpNext + 1) % 8 } })

end Sys2Proof.Machine
end

