-- ==== Sys2Proof/Machine/Jobs.lean ====
section
/-! DEFINITION. Partitions at work: freezing (R304), the census (R42, R349), the stop (R343, R348), the restart (R59,
R344), the start of a job (R48, R411), the reset of a partition (R345), Goose (R238 to R240). -/

namespace Sys2Proof.Machine

/-! ### Freezing (R304) -/

/-- A completion deferred to the release takes place (R304): 0 MSG_ACK, 16 + reason MSG_NACK, 2 and 3 SYNC_ACK. -/
def runDeferred (s : State) (p : Nat) (e : Nat × Nat) : State :=
  if e.1 = 0 then sendEnds (countWait s p e.2 false) p e.2 true none
  else if e.1 ≥ 16 then attemptFails s p e.2 (e.1 - 16)
  else raiseAcked s p e.2 (e.1 == 2)

/-- Freeze or release one core. What a stopped core has deferred stays held (R148). -/
def setFrozen (s : State) (p : Nat) (frozen : Bool) : State :=
  let c := getCore s p
  let s1 : State := { s with fence := tset 0 s.fence p (setFld (tget 0 s.fence p) 3 3 (if frozen then 1 else 0)) }
  match c.frozenAt, frozen with
  | none, true => setCore s1 p { c with frozenAt := some s.fab }
  | some f, false =>
    let s2 := setCore s1 p { c with frozenAt := none, frozenAcc := c.frozenAcc + (s.fab - f), deferred := if c.stopped then c.deferred else [] }
    if c.stopped then s2 else c.deferred.foldl (fun s e => runDeferred s p e) s2
  | _, _ => s1

/-- CORE_FREEZE (R304): the management plane writes the frozen bit. -/
def execCoreFreeze (core : Nat) (frozen : Bool) (s : State) : Out := onUnit (coreOk s core) (setFrozen s core frozen)

/-- Freeze or release every core of a partition at one slot boundary. -/
def freezePart (s : State) (pt : Part) (frozen : Bool) : State := (partCores s pt).foldl (fun s p => setFrozen s p frozen) s

/-! ### Census (R42, R349) -/

/-- A pool whose invariant does not hold: pool kind (R352), unit kind and unit (R299), expected, counted. -/
abbrev CensusFail := Nat × Nat × Nat × Nat × Nat

/-- DMA tags of a core in use: operations, tags held after a timeout, replay records not yet acted on. -/
def tagsTaken (c : Core) : Nat := c.tags.length + c.held.length + (c.records.filter (fun r => r.answer.isNone)).length

/-- Pools of a core: credits (exactly `units` after a stop, at most `units` otherwise), DMA tags, tokens of its producers
(after a stop). -/
def coreCensus (c : Core) (p : Nat) (stopped : Bool) : List CensusFail :=
  c.credit.filterMap (fun e =>
    let v := (getCtr c (fld e.2 57 50)).value.toNat
    let u := fld e.2 49 38
    if bit e.2 58 ∧ (v > u ∨ (stopped ∧ v ≠ u)) then some (1, 1, p, u, v) else none) ++
  (let free := ((List.range 1024).filter (fun t =>
      (getTag c t).isNone && (tget none c.held t).isNone && !(c.records.any (fun r => r.tag == t && r.answer.isNone)))).length
   if free + tagsTaken c ≠ 1024 then [(5, 1, p, 1024, free + tagsTaken c)] else []) ++
  (if stopped then
     c.outQ.filterMap (fun e =>
       let u := if bit e.2.cfg 1 then 0 else fld e.2.cfg 15 2
       if e.2.tokens + e.2.words.length ≠ u then some (4, 1, p, u, e.2.tokens + e.2.words.length) else none)
   else [])

/-- Tokens of a partition's streams (R39, R180): all that producers hold, that words hold wherever they are, and that are on their way back, against
the initial tokens of all producers. Not counted while a load is writing the tables, nor while a steering unit or a slice context has
stopped at a fault, which discards words (R189, R191; DEDUCED, log 74). -/
def tokenCensus (s : State) (pt : Part) (cores : List Nat) : List CensusFail :=
  let sw := (partSwitches pt).map (getSwitch s)
  let sl := ((partSwitches pt).filter isSpare).map (fun x => getSlice s (sliceAt x))
  let cs := cores.map (getCore s)
  let want := (cs.map coreInitial).sum + (sw.map switchInitial).sum
  let got := (cs.map coreTokens).sum + (sw.map switchTokens).sum + (sl.map sliceTokens).sum
  let faulty := cs.any (fun c => c.steer.any (fun e => e.2.fault.isSome)) || sl.any (fun v => v.ctx.any (fun e => e.2.stopped))
  if pt.loading || faulty || want == got then [] else [(4, 6, cluUnit (pt.clusters.headD 0), want, got)]

/-- Bucket tags (R39, R281): free tags and tags in use make 1,024. -/
def tagCensus (s : State) : List CensusFail :=
  let n := ((List.range 1024).map (fun t => if tagFree s t then 1 else tagUses s t)).sum
  if n = 1024 then [] else [(6, 0, 0, 1024, n)]

/-- Packet-network buffers of a die (R39): no input channel holds more cells than its depth. -/
def bufferCensus (s : State) (die : Nat) : List CensusFail :=
  s.routers.flatMap (fun r =>
    if r.1 / 1024 ≠ die then []
    else r.2.buf.filterMap (fun b => if b.1 / 4 ≠ 12 ∧ b.2.length > channelDepth then some (2, 5, r.1, channelDepth, b.2.length) else none))

/-- Requests that hold a landing credit of a die and direction: in its landing buffers, or on the pass-through path toward it (R207). -/
def landingHeld (s : State) (key : Nat) : Nat :=
  (s.routers.map (fun r => (r.2.buf.map (fun b =>
    (b.2.filter (fun c => c.type == 0x03 &&
      ((b.1 / 4 == 12 && 2 * dieOf r.1 + (if colIx r.1 < 18 then 1 else 0) == key) ||
       (b.1 / 4 == 10 && landingKey s (oxPort s (dieOf r.1) (dieOf c.dst)) c.dst == key)))).length)).sum)).sum

/-- Landing credits of a die's ports (R39, R207): those free and those held make 256 for each direction. -/
def landingCensus (s : State) (die : Nat) : List CensusFail :=
  if isFour s then
    [2 * die, 2 * die + 1].filterMap (fun k =>
      let n := landingCredits - tget 0 s.landing k + landingHeld s k
      if n = landingCredits then none else some (3, 5, 1024 * die, landingCredits, n))
  else []

/-- Slots of a scope's pool in use: outstanding commands of a partition, or of the device scope (64), whose requests are the signed ones (R385). -/
def slotsHeld (s : State) (scope : Nat) : Nat :=
  (s.cmds.filter (fun c => (if c.m.flags = 1 then 64 else c.m.scope) == scope)).length

/-- The slots of a scope's pool, the device's (64) among them, against their 1,024 (R42, R385). -/
def slotCensus (s : State) (scope : Nat) : List CensusFail :=
  if slotsHeld s scope > 1024 then [(7, 0, 0, 1024, slotsHeld s scope)] else []

/-- Census of a partition's pools. -/
def partCensus (s : State) (part : Nat) (cores : List Nat) (stopped : Bool) : List CensusFail :=
  cores.flatMap (fun p => coreCensus (getCore s p) p stopped) ++
  (match getPart s part with | none => [] | some pt => tokenCensus s pt cores) ++ tagCensus s ++
  slotCensus s part

/-- Census after a die reset: the partitions' pools apart, every pool that it touched (R40, R42, R348). -/
def dieCensus (s : State) (die : Nat) (cores : List Nat) : List CensusFail :=
  cores.flatMap (fun p => coreCensus (getCore s p) p false) ++ tagCensus s ++ slotCensus s 64 ++
  (List.range (dieCount s.product)).flatMap (fun d => bufferCensus s d ++ landingCensus s d) ++
  s.parts.flatMap (fun e => match e.2 with
    | none => []
    | some pt => if pt.clusters.any (fun c => c / 16 == die) then tokenCensus s pt (partCores s pt) else [])

/-- Census after a device reset (R41, R42): every pool, of the cores that are not as reset leaves them. -/
def deviceCensus (s : State) : List CensusFail :=
  s.cores.flatMap (fun e => coreCensus e.2 e.1 false) ++ tagCensus s ++ slotCensus s 64 ++
  (List.range (dieCount s.product)).flatMap (fun d => bufferCensus s d ++ landingCensus s d)

/-- The census ends: a broken invariant is announced, entered in the dump, and takes the device out of service (R42). -/
def censusEnds (s : State) (x : Scope) (time : Nat) (l : List CensusFail) : State :=
  if l = [] then s
  else
    let entry (f : CensusFail) : List Byte := leBytes 1 f.1 ++ leBytes 6 f.2.2.1 ++ leBytes 4 f.2.2.2.1 ++ leBytes 4 f.2.2.2.2 ++ zeros 1
    let s1 := l.foldl (fun s f => devFault s 8 f.2.1 f.2.2.1 (entry f)) s
    setService (addCensus s1 x time (l.map (fun f => section_ 8 0 0 (entry f)))) 2

/-! ### The stop (R343, R348) -/

/-- A thread at the end of a stop. -/
def idleThread (th : Thread) : Thread :=
  { th with state := .idle, age := 0, waitFrom := none, cause := 0, trap := none, opsOut := 0, lastOp := [] }

/-- What a stop does to a core: threads IDLE, work abandoned, tags held from the stop, channels in RESET. -/
def stopCore (now core : Nat) (c : Core) : Core :=
  let c1 := threadIds.foldl (fun c t => modThread c t idleThread) (dropWork (settleWaits core c))
  { c1 with held := (c.tags.map (·.1) ++ (c.records.filter (fun r => r.answer.isNone)).map (·.tag)).foldl
                      (fun t e => tset none t e (some (now + holdTime c))) c.held, tags := [],
            recv := (List.range 64).foldl (fun t i => tset {} t i { tget ({} : RecvCh) c1.recv i with state := 2, recs := [], ops := [] }) [],
            idleFrom := if stirs c then some core else c.idleFrom }

/-- The groups of a partition leave the engines; their state becomes idle. -/
def dropUpdates (s : State) (part : Nat) : State :=
  let s1 := (List.range 4).foldl (fun s d => modDie s d (fun v =>
    { v with queue := v.queue.filter (fun e => e.1 != part),
             cur := match v.cur with | none => none | some u => if u.part = part then none else some u })) s
  (List.range 256).foldl (fun s g =>
    match getPart s part with
    | none => s
    | some pt => if gf pt g 148 1 = 0 then s else setGf s part g 148 1 0) s1

/-- Buckets of a partition move to FREE (R281); peer tables stay. -/
def freeBuckets (s : State) (pt : Part) : State :=
  (List.range pt.buckets).foldl (fun s i => modBucket s (pt.bucketAt + i) (fun b => { peers := b.peers, closes := b.closes + 1 })) s

/-- The packet sequence number at which a pair's requests that have not left begin. -/
def firstUnsent (v : Qp) : Nat := (v.txq.findSome? (fun t => match t with | .request psn _ => some psn | _ => none)).getD v.sPsn

/-- The requests of a stopped partition's data pairs are not sent, nor sent again (R373). -/
def quietPair (v : Qp) : Qp :=
  { v with outstanding := [], later := [], sPsn := firstUnsent v,
           txq := v.txq.filter (fun t => match t with | .request _ _ => false | .again _ => false | _ => true) }

def quietPairs (s : State) (part : Nat) : State :=
  (qpsWhere s (fun v => !v.mbx && v.owner == part)).foldl (fun s q => modQp s q quietPair) s

/-- Endpoint transfers open at the partition's cores are closed; cells delivered or waiting to be injected there go. -/
def closeEnds (s : State) (pt : Part) : State :=
  (List.range (coresOf pt)).foldl (fun s n => modEnd s (logAt pt n) (fun e => { e with inbox := [], outbox := [], opens := [] })) s

/-- Stop a partition (R343), steps 1 to 7; `x` is what the dump names. The cores are released at its end, with no thread to
run. -/
def stopPart (s : State) (part : Nat) (x : Scope) : State :=
  match getPart s part with
  | none => s
  | some pt =>
    let cores := partCores s pt
    let x1 : Scope := { x with part := part, cores := cores }
    let s1 := freezePart s pt true
    let s2 := capture s1 x1
    let s3 := dropUpdates (eachCore s2 pt (fun c => stopCore s.fab (coreNow s2 c) c)) part
    let s4 := emptyNetwork (closeEnds s3 pt) pt
    let s5 := eachCore (quietPairs (freeBuckets s4 pt) part) pt restoreCredits
    let s6 := censusEnds s5 x1 (devNs s) (partCensus s5 part cores true)
    modPart (freezePart s6 pt false) part (fun q => { q with isolate := none, gooseFrom := s.fab, gooseDone := false })

/-- The scope of a stop without reset. -/
def stopScope (cause : Nat) (first : List Nat) (snap : List Byte) : Scope := { code := 9, cause := cause, first := first, snap := snap }

/-! ### Starting threads (R44, R45, R48) -/

/-- Enabled threads become READY at their pc. -/
def readyThreads (c : Core) : Core :=
  threadIds.foldl (fun c t => modThread c t (fun th => if enabled th ∧ th.state = .idle then { th with state := .ready } else th)) c

/-- Threads that have become READY end a lending of their cluster (R72). -/
def stirPart (s : State) (pt : Part) : State := (partCores s pt).foldl stir s

/-- Wake the clusters of a partition (R470). -/
def wakePart (s : State) (pt : Part) : State := pt.clusters.foldl awaken s

/-- The start of a job (R411): every core set up as at a job load, slot counters and threads started together. -/
def startJob (s : State) (part policy flags report : Nat) : State :=
  match getPart s part with
  | none => s
  | some pt =>
    let s0 := wakePart s pt
    let s1 := (List.range (coresOf pt)).foldl (fun s n => modCore s (physAt s pt n) (setupCore (imgRegs pt.image n))) s0
    let s2 := startNetwork (emptyNetwork s1 pt) pt
    let s3 := stirPart (eachCore s2 pt (fun c => { readyThreads c with idleFrom := some (coreNow s c) })) pt
    let s4 := modPart s3 part (fun q =>
      { q with job := q.job + 1, running := true, policy := policy, flags := flags, report := report, started := devNs s,
               restarts := 0, recent := [], isolate := none, due := [], gooseFrom := s.fab, gooseDone := false, quiet := 0 })
    jobCheck s4 part

/-! ### Restart (R59, R344) -/

/-- Bytes of a thread's record slot `k`, when it holds a record of the thread and of the current job (R59). -/
def recordIn (s : State) (part : Nat) (pt : Part) (n t k : Nat) : Option (List Byte) :=
  let th := getThread (getCore s (physAt s pt n)) t
  let r := getMem s part (logAt pt n / 1024) (replayArea th + 128 * k) 128
  let l := r.2.1
  if r.2.2.isNone ∧ numAt l 2 1 = t ∧ numAt l 80 8 = pt.job ∧ numAt l 124 4 = (crc32c (l.take 124)).toNat then some l else none

/-- Records of a thread. -/
def recordsOf (s : State) (part : Nat) (pt : Part) (n t : Nat) : List (List Byte) := [0, 1].filterMap (recordIn s part pt n t)

/-- Enabled threads of a partition: core index and ThreadID. -/
def enabledThreads (s : State) (pt : Part) : List (Nat × Nat) :=
  (List.range (coresOf pt)).flatMap (fun n =>
    (threadIds.filter (fun t => enabled (getThread (getCore s (physAt s pt n)) t))).map (fun t => (n, t)))

/-- Ids that a thread's records offer: `none` for every id (a HALT record). -/
def idsOf (l : List (List Byte)) : Option (List Nat) :=
  let ids := l.map (fun r => numAt r 0 2)
  if ids.contains 0xFFFF then none else some ids

/-- The restart point (R59): the highest id that every enabled thread has, if any; 0xFFFF when every thread has halted. -/
def restartPoint (s : State) (part : Nat) (pt : Part) : Option Nat :=
  let ths := enabledThreads s pt
  let sets := ths.filterMap (fun e => idsOf (recordsOf s part pt e.1 e.2))
  match sets with
  | [] => if ths = [] then none else some 0xFFFF
  | a :: r =>
    let common := a.filter (fun i => r.all (fun l => l.contains i))
    common.foldl (fun m i => match m with | none => some i | some j => some (max i j)) none

/-- The record from which a thread resumes at a point: its HALT record, else the newest of that id. -/
def resumeRecord (l : List (List Byte)) (point : Nat) : Option (List Byte) :=
  match l.find? (fun r => numAt r 0 2 == 0xFFFF) with
  | some r => some r
  | none =>
    (l.filter (fun r => numAt r 0 2 == point)).foldl (fun m r =>
      match m with | none => some r | some q => if numAt r 72 8 ≥ numAt q 72 8 then some r else some q) none

/-- A thread as its record leaves it: HALTED for a HALT record, READY at resume_pc otherwise (R344). -/
def resumeThread (th : Thread) (r : List Byte) : Thread :=
  let base : Thread := { freshThread th with flags := th.flags, flagPos := th.flagPos, altSlot := th.altSlot }
  { base with
    state := if numAt r 0 2 = 0xFFFF then .halted else .ready,
    pc := numAt r 4 4,
    lc := (List.range 4).foldl (fun t i => tset 0 t i (BitVec.ofNat 32 (numAt r (8 + 4 * i) 4))) [],
    lcStart := (List.range 4).foldl (fun t i => tset 0 t i (numAt r (24 + 4 * i) 4)) [],
    calls := ((List.range (numAt r 3 1)).map (fun i => numAt r (40 + 4 * i) 4)).reverse }

/-- A thread that starts again at its entry. -/
def reenterThread (th : Thread) : Thread :=
  { freshThread th with flags := th.flags, flagPos := th.flagPos, altSlot := th.altSlot, state := .ready }

/-- Counters of core `n` at a restart point: declared values, else those of the image; faults clear (R344). -/
def restoreCounters (img : List Byte) (n : Nat) (point : Option Nat) (c : Core) : Core :=
  let decl : List (Nat × Nat × Nat) := match point with
    | none => []
    | some i => ((declsOf img).filter (fun d => d.1 == i)).flatMap (·.2)
  (List.range 256).foldl (fun c i =>
    let v := match (decl.filter (fun e => e.1 == n && e.2.1 == i)).getLast? with
      | some e => e.2.2
      | none => fld (imgReg img n (64 + i)) 31 0
    setCtr c i { value := BitVec.ofNat 32 v, limit := (getCtr c i).limit }) c

/-- Set up one core at a restart: counters, channels, softmax slots, threads. -/
def resumeCore (s : State) (part : Nat) (pt : Part) (point : Option Nat) (n : Nat) (c : Core) : Core :=
  let c1 := reopenChannels (restoreCounters pt.image n point c) false
  let c2 := threadIds.foldl (fun c t =>
    let th := getThread c t
    if enabled th then
      match point with
      | none => setThread c t (reenterThread th)
      | some i =>
        match resumeRecord (recordsOf s part pt n t) i with
        | none => setThread c t (reenterThread th)
        | some r => setThread c t (resumeThread th r)
    else c) c1
  { c2 with rr0 := 16, rr1 := 16, ve := { c2.ve with slots := [] } }

/-- Restart a stopped partition from its restart point (R344). -/
def restartPart (s : State) (part : Nat) : State :=
  match getPart s part with
  | none => s
  | some pt =>
    let point := restartPoint s part pt
    let s1 := (List.range (coresOf pt)).foldl (fun a n => modCore a (physAt s pt n) (resumeCore s part pt point n)) s
    let s2 := stirPart (wakePart (startNetwork (emptyNetwork s1 pt) pt) pt) pt
    let now := devNs s
    let s3 := modPart s2 part (fun q =>
      { q with restarts := min (q.restarts + 1) 0xFFFFFFFF, recent := now :: q.recent.filter (fun t => decide (now < t + 600000000000)),
               stopping := false, isolate := none, gooseFrom := s.fab, gooseDone := false, quiet := 0 })
    jobCheck s3 part

/-- Stop and end a job (R343, R414). The report is that of the threads before the stop. -/
def abortPart (s : State) (part code : Nat) (x : Scope) : State :=
  match getPart s part with
  | none => s
  | some pt =>
    if pt.running then
      let s1 := endJob s part code
      modPart (stopPart s1 part x) part (fun q => { q with stopping := false })
    else stopPart s part x

/-! ### Partition reset (R345) -/

/-- Reset a cluster (R341): its cores but those that `out` leaves out; the resets count (R336). -/
def resetCluster (out : Nat → Bool) (s : State) (c : Nat) : State :=
  countReset ((clusterPhys c).foldl (fun s p => if out p then s else countReset (modCore s p resetCore) 1 p) s) 6 (cluUnit c)

/-- The ports of a cluster's four slices are reset (R341): their endpoint transfers close. -/
def closePorts (s : State) (c : Nat) : State :=
  (List.range 4).foldl (fun s k => modEnd s (slicePos (4 * c + k)) (fun e => { e with inbox := [], outbox := [], opens := [] })) s

/-- Reset the cores and slice ports of a partition's clusters (R341); a core withdrawn for Sounding is left out (R342). The slice contexts hold
their initial tokens (R180). -/
def resetClusters (s : State) (pt : Part) : State :=
  emptyContexts (pt.clusters.foldl (fun s c => closePorts (resetCluster (fun p => fenceState s p == 2) s c) c) s) pt

/-- A pair enters the error state: its work is flushed, and a bucket that is open over it fails with reason 5 (R373, R280). -/
def qpError (s : State) (q : Nat) : State :=
  match getQp s q with
  | none => s
  | some v =>
    if v.error then s
    else
      let s1 := setQp s q (some { v with error := true, outstanding := [], txq := [], later := [], events := [], recvs := [], rnrWait := false })
      (List.range 1024).foldl (fun s t =>
        let b := getBucket s t
        if b.state = 1 ∧ b.peers.any (fun e => e.1 == q && q != 0) then failBucket s t 5 else s) s1

/-- A partition's data queue pairs enter the error state (R373). -/
def failPairs (s : State) (part : Nat) : State := (qpsWhere s (fun v => !v.mbx && v.owner == part)).foldl qpError s

/-- A partition whose job is unloaded (R345). What it was last loaded with stays attested: only an IMAGE_LOAD changes that list (R438). -/
def unloaded (q : Part) : Part := { q with image := [], loading := false, flock := [] }

/-- Reset a partition: its job stops and ends, its clusters are reset, its data pairs fail, and the job is unloaded. The census that follows
counts tags held by the stop as in use. -/
def resetPart (s : State) (part : Nat) (cause : Nat) : State :=
  let x : Scope := { code := 3, cause := cause }
  let s1 := abortPart s part 4 x
  match getPart s1 part with
  | none => s1
  | some pt =>
    let s2 := failPairs (resetClusters s1 pt) part
    let s3 := modPart s2 part unloaded
    censusEnds s3 { x with part := part } (devNs s) (partCensus s3 part (partCores s3 pt) false)

/-! ### Goose (R238 to R240) -/

/-- A blocked item of a core: kind, unit, counter, want, have. -/
abbrev Blocked := Nat × Nat × Nat × Nat × Nat

/-- Blocked threads: WAITING, or STALLED on a full issue queue. -/
def blockedThreads (c : Core) : List (Nat × Blocked) :=
  threadIds.filterMap (fun t =>
    let th := getThread c t
    if th.state = .waiting then some (t, (1, t, th.waitSync, th.waitImm.toNat, (getCtr c th.waitSync).value.toNat))
    else if th.state = .stalled then
      match wordAt th th.pc with
      | some w =>
        if 0x10 ≤ opcode w ∧ opcode w ≤ 0x14 ∧ (queueOf c (opcode w)).length ≥ queueDepth then some (t, (2, t, 0, 0, 0)) else none
      | none => none
    else none)

/-- Threads that are neither IDLE, HALTED nor TRAPPED. -/
def liveThreads (c : Core) : List Nat :=
  threadIds.filter (fun t => match (getThread c t).state with | .idle => false | .halted => false | .trapped => false | _ => true)

/-- The item of an engine operation stalled on a queue (R182): `have` is the tokens of a full output queue. -/
def queueItem (c : Core) (w : Bool × Nat) : Blocked := (3, w.2, 0, 0, if w.1 then (tget ({} : OutQ) c.outQ w.2).tokens else 0)

/-- DMA operations that wait for credits (a PATTERN for those of its next chunk), or for a tag. -/
def dmaStalls (c : Core) : List Blocked :=
  c.tags.filterMap (fun e => match e.2 with
    | none => none
    | some o => (o.wait.or (patternShort c o)).map (fun w => (5, e.1 % 256, w.1, w.2, (getCtr c w.1).value.toNat))) ++
  (if !c.qDma.isEmpty ∧ (freeTag c).isNone then [(5, 0, 0, 0, 0)] else [])

/-- Every engine operation in progress is blocked. -/
def enginesBlocked (s : State) (p : Nat) : Bool :=
  let c := getCore s p
  c.te.ops.all (fun o => (teWait c o).isSome) &&
  (match c.ve.cur with | none => true | some o => (veWait s p o).isSome) &&
  c.tags.all (fun e => match e.2 with | none => true | some o => o.wait.isSome || (patternShort c o).isSome) &&
  c.recv.all (fun e => e.2.ops.isEmpty || (nextMessage e.2.recs).isNone)

/-- Blocked items of a core in the order of the snapshot's kinds. A receive waits on a ring that holds no record it can take (R218). -/
def blockedItems (s : State) (p : Nat) : List Blocked :=
  let c := getCore s p
  (blockedThreads c).map (·.2) ++ c.te.ops.filterMap (fun o => (teWait c o).map (queueItem c)) ++
  (match c.ve.cur with | none => [] | some o => ((veWait s p o).map (queueItem c)).toList) ++
  c.steer.filterMap (fun e =>
    let u := e.2
    if bit u.cfg 0 && (match u.ctl with
        | [] => !(u.d0.isEmpty && u.d1.isEmpty)
        | tok :: _ => if tok / 32 % 2 == 1 then u.d1.isEmpty else u.d0.isEmpty) then some (4, e.1, 0, 0, u.ctl.length) else none) ++
  dmaStalls c ++
  c.send.filterMap (fun e => if e.2.cur.isSome then some (6, e.1, 0, 0, 0) else none) ++
  c.recv.filterMap (fun e => if !e.2.ops.isEmpty ∧ (nextMessage e.2.recs).isNone then some (7, e.1, 0, 0, 0) else none)

/-- The partition is wholly blocked (R239): some thread is live, every live thread and every engine operation in progress is
a blocked item. -/
def whollyBlocked (s : State) (pt : Part) : Bool :=
  (partCores s pt).any (fun p => !(liveThreads (getCore s p)).isEmpty) &&
  (partCores s pt).all (fun p =>
    let c := getCore s p
    (liveThreads c).all (fun t => (blockedThreads c).any (fun e => e.1 == t)) && enginesBlocked s p)

/-- Sum of a partition's progress counters. -/
def progressSum (s : State) (pt : Part) : Nat := (partCores s pt).foldl (fun n p => n + (getCore s p).progress) 0

/-- Goose looks at a partition in one fabric cycle: the time from which its threshold runs (R239). Frozen time does not
count (R304). -/
def gooseLook (s : State) (pt : Part) : Part :=
  let n := progressSum s pt
  if n ≠ pt.gooseSeen then { pt with gooseSeen := n, gooseFrom := s.fab, gooseDone := false }
  else if (partCores s pt).any (fun p => isFrozen (getCore s p)) then { pt with gooseFrom := pt.gooseFrom + 1 }
  else if whollyBlocked s pt then pt else { pt with gooseFrom := s.fab }

/-- The snapshot of R240 with at most `most` entries. -/
def snapshot (s : State) (part : Nat) (pt : Part) (most : Nat) : List Byte :=
  let items := (List.range (coresOf pt)).flatMap (fun n => (blockedItems s (physAt s pt n)).map (fun b => (logAt pt n, b)))
  let kept := items.take most
  leBytes 1 part ++ leBytes 1 (if items.length > most then 1 else 0) ++ leBytes 2 kept.length ++ leBytes 4 pt.goose ++
  leBytes 8 (devNs s) ++ zeros 16 ++
  kept.flatMap (fun e =>
    let (k, u, i, want, have_) := e.2
    leBytes 1 k ++ leBytes 1 u ++ leBytes 2 e.1 ++ leBytes 1 i ++ zeros 3 ++ leBytes 4 want ++ leBytes 4 have_)

/-- GOOSE_DEADLOCK (R239). -/
def execGooseDeadlock (part : Nat) (s : State) : Out :=
  onUnit (decide (part < 64))
    (match getPart s part with
     | none => s
     | some pt =>
       let q := gooseLook s pt
       let s1 := setPart s part (some q)
       if q.goose ≠ 0 ∧ q.gooseDone = false ∧ whollyBlocked s q ∧ (partCores s q).all (fun p => !isFrozen (getCore s p)) ∧
          s.fab ≥ q.gooseFrom + usCycles q.goose then
         let snap := snapshot s part q 4096
         let die := (dieSlots q).headD 0
         let s2 := modDie (setPart s1 part (some { q with gooseDone := true })) die (fun d => { d with snaps := d.snaps ++ [snap] })
         postEvent s2 die { code := 0x89, certain := false, unitKind := 0, unit := 0, part := part, detail := slice snap 2 2, by_ := detGoose part }
       else s1)

end Sys2Proof.Machine
end

