-- ==== Sys2Proof/Machine/Fencing.lean ====
section
/-! DEFINITION. Histories and verdicts (R300 to R302), fence actions: the live and the restart procedure, returns and
cluster moves (R305 to R317), trap policies (R346), escalation (R357), and the tables that the management plane
writes (R194, R303). -/

namespace Sys2Proof.Machine

/-! ### Histories (R300, R336) -/

def day : Nat := 86400
def week : Nat := 604800

/-- Kinds of unit that have a Scree record (R335). -/
def hasRecord (kind : Nat) : Bool := kind == 1 || kind == 6 || kind == 7 || kind == 0x20 || kind == 0x21 || kind == 0x22

/-- The unit with a Scree record that stands for a unit: itself, or the pseudo-channel or DIMM of a DRAM row (R335, R337). -/
def recordOf (kind unit : Nat) : Nat × Nat := if kind = 8 ∨ kind = 9 then rowScree kind unit else (kind, unit)

/-- Charge `n` events of a code to a unit: in its Scree record, or in the history that is kept of a unit without one; an event of a DRAM row is in
the record of its pseudo-channel or DIMM too (R300, R335). -/
def chargeUnit (s : State) (kind unit code n : Nat) : State :=
  let e := List.replicate (min n 255) (devSec s, code)
  let o := recordOf kind unit
  let s1 := if hasRecord o.1 then
      modScree s o.1 o.2 (fun r => { r with verdict := max r.verdict 1, ev := (e ++ r.ev).take 3, charged := (e ++ r.charged).take 255 })
    else s
  if hasRecord kind then s1 else { s1 with history := tmod [] s1.history (screeKey kind unit) (fun l => (e ++ l).take 255) }

/-- Charged events in a unit's history, newest first: device seconds and code. -/
def chargesOf (s : State) (kind unit : Nat) : List (Nat × Nat) :=
  if hasRecord kind then (getScree s kind unit).charged else tget [] s.history (screeKey kind unit)

/-- Charged events of a code within a window of seconds. -/
def countIn (s : State) (kind unit code window : Nat) : Nat :=
  ((chargesOf s kind unit).filter (fun e => e.2 == code && decide (devSec s < e.1 + window))).length

/-- Charged events in a unit's history. -/
def countAll (s : State) (kind unit : Nat) : Nat := (chargesOf s kind unit).length

/-- The unit's next charged event is permanent: its soft entry was removed after a test (R319), or it is a suspect core that could not be
withdrawn (R301). -/
def nextIsPermanent (s : State) (kind unit : Nat) : Bool :=
  (getScree s kind unit).firstIsPermanent || (getScree s kind unit).suspect

/-- A permanent verdict: a Scree generation is due (R339). -/
def permanentVerdict (s : State) (kind unit : Nat) : State :=
  { modScree s kind unit (fun r => { r with verdict := 3, suspect := false }) with genAt := 0 }

/-! ### Tables (R194, R303) -/

/-- Write state and reason of CORE_FENCE. -/
def setFence (s : State) (p state reason : Nat) : State :=
  { s with fence := tset 0 s.fence p (setFld (setFld (tget (0 : W64) s.fence p) 2 0 state) 12 5 reason) }

def setHold (s : State) (p : Nat) (h : Bool) : State :=
  { s with fence := tset 0 s.fence p (setFld (tget (0 : W64) s.fence p) 4 4 (if h then 1 else 0)) }

/-- PartID field of CORE_CLU_FENCE. -/
def cluPart (s : State) (c : Nat) : Nat := fld (tget (0 : W64) s.cluFence c) 7 2

def shiftOf (s : State) (g : Nat) : Nat := (tget (0 : BitVec 8) s.shift g).toNat
def setShift (s : State) (g v : Nat) : State := { s with shift := tset 0 s.shift g (BitVec.ofNat 8 v) }

/-- Column 9k of a row segment, as a PhysCoreID. -/
def segBase (g : Nat) : Nat := 1024 * (g / 64) + 64 * (g / 4 % 16) + 9 * (g % 4)

/-- Values of VN_SHIFT that are not reserved (R194). -/
def shiftValues : List Nat := [0x00, 0xFF, 0xFE, 0xFC, 0xF8, 0xF0, 0xE0, 0xC0, 0x80]
def shiftFor (f : Nat) : Nat := 0xFF * 2 ^ f % 256

/-- The segment's spare is in no use and not fenced. -/
def spareFree (s : State) (g : Nat) : Bool := shiftOf s g == 0 && fenceState s (segBase g + 8) == 1

/-! ### What is past a router when an entry changes (R27) -/

/-- The row that takes an arrival of a type at an endpoint (R199). -/
def takeArrival (ty x : Nat) (s : State) : Out :=
  match ty with
  | 0x01 => execWrite x s
  | 0x02 => execWriteIndexed x s
  | 0x03 => execReadReq x s
  | 0x04 => execReadReply x s
  | 0x05 => execWriteAck x s
  | 0x06 => execMsgFirst x s
  | 0x07 => execMsgNext x s
  | 0x08 => execMsgAck x s
  | 0x09 => execMsgNack x s
  | 0x0A => execSyncRaise x s
  | 0x0B => execSyncAck x s
  | _ => .next (popCell s x)

/-- The arrivals at a position are delivered to the core that serves it now, in order; `fuel` is their number. -/
def deliverGo (x : Nat) : Nat → State → State
  | 0, s => s
  | k + 1, s =>
    match (getEnd s x).inbox with
    | [] => s
    | c :: _ =>
      match takeArrival c.type x s with
      | .next t => deliverGo x k t
      | _ => s

def deliverAll (s : State) (x : Nat) : State := deliverGo x (getEnd s x).inbox.length s

/-- Logical positions of a row segment. -/
def segLogs (g : Nat) : List Nat := (List.range 8).map (fun j => 1024 * (g / 64) + 64 * (g / 4 % 16) + 8 * (g % 4) + j)

/-- Cells past the routers of a segment reach the cores that the old entries name (R27). -/
def deliverSeg (s : State) (g : Nat) : State := (segLogs g).foldl deliverAll s

/-- Row segments of a cluster. -/
def clusterSegs (c : Nat) : List Nat := nubBy ((clusterPhys c).map segOfPhys)

/-- Cells past the routers of a cluster reach the cores that the old entries name (R27). -/
def deliverCluster (s : State) (c : Nat) : State := (clusterSegs c).foldl deliverSeg s

/-- CORE_FENCE_STATE (R27, R303). A reserved state is not written. -/
def execCoreFenceState (core state reason : Nat) (s : State) : Out :=
  onUnit (coreOk s core) (if state < 6 then setFence (deliverSeg s (segOfPhys core)) core state (reason % 256) else s)

/-- CORE_HOLD (R303). -/
def execCoreHold (core : Nat) (hold : Bool) (s : State) : Out := onUnit (coreOk s core) (setHold s core hold)

/-- CLUSTER_FENCE_STATE (R27, R303); links follow from the tables (R170). -/
def execClusterFenceState (cluster state part : Nat) (s : State) : Out :=
  onUnit (cluOk s cluster && decide (state < 4 ∧ part < 64)) (setClu (deliverCluster s cluster) cluster state part)

/-- VN_SHIFT_WRITE (R27, R194): a reserved value is refused with event 0x87. -/
def execVnShiftWrite (seg value : Nat) (s : State) : Out :=
  onUnit (segOk s seg)
    (if shiftValues.contains value then setShift (deliverSeg s seg) seg value
     else
       let c := cluOfPhys (segBase seg)
       postEvent s (seg / 64) { code := 0x87, unitKind := 6, unit := cluUnit c, part := partOrNone (partOfCluster s c), by_ := detShift c,
                                detail := [BitVec.ofNat 8 (seg % 4), BitVec.ofNat 8 value] })

/-! ### Fences -/

/-- Announce a unit as fenced (R302). -/
def announce (s : State) (kind unitKind unit : Nat) (part : Option Nat) (rec_ : List Byte) : State :=
  let s1 := devFault s kind unitKind unit rec_
  match part with
  | none => s1
  | some p => jobFault s1 p kind unitKind unit rec_

/-- A sweep with no core left to take or to wait for is complete, and its count stands (R326). -/
def sweepEnds (s : State) : State :=
  if s.sweepFrom.isSome ∧ s.sweep = [] ∧ s.sweepOut = [] then { s with unsounded := min s.missed 0xFFFE } else s

/-- A core that the sweep has taken is done with: it has been sounded, or goes unsounded (R325, R326). -/
def sweepLeaves (s : State) (p : Nat) (sounded : Bool) : State :=
  if s.sweepOut.contains p then
    sweepEnds { s with sweepOut := s.sweepOut.filter (· != p), missed := if sounded then s.missed else s.missed + 1 }
  else s

/-- The test of a core ends. -/
def endTest (s : State) (p : Nat) (sounded : Bool) : State :=
  sweepLeaves { s with sounding := s.sounding.filter (fun e => e.core != p) } p sounded

/-- Clock in MHz and LDO trim in mV of a core under test, from its cluster's grant (R323). -/
def testSupply (g : Nat) : Nat × Nat :=
  let f := (108 * clockOf g + 2499) / 2500 * 25
  if clockOf g ≥ 2225 then (2400, 50) else (f, 25)

/-- A slice of the test is next (R322, R323): it begins now, or, where Sounding yields to a fence action, later (R325). The first one takes the core's memories: what the slices leave there is not stated, and is zero
here (DESIGN CHOICE, log 75). -/
def startSlice (s : State) (p n : Nat) (again : Bool) (begun : Bool := true) : State :=
  let t := testSupply (getPow s (cluOfPhys p)).grant
  { (if n = 1 ∧ !again then modCore s p wipeCore else s) with
      sounding := s.sounding.filter (fun e => e.core != p) ++ [{ core := p, slice := n, again := again, clock := t.1, trim := t.2, begun := begun }] }

/-- The core is fenced: FENCED_SOFT, its Spoil entry and its announcement in one step (R302); what is past the routers still reaches a core that
was in service (R27). -/
def fenceCore (s : State) (p reason : Nat) (rec_ : List Byte) : State :=
  let s0 := if fenceState s p ≥ 2 then s else deliverSeg s (segOfPhys p)
  let s1 := addSoft (setFence s0 p 4 reason) 1 p reason (countAll s 1 p)
  announce (endTest s1 p false) 2 1 p (partOfCluster s (cluOfPhys p)) rec_

/-! ### Rows repaired in the field (R149, R150, R300) -/

/-- Spare rows of a bank of core memory (kind 2) or of a shared slice (kind 3), and the bank of a row unit. -/
def spareRows (kind : Nat) : Nat := if kind = 2 then 16 else 32
def bankKey (kind unit : Nat) : Nat := screeKey kind (unit % (if kind = 2 then 65536 else 8192))
def rowsLeft (s : State) (kind unit : Nat) : Bool := decide (tget 0 s.spares (bankKey kind unit) < spareRows kind)

/-- A spare row of its bank serves a row: the Spoil map says so. -/
def useSpare (s : State) (kind unit reason count : Nat) : State :=
  let b := bankKey kind unit
  addSoft { s with spares := tset 0 s.spares b (tget 0 s.spares b + 1) } kind unit reason count

/-- Unit of a core-memory row (R299). -/
def coreRowUnit (p row : Nat) : Nat := p + 4096 * (row % 16) + 65536 * (row / 16)

/-- The rows of a withdrawn core that are marked for repair get their spares (R149, R300); with none left the core is fenced (R150). -/
def repairMarked (s : State) (p : Nat) : State :=
  let rows := (getCore s p).marked
  if rows = [] then s
  else
    let s1 := modCore s p (fun c => { c with marked := [], fixes := c.fixes.filter (fun e => !rows.contains e.1) })
    rows.foldl (fun s r =>
      let u := coreRowUnit p r
      if rowsLeft s 2 u then useSpare s 2 u 0x82 (countAll s 2 u)
      else if fenceState s p ≥ 4 then s
      else fenceCore (permanentVerdict s 1 p) p 0x82
        (eventBytes { code := 0x82, unitKind := 2, unit := u, part := partOrNone (partOfCluster s (cluOfPhys p)), time := devNs s })) s1

/-- A row of a slice is served by a spare from now on; its words are good. -/
def repairSliceRow (s : State) (key row : Nat) : State :=
  let keep (t : Tbl Bool) : Tbl Bool := t.filter (fun e => e.1 / 8 != row)
  useSpare (modSlice s key (fun v => { v with bad := keep v.bad, weak := keep v.weak })) 3 (sliceRowUnit key row) 0x83
    (countAll s 3 (sliceRowUnit key row))

/-- The rows due in the slices of a cluster that holds no partition are repaired (R149). -/
def repairDue (s : State) (c : Nat) : State :=
  (List.range 4).foldl (fun s k =>
    let rows := (getSlice s (4 * c + k)).due
    if rows = [] then s
    else rows.foldl (fun s r => repairSliceRow s (4 * c + k) r) (modSlice s (4 * c + k) (fun v => { v with due := [] }))) s

/-- Another core of the segment is withdrawn. -/
def withdrawnIn (s : State) (g p : Nat) : Option Nat :=
  (((List.range 8).map (fun j => segBase g + j)).filter (fun q => q != p && (fenceState s q == 2 || fenceState s q == 3))).head?

/-- The partition runs a job. -/
def jobRuns (s : State) (part : Nat) : Bool := match getPart s part with | none => false | some pt => pt.running

/-- The table writes of a remap of the core `p` (R305, R306): the spare serves; the event behind it changes both states (R303). -/
def writeRemap (s : State) (p target reason : Nat) : State :=
  let g := segOfPhys p
  setFence (setFence (setShift s g (shiftFor (p - segBase g))) p target reason) (segBase g + 8) 0 reason

/-- The table writes of a return (R309), and the event, if any, that has led to it (R303, R311). -/
def writeReturn (s : State) (p : Nat) (reason : Nat := 0) : State :=
  let g := segOfPhys p
  setFence (setFence (setShift s g 0) p 0 reason) (segBase g + 8) 1 reason

/-- A remap or a return by table writes alone; what is past the routers goes to the old cores (R27). -/
def tableRemap (s : State) (p target reason : Nat) : State := writeRemap (deliverSeg s (segOfPhys p)) p target reason
def tableReturn (s : State) (p : Nat) (reason : Nat := 0) : State := writeReturn (deliverSeg s (segOfPhys p)) p reason

/-- What follows the table writes of a remap: a fence is entered and announced; a suspect or withdrawn core has its marked rows repaired and
is sounded, unless the device is being shut down (R329); the spare's test in place, if it had one, ends (R324). -/
def afterRemap (s : State) (p target reason : Nat) (rec_ : List Byte) : State :=
  let s1 := endTest s (segBase (segOfPhys p) + 8) false
  if target = 4 then fenceCore s1 p reason rec_
  else
    let s2 := repairMarked s1 p
    if fenceState s2 p ≥ 4 ∨ s2.service = 3 then s2 else startSlice s2 p 1 false

/-- Hold bits at the home columns of the positions that move (R306, steps 3 and 6). -/
def setHolds (s : State) (g f : Nat) (h : Bool) : State :=
  (List.range (8 - f)).foldl (fun s i => setHold s (segBase g + f + i) h) s

/-! ### Images (R307, R308) -/

/-- The state of `src` as it stands in `dst`: every bit but what belongs to the unit: the microcode, which every core holds (R491), a stop under
R148, and the error histories. The words are written with fresh codes; one that could not be corrected stays uncorrectable (DESIGN CHOICE, log
84). -/
def imageTo (src dst : Core) : Core :=
  { src with microcode := dst.microcode, micro := dst.micro, corrected := dst.corrected, chunk := dst.chunk, chunkNo := dst.chunkNo,
             chunksHeld := dst.chunksHeld, fixes := dst.fixes, marked := dst.marked, stopped := dst.stopped, weak := [], vweak := [] }

/-- What the restart procedure carries of a stopped core: core memory, and the registers of the position; not the vector
store, the operand buffers, the accumulators or check values. -/
def memoryTo (src dst : Core) : Core :=
  { imageTo src dst with
    cv := [], vbad := dst.vbad, vweak := dst.vweak, frozenAt := none, frozenAcc := dst.frozenAcc,
    te := { dst.te with ops := [], last := src.te.last, count := src.te.count, merge := src.te.merge },
    ve := { store := dst.ve.store, lanes := src.ve.lanes, seed := src.ve.seed, quant := src.ve.quant } }

/-- The core is left behind: it holds nothing that a release would complete, and its tags are those of the position, which has moved on. -/
def leftBehind (c : Core) : Core := { dropWork c with frozenAt := none, deferred := [], tags := [], held := [] }

/-- First word of a list of marks that cannot be corrected. -/
def firstBadWord (t : Tbl Bool) : Option Nat := (t.find? (·.2)).map (·.1)

/-- The pass reads a core's memories, whole: single-bit errors are corrected and counted (R147); at a word that cannot be corrected the core
stops, with event 0x82 (R148). -/
def readImage (s : State) (p : Nat) (store : Bool) : State :=
  let s1 := modCore s p (fun c =>
    let c1 := fixCore (devSec s) c 0 (2 ^ 21)
    if store then fixStore c1 0 (2 ^ 15) else c1)
  let c := getCore s1 p
  if c.stopped then s1
  else
    match firstBadWord c.bad, if store then firstBadWord c.vbad else none with
    | some w, _ => coreStop s1 p (w / 8) (w % 8) false
    | none, some w => coreStop s1 p (w / 8) (w % 8) true
    | none, none => s1

/-- The pass reads every core of a segment from `lo` to `hi`. -/
def readImages (s : State) (g lo hi : Nat) (store : Bool) : State :=
  (List.range (hi + 1 - lo)).foldl (fun s i => readImage s (segBase g + lo + i) store) s

/-- Move positions f to 7 of a segment one column east; `carry` is what goes along. -/
def moveEast (s : State) (g f : Nat) (carry : Core → Core → Core) : State :=
  let b := segBase g
  ((List.range (8 - f)).map (fun i => 7 - i)).foldl (fun s j =>
    setCore s (b + j + 1) (carry (getCore s (b + j)) (getCore s (b + j + 1)))) s

/-- Move positions f to 7 back west. -/
def moveWest (s : State) (g f : Nat) (carry : Core → Core → Core) : State :=
  let b := segBase g
  ((List.range (8 - f)).map (fun i => f + i)).foldl (fun s j =>
    setCore s (b + j) (carry (getCore s (b + j + 1)) (getCore s (b + j)))) s

/-- The cores that the image pass would read hold an uncorrectable word (R311). -/
def passDirty (s : State) (g f : Nat) (east : Bool) : Bool :=
  (List.range (8 - f)).any (fun i =>
    let c := getCore s (segBase g + f + i + if east then 0 else 1)
    c.bad.any (·.2) || c.vbad.any (·.2))

/-- Clear the serving core of a position and write into it what the image places there (R308, step 3). -/
def reloadCore (s : State) (pt : Part) (p n : Nat) : State :=
  modCore s p (fun c =>
    let c1 := wipeCore c
    if pt.image = [] then c1
    else (coreContent pt.image pt n).foldl (fun c e => writeCore c e.1 e.2) (setupCore (imgRegs pt.image n) c1))

/-! ### Escalation (R357) -/

/-- Unit keys of charged resets beside those of R335: a die, the management complex. -/
def dieKey (d : Nat) : Nat := screeKey 0x100 d
def mgmtKey : Nat := screeKey 0x101 0
def deviceKey : Nat := screeKey 0x22 0

/-- Charge a reset to a unit: the state with the window copied to flash, and whether the threshold is met. -/
def chargeReset (s : State) (key : Nat) : State × Bool :=
  let now := devNs s
  let window := if key = deviceKey then 86400 * 10 ^ 9 else 600 * 10 ^ 9
  let l := (now, key) :: (s.charged.filter (fun e => !(e.1 == key && decide (e.2.1 + window ≤ now)))).map (fun e => (e.2.1, e.1))
  let all : List (Nat × Nat × Nat) := l.map (fun e => (e.2, e.1, 0))
  let n := (all.filter (fun e => e.1 == key)).length
  ({ s with charged := all, flash := { s.flash with windows := all.map (fun e => (e.1, e.2.1)) } },
   decide (n ≥ if key = deviceKey then 4 else 3))

/-! ### Dies out of service (R317) -/

/-- Take a die out of service: every partition on it is stopped and aborted. `linkVerdict` and `repairUnit` make the Spoil entry that keeps
it out. -/
def dieOut (s : State) (d : Nat) : State :=
  let s1 := modDie s d (fun v => { v with out := true })
  let s2 := (List.range 64).foldl (fun s p =>
    match getPart s p with
    | none => s
    | some pt => if (diesOf pt).contains d then abortPart s p 3 (stopScope 0xF1 [] []) else s) s1
  setService s2 s2.service

/-- Physical cores of a die. -/
def dieCores (s : State) (d : Nat) : List Nat := (allCores s).filter (fun p => dieOf p == d)

/-- A partition loses what was under way on it when a reset that contains it begins: actions, moves, loads. -/
def dropActions (s0 : State) (part : Nat) : State :=
  let s := ((getPart s0 part).elim [] (·.actions)).foldl (fun s a => if a.kind = 0 ∧ a.target = 2 then sweepLeaves s a.core false else s) s0
  modPart s part (fun q => { q with actions := [], moves := [], due := [], flock := [], loading := false,
                                    image := if q.loading then [] else q.image, stopping := false })

/-- The landing credits of other dies that requests on the pass-through paths of a die hold go back (R40, R207). -/
def returnLanding (s : State) (d : Nat) : State :=
  if isFour s then
    s.routers.foldl (fun s r =>
      if dieOf r.1 ≠ d then s
      else r.2.buf.foldl (fun s b =>
        if b.1 / 4 ≠ 10 then s
        else (b.2.filter (fun c => c.type == 0x03)).foldl (fun s c =>
          { s with landing := tmod 0 s.landing (landingKey s (oxPort s d (dieOf c.dst)) c.dst) (· - 1) }) s) s) s
  else s

/-- The transit domain, the endpoints and the engines of a die are reset (R341). -/
def resetTransit (s0 : State) (d : Nat) : State :=
  let here (x : Nat) : Bool := x / 1024 == d
  let s := returnLanding s0 d
  let s1 := { s with switches := s.switches.filter (fun e => !here e.1), routers := s.routers.filter (fun e => !here e.1),
                     ends := s.ends.filter (fun e => !here e.1) }
  let s2 := [2 * d, 2 * d + 1].foldl (fun s k => { s with landing := tset 0 s.landing k (landingHeld s k) }) s1
  modDie s2 d (fun v => { v with queue := [], cur := none })

/-- A die reset begins (R347): the dump, the stop of every partition with a cluster on the die, and the resets inside it.
HBM4 contents and the contents of the memories stay. -/
def beginDieReset (s : State) (d cause : Nat) : State :=
  let cores := dieCores s d
  let s1 := capture s { code := 4, unit := d, cause := cause, cores := serving s cores }
  let s2 := (List.range 64).foldl (fun s p =>
    match getPart s p with
    | none => s
    | some pt => if (diesOf pt).contains d then dropActions (abortPart s p 3 (stopScope cause [] [])) p else s) s1
  let s3 := (List.range 16).foldl (fun s i => resetCluster (fun _ => false) s (16 * d + i)) s2
  let s4 := (List.range 64).foldl (fun s k => modSlice s (64 * d + k) (fun v => { v with ctx := [] })) s3
  let s5 := resetTransit s4 d
  modDie (cores.foldl (fun s p => endTest s p false) s5) d (fun v => { v with resetting := true, resetAt := devNs s })

/-- Ouvos resets a die as it takes it out of service (R317, R341); the reset is charged to the die (R357). -/
def resetDieOut (s : State) (d : Nat) : State :=
  setService (beginDieReset (chargeReset (modDie s d (fun v => { v with out := true })) (dieKey d)).1 d 0xF1) s.service

/-! ### Cluster failures and moves (R312 to R316) -/

/-- Target code of a Flock-load target: its kind and number. -/
def targetCode (q : Piece) : Nat := 65536 * q.kind + q.target

/-- Pieces of a load, or of the moves in hand, as they are numbered: of a move, the content of its slot and the schedule set
for its reserve. -/
def loadPieces (pt : Part) : List Piece :=
  match pt.moves.getLast? with
  | none => (List.range pt.clusters.length).flatMap (slotPieces pt.image pt) ++ switchPieces pt.image pt 0
  | some m => pt.moves.flatMap (fun e => slotPieces pt.image pt e.1) ++ switchPieces pt.image pt (1 + m.2)

/-- Broadcast a load and wait for its targets' roll calls. -/
def beginLoad (s : State) (part : Nat) : State :=
  match getPart s part with
  | none => s
  | some pt =>
    let l := loadPieces pt
    broadcast (setPart s part (some { pt with loading := true, chunks := pt.chunks + l.length, flock := (nubBy (l.map targetCode)).map (fun t => (t, 0, 0)) }))
      part (diesOf pt) l

/-- First declared reserve that is still held for the partition and whose schedule set, in the slot of cluster `c`, keeps R176 (log 23). -/
def reserveFor (s : State) (part : Nat) (pt : Part) (c : Nat) : Option Nat :=
  pt.declared.find? (fun r => cluState s (16 * pt.die + r) == 2 && cluPart s (16 * pt.die + r) == part &&
    (pt.image == [] || !movedBad s part ((indexIn pt.clusters c).getD 0) r pt))

/-- A cluster is failed in the tables, entered and announced. -/
def markFailed (s : State) (c reason : Nat) (part : Option Nat) (rec_ : List Byte) : State :=
  let s0 := modPow (setClu (deliverCluster s c) c 3 0) c (fun w => { w with mode := 3, lend := false })
  let s1 := addSoft (permanentVerdict s0 6 (cluUnit c)) 6 (cluUnit c) reason (countAll s 6 (cluUnit c))
  announce s1 2 6 (cluUnit c) part rec_

/-- The first reserve that is still held takes the slot of cluster `c` and is cleared (R314, steps 2 and 3), and so is the cluster that leaves
(R151); the tests of the reserve's cores in place end (R324); `none` when there is no reserve. -/
def swapIn (s : State) (part c : Nat) : Option State :=
  match getPart s part with
  | none => none
  | some pt =>
    (reserveFor s part pt c).map (fun r =>
      let res := 16 * pt.die + r
      let i := (indexIn pt.clusters c).getD 0
      let s1 := modPart s part (fun q => { q with clusters := q.clusters.set i res, failed := q.failed.filter (· != c), waiting := false,
                                                  moves := q.moves.filter (fun m => m.1 != i) ++ [(i, r)] })
      let s2 := repairDue (wipeCluster s1 c) c
      let s3 := (clusterPhys res).foldl (fun s p => if fenceState s p ≤ 1 then endTest s p false else s) s2
      modPow (wipeCluster (setClu s3 res 1 part) res) res (fun w => { w with mode := if pt.running then 0 else 2 }))

/-- No reserve is left (R316): the job is aborted, and the partition waits for one. -/
def awaitReserve (s : State) (part c reason : Nat) : State :=
  modPart (abortPart s part 3 (stopScope reason [] [])) part (fun q =>
    { q with waiting := true, failed := if q.failed.contains c then q.failed else q.failed ++ [c] })

/-- A move begins (R314, steps 1 to 4): the state, and whether the action is already over. -/
def beginMove (s : State) (part c reason : Nat) (rec_ : List Byte) : State × Bool :=
  match getPart s part with
  | none => (s, true)
  | some pt =>
    if !pt.clusters.contains c then (s, true)
    else
      let s0 := if cluState s c = 3 then s else markFailed s c reason (some part) rec_
      if (reserveFor s0 part pt c).isNone then (awaitReserve s0 part c reason, true)
      else
        match swapIn (stopPart (chargeReset s0 (screeKey 6 (cluUnit c))).1 part (stopScope reason [] [])) part c with
        | none => (s0, true)
        | some s1 =>
          if pt.image = [] then
            (modPart s1 part (fun q => { q with moves := [] }), true)
          else (beginLoad s1 part, false)

/-- A cluster fails. Of a serving cluster the work moves, as a fence action of the partition; any other is only marked. -/
def failAction (c reason : Nat) (s : State) (record : List Byte := []) : FenceAction :=
  { kind := 3, core := c, target := 0, reason := reason, step := 0, since := s.fab, record := record }

/-! ### Starting and ending actions (R311) -/

/-- Restart after a fence action, when a job runs. -/
def resumeJob (s : State) (part : Nat) : State := if jobRuns s part then restartPart s part else s

/-- Steps 2 to 4 of the restart procedure on a stopped or idle partition: memories, reload, census, table writes. -/
def remapMemory (s : State) (part p target reason : Nat) (rec_ : List Byte) : State :=
  match getPart s part with
  | none => s
  | some pt =>
    let g := segOfPhys p
    let f := p - segBase g
    let n := (indexOf s p).map (·.2)
    let s0 := readImages (deliverSeg s g) g (f + 1) 7 false
    let held := getCore s0 (segBase g + f + 1)
    let s1 := setCore (moveEast s0 g f memoryTo) (segBase g + f + 1) held
    let s2 := match n with | none => s1 | some n => reloadCore s1 pt (segBase g + f + 1) n
    let s3 := modCore s2 p leftBehind
    let s4 := writeRemap s3 p target reason
    afterRemap (censusEnds s4 { code := 9, part := part, cause := reason } (devNs s) (partCensus s4 part (partCores s4 pt) true))
      p target reason rec_

/-- The restart procedure (R308), done whole; the stop is that of a job in progress. -/
def restartRemap (s : State) (part : Nat) (a : FenceAction) (rec_ : List Byte) : State :=
  let g := segOfPhys a.core
  let s0 := setHolds s g 0 false
  let s1 := if jobRuns s part then stopPart s0 part (stopScope a.reason [a.core] []) else (getPart s part).elim s0 (fun pt => freezePart s0 pt false)
  let s2 := if a.kind = 1 then
      let s2 := readImages (deliverSeg s1 g) g (a.core - segBase g + 1) 8 false
      let s3 := writeReturn (modCore (moveWest s2 g (a.core - segBase g) memoryTo) (segBase g + 8) leftBehind) a.core a.reason
      (getPart s3 part).elim s3 (fun pt =>
        censusEnds s3 { code := 9, part := part, cause := a.reason } (devNs s) (partCensus s3 part (partCores s3 pt) true))
    else remapMemory s1 part a.core a.target a.reason rec_
  resumeJob s2 part

/-- The live procedure begins: every core is frozen (R306, step 1). -/
def beginLive (s : State) (part : Nat) (a : FenceAction) : State :=
  match getPart s part with
  | none => s
  | some pt =>
    modPart (freezePart s pt true) part (fun q => { q with quiet := 0, actions := { a with step := 1, since := s.fab } :: q.actions.drop 1 })

/-- The record that an action's announcements carry (R413): that of the event behind it, else one of its reason. -/
def actionRecord (s : State) (a : FenceAction) : List Byte :=
  if a.record ≠ [] then a.record
  else eventBytes { code := a.reason, unitKind := if a.kind = 3 then 6 else 1, unit := if a.kind = 3 then cluUnit a.core else a.core,
                    part := partOrNone (partOfCluster s (if a.kind = 3 then a.core else cluOfPhys a.core)), time := devNs s }

/-- Whether the partition's schedules in force select a CN generator (R175, R305): those that its switches hold. -/
def generatorIn (s : State) (part : Nat) : Bool :=
  match getPart s part with
  | none => false
  | some pt => (partSwitches pt).any (fun x => (getSwitch s x).cn.any (fun e => (sources e.2 5).contains 6))

/-- A withdrawal that cannot be made: a suspect core stays in service, marked suspect (R301); a core of the sweep goes unsounded (R325). -/
def staysIn (s : State) (p target : Nat) : State :=
  if target = 3 then modScree s 1 p (fun r => { r with suspect := true }) else sweepLeaves s p false

/-- Start a remap (R305, R311, R312, R324): the state, and what it leaves to do: `true` when the action is over. -/
def beginRemap (s : State) (part : Nat) (a : FenceAction) : State × Bool :=
  let p := a.core
  let g := segOfPhys p
  let st := fenceState s p
  let rec_ := actionRecord s a
  let replace (b : List FenceAction) : State := modPart s part (fun q => { q with actions := b ++ q.actions.drop 1 })
  if st ≥ 4 then (s, true)
  else if st = 2 ∨ st = 3 then (if a.target = 4 then fenceCore s p a.reason rec_ else s, true)
  else if p - segBase g = 8 ∧ shiftOf s g = 0 then (if a.target = 4 then fenceCore s p a.reason rec_ else s, true)
  else
    match withdrawnIn s g p with
    | some q =>
      if a.target = 4 then
        (replace [{ kind := 1, core := q, target := 0, reason := a.reason, step := 0, since := s.fab }, a], false)
      else (staysIn s p a.target, true)
    | none =>
      if !spareFree s g then
        if a.target = 4 then
          let s1 := fenceCore s p a.reason rec_
          (modPart s1 part (fun q => { q with actions := failAction (cluOfPhys p) a.reason s :: q.actions.drop 1 }), false)
        else (staysIn s p a.target, true)
      else if a.target = 2 ∧ !jobRuns s part then
        (afterRemap (modCore (tableRemap s p 2 a.reason) (segBase g + 8) wipeCore) p 2 a.reason rec_, true)
      else if a.kind = 2 ∨ (getCore s p).stopped ∨ generatorIn s part then
        if a.target = 2 ∧ generatorIn s part then (staysIn s p 2, true) else (restartRemap s part a rec_, true)
      else (beginLive s part a, false)

/-- Start a return. -/
def beginReturn (s : State) (part : Nat) (a : FenceAction) : State × Bool :=
  if fenceState s a.core ≠ 2 ∧ fenceState s a.core ≠ 3 then (s, true)
  else
    let s1 := endTest s a.core false
    if fenceState s a.core = 2 ∧ !jobRuns s part then (tableReturn s1 a.core a.reason, true)
    else if generatorIn s part then (restartRemap s1 part a (actionRecord s a), true)
    else (beginLive s1 part a, false)

/-- Carry out the actions of a partition in the order of their verdicts, as far as they need nothing from outside. A load
in progress and an ISOLATE search come first (R311, R493). -/
def runActions (part : Nat) : Nat → State → State
  | 0, s => s
  | k + 1, s =>
    match getPart s part with
    | none => s
    | some pt =>
      match pt.actions with
      | [] => s
      | a :: _ =>
        if a.step ≠ 0 ∨ pt.loading ∨ pt.isolate.isSome then s
        else
          let (s1, excess) :=
            if a.kind = 3 then
              let (s1, excess) := beginMove s part a.core a.reason (actionRecord s a)
              (if excess then s1
               else modPart s1 part (fun q => { q with actions := { a with step := 2 } :: q.actions.drop 1 }), excess)
            else if a.kind = 1 then beginReturn s part a
            else beginRemap s part a
          runActions part k (if excess then modPart s1 part (fun q => { q with actions := q.actions.drop 1 }) else s1)

def kick (s : State) (part : Nat) : State := runActions part (((getPart s part).map (fun q => q.actions.length)).getD 0 * 4 + 4) s

/-- A fence action joins those of its partition. -/
def pushAction (s : State) (part : Nat) (a : FenceAction) : State :=
  kick (modPart s part (fun q => { q with actions := q.actions ++ [a] })) part

/-- The action in hand is over: the next one begins. -/
def actionOver (s : State) (part : Nat) : State := kick (modPart s part (fun q => { q with actions := q.actions.drop 1 })) part

/-- A cluster fails (R312). -/
def failCluster (s : State) (c reason : Nat) (record : List Byte := []) : State :=
  match partOfCluster s c with
  | some part => pushAction s part (failAction c reason s record)
  | none =>
    if cluState s c = 3 then s
    else markFailed s c reason (if cluState s c = 2 then some (cluPart s c) else none) (actionRecord s (failAction c reason s record))

/-- A permanent verdict on a core (R300, R305, R311, R312). `intact`: its state may be carried across. In a cluster that holds no partition the
remap is by table writes, after the return of a withdrawn core of the segment; without a spare the cluster fails with the core. In a partition the
verdict waits its turn (R311); a return of the core itself that has not begun gives way to it. -/
def permanentCore (s : State) (p reason : Nat) (intact : Bool) (record : List Byte := []) : State :=
  let s1 := permanentVerdict s 1 p
  let a : FenceAction := { kind := if intact then 0 else 2, core := p, target := 4, reason := reason, step := 0, since := s.fab,
                           record := record }
  if fenceState s p ≥ 4 then s1
  else
    match partOfCluster s (cluOfPhys p) with
    | some part => pushAction (modPart s1 part (fun q => { q with actions := q.actions.filter (fun b => !(b.kind == 1 && b.core == p && b.step == 0)) })) part a
    | none =>
      if fenceState s p ≥ 2 then fenceCore s1 p reason (actionRecord s a)
      else if p - segBase (segOfPhys p) = 8 ∧ shiftOf s (segOfPhys p) = 0 then fenceCore s1 p reason (actionRecord s a)
      else
        let s2 := match withdrawnIn s1 (segOfPhys p) p with | none => s1 | some q => tableReturn (endTest s1 q false) q
        if spareFree s2 (segOfPhys p) then afterRemap (tableRemap s2 p 4 reason) p 4 reason (actionRecord s a)
        else failCluster (fenceCore s2 p reason (actionRecord s a)) (cluOfPhys p) reason record

/-- A suspect core (R301): withdrawn and tested where its segment has a free spare, left in service, marked suspect, otherwise; behind the fence actions of its partition the verdict
waits its turn (R311). -/
def suspectCore (s : State) (p reason : Nat) (record : List Byte := []) : State :=
  let s1 := modScree s 1 p (fun r => { r with verdict := max r.verdict 2 })
  let g := segOfPhys p
  if fenceState s p ≥ 2 then s1
  else
    let a : FenceAction := { kind := 0, core := p, target := 3, reason := reason, step := 0, since := s.fab,
                             record := record }
    let free : Bool := fenceState s p == 0 && spareFree s g && (withdrawnIn s g p).isNone
    match (partOfCluster s (cluOfPhys p)).bind (fun part => (getPart s part).map (fun pt => (part, pt))) with
    | some (part, pt) => if free || !pt.actions.isEmpty then pushAction s1 part a else staysIn s1 p 3
    | none => if free then afterRemap (tableRemap s1 p 3 reason) p 3 reason [] else staysIn s1 p 3

/-! ### Settling (R306) -/

/-- Openers of a type that the frozen core has not begun to send. -/
def notBegun (e : Endpoint) (tys : List Nat) : Nat := (e.outbox.filter (fun c => tys.contains c.type)).length

/-- The core at a position has no unanswered transfer and no unsent cell. -/
def coreSettled (s : State) (l : Nat) : Bool :=
  let c := getCore s (servedBy s l)
  let e := getEnd s l
  let live := (c.tags.map (fun t => match t.2 with | none => 0 | some o => o.live.length)).sum + (c.records.filter (fun r => r.answer.isNone)).length
  let sends := (c.send.filter (fun v => match v.2.cur with | none => false | some m => !m.backoff && !m.acked)).length
  let contributes := (c.te.ops.filter (fun o => o.phase == .answer)).length
  (sendable s l).isEmpty && decide (live ≤ notBegun e [0x02, 0x03]) &&
  decide (c.raises.length ≤ notBegun e [0x0A] + (c.deferred.filter (fun d => d.1 == 2 || d.1 == 3)).length) &&
  decide (sends ≤ notBegun e [0x06] + (c.deferred.filter (fun d => d.1 == 0 || decide (d.1 ≥ 16))).length) &&
  decide (contributes ≤ notBegun e [0x0C])

/-- The frozen partition has settled. -/
def settled (s : State) (pt : Part) : Bool :=
  (List.range (coresOf pt)).all (fun n => coreSettled s (logAt pt n)) &&
  (partSwitches pt).all (fun x => !inService s x || decide (pt.quiet ≥ 2 * periodOf (getSwitch s x)))

/-- Release the cores of a partition, those that served before the move and those that serve after it. -/
def releaseAll (s : State) (l : List Nat) : State := (nubBy l).foldl (fun s p => setFrozen s p false) s

/-- Steps 4 to 6 of the live procedure (R306, R307, R309). -/
def finishLive (s : State) (part : Nat) (pt : Part) (a : FenceAction) : State :=
  let g := segOfPhys a.core
  let f := a.core - segBase g
  let before := partCores s pt
  let rec_ := actionRecord s a
  let s0 := readImages (deliverSeg s g) g (if a.kind = 1 then f + 1 else f) (if a.kind = 1 then 8 else 7) true
  let moved := if a.kind = 1 then modCore (moveWest s0 g f imageTo) (segBase g + 8) leftBehind
               else modCore (moveEast s0 g f imageTo) a.core leftBehind
  let s1 := setHolds (if a.kind = 1 then writeReturn moved a.core a.reason else writeRemap moved a.core a.target a.reason) g f false
  let now := partCores s1 pt
  let s2 := censusEnds s1 { code := 9, part := part, cause := a.reason } (devNs s) (partCensus s1 part now false)
  let s3 := releaseAll s2 (before ++ now ++ (List.range 9).map (fun j => segBase g + j))
  actionOver (if a.kind = 1 then s3 else afterRemap s3 a.core a.target a.reason rec_) part

/-- The frozen partition has settled (R306): the columns of the positions that move are held, and the remap completes. An uncorrectable word
that the image pass reads turns it into the restart procedure (R311). -/
def remapSettled (s : State) (part : Nat) : State :=
  match getPart s part with
  | none => s
  | some pt =>
    match pt.actions with
    | a :: _ =>
      if a.step = 1 ∧ settled s pt then
        let g := segOfPhys a.core
        let f := a.core - segBase g
        let s1 := setHolds s g f true
        if passDirty s1 g f (a.kind != 1) then
          actionOver (restartRemap (readImages s1 g (if a.kind = 1 then f + 1 else f) (if a.kind = 1 then 8 else 7) true) part a (actionRecord s a)) part
        else finishLive s1 part pt a
      else s
    | [] => s

/-- Settling has taken more than 500 µs (R306): the restart procedure, with the partition still frozen. -/
def settleTimeout (s : State) (part : Nat) : State :=
  match getPart s part with
  | none => s
  | some pt =>
    match pt.actions with
    | a :: _ =>
      if a.step = 1 ∧ settled s pt = false ∧ s.fab ≥ a.since + usCycles 500 then actionOver (restartRemap s part a (actionRecord s a)) part
      else s
    | [] => s

/-! ### Trap policies (R346, R354, R355) -/

/-- A restart under a policy: the fourth within 10 minutes is an abort. -/
def policyRestart (s : State) (part cause : Nat) (first : List Nat) : State :=
  match getPart s part with
  | none => s
  | some pt =>
    if (pt.recent.filter (fun t => decide (devNs s < t + 600000000000))).length ≥ 3 then abortPart s part 2 (stopScope cause first [])
    else restartPart s part

/-- Engine of the operation that a trap record names: 0 TE, 1 VE, 2 DMA, 3 queue ports; 4 for a command of another kind. -/
def trapEngine (s : State) (p : Nat) (r : TrapRec) : Nat :=
  let op := numAt (readBytes (getCore s p).mem (8 * r.index + 7) 1) 0 1
  if 0x10 ≤ op ∧ op ≤ 0x14 then engineOf op else 4

/-- Suspects of a core (R354): threads with an operation on the engine since their newest replay record. -/
def suspectsOf (c : Core) (engine : Nat) : List Nat := threadIds.filter (fun t => (getThread c t).used.contains engine)

/-- No core: what triggered the search was an event of the partition. -/
def noCore : Nat := 4096

/-- Apply a policy to a trap or Goose event of the job. -/
def applyPolicy (s : State) (part : Nat) (pt : Part) (cause : Nat) (first : List Nat) (engine : Nat) (snap : List Byte) : State :=
  let x := stopScope cause first snap
  match pt.policy with
  | 1 => abortPart s part 2 x
  | 2 => policyRestart (if (pt.recent.filter (fun t => decide (devNs s < t + 600000000000))).length ≥ 3 then s else stopPart s part x) part cause first
  | 3 =>
    let core := first.headD noCore
    let l := if first = [] then [] else suspectsOf (getCore s core) engine
    let s1 := stopPart s part x
    let s2 := if first = [] then s1 else (partCores s1 pt).foldl (fun s p => if p = core then s else setFrozen s p true) s1
    let v : Isolate := { core := core, engine := engine, cause := cause, todo := l, current := none, since := s.fab, hits := [] }
    modPart s2 part (fun q => { q with stopping := true, isolate := some v })
  | _ => s

/-- Charge the reset that an ABFT trap's policy has caused to the core (R357). -/
def chargeCore (s : State) (p cause : Nat) : State :=
  let (s1, hit) := chargeReset s (screeKey 1 p)
  if hit then permanentCore s1 p cause true else s1

/-- The thread still stands TRAPPED with this record. -/
def stillTrapped (s : State) (r : TrapRec) : Option (Nat × Nat) :=
  let p := servedBy s (r.who % 4096)
  let t := r.who / 4096
  let th := getThread (getCore s p) t
  match th.state, th.trap with
  | .trapped, some q => if q.time = r.time ∧ q.cause = r.cause ∧ q.index = r.index then some (p, t) else none
  | _, _ => none

/-- A fence action of the partition is under way or waiting, or one of its cores has stopped under R148 and waits for its
fence (R311). -/
def actionPending (s : State) (pt : Part) : Bool :=
  !pt.actions.isEmpty ||
  (partCores s pt).any (fun p => (getCore s p).stopped && decide (fenceState s p ≤ 1) && (partOfCluster s (cluOfPhys p)).isSome)

/-- The policy of a trap, a Goose event or a frozen group in strict mode (R71, R293, R346), where its job still stands as it did. -/
def policyFor (s : State) (e : RingEntry) (snap : List Byte) : State :=
  match e with
  | .trap r =>
    match getPart s r.part, stillTrapped s r with
    | some pt, some (p, _) =>
      if pt.running then
        let s1 := applyPolicy s r.part pt r.cause [p] (trapEngine s p r) []
        if r.cause = causeAbft ∧ pt.policy ≠ 3 then chargeCore s1 p r.cause else s1
      else s
    | _, _ => s
  | .event r =>
    match getPart s r.part with
    | some pt => if pt.running && (r.code != 0x89 || pt.gooseDone) then applyPolicy s r.part pt r.code [] 4 snap else s
    | none => s

/-- Carry out a policy, or let it wait for the partition's fence action (R311). -/
def policyOrWait (s : State) (part : Nat) (pt : Part) (e : RingEntry) (snap : List Byte) : State :=
  if !pt.running || pt.policy == 0 || decide (pt.policy > 3) then s
  else if actionPending s pt then modPart s part (fun q => { q with due := q.due ++ [(e, snap)] })
  else policyFor s e snap

/-- The policies that a fence action has held up, in order, once it is over. -/
def duePolicies (s : State) : State :=
  (List.range 64).foldl (fun s k =>
    match getPart s k with
    | none => s
    | some pt =>
      match pt.due with
      | [] => s
      | e :: r => if actionPending s pt || pt.isolate.isSome then s else policyFor (modPart s k (fun q => { q with due := r })) e.1 e.2) s

/-- Ouvos takes a trap record (R71): the job event, then the policy. The records of an ISOLATE search's replay are not forwarded (DEDUCED,
log 31). -/
def takeTrap (s : State) (r : TrapRec) : State :=
  match getPart s r.part with
  | none => s
  | some pt =>
    if (stillTrapped s r).isSome && pt.isolate.isSome then s
    else policyOrWait (jobEvent s r.part 0x0281 stOk (trapBytes r)) r.part pt (.trap r) []

/-! ### Fault events (R300) -/

/-- Unit behind an endpoint that a check-value event names: a core, a slice's cluster, or the row of external memory that the partition address
of its detail names, where it lies in that memory. -/
def endpointUnit (s : State) (e : EventRec) (pos : Nat) : Option (Nat × Nat) :=
  if pos % 64 < 32 then some (1, servedBy s pos)
  else if pos % 64 < 36 then some (6, cluUnit (sliceOfPos pos / 4))
  else
    (getPart s e.part).bind (fun pt =>
      let a := numAt e.detail 6 6
      let d := placeOf pt (dieOf pos) a
      if a < 2 ^ 36 ∨ a ≥ 2 ^ 43 ∨ d.pos ≠ pos then none
      else some (sectorUnit s (if a < 2 ^ 40 then 0 else 1) (d.addr / 512)))

/-- One endpoint of a check-value failure: three within 24 hours make it suspect (R300); a suspect core that stayed in service, and a core or
cluster whose entry was removed after a test, becomes permanent (R301, R319). Only of a core does the manual say what follows from a
suspicion. -/
def chargeEndpoint (s : State) (u : Nat × Nat) (code n : Nat) (record : List Byte) : State :=
  let s1 := chargeUnit s u.1 u.2 code n
  let o := recordOf u.1 u.2
  if u.1 = 1 then
    if nextIsPermanent s 1 u.2 then permanentCore s1 u.2 code true record
    else if countIn s1 1 u.2 code day ≥ 3 then suspectCore s1 u.2 code record else s1
  else if u.1 = 6 ∧ nextIsPermanent s 6 u.2 then failCluster s1 (16 * (u.2 % 4) + u.2 / 4 % 16) code record
  else if countIn s1 u.1 u.2 code day ≥ 3 then modScree s1 o.1 o.2 (fun r => { r with verdict := max r.verdict 2 })
  else s1

/-- Verdict on an ABFT mismatch. -/
def abftVerdict (s : State) (p n : Nat) (record : List Byte) : State :=
  let r := getScree s 1 p
  let s1 := modScree (chargeUnit s 1 p 0x80 n) 1 p (fun r => { r with abft := sat32 (r.abft + n) })
  if r.verdict = 2 ∨ nextIsPermanent s 1 p ∨ countIn s1 1 p 0x80 day ≥ 3 then permanentCore s1 p 0x80 true record
  else if countIn s1 1 p 0x80 day = 2 then suspectCore s1 p 0x80 record else s1

/-- A slice row with an uncorrectable word: it is repaired from its bank's spares while the cluster holds no partition, and is due until then; with
none left the cluster fails at once (R149, R150, R300). -/
def sliceVerdict (s : State) (unit n : Nat) (record : List Byte) : State :=
  let c := 16 * (unit % 4) + unit / 4 % 16
  let key := 4 * c + unit / 64 % 4
  let row := unit / 256 % 32 + 32 * (unit / 8192)
  let s1 := addUncorrected (chargeUnit s 3 unit 0x83 n) 6 (cluUnit c) n
  let waiting := (getSlice s key).due.filter (fun r => bankKey 3 (sliceRowUnit key r) == bankKey 3 unit)
  if waiting.contains row then s1
  else if tget 0 s.spares (bankKey 3 unit) + waiting.length ≥ spareRows 3 then failCluster s1 c 0x83 record
  else if (partOfCluster s c).isSome then modSlice s1 key (fun v => { v with due := v.due ++ [row] })
  else repairSliceRow s1 key row

/-- A link of a scheduled network: the clusters that its switches belong to. -/
def linkClusters (unit : Nat) : List Nat :=
  let x := unit % 4096
  let r := rowIx x
  let c := colIx x
  let y := match unit / 4096 % 8 with
    | 0 => if r = 0 then [] else [x - 64]
    | 1 => if c = 35 then [] else [x + 1]
    | 2 => if r = 15 then [] else [x + 64]
    | 3 => if c = 0 then [] else [x - 1]
    | _ => []
  (x :: y).map cluOfPhys

/-- Verdict on an uncorrectable word (R300, R317, R319): on the SN or the CN the link's cluster fails at once; on the VN at the second within 24
hours. A VN link between switches of two partitions takes the die out of service, and its Spoil entry keeps it out. -/
def linkVerdict (s : State) (unit n : Nat) (record : List Byte) : State :=
  let c := cluOfPhys (unit % 4096)
  let s1 := chargeUnit s 4 unit 0x84 n
  let fails (s : State) : State := failCluster (chargeUnit s 6 (cluUnit c) 0x84 n) c 0x84 record
  if unit / 2 ^ 15 % 4 ≠ 0 then fails s1
  else if countIn s1 4 unit 0x84 day ≥ 2 ∨ nextIsPermanent s 6 (cluUnit c) then
    let parts := nubBy ((linkClusters unit).filterMap (partOfCluster s))
    if parts.length ≥ 2 then
      parts.foldl (fun s p => jobFault s p 2 4 unit record)
        (markFailed (addSoft (resetDieOut s1 (c / 16)) 4 unit 0x84 (countAll s1 4 unit)) c 0x84 none record)
    else fails s1
  else s1

/-- The first Goose snapshot of a partition that its die still holds, and the others without it and the `merged` ones after it (R240). -/
def takeSnaps (part merged : Nat) : List (List Byte) → Option (List Byte) × List (List Byte)
  | [] => (none, [])
  | d :: r =>
    if numAt d 0 1 = part then
      match merged with
      | 0 => (some d, r)
      | m + 1 => (some d, (takeSnaps part m r).2)
    else let t := takeSnaps part merged r; (t.1, d :: t.2)

/-- The body of the job event of a deadlock: at most 4,090 of the snapshot's entries. -/
def gooseBody (snap : List Byte) : List Byte :=
  if numAt snap 2 2 ≤ 4090 then snap
  else snap.take 1 ++ leBytes 1 1 ++ leBytes 2 4090 ++ (snap.drop 4).take (28 + 16 * 4090)

/-- A retired unit is announced, to the tenant that holds it too (R257). -/
def announceUnit (s : State) (t u : Nat) (record : List Byte) : State :=
  let v := getTier s t
  announce (setTier s t { v with untold := v.untold.filter (· != u) }) 4 0x0A (t + 2 * u) (sectorPart s t (128 * u)) record

/-- The record of a row whose corrected errors have had it retired: there is no event of its own (R257; DESIGN CHOICE, log 85). -/
def retiredRecord (s : State) (t u : Nat) : List Byte :=
  let x := sectorUnit s t (128 * u)
  eventBytes { code := 0x8A, unitKind := x.1, unit := x.2, part := partOrNone (sectorPart s t (128 * u)), time := devNs s }

/-- Ouvos announces the units whose rows have been retired without an event (R257). -/
def announceRetired (s : State) : State :=
  [0, 1].foldl (fun s t => (getTier s t).untold.foldl (fun s u => announceUnit s t u (retiredRecord s t u)) s) s

/-- Ouvos takes an event record: charges it and reaches its verdict (R300). -/
def takeEvent (s : State) (die : Nat) (e : EventRec) : State :=
  let n := e.merged + 1
  let rec_ := eventBytes e
  let tenant (s : State) : State := if e.part < 64 then jobFault s e.part 1 e.unitKind e.unit rec_ else s
  match e.code with
  | 0x80 => abftVerdict s e.unit n rec_
  | 0x81 =>
    let reason := numAt e.detail 0 1
    if reason = 1 ∨ reason = 3 ∨ reason = 5 then
      (nubBy ([numAt e.detail 2 2, numAt e.detail 4 2].filterMap (endpointUnit s e))).foldl (fun s u => chargeEndpoint s u 0x81 n rec_) s
    else s
  | 0x82 =>
    let p := e.unit % 4096
    permanentCore (addUncorrected (chargeUnit (chargeUnit s 2 e.unit 0x82 n) 1 p 0x82 n) 1 p n) p 0x82 false rec_
  | 0x83 => sliceVerdict s e.unit n rec_
  | 0x84 => linkVerdict s e.unit n rec_
  | 0x88 => permanentCore (chargeUnit s 1 (e.unit % 4096) 0x88 n) (e.unit % 4096) 0x88 false rec_
  | 0x8E =>
    if fenceState s (e.unit % 4096) ≥ 4 then s
    else permanentCore (chargeUnit s 1 (e.unit % 4096) 0x8E n) (e.unit % 4096) 0x8E false rec_
  | 0x85 => tenant s
  | 0x86 => tenant s
  | 0x89 =>
    match getPart s e.part with
    | none => s
    | some pt =>
      let t := takeSnaps e.part e.merged (getDie s die).snaps
      let snap := t.1.getD []
      let s1 := modDie s die (fun d => { d with snaps := t.2 })
      let tell := jobEvent s1 e.part 0x0282 stOk (gooseBody snap)
      if !pt.gooseDone || pt.isolate.isSome then tell else policyOrWait tell e.part pt (.event e) snap
  | 0x8A =>
    let o := rowScree e.unitKind e.unit
    let s1 := addUncorrected (chargeUnit s e.unitKind e.unit 0x8A n) o.1 o.2 n
    let s2 := tenant (devFault s1 1 e.unitKind e.unit rec_)
    let t := if e.unitKind = 8 then 0 else 1
    let sec := numAt e.detail 1 8
    if (getTier s t).retired.contains (sec / 128) ∧ numAt e.detail 0 1 = 3 then
      ((unitsOfRow s t sec).filter (fun u => (getTier s t).retired.contains u)).foldl (fun s u => announceUnit s t u rec_) s2
    else s2
  | 0x8B =>
    match getPart s e.part with
    | none => s
    | some pt => if pt.isolate.isSome then s else policyOrWait s e.part pt (.event e) []
  | 0x8D => chargeUnit s e.unitKind e.unit 0x8D n
  | _ => s

/-- Ouvos takes the first entry of a die's ring (R296). -/
def faultEventTaken (s : State) (die : Nat) : State :=
  if s.ouvosUp then
    match (getDie s die).ring with
    | [] => s
    | e :: r =>
      let s0 := modDie s die (fun d => { d with ring := r })
      match e with
      | .trap q => takeTrap s0 q
      | .event q => takeEvent s0 die q
  else s

/-! ### The search (R354, R355) -/

/-- What a suspect sends is completed at the core's own port, as if acknowledged. -/
def completeLocally (s : State) (pos : Nat) : State :=
  let e := getEnd s pos
  let acks := (e.outbox.filter (leavesCore pos)).map (fun c =>
    if c.type = 0x06 then mkCell 0x08 2 pos c.dst c.tag []
    else if c.type = 0x0A then mkCell 0x0B 2 pos c.dst c.tag [0, 0]
    else if c.type = 0x0C then mkCell 0x05 10 pos c.dst c.tag (zeros 10)
    else mkCell 0x05 10 pos c.dst c.tag (slice c.bytes 10 2 ++ zeros 8))
  setEnd s pos { e with outbox := sendableGo (leavesCore pos) e.outbox [], inbox := e.inbox ++ acks }

/-- Replay one suspect: counters, channels and its own thread as at a restart from its newest record. -/
def startSuspect (s : State) (part : Nat) (pt : Part) (v : Isolate) (t : Nat) : State :=
  match indexOf s v.core with
  | none => s
  | some (_, n) =>
    let recs := recordsOf s part pt n t
    let newest := recs.foldl (fun m r => match m with | none => some r | some q => if numAt r 72 8 ≥ numAt q 72 8 then some r else some q) (none : Option (List Byte))
    let point := newest.map (fun r => numAt r 0 2)
    stir (modCore s v.core (fun c =>
      let c1 := reopenChannels (restoreCounters pt.image n point (dropWork c)) false
      let th := getThread c1 t
      { setThread c1 t (match newest with | none => reenterThread th | some r => resumeThread th r) with
          rr0 := 16, rr1 := 16, ve := { c1.ve with slots := [], cur := none } })) v.core

/-- A replay is over: the core's threads are IDLE again and it holds no work. -/
def endReplay (s : State) (part : Nat) (v : Isolate) (hit : List TrapRec) : State :=
  let pos := (logOf s v.core).getD 0
  let s1 := modEnd (modCore s v.core (fun c => stopCore s.fab (coreNow s c) c)) pos (fun e => { e with inbox := [], outbox := [], opens := [] })
  modPart s1 part (fun q => { q with isolate := some { v with current := none, since := s.fab, hits := v.hits ++ hit } })

/-- The outcome of the search, and the restart. -/
def endSearch (s : State) (part : Nat) (pt : Part) (v : Isolate) : State :=
  let s1 := modPart (freezePart s pt false) part (fun q => { q with isolate := none })
  let s2 := match v.hits with
    | [r] => jobEvent s1 part 0x0281 stOk (trapBytes r)
    | [] =>
      if v.core = noCore then { s1 with history := tmod [] s1.history (screeKey 0x23 part) (fun l => ((devSec s, v.cause) :: l).take 255) }
      else modScree s1 1 v.core (fun r => { r with verdict := max r.verdict 1 })
    | _ => chargeUnit s1 1 v.core v.cause 1
  let s3 := policyRestart s2 part v.cause (if v.core = noCore then [] else [v.core])
  let s4 := if v.cause = causeAbft ∧ v.core ≠ noCore then chargeCore s3 v.core v.cause else s3
  kick (if v.hits.length ≥ 2 then
      if nextIsPermanent s 1 v.core then permanentCore s4 v.core v.cause true else suspectCore s4 v.core v.cause
    else s4) part

/-- ISOLATE_SUSPECT_REPLAY: start the next suspect; while one is replayed, complete what it sends and look for the end of
its replay; after the last, the outcome. -/
def isolateSuspectReplay (s : State) (part : Nat) : State :=
  match getPart s part with
  | none => s
  | some pt =>
    match pt.isolate with
    | none => s
    | some v =>
      match v.current, v.todo with
      | none, [] => endSearch s part pt v
      | none, t :: r =>
        startSuspect (modPart s part (fun q => { q with isolate := some { v with current := some t, todo := r, since := s.fab } })) part pt v t
      | some t, _ =>
        let s1 := completeLocally s ((logOf s v.core).getD 0)
        let th := getThread (getCore s1 v.core) t
        match th.state, th.trap with
        | .trapped, some r => if r.cause = v.cause ∧ trapEngine s v.core r = v.engine then endReplay s1 part v [r] else s1
        | .draining, _ => endReplay s1 part v []
        | .halted, _ => endReplay s1 part v []
        | _, _ => s1

/-- ISOLATE_REPLAY_TIMEOUT: a WAIT unmet for 1 ms, or 50 ms of replay. -/
def isolateReplayTimeout (s : State) (part : Nat) : State :=
  match getPart s part with
  | none => s
  | some pt =>
    match pt.isolate with
    | none => s
    | some v =>
      match v.current with
      | none => s
      | some t =>
        let c := getCore s v.core
        let th := getThread c t
        let waited : Bool := match th.state, th.waitFrom with
          | .waiting, some f => decide (coreNow s c ≥ f + usCycles 1000)
          | _, _ => false
        if waited || decide (s.fab ≥ v.since + usCycles 50000) then endReplay s part v [] else s

end Sys2Proof.Machine
end

