-- ==== Sys2Proof/Machine/Flock.lean ====
section
/-! DEFINITION. The roll calls of a Flock load (R490, R491, R493) and the end of a cluster move (R314, R315). -/

namespace Sys2Proof.Machine

/-- The target's pieces, in its own series. -/
def seriesOf (pt : Part) (t : Nat) : List Piece := (loadPieces pt).filter (fun q => targetCode q == t)

/-- Indices of its series that a target holds of the current load. -/
def heldOf (s : State) (pt : Part) (t : Nat) : List Nat :=
  if t / 65536 = 2 then
    let w := getSwitch s (t % 65536)
    if w.chunkNo = pt.loadNo then w.chunksHeld else []
  else
    let c := getCore s (physAt s pt (t % 65536))
    if c.chunkNo = pt.loadNo then c.chunksHeld else []

/-- Indices that a target lacks: those it does not hold, those that its answer names, every one when it has not answered. -/
def lackOf (s : State) (pt : Part) (answers : List (Nat × Nat)) (t silent : Nat) : List Nat :=
  let h := heldOf s pt t
  (List.range (seriesOf pt t).length).filter (fun i => silent == 1 || !h.contains i || answers.contains (t, i))

/-- A repair round for one target: the chunks of its series that it lacks are written, in order, and held. -/
def repairTarget (s : State) (pt : Part) (t : Nat) (lack : List Nat) : State :=
  let l := seriesOf pt t
  let s1 := (l.zipIdx.filter (fun q => lack.contains q.2)).foldl (fun s q => repairPiece s pt q.1) s
  if t / 65536 = 2 then
    modSwitch s1 (t % 65536) (fun w => { w with chunkNo := pt.loadNo, chunk := none, chunksHeld := List.range l.length })
  else modCore s1 (physAt s1 pt (t % 65536)) (fun c => { c with chunkNo := pt.loadNo, chunk := none, chunksHeld := List.range l.length })

/-- No cell of the load is left to broadcast. -/
def loadSent (s : State) (part : Nat) (pt : Part) : Bool :=
  (diesOf pt).all (fun d => ((getEnd s (1024 * d + 50)).outbox.filter (fun c => c.type == 0x0E && c.dst % 64 == part)).isEmpty &&
    !bcastUnderWay s d part)

/-- Clusters that fail with the incomplete targets: those of switches, and of cores whose segment has no spare, or whose spare goes to
another incomplete core (R315). -/
def failingClusters (s : State) (pt : Part) (l : List Nat) : List Nat :=
  let seg (t : Nat) : Nat := segOfPhys (physAt s pt (t % 65536))
  nubBy (l.filterMap (fun t =>
    if t / 65536 = 2 then some (cluOfPhys (t % 65536))
    else if spareFree s (seg t) && ((l.filter (fun u => u / 65536 != 2 && seg u == seg t)).head? == some t) then none
    else some (cluOfPhys (physAt s pt (t % 65536)))))

/-- The record of a core's Flock-load failure (0x8E). -/
def flockRecord (s : State) (part p missing : Nat) : List Byte :=
  eventBytes { code := 0x8E, unitKind := 1, unit := p, part := part, detail := leBytes 2 missing, time := devNs s }

/-- Event 0x8E of a core (R298), with the number of chunks missing. -/
def flockEvent (s : State) (part : Option Nat) (p missing : Nat) : State :=
  postEvent s (dieOf p) { code := 0x8E, unitKind := 1, unit := p, part := partOrNone part, by_ := detCore p, detail := leBytes 2 missing }

/-- Incomplete cores whose segment has a spare raise event 0x8E and are fenced at once, and their positions are remapped by steps 2 to 4 of R308,
without a restart. -/
def fenceIncomplete (s : State) (part : Nat) (pt : Part) (l : List (Nat × Nat)) : State :=
  l.foldl (fun s e =>
    let p := physAt s pt (e.1 % 65536)
    if e.1 / 65536 ≠ 2 ∧ spareFree s (segOfPhys p) then
      let s1 := permanentVerdict (chargeUnit (flockEvent s (some part) p e.2) 1 p 0x8E 1) 1 p
      modPart (remapMemory s1 part p 4 0x8E (flockRecord s part p e.2)) part (fun q => { q with fenced := q.fenced + 1 })
    else s) s

/-- Failed clusters give way to reserves; `false` when one has none. -/
def replaceClusters (s : State) (part : Nat) (l : List Nat) : State × Bool :=
  l.foldl (fun a c =>
    let s1 := markFailed a.1 c 0x8E (some part) (actionRecord a.1 (failAction c 0x8E a.1))
    match swapIn s1 part c with
    | none => (modPart s1 part (fun q => { q with failed := if q.failed.contains c then q.failed else q.failed ++ [c] }), false)
    | some s2 => (s2, a.2)) (s, true)

/-- Cores of the slots that were moved are set up with the image's registers. -/
def setupMoved (s : State) (pt : Part) : State :=
  pt.moves.foldl (fun s m => (List.range 32).foldl (fun s k =>
    let n := 32 * m.1 + k
    modCore s (physAt s pt n) (setupCore (imgRegs pt.image n))) s) s

/-- The moved slots are announced (R413, kind 3). -/
def announceMoves (s : State) (part : Nat) (pt : Part) : State :=
  pt.moves.foldl (fun s m => announce s 3 6 (cluUnit (16 * pt.die + m.2)) (some part)
    (actionRecord s ((pt.actions.head?).getD (failAction (16 * pt.die + m.2) 0x8E s)))) s

/-- The move's action is the one in hand. -/
def moving (pt : Part) : Bool := match pt.actions with | a :: _ => a.kind == 3 && a.step == 2 | [] => false

/-- Steps 5 and 6 of a move: census and restart. -/
def endMove (s : State) (part : Nat) (pt : Part) : State :=
  let s1 := setupMoved s pt
  let s2 := censusEnds s1 { code := 9, part := part } (devNs s) (partCensus s1 part (partCores s1 pt) true)
  let s3 := raiseFloors (announceMoves s2 part pt) pt.clusters
  let s4 := modPart s3 part (fun q => { q with loading := false, flock := [], moves := [] })
  actionOver (resumeJob s4 part) part

/-- The outcome of a roll call: still loading, every target complete, or no reserve left for a failed cluster. -/
inductive RollCall where
  | more | complete | noReserve
  deriving DecidableEq, Repr

/-- One roll call of a load that has been sent whole (R490): complete targets are struck off; a lacking target gets a repair
round, or is dealt with under R491 after its third. -/
def rollCall (s : State) (part : Nat) (answers : List (Nat × Nat)) : State × RollCall :=
  match getPart s part with
  | none => (s, .more)
  | some pt =>
    if !pt.loading || !loadSent s part pt then (s, .more)
    else
      let lacking := pt.flock.filterMap (fun e =>
        let k := lackOf s pt answers e.1 e.2.1
        if k = [] then none else some (e.1, k, e.2.2))
      let spent := (lacking.filter (fun e => decide (e.2.2 ≥ 3))).map (fun e => (e.1, e.2.1.length))
      let again := lacking.filter (fun e => decide (e.2.2 < 3))
      let s1 := again.foldl (fun s e => repairTarget s pt e.1 e.2.1) s
      let s2 := modPart s1 part (fun q =>
        { q with flock := again.map (fun e => (e.1, 0, e.2.2 + 1)), chunks := q.chunks + (again.map (fun e => e.2.1.length)).sum })
      let fails := failingClusters s2 pt (spent.map (·.1))
      let s3 := fenceIncomplete s2 part pt (spent.filter (fun e => !fails.contains (cluOfPhys (if e.1 / 65536 = 2 then e.1 % 65536 else physAt s2 pt (e.1 % 65536)))))
      if fails = [] then (s3, if again = [] then .complete else .more)
      else
        match replaceClusters s3 part fails with
        | (s4, true) => (beginLoad s4 part, .more)
        | (s4, false) => (s4, .noReserve)

/-- A roll call in a move: the end of the move, or the wait for a reserve. -/
def moveRollCall (s : State) (part : Nat) (r : State × RollCall) : State :=
  match getPart r.1 part, r.2 with
  | some pt, .complete => endMove r.1 part pt
  | some pt, .noReserve =>
    let c := (pt.failed.head?).getD 0
    actionOver (awaitReserve (modPart r.1 part (fun q => { q with loading := false, flock := [], moves := [] })) part c 0x8E) part
  | _, _ => if r.2 = .more then r.1 else s

/-- FLOCK_ROLL_CALL_TIMEOUT (R490): the target counts as lacking every chunk. -/
def execFlockRollCallTimeout (part target : Nat) (s : State) : Out :=
  onUnit (decide (part < 64))
    (modPart s part (fun q => if q.loading then { q with flock := q.flock.map (fun e => if e.1 = target then (e.1, 1, e.2.2) else e) } else q))

end Sys2Proof.Machine
end

