-- ==== Sys2Proof/Machine/Sounding.lean ====
section
/-! DEFINITION. Sounding (R321 to R328), the shutdown self-test (R329 to R334), the Scree log (R335 to R339), and DRAM
recalibration (R258). -/

namespace Sys2Proof.Machine

/-! ### The life cycle (R421) -/

/-- Blown fuses counted from LC[0] up to the first unblown one. -/
def blown (lc : BitVec 8) : Nat := ((List.range 8).takeWhile (fun i => lc.getLsbD i)).length

/-- State code of R421: a pattern with a gap, or all eight fuses, is SCRAP. -/
def lifeCycle (lc : BitVec 8) : Nat :=
  let w := blown lc
  if (List.range 8).any (fun i => decide (i ≥ w) && lc.getLsbD i) ∨ w = 8 then 4 else w / 2

/-- The test engine runs (R321). -/
def testsRun (s : State) : Bool := decide (lifeCycle s.flash.lc ≠ 4)

/-- Stage 9 has been reached and nothing holds the device. -/
def inServicePhase (s : State) : Bool := s.boot == .service

/-! ### Sounding -/

/-- Insert by oldest last_sound, ties in ascending PhysCoreID. -/
def insertOldest (s : State) (p : Nat) : List Nat → List Nat
  | [] => [p]
  | q :: r => if (getScree s 1 p).lastSound < (getScree s 1 q).lastSound then p :: q :: r else q :: insertOldest s p r

/-- The order of a sweep (R326). -/
def sweepOrder (s : State) : List Nat := (allCores s).foldl (fun l p => insertOldest s p l) []

/-- The core is sounded in place (R324): a spare, or a core of a cluster that serves no partition. -/
def inPlace (s : State) (p : Nat) : Bool := fenceState s p == 1 || decide (cluState s (cluOfPhys p) ≠ 1)

/-- A serving core may be withdrawn (R325). -/
def mayWithdraw (s : State) (p : Nat) : Bool :=
  let g := segOfPhys p
  spareFree s g && (List.range 9).all (fun j => !(getScree s 1 (segBase g + j)).suspect) &&
  (match partOfCluster s (cluOfPhys p) with
   | none => false
   | some part =>
     match getPart s part with
     | none => false
     | some pt => !(pt.running && generatorIn s part) && !actionPending s pt)

/-- A core of the cluster is withdrawn: no second one is, at a time (R325). A core whose own segment has no free spare does not wait: it goes
unsounded. -/
def clusterBusy (s : State) (p : Nat) : Bool :=
  !inPlace s p && decide (fenceState s p < 2) && spareFree s (segOfPhys p) && (clusterPhys (cluOfPhys p)).any (fun q => fenceState s q == 2 || fenceState s q == 3)

/-- The next core of the sweep is taken (R324 to R326). -/
def soundNext (s : State) (p : Nat) : State :=
  let taken : State := { s with sweepOut := s.sweepOut ++ [p] }
  if fenceState s p ≥ 4 then { s with missed := s.missed + 1 }
  else if fenceState s p ≥ 2 then if s.sounding.any (fun e => e.core == p) then taken else { s with missed := s.missed + 1 }
  else if inPlace s p then
    let c := cluOfPhys p
    startSlice (if (getPow s c).mode = 3 then modPow taken c (fun w => { w with waking := true }) else taken) p 1 false
  else if mayWithdraw s p then
    match partOfCluster s (cluOfPhys p) with
    | some part => pushAction taken part { kind := 0, core := p, target := 2, reason := 0, step := 0, since := s.fab }
    | none => s
  else { s with missed := s.missed + 1 }

/-- Device time at which the sweep in hand takes its next core: the period is spread evenly over its cores (R326). -/
def nextSound (s : State) (from_ : Nat) : Nat :=
  from_ + (s.sweepSize - s.sweep.length) * (s.sweepMin * 60000000000) / max 1 s.sweepSize

/-- A new sweep begins when none is in hand and the period of the last one is over (R326). -/
def newSweep (s : State) : State :=
  let fresh : Bool := match s.sweepFrom with
    | none => true
    | some t => s.sweep.isEmpty && s.sweepOut.isEmpty && decide (devNs s ≥ t + s.sweepMin * 60000000000)
  if fresh then { s with sweep := sweepOrder s, sweepSize := (allCores s).length, sweepOut := [], missed := 0, sweepFrom := some (devNs s) } else s

/-- SOUNDING_SWEEP_TICK (R321, R326): the next core whose time has come, passing over those of a cluster with a core withdrawn. -/
def execSoundingSweepTick (s : State) : Out :=
  .next (if !testsRun s || !inServicePhase s || decide (s.service = 3) then s
    else
      let s0 := newSweep s
      if devNs s < nextSound s0 (s0.sweepFrom.getD 0) then s0
      else
        match s0.sweep.find? (fun p => !clusterBusy s0 p) with
        | none => s0
        | some p => sweepEnds (soundNext { s0 with sweep := s0.sweep.filter (· != p) } p))

/-- The test entry of a core. -/
def testOf (s : State) (p : Nat) : Option CoreTest := s.sounding.find? (fun e => e.core == p)

/-- The last core tested in place in a cluster that serves no partition puts it to rest again (R470). -/
def restCluster (s : State) (c : Nat) : State :=
  if cluState s c = 1 ∨ s.sounding.any (fun e => cluOfPhys e.core == c) then s
  else modPow s c (fun w => { w with mode := if cluState s c = 2 then 2 else 3, waking := false })

/-- Every slice has passed: a withdrawn core returns (R309, R324), its history kept. -/
def soundEnds (s : State) (p : Nat) : State :=
  let s1 := modScree (endTest s p true) 1 p (fun r => { r with sndRuns := sat32 (r.sndRuns + 1), lastSound := devSec s })
  if fenceState s p = 2 ∨ fenceState s p = 3 then
    match partOfCluster s (cluOfPhys p) with
    | some part => pushAction s1 part { kind := 1, core := p, target := 0, reason := 0, step := 0, since := s.fab }
    | none => tableReturn s1 p
  else restCluster s1 (cluOfPhys p)

/-- Detail of a Sounding failure (R298). -/
def soundDetail (n addr b : Nat) : List Byte := leBytes 2 n ++ leBytes 4 addr ++ leBytes 1 b

/-- Its event record (R297). -/
def soundRecord (s : State) (p n addr b : Nat) : List Byte :=
  eventBytes { code := 0x8C, unitKind := 1, unit := p, part := partOrNone (partOfCluster s (cluOfPhys p)),
               detail := soundDetail n addr b, time := devNs s }

/-- Between two slices Sounding yields to a fence action of the core's partition (R325). -/
def soundYields (s : State) (p : Nat) : Bool :=
  match partOfCluster s (cluOfPhys p) with
  | none => false
  | some part => match getPart s part with | none => false | some pt => !pt.actions.isEmpty

/-- Event 0x8C of a failed slice; the failure is charged at once (R300, R327). -/
def soundFails (s : State) (p n addr b : Nat) : State :=
  let s1 := modScree (chargeUnit s 1 p 0x8C 1) 1 p (fun r => { r with sndFail := sat32 (r.sndFail + 1) })
  startSlice (coreEvent s1 p 0x8C (soundDetail n addr b)) p n true (!soundYields s p)

/-- Sounding has found the core permanent (R300, R327): it is fenced without a return. -/
def soundCondemns (s : State) (p : Nat) (rec_ : List Byte) : State := permanentCore (endTest s p true) p 0x8C true rec_

/-- SOUNDING_SLICE (R300, R301, R321, R322, R327): the slice in hand passes or fails. A first failure is charged and the slice repeated, unless
the next charged event of the core is permanent; a repeat that fails, or passes as the second transient within 7 days, is permanent. A slice that
has not begun, since Sounding yields (R325), begins once no fence action is left. -/
def execSoundingSlice (core : Nat) (pass : Bool) (addr b : Nat) (s : State) : Out :=
  onUnit (coreOk s core)
    (match testOf s core with
     | none => s
     | some x =>
       let n := x.slice
       let again := x.again
       if !testsRun s || decide (s.service = 3) || (!x.begun && soundYields s core) then s
       else if pass then
         if again ∧ countIn s 1 core 0x8C week ≥ 2 then soundCondemns s core []
         else if n ≥ 16 then soundEnds s core else startSlice s core (n + 1) false (!soundYields s core)
       else if again then soundCondemns s core (soundRecord s core n addr b)
       else if nextIsPermanent s 1 core then soundCondemns (soundFails s core n addr b) core (soundRecord s core n addr b)
       else soundFails s core n addr b)

/-! ### The shutdown self-test (R329 to R334) -/

/-- Lanes in use and spare lanes of a link, in the order of R20. -/
def linkLanes (l : Nat) : Nat := if l < 4 then 128 else 64
def spareLanes (l : Nat) : Nat := if l < 4 then 8 else 4

/-- Links of the product (R20). -/
def linksOf (s : State) : List Nat := if dieCount s.product = 4 then List.range 8 else [0, 4, 5]

/-- A link with more failed lanes than spares runs at half width; with fewer good lanes than that it holds the device out of
service (R331). A device that is shut down stays so, and boot stage 4 looks at its links again. -/
def linkCheck (s : State) (l : Nat) : State :=
  let used := tget 0 s.links l
  if used ≤ spareLanes l then s
  else
    let s1 : State := { s with halfLinks := if s.halfLinks.contains l then s.halfLinks else l :: s.halfLinks }
    if used > spareLanes l + linkLanes l / 2 ∧ s.service ≠ 3 then setService s1 1 else s1

/-- A lane fails: it is counted (R337), and a spare lane replaces it (R331). -/
def failLane (s0 : State) (unit reason : Nat) : State :=
  if (s0.soft ++ s0.fused).any (fun e => e.kind == 7 && e.unit == unit) then s0
  else
    let s := addUncorrected s0 7 unit 1
    linkCheck (addSoft { s with links := tset 0 s.links (unit % 8) (tget 0 s.links (unit % 8) + 1) } 7 unit reason 1) (unit % 8)

/-- Units that a slice of the plan tests (R329, R330), by kind and unit: cores for the core memories, the other core SRAMs and core logic, the
cluster for its slices, routers for the network of a cluster, the lanes of a link, the hub, and the rows of soft entries. The manual does not
say which kind each slice records (DESIGN CHOICE, log 76). -/
def testUnits (s : State) (t : Nat × Nat × Nat) : List (Nat × Nat) :=
  match t.1 with
  | 1 =>
    if t.2.1 = 0x0104 then [(6, cluUnit t.2.2)]
    else (clusterPhys t.2.2).map (fun p => (if t.2.1 = 0x0106 then 5 else 1, p))
  | 2 => (List.range (linkLanes t.2.2 + spareLanes t.2.2)).map (fun i => (7, t.2.2 + 8 * i))
  | 3 => [(0x0B, 4)]
  | 4 => (((s.soft.filter (fun e => e.kind == 8 || e.kind == 9)).drop (8 * t.2.2)).take 8).map (fun e => (e.kind, e.unit))
  | _ => []

/-- The kind and unit of the tested unit to which a failing unit belongs in a slice: a row to its core or cluster. -/
def partOfUnit (k u : Nat) : Nat × Nat :=
  if k = 2 then (1, u % 4096) else if k = 3 then (6, u % 64) else if k = 4 then (5, u % 4096) else (k, u)

/-- A slice covers a unit. -/
def covers (s : State) (t : Nat × Nat × Nat) (k u : Nat) : Bool :=
  (k != 2 || t.2.1 == 0x0101 || t.2.1 == 0x0102) && (testUnits s t).contains (partOfUnit k u)

/-- Slices of the plan: phase, test number and unit number. Those of phase 4 take eight rows each. -/
def testPlan (s : State) : List (Nat × Nat × Nat) :=
  let rows := (s.soft.filter (fun e => e.kind == 8 || e.kind == 9)).length
  (allClusters s).flatMap (fun c => (List.range 6).map (fun i => (1, 0x0101 + i, c))) ++
  (linksOf s).map (fun l => (2, 0x0110, l)) ++
  (List.range 20).map (fun i => (3, 0x0120 + i, i)) ++
  (List.range ((rows + 7) / 8)).map (fun i => (4, 0x0140, i)) ++ [(5, 0x0150, 0)]

/-- Every tested memory loses its contents (R329): those of the row are lost, and its sectors do not verify until they are written whole. -/
def loseRow (s : State) (k u : Nat) : State :=
  let t := if k = 8 then 0 else 1
  (Config.rowUnits t u).foldl (fun s x =>
    let v := getTier s t
    let secs := (List.range 128).map (128 * x + ·)
    setTier s t { v with bad := secs.foldl (fun b e => if (sectorUnit s t e).2 = u then tset false b e true else b) v.bad }) s

/-- A self-test failure counts against the unit, or against the unit with a record to which it belongs (R336). -/
def countFail (s : State) (k u : Nat) : State :=
  let o := if k = 2 then (1, u % 4096) else if k = 3 then (6, u % 64) else if k = 4 ∨ k = 5 then (6, cluUnit (cluOfPhys (u % 4096)))
           else if k = 8 ∨ k = 9 then rowScree k u else (k, u)
  if hasRecord o.1 then modScree s o.1 o.2 (fun r => { r with sndFail := sat32 (r.sndFail + 1) }) else s

/-- A DRAM row that still fails: hPPR makes its repair permanent, and the fuse phase fuses its entry; without a resource every unit that holds a
byte of it is retired (R257, R331). -/
def repairDram (s : State) (k u reason : Nat) : State :=
  let t := k - 8
  if Config.hpprLeft t u (s.fused.filter (fun e => e.kind == k)).length then addSoft s k u reason 1
  else
    let v := getTier s t
    let us := (Config.rowUnits t u).filter (fun x => !v.retired.contains x)
    us.foldl (fun s x => announceUnit (addSoft s 0x0A (t + 2 * x) reason 1) t x
      (eventBytes { code := 0x8A, unitKind := k, unit := u, time := devNs s })) (setTier s t { v with retired := us ++ v.retired })

/-- The row has its Spoil entry, and a spare row with it. -/
def hasSpoil (s : State) (kind unit : Nat) : Bool := (s.soft ++ s.fused).any (fun e => e.kind == kind && e.unit == unit)

/-- A repair as R331 orders it; `unitKind` and `unit` of the failing unit. A row that its entry already repairs gets no second spare. The memories
have lost their contents (R329), so a core is fenced by the restart procedure (R305). A router takes its die out of service (R317). -/
def repairUnit (s : State) (unitKind unit test : Nat) : State :=
  let s1 := countFail s unitKind unit
  let reason := test % 256
  match unitKind with
  | 1 => permanentCore s1 (unit % 4096) reason false
  | 2 => if hasSpoil s1 2 unit then s1 else if rowsLeft s1 2 unit then useSpare s1 2 unit reason 1 else permanentCore s1 (unit % 4096) reason false
  | 3 => if hasSpoil s1 3 unit then s1 else if rowsLeft s1 3 unit then useSpare s1 3 unit reason 1 else failCluster s1 (16 * (unit % 4) + unit / 4 % 16) reason
  | 4 => failCluster s1 (cluOfPhys (unit % 4096)) reason
  | 5 => addSoft (dieOut s1 (dieOf (unit % 4096))) 5 unit reason 1
  | 6 => failCluster s1 (16 * (unit % 4) + unit / 4 % 16) reason
  | 7 => failLane s1 unit reason
  | 8 => repairDram s1 8 unit reason
  | 9 => repairDram s1 9 unit reason
  | _ => s1

/-- Fuses left for Spoil entries (R319). -/
def fuseRoom (s : State) : Nat := 1024 - s.fused.length

/-- A result record concerns the unit of a Spoil entry: the unit itself; a row or a core for the core or cluster entry that its failure made; the
test of a core, a cluster or a router for an entry of a row of it or of a link at it. -/
def concerns (e : Spoil) (k u : Nat) : Bool :=
  (k == e.kind && u == e.unit) ||
  (e.kind == 1 && k == 2 && u % 4096 == e.unit) ||
  (e.kind == 6 && ((k == 3 && u % 64 == e.unit) || ((k == 1 || k == 2 || k == 4) && cluUnit (cluOfPhys (u % 4096)) == e.unit)))

/-- A unit whose pass is that of the entry's unit. -/
def passUnit (e : Spoil) : Nat × Nat := partOfUnit e.kind e.unit

/-- The result of the self-test for an entry: it still fails, or every record of its unit is a pass; `none` when it was not run. -/
def stillFails (f : Flash) (e : Spoil) : Option Bool :=
  if f.results.any (fun r => r.2.1 == 1 && concerns e r.1 r.2.2.1) then some true
  else
    let mine := f.results.filter (fun r => (r.1, r.2.2.1) == passUnit e || concerns e r.1 r.2.2.1)
    if mine.any (fun r => r.2.1 == 0) && mine.all (fun r => r.2.1 == 0 || r.2.1 == 1) then some false else none

/-- Write the soft entries, in retained SRAM and in flash. -/
def setSoft (s : State) (l : List Spoil) : State := { s with soft := l, flash := { s.flash with soft := l } }

/-- The fuse phase for one entry with bit 2 set (R319, R332): a unit that still fails has it fused, or kept with bit 1 when no fuse space
remains; a unit that has passed has it removed, and the first charged event of a core or cluster afterwards is permanent; an entry of a unit
that was not run stays. -/
def fuseEntry (s : State) (e : Spoil) : State :=
  let rest := s.soft.filter (fun x => x != e)
  match stillFails s.flash e with
  | some true =>
    if fuseRoom s > 0 then
      let s1 := setSoft s rest
      let l := s.fused ++ [{ e with flags := 1 }]
      { s1 with fused := l, flash := { s1.flash with fused := l } }
    else setSoft s (rest ++ [{ e with flags := e.flags ||| 2 }])
  | some false =>
    let s1 := setSoft s rest
    if e.kind = 1 ∨ e.kind = 6 then modScree s1 e.kind e.unit (fun r => { r with firstIsPermanent := true, verdict := 1 }) else s1
  | none => s

/-- The fuse phase (R332). -/
def fusePhase (s : State) : State := (s.soft.filter (fun e => e.flags.testBit 2)).foldl fuseEntry s

/-- A result record's bytes (R330). -/
def resultBytes (r : Nat × Nat × Nat × Nat × Nat × Nat) : List Byte :=
  leBytes 1 r.1 ++ leBytes 1 r.2.1 ++ leBytes 6 r.2.2.1 ++ leBytes 2 r.2.2.2.1 ++ leBytes 4 r.2.2.2.2.1 ++ leBytes 1 r.2.2.2.2.2 ++ zeros 1

/-- The progress record: the plan, a done bit for each slice, the result records (R333). The manual does not lay it out (DESIGN CHOICE, log
76). -/
def planBytes (f : Flash) : List Byte :=
  f.plan.flatMap (fun t => leBytes 1 t.1 ++ leBytes 2 t.2.1 ++ leBytes 2 t.2.2) ++
  (List.range f.plan.length).map (fun i => if f.planDone.contains i then 1 else 0) ++ f.results.flatMap resultBytes

/-- The digest that completes a progress record (R333). -/
def planComplete (f : Flash) : Flash := { f with planDigest := some (sha3 (planBytes f)) }

/-- The record is complete and passes its digest (R334). -/
def planStands (f : Flash) : Bool := f.planDigest == some (sha3 (planBytes f))

/-- Slices whose done bit is clear. -/
def slicesLeft (f : Flash) : List Nat := (List.range f.plan.length).filter (fun i => !f.planDone.contains i)

/-- A new plan begins. -/
def newPlan (s : State) : State :=
  { s with flash := { s.flash with plan := testPlan s, planDone := [], results := [], planDigest := none } }

/-- One slice ends (R330, R333): its results are repaired and recorded and its done bit is set. Each result is unit kind, result, unit, address and
bit; a unit that the slice tests and that no result names has passed. Tested rows lose their contents (R329). -/
def sliceEnds (s : State) (i : Nat) (results : List (Nat × Nat × Nat × Nat × Nat)) : State :=
  let t := (s.flash.plan[i]?).getD (0, 0, 0)
  let named := results.map (fun r => partOfUnit r.1 r.2.2.1)
  let passed := (testUnits s t).filter (fun u => !named.contains u)
  let recs := results.map (fun r => (r.1, r.2.1, r.2.2.1, t.2.1, r.2.2.2.1, r.2.2.2.2)) ++
    passed.map (fun u => (u.1, 0, u.2, t.2.1, 0, 0))
  let s0 := if t.1 = 4 then (testUnits s t).foldl (fun s u => loseRow s u.1 u.2) s else s
  let s1 := results.foldl (fun s r => if r.2.1 = 1 then repairUnit s r.1 r.2.2.1 t.2.1 else s) s0
  let f := s1.flash
  { s1 with flash := { f with results := f.results ++ recs, planDone := f.planDone ++ [i] } }

/-- A slice of a plan ends: its results, and after the fuse phase the complete record; `true` when the plan is complete. -/
def planStep (s : State) (results : List (Nat × Nat × Nat × Nat × Nat)) : State × Bool :=
  match slicesLeft s.flash with
  | [] => (s, false)
  | i :: r =>
    let s0 := if ((s.flash.plan[i]?).map (·.1)).getD 0 = 5 then fusePhase s else s
    let s1 := sliceEnds s0 i results
    if r = [] then ({ s1 with flash := planComplete s1.flash }, true) else (s1, false)

/-- Units that failed in the plan so far. -/
def failedUnits (f : Flash) : List (Nat × Nat) :=
  f.results.filterMap (fun r => if r.2.1 = 1 then some (r.1, r.2.2.1) else none)

/-- Die of a unit; 4 when it has none. -/
def dieOfUnit (k u : Nat) : Nat :=
  if k = 1 ∨ k = 2 ∨ k = 4 ∨ k = 5 then u / 1024 % 4 else if k = 3 ∨ k = 6 then u % 4 else if k = 8 then u % 8 / 2 else 4

/-- A self-test that is complete without a failure on a die clears what R317 held against it. -/
def clearDies (s : State) : State :=
  (List.range 4).foldl (fun s d =>
    if (failedUnits s.flash).any (fun e => dieOfUnit e.1 e.2 == d) then s else modDie s d (fun v => { v with out := false })) s

/-! ### The Scree log (R338, R339) -/

/-- Bin of a temperature in °C (R338). -/
def tempBin (t : Int) : Nat :=
  ([(40 : Int), 50, 60, 70, 80, 85, 90, 95, 100, 103, 105].filter (fun b => decide (b ≤ t))).length

/-- Bin of a voltage deviation in mV. -/
def voltBin (v : Int) : Nat := ([(-50 : Int), -25, 0, 25, 50].filter (fun b => decide (b ≤ v))).length

/-- Units of the Scree log in ascending kind and unit (R335). -/
def screeUnits (s : State) : List (Nat × Nat) :=
  let d := dieCount s.product
  (allCores s).map (fun p => (1, p)) ++
  ((List.range 64).filter (fun u => decide (u % 4 < d))).map (fun u => (6, u)) ++
  ((List.range 1088).filter (fun u => (linksOf s).contains (u % 8) && decide (u / 8 < linkLanes (u % 8) + spareLanes (u % 8)))).map (fun u => (7, u)) ++
  ((List.range 512).filter (fun u => decide (u % 8 < 2 * d))).map (fun u => (0x20, u)) ++
  ((List.range 32).filter (fun u => decide (u % 16 < 12 ∧ u / 16 < s.ddrDimms))).map (fun u => (0x21, u)) ++ [(0x22, 0)]

/-- A unit of the Scree log. -/
def isScreeUnit (s : State) (k u : Nat) : Bool :=
  let d := dieCount s.product
  if k = 1 then coreOk s u else if k = 6 then decide (u < 64 ∧ u % 4 < d)
  else if k = 7 then (linksOf s).contains (u % 8) && decide (u / 8 < linkLanes (u % 8) + spareLanes (u % 8))
  else if k = 0x20 then decide (u < 512 ∧ u % 8 < 2 * d)
  else if k = 0x21 then decide (u < 32 ∧ u % 16 < 12 ∧ u / 16 < s.ddrDimms)
  else decide (k = 0x22 ∧ u = 0)

/-- Cells that a router's ports have discarded for CRC (R210). -/
def crcErrors (r : Router) : Nat := (r.errs.map (fun e => fld e.2 19 0)).sum

/-- Ouvos gathers what the units have counted and clears their counts (R147, R196, R210, R255, R337), and announces what they have
retired (R257). When it does so is not stated: with the
bins, once per second (DESIGN CHOICE, log 77). -/
def gather (s0 : State) : State :=
  let s := announceRetired s0
  let s1 := s.cores.foldl (fun s e =>
    if e.2.corrected = 0 then s else modCore (addCorrected s 1 e.1 e.2.corrected) e.1 (fun c => { c with corrected := 0 })) s
  let s2 := s1.slices.foldl (fun s e =>
    if e.2.corrected = 0 then s
    else modSlice (addCorrected s 6 (cluUnit (e.1 / 4)) e.2.corrected) e.1 (fun v => { v with corrected := 0 })) s1
  let s3 := s2.switches.foldl (fun s e =>
    if e.2.corrected = 0 ∧ e.2.linkErrs = 0 then s
    else
      let u := cluUnit (cluOfPhys e.1)
      let s1 := addCorrected s 6 u e.2.corrected
      modSwitch (if e.2.linkErrs = 0 then s1 else addUncorrected s1 6 u e.2.linkErrs) e.1 (fun w => { w with corrected := 0, linkErrs := 0 })) s2
  let s4 := s3.routers.foldl (fun s e =>
    if e.2.errs = [] then s
    else
      let n := crcErrors e.2
      modRouter (if n = 0 then s else addUncorrected s 6 (cluUnit (cluOfPhys e.1)) n) e.1 (fun r => { r with errs := [] })) s3
  let s5 := s4.hbm.corrected.foldl (fun s e => addCorrected s 0x20 e.1 e.2) { s4 with hbm := { s4.hbm with corrected := [] } }
  s5.ddr.corrected.foldl (fun s e => addCorrected s 0x21 e.1 e.2) { s5 with ddr := { s5.ddr with corrected := [] } }

/-- The die whose sensor serves a link: that of its first end (R20; DESIGN CHOICE, log 77). -/
def linkDie (l : Nat) : Nat := [0, 1, 3, 2, 0, 1, 2, 3].getD l 0

/-- Number of the sensor that serves a unit (R338), in the numbers of `sensorDies`; a DIMM's thermal sensor is 80 and the DIMM's unit. -/
def sensorOf (k u : Nat) : Nat :=
  if k = 1 then cluOfPhys u
  else if k = 6 then 16 * (u % 4) + u / 4 % 16
  else if k = 7 then 64 + linkDie (u % 8)
  else if k = 0x20 then 72 + u % 8 else 80 + u

/-- Reading of a sensor in this second: the one that the tick brings, else the last that was taken; `noReading` before any. -/
def readingOf (s : State) (now : List (Nat × Nat)) (sensor : Nat) : Int :=
  match now.find? (fun e => e.1 == sensor) with
  | some e => Int.ofNat e.2
  | none => tget (-274) s.temps sensor

/-- The hottest sensor's reading. -/
def hottest (s : State) (now : List (Nat × Nat)) : Int :=
  (s.temps.map (·.1) ++ now.map (·.1)).foldl (fun m e => max m (readingOf s now e)) (-274)

/-- A unit adds one second to one temperature bin and one voltage bin (R338). A supply of which the tick brings no reading is at its set point
(DESIGN CHOICE, log 77). -/
def binUnit (s : State) (temps : List (Nat × Nat)) (volts : List (Nat × Int)) (k u : Nat) (r : Scree) : Scree :=
  let t := tempBin (if k = 0x22 then hottest s temps else readingOf s temps (sensorOf k u))
  let v := voltBin (((volts.find? (fun e => e.1 == if k = 0x22 then 68 else sensorOf k u)).map (·.2)).getD 0)
  { r with temp := tset 0 r.temp t (sat32 (tget 0 r.temp t + 1)), volt := tset 0 r.volt v (sat32 (tget 0 r.volt v + 1)) }

/-- Every unit of an ascending list is binned once, in a log that ascends too. -/
def binAll (f : Nat × Nat → Scree → Scree) : List (Nat × Nat) → Tbl Scree → Tbl Scree
  | [], t => t
  | u :: l, t =>
    let k := screeKey u.1 u.2
    let rest := t.dropWhile (fun e => decide (e.1 < k))
    let r := match rest with | e :: _ => if e.1 = k then e.2 else {} | [] => {}
    t.takeWhile (fun e => decide (e.1 < k)) ++ (k, f u r) :: binAll f l (rest.dropWhile (fun e => e.1 == k))

/-- SCREE_BIN_TICK (R338): one second of every unit, once in each second of device time. `temps` and `volts` bring readings of sensors, by their
numbers: a temperature in °C, and the deviation in mV of the supply that the sensor's unit runs from. -/
def execScreeBinTick (temps : List (Nat × Nat)) (volts : List (Nat × Int)) (s : State) : Out :=
  .next (if s.binAt = some (devSec s) then s
    else
      let s1 := gather s
      { s1 with binAt := some (devSec s), scree := binAll (fun u => binUnit s1 temps volts u.1 u.2) (screeUnits s1) s1.scree })

/-- The bytes of a Scree record (R336); `masked` leaves out what a tenant does not read (R340). -/
def screeBytes (s : State) (masked : Bool) (u : Nat × Nat) : List Byte :=
  let r := getScree s u.1 u.2
  let head := leBytes 1 u.1 ++ leBytes 1 r.verdict ++ leBytes 6 (if masked then 0 else u.2) ++ leBytes 4 r.corrected ++
    leBytes 4 r.uncorrected ++ leBytes 4 r.abft ++ leBytes 4 r.sndFail ++ leBytes 4 r.sndRuns ++ leBytes 4 r.resets
  if masked then head ++ zeros 96
  else
    head ++ leBytes 8 r.lastSound ++ (List.range 3).flatMap (fun i => leBytes 4 ((r.ev[i]?.map (·.1)).getD 0)) ++
      (List.range 3).flatMap (fun i => leBytes 1 ((r.ev[i]?.map (·.2)).getD 0)) ++ zeros 1 ++
      (List.range 12).flatMap (fun i => leBytes 4 (tget 0 r.temp i)) ++ (List.range 6).flatMap (fun i => leBytes 4 (tget 0 r.volt i))

/-- Digest in a generation's header (R339): of its records, in the order of the log. -/
def generationDigest (s : State) : BitVec 256 := sha3 ((screeUnits s).flatMap (screeBytes s false))

/-- The area holds a whole generation. -/
def generationValid (s : State) (g : Generation) : Bool :=
  g.number != 0 && g.count == (screeUnits s).length && g.digest == generationDigest { s with scree := g.recs }

/-- The generation that a boot takes (R339): the valid one with the higher number. -/
def bestGeneration (s : State) : Generation :=
  let a := s.flash.areaA
  let b := s.flash.areaB
  if generationValid s a && (!decide (a.number < b.number) || !generationValid s b) then a
  else if generationValid s b then b else {}

/-- Write a generation to flash (R339), in the area that does not hold the last one. -/
def writeGeneration (s : State) : State :=
  let a := s.flash.areaA
  let b := s.flash.areaB
  let g : Generation := { number := max a.number b.number + 1, count := (screeUnits s).length, digest := generationDigest s, recs := s.scree }
  { s with genAt := devNs s + 600000000000,
           flash := if a.number ≤ b.number then { s.flash with areaA := g } else { s.flash with areaB := g } }

/-- SCREE_GENERATION_WRITE: when its time has come. Ouvos defers a write under load by coming to it later (R339). -/
def execScreeGenerationWrite (s : State) : Out := .next (if devNs s ≥ s.genAt then writeGeneration s else s)

/-- A write deferred by 60 minutes is served ahead of the mailboxes (R339). -/
def overdueGeneration (s : State) : State := if devNs s ≥ s.genAt + 3600000000000 then writeGeneration s else s

/-! ### DRAM (R258) -/

/-- DRAM_REFRESH: a failed calibration is retried; the third failure in a row raises event 0x8D. `unit` is the pseudo-channel
(stack [2:0], pseudo-channel [8:3]) or the DDR5 subchannel, in the encoding of a row of it with bank and row 0. -/
def execDramRefresh (tier unit : Nat) (calOk : Bool) (s : State) : Out :=
  onUnit (decide (tier < 2))
    (let v := getTier s tier
     if calOk then setTier s tier { v with calFail := tset 0 v.calFail unit 0 }
     else
       let n := tget 0 v.calFail unit + 1
       let kind := if tier = 0 then 8 else 9
       let s1 := setTier s tier { v with calFail := tset 0 v.calFail unit (if n ≥ 3 then 0 else n) }
       if n ≥ 3 then postEvent s1 (if tier = 0 then unit % 8 / 2 else 0)
         { code := 0x8D, unitKind := kind, unit := unit, by_ := detTier tier (if tier = 0 then unit % 8 else unit % 16) } else s1)

end Sys2Proof.Machine
end

