-- ==== Sys2Proof/Machine/Power.lean ====
section
/-! DEFINITION. The power manager: lending, grants, the cap, the brake, neighbour limits, temperatures and cluster power
states (R72, R470 to R480), and the board's power registers (R476, R479, R511). -/

namespace Sys2Proof.Machine

def isActive (s : State) (c : Nat) : Bool := decide ((getPow s c).mode = 0)

/-- Neighbours that stand above twice a cluster's grant are lowered to it, as far as their floors allow (R184, R479); `fuel` bounds the distance
over which one lowering calls for another. -/
def holdRatio : Nat → State → Nat → State
  | 0, s, _ => s
  | k + 1, s, c =>
    (awakeBeside s c).foldl (fun s n =>
      let top := max (floorOf s n) (twiceGrant (getPow s c).target)
      if (getPow s n).target > top then holdRatio k (modPow s n (fun w => { w with target := top })) n else s) s

/-- Set a cluster's grant to a lower one, and hold its neighbours to the ratio. -/
def lowerTo (s : State) (c g : Nat) : State := holdRatio 6 (modPow s c (fun w => { w with target := min w.target g })) c

/-- Lower a cluster one step: its grant toward the floor, then its pacing (R473). No grant falls below half that of a neighbour (R479): the
neighbour comes down with it. -/
def lowerStep (s : State) (c : Nat) : State :=
  let f := floorOf s c
  if (getPow s c).target > f then lowerTo s c ((getPow s c).target - 1)
  else modPow s c (fun w => { w with pacing := max 1 (w.pacing - 1) })

/-- A clamp: a step down that is counted (R479). -/
def clampStep (s : State) (c kind : Nat) : State :=
  modPow (lowerStep s c) c (fun w => { w with kind := kind, clamps := sat32 (w.clamps + 1) })

/-! ### Lending (R72, R478) -/

/-- The core has been lending for 10 µs. -/
def coreLends (s : State) (p : Nat) : Bool :=
  let c := getCore s p
  threadIds.all (fun t => (getThread c t).state != .ready) && c.te.ops.isEmpty && c.ve.cur.isNone &&
  decide (coreNow s c ≥ (c.idleFrom.getD 0) + 18000)

/-- LEND_FLAG_SET: every core in use of the cluster is lending. A cluster without a running job, or in SLEEP or OFF, does not lend (DEDUCED,
log 33). -/
def execLendFlagSet (cluster : Nat) (s : State) : Out :=
  onUnit (cluOk s cluster)
    (match (partOfCluster s cluster).bind (getPart s) with
     | none => s
     | some pt =>
       let cores := (partCores s pt).filter (fun p => cluOfPhys p == cluster)
       let w := getPow s cluster
       if pt.running ∧ w.mode ≤ 1 ∧ w.lend = false ∧ cores.all (coreLends s) then
         let fast := (awakeBeside s cluster).foldl (fun m n => max m (getPow s n).target) 0
         let low := min w.target (max (floorOf s cluster) (halfGrant fast))
         shareLent (setPow s cluster { w with lend := true, own := w.target, target := low })
       else s)

/-- GRANT_CHANGE_DONE (R472): the new clock is in force. -/
def execGrantChangeDone (cluster : Nat) (s : State) : Out :=
  onUnit (cluOk s cluster) (modPow s cluster (fun w => { w with grant := w.target }))

/-! ### The cap (R474 to R477) -/

/-- Product limit and least value of PWR_LIMIT (R476). -/
def limitMax (s : State) : Nat := if dieCount s.product = 4 then 1500 else 800
def limitMin (s : State) : Nat := if dieCount s.product = 4 then 600 else 320
def capOf (s : State) : Nat := fld s.pwrLimit 11 0

/-- Sensor numbers (the model's own): a cluster by its number, die d at 64 + d, the hub at 68, stack k at 72 + k. -/
def sensorCluster (n : Nat) : Option Nat := if n < 64 then some n else none
def sensorDies (n : Nat) : List Nat :=
  if n < 64 then [n / 16] else if n < 68 then [n - 64] else if n < 72 then [0, 1, 2, 3] else [(n - 72) / 2]

/-- One step of the reductions of R475: the first of the four that has something left to lower. -/
def reduceStep (s : State) : State :=
  let all := allClusters s
  let act := all.filter (isActive s)
  if all.any (fun c => decide ((getPow s c).target > 60)) then
    all.foldl (fun s c => modPow s c (fun w => if w.target > 60 then { w with target := w.target - 1 } else w)) s
  else if act.any (fun c => decide ((getPow s c).target > floorOf s c)) then
    let goals := act.map (fun c => (c, max (floorOf s c) ((getPow s c).target - 1)))
    goals.foldl (fun s e => lowerTo s e.1 e.2) s
  else if act.any (fun c => decide ((getPow s c).pacing > 1)) then
    act.foldl (fun s c => modPow s c (fun w => { w with pacing := max 1 (w.pacing - 1) })) s
  else { s with hbmPace := max 8 (s.hbmPace - 1) }

/-- A sensor of the die reads 105 °C or more (R480). -/
def dieHot (s : State) (die : Nat) : Bool := s.temps.any (fun e => decide (e.2 ≥ 105) && (sensorDies e.1).contains die)

/-- A sensor of the device reads 105 °C or more. -/
def anyHot (s : State) : Bool := s.temps.any (fun e => decide (e.2 ≥ 105))

/-- A stack's own pacing (R480) rises one sixteenth, unless the stack last read 95 °C or more. -/
def restoreStack (s : State) (e : Nat × Nat) : Nat :=
  if s.temps.any (fun t => t.1 == 72 + e.1 && decide (t.2 ≥ 95)) then e.2 else min 16 (e.2 + 1)

/-- A stack whose own pacing a step of the restoration raises. -/
def stackRises (s : State) (e : Nat × Nat) : Bool := decide (e.2 < restoreStack s e)

/-- The last step of the restoration: grants above 2.1 GHz, which only lent budget gives (R475, R478). Whether the budget pays another round is
a free value. -/
def restoreLent (s : State) : State :=
  if (allClusters s).any (lends s) && (allClusters s).any (fun c => decide (60 ≤ (getPow s c).target) && borrows s c) then
    (List.range (min 1 (Config.freeValue s.freeSeq 0))).foldl (fun s _ => lendRound s) (useFree s)
  else s

/-- One step of the restoration, in the opposite order: the pacing of the HBM4 requests, the clusters' pacing, their grants, the lent budget. A clamped or
throttled cluster is not raised, nor a lender, and nothing that a sensor at 105 °C or above holds down (R480). -/
def restoreStep (s : State) : State :=
  let act := (allClusters s).filter (fun c => isActive s c && !(getPow s c).hot && !(getPow s c).tclamp && !(getPow s c).vclamp && !(getPow s c).lend &&
    !dieHot s (c / 16))
  let rises := s.stackPace.any (stackRises s)
  if (s.hbmPace < 16 ∧ anyHot s = false) ∨ rises then
    { s with hbmPace := if anyHot s then s.hbmPace else min 16 (s.hbmPace + 1), stackPace := s.stackPace.map (fun e => (e.1, restoreStack s e)) }
  else if act.any (fun c => decide ((getPow s c).pacing < 16)) then
    act.foldl (fun s c => modPow s c (fun w => { w with pacing := min 16 (w.pacing + 1) })) s
  else if act.any (fun c => decide ((getPow s c).target < 60) && mayRaise s c) then
    act.foldl (fun s c => if (getPow s c).target < 60 ∧ mayRaise s c then modPow s c (fun w => { w with target := w.target + 1 }) else s) s
  else restoreLent s

/-- POWER_BUDGET_TICK: the estimate in watts against 0.97 and 0.95 of the cap (R474, R475). One step is restored per millisecond, and none
while the brake is held. -/
def execPowerBudgetTick (estimate : Nat) (s : State) : Out :=
  .next (if estimate * 100 > 97 * capOf s then reduceStep s
    else if estimate * 100 < 95 * capOf s ∧ s.brake = false ∧ s.fab ≥ s.restoredAt + usCycles 1000 then restoreStep { s with restoredAt := s.fab } else s)

/-- PWR_LIMIT_WRITE (R13, R476): 0 changes nothing; a value out of range is refused. -/
def execPwrLimitWrite (value : W64) (s : State) : Out :=
  .next (let v := fld value 11 0
    if v = 0 then s
    else if v < limitMin s ∨ v > limitMax s then { s with pwrRefused := true }
    else { s with pwrLimit := BitVec.ofNat 64 v })

/-- PWR_LIMIT_READ (R511): the read ends the ALERT_N condition of a refused write. -/
def execPwrLimitRead (s : State) : Out := .next { s with pwrRefused := false }

/-- A cluster runs at its floor, its neighbours within the ratio. -/
def atFloor (s : State) (c : Nat) : State :=
  let f := floorOf s c
  holdRatio 6 (modPow s c (fun w => { w with target := f })) c

/-- PWR_BRAKE_ASSERT (R477): pacing 8, or the pacing 4 that a sensor at 105 °C or above holds (R480). -/
def execPwrBrakeAssert (s : State) : Out :=
  .next (((allClusters s).filter (isActive s)).foldl
    (fun s c => modPow (atFloor s c) c (fun w => { w with pacing := if dieHot s (c / 16) then min w.pacing 4 else 8 })) { s with brake := true, hbmPace := 8 })

/-- PWR_BRAKE_RELEASE: what the brake lowered is restored under R475. -/
def execPwrBrakeRelease (s : State) : Out := .next { s with brake := false }

/-! ### Neighbours and temperatures (R479, R480) -/

/-- VOLTAGE_CLAMP: two neighbours measured more than 120 mV apart for over 10 µs; steps go on until 100 mV or less. -/
def execVoltageClamp (a b va vb : Nat) (s : State) : Out :=
  onUnit (cluOk s a && cluOk s b)
    (let d := if va ≥ vb then va - vb else vb - va
     let high := if va ≥ vb then a else b
     let w := getPow s high
     if !(neighbours a).contains b || decide ((getPow s a).mode > 1 ∨ (getPow s b).mode > 1) then s
     else if d > 120 ∨ (w.vclamp ∧ d > 100) then modPow (clampStep s high 1) high (fun w => { w with vclamp := true })
     else modPow s high (fun w => { w with vclamp := false }))

/-- What a sensor not yet read counts as: a temperature below any. -/
def noReading : Int := -274

/-- Throttle of a cluster at 100 °C or above; a step back up below 97 °C. -/
def throttle (s : State) (c : Nat) (t : Int) : State :=
  let w := getPow s c
  if t ≥ 100 then
    if !w.hot ∨ s.fab ≥ w.stepAt + usCycles 100 then modPow (clampStep s c 3) c (fun w => { w with hot := true, stepAt := s.fab }) else s
  else if w.hot ∧ t < 97 ∧ s.brake = false ∧ dieHot s (c / 16) = false ∧ s.fab ≥ w.stepAt + usCycles 1000 then
    let v := if w.pacing < 16 then { w with pacing := w.pacing + 1 }
             else if w.target < 60 ∧ mayRaise s c then { w with target := w.target + 1 } else w
    setPow s c { v with stepAt := s.fab, hot := decide (v.pacing < 16 ∨ v.target < 60) }
  else s

/-- Temperature limit between neighbours: the hotter one is lowered while they differ by more than 30 °C, until 25 °C or
less. -/
def temperatureClamp (s : State) (c : Nat) : State :=
  let w := getPow s c
  let worst := ((neighbours c).filter (fun n => s.temps.any (fun e => e.1 == n))).foldl (fun m n => max m (w.hotTemp - (getPow s n).hotTemp)) (0 : Int)
  if worst > 30 ∨ (w.tclamp ∧ worst > 25) then
    if !w.tclamp ∨ s.fab ≥ w.stepAt + usCycles 1000 then modPow (clampStep s c 2) c (fun w => { w with tclamp := true, stepAt := s.fab }) else s
  else modPow s c (fun w => { w with tclamp := false })

/-- What a reading does, the trip apart. -/
def readSensor (s : State) (sensor : Nat) (t : Int) : State :=
  let s0 : State := { s with temps := tset noReading s.temps sensor t }
  let s1 := match sensorCluster sensor with
    | none => if sensor ≥ 72 ∧ t ≥ 95 then { s0 with stackPace := tset 16 s0.stackPace (sensor - 72) (max 8 (tget 16 s0.stackPace (sensor - 72) - 1)) } else s0
    | some c => temperatureClamp (throttle (modPow s0 c (fun w => { w with hotTemp := t })) c t) c
  if t ≥ 105 then
    let s2 : State := { s1 with hbmPace := 8 }
    (allClusters s2).foldl (fun s c =>
      if (sensorDies sensor).contains (c / 16) then modPow (atFloor s c) c (fun w => { w with pacing := min w.pacing 4 }) else s) s2
  else s1

/-- Every sensor reads below 95 °C. -/
def allCool (s : State) : Bool := s.temps.all (fun e => decide (e.2 < 95))

/-- ALERT_N is asserted (R511). -/
def alertLow (s : State) : Bool :=
  (match s.report with | none => false | some r => r.status == 2) || decide (s.service = 1 ∨ s.service = 2) ||
  anyHot s || s.pwrRefused

/-- PWR_CLAMP of a cluster as the board reads it (R479). -/
def pwrClamp (s : State) (c : Nat) : Nat :=
  let w := getPow s c
  w.grant + 2 ^ 7 * w.mode + 2 ^ 9 * (w.pacing - 1) + (if w.lend then 2 ^ 13 else 0) + 2 ^ 14 * w.kind + 2 ^ 16 * w.clamps

/-! ### Cluster power states (R470) -/

/-- A core of the cluster has had work within the last microsecond. -/
def coreBusy (s : State) (p : Nat) : Bool :=
  let c := getCore s p
  threadIds.any (fun t => (getThread c t).state == .ready) || !c.te.ops.isEmpty || c.ve.cur.isSome || !c.tags.isEmpty ||
  c.send.any (fun v => v.2.cur.isSome) || c.recv.any (fun v => !v.2.ops.isEmpty) ||
  decide (coreNow s c < max (c.idleFrom.getD 0) c.lastOpAt + 1800)

/-- A core of the cluster has an enabled queue, steering unit or slice context in the loaded schedule. -/
def scheduled (s : State) (c : Nat) : Bool :=
  (clusterPhys c).any (fun p =>
    let k := getCore s p
    k.outQ.any (fun q => bit q.2.cfg 0) || k.steer.any (fun u => bit u.2.cfg 0) || (getSwitch s p).xctx.any (fun e => decide (fld e.2 13 0 ≠ 0)))

/-- CLUSTER_IDLE_ENTRY. -/
def execClusterIdleEntry (cluster : Nat) (s : State) : Out :=
  onUnit (cluOk s cluster)
    (if isActive s cluster && !scheduled s cluster && (clusterPhys cluster).all (fun p => !coreBusy s p) then
       modPow s cluster (fun w => { w with mode := 1 })
     else s)

/-- Something waits for an IDLE cluster: a cell for one of its endpoints, or a thread that a raise has made READY. -/
def wakesIdle (s : State) (c : Nat) : Bool :=
  (clusterPhys c).any (fun p =>
    threadIds.any (fun t => (getThread (getCore s p) t).state == .ready) ||
    (match logOf s p with | none => false | some l => !(getEnd s l).inbox.isEmpty)) ||
  (List.range 4).any (fun k => !(getEnd s (slicePos (4 * c + k))).inbox.isEmpty)

/-- CLUSTER_WAKE: ACTIVE at the end of the wake time; woken from OFF, the cluster is cleared (R151). -/
def execClusterWake (cluster : Nat) (s : State) : Out :=
  onUnit (cluOk s cluster)
    (let w := getPow s cluster
     let up (s : State) : State := awaken s cluster
     if w.mode = 1 ∧ (w.waking ∨ wakesIdle s cluster) then up s
     else if w.mode = 2 ∧ w.waking then up s
     else if w.mode = 3 ∧ w.waking then up (wipeCluster s cluster)
     else s)

end Sys2Proof.Machine
end

