-- ==== Sys2Proof/Machine/Meter.lean ====
section
/-! DEFINITION. The Islon meter (ch. 20, R439 to R467): samples, tap frames, Ballast, the division of the energy, sessions,
settlement records, the audit trail, the seal, commits and resets. Energies are whole numbers of 10^-12 J: a sample in mV
and mA of 4 µs is 4 v i of them. Meter time runs 4 µs with each sample. -/

namespace Sys2Proof.Machine

/-- The bytes of a context string. -/
def ctxBytes (t : String) : List Byte := t.toList.map (fun c => BitVec.ofNat 8 c.toNat)

def getTap (m : Meter) (k : Nat) : Tap := tget {} m.taps k
def setTap (m : Meter) (k : Nat) (t : Tap) : Meter := { m with taps := tset {} m.taps k t }
def getGroup (m : Meter) (g : Nat) : Group := tget {} m.groups g
def setGroup (m : Meter) (g : Nat) (v : Group) : Meter := { m with groups := tset {} m.groups g v }
def getLine (m : Meter) (p : Nat) : Line := tget {} m.lines p
def modLine (m : Meter) (p : Nat) (f : Line → Line) : Meter := { m with lines := tmod {} m.lines p f }

/-- The overhead account among the lines. -/
def overheadLine : Nat := 64

/-- A table of groups with a function applied to each entry. -/
def mapGroups (f : Group → Group) (t : Tbl Group) : Tbl Group := t.foldl (fun (r : Tbl Group) e => tset {} r e.1 (f e.2)) []

def meterRuns (m : Meter) : Bool := m.powered && m.measuring

/-- Seal state (R463): 2 once the break fuse is blown, 0 on a sealed M variant, else 1. -/
def sealState (s : State) : Nat :=
  if s.meter.breakFuse then 2 else if metered s.product && s.meter.sealFuse then 0 else 1

def auditFull (m : Meter) : Bool := decide (4096 ≤ m.audit.length)

/-- The first 32 bytes of an audit entry (R461). -/
def auditHead (seq code time old new : Nat) : List Byte :=
  leBytes 4 seq ++ leBytes 2 code ++ zeros 2 ++ leBytes 8 time ++ leBytes 8 old ++ leBytes 8 new

/-- A whole audit entry of 64 bytes. -/
def auditBytes (a : Audit) : List Byte := auditHead a.seq a.code a.time a.old a.new ++ digestBytes a.chain

/-- Append and sign an audit entry (R461); nothing when the trail is full. -/
def addAudit (m : Meter) (code old new : Nat) : Meter :=
  if auditFull m then m
  else
    let prev := match m.audit.getLast? with
      | none => zeros 32
      | some a => digestBytes a.chain
    let seq := m.audit.length + 1
    let chain := sha3 (prev ++ auditHead seq code m.time old new)
    { m with audit := m.audit ++ [{ seq := seq, code := code, time := m.time, old := old, new := new, chain := chain }],
             auditSig := Config.signWith 2 (ctxBytes "CM7 meter audit" ++ digestBytes chain) }

/-- Break the seal of an M variant with a cause (R464). -/
def breakSeal (s : State) (cause : Nat) : State :=
  if metered s.product && decide (sealState s ≠ 2) then
    let m := addAudit s.meter 0x0005 (sealState s) cause
    { s with meter := { m with breakFuse := true, cause := cause } }
  else s

/-! ### Sessions -/

/-- Whether a cluster's label names the PartID in state 1 or 2 (R453). -/
def labelled (label p : Nat) : Bool := (label % 4 == 1 || label % 4 == 2) && label / 4 % 64 == p

/-- Whether some cluster of any die bears the PartID's label. -/
def inSession (m : Meter) (p : Nat) : Bool := m.taps.any (fun e => labelled e.2.label p)

def partIds : List Nat := List.range 64

/-- The sessions that the labels of a frame begin and end: `m` before the frame, `m1` with its labels. -/
def sessionsStep (m m1 : Meter) : Meter :=
  partIds.foldl (fun x p =>
    let was := inSession m p
    let is := inSession m1 p
    if is && !was then
      let x1 := modLine x p (fun l => { l with began := true, inUse := true })
      { x1 with sessions := tmod 0 x1.sessions p (fun n => (n + 1) % 65536) }
    else if was && !is then modLine x p (fun l => { l with ended := true })
    else x) m1

/-! ### Records (R454 to R460) -/

/-- Rated currents in mA (R444). -/
def ratedAmps (g : Nat) : Nat := [400000, 400000, 400000, 400000, 300000, 250000, 200000, 25000].getD g 0

/-- A group is fitted: G2 and G3 only on a CM7-4 (R444). -/
def groupFitted (s : State) (g : Nat) : Bool := decide (g < 8) && (decide (g < 2 ∨ 4 ≤ g) || decide (dieCount s.product = 4))

def microJ (e : Nat) : Nat := e / 1000000

/-- A group entry of the device block (R457). -/
def groupEntry (g : Group) : List Byte :=
  leBytes 8 (microJ g.energy) ++ leBytes 2 (if g.vmin = 65535 then 0 else g.vmin) ++ leBytes 2 (g.imax / 100) ++
    leBytes 1 ((if g.sensed then 1 else 0) + (if g.above then 2 else 0) + (if g.low then 4 else 0)) ++ zeros 3

/-- The device block (R457). -/
def deviceBlock (m : Meter) : List Byte :=
  (List.range 8).flatMap (fun g => groupEntry (getGroup m g)) ++ leBytes 8 (microJ m.total) ++ zeros 8

/-- The partitions with a line, in ascending PartID (R458). -/
def linesInUse (m : Meter) : List Nat := partIds.filter (fun p => (getLine m p).inUse)

/-- A line of 48 bytes (R458). -/
def lineBytes (id flags session energy cycles time : Nat) (salt : List Byte) : List Byte :=
  leBytes 1 id ++ leBytes 1 flags ++ leBytes 2 session ++ zeros 4 ++ leBytes 8 energy ++ leBytes 8 cycles ++ leBytes 8 time ++ salt

/-- The salt of line `k`, drawn by the meter: a free value. -/
def lineSalt (s : State) (k : Nat) : List Byte :=
  (List.range 16).map (fun j => BitVec.ofNat 8 (Config.freeValue s.freeSeq (16 * k + j)))

/-- The 65 lines of a record: the overhead line takes the device energy less the lines of the partitions (R39, R454), in 64 bits. -/
def recordLines (s : State) : List (List Byte) :=
  let m := s.meter
  let ps := linesInUse m
  let device := ((List.range 8).map (fun g => microJ (getGroup m g).energy)).sum
  let booked := (ps.map (fun p => microJ (getLine m p).energy)).sum
  let o := getLine m overheadLine
  let first := lineBytes 64 (if o.stale then 4 else 0) 0 ((device + 2 ^ 64 - booked) % 2 ^ 64) o.cycles o.time (lineSalt s 0)
  let rest := ps.zipIdx.map (fun (p, i) =>
    let l := getLine m p
    lineBytes p ((if l.began then 1 else 0) + (if l.ended then 2 else 0) + (if l.stale then 4 else 0))
      (tget 0 m.sessions p) (microJ l.energy) l.cycles l.time (lineSalt s (i + 1)))
  first :: rest ++ List.replicate (64 - ps.length) (zeros 48)

def orBit (b : Bool) (n : Nat) : Nat := if b then 2 ^ n else 0

/-- The header of the open record as it closes at `endT` (R456). -/
def recordHeader (s : State) (endT : Nat) : List Byte :=
  let m := s.meter
  let short := m.shortened || decide (endT - m.start < m.interval * 1000000)
  let above := (List.range 8).any (fun g => (getGroup m g).above)
  let flags := orBit short 0 + orBit m.gap 1 + orBit m.clkFault 2 + orBit m.changed 3 + orBit m.tapFlag 4 + orBit m.calFlag 5 +
    orBit above 6
  leBytes 2 1 ++ leBytes 1 (sealState s) ++ leBytes 1 (linesInUse m).length ++ leBytes 4 flags ++ leBytes 8 m.number ++
    leBytes 8 m.start ++ leBytes 8 endT ++ leBytes 4 m.interval ++ leBytes 4 m.audit.length ++ zeros 24

/-- The digest of a stored record (R459): header, digest of the device block, digest of each line. -/
def recordDigest (r : List Byte) : BitVec 256 :=
  sha3 (slice r 0 64 ++ digestBytes (sha3 (slice r 64 144)) ++
    (List.range 65).flatMap (fun k => digestBytes (sha3 (slice r (208 + 48 * k) 48))))

/-- A die whose tap has been silent for more than 100 ms (R449). -/
def tapSilent (m : Meter) (d : Nat) : Bool := tget false m.tapSeen d && decide (100000 < m.up - tget 0 m.tapLast d)

/-- Open a record (R455): its number follows, its accumulators are empty, and the PartIDs in session have a line. -/
def openRecord (m : Meter) (start : Nat) (gap : Bool) : Meter :=
  { m with
    start := start, opened := true, shortened := false, gap := gap, changed := false,
    tapFlag := m.tapFault || (List.range 4).any (tapSilent m), calFlag := m.taps.any (fun e => e.2.stale),
    groups := mapGroups (fun g => { g with energy := 0, vmin := 65535, imax := 0, sensed := g.sense, above := false,
                                           low := true, sample := 0 }) m.groups,
    lines := (partIds.filter (inSession m)).map (fun p => (p, { inUse := true })) }

/-- Close the open record at `endT` and sign it (R454, R459, R460): the store's slot is written, record N's signature goes
to slot 31 and, when N mod 8 = 0, to slot (N div 8) mod 31; the record waits to be named by MTR_LAST. -/
def closeRecord (s : State) (endT : Nat) : State :=
  let m := s.meter
  let r := recordHeader s endT ++ deviceBlock m ++ (recordLines s).flatMap id
  let c := sha3 (digestBytes m.chain ++ digestBytes (recordDigest r))
  let sig := leBytes 8 m.number ++ zeros 4 ++ Config.signWith 2 (ctxBytes "CM7 meter record" ++ leBytes 8 m.number ++ digestBytes c)
  let g1 := tput m.sigs 31 sig
  let g2 := if m.number % 8 = 0 then tput g1 (m.number / 8 % 31) sig else g1
  useFree { s with meter := { m with records := tput m.records (m.number % 208) r, chains := tput m.chains (m.number % 512) c,
                                     chain := c, sigs := g2, closing := m.closing ++ [m.number], number := m.number + 1,
                                     opened := false, tapFault := (List.range 4).any (tapSilent m) } }

/-- The last multiple of the interval up to now, when the open record has reached it (R455). -/
def boundary (m : Meter) : Option Nat :=
  let i := m.interval * 1000000
  let b := m.time / i * i
  if 0 < i ∧ m.start < b then some b else none

/-- The open record closes at a boundary and the next one opens; a new interval takes effect with it. -/
def settle (s : State) (b : Nat) : State :=
  let s1 := closeRecord s b
  let m1 := s1.meter
  let m2 := match m1.nextInterval with
    | none => m1
    | some n => { m1 with interval := n, nextInterval := none }
  { s1 with meter := openRecord m2 b false }

/-- SETTLEMENT_CLOSE: at the boundary the record closes and the next opens at the same sample; a new interval takes
effect. -/
def execSettlementClose (s : State) : Out :=
  .next (if meterRuns s.meter && s.meter.opened then
      match boundary s.meter with
      | some b => settle s b
      | none => s
    else s)

/-- MTR_LAST_ADVANCE (R459): MTR_LAST names the oldest record closed and not yet named. -/
def execMtrLastAdvance (s : State) : Out :=
  match s.meter.powered, s.meter.closing with
  | true, n :: rest => .next { s with meter := { s.meter with last := some (n % 2 ^ 48), closing := rest } }
  | _, _ => .next s

/-! ### Samples and taps -/

/-- One group's part of a sample (R446): without a reading its sense is at fault. -/
def sampleGroup (m : Meter) (g : Nat) (v i : Option Nat) : Meter :=
  let x := getGroup m g
  match v, i with
  | some v, some i =>
    let e := 4 * v * i
    let m1 := setGroup m g { x with energy := x.energy + e, sample := x.sample + e, volts := v, amps := i, vmin := min x.vmin v,
                                    imax := max x.imax i, above := x.above || decide (ratedAmps g < i),
                                    low := x.low && decide (20 * i < ratedAmps g), sense := false }
    { m1 with total := m1.total + e }
  | _, _ => setGroup m g { x with sense := true, sensed := true }

/-- Divide the energy of G4 since its last division by the HBM4 bytes of the latest millisecond (R452). -/
def divideHbm (m : Meter) : Meter :=
  let x := getGroup m 4
  let recent := m.hbmRecent.filter (fun e => decide (m.up < e.1 + 1000))
  let all := (recent.map (fun e => e.2.2)).sum
  let m1 := setGroup { m with hbmRecent := recent } 4 { x with sample := 0 }
  if all = 0 then m1
  else recent.foldl (fun m e =>
    if e.2.1 < 64 then modLine m e.2.1 (fun l => { l with energy := l.energy + x.sample * e.2.2 / all }) else m) m1

/-- METER_SAMPLE (R446): each fitted group's v × i × 4 µs is accumulated; meter time advances. `volts` are mV and `amps` mA,
G0 first; a fitted group without a reading has a sense fault. -/
def execMeterSample (volts amps : List Nat) (s : State) : Out :=
  if meterRuns s.meter then
    let m := (List.range 8).foldl (fun m g => if groupFitted s g then sampleGroup m g volts[g]? amps[g]? else m) s.meter
    let m1 := { m with time := m.time + 4, up := m.up + 4 }
    let m2 := divideHbm m1
    .next { s with meter := if m2.up / 1000000 = m.up / 1000000 then m2 else { m2 with shown := microJ m2.total } }
  else .next s

/-- A count's increase on a counter of n bits. -/
def countStep (n old new : Nat) : Nat := (new % 2 ^ n + 2 ^ n - old % 2 ^ n) % 2 ^ n

/-- Time that a cluster's load has been enabled since its last frame (R450). -/
def loadTime (m : Meter) (t : Tap) : Nat := t.onAcc + (if t.ballast then m.up - t.onFrom else 0)

/-- What a frame says of cluster i of a die beside what the meter read before. -/
structure TapStep where
  key    : Nat
  charge : Nat
  active : Nat
  sound  : Nat
  label  : Nat
  energy : Nat                             -- gain × charge × group voltage
  deriving DecidableEq, Repr

/-- The data plane's counters of a cluster (R24, R448), with what was drawn and run since the die's last frame added. -/
def countTap (s : State) (k charge cycles sounding : Nat) : State :=
  let c := tget {} s.tapCount k
  { s with tapCount := tset {} s.tapCount k { charge := (c.charge + charge) % 2 ^ 48, cycles := (c.cycles + cycles) % 2 ^ 48,
                                              sounding := (c.sounding + sounding) % 2 ^ 40 } }

/-- Every cluster of a die counts. -/
def countTaps (s : State) (die : Nat) (charge cycles withdrawn inPlace : List Nat) : State :=
  (List.range 16).foldl (fun s i =>
    countTap s (16 * die + i) (charge.getD i 0) (cycles.getD i 0) (withdrawn.getD i 0 + inPlace.getD i 0)) s

/-- The bytes that each HBM4 controller of a die moves by itself, its refresh and recalibration, count for no partition (R448). -/
def countOther (s : State) (die : Nat) (other : List Nat) : State :=
  (List.range 2).foldl (fun s i =>
    let k := 65 * (2 * die + i) + 64
    { s with hbmMoved := tset 0 s.hbmMoved k ((tget 0 s.hbmMoved k + other.getD i 0) % 2 ^ 48) }) s

/-- The label that a cluster's frame carries: state and part of CORE_CLU_FENCE (R448). -/
def tapLabel (s : State) (k : Nat) : Nat := fld (tget (0 : W64) s.cluFence k) 7 0

/-- The step of one cluster: its counters and label beside what the meter read before. -/
def tapStep (s : State) (k : Nat) : TapStep :=
  let t := getTap s.meter k
  let c := tget {} s.tapCount k
  { key := k, charge := c.charge, active := countStep 48 t.cycles c.cycles, sound := countStep 40 t.sounding c.sounding,
    label := tapLabel s k, energy := t.gainNum * countStep 48 t.charge c.charge * (getGroup s.meter (k / 16)).volts * 1000 / t.gainDen }

/-- Book one cluster's share of the sample or gap (R449, R452): `cap` and `sum` scale the cluster energies down to the group
energy; the Ballast energy and the share of Sounding stay in the overhead account, and the rest goes to the PartID of a
cluster in state 1. A cluster whose label differs across a gap books to the overhead account; so does all energy of a gap above 100 ms, `late`. -/
def bookCluster (dt cap sum volts : Nat) (late : Bool) (m : Meter) (x : TapStep) : Meter :=
  let t := getTap m x.key
  let e := if cap < sum then x.energy * cap / sum else x.energy
  let r := e - t.ampl * volts * loadTime m t / 100
  let rest := if late then 0 else r - (if x.sound = 0 then 0 else r * x.sound / (x.active + x.sound))
  let m1 := modLine m overheadLine (fun l => { l with cycles := l.cycles + x.sound })
  if x.label % 4 = 1 ∧ (dt < 16 ∨ t.label = x.label) then
    modLine m1 (x.label / 4 % 64) (fun l => { l with energy := l.energy + rest, cycles := l.cycles + x.active, time := l.time + dt,
                                                     stale := l.stale || t.stale })
  else modLine m1 overheadLine (fun l => { l with time := l.time + dt, stale := l.stale || t.stale })

/-- Keep what the frame says of a cluster. -/
def keepTap (s : State) (m : Meter) (x : TapStep) : Meter :=
  let t := getTap m x.key
  let c := tget {} s.tapCount x.key
  setTap m x.key { t with charge := x.charge, cycles := c.cycles, sounding := c.sounding, label := x.label, onAcc := 0, onFrom := m.up }

/-- The HBM4 counter `k` of a frame (R448), key 65 × stack + PartID, or + 64 for no partition. -/
def takeHbm (s : State) (book : Bool) (m : Meter) (k : Nat) : Meter :=
  let n := tget 0 s.hbmMoved k
  let d := countStep 48 (tget 0 m.hbmBytes k) n
  let m1 := { m with hbmBytes := tset 0 m.hbmBytes k n }
  if book && decide (d ≠ 0) then { m1 with hbmRecent := m1.hbmRecent ++ [(m.up, k % 65, d)] } else m1

/-- What the meter makes of a good frame: the counts since the die's last frame are booked, unless nothing was counted from. The energy of a
gap above 100 ms stays in the overhead account, and its HBM4 bytes are no longer those of the latest millisecond (R449). The frame carries the
counter `turn` of each of the die's two controllers. -/
def bookFrame (s : State) (die turn : Nat) : Meter :=
  let m := s.meter
  let dt := m.up - tget 0 m.tapLast die
  let known := tget false m.tapSeen die
  let late := tapSilent m die
  let g := getGroup m die
  let steps := (List.range 16).map (fun i => tapStep s (16 * die + i))
  let sum := (steps.map (fun x => x.energy)).sum
  let m1 := if known then steps.foldl (bookCluster dt g.sample sum g.volts late) m else m
  let m2 := [65 * (2 * die) + turn, 65 * (2 * die + 1) + turn].foldl (takeHbm s (known && !late)) (steps.foldl (keepTap s) m1)
  let m3 := setGroup m2 die { getGroup m2 die with sample := 0 }
  sessionsStep m { m3 with tapLast := tset 0 m3.tapLast die m.up, tapSeen := tset false m3.tapSeen die true,
                           tapFault := m3.tapFault || late, tapFlag := m3.tapFlag || late }

/-- TAP_FRAME (R448, R449, R452, R453): the clusters have drawn `charge` and run `cycles` since the die's last frame, with `withdrawn` and
`inPlace` of cores withdrawn and tested in place by Sounding, and the die's controllers have moved `other` bytes by themselves, which the
counters add; the frame carries the counters, the labels and one HBM4 counter of each controller, which rotates. A frame that fails
its CRC is ignored, and its counts come with the next. -/
def execTapFrame (die : Nat) (crcOk : Bool) (charge cycles withdrawn inPlace other : List Nat) (s : State) : Out :=
  if !dieOk s die then .fault .absentUnit
  else
    let turn := tget 0 s.tapTurn die
    let s1 := countOther (countTaps { s with tapTurn := tset 0 s.tapTurn die ((turn + 1) % 65) } die charge cycles withdrawn inPlace) die other
    .next (if meterRuns s.meter && crcOk then { s1 with meter := bookFrame s1 die turn } else s1)

/-- TAP_GAP_TIMEOUT (R449): more than 100 ms without a good frame; the tap-fault flag is set, and the group energy of the
gap goes to the overhead account. The counts of the gap come with the next frame. -/
def execTapGapTimeout (die : Nat) (s : State) : Out :=
  if !dieOk s die then .fault .absentUnit
  else
    let m := s.meter
    if meterRuns m && decide (100000 < m.up - tget 0 m.tapLast die) then
      let m1 := setGroup m die { getGroup m die with sample := 0 }
      .next { s with meter := { m1 with tapFault := true, tapFlag := true } }
    else .next s

/-! ### Ballast (R450, R451) -/

/-- x times an element of GF(2)[x] mod x^15 + x^14 + 1. -/
def gfStep (a : Nat) : Nat := let b := 2 * a; if b < 32768 then b else (b - 32768) ^^^ 0x4001

/-- The product of two elements. -/
def gfMulB (a b : Nat) : Nat :=
  ((List.range 15).foldl (fun (r, x) i => (if b >>> i % 2 = 1 then r ^^^ x else r, gfStep x)) (0, a)).1

/-- x^2048. -/
def gfShift : Nat := iter (fun a => gfMulB a a) 11 2

/-- The sequence's value for cluster i: the sequence shifted by 2,048 × i chips. -/
def chipBit (lfsr i : Nat) : Nat := (iter (gfMulB gfShift) i lfsr) >>> 14 % 2

/-- The CRC-4 of a Ballast frame's low 20 bits, most significant first, from 0. -/
def crc4 (v : Nat) : Nat :=
  (List.range 20).foldl (fun c i =>
    let t := (c / 8) ^^^ (v >>> (19 - i) % 2)
    ((c * 2) % 16) ^^^ (if t % 2 = 1 then 3 else 0)) 0

/-- A Ballast frame. -/
def ballastFrame (lfsr chip : Nat) : Nat :=
  let v := ((List.range 16).map (fun i => chipBit lfsr i * 2 ^ i)).sum + (chip % 16) * 65536
  v + crc4 v * 2 ^ 20

/-- One cluster at a chip boundary: what the last frame asked takes effect, and the new frame's bit waits. -/
def chipStep (m : Meter) (k b : Nat) : Meter :=
  let t := getTap m k
  setTap m k { t with onAcc := loadTime m t, onFrom := m.up, ballast := t.next, next := decide (b = 1) }

/-- BALLAST_CHIP (R450): the frame goes to every die and its loads follow one chip later; a die in `damaged`, whose frame
fails its CRC, has all its loads disabled for that chip. -/
def execBallastChip (damaged : List Nat) (s : State) : Out :=
  let m := s.meter
  if meterRuns m then
    let f := ballastFrame m.lfsr m.chip
    let m1 := (List.range (dieCount s.product)).foldl (fun m d =>
      let m1 := (List.range 16).foldl (fun m i => chipStep m (16 * d + i) (if damaged.contains d then 0 else f >>> i % 2)) m
      { m1 with frames := tset 0 m1.frames d f }) m
    .next { s with meter := { m1 with chip := m1.chip + 1, lfsr := gfStep m1.lfsr } }
  else .next s

/-- One renewal: amplitude at the shunt over amplitude at the sensor (R451). -/
def renewGain (s : State) (m : Meter) (e : Nat × Option (Nat × Nat)) : Meter :=
  match cluOk s e.1, e.2 with
  | true, some (a, b) =>
    if b = 0 then m
    else setTap m e.1 { getTap m e.1 with gainNum := a, gainDen := b, ampl := a, renewed := m.up, stale := false }
  | _, _ => m

/-- BALLAST_CALIBRATION (R451): `gains` lists each cluster's Ballast amplitudes at the shunt and at the sensor, in units of
10 µA and of 0.01 sensor units; a cluster without them, whose correlation failed, keeps its gain. -/
def execBallastCalibration (gains : List (Nat × Option (Nat × Nat))) (s : State) : Out :=
  if meterRuns s.meter then .next { s with meter := gains.foldl (renewGain s) s.meter } else .next s

/-- CALIBRATION_STALE (R451): 2 s without a renewal. -/
def execCalibrationStale (cluster : Nat) (s : State) : Out :=
  if !cluOk s cluster then .fault .absentUnit
  else
    let m := s.meter
    let t := getTap m cluster
    if meterRuns m && decide (2000000 ≤ m.up - t.renewed) then
      let m1 := setTap m cluster { t with stale := true }
      let line := if t.label % 4 = 1 then t.label / 4 % 64 else overheadLine
      .next { s with meter := modLine { m1 with calFlag := true } line (fun l => { l with stale := true }) }
    else .next s

/-! ### Commits, resets and configuration -/

/-- The accumulators are written to MRAM (R467). -/
def commit (m : Meter) : Meter :=
  { m with mramLines := m.lines, mramGroups := m.groups, mramTotal := m.total, mramTime := m.time, committed := m.up }

/-- METER_COMMIT: every 1 ms. -/
def execMeterCommit (s : State) : Out :=
  if meterRuns s.meter then .next { s with meter := commit s.meter } else .next s

/-- METER_VDD_LOW (R467): the accumulators are committed, and the meter stops. -/
def execMeterVddLow (s : State) : Out :=
  if s.meter.powered then
    let m := if s.meter.measuring then commit s.meter else s.meter
    .next { s with meter := { m with powered := false, measuring := false, selfOk := false, clkFault := false } }
  else .next s

/-- Close the record in hand with the shortened flag, at `endT`. -/
def closeShort (s : State) (endT : Nat) : State :=
  if s.meter.opened then closeRecord { s with meter := { s.meter with shortened := true } } endT else s

/-- Volatile state as a meter boot leaves it, with the record that measuring opens, which carries the gap flag. -/
def meterBoot (m : Meter) (seen : Bool) : Meter :=
  let m1 := { m with powered := true, measuring := true, clkFault := false, tapFault := false, hbmRecent := [], committed := m.up,
                     tapLast := [], tapSeen := if seen then (List.range 4).foldl (fun t d => tset false t d true) [] else [],
                     groups := mapGroups (fun g => { g with sample := 0 }) m.groups }
  openRecord { m1 with tapLast := (List.range 4).foldl (fun t d => tset 0 t d m.up) [] } m.time true

/-- METER_POWER_ON (R440, R464, R467): the meter boots with the accumulators last committed, and the record that the loss
cut short closes with the shortened flag at the time of that commit; the counts of the taps restart (R448). How far meter time
has gone meanwhile is a free value. When the digest of the firmware or of the calibration constants fails, the seal of an
M variant breaks with cause 2, and the meter measures no further. -/
def execMeterPowerOn (fwOk calOk : Bool) (s : State) : Out :=
  if s.meter.powered then .next s
  else
    let gone := Config.freeValue s.freeSeq 0
    let m := s.meter
    let s0 := useFree { s with meter := { m with lines := m.mramLines, groups := m.mramGroups, total := m.mramTotal,
                                                 time := m.mramTime, powered := true, measuring := false } }
    let s1 := closeShort s0 m.mramTime
    let m2 := { s1.meter with time := m.mramTime + gone, up := 0, taps := [], hbmBytes := [], chip := 0, lfsr := 1, selfOk := fwOk && calOk,
                               fwBad := !fwOk, calBad := !calOk, fwid := sha3 (Config.meterRom ++ m.fwArea) }
    let s2 := { s1 with tapCount := [], hbmMoved := [], meter := m2 }
    if fwOk && calOk then .next { s2 with meter := meterBoot s2.meter true }
    else .next (breakSeal s2 2)

/-- A meter reset without a power loss (R440): commit, close the record with the shortened flag, boot. -/
def meterRestart (s : State) : State :=
  let s1 := closeShort { s with meter := commit s.meter } s.meter.time
  { s1 with meter := meterBoot s1.meter false }

/-- The reset of a meter that does not measure (R440): its boot checks itself again and fails as before, unless FW_COMMIT has replaced the
firmware that failed. -/
def meterRetry (s : State) : State :=
  let m := s.meter
  if m.fwBad || m.calBad then { s with meter := { m with selfOk := false, clkFault := false, tapFault := false } }
  else { s with meter := meterBoot { m with selfOk := true } false }

/-- A meter reset without a power loss. -/
def resetMeter (s : State) : State := if s.meter.measuring then meterRestart s else meterRetry s

/-- METER_WATCHDOG_EXPIRY. -/
def execMeterWatchdogExpiry (s : State) : Out := .next (if s.meter.powered then resetMeter s else s)

/-- METER_CLK_FAULT (R447): the internal oscillator takes over, and the flag is set. -/
def execMeterClkFault (s : State) : Out :=
  if s.meter.powered then .next { s with meter := { s.meter with clkFault := true } } else .next s

/-- The board port writes: only while MTR_CFG_N is low, and none when the audit trail is full (R462, R466). -/
def boardWrites (m : Meter) : Bool := m.powered && !m.cfgN && !auditFull m

/-- MTR_CFG_WRITE (R455, R466): interval_s from 1 to 3,600 takes effect at the next boundary; 0 changes nothing and more is
refused. -/
def execMtrCfgWrite (value : W64) (s : State) : Out :=
  let n := fld value 11 0
  let m := s.meter
  let old := m.nextInterval.getD m.interval
  if boardWrites m && decide (1 ≤ n ∧ n ≤ 3600 ∧ n ≠ old) then
    let m1 := addAudit m 0x0001 old n
    .next { s with meter := { m1 with nextInterval := some n, changed := true } }
  else .next s

/-- MTR_TIME_WRITE (R455): the open record closes at the old time and a new one opens at the new time. -/
def execMtrTimeWrite (value : W64) (s : State) : Out :=
  let m := s.meter
  if boardWrites m then
    let m1 := addAudit m 0x0002 m.time value.toNat
    let open_ := m1.opened && m1.measuring
    let s1 := { s with meter := { m1 with changed := true } }
    let s2 := if open_ then closeRecord s1 m.time else s1
    let m2 := { s2.meter with time := value.toNat }
    .next { s2 with meter := if open_ then openRecord m2 value.toNat false else m2 }
  else .next s

/-- METER_RESET (R440, R461): the reset field of MTR_CTL. -/
def execMeterReset (s : State) : Out :=
  let m := s.meter
  if boardWrites m then
    let s1 := { s with meter := addAudit m 0x0003 0 0 }
    .next (resetMeter s1)
  else .next s

/-- FW_COMMIT (R464, R466): an image that verifies replaces the firmware, which is audited; on an M variant the seal breaks
with cause 1. -/
def execFwCommit (s : State) : Out :=
  let m := s.meter
  let img := readBytes m.fwWin 0 0x80000
  if boardWrites m && Config.meterImageOk img then
    let new := sha3 (Config.meterRom ++ img)
    let m1 := addAudit m 0x0004 (leNat ((digestBytes m.fwid).take 8)) (leNat ((digestBytes new).take 8))
    .next (breakSeal { s with meter := { m1 with fwid := new, fwArea := img, fwBad := false } } 1)
  else .next s

/-- METER_TEST_ACCESS_OPEN (R464): the seal of an M variant breaks with cause 3. -/
def execMeterTestAccessOpen (s : State) : Out := .next (breakSeal s 3)

/-- MTR_STATUS (R466). -/
def mtrStatus (s : State) : W64 :=
  let m := s.meter
  BitVec.ofNat 64 (sealState s + orBit m.selfOk 2 + orBit m.clkFault 3 + orBit m.tapFault 4 +
    orBit (m.taps.any (fun e => e.2.stale)) 5 + orBit (auditFull m) 6 +
    ((List.range 8).map (fun g => orBit (getGroup m g).sense (8 + g))).sum)

end Sys2Proof.Machine
end

