-- ==== Sys2Proof/Machine/Ether.lean ====
section
/-! DEFINITION. The Ethernet ports (R360 to R369): acceptance of frames, MACsec on receipt, the answers of the port itself,
the neighbour table, flow control, PTP. The model keeps what an answer says and not the standards' framing of it: the first
byte of what `netOut` holds is a kind of the model's own (1 ARP reply, 2 neighbour advertisement, 3 echo reply, 4 CM5
response, 5 connection reply). -/

namespace Sys2Proof.Machine

/-- Logical ports that a mode creates (R360). -/
def lportsOf (mode : Nat) : Nat := if mode = 0 then 1 else if mode = 1 then 2 else 4

/-- Rate of a logical port in Gbit/s. -/
def lportRate (s : State) (l : Nat) : Nat := 800 / lportsOf (tget 0 s.portMode (l / 4))

/-- A logical port that the modes in force create. -/
def lportExists (s : State) (l : Nat) : Bool := decide (l < 8 ∧ l % 4 < lportsOf (tget 0 s.portMode (l / 4)))

/-! ### Transmission (R365 to R367) -/

/-- The port sends a frame of its own for entry `k`, or holds it. -/
def portSend (s : State) (l k cls : Nat) (b : List Byte) : State :=
  match getEntry s l k with
  | none => s
  | some e =>
    if blocked e || classPaused s l e cls then modLport s l (fun p => { p with waitTx := p.waitTx ++ [(cls, k, b)] })
    else burnPn { s with netOut := s.netOut ++ [(l, frameTag e cls, b)] } l k 1

/-- The port's own frames of a class that waited leave where nothing holds them any longer. -/
def releaseFrames (s : State) (l cls : Nat) : State :=
  ((getLport s l).waitTx.filter (fun x => x.1 == cls)).foldl (fun s x => portSend s l x.2.1 x.1 x.2.2)
    (modLport s l (fun p => { p with waitTx := p.waitTx.filter (fun x => x.1 != cls) }))

/-- The oldest of what a pair holds back leaves, where nothing holds it any longer. -/
def releaseOne (s : State) (q : Nat) : State :=
  match getQp s q with
  | none => s
  | some v =>
    match v.txq with
    | [] => s
    | t :: r => if pairHeld s v then s else emit (setQp s q (some { v with txq := r })) q t

/-- The queue pairs of a class at a logical port that hold something back. -/
def pairsWaiting (s : State) (l cls : Nat) : List Nat := qpsWhere s (fun v => v.lport == l && pairClass v == cls && v.txq != [])

/-- Longest of what the pairs hold back. -/
def longestHeld (s : State) (l : List Nat) : Nat := l.foldl (fun n q => max n (match getQp s q with | none => 0 | some v => v.txq.length)) 0

/-- The pairs of a class in turn, one message each, round-robin (R365; from the lowest number, DESIGN CHOICE, log entry 87). -/
def releasePairs (s : State) (l cls : Nat) : State :=
  let w := pairsWaiting s l cls
  (List.range (longestHeld s w)).foldl (fun s _ => w.foldl releaseOne s) s

/-- What waited leaves: the control class first, then the data class, then the lossy ones (R365). -/
def releaseTx (s : State) (l : Nat) : State :=
  releaseFrames (releasePairs (releaseFrames (releasePairs (releaseFrames s l 1) l 1) l 0) l 0) l 2

/-- Something waits at a logical port. -/
def txWaits (s : State) (l : Nat) : Bool := (getLport s l).waitTx != [] || s.qps.any (fun e => match e.2 with | none => false | some v => v.lport == l && v.txq != [])

/-! ### Receive buffers (R366) -/

/-- Octets of a logical port's share of the 4 MiB for each of its three classes (DESIGN CHOICE, log entry 88). -/
def rxSize (s : State) (l : Nat) : Nat := 4194304 / lportsOf (tget 0 s.portMode (l / 4)) / 3

/-- Headroom of a lossless class: what 100 m of cable hold in both directions, 1 µs at the port's rate, and a frame each way. -/
def rxHeadroom (s : State) (l : Nat) : Nat := lportRate s l * 125 + 2 * 4352

/-- Octets of a class's buffer at which an XOFF leaves. -/
def rxFull (s : State) (l : Nat) : Nat := rxSize s l - rxHeadroom s l

/-- The class of an arriving frame: its PCP, 0 where it has no tag, is the entry's data or control priority, or lossy. -/
def frameClass (e : AddrEntry) (f : Frame) : Nat :=
  let p := match f.vlans with | v :: _ => v / 8192 % 8 | [] => 0
  if p = e.pd then 0 else if p = e.pc then 1 else 2

/-- A lossy frame finds no buffer. -/
def rxNone (s : State) (e : AddrEntry) (f : Frame) : Bool :=
  decide (frameClass e f = 2 ∧ tget 0 (getLport s f.lport).rx 2 + f.octets > rxSize s f.lport)

/-- The port sends a PFC frame of its own, untagged: 6, the priority, and the pause in quanta. -/
def sendPfc (s : State) (l prio quanta : Nat) : State := { s with netOut := s.netOut ++ [(l, none, [6] ++ beBytes 1 prio ++ beBytes 2 quanta)] }

/-- An accepted frame enters its class's buffer; one that fills it, headroom apart, sends an XOFF. -/
def rxTake (s : State) (e : AddrEntry) (f : Frame) : State :=
  let c := frameClass e f
  let n := tget 0 (getLport s f.lport).rx c + f.octets
  let s1 := modLport s f.lport (fun p => { p with rx := tset 0 p.rx c n })
  if c ≠ 2 ∧ n ≥ rxFull s f.lport ∧ (getLport s f.lport).xoff.contains c = false then
    sendPfc (modLport s1 f.lport (fun p => { p with xoff := p.xoff ++ [c] })) f.lport (classPrio e c) 0xFFFF
  else s1

/-- Octets that a logical port's buffers give up in a fabric cycle: the line rate. -/
def rxPace (s : State) (l : Nat) : Nat := lportRate s l * 5 / 72

/-- The lossless priorities that every entry of a logical port uses (R365). -/
def portPrio (s : State) (l cls : Nat) : Nat :=
  ((getLport s l).entries.findSome? (fun x => x.2.map (fun e => classPrio e cls))).getD 0

/-- A fabric cycle of a logical port's buffers: control, then data, then lossy frames leave; a class that has fallen to half sends its XON. -/
def rxDrain (s : State) (l : Nat) : State :=
  if (getLport s l).rx = [] then s
  else
    let go (a : Tbl Nat × Nat) (c : Nat) : Tbl Nat × Nat :=
      let n := tget 0 a.1 c
      (tset 0 a.1 c (n - a.2), a.2 - min n a.2)
    let rx := ([1, 0, 2].foldl go ((getLport s l).rx, rxPace s l)).1
    let on := (getLport s l).xoff.filter (fun c => decide (2 * tget 0 rx c ≤ rxFull s l))
    on.foldl (fun s c => sendPfc s l (portPrio s l c) 0) (modLport s l (fun p => { p with rx := rx, xoff := p.xoff.filter (fun c => !on.contains c) }))

/-! ### Acceptance (R361, R363, R367) -/

def vlanOk (e : AddrEntry) (f : Frame) : Bool :=
  match f.vlans with
  | [] => e.vlan == 0
  | [v] => e.vlan != 0 && v % 4096 == e.vlan
  | _ => false

def multicast (mac : Nat) : Bool := (mac / 2 ^ 40) % 2 == 1

/-- MACsec on receipt: `none` when the frame fails; the entry with its receive packet number otherwise. -/
def macsecIn (e : AddrEntry) (f : Frame) : Option AddrEntry :=
  match f.sectag with
  | none => if e.sas = [] then some e else none
  | some (sci, an, pn) =>
    let hit (a : Sa) : Bool := !a.tx && a.active && a.sci == sci && a.an == an
    match e.sas.find? hit with
    | none => none
    | some a =>
      if f.icvOk && decide (a.pn ≤ pn + a.window) then
        some { e with sas := e.sas.map (fun x => if hit x then { x with pn := max x.pn (pn + 1) } else x) }
      else none

/-- A frame at a logical port: the counts, and the entry that it reaches. `pick` chooses the entries for which a broadcast or
multicast frame of a kind that the port answers is meant. -/
def acceptFrame (s : State) (f : Frame) (pick : Nat → AddrEntry → Bool) : State × Option (Nat × AddrEntry) :=
  let l := f.lport
  let p := getLport s l
  let drop (g : LPort → LPort) : State × Option (Nat × AddrEntry) := (modLport s l g, none)
  if !p.up then (s, none)
  else if f.octets > 4352 then drop (fun p => { p with tooLong := p.tooLong + 1 })
  else if !f.fcsOk then drop (fun p => { p with badFcs := p.badFcs + 1 })
  else if f.fragment || (f.v6 && f.extHdr && !f.mld) then drop (fun p => { p with fragments := p.fragments + 1 })
  else
    let hit (e : Nat × Option AddrEntry) : Bool := match e.2 with
      | none => false
      | some a => vlanOk a f && (if multicast f.dmac then pick e.1 a else a.mac == f.dmac)
    match p.entries.find? hit with
    | some (k, some e) =>
      match macsecIn e f with
      | none =>
        if f.sectag.isNone then drop (fun p => { p with unprotected := p.unprotected + 1 })
        else drop (fun p => { p with unmatched := p.unmatched + 1 })
      | some e1 =>
        if rxNone s e f then drop (fun p => { p with rxDrops := p.rxDrops + 1 })
        else (rxTake (setEntry s l k (some e1)) e f, some (k, e1))
    | _ => drop (fun p => { p with unmatched := p.unmatched + 1 })

/-- The meaning of a frame that names a logical port of the device. -/
def onFrame (f : Frame) (g : Unit → State) : Out := if f.lport < 8 then .next (g ()) else .fault .absentUnit

/-! ### The port's own answers and the neighbour table (R364) -/

/-- MAC addresses of the groups that a port joins: broadcast, the solicited-node group of an IPv6 address, PTP over each version of IP. -/
def broadcastMac : Nat := 0xFFFFFFFFFFFF
def solicitedMac (ip : Nat) : Nat := 0x3333FF000000 + ip % 2 ^ 24
def ptpMac (v6 : Bool) : Nat := if v6 then 0x333300000181 else 0x01005E000181

/-- Key of an address in the neighbour table: each of the two ports keeps its own. -/
def neighKey (l ip : Nat) : Nat := (l / 4) * 2 ^ 128 + ip

/-- Entries of a port's neighbour table. -/
def neighOf (s : State) (l : Nat) : Nat := (s.neigh.filter (fun e => e.1 / 2 ^ 128 == l / 4)).length

/-- ARP_REQUEST: answered for an IPv4 address of an entry. -/
def execArpRequest (f : Frame) (target : Nat) (s : State) : Out :=
  onFrame f (fun _ =>
    let (s1, r) := acceptFrame s f (fun _ e => f.dmac == broadcastMac && e.ip4 == target && e.flags.testBit 1)
    match r with
    | some (k, e) =>
      if e.flags.testBit 1 && e.ip4 == target then
        portSend s1 f.lport k 2 ([1] ++ beBytes 6 f.smac ++ beBytes 6 e.mac ++ beBytes 4 target ++ beBytes 4 f.srcIp)
      else s1
    | none => s1)

/-- NEIGHBOUR_SOLICITATION: answered for an IPv6 address of an entry. -/
def execNeighbourSolicitation (f : Frame) (target : Nat) (s : State) : Out :=
  onFrame f (fun _ =>
    let (s1, r) := acceptFrame s f (fun _ e => f.dmac == solicitedMac e.ip6 && e.ip6 == target && e.flags.testBit 2)
    match r with
    | some (k, e) =>
      if e.flags.testBit 2 && e.ip6 == target then
        portSend s1 f.lport k 2 ([2] ++ beBytes 6 f.smac ++ beBytes 6 e.mac ++ beBytes 16 target ++ beBytes 16 f.srcIp)
      else s1
    | none => s1)

/-- The address of an entry in the frame's version of IP. -/
def entryIp (e : AddrEntry) (v6 : Bool) : Option Nat :=
  if v6 then (if e.flags.testBit 2 then some e.ip6 else none) else if e.flags.testBit 1 then some e.ip4 else none

/-- ICMP_ECHO_REQUEST. -/
def execIcmpEchoRequest (f : Frame) (data : List Byte) (s : State) : Out :=
  onFrame f (fun _ =>
    let (s1, r) := acceptFrame s f (fun _ _ => false)
    match r with
    | some (k, e) =>
      if entryIp e f.v6 = some f.dstIp then
        portSend s1 f.lport k 2 ([3] ++ beBytes 6 f.smac ++ beBytes 6 e.mac ++ beBytes 16 f.dstIp ++ beBytes 16 f.srcIp ++ data)
      else s1
    | none => s1)

/-- ARP_OR_NEIGHBOUR_REPLY: fills or refreshes the table of 1,024 entries. -/
def execArpOrNeighbourReply (f : Frame) (ip mac : Nat) (s : State) : Out :=
  onFrame f (fun _ =>
    let (s1, r) := acceptFrame s f (fun _ _ => false)
    match r with
    | some _ =>
      if (tget none s1.neigh (neighKey f.lport ip)).isSome || decide (neighOf s1 f.lport < 1024) then
        { s1 with neigh := tset none s1.neigh (neighKey f.lport ip) (some (mac, s1.fab)) }
      else s1
    | none => s1)

/-- NEIGHBOUR_ENTRY_AGEING: 300 s without a refresh. The entry is named by its key: 2^128 and the address for an entry of port 1. -/
def execNeighbourEntryAgeing (ip : Nat) (s : State) : Out :=
  match tget none s.neigh ip with
  | some (_, t) => .next (if s.fab ≥ t + usCycles 300000000 then { s with neigh := tset none s.neigh ip none } else s)
  | none => .next s

/-! ### Flow control (R366) -/

/-- Fabric cycles of a pause of `q` quanta of 512 bit times. -/
def quantaCycles (s : State) (l q : Nat) : Nat := q * 9216 / (10 * lportRate s l)

/-- One priority of a PFC frame. -/
def pfcOne (s : State) (l prio q : Nat) : State :=
  if q = 0 then
    modLport s l (fun p => { p with paused := tset 0 p.paused prio 0, pauseEnd := tset 0 p.pauseEnd prio 0,
                                    pauseSeen := tset 0 p.pauseSeen prio 0 })
  else
    let start := if pausedAt s l prio then tget 0 (getLport s l).paused prio else s.fab + 1
    modLport s l (fun p => { p with paused := tset 0 p.paused prio start, pauseEnd := tset 0 p.pauseEnd prio (s.fab + quantaCycles s l q) })

/-- PFC_FRAME: bit n of `enable` gives priority n its quanta; none resumes it. -/
def execPfcFrame (lport enable : Nat) (quanta : List Nat) (s : State) : Out :=
  onUnit (decide (lport < 8))
    (if (getLport s lport).up then
      let s1 := (List.range 8).foldl (fun s n => if enable.testBit n then pfcOne s lport n (quanta.getD n 0 % 65536) else s) s
      releaseTx s1 lport
    else s)

/-- The lossless priorities of a logical port (R365). -/
def lossless (s : State) (l prio : Nat) : Bool :=
  (getLport s l).entries.any (fun e => match e.2 with | none => false | some a => a.pd == prio || a.pc == prio)

/-- PFC_PAUSE_HELD: a lossless priority paused for 100 ms without interruption: an event, and a count. -/
def execPfcPauseHeld (lport prio : Nat) (s : State) : Out :=
  onUnit (decide (lport < 8 ∧ prio < 8))
    (let p := getLport s lport
     let start := tget 0 p.paused prio
     if pausedAt s lport prio && lossless s lport prio && decide (s.fab + 1 ≥ start + usCycles 100000 ∧ tget 0 p.pauseSeen prio ≠ start) then
       devFault (setLport s lport { p with pauseSeen := tset 0 p.pauseSeen prio start, pauseEvents := p.pauseEvents + 1 })
         5 0 (lport + 256 * prio) []
     else s)

/-- ETHERNET_LINK_CHANGE. -/
def execEthernetLinkChange (lport : Nat) (up : Bool) (s : State) : Out :=
  onUnit (decide (lport < 8)) (if lportExists s lport && s.boot != .scrap then modLport s lport (fun p => { p with up := up }) else s)

/-! ### PTP (R368, R369) -/

/-- The frame belongs to the PTP instance: its port and its version of IP. -/
def ptpHere (s : State) (f : Frame) (k : Nat) : Bool :=
  match s.ptpPort with
  | none => false
  | some (l, v) => l == f.lport && k == 0 && f.v6 == (v == 2)

/-- The timestamp of an event message: what the port has read, where that is device time to within 8 ns (R368), else device time. -/
def stampOf (s : State) (ingress : Nat) : Nat := if ingress ≤ devNs s + 8 ∧ devNs s ≤ ingress + 8 then ingress else devNs s

/-- PTP_EVENT_MESSAGE: timestamped when it reaches an entry; the instance keeps the ingress time of a Sync. -/
def execPtpEventMessage (f : Frame) (seqId ingress : Nat) (s : State) : Out :=
  onFrame f (fun _ =>
    let (s1, r) := acceptFrame s f (fun k _ => k == 0 && f.dmac == ptpMac f.v6)
    match r with
    | none => s1
    | some (k, _) =>
      let t := stampOf s1 ingress
      let s2 := { s1 with stamps := s1.stamps ++ [(seqId, t)] }
      if ptpHere s2 f k then { s2 with ptpSync := some (seqId, t), ptpHeard := s2.fab, ptpFree := false } else s2)

/-- Device time moves, and with it perhaps the whole millisecond (R435). -/
def setTimeBase (s : State) (t : Int) : State := passMs s { s with timeBase := t }

/-- The path delay that the instance takes: as measured, and before any measurement a free value. -/
def pathDelay (s : State) : Int := s.ptpDelay.getD (Config.freeValue s.freeSeq 0 : Nat)

/-- Device time is steered so that the ingress time reads as the master's timestamp and the path delay. -/
def steerTime (s : State) (ingress timestamp : Nat) : State :=
  useFree (setTimeBase s (s.timeBase + timestamp + pathDelay s - ingress))

/-- The instance measures the path: its Delay_Req, of kind 7 in `netOut`, leaves, and the port stamps its egress (R368). One that the port
cannot send at once is not sent. -/
def delayReq (s : State) (l seqId : Nat) (d : Int) : State :=
  match getEntry s l 0 with
  | none => s
  | some e =>
    if blocked e then s
    else { portSend s l 0 2 ([7] ++ beBytes 2 seqId) with stamps := s.stamps ++ [(seqId, devNs s)], ptpReq := some (seqId, devNs s, d) }

/-- A Delay_Resp: the mean path delay of the two directions. -/
def delayResp (s : State) (seqId timestamp : Nat) : State :=
  match s.ptpReq with
  | some (q, egress, d) => if q = seqId then { s with ptpReq := none, ptpDelay := some ((d + timestamp - egress) / 2) } else s
  | none => s

/-- PTP_GENERAL_MESSAGE: 0 Announce, 1 Follow_Up, 2 Delay_Resp, which keep the master heard; a Follow_Up supplies the timestamp of its Sync.
Any other kind has no effect (DESIGN CHOICE, log entry 89). -/
def execPtpGeneralMessage (f : Frame) (kind seqId timestamp : Nat) (s : State) : Out :=
  onFrame f (fun _ =>
    let (s1, r) := acceptFrame s f (fun k _ => k == 0 && f.dmac == ptpMac f.v6)
    match r with
    | none => s1
    | some (k, _) =>
      if ptpHere s1 f k && decide (kind < 3) then
        let s2 := { s1 with ptpHeard := s1.fab, ptpFree := false }
        if kind = 2 then delayResp s2 seqId timestamp
        else
          match s2.ptpSync with
          | some (q, ingress) =>
            if kind = 1 ∧ q = seqId then delayReq (steerTime { s2 with ptpSync := none } ingress timestamp) f.lport seqId (pathDelay s2) else s2
          | none => s2
      else s1)

/-- PTP_MASTER_TIMEOUT: no master for 10 s; device time runs free. -/
def execPtpMasterTimeout (s : State) : Out :=
  if s.ptpPort.isSome && decide (s.fab ≥ s.ptpHeard + usCycles 10000000) then .next { s with ptpFree := true, ptpSync := none }
  else .next s

end Sys2Proof.Machine
end

