-- ==== Sys2Proof/Machine/Roce.lean ====
section
/-! DEFINITION. RoCEv2 (R370 to R374): packets in order, regions, receive buffers, immediate data, acknowledgements owed, the
error state, congestion. A row carries a whole message, which takes the packet sequence numbers of its packets. -/

namespace Sys2Proof.Machine

/-! ### Answers: codes of `Qp.acks` -/

def ackOk : Nat := 0
def ackRnr : Nat := 1
def ackAccess : Nat := 2
def ackInvalid : Nat := 3
def ackSequence : Nat := 4

/-- The answer to a message of `n` packets (R371, R372): an acknowledgement moves the expected number on; a NAK of access or
of the request puts the pair in the error state. -/
def answer (s : State) (q psn n code : Nat) : State :=
  match getQp s q with
  | none => s
  | some v =>
    let s1 := transmitOn (setQp s q (some (if code = ackOk then { v with ePsn := (v.ePsn + n) % 2 ^ 24 } else v))) q (.answer psn code)
    if code = ackAccess ∨ code = ackInvalid then qpError s1 q else s1

/-- One CNP per pair and 50 µs for packets marked CE (R374). -/
def congested (s : State) (q : Nat) (ce : Bool) : State :=
  match getQp s q with
  | some v =>
    if ce && ((v.cnps == 0 && !v.txq.contains .cnp) || decide (s.fab ≥ v.cnpSent + usCycles 50)) then
      transmitOn (setQp s q (some { v with cnpSent := s.fab })) q .cnp
    else s
  | none => s

/-- How an arriving request stands: 0 lost or not for a pair here, 1 in order, 2 repeated, 3 out of order. -/
def order (v : Qp) (psn : Nat) : Nat :=
  if psn % 2 ^ 24 = v.ePsn then 1 else if (v.ePsn + 2 ^ 24 - psn % 2 ^ 24) % 2 ^ 24 < 2 ^ 23 then 2 else 3

/-- A stop of the partition is under way: requests on its data pairs are answered RNR NAK (R373). -/
def stoppingNow (s : State) (v : Qp) : Bool := match getPart s v.owner with | none => false | some pt => !v.mbx && pt.stopping

/-- An arriving request packet at its pair: `act` gives the state after it and the answer, when the pair takes it in order;
a repeated one is acknowledged again without effect (`again` for a read). -/
def atQp (p : Packet) (n : Nat) (s : State) (act : State → Qp → State × Nat) (again : State → Qp → State) : Out :=
  onFrame p.frame (fun _ =>
    let (s1, r) := acceptFrame s p.frame (fun _ _ => false)
    match r, getQp s1 p.qpn with
    | some (k, _), some v =>
      if v.error ∨ v.lport ≠ p.frame.lport ∨ entryOf v.owner ≠ k then s1
      else
        let s2 := congested s1 p.qpn p.ce
        match order v p.psn with
        | 1 =>
          if stoppingNow s2 v then answer s2 p.qpn p.psn n ackRnr
          else
            let (s3, code) := act s2 ((getQp s2 p.qpn).getD v)
            answer s3 p.qpn p.psn n code
        | 2 => answer (again s2 v) p.qpn p.psn 0 ackOk
        | _ => answer s2 p.qpn p.psn 0 ackSequence
    | _, _ => s1)

/-- Packets of a message on its pair. -/
def packetsAt (s : State) (q len : Nat) : Nat := match getQp s q with | none => 1 | some v => packetsOf v.mtu len

/-! ### Receive buffers (R372, R417) -/

/-- Place a SEND into the oldest buffer and raise its counter. -/
def placeSend (s : State) (q : Nat) (v : Qp) (data : List Byte) : State × Nat :=
  match v.recvs, getPart s v.owner with
  | (addr, len, core, sync, add) :: rest, some pt =>
    let s1 := setQp s q (some { v with recvs := rest, msgNo := v.msgNo + 1 })
    let l := data.take (len - 16)
    match putMem s1 v.owner pt.die (addr + 16) l with
    | (s2, some _) => (s2, ackAccess)
    | (s2, none) =>
      match putMem s2 v.owner pt.die addr (leBytes 4 data.length ++ zeros 4 ++ leBytes 8 v.msgNo) with
      | (s3, some _) => (s3, ackAccess)
      | (s3, none) =>
        if add = 0 ∨ core ≥ coresOf pt then (s3, ackOk) else (unitRaise s3 50 (logAt pt core) q 1 sync add, ackOk)
  | _, _ => (s, ackRnr)

/-- A SEND on a mailbox pair takes one of the 64 buffers, which Ouvos, while it runs, empties at once; none free gives RNR NAK (R380). -/
def mailboxSend (s : State) (q : Nat) (v : Qp) : State × Nat :=
  if v.filled ≥ 64 then (s, ackRnr)
  else if s.ouvosUp then (s, ackOk)
  else (setQp s q (some { v with filled := v.filled + 1 }), ackOk)

/-- ROCE_SEND (R372, R380, R417). Requests on a mailbox pair arrive by the rows of their commands. -/
def execRoceSend (p : Packet) (data : List Byte) (s : State) : Out :=
  atQp p (packetsAt s p.qpn data.length) s
    (fun s v => if v.mbx then mailboxSend s p.qpn v else placeSend s p.qpn v data) (fun s _ => s)

/-! ### Regions (R371, R274) -/

def getRegion (s : State) (k : Nat) : Option Region := tget none s.regions k

/-- The region that an rkey names for a pair's owner, when the range lies in it and the access is granted. -/
def regionFor (s : State) (owner rkey addr len bit_ : Nat) : Option Region :=
  match getRegion s rkey with
  | none => none
  | some r => if r.owner = owner ∧ r.addr ≤ addr ∧ addr + len ≤ r.addr + r.len ∧ r.access.testBit bit_ then some r else none

/-- Write an incoming message to its region: nothing is written when any byte fails. -/
def writeRegion (s : State) (owner rkey addr : Nat) (data : List Byte) : State × Nat :=
  if data = [] then (s, ackOk)
  else
    match regionFor s owner rkey addr data.length 1, getPart s owner with
    | some r, some pt =>
      if r.access.testBit 2 then (s, ackAccess)
      else
        match putMem s owner pt.die addr data with
        | (s1, none) => (s1, ackOk)
        | (s1, some _) => (s1, ackAccess)
    | _, _ => (s, ackAccess)

/-- RDMA_WRITE (R371). -/
def execRdmaWrite (p : Packet) (rkey addr : Nat) (data : List Byte) (s : State) : Out :=
  atQp p (packetsAt s p.qpn data.length) s (fun s v => writeRegion s v.owner rkey addr data) (fun s _ => s)

/-- The accumulating region that an rkey names, of the pair's owner (R371). -/
def accRegion (s : State) (owner rkey : Nat) : Option Region :=
  match getRegion s rkey with
  | none => none
  | some r => if r.access.testBit 2 ∧ r.owner = owner then some r else none

/-- RDMA_WRITE_WITH_IMMEDIATE (R274): a device total into an accumulating region; elsewhere a write of its bytes. -/
def execRdmaWriteWithImmediate (p : Packet) (rkey addr : Nat) (imm : W32) (data : List Byte) (s : State) : Out :=
  atQp p (packetsAt s p.qpn data.length) s
    (fun s v =>
      match accRegion s v.owner rkey with
      | none => writeRegion s v.owner rkey addr data
      | some r =>
        if data.length ≠ 4096 ∨ addr % 4096 ≠ 0 ∨ addr < r.addr ∨ addr + 4096 > r.addr + r.len then (s, ackAccess)
        else
          let (s1, ok) := peerArrival s r.owner addr imm data
          (s1, if ok then ackOk else ackRnr))
    (fun s _ => s)

/-- Responses that a pair holds back: the READs in flight as a responder, at most 16 (R370). -/
def repliesHeld (s : State) (q : Nat) : Nat :=
  match getQp s q with
  | none => 0
  | some v => (v.txq.filter (fun t => match t with | .reply _ => true | _ => false)).length

/-- The bytes that a read returns are kept as sent; a seventeenth READ in flight is an invalid request (R370). -/
def readRegion (s : State) (q : Nat) (owner rkey addr len : Nat) : State × Nat :=
  let give (s : State) (l : List Byte) : State :=
    transmitOn s q (.reply l)
  if repliesHeld s q ≥ 16 then (s, ackInvalid)
  else if len = 0 then (give s [], ackOk)
  else
    match regionFor s owner rkey addr len 0, getPart s owner with
    | some r, some pt =>
      if r.access.testBit 2 then (s, ackAccess)
      else
        match getMem s owner pt.die addr len with
        | (s1, l, none) => (give s1 l, ackOk)
        | (s1, _, some _) => (s1, ackAccess)
    | _, _ => (s, ackAccess)

/-- RDMA_READ (R371): a repeated request is answered again. -/
def execRdmaRead (p : Packet) (rkey addr len : Nat) (s : State) : Out :=
  atQp p (packetsAt s p.qpn len) s (fun s v => readRegion s p.qpn v.owner rkey addr len)
    (fun s v => (readRegion s p.qpn v.owner rkey addr len).1)

/-- DIGEST_LIST (R275, R276): a peer's list on a pair of the peer table. -/
def execDigestList (p : Packet) (data : List Byte) (s : State) : Out :=
  atQp p (packetsAt s p.qpn data.length) s
    (fun s v =>
      let part := (getBucket s (numAt data 0 2 % 1024)).part
      (if v.owner = part then listArrival s part data else s, ackOk))
    (fun s _ => s)

/-! ### Congestion (R374) -/

/-- The pair's port is up. -/
def pairUp (s : State) (v : Qp) : Bool := (getLport s v.lport).up && !v.error

/-- CNP: the rate falls to 7/8, at least 1/256 of the line rate, and the 55 µs begin anew. -/
def execCnp (qpn : Nat) (s : State) : Out :=
  .next (modQp s qpn (fun v => if pairUp s v then { v with rate := max (v.rate * 7 / 8) 256, quiet := 0, quietFrom := s.fab } else v))

/-- CNP_RATE_TIMER, at 55 µs without a CNP: five halvings of the distance to the line rate, then steps of 1/64. -/
def execCnpRateTimer (qpn : Nat) (s : State) : Out :=
  .next (modQp s qpn (fun v =>
    let q := v.quiet + 1
    if s.fab < v.quietFrom + usCycles 55 then v
    else { v with quiet := q, quietFrom := s.fab, rate := if q ≤ 5 then v.rate + (65536 - v.rate) / 2 else min (v.rate + 1024) 65536 }))

end Sys2Proof.Machine
end

