-- ==== Sys2Proof/Machine/Cmd.lean ====
section
/-! DEFINITION. What the mailbox commands share: the index of the catalogue (R397), request bodies (R382), answers, queue
pairs and address entries (R360, R400, R416), the tables that follow from the Spoil map (R303, R319, R486), the firmware
image (R424, R425), answers to other commands of a partition (R345, R389). -/

namespace Sys2Proof.Machine

/-! ### The index (R397) -/

/-- A row of the index: opcode, steward-only, scope (0 device, 1 partition, 2 either), serial, limit in ms. -/
structure OpInfo where
  op      : Nat
  steward : Bool
  scope   : Nat
  serial  : Bool
  limit   : Nat
  deriving DecidableEq, Repr

def opIndex : List OpInfo := [
  ⟨0x0001, true, 0, false, 10⟩, ⟨0x0002, true, 0, true, 10⟩, ⟨0x0003, true, 0, true, 5000⟩, ⟨0x0004, true, 0, true, 100⟩,
  ⟨0x0005, true, 0, true, 100⟩, ⟨0x0006, true, 0, true, 100⟩, ⟨0x0007, true, 0, true, 5000⟩, ⟨0x0008, true, 0, true, 10⟩,
  ⟨0x0009, true, 0, true, 30000⟩,
  ⟨0x0101, true, 0, true, 50⟩, ⟨0x0102, true, 1, true, 2000⟩, ⟨0x0103, true, 1, true, 25⟩, ⟨0x0104, true, 1, true, 10⟩,
  ⟨0x0105, true, 1, true, 60000⟩, ⟨0x0106, true, 1, true, 60000⟩, ⟨0x0107, true, 1, true, 10⟩, ⟨0x0108, true, 1, true, 10⟩,
  ⟨0x0109, true, 1, true, 10⟩, ⟨0x010A, true, 1, true, 10⟩, ⟨0x010B, false, 1, true, 5⟩, ⟨0x010C, false, 1, false, 10⟩,
  ⟨0x0201, false, 1, true, 120000⟩, ⟨0x0202, false, 1, true, 100⟩, ⟨0x0203, false, 1, true, 5⟩, ⟨0x0204, false, 1, true, 5⟩,
  ⟨0x0205, false, 1, false, 10⟩,
  ⟨0x0301, false, 1, false, 10⟩, ⟨0x0302, false, 1, false, 10⟩, ⟨0x0303, false, 1, false, 1⟩, ⟨0x0304, false, 1, false, 10⟩,
  ⟨0x0401, false, 2, false, 10⟩, ⟨0x0402, false, 2, false, 10⟩, ⟨0x0403, false, 2, false, 10⟩, ⟨0x0404, false, 2, false, 10⟩,
  ⟨0x0405, false, 1, false, 10⟩, ⟨0x0406, false, 1, false, 60000⟩, ⟨0x0407, false, 1, false, 60000⟩,
  ⟨0x0501, false, 1, false, 10⟩, ⟨0x0502, false, 2, false, 10⟩, ⟨0x0503, false, 2, false, 100⟩, ⟨0x0504, false, 2, false, 100⟩,
  ⟨0x0505, true, 0, false, 100⟩, ⟨0x0506, true, 0, true, 10⟩,
  ⟨0x0601, false, 2, false, 100⟩, ⟨0x0602, false, 2, false, 10⟩, ⟨0x0603, true, 0, true, 10⟩, ⟨0x0604, true, 0, true, 100⟩,
  ⟨0x0605, true, 0, true, 120000⟩, ⟨0x0606, true, 0, true, 5000⟩, ⟨0x0607, true, 0, true, 5000⟩,
  ⟨0x0701, false, 2, false, 100⟩, ⟨0x0702, true, 0, false, 100⟩, ⟨0x0703, false, 2, false, 10⟩]

def opInfo (op : Nat) : Option OpInfo := opIndex.find? (fun i => i.op == op)

/-! ### Requests and answers -/

/-- Field of a request body (R382): missing bytes read as zero. -/
def bf (m : Mbx) (off n : Nat) : Nat := numAt m.body off n

/-- Bytes beyond the command's layout are not all zero (R382). -/
def bOver (m : Mbx) (layout : Nat) : Bool := !allZero (m.body.drop layout)

/-- Bytes of a reserved part of the layout are not all zero (R11). -/
def bRsv (m : Mbx) (off n : Nat) : Bool := !allZero (slice m.body off n)

/-- The request's scope: a PartID, or 64 for the device. -/
def scopePart (m : Mbx) : Nat := if m.scope.testBit 6 then 64 else m.scope % 64

/-- Owner of the pair on which a request came. -/
def ownerOf (s : State) (m : Mbx) : Nat := ((getQp s m.qpn).map (·.owner)).getD 64

/-- The request came from a tenant. -/
def tenant (s : State) (m : Mbx) : Bool := decide (ownerOf s m < 64)

/-- How a command stands after a step of it: completed with a status and a body, or still outstanding. -/
inductive Ans where
  | done (status : Nat) (body : List Byte)
  | wait
  deriving DecidableEq, Repr

/-- A command's meaning: the state and the answer. -/
abbrev CmdRes := State × Ans

def ok (s : State) : CmdRes := (s, .done stOk [])
def okBody (s : State) (b : List Byte) : CmdRes := (s, .done stOk b)
def bad (s : State) : CmdRes := (s, .done stInvalid [])
def notFound (s : State) : CmdRes := (s, .done stNotFound [])
def noResource (s : State) : CmdRes := (s, .done stNoResource [])

/-- Same command: pair and tag. -/
def sameCmd (c : Cmd) (m : Mbx) : Bool := c.m.qpn == m.qpn && c.m.tag == m.tag

/-- A command completes: its slot returns as its response is sent (R348, R389). -/
def finish (s : State) (c : Cmd) (status : Nat) (body : List Byte) : State :=
  respond { s with cmds := s.cmds.filter (fun x => !sameCmd x c.m) } c.m.qpn c.op c.m.tag status c.m.scope 0 0 true body

/-- Change an outstanding command. -/
def modCmd (s : State) (m : Mbx) (f : Cmd → Cmd) : State :=
  { s with cmds := s.cmds.map (fun c => if sameCmd c m then f c else c) }

/-- The other outstanding commands of a partition are answered with a status (R345). -/
def answerOthers (s : State) (part status : Nat) (m : Mbx) : State :=
  (s.cmds.filter (fun c => scopePart c.m == part && !sameCmd c m)).foldl (fun s c => finish s c status []) s

/-- The other outstanding commands of a partition complete without a response (R389, R404). -/
def dropOthers (s : State) (part : Nat) (m : Mbx) : State :=
  { s with cmds := s.cmds.filter (fun c => scopePart c.m != part || sameCmd c m) }

/-! ### Queue pairs (R379, R416) -/

def qpCount (s : State) : Nat := (s.qps.filter (fun e => e.2.isSome)).length

/-- The lowest free queue-pair number; 0 and 1 belong to the transport. -/
def freeQpn (s : State) : Option Nat := ((List.range 4096).map (· + 2)).find? (fun q => (getQp s q).isNone)

/-- The body of R416 is malformed. -/
def qpBodyBad (m : Mbx) : Bool :=
  decide (bf m 1 1 < 1 ∨ bf m 1 1 > 5 ∨ bf m 2 1 ≥ 64 ∨ bf m 3 1 < 1 ∨ bf m 3 1 > 31 ∨ bf m 7 1 ≠ 0 ∨ bf m 24 1 > 16) ||
  bRsv m 25 7 || bOver m 32

/-- Create a pair from the body of R416 for an owner; its source port follows from its number (R370). -/
def createQp (s : State) (m : Mbx) (owner : Nat) (mbx : Bool) : CmdRes :=
  let l := bf m 0 1
  if qpBodyBad m || !lportExists s l || (getEntry s l (entryOf owner)).isNone then bad s
  else
    match freeQpn s with
    | none => noResource s
    | some q =>
      let udp := Config.udpPort q % 65536
      let v : Qp := { owner := owner, mbx := mbx, lport := l, mtu := bf m 1 1, retry := bf m 2 1 % 8, rnr := bf m 2 1 / 8,
                      timeout := bf m 3 1, remote := bf m 4 3, remoteIp := bf m 8 16, reads := bf m 24 1, udp := udp }
      okBody (setQp s q (some v)) (leBytes 4 q ++ leBytes 2 udp)

/-- The commands of a pair that goes keep no pair: their numbers lie above any QPN, one range for each loss, so that their responses are
discarded whatever takes the number later (R389). -/
def orphan (s : State) (q : Nat) : State :=
  let k := (s.cmds.map (fun c => c.m.qpn / 2 ^ 24)).foldl max 0 + 1
  { s with cmds := s.cmds.map (fun c => if c.m.qpn = q then { c with m := { c.m with qpn := q + 2 ^ 24 * k } } else c) }

/-- A pair is destroyed; a bucket open over it fails as at an error. -/
def destroyQp (s : State) (q : Nat) : State := setQp (orphan (qpError s q) q) q none

/-- Destroy the pairs that satisfy a test. -/
def destroyQps (s : State) (f : Qp → Bool) : State := (qpsWhere s f).foldl destroyQp s

/-! ### Address entries (R360, R400) -/

/-- Keep the device entry of a logical port in flash (R494). -/
def storeDevEntry (s : State) (l : Nat) : State :=
  { s with flash := { s.flash with devEntries := tset none s.flash.devEntries l (getEntry s l 0) } }

/-- The partition has an entry on some logical port. -/
def hasEntry (s : State) (part : Nat) : Bool := (List.range 8).any (fun l => (getEntry s l (entryOf part)).isSome)

/-- Remove an entry: its queue pairs are destroyed; CM5 frame mode ends with a partition's last entry. -/
def removeEntry (s : State) (l k : Nat) : State :=
  let s1 := destroyQps s (fun v => v.lport == l && entryOf v.owner == k)
  let s2 := setEntry s1 l k none
  if k = 0 then storeDevEntry s2 l
  else if hasEntry s2 (k - 1) then s2 else modPart s2 (k - 1) (fun q => { q with cm5 := none, cm5From := [], cm5Wait := [] })

/-! ### Tables from the Spoil map (R194, R303, R319, R486) -/

/-- Positions of a row segment in a die. -/
def dieSegments (d : Nat) : List Nat := (List.range 64).map (64 * d + ·)

/-- Tables of a die before the Spoil map: spares SPARE, every other core IN_SERVICE, no shift, no failed cluster. -/
def plainTables (s : State) (d : Nat) : State :=
  let s1 := (dieSegments d).foldl (fun s g =>
    (List.range 9).foldl (fun s j => setHold (setFence s (segBase g + j) (if j = 8 then 1 else 0) 0) (segBase g + j) false) (setShift s g 0)) s
  (List.range 16).foldl (fun s i => if cluState s (16 * d + i) = 3 then setClu s (16 * d + i) 0 0 else s) s1

/-- One core entry: FENCED_FUSED (5) or FENCED_SOFT (4), with its segment's spare serving; a second one in a segment fails the
cluster (R312). -/
def applyCoreEntry (s : State) (p state reason : Nat) : State :=
  let g := segOfPhys p
  if fenceState s p ≥ 4 then s
  else if p = segBase g + 8 then
    let s1 := setFence s p state reason
    if shiftOf s g = 0 then s1 else setClu s1 (cluOfPhys p) 3 0
  else if spareFree s g then writeRemap s p state reason
  else setClu (setFence s p state reason) (cluOfPhys p) 3 0

/-- One entry of the map, as far as it concerns die `d`. One of a link or a router holds the die out of service (R317). -/
def applyEntry (s : State) (d state : Nat) (e : Spoil) : State :=
  if e.kind = 1 then (if dieOf (e.unit % 4096) = d then applyCoreEntry s (e.unit % 4096) state e.reason else s)
  else if e.kind = 6 then (if e.unit % 4 = d then setClu s (16 * d + e.unit / 4 % 16) 3 0 else s)
  else if e.kind = 4 ∨ e.kind = 5 then (if dieOf (e.unit % 4096) = d then modDie s d (fun v => { v with out := true }) else s)
  else s

/-- Soft entries that no fused entry of the same unit replaces. -/
def softInForce (s : State) : List Spoil := s.soft.filter (fun e => !s.fused.any (fun f => f.kind == e.kind && f.unit == e.unit))

/-- The tables of a die as they follow from the Spoil map, fused entries first. -/
def rebuildDie (s : State) (d : Nat) : State :=
  (softInForce s).foldl (fun s e => applyEntry s d 4 e) (s.fused.foldl (fun s e => applyEntry s d 5 e) (plainTables s d))

/-- A Spoil entry's 16 bytes (R318). -/
def spoilBytes (e : Spoil) : List Byte :=
  leBytes 1 e.kind ++ leBytes 1 e.flags ++ leBytes 6 e.unit ++ leBytes 1 e.reason ++ leBytes 1 (min e.count 255) ++ zeros 2 ++
    leBytes 4 e.when_

/-- Insert in ascending order of kind and unit. -/
def insertSpoil (e : Spoil) : List Spoil → List Spoil
  | [] => [e]
  | x :: r => if e.kind < x.kind ∨ (e.kind = x.kind ∧ e.unit < x.unit) then e :: x :: r else x :: insertSpoil e r

def sortSpoil (l : List Spoil) : List Spoil := l.foldl (fun a e => insertSpoil e a) []

/-- The digest of R319. -/
def spoilDigest (s : State) : BitVec 256 := sha3 ((sortSpoil s.fused ++ sortSpoil s.soft).flatMap spoilBytes)

/-! ### The firmware image (R424, R425) -/

def fwLength (l : List Byte) : Nat := numAt l 12 4
def fwUcodeOff (l : List Byte) : Nat := numAt l 16 4
def fwOuvos (l : List Byte) : List Byte := (l.take (fwUcodeOff l)).drop 1376
def fwUcode (l : List Byte) : List Byte := (l.take (fwLength l - 2420)).drop (fwUcodeOff l)

/-- Check (a): every field of R424 is valid; the microcode section holds at most 524,288 bytes (R492). -/
def fwFieldsOk (l : List Byte) : Bool :=
  numAt l 0 4 == 0x0F71C7A5 && numAt l 4 2 == 1 && numAt l 6 2 == 0 && decide (numAt l 8 1 ≤ 64 ∧ numAt l 9 1 ≤ 64) &&
  numAt l 10 2 == 0 && decide (fwLength l ≤ 16777216 ∧ fwLength l ≤ l.length ∧ fwUcodeOff l % 64 = 0 ∧ 1408 ≤ fwUcodeOff l ∧
    fwUcodeOff l + 2420 ≤ fwLength l) && allZero (slice l 20 44) && decide ((fwUcode l).length ≤ 524288)

/-- Check (b): the signer is the one fused at manufacture. -/
def fwSignerOk (s : State) (l : List Byte) : Bool := sha3 (slice l 64 1312) == s.flash.fwKey

/-- Check (c): the signature. -/
def fwSigOk (l : List Byte) : Bool :=
  Config.sigVerifies (slice l 64 1312) (ctxBytes "CM7 firmware" ++ l.take (fwLength l - 2420)) (slice l (fwLength l - 2420) 2420)

/-- Check (d): the security versions are not below the rollback counters. -/
def fwFresh (s : State) (l : List Byte) : Bool := decide (s.flash.rbOuvos ≤ numAt l 8 1 ∧ s.flash.rbUcode ≤ numAt l 9 1)

/-- R425. -/
def imageOk (s : State) (l : List Byte) : Bool := fwFieldsOk l && fwSignerOk s l && fwSigOk l && fwFresh s l

/-- The answer of R429 to an image. -/
def imageStatus (s : State) (l : List Byte) : Nat :=
  if !fwFieldsOk l || !fwFresh s l then stInvalid else if !fwSignerOk s l || !fwSigOk l then stAuth else stOk

/-- Content of a slot. -/
def fwSlot (s : State) (n : Nat) : List Byte := if n = 0 then s.flash.slotA else s.flash.slotB

/-- The steward key that the device holds: none when the stored one fails its tag (R433). -/
def stewardKey (s : State) : Option (List Byte) :=
  let f := s.flash
  match f.steward with
  | none => none
  | some k => if f.stewardTag = Config.keyTag s.storageKey k then some k else none

/-- Product code of R401. -/
def productCode : Product → Nat
  | .cm74m => 0 | .cm74u => 1 | .cm72m => 2 | .cm72u => 3

/-- The seed of the device identity of a class (R430). -/
def classSeed (s : State) (class_ : Nat) : BitVec 256 := sha3 (digestBytes s.flash.idSeed ++ leBytes 1 class_)

/-- Identity class of a life-cycle state (R421). -/
def identityClass (s : State) : Nat := let c := lifeCycle s.flash.lc; if c = 1 ∨ c = 2 then 1 else 0

/-! ### Memory of a partition that a command fills (R247) -/

/-- Tier memory of a range of 64 KiB units becomes zero with valid tags and no check values; the fill counts toward no partition (R247, R448). -/
def fillRange (s : State) (t first units : Nat) : State :=
  let v := getTier s t
  let a := first * 65536
  let n := units * 65536
  let out (sec : Nat) : Bool := decide (sec < a / 512 ∨ (a + n) / 512 ≤ sec)
  let s1 := setTier s t { v with mem := clearBytes v.mem a n, bad := v.bad.filter (fun e => out e.1), weak := v.weak.filter (fun e => out e.1),
                                 tags := v.tags.filter (fun e => out (tagSector t (channelData s) e.1)),
                                 cv := v.cv.filter (fun e => decide (e.1 < a / 4096 ∨ (a + n) / 4096 ≤ e.1)) }
  if t = 0 then
    let k := 65 * (a / 2 ^ 36) + 64
    { s1 with hbmMoved := tset 0 s1.hbmMoved k ((tget 0 s1.hbmMoved k + n) % 2 ^ 48) }
  else s1

/-- New keys of a partition, drawn by the security engine (R249): an XTS key pair and a tag key, free values. -/
def drawKeys (s : State) (pt : Part) : Part :=
  { pt with xts := leBytes 64 (Config.freeValue s.freeSeq 0), tagKey := leBytes 32 (Config.freeValue s.freeSeq 1) }

end Sys2Proof.Machine
end

