-- ==== Sys2Proof/Machine/CmdDevice.lean ====
section
/-! DEFINITION. The device commands and the diagnostics (R400 to R402, R418): status, ports and addresses, PTP, resets of the
device and of a die (R342, R347), shutdown (R329, R402), counters, core state, Scree records, dumps, the Spoil map. -/

namespace Sys2Proof.Machine

/-! ### Status (R401) -/

def bitsOf (n : Nat) (f : Nat → Bool) : Nat := ((List.range n).map (fun i => if f i then 2 ^ i else 0)).sum

/-- Bucket tags in a partition's range. -/
def tagsRanged (s : State) : Nat := (s.parts.map (fun e => match e.2 with | none => 0 | some p => p.buckets)).sum

/-- DEVICE_STATUS. -/
def doDeviceStatus (s : State) (m : Mbx) : CmdRes :=
  if bOver m 8 then bad s
  else
    okBody s (slice m.body 0 8 ++ leBytes 1 (productCode s.product) ++ leBytes 1 0 ++ leBytes 1 (lifeCycle s.flash.lc) ++
      leBytes 1 s.service ++ leBytes 1 (diesOk s) ++ leBytes 1 s.ddrSpeed ++ leBytes 1 s.ddrDimms ++ leBytes 1 s.ddrGib ++
      leBytes 2 s.unsounded ++ leBytes 1 s.sweepMin ++ leBytes 1 ((allClusters s).filter (fun c => cluState s c == 0)).length ++
      leBytes 2 (1024 - tagsRanged s) ++ leBytes 2 (4096 - qpCount s) ++ leBytes 8 s.seqHigh ++ leBytes 8 (devNs s) ++
      leBytes 8 (bitsOf 64 (fun n => (getPart s n).isSome)) ++ leBytes 1 (tget 0 s.portMode 0) ++ leBytes 1 (tget 0 s.portMode 1) ++
      leBytes 1 (bitsOf 8 (fun l => (getLport s l).up)) ++ zeros 13)

/-- SUBSCRIBE. -/
def doSubscribe (s : State) (m : Mbx) : CmdRes :=
  if bOver m 8 then bad s else ok (modQp s m.qpn (fun v => { v with subs := BitVec.ofNat 64 (bf m 0 8) }))

/-! ### Ports, addresses, PTP -/

/-- PORT_MODE: a change is answered first and carried out 1 ms later. -/
def doPortMode (s : State) (m : Mbx) : CmdRes :=
  let p := bf m 0 1
  let mode := bf m 1 1
  if p > 1 ∨ mode > 2 ∨ bOver m 2 then bad s
  else if tget 0 s.portMode p = mode then ok s
  else ok { s with modePend := tset none s.modePend p (some mode) }

/-- Addresses of an entry in use. -/
def sameAddr (a b : AddrEntry) : Bool :=
  a.mac == b.mac ||
  (a.vlan == b.vlan && ((a.flags.testBit 1 && b.flags.testBit 1 && a.ip4 == b.ip4) || (a.flags.testBit 2 && b.flags.testBit 2 && a.ip6 == b.ip6)))

/-- The entry conflicts with another of the logical port (R362, R365). -/
def entryClash (s : State) (l k : Nat) (a : AddrEntry) : Bool :=
  (getLport s l).entries.any (fun e => e.1 != k && match e.2 with
    | none => false
    | some b => sameAddr a b || a.pd != b.pd || a.pc != b.pc)

/-- ADDR_SET. MAC and IP addresses are numbers whose first octet is the most significant one, stored as R8 says. -/
def doAddrSet (s : State) (m : Mbx) : CmdRes :=
  let l := bf m 0 1
  let k := bf m 1 1
  let fl := bf m 2 1
  let pri := bf m 3 1
  if !lportExists s l || decide (fl ≥ 8 ∨ pri ≥ 64) || bOver m 32 then bad s
  else if k ≠ 0 ∧ (k > 64 ∨ (getPart s (k - 1)).isNone) then notFound s
  else if fl % 2 = 0 then ok (if (getEntry s l k).isSome then removeEntry s l k else s)
  else
    let a : AddrEntry := { flags := fl, pd := pri % 8, pc := pri / 8, vlan := bf m 4 2, mac := bf m 6 6,
                           ip4 := bf m 12 4, ip6 := bf m 16 16,
                           sas := ((getEntry s l k).map (·.sas)).getD [], held := ((getEntry s l k).map (·.held)).getD 0 }
    if fl / 2 = 0 ∨ a.pd = a.pc ∨ a.vlan > 4094 ∨ multicast a.mac ∨ entryClash s l k a then bad s
    else
      let s1 := setEntry s l k (some a)
      ok (if k = 0 then storeDevEntry s1 l else s1)

/-- PTP_SET. -/
def doPtpSet (s : State) (m : Mbx) : CmdRes :=
  let l := bf m 0 1
  let v := bf m 1 1
  if !lportExists s l || decide (v > 2) || bOver m 2 then bad s
  else
    let p := if v = 0 then none else some (l, v)
    ok { s with ptpPort := p, ptpHeard := s.fab, ptpSync := none, ptpDelay := none, ptpReq := none, ptpFree := true, flash := { s.flash with ptp := p } }

/-! ### Resets -/

/-- REINSTATE (R402). -/
def doReinstate (s : State) (m : Mbx) : CmdRes :=
  if bOver m 0 then bad s
  else
    let left := s.charged.filter (fun e => e.1 != deviceKey)
    let s1 := { s with charged := left, flash := { s.flash with windows := left.map (fun e => (e.1, e.2.1)) } }
    if s.service = 2 then ok { s1 with resetPend := some 1 }
    else if s.service = 1 then ok (setService s1 0)
    else ok s1

/-- DIE_RESET: merged into a reset of the die in progress (R342); answered when it ends. -/
def doDieReset (s : State) (m : Mbx) : CmdRes :=
  let d := bf m 0 1
  if !dieOk s d || bOver m 1 then bad s
  else (if (getDie s d).resetting then s else beginDieReset s d 0xF0, .wait)

/-- DEVICE_RESET: the reset begins 1 ms after the response. -/
def doDeviceReset (s : State) (m : Mbx) : CmdRes :=
  if bf m 0 1 > 1 ∨ bOver m 1 then bad s
  else ok { s with resetPend := some 0, bootFull := decide (bf m 0 1 = 1) }

/-- The summary that SHUTDOWN answers (R400): failing units and units not run. -/
def shutdownBody (f : Flash) : List Byte :=
  let l := f.results.filter (fun r => r.2.1 == 1 || r.2.1 == 2)
  leBytes 4 (l.filter (fun r => r.2.1 == 1)).length ++ leBytes 4 (l.filter (fun r => r.2.1 == 2)).length ++
    (l.take 4088).flatMap resultBytes

/-- What a shutdown writes to flash: H and a Scree generation (R339, R387). -/
def shutdownWrites (s : State) : State := writeGeneration { s with flash := { s.flash with seqFloor := s.seqHigh }, seqFlash := 0 }

/-- The memories that the self-test covers lose their contents (R329): those of every cluster, and the hub SRAM of no retained state, which
holds the partitions' device areas. What they hold afterwards is not stated, and is zero here (DESIGN CHOICE, log 75). -/
def loseMemories (s : State) : State :=
  let s1 := (allClusters s).foldl wipeCluster s
  (List.range 64).foldl (fun s p => modPart s p (fun q => { q with area := [] })) s1

/-- SHUTDOWN: every job stops, Sounding stops, and the device leaves service; with the self-test, every tested memory loses its
contents and the answer comes after the last slice. -/
def doShutdown (s : State) (m : Mbx) : CmdRes :=
  if bf m 0 1 > 1 ∨ bOver m 1 then bad s
  else
    let s1 := (List.range 64).foldl (fun s p =>
      match getPart s p with
      | none => s
      | some pt => if pt.running then abortPart s p 1 (stopScope 0xF0 [] []) else s) s
    let s2 := setService { s1 with outBefore := s.service, sweep := [], sounding := [], sweepFrom := none, sweepOut := [] } 3
    if bf m 0 1 = 0 ∨ !testsRun s then okBody (shutdownWrites s2) (zeros 8)
    else (newPlan (loseMemories s2), .wait)

/-! ### Diagnostics (R418, R435) -/

/-- A count as a tenant sees it. -/
def coarse (n : Nat) : Nat := n / 64 * 64

/-- The counters of a core in COUNTERS_READ. -/
def counterBytes (c : Core) (f : Nat → Nat) : List Byte :=
  leBytes 8 (f c.issued) ++ leBytes 8 (f c.teBusy) ++ leBytes 8 (f c.veBusy) ++ leBytes 8 (f c.dmaBytes)

/-- COUNTERS_READ. -/
def doCountersRead (s : State) (m : Mbx) (part : Nat) : CmdRes :=
  match getPart s part with
  | none => notFound s
  | some pt =>
    let first := bf m 0 2
    let n := bf m 2 2
    if n > 2046 ∨ bOver m 4 ∨ (n ≠ 0 ∧ first + n > coresOf pt) then bad s
    else
      let t := tenant s m
      okBody s ((List.range n).flatMap (fun i =>
        let p := physAt s pt (first + i)
        if t then counterBytes (tget {} s.atMs p) coarse else counterBytes (getCore s p) id))

/-- Round the fields of a statistics register down. -/
def coarseStats (w : Nat) : Nat :=
  coarse (w % 2 ^ 24) + 2 ^ 24 * coarse (w / 2 ^ 24 % 2 ^ 20) + 2 ^ 44 * coarse (w / 2 ^ 44 % 2 ^ 20)

/-- Round the fields of VE_QUANT_COUNT down. -/
def coarseQuant (w : Nat) : Nat :=
  coarse (w % 2 ^ 21) + 2 ^ 21 * coarse (w / 2 ^ 21 % 2 ^ 21) + 2 ^ 42 * coarse (w / 2 ^ 42 % 2 ^ 21) + 2 ^ 63 * (w / 2 ^ 63 % 2)

/-- A full state (R352, type 2) with its counts rounded: TE_ABFT_COUNT, VE_QUANT_COUNT, PN_CHAN_STATS. -/
def coarseState (l : List Byte) : List Byte :=
  l.take 4752 ++ leBytes 8 (coarse (numAt l 4752 8)) ++ slice l 4760 8 ++ leBytes 8 (coarseQuant (numAt l 4768 8)) ++
    slice l 4776 1320 ++ (List.range 128).flatMap (fun i => leBytes 8 (coarseStats (numAt l (6096 + 8 * i) 8))) ++ l.drop 7120

/-- CORE_STATE_READ. -/
def doCoreStateRead (s : State) (m : Mbx) (part : Nat) : CmdRes :=
  let n := bf m 0 2
  let core : Option Nat := if part = 64 then (if coreOk s n then some n else none)
    else match getPart s part with
      | none => none
      | some pt => if n < coresOf pt then some (physAt s pt n) else none
  if bOver m 2 then bad s
  else match core with
    | none => if part ≠ 64 ∧ (getPart s part).isNone then notFound s else bad s
    | some p =>
      if tenant s m then
        okBody s (coarseState (fullState (modCore s p (fun c => withMsCounts c (tget {} s.atMs p))) p))
      else okBody s (fullState s p)

/-- A unit of the partition: a core or a cluster of it. -/
def unitOfPart (pt : Part) (u : Nat × Nat) : Bool :=
  (u.1 == 1 && pt.clusters.contains (cluOfPhys u.2)) || (u.1 == 6 && pt.clusters.contains (16 * (u.2 % 4) + u.2 / 4 % 16))

/-- SCREE_READ: under P scope the records of that partition, masked for a tenant (R340, R397). -/
def doScreeRead (s : State) (m : Mbx) (part : Nat) : CmdRes :=
  let n := bf m 2 2
  if n > 511 ∨ bOver m 4 then bad s
  else
    let t := tenant s m
    let all := if part ≠ 64 then (match getPart s part with
        | none => []
        | some pt => (screeUnits s).filter (unitOfPart pt))
      else screeUnits s
    okBody s (((all.drop (bf m 0 2)).take n).flatMap (screeBytes s t))

/-- The dump of a slot of DUMP_READ: 0 to 7 the flash ring, 8 and 9 retained. -/
def dumpAt (s : State) (n : Nat) : Dump := if n < 8 then tget {} s.flash.dumps n else tget {} s.dumps (n - 8)

/-- A dump's sections with the counts of full states rounded (R435). -/
def coarseSections : Nat → List Byte → List Byte
  | 0, l => l
  | k + 1, l =>
    if l.length < 16 then l
    else
      let n := numAt l 8 4
      let body := (l.drop 16).take n
      l.take 16 ++ (if numAt l 0 1 = 2 then coarseState body else body) ++ coarseSections k (l.drop (16 + n))

/-- A dump as a tenant sees it: the counts of the whole millisecond before, rounded, with the digest of that content. -/
def coarseDump (d : Dump) : List Byte :=
  let l := d.bytes
  if l = [] then []
  else
    let body := coarseSections (numAt l 24 4) d.ms
    l.take 32 ++ digestBytes (sha3 (l.take 32 ++ body)) ++ body

/-- DUMP_READ: under P scope the dumps of that partition, to which a tenant is confined (R353, R397). -/
def doDumpRead (s : State) (m : Mbx) (part : Nat) : CmdRes :=
  let slot := bf m 0 1
  let off := bf m 4 4
  let n := bf m 8 4
  let t := tenant s m
  let bytes (i : Nat) : List Byte :=
    let d := dumpAt s i
    if part ≠ 64 ∧ d.part ≠ part then [] else if t then coarseDump d else d.bytes
  if bRsv m 1 3 || bOver m 12 || decide (n > 65472) || (decide (slot ≥ 10) && slot != 0xFF) then bad s
  else if slot = 0xFF then okBody s ((List.range 10).flatMap (fun i => slice (bytes i) 0 64))
  else if n = 0 then okBody s []
  else if bytes slot = [] then notFound s
  else okBody s (((bytes slot).drop off).take n)

/-- SPOIL_READ: fused entries first. -/
def doSpoilRead (s : State) (m : Mbx) : CmdRes :=
  let n := bf m 2 2
  if n > 4092 ∨ bOver m 4 then bad s
  else okBody s ((((s.fused ++ s.soft).drop (bf m 0 2)).take n).flatMap spoilBytes)

/-- SOUNDING_CFG. -/
def doSoundingCfg (s : State) (m : Mbx) : CmdRes :=
  let n := bf m 0 1
  if n > 20 ∨ bOver m 1 then bad s else ok (if n = 0 then s else { s with sweepMin := n })

end Sys2Proof.Machine
end

