-- ==== Sys2Proof/Machine/CmdPart.lean ====
section
/-! DEFINITION. The partition commands (R402 to R407): creation, deletion, reserves, windows, memory, keys, mailbox pairs, CM5
frame mode, Goose, reset, status. -/

namespace Sys2Proof.Machine

/-! ### PART_CREATE (R19, R403) -/

/-- The reserve bytes of a request, without the empty ones. -/
def reservesAt (m : Mbx) (off : Nat) : List Nat := ((List.range 4).map (fun i => bf m (off + i) 1)).filter (· != 0xFF)

/-- No value is listed twice. -/
def distinct (l : List Nat) : Bool := (nubBy l).length == l.length

/-- Unassigned clusters. -/
def freeCluster (s : State) (c : Nat) : Bool := cluOk s c && cluState s c == 0

/-- A cluster lies on a die that is out of service, which takes no new partition (R317): OUT_OF_SERVICE (R393; DEDUCED, log 83). -/
def diesOut (s : State) (l : List Nat) : Bool := l.any (fun c => (getDie s (c / 16)).out)

/-- Whole dies that may form a partition (R19). -/
def diesAllowed (s : State) (l : List Nat) : Bool :=
  l.length == 1 || (l.length == 4 && dieCount s.product == 4) ||
  (l.length == 2 && (if dieCount s.product = 4 then !([[0, 3], [1, 2]].contains l) else l == [0, 1]))

/-- Clusters that the request names, in ascending order of die and index (R31). -/
def namedClusters (m : Mbx) : List Nat :=
  if bf m 0 1 = 0 then ((List.range 16).filter (fun i => (bf m 4 2).testBit i)).map (fun i => 16 * bf m 1 1 + i)
  else ((List.range 8).filter (fun d => (bf m 6 1).testBit d)).flatMap (fun d => (List.range 16).map (fun i => 16 * d + i))

/-- INVALID_ARG cases of R403. -/
def createBad (s : State) (m : Mbx) : Bool :=
  let kind := bf m 0 1
  let count := bf m 2 1
  let cl := namedClusters m
  let rs := reservesAt m 8
  bRsv m 3 1 || bRsv m 7 1 || bRsv m 14 2 || bOver m 16 || decide (kind > 1 ∨ count = 0 ∨ bf m 12 2 > 1024) ||
  !cl.all (freeCluster s) ||
  (if kind = 0 then
     decide (cl.length ≠ count ∨ bf m 6 1 ≠ 0) || !dieOk s (bf m 1 1) || !distinct rs ||
     rs.any (fun r => decide (r ≥ 16) || !freeCluster s (16 * bf m 1 1 + r) || cl.contains (16 * bf m 1 1 + r))
   else
     decide (cl.length ≠ 16 * count ∨ bf m 1 1 ≠ 0 ∨ bf m 4 2 ≠ 0) || rs != [] ||
     !diesAllowed s ((List.range 8).filter (fun d => (bf m 6 1).testBit d)))

/-- A PartID is free: no partition bears it, and 100 µs have passed since the last cluster of its last one left (R443). -/
def partIdFree (s : State) (p : Nat) : Bool :=
  (getPart s p).isNone && (let t := tget 0 s.reusable p; t == 0 || decide (s.fab + 1 ≥ t + usCycles 100))

/-- The lowest contiguous free range of `n` tags. -/
def freeTags (s : State) (n : Nat) : Option Nat :=
  if n = 0 then some 0 else (List.range (1025 - n)).find? (fun a => (List.range n).all (fun i => tagFree s (a + i)))

/-- A cluster comes to a partition: the tests in place on it end, rows due are repaired (R149), it is cleared (R151), in SLEEP (R470). -/
def takeCluster (part state : Nat) (s : State) (c : Nat) : State :=
  let s1 := (clusterPhys c).foldl (fun s p => endTest s p false) (repairDue s c)
  modPow (wipeCluster (setClu s1 c state part) c) c (fun w => { w with mode := 2, waking := false })

/-- PART_CREATE. -/
def doPartCreate (s : State) (m : Mbx) : CmdRes :=
  if createBad s m then bad s
  else if diesOut s (namedClusters m) then (s, .done stOut [])
  else
    match (List.range 64).find? (partIdFree s), freeTags s (bf m 12 2) with
    | some p, some a =>
      let cl := namedClusters m
      let rs := reservesAt m 8
      let die := cl.headD 0 / 16
      let s1 := cl.foldl (takeCluster p 1) s
      let s2 := rs.foldl (fun s r => takeCluster p 2 s (16 * die + r)) s1
      let v : Part := { kind := bf m 0 1, clusters := cl, declared := rs, die := die, bucketAt := a, buckets := bf m 12 2 }
      okBody (setPart (useFree s2) p (some (drawKeys s2 v))) (leBytes 1 p ++ zeros 1 ++ leBytes 2 a ++ leBytes 4 1)
    | _, _ => noResource s

/-! ### PART_DELETE (R404) -/

/-- A cluster leaves a partition: cleared (R151), its rows due repaired (R149), state 0, OFF (R470). A failed one stays failed. -/
def dropCluster (s : State) (c : Nat) : State :=
  let s1 := wipeCluster s c
  let s2 := modPow (repairDue (if cluState s c = 3 then s1 else setClu s1 c 0 0) c) c (fun w => { w with mode := 3, lend := false })
  (clusterPhys c).foldl (fun s p =>
    if (fenceState s p = 2 ∨ fenceState s p = 3) ∧ (testOf s p).isNone then tableReturn (sweepLeaves s p true) p else s) s2

/-- Reserve clusters held for a partition. -/
def heldReserves (s : State) (part : Nat) : List Nat := (allClusters s).filter (fun c => cluState s c == 2 && cluPart s c == part)

/-- Remove what belongs to a partition: pairs, regions, entries, ranges, reserves, clusters, keys. A failed cluster stays
failed. -/
def deletePart (s : State) (part : Nat) : State :=
  match getPart s part with
  | none => s
  | some pt =>
    let s1 := dropActions (if pt.running then abortPart s part 1 (stopScope 0xF0 [] []) else stopPart s part (stopScope 0xF0 [] [])) part
    let s2 := destroyQps s1 (fun v => v.owner == part)
    let s3 := (List.range 8).foldl (fun s l => if (getEntry s l (entryOf part)).isSome then removeEntry s l (entryOf part) else s) s2
    let s4 := { s3 with regions := s3.regions.filter (fun e => match e.2 with | none => true | some r => r.owner != part) }
    let s5 := (List.range pt.buckets).foldl (fun s i => modBucket s (pt.bucketAt + i) (fun b => { closes := b.closes + 1 })) s4
    let s6 := (pt.clusters ++ heldReserves s5 part).foldl dropCluster s5
    setPart { s6 with reusable := tset 0 s6.reusable part (s6.fab + 1) } part none

/-- PART_DELETE. -/
def doPartDelete (s : State) (m : Mbx) (part : Nat) : CmdRes :=
  if bOver m 0 then bad s else ok (deletePart (dropOthers s part m) part)

/-! ### Reserves, windows, memory, keys -/

/-- PART_RESERVE (R316, R405): a list that is valid replaces the declared one; a pending move starts. -/
def doPartReserve (s : State) (m : Mbx) (part : Nat) : CmdRes :=
  match getPart s part with
  | none => notFound s
  | some pt =>
    let rs := reservesAt m 0
    let mine (r : Nat) : Bool := cluState s (16 * pt.die + r) == 2 && cluPart s (16 * pt.die + r) == part
    if bOver m 4 || !distinct rs || (decide (pt.kind ≠ 0) && rs != []) ||
       rs.any (fun r => decide (r ≥ 16) || !(mine r || freeCluster s (16 * pt.die + r))) ||
       (pt.image != [] && arrangementBad pt.image pt.clusters.length rs) then bad s
    else if rs ≠ [] ∧ diesOut s pt.clusters then (s, .done stOut [])
    else
      let gone := (List.range 16).filter (fun r => mine r && !rs.contains r)
      let s1 := gone.foldl (fun s r => dropCluster s (16 * pt.die + r)) s
      let s2 := (rs.filter (fun r => !mine r)).foldl (fun s r => takeCluster part 2 s (16 * pt.die + r)) s1
      let s3 := modPart s2 part (fun q => { q with declared := rs })
      if pt.waiting ∧ rs ≠ [] then
        ok (pt.failed.foldl (fun s c => pushAction s part (failAction c 0 s)) (modPart s3 part (fun q => { q with waiting := false })))
      else ok s3

/-- Region of a 64 KiB unit: 0 core memories or shared, 1 HBM4, 2 DDR5, 3 the device area (R30). -/
def unitRegion (u : Nat) : Nat := if u < 2 ^ 20 then 0 else if u < 2 ^ 24 then 1 else if u < 2 ^ 27 then 2 else 3

/-- The range of units lies whole in one of the ranges assigned. -/
def withinRanges (l : List (Nat × Nat)) (first n : Nat) : Bool := l.any (fun r => decide (r.1 ≤ first ∧ first + n ≤ r.1 + r.2))

/-- Units of a target range that adjoining assigned ranges cover together. -/
def coverGo (l : List (Nat × Nat)) : Nat → Nat → Nat → Bool
  | 0, _, n => n == 0
  | k + 1, first, n =>
    if n = 0 then true
    else match l.find? (fun r => decide (r.1 ≤ first ∧ first < r.1 + r.2)) with
      | none => false
      | some r => let take := min n (r.1 + r.2 - first); coverGo l k (first + take) (n - take)

/-- A valid window breaks R35 by itself. -/
def windowBad (pt : Part) (w : BitVec 128) : Bool :=
  let base := fld w 31 0
  let lim := fld w 63 32
  let t := fld w 95 64
  bit w 98 &&
  (decide (lim < base ∨ unitRegion base ≠ unitRegion lim ∨ unitRegion base = 0) ||
   (match unitRegion base with
    | 1 => !coverGo pt.hbm 17 t (lim + 1 - base)
    | 2 => !coverGo pt.ddr 17 t (lim + 1 - base)
    | _ => decide (t + (lim + 1 - base) > 2)))

/-- Two valid windows overlap. -/
def windowsClash (a b : BitVec 128) : Bool :=
  bit a 98 && bit b 98 && decide (fld a 31 0 ≤ fld b 63 32 ∧ fld b 31 0 ≤ fld a 63 32)

/-- A window set that R35 rejects. -/
def windowSetBad (pt : Part) (t : Tbl (BitVec 128)) : Bool :=
  t.any (fun e => windowBad pt e.2) || t.any (fun e => t.any (fun f => decide (e.1 < f.1) && windowsClash e.2 f.2))

/-- PART_WINDOWS; a count of 0 is nothing to do (R13, R517). -/
def doPartWindows (s : State) (m : Mbx) (part : Nat) : CmdRes :=
  match getPart s part with
  | none => notFound s
  | some pt =>
    let first := bf m 0 1
    let n := bf m 1 1
    let w (i : Nat) : BitVec 128 := BitVec.ofNat 128 (bf m (8 + 16 * i) 16)
    let rsv := bRsv m 2 6 || bOver m (8 + 16 * n)
    let t := (List.range n).foldl (fun t i => tset 0 t (first + i) (w i)) pt.windows
    if n = 0 ∧ !rsv then ok s
    else if first > 63 ∨ first + n > 64 ∨ pt.running ∨ rsv ∨ (List.range n).any (fun i => decide (fld (w i) 127 99 ≠ 0)) ∨
       windowSetBad pt t then bad s
    else ok (setPart s part (some { pt with windows := t }))

/-- Units of the data part of a tier that a range may name (R244, R245). -/
def inDataPart (s : State) (t first units : Nat) : Bool :=
  if t = 0 then
    decide (first / 2 ^ 20 < 2 * dieCount s.product ∧ first % 2 ^ 20 + units ≤ 0xFB800)
  else decide (first + units ≤ 12 * (s.ddrDimms * s.ddrGib * 503 * 32))

def rangesOf (pt : Part) (t : Nat) : List (Nat × Nat) := if t = 0 then pt.hbm else pt.ddr
def setRanges (pt : Part) (t : Nat) (l : List (Nat × Nat)) : Part := if t = 0 then { pt with hbm := l } else { pt with ddr := l }

/-- A range overlaps a range of some partition. -/
def rangeTaken (s : State) (t first units : Nat) : Bool :=
  s.parts.any (fun e => match e.2 with
    | none => false
    | some q => (rangesOf q t).any (fun r => decide (first < r.1 + r.2 ∧ r.1 < first + units)))

/-- Add one range: the status, and the state with the range filled and assigned (R247). -/
def addRange (s : State) (part t first units : Nat) : State × Nat :=
  match getPart s part with
  | none => (s, stNotFound)
  | some pt =>
    if units = 0 then (s, stOk)
    else if !inDataPart s t first units || rangeTaken s t first units then (s, stInvalid)
    else if (rangesOf pt t).length ≥ 16 ∨ (getTier s t).retired.any (fun u => decide (first ≤ u ∧ u < first + units)) then (s, stNoResource)
    else (setPart (fillRange s t first units) part (some (setRanges pt t (rangesOf pt t ++ [(first, units)]))), stOk)

/-- A valid window targets the range. -/
def windowOn (pt : Part) (t first units : Nat) : Bool :=
  pt.windows.any (fun e =>
    let w := e.2
    bit w 98 && unitRegion (fld w 31 0) == t + 1 &&
      decide (fld w 95 64 < first + units ∧ first < fld w 95 64 + (fld w 63 32 + 1 - fld w 31 0)))

/-- Remove one range; a range of no units is nothing to do (R13, R517). -/
def removeRange (s : State) (part t first units : Nat) : State × Nat :=
  match getPart s part with
  | none => (s, stNotFound)
  | some pt =>
    if units = 0 then (s, stOk)
    else if !(rangesOf pt t).contains (first, units) then (s, stNotFound)
    else if windowOn pt t first units then (s, stInvalid)
    else (setPart s part (some (setRanges pt t ((rangesOf pt t).erase (first, units)))), stOk)

/-- Apply the ranges of a request in order; the first failure answers for all. -/
def eachRange (f : State → Nat → Nat → State × Nat) : List (Nat × Nat) → State → State × Nat
  | [], s => (s, stOk)
  | r :: l, s =>
    match f s r.1 r.2 with
    | (s1, 0) => eachRange f l s1
    | (_, st) => (s, st)

/-- PART_MEMORY; a failed add assigns no range, and what it has filled stays zero (R399). -/
def doPartMemory (s : State) (m : Mbx) (part : Nat) : CmdRes :=
  match getPart s part with
  | none => notFound s
  | some pt =>
    let t := bf m 1 1
    let n := bf m 2 1
    let l := (List.range n).map (fun i => (bf m (8 + 16 * i) 8, bf m (16 + 16 * i) 8))
    if bf m 0 1 > 1 ∨ t > 1 ∨ n > 16 ∨ bRsv m 3 5 ∨ bOver m (8 + 16 * n) ∨ (bf m 0 1 = 0 ∧ pt.running ∧ l.any (fun e => e.2 != 0)) then bad s
    else
      match eachRange (fun s a u => if bf m 0 1 = 0 then addRange s part t a u else removeRange s part t a u) l s with
      | (s1, 0) => ok s1
      | (s1, st) => ({ s1 with parts := s.parts }, .done st [])

/-- Insert into an ascending list, once. -/
def insertNat (x : Nat) : List Nat → List Nat
  | [] => [x]
  | y :: r => if x < y then x :: y :: r else if x = y then y :: r else y :: insertNat x r

/-- Sectors of a range that the tables list: with a mark, a stored tag of their own, or in a retired unit, in ascending order. Every other
sector verifies. -/
def listedSectors (s : State) (t first units : Nat) : List Nat :=
  let v := getTier s t
  let lo := first * 128
  let hi := lo + units * 128
  let l := v.bad.map (·.1) ++ v.weak.map (·.1) ++ v.tags.map (fun e => tagSector t (channelData s) e.1) ++
    v.retired.flatMap (fun u => (List.range 128).map (128 * u + ·))
  (l.filter (fun e => decide (lo ≤ e ∧ e < hi))).foldr insertNat []

/-- ROTATE reads the sectors of a range under the old keys (R251): the reads that fail raise their events and repair rows (R252, R256); answers
the sectors that failed. -/
def rotateReads (s : State) (t first units : Nat) : State × List (Nat × Nat) :=
  (listedSectors s t first units).foldl (fun a sec =>
    match checkSector a.1 t sec with
    | (s1, true) => (s1, a.2)
    | (s1, false) => (s1, if (getTier s1 t).retired.contains (sec / 128) then a.2 else a.2 ++ [(t, sec)])) (s, [])

/-- ROTATE writes every sector of a range under the new keys: their tags are those that follow from the contents. -/
def rotateWrites (s : State) (t first units : Nat) : State :=
  let v := getTier s t
  let out (sec : Nat) : Bool := decide (sec < first * 128 ∨ (first + units) * 128 ≤ sec)
  let s1 := setTier s t { v with tags := v.tags.filter (fun e => out (tagSector t (channelData s) e.1)) }
  if t = 0 then
    let n := 2 * 65536 * ((List.range units).filter (fun i => !v.retired.contains (first + i))).length
    let k := 65 * (first * 65536 / 2 ^ 36) + 64
    { s1 with hbmMoved := tset 0 s1.hbmMoved k ((tget 0 s1.hbmMoved k + n) % 2 ^ 48) }
  else s1

/-- A sector whose read failed is written poisoned (R251); a retired unit takes no write (R257). -/
def poisonSector (s : State) (t sec : Nat) : State :=
  let v := getTier s t
  if v.retired.contains (sec / 128) then s
  else setTier s t { v with bad := terase v.bad sec, tags := tset none v.tags (tagPlace t (channelData s) sec) (sectorTag s t sec 1) }

/-- Ranges of a partition with their tier. -/
def allRanges (pt : Part) : List (Nat × Nat × Nat) := pt.hbm.map (fun r => (0, r)) ++ pt.ddr.map (fun r => (1, r))

/-- PART_REKEY (R251): new keys and the next epoch; ERASE refills every sector, ROTATE rewrites it. -/
def doPartRekey (s : State) (m : Mbx) (part : Nat) : CmdRes :=
  match getPart s part with
  | none => notFound s
  | some pt =>
    if bf m 0 1 > 1 ∨ bOver m 1 ∨ pt.running then bad s
    else if pt.epoch = 0xFFFFFFFF then noResource s
    else
      let l := allRanges pt
      let body (n : Nat) : List Byte := leBytes 4 (pt.epoch + 1) ++ zeros 4 ++ leBytes 8 n
      let rekey (s : State) : State := modPart (useFree s) part (fun q => drawKeys s { q with epoch := q.epoch + 1 })
      if bf m 0 1 = 0 then okBody (l.foldl (fun s e => fillRange s e.1 e.2.1 e.2.2) (rekey s)) (body 0)
      else
        let (s1, failed) := l.foldl (fun (a : State × List (Nat × Nat)) e =>
          let r := rotateReads a.1 e.1 e.2.1 e.2.2; (r.1, a.2 ++ r.2)) (s, [])
        let s2 := l.foldl (fun s e => rotateWrites s e.1 e.2.1 e.2.2) (rekey s1)
        okBody (failed.foldl (fun s e => poisonSector s e.1 e.2) s2) (body failed.length)

/-! ### Mailbox pairs, CM5, Goose, reset, status -/

def mbxPairs (s : State) (part : Nat) : Nat := (qpsWhere s (fun v => v.mbx && v.owner == part)).length

/-- MBX_BIND. -/
def doMbxBind (s : State) (m : Mbx) (part : Nat) : CmdRes :=
  if qpBodyBad m || !lportExists s (bf m 0 1) || (getEntry s (bf m 0 1) (entryOf part)).isNone then bad s
  else if mbxPairs s part ≥ 16 then noResource s
  else createQp s m part true

/-- MBX_UNBIND. -/
def doMbxUnbind (s : State) (m : Mbx) (part : Nat) : CmdRes :=
  if bOver m 4 then bad s
  else match getQp s (bf m 0 4) with
    | some v => if v.mbx && v.owner == part then ok (destroyQp s (bf m 0 4)) else notFound s
    | none => notFound s

/-- Entries of a partition on all logical ports. -/
def partEntries (s : State) (part : Nat) : List AddrEntry := (List.range 8).filterMap (fun l => getEntry s l (entryOf part))

/-- PART_CM5 (R375). -/
def doPartCm5 (s : State) (m : Mbx) (part : Nat) : CmdRes :=
  match getPart s part with
  | none => notFound s
  | some pt =>
    let port := bf m 2 2
    if bf m 0 1 > 1 ∨ bRsv m 1 1 ∨ bOver m 4 then bad s
    else if bf m 0 1 = 0 then ok (setPart s part (some { pt with cm5 := none, cm5From := [], cm5Wait := [] }))
    else if port = 0 ∨ port = 4791 ∨ pt.clusters.length > 1 ∨ (partEntries s part).any (fun e => e.sas.isEmpty) then bad s
    else ok (setPart s part (some { pt with cm5 := some port, cm5From := [], cm5Wait := [] }))

/-- PART_GOOSE: DMA_GOOSE_CFG (R239). -/
def doPartGoose (s : State) (m : Mbx) (part : Nat) : CmdRes :=
  if bOver m 4 || decide (bf m 0 4 ≥ 2 ^ 20) then bad s else ok (modPart s part (fun q => { q with goose := bf m 0 4 }))

/-- PART_RESET (R345): the partition's other outstanding commands are answered RESET. While every die of the partition is being reset, it is merged
into that reset, which has reset the clusters, and answered at its end (R342). -/
def doPartReset (s : State) (m : Mbx) (part : Nat) : CmdRes :=
  let s1 := answerOthers s part stReset m
  if bOver m 0 then bad s
  else if (getPart s part).any (fun pt => (diesOf pt).all (fun d => (getDie s d).resetting)) then
    (failPairs (modPart s1 part unloaded) part, .wait)
  else ok (resetPart s1 part 0xF0)

/-- State code of R406. -/
def partStateCode (s : State) (pt : Part) : Nat :=
  if (diesOf pt).any (fun d => (getDie s d).out) then 4
  else if pt.waiting then 3
  else if pt.running then 2
  else if pt.image != [] && !pt.loading then 1 else 0

/-- The declared list as four bytes. -/
def reserveBytes (l : List Nat) : List Byte := (List.range 4).map (fun i => BitVec.ofNat 8 (l.getD i 0xFF))

/-- PART_STATUS. -/
def doPartStatus (s : State) (m : Mbx) (part : Nat) : CmdRes :=
  match getPart s part with
  | none => notFound s
  | some pt =>
    if bOver m 0 then bad s
    else
      let mask := if pt.kind = 0 then (pt.clusters.map (fun c => 2 ^ (c % 16))).sum else ((diesOf pt).map (fun d => 2 ^ d)).sum
      okBody s (leBytes 1 part ++ leBytes 1 pt.kind ++ leBytes 1 (partStateCode s pt) ++
        leBytes 1 (if pt.kind = 0 then pt.clusters.length else pt.clusters.length / 16) ++ leBytes 2 mask ++ reserveBytes pt.declared ++
        leBytes 2 pt.bucketAt ++ leBytes 2 pt.buckets ++ zeros 2 ++ leBytes 4 pt.epoch ++
        leBytes 1 (pt.windows.filter (fun e => bit e.2 98)).length ++ leBytes 1 pt.hbm.length ++ leBytes 1 pt.ddr.length ++
        leBytes 1 (mbxPairs s part) ++ leBytes 8 pt.job ++
        (match pt.digest with | none => zeros 32 | some d => digestBytes d))

end Sys2Proof.Machine
end

