-- ==== Sys2Proof/Machine/CmdJob.lean ====
section
/-! DEFINITION. Program and job commands, collectives, memory and data (R37, R264, R265, R281, R408 to R411, R415 to R417),
and the transfers of host content that they wait for (R398). -/

namespace Sys2Proof.Machine

/-! ### Host buffers (R398) -/

/-- A host buffer: remote address, rkey, length. -/
def hostBuf (m : Mbx) (off : Nat) : Nat × Nat × Nat := (bf m off 8, bf m (off + 8) 4, bf m (off + 12) 4)

/-- The buffers that a command reads, in order. -/
def bufsOf (c : Cmd) : List (Nat × Nat × Nat) :=
  if c.op = 0x0201 then hostBuf c.m 0 :: (List.range (bf c.m 56 1)).map (fun i => hostBuf c.m (64 + 56 * i))
  else if c.op = 0x0406 then [hostBuf c.m 8]
  else if c.op = 0x0605 then [hostBuf c.m 0]
  else []

/-- Partition address at which the content of buffer `i` is put, where it is put anywhere. -/
def bufDest (c : Cmd) (i : Nat) : Option Nat :=
  if c.op = 0x0201 then some (if i = 0 then bf c.m 16 8 else bf c.m (24 + 56 * i) 8)
  else if c.op = 0x0406 then some (bf c.m 0 8)
  else none

def findCmd (s : State) (m : Mbx) : Option Cmd := s.cmds.find? (fun c => sameCmd c m)

/-- Ask for the next buffer that holds anything; when none is left, the content is complete. -/
def fetchNext (m : Mbx) : Nat → State → CmdRes
  | 0, s => (s, .wait)
  | k + 1, s =>
    match findCmd s m with
    | none => (s, .wait)
    | some c =>
      match (bufsOf c)[c.fetched.length]? with
      | none => (modCmd s m (fun c => { c with stage := 2, want := 0 }), .wait)
      | some (a, key, n) =>
        if n = 0 then fetchNext m k (modCmd s m (fun c => { c with fetched := c.fetched ++ [[]] }))
        else
          match getQp s m.qpn with
          | none => bad s
          | some v =>
            if v.error then bad s
            else (sendOn (modCmd s m (fun c => { c with want := n })) m.qpn
                    { psn := 0, kind := 2, addr := a, rkey := key, len := n, job := m.tag }, .wait)

def startFetch (s : State) (m : Mbx) : CmdRes := fetchNext m 258 s

/-- Bytes of a buffer arrive: they are put at their destination at once; after the last, the next buffer follows. -/
def fetched (s : State) (m : Mbx) (sofar data : List Byte) : CmdRes :=
  match findCmd s m with
  | none => (s, .wait)
  | some c =>
    let placed : State × Bool :=
      match bufDest c c.fetched.length, getPart s (scopePart m) with
      | some a, some pt => let r := putMem s (scopePart m) pt.die (a + sofar.length) data; (r.1, r.2.isNone)
      | some _, none => (s, false)
      | none, _ => (s, true)
    if !placed.2 then bad placed.1
    else
      let all := sofar ++ data
      if all.length < c.want then (placed.1, .wait)
      else startFetch (modCmd placed.1 m (fun c => { c with fetched := c.fetched ++ [all] })) m

/-! ### Areas -/

/-- An area of the partition's windowed memory fails R36 or lies under no window with the rights named; an area of length 0 is not checked
(R517). -/
def areaBad (pt : Part) (rd wr : Bool) (a n : Nat) : Bool :=
  n != 0 && (decide (a < 2 ^ 36) || (rd && (firstBad pt false a n).isSome) || (wr && (firstBad pt true a n).isSome))

/-- A partition address has a nonzero reserved bit (R398). -/
def addrBad (a : Nat) : Bool := decide (a ≥ 2 ^ 48)

/-- The partition waits for a reserve, or a die of it is out of service (R316, R317). -/
def partHeld (s : State) (pt : Part) : Bool := pt.waiting || (diesOf pt).any (fun d => (getDie s d).out)

/-- The partition is out of service (R316, R358). -/
def partOut (s : State) (pt : Part) : Bool := partHeld s pt || decide (s.service ≠ 0)

/-! ### IMAGE_LOAD (R37, R399, R408) -/

/-- The request's own faults. -/
def imageLoadBad (pt : Part) (m : Mbx) : Bool :=
  let n := bf m 56 1
  let len := (hostBuf m 0).2.2
  bRsv m 57 7 || bOver m (64 + 56 * n) || pt.running || pt.loading || decide (len > 2 ^ 28) || addrBad (bf m 16 8) ||
  areaBad pt true true (bf m 16 8) len ||
  (List.range n).any (fun i =>
    let k := (hostBuf m (64 + 56 * i)).2.2
    addrBad (bf m (80 + 56 * i) 8) || areaBad pt false true (bf m (80 + 56 * i) 8) k)

/-- IMAGE_LOAD begins to read. -/
def doImageLoad (s : State) (m : Mbx) (part : Nat) : CmdRes :=
  match getPart s part with
  | none => notFound s
  | some pt =>
    if imageLoadBad pt m then bad s
    else if partHeld s pt || decide (s.service ≠ 0 ∧ m.flags ≠ 1) then (s, .done stOut [])
    else startFetch s m

/-- The digest declared for item `i`: the image, then the blobs. -/
def declared (m : Mbx) (i : Nat) : List Byte := if i = 0 then slice m.body 24 32 else slice m.body (32 + 56 * i) 32

/-- The first item whose digest differs; one of length 0 is nothing to read and is not checked (R517). -/
def badItem (c : Cmd) : Option Nat :=
  (List.range c.fetched.length).find? (fun i =>
    let l := c.fetched.getD i []
    !l.isEmpty && digestBytes (sha3 l) != declared c.m i)

/-- Digests of the blobs read. -/
def blobDigests (c : Cmd) : List (BitVec 256) := (c.fetched.drop 1).map sha3

/-- OK body of IMAGE_LOAD. -/
def loadBody (d : Option (BitVec 256)) (chunks fenced : Nat) : List Byte :=
  digestBytes (d.getD 0) ++ leBytes 4 chunks ++ leBytes 4 fenced

/-- Everything has been read: digests, container, and the start of Flock load. -/
def concludeImage (s : State) (c : Cmd) (part : Nat) : CmdRes :=
  match getPart s part with
  | none => notFound s
  | some pt =>
    match badItem c with
    | some i => (s, .done stDigest (leBytes 2 i))
    | none =>
      let img := c.fetched.headD []
      if img.isEmpty then
        okBody (modPart s part (fun q => { q with blobs := blobDigests c })) (loadBody pt.digest 0 0)
      else if numAt img 12 4 ≠ img.length ∨ imageBad s img pt then bad s
      else
        let s1 := modPart s part (fun q => { q with image := img, digest := none, blobs := [], fenced := 0, chunks := 0, moves := [] })
        (modCmd (beginLoad s1 part) c.m (fun c => { c with stage := 1 }), .wait)

/-- Flock load is complete: cores are set up, the update table is written, and the list of digests is in force. -/
def loadDone (s : State) (part : Nat) (pt : Part) (c : Cmd) : State :=
  let s1 := emptyNetwork ((List.range (coresOf pt)).foldl (fun s n => modCore s (physAt s pt n) (setupCore (imgRegs pt.image n))) s) pt
  let tab := tableContent pt.image pt
  let area := writeBytes (pt.area.filter (fun e => decide (e.1 < 0x10000))) 0x10000 tab
  modPart (raiseFloors s1 pt.clusters) part (fun q =>
    { q with loading := false, flock := [], area := area, digest := some (sha3 pt.image), blobs := blobDigests c })

/-- A load that leaves no program (R399). -/
def loadFails (s : State) (part : Nat) : State :=
  modPart s part (fun q => { q with loading := false, flock := [], image := [], digest := none, blobs := [] })

/-- FLOCK_ROLL_CALL of a load (R490, R491). -/
def loadRollCall (part : Nat) (r : State × RollCall) : State :=
  match getPart r.1 part, r.1.cmds.find? (fun c => c.op == 0x0201 && scopePart c.m == part && c.stage == 1) with
  | some pt, some c =>
    match r.2 with
    | .more => r.1
    | .complete =>
      finish (loadDone r.1 part pt c) c stOk (loadBody (some (sha3 pt.image)) pt.chunks pt.fenced)
    | .noReserve => finish (modPart (loadFails r.1 part) part (fun q => { q with waiting := true })) c stNoResource []
  | _, _ => r.1

/-! ### Jobs (R411) -/

/-- Threads that the loaded image enables. -/
def imageThreads (pt : Part) : Nat :=
  ((List.range (coresOf pt)).map (fun n => (threadIds.filter (fun t => bit (imgReg pt.image n t) 18)).length)).sum

/-- JOB_START, once the body is checked. -/
def launch (s : State) (part policy flags report argAddr : Nat) (args : List Byte) : CmdRes :=
  match getPart s part with
  | none => notFound s
  | some pt =>
    if partOut s pt then (s, .done stOut [])
    else if pt.image = [] ∨ pt.loading ∨ pt.running ∨ policy > 3 ∨ (policy = 3 ∧ imgReplaySafe pt.image = false) ∨
      addrBad report ∨ addrBad argAddr ∨ (flags % 2 = 1 ∧ (firstBad pt true report (32 * imageThreads pt)).isSome) ∨
      (firstBad pt true argAddr args.length).isSome then bad s
    else
      let s1 := startJob (putMem s part pt.die argAddr args).1 part policy flags report
      okBody (raiseFloors s1 pt.clusters) (leBytes 8 (pt.job + 1))

/-- JOB_START. -/
def doJobStart (s : State) (m : Mbx) (part : Nat) : CmdRes :=
  let n := bf m 24 4
  if bf m 1 1 > 1 ∨ bRsv m 2 6 ∨ bRsv m 28 4 ∨ n > 65440 ∨ bOver m (32 + n) then bad s
  else launch s part (bf m 0 1) (bf m 1 1) (bf m 8 8) (bf m 16 8) (slice m.body 32 n)

/-- JOB_ABORT. -/
def doJobAbort (s : State) (m : Mbx) (part : Nat) : CmdRes :=
  if bOver m 0 || !jobRuns s part then bad s else ok (abortPart s part 1 (stopScope 0xF0 [] []))

/-- JOB_RESTART. -/
def doJobRestart (s : State) (m : Mbx) (part : Nat) : CmdRes :=
  if bOver m 0 || !jobRuns s part then bad s else ok (restartPart (stopPart s part (stopScope 0xF0 [] [])) part)

/-- JOB_STATUS. While the job runs the manual states no end time: that field is a free value. -/
def doJobStatus (s : State) (m : Mbx) (part : Nat) : CmdRes :=
  match getPart s part with
  | none => notFound s
  | some pt =>
    if bOver m 0 then bad s
    else if pt.running then okBody (useFree s) (endBody pt 255 (flagUnion s pt) 0 (Config.freeValue s.freeSeq 0))
    else okBody s (slice pt.lastEnd 0 32)

/-! ### Collectives (R264, R265, R281, R415) -/

/-- Tags of a partition's range. -/
def tagOf (pt : Part) (t : Nat) : Bool := decide (pt.bucketAt ≤ t ∧ t < pt.bucketAt + pt.buckets)

/-- The areas of a descriptor: base and length, those of the die slots first. -/
def bucketAreas (b : Bucket) (D : Nat) : List (Nat × Nat) :=
  (List.range D).map (fun i => (bAcc b i, bTiles b * 4096)) ++
    [(bRes b, if bShadow b then 0 else (tilesOf b (bRank b)).length * 4096), (bLogBase b, bLogLen b * 16)]

def areasMeet (a b : Nat × Nat) : Bool := decide (a.1 < b.1 + b.2 ∧ b.1 < a.1 + a.2 ∧ a.2 ≠ 0 ∧ b.2 ≠ 0)

/-- The whole area lies on the HBM4 stacks of a die. -/
def onDie (pt : Part) (d : Nat) (a : Nat × Nat) : Bool :=
  (List.range ((a.2 + 65535) / 65536 + 1)).all (fun i =>
    let x := min (a.1 + 65536 * i) (a.1 + a.2 - 1)
    a.2 == 0 || (unitRegion (x / 65536) == 1 && (placeOf pt pt.die x).pos / 1024 == d))

/-- Fields and bits of the descriptor that R264 does not allow. -/
def descBad (b : Bucket) (D : Nat) : Bool :=
  let n := numAt b.desc
  decide (n 0 2 > 1023 ∨ n 2 1 > 3 ∨ n 3 1 > 63 ∨ n 4 1 > 63 ∨ (n 5 1).testBit 6 ∨ n 6 2 > 4096 ∨ n 8 1 > 12 ∨ n 9 1 > 15 ∨
    n 10 2 > 2047 ∨ n 15 1 ≠ 0 ∨ n 62 2 ≠ 0) ||
  decide (n 4 1 ≥ bPeers b ∨ bRank b ≥ bPeers b) ||
  (List.range 4).any (fun i => decide (bLocal b i > 4095) || (decide (i ≥ D) && decide (bLocal b i ≠ 0 ∨ bAcc b i ≠ 0)))

/-- Fields of the descriptor that are reserved, or hold a reserved encoding (R264): all that is checked with tiles = 0 (R13, R517). -/
def descReserved (b : Bucket) : Bool :=
  let n := numAt b.desc
  decide (n 0 2 > 1023 ∨ n 2 1 > 3 ∨ n 3 1 > 63 ∨ n 4 1 > 63 ∨ (n 5 1).testBit 6 ∨ n 8 1 > 12 ∨ n 9 1 > 15 ∨ n 10 2 > 2047 ∨ n 15 1 ≠ 0 ∨ n 62 2 ≠ 0)

/-- INVALID_ARG cases of R265 and R415. -/
def bucketOpenBad (s : State) (part : Nat) (pt : Part) (tag : Nat) (b : Bucket) : Bool :=
  let ds := dieSlots pt
  let D := ds.length
  let areas := bucketAreas b D
  let res := areas.getD D (0, 0)
  descBad b D || decide (numAt b.desc 10 2 ≥ coresOf pt) ||
  decide (bPeers b > 1) && b.peers.zipIdx.any (fun e => (e.1 == (0, 0, 0)) != (e.2 == bRank b)) ||
  areas.any (fun a => areaBad pt true true a.1 a.2) ||
  decide (res.2 ≠ 0 ∧ unitRegion (res.1 / 65536) ≠ 1 ∧ unitRegion (res.1 / 65536) ≠ 2) ||
  (List.range D).any (fun i => !onDie pt (ds.getD i 0) (areas.getD i (0, 0))) ||
  (List.range pt.buckets).any (fun i =>
    let t := pt.bucketAt + i
    let o := getBucket s t
    decide (t ≠ tag ∧ o.state ≠ 0) && (bucketAreas o D).any (fun x => areas.any (areasMeet x))) ||
  decide (bPeers b > 1 ∧ b.peers.length ≠ bPeers b) ||
  (decide (res.2 ≠ 0) && !(s.regions.any (fun e => match e.2 with
    | none => false
    | some r => r.owner == part && r.access.testBit 2 && r.tag == tag && decide (r.addr ≤ res.1 ∧ res.1 + res.2 ≤ r.addr + r.len))))

/-- BUCKET_OPEN of a FREE tag (R265): round 0, parity 0. A bucket in DONE or FAILED is closed before it is opened again (R278; DEDUCED, log 73). -/
def doBucketOpen (s : State) (m : Mbx) (part : Nat) : CmdRes :=
  match getPart s part with
  | none => notFound s
  | some pt =>
    let tag := bf m 0 2
    let old := getBucket s tag
    let b : Bucket := { desc := slice m.body 0 64, part := part, peers := old.peers, closes := old.closes }
    if bOver m 64 ∨ descReserved b then bad s
    else if !tagOf pt tag || old.state != 0 then noResource s
    else if bTiles b ≠ 0 ∧ bucketOpenBad s part pt tag b then bad s
    else ok (openRound (setBucket s tag b) tag 0 false)

/-- BUCKET_CLOSE: the bucket is FREE at once; its peer table stays. -/
def doBucketClose (s : State) (m : Mbx) (part : Nat) : CmdRes :=
  match getPart s part with
  | none => notFound s
  | some pt =>
    let tag := bf m 0 2
    if bOver m 2 then bad s
    else if !tagOf pt tag || (getBucket s tag).state == 0 then notFound s
    else ok (modBucket s tag (fun b => { part := part, peers := b.peers, closes := b.closes + 1 }))

/-- BUCKET_QUERY. -/
def doBucketQuery (s : State) (m : Mbx) (part : Nat) : CmdRes :=
  match getPart s part with
  | none => notFound s
  | some pt =>
    let tag := bf m 0 2
    let b := getBucket s tag
    if bOver m 2 then bad s
    else if !tagOf pt tag then notFound s
    else okBody s (leBytes 1 b.state ++ leBytes 1 b.reason ++ leBytes 1 (if b.parity then 1 else 0) ++ zeros 1 ++ leBytes 4 b.round ++
      leBytes 2 ((tilesOf b (bRank b)).filter (fun t => decide (tget 0 b.final t ≥ bPeers b) && !bShadow b)).length ++ zeros 6)

/-- PEER_TABLE: the table of a FREE tag; no entries are nothing to do (R13). -/
def doPeerTable (s : State) (m : Mbx) (part : Nat) : CmdRes :=
  match getPart s part with
  | none => notFound s
  | some pt =>
    let tag := bf m 0 2
    let n := bf m 2 1
    let l := (List.range n).map (fun i => (bf m (8 + 16 * i) 4, bf m (12 + 16 * i) 4, bf m (16 + 16 * i) 8))
    let mine (q : Nat) : Bool := match getQp s q with | none => false | some v => !v.mbx && (v.owner == part)
    if n > 64 ∨ bRsv m 3 5 ∨ bOver m (8 + 16 * n) then bad s
    else if n = 0 then ok s
    else if !tagOf pt tag then notFound s
    else if (getBucket s tag).state ≠ 0 then bad s
    else if l.any (fun e => e != (0, 0, 0) && !mine e.1) ∨ (l.filter (· == (0, 0, 0))).length > 1 then notFound s
    else ok (modBucket s tag (fun b => { b with peers := l, part := part }))

/-! ### Regions and queue pairs (R371, R416, R417) -/

/-- The lowest free rkey. -/
def freeRkey (s : State) : Option Nat := ((List.range 1024).map (· + 1)).find? (fun k => (getRegion s k).isNone)

/-- REGION_REGISTER. Under D scope no window reaches the region's address, so that one of a length is INVALID_ARG (R371). -/
def doRegionRegister (s : State) (m : Mbx) (part : Nat) : CmdRes :=
  let a := bf m 0 8
  let n := bf m 8 8
  let acc := bf m 16 1
  let tag := bf m 18 2
  if acc > 7 ∨ bRsv m 17 1 ∨ bRsv m 20 4 ∨ bOver m 24 ∨ addrBad a ∨ (acc ≥ 4 ∧ tag > 1023) then bad s
  else if n = 0 then okBody s (zeros 4)
  else match getPart s part with
  | none => bad s
  | some pt =>
    if areaBad pt true true a n then bad s
    else
      match freeRkey s with
      | none => noResource s
      | some k =>
        okBody { s with regions := tset none s.regions k (some { owner := part, addr := a, len := n, access := acc, tag := tag }) } (leBytes 4 k)

/-- REGION_DEREGISTER. -/
def doRegionDeregister (s : State) (m : Mbx) (part : Nat) : CmdRes :=
  let k := bf m 0 4
  if bOver m 4 then bad s
  else
    match getRegion s k with
    | none => notFound s
    | some r =>
      if r.owner ≠ part then notFound s
      else if r.access.testBit 2 ∧ (getBucket s r.tag).state ≠ 0 ∧ (getBucket s r.tag).part = part then bad s
      else ok { s with regions := tset none s.regions k none }

/-- QP_CREATE: a data pair of the partition, or of the device for peer reductions. -/
def doQpCreate (s : State) (m : Mbx) (part : Nat) : CmdRes := createQp s m part false

/-- QP_DESTROY. -/
def doQpDestroy (s : State) (m : Mbx) (part : Nat) : CmdRes :=
  if bOver m 4 then bad s
  else match getQp s (bf m 0 4) with
    | some v => if !v.mbx && v.owner == part then ok (destroyQp s (bf m 0 4)) else notFound s
    | none => notFound s

/-- RECV_POST: buffers of length 0 are nothing to post. -/
def doRecvPost (s : State) (m : Mbx) (part : Nat) : CmdRes :=
  let n := bf m 4 2
  let all := (List.range n).map (fun i =>
    let o := 8 + 16 * i
    (bf m o 8, bf m (o + 8) 4, bf m (o + 12) 2, bf m (o + 14) 1, bf m (o + 15) 1))
  let l := all.filter (fun e => e.2.1 != 0)
  if n > 1024 ∨ bRsv m 6 2 ∨ bOver m (8 + 16 * n) ∨ all.any (fun (e : Nat × Nat × Nat × Nat × Nat) => addrBad e.1) then bad s
  else if n = 0 then ok s
  else
    match getPart s part, getQp s (bf m 0 4) with
    | some pt, some v =>
      if v.mbx ∨ v.owner ≠ part then notFound s
      else if l.any (fun (e : Nat × Nat × Nat × Nat × Nat) => decide (e.2.1 < 16) || (firstBad pt true e.1 e.2.1).isSome ||
        (decide (e.2.2.2.2 ≠ 0) && decide (e.2.2.1 ≥ coresOf pt))) then bad s
      else if v.recvs.length + l.length > 1024 then noResource s
      else ok (setQp s (bf m 0 4) (some { v with recvs := v.recvs ++ l }))
    | _, _ => notFound s

/-! ### MEM_WRITE, MEM_READ (R235, R252, R416) -/

/-- MEM_WRITE begins to read the host buffer. -/
def doMemWrite (s : State) (m : Mbx) (part : Nat) : CmdRes :=
  match getPart s part with
  | none => notFound s
  | some pt =>
    let a := bf m 0 8
    let n := (hostBuf m 8).2.2
    if bf m 24 1 > 1 ∨ bOver m 25 ∨ addrBad a then bad s
    else if n = 0 then startFetch s m
    else if (firstBad pt true a n).isSome ∨ (bf m 24 1 = 1 ∧ (a % 4096 ≠ 0 ∨ n % 4096 ≠ 0)) then bad s
    else startFetch s m

/-- Store check values of the 4,096-byte blocks that the bytes cover, as SEAL does (R232, R235). -/
def sealRange (part die : Nat) : Nat → Nat → List Byte → State → State
  | 0, _, _, s => s
  | k + 1, a, l, s =>
    if l = [] then s
    else
      match getPart s part with
      | none => s
      | some pt =>
        sealRange part die k (a + 4096) (l.drop 4096) (storeCv s (placeOf pt die a) (some (crc32c (l.take 4096))))

/-- The buffer of MEM_WRITE has been moved. -/
def concludeWrite (s : State) (c : Cmd) (part : Nat) : CmdRes :=
  let l := c.fetched.headD []
  let die := ((getPart s part).map (·.die)).getD 0
  okBody (if bf c.m 24 1 = 1 ∧ l ≠ [] then sealRange part die (l.length / 4096 + 1) (bf c.m 0 8) l s else s) (leBytes 8 l.length)

/-- Read bytes block by block; with `verify`, a block read whole must match its stored value. Stops at the first failure. -/
def readBlocks (part die : Nat) (verify : Bool) : Nat → Nat → Nat → List Byte → State → State × List Byte × Option Nat
  | 0, _, _, acc, s => (s, acc, none)
  | k + 1, a, n, acc, s =>
    if n = 0 then (s, acc, none)
    else
      match getPart s part with
      | none => (s, acc, some a)
      | some pt =>
        let block := a / 4096 * 4096
        let h := min n (block + 4096 - a)
        match getMem s part die a h with
        | (s1, l, none) =>
          if verify then
            match getMem s1 part die block 4096 with
            | (s2, whole, none) =>
              if storedCv s2 (placeOf pt die block) = some (crc32c whole) then readBlocks part die verify k (a + h) (n - h) (acc ++ l) s2
              else (s2, acc, some block)
            | (s2, _, some _) => (s2, acc, some block)
          else readBlocks part die verify k (a + h) (n - h) (acc ++ l) s1
        | (s1, _, some _) => (s1, acc, some block)

/-- MEM_READ: the bytes go to the host buffer by RDMA WRITE, whose acknowledgement completes the command. -/
def doMemRead (s : State) (m : Mbx) (part : Nat) : CmdRes :=
  match getPart s part, getQp s m.qpn with
  | some pt, some v =>
    let a := bf m 0 8
    let h := hostBuf m 8
    if bf m 24 1 > 1 ∨ bOver m 25 ∨ addrBad a ∨ (h.2.2 ≠ 0 ∧ (firstBad pt false a h.2.2).isSome) then bad s
    else
      let r := readBlocks part pt.die (decide (bf m 24 1 = 1)) (h.2.2 / 256 + 2) a h.2.2 [] s
      let body := leBytes 8 r.2.1.length ++ leBytes 8 (r.2.2.getD 0xFFFFFFFFFFFFFFFF)
      if r.2.1 = [] then okBody r.1 body
      else if v.error then bad r.1
      else (sendOn (modCmd r.1 m (fun c => { c with stage := 1, fetched := [body] })) m.qpn
              { psn := 0, kind := 1, addr := h.1, rkey := h.2.1, data := r.2.1, len := r.2.1.length, job := m.tag }, .wait)
  | none, _ => notFound s
  | _, none => bad s

end Sys2Proof.Machine
end

