-- ==== Sys2Proof/Machine/CmdSec.lean ====
section
/-! DEFINITION. Security and meter commands (R386, R419 to R438): attestation, identity, MACsec keys, the steward key, firmware
update and activation, the life cycle, and the records, audit trail and identity of the meter. -/

namespace Sys2Proof.Machine

/-! ### Attestation and identity (R432, R437, R438) -/

/-- An IMAGE_LOAD is under way; a move's load leaves the list as it was (R438). -/
def imageLoading (pt : Part) : Bool := pt.loading && !moving pt

/-- Entries of a report: kind, index, digest. -/
def attestEntries (pt : Part) : List (Nat × Nat × BitVec 256) :=
  if imageLoading pt then []
  else (match pt.digest with | none => [] | some d => [(1, 0, d)]) ++ pt.blobs.zipIdx.map (fun (d, i) => (2, i, d))

/-- The meter can be read: it has power and has answered in boot stage 3 (R485). -/
def meterRead (s : State) : Bool := s.meter.powered && !s.meterUnread

/-- Byte 7 of a report: seal state, or 3 when the meter's identity cannot be read. -/
def sealByte (s : State) : Nat := if meterRead s then sealState s else 3

/-- A report before its signature. -/
def reportBody (s : State) (part : Nat) (nonce : List Byte) : List Byte :=
  let f := s.flash
  let pt := getPart s part
  let cls := identityClass s
  let es := ((pt.map attestEntries).getD [])
  leBytes 2 1 ++ leBytes 1 (lifeCycle f.lc) ++ leBytes 1 (productCode s.product) ++ leBytes 1 0 ++ leBytes 1 part ++
  leBytes 1 (cls + orBit ((pt.map imageLoading).getD false) 1 + orBit f.pending.isSome 2) ++ leBytes 1 (sealByte s) ++
  leBytes 1 f.rbOuvos ++ leBytes 1 f.rbUcode ++ leBytes 1 s.fw.slot ++ zeros 1 ++ leBytes 2 es.length ++ zeros 2 ++
  leBytes 8 (devNs s) ++ nonce ++ digestBytes Config.romId ++ digestBytes (sha3 (fwOuvos s.fw.image)) ++ digestBytes (sha3 (fwUcode s.fw.image)) ++
  digestBytes (if meterRead s then s.meter.fwid else 0) ++ digestBytes (spoilDigest s) ++
  (match stewardKey s with | none => zeros 32 | some k => digestBytes (sha3 k)) ++ digestBytes (sha3 (Config.publicOf s.idKey)) ++
  leBytes 4 ((pt.map (·.epoch)).getD 0) ++ zeros 4 ++
  es.flatMap (fun e => leBytes 1 e.1 ++ leBytes 1 e.2.1 ++ zeros 6 ++ digestBytes e.2.2)

/-- ATTEST. -/
def doAttest (s : State) (m : Mbx) (part : Nat) : CmdRes :=
  if bOver m 32 then bad s
  else
    let r := reportBody s part (slice m.body 0 32)
    okBody s (r ++ slice (Config.signOf s.idKey (ctxBytes "CM7 attestation" ++ r)) 0 2420)

/-- Bytes 0 to 1,363 of an identity of a class with a public key (R432). -/
def identityBytes (s : State) (class_ : Nat) (key : List Byte) : List Byte :=
  slice key 0 1312 ++ slice s.flash.serial 0 16 ++ leBytes 1 (productCode s.product) ++ leBytes 1 class_ ++ zeros 2 ++
    digestBytes (sha3 (Config.publicKey 3))

/-- The endorsement that manufacture wrote into the flash: Nirhal's signature over the class-1 identity (R430, R432). Nothing on the device
writes it. -/
def endorsement (s : State) : List Byte :=
  slice (Config.signWith 3 (ctxBytes "CM7 endorsement" ++ identityBytes s 1 (Config.publicOf (classSeed s 1)))) 0 2420

/-- IDENTITY_READ. -/
def doIdentityRead (s : State) (m : Mbx) : CmdRes :=
  if bOver m 0 then bad s
  else okBody s (identityBytes s (identityClass s) (Config.publicOf s.idKey) ++ endorsement s)

/-! ### MACSEC_SA (R367, R419) -/

/-- Receive SCs of an entry. -/
def rxScis (e : AddrEntry) : List Nat := nubBy ((e.sas.filter (fun a => !a.tx)).map (·.sci))

/-- After a transmit SA becomes active, what exhaustion held is sent. -/
def releaseHeld (s : State) (l k : Nat) : State :=
  match getEntry s l k with
  | none => s
  | some e => releaseTx (burnPn (setEntry s l k (some { e with held := 0 })) l k e.held) l

/-- Change the SAs of an entry. -/
def putSas (s : State) (l k : Nat) (e : AddrEntry) (sas : List Sa) : State :=
  let s1 := setEntry s l k (some { e with sas := sas })
  if k = 0 then storeDevEntry s1 l else s1

/-- MACSEC_SA: install, activate or remove the SA that direction, SCI and AN name. -/
def doMacsecSa (s : State) (m : Mbx) : CmdRes :=
  let l := bf m 0 1
  let k := bf m 1 1
  let tx := decide (bf m 2 1 = 0)
  let an := bf m 3 1
  let sci := bf m 4 8
  if !lportExists s l || decide (bf m 2 1 > 1 ∨ an > 3 ∨ bf m 20 1 > 2) || bRsv m 21 11 || bOver m 64 then bad s
  else
    match getEntry s l k with
    | none => notFound s
    | some e =>
      let same (a : Sa) : Bool := a.tx == tx && a.an == an && a.sci == sci
      if bf m 20 1 = 0 then
        let a : Sa := { tx := tx, an := an, sci := sci, pn := bf m 12 4, window := bf m 16 4, active := false, sak := slice m.body 32 32 }
        if tx && e.sas.any (fun x => x.tx && x.sci != sci) then noResource s
        else if !tx && !(rxScis e).contains sci && decide ((rxScis e).length ≥ 4) then noResource s
        else ok (putSas s l k e ((e.sas.filter (fun x => !same x)).map (fun x => { x with window := a.window }) ++ [a]))
      else if !e.sas.any same then notFound s
      else if bf m 20 1 = 2 then ok (putSas s l k e (e.sas.filter (fun x => !same x)))
      else
        let s1 := putSas s l k e (e.sas.map (fun x => if same x then { x with active := true } else if tx && x.tx then { x with active := false } else x))
        ok (if tx then releaseHeld s1 l k else s1)

/-! ### Keys, firmware, life cycle (R421 to R433) -/

/-- STEWARD_KEY_SET: the new key holds from the next request on. -/
def doStewardKeySet (s : State) (m : Mbx) : CmdRes :=
  if bOver m 1312 then bad s else ok { s with flash := { s.flash with steward := some (slice m.body 0 1312), stewardTag := Config.keyTag s.storageKey (slice m.body 0 1312) } }

/-- FW_UPDATE begins to read. -/
def doFwUpdate (s : State) (m : Mbx) : CmdRes := if bOver m 48 then bad s else startFetch s m

/-- Write an image into a slot. -/
def putSlot (f : Flash) (n : Nat) (l : List Byte) : Flash := if n = 0 then { f with slotA := l } else { f with slotB := l }

/-- The image of FW_UPDATE has been read (R429). One of length 0 is nothing to write: the answer names the slot that a longer one would have
taken (R13; DESIGN CHOICE, log 78). -/
def concludeFw (s : State) (c : Cmd) : CmdRes :=
  let l := c.fetched.headD []
  if l = [] then okBody s (leBytes 1 (1 - s.flash.active % 2))
  else if digestBytes (sha3 (l.take (fwLength l))) ≠ slice c.m.body 16 32 then (s, .done stDigest [])
  else if imageStatus s l ≠ stOk then (s, .done (imageStatus s l) [])
  else
    let n := 1 - s.flash.active % 2
    let f := if s.flash.pending = some n then { s.flash with pending := none } else s.flash
    okBody { s with flash := putSlot f n (l.take (fwLength l)) } (leBytes 1 n)

/-- FW_ACTIVATE. -/
def doFwActivate (s : State) (m : Mbx) : CmdRes :=
  let n := bf m 0 1
  if n > 1 ∨ bOver m 1 then bad s
  else if n = s.flash.active then ok s
  else
    let st := imageStatus s (fwSlot s n)
    if st ≠ stOk then (s, .done st [])
    else ok { s with flash := { s.flash with pending := some n, tries := 0 }, resetPend := some 0 }

/-- Blown fuses that a life-cycle state needs. -/
def fusesFor (code : Nat) : Nat := if code = 1 then 2 else if code = 2 then 4 else if code = 3 then 6 else 8

/-- Steps 2 and 3 of a transition (R422). -/
def transit (s : State) (target : Nat) : State :=
  let s1 :=
    if target = 3 ∨ target = 4 then
      let s2 := (List.range 64).foldl (fun s p => deletePart { s with cmds := s.cmds.filter (fun c => scopePart c.m != p || c.op == 0x0607) } p) s
      { s2 with lports := s2.lports.map (fun e => (e.1, { e.2 with entries := [] })),
                flash := { s2.flash with steward := none, stewardTag := [], devEntries := [] } }
    else s
  { s1 with flash := { s1.flash with lc := s1.flash.lc ||| BitVec.ofNat 8 (2 ^ fusesFor target - 1) } }

/-- LIFECYCLE. -/
def doLifecycle (s : State) (m : Mbx) : CmdRes :=
  let t := bf m 0 1
  let now := lifeCycle s.flash.lc
  if bOver m 1 ∨ ¬ ((now = 1 ∧ 2 ≤ t ∧ t ≤ 4) ∨ (now = 2 ∧ 3 ≤ t ∧ t ≤ 4)) then bad s
  else
    let s1 := transit { s with flash := { s.flash with transition := some t } } t
    ok { s1 with resetPend := some 0 }

/-! ### The meter (R420, R459 to R461, R466) -/

/-- MTR_ID (R466). -/
def mtrId (s : State) : Nat := productCode s.product + (if metered s.product then 256 else 0)

/-- MTR_IDKEY (R466): the public key and Nirhal's endorsement of it. -/
def mtrIdKey (s : State) : List Byte :=
  let key := slice (Config.publicKey 2) 0 1312
  key ++ slice (Config.signWith 3 (ctxBytes "CM7 meter endorsement" ++ key ++ slice s.flash.serial 0 16 ++ leBytes 1 (mtrId s))) 0 2420

/-- The registers from MTR_ID to MTR_FWID as the meter's ports read them; MTR_CTL is WO. -/
def mtrRegs (s : State) : List Byte :=
  let m := s.meter
  leBytes 8 (mtrId s) ++ leBytes 8 (mtrStatus s).toNat ++ leBytes 8 (m.nextInterval.getD m.interval) ++ leBytes 8 m.time ++ leBytes 8 m.shown ++
    leBytes 8 (m.last.getD 0) ++ zeros 16 ++ digestBytes m.fwid

/-- The record store (R460): 208 records, 32 signatures, the audit trail; the accumulators read zero. -/
def mtrStore (m : Meter) (x : Nat) : Byte :=
  if x < 0xA9000 then (tget [] m.records (x / 3328)).getD (x % 3328) 0
  else if x < 0xBC000 then (tget [] m.sigs ((x - 0xA9000) / 2432)).getD ((x - 0xA9000) % 2432) 0
  else if x < 0xFC000 then ((m.audit[(x - 0xBC000) / 64]?).map (fun a => (auditBytes a).getD (x % 64) 0)).getD 0
  else 0

/-- What both ports of the meter read at an offset (R441, R466): WO registers, reserved bits and offsets without a register read zero. No row
of the table reads them but through the commands below and boot stage 3. -/
def mtrByte (s : State) (x : Nat) : Byte :=
  if s.meter.powered = false then 0
  else if x < 0x60 then (mtrRegs s).getD x 0
  else if 0x1000 ≤ x ∧ x < 0x2000 then (mtrIdKey s).getD (x - 0x1000) 0
  else if 0x2000 ≤ x ∧ x < 0x2A00 then (leBytes 4 s.meter.audit.length ++ zeros 4 ++ slice s.meter.auditSig 0 2420).getD (x - 0x2000) 0
  else if 0x100000 ≤ x ∧ x < 0x200000 then mtrStore s.meter (x - 0x100000)
  else 0

/-- A closed record is still in the store, and MTR_LAST has named it or a later one. -/
def recordHeld (mt : Meter) (n : Nat) : Bool :=
  (match mt.last with | none => false | some l => decide (n ≤ l)) && decide (mt.number ≤ n + 208)

/-- The signature slot that holds record `n`, when one does. -/
def sigSlot (mt : Meter) (n : Nat) : Option (List Byte) :=
  ([n / 8 % 31, 31].map (fun i => tget [] mt.sigs i)).find? (fun l => l != [] && numAt l 0 8 == n)

/-- A record as a tenant receives it. -/
def tenantRecord (r : List Byte) (part : Nat) : List Byte :=
  let lines := (List.range 65).map (fun k => slice r (208 + 48 * k) 48)
  let own := (lines.drop 1).zipIdx.find? (fun (l, i) => decide (i < numAt r 3 1) && numAt l 0 1 == part)
  slice r 0 64 ++ digestBytes (sha3 (slice r 64 144)) ++ ((own.map (·.1)).getD (zeros 48)) ++ lines.flatMap (fun l => digestBytes (sha3 l))

/-- METER_RECORDS. A count of 0 is OK with no other check (R13); where the record N − 1 is not in the store, its chain value is then a
free value (DESIGN CHOICE, log 51). -/
def doMeterRecords (s : State) (m : Mbx) (part : Nat) : CmdRes :=
  let n := bf m 0 8
  let c := bf m 8 2
  let mt := s.meter
  if c > 16 ∨ bOver m 10 then bad s
  else if c ≠ 0 ∧ meterRuns mt = false then noResource s
  else if !(List.range c).all (fun i => recordHeld mt (n + i)) then notFound s
  else
    let rec_ (k : Nat) : List Byte := slice (tget [] mt.records (k % 208)) 0 3328
    let prev : BitVec 256 := if n = 0 then 0 else if c = 0 ∧ recordHeld mt (n - 1) = false then BitVec.ofNat 256 (Config.freeValue s.freeSeq 0)
      else tget 0 mt.chains ((n - 1) % 512)
    let later := (List.range 8).find? (fun i => decide (0 < n + c + i) && (sigSlot mt (n + c + i - 1)).isSome)
    let more := later.getD 0
    let sig := (if n + c + more = 0 then none else sigSlot mt (n + c + more - 1)).getD []
    okBody (if c = 0 then useFree s else s) (leBytes 8 n ++ leBytes 2 c ++ zeros 6 ++ digestBytes prev ++
      (List.range c).flatMap (fun i => if tenant s m then tenantRecord (rec_ (n + i)) part else rec_ (n + i)) ++
      leBytes 1 more ++ zeros 7 ++ (List.range more).flatMap (fun i => digestBytes (recordDigest (rec_ (n + c + i)))) ++ slice sig 0 2432)

/-- METER_AUDIT. -/
def doMeterAudit (s : State) (m : Mbx) : CmdRes :=
  let first := bf m 0 8
  let n := bf m 8 2
  let mt := s.meter
  if n > 960 ∨ bOver m 10 then bad s
  else if n ≠ 0 ∧ meterRuns mt = false then noResource s
  else if n ≠ 0 ∧ (first = 0 ∨ first - 1 + n > mt.audit.length) then notFound s
  else okBody s (((mt.audit.drop (first - 1)).take n).flatMap auditBytes ++ leBytes 4 mt.audit.length ++ zeros 4 ++ slice mt.auditSig 0 2420)

/-- METER_IDENTITY. -/
def doMeterIdentity (s : State) (m : Mbx) : CmdRes :=
  if bOver m 0 then bad s
  else if !meterRuns s.meter then noResource s
  else okBody s (slice (Config.publicKey 2) 0 1312 ++ leBytes 1 (sealState s))

end Sys2Proof.Machine
end

