-- ==== Sys2Proof/Machine/Mailbox.lean ====
section
/-! DEFINITION. Mailboxes (R379 to R396): admission, the order in which admitted commands start, their completion and limits, and
one row per command of the catalogue (R397). A row carries the request as it arrives on a queue pair of the device. -/

namespace Sys2Proof.Machine

/-! ### What a started command does -/

/-- The command's own meaning, by opcode. -/
def doOp (s : State) (m : Mbx) (op : Nat) : CmdRes :=
  let p := scopePart m
  match op with
  | 0x0001 => doDeviceStatus s m
  | 0x0002 => doSubscribe s m
  | 0x0003 => doPortMode s m
  | 0x0004 => doAddrSet s m
  | 0x0005 => doPtpSet s m
  | 0x0006 => doReinstate s m
  | 0x0007 => doDieReset s m
  | 0x0008 => doDeviceReset s m
  | 0x0009 => doShutdown s m
  | 0x0101 => doPartCreate s m
  | 0x0102 => doPartDelete s m p
  | 0x0103 => doPartReserve s m p
  | 0x0104 => doPartWindows s m p
  | 0x0105 => doPartMemory s m p
  | 0x0106 => doPartRekey s m p
  | 0x0107 => doMbxBind s m p
  | 0x0108 => doMbxUnbind s m p
  | 0x0109 => doPartCm5 s m p
  | 0x010A => doPartGoose s m p
  | 0x010B => doPartReset s m p
  | 0x010C => doPartStatus s m p
  | 0x0201 => doImageLoad s m p
  | 0x0202 => doJobStart s m p
  | 0x0203 => doJobAbort s m p
  | 0x0204 => doJobRestart s m p
  | 0x0205 => doJobStatus s m p
  | 0x0301 => doBucketOpen s m p
  | 0x0302 => doBucketClose s m p
  | 0x0303 => doBucketQuery s m p
  | 0x0304 => doPeerTable s m p
  | 0x0401 => doRegionRegister s m p
  | 0x0402 => doRegionDeregister s m p
  | 0x0403 => doQpCreate s m p
  | 0x0404 => doQpDestroy s m p
  | 0x0405 => doRecvPost s m p
  | 0x0406 => doMemWrite s m p
  | 0x0407 => doMemRead s m p
  | 0x0501 => doCountersRead s m p
  | 0x0502 => doCoreStateRead s m p
  | 0x0503 => doScreeRead s m p
  | 0x0504 => doDumpRead s m p
  | 0x0505 => doSpoilRead s m
  | 0x0506 => doSoundingCfg s m
  | 0x0601 => doAttest s m p
  | 0x0602 => doIdentityRead s m
  | 0x0603 => doMacsecSa s m
  | 0x0604 => doStewardKeySet s m
  | 0x0605 => doFwUpdate s m
  | 0x0606 => doFwActivate s m
  | 0x0607 => doLifecycle s m
  | 0x0701 => doMeterRecords s m p
  | 0x0702 => doMeterAudit s m
  | 0x0703 => doMeterIdentity s m
  | _ => (s, .done stUnsupported [])

/-- A started command: the scope's kind (R397), the partition's existence (R385), then its meaning. -/
def beginOp (s : State) (c : Cmd) : CmdRes :=
  let p := scopePart c.m
  match opInfo c.op with
  | none => (s, .done stUnsupported [])
  | some i =>
    if (i.scope = 0 ∧ p ≠ 64) ∨ (i.scope = 1 ∧ p = 64) then bad s
    else if p ≠ 64 ∧ (getPart s p).isNone then notFound s
    else doOp s c.m c.op

/-- A command whose host content is complete. -/
def concludeOp (s : State) (c : Cmd) : CmdRes :=
  if c.op = 0x0201 then concludeImage s c (scopePart c.m)
  else if c.op = 0x0406 then concludeWrite s c (scopePart c.m)
  else concludeFw s c

/-- The command as it is outstanding now: under its pair's number, or where its own meaning has destroyed that pair under the number that
`orphan` gave it, the highest one. -/
def nowOf (s : State) (c : Cmd) : Cmd :=
  if s.cmds.any (fun x => sameCmd x c.m) then c
  else s.cmds.foldl (fun a x => if x.m.qpn % 2 ^ 24 = c.m.qpn % 2 ^ 24 ∧ x.m.tag = c.m.tag ∧ a.m.qpn < x.m.qpn then x else a) c

/-- Carry a command's outcome into the state. -/
def settleCmd (c : Cmd) : CmdRes → State
  | (s, .done st b) => finish s (nowOf s c) st b
  | (s, .wait) => s

/-! ### Order (R311, R391, R399, R493) -/

def serialOp (op : Nat) : Bool := match opInfo op with | none => false | some i => i.serial

/-- Resets, restarts, aborts, loads, starts and window changes wait for the fence action of their partition, and for a search
under ISOLATE; SHUTDOWN, which stops every job, for the actions of all (R311, R329). -/
def heldBack (s : State) (c : Cmd) : Bool :=
  c.op == 0x0009 && (List.range 64).any (fun k => (getPart s k).any (actionPending s)) ||
  [0x010B, 0x0203, 0x0204, 0x0201, 0x0202, 0x0104].contains c.op &&
  match getPart s (scopePart c.m) with
  | none => false
  | some pt => actionPending s pt || pt.isolate.isSome

/-- A Flock load waits for every withdrawal in its partition. -/
def loadHeld (s : State) (c : Cmd) : Bool :=
  heldBack s c || (c.op == 0x0201 && match getPart s (scopePart c.m) with
    | none => false
    | some pt => pt.clusters.any (fun k => (clusterPhys k).any (fun p => fenceState s p == 2 || fenceState s p == 3)))

/-- Commands of the same scope that were admitted before. -/
def admittedBefore (s : State) (c : Cmd) : List Cmd :=
  (s.cmds.takeWhile (fun x => !sameCmd x c.m)).filter (fun x => scopePart x.m == scopePart c.m)

/-- A command may start. -/
def mayStart (s : State) (c : Cmd) : Bool :=
  !c.started && !heldBack s c &&
  (c.op == 0x010B || c.op == 0x0102 ||
   (if serialOp c.op then (admittedBefore s c).isEmpty else (admittedBefore s c).all (fun x => !serialOp x.op && x.started)))

/-- The command is ready for a step. -/
def readyCmd (s : State) (c : Cmd) : Bool := mayStart s c || (c.stage == 2 && !loadHeld s c)

/-- The command whose turn it is (R396): of the steward's the first admitted; else the first of the next partition, from the last one served
on, that has one ready. -/
def nextCmd (s : State) : Option Cmd :=
  match s.cmds.find? (fun c => c.m.flags == 1 && readyCmd s c) with
  | some c => some c
  | none => (List.range 64).findSome? (fun i => s.cmds.find? (fun c => c.m.flags != 1 && scopePart c.m == (s.turn + 1 + i) % 64 && readyCmd s c))

/-- One command starts or goes on, when one can. -/
def advanceOne (s : State) : Option State :=
  (nextCmd s).map (fun c =>
    let s0 : State := if c.m.flags = 1 then s else { s with turn := scopePart c.m }
    if mayStart s c then settleCmd c (beginOp (modCmd s0 c.m (fun x => { x with started := true })) c)
    else settleCmd c (concludeOp s0 c))

def advanceGo : Nat → State → State
  | 0, s => s
  | k + 1, s => match advanceOne s with | none => s | some s1 => advanceGo k s1

/-- A command waits for a transfer of host content (R398). -/
def transferring (c : Cmd) : Bool := c.started && ((c.stage == 0 && c.want != 0) || (c.op == 0x0407 && c.stage == 1))

/-- Commands whose transfer an error or the loss of their pair has ended (R398). -/
def failTransfers (s : State) : State :=
  (s.cmds.filter (fun c => transferring c && (match getQp s c.m.qpn with | none => true | some v => v.error))).foldl
    (fun s c => finish s c stInvalid []) s

/-- Fence actions that nothing holds any longer begin. -/
def kickAll (s : State) : State := (List.range 64).foldl kick s

/-- What a fence action held up goes on: policies, then actions, then commands that nothing holds any longer. -/
def startWaiting (s : State) : State :=
  if s.ouvosUp then
    let s1 := failTransfers (kickAll (duePolicies (overdueGeneration s)))
    advanceGo (2 * s1.cmds.length + 2) s1
  else s

/-! ### Admission (R384 to R387, R395, R433) -/

/-- Step 1. -/
def msgBad (m : Mbx) : Bool :=
  decide (m.version ≠ 1 ∨ m.flags > 1 ∨ m.status ≠ 0 ∨ m.rsv ≠ 0 ∨ m.time ≠ 0 ∨ m.retry ≠ 0 ∨ m.lost ≠ 0 ∨ m.scope > 64 ∨
    (m.flags = 0 ∧ m.seq ≠ 0) ∨ m.len ≠ m.body.length ∨ m.trail ≠ 0 ∨ m.sig.length ≠ (if m.flags = 1 then 2420 else 0) ∨
    64 + m.body.length + m.sig.length > 65536)

/-- Step 2. -/
def scopeDenied (v : Qp) (m : Mbx) (op : Nat) : Bool :=
  if v.owner = 64 then decide (m.flags ≠ 1)
  else decide (m.flags ≠ 0 ∨ m.scope ≠ v.owner) || (match opInfo op with | none => false | some i => i.steward)

/-- The header as it is signed (R381). -/
def headerBytes (m : Mbx) (op : Nat) : List Byte :=
  leBytes 2 op ++ leBytes 2 m.tag ++ leBytes 1 m.version ++ leBytes 1 m.flags ++ leBytes 2 m.status ++ leBytes 4 m.len ++
  leBytes 1 m.scope ++ zeros 3 ++ leBytes 8 m.seq ++ leBytes 8 m.time ++ leBytes 4 m.retry ++ leBytes 4 m.lost ++ zeros 24

/-- The first installation of a steward key (R433). -/
def firstKey (s : State) (op : Nat) : Bool := op == 0x0604 && decide (lifeCycle s.flash.lc = 1) && (stewardKey s).isNone

/-- Step 3 (R386): the key in force, or for the first installation the key in the body. -/
def signatureOk (s : State) (m : Mbx) (op : Nat) : Bool :=
  let key := if firstKey s op then some (slice m.body 0 1312) else stewardKey s
  match key with
  | none => false
  | some k =>
    Config.sigVerifies k (ctxBytes "CM7 steward" ++ digestBytes (sha3 (Config.publicOf (classSeed s 1))) ++ headerBytes m op ++ m.body) m.sig

/-- Step 4 (R387). -/
def seqOk (s : State) (m : Mbx) (op : Nat) : Bool :=
  decide (m.seq ≥ 1 ∧ m.seq < 2 ^ 64) &&
  (firstKey s op || decide (m.seq > s.seqHigh) || (decide (m.seq + 1023 ≥ s.seqHigh) && !s.seqSeen.contains m.seq))

/-- Step 7 (R402). -/
def notServed (s : State) (m : Mbx) (op : Nat) : Bool :=
  if s.service = 3 then !([0x0001, 0x0008, 0x0601].contains op) else decide (s.service ≠ 0 ∧ m.flags ≠ 1)

/-- Outstanding commands of a pool: the device's for a signed request, the partition's otherwise. -/
def poolHeld (s : State) (m : Mbx) : Nat :=
  (s.cmds.filter (fun c => if m.flags = 1 then c.m.flags == 1 else c.m.flags != 1 && c.m.scope == m.scope)).length

/-- Milliseconds as a BUSY answer carries them. -/
def retryMs (n : Nat) : Nat := max 1 (min n 60000)

/-- Step 8: the retry time of a BUSY answer. Ouvos's estimates are free values. -/
def busyMs (s : State) (v : Qp) (m : Mbx) : Option Nat :=
  let unstarted := s.cmds.any (fun c => scopePart c.m == scopePart m && !c.started)
  let estimate := Config.freeValue s.freeSeq 0
  if s.fab < v.busyTill then some (retryMs ((v.busyTill - s.fab + usCycles 1000 - 1) / usCycles 1000))
  else if poolHeld s m ≥ 1024 then some (retryMs estimate)
  else if m.flags ≠ 1 ∧ unstarted ∧ estimate > 250 then some (retryMs (estimate - 250))
  else none

/-- The first check that fails: status, sequence field, retry time. -/
def refusal (s : State) (v : Qp) (m : Mbx) (op : Nat) : Option (Nat × Nat × Nat) :=
  if !s.ouvosUp then some (stBusy, 0, 2000)
  else if msgBad m then some (stInvalid, 0, 0)
  else if scopeDenied v m op then some (stAuth, 0, 0)
  else if v.owner = 64 ∧ signatureOk s m op = false then some (stAuth, 0, 0)
  else if v.owner = 64 ∧ seqOk s m op = false then some (stReplayed, s.seqHigh + 1, 0)
  else if (opInfo op).isNone then some (stUnsupported, 0, 0)
  else if s.cmds.any (fun c => sameCmd c m) then some (stInvalid, 0, 0)
  else if notServed s m op then some (stOut, 0, 0)
  else (busyMs s v m).map (fun r => (stBusy, 0, r))

/-- Record the sequence number of an admitted request; H goes to flash after every 4,096 admissions. -/
def recordSeq (s : State) (m : Mbx) (op : Nat) : State :=
  if m.flags ≠ 1 then s
  else
    let h := if firstKey s op then m.seq else max s.seqHigh m.seq
    let seen := if firstKey s op then [m.seq] else (m.seq :: s.seqSeen).filter (fun x => decide (x + 1023 ≥ h))
    let s1 := { s with seqHigh := h, seqSeen := seen }
    if s.seqFlash + 1 ≥ 4096 then { s1 with seqFlash := 0, flash := { s1.flash with seqFloor := h } } else { s1 with seqFlash := s.seqFlash + 1 }

/-- A request arrives on a pair: it is answered at once, or admitted. Nothing arrives on a pair that is no mailbox pair, is in
the error state, or before mailbox service opens. -/
def request (op : Nat) (m : Mbx) (s : State) : State :=
  match getQp s m.qpn with
  | none => s
  | some v =>
    if !v.mbx || v.error || s.boot != .service then s
    else if v.filled ≥ 64 then transmitOn s m.qpn (.answer v.ePsn 1)
    else
      match refusal s v m op with
      | some (st, sq, ms) =>
        let s1 := if st = stBusy then
            setQp (useFree s) m.qpn (some { v with busyTill := max v.busyTill (s.fab + ms * usCycles 1000) })
          else s
        respond s1 m.qpn op m.tag st m.scope sq ms false []
      | none =>
        let s1 := recordSeq (useFree s) m op
        startWaiting { s1 with cmds := s1.cmds ++ [{ op := op, m := m, since := s.fab, started := false }] }

/-! ### Limits (R392, R399) -/

/-- What an abandoned command leaves: a load that Flock load had begun leaves no program; a shutdown whose self-test ran gives the device back
its service (DEDUCED, log entry 86: an aborted job and lost memories cannot be given back). -/
def abandon (s : State) (c : Cmd) : State :=
  if c.op = 0x0201 ∧ c.stage = 1 then loadFails s (scopePart c.m)
  else if c.op = 0x0009 ∧ c.started ∧ s.service = 3 then
    { setService s s.outBefore with flash := { s.flash with plan := [], planDone := [], planDigest := none } }
  else s

/-- COMMAND_TIMEOUT: a command past its limit is abandoned. PART_REKEY never is; nor is a die reset or a shutdown under way, whose whole time
(3 s, R341; 25 s, R329) lies within its limit (DEDUCED, log entry 86). -/
def execCommandTimeout (qpn tag : Nat) (s : State) : Out :=
  .next (match s.cmds.find? (fun c => c.m.qpn == qpn && c.m.tag == tag), s.ouvosUp with
    | some c, true =>
      match opInfo c.op with
      | none => s
      | some i =>
        if c.op ≠ 0x0106 ∧ ¬(c.started ∧ (c.op = 0x0007 ∨ c.op = 0x0009)) ∧ s.fab ≥ c.since + i.limit * usCycles 1000 then startWaiting (finish (abandon s c) c stTimeout []) else s
    | _, _ => s)

/-- UNSUPPORTED_REQUEST: an opcode that the index does not hold. -/
def execUnsupportedRequest (m : Mbx) (opcode : Nat) (s : State) : Out :=
  .next (if (opInfo opcode).isSome then s else request opcode m s)

/-! ### The catalogue's rows -/

/-- DEVICE_STATUS. -/
def execDeviceStatus (m : Mbx) (s : State) : Out := .next (request 0x0001 m s)
/-- SUBSCRIBE. -/
def execSubscribe (m : Mbx) (s : State) : Out := .next (request 0x0002 m s)
/-- PORT_MODE. -/
def execPortMode (m : Mbx) (s : State) : Out := .next (request 0x0003 m s)
/-- ADDR_SET. -/
def execAddrSet (m : Mbx) (s : State) : Out := .next (request 0x0004 m s)
/-- PTP_SET. -/
def execPtpSet (m : Mbx) (s : State) : Out := .next (request 0x0005 m s)
/-- REINSTATE. -/
def execReinstate (m : Mbx) (s : State) : Out := .next (request 0x0006 m s)
/-- DIE_RESET. -/
def execDieReset (m : Mbx) (s : State) : Out := .next (request 0x0007 m s)
/-- DEVICE_RESET. -/
def execDeviceReset (m : Mbx) (s : State) : Out := .next (request 0x0008 m s)
/-- SHUTDOWN. -/
def execShutdown (m : Mbx) (s : State) : Out := .next (request 0x0009 m s)
/-- PART_CREATE. -/
def execPartCreate (m : Mbx) (s : State) : Out := .next (request 0x0101 m s)
/-- PART_DELETE. -/
def execPartDelete (m : Mbx) (s : State) : Out := .next (request 0x0102 m s)
/-- PART_RESERVE. -/
def execPartReserve (m : Mbx) (s : State) : Out := .next (request 0x0103 m s)
/-- PART_WINDOWS. -/
def execPartWindows (m : Mbx) (s : State) : Out := .next (request 0x0104 m s)
/-- PART_MEMORY. -/
def execPartMemory (m : Mbx) (s : State) : Out := .next (request 0x0105 m s)
/-- PART_REKEY. -/
def execPartRekey (m : Mbx) (s : State) : Out := .next (request 0x0106 m s)
/-- MBX_BIND. -/
def execMbxBind (m : Mbx) (s : State) : Out := .next (request 0x0107 m s)
/-- MBX_UNBIND. -/
def execMbxUnbind (m : Mbx) (s : State) : Out := .next (request 0x0108 m s)
/-- PART_CM5. -/
def execPartCm5 (m : Mbx) (s : State) : Out := .next (request 0x0109 m s)
/-- PART_GOOSE. -/
def execPartGoose (m : Mbx) (s : State) : Out := .next (request 0x010A m s)
/-- PART_RESET. -/
def execPartReset (m : Mbx) (s : State) : Out := .next (request 0x010B m s)
/-- PART_STATUS. -/
def execPartStatus (m : Mbx) (s : State) : Out := .next (request 0x010C m s)
/-- IMAGE_LOAD. -/
def execImageLoad (m : Mbx) (s : State) : Out := .next (request 0x0201 m s)
/-- JOB_START. -/
def execJobStart (m : Mbx) (s : State) : Out := .next (request 0x0202 m s)
/-- JOB_ABORT. -/
def execJobAbort (m : Mbx) (s : State) : Out := .next (request 0x0203 m s)
/-- JOB_RESTART. -/
def execJobRestart (m : Mbx) (s : State) : Out := .next (request 0x0204 m s)
/-- JOB_STATUS. -/
def execJobStatus (m : Mbx) (s : State) : Out := .next (request 0x0205 m s)
/-- BUCKET_OPEN. -/
def execBucketOpen (m : Mbx) (s : State) : Out := .next (request 0x0301 m s)
/-- BUCKET_CLOSE. -/
def execBucketClose (m : Mbx) (s : State) : Out := .next (request 0x0302 m s)
/-- BUCKET_QUERY. -/
def execBucketQuery (m : Mbx) (s : State) : Out := .next (request 0x0303 m s)
/-- PEER_TABLE. -/
def execPeerTable (m : Mbx) (s : State) : Out := .next (request 0x0304 m s)
/-- REGION_REGISTER. -/
def execRegionRegister (m : Mbx) (s : State) : Out := .next (request 0x0401 m s)
/-- REGION_DEREGISTER. -/
def execRegionDeregister (m : Mbx) (s : State) : Out := .next (request 0x0402 m s)
/-- QP_CREATE. -/
def execQpCreate (m : Mbx) (s : State) : Out := .next (request 0x0403 m s)
/-- QP_DESTROY. -/
def execQpDestroy (m : Mbx) (s : State) : Out := .next (request 0x0404 m s)
/-- RECV_POST. -/
def execRecvPost (m : Mbx) (s : State) : Out := .next (request 0x0405 m s)
/-- MEM_WRITE. -/
def execMemWrite (m : Mbx) (s : State) : Out := .next (request 0x0406 m s)
/-- MEM_READ. -/
def execMemRead (m : Mbx) (s : State) : Out := .next (request 0x0407 m s)
/-- COUNTERS_READ. -/
def execCountersRead (m : Mbx) (s : State) : Out := .next (request 0x0501 m s)
/-- CORE_STATE_READ. -/
def execCoreStateRead (m : Mbx) (s : State) : Out := .next (request 0x0502 m s)
/-- SCREE_READ. -/
def execScreeRead (m : Mbx) (s : State) : Out := .next (request 0x0503 m s)
/-- DUMP_READ. -/
def execDumpRead (m : Mbx) (s : State) : Out := .next (request 0x0504 m s)
/-- SPOIL_READ. -/
def execSpoilRead (m : Mbx) (s : State) : Out := .next (request 0x0505 m s)
/-- SOUNDING_CFG. -/
def execSoundingCfg (m : Mbx) (s : State) : Out := .next (request 0x0506 m s)
/-- ATTEST. -/
def execAttest (m : Mbx) (s : State) : Out := .next (request 0x0601 m s)
/-- IDENTITY_READ. -/
def execIdentityRead (m : Mbx) (s : State) : Out := .next (request 0x0602 m s)
/-- MACSEC_SA. -/
def execMacsecSa (m : Mbx) (s : State) : Out := .next (request 0x0603 m s)
/-- STEWARD_KEY_SET. -/
def execStewardKeySet (m : Mbx) (s : State) : Out := .next (request 0x0604 m s)
/-- FW_UPDATE. -/
def execFwUpdate (m : Mbx) (s : State) : Out := .next (request 0x0605 m s)
/-- FW_ACTIVATE. -/
def execFwActivate (m : Mbx) (s : State) : Out := .next (request 0x0606 m s)
/-- LIFECYCLE. -/
def execLifecycle (m : Mbx) (s : State) : Out := .next (request 0x0607 m s)
/-- METER_RECORDS. -/
def execMeterRecords (m : Mbx) (s : State) : Out := .next (request 0x0701 m s)
/-- METER_AUDIT. -/
def execMeterAudit (m : Mbx) (s : State) : Out := .next (request 0x0702 m s)
/-- METER_IDENTITY. -/
def execMeterIdentity (m : Mbx) (s : State) : Out := .next (request 0x0703 m s)

end Sys2Proof.Machine
end

