-- ==== Sys2Proof/Machine/Rows.lean ====
section
/-! DEFINITION. Rows whose effect reaches the mailboxes: fault events and fence actions taken, Flock roll calls, self-test slices,
acknowledgements and read responses of queue pairs, connection requests, mode changes of the ports, ends of resets; CM5 frame
mode (R375 to R378); test access (R508); register writes (R9, R10). -/

namespace Sys2Proof.Machine

/-! ### Self-test slices -/

/-- SELFTEST_SLICE (R317, R321, R333): while the device is shut down; the last slice answers SHUTDOWN. -/
def execSelftestSlice (results : List (Nat × Nat × Nat × Nat × Nat)) (s : State) : Out :=
  .next (if s.service ≠ 3 ∨ testsRun s = false then s
    else
      let r := planStep s results
      if !r.2 then r.1
      else
        let s1 := shutdownWrites (clearDies r.1)
        match s1.cmds.find? (fun c => c.op == 0x0009 && c.started) with
        | none => s1
        | some c => startWaiting (finish s1 c stOk (shutdownBody s1.flash)))

/-! ### Answers to the device's own packets (R370 to R373, R398) -/

/-- A packet that answers a queue pair: it is accepted and its pair is found. -/
def atPair (p : Packet) (s : State) (act : State → Qp → State) : Out :=
  onFrame p.frame (fun _ =>
    let (s1, r) := acceptFrame s p.frame (fun _ _ => false)
    match r, getQp s1 p.qpn with
    | some (k, _), some v => if v.error ∨ v.lport ≠ p.frame.lport ∨ entryOf v.owner ≠ k then s1 else act (congested s1 p.qpn p.ce) v
    | _, _ => s1)

/-- An outstanding message all of whose packets precede or are the packet of a number. -/
def coveredBy (v : Qp) (psn : Nat) (o : OutMsg) : Bool :=
  decide ((psn % 2 ^ 24 + 2 ^ 24 - (o.psn + packetsOf v.mtu o.len - 1) % 2 ^ 24) % 2 ^ 24 < 2 ^ 23)

/-- A message is acknowledged: a peer total or list, or the write that a MEM_READ waits for. -/
def acked (q : Nat) (s : State) (o : OutMsg) : State :=
  if o.kind = 3 ∨ o.kind = 4 then peerAcked s o.job o.closes
  else if o.kind = 1 then
    match s.cmds.find? (fun c => c.m.qpn == q && c.m.tag == o.job && c.op == 0x0407 && c.stage == 1) with
    | some c => finish s c stOk (c.fetched.headD [])
    | none => s
  else s

/-- Acknowledge every message up to a number, reads apart. -/
def ackUpTo (s : State) (q psn : Nat) : State :=
  match getQp s q with
  | none => s
  | some v =>
    let done := v.outstanding.filter (fun o => o.kind != 2 && coveredBy v psn o)
    let left := v.outstanding.filter (fun o => !(o.kind != 2 && coveredBy v psn o))
    done.foldl (acked q) (setQp s q (some { v with outstanding := left, retries := 0, rnrTries := 0, rnrWait := false, sentAt := s.fab }))

/-- Send everything outstanding again. -/
def resend (s : State) (q : Nat) : State :=
  match getQp s q with
  | none => s
  | some v => transmitOn (setQp s q (some { v with sentAt := s.fab })) q (.again (v.outstanding.map (fun o => packetsOf v.mtu o.len)).sum)

/-- Try again under retry_cnt, or enter the error state. -/
def retry (s : State) (q : Nat) (v : Qp) : State :=
  if v.retries + 1 > v.retry then qpError s q else resend (modQp s q (fun v => { v with retries := v.retries + 1 })) q

/-- RDMA_ACK: the syndrome is that of the standard (RNR NAK 1, NAK 3 in its bits [6:5]). -/
def execRdmaAck (p : Packet) (syndrome : Nat) (s : State) : Out :=
  atPair p s (fun s v =>
    let kind := syndrome / 32 % 4
    let s1 :=
      if kind = 0 then flushEvents (ackUpTo s p.qpn p.psn) p.qpn
      else if v.outstanding = [] then s
      else if kind = 1 then
        (if v.rnr ≠ 7 ∧ v.rnrTries + 1 > v.rnr then qpError s p.qpn
         else modQp s p.qpn (fun v => { v with rnrTries := v.rnrTries + 1, rnrWait := true }))
      else if kind = 3 then
        (if syndrome % 32 = 0 then retry (ackUpTo s p.qpn ((p.psn + 2 ^ 24 - 1) % 2 ^ 24)) p.qpn v else qpError s p.qpn)
      else s
    startWaiting s1)

/-- LOCAL_ACK_TIMEOUT: 4.096 µs × 2^n after the last progress. -/
def execLocalAckTimeout (qpn : Nat) (s : State) : Out :=
  .next (match getQp s qpn with
    | none => s
    | some v =>
      if v.error ∨ v.outstanding = [] ∨ v.rnrWait ∨ 10 * (s.fab - v.sentAt) < 73728 * 2 ^ v.timeout then s
      else startWaiting (retry s qpn v))

/-- RNR_RETRY_TIMER. -/
def execRnrRetryTimer (qpn : Nat) (s : State) : Out :=
  .next (match getQp s qpn with
    | none => s
    | some v => if v.error || !v.rnrWait then s else flushEvents (resend (modQp s qpn (fun v => { v with rnrWait := false })) qpn) qpn)

/-- Bytes of a packet under a path MTU code. -/
def mtuBytes (mtu : Nat) : Nat := 128 * 2 ^ mtu

/-- Messages that waited for a READ to end go on (R370). -/
def laterNow (s : State) (q : Nat) : State :=
  match getQp s q with
  | none => s
  | some v => postLater s q v.later.length

/-- RDMA_READ_RESPONSE (R398): the next bytes of the read in hand; its last completes the buffer. -/
def execRdmaReadResponse (p : Packet) (data : List Byte) (s : State) : Out :=
  atPair p s (fun s v =>
    match v.outstanding.find? (fun o => o.kind == 2) with
    | none => s
    | some o =>
      if p.psn % 2 ^ 24 ≠ (o.psn + o.data.length / mtuBytes v.mtu) % 2 ^ 24 ∨ o.data.length + data.length > o.len then s
      else
        let s1 := if o.psn = 0 then s else ackUpTo s p.qpn ((o.psn + 2 ^ 24 - 1) % 2 ^ 24)
        let whole := o.data.length + data.length = o.len
        let s2 := laterNow (modQp s1 p.qpn (fun v => { v with retries := 0, sentAt := s.fab, outstanding := v.outstanding.filterMap (fun x =>
          if x.kind == 2 && x.psn == o.psn then (if whole then none else some { x with data := x.data ++ data }) else some x) })) p.qpn
        match s2.cmds.find? (fun c => c.m.qpn == p.qpn && c.m.tag == o.job && c.stage == 0 && c.want != 0) with
        | none => s2
        | some c => startWaiting (settleCmd c (fetched s2 c.m o.data data)))

/-- CM_CONNECT_REQUEST (R379, R494): a device pair, while eight are not held; refused until stage 9 has ended. -/
def execCmConnectRequest (lport remoteIp remoteQpn mtu retry rnr timeout : Nat) (s : State) : Out :=
  .next (if lportExists s lport = false ∨ (getLport s lport).up = false then s
    else if s.boot ≠ .service then portSend s lport 0 1 ([5, 0] ++ zeros 4)
    else if s.ouvosUp = false then s
    else
      match getEntry s lport 0, freeQpn s with
      | some _, some q =>
        if (qpsWhere s (fun v => v.mbx && v.owner == 64)).length ≥ 8 ∨ mtu < 1 ∨ mtu > 5 ∨ retry > 7 ∨ rnr > 7 ∨ timeout < 1 ∨ timeout > 31 then
          portSend s lport 0 1 ([5, 0] ++ zeros 4)
        else
          let v : Qp := { owner := 64, mbx := true, lport := lport, mtu := mtu, retry := retry, rnr := rnr, timeout := timeout,
                          remote := remoteQpn, remoteIp := remoteIp, udp := Config.udpPort q % 65536 }
          portSend (setQp s q (some v)) lport 0 1 ([5, 1] ++ leBytes 4 q)
      | some _, none => portSend s lport 0 1 ([5, 0] ++ zeros 4)
      | none, _ => s)

/-! ### Ports, resets that end -/

/-- PORT_MODE_TAKEDOWN (R360, R400). -/
def execPortModeTakedown (port : Nat) (s : State) : Out :=
  onUnit (decide (port < 2))
    (match tget none s.modePend port with
     | none => s
     | some mode =>
       let ls := (List.range 4).map (4 * port + ·)
       let s1 := (qpsWhere s (fun v => v.lport / 4 == port)).foldl qpError s
       let gone := ls.filter (fun l => decide (l % 4 ≥ lportsOf mode))
       let s2 := gone.foldl (fun s l => ((getLport s l).entries.map (·.1)).foldl (fun s k => removeEntry s l k) s) s1
       let s3 := ls.foldl (fun s l => modLport s l (fun p => { p with up := false, paused := [], pauseEnd := [], pauseSeen := [], waitTx := [], rx := [], xoff := [] })) s2
       startWaiting { s3 with portMode := tset 0 s3.portMode port mode, modePend := tset none s3.modePend port none,
                              flash := { s3.flash with portModes := tset 0 s3.flash.portModes port mode } })

/-- DIE_RESET_END (R342, R347 to R349): the tables follow the Spoil map again, and every DIE_RESET of the die, and every PART_RESET merged into
it, is answered. -/
def execDieResetEnd (die : Nat) (s : State) : Out :=
  onUnit (dieOk s die)
    (if !(getDie s die).resetting then s
     else
       let s1 := rebuildDie (modDie s die (fun v => { v with resetting := false })) die
       let cores := dieCores s1 die
       let s2 := censusEnds s1 { code := 4, unit := die } (getDie s die).resetAt (dieCensus s1 die cores)
       let ended (c : Cmd) : Bool := c.started && ((c.op == 0x0007 && bf c.m 0 1 == die) ||
         (c.op == 0x0102 && (getPart s2 (scopePart c.m)).any (fun pt => (diesOf pt).all (fun d => !(getDie s2 d).resetting))))
       startWaiting ((s2.cmds.filter ended).foldl (fun s c => finish s c stOk []) s2))

/-- Ouvos takes what the receive buffers of the mailbox pairs hold (R380). -/
def emptyBuffers (s : State) : State := (qpsWhere s (fun v => v.filled != 0)).foldl (fun s q => modQp s q (fun v => { v with filled := 0 })) s

/-- OUVOS_RESTART_END (R356): commands are answered RESET, and fence actions begin again. -/
def execOuvosRestartEnd (s : State) : Out :=
  .next (if s.ouvosUp ∨ s.boot ≠ .service then s
    else
      let s1 := s.cmds.foldl (fun s c => finish (abandon s c) c stReset []) (emptyBuffers { s with ouvosUp := true })
      let again (s : State) (p : Nat) : State :=
        match getPart s p with
        | none => s
        | some pt =>
          match pt.actions with
          | a :: r =>
            if a.step = 1 then modPart s p (fun q => { q with actions := { a with step := 0 } :: r })
            else if a.step = 2 then
              beginLoad (pt.moves.foldl (fun s m => wipeCluster s (pt.clusters.getD m.1 0)) (stopPart s p (stopScope a.reason [] []))) p
            else s
          | [] => s
      startWaiting ((List.range 64).foldl again s1))

/-- OX_LANE_RETRAINING (R331, R337): the retraining counts, and a lane that does not recover gives way to a spare. -/
def execOxLaneRetraining (link lane : Nat) (recovered : Bool) (s : State) : Out :=
  onUnit ((linksOf s).contains link && decide (lane < linkLanes link + spareLanes link))
    (let u := link + 8 * lane
     let s1 := modScree s 7 u (fun r => { r with resets := sat32 (r.resets + 1) })
     if recovered then
       modScree (modScree s1 7 u (fun r => { r with corrected := sat32 (r.corrected + 1) })) 0x22 0 (fun r => { r with corrected := sat32 (r.corrected + 1) })
     else failLane s1 u 0x10)

/-! ### CM5 frame mode (R375 to R378) -/

/-- Reverse each word of four bytes: the frame's words are big-endian. -/
def swapWords (l : List Byte) : List Byte := (List.range (l.length / 4)).flatMap (fun i => (slice l (4 * i) 4).reverse)

/-- The frame's offset as a partition address (R377). -/
def cm5Addr (o : Nat) : Nat := if o < 0x04000000 then o else 2 ^ 32 + (o - 0x04000000)

/-- A response frame. -/
def cm5Frame (op seq len status offset : Nat) (data : List Byte) : List Byte :=
  beBytes 4 0x5C35F7A0 ++ [1, BitVec.ofNat 8 (op ||| 0x80)] ++ beBytes 2 seq ++ beBytes 2 len ++ beBytes 2 status ++ beBytes 4 offset ++
    zeros 16 ++ slice data 0 992

/-- The request is malformed (R376, R377). -/
def cm5Bad (op : Nat) (l : List Byte) : Bool :=
  let len := beNat (slice l 8 2)
  let o := beNat (slice l 12 4)
  decide (beNat (slice l 0 4) ≠ 0x5C35F7A0 ∨ numAt l 4 1 ≠ 1 ∨ numAt l 5 1 ≠ op ∨ len > 247 ∨ beNat (slice l 10 2) ≠ 0 ∨ o % 4 ≠ 0 ∨
    o + 4 * (len + 1) > 0x05000000) || !allZero (slice l 16 16)

/-- A sender's entry: address and port, last sequence number, and the response, absent while the command is outstanding. -/
def cm5Entry (pt : Part) (who : Nat) : Option (Nat × Nat × Option (List Byte)) := pt.cm5From.find? (fun e => e.1 == who)

/-- Record a sender's last command. -/
def cm5Record (s : State) (part who seq : Nat) (r : Option (List Byte)) : State :=
  modPart s part (fun q => { q with cm5From := q.cm5From.filter (fun e => e.1 != who) ++ [(who, seq, r)] })

/-- Send a response and keep it. -/
def cm5Answer (s : State) (part lport who seq : Nat) (r : List Byte) : State :=
  portSend (cm5Record s part who seq (some r)) lport (entryOf part) 1
    ([4] ++ beBytes 16 (who / 65536) ++ beBytes 2 (who % 65536) ++ r)

/-- Form and service, then the command's own effect. -/
def cm5Do (op lport : Nat) (l : List Byte) (act : State → Nat → Part → Nat → State) (s : State) (k : Nat) (pt : Part) (who seq : Nat) :
    State :=
  let len := beNat (slice l 8 2)
  let o := beNat (slice l 12 4)
  if cm5Bad op l then cm5Answer s k lport who seq (cm5Frame (numAt l 5 1) seq len stInvalid o [])
  else if s.service ≠ 0 then cm5Answer s k lport who seq (cm5Frame op seq len stOut o [])
  else act s k pt who

/-- A frame of the mode: acceptance, sender, repetition, form; then the command. -/
def cm5At (op : Nat) (f : Frame) (udpSrc udpDst : Nat) (l : List Byte) (s : State)
    (act : State → Nat → Part → Nat → State) : Out :=
  onFrame f (fun _ =>
    let (s1, r) := acceptFrame s f (fun _ _ => false)
    match r with
    | some (k + 1, e) =>
      match getPart s1 k with
      | none => s1
      | some pt =>
        if pt.cm5 ≠ some udpDst ∨ l.length ≠ 1024 then s1
        else
          let drop := setPart s1 k (some { pt with cm5Drops := pt.cm5Drops + 1 })
          let who := f.srcIp * 65536 + udpSrc % 65536
          let seq := beNat (slice l 6 2)
          if !e.sas.any (fun a => a.active) then drop
          else
            match cm5Entry pt who with
            | some (_, _, none) => drop
            | some (_, n, some old) =>
              if n = seq then portSend s1 f.lport (entryOf k) 1 ([4] ++ beBytes 16 f.srcIp ++ beBytes 2 udpSrc ++ old)
              else startWaiting (cm5Do op f.lport l act s1 k pt who seq)
            | none => if pt.cm5From.length ≥ 64 then s1 else startWaiting (cm5Do op f.lport l act s1 k pt who seq)
    | _ => s1)
/-- Write at an offset, in the core region and in the shared region. -/
def cm5Put (s : State) (part die o : Nat) (l : List Byte) : State :=
  let n := if o < 0x04000000 then min l.length (0x04000000 - o) else l.length
  (putMem (putMem s part die (cm5Addr o) (l.take n)).1 part die (cm5Addr (o + n)) (l.drop n)).1

/-- Read at an offset: the bytes, and whether all could be read. -/
def cm5Get (s : State) (part die o n : Nat) : State × List Byte × Bool :=
  let k := if o < 0x04000000 then min n (0x04000000 - o) else n
  let r := getMem s part die (cm5Addr o) k
  let t := if n - k = 0 then (r.1, [], none) else getMem r.1 part die (cm5Addr (o + k)) (n - k)
  (t.1, r.2.1 ++ t.2.1, r.2.2.isNone && t.2.2.isNone)

/-- The frame's data words as memory holds them. -/
def cm5Data (l : List Byte) : List Byte := swapWords (slice l 32 (4 * (beNat (slice l 8 2) + 1)))

/-- CM5_LOAD. -/
def execCm5Load (f : Frame) (udpSrc udpDst : Nat) (payload : List Byte) (s : State) : Out :=
  cm5At 0x01 f udpSrc udpDst payload s (fun s k pt who =>
    let o := beNat (slice payload 12 4)
    cm5Answer (cm5Put s k pt.die o (cm5Data payload)) k f.lport who (beNat (slice payload 6 2))
      (cm5Frame 0x01 (beNat (slice payload 6 2)) (beNat (slice payload 8 2)) stOk o []))

/-- Start the job for a RUN frame, and answer. An argument block that runs from the core region into the shared region is written in its two
parts (R377). -/
def cm5Launch (s : State) (k who seq len o : Nat) (args : List Byte) (lport : Nat) : State :=
  let n := if o < 0x04000000 then min args.length (0x04000000 - o) else args.length
  let rest := args.drop n
  let bad := rest != [] && (match getPart s k with | none => false | some pt => !partOut s pt && (firstBad pt true (cm5Addr (o + n)) rest.length).isSome)
  let r := if bad then (s, .done stInvalid []) else launch s k 0 0 0 (cm5Addr o) (args.take n)
  let st := match r.2 with | .done st _ => st | .wait => stOk
  let die := match getPart r.1 k with | none => 0 | some pt => pt.die
  let s1 := if st = stOk ∧ rest ≠ [] then (putMem r.1 k die (cm5Addr (o + n)) rest).1 else r.1
  cm5Answer s1 k lport who seq (cm5Frame 0x02 seq len st o [])

/-- CM5_RUN: the start waits for a fence action of the partition (R311). -/
def execCm5Run (f : Frame) (udpSrc udpDst : Nat) (payload : List Byte) (s : State) : Out :=
  cm5At 0x02 f udpSrc udpDst payload s (fun s k pt who =>
    let o := beNat (slice payload 12 4)
    let seq := beNat (slice payload 6 2)
    let len := beNat (slice payload 8 2)
    if actionPending s pt || pt.isolate.isSome then
      modPart (cm5Record s k who seq none) k (fun q => { q with cm5Wait := q.cm5Wait ++ [{ who := who, seq := seq, len := len, offset := o, args := cm5Data payload, lport := f.lport }] })
    else cm5Launch s k who seq len o (cm5Data payload) f.lport)

/-- RUN frames whose fence action is over start their job. -/
def cm5Waiting (s : State) : State :=
  (List.range 64).foldl (fun s k =>
    match getPart s k with
    | none => s
    | some pt =>
      if actionPending s pt || pt.isolate.isSome then s
      else pt.cm5Wait.foldl (fun s (w : Cm5Run) => cm5Launch s k w.who w.seq w.len w.offset w.args w.lport) (modPart s k (fun q => { q with cm5Wait := [] }))) s

/-- CM5_READ: a word that cannot be read answers INVALID_ARG. -/
def execCm5Read (f : Frame) (udpSrc udpDst : Nat) (payload : List Byte) (s : State) : Out :=
  cm5At 0x03 f udpSrc udpDst payload s (fun s k pt who =>
    let o := beNat (slice payload 12 4)
    let seq := beNat (slice payload 6 2)
    let len := beNat (slice payload 8 2)
    let r := cm5Get s k pt.die o (4 * (len + 1))
    cm5Answer r.1 k f.lport who seq (if r.2.2 then cm5Frame 0x03 seq len stOk o (swapWords r.2.1) else cm5Frame 0x03 seq len stInvalid o []))

/-! ### Fault events and fence actions -/

/-- What a fence action held back goes on: commands, and RUN frames of CM5 frame mode. -/
def afterAction (s : State) : State := if s.ouvosUp then cm5Waiting (startWaiting s) else s

/-- FAULT_EVENT_TAKEN (R300). -/
def execFaultEventTaken (die : Nat) (s : State) : Out := onUnit (dieOk s die) (afterAction (faultEventTaken s die))
/-- REMAP_SETTLED (R306). -/
def execRemapSettled (part : Nat) (s : State) : Out := onUnit (decide (part < 64)) (afterAction (remapSettled s part))
/-- SETTLE_TIMEOUT (R306). -/
def execSettleTimeout (part : Nat) (s : State) : Out := onUnit (decide (part < 64)) (afterAction (settleTimeout s part))
/-- ISOLATE_SUSPECT_REPLAY (R354). -/
def execIsolateSuspectReplay (part : Nat) (s : State) : Out :=
  onUnit (decide (part < 64)) (afterAction (isolateSuspectReplay s part))
/-- ISOLATE_REPLAY_TIMEOUT (R354). -/
def execIsolateReplayTimeout (part : Nat) (s : State) : Out :=
  onUnit (decide (part < 64)) (afterAction (isolateReplayTimeout s part))

/-- FLOCK_ROLL_CALL (R490, R491): of a move, or of an IMAGE_LOAD. -/
def execFlockRollCall (part : Nat) (lacking : List (Nat × Nat)) (s : State) : Out :=
  onUnit (decide (part < 64))
    (match getPart s part with
     | none => s
     | some pt =>
       let r := rollCall s part lacking
       afterAction (if moving pt then moveRollCall s part r else loadRollCall part r))

/-! ### Test access (R508) -/

/-- JTAG_IDCODE: least significant bit first; the version field holds the revision of R401. -/
def execJtagIdcode (s : State) : Out :=
  .next (if s.boot = .unpowered then s
    else { s with jtagOut := true :: (List.range 27).map (fun i => Config.jtagId.getLsbD i) ++ List.replicate 4 false })

/-- JTAG_BYPASS: one bit of delay. -/
def execJtagBypass (bits : List Bool) (s : State) : Out :=
  .next (if s.boot = .unpowered then s else { s with jtagOut := (false :: bits).take bits.length })

/-! ### Register writes (R9, R10) -/

/-- Writable bits of core register `i` of R410. -/
def coreRegBits (i : Nat) : Nat :=
  if i < 16 then 25 else if i < 32 then 36 else if i < 48 then 48 else if i < 64 then 1 else if i < 576 then 32
  else if i < 608 then 59 else if i < 640 then 51 else if i < 704 then 21 else if i < 720 then 28 else if i < 736 then 16
  else if i < 740 then 5 else if i < 804 then 30 else if i < 868 then 9 else if i < 872 then 5 else if i = 872 then 32 else 4

/-- A write to a core register: RW fields take the value, a 1 in a W1C field clears it, reserved bits stay zero. -/
def writeCoreReg (i : Nat) (v : W64) (c : Core) : Core :=
  let lo := if 32 ≤ i ∧ i < 48 then BitVec.ofNat 64 (v.toNat % 2 ^ 48 / 128 * 128) else BitVec.ofNat 64 (v.toNat % 2 ^ coreRegBits i)
  if 64 ≤ i ∧ i < 320 then setCoreReg c i v else setCoreReg c i lo

/-- PN_PORT_ERR: every field is W1C. -/
def clearPortErr (old v : W64) : W64 := old &&& ~~~v

/-- Writable bits of word `i` of a switch (R410). -/
def switchRegBits (spare : Bool) (i : Nat) : Nat :=
  let h := if spare then 17 else 1
  if i = 0 then 29 else if i < h then 14 else if (i - h) % 3 = 0 then 41 else if (i - h) % 3 = 1 then 39 else 29

/-- REGISTER_WRITE, by port: 0 the meter's record port, which changes nothing (R441); 1 the meter's board port, where MTR_FW_WIN
takes the bytes while MTR_CFG_N is low, with a full audit trail too (R462, R466, R507), and every other register has a row of
its own or is RO; 2 the board-management bus, whose registers besides PWR_LIMIT are RO (R506). The management plane's writes are numbered from
0x1000 + PhysCoreID for core registers in the order of R410, with PN_PORT_ERR of input port n at 0x400 + n, and from
0x2000 + PhysCoreID for the words of a switch. -/
def execRegisterWrite (port : Nat) (offset : Nat) (value : W64) (s : State) : Out :=
  if port = 0 ∨ port = 2 then .next s
  else if port = 1 then
    if s.meter.powered ∧ !s.meter.cfgN ∧ 0x80000 ≤ offset ∧ offset + 8 ≤ 0x100000 then
      .next { s with meter := { s.meter with fwWin := writeBytes s.meter.fwWin (offset - 0x80000) (leBytes 8 value.toNat) } }
    else .next s
  else if 0x1000 ≤ port ∧ port < 0x2000 then
    onUnit (coreOk s (port - 0x1000))
      (if offset < coreRegs then modCore s (port - 0x1000) (writeCoreReg offset value)
       else if 0x400 ≤ offset ∧ offset < 0x40D then
         modRouter s (port - 0x1000) (fun r => { r with errs := tset 0 r.errs (offset - 0x400) (clearPortErr (tget 0 r.errs (offset - 0x400)) value) })
       else s)
  else
    onUnit (decide (0x2000 ≤ port) && coreOk s (port - 0x2000))
      (let spare := colIx (port - 0x2000) % 9 == 8
       if offset < (if spare then 17 else 1) + 3 * 4096 then
         modSwitch s (port - 0x2000) (fun w => setSwitchReg w spare offset (BitVec.ofNat 64 (value.toNat % 2 ^ switchRegBits spare offset)))
       else s)

end Sys2Proof.Machine
end

