-- ==== Sys2Proof/Machine/Boot.lean ====
section
/-! DEFINITION. From power-on to service (R341, R356, R357, R359, R469, R480 to R495, R510): the device reset, loss of power, the
ten boot stages and their reports. -/

namespace Sys2Proof.Machine

/-! ### Stage reports (R484, R485) -/

/-- Write a stage report: the register, the boot log of the newest 64, and the in-band interrupt. -/
def stageReport (s : State) (stage status failed count detail : Nat) : State :=
  let r : Report := { stage := stage, status := status, boot := s.flash.boots % 65536,
                      duration := if status = 3 then 0 else (s.fab - s.bootFrom) * 5 / 9000, failed := failed, count := count,
                      detail := detail, time := devNs s / 1000000 }
  let log := s.bootLog ++ [r]
  { s with report := some r, bootLog := log.drop (log.length - 64), ibis := s.ibis ++ [0x80 + stage] }

/-- A stage report as TST_BOOT_REPORT and the boot log hold it for the board (R484). -/
def stageBytes (r : Report) : List Byte :=
  leBytes 1 r.stage ++ leBytes 1 r.status ++ leBytes 2 r.boot ++ leBytes 4 r.duration ++ leBytes 8 r.failed ++ leBytes 4 r.count ++
    leBytes 4 r.detail ++ leBytes 8 r.time

/-- A stage ends: its report, and the next phase. -/
def endStage (s : State) (stage status failed count detail : Nat) (next : BootPhase) : State :=
  { stageReport s stage status failed count detail with boot := next, bootFrom := s.fab }

/-- OK, or DEGRADED when a unit failed or the stage ran over its limit. -/
def okOr (bad : Bool) : Nat := if bad then 1 else 0

/-! ### Device reset and loss of power (R41, R341, R357, R359) -/

/-- Every partition's clusters leave it: its PartID waits before it serves again (R443). -/
def leaveParts (s : State) : Tbl Nat :=
  s.parts.foldl (fun t e => if e.2.isSome then tset 0 t e.1 (s.fab + 1) else t) s.reusable

/-- What a device reset leaves: the always-on domain, the meter, the flash and fuses; everything else as before any boot stage. A
die that R317 holds out of service stays so. -/
def deviceReset (s : State) : State :=
  let dies := s.dies.map (fun e => (e.1, ({ ring := e.2.ring, held := e.2.held, out := e.2.out, snaps := e.2.snaps } : Die)))
  { product := s.product, fab := s.fab, timeBase := s.timeBase, freeSeq := s.freeSeq, bootFull := s.bootFull, report := s.report,
    bootLog := s.bootLog, ibis := s.ibis, i3cAddr := s.i3cAddr, dies := dies, fence := s.fence, cluFence := s.cluFence, shift := s.shift,
    fused := s.fused, soft := s.soft, scree := s.scree, history := s.history, charged := s.charged, dumps := s.dumps, skipped := s.skipped, seqHigh := s.seqHigh,
    seqSeen := s.seqSeen, seqFlash := s.seqFlash, genAt := s.genAt, flash := s.flash, meter := s.meter, refclk := s.refclk,
    tapCount := s.tapCount, hbmMoved := s.hbmMoved, tapTurn := s.tapTurn, temps := s.temps, binAt := s.binAt, trip := s.trip, resetLow := s.resetLow, jtagOut := s.jtagOut, netOut := s.netOut, sent := s.sent,
    stamps := s.stamps, pending := s.pending, reusable := leaveParts s, pwrLimit := s.pwrLimit, pwrRefused := s.pwrRefused, brake := s.brake,
    service := if s.service = 1 ∨ s.service = 2 then s.service else if s.service = 3 then s.outBefore else 0 }

/-- Count one more reset in the records with ascending keys; `fuel` bounds the records and keys together. -/
def bumpResets : Nat → List Nat → Tbl Scree → Tbl Scree
  | 0, _, t => t
  | _ + 1, [], t => t
  | n + 1, k :: ks, [] => (k, { resets := 1 }) :: bumpResets n ks []
  | n + 1, k :: ks, e :: r =>
    if e.1 < k then e :: bumpResets n (k :: ks) r
    else if e.1 = k then (k, { e.2 with resets := sat32 (e.2.resets + 1) }) :: bumpResets n ks r
    else (k, { resets := 1 }) :: bumpResets n ks (e :: r)

/-- The units that a device reset resets, in ascending key: cores, clusters, the device (R336, R341). -/
def resetKeys (s : State) : List Nat :=
  (allCores s).map (screeKey 1) ++ ((List.range 64).filter (fun u => decide (u % 4 < dieCount s.product))).map (screeKey 6) ++ [deviceKey]

def countAllResets (s : State) : State :=
  let ks := resetKeys s
  { s with scree := bumpResets (ks.length + s.scree.length + 1) ks s.scree }

/-- The census of a device reset (R42), of the pools as it reinitialised them (R41). -/
def resetCensus (s : State) : State := censusEnds s { code := 5 } (devNs s) (deviceCensus s)

/-- A device reset takes its census, counts (R336) and is charged to the device; the fourth within 24 hours takes it out of service. -/
def chargeDevice (s : State) : State :=
  let r := chargeReset (countAllResets (resetCensus s)) deviceKey
  if r.2 then { r.1 with service := 1 } else r.1

/-- Start stage 0, or stay in reset while the input is low or a thermal trip holds. -/
def startBoot (s : State) : State :=
  { s with boot := if s.resetLow || s.trip then .held else .stage 0, bootFrom := s.fab }

/-- A device reset from inside: the dump, then the reset and the boot. -/
def resetWithDump (s : State) (cause : Nat) : State :=
  startBoot (chargeDevice (deviceReset (capture s { code := 5, cause := cause, cores := serving s (allCores s) })))

/-- A reset through the board's input, or a thermal trip: no dump. -/
def resetByBoard (s : State) : State := startBoot (chargeDevice (deviceReset s))

/-- Cap after power-on (R476). -/
def limitReset (p : Product) : W64 := if dieCount p = 4 then 1500 else 800

/-- Loss of power (R359): retained SRAM is lost, but not that a die is held out of service until a self-test (R317); flash, fuses, the meter and device time are kept; H resumes above what flash
holds. -/
def losePower (s : State) : State :=
  let t := deviceReset s
  let h := s.flash.seqFloor + 4096
  { t with dies := (s.dies.filter (fun e => e.2.out)).map (fun e => (e.1, ({ out := true } : Die))), fence := [], cluFence := [], shift := [], scree := (bestGeneration s).recs, dumps := [], skipped := 0,
           fused := s.flash.fused, soft := s.flash.soft, charged := s.flash.windows.map (fun e => (e.1, e.2, 0)),
           seqHigh := h, seqSeen := (List.range 1024).map (fun i => h - i), seqFlash := 0, bootLog := s.flash.bootLog, report := none,
           boot := .unpowered, refclk := false, trip := false, temps := [], bootFull := false, pwrLimit := limitReset s.product,
           pwrRefused := false }

/-- POWER_ON (R482): the supplies have been within range for 10 ms and REFCLK is present. -/
def execPowerOn (s : State) : Out :=
  .next (if s.boot = .unpowered then startBoot { s with refclk := true } else s)

/-- POWER_LOSS (R41, R359). -/
def execPowerLoss (s : State) : Out := .next (losePower s)

/-- REFCLK_STOP (R469): as when supplies fail. -/
def execRefclkStop (s : State) : Out := .next (if s.refclk then losePower s else s)

/-- RESET_INPUT_ASSERT (R510). -/
def execResetInputAssert (s : State) : Out :=
  .next (if s.resetLow then s
    else if s.boot = .unpowered then { s with resetLow := true }
    else resetByBoard { s with resetLow := true })

/-- RESET_INPUT_RELEASE (R510). -/
def execResetInputRelease (s : State) : Out :=
  .next (if !s.resetLow then s
    else
      let s1 : State := { s with resetLow := false }
      if s.boot = .held then startBoot s1 else s1)

/-- MANAGEMENT_WATCHDOG_EXPIRY (R356, R357, R483): Ouvos goes down while the data plane runs on; the third within 10 minutes, or one
during a boot stage, resets the device: the one by Ouvos's escalation, the other by the watchdog itself (R341). -/
def execManagementWatchdogExpiry (s : State) : Out :=
  .next (match s.boot with
    | .service =>
      if !s.ouvosUp then s
      else
        let r := chargeReset { s with ouvosUp := false } mgmtKey
        if r.2 then resetWithDump r.1 0xF1 else r.1
    | .stage _ => resetWithDump s 0xF2
    | _ => s)

/-- DEVICE_RESET_BEGIN (R400): 1 ms after the answer; REINSTATE's returns the device to service. -/
def execDeviceResetBegin (s : State) : Out :=
  .next (match s.resetPend with
    | none => s
    | some o => resetWithDump (if o = 1 then { s with service := 0 } else s) 0xF0)

/-- THERMAL_SENSOR_READ (R480): at 112 °C the always-on domain holds the device in reset until every sensor reads below 95 °C. -/
def execThermalSensorRead (sensor temp : Nat) (s : State) : Out :=
  .next (if s.boot = .unpowered then s
    else
      let s1 := readSensor s sensor temp
      if s1.trip then (if allCool s1 then startBoot { s1 with trip := false } else s1)
      else if temp ≥ 112 then resetByBoard { s1 with trip := true }
      else s1)

/-! ### Stages 0 to 3 -/

/-- Run a stage when the device is in it. -/
def inStage (n : Nat) (s : State) (f : State → State) : Out := .next (if s.boot = .stage n then f s else s)

def stage0 (straps : Nat) (bad : Bool) (s0 : State) : State :=
  let s := modScree s0 0x22 0 (fun r => { r with sndRuns := sat32 (r.sndRuns + 1) })
  endStage { s with i3cAddr := 0x50 + straps % 4, flash := { s.flash with boots := s.flash.boots + 1 } } 0 (okOr bad) 0 0 0 (.stage 1)

/-- BOOT_STAGE_0 (R336, R482, R506). -/
def execBootStage0 (straps : Nat) (s : State) : Out := inStage 0 s (stage0 straps false)

/-- A transition cut short is completed, and its record is cleared (R422). -/
def finishTransition (s : State) : State × Option Nat :=
  match s.flash.transition with
  | none => (s, none)
  | some t =>
    let s1 := if lifeCycle s.flash.lc = t then s else transit s t
    ({ s1 with flash := { s1.flash with transition := none } }, if lifeCycle s.flash.lc = t then none else some t)

/-- Spare rows and lanes that the Spoil map uses (R149, R331). -/
def applySpares (s : State) (e : Spoil) : State :=
  if e.kind = 2 ∨ e.kind = 3 then
    let key := screeKey e.kind (if e.kind = 2 then e.unit % 65536 else e.unit % 8192)
    { s with spares := tset 0 s.spares key (tget 0 s.spares key + 1) }
  else if e.kind = 7 then { s with links := tset 0 s.links (e.unit % 8) (tget 0 s.links (e.unit % 8) + 1) }
  else s

/-- The Spoil map is applied: fence tables of every die, spare rows, spare lanes (R303, R319, R486). -/
def applyMap (s : State) : State :=
  let s0 : State := { s with fused := s.flash.fused, soft := s.flash.soft.filter (fun e => !s.flash.fused.any (fun f => f.kind == e.kind && f.unit == e.unit)),
                             spares := [], links := [], halfLinks := [], fence := [], cluFence := [], shift := [] }
  let s1 := (List.range (dieCount s.product)).foldl rebuildDie s0
  (s1.fused ++ s1.soft).foldl applySpares s1

def stage1 (fuseError : Bool) (s : State) : State :=
  let r := finishTransition s
  let scrap := decide (lifeCycle r.1.flash.lc = 4)
  let s0 : State := { r.1 with idKey := classSeed r.1 (identityClass r.1), storageKey := Config.storageKey r.1.flash.idSeed }
  let s1 := if fuseError then s0 else applyMap s0
  endStage s1 1 (if fuseError || scrap then 2 else 0) (orBit r.2.isSome 0 + orBit fuseError 1) s1.fused.length
    (s1.soft.length % 65536 + 65536 * r.2.getD 0) (if scrap then .scrap else if fuseError then .stopped 1 else .stage 2)

/-- BOOT_STAGE_1 (R422, R423, R486). -/
def execBootStage1 (fuseError : Bool) (s : State) : Out := inStage 1 s (stage1 fuseError)

/-- The ROM's choice of a slot: a pending one that has not been tried, else the active one (R427). -/
def chooseSlot (f : Flash) : Flash × Nat :=
  match f.pending with
  | some n => if f.tries = 0 then ({ f with tries := 1 }, n) else ({ f with pending := none }, f.active)
  | none => (f, f.active)

def slotBit (n : Nat) : Nat := 2 ^ n

def stage2 (s : State) : State :=
  let c := chooseSlot s.flash
  let s1 : State := { s with flash := c.1 }
  let n := c.2 % 2
  let boot (k status failed : Nat) : State :=
    endStage { s1 with fw := { slot := k, image := (fwSlot s1 k).take (fwLength (fwSlot s1 k)) } } 2 status failed 0 k (.stage 3)
  if imageOk s1 (fwSlot s1 n) then boot n 0 0
  else if imageOk s1 (fwSlot s1 (1 - n)) then boot (1 - n) 4 (slotBit n)
  else endStage s1 2 2 3 0 n (.stopped 2)

/-- BOOT_STAGE_2 (R425, R427). -/
def execBootStage2 (s : State) : Out := inStage 2 s stage2

def stage3 (answered bad : Bool) (s : State) : State :=
  let st := (mtrStatus s).toNat
  if answered && s.meter.powered then
    let f := st / 256 % 256 + orBit (!s.meter.selfOk) 8 + orBit (sealState s == 2) 9 + orBit s.meter.clkFault 10
    endStage s 3 (okOr (bad || f != 0)) f 0 (st % 65536) (.stage 4)
  else endStage { s with meterUnread := true } 3 1 (2 ^ 11) 0 0 (.stage 4)

/-- BOOT_STAGE_3 (R467). -/
def execBootStage3 (answered : Bool) (s : State) : Out := inStage 3 s (stage3 answered false)

/-! ### Stages 4 and 5 -/

def stage4 (badLanes : List (Nat × Nat)) (bad : Bool) (s : State) : State :=
  let s1 := badLanes.foldl (fun s e =>
    if (linksOf s).contains e.1 && decide (e.2 < linkLanes e.1 + spareLanes e.1) then failLane s (e.1 + 8 * e.2) 0x10 else s) s
  let s2 := (linksOf s1).foldl linkCheck s1
  let f := ((linksOf s2).map (fun l =>
    orBit (decide (tget 0 s2.links l > spareLanes l + linkLanes l / 2)) l + orBit (s2.halfLinks.contains l) (8 + l))).sum
  let used := ((linksOf s2).map (fun l => min (tget 0 s2.links l) (spareLanes l))).sum
  endStage s2 4 (okOr (bad || f != 0)) f used 0 (.stage 5)

/-- BOOT_STAGE_4 (R331, R488): lanes that fail training, by link and lane. -/
def execBootStage4 (badLanes : List (Nat × Nat)) (s : State) : Out := inStage 4 s (stage4 badLanes false)

/-- A DIMM as its SPD shows it: channel, module kind (0 = ECC RDIMM), GiB, code of rank count and device width, speeds declared
(bit 0 DDR5-4800, bit 1 5600, bit 2 6400). -/
abbrev Dimm := Nat × Nat × Nat × Nat × Nat

/-- Channels that break R242, against the population of channel 0. -/
def badChannels (dimms : List Dimm) (failed : Nat) : Nat :=
  let on (c : Nat) : List Dimm := dimms.filter (fun d => d.1 == c)
  let n := (on 0).length
  let first := (on 0).head?
  bitsOf 12 (fun c =>
    failed.testBit c || decide ((on c).length ≠ n ∨ n < 1 ∨ n > 2) ||
    (on c).any (fun d => decide (d.2.1 ≠ 0) || !([32, 64, 128].contains d.2.2.1) ||
      (match first with | none => true | some e => decide (d.2.2.1 ≠ e.2.2.1 ∨ d.2.2.2.1 ≠ e.2.2.2.1))))

/-- The highest speed of R243 that the population allows: its code in R401, 0 for none. -/
def ddrSpeedOf (dimms : List Dimm) (perChannel : Nat) : Nat :=
  let all (b : Nat) : Bool := dimms.all (fun d => d.2.2.2.2.testBit b)
  if perChannel = 1 ∧ all 2 then 3 else if all 1 then 2 else if all 0 then 1 else 0

/-- Retired units and repaired rows of a tier that the Spoil map names (R256, R257). -/
def tierFromMap (s : State) (t : Nat) (v : Tier) : Tier :=
  let l := s.fused ++ s.soft
  { v with retired := (l.filter (fun e => e.kind == 0x0A && e.unit % 2 == t)).map (fun e => e.unit / 2),
           repaired := (l.filter (fun e => e.kind == 8 + t)).map (·.unit) }

def stage5 (failedStacks failedChannels : Nat) (dimms : List Dimm) (bad : Bool) (s : State) : State :=
  let stackSet := failedStacks % 2 ^ (2 * dieCount s.product)
  let broken := badChannels dimms failedChannels
  let n := (dimms.filter (fun d => d.1 == 0)).length
  let speed := if broken = 0 then ddrSpeedOf dimms n else 0
  let chans := if broken = 0 ∧ speed = 0 then 0xFFF else broken
  let s1 : State := { s with hbm := tierFromMap s 0 { present := true }, ddr := tierFromMap s 1 { present := chans == 0 },
                             ddrSpeed := speed, ddrDimms := if chans = 0 then n else 0,
                             ddrGib := if chans = 0 then ((dimms.head?).map (·.2.2.1)).getD 0 else 0 }
  let s2 := ((List.range (dieCount s.product)).filter (fun d => decide (stackSet / 4 ^ d % 4 ≠ 0))).foldl dieOut s1
  let f := stackSet + 256 * chans
  endStage s2 5 (okOr (bad || f != 0)) f (s2.hbm.retired.length + s2.ddr.retired.length)
    (s2.ddrSpeed + 256 * s2.ddrDimms + 65536 * s2.ddrGib) (.stage 6)

/-- BOOT_STAGE_5 (R242, R243, R256, R257, R488). -/
def execBootStage5 (failedStacks failedChannels : Nat) (dimms : List (Nat × Nat × Nat × Nat × Nat)) (s : State) : Out :=
  inStage 5 s (stage5 failedStacks failedChannels dimms false)

/-! ### Stages 6 and 7 -/

/-- Run the slices that are left (R333); a failing unit belongs to the first of them that covers it. -/
def runPlan (s : State) (failed : List (Nat × Nat × Nat × Nat)) : State :=
  ((slicesLeft s.flash).foldl (fun (a : State × List (Nat × Nat × Nat × Nat)) i =>
    let t := (a.1.flash.plan[i]?).getD (0, 0, 0)
    let mine := a.2.filter (fun r => covers a.1 t r.1 r.2.1)
    ((planStep a.1 (mine.map (fun r => (r.1, 1, r.2.1, r.2.2.1, r.2.2.2)))).1, a.2.filter (fun r => !covers a.1 t r.1 r.2.1))) (s, failed)).1

/-- The quick check of R487: a core that fails its slice twice. -/
def quickCheck (s : State) (failed : List (Nat × Nat × Nat × Nat)) : State :=
  failed.foldl (fun s r =>
    if r.1 = 1 ∧ coreOk s (r.2.1 % 4096) then
      permanentCore (modScree s 1 (r.2.1 % 4096) (fun x => { x with sndFail := sat32 (x.sndFail + 1) })) (r.2.1 % 4096) 0x8C true
    else s) s

/-- Cores in a fenced state. -/
def coresFenced (s : State) : Nat := ((allCores s).filter (fun p => decide (fenceState s p ≥ 4))).length

/-- Failed clusters, by number of slot 16d + i. -/
def clustersFailed (s : State) : Nat := bitsOf 64 (fun c => cluOk s c && cluState s c == 3)

/-- Bring every cluster that has not failed to a power state, at the nominal grant and without pacing (R471, R473); a failed
cluster is OFF (R470). -/
def powerAll (s : State) (mode : Nat) : State :=
  (allClusters s).foldl (fun s c => modPow s c (fun w =>
    if cluState s c = 3 then { w with mode := 3 } else { w with mode := mode, grant := 60, target := 60, pacing := 16, own := 60 })) s

/-- The microcode as Flock-load chunks for every core (R492). -/
def microPieces (s : State) : List Piece := chunksOf 0 0 0 0 (fwUcode s.fw.image)

def stage6 (failed : List (Nat × Nat × Nat × Nat)) (bad : Bool) (s : State) : State :=
  let before := coresFenced s
  let left := s.flash.plan != [] && !(slicesLeft s.flash).isEmpty
  let full := s.bootFull || !(left || planStands s.flash)
  let r : State × Nat :=
    if full then
      (clearDies (runPlan (newPlan { s with bootFull := false }) failed), 2)
    else if left then (clearDies (runPlan s failed), 1)
    else (quickCheck s failed, 0)
  let s1 := (allClusters r.1).foldl wipeCluster r.1
  let s2 := powerAll s1 0
  let n := coresFenced s2 - before
  let s3 := endStage s2 6 (okOr (bad || clustersFailed s2 != 0 || n != 0)) (clustersFailed s2) n r.2 (.stage 7)
  { broadcast s3 0 (List.range (dieCount s.product)) (microPieces s3) with loadMode := true }

/-- BOOT_STAGE_6 (R151, R334, R487): failing units as unit kind, unit, address, bit. The microcode's Flock load then starts. -/
def execBootStage6 (failed : List (Nat × Nat × Nat × Nat)) (s : State) : Out := inStage 6 s (stage6 failed false)

/-- A core that lacks chunks after the third round raises event 0x8E and is fenced by table writes (R491); without a spare its cluster fails. -/
def lackingCore (s : State) (p n : Nat) : State :=
  let rec_ := flockRecord s 64 p n
  let s1 := permanentVerdict (chargeUnit (flockEvent s none p n) 1 p 0x8E 1) 1 p
  if fenceState s p ≥ 4 then s1
  else if p - segBase (segOfPhys p) = 8 ∧ shiftOf s (segOfPhys p) = 0 then fenceCore s1 p 0x8E rec_
  else if spareFree s (segOfPhys p) then afterRemap (tableRemap s1 p 4 0x8E) p 4 0x8E rec_
  else failCluster (fenceCore s1 p 0x8E rec_) (cluOfPhys p) 0x8E

def stage7 (missing : List (Nat × Nat)) (bad : Bool) (s : State) : State :=
  let u := fwUcode s.fw.image
  let got := (allCores s).filter (fun p => !(missing.map (·.1)).contains p)
  let s1 := got.foldl (fun s p => modCore s p (fun c => { c with micro := writeBytes [] 0 u, microcode := true, chunk := none, chunksHeld := [] })) s
  let before := coresFenced s1
  let s2 := (missing.filter (fun e => coreOk s e.1)).foldl (fun s e => lackingCore s e.1 e.2) s1
  let n := coresFenced s2 - before
  let s3 := powerAll s2 3
  endStage { useFree s3 with switches := [], routers := [], ends := [], loadMode := false } 7 (okOr (bad || n != 0)) (clustersFailed s3) n
    (if missing = [] then Config.freeValue s3.freeSeq 0 % 4 else 3) (.stage 8)

/-- BOOT_STAGE_7 (R491, R492): the load ends; cores that lack chunks, with how many. Without any, the repair rounds that the load took are a
free value: no row of the table brings them. -/
def execBootStage7 (missing : List (Nat × Nat)) (s : State) : Out := inStage 7 s (stage7 missing false)

/-! ### Stages 8 and 9 -/

/-- The default entry of a logical port (R494); how MAC and link-local address follow from the serial number is left open. -/
def defaultEntry (s : State) (l : Nat) : AddrEntry :=
  let m := Config.freeValue s.freeSeq l
  { flags := 5, pd := 3, pc := 6, vlan := 0, mac := m % 2 ^ 40 + 2 ^ 41 * (m / 2 ^ 40 % 128),
    ip6 := 0xFE80 * 2 ^ 112 + Config.freeValue s.freeSeq (8 + l) % 2 ^ 64 }

def stage8 (up : Nat) (bad : Bool) (s : State) : State :=
  let s0 : State := { s with portMode := s.flash.portModes, ptpPort := s.flash.ptp, ptpHeard := s.fab }
  let s1 := ((List.range 8).filter (lportExists s0)).foldl (fun s l =>
    let e := (tget none s.flash.devEntries l).getD (defaultEntry s l)
    modLport s l (fun p => { p with up := up.testBit l, entries := tset none p.entries 0 (some e) })) s0
  let f := bitsOf 8 (fun l => lportExists s1 l && !up.testBit l)
  endStage (useFree s1) 8 (okOr (bad || f != 0)) f 0 0 (.stage 9)

/-- BOOT_STAGE_8 (R494): bit s of `up` says that logical port s has come up. -/
def execBootStage8 (up : Nat) (s : State) : Out := inStage 8 s (stage8 up false)

/-- A trial image that reaches stage 9 commits; the counters rise to the versions that run (R428). -/
def commitTrial (s : State) : Flash :=
  let f := s.flash
  let g := if f.pending = some s.fw.slot ∧ f.tries = 1 then { f with active := s.fw.slot, pending := none, tries := 0 } else f
  { g with rbOuvos := max g.rbOuvos (numAt s.fw.image 8 1), rbUcode := max g.rbUcode (numAt s.fw.image 9 1) }

/-- Device resets within the last 24 hours. -/
def deviceResets (s : State) : Nat :=
  (s.charged.filter (fun e => e.1 == deviceKey && decide (devNs s < e.2.1 + 86400 * 10 ^ 9))).length

def stage9 (bad : Bool) (s : State) : State :=
  let svc := if deviceResets s ≥ 4 then 1 else s.service
  let s1 := endStage { s with flash := commitTrial s, service := svc, ouvosUp := true } 9 (okOr bad) 0 0 svc .service
  { s1 with flash := { s1.flash with bootLog := s1.bootLog, windows := s1.charged.map (fun e => (e.1, e.2.1)) } }

/-- BOOT_STAGE_9 (R428, R495). -/
def execBootStage9 (s : State) : Out := inStage 9 s (stage9 false)

/-! ### Overruns and waiting (R483) -/

/-- STAGE_OVERRUN: the stage ends as if it had failed: stages 1 and 2 stop the boot, stage 3 has no answer, the others end with
what they have. -/
def execStageOverrun (s : State) : Out :=
  .next (match s.boot with
    | .stage 0 => stage0 (s.i3cAddr - 0x50) true s
    | .stage 1 => endStage s 1 2 2 0 0 (.stopped 1)
    | .stage 2 => endStage s 2 2 3 0 (s.flash.active % 2) (.stopped 2)
    | .stage 3 => stage3 false true s
    | .stage 4 => stage4 [] true s
    | .stage 5 => stage5 0 0xFFF [] true s
    | .stage 6 => stage6 [] true s
    | .stage 7 => stage7 [] true s
    | .stage 8 => stage8 0 true s
    | .stage 9 => stage9 true s
    | _ => s)

/-- STAGE_WAITING_REPORT: a stage waits for a supply; in the stop of stage 2 the FAILED report is repeated (R427, R485). -/
def execStageWaitingReport (s : State) : Out :=
  .next (match s.boot with
    | .stage n => stageReport s n 3 0 0 0
    | .stopped 2 =>
      match s.report with
      | some r => stageReport s 2 2 r.failed r.count r.detail
      | none => s
    | _ => s)

/-! ### Time -/

/-- One fabric cycle of the device in which no command waits (R469): the cycle counter, what the Goose looks at (R239), events and
frames that nothing holds any longer, and the counts of the last whole millisecond (R435). -/
def tick (s : State) : State :=
  let s1 : State := { s with fab := s.fab + 1 }
  let s2 := (List.range 64).foldl (fun s p => match getPart s p with
    | none => s
    | some pt => setPart s p (some (gooseLook s pt))) s1
  let s3 := (qpsWhere s2 (fun v => v.mbx && !v.events.isEmpty)).foldl flushEvents s2
  let s4 := (List.range 8).foldl (fun s l => let s1 := rxDrain s l; if txWaits s1 l then releaseTx s1 l else s1) s3
  passMs s (afterAction s4)

end Sys2Proof.Machine
end

