-- ==== Sys2Proof/Machine/Dispatch.lean ====
section
/-! DEFINITION. One arm per command of the opcode table: a direct call of its meaning. -/

namespace Sys2Proof.Machine

def exec (i : Instr) (s : State) : Host.Outcome State Fault Refusal :=
  match i with
  | .halt core thread => Sys2Proof.Machine.execHalt core thread s
  | .nop core thread => Sys2Proof.Machine.execNop core thread s
  | .replay core thread => Sys2Proof.Machine.execReplay core thread s
  | .illegalOpcode core thread => Sys2Proof.Machine.execIllegalOpcode core thread s
  | .issueTe core thread => Sys2Proof.Machine.execIssueTe core thread s
  | .issueVe core thread => Sys2Proof.Machine.execIssueVe core thread s
  | .issueDma core thread => Sys2Proof.Machine.execIssueDma core thread s
  | .issueSend core thread => Sys2Proof.Machine.execIssueSend core thread s
  | .issueRecv core thread => Sys2Proof.Machine.execIssueRecv core thread s
  | .syncSet core thread => Sys2Proof.Machine.execSyncSet core thread s
  | .syncAdd core thread => Sys2Proof.Machine.execSyncAdd core thread s
  | .syncSub core thread => Sys2Proof.Machine.execSyncSub core thread s
  | .syncAddRemote core thread => Sys2Proof.Machine.execSyncAddRemote core thread s
  | .waitGe core thread => Sys2Proof.Machine.execWaitGe core thread s
  | .waitEq core thread => Sys2Proof.Machine.execWaitEq core thread s
  | .waitTake core thread => Sys2Proof.Machine.execWaitTake core thread s
  | .loop core thread => Sys2Proof.Machine.execLoop core thread s
  | .loopEnd core thread => Sys2Proof.Machine.execLoopEnd core thread s
  | .branch core thread => Sys2Proof.Machine.execBranch core thread s
  | .jump core thread => Sys2Proof.Machine.execJump core thread s
  | .call core thread => Sys2Proof.Machine.execCall core thread s
  | .ret core thread => Sys2Proof.Machine.execRet core thread s
  | .commandFetch core thread => Sys2Proof.Machine.execCommandFetch core thread s
  | .agePromotion core thread => Sys2Proof.Machine.execAgePromotion core thread s
  | .waitSatisfied core thread => Sys2Proof.Machine.execWaitSatisfied core thread s
  | .waitWatchdog core thread => Sys2Proof.Machine.execWaitWatchdog core thread s
  | .remoteSyncTimeout core tag => Sys2Proof.Machine.execRemoteSyncTimeout core tag s
  | .heldRecordEntersRing die => Sys2Proof.Machine.execHeldRecordEntersRing die s
  | .matmul core => Sys2Proof.Machine.execMatmul core s
  | .teDrain core => Sys2Proof.Machine.execTeDrain core s
  | .teClear core => Sys2Proof.Machine.execTeClear core s
  | .teBlockLoad core => Sys2Proof.Machine.execTeBlockLoad core s
  | .teKblockStep core => Sys2Proof.Machine.execTeKblockStep core s
  | .teOpComplete core => Sys2Proof.Machine.execTeOpComplete core s
  | .add core => Sys2Proof.Machine.execAdd core s
  | .sub core => Sys2Proof.Machine.execSub core s
  | .mul core => Sys2Proof.Machine.execMul core s
  | .fma core => Sys2Proof.Machine.execFma core s
  | .max core => Sys2Proof.Machine.execMax core s
  | .min core => Sys2Proof.Machine.execMin core s
  | .div core => Sys2Proof.Machine.execDiv core s
  | .sqrt core => Sys2Proof.Machine.execSqrt core s
  | .rsqrt core => Sys2Proof.Machine.execRsqrt core s
  | .f2i core => Sys2Proof.Machine.execF2i core s
  | .i2f core => Sys2Proof.Machine.execI2f core s
  | .iadd core => Sys2Proof.Machine.execIadd core s
  | .isub core => Sys2Proof.Machine.execIsub core s
  | .imul core => Sys2Proof.Machine.execImul core s
  | .imax core => Sys2Proof.Machine.execImax core s
  | .imin core => Sys2Proof.Machine.execImin core s
  | .shl core => Sys2Proof.Machine.execShl core s
  | .shra core => Sys2Proof.Machine.execShra core s
  | .and core => Sys2Proof.Machine.execAnd core s
  | .or core => Sys2Proof.Machine.execOr core s
  | .xor core => Sys2Proof.Machine.execXor core s
  | .exp core => Sys2Proof.Machine.execExp core s
  | .exp2 core => Sys2Proof.Machine.execExp2 core s
  | .log core => Sys2Proof.Machine.execLog core s
  | .tanh core => Sys2Proof.Machine.execTanh core s
  | .sigmoid core => Sys2Proof.Machine.execSigmoid core s
  | .silu core => Sys2Proof.Machine.execSilu core s
  | .gelu core => Sys2Proof.Machine.execGelu core s
  | .sin core => Sys2Proof.Machine.execSin core s
  | .cos core => Sys2Proof.Machine.execCos core s
  | .rsum core => Sys2Proof.Machine.execRsum core s
  | .rmax core => Sys2Proof.Machine.execRmax core s
  | .rmin core => Sys2Proof.Machine.execRmin core s
  | .rsumsq core => Sys2Proof.Machine.execRsumsq core s
  | .rdot core => Sys2Proof.Machine.execRdot core s
  | .lnorm core => Sys2Proof.Machine.execLnorm core s
  | .rmsnorm core => Sys2Proof.Machine.execRmsnorm core s
  | .quant core => Sys2Proof.Machine.execQuant core s
  | .dequant core => Sys2Proof.Machine.execDequant core s
  | .cmp core => Sys2Proof.Machine.execCmp core s
  | .select core => Sys2Proof.Machine.execSelect core s
  | .veGather core => Sys2Proof.Machine.execVeGather core s
  | .veScatter core => Sys2Proof.Machine.execVeScatter core s
  | .scatterAdd core => Sys2Proof.Machine.execScatterAdd core s
  | .gfmul core => Sys2Proof.Machine.execGfmul core s
  | .gfmac core => Sys2Proof.Machine.execGfmac core s
  | .smaxStep core => Sys2Proof.Machine.execSmaxStep core s
  | .smaxFinal core => Sys2Proof.Machine.execSmaxFinal core s
  | .rope core => Sys2Proof.Machine.execRope core s
  | .angle core => Sys2Proof.Machine.execAngle core s
  | .veOpComplete core => Sys2Proof.Machine.execVeOpComplete core s
  | .dmaCopy core => Sys2Proof.Machine.execDmaCopy core s
  | .dmaGather core => Sys2Proof.Machine.execDmaGather core s
  | .dmaScatter core => Sys2Proof.Machine.execDmaScatter core s
  | .dmaPattern core => Sys2Proof.Machine.execDmaPattern core s
  | .dmaCreditTake core tag => Sys2Proof.Machine.execDmaCreditTake core tag s
  | .patternChunk core tag => Sys2Proof.Machine.execPatternChunk core tag s
  | .dmaOpComplete core tag => Sys2Proof.Machine.execDmaOpComplete core tag s
  | .dmaTransferTimeout core tag xfer => Sys2Proof.Machine.execDmaTransferTimeout core tag xfer s
  | .dmaTagHoldExpiry core tag => Sys2Proof.Machine.execDmaTagHoldExpiry core tag s
  | .write pos => Sys2Proof.Machine.execWrite pos s
  | .writeIndexed pos => Sys2Proof.Machine.execWriteIndexed pos s
  | .readReq pos => Sys2Proof.Machine.execReadReq pos s
  | .readReply pos => Sys2Proof.Machine.execReadReply pos s
  | .writeAck pos => Sys2Proof.Machine.execWriteAck pos s
  | .endpointTransferTimeout pos src reply => Sys2Proof.Machine.execEndpointTransferTimeout pos src reply s
  | .syncRaise pos => Sys2Proof.Machine.execSyncRaise pos s
  | .syncAck pos => Sys2Proof.Machine.execSyncAck pos s
  | .pnCellHop router out flip => Sys2Proof.Machine.execPnCellHop router out flip s
  | .bcast router => Sys2Proof.Machine.execBcast router s
  | .sendOperation core => Sys2Proof.Machine.execSendOperation core s
  | .receiveOperation core => Sys2Proof.Machine.execReceiveOperation core s
  | .receiveTakesRecord core chan => Sys2Proof.Machine.execReceiveTakesRecord core chan s
  | .msgFirst pos => Sys2Proof.Machine.execMsgFirst pos s
  | .msgNext pos => Sys2Proof.Machine.execMsgNext pos s
  | .msgAck pos => Sys2Proof.Machine.execMsgAck pos s
  | .msgNack pos => Sys2Proof.Machine.execMsgNack pos s
  | .msgAckTimeout core chan => Sys2Proof.Machine.execMsgAckTimeout core chan s
  | .msgRetryBackoff core chan => Sys2Proof.Machine.execMsgRetryBackoff core chan s
  | .reservationTimeout core chan res => Sys2Proof.Machine.execReservationTimeout core chan res s
  | .vnSwitchSlot part faults => Sys2Proof.Machine.execVnSwitchSlot part faults s
  | .adderFire switch => Sys2Proof.Machine.execAdderFire switch s
  | .steeringMove core unit => Sys2Proof.Machine.execSteeringMove core unit s
  | .snReturnWord switch kind idx => Sys2Proof.Machine.execSnReturnWord switch kind idx s
  | .sliceContextHeader switch ctx => Sys2Proof.Machine.execSliceContextHeader switch ctx s
  | .reduce die => Sys2Proof.Machine.execReduce die s
  | .deviceTotal tag tile => Sys2Proof.Machine.execDeviceTotal tag tile s
  | .bucketStartWord part tag => Sys2Proof.Machine.execBucketStartWord part tag s
  | .bucketRearm tag => Sys2Proof.Machine.execBucketRearm tag s
  | .bucketRoundTimeout tag => Sys2Proof.Machine.execBucketRoundTimeout tag s
  | .updateStartWord part group => Sys2Proof.Machine.execUpdateStartWord part group s
  | .updateGroupStart die => Sys2Proof.Machine.execUpdateGroupStart die s
  | .updatePass1End die => Sys2Proof.Machine.execUpdatePass1End die s
  | .updateResumeWord part group => Sys2Proof.Machine.execUpdateResumeWord part group s
  | .updateGroupEnd die => Sys2Proof.Machine.execUpdateGroupEnd die s
  | .faultEventTaken die => Sys2Proof.Machine.execFaultEventTaken die s
  | .remapSettled part => Sys2Proof.Machine.execRemapSettled part s
  | .settleTimeout part => Sys2Proof.Machine.execSettleTimeout part s
  | .coreFenceState core state reason => Sys2Proof.Machine.execCoreFenceState core state reason s
  | .coreFreeze core frozen => Sys2Proof.Machine.execCoreFreeze core frozen s
  | .coreHold core hold => Sys2Proof.Machine.execCoreHold core hold s
  | .clusterFenceState cluster state part => Sys2Proof.Machine.execClusterFenceState cluster state part s
  | .vnShiftWrite seg value => Sys2Proof.Machine.execVnShiftWrite seg value s
  | .soundingSweepTick => Sys2Proof.Machine.execSoundingSweepTick s
  | .soundingSlice core pass addr bit => Sys2Proof.Machine.execSoundingSlice core pass addr bit s
  | .isolateSuspectReplay part => Sys2Proof.Machine.execIsolateSuspectReplay part s
  | .isolateReplayTimeout part => Sys2Proof.Machine.execIsolateReplayTimeout part s
  | .gooseDeadlock part => Sys2Proof.Machine.execGooseDeadlock part s
  | .lendFlagSet cluster => Sys2Proof.Machine.execLendFlagSet cluster s
  | .grantChangeDone cluster => Sys2Proof.Machine.execGrantChangeDone cluster s
  | .powerBudgetTick estimate => Sys2Proof.Machine.execPowerBudgetTick estimate s
  | .thermalSensorRead sensor temp => Sys2Proof.Machine.execThermalSensorRead sensor temp s
  | .voltageClamp a b va vb => Sys2Proof.Machine.execVoltageClamp a b va vb s
  | .clusterIdleEntry cluster => Sys2Proof.Machine.execClusterIdleEntry cluster s
  | .clusterWake cluster => Sys2Proof.Machine.execClusterWake cluster s
  | .pwrLimitWrite value => Sys2Proof.Machine.execPwrLimitWrite value s
  | .pwrBrakeAssert => Sys2Proof.Machine.execPwrBrakeAssert s
  | .pwrBrakeRelease => Sys2Proof.Machine.execPwrBrakeRelease s
  | .refclkStop => Sys2Proof.Machine.execRefclkStop s
  | .powerOn => Sys2Proof.Machine.execPowerOn s
  | .powerLoss => Sys2Proof.Machine.execPowerLoss s
  | .resetInputAssert => Sys2Proof.Machine.execResetInputAssert s
  | .resetInputRelease => Sys2Proof.Machine.execResetInputRelease s
  | .managementWatchdogExpiry => Sys2Proof.Machine.execManagementWatchdogExpiry s
  | .bootStage0 straps => Sys2Proof.Machine.execBootStage0 straps s
  | .bootStage1 fuseError => Sys2Proof.Machine.execBootStage1 fuseError s
  | .bootStage2 => Sys2Proof.Machine.execBootStage2 s
  | .bootStage3 answered => Sys2Proof.Machine.execBootStage3 answered s
  | .bootStage4 badLanes => Sys2Proof.Machine.execBootStage4 badLanes s
  | .bootStage5 failedStacks failedChannels dimms => Sys2Proof.Machine.execBootStage5 failedStacks failedChannels dimms s
  | .bootStage6 failed => Sys2Proof.Machine.execBootStage6 failed s
  | .bootStage7 missing => Sys2Proof.Machine.execBootStage7 missing s
  | .bootStage8 up => Sys2Proof.Machine.execBootStage8 up s
  | .bootStage9 => Sys2Proof.Machine.execBootStage9 s
  | .stageOverrun => Sys2Proof.Machine.execStageOverrun s
  | .stageWaitingReport => Sys2Proof.Machine.execStageWaitingReport s
  | .flockRollCall part lacking => Sys2Proof.Machine.execFlockRollCall part lacking s
  | .flockRollCallTimeout part target => Sys2Proof.Machine.execFlockRollCallTimeout part target s
  | .selftestSlice results => Sys2Proof.Machine.execSelftestSlice results s
  | .screeBinTick temps volts => Sys2Proof.Machine.execScreeBinTick temps volts s
  | .screeGenerationWrite => Sys2Proof.Machine.execScreeGenerationWrite s
  | .dumpCopy slot => Sys2Proof.Machine.execDumpCopy slot s
  | .dramRefresh tier unit calOk => Sys2Proof.Machine.execDramRefresh tier unit calOk s
  | .deviceStatus m => Sys2Proof.Machine.execDeviceStatus m s
  | .subscribe m => Sys2Proof.Machine.execSubscribe m s
  | .portMode m => Sys2Proof.Machine.execPortMode m s
  | .addrSet m => Sys2Proof.Machine.execAddrSet m s
  | .ptpSet m => Sys2Proof.Machine.execPtpSet m s
  | .reinstate m => Sys2Proof.Machine.execReinstate m s
  | .dieReset m => Sys2Proof.Machine.execDieReset m s
  | .deviceReset m => Sys2Proof.Machine.execDeviceReset m s
  | .shutdown m => Sys2Proof.Machine.execShutdown m s
  | .partCreate m => Sys2Proof.Machine.execPartCreate m s
  | .partDelete m => Sys2Proof.Machine.execPartDelete m s
  | .partReserve m => Sys2Proof.Machine.execPartReserve m s
  | .partWindows m => Sys2Proof.Machine.execPartWindows m s
  | .partMemory m => Sys2Proof.Machine.execPartMemory m s
  | .partRekey m => Sys2Proof.Machine.execPartRekey m s
  | .mbxBind m => Sys2Proof.Machine.execMbxBind m s
  | .mbxUnbind m => Sys2Proof.Machine.execMbxUnbind m s
  | .partCm5 m => Sys2Proof.Machine.execPartCm5 m s
  | .partGoose m => Sys2Proof.Machine.execPartGoose m s
  | .partReset m => Sys2Proof.Machine.execPartReset m s
  | .partStatus m => Sys2Proof.Machine.execPartStatus m s
  | .imageLoad m => Sys2Proof.Machine.execImageLoad m s
  | .jobStart m => Sys2Proof.Machine.execJobStart m s
  | .jobAbort m => Sys2Proof.Machine.execJobAbort m s
  | .jobRestart m => Sys2Proof.Machine.execJobRestart m s
  | .jobStatus m => Sys2Proof.Machine.execJobStatus m s
  | .bucketOpen m => Sys2Proof.Machine.execBucketOpen m s
  | .bucketClose m => Sys2Proof.Machine.execBucketClose m s
  | .bucketQuery m => Sys2Proof.Machine.execBucketQuery m s
  | .peerTable m => Sys2Proof.Machine.execPeerTable m s
  | .regionRegister m => Sys2Proof.Machine.execRegionRegister m s
  | .regionDeregister m => Sys2Proof.Machine.execRegionDeregister m s
  | .qpCreate m => Sys2Proof.Machine.execQpCreate m s
  | .qpDestroy m => Sys2Proof.Machine.execQpDestroy m s
  | .recvPost m => Sys2Proof.Machine.execRecvPost m s
  | .memWrite m => Sys2Proof.Machine.execMemWrite m s
  | .memRead m => Sys2Proof.Machine.execMemRead m s
  | .countersRead m => Sys2Proof.Machine.execCountersRead m s
  | .coreStateRead m => Sys2Proof.Machine.execCoreStateRead m s
  | .screeRead m => Sys2Proof.Machine.execScreeRead m s
  | .dumpRead m => Sys2Proof.Machine.execDumpRead m s
  | .spoilRead m => Sys2Proof.Machine.execSpoilRead m s
  | .soundingCfg m => Sys2Proof.Machine.execSoundingCfg m s
  | .attest m => Sys2Proof.Machine.execAttest m s
  | .identityRead m => Sys2Proof.Machine.execIdentityRead m s
  | .macsecSa m => Sys2Proof.Machine.execMacsecSa m s
  | .stewardKeySet m => Sys2Proof.Machine.execStewardKeySet m s
  | .fwUpdate m => Sys2Proof.Machine.execFwUpdate m s
  | .fwActivate m => Sys2Proof.Machine.execFwActivate m s
  | .lifecycle m => Sys2Proof.Machine.execLifecycle m s
  | .meterRecords m => Sys2Proof.Machine.execMeterRecords m s
  | .meterAudit m => Sys2Proof.Machine.execMeterAudit m s
  | .meterIdentity m => Sys2Proof.Machine.execMeterIdentity m s
  | .commandTimeout qpn tag => Sys2Proof.Machine.execCommandTimeout qpn tag s
  | .cmConnectRequest lport remoteIp remoteQpn mtu retry rnr timeout => Sys2Proof.Machine.execCmConnectRequest lport remoteIp remoteQpn mtu retry rnr timeout s
  | .arpRequest f target => Sys2Proof.Machine.execArpRequest f target s
  | .neighbourSolicitation f target => Sys2Proof.Machine.execNeighbourSolicitation f target s
  | .icmpEchoRequest f data => Sys2Proof.Machine.execIcmpEchoRequest f data s
  | .neighbourEntryAgeing ip => Sys2Proof.Machine.execNeighbourEntryAgeing ip s
  | .pfcFrame lport enable quanta => Sys2Proof.Machine.execPfcFrame lport enable quanta s
  | .pfcPauseHeld lport prio => Sys2Proof.Machine.execPfcPauseHeld lport prio s
  | .ptpEventMessage f seqId ingress => Sys2Proof.Machine.execPtpEventMessage f seqId ingress s
  | .ptpMasterTimeout => Sys2Proof.Machine.execPtpMasterTimeout s
  | .roceSend p data => Sys2Proof.Machine.execRoceSend p data s
  | .rdmaWrite p rkey addr data => Sys2Proof.Machine.execRdmaWrite p rkey addr data s
  | .rdmaWriteWithImmediate p rkey addr imm data => Sys2Proof.Machine.execRdmaWriteWithImmediate p rkey addr imm data s
  | .rdmaRead p rkey addr len => Sys2Proof.Machine.execRdmaRead p rkey addr len s
  | .digestList p data => Sys2Proof.Machine.execDigestList p data s
  | .rdmaAck p syndrome => Sys2Proof.Machine.execRdmaAck p syndrome s
  | .localAckTimeout qpn => Sys2Proof.Machine.execLocalAckTimeout qpn s
  | .rnrRetryTimer qpn => Sys2Proof.Machine.execRnrRetryTimer qpn s
  | .cnp qpn => Sys2Proof.Machine.execCnp qpn s
  | .cnpRateTimer qpn => Sys2Proof.Machine.execCnpRateTimer qpn s
  | .cm5Load f udpSrc udpDst payload => Sys2Proof.Machine.execCm5Load f udpSrc udpDst payload s
  | .cm5Run f udpSrc udpDst payload => Sys2Proof.Machine.execCm5Run f udpSrc udpDst payload s
  | .cm5Read f udpSrc udpDst payload => Sys2Proof.Machine.execCm5Read f udpSrc udpDst payload s
  | .jtagIdcode => Sys2Proof.Machine.execJtagIdcode s
  | .jtagBypass bits => Sys2Proof.Machine.execJtagBypass bits s
  | .meterSample volts amps => Sys2Proof.Machine.execMeterSample volts amps s
  | .tapFrame die crcOk charge cycles withdrawn inPlace other => Sys2Proof.Machine.execTapFrame die crcOk charge cycles withdrawn inPlace other s
  | .tapGapTimeout die => Sys2Proof.Machine.execTapGapTimeout die s
  | .ballastChip damaged => Sys2Proof.Machine.execBallastChip damaged s
  | .ballastCalibration gains => Sys2Proof.Machine.execBallastCalibration gains s
  | .calibrationStale cluster => Sys2Proof.Machine.execCalibrationStale cluster s
  | .settlementClose => Sys2Proof.Machine.execSettlementClose s
  | .meterCommit => Sys2Proof.Machine.execMeterCommit s
  | .meterVddLow => Sys2Proof.Machine.execMeterVddLow s
  | .meterPowerOn fwOk calOk => Sys2Proof.Machine.execMeterPowerOn fwOk calOk s
  | .meterWatchdogExpiry => Sys2Proof.Machine.execMeterWatchdogExpiry s
  | .meterClkFault => Sys2Proof.Machine.execMeterClkFault s
  | .mtrCfgWrite value => Sys2Proof.Machine.execMtrCfgWrite value s
  | .mtrTimeWrite value => Sys2Proof.Machine.execMtrTimeWrite value s
  | .meterReset => Sys2Proof.Machine.execMeterReset s
  | .fwCommit => Sys2Proof.Machine.execFwCommit s
  | .registerWrite port offset value => Sys2Proof.Machine.execRegisterWrite port offset value s
  | .pwrLimitRead => Sys2Proof.Machine.execPwrLimitRead s
  | .ethernetLinkChange lport up => Sys2Proof.Machine.execEthernetLinkChange lport up s
  | .portModeTakedown port => Sys2Proof.Machine.execPortModeTakedown port s
  | .deviceResetBegin => Sys2Proof.Machine.execDeviceResetBegin s
  | .dieResetEnd die => Sys2Proof.Machine.execDieResetEnd die s
  | .ouvosRestartEnd => Sys2Proof.Machine.execOuvosRestartEnd s
  | .oxLaneRetraining link lane recovered => Sys2Proof.Machine.execOxLaneRetraining link lane recovered s
  | .rdmaReadResponse p data => Sys2Proof.Machine.execRdmaReadResponse p data s
  | .ptpGeneralMessage f kind seqId timestamp => Sys2Proof.Machine.execPtpGeneralMessage f kind seqId timestamp s
  | .arpOrNeighbourReply f ip mac => Sys2Proof.Machine.execArpOrNeighbourReply f ip mac s
  | .unsupportedRequest m opcode => Sys2Proof.Machine.execUnsupportedRequest m opcode s
  | .meterTestAccessOpen => Sys2Proof.Machine.execMeterTestAccessOpen s
  | .mtrLastAdvance => Sys2Proof.Machine.execMtrLastAdvance s
  | .gradientRelease die => Sys2Proof.Machine.execGradientRelease die s

end Sys2Proof.Machine
end

