-- ==== Sys2Proof/Safety.lean ====
section
/-! DEFINITION. What a safe run keeps, in the terms that the statements use: what no command may change, fuses that are
only ever set, and counters that never fall. -/

namespace Sys2Proof.Machine

/-- What manufacture fixes and what only fuses hold: the order code (R2), the queue of waiting commands, the fused digest of
the firmware signer and the serial number (R421, R425), the meter's seal fuse and its break fuse (R439, R461), the life-cycle
fuses (R421) and the rollback counters (R427). -/
structure Kept where
  product   : Product
  pending   : List Instr
  fwKey     : BitVec 256
  serial    : List Byte
  sealFuse  : Bool
  breakFuse : Bool
  lc        : BitVec 8
  rbOuvos   : Nat
  rbUcode   : Nat
  deriving DecidableEq, Repr

def keptOf (s : State) : Kept :=
  { product := s.product, pending := s.pending, fwKey := s.flash.fwKey, serial := s.flash.serial, sealFuse := s.meter.sealFuse,
    breakFuse := s.meter.breakFuse, lc := s.flash.lc, rbOuvos := s.flash.rbOuvos, rbUcode := s.flash.rbUcode }

/-- What a command may do to what is kept: fuses are only ever set, rollback counters never fall, all else stays. -/
structure Ages (a b : Kept) : Prop where
  product  : b.product = a.product
  pending  : b.pending = a.pending
  fwKey    : b.fwKey = a.fwKey
  serial   : b.serial = a.serial
  sealFuse : b.sealFuse = a.sealFuse
  breakFuse : a.breakFuse = true → b.breakFuse = true
  lc       : a.lc &&& b.lc = a.lc
  rbOuvos  : a.rbOuvos ≤ b.rbOuvos
  rbUcode  : a.rbUcode ≤ b.rbUcode

end Sys2Proof.Machine
end

