-- ==== Sys2Proof/Certificates/Slice0/Obligations.lean ====
section
/-! DEFINITION. The statements for the provers, family by family, each with the rules of the manual that it rests on. -/

namespace Sys2Proof.Machine

/-! ### What the statements are written in -/

/-- Thread `t` of core `p`. -/
def thr (s : State) (p t : Nat) : Thread := getThread (getCore s p) t

/-- The state in which the issue of a command by thread `t` has been counted: the rotation and the age counts (R45). -/
def noted (s : State) (p t : Nat) : State := modCore s p (fun c => noteIssue (coreNow s c) c t)

/-- The state in which thread `t` goes on at index `i`: READY when it holds the row, STALLED until the row is fetched (R46). -/
def movedTo (s : State) (p t i : Nat) : State := modCore s p (fun c => modThread c t (fun th => goTo th i))

/-- In this cycle core `p` issues word `w` of thread `t`: the core runs, R45 picks the thread, the word's opcode is `op`
and none of its reserved bits is set. -/
structure Issues (s : State) (p t op : Nat) (w : W64) : Prop where
  core   : coreOk s p = true
  thread : t < 16
  picked : ready s p t (fun o => o == op) = some w
  fields : fieldsOk w = true
  state  : (thr (noted s p t) p t).state = .ready

/-- The commands of a thread with their opcodes (R49). -/
def threadRows (p t : Nat) : List (Instr × Nat) :=
  [(.halt p t, 0x01), (.nop p t, 0x02), (.replay p t, 0x03), (.issueTe p t, 0x10), (.issueVe p t, 0x11), (.issueDma p t, 0x12),
   (.issueSend p t, 0x13), (.issueRecv p t, 0x14), (.syncSet p t, 0x20), (.syncAdd p t, 0x21), (.syncSub p t, 0x22)] ++
  [(.syncAddRemote p t, 0x23), (.waitGe p t, 0x24), (.waitEq p t, 0x25), (.waitTake p t, 0x26), (.loop p t, 0x30),
   (.loopEnd p t, 0x31), (.branch p t, 0x32), (.jump p t, 0x33), (.call p t, 0x34), (.ret p t, 0x35)]

/-- The comparison table of R55. -/
def Taken (cond v imm : Nat) : Prop :=
  (cond = 0 ∧ v = imm) ∨ (cond = 1 ∧ v ≠ imm) ∨ (cond = 2 ∧ v < imm) ∨ (cond = 3 ∧ v ≥ imm) ∨ (cond = 4 ∧ v ≤ imm) ∨
  (cond = 5 ∧ v > imm)

/-- A counter that holds `n`. -/
def SyncCtr.at (k : SyncCtr) (n : Nat) : SyncCtr := { k with value := BitVec.ofNat 32 n }

/-- The two commands that write a replay record, with their opcodes and whether they halt (R58, R59). -/
def recordRows (p t : Nat) : List (Instr × Nat × Bool) := [(.replay p t, 0x03, false), (.halt p t, 0x01, true)]

/-- The issue queues with their opcodes (R51). -/
def issueRows (p t : Nat) : List (Instr × Nat) :=
  [(.issueTe p t, 0x10), (.issueVe p t, 0x11), (.issueDma p t, 0x12), (.issueSend p t, 0x13), (.issueRecv p t, 0x14)]

end Sys2Proof.Machine

open Sys2Proof Sys2Proof.Machine

/-- A step takes the front command off the queue and runs it. The queue is the model's own (it has no rule). -/
def Obligations.StepRunsFrontCommand : Prop :=
  ∀ (c : Instr) (r : List Instr) (s : State), step { s with pending := c :: r } = exec c { s with pending := r }

/-- The tick of an idle block. The model's choice (assumption 4): the manual's table has no row for a tick. -/
def Obligations.EmptyQueueLetsACyclePass : Prop :=
  ∀ (s : State), s.pending = [] → s.parts = [] → s.qps = [] → s.lports = [] → s.cmds = [] →
    ∃ m, step s = .next { s with fab := s.fab + 1, atMs := m } ∧ (m = s.atMs ∨ m = msCopy { s with fab := s.fab + 1 })

/-- Every command has its meaning; the one fault is that of an absent unit. -/
def Obligations.NoCommandIsRefused : Prop :=
  ∀ (c : Instr) (s : State), (∃ t, exec c s = .next t) ∨ exec c s = .fault .absentUnit

/-- What every step keeps, from every state. -/
def Obligations.StepsOnlyAge : Prop :=
  ∀ (s t : State), step s = .next t → Ages { keptOf s with pending := s.pending.tail } (keptOf t)

/-- NOP and JUMP (R49, R50, R57). -/
def Obligations.NopAndJumpMoveTheThread : Prop :=
  ∀ (s : State) (p t : Nat) (w : W64),
    (Issues s p t 0x02 w → inRange (thr (noted s p t) p t) ((thr (noted s p t) p t).pc + 1) = true →
      exec (.nop p t) s = .next (movedTo (noted s p t) p t ((thr (noted s p t) p t).pc + 1))) ∧
    (Issues s p t 0x33 w → inRange (thr (noted s p t) p t) (fld w 17 0) = true →
      exec (.jump p t) s = .next (movedTo (noted s p t) p t (fld w 17 0)))

/-- Where a thread goes on (R46). -/
def Obligations.MovingAThread : Prop :=
  ∀ (th : Thread) (i : Nat),
    (goTo th i).pc = i ∧ (goTo th i).age = 0 ∧ (goTo th i).waitFrom = none ∧
    (goTo th i).state = (if (th.fetch.any fun f => f.row == i / 8) = true then .ready else .stalled) ∧
    (∀ f, f ∈ (goTo th i).fetch ↔ f ∈ th.fetch ∧ (f.row = i / 8 ∨ f.row = i / 8 + 1)) ∧
    { goTo th i with pc := th.pc, fetch := th.fetch, waitFrom := th.waitFrom, age := th.age, state := th.state } = th

/-- BRANCH (R55). -/
def Obligations.BranchOnACounter : Prop :=
  ∀ (s : State) (p t : Nat) (w : W64), Issues s p t 0x32 w →
    (getCtr (getCore (noted s p t) p) (fld w 55 48)).fault = false →
    (Taken (fld w 47 45) (getCtr (getCore (noted s p t) p) (fld w 55 48)).value.toNat (fld w 23 0) →
      ∀ j : Nat, (j : Int) = (thr (noted s p t) p t).pc + signed 18 (fld w 41 24) →
        inRange (thr (noted s p t) p t) j = true →
        exec (.branch p t) s = .next (movedTo (noted s p t) p t j)) ∧
    (¬ Taken (fld w 47 45) (getCtr (getCore (noted s p t) p) (fld w 55 48)).value.toNat (fld w 23 0) →
      inRange (thr (noted s p t) p t) ((thr (noted s p t) p t).pc + 1) = true →
      exec (.branch p t) s = .next (movedTo (noted s p t) p t ((thr (noted s p t) p t).pc + 1)))

/-- CALL and RET (R56). -/
def Obligations.CallAndReturn : Prop :=
  ∀ (s : State) (p t : Nat) (w : W64),
    (Issues s p t 0x34 w →
      ((thr (noted s p t) p t).calls.length ≥ 8 →
        exec (.call p t) s = .next (trapHere (noted s p t) p t 0x03 0 0)) ∧
      ((thr (noted s p t) p t).calls.length < 8 → inRange (thr (noted s p t) p t) (fld w 17 0) = true →
        exec (.call p t) s = .next (movedTo (modCore (noted s p t) p (fun c => modThread c t (fun th =>
          { th with calls := (th.pc + 1) :: th.calls }))) p t (fld w 17 0)))) ∧
    (Issues s p t 0x35 w →
      ((thr (noted s p t) p t).calls = [] → exec (.ret p t) s = .next (trapHere (noted s p t) p t 0x04 0 0)) ∧
      (∀ i r, (thr (noted s p t) p t).calls = i :: r → inRange (thr (noted s p t) p t) i = true →
        exec (.ret p t) s = .next (movedTo (modCore (noted s p t) p (fun c => modThread c t (fun th =>
          { th with calls := r }))) p t i)))

/-- Counted loops (R54). -/
def Obligations.CountedLoops : Prop :=
  ∀ (s : State) (p t : Nat) (w : W64) (n : Nat),
    (Issues s p t 0x30 w →
      (n = fld w 31 0 ∧ bit w 53 = false ∨
       n = (getCtr (getCore (noted s p t) p) (fld w 7 0)).value.toNat ∧ bit w 53 = true ∧
         (getCtr (getCore (noted s p t) p) (fld w 7 0)).fault = false) →
      (n = 0 → inRange (thr (noted s p t) p t) ((thr (noted s p t) p t).pc + fld w 49 32 + 2) = true →
        exec (.loop p t) s = .next (movedTo (noted s p t) p t ((thr (noted s p t) p t).pc + fld w 49 32 + 2))) ∧
      (n ≠ 0 → inRange (thr (noted s p t) p t) ((thr (noted s p t) p t).pc + 1) = true →
        exec (.loop p t) s = .next (movedTo (modCore (noted s p t) p (fun c => modThread c t (fun th =>
          { th with lc := tset 0 th.lc (fld w 55 54) (BitVec.ofNat 32 n), lcStart := tset 0 th.lcStart (fld w 55 54) (th.pc + 1) })))
          p t ((thr (noted s p t) p t).pc + 1)))) ∧
    (Issues s p t 0x31 w →
      n = (tget (0 : W32) (thr (noted s p t) p t).lc (fld w 55 54)).toNat →
      ∀ next, next = (if n ≤ 1 then (thr (noted s p t) p t).pc + 1 else tget 0 (thr (noted s p t) p t).lcStart (fld w 55 54)) →
        inRange (thr (noted s p t) p t) next = true →
        exec (.loopEnd p t) s = .next (movedTo (modCore (noted s p t) p (fun c => modThread c t (fun th =>
          { th with lc := tset 0 th.lc (fld w 55 54) (BitVec.ofNat 32 (n - 1)) }))) p t next))

/-- Counter updates of a thread (R49, R62). -/
def Obligations.CounterUpdates : Prop :=
  ∀ (s : State) (p t : Nat) (w : W64) (k : SyncCtr), k = getCtr (getCore (noted s p t) p) (fld w 55 48) →
    inRange (thr (noted s p t) p t) ((thr (noted s p t) p t).pc + 1) = true →
    ∀ wrote : Nat → State, (wrote = fun n =>
      movedTo (modCore (noted s p t) p (fun c => setCtr c (fld w 55 48) (k.at n))) p t ((thr (noted s p t) p t).pc + 1)) →
    (Issues s p t 0x20 w → k.fault = false → fld w 31 0 ≤ k.limit.toNat →
      exec (.syncSet p t) s = .next (wrote (fld w 31 0))) ∧
    (Issues s p t 0x21 w → (fld w 31 0 = 0 ∨ k.fault = false ∧ k.value.toNat + fld w 31 0 ≤ k.limit.toNat) →
      exec (.syncAdd p t) s = .next (wrote (k.value.toNat + fld w 31 0))) ∧
    (Issues s p t 0x22 w → k.fault = false → fld w 31 0 ≤ k.value.toNat →
      exec (.syncSub p t) s = .next (wrote (k.value.toNat - fld w 31 0)))

/-- A counter never wraps (R62). -/
def Obligations.CountersNeverWrap : Prop :=
  ∀ (k : SyncCtr) (v : Nat), v < 2 ^ 32 →
    ((ctrAdd k v).2 = true → (ctrAdd k v).1.value.toNat = k.value.toNat + v) ∧
    ((ctrSub k v).2 = true → (ctrSub k v).1.value.toNat + v = k.value.toNat) ∧
    ((ctrSet k v).2 = true → (ctrSet k v).1.value.toNat = v) ∧
    ((ctrAdd k v).2 = false ↔ v ≠ 0 ∧ (k.fault = true ∨ k.value.toNat + v > k.limit.toNat)) ∧
    ((ctrSub k v).2 = false ↔ k.fault = true ∨ v > k.value.toNat) ∧
    ((ctrSet k v).2 = false ↔ k.fault = true ∨ v > k.limit.toNat) ∧
    (∀ r, r = ctrAdd k v ∨ r = ctrSub k v ∨ r = ctrSet k v →
      r.1.limit = k.limit ∧ (r.2 = false → r.1.value = k.value ∧ r.1.fault = true) ∧
      (r.2 = true → r.1.fault = k.fault ∧ r.1.excess = k.excess)) ∧
    (k.fault = false → (ctrAdd k v).2 = false → (ctrAdd k v).1.excess = true) ∧
    (k.fault = false → (ctrSub k v).2 = false → (ctrSub k v).1.excess = false)

/-- The three waits (R61). -/
def Obligations.Waits : Prop :=
  ∀ (s : State) (p t : Nat) (w : W64) (k : SyncCtr) (th : Thread), k = getCtr (getCore (noted s p t) p) (fld w 55 48) →
    th = thr (noted s p t) p t → inRange th (th.pc + 1) = true → k.fault = false →
    ∀ waiting : Nat → State, (waiting = fun op => modCore (noted s p t) p (fun c => modThread c t (fun h =>
      { h with state := .waiting, waitSync := fld w 55 48, waitImm := BitVec.ofNat 32 (fld w 31 0), waitOp := op, age := 0,
               waitFrom := h.waitFrom.or (some (coreNow (noted s p t) c)) }))) →
    (Issues s p t 0x24 w →
      (k.value.toNat ≥ fld w 31 0 → exec (.waitGe p t) s = .next (movedTo (noted s p t) p t (th.pc + 1))) ∧
      (k.value.toNat < fld w 31 0 → exec (.waitGe p t) s = .next (waiting 0x24))) ∧
    (Issues s p t 0x25 w →
      (k.value.toNat = fld w 31 0 → exec (.waitEq p t) s = .next (movedTo (noted s p t) p t (th.pc + 1))) ∧
      (k.value.toNat ≠ fld w 31 0 → exec (.waitEq p t) s = .next (waiting 0x25))) ∧
    (Issues s p t 0x26 w →
      (k.value.toNat ≥ fld w 31 0 → exec (.waitTake p t) s =
        .next (modCore (noted s p t) p (fun c =>
          modThread (setCtr c (fld w 55 48) (k.at (k.value.toNat - fld w 31 0))) t (fun h => goTo h (th.pc + 1))))) ∧
      (k.value.toNat < fld w 31 0 → exec (.waitTake p t) s = .next (waiting 0x26)))

/-- Timed events of a thread (R61, R67, R45). -/
def Obligations.WaitEventsAndAgeing : Prop :=
  ∀ (s : State) (p t : Nat), coreOk s p = true → t < 16 →
    ((thr s p t).state = .waiting → runs s p = true → (getCtr (getCore s p) (thr s p t).waitSync).fault = false →
      (if (thr s p t).waitOp = 0x25 then (getCtr (getCore s p) (thr s p t).waitSync).value = (thr s p t).waitImm
       else (getCtr (getCore s p) (thr s p t).waitSync).value.toNat ≥ (thr s p t).waitImm.toNat) →
      exec (.waitSatisfied p t) s =
        .next (unlend (setCore s p (setThread (getCore s p) t { thr s p t with state := .ready, fetch := [], age := 0 })) p)) ∧
    (∀ f, (thr s p t).waitFrom = some f → bit (thr s p t).cfg 20 = true → (thr s p t).state = .waiting →
      (getCore s p).frozenAt = none → (getCore s p).stopped = false → coreNow s (getCore s p) > f + usCycles (16 * 2 ^ fld (thr s p t).cfg 24 21) →
      exec (.waitWatchdog p t) s = .next (trapHere s p t 0x0F 0 0)) ∧
    ((thr s p t).state = .ready → bit (thr s p t).cfg 19 = false → (thr s p t).age = 63 →
      exec (.agePromotion p t) s = .next (modCore s p (fun c => modThread c t (fun th => { th with age := 64 }))))

/-- Engine issue (R51). -/
def Obligations.EngineIssue : Prop :=
  ∀ (s : State) (p t : Nat) (w : W64) (e : Instr × Nat), e ∈ issueRows p t → Issues s p t e.2 w →
    inRange (thr (noted s p t) p t) ((thr (noted s p t) p t).pc + 1) = true →
    ((queueOf (getCore (noted s p t) p) e.2).length ≥ 8 →
      exec e.1 s = .next (modCore (noted s p t) p (fun c => modThread c t (fun th => { th with state := .stalled, age := 0 })))) ∧
    ((queueOf (getCore (noted s p t) p) e.2).length < 8 → ∃ c th, exec e.1 s = .next (setCore (noted s p t) p c) ∧
      queueOf c e.2 = queueOf (getCore (noted s p t) p) e.2 ++ [{ thread := t, index := (thr (noted s p t) p t).pc, word := w }] ∧
      c = setThread (withQueue (getCore (noted s p t) p) e.2 (queueOf c e.2)) t (goTo th ((thr (noted s p t) p t).pc + 1)) ∧
      th.opsOut = (thr (noted s p t) p t).opsOut + 1 ∧
      { th with opsOut := th.opsOut - 1, used := (thr (noted s p t) p t).used, lastOp := (thr (noted s p t) p t).lastOp } =
        thr (noted s p t) p t)

/-- Remote raises (R64). -/
def Obligations.RemoteRaises : Prop :=
  (∀ (s : State) (p t : Nat) (w : W64) (q : Nat) (pt : Part) (own : Nat), Issues s p t 0x23 w →
    homeIn (noted s p t) p = some (q, pt, own) → fld w 46 36 < coresOf pt →
    inRange (thr (noted s p t) p t) ((thr (noted s p t) p t).pc + 1) = true →
    (raisesOf (getCore (noted s p t) p) t < 4 →
      exec (.syncAddRemote p t) s = .next (movedTo (sendRaise (noted s p t) p (logAt pt own) (logAt pt (fld w 46 36))
        (.thread t (thr (noted s p t) p t).pc) (fld w 46 36) (fld w 55 48) (fld w 31 0)) p t ((thr (noted s p t) p t).pc + 1))) ∧
    (raisesOf (getCore (noted s p t) p) t ≥ 4 →
      exec (.syncAddRemote p t) s =
        .next (modCore (noted s p t) p (fun c => modThread c t (fun th => { th with state := .stalled, age := 0 }))))) ∧
  (∀ (s : State) (p tag : Nat) (r : Raise) (t i : Nat), coreOk s p = true →
    (getCore s p).raises.find? (fun r => r.tag == tag) = some r → r.src = .thread t i →
    isFrozen (getCore s p) = false → (getCore s p).stopped = false →
    coreNow s (getCore s p) ≥ r.sentAt + usCycles (16 * 2 ^ fld (getCore s p).dmaCfg 3 0) →
    exec (.remoteSyncTimeout p tag) s =
      .next (jobCheckAt (trap (stir (setCore s p (unstall { getCore s p with
          raises := (getCore s p).raises.filter (fun x => x.tag != tag) })) p) p t 0x10
        { precise := false, index := i, syncId := r.syncId, detail := BitVec.ofNat 64 (r.target + 2 ^ 63) }) p))

/-- Traps at issue (R49, R50, R57). -/
def Obligations.TrapsAtIssue : Prop :=
  (∀ (s : State) (p t : Nat) (w : W64), coreOk s p = true → t < 16 → ready s p t (fun o => !assigned o) = some w →
    exec (.illegalOpcode p t) s = .next (trapHere (noted s p t) p t 0x01 0 w)) ∧
  (∀ (s : State) (p t : Nat) (w : W64) (e : Instr × Nat), e ∈ threadRows p t → coreOk s p = true → t < 16 →
    (thr s p t).state ≠ .draining → ready s p t (fun o => o == e.2) = some w → fieldsOk w = false →
    exec e.1 s = .next (trapHere (noted s p t) p t 0x02 0 w)) ∧
  (∀ (s : State) (p t : Nat) (w : W64),
    (Issues s p t 0x02 w → inRange (thr (noted s p t) p t) ((thr (noted s p t) p t).pc + 1) = false →
      exec (.nop p t) s = .next (trapHere (noted s p t) p t 0x05 0 0)) ∧
    (Issues s p t 0x33 w → inRange (thr (noted s p t) p t) (fld w 17 0) = false →
      exec (.jump p t) s = .next (trapHere (noted s p t) p t 0x05 0 0)) ∧
    (Issues s p t 0x34 w → (thr (noted s p t) p t).calls.length < 8 → inRange (thr (noted s p t) p t) (fld w 17 0) = false →
      exec (.call p t) s = .next (trapHere (noted s p t) p t 0x05 0 0)))

/-- A trap (R69, R70). -/
def Obligations.ATrapStopsItsThread : Prop :=
  ∀ (s : State) (p t cause : Nat) (w : Why),
    ((thr s p t).state = .idle → trap s p t cause w = s) ∧
    ((thr s p t).state ≠ .idle → (thr s p t).state ≠ .trapped → ∃ r : TrapRec,
      r.cause = cause ∧ r.precise = w.precise ∧ r.opTag = w.opTag ∧ r.index = w.index ∧ r.phys = p ∧ r.detail = w.detail ∧
      r.time = devNs s ∧ r.extra = 0 ∧
      trap s p t cause w =
        modDie (modCore (modCore s p (fun c => modThread c t (fun th =>
            { th with state := .trapped, cause := cause, trap := some r, age := 0, waitFrom := none }))) p
          (fun c => { c with idleFrom := some (coreNow s (getCore s p)) })) (dieOf p) (fun d =>
          if d.held = [] ∧ d.ring.length < 4096 then { d with ring := d.ring ++ [.trap r] }
          else { d with held := d.held ++ [.trap r] }))

/-- Replay records and HALT (R58, R59). The index in HALT's record and the slot's turn are the model's choices (assumption 68). -/
def Obligations.ReplayAndHalt : Prop :=
  ∀ (s : State) (p t : Nat) (e : Instr × Nat × Bool), e ∈ recordRows p t → ∀ finished failed : State → Thread → State,
    (finished = fun u _ =>
      if e.2.2 then jobCheckAt (modCore (modCore u p (fun c => modThread c t (fun h =>
        { h with state := .halted, altSlot := !h.altSlot, age := 0, used := [] }))) p (fun c => closeOwned c t)) p
      else stir (modCore u p (fun c => modThread c t (fun h => goTo { h with altSlot := !h.altSlot, used := [] } (h.pc + 1)))) p) →
    (failed = fun u th => jobCheckAt (trap u p t 0x11 { precise := false, index := th.pc }) p) →
    (∀ (w : W64) (d : State) (th : Thread), Issues s p t e.2.1 w → (thr s p t).state ≠ .draining →
      (e.2.2 = false → inRange (thr (noted s p t) p t) ((thr (noted s p t) p t).pc + 1) = true) →
      d = modCore (noted s p t) p (fun c => modThread c t (fun h => { h with state := .draining, waitOp := e.2.1, age := 0 })) →
      th = thr d p t →
      ((thr (noted s p t) p t).opsOut ≠ 0 → exec e.1 s = .next d) ∧
      (∀ q pt own a l, (thr (noted s p t) p t).opsOut = 0 → homeIn d p = some (q, pt, own) → pt.isolate = none →
        a = replayArea th + (if th.altSlot then 128 else 0) →
        l = replayRecord th t (if e.2.2 then 0xFFFF else fld w 55 40) (if e.2.2 then th.pc else th.pc + 1) (devNs d) pt.job →
        ((firstBad pt true a 128).isSome = true → exec e.1 s = .next (failed d th)) ∧
        (firstBad pt true a 128 = none → (placeOf pt (dieOf p) a).pos = logAt pt own →
          exec e.1 s = .next (finished (modCore d p (fun c => writeCore c (placeOf pt (dieOf p) a).addr l)) th)) ∧
        (∀ tag, firstBad pt true a 128 = none → (placeOf pt (dieOf p) a).pos ≠ logAt pt own → freeTag (getCore d p) = some tag →
          exec e.1 s = .next (sendCells (modCore d p (fun c => { c with
              records := c.records ++ [{ tag := tag, thread := t, halts := e.2.2, sentAt := coreNow d (getCore d p) }] }))
            (logAt pt own)
            (mkCell 0x02 32 (placeOf pt (dieOf p) a).pos (logAt pt own) tag
                (openerBytes (placeOf pt (dieOf p) a).addr 4 0 128 0 0 (logAt pt own) 0 0) ::
              dataCells 0x01 (placeOf pt (dieOf p) a).pos (logAt pt own) tag 4 l))))) ∧
    (∀ (r : RecordWrite) (st : Nat) (u : State), coreOk s p = true → t < 16 → (thr s p t).state = .draining →
      (thr s p t).waitOp = e.2.1 → (thr s p t).opsOut = 0 → runs s p = true →
      (getCore s p).records.find? (fun r => r.thread == t) = some r → r.halts = e.2.2 → r.answer = some st →
      u = modCore s p (fun c => { c with records := c.records.erase r
                                         held := if st = 2 then tset none c.held r.tag (some (s.fab + holdTime c)) else c.held }) →
      (st = 0 → exec e.1 s = .next (finished u (thr u p t))) ∧ (st ≠ 0 → exec e.1 s = .next (failed u (thr u p t))))

/-- The 128 bytes of R58. -/
def Obligations.ReplayRecordLayout : Prop :=
  ∀ (th : Thread) (t rid resume time job : Nat) (b : List Byte), b = replayRecord th t rid resume time job →
    b.length = 128 ∧ b.take 2 = leBytes 2 rid ∧ (b.drop 2).take 1 = leBytes 1 t ∧ (b.drop 3).take 1 = leBytes 1 th.calls.length ∧
    (b.drop 4).take 4 = leBytes 4 resume ∧
    (∀ i, i < 4 → (b.drop (8 + 4 * i)).take 4 = leBytes 4 (tget (0 : W32) th.lc i).toNat ∧
      (b.drop (24 + 4 * i)).take 4 = leBytes 4 (tget 0 th.lcStart i)) ∧
    (∀ i, i < 8 → (b.drop (40 + 4 * i)).take 4 = leBytes 4 (th.calls.reverse.getD i 0)) ∧
    (b.drop 72).take 8 = leBytes 8 time ∧ (b.drop 80).take 8 = leBytes 8 job ∧ (b.drop 88).take 36 = List.replicate 36 0 ∧
    b.drop 124 = leBytes 4 (crc32c (b.take 124)).toNat

/-- COMMAND_FETCH and HELD_RECORD_ENTERS_RING (R46, R28). -/
def Obligations.FetchAndHeldRecords : Prop :=
  (∀ (s : State) (p t r : Nat), coreOk s p = true → t < 16 → ((thr s p t).state = .ready ∨ (thr s p t).state = .stalled) →
    runs s p = true → wantedRow (thr s p t) = some r → badWord (getCore s p).bad (64 * r) 64 = none →
    exec (.commandFetch p t) s = .next (stir (modCore (readCore s p (64 * r) 64).1 p (fun c => unstall (modThread c t (fun th =>
      { th with fetch := th.fetch ++ [{ row := r, data := rowOf (readBytes (getCore s p).mem (64 * r) 64) }] })))) p)) ∧
  (∀ (s : State) (d : Nat) (e : RingEntry) (r : List RingEntry), dieOk s d = true → (getDie s d).held = e :: r →
    (getDie s d).ring.length < 4096 →
    exec (.heldRecordEntersRing d) s =
      .next (setDie s d { getDie s d with ring := (getDie s d).ring ++ [e], held := r }))

namespace Sys2Proof.Machine

/-- The primitives of the VE with their opcodes (R129): arithmetic, then functions. -/
def veElementRows (core : Nat) : List (Instr × Nat) :=
  [(.add core, 0x01), (.sub core, 0x02), (.mul core, 0x03), (.fma core, 0x04), (.max core, 0x05), (.min core, 0x06),
   (.div core, 0x07), (.sqrt core, 0x08), (.rsqrt core, 0x09), (.f2i core, 0x0A), (.i2f core, 0x0B), (.iadd core, 0x10),
   (.isub core, 0x11), (.imul core, 0x12), (.imax core, 0x13), (.imin core, 0x14), (.shl core, 0x15), (.shra core, 0x16)] ++
  [(.and core, 0x17), (.or core, 0x18), (.xor core, 0x19), (.exp core, 0x20), (.exp2 core, 0x21), (.log core, 0x22),
   (.tanh core, 0x23), (.sigmoid core, 0x24), (.silu core, 0x25), (.gelu core, 0x26), (.sin core, 0x27), (.cos core, 0x28),
   (.cmp core, 0x48), (.select core, 0x49)]

/-- The other primitives: row operations, normalisation, formats, indexed accesses, GF(2^8), softmax and angles. -/
def veOtherRows (core : Nat) : List (Instr × Nat) :=
  [(.rsum core, 0x30), (.rmax core, 0x31), (.rmin core, 0x32), (.rsumsq core, 0x33), (.rdot core, 0x34), (.lnorm core, 0x38),
   (.rmsnorm core, 0x39), (.quant core, 0x40), (.dequant core, 0x41), (.veGather core, 0x50), (.veScatter core, 0x51),
   (.scatterAdd core, 0x52), (.gfmul core, 0x58), (.gfmac core, 0x59), (.smaxStep core, 0x60), (.smaxFinal core, 0x61),
   (.rope core, 0x68), (.angle core, 0x69)]

/-- The descriptor at a row of core memory. -/
def descRow (s : State) (core row : Nat) : W512 := rowOf (readBytes (getCore s core).mem (64 * row) 64)

/-- The head operation of a queue and its descriptor, in a running core with no uncorrectable word in the descriptor's row. -/
structure Head (s : State) (core : Nat) (q : List IssueOp) (o : IssueOp) (rest : List IssueOp) (d : W512) : Prop where
  exists_ : coreOk s core = true
  running : runs s core = true
  queue : q = o :: rest
  good  : badWord (getCore s core).bad (64 * o.row) 64 = none
  desc  : d = descRow s core o.row

/-- The state in which the operation's descriptor has been read, its single-bit errors corrected (R147). -/
def described (s : State) (core : Nat) (o : IssueOp) : State := (readCore s core (64 * o.row) 64).1

/-- The state in which the head operation has left the TE's queue and is among the operations that the TE has started. -/
def teTakes (s : State) (core : Nat) (x : TeOp) : State :=
  stir (modCore (described s core x.op) core (fun c =>
    unstall { c with qTe := c.qTe.drop 1, te := { c.te with ops := c.te.ops ++ [x] } })) core

/-- The state in which the head operation has left the VE's queue and has taken a number for its free values. -/
def veTakes (s : State) (core : Nat) (o : IssueOp) (rest : List IssueOp) : State :=
  stir (modCore (useFree (described s core o)) core (fun c => unstall { c with qVe := rest })) core

/-- No operation of the TE waits for a word or for room in a queue, which would hold all of the TE (R182). -/
def teHeld (s : State) (core : Nat) : Bool := (teOps s core).any (fun o => (teWait (getCore s core) o).isSome)

/-- The DMA's rows with their modes (R221). -/
def dmaRows (core : Nat) : List (Instr × Nat) :=
  [(.dmaCopy core, 0), (.dmaGather core, 1), (.dmaScatter core, 2), (.dmaPattern core, 3)]

/-- A cell of that type at the head of an endpoint that exists and takes deliveries. -/
structure Arrives (s : State) (x ty : Nat) (c : Cell) : Prop where
  pos  : posOk s x = true
  head : headCell s x ty = some c
  open_ : deaf s x = false

end Sys2Proof.Machine

/-- The TE takes the head of its queue (R76). -/
def Obligations.TensorOperationsStart : Prop :=
  (∀ (s : State) (core : Nat) (o : IssueOp) (rest : List IssueOp) (d : W512), Head s core (getCore s core).qTe o rest d →
    teHeld s core = false → (teOps s core).any loading = false → fld d 2 0 ≠ 2 → fld d 2 0 ≠ 3 → ∃ x : TeOp,
      exec (.matmul core) s = .next (teTakes s core x) ∧ x.op = o ∧ x.desc = d ∧ x.loaded = 0 ∧ x.stepped = 0 ∧
      (tReason d ≠ 0 → x.phase = .done ∧ x.fault = some (0x09, tDetail (tReason d) (faultyOperand d (tReason d)) 0 0)) ∧
      (tReason d = 0 → fld d 2 0 = 1 → fld d 26 18 = 0 → x.phase = .done ∧ x.fault = none) ∧
      (tReason d = 0 → fld d 2 0 = 1 → fld d 26 18 ≠ 0 → badResident (getCore s core).te d false = none →
        badResident (getCore s core).te d true = none → x.phase = .run ∧ x.fault = none)) ∧
  (∀ (s : State) (core : Nat) (o : IssueOp) (rest : List IssueOp) (d : W512), Head s core (getCore s core).qTe o rest d →
    teHeld s core = false → fld d 2 0 = 3 → tReason d = 0 → (teOps s core).any (fun y => y.phase == .run) = false →
    drainPending (teOps s core) (fld d 4 3) = false → ∃ x : TeOp, x.op = o ∧ x.desc = d ∧ x.phase = .done ∧ x.fault = none ∧
      exec (.teClear core) s = .next (setTile (teTakes s core x) core (fld d 4 3) {})) ∧
  (∀ (s : State) (core : Nat) (o : IssueOp) (rest : List IssueOp) (d : W512), Head s core (getCore s core).qTe o rest d →
    teHeld s core = false → fld d 2 0 = 2 → tReason d = 0 → (teOps s core).any inOutput = false → (teOps s core).any (fun y => y.phase == .drain) = false →
    (teOps s core).any (fun y => y.phase == .run) = false → drainPending (teOps s core) (fld d 4 3) = false →
    ∃ x : TeOp, x.op = o ∧ x.desc = d ∧
      exec (.teDrain core) s = .next (drainTile (teTakes s core x) core (teOps s core).length x))

/-- The drain (R91, R93). -/
def Obligations.DrainWritesOrIsRefused : Prop :=
  ∀ (s : State) (core i : Nat) (o : TeOp), fld o.desc 37 35 = 1 ∨ fld o.desc 37 35 = 2 → (tileOf s core (fld o.desc 4 3)).bad = false →
    (verdict (tileOf s core (fld o.desc 4 3)) (fld o.desc 4 3) = none → ∃ o1 : TeOp, o1.op = o.op ∧ o1.desc = o.desc ∧
      o1.fault = o.fault ∧ o1.sat = firstSat (tileOf s core (fld o.desc 4 3)) ∧ ∀ s1, s1 = modTe s core i (fun _ => o1) →
      drainTile s core i o =
        modTe (modCore (if bit o.desc 7 = true then s1 else setTile s1 core (fld o.desc 4 3) {}) core (fun c =>
          writeRows c o.desc (outBytes (tileOf s core (fld o.desc 4 3)) o.desc))) core i (fun y => { y with phase := .done })) ∧
    (∀ w, verdict (tileOf s core (fld o.desc 4 3)) (fld o.desc 4 3) = some w → ∃ o1 : TeOp, o1.op = o.op ∧ o1.desc = o.desc ∧
      o1.fault = some (0x0B, w) ∧ o1.trapped = true ∧
      drainTile s core i o = modTe (modTe (trapOp (coreEvent (setTile (modCore s core (fun c => { c with te :=
          { c.te with last := w, count := if c.te.count = 0xFFFFFFFF then c.te.count else c.te.count + 1 } }))
          core (fld o.desc 4 3) { bad := true }) core 0x80 (leBytes 8 w.toNat)) core o.op 0x0B 0 w) core i (fun _ => o1)) core i
        (fun y => { y with phase := .done }))

/-- The load and step stages (R81, R83). -/
def Obligations.TensorLoadAndStep : Prop :=
  (∀ (s : State) (core i : Nat) (o : TeOp) (s1 : State) (l : List VnWord) (b : Bool) (k : Nat) (g : Panel) (e : SideEntry),
    coreOk s core = true → runs s core = true → (teOps s core).findIdx? loading = some i → (teOps s core)[i]? = some o →
    nextGroup o = (b, k) →
    bufferBusy ((teOps s core).take i) b (256 * unitOf o.desc b k) (tSlot o.desc b) = false →
    fetchGroup s core o b = (s1, some (.ok l)) →
    g = groupOf (tFmt o.desc b) (tEsc o.desc b) (l.flatMap (fun w => rowBytes w.data)) →
    e = sideEntry (tFmt o.desc b) (tEsc o.desc b) (tSlot o.desc b) g →
    g.exps.findIdx? (fun x => decide (x - e.least > 31)) = none →
    ∃ f : TeOp → TeOp, exec (.teBlockLoad core) s =
      .next (modTe (modCore (modTe s1 core i f) core (fun c => { c with te := storeBlock c.te b (unitOf o.desc b k) e g })) core i
        (fun y => { y with loaded := y.loaded + 1, rowA := if b then y.rowA else y.rowA + g.rows,
                           rowB := if b then y.rowB + g.rows else y.rowB })) ∧
      ∀ y, (f y).poison = (y.poison || l.any (fun w => w.poison)) ∧
        { f y with poison := y.poison, poisonQ := y.poisonQ } = y) ∧
  (∀ (s : State) (core i : Nat) (o : TeOp) (a b : Side), coreOk s core = true → runs s core = true →
    (teOps s core).findIdx? (fun o => o.phase == .run) = some i → (teOps s core)[i]? = some o →
    drainPending ((teOps s core).take i) (tTile o.desc) = false → o.stepped < blocksReady o →
    (o.stepped = 0 → tClear o.desc = false → (tileOf s core (tTile o.desc)).bad = false) →
    readSide (getCore s core).te o.desc false o.stepped = some a → readSide (getCore s core).te o.desc true o.stepped = some b →
    (badShift a b (tAcc o.desc) = none →
      exec (.teKblockStep core) s =
        .next (modTe (modCore (setTile s core (tTile o.desc)
            (stepTile (if o.stepped = 0 ∧ tClear o.desc = true then {} else tileOf s core (tTile o.desc)) a b (tAcc o.desc))) core
            (fun c => { c with teBusy := c.teBusy + stepCycles (widthOf a.e) (widthOf b.e) })) core i
          (fun y => { y with stepped := y.stepped + 1,
                             phase := if o.stepped + 1 = fld o.desc 26 18 then (if fld o.desc 37 35 = 0 then .done else .drain) else .run }))) ∧
    (∀ r, badShift a b (tAcc o.desc) = some r →
      exec (.teKblockStep core) s = .next (endBad s core i o (0x09, tDetail 6 false o.stepped r))))

/-- The arithmetic of R83 and R84, for tiles in canonical form (kept). -/
def Obligations.BlockStepArithmetic : Prop :=
  ∀ (t : Tile) (a b : Side) (acc : Int), Memory.wf 0 t.val = true → Memory.wf 0 t.ovf = true →
    Memory.wf 0 (stepTile t a b acc).val = true ∧ Memory.wf 0 (stepTile t a b acc).ovf = true ∧ (stepTile t a b acc).bad = t.bad ∧
    ∀ i j, i < 32 → j < 32 → ∀ v : Int, v = dot (a.vals.getD i []) (b.vals.getD j []) *
        ((2 ^ (a.e.exps.getD i 0 + b.e.exps.getD j 0 - acc).toNat : Nat) : Int) →
      tget 0 (stepTile t a b acc).val (32 * i + j) = tget 0 t.val (32 * i + j) + BitVec.ofInt 32 v ∧
      (tget 0 t.ovf (32 * i + j) ≠ 0 → tget 0 (stepTile t a b acc).ovf (32 * i + j) = tget 0 t.ovf (32 * i + j)) ∧
      (tget 0 t.ovf (32 * i + j) = 0 → tget 0 (stepTile t a b acc).ovf (32 * i + j) =
        if v < -(2 ^ 31) then 2 else if v ≥ 2 ^ 31 then 1
        else if (tget 0 t.val (32 * i + j)).toInt + v < -(2 ^ 31) then 2
        else if (tget 0 t.val (32 * i + j)).toInt + v ≥ 2 ^ 31 then 1 else 0)

/-- Completion (R53), for operations that met no poison. -/
def Obligations.EngineOperationsComplete : Prop :=
  (∀ (s : State) (core i : Nat) (o : TeOp) (u : State), coreOk s core = true → runs s core = true →
    (teOps s core).find? teDone = some o → (teOps s core).findIdx? teDone = some i → o.poison = false →
    o.merged.any (fun w => w.poison) = false →
    u = opDone (reportFlags (clearAfter (modCore s core (fun c => { c with te := { c.te with ops := c.te.ops.eraseIdx i } })) core o)
      core o.op (tilePos o.desc o.sat) (tilePos o.desc o.inf) none 0) core o.op →
    (o.fault = none → exec (.teOpComplete core) s = .next (jobCheckAt u core)) ∧
    (∀ c w, o.fault = some (c, w) → exec (.teOpComplete core) s =
      .next (jobCheckAt (if o.trapped then u else trapOp u core o.op c 0 w) core))) ∧
  (∀ (s : State) (core : Nat) (o : VeOp) (u : State), coreOk s core = true → runs s core = true →
    (getCore s core).ve.cur = some o → o.computed = true → o.out = [] → o.outC = [] → o.poison = none → o.quantSrc = false →
    u = opDone (reportFlags (setCur s core none) core o.op o.sat o.inf o.nan (flagSrc (vPrim o.desc))) core o.op →
    (o.fault = none → exec (.veOpComplete core) s = .next (jobCheckAt u core)) ∧
    (∀ c w, o.fault = some (c, w) → exec (.veOpComplete core) s = .next (jobCheckAt (trapOp u core o.op c 0 w) core)))

/-- Every VE row (R129). -/
def Obligations.VectorPrimitivesRun : Prop :=
  ∀ (s : State) (core : Nat) (e : Instr × Nat), e ∈ veElementRows core ++ veOtherRows core →
    ∀ start : IssueOp → W512 → VeOp, (start = fun o d =>
      { op := o, use := s.freeSeq, desc := d, toD := (vOp d 3).kind == 3, toC := fld d 7 0 == 0x60 && (vOp d 2).kind == 3 }) →
    (∀ (o : IssueOp) (rest : List IssueOp) (d : W512), Head s core (getCore s core).qVe o rest d →
      (getCore s core).ve.cur = none → fld d 7 0 = e.2 →
      (∀ r, vReason d = some r →
        exec e.1 s = .next (setCur (veTakes s core o rest) core
          (some { start o d with computed := true, fault := some (0x09, BitVec.ofNat 64 r) }))) ∧
      (vReason d = none → vNothing d = true →
        exec e.1 s = .next (setCur (veTakes s core o rest) core (some { start o d with computed := true }))) ∧
      (vReason d = none → vNothing d = false → needWords d 0 = 0 → needWords d 1 = 0 → needWords d 2 = 0 →
        exec e.1 s = .next (veCompute (veTakes s core o rest) core (start o d))) ∧
      (vReason d = none → vNothing d = false → ¬ (needWords d 0 = 0 ∧ needWords d 1 = 0 ∧ needWords d 2 = 0) →
        exec e.1 s = .next (setCur (veTakes s core o rest) core
          (some { start o d with needA := needWords d 0, needB := needWords d 1, needC := needWords d 2 })))) ∧
    (∀ o : VeOp, coreOk s core = true → runs s core = true → (getCore s core).ve.cur = some o → fld o.desc 7 0 = e.2 →
      o.computed = false →
      (o.needA = 0 → o.needB = 0 → o.needC = 0 → exec e.1 s = .next (veCompute s core o)) ∧
      (¬ (o.needA = 0 ∧ o.needB = 0 ∧ o.needC = 0) → (o.toD || o.toC) = true → exec e.1 s = .next (veEmit s core o)))

/-- One element (R129): what computing it does to the machine. -/
def Obligations.OneVectorElement : Prop :=
  ∀ (x : VCtx) (w : Work) (e : Instr × Nat) (r : Res), e ∈ veElementRows x.p → fld x.d 7 0 = e.2 → w.ok = true → w.fault = none →
    fld x.d 40 17 = 1 → (vOp x.d 0).kind = 1 → (vOp x.d 1).kind = 1 → (vOp x.d 2).kind = 0 → (vOp x.d 3).kind = 1 →
    w.dry = false → (getCore w.s x.p).bad = [] → (getCore w.s x.p).weak = [] →
    r = elemOp e.2 (bit x.d 8) (vAux x.d) (Config.freeValue x.use 0)
      (BitVec.ofNat 32 (leNat (readBytes (getCore w.s x.p).mem (vOp x.d 0).addr 4)))
      (BitVec.ofNat 32 (leNat (readBytes (getCore w.s x.p).mem (vOp x.d 1).addr 4))) 0 →
    vWork x w = noteRes 0 r { w with s := modCore w.s x.p (fun c => writeCore c (vOp x.d 3).addr (leBytes 4 r.v.toNat)) }

/-- Integer arithmetic of the VE (R100). -/
def Obligations.IntegerPrimitives : Prop :=
  ∀ (sat : Bool) (aux : W64) (f : Nat) (a b c : W32),
    (∀ (code : Nat) (x : Int), (code = 0x10 ∧ x = a.toInt + b.toInt) ∨ (code = 0x11 ∧ x = a.toInt - b.toInt) ∨
        (code = 0x12 ∧ x = a.toInt * b.toInt) → ∀ r, r = elemOp code sat aux f a b c →
      (r.sat = true ↔ x < -(2 ^ 31) ∨ x ≥ 2 ^ 31) ∧ (sat = true → r.v.toInt = max (-(2 ^ 31)) (min x (2 ^ 31 - 1)))) ∧
    (elemOp 0x10 false aux f a b c).v = a + b ∧ (elemOp 0x11 false aux f a b c).v = a - b ∧ (elemOp 0x12 false aux f a b c).v = a * b ∧
    (elemOp 0x13 sat aux f a b c).v.toInt = max a.toInt b.toInt ∧ (elemOp 0x14 sat aux f a b c).v.toInt = min a.toInt b.toInt ∧
    (elemOp 0x15 sat aux f a b c).v.toNat = a.toNat * 2 ^ (b.toNat % 32) % 2 ^ 32 ∧
    (elemOp 0x16 sat aux f a b c).v.toInt = a.toInt / 2 ^ (b.toNat % 32) ∧
    (∀ i, (elemOp 0x17 sat aux f a b c).v.getLsbD i = (a.getLsbD i && b.getLsbD i) ∧
      (elemOp 0x18 sat aux f a b c).v.getLsbD i = (a.getLsbD i || b.getLsbD i) ∧
      (elemOp 0x19 sat aux f a b c).v.getLsbD i = (a.getLsbD i != b.getLsbD i)) ∧
    (elemOp 0x49 sat aux f a b c).v = (if c = 0 then b else a) ∧
    (∀ code, code ∈ [0x13, 0x14, 0x15, 0x16, 0x17, 0x18, 0x19, 0x49] →
      (elemOp code sat aux f a b c).sat = false ∧ (elemOp code sat aux f a b c).inf = false ∧ (elemOp code sat aux f a b c).nan = false)

/-- The field multiplication of R134. -/
def Obligations.FieldMultiplication : Prop :=
  ∀ a b c : Nat, a < 256 → b < 256 → c < 256 →
    gfMul a 1 = a ∧ gfMul a 0 = 0 ∧ gfMul a 2 = (if 2 * a < 256 then 2 * a else (2 * a) ^^^ 0x11D) ∧ gfMul a b < 256 ∧
    gfMul (a ^^^ b) c = gfMul a c ^^^ gfMul b c ∧ gfMul c (a ^^^ b) = gfMul c a ^^^ gfMul c b

/-- The DMA starts operations in issue order (R52, R224). -/
def Obligations.DmaOperationsStart : Prop :=
  ∀ (s : State) (core : Nat) (e : Instr × Nat) (o : IssueOp) (rest : List IssueOp) (d : W512) (tag : Nat) (x : Ctx4), e ∈ dmaRows core →
    Head s core (getCore s core).qDma o rest d → fld d 2 0 = e.2 →
    (getCore s core).tags.any (fun e => match e.2 with | none => false | some o => o.wait.isSome) = false →
    freeTag (getCore s core) = some tag → ∀ u, u = described s core o → ctxOf u core tag = some x →
    (startState u x o d).op = o ∧ (startState u x o d).desc = d ∧
    exec e.1 s = .next (pump (stir (modCore u core (fun c =>
      unstall { setTag c tag (some (startState u x o d)) with qDma := rest })) core) core)

/-- The rest of a DMA operation's life. -/
def Obligations.DmaOperationsGoOn : Prop :=
  ∀ (s : State) (core tag : Nat), coreOk s core = true →
    (∀ (o : DmaOp) (i u : Nat), getTag (getCore s core) tag = some o → o.wait = some (i, u) → runs s core = true →
      (getCtr (getCore s core) i).fault = false → (getCtr (getCore s core) i).value.toNat ≥ u →
      exec (.dmaCreditTake core tag) s =
        .next (pump (modTag (modCore s core (fun c => setCtr c i ((getCtr (getCore s core) i).at ((getCtr (getCore s core) i).value.toNat - u))))
          core tag (fun o => { o with wait := none })) core)) ∧
    (∀ (o : DmaOp), getTag (getCore s core) tag = some o → fld o.desc 2 0 = 3 → runs s core = true → o.wait = none → o.go = true →
      o.fail = none → o.chunk < dSize2 o.desc →
      (fld o.desc 452 437 = 0 → exec (.patternChunk core tag) s =
        .next (raiseReady (pump (modTag s core tag (fun o => { o with chunk := o.chunk + 1 })) core) core tag)) ∧
      (∀ k, k = getCtr (getCore s core) (fld o.desc 436 429) → fld o.desc 452 437 ≠ 0 → k.fault = false →
        k.value.toNat ≥ fld o.desc 452 437 → exec (.patternChunk core tag) s =
        .next (raiseReady (pump (modTag (modCore s core (fun c => setCtr c (fld o.desc 436 429) (k.at (k.value.toNat - fld o.desc 452 437))))
          core tag (fun o => { o with chunk := o.chunk + 1 })) core) core tag))) ∧
    (∀ (o : DmaOp) (u : State), getTag (getCore s core) tag = some o → runs s core = true →
      dmaFinished (getCore s core) tag o = true → o.timedOut = false →
      u = opDone (setCore s core (setTag (getCore s core) tag none)) core o.op →
      (o.fail = none → exec (.dmaOpComplete core tag) s = .next (jobCheckAt u core)) ∧
      (∀ c w n, o.fail = some (c, w, n) → exec (.dmaOpComplete core tag) s = .next (jobCheckAt (trapOp u core o.op c 0 w) core))) ∧
    (∀ (n : Nat) (r : RecordWrite), tag < 1024 → (getCore s core).frozenAt = none →
      (getCore s core).records.find? (fun r => r.tag == tag && r.answer.isNone) = some r →
      coreNow s (getCore s core) ≥ r.sentAt + usCycles (16 * 2 ^ fld (getCore s core).dmaCfg 3 0) →
      exec (.dmaTransferTimeout core tag n) s = .next (recordAnswered s core r 2)) ∧
    (∀ (o : DmaOp) (n : Nat) (y : Xfer), tag < 1024 → getTag (getCore s core) tag = some o →
      (getCore s core).records.find? (fun r => r.tag == tag && r.answer.isNone) = none →
      o.live.find? (fun y => y.n == n) = some y → (getCore s core).frozenAt = none →
      coreNow s (getCore s core) ≥ y.sentAt + usCycles (16 * 2 ^ fld (getCore s core).dmaCfg 3 0) →
      exec (.dmaTransferTimeout core tag n) s =
        .next (xferFail s core tag y 0x0E (dmaDetail (if y.write = true then 2 else 1) y.addr))) ∧
    (∀ t, tget none (getCore s core).held tag = some t → s.fab ≥ t →
      exec (.dmaTagHoldExpiry core tag) s = .next (modCore s core (fun c => { c with held := tset none c.held tag none })))

/-- Cells of transfers (R226 to R237). -/
def Obligations.TransferCells : Prop :=
  ∀ (s : State) (x : Nat) (c : Cell),
    (Arrives s x 0x02 c → addrOk (channelData s) x (numAt c.bytes 0 6) (numAt c.bytes 8 2) = true →
      poolRefuses (hear (popCell s x) x) x c.src (numAt c.bytes 0 6) (numAt c.bytes 8 2) = none →
      (numAt c.bytes 18 1 / 4 % 2 = 1 → crc32c (leBytes 6 (numAt c.bytes 0 6) ++ slice c.bytes 24 8) = BitVec.ofNat 32 (numAt c.bytes 12 4) →
        ∀ s3, applyBytes (closeOld (hear (popCell s x) x) x c.src false) x c.src c.tag (numAt c.bytes 0 6)
          (slice c.bytes 24 (numAt c.bytes 8 2)) = (s3, none) →
        exec (.writeIndexed x) s = .next (sendAck s3 x (numAt c.bytes 16 2 % 4096) c.tag (numAt c.bytes 10 2) 0 0)) ∧
      (numAt c.bytes 18 1 / 4 % 2 ≠ 1 → ∃ o : OpenX, o.src = c.src ∧ o.tag = c.tag ∧ o.addr = numAt c.bytes 0 6 ∧ o.reply = false ∧
        o.bytes = numAt c.bytes 8 2 ∧ o.count = numAt c.bytes 6 1 ∧ o.got = [] ∧ o.landed = 0 ∧ o.poolBad = none ∧ o.last = s.fab ∧
        exec (.writeIndexed x) s = .next (openNew (closeOld (hear (popCell s x) x) x c.src false) x o))) ∧
    (Arrives s x 0x01 c → ∀ (o : OpenX) (l : List Byte) (u : State), x % 64 < 32 → o.reply = false → o.red = false →
      o.poolBad = none → 1 < o.count → o.landed = o.got.length →
      (getEnd (popCell s x) x).opens.find? (fun o => o.src == c.src && o.tag == c.tag && decide (0 < o.count)) = some o →
      l = c.bytes.take (min c.len (o.bytes - o.got.length)) → l ≠ [] →
      u = (applyBytes (hear (popCell s x) x) x o.src o.tag (o.addr + o.got.length) l (decide (0 < o.got.length))).1 →
      exec (.write x) s = .next (setEnd u x { getEnd u x with
        opens := { o with got := o.got ++ l, count := o.count - 1, last := s.fab, landed := o.got.length + l.length } ::
          (getEnd (popCell s x) x).opens.erase o })) ∧
    (Arrives s x 0x03 c → addrOk (channelData s) x (numAt c.bytes 0 6) (numAt c.bytes 6 2) = true → numAt c.bytes 12 1 = 0 →
      ∀ s2 l poison, getPiece (sampleValid (hear (popCell s x) x) c.src c.tag (numAt c.bytes 8 2)) ((partAt s c.src).getD 64)
        ⟨x, numAt c.bytes 0 6⟩ (numAt c.bytes 6 2) = (s2, l, poison) →
      exec (.readReq x) s =
        .next (sendReply s2 x c.src c.tag (numAt c.bytes 10 2) (numAt c.bytes 8 2) (if poison = true then 1 else 0) 0 l
          (decide (numAt c.bytes 6 2 ≤ 8) && asksPiece s2 c.src c.tag))) ∧
    (Arrives s x 0x05 c → x % 64 ≠ 51 → c.src % 64 ≠ 51 → numAt c.bytes 2 1 = 0 →
      ∀ u r, u = hear (popCell s x) x → r = (getCore u (servedBy u x)).records.find? (fun r => r.tag == c.tag && r.answer.isNone) →
      (∀ w, r = some w → exec (.writeAck x) s = .next (recordAnswered u (servedBy u x) w 0)) ∧
      (∀ p y, r = none → liveXfer u x c.tag (numAt c.bytes 0 2) true = some (p, y) →
        exec (.writeAck x) s = .next (writeDone u p c.tag y)))

/-- Replies and raises (R64, R229, R231). -/
def Obligations.RepliesAndRaises : Prop :=
  ∀ (s : State) (x : Nat) (c : Cell),
    (Arrives s x 0x04 c → ∀ p y s1, s1 = closeOld (hear (popCell s x) x) x c.src true → numAt c.bytes 7 1 = 0 →
      liveXfer s1 x c.tag (numAt c.bytes 10 2) false = some (p, y) →
      (numAt c.bytes 18 1 / 4 % 2 = 1 → crc32c (slice c.bytes 0 6 ++ slice c.bytes 24 8) = BitVec.ofNat 32 (numAt c.bytes 12 4) →
        exec (.readReply x) s = .next (readDone s1 p c.tag y (slice c.bytes 24 (numAt c.bytes 8 2)) none)) ∧
      (numAt c.bytes 18 1 / 4 % 2 ≠ 1 → ∃ o : OpenX, o.src = c.src ∧ o.tag = c.tag ∧ o.reply = true ∧ o.bytes = numAt c.bytes 8 2 ∧
        o.count = numAt c.bytes 6 1 ∧ o.xfer = numAt c.bytes 10 2 ∧ o.got = [] ∧ exec (.readReply x) s = .next (openNew s1 x o))) ∧
    (posOk s x = true → ∀ (src : Nat) (reply : Bool) (o : OpenX),
      (getEnd s x).opens.find? (fun o => o.src == src && o.reply == reply && !o.red && !o.red) = some o →
      s.fab ≥ o.last + 256 * 1800 →
      exec (.endpointTransferTimeout x src reply) s =
        .next (closeIncomplete (modEnd s x (fun e => { e with opens := e.opens.erase o })) x o)) ∧
    (Arrives s x 0x0A c → x % 64 < 32 → ∀ p i s1 r, p = servedBy s x → i = numAt c.bytes 0 1 → s1 = hear (popCell s x) x →
      r = ctrAdd (getCtr (getCore s1 p) i) (numAt c.bytes 4 4) →
      exec (.syncRaise x) s = .next (sendCells (writeCtr s1 p i r) x
        [mkCell 0x0B 2 c.src x c.tag (leBytes 1 (if r.2 = true then 0 else 1) ++ leBytes 1 (numAt c.bytes 1 1))])) ∧
    (Arrives s x 0x0B c → x % 64 < 32 → ∀ p s1, p = servedBy s x → s1 = hear (popCell s x) x → 
      (isFrozen (getCore s1 p) = false → (getCore s1 p).stopped = false →
        exec (.syncAck x) s = .next (raiseAcked s1 p c.tag (decide (numAt c.bytes 0 1 = 0)))) ∧
      (isFrozen (getCore s1 p) = true ∨ (getCore s1 p).stopped = true → exec (.syncAck x) s =
        .next (modCore s1 p (fun k => { k with deferred := k.deferred ++ [(if numAt c.bytes 0 1 = 0 then 2 else 3, c.tag)] }))))

/-- Hops of cells (R200 to R211) and the load broadcast (R487). -/
def Obligations.CellsHop : Prop :=
  (∀ (s : State) (x out : Nat) (flip : BitVec 320) (s0 : State) (inp vc : Nat) (c : Cell),
    coreOk s x = true → out < 12 → s0 = inject s x → bcastTakes s0 x out = false →
    choose s0.fab (getRouter s0 x) out ((channelHeads (getRouter s0 x)).filter (maySend s0 x out)) = some (inp, vc, c) →
    ∃ (f : Router → Router) (s1 : State), s1 = modRouter (takeHead s0 x inp vc) x f ∧ (∀ v, (f v).buf = v.buf) ∧
    (out ∈ [4, 5, 6] → exec (.pnCellHop x out flip) s = .next (modEnd s1 c.dst (fun e => { e with inbox := e.inbox ++ [c] }))) ∧
    (out = 7 → exec (.pnCellHop x out flip) s =
      .next (modEnd s1 (1024 * dieOf x + 50) (fun e => { e with inbox := e.inbox ++ [c] }))) ∧
    (out = 11 → exec (.pnCellHop x out flip) s =
      .next (modEnd s1 (1024 * dieOf x + 51) (fun e => { e with inbox := e.inbox ++ [c] }))) ∧
    (out < 4 → ∀ w y port v got, w = outVc s1 x inp vc out c.type → arrives s1 x out w c = (y, port, v) →
      got = damaged (sealCell (setFld c.hdr 1 0 w) c.pay) flip →
      (cellFault s1 got (linkPort out port) = 0 →
        exec (.pnCellHop x out flip) s = .next (modRouter s1 y (fun q => pushCell s1.fab q (4 * port + v) got))) ∧
      (cellFault s1 got (linkPort out port) ≠ 0 → exec (.pnCellHop x out flip) s =
        .next (modRouter s1 y (fun q => countDiscard q (linkPort out port) (cellFault s1 got (linkPort out port)))))) ∧
    (out = 8 ∨ out = 9 → ∀ w y port v s2, w = outVc s1 x inp vc out c.type → arrives s1 x out w c = (y, port, v) →
      s2 = (if isFour s1 = true ∧ c.type = 0x03 ∧ inp ≠ 10 then
        { s1 with landing := tmod 0 s1.landing (landingKey s1 out c.dst) (· + 1) } else s1) →
      exec (.pnCellHop x out flip) s = .next (crossLink s2 out y port v c (damaged (sealCell (setFld c.hdr 1 0 w) c.pay) flip)))) ∧
  (∀ (s : State) (x inp vc : Nat) (flipE flipS : BitVec 320) (c : Cell) (s0 : State), coreOk s x = true → s0 = inject s x →
    (channelHeads (getRouter s0 x)).find? (fun h => h.2.2.type == 0x0E) = some (inp, vc, c) →
    ∀ legs, (legs = (bcastOuts x inp).map (fun out =>
      (out, outVc s0 x inp vc out c.type, arrives s0 x out (outVc s0 x inp vc out c.type) c))) →
    ∀ free : Nat × Nat × Nat × Nat × Nat → Prop, (free = fun l => roomAt (getRouter s0 l.2.2.1) (4 * l.2.2.2.1 + l.2.2.2.2) = true ∧
      choose s0.fab (getRouter s0 x) l.1 ((inp, vc, c) :: (channelHeads (getRouter s0 x)).filter (maySend s0 x l.1)) = some (inp, vc, c)) →
    ((∃ l, l ∈ legs ∧ ¬ free l) → exec (.bcast ⟨x, flipE, flipS⟩) s = .next s0) ∧
    ((∀ l, l ∈ legs → free l) → ∃ f : Router → Router, (∀ v, (f v).buf = v.buf) ∧ ∀ s1 s2,
      s1 = legs.foldl (fun s l => crossLink s l.1 l.2.2.1 l.2.2.2.1 l.2.2.2.2 c
        (damaged (sealCell (setFld c.hdr 1 0 l.2.1) c.pay) (if l.1 = 1 then flipE else flipS))) (modRouter (takeHead s0 x inp vc) x f) →
      (c.tag ≠ loadTag s1 (c.dst % 64) → exec (.bcast ⟨x, flipE, flipS⟩) s = .next s1) ∧
      (c.tag = loadTag s1 (c.dst % 64) →
        (∀ p, bcastTo s1 x = some p → s2 = (if bcastHears s1 (c.dst % 64) p then bcastCore s1 c p else s1)) →
        (bcastTo s1 x = none → s2 = s1) →
        exec (.bcast ⟨x, flipE, flipS⟩) s =
          .next (if partOfCluster s2 (cluOfPhys x) = some (c.dst % 64) then bcastSwitch s2 c x else s2))))

/-- The sender's side (R213 to R216). -/
def Obligations.ChannelSends : Prop :=
  (∀ (s : State) (core : Nat) (o : IssueOp) (rest : List IssueOp) (d : W512) (u : State), Head s core (getCore s core).qPort o rest d →
    fld o.word 63 56 = 0x13 → u = stir (modCore (described s core o) core (fun c => unstall { c with qPort := rest })) core →
    (∀ r, portReason (getCore u core) true d = r → r ≠ 0 → exec (.sendOperation core) s =
      .next (jobCheckAt (trapOp (opDone u core o) core o 0x09 0 (BitVec.ofNat 64 r)) core)) ∧
    (portReason (getCore u core) true d = 0 → fld d 48 29 = 0 → exec (.sendOperation core) s = .next (jobCheckAt (opDone u core o) core)) ∧
    (portReason (getCore u core) true d = 0 → fld d 48 29 ≠ 0 → exec (.sendOperation core) s =
      .next (nextSend (modCore u core (fun c => setSend c (fld d 5 0) { getSend c (fld d 5 0) with
        wait := (getSend c (fld d 5 0)).wait ++ [(o, fld d 28 8, fld d 48 29)] })) core (fld d 5 0)))) ∧
  (∀ (s : State) (x : Nat) (c : Cell) (p i : Nat), x % 64 < 32 → answered (popCell s x) x c = some (p, i) →
    isFrozen (getCore (hear (popCell s x) x) p) = false → (getCore (hear (popCell s x) x) p).stopped = false →
    (Arrives s x 0x08 c → exec (.msgAck x) s = .next (sendEnds (countWait (hear (popCell s x) x) p i false) p i true none)) ∧
    (Arrives s x 0x09 c → exec (.msgNack x) s = .next (attemptFails (hear (popCell s x) x) p i (numAt c.bytes 0 1)))) ∧
  (∀ (s : State) (core i : Nat) (m : SendMsg), coreOk s core = true → i < 64 → runs s core = true →
    (getSend (getCore s core) i).cur = some m →
    (m.backoff = false → coreNow s (getCore s core) ≥ m.at_ + usCycles (4 * 2 ^ fld (getSend (getCore s core) i).cfg 29 26) →
      exec (.msgAckTimeout core i) s = .next (attemptFails s core i 4)) ∧
    (m.backoff = true → coreNow s (getCore s core) ≥ m.at_ → ∃ v : SendCh,
      v.waited ≥ (getSend (getCore s core) i).waited ∧ v.cur = some m ∧ v.parity = (getSend (getCore s core) i).parity ∧
      v.wait = (getSend (getCore s core) i).wait ∧ v.cfg = (getSend (getCore s core) i).cfg ∧
      exec (.msgRetryBackoff core i) s = .next (transmit (modCore s core (fun c => setSend c i v)) core i)))

/-- The receiver's side (R159 to R163, R217 to R220). -/
def Obligations.ChannelReceives : Prop :=
  (∀ (s : State) (core : Nat) (o : IssueOp) (rest : List IssueOp) (d : W512) (u : State), Head s core (getCore s core).qPort o rest d →
    fld o.word 63 56 = 0x14 → u = stir (modCore (described s core o) core (fun c => unstall { c with qPort := rest })) core →
    (∀ r, portReason (getCore u core) false d = r → r ≠ 0 → exec (.receiveOperation core) s =
      .next (jobCheckAt (trapOp (opDone u core o) core o 0x09 0 (BitVec.ofNat 64 r)) core)) ∧
    (portReason (getCore u core) false d = 0 → fld d 48 29 = 0 → exec (.receiveOperation core) s = .next (jobCheckAt (opDone u core o) core)) ∧
    (portReason (getCore u core) false d = 0 → fld d 48 29 ≠ 0 → exec (.receiveOperation core) s =
      .next (modCore u core (fun c => setRecv c (fld d 5 0) { getRecv c (fld d 5 0) with
        ops := (getRecv c (fld d 5 0)).ops ++ [(o, d, coreNow u c)] })))) ∧
  (∀ (s s0 : State) (x : Nat) (c : Cell) (p i sender : Nat) (r : RecvCh) (nack : Nat → State), posOk s x = true →
    headCell s x 0x06 = some c → x % 64 < 32 → s0 = popCell s x → p = servedBy s x → i = numAt c.bytes 4 1 % 64 →
    r = getRecv (getCore s0 p) i →
    sender = ((indexOfLog s x).bind (fun _ => (indexOfLog s c.src).map (fun e => e.2))).getD 0 →
    nack = (fun k => sendNack (modCore (hear s0 x) p (fun c => setRecv c i
      { getRecv c i with stats := bumpStat r.stats 43 24 1 })) x c.src c.tag k) →
    (deaf s x = true → exec (.msgFirst x) s = .next (sendNack s0 x c.src c.tag 3)) ∧
    (deaf s x = false →
      (r.state = 2 → exec (.msgFirst x) s = .next (nack 3)) ∧
      (r.state ≠ 2 → (r.state = 1 ∨ bit r.cfg 0 = false) → exec (.msgFirst x) s = .next (nack 2)) ∧
      (r.state ≠ 2 → r.state ≠ 1 → bit r.cfg 0 = true →
        (r.table.contains (sender, c.tag / 16, c.tag / 8 % 2 == 1) = true →
          exec (.msgFirst x) s = .next (sendMsgAck (hear s0 x) x c.src c.tag)) ∧
        (r.table.contains (sender, c.tag / 16, c.tag / 8 % 2 == 1) = false → ∀ res,
          res = reserve (getCore s0 p) i (numAt c.bytes 0 4) sender (c.tag / 16) (c.tag % 8) (c.tag / 8 % 2 == 1) s.fab →
          (res = none → exec (.msgFirst x) s = .next (nack 1)) ∧
          (∀ k, res = some k → ∃ q, (getRecv k i).recs.getLast? = some q ∧
            exec (.msgFirst x) s = .next (fillRecord (hear (setCore s0 p k) x) x i q c.src c.tag (slice c.bytes 8 24))))))) ∧
  (∀ (s s0 : State) (x : Nat) (c : Cell) (p sender : Nat) (isIt : RingRec → Bool), Arrives s x 0x07 c → x % 64 < 32 →
    s0 = popCell s x → p = servedBy s x → sender = ((indexOfLog s c.src).map (fun e => e.2)).getD 0 →
    isIt = (fun q => q.kind == 0 && !q.done && q.sender == sender && q.chan == c.tag / 16 && q.parity == (c.tag / 8 % 2 == 1) &&
      q.attempt == c.tag % 8) →
    (∀ i q, (List.range 64).findSome? (fun i => ((getRecv (getCore s0 p) i).recs.find? isIt).map (fun q => (i, q))) = some (i, q) →
      exec (.msgNext x) s = .next (fillRecord (hear s0 x) x i q c.src c.tag c.bytes)) ∧
    ((List.range 64).findSome? (fun i => ((getRecv (getCore s0 p) i).recs.find? isIt).map (fun q => (i, q))) = none →
      exec (.msgNext x) s = .next (hear s0 x))) ∧
  (∀ (s : State) (core i : Nat) (r : RecvCh) (o : IssueOp) (d : W512) (since : Nat) (ops : List (IssueOp × W512 × Nat))
    (skip rest : List RingRec) (q : RingRec) (n w : Nat), coreOk s core = true → i < 64 → runs s core = true →
    r = getRecv (getCore s core) i → r.ops = (o, d, since) :: ops → nextMessage r.recs = some (skip, q, rest) →
    n = min q.len (fld d 48 29) → badWord (getCore s core).bad (ringBase r + q.off + 16) n = none → w = r.waited + (q.since - since) →
    ∀ u, u = (readCore s core (ringBase r + q.off + 16) n).1 →
      exec (.receiveTakesRecord core i) s = .next (jobCheckAt (opDone (modCore u core (fun c => setRecv (writeCore (writeCore c
        (fld d 28 8) (readBytes (getCore s core).mem (ringBase r + q.off + 16) n))
        (fld d 69 49) (receiptBytes q (decide (q.len > fld d 48 29)))) i
        { r with ops := ops.map (fun e => (e.1, e.2.1, max e.2.2 (coreNow u c))), recs := rest,
                 rp := r.rp + ((skip.map (fun y => y.need)).sum + q.need), waited := w,
                 stats := stallStat (bumpStat r.stats 23 0 1) w })) core o) core)) ∧
  (∀ (s : State) (core i res : Nat) (r : RecvCh) (q : RingRec), coreOk s core = true → i < 64 → r = getRecv (getCore s core) i →
    r.recs.find? (fun q => q.seq == res && q.kind == 0 && !q.done) = some q →
    s.fab ≥ q.since + usCycles (4 * 2 ^ fld r.cfg 8 5) →
    exec (.reservationTimeout core i res) s = .next (modCore s core (fun c =>
      setRecv (writeCore c (ringBase r + q.off) (ringHeader q.len 2 q.chan q.sender q.seq)) i
        (modRec (getRecv (writeCore c (ringBase r + q.off) (ringHeader q.len 2 q.chan q.sender q.seq)) i) res
          (fun y => { y with kind := 2, done := true })))))

/-- The scheduled networks (R167 to R191). -/
def Obligations.ScheduledNetworks : Prop :=
  (∀ (s : State) (part : Nat) (faults : List (Nat × Nat × Nat)) (pt : Part), part < 64 → getPart s part = some pt → ∃ n,
    exec (.vnSwitchSlot part faults) s = .next (modPart (vnSlot s pt faults) part (fun q => { q with quiet := if n = 0 then 0 else q.quiet + 1 })) ∧
    (n = 0 ↔ ∃ x, x ∈ partSwitches pt ∧ (inMotion (getSwitch s x) = true ∨ inMotion (getSwitch (vnSlot s pt faults) x) = true))) ∧
  (∀ (s : State) (x : Nat) (a b : VnWord) (ra rb : List VnWord), coreOk s x = true → (getSwitch s x).aa = a :: ra →
    (getSwitch s x).ab = b :: rb → (getSwitch s x).arNew = 0 → (getSwitch s x).ar.length < 8 →
    addMode (getSwitch s x) = 1 ∨ addMode (getSwitch s x) = 2 → ∃ v : Switch, exec (.adderFire x) s = .next (setSwitch s x v) ∧
    v.aa = ra ∧ v.ab = rb ∧ v.ar = (getSwitch s x).ar ++ [addWords (addMode (getSwitch s x) == 2) a b] ∧ v.arNew = 1 ∧
    v.freedAA = (getSwitch s x).freedAA + 1 ∧ v.freedAB = (getSwitch s x).freedAB + 1 ∧
    { v with aa := (getSwitch s x).aa, ab := (getSwitch s x).ab, ar := (getSwitch s x).ar, arNew := (getSwitch s x).arNew,
             freedAA := (getSwitch s x).freedAA, freedAB := (getSwitch s x).freedAB } = getSwitch s x) ∧
  (∀ (s : State) (core unit tok : Nat) (rest : List Nat) (u : Steer) (put : Steer → State), coreOk s core = true → unit < 4 →
    u = tget ({} : Steer) (getCore s core).steer unit → put = (fun v => modCore s core (fun c => { c with steer := tset {} c.steer unit v })) →
    bit u.cfg 0 = true → u.fault = none → u.busy = false → u.ctl = tok :: rest →
    (tok / 64 ≥ 2 → exec (.steeringMove core unit) s = .next (steerFault (put { u with ctl := rest }) core unit 2)) ∧
    (tok / 64 < 2 → tok % 32 = 0 → exec (.steeringMove core unit) s = .next (put { u with ctl := rest, busy := true })) ∧
    (∀ w r v, tok % 32 ≠ 0 →
      (tok / 32 % 2 = 1 ∧ u.d1 = w :: r ∧ v = steerCount { u with d1 := r } (u.moved + 1) tok ∨
       tok / 32 % 2 = 0 ∧ u.d0 = w :: r ∧ v = steerCount { u with d0 := r } (u.moved + 1) tok) →
      (tok / 64 = 1 → exec (.steeringMove core unit) s =
        .next (progress (put (if tok / 32 % 2 = 1 then { v with freed1 := v.freed1 + 1 } else { v with freed0 := v.freed0 + 1 })) core)) ∧
      (tok / 64 = 0 → ∀ l s1, logOf (modIn (put v) core (fld u.cfg 4 1)
          (fun x => { x with origin := x.origin ++ [if tok / 32 % 2 = 1 then 1 else 0] })) core = some l →
        s1 = modIn (put v) core (fld u.cfg 4 1) (fun x => { x with origin := x.origin ++ [if tok / 32 % 2 = 1 then 1 else 0] }) →
        exec (.steeringMove core unit) s =
          .next (modSwitch s1 (homeOf l) (fun y => { y with inbound := y.inbound ++ [(fld u.cfg 4 1, w, 2, core != homeOf l)] }))))) ∧
  (∀ (s : State) (x kind idx : Nat) (v : W32) (r : List (Nat × Nat × W32)) (s1 : State), coreOk s x = true →
    firstRet kind idx (getSwitch s x).ret = some (v, r) → s1 = setSwitch s x { getSwitch s x with ret := r } →
    (∀ p, (kind = 0 ∧ p = x ∨ kind = 3 ∧ p = x + 1) → exec (.snReturnWord x kind idx) s = .next (modCore s1 p (fun c =>
      { c with outQ := tmod {} c.outQ idx (fun q => { q with tokens := q.tokens + fld v 15 0, hold := bit v 16 }) }))) ∧
    (kind = 1 → exec (.snReturnWord x kind idx) s = .next (modSlice s1 (sliceAt x) (fun y =>
      { y with ctx := tmod {} y.ctx idx (fun z => { z with tokens := z.tokens + fld v 15 0, hold := bit v 16 }) }))) ∧
    (kind = 2 → exec (.snReturnWord x kind idx) s =
      .next (modSwitch s1 x (fun w => { w with arTok := w.arTok + fld v 15 0, arHold := bit v 16 })))) ∧
  (∀ (s : State) (x ctx : Nat) (v : Ctx) (w : VnWord) (r : List VnWord) (put : Ctx → State), coreOk s x = true → isSpare x = true →
    ctx < 16 → v = tget ({} : Ctx) (getSlice s (sliceAt x)).ctx ctx →
    put = (fun y => modSlice s (sliceAt x) (fun z => { z with ctx := tset {} z.ctx ctx y })) → v.inW = w :: r → v.op = 0 → v.stopped = false →
    (w.data.toNat < 2 ^ 34 → (fld w.data 1 0 = 1 ∨ fld w.data 1 0 = 2) → fld w.data 17 2 + fld w.data 33 18 ≤ 65536 → 0 < fld w.data 33 18 →
      exec (.sliceContextHeader x ctx) s = .next (put { v with inW := r, freed := v.freed + 1, op := fld w.data 1 0,
                                                                row := fld w.data 17 2, left := fld w.data 33 18 })) ∧
    (¬ (w.data.toNat < 2 ^ 34 ∧ (fld w.data 1 0 = 1 ∨ fld w.data 1 0 = 2) ∧ fld w.data 17 2 + fld w.data 33 18 ≤ 65536) →
      exec (.sliceContextHeader x ctx) s = .next (postEvent (put { v with inW := r, freed := v.freed + 1, stopped := true }) (sliceAt x / 64)
        { code := 0x86, unitKind := 3, unit := sliceRowUnit (sliceAt x) (fld w.data 17 2), by_ := detSlice (sliceAt x),
          part := partOrNone (partOfCluster s (sliceAt x / 4)),
          detail := BitVec.ofNat 8 ctx :: leBytes 8 (w.data.toNat % 2 ^ 64) })))

/-- Lanes of the adder (R185). -/
def Obligations.AdderLanes : Prop :=
  ∀ (a b : VnWord), (∀ i, i < 16 → lane (addWords false a b).data i = lane a.data i + lane b.data i) ∧
    ∀ fp, (addWords fp a b).poison = (a.poison || b.poison)

/-- Buckets (R262 to R285). -/
def Obligations.BucketCommands : Prop :=
  (∀ (s : State) (die x : Nat) (c : Cell), dieOk s die = true → x = 1024 * die + 51 →
    (getEnd s x).opens.reverse.find? (transferEnded s die) = none → headCell s x 0x0C = some c → ∃ (o : OpenX) (s1 : State),
    s1 = (match (getEnd (popCell s x) x).opens.find? (fun o => o.src == c.src && o.red && decide (o.count ≠ 0)) with
      | none => popCell s x
      | some o => endTransfer (popCell s x) die o) ∧
    exec (.reduce die) s = .next (openNew s1 x o) ∧ o.src = c.src ∧ o.tag = c.tag ∧ o.count = 128 ∧ o.bytes = 4096 ∧
    o.tile = numAt c.bytes 0 2 ∧ o.red = true ∧ o.got = [] ∧ o.cv = BitVec.ofNat 32 (numAt c.bytes 4 4)) ∧
  (∀ (s : State) (tag tile x : Nat) (o : OpenX) (b : Bucket) (s0 s1 : State), tag < 1024 →
    s0 = (List.range (dieCount s.product)).foldl hubOpen s → hubTotal s0 tag tile = some (x, o) → b = getBucket s0 tag →
    s1 = modEnd s0 x (fun e => { e with opens := e.opens.erase o }) → b.state = 1 → o.closes = b.closes → o.tile < bTiles b →
    (BitVec.ofNat 8 o.flags).getLsbD 1 = b.parity →
    (o.count ≠ 0 ∨ crc32c o.got ≠ o.cv → exec (.deviceTotal tag tile) s = .next (failBucket s1 o.tag 2)) ∧
    (o.count = 0 → crc32c o.got = o.cv → ∀ s2, s2 = setBucket s1 tag { b with taken := b.taken + 1 } →
      (ownerRank b o.tile = bRank b → bShadow b = false → exec (.deviceTotal tag tile) s = .next (bucketCheck (sendLists
        (shadowCompare (applyArrival (logEntry s2 tag o.tile (ownerRank b o.tile) 2 (crc32c o.got)) tag (ownerRank b o.tile) o.tile o.got
          (crc32c o.got)) tag (ownerRank b o.tile) o.tile (crc32c o.got) b.shadow) tag) tag)) ∧
      (¬ (ownerRank b o.tile = bRank b ∧ bShadow b = false) → ∀ q key a, peerOf b (ownerRank b o.tile) = (q, key, a) →
        exec (.deviceTotal tag tile) s = .next (bucketCheck (sendLists (sendOn (logEntry
          (modBucket s2 tag (fun b => { b with sent := b.sent ++ [(ownerRank b o.tile, o.tile, crc32c o.got)], unacked := b.unacked + 1 }))
          tag o.tile (ownerRank b o.tile) 1 (crc32c o.got)) q
          { psn := 0, kind := 3, addr := a + ownedIndex b o.tile * 4096, rkey := key, imm := immOfTotal b tag o.tile, data := o.got,
            len := 4096, job := tag, closes := b.closes }) tag) tag)))) ∧
  (∀ (s : State) (part tag : Nat) (pt : Part) (s1 : State) (die d : Nat), part < 64 → tag < 1024 → getPart s part = some pt →
    pt.bucketAt ≤ tag → tag < pt.bucketAt + pt.buckets → takeTouch s part (8 * (tag - pt.bucketAt)) = some (s1, die) →
    indexIn (dieSlots pt) die = some d → (getBucket s1 tag).state = 1 → bFallback (getBucket s1 tag) = true →
    tget 0 (getBucket s1 tag).starts d + 1 ≠ bLocal (getBucket s1 tag) d →
    exec (.bucketStartWord part tag) s = .next (setBucket s1 tag { getBucket s1 tag with
      starts := tset 0 (getBucket s1 tag).starts d (tget 0 (getBucket s1 tag).starts d + 1) })) ∧
  (∀ (s : State) (tag : Nat) (b : Bucket), tag < 1024 → b = getBucket s tag →
    (b.state = 2 → bRearm b = true → b.raises = [] → b.raiseBad = false → b.pend = [] →
      exec (.bucketRearm tag) s = .next (openRound s tag (b.round + 1) (!b.parity))) ∧
    (b.state = 1 → s.fab ≥ b.openedAt + usCycles (1000 * 2 ^ numAt b.desc 9 1) →
      exec (.bucketRoundTimeout tag) s = .next (failBucket s tag 4)))

/-- The update engine (R286 to R295). -/
def Obligations.UpdateCommands : Prop :=
  (∀ (s : State) (part group : Nat) (s1 : State) (d : Nat) (pt : Part), part < 64 → group < 256 →
    takeTouch s part (groupBase group + 128) = some (s1, d) → getPart s1 part = some pt → gFlag pt group 3 = false →
    exec (.updateStartWord part group) s = .next (startGroup
      (if gf pt group 128 8 / 2 ^ 32 % 2 = 1 ∧ gf pt group 128 8 % 2 ^ 32 ≠ 0 then
        setGf s1 part group 144 4 (gf pt group 128 8 % 2 ^ 32 - 1) else s1) part group)) ∧
  (∀ (s : State) (die part g : Nat) (rest : List (Nat × Nat)) (pt : Part) (s0 s1 s2 : State) (pts : List Point), dieOk s die = true →
    (getDie s die).cur = none → (getDie s die).queue = (part, g) :: rest → s0 = setDie s die { getDie s die with queue := rest } →
    getPart s0 part = some pt → s1 = setGf s0 part g 148 1 2 →
    (groupReserved pt g = true → exec (.updateGroupStart die) s = .next (releaseGrad (decide_ s1 die
      { part := part, group := g, t := (gStep pt g + 1) % 2 ^ 32, pass := 1, released := true } 4) part g)) ∧
    (groupReserved pt g = false → zeroStep pt g = false → gRows pt g ≠ 0 → gCols pt g ≠ 0 → readSchedule s1 part g = (s2, .ok pts) →
      pts ≠ [] → groupInvalid pt g = false → gFlag pt g 0 = false → exec (.updateGroupStart die) s =
      .next (setUpdating s2 die (some { part := part, group := g, t := (gStep pt g + 1) % 2 ^ 32, pass := 1,
                                        lr := scheduleAt pts ((gStep pt g + 1) % 2 ^ 32) 0, wd := scheduleAt pts ((gStep pt g + 1) % 2 ^ 32) 1
                                        b1 := scheduleAt pts ((gStep pt g + 1) % 2 ^ 32) 2
                                        b2 := scheduleAt pts ((gStep pt g + 1) % 2 ^ 32) 3 })))) ∧
  (∀ (s : State) (die : Nat) (u v w : Updating) (s2 : State) (a : Arrays) (pt : Part), dieOk s die = true →
    (getDie s die).cur = some u → u.pass = 1 → u.outcome = none → getPart s u.part = some pt →
    readArrays s u.part u.group (gSize pt u.group) = (s2, some a) →
    v = { u with p1 := fpow (Config.freeValue s2.freeSeq 0) u.b1 u.t, p2 := fpow (Config.freeValue s2.freeSeq 1) u.b2 u.t } →
    w = passOne pt u.group (coefOf pt v) a v →
    (a.g.any (fun x => !isFinite (gradOf pt u.group 0 false x)) = true →
      exec (.updatePass1End die) s = .next (decide_ (useFree s2) die w 6)) ∧
    (a.g.any (fun x => !isFinite (gradOf pt u.group 0 false x)) = false → gRule pt u.group ≠ 3 →
      exec (.updatePass1End die) s = .next (setUpdating (useFree s2) die (some { w with pass := 2 })))) ∧
  (∀ (s : State) (part group : Nat) (s1 : State) (d : Nat) (pt : Part) (u : Updating), part < 64 → group < 256 →
    takeTouch s part (groupBase group + 136) = some (s1, d) → getPart s1 part = some pt → (getDie s1 (gDie pt group)).cur = some u →
    u.part = part → u.group = group → u.pass = 3 →
    exec (.updateResumeWord part group) s = .next (setUpdating s1 (gDie pt group)
      (some { u with resumes := u.resumes + 1, pass := if u.resumes + 1 ≥ gf pt group 84 2 then 2 else 3 }))) ∧
  (∀ (s : State) (die : Nat) (u : Updating), dieOk s die = true → (getDie s die).cur = some u →
    (u.pass = 2 → u.outcome = none → exec (.gradientRelease die) s = .next (finishPass2 s die u)) ∧
    (∀ o, u.outcome = some o → exec (.updateGroupEnd die) s = .next (endUpdate s die u o)))

/-- Fencing (R300 to R305, R168). -/
def Obligations.FencingRegisters : Prop :=
  (∀ (s : State) (die : Nat) (e : RingEntry) (r : List RingEntry), dieOk s die = true → s.ouvosUp = true →
    (getDie s die).ring = e :: r → ∀ u, u = modDie s die (fun d => { d with ring := r }) →
    (∀ q, e = .trap q → exec (.faultEventTaken die) s = .next (afterAction (takeTrap u q))) ∧
    (∀ q, e = .event q → exec (.faultEventTaken die) s = .next (afterAction (takeEvent u die q)))) ∧
  (∀ (s : State) (core state reason : Nat), coreOk s core = true → state < 6 → ∀ u, u = deliverSeg s (segOfPhys core) →
    exec (.coreFenceState core state reason) s =
      .next { u with fence := tset 0 u.fence core (setFld (setFld (tget 0 u.fence core) 2 0 state) 12 5 (reason % 256)) }) ∧
  (∀ (s : State) (core : Nat) (hold : Bool), coreOk s core = true → exec (.coreHold core hold) s =
    .next { s with fence := tset 0 s.fence core (setFld (tget 0 s.fence core) 4 4 (if hold = true then 1 else 0)) }) ∧
  (∀ (s : State) (core : Nat), coreOk s core = true →
    ((getCore s core).frozenAt = none → exec (.coreFreeze core true) s =
      .next (setCore { s with fence := tset 0 s.fence core (setFld (tget 0 s.fence core) 3 3 1) } core
        { getCore s core with frozenAt := some s.fab })) ∧
    (∀ f, (getCore s core).frozenAt = some f → (getCore s core).stopped = true → exec (.coreFreeze core false) s =
      .next (setCore { s with fence := tset 0 s.fence core (setFld (tget 0 s.fence core) 3 3 0) } core
        { getCore s core with frozenAt := none, frozenAcc := (getCore s core).frozenAcc + (s.fab - f) })) ∧
    (∀ f, (getCore s core).frozenAt = some f → (getCore s core).stopped = false → exec (.coreFreeze core false) s =
      .next ((getCore s core).deferred.foldl (fun s e => runDeferred s core e)
        (setCore { s with fence := tset 0 s.fence core (setFld (tget 0 s.fence core) 3 3 0) } core
          { getCore s core with frozenAt := none, frozenAcc := (getCore s core).frozenAcc + (s.fab - f), deferred := [] })))) ∧
  (∀ (s : State) (cluster state part : Nat), cluOk s cluster = true → state < 4 → part < 64 → ∃ w : W64,
    exec (.clusterFenceState cluster state part) s =
      .next { deliverCluster s cluster with cluFence := tset 0 (deliverCluster s cluster).cluFence cluster w } ∧
    fld w 1 0 = state ∧ fld w 7 2 = (if state = 1 ∨ state = 2 then part else 0)) ∧
  (∀ (s : State) (seg value : Nat), segOk s seg = true →
    (value ∈ [0x00, 0xFF, 0xFE, 0xFC, 0xF8, 0xF0, 0xE0, 0xC0, 0x80] →
      exec (.vnShiftWrite seg value) s =
        .next { deliverSeg s seg with shift := tset 0 (deliverSeg s seg).shift seg (BitVec.ofNat 8 value) }) ∧
    (value ∉ [0x00, 0xFF, 0xFE, 0xFC, 0xF8, 0xF0, 0xE0, 0xC0, 0x80] → ∃ e : EventRec, e.code = 0x87 ∧ e.unitKind = 6 ∧
      e.detail = [BitVec.ofNat 8 (seg % 4), BitVec.ofNat 8 value] ∧ exec (.vnShiftWrite seg value) s = .next (postEvent s (seg / 64) e)))

/-- Live remaps, searches and Goose (R238 to R240, R306 to R310, R354, R355). -/
def Obligations.SettleIsolateAndGoose : Prop :=
  (∀ (s : State) (part : Nat) (pt : Part) (a : FenceAction) (rest : List FenceAction), part < 64 → getPart s part = some pt →
    pt.actions = a :: rest → a.step = 1 →
    (settled s pt = true → ∀ u, u = setHolds s (segOfPhys a.core) (a.core - segBase (segOfPhys a.core)) true →
      (passDirty u (segOfPhys a.core) (a.core - segBase (segOfPhys a.core)) (a.kind != 1) = false →
        exec (.remapSettled part) s = .next (afterAction (finishLive u part pt a))) ∧
      (passDirty u (segOfPhys a.core) (a.core - segBase (segOfPhys a.core)) (a.kind != 1) = true →
        exec (.remapSettled part) s = .next (afterAction (actionOver (restartRemap u part a (actionRecord s a)) part)))) ∧
    (settled s pt = false → s.fab ≥ a.since + 500 * 1800 →
      exec (.settleTimeout part) s = .next (afterAction (actionOver (restartRemap s part a (actionRecord s a)) part)))) ∧
  (∀ (s : State) (part : Nat) (pt : Part), part < 64 → getPart s part = some pt → ∀ v, pt.isolate = some v →
    (v.current = none → v.todo = [] → exec (.isolateSuspectReplay part) s = .next (afterAction (endSearch s part pt v))) ∧
    (∀ t r, v.current = none → v.todo = t :: r → exec (.isolateSuspectReplay part) s = .next (afterAction (startSuspect
      (modPart s part (fun q => { q with isolate := some { v with current := some t, todo := r, since := s.fab } })) part pt v t))) ∧
    (∀ t, v.current = some t → s.fab ≥ v.since + 50000 * 1800 →
      exec (.isolateReplayTimeout part) s = .next (afterAction (endReplay s part v [])))) ∧
  (∀ (s : State) (part : Nat) (pt q : Part) (die : Nat), part < 64 → getPart s part = some pt → q = gooseLook s pt → q.goose ≠ 0 →
    q.gooseDone = false → whollyBlocked s q = true → (partCores s q).all (fun p => !isFrozen (getCore s p)) = true →
    s.fab ≥ q.gooseFrom + usCycles q.goose → die = (dieSlots q).headD 0 → ∃ e : EventRec, e.code = 0x89 ∧ e.certain = false ∧ e.part = part ∧
    exec (.gooseDeadlock part) s = .next (postEvent (modDie (setPart (setPart s part (some q)) part (some { q with gooseDone := true })) die
      (fun d => { d with snaps := d.snaps ++ [snapshot s part q 4096] })) die e))

/-- Sounding, Scree, dumps (R326 to R340, R351). -/
def Obligations.SoundingAndRecords : Prop :=
  (∀ (s u : State), testsRun s = true → inServicePhase s = true → s.service ≠ 3 → u = newSweep s →
    (devNs s < nextSound u (u.sweepFrom.getD 0) → exec .soundingSweepTick s = .next u) ∧
    (∀ p, devNs s ≥ nextSound u (u.sweepFrom.getD 0) → u.sweep.find? (fun p => !clusterBusy u p) = some p →
      exec .soundingSweepTick s = .next (sweepEnds (soundNext { u with sweep := u.sweep.filter (fun q => q != p) } p)))) ∧
  (∀ (s : State) (core n addr b : Nat) (again : Bool) (x : CoreTest), coreOk s core = true → testsRun s = true → s.service ≠ 3 →
    testOf s core = some x → (x.begun = true ∨ soundYields s core = false) → n = x.slice → again = x.again →
    (again = true → countIn s 1 core 0x8C week ≥ 2 → exec (.soundingSlice core true addr b) s = .next (soundCondemns s core [])) ∧
    (¬ (again = true ∧ countIn s 1 core 0x8C week ≥ 2) →
      (n < 16 → exec (.soundingSlice core true addr b) s = .next (startSlice s core (n + 1) false (!soundYields s core))) ∧
      (n ≥ 16 → exec (.soundingSlice core true addr b) s = .next (soundEnds s core))) ∧
    (again = false → nextIsPermanent s 1 core = false →
      exec (.soundingSlice core false addr b) s = .next (soundFails s core n addr b)) ∧
    (again = false → nextIsPermanent s 1 core = true →
      exec (.soundingSlice core false addr b) s =
        .next (soundCondemns (soundFails s core n addr b) core (soundRecord s core n addr b))) ∧
    (again = true → exec (.soundingSlice core false addr b) s = .next (soundCondemns s core (soundRecord s core n addr b))) ∧
    ∃ e, e ∈ (startSlice s core n again).sounding ∧ e.core = core ∧ e.slice = n ∧ e.again = again ∧
      (e.clock, e.trim) = testSupply (getPow s (cluOfPhys core)).grant) ∧
  (∀ (s : State) (core : Nat) (x : CoreTest) (addr b : Nat) (pass : Bool), coreOk s core = true → testOf s core = some x →
    (s.service = 3 ∨ (x.begun = false ∧ soundYields s core = true)) → exec (.soundingSlice core pass addr b) s = .next s) ∧
  (∀ (s u : State) (temps : List (Nat × Nat)) (volts : List (Nat × Int)), u = gather s →
    (s.binAt = some (devSec s) → exec (.screeBinTick temps volts) s = .next s) ∧
    (s.binAt ≠ some (devSec s) → exec (.screeBinTick temps volts) s = .next { u with
      binAt := some (devSec s), scree := binAll (fun x => binUnit u temps volts x.1 x.2) (screeUnits u) u.scree }) ∧
    (∀ (k n : Nat) (r : Scree), ∃ (t v : Nat), binUnit u temps volts k n r =
        { r with temp := tset 0 r.temp t (sat32 (tget 0 r.temp t + 1)), volt := tset 0 r.volt v (sat32 (tget 0 r.volt v + 1)) } ∧
      (k ≠ 0x22 → t = tempBin (readingOf u temps (sensorOf k n))) ∧ (k = 0x22 → t = tempBin (hottest u temps)) ∧
      (∀ w, k ≠ 0x22 → volts.find? (fun e => e.1 == sensorOf k n) = some (sensorOf k n, w) → v = voltBin w))) ∧
  (∀ (s : State), devNs s ≥ s.genAt → ∃ g : Generation, g.number = max s.flash.areaA.number s.flash.areaB.number + 1 ∧
    g.count = (screeUnits s).length ∧ g.recs = s.scree ∧ g.digest = generationDigest s ∧
    (s.flash.areaA.number ≤ s.flash.areaB.number → exec .screeGenerationWrite s =
      .next { s with genAt := devNs s + 600000000000, flash := { s.flash with areaA := g } }) ∧
    (s.flash.areaB.number < s.flash.areaA.number → exec .screeGenerationWrite s =
      .next { s with genAt := devNs s + 600000000000, flash := { s.flash with areaB := g } })) ∧
  (∀ (s : State) (slot : Nat) (d : Dump), slot < 2 → d = tget {} s.dumps slot → d.bytes ≠ [] → d.copied = false → ∃ v : Dump,
    v.copied = true ∧ v.scope = d.scope ∧ v.part = d.part ∧ v.bytes.drop 64 = d.bytes.drop 64 ∧
    exec (.dumpCopy slot) s = .next { s with dumps := tset {} s.dumps slot v,
                                             flash := { s.flash with dumps := tset {} s.flash.dumps (s.flash.dumpNext % 8) v,
                                                                     dumpNext := (s.flash.dumpNext + 1) % 8 } }) ∧
  (∀ (s : State) (tier unit : Nat), tier < 2 →
    exec (.dramRefresh tier unit true) s =
      .next (setTier s tier { getTier s tier with calFail := tset 0 (getTier s tier).calFail unit 0 }) ∧
    (tget 0 (getTier s tier).calFail unit < 2 → exec (.dramRefresh tier unit false) s =
      .next (setTier s tier { getTier s tier with calFail := tset 0 (getTier s tier).calFail unit (tget 0 (getTier s tier).calFail unit + 1) })) ∧
    (tget 0 (getTier s tier).calFail unit ≥ 2 → ∃ (e : EventRec) (die : Nat), e.code = 0x8D ∧ e.unit = unit ∧ exec (.dramRefresh tier unit false) s =
      .next (postEvent (setTier s tier { getTier s tier with calFail := tset 0 (getTier s tier).calFail unit 0 }) die e)))

/-- Power (R470 to R481). -/
def Obligations.PowerCommands : Prop :=
  (∀ (s : State) (v : W64),
    (fld v 11 0 = 0 → exec (.pwrLimitWrite v) s = .next s) ∧
    (fld v 11 0 ≠ 0 → limitMin s ≤ fld v 11 0 → fld v 11 0 ≤ limitMax s →
      exec (.pwrLimitWrite v) s = .next { s with pwrLimit := BitVec.ofNat 64 (fld v 11 0) }) ∧
    (fld v 11 0 ≠ 0 → fld v 11 0 < limitMin s ∨ fld v 11 0 > limitMax s → exec (.pwrLimitWrite v) s = .next { s with pwrRefused := true }) ∧
    exec .pwrLimitRead s = .next { s with pwrRefused := false } ∧
    exec .pwrBrakeRelease s = .next { s with brake := false } ∧
    exec .pwrBrakeAssert s = .next (((allClusters s).filter (isActive s)).foldl
      (fun s c => modPow (atFloor s c) c (fun w => { w with pacing := if dieHot s (c / 16) = true then min w.pacing 4 else 8 }))
      { s with brake := true, hbmPace := 8 })) ∧
  (∀ (s : State) (c : Nat), cluOk s c = true →
    exec (.grantChangeDone c) s = .next (setPow s c { getPow s c with grant := (getPow s c).target }) ∧
    (∀ q pt, partOfCluster s c = some q → getPart s q = some pt → pt.running = true → (getPow s c).mode ≤ 1 → (getPow s c).lend = false →
      ((partCores s pt).filter (fun p => cluOfPhys p == c)).all (coreLends s) = true → ∃ low, low ≤ (getPow s c).target ∧
      exec (.lendFlagSet c) s =
        .next (shareLent (setPow s c { getPow s c with lend := true, own := (getPow s c).target, target := low }))) ∧
    (isActive s c = true → scheduled s c = false → (clusterPhys c).all (fun p => !coreBusy s p) = true →
      exec (.clusterIdleEntry c) s = .next (setPow s c { getPow s c with mode := 1 })) ∧
    ((getPow s c).waking = true →
      ((getPow s c).mode = 1 ∨ (getPow s c).mode = 2 → exec (.clusterWake c) s = .next (awaken s c)) ∧
      ((getPow s c).mode = 3 → exec (.clusterWake c) s = .next (awaken (wipeCluster s c) c))) ∧
    (∃ w : Pow, awaken s c = setPow s c w ∧ w.mode = 0 ∧ w.waking = false ∧ w.grant = (getPow s c).grant ∧ w.lend = (getPow s c).lend ∧
      w.target = fitGrant s c (if s.brake = true then floorOf s c else (getPow s c).target) ∧
      w.pacing = (if s.brake = true then min (getPow s c).pacing 8 else (getPow s c).pacing))) ∧
  (∀ (s : State) (e : Nat),
    (e * 100 > 97 * capOf s → exec (.powerBudgetTick e) s = .next (reduceStep s)) ∧
    (e * 100 < 95 * capOf s → s.brake = false → s.fab ≥ s.restoredAt + usCycles 1000 →
      exec (.powerBudgetTick e) s = .next (restoreStep { s with restoredAt := s.fab })) ∧
    (e * 100 < 95 * capOf s → s.brake = true ∨ s.fab < s.restoredAt + usCycles 1000 → exec (.powerBudgetTick e) s = .next s) ∧
    (95 * capOf s ≤ e * 100 → e * 100 ≤ 97 * capOf s → exec (.powerBudgetTick e) s = .next s)) ∧
  (∀ (s : State) (a b va vb : Nat), cluOk s a = true → cluOk s b = true → (neighbours a).contains b = true →
    (getPow s a).mode ≤ 1 → (getPow s b).mode ≤ 1 → va ≥ vb + 121 →
    exec (.voltageClamp a b va vb) s = .next (modPow (clampStep s a 1) a (fun w => { w with vclamp := true }))) ∧
  (∀ (s : State) (sensor t : Nat), s.boot ≠ .unpowered → (readSensor s sensor t).trip = false → t < 112 →
    exec (.thermalSensorRead sensor t) s = .next (readSensor s sensor t))

/-- Resets (R341 to R357, R481, R482). -/
def Obligations.PowerAndResets : Prop :=
  ∀ (s : State),
    (s.boot = .unpowered → exec .powerOn s =
      .next { s with refclk := true, bootFrom := s.fab, boot := if s.resetLow = true ∨ s.trip = true then .held else .stage 0 }) ∧
    exec .powerLoss s = .next (losePower s) ∧ (losePower s).boot = .unpowered ∧ (losePower s).cores = [] ∧ (losePower s).parts = [] ∧
    (losePower s).cmds = [] ∧ (losePower s).flash = s.flash ∧ (losePower s).meter = s.meter ∧ (losePower s).pending = s.pending ∧
    (s.refclk = true → exec .refclkStop s = .next (losePower s)) ∧
    (s.resetLow = false → s.boot ≠ .unpowered → exec .resetInputAssert s = .next (resetByBoard { s with resetLow := true })) ∧
    (s.resetLow = true → s.boot = .held → exec .resetInputRelease s = .next (startBoot { s with resetLow := false })) ∧
    (s.boot = .service → s.ouvosUp = true → ∀ u b, chargeReset { s with ouvosUp := false } mgmtKey = (u, b) →
      exec .managementWatchdogExpiry s = .next (if b = true then resetWithDump u 0xF1 else u)) ∧
    (∀ n, s.boot = .stage n → exec .managementWatchdogExpiry s = .next (resetWithDump s 0xF2)) ∧
    (s.boot = .service → s.ouvosUp = false → ∀ u : State, u = s.cmds.foldl (fun s c => finish (abandon s c) c stReset [])
        (emptyBuffers { s with ouvosUp := true }) → (∀ p, p < 64 → getPart u p = none) →
      exec .ouvosRestartEnd s = .next (startWaiting u)) ∧
    (∀ o, s.resetPend = some o → exec .deviceResetBegin s = .next (resetWithDump (if o = 1 then { s with service := 0 } else s) 0xF0)) ∧
    (∀ die, dieOk s die = true → (getDie s die).resetting = true → ∃ u : State,
      u = censusEnds (rebuildDie (modDie s die (fun v => { v with resetting := false })) die) { code := 4, unit := die } (getDie s die).resetAt
        (dieCensus (rebuildDie (modDie s die (fun v => { v with resetting := false })) die) die
          (dieCores (rebuildDie (modDie s die (fun v => { v with resetting := false })) die) die)) ∧
      exec (.dieResetEnd die) s = .next (startWaiting ((u.cmds.filter (fun c => c.started && ((c.op == 0x0007 && bf c.m 0 1 == die) ||
        (c.op == 0x0102 && (getPart u (scopePart c.m)).any (fun pt => (diesOf pt).all (fun d => !(getDie u d).resetting)))))).foldl
        (fun s c => finish s c stOk []) u)))

/-- The boot (R482 to R495). -/
def Obligations.BootStages : Prop :=
  ∀ (s : State),
    (∀ straps u, s.boot = .stage 0 → u = modScree s 0x22 0 (fun r => { r with sndRuns := sat32 (r.sndRuns + 1) }) →
      exec (.bootStage0 straps) s =
        .next (endStage { u with i3cAddr := 0x50 + straps % 4, flash := { u.flash with boots := u.flash.boots + 1 } } 0 0 0 0 0 (.stage 1))) ∧
    (∀ u0 u, s.boot = .stage 1 → finishTransition s = (u0, none) → lifeCycle u0.flash.lc ≠ 4 →
      u = { u0 with idKey := classSeed u0 (identityClass u0), storageKey := Config.storageKey u0.flash.idSeed } → exec (.bootStage1 false) s =
      .next (endStage (applyMap u) 1 0 0 (applyMap u).fused.length ((applyMap u).soft.length % 65536) (.stage 2))) ∧
    (∀ f n (u : State), s.boot = .stage 2 → chooseSlot s.flash = (f, n) → n < 2 → u = { s with flash := f } →
      exec .bootStage2 s = .next (
        if imageOk u (fwSlot u n) = true then
          endStage { u with fw := { slot := n, image := (fwSlot u n).take (fwLength (fwSlot u n)) } } 2 0 0 0 n (.stage 3)
        else if imageOk u (fwSlot u (1 - n)) = true then
          endStage { u with fw := { slot := 1 - n, image := (fwSlot u (1 - n)).take (fwLength (fwSlot u (1 - n))) } } 2 4 (n + 1) 0 (1 - n) (.stage 3)
        else endStage u 2 2 3 0 n (.stopped 2))) ∧
    (s.boot = .stage 3 → (s.meter.powered = true → ∃ f, exec (.bootStage3 true) s =
      .next (endStage s 3 (if f = 0 then 0 else 1) f 0 ((mtrStatus s).toNat % 65536) (.stage 4))) ∧
      exec (.bootStage3 false) s = .next (endStage { s with meterUnread := true } 3 1 (2 ^ 11) 0 0 (.stage 4))) ∧
    (∀ bad, s.boot = .stage 4 → ∃ (u : State) (st f used : Nat), u = (linksOf (bad.foldl (fun s e =>
        if (linksOf s).contains e.1 && decide (e.2 < linkLanes e.1 + spareLanes e.1) then failLane s (e.1 + 8 * e.2) 0x10 else s) s)).foldl
        linkCheck (bad.foldl (fun s e =>
        if (linksOf s).contains e.1 && decide (e.2 < linkLanes e.1 + spareLanes e.1) then failLane s (e.1 + 8 * e.2) 0x10 else s) s) ∧
      exec (.bootStage4 bad) s = .next (endStage u 4 st f used 0 (.stage 5)) ∧ (st = 0 ↔ f = 0)) ∧
    (s.boot = .stage 5 → ∃ (u : State) (n d : Nat), exec (.bootStage5 0 0xFFF []) s = .next (endStage u 5 1 (256 * 0xFFF) n d (.stage 6)) ∧
      u.hbm.present = true ∧ u.ddr.present = false ∧ u.dies = s.dies ∧ u.cores = s.cores) ∧
    (∀ failed, s.boot = .stage 6 → s.bootFull = false → s.flash.plan = [] → planStands s.flash = true → ∃ (st a n : Nat) (u : State),
      u = endStage (powerAll ((allClusters (quickCheck s failed)).foldl wipeCluster (quickCheck s failed)) 0) 6 st a n 0 (.stage 7) ∧
      exec (.bootStage6 failed) s = .next { broadcast u 0 (List.range (dieCount s.product)) (microPieces u) with loadMode := true }) ∧
    (∀ code, s.boot = .stage 7 → code = fwUcode s.fw.image → ∃ (st a n : Nat) (u : State), u = powerAll ((allCores s).foldl (fun s p => modCore s p (fun c =>
        { c with micro := writeBytes [] 0 code, microcode := true, chunk := none, chunksHeld := [] })) s) 3 ∧ n < 4 ∧
      exec (.bootStage7 []) s =
        .next (endStage { useFree u with switches := [], routers := [], ends := [], loadMode := false } 7 st a 0 n (.stage 8))) ∧
    (∀ up, s.boot = .stage 8 → ∃ (st f : Nat) (u : State), exec (.bootStage8 up) s = .next (endStage u 8 st f 0 0 (.stage 9)) ∧
      u.portMode = s.flash.portModes ∧ u.ptpPort = s.flash.ptp ∧ u.ptpHeard = s.fab) ∧
    (s.boot = .stage 9 → ∃ t svc, exec .bootStage9 s = .next t ∧ t.boot = .service ∧ t.ouvosUp = true ∧ t.service = svc ∧
      svc = (if deviceResets s ≥ 4 then 1 else s.service) ∧ t.bootLog = t.flash.bootLog ∧ t.cores = s.cores ∧ t.parts = s.parts)

/-- Reports (R484, R485). -/
def Obligations.StageReports : Prop :=
  (∀ (s : State) (stage status failed count detail : Nat) (next : BootPhase), ∃ r : Report,
    r.stage = stage ∧ r.status = status ∧ r.failed = failed ∧ r.count = count ∧ r.detail = detail ∧ r.time = devNs s / 1000000 ∧
    r.boot = s.flash.boots % 65536 ∧
    endStage s stage status failed count detail next =
      { s with boot := next, bootFrom := s.fab, report := some r, ibis := s.ibis ++ [0x80 + stage],
               bootLog := (s.bootLog ++ [r]).drop (s.bootLog.length + 1 - 64) }) ∧
  (∀ (s : State),
    (∀ u, s.boot = .stage 0 → u = modScree s 0x22 0 (fun r => { r with sndRuns := sat32 (r.sndRuns + 1) }) → exec .stageOverrun s =
      .next (endStage { u with i3cAddr := 0x50 + (u.i3cAddr - 0x50) % 4, flash := { u.flash with boots := u.flash.boots + 1 } }
        0 1 0 0 0 (.stage 1))) ∧
    (s.boot = .stage 1 → exec .stageOverrun s = .next (endStage s 1 2 2 0 0 (.stopped 1))) ∧
    (s.boot = .stage 2 → exec .stageOverrun s = .next (endStage s 2 2 3 0 (s.flash.active % 2) (.stopped 2))) ∧
    (s.boot = .stage 3 → exec .stageOverrun s = .next (endStage { s with meterUnread := true } 3 1 (2 ^ 11) 0 0 (.stage 4))) ∧
    (∀ n, s.boot = .stage n → ∃ r : Report, r.stage = n ∧ r.status = 3 ∧ exec .stageWaitingReport s =
      .next { s with report := some r, ibis := s.ibis ++ [0x80 + n], bootLog := (s.bootLog ++ [r]).drop (s.bootLog.length + 1 - 64) }))

namespace Sys2Proof.Machine

/-- The commands of the mailbox catalogue with their opcodes (R397). -/
def mailRows (m : Mbx) : List (Instr × Nat) :=
  [(.deviceStatus m, 0x0001), (.subscribe m, 0x0002), (.portMode m, 0x0003), (.addrSet m, 0x0004), (.ptpSet m, 0x0005),
   (.reinstate m, 0x0006), (.dieReset m, 0x0007), (.deviceReset m, 0x0008), (.shutdown m, 0x0009), (.partCreate m, 0x0101),
   (.partDelete m, 0x0102), (.partReserve m, 0x0103), (.partWindows m, 0x0104), (.partMemory m, 0x0105), (.partRekey m, 0x0106),
   (.mbxBind m, 0x0107), (.mbxUnbind m, 0x0108), (.partCm5 m, 0x0109), (.partGoose m, 0x010A), (.partReset m, 0x010B)] ++
  [(.partStatus m, 0x010C), (.imageLoad m, 0x0201), (.jobStart m, 0x0202), (.jobAbort m, 0x0203), (.jobRestart m, 0x0204),
   (.jobStatus m, 0x0205), (.bucketOpen m, 0x0301), (.bucketClose m, 0x0302), (.bucketQuery m, 0x0303), (.peerTable m, 0x0304),
   (.regionRegister m, 0x0401), (.regionDeregister m, 0x0402), (.qpCreate m, 0x0403), (.qpDestroy m, 0x0404),
   (.recvPost m, 0x0405), (.memWrite m, 0x0406), (.memRead m, 0x0407), (.countersRead m, 0x0501), (.coreStateRead m, 0x0502)] ++
  [(.screeRead m, 0x0503), (.dumpRead m, 0x0504), (.spoilRead m, 0x0505), (.soundingCfg m, 0x0506), (.attest m, 0x0601),
   (.identityRead m, 0x0602), (.macsecSa m, 0x0603), (.stewardKeySet m, 0x0604), (.fwUpdate m, 0x0605), (.fwActivate m, 0x0606),
   (.lifecycle m, 0x0607), (.meterRecords m, 0x0701), (.meterAudit m, 0x0702), (.meterIdentity m, 0x0703)]

/-- No command is outstanding, no fence action or search holds one back, no policy waits and no Scree generation is due: the firmware is up
in mailbox service. -/
structure Quiet (s : State) : Prop where
  up      : s.ouvosUp = true
  service : s.boot = .service
  none_   : s.cmds = []
  fresh   : devNs s < s.genAt + 3600000000000
  idle    : ∀ p pt, getPart s p = some pt → actionPending s pt = false ∧ pt.isolate = none ∧ pt.due = []

/-- A request that arrives on a mailbox pair and passes every check of R385 to R387, R395 and R402 but the signature's, which
`signedOk` says: the message is well formed, its pair may send it, its number is new, its command is in service and no limit makes
it wait; a receive buffer of its pair is free. Its scope is of its command's kind, and the partition that it names exists. -/
structure Admits (s : State) (m : Mbx) (op : Nat) : Prop where
  quiet  : Quiet s
  pair   : ∃ v, getQp s m.qpn = some v ∧ v.mbx = true ∧ v.error = false ∧ v.filled < 64 ∧ scopeDenied v m op = false ∧
    (v.owner = 64 → seqOk s m op = true) ∧ busyMs s v m = none
  well   : msgBad m = false ∧ notServed s m op = false
  scope  : ∀ i, opInfo op = some i → (i.scope = 0 → scopePart m = 64) ∧ (i.scope = 1 → scopePart m ≠ 64)
  exists_ : scopePart m ≠ 64 → (getPart s (scopePart m)).isSome = true

/-- The request needs no signature, its pair being a tenant's, or carries a good one (R386). -/
def signedOk (s : State) (m : Mbx) (op : Nat) : Bool :=
  match getQp s m.qpn with
  | some v => v.owner != 64 || signatureOk s m op
  | none => true

/-- The state `t`, or where the steward's signature does not verify the answer that says so. -/
def orDenied (s : State) (m : Mbx) (op : Nat) (t : State) : State :=
  if signedOk s m op = true then t else respond s m.qpn op m.tag stAuth m.scope 0 0 false []

/-- The command as it is outstanding once it has started. -/
def cmdOf (s : State) (m : Mbx) (op : Nat) : Cmd := { op := op, m := m, since := s.fab, started := true }

/-- The state in which the request has been admitted and started: its sequence number is recorded, it is outstanding, and the turn is
its partition's where it is a tenant's (R396). -/
def admitted (s : State) (m : Mbx) (op : Nat) : State := { recordSeq (useFree s) m op with cmds := [cmdOf s m op], turn := if m.flags = 1 then s.turn else scopePart m }

/-- The command is carried out and answered with status OK: exec answers the next state `t` with the slot returned and the
response, with body `b`, sent; a request whose signature does not verify is answered with the status that says so. -/
def Answers (i : Instr) (s : State) (m : Mbx) (op : Nat) (t : State) (b : List Byte) : Prop :=
  exec i s = .next (orDenied s m op (finish t (cmdOf s m op) 0 b))

/-- The partition of the request's scope. -/
def partOf (s : State) (m : Mbx) (pt : Part) : Prop := getPart s (scopePart m) = some pt

end Sys2Proof.Machine

/-- Admission, start and completion of every mailbox command. -/
def Obligations.MailboxCommandsRun : Prop :=
  ∀ (s : State) (m : Mbx) (e : Instr × Nat), e ∈ mailRows m → Admits s m e.2 →
    (∀ t st b, doOp (admitted s m e.2) m e.2 = (t, .done st b) → t.cmds = [cmdOf s m e.2] →
      exec e.1 s = .next (orDenied s m e.2 (finish t (cmdOf s m e.2) st b))) ∧
    (∀ t, doOp (admitted s m e.2) m e.2 = (t, .wait) → (∀ c, c ∈ t.cmds → c.started = true ∧ c.stage ≠ 2) → exec e.1 s = .next (orDenied s m e.2 t))

/-- Commands 0x0001 to 0x0009. -/
def Obligations.DeviceCommands : Prop :=
  ∀ (s : State) (m : Mbx) (a : Nat → State), (a = fun op => admitted s m op) →
    (Admits s m 0x0001 → bOver m 8 = false → ∃ b, Answers (.deviceStatus m) s m 0x0001 (a 0x0001) b ∧ b.length = 64 ∧
      b.take 8 = slice m.body 0 8 ∧ numAt b 8 1 = productCode s.product ∧ numAt b 10 1 = lifeCycle s.flash.lc % 256 ∧
      numAt b 11 1 = s.service % 256 ∧ slice b 24 8 = leBytes 8 (a 0x0001).seqHigh ∧ slice b 32 8 = leBytes 8 (devNs s)) ∧
    (Admits s m 0x0002 → bOver m 8 = false → Answers (.subscribe m) s m 0x0002
      (modQp (a 0x0002) m.qpn (fun v => { v with subs := BitVec.ofNat 64 (bf m 0 8) })) []) ∧
    (Admits s m 0x0003 → bf m 0 1 ≤ 1 → bf m 1 1 ≤ 2 → bOver m 2 = false → tget 0 s.portMode (bf m 0 1) ≠ bf m 1 1 →
      Answers (.portMode m) s m 0x0003 { a 0x0003 with modePend := tset none s.modePend (bf m 0 1) (some (bf m 1 1)) } []) ∧
    (Admits s m 0x0004 → lportExists s (bf m 0 1) = true → bf m 2 1 < 8 → bf m 3 1 < 64 → bOver m 32 = false →
      bf m 1 1 = 0 ∨ bf m 1 1 ≤ 64 ∧ (getPart s (bf m 1 1 - 1)).isSome = true →
      (bf m 2 1 % 2 = 0 → (getEntry s (bf m 0 1) (bf m 1 1)).isSome = true → exec (.addrSet m) s =
        .next (orDenied s m 0x0004 (settleCmd (cmdOf s m 0x0004) (removeEntry (a 0x0004) (bf m 0 1) (bf m 1 1), .done 0 [])))) ∧
      (∀ e : AddrEntry, bf m 2 1 % 2 = 1 → e.flags = bf m 2 1 → e.pd = bf m 3 1 % 8 → e.pc = bf m 3 1 / 8 → e.vlan = bf m 4 2 →
        e.mac = bf m 6 6 → e.ip4 = bf m 12 4 → e.ip6 = bf m 16 16 →
        e.sas = ((getEntry s (bf m 0 1) (bf m 1 1)).map (fun x => x.sas)).getD [] →
        e.held = ((getEntry s (bf m 0 1) (bf m 1 1)).map (fun x => x.held)).getD 0 → bf m 2 1 ≠ 1 → e.pd ≠ e.pc → e.vlan ≤ 4094 →
        multicast e.mac = false → entryClash s (bf m 0 1) (bf m 1 1) e = false →
        ∀ u, u = setEntry (a 0x0004) (bf m 0 1) (bf m 1 1) (some e) →
        Answers (.addrSet m) s m 0x0004 (if bf m 1 1 = 0 then storeDevEntry u (bf m 0 1) else u) [])) ∧
    (∀ p, Admits s m 0x0005 → lportExists s (bf m 0 1) = true → bf m 1 1 ≤ 2 → bOver m 2 = false →
      p = (if bf m 1 1 = 0 then none else some (bf m 0 1, bf m 1 1)) → ∃ f : Flash, f.ptp = p ∧ { f with ptp := (a 0x0005).flash.ptp } = (a 0x0005).flash ∧
      Answers (.ptpSet m) s m 0x0005 { a 0x0005 with ptpPort := p, ptpHeard := s.fab, ptpSync := none, ptpDelay := none, ptpReq := none, ptpFree := true, flash := f } []) ∧
    (∀ l, Admits s m 0x0006 → bOver m 0 = false → l = s.charged.filter (fun e => e.1 != deviceKey) → ∃ u : State,
      u = { a 0x0006 with charged := l, flash := { (a 0x0006).flash with windows := l.map (fun e => (e.1, e.2.1)) } } ∧
      (s.service = 0 → Answers (.reinstate m) s m 0x0006 u []) ∧
      (s.service = 1 → Answers (.reinstate m) s m 0x0006 (setService u 0) []) ∧
      (s.service = 2 → Answers (.reinstate m) s m 0x0006 { u with resetPend := some 1 } [])) ∧
    (Admits s m 0x0007 → dieOk s (bf m 0 1) = true → bOver m 1 = false → (getDie s (bf m 0 1)).resetting = false →
      exec (.dieReset m) s = .next (orDenied s m 0x0007 (beginDieReset (a 0x0007) (bf m 0 1) 0xF0))) ∧
    (Admits s m 0x0008 → bf m 0 1 ≤ 1 → bOver m 1 = false →
      Answers (.deviceReset m) s m 0x0008 { a 0x0008 with resetPend := some 0, bootFull := decide (bf m 0 1 = 1) } []) ∧
    (Admits s m 0x0009 → bf m 0 1 = 0 → bOver m 1 = false → s.parts = [] →
      Answers (.shutdown m) s m 0x0009 (shutdownWrites (setService { a 0x0009 with outBefore := s.service, sweep := [], sounding := [], sweepFrom := none, sweepOut := [] } 3)) (zeros 8))

/-- Commands 0x0101 to 0x010C. -/
def Obligations.PartitionCommands : Prop :=
  ∀ (s : State) (m : Mbx) (a : Nat → State) (k : Nat) (pt : Part), (a = fun op => admitted s m op) → k = scopePart m → k < 64 →
    (∀ p tag, Admits s m 0x0101 → createBad s m = false → diesOut s (namedClusters m) = false → (List.range 64).find? (partIdFree s) = some p →
      freeTags s (bf m 12 2) = some tag → ∃ (v : Part) (u : State), v.kind = bf m 0 1 ∧ v.clusters = namedClusters m ∧
      v.declared = reservesAt m 8 ∧ v.bucketAt = tag ∧ v.buckets = bf m 12 2 ∧ v.image = [] ∧ v.running = false ∧
      u = (reservesAt m 8).foldl (fun s r => takeCluster p 2 s (16 * ((namedClusters m).headD 0 / 16) + r))
        ((namedClusters m).foldl (takeCluster p 1) (a 0x0101)) ∧
      v.xts = leBytes 64 (Config.freeValue u.freeSeq 0) ∧ v.tagKey = leBytes 32 (Config.freeValue u.freeSeq 1) ∧ v.epoch = 1 ∧
      Answers (.partCreate m) s m 0x0101 (setPart (useFree u) p (some v)) (leBytes 1 p ++ zeros 1 ++ leBytes 2 tag ++ leBytes 4 1)) ∧
    (partOf s m pt →
      (Admits s m 0x0102 → bOver m 0 = false → Answers (.partDelete m) s m 0x0102 (deletePart (a 0x0102) k) []) ∧
      (Admits s m 0x0103 → bOver m 4 = false → reservesAt m 0 = [] → pt.image = [] → heldReserves s k = [] →
        Answers (.partReserve m) s m 0x0103 (setPart (a 0x0103) k (some { pt with declared := [] })) []) ∧
      (∀ w, Admits s m 0x0104 → bf m 0 1 < 64 → bf m 1 1 = 1 → pt.running = false → bRsv m 2 6 = false → bOver m 24 = false →
        fld (BitVec.ofNat 128 (bf m 8 16)) 127 99 = 0 → w = tset 0 pt.windows (bf m 0 1) (BitVec.ofNat 128 (bf m 8 16)) →
        windowSetBad pt w = false → Answers (.partWindows m) s m 0x0104 (setPart (a 0x0104) k (some { pt with windows := w })) []) ∧
      (∀ first units, Admits s m 0x0105 → bf m 1 1 ≤ 1 → bf m 2 1 = 1 → bRsv m 3 5 = false → bOver m 24 = false → first = bf m 8 8 →
        units = bf m 16 8 → units ≠ 0 →
        (bf m 0 1 = 0 → pt.running = false → inDataPart s (bf m 1 1) first units = true → rangeTaken s (bf m 1 1) first units = false →
          (rangesOf pt (bf m 1 1)).length < 16 → (getTier s (bf m 1 1)).retired = [] →
          Answers (.partMemory m) s m 0x0105 (setPart (fillRange (a 0x0105) (bf m 1 1) first units) k
            (some (setRanges pt (bf m 1 1) (rangesOf pt (bf m 1 1) ++ [(first, units)])))) []) ∧
        (bf m 0 1 = 1 → (rangesOf pt (bf m 1 1)).contains (first, units) = true → windowOn pt (bf m 1 1) first units = false →
          Answers (.partMemory m) s m 0x0105 (setPart (a 0x0105) k
            (some (setRanges pt (bf m 1 1) ((rangesOf pt (bf m 1 1)).erase (first, units))))) [])) ∧
      (Admits s m 0x0106 → bf m 0 1 = 0 → bOver m 1 = false → pt.running = false → pt.epoch ≠ 0xFFFFFFFF →
        Answers (.partRekey m) s m 0x0106
          ((pt.hbm.map (fun r => (0, r)) ++ pt.ddr.map (fun r => (1, r))).foldl (fun u (e : Nat × Nat × Nat) => fillRange u e.1 e.2.1 e.2.2)
            (modPart (useFree (a 0x0106)) k (fun q => { q with
              epoch := q.epoch + 1, xts := leBytes 64 (Config.freeValue (a 0x0106).freeSeq 0)
              tagKey := leBytes 32 (Config.freeValue (a 0x0106).freeSeq 1) }))) (leBytes 4 (pt.epoch + 1) ++ zeros 4 ++ leBytes 8 0)) ∧
      (∀ q, Admits s m 0x0107 → qpBodyBad m = false → lportExists s (bf m 0 1) = true → (getEntry s (bf m 0 1) (entryOf k)).isSome = true →
        mbxPairs s k < 16 → freeQpn s = some q → ∃ v : Qp, v.owner = k ∧ v.mbx = true ∧ v.lport = bf m 0 1 ∧ v.remote = bf m 4 3 ∧
        v.remoteIp = bf m 8 16 ∧ v.error = false ∧
        Answers (.mbxBind m) s m 0x0107 (setQp (a 0x0107) q (some v)) (leBytes 4 q ++ leBytes 2 v.udp)) ∧
      (∀ v, Admits s m 0x0108 → bOver m 4 = false → getQp s (bf m 0 4) = some v → v.mbx = true → v.owner = k →
        Answers (.mbxUnbind m) s m 0x0108 (destroyQp (a 0x0108) (bf m 0 4)) []) ∧
      (Admits s m 0x0109 → bRsv m 1 1 = false → bOver m 4 = false →
        (bf m 0 1 = 0 → Answers (.partCm5 m) s m 0x0109 (setPart (a 0x0109) k (some { pt with cm5 := none, cm5From := [], cm5Wait := [] })) []) ∧
        (bf m 0 1 = 1 → bf m 2 2 ≠ 0 → bf m 2 2 ≠ 4791 → pt.clusters.length ≤ 1 → (partEntries s k).any (fun e => e.sas.isEmpty) = false →
          Answers (.partCm5 m) s m 0x0109
            (setPart (a 0x0109) k (some { pt with cm5 := some (bf m 2 2), cm5From := [], cm5Wait := [] })) [])) ∧
      (Admits s m 0x010A → bOver m 4 = false → bf m 0 4 < 2 ^ 20 →
        Answers (.partGoose m) s m 0x010A (setPart (a 0x010A) k (some { pt with goose := bf m 0 4 })) []) ∧
      (Admits s m 0x010B → bOver m 0 = false →
        ((diesOf pt).all (fun d => (getDie s d).resetting) = false → Answers (.partReset m) s m 0x010B (resetPart (a 0x010B) k 0xF0) []) ∧
        ((diesOf pt).all (fun d => (getDie s d).resetting) = true →
          exec (.partReset m) s = .next (orDenied s m 0x010B (failPairs (modPart (a 0x010B) k unloaded) k)))) ∧
      (Admits s m 0x010C → bOver m 0 = false → ∃ b, Answers (.partStatus m) s m 0x010C (a 0x010C) b ∧ b.take 1 = leBytes 1 k ∧
        slice b 1 1 = leBytes 1 pt.kind ∧ slice b 2 1 = leBytes 1 (partStateCode s pt) ∧ slice b 10 2 = leBytes 2 pt.bucketAt ∧
        slice b 12 2 = leBytes 2 pt.buckets ∧ slice b 16 4 = leBytes 4 pt.epoch ∧ slice b 24 8 = leBytes 8 pt.job))

/-- Commands 0x0201 to 0x0304. -/
def Obligations.LoadJobAndBucketCommands : Prop :=
  ∀ (s : State) (m : Mbx) (a : Nat → State) (k : Nat) (pt : Part), (a = fun op => admitted s m op) → k = scopePart m → k < 64 → partOf s m pt →
    (∀ v, Admits s m 0x0201 → imageLoadBad pt m = false → partHeld s pt = false → bf m 12 4 ≠ 0 → getQp s m.qpn = some v →
      exec (.imageLoad m) s = .next (orDenied s m 0x0201 (sendOn (modCmd (a 0x0201) m (fun c => { c with want := bf m 12 4 })) m.qpn
        { psn := 0, kind := 2, addr := bf m 0 8, rkey := bf m 8 4, len := bf m 12 4, job := m.tag }))) ∧
    (∀ (c : Cmd) (img : List Byte), c.m = m → c.fetched.headD [] = img → img ≠ [] → badItem c = none → numAt img 12 4 = img.length →
      imageBad s img pt = false →
      concludeImage s c k = (modCmd (beginLoad (modPart s k (fun q =>
        { q with image := img, digest := none, blobs := [], fenced := 0, chunks := 0, moves := [] })) k) m (fun c => { c with stage := 1 }), .wait)) ∧
    (∀ (c : Cmd) (pt1 : Part) (lacking : List (Nat × Nat)) (u : State), moving pt = false → rollCall s k lacking = (u, .complete) →
      getPart u k = some pt1 → u.cmds.find? (fun c => c.op == 0x0201 && scopePart c.m == k && c.stage == 1) = some c →
      exec (.flockRollCall k lacking) s = .next (afterAction (finish (loadDone u k pt1 c) c 0
        (loadBody (some (sha3 pt1.image)) pt1.chunks pt1.fenced)))) ∧
    (∀ args, Admits s m 0x0202 → bf m 1 1 = 0 → bRsv m 2 6 = false → bRsv m 28 4 = false → bf m 24 4 ≤ 65440 → bOver m (32 + bf m 24 4) = false →
      partOut s pt = false → pt.image ≠ [] → pt.loading = false → pt.running = false → bf m 0 1 ≤ 2 → addrBad (bf m 8 8) = false →
      addrBad (bf m 16 8) = false → args = slice m.body 32 (bf m 24 4) → (firstBad pt true (bf m 16 8) args.length) = none →
      Answers (.jobStart m) s m 0x0202 (raiseFloors (startJob (putMem (a 0x0202) k pt.die (bf m 16 8) args).1 k (bf m 0 1) 0 (bf m 8 8)) pt.clusters)
        (leBytes 8 (pt.job + 1))) ∧
    (Admits s m 0x0203 → bOver m 0 = false → jobRuns s k = true →
      Answers (.jobAbort m) s m 0x0203 (abortPart (a 0x0203) k 1 (stopScope 0xF0 [] [])) []) ∧
    (Admits s m 0x0204 → bOver m 0 = false → jobRuns s k = true →
      Answers (.jobRestart m) s m 0x0204 (restartPart (stopPart (a 0x0204) k (stopScope 0xF0 [] [])) k) []) ∧
    (Admits s m 0x0205 → bOver m 0 = false → pt.running = false → Answers (.jobStatus m) s m 0x0205 (a 0x0205) (slice pt.lastEnd 0 32)) ∧
    (∀ (tag : Nat) (b : Bucket), tag = bf m 0 2 → pt.bucketAt ≤ tag → tag < pt.bucketAt + pt.buckets → b = getBucket s tag →
      (∀ n : Bucket, Admits s m 0x0301 → bOver m 64 = false → b.state = 0 → n = { desc := slice m.body 0 64, part := k, peers := b.peers, closes := b.closes } →
        descReserved n = false → (bTiles n ≠ 0 → bucketOpenBad s k pt tag n = false) →
        Answers (.bucketOpen m) s m 0x0301 (openRound (setBucket (a 0x0301) tag n) tag 0 false) []) ∧
      (Admits s m 0x0302 → bOver m 2 = false → b.state ≠ 0 →
        Answers (.bucketClose m) s m 0x0302 (setBucket (a 0x0302) tag { part := k, peers := b.peers, closes := b.closes + 1 }) []) ∧
      (Admits s m 0x0303 → bOver m 2 = false → ∃ x, Answers (.bucketQuery m) s m 0x0303 (a 0x0303) x ∧ x.length = 16 ∧
        x.take 3 = leBytes 1 b.state ++ leBytes 1 b.reason ++ leBytes 1 (if b.parity = true then 1 else 0) ∧ slice x 4 4 = leBytes 4 b.round) ∧
      (Admits s m 0x0304 → bf m 2 1 = 0 → bRsv m 3 5 = false → bOver m 8 = false →
        Answers (.peerTable m) s m 0x0304 (a 0x0304) []) ∧
      (∀ l, Admits s m 0x0304 → 0 < bf m 2 1 → bf m 2 1 ≤ 64 → bRsv m 3 5 = false → bOver m (8 + 16 * bf m 2 1) = false → b.state = 0 →
        l = (List.range (bf m 2 1)).map (fun i => (bf m (8 + 16 * i) 4, bf m (12 + 16 * i) 4, bf m (16 + 16 * i) 8)) →
        (l.filter (· == (0, 0, 0))).length ≤ 1 → (∀ e, e ∈ l → e ≠ (0, 0, 0) → ∃ v, getQp s e.1 = some v ∧ v.mbx = false ∧ v.owner = k) →
        Answers (.peerTable m) s m 0x0304 (modBucket (a 0x0304) tag (fun b => { b with peers := l, part := k })) []))

/-- Commands 0x0401 to 0x0506. -/
def Obligations.MemoryAndDiagnosticCommands : Prop :=
  ∀ (s : State) (m : Mbx) (a : Nat → State) (k : Nat) (pt : Part), (a = fun op => admitted s m op) → k = scopePart m →
    (partOf s m pt → k < 64 →
      (∀ r : Nat, Admits s m 0x0401 → bf m 16 1 ≤ 3 → bRsv m 17 1 = false → bRsv m 20 4 = false → bOver m 24 = false → addrBad (bf m 0 8) = false →
        bf m 8 8 ≠ 0 → areaBad pt true true (bf m 0 8) (bf m 8 8) = false → freeRkey s = some r →
        ∀ g : Region, g = { owner := k, addr := bf m 0 8, len := bf m 8 8, access := bf m 16 1, tag := bf m 18 2 } →
        Answers (.regionRegister m) s m 0x0401 { a 0x0401 with regions := tset none s.regions r (some g) } (leBytes 4 r)) ∧
      (∀ r, Admits s m 0x0402 → bOver m 4 = false → getRegion s (bf m 0 4) = some r → r.owner = k → r.access.testBit 2 = false →
        Answers (.regionDeregister m) s m 0x0402 { a 0x0402 with regions := tset none s.regions (bf m 0 4) none } []) ∧
      (∀ q, Admits s m 0x0403 → qpBodyBad m = false → lportExists s (bf m 0 1) = true → (getEntry s (bf m 0 1) (entryOf k)).isSome = true →
        freeQpn s = some q → ∃ v : Qp, v.owner = k ∧ v.mbx = false ∧ v.lport = bf m 0 1 ∧ v.remote = bf m 4 3 ∧ v.remoteIp = bf m 8 16 ∧
        v.error = false ∧ Answers (.qpCreate m) s m 0x0403 (setQp (a 0x0403) q (some v)) (leBytes 4 q ++ leBytes 2 v.udp)) ∧
      (∀ v, Admits s m 0x0404 → bOver m 4 = false → getQp s (bf m 0 4) = some v → v.mbx = false → v.owner = k →
        Answers (.qpDestroy m) s m 0x0404 (destroyQp (a 0x0404) (bf m 0 4)) []) ∧
      (∀ v, Admits s m 0x0405 → getQp s (bf m 0 4) = some v → v.mbx = false → v.owner = k → bf m 4 2 = 1 → bRsv m 6 2 = false →
        bOver m 24 = false → addrBad (bf m 8 8) = false → bf m 16 4 ≥ 16 → firstBad pt true (bf m 8 8) (bf m 16 4) = none → bf m 23 1 = 0 →
        v.recvs.length < 1024 → ∀ l, l = v.recvs ++ [(bf m 8 8, bf m 16 4, bf m 20 2, bf m 22 1, bf m 23 1)] →
        Answers (.recvPost m) s m 0x0405 (setQp (a 0x0405) (bf m 0 4) (some { v with recvs := l })) []) ∧
      (∀ v, Admits s m 0x0406 → bf m 24 1 = 0 → bOver m 25 = false → addrBad (bf m 0 8) = false →
        firstBad pt true (bf m 0 8) (bf m 20 4) = none → bf m 20 4 ≠ 0 → getQp s m.qpn = some v →
        exec (.memWrite m) s = .next (orDenied s m 0x0406 (sendOn (modCmd (a 0x0406) m (fun c => { c with want := bf m 20 4 })) m.qpn
          { psn := 0, kind := 2, addr := bf m 8 8, rkey := bf m 16 4, len := bf m 20 4, job := m.tag }))) ∧
      (∀ (c : Cmd) (l : List Byte), c.m = m → c.fetched = [l] → bf m 24 1 = 0 → concludeWrite s c k = (s, .done 0 (leBytes 8 l.length))) ∧
      (∀ u l, Admits s m 0x0407 → bf m 24 1 = 0 → bOver m 25 = false → addrBad (bf m 0 8) = false → firstBad pt false (bf m 0 8) (bf m 20 4) = none →
        readBlocks k pt.die false (bf m 20 4 / 256 + 2) (bf m 0 8) (bf m 20 4) [] (a 0x0407) = (u, l, none) → l ≠ [] →
        exec (.memRead m) s = .next (orDenied s m 0x0407 (sendOn (modCmd u m (fun c =>
          { c with stage := 1, fetched := [leBytes 8 l.length ++ leBytes 8 0xFFFFFFFFFFFFFFFF] })) m.qpn
          { psn := 0, kind := 1, addr := bf m 8 8, rkey := bf m 16 4, data := l, len := l.length, job := m.tag }))) ∧
      (Admits s m 0x0501 → tenant s m = false → bf m 2 2 ≤ 2046 → bOver m 4 = false → bf m 0 2 + bf m 2 2 ≤ coresOf pt →
        Answers (.countersRead m) s m 0x0501 (a 0x0501)
          ((List.range (bf m 2 2)).flatMap (fun i => counterBytes (getCore s (physAt s pt (bf m 0 2 + i))) id)))) ∧
    (Admits s m 0x0502 → tenant s m = false → k = 64 → bOver m 2 = false → coreOk s (bf m 0 2) = true →
      Answers (.coreStateRead m) s m 0x0502 (a 0x0502) (fullState (a 0x0502) (bf m 0 2))) ∧
    (∀ l, Admits s m 0x0503 → tenant s m = false → bf m 2 2 ≤ 511 → bOver m 4 = false →
      (k = 64 ∧ l = screeUnits s ∨ k ≠ 64 ∧ partOf s m pt ∧ l = (screeUnits s).filter (unitOfPart pt)) →
      Answers (.screeRead m) s m 0x0503 (a 0x0503) (((l.drop (bf m 0 2)).take (bf m 2 2)).flatMap (screeBytes (a 0x0503) false))) ∧
    (Admits s m 0x0504 → tenant s m = false → bf m 0 1 < 10 → bRsv m 1 3 = false → bOver m 12 = false → bf m 8 4 ≤ 65472 →
      (dumpAt s (bf m 0 1)).bytes ≠ [] → (k = 64 ∨ (dumpAt s (bf m 0 1)).part = k) →
      Answers (.dumpRead m) s m 0x0504 (a 0x0504) (((dumpAt s (bf m 0 1)).bytes.drop (bf m 4 4)).take (bf m 8 4))) ∧
    (Admits s m 0x0505 → bf m 2 2 ≤ 4092 → bOver m 4 = false → Answers (.spoilRead m) s m 0x0505 (a 0x0505)
      ((((s.fused ++ s.soft).drop (bf m 0 2)).take (bf m 2 2)).flatMap spoilBytes)) ∧
    (Admits s m 0x0506 → bf m 0 1 ≤ 20 → bOver m 1 = false → bf m 0 1 ≠ 0 →
      Answers (.soundingCfg m) s m 0x0506 { a 0x0506 with sweepMin := bf m 0 1 } [])

/-- Commands 0x0601 to 0x0703. -/
def Obligations.SecurityAndMeterCommands : Prop :=
  ∀ (s : State) (m : Mbx) (a : Nat → State) (k : Nat), (a = fun op => admitted s m op) → k = scopePart m →
    (∀ r, Admits s m 0x0601 → bOver m 32 = false → r = reportBody (a 0x0601) k (slice m.body 0 32) →
      Answers (.attest m) s m 0x0601 (a 0x0601)
        (r ++ slice (Config.signOf s.idKey (ctxBytes "CM7 attestation" ++ r)) 0 2420)) ∧
    (Admits s m 0x0602 → bOver m 0 = false → ∃ b, Answers (.identityRead m) s m 0x0602 (a 0x0602) b ∧
      b.take 1312 = slice (Config.publicOf s.idKey) 0 1312 ∧ slice b 1312 16 = slice s.flash.serial 0 16) ∧
    (∀ e tx, Admits s m 0x0603 → lportExists s (bf m 0 1) = true → bf m 2 1 ≤ 1 → bf m 3 1 ≤ 3 → bf m 20 1 = 2 → bRsv m 21 11 = false →
      bOver m 64 = false → getEntry s (bf m 0 1) (bf m 1 1) = some e → tx = decide (bf m 2 1 = 0) →
      e.sas.any (fun x => x.tx == tx && x.an == bf m 3 1 && x.sci == bf m 4 8) = true →
      Answers (.macsecSa m) s m 0x0603 (putSas (a 0x0603) (bf m 0 1) (bf m 1 1) e
        (e.sas.filter (fun x => !(x.tx == tx && x.an == bf m 3 1 && x.sci == bf m 4 8)))) []) ∧
    (Admits s m 0x0604 → bOver m 1312 = false → Answers (.stewardKeySet m) s m 0x0604
      { a 0x0604 with flash := { (a 0x0604).flash with
        steward := some (slice m.body 0 1312), stewardTag := Config.keyTag s.storageKey (slice m.body 0 1312) } } []) ∧
    (∀ v, Admits s m 0x0605 → bOver m 48 = false → bf m 12 4 ≠ 0 → getQp s m.qpn = some v →
      exec (.fwUpdate m) s = .next (orDenied s m 0x0605 (sendOn (modCmd (a 0x0605) m (fun c => { c with want := bf m 12 4 })) m.qpn
        { psn := 0, kind := 2, addr := bf m 0 8, rkey := bf m 8 4, len := bf m 12 4, job := m.tag }))) ∧
    (∀ (c : Cmd) (l : List Byte), c.fetched = [l] → digestBytes (sha3 (l.take (fwLength l))) = slice c.m.body 16 32 → fwFieldsOk l = true → fwFresh s l = true →
      fwSignerOk s l = true → s.flash.pending = none →
      (fwSigOk l = true →
        concludeFw s c = ({ s with flash := putSlot s.flash (1 - s.flash.active % 2) (l.take (fwLength l)) }, .done 0 (leBytes 1 (1 - s.flash.active % 2)))) ∧
      (fwSigOk l = false → concludeFw s c = (s, .done stAuth []))) ∧
    (∀ l, Admits s m 0x0606 → bf m 0 1 ≤ 1 → bOver m 1 = false → bf m 0 1 ≠ s.flash.active → l = fwSlot s (bf m 0 1) → fwFieldsOk l = true →
      fwFresh s l = true → fwSignerOk s l = true →
      (fwSigOk l = true → Answers (.fwActivate m) s m 0x0606
        { a 0x0606 with flash := { (a 0x0606).flash with pending := some (bf m 0 1), tries := 0 }, resetPend := some 0 } []) ∧
      (fwSigOk l = false →
        exec (.fwActivate m) s = .next (orDenied s m 0x0606 (finish (a 0x0606) (cmdOf s m 0x0606) stAuth [])))) ∧
    (∀ t, Admits s m 0x0607 → bOver m 1 = false → t = bf m 0 1 →
      (lifeCycle s.flash.lc = 1 ∧ 2 ≤ t ∧ t ≤ 4 ∨ lifeCycle s.flash.lc = 2 ∧ 3 ≤ t ∧ t ≤ 4) →
      Answers (.lifecycle m) s m 0x0607 { transit { a 0x0607 with flash := { (a 0x0607).flash with transition := some t } } t with
        resetPend := some 0 } []) ∧
    (Admits s m 0x0701 → bf m 8 2 = 1 → bOver m 10 = false → tenant s m = false → meterRuns s.meter = true →
      recordHeld s.meter (bf m 0 8) = true → ∃ b, Answers (.meterRecords m) s m 0x0701 (a 0x0701) b ∧
      b.take 16 = leBytes 8 (bf m 0 8) ++ leBytes 2 1 ++ zeros 6 ∧
      slice b 48 3328 = slice (tget [] s.meter.records (bf m 0 8 % 208)) 0 3328) ∧
    (Admits s m 0x0702 → 0 < bf m 0 8 → bf m 8 2 ≤ 960 → bOver m 10 = false → meterRuns s.meter = true → bf m 0 8 - 1 + bf m 8 2 ≤ s.meter.audit.length →
      Answers (.meterAudit m) s m 0x0702 (a 0x0702) (((s.meter.audit.drop (bf m 0 8 - 1)).take (bf m 8 2)).flatMap auditBytes ++
        leBytes 4 s.meter.audit.length ++ zeros 4 ++ slice s.meter.auditSig 0 2420)) ∧
    (Admits s m 0x0703 → bOver m 0 = false → meterRuns s.meter = true → Answers (.meterIdentity m) s m 0x0703 (a 0x0703)
      (slice (Config.publicKey 2) 0 1312 ++ leBytes 1 (sealState (a 0x0703))))

/-- Admission (R385 to R387) and limits (R392). -/
def Obligations.RequestsAreChecked : Prop :=
  (∀ (s : State) (m : Mbx) (e : Instr × Nat) (v : Qp) (st sq ms : Nat), e ∈ mailRows m → getQp s m.qpn = some v → v.mbx = true →
    v.error = false → v.filled < 64 → s.boot = .service → refusal s v m e.2 = some (st, sq, ms) → st ≠ 0 ∧
    (st ≠ stBusy → exec e.1 s = .next (respond s m.qpn e.2 m.tag st m.scope sq ms false [])) ∧
    (st = stBusy → ∃ w : Qp, w.busyTill ≥ v.busyTill ∧ { w with busyTill := v.busyTill } = v ∧
      exec e.1 s = .next (respond (setQp (useFree s) m.qpn (some w)) m.qpn e.2 m.tag st m.scope sq ms false []))) ∧
  (∀ (s : State) (m : Mbx) (e : Instr × Nat) (v : Qp), e ∈ mailRows m → getQp s m.qpn = some v → v.mbx = true → v.error = false →
    64 ≤ v.filled → s.boot = .service → exec e.1 s = .next (transmitOn s m.qpn (.answer v.ePsn 1))) ∧
  (∀ (s : State) (v : Qp) (m : Mbx) (op : Nat), s.ouvosUp = false → refusal s v m op = some (stBusy, 0, 2000)) ∧
  (∀ (s : State) (v : Qp) (m : Mbx) (op : Nat), s.ouvosUp = true →
    (msgBad m = true → refusal s v m op = some (stInvalid, 0, 0)) ∧
    (msgBad m = false → scopeDenied v m op = true → refusal s v m op = some (stAuth, 0, 0)) ∧
    (msgBad m = false → scopeDenied v m op = false → v.owner = 64 → signatureOk s m op = false → refusal s v m op = some (stAuth, 0, 0)) ∧
    (msgBad m = false → scopeDenied v m op = false → v.owner = 64 → seqOk s m op = false →
      refusal s v m op = (if signatureOk s m op = true then some (stReplayed, s.seqHigh + 1, 0) else some (stAuth, 0, 0)))) ∧
  (∀ (s : State) (m : Mbx) (op : Nat) (v : Qp), opInfo op = none → getQp s m.qpn = some v → v.mbx = true → v.error = false → v.filled < 64 →
    s.boot = .service → s.ouvosUp = true → msgBad m = false → scopeDenied v m op = false → v.owner < 64 →
    exec (.unsupportedRequest m op) s = .next (respond s m.qpn op m.tag stUnsupported m.scope 0 0 false [])) ∧
  (∀ (s : State) (q tag : Nat) (c : Cmd) (i : OpInfo), s.ouvosUp = true → s.cmds.find? (fun c => c.m.qpn == q && c.m.tag == tag) = some c →
    opInfo c.op = some i → c.op ≠ 0x0106 → ¬(c.started = true ∧ (c.op = 0x0007 ∨ c.op = 0x0009)) → s.fab ≥ c.since + i.limit * 1800000 →
    exec (.commandTimeout q tag) s = .next (startWaiting (finish (abandon s c) c stTimeout [])))

namespace Sys2Proof.Machine

/-- The frame passes everything that R361 and R363 ask of it on its logical port: entry `k`, which is `e`, takes it, and no
other entry does; `e1` is the entry after MACsec's check (R367), and a buffer has room for it (R366). `pick` says which multicast frames an entry takes. -/
structure Accepted (s : State) (f : Frame) (pick : Nat → AddrEntry → Bool) (k : Nat) (e e1 : AddrEntry) : Prop where
  port  : f.lport < 8 ∧ (getLport s f.lport).up = true
  size  : f.octets ≤ 4352 ∧ f.fcsOk = true
  whole : f.fragment = false ∧ (f.v6 = true → f.extHdr = true → f.mld = true)
  entry : (k, some e) ∈ (getLport s f.lport).entries
  takes : vlanOk e f = true ∧ (multicast f.dmac = true → pick k e = true) ∧ (multicast f.dmac = false → e.mac = f.dmac)
  only  : ∀ j d, (j, some d) ∈ (getLport s f.lport).entries → vlanOk d f = true → (multicast f.dmac = true → pick j d = true) →
    (multicast f.dmac = false → d.mac = f.dmac) → (j, d) = (k, e)
  sec   : macsecIn e f = some e1
  room  : rxNone s e f = false

/-- The state after the frame has been accepted by its entry: in the buffer of its class, which may send its XOFF. -/
def took (s : State) (f : Frame) (k : Nat) (e e1 : AddrEntry) : State := rxTake (setEntry s f.lport k (some e1)) e f

end Sys2Proof.Machine

/-- Every Ethernet frame row. -/
def Obligations.EthernetFrames : Prop :=
  (∀ (s : State) (f : Frame) (k : Nat) (e e1 : AddrEntry) (t : State), t = took s f k e e1 →
    (∀ ip, Accepted s f (fun _ e => f.dmac == broadcastMac && e.ip4 == ip && e.flags.testBit 1) k e e1 → e1.flags.testBit 1 = true → e1.ip4 = ip →
      exec (.arpRequest f ip) s = .next (portSend t f.lport k 2 ([1] ++ beBytes 6 f.smac ++ beBytes 6 e1.mac ++ beBytes 4 ip ++ beBytes 4 f.srcIp))) ∧
    (∀ ip, Accepted s f (fun _ e => f.dmac == solicitedMac e.ip6 && e.ip6 == ip && e.flags.testBit 2) k e e1 → e1.flags.testBit 2 = true → e1.ip6 = ip →
      exec (.neighbourSolicitation f ip) s =
        .next (portSend t f.lport k 2 ([2] ++ beBytes 6 f.smac ++ beBytes 6 e1.mac ++ beBytes 16 ip ++ beBytes 16 f.srcIp))) ∧
    (∀ data, Accepted s f (fun _ _ => false) k e e1 → (f.v6 = true → e1.flags.testBit 2 = true ∧ e1.ip6 = f.dstIp) →
      (f.v6 = false → e1.flags.testBit 1 = true ∧ e1.ip4 = f.dstIp) →
      exec (.icmpEchoRequest f data) s =
        .next (portSend t f.lport k 2 ([3] ++ beBytes 6 f.smac ++ beBytes 6 e1.mac ++ beBytes 16 f.dstIp ++ beBytes 16 f.srcIp ++ data))) ∧
    (∀ ip mac, Accepted s f (fun _ _ => false) k e e1 → (tget none s.neigh (neighKey f.lport ip)).isSome = true ∨ neighOf s f.lport < 1024 →
      exec (.arpOrNeighbourReply f ip mac) s = .next { t with neigh := tset none t.neigh (neighKey f.lport ip) (some (mac, s.fab)) }) ∧
    (Accepted s f (fun k _ => k == 0 && f.dmac == ptpMac f.v6) 0 e e1 → k = 0 → s.ptpPort = some (f.lport, if f.v6 = true then 2 else 1) →
      (∀ q i n, n = (if i ≤ devNs s + 8 ∧ devNs s ≤ i + 8 then i else devNs s) → exec (.ptpEventMessage f q i) s =
        .next { t with stamps := s.stamps ++ [(q, n)], ptpSync := some (q, n), ptpHeard := s.fab, ptpFree := false }) ∧
      (∀ (q i ts : Nat), s.ptpSync = some (q, i) → ∃ (u : State) (d : Int), exec (.ptpGeneralMessage f 1 q ts) s = .next u ∧
        (∀ x, s.ptpDelay = some x → d = x) ∧ u.timeBase = s.timeBase + ts + d - i ∧ u.ptpSync = none ∧ u.ptpFree = false ∧ u.ptpHeard = s.fab ∧
        (blocked e1 = false → u.stamps = s.stamps ++ [(q, devNs u)] ∧ u.ptpReq = some (q, devNs u, d))) ∧
      (∀ (q ts egress : Nat) (d : Int), s.ptpReq = some (q, egress, d) → exec (.ptpGeneralMessage f 2 q ts) s =
        .next { t with ptpHeard := s.fab, ptpFree := false, ptpReq := none, ptpDelay := some ((d + ts - egress) / 2) }))) ∧
  (∀ (s : State) (f : Frame) (p : LPort) (ip mac : Nat), f.lport < 8 → p = getLport s f.lport → p.up = true →
    (f.octets > 4352 → exec (.arpOrNeighbourReply f ip mac) s = .next (setLport s f.lport { p with tooLong := p.tooLong + 1 })) ∧
    (f.octets ≤ 4352 → f.fcsOk = false →
      exec (.arpOrNeighbourReply f ip mac) s = .next (setLport s f.lport { p with badFcs := p.badFcs + 1 })) ∧
    (f.octets ≤ 4352 → f.fcsOk = true → f.fragment = true ∨ f.v6 = true ∧ f.extHdr = true ∧ f.mld = false →
      exec (.arpOrNeighbourReply f ip mac) s = .next (setLport s f.lport { p with fragments := p.fragments + 1 }))) ∧
  (∀ (s : State) (ip mac t : Nat), tget none s.neigh ip = some (mac, t) →
    (s.fab ≥ t + usCycles 300000000 → exec (.neighbourEntryAgeing ip) s = .next { s with neigh := tset none s.neigh ip none }) ∧
    (s.fab < t + usCycles 300000000 → exec (.neighbourEntryAgeing ip) s = .next s)) ∧
  (∀ (s : State) (l en : Nat) (quanta : List Nat), l < 8 → (getLport s l).up = true → ∃ t, exec (.pfcFrame l en quanta) s = .next t ∧
    ∀ n, n < 8 →
      (en.testBit n = false → tget 0 (getLport t l).pauseEnd n = tget 0 (getLport s l).pauseEnd n) ∧
      (en.testBit n = true → quanta.getD n 0 % 65536 = 0 → pausedAt t l n = false) ∧
      (en.testBit n = true → quanta.getD n 0 % 65536 ≠ 0 →
        tget 0 (getLport t l).pauseEnd n = s.fab + quantaCycles s l (quanta.getD n 0 % 65536))) ∧
  (∀ (s : State) (l n start : Nat) (p : LPort), l < 8 → n < 8 → p = getLport s l → start = tget 0 p.paused n → pausedAt s l n = true → lossless s l n = true →
    s.fab + 1 ≥ start + usCycles 100000 →
    (tget 0 p.pauseSeen n ≠ start → exec (.pfcPauseHeld l n) s =
      .next (devFault (setLport s l { p with pauseSeen := tset 0 p.pauseSeen n start, pauseEvents := p.pauseEvents + 1 }) 5 0 (l + 256 * n) [])) ∧
    (tget 0 p.pauseSeen n = start → exec (.pfcPauseHeld l n) s = .next s)) ∧
  (∀ (s : State) (p : Nat × Nat), s.ptpPort = some p → s.fab ≥ s.ptpHeard + usCycles 10000000 →
    exec .ptpMasterTimeout s = .next { s with ptpFree := true, ptpSync := none }) ∧
  (∀ (s : State) (l ip rq mtu retry rnr to_ : Nat), s.boot ≠ .service → lportExists s l = true → (getLport s l).up = true →
    exec (.cmConnectRequest l ip rq mtu retry rnr to_) s = .next (portSend s l 0 1 ([5, 0] ++ zeros 4))) ∧
  (∀ (s : State) (l ip rq mtu retry rnr to_ q : Nat) (e : AddrEntry), s.boot = .service → s.ouvosUp = true → lportExists s l = true →
    (getLport s l).up = true → getEntry s l 0 = some e → freeQpn s = some q → 1 ≤ mtu → mtu ≤ 5 → retry ≤ 7 → rnr ≤ 7 → 1 ≤ to_ → to_ ≤ 31 →
    ((qpsWhere s (fun v => v.mbx && v.owner == 64)).length ≥ 8 →
      exec (.cmConnectRequest l ip rq mtu retry rnr to_) s = .next (portSend s l 0 1 ([5, 0] ++ zeros 4))) ∧
    ((qpsWhere s (fun v => v.mbx && v.owner == 64)).length < 8 → ∃ v : Qp, v.owner = 64 ∧ v.mbx = true ∧ v.lport = l ∧ v.mtu = mtu ∧
      v.remote = rq ∧ v.remoteIp = ip ∧ v.udp = Config.udpPort q % 65536 ∧ v.error = false ∧ exec (.cmConnectRequest l ip rq mtu retry rnr to_) s =
        .next (portSend (setQp s q (some v)) l 0 1 ([5, 1] ++ leBytes 4 q)))) ∧
  (∀ (s : State) (l : Nat) (up : Bool), l < 8 → lportExists s l = true →
    (s.boot ≠ .scrap → exec (.ethernetLinkChange l up) s = .next (setLport s l { getLport s l with up := up })) ∧
    (s.boot = .scrap → exec (.ethernetLinkChange l up) s = .next s))

namespace Sys2Proof.Machine

/-- The packet's frame is accepted for its queue pair: pair `v`, which is in no error, belongs to the entry's owner and to the
frame's port. -/
structure AtPair (s : State) (p : Packet) (k : Nat) (e e1 : AddrEntry) (v : Qp) : Prop where
  frame : Accepted s p.frame (fun _ _ => false) k e e1
  pair  : getQp s p.qpn = some v ∧ v.error = false
  owner : v.lport = p.frame.lport ∧ entryOf v.owner = k

/-- The state after the packet has been accepted, its CE mark answered by a CNP (R374). -/
def heard (s : State) (p : Packet) (k : Nat) (e e1 : AddrEntry) : State := congested (took s p.frame k e e1) p.qpn p.ce

/-- The request carries the number that the pair expects, and no stop of its partition is under way. -/
def InOrder (s : State) (p : Packet) (v : Qp) : Prop := p.psn % 2 ^ 24 = v.ePsn ∧ stoppingNow s v = false

end Sys2Proof.Machine

/-- Every RoCE row. -/
def Obligations.RoceMessages : Prop :=
  (∀ (s : State) (p : Packet) (k : Nat) (e e1 : AddrEntry) (v : Qp) (t : State), AtPair s p k e e1 v → t = heard s p k e e1 →
    (InOrder s p v →
      (∀ data, v.mbx = false → v.recvs = [] →
        exec (.roceSend p data) s = .next (answer t p.qpn p.psn (packetsOf v.mtu data.length) ackRnr)) ∧
      (∀ data (w : Qp), v.mbx = true → getQp t p.qpn = some w →
        (64 ≤ w.filled → exec (.roceSend p data) s = .next (answer t p.qpn p.psn (packetsOf v.mtu data.length) ackRnr)) ∧
        (w.filled < 64 → s.ouvosUp = true → exec (.roceSend p data) s = .next (answer t p.qpn p.psn (packetsOf v.mtu data.length) ackOk)) ∧
        (w.filled < 64 → s.ouvosUp = false → exec (.roceSend p data) s =
          .next (answer (setQp t p.qpn (some { w with filled := w.filled + 1 })) p.qpn p.psn (packetsOf v.mtu data.length) ackOk))) ∧
      (∀ data a len core sync rest (w : Qp) (pt : Part) (u1 u2 : State), getQp t p.qpn = some w → v.mbx = false →
        w.recvs = (a, len, core, sync, 0) :: rest → v.recvs = w.recvs → getPart t w.owner = some pt →
        putMem (setQp t p.qpn (some { w with recvs := rest, msgNo := w.msgNo + 1 })) w.owner pt.die (a + 16) (data.take (len - 16)) = (u1, none) →
        putMem u1 w.owner pt.die a (leBytes 4 data.length ++ zeros 4 ++ leBytes 8 w.msgNo) = (u2, none) →
        exec (.roceSend p data) s = .next (answer u2 p.qpn p.psn (packetsOf v.mtu data.length) ackOk)) ∧
      (∀ rkey a data (r : Region) (pt : Part) (u : State), data ≠ [] → regionFor t v.owner rkey a data.length 1 = some r →
        r.access.testBit 2 = false → getPart t v.owner = some pt → putMem t v.owner pt.die a data = (u, none) →
        exec (.rdmaWrite p rkey a data) s = .next (answer u p.qpn p.psn (packetsOf v.mtu data.length) ackOk)) ∧
      (∀ rkey a data, data ≠ [] → regionFor t v.owner rkey a data.length 1 = none →
        exec (.rdmaWrite p rkey a data) s = .next (answer t p.qpn p.psn (packetsOf v.mtu data.length) ackAccess)) ∧
      (∀ rkey a imm data (r : Region) (u : State) (ok : Bool), accRegion t v.owner rkey = some r → data.length = 4096 → a % 4096 = 0 →
        r.addr ≤ a → a + 4096 ≤ r.addr + r.len → peerArrival t r.owner a imm data = (u, ok) →
        exec (.rdmaWriteWithImmediate p rkey a imm data) s =
          .next (answer u p.qpn p.psn (packetsOf v.mtu 4096) (if ok = true then ackOk else ackRnr))) ∧
      (∀ rkey a len, 16 ≤ repliesHeld t p.qpn →
        exec (.rdmaRead p rkey a len) s = .next (answer t p.qpn p.psn (packetsOf v.mtu len) ackInvalid)) ∧
      (∀ rkey a len, repliesHeld t p.qpn < 16 → len ≠ 0 → regionFor t v.owner rkey a len 0 = none →
        exec (.rdmaRead p rkey a len) s = .next (answer t p.qpn p.psn (packetsOf v.mtu len) ackAccess)) ∧
      (∀ rkey a len (r : Region) (pt : Part) (u : State) (l : List Byte), repliesHeld t p.qpn < 16 → len ≠ 0 →
        regionFor t v.owner rkey a len 0 = some r → r.access.testBit 2 = false → getPart t v.owner = some pt →
        getMem t v.owner pt.die a len = (u, l, none) → exec (.rdmaRead p rkey a len) s =
          .next (answer (transmitOn u p.qpn (.reply l)) p.qpn p.psn (packetsOf v.mtu len) ackOk)) ∧
      (∀ data, v.owner = (getBucket t (numAt data 0 2 % 1024)).part →
        exec (.digestList p data) s = .next (answer (listArrival t v.owner data) p.qpn p.psn (packetsOf v.mtu data.length) ackOk))) ∧
    (∀ rkey a data, (v.ePsn + 2 ^ 24 - p.psn % 2 ^ 24) % 2 ^ 24 < 2 ^ 23 → p.psn % 2 ^ 24 ≠ v.ePsn →
      exec (.rdmaWrite p rkey a data) s = .next (answer t p.qpn p.psn 0 ackOk)) ∧
    (∀ rkey a data, 2 ^ 23 ≤ (v.ePsn + 2 ^ 24 - p.psn % 2 ^ 24) % 2 ^ 24 →
      exec (.rdmaWrite p rkey a data) s = .next (answer t p.qpn p.psn 0 ackSequence)) ∧
    (∀ sy, sy / 32 % 4 = 0 → exec (.rdmaAck p sy) s = .next (startWaiting (flushEvents (ackUpTo t p.qpn p.psn) p.qpn))) ∧
    (∀ sy, sy / 32 % 4 = 1 → v.outstanding ≠ [] → (v.rnr = 7 ∨ v.rnrTries < v.rnr) → exec (.rdmaAck p sy) s =
      .next (startWaiting (modQp t p.qpn (fun v => { v with rnrTries := v.rnrTries + 1, rnrWait := true })))) ∧
    (∀ sy, sy / 32 % 4 = 3 → sy % 32 ≠ 0 → v.outstanding ≠ [] → exec (.rdmaAck p sy) s = .next (startWaiting (qpError t p.qpn))) ∧
    (∀ data, v.outstanding.find? (fun o => o.kind == 2) = none → exec (.rdmaReadResponse p data) s = .next t) ∧
    (∀ data (o : OutMsg) (c : Cmd) (u : State), v.outstanding.find? (fun o => o.kind == 2) = some o → o.psn = 0 → p.psn % 2 ^ 24 = o.data.length / mtuBytes v.mtu % 2 ^ 24 →
      o.data.length + data.length = o.len → u = laterNow (modQp t p.qpn (fun w => { w with retries := 0, sentAt := t.fab, outstanding := w.outstanding.filter (fun x => !(x.kind == 2 && x.psn == o.psn)) })) p.qpn →
      u.cmds.find? (fun c => c.m.qpn == p.qpn && c.m.tag == o.job && c.stage == 0 && c.want != 0) = some c →
      exec (.rdmaReadResponse p data) s = .next (startWaiting (settleCmd c (fetched u c.m o.data data))))) ∧
  (∀ (s : State) (q : Nat) (v : Qp), getQp s q = some v → v.error = false →
    (v.outstanding ≠ [] → v.rnrWait = false → 10 * (s.fab - v.sentAt) ≥ 73728 * 2 ^ v.timeout →
      (v.retries < v.retry → exec (.localAckTimeout q) s =
        .next (startWaiting (resend (setQp s q (some { v with retries := v.retries + 1 })) q))) ∧
      (v.retry ≤ v.retries → exec (.localAckTimeout q) s = .next (startWaiting (qpError s q)))) ∧
    (v.rnrWait = true → exec (.rnrRetryTimer q) s =
      .next (flushEvents (resend (setQp s q (some { v with rnrWait := false })) q) q))) ∧
  (∀ (s : State) (q : Nat) (v : Qp), getQp s q = some v →
    (pairUp s v = true → exec (.cnp q) s = .next (setQp s q (some { v with rate := max (v.rate * 7 / 8) 256, quiet := 0, quietFrom := s.fab }))) ∧
    (s.fab < v.quietFrom + usCycles 55 → exec (.cnpRateTimer q) s = .next (setQp s q (some v))) ∧
    (v.quietFrom + usCycles 55 ≤ s.fab →
      (v.quiet < 5 → exec (.cnpRateTimer q) s =
        .next (setQp s q (some { v with quiet := v.quiet + 1, quietFrom := s.fab, rate := v.rate + (65536 - v.rate) / 2 }))) ∧
      (5 ≤ v.quiet → exec (.cnpRateTimer q) s =
        .next (setQp s q (some { v with quiet := v.quiet + 1, quietFrom := s.fab, rate := min (v.rate + 1024) 65536 })))))

namespace Sys2Proof.Machine

/-- What cluster `x.key` of a tap frame books to partition `p` (R449, R452): its energy, scaled down when the die's clusters
exceed the group energy `cap`, less the Ballast's energy and the Sounding share; nothing unless it is labelled `p` in state 1,
across a gap on both sides. -/
def tapShare (m : Meter) (dt cap sum volts p : Nat) (x : TapStep) : Nat :=
  let t := getTap m x.key
  let e := if cap < sum then x.energy * cap / sum else x.energy
  let r := e - t.ampl * volts * loadTime m t / 100
  if x.label % 4 = 1 ∧ x.label / 4 % 64 = p ∧ (dt < 16 ∨ t.label = x.label) then
    r - (if x.sound = 0 then 0 else r * x.sound / (x.active + x.sound))
  else 0

/-- The time of a cluster's step that partition `p` holds. -/
def tapTime (m : Meter) (dt p : Nat) (x : TapStep) : Nat :=
  if x.label % 4 = 1 ∧ x.label / 4 % 64 = p ∧ (dt < 16 ∨ (getTap m x.key).label = x.label) then dt else 0

end Sys2Proof.Machine

/-- The meter's measurement rows. -/
def Obligations.MeterMeasurement : Prop :=
  ∀ (s : State) (m : Meter), m = s.meter → meterRuns m = true →
    (∀ volts amps, ∃ t : Meter, exec (.meterSample volts amps) s = .next { s with meter := t } ∧ t.time = m.time + 4 ∧ t.up = m.up + 4 ∧
      t.total = m.total + ((List.range 8).map (fun g => if groupFitted s g = true ∧ g < volts.length ∧ g < amps.length then
        4 * volts.getD g 0 * amps.getD g 0 else 0)).sum ∧
      ∀ g, g < 8 →
        (groupFitted s g = false → getGroup t g = getGroup m g) ∧
        (groupFitted s g = true → g < volts.length → g < amps.length →
          (getGroup t g).energy = (getGroup m g).energy + 4 * volts.getD g 0 * amps.getD g 0 ∧ (getGroup t g).sense = false ∧
          (getGroup t g).vmin = min (getGroup m g).vmin (volts.getD g 0) ∧ (getGroup t g).imax = max (getGroup m g).imax (amps.getD g 0)) ∧
        (groupFitted s g = true → volts.length ≤ g → (getGroup t g).sense = true ∧ (getGroup t g).energy = (getGroup m g).energy)) ∧
    (∀ die charge cycles withdrawn inPlace other turn (u : State), dieOk s die = true → turn = tget 0 s.tapTurn die →
      u = countOther (countTaps { s with tapTurn := tset 0 s.tapTurn die ((turn + 1) % 65) } die charge cycles withdrawn inPlace) die other →
      u.meter = m ∧ (∀ i, i < 16 → tget {} u.tapCount (16 * die + i) =
        { charge := ((tget {} s.tapCount (16 * die + i)).charge + charge.getD i 0) % 2 ^ 48,
          cycles := ((tget {} s.tapCount (16 * die + i)).cycles + cycles.getD i 0) % 2 ^ 48,
          sounding := ((tget {} s.tapCount (16 * die + i)).sounding + (withdrawn.getD i 0 + inPlace.getD i 0)) % 2 ^ 40 }) ∧
      (∀ i, i < 2 → tget 0 u.hbmMoved (65 * (2 * die + i) + 64) = (tget 0 s.hbmMoved (65 * (2 * die + i) + 64) + other.getD i 0) % 2 ^ 48) ∧
      exec (.tapFrame die false charge cycles withdrawn inPlace other) s = .next u ∧
      ∃ t : Meter, exec (.tapFrame die true charge cycles withdrawn inPlace other) s = .next { u with meter := t } ∧ tget 0 t.tapLast die = m.up ∧
        tget false t.tapSeen die = true ∧ (getGroup t die).sample = 0 ∧
        (∀ i, i < 16 → (getTap t (16 * die + i)).charge = (tget {} u.tapCount (16 * die + i)).charge ∧
          (getTap t (16 * die + i)).label = fld (tget (0 : W64) s.cluFence (16 * die + i)) 7 0) ∧
        (∀ k, tget 0 t.hbmBytes k = if k = 65 * (2 * die) + turn ∨ k = 65 * (2 * die + 1) + turn then tget 0 u.hbmMoved k
          else tget 0 m.hbmBytes k) ∧
        (∀ steps dt, steps = (List.range 16).map (fun i => tapStep u (16 * die + i)) → dt = m.up - tget 0 m.tapLast die →
          tget false m.tapSeen die = true → ∀ p, p < 64 →
          (getLine t p).time = (getLine m p).time + (steps.map (tapTime m dt p)).sum ∧
          (dt ≤ 100000 → (getLine t p).energy = (getLine m p).energy + (steps.map (tapShare m dt (getGroup m die).sample
            (steps.map (fun x => x.energy)).sum (getGroup m die).volts p)).sum) ∧
          (100000 < dt → t.tapFault = true ∧ t.tapFlag = true ∧ (getLine t p).energy = (getLine m p).energy))) ∧
    (∀ die, dieOk s die = true → 100000 < m.up - tget 0 m.tapLast die → ∃ t : Meter, exec (.tapGapTimeout die) s = .next { s with meter := t } ∧
      t.tapFault = true ∧ t.tapFlag = true ∧ t.tapSeen = m.tapSeen ∧ (getGroup t die).sample = 0 ∧ t.lines = m.lines) ∧
    (∀ damaged, ∃ t : Meter, exec (.ballastChip damaged) s = .next { s with meter := t } ∧ t.chip = m.chip + 1 ∧ t.lfsr = gfStep m.lfsr ∧
      ∀ d i, d < dieCount s.product → i < 16 → tget 0 t.frames d = ballastFrame m.lfsr m.chip ∧
        (getTap t (16 * d + i)).ballast = (getTap m (16 * d + i)).next ∧
        (getTap t (16 * d + i)).next = (!damaged.contains d && (ballastFrame m.lfsr m.chip).testBit i)) ∧
    (∀ c a b (u v : Tap), cluOk s c = true → b ≠ 0 → u = getTap m c → v = { u with gainNum := a, gainDen := b, ampl := a, renewed := m.up, stale := false } →
      exec (.ballastCalibration [(c, some (a, b))]) s = .next { s with meter := setTap m c v } ∧
      exec (.ballastCalibration [(c, none)]) s = .next s) ∧
    (∀ c, cluOk s c = true → 2000000 ≤ m.up - (getTap m c).renewed → ∃ t : Meter, exec (.calibrationStale c) s = .next { s with meter := t } ∧
      (getTap t c).stale = true ∧ t.calFlag = true) ∧
    exec .meterCommit s = .next { s with meter := commit m } ∧
    exec .meterVddLow s = .next { s with meter := { commit m with powered := false, measuring := false, selfOk := false, clkFault := false } } ∧
    (∀ b, m.opened = true → boundary m = some b → ∃ t, exec .settlementClose s = .next t ∧ t.meter.number = m.number + 1 ∧ t.meter.start = b ∧
      t.meter.opened = true ∧ t.meter.tapFlag = (List.range 4).any (tapSilent m) ∧ t.meter.closing = m.closing ++ [m.number] ∧ t.meter.interval = m.nextInterval.getD m.interval ∧
      tget [] t.meter.records (m.number % 208) = recordHeader s b ++ deviceBlock m ++ (recordLines s).flatten ∧
      t.meter.chain = sha3 (digestBytes m.chain ++ digestBytes (recordDigest (recordHeader s b ++ deviceBlock m ++ (recordLines s).flatten)))) ∧
    (∀ n rest, m.closing = n :: rest → exec .mtrLastAdvance s = .next { s with meter := { m with last := some (n % 2 ^ 48), closing := rest } })

/-- The meter's setting rows. -/
def Obligations.MeterBoardAndSeal : Prop :=
  ∀ (s : State) (m : Meter), m = s.meter →
    (∀ fw cal, m.powered = false → ∃ t, exec (.meterPowerOn fw cal) s = .next t ∧ t.meter.powered = true ∧ t.meter.total = m.mramTotal ∧
      t.meter.up = 0 ∧ t.meter.fwid = sha3 (Config.meterRom ++ m.fwArea) ∧ t.meter.selfOk = (fw && cal) ∧ t.meter.measuring = (fw && cal) ∧
      t.meter.number = m.number + (if m.opened = true then 1 else 0) ∧ (∃ d : Nat, t.meter.time = m.mramTime + d) ∧
      (fw = true → cal = true → t.meter.opened = true ∧ t.meter.gap = true ∧ t.meter.start = t.meter.time ∧ sealState t = sealState s) ∧
      (fw = false ∨ cal = false → metered s.product = true → sealState t = 2)) ∧
    (meterRuns m = true → exec .meterWatchdogExpiry s = .next (meterRestart s)) ∧
    (m.powered = true → m.measuring = false → exec .meterWatchdogExpiry s = .next (meterRetry s)) ∧
    (m.powered = true → exec .meterClkFault s = .next { s with meter := { m with clkFault := true } }) ∧
    (boardWrites m = true →
      (∀ (v : W64) n, n = fld v 11 0 → 1 ≤ n → n ≤ 3600 → n ≠ m.nextInterval.getD m.interval → ∃ t : Meter,
        t = addAudit m 0x0001 (m.nextInterval.getD m.interval) n ∧ t.audit.length = m.audit.length + 1 ∧
        exec (.mtrCfgWrite v) s = .next { s with meter := { t with nextInterval := some n, changed := true } }) ∧
      (∀ v : W64, (fld v 11 0 = 0 ∨ 3600 < fld v 11 0) → exec (.mtrCfgWrite v) s = .next s) ∧
      (∀ v : W64, ∃ t, exec (.mtrTimeWrite v) s = .next t ∧ t.meter.time = v.toNat ∧ t.meter.audit = (addAudit m 0x0002 m.time v.toNat).audit ∧
        (m.opened = true → m.measuring = true → t.meter.number = m.number + 1 ∧ t.meter.start = v.toNat ∧ t.meter.opened = true ∧
          t.meter.gap = false)) ∧
      (∃ u : State, u = { s with meter := addAudit m 0x0003 0 0 } ∧
        exec .meterReset s = .next (if m.measuring = true then meterRestart u else meterRetry u)) ∧
      (∃ t, exec .fwCommit s = .next t ∧
        (Config.meterImageOk (readBytes m.fwWin 0 0x80000) = false → t = s) ∧
        (Config.meterImageOk (readBytes m.fwWin 0 0x80000) = true →
          t.meter.fwid = sha3 (Config.meterRom ++ readBytes m.fwWin 0 0x80000) ∧ t.meter.fwArea = readBytes m.fwWin 0 0x80000 ∧ (metered s.product = true → sealState t = 2) ∧
          (metered s.product = false → sealState t = sealState s)))) ∧
    (m.cfgN = true → (∀ v, exec (.mtrCfgWrite v) s = .next s ∧ exec (.mtrTimeWrite v) s = .next s) ∧
      exec .meterReset s = .next s ∧ exec .fwCommit s = .next s) ∧
    (∃ t, exec .meterTestAccessOpen s = .next t ∧ (metered s.product = true → sealState t = 2) ∧
      (metered s.product = true → sealState s ≠ 2 → t.meter.cause = 3 ∧ t.meter.audit = (addAudit m 0x0005 (sealState s) 3).audit))

namespace Sys2Proof.Machine

/-- The CM5 frame is a request of partition `k`, which is in frame mode with MACsec: 1,024 bytes from a sender whose last
sequence number is another, or from a new one with room for it (R375, R376, R378). -/
structure Cm5Frame (s : State) (f : Frame) (src dst k : Nat) (l : List Byte) (e e1 : AddrEntry) (pt : Part) : Prop where
  frame : Accepted s f (fun _ _ => false) (k + 1) e e1
  part  : getPart s k = some pt ∧ pt.cm5 = some dst ∧ l.length = 1024
  keyed : e1.sas.any (fun a => a.active) = true
  fresh : (cm5Entry pt (f.srcIp * 65536 + src % 65536) = none ∧ pt.cm5From.length < 64) ∨
    ∃ w n r, cm5Entry pt (f.srcIp * 65536 + src % 65536) = some (w, n, some r) ∧ n ≠ beNat (slice l 6 2)

end Sys2Proof.Machine

/-- The remaining rows. -/
def Obligations.FramesJtagAndRegisters : Prop :=
  (∀ (s : State) (f : Frame) (src dst k : Nat) (l : List Byte) (e e1 : AddrEntry) (pt : Part) (t : State) (who seq len o : Nat),
    Cm5Frame s f src dst k l e e1 pt → t = took s f (k + 1) e e1 → who = f.srcIp * 65536 + src % 65536 → seq = beNat (slice l 6 2) →
    len = beNat (slice l 8 2) → o = beNat (slice l 12 4) → s.service = 0 →
    (cm5Bad 0x01 l = false → exec (.cm5Load f src dst l) s =
      .next (startWaiting (cm5Answer (cm5Put t k pt.die o (cm5Data l)) k f.lport who seq (cm5Frame 0x01 seq len stOk o [])))) ∧
    (cm5Bad 0x02 l = false → actionPending t pt = false → pt.isolate = none → exec (.cm5Run f src dst l) s =
      .next (startWaiting (cm5Launch t k who seq len o (cm5Data l) f.lport))) ∧
    (∀ u b, cm5Bad 0x03 l = false → cm5Get t k pt.die o (4 * (len + 1)) = (u, b, true) → exec (.cm5Read f src dst l) s =
      .next (startWaiting (cm5Answer u k f.lport who seq (cm5Frame 0x03 seq len stOk o (swapWords b))))) ∧
    (cm5Bad 0x01 l = true → exec (.cm5Load f src dst l) s =
      .next (startWaiting (cm5Answer t k f.lport who seq (cm5Frame (numAt l 5 1) seq len stInvalid o []))))) ∧
  (∀ (s : State) (f : Frame) (src dst k w n : Nat) (l r : List Byte) (e e1 : AddrEntry) (pt : Part),
    Accepted s f (fun _ _ => false) (k + 1) e e1 → getPart s k = some pt → pt.cm5 = some dst → l.length = 1024 →
    e1.sas.any (fun a => a.active) = true → cm5Entry pt (f.srcIp * 65536 + src % 65536) = some (w, n, some r) → n = beNat (slice l 6 2) →
    exec (.cm5Load f src dst l) s =
      .next (portSend (took s f (k + 1) e e1) f.lport (entryOf k) 1 ([4] ++ beBytes 16 f.srcIp ++ beBytes 2 src ++ r))) ∧
  (∀ s : State, s.boot ≠ .unpowered → exec .jtagIdcode s =
      .next { s with jtagOut := true :: (List.range 27).map (fun i => Config.jtagId.getLsbD i) ++ List.replicate 4 false }) ∧
  (∀ (s : State) (bits : List Bool), s.boot ≠ .unpowered →
    exec (.jtagBypass bits) s = .next { s with jtagOut := (false :: bits).take bits.length }) ∧
  (∀ (s : State) (p off : Nat) (v : W64), coreOk s p = true → p < 0x1000 →
    (off < coreRegs → exec (.registerWrite (0x1000 + p) off v) s = .next (modCore s p (writeCoreReg off v))) ∧
    (∀ (r : Router) q, q < 13 → coreRegs ≤ 0x400 → r = getRouter s p → exec (.registerWrite (0x1000 + p) (0x400 + q) v) s =
      .next (setRouter s p { r with errs := tset 0 r.errs q (clearPortErr (tget 0 r.errs q) v) })) ∧
    (colIx p % 9 ≠ 8 → off < 1 + 3 * 4096 → exec (.registerWrite (0x2000 + p) off v) s =
      .next (setSwitch s p (setSwitchReg (getSwitch s p) false off (BitVec.ofNat 64 (v.toNat % 2 ^ switchRegBits false off)))))) ∧
  (∀ (s : State) (off : Nat) (v : W64), exec (.registerWrite 0 off v) s = .next s ∧
    (∀ w, s.meter.powered = true → s.meter.cfgN = false → 0x80000 ≤ off → off + 8 ≤ 0x100000 →
      w = writeBytes s.meter.fwWin (off - 0x80000) (leBytes 8 v.toNat) →
      exec (.registerWrite 1 off v) s = .next { s with meter := { s.meter with fwWin := w } }) ∧
    (s.meter.powered = false ∨ s.meter.cfgN = true → exec (.registerWrite 1 off v) s = .next s)) ∧
  (∀ (s : State) (port mode : Nat), port < 2 → tget none s.modePend port = some mode → ∃ t, exec (.portModeTakedown port) s = .next (startWaiting t) ∧
    tget 0 t.portMode port = mode ∧ tget none t.modePend port = none ∧ tget 0 t.flash.portModes port = mode ∧
    ∀ i, i < 4 → (getLport t (4 * port + i)).up = false) ∧
  (∀ (s : State) (link lane : Nat), (linksOf s).contains link = true → lane < linkLanes link + spareLanes link → ∃ t,
    exec (.oxLaneRetraining link lane true) s = .next t ∧ t.links = s.links ∧ t.soft = s.soft ∧
    (getScree t 7 (link + 8 * lane)).resets = sat32 ((getScree s 7 (link + 8 * lane)).resets + 1) ∧
    exec (.oxLaneRetraining link lane false) s =
      .next (failLane (modScree s 7 (link + 8 * lane) (fun r => { r with resets := sat32 (r.resets + 1) })) (link + 8 * lane) 0x10)) ∧
  (∀ (s : State) (results : List (Nat × Nat × Nat × Nat × Nat)), s.service ≠ 3 ∨ lifeCycle s.flash.lc = 4 →
    exec (.selftestSlice results) s = .next s) ∧
  (∀ (s : State) (results : List (Nat × Nat × Nat × Nat × Nat)) (u : State), s.service = 3 → lifeCycle s.flash.lc ≠ 4 →
    planStep s results = (u, false) → exec (.selftestSlice results) s = .next u) ∧
  (∀ (s : State) (p target : Nat) (pt : Part), p < 64 → getPart s p = some pt → pt.loading = true → exec (.flockRollCallTimeout p target) s =
    .next (setPart s p (some { pt with flock := pt.flock.map (fun e => if e.1 = target then (e.1, 1, e.2.2) else e) })))

/-- The Reset columns of the register tables. -/
def Obligations.ResetValues : Prop :=
  (∀ (p : Nat) (c : Core), c = getCore State.reset p →
    (∀ i, tget {} c.sync i = { value := 0, limit := 0xFFFFFFFF, fault := false, excess := false }) ∧
    (∀ t (r : Thread), r = getThread c t → r.cfg = 0 ∧ r.range = 0 ∧ r.replay = 0 ∧ r.fpctl = 0 ∧ r.flags = 0 ∧ (∀ i, tget 0 r.flagPos i = 0) ∧
      r.pc = 0 ∧ r.state = .idle ∧ r.calls = [] ∧ r.waitSync = 0 ∧ r.cause = 0 ∧ r.trap = none) ∧
    c.te.ops = [] ∧ (∀ k, (tget {} c.te.tiles k).bad = false) ∧ c.te.last = 0 ∧ c.te.count = 0 ∧ (∀ k, tget 0 c.te.merge k = 0) ∧
    c.ve.cur = none ∧ c.ve.seed = 1 ∧ c.ve.quant = 0 ∧ c.dmaCfg = 6 ∧ c.tags = [] ∧ c.held = [] ∧
    (∀ k, tget 0 c.credit k = 0 ∧ tget 0 c.pool k = 0) ∧
    (∀ k, (tget {} c.send k).cfg = 0 ∧ (tget {} c.send k).stats = 0) ∧
    (∀ k (v : RecvCh), v = tget {} c.recv k → v.cfg = 0 ∧ v.state = 0 ∧ v.ring = 0 ∧ v.wp = 0 ∧ v.rp = 0 ∧ v.stats = 0) ∧
    (∀ k (v : OutQ), v = tget {} c.outQ k → v.cfg = 0 ∧ v.tokens = 0 ∧ v.hold = false ∧ v.words = []) ∧
    (∀ k (v : InQ), v = tget {} c.inQ k → v.spill = 0 ∧ v.used = 0 ∧ v.high = 0) ∧
    (∀ k (v : Steer), v = tget {} c.steer k → v.cfg = 0 ∧ v.d0 = [] ∧ v.d1 = [] ∧ v.ctl = [] ∧ v.fault = none) ∧
    (∀ (w : Switch) i, w = getSwitch State.reset p → w.cfg = 0 ∧ tget 0 w.vn i = 0 ∧ tget 0 w.sn i = 0 ∧ tget 0 w.cn i = 0) ∧
    (∀ i, tget 0 (getRouter State.reset p).errs i = 0) ∧ tget 0 State.reset.fence p = 0 ∧ tget 0 State.reset.cluFence p = 0 ∧
    tget 0 State.reset.shift p = 0 ∧ pwrClamp State.reset p = 0) ∧
  (∀ i, tget 0 ({} : Part).windows i = 0) ∧ ({} : Part).goose = 1000 ∧
  State.reset.meter.interval = 60 ∧ State.reset.meter.nextInterval = none ∧ State.reset.meter.selfOk = false ∧ State.reset.meter.clkFault = false ∧
  State.reset.meter.tapFault = false ∧ (∀ g, (getGroup State.reset.meter g).sense = false) ∧ auditFull State.reset.meter = false ∧
  State.reset.product = .cm74m ∧ State.reset.pwrLimit = 1500 ∧ State.reset.pending = [] ∧
  (∀ (s : State) p, getCore (deviceReset s) p = getCore State.reset p ∧ pwrClamp (deviceReset s) p = 0)
end

