-- ==== Sys2Proof/Laws/Kept.lean ====
section
/-! SUPPORT. What keeps the fuses, the identity, the order code and the queue as they are (`Is`), and what only ages them
(`Ag`): the general lemmas that the files about each part of the machine cite. -/

namespace Sys2Proof.Machine

/-- What is kept of a meter is what `kk` says. -/
structure IsM (kk : Kept) (m : Meter) : Prop where
  sealFuse  : m.sealFuse = kk.sealFuse
  breakFuse : m.breakFuse = kk.breakFuse

/-- What is kept of a state is `kk`. -/
structure Is (kk : Kept) (s : State) : Prop where
  product : s.product = kk.product
  pending : s.pending = kk.pending
  fwKey   : s.flash.fwKey = kk.fwKey
  serial  : s.flash.serial = kk.serial
  lc      : s.flash.lc = kk.lc
  rbOuvos : s.flash.rbOuvos = kk.rbOuvos
  rbUcode : s.flash.rbUcode = kk.rbUcode
  meter   : IsM kk s.meter

theorem is_mk_iff {kk : Kept} {x_product x_fab x_idKey x_storageKey x_meterUnread x_timeBase x_freeSeq x_boot x_bootFull x_bootFrom x_report x_bootLog
      x_ibis x_i3cAddr x_fw x_service x_ouvosUp x_loadMode x_flockNo x_refclk x_cores x_atMs x_fence x_cluFence x_shift
      x_switches x_slices x_routers x_ends x_landing x_dies x_parts x_reusable x_buckets x_hbm x_ddr x_ddrSpeed x_ddrDimms
      x_ddrGib x_spares x_links x_halfLinks x_fused x_soft x_scree x_history x_charged x_dumps x_skipped x_sweepMin x_sweep
      x_sounding x_sweepFrom x_sweepSize x_sweepOut x_unsounded x_missed x_tapCount x_hbmMoved x_tapTurn x_genAt x_portMode
      x_modePend x_resetPend x_lports x_neigh x_netOut x_ptpPort x_ptpHeard x_ptpFree x_ptpSync x_ptpDelay x_ptpReq x_stamps
      x_qps x_regions x_cmds x_sent x_seqHigh x_seqSeen x_seqFlash x_power x_pwrLimit x_pwrRefused x_hbmPace x_stackPace
      x_brake x_temps x_restoredAt x_turn x_outBefore x_binAt x_trip x_resetLow x_flash x_meter x_jtagOut x_pending} :
    Is kk (State.mk x_product x_fab x_idKey x_storageKey x_meterUnread x_timeBase x_freeSeq x_boot x_bootFull x_bootFrom x_report x_bootLog
      x_ibis x_i3cAddr x_fw x_service x_ouvosUp x_loadMode x_flockNo x_refclk x_cores x_atMs x_fence x_cluFence x_shift
      x_switches x_slices x_routers x_ends x_landing x_dies x_parts x_reusable x_buckets x_hbm x_ddr x_ddrSpeed x_ddrDimms
      x_ddrGib x_spares x_links x_halfLinks x_fused x_soft x_scree x_history x_charged x_dumps x_skipped x_sweepMin x_sweep
      x_sounding x_sweepFrom x_sweepSize x_sweepOut x_unsounded x_missed x_tapCount x_hbmMoved x_tapTurn x_genAt x_portMode
      x_modePend x_resetPend x_lports x_neigh x_netOut x_ptpPort x_ptpHeard x_ptpFree x_ptpSync x_ptpDelay x_ptpReq x_stamps
      x_qps x_regions x_cmds x_sent x_seqHigh x_seqSeen x_seqFlash x_power x_pwrLimit x_pwrRefused x_hbmPace x_stackPace
      x_brake x_temps x_restoredAt x_turn x_outBefore x_binAt x_trip x_resetLow x_flash x_meter x_jtagOut x_pending) ↔
      ((x_product = kk.product ∧ x_pending = kk.pending ∧ x_flash.fwKey = kk.fwKey ∧ x_flash.serial = kk.serial ∧ x_flash.lc =
      kk.lc ∧ x_flash.rbOuvos = kk.rbOuvos ∧ x_flash.rbUcode = kk.rbUcode) ∧ IsM kk x_meter) :=
  ⟨fun ⟨a, b, c, d, e, f, g, h⟩ => ⟨⟨a, b, c, d, e, f, g⟩, h⟩, fun ⟨⟨a, b, c, d, e, f, g⟩, h⟩ => ⟨a, b, c, d, e, f, g, h⟩⟩

theorem is_and {kk : Kept} {s : State} (h
    : Is kk s) : s.product = kk.product ∧ s.pending = kk.pending ∧ s.flash.fwKey = kk.fwKey ∧ s.flash.serial = kk.serial ∧ s.flash.lc = kk.lc ∧ s.flash.rbOuvos = kk.rbOuvos ∧ s.flash.rbUcode = kk.rbUcode :=
  ⟨h.product, h.pending, h.fwKey, h.serial, h.lc, h.rbOuvos, h.rbUcode⟩

theorem is_meter {kk : Kept} {s : State} (h : Is kk s) : IsM kk s.meter := h.meter

theorem isM_mk_iff {kk : Kept} {x_powered x_measuring x_selfOk x_clkFault x_tapFault x_cfgN x_interval x_nextInterval x_time x_up x_opened x_shown
      x_total x_last x_number x_start x_shortened x_gap x_changed x_tapFlag x_calFlag x_groups x_lines x_sessions x_taps
      x_tapLast x_tapSeen x_hbmBytes x_hbmRecent x_chip x_lfsr x_frames x_audit x_auditSig x_sealFuse x_breakFuse x_cause
      x_fwid x_fwArea x_fwBad x_calBad x_fwWin x_records x_chains x_chain x_sigs x_closing x_committed x_mramLines
      x_mramGroups x_mramTotal x_mramTime} :
    IsM kk (Meter.mk x_powered x_measuring x_selfOk x_clkFault x_tapFault x_cfgN x_interval x_nextInterval x_time x_up x_opened x_shown
      x_total x_last x_number x_start x_shortened x_gap x_changed x_tapFlag x_calFlag x_groups x_lines x_sessions x_taps
      x_tapLast x_tapSeen x_hbmBytes x_hbmRecent x_chip x_lfsr x_frames x_audit x_auditSig x_sealFuse x_breakFuse x_cause
      x_fwid x_fwArea x_fwBad x_calBad x_fwWin x_records x_chains x_chain x_sigs x_closing x_committed x_mramLines
      x_mramGroups x_mramTotal x_mramTime) ↔
      (x_sealFuse = kk.sealFuse ∧ x_breakFuse = kk.breakFuse) :=
  ⟨fun ⟨a, b⟩ => ⟨a, b⟩, fun ⟨a, b⟩ => ⟨a, b⟩⟩

theorem isM_and {kk : Kept} {m : Meter} (h : IsM kk m) : m.sealFuse = kk.sealFuse ∧ m.breakFuse = kk.breakFuse :=
  ⟨h.sealFuse, h.breakFuse⟩

theorem isM_foldl {kk : Kept} {α : Type} (f : Meter → α → Meter) (l : List α) (s : Meter)
    (h : ∀ a x, IsM kk a → IsM kk (f a x)) (hs : IsM kk s) : IsM kk (l.foldl f s) := by
  induction l generalizing s with
  | nil => exact hs
  | cons x r ih => exact ih _ (h s x hs)

theorem is_foldl {kk : Kept} {α : Type} (f : State → α → State) (l : List α) (s : State)
    (h : ∀ a x, Is kk a → Is kk (f a x)) (hs : Is kk s) : Is kk (l.foldl f s) := by
  induction l generalizing s with
  | nil => exact hs
  | cons x r ih => exact ih _ (h s x hs)

theorem is_foldl_fst {kk : Kept} {α β : Type} (f : State × β → α → State × β) (l : List α) (s : State × β)
    (h : ∀ a x, Is kk a.1 → Is kk (f a x).1) (hs : Is kk s.1) : Is kk (l.foldl f s).1 := by
  induction l generalizing s with
  | nil => exact hs
  | cons x r ih => exact ih _ (h s x hs)

theorem is_foldl_s {kk : Kept} {α : Type} (f : Work → α → Work) (l : List α) (s : Work)
    (h : ∀ a x, Is kk a.s → Is kk (f a x).s) (hs : Is kk s.s) : Is kk (l.foldl f s).s := by
  induction l generalizing s with
  | nil => exact hs
  | cons x r ih => exact ih _ (h s x hs)

theorem is_foldl_fst_s {kk : Kept} {α β : Type} (f : Work × β → α → Work × β) (l : List α) (s : Work × β)
    (h : ∀ a x, Is kk a.1.s → Is kk (f a x).1.s) (hs : Is kk s.1.s) : Is kk (l.foldl f s).1.s := by
  induction l generalizing s with
  | nil => exact hs
  | cons x r ih => exact ih _ (h s x hs)

theorem is_iter {kk : Kept} (f : State → State) (n : Nat) (s : State) (h : ∀ a, Is kk a → Is kk (f a)) (hs : Is kk s) :
    Is kk (iter f n s) := by
  induction n generalizing s with
  | zero => exact hs
  | succ n ih => exact ih _ (h s hs)

theorem is_ite {kk : Kept} {c : Prop} [Decidable c] {a b : State} (ha : Is kk a) (hb : Is kk b) : Is kk (if c then a else b) := by
  split
  · exact ha
  · exact hb

theorem is_onUnit {kk : Kept} {b : Bool} {s t : State} (h : onUnit b s = .next t) (hs : Is kk s) : Is kk t := by
  unfold onUnit at h; split at h <;> cases h; exact hs

/-- The meter has only aged since `kk`. -/
structure AgM (kk : Kept) (m : Meter) : Prop where
  sealFuse  : m.sealFuse = kk.sealFuse
  breakFuse : kk.breakFuse = true → m.breakFuse = true

/-- The state has only aged since `kk`. -/
structure Ag (kk : Kept) (s : State) : Prop where
  product : s.product = kk.product
  pending : s.pending = kk.pending
  fwKey   : s.flash.fwKey = kk.fwKey
  serial  : s.flash.serial = kk.serial
  lc      : kk.lc &&& s.flash.lc = kk.lc
  rbOuvos : kk.rbOuvos ≤ s.flash.rbOuvos
  rbUcode : kk.rbUcode ≤ s.flash.rbUcode
  meter   : AgM kk s.meter

theorem ag_mk_iff {kk : Kept} {x_product x_fab x_idKey x_storageKey x_meterUnread x_timeBase x_freeSeq x_boot x_bootFull x_bootFrom x_report x_bootLog
      x_ibis x_i3cAddr x_fw x_service x_ouvosUp x_loadMode x_flockNo x_refclk x_cores x_atMs x_fence x_cluFence x_shift
      x_switches x_slices x_routers x_ends x_landing x_dies x_parts x_reusable x_buckets x_hbm x_ddr x_ddrSpeed x_ddrDimms
      x_ddrGib x_spares x_links x_halfLinks x_fused x_soft x_scree x_history x_charged x_dumps x_skipped x_sweepMin x_sweep
      x_sounding x_sweepFrom x_sweepSize x_sweepOut x_unsounded x_missed x_tapCount x_hbmMoved x_tapTurn x_genAt x_portMode
      x_modePend x_resetPend x_lports x_neigh x_netOut x_ptpPort x_ptpHeard x_ptpFree x_ptpSync x_ptpDelay x_ptpReq x_stamps
      x_qps x_regions x_cmds x_sent x_seqHigh x_seqSeen x_seqFlash x_power x_pwrLimit x_pwrRefused x_hbmPace x_stackPace
      x_brake x_temps x_restoredAt x_turn x_outBefore x_binAt x_trip x_resetLow x_flash x_meter x_jtagOut x_pending} :
    Ag kk (State.mk x_product x_fab x_idKey x_storageKey x_meterUnread x_timeBase x_freeSeq x_boot x_bootFull x_bootFrom x_report x_bootLog
      x_ibis x_i3cAddr x_fw x_service x_ouvosUp x_loadMode x_flockNo x_refclk x_cores x_atMs x_fence x_cluFence x_shift
      x_switches x_slices x_routers x_ends x_landing x_dies x_parts x_reusable x_buckets x_hbm x_ddr x_ddrSpeed x_ddrDimms
      x_ddrGib x_spares x_links x_halfLinks x_fused x_soft x_scree x_history x_charged x_dumps x_skipped x_sweepMin x_sweep
      x_sounding x_sweepFrom x_sweepSize x_sweepOut x_unsounded x_missed x_tapCount x_hbmMoved x_tapTurn x_genAt x_portMode
      x_modePend x_resetPend x_lports x_neigh x_netOut x_ptpPort x_ptpHeard x_ptpFree x_ptpSync x_ptpDelay x_ptpReq x_stamps
      x_qps x_regions x_cmds x_sent x_seqHigh x_seqSeen x_seqFlash x_power x_pwrLimit x_pwrRefused x_hbmPace x_stackPace
      x_brake x_temps x_restoredAt x_turn x_outBefore x_binAt x_trip x_resetLow x_flash x_meter x_jtagOut x_pending) ↔
      ((x_product = kk.product ∧ x_pending = kk.pending ∧ x_flash.fwKey = kk.fwKey ∧ x_flash.serial = kk.serial ∧ kk.lc &&&
      x_flash.lc = kk.lc ∧ kk.rbOuvos ≤ x_flash.rbOuvos ∧ kk.rbUcode ≤ x_flash.rbUcode) ∧ AgM kk x_meter) :=
  ⟨fun ⟨a, b, c, d, e, f, g, h⟩ => ⟨⟨a, b, c, d, e, f, g⟩, h⟩, fun ⟨⟨a, b, c, d, e, f, g⟩, h⟩ => ⟨a, b, c, d, e, f, g, h⟩⟩

theorem ag_and {kk : Kept} {s : State} (h
    : Ag kk s) : s.product = kk.product ∧ s.pending = kk.pending ∧ s.flash.fwKey = kk.fwKey ∧ s.flash.serial = kk.serial ∧ kk.lc &&& s.flash.lc = kk.lc ∧ kk.rbOuvos ≤ s.flash.rbOuvos ∧ kk.rbUcode ≤ s.flash.rbUcode :=
  ⟨h.product, h.pending, h.fwKey, h.serial, h.lc, h.rbOuvos, h.rbUcode⟩

theorem ag_meter {kk : Kept} {s : State} (h : Ag kk s) : AgM kk s.meter := h.meter

theorem agM_mk_iff {kk : Kept} {x_powered x_measuring x_selfOk x_clkFault x_tapFault x_cfgN x_interval x_nextInterval x_time x_up x_opened x_shown
      x_total x_last x_number x_start x_shortened x_gap x_changed x_tapFlag x_calFlag x_groups x_lines x_sessions x_taps
      x_tapLast x_tapSeen x_hbmBytes x_hbmRecent x_chip x_lfsr x_frames x_audit x_auditSig x_sealFuse x_breakFuse x_cause
      x_fwid x_fwArea x_fwBad x_calBad x_fwWin x_records x_chains x_chain x_sigs x_closing x_committed x_mramLines
      x_mramGroups x_mramTotal x_mramTime} :
    AgM kk (Meter.mk x_powered x_measuring x_selfOk x_clkFault x_tapFault x_cfgN x_interval x_nextInterval x_time x_up x_opened x_shown
      x_total x_last x_number x_start x_shortened x_gap x_changed x_tapFlag x_calFlag x_groups x_lines x_sessions x_taps
      x_tapLast x_tapSeen x_hbmBytes x_hbmRecent x_chip x_lfsr x_frames x_audit x_auditSig x_sealFuse x_breakFuse x_cause
      x_fwid x_fwArea x_fwBad x_calBad x_fwWin x_records x_chains x_chain x_sigs x_closing x_committed x_mramLines
      x_mramGroups x_mramTotal x_mramTime) ↔
      (x_sealFuse = kk.sealFuse ∧ (kk.breakFuse = true → x_breakFuse = true)) :=
  ⟨fun ⟨a, b⟩ => ⟨a, b⟩, fun ⟨a, b⟩ => ⟨a, b⟩⟩

theorem agM_and {kk : Kept} {m : Meter} (h : AgM kk m) : m.sealFuse = kk.sealFuse ∧ (kk.breakFuse = true → m.breakFuse = true) :=
  ⟨h.sealFuse, h.breakFuse⟩

theorem agM_foldl {kk : Kept} {α : Type} (f : Meter → α → Meter) (l : List α) (s : Meter)
    (h : ∀ a x, AgM kk a → AgM kk (f a x)) (hs : AgM kk s) : AgM kk (l.foldl f s) := by
  induction l generalizing s with
  | nil => exact hs
  | cons x r ih => exact ih _ (h s x hs)

theorem is_keptOf (s : State) : Is (keptOf s) s := ⟨rfl, rfl, rfl, rfl, rfl, rfl, rfl, ⟨rfl, rfl⟩⟩

/-- What keeps everything ages nothing. -/
theorem ag_of {kk : Kept} {s t : State} (h : ∀ k, Is k s → Is k t) (hs : Ag kk s) : Ag kk t := by
  have ht := h _ (is_keptOf s)
  exact ⟨ht.product.trans hs.product, ht.pending.trans hs.pending, ht.fwKey.trans hs.fwKey, ht.serial.trans hs.serial,
    (congrArg (kk.lc &&& ·) ht.lc).trans hs.lc, hs.rbOuvos.trans (Nat.le_of_eq ht.rbOuvos.symm),
    hs.rbUcode.trans (Nat.le_of_eq ht.rbUcode.symm),
    ⟨ht.meter.sealFuse.trans hs.meter.sealFuse, fun hb => ht.meter.breakFuse.trans (hs.meter.breakFuse hb)⟩⟩

theorem agM_of {kk : Kept} {m m1 : Meter} (h : ∀ k, IsM k m → IsM k m1) (hs : AgM kk m) : AgM kk m1 := by
  have h1 := h { kk with sealFuse := m.sealFuse, breakFuse := m.breakFuse } ⟨rfl, rfl⟩
  exact ⟨h1.sealFuse.trans hs.sealFuse, fun hb => h1.breakFuse.trans (hs.breakFuse hb)⟩

theorem isM_keptM (m : Meter) (kk : Kept) : IsM { kk with sealFuse := m.sealFuse, breakFuse := m.breakFuse } m := ⟨rfl, rfl⟩

theorem isM_same {kk : Kept} {m m1 : Meter} (h : IsM { kk with sealFuse := m.sealFuse, breakFuse := m.breakFuse } m1) :
    m1.sealFuse = m.sealFuse ∧ m1.breakFuse = m.breakFuse := ⟨h.sealFuse, h.breakFuse⟩

theorem and_or_kept {a b c : BitVec 8} (h : a &&& b = a) : a &&& (b ||| c) = a := by
  ext i hi
  have := congrArg (fun x : BitVec 8 => x.getLsbD i) h
  simp only [BitVec.getLsbD_and] at this
  simp only [BitVec.getElem_and, BitVec.getElem_or, ← BitVec.getLsbD_eq_getElem]
  cases h1 : a.getLsbD i <;> cases h2 : b.getLsbD i <;> simp_all

theorem ag_foldl {kk : Kept} {α : Type} (f : State → α → State) (l : List α) (s : State)
    (h : ∀ a x, Ag kk a → Ag kk (f a x)) (hs : Ag kk s) : Ag kk (l.foldl f s) := by
  induction l generalizing s with
  | nil => exact hs
  | cons x r ih => exact ih _ (h s x hs)

theorem ag_foldl_fst {kk : Kept} {α β : Type} (f : State × β → α → State × β) (l : List α) (s : State × β)
    (h : ∀ a x, Ag kk a.1 → Ag kk (f a x).1) (hs : Ag kk s.1) : Ag kk (l.foldl f s).1 := by
  induction l generalizing s with
  | nil => exact hs
  | cons x r ih => exact ih _ (h s x hs)

theorem ag_iter {kk : Kept} (f : State → State) (n : Nat) (s : State) (h : ∀ a, Ag kk a → Ag kk (f a)) (hs : Ag kk s) :
    Ag kk (iter f n s) := by
  induction n generalizing s with
  | zero => exact hs
  | succ n ih => exact ih _ (h s hs)

theorem ag_ite {kk : Kept} {c : Prop} [Decidable c] {a b : State} (ha : Ag kk a) (hb : Ag kk b) : Ag kk (if c then a else b) := by
  split
  · exact ha
  · exact hb

theorem ag_onUnit {kk : Kept} {b : Bool} {s t : State} (h : onUnit b s = .next t) (hs : Ag kk s) : Ag kk t := by
  unfold onUnit at h; split at h <;> cases h; exact hs

end Sys2Proof.Machine
end

