-- ==== Sys2Proof/Laws/KeptAddress.lean ====
section
/-! SUPPORT. One lemma per operation of Machine/Address.lean: it keeps what `Kept` lists, or only ages it. -/

namespace Sys2Proof.Machine

theorem is_setPart {kk : Kept} {s : State} {p : Nat} {v : Option Part} (hk : Is kk s) : Is kk (setPart s p v) := by
  unfold setPart
  try dsimp only
  repeat' (first | with_reducible assumption | (simp only [↓is_mk_iff]; refine ⟨is_and ?_, ?_⟩) | (simp only [↓isM_mk_iff]; refine isM_and ?_) | (with_reducible apply is_foldl; intro _ _ _) | (with_reducible apply is_foldl_fst; intro _ _ _) | (with_reducible apply is_foldl_s; intro _ _ _) | (with_reducible apply is_foldl_fst_s; intro _ _ _) | (with_reducible apply is_iter; intro _ _) | (with_reducible apply isM_foldl; intro _ _ _) | (with_reducible apply is_meter) | (intro _; try dsimp only) | (split <;> (try (rename_i hq; simp only [↓Prod.ext_iff] at hq; obtain ⟨hf, _⟩ := hq; subst hf))) | (dsimp only [id]))

theorem is_modPart {kk : Kept} {s : State} {p : Nat} {f : Part → Part} (hk : Is kk s) : Is kk (modPart s p f) := by
  unfold modPart
  try dsimp only
  repeat' (first | with_reducible assumption | (simp only [↓is_mk_iff]; refine ⟨is_and ?_, ?_⟩) | (simp only [↓isM_mk_iff]; refine isM_and ?_) | (with_reducible apply is_foldl; intro _ _ _) | (with_reducible apply is_foldl_fst; intro _ _ _) | (with_reducible apply is_foldl_s; intro _ _ _) | (with_reducible apply is_foldl_fst_s; intro _ _ _) | (with_reducible apply is_iter; intro _ _) | (with_reducible apply isM_foldl; intro _ _ _) | (with_reducible apply is_meter) | (intro _; try dsimp only) | (split <;> (try (rename_i hq; simp only [↓Prod.ext_iff] at hq; obtain ⟨hf, _⟩ := hq; subst hf))) | (dsimp only [id]))

end Sys2Proof.Machine
end

