-- ==== Sys2Proof/Laws/KeptOps.lean ====
section
/-! SUPPORT. One lemma per operation of Machine/Ops.lean: it keeps what `Kept` lists, or only ages it. -/

namespace Sys2Proof.Machine

theorem is_setCore {kk : Kept} {s : State} {p : Nat} {c : Core} (hk : Is kk s) : Is kk (setCore s p c) := by
  unfold setCore
  try dsimp only
  repeat' (first | with_reducible assumption | (simp only [↓is_mk_iff]; refine ⟨is_and ?_, ?_⟩) | (with_reducible apply is_meter))

theorem is_modCore {kk : Kept} {s : State} {p : Nat} {f : Core → Core} (hk : Is kk s) : Is kk (modCore s p f) := by
  unfold modCore
  try dsimp only
  repeat' (first | with_reducible assumption | (with_reducible apply is_setCore))

theorem is_setDie {kk : Kept} {s : State} {d : Nat} {v : Die} (hk : Is kk s) : Is kk (setDie s d v) := by
  unfold setDie
  try dsimp only
  repeat' (first | with_reducible assumption | (simp only [↓is_mk_iff]; refine ⟨is_and ?_, ?_⟩) | (with_reducible apply is_meter))

theorem is_modDie {kk : Kept} {s : State} {d : Nat} {f : Die → Die} (hk : Is kk s) : Is kk (modDie s d f) := by
  unfold modDie
  try dsimp only
  repeat' (first | with_reducible assumption | (with_reducible apply is_setDie))

theorem is_setEnd {kk : Kept} {s : State} {x : Nat} {e : Endpoint} (hk : Is kk s) : Is kk (setEnd s x e) := by
  unfold setEnd
  try dsimp only
  repeat' (first | with_reducible assumption | (simp only [↓is_mk_iff]; refine ⟨is_and ?_, ?_⟩) | (with_reducible apply is_meter))

theorem is_modEnd {kk : Kept} {s : State} {x : Nat} {f : Endpoint → Endpoint} (hk : Is kk s) : Is kk (modEnd s x f) := by
  unfold modEnd
  try dsimp only
  repeat' (first | with_reducible assumption | (with_reducible apply is_setEnd))

theorem is_setSlice {kk : Kept} {s : State} {k : Nat} {v : Slice} (hk : Is kk s) : Is kk (setSlice s k v) := by
  unfold setSlice
  try dsimp only
  repeat' (first | with_reducible assumption | (simp only [↓is_mk_iff]; refine ⟨is_and ?_, ?_⟩) | (with_reducible apply is_meter))

theorem is_modSlice {kk : Kept} {s : State} {k : Nat} {f : Slice → Slice} (hk : Is kk s) : Is kk (modSlice s k f) := by
  unfold modSlice
  try dsimp only
  repeat' (first | with_reducible assumption | (with_reducible apply is_setSlice))

theorem is_setSwitch {kk : Kept} {s : State} {p : Nat} {w : Switch} (hk : Is kk s) : Is kk (setSwitch s p w) := by
  unfold setSwitch
  try dsimp only
  repeat' (first | with_reducible assumption | (simp only [↓is_mk_iff]; refine ⟨is_and ?_, ?_⟩) | (with_reducible apply is_meter))

theorem is_modSwitch {kk : Kept} {s : State} {p : Nat} {f : Switch → Switch} (hk : Is kk s) : Is kk (modSwitch s p f) := by
  unfold modSwitch
  try dsimp only
  repeat' (first | with_reducible assumption | (with_reducible apply is_setSwitch))

theorem is_setBucket {kk : Kept} {s : State} {t : Nat} {b : Bucket} (hk : Is kk s) : Is kk (setBucket s t b) := by
  unfold setBucket
  try dsimp only
  repeat' (first | with_reducible assumption | (simp only [↓is_mk_iff]; refine ⟨is_and ?_, ?_⟩) | (with_reducible apply is_meter))

theorem is_modBucket {kk : Kept} {s : State} {t : Nat} {f : Bucket → Bucket} (hk : Is kk s) : Is kk (modBucket s t f) := by
  unfold modBucket
  try dsimp only
  repeat' (first | with_reducible assumption | (with_reducible apply is_setBucket))

theorem is_setPow {kk : Kept} {s : State} {c : Nat} {v : Pow} (hk : Is kk s) : Is kk (setPow s c v) := by
  unfold setPow
  try dsimp only
  repeat' (first | with_reducible assumption | (simp only [↓is_mk_iff]; refine ⟨is_and ?_, ?_⟩) | (with_reducible apply is_meter))

theorem is_modPow {kk : Kept} {s : State} {c : Nat} {f : Pow → Pow} (hk : Is kk s) : Is kk (modPow s c f) := by
  unfold modPow
  try dsimp only
  repeat' (first | with_reducible assumption | (with_reducible apply is_setPow))

theorem is_raiseFloors {kk : Kept} {s : State} {cs : List Nat} (hk : Is kk s) : Is kk (raiseFloors s cs) := by
  unfold raiseFloors
  try dsimp only
  repeat' (first | with_reducible assumption | (with_reducible apply is_modPow) | (with_reducible apply is_foldl; intro _ _ _))

theorem is_awaken {kk : Kept} {s : State} {c : Nat} (hk : Is kk s) : Is kk (awaken s c) := by
  unfold awaken
  try dsimp only
  repeat' (first | with_reducible assumption | (with_reducible apply is_setPow))

theorem is_lendRound {kk : Kept} {s : State} (hk : Is kk s) : Is kk (lendRound s) := by
  unfold lendRound
  try dsimp only
  repeat' (first | with_reducible assumption | (with_reducible apply is_modPow) | (with_reducible apply is_foldl; intro _ _ _) | (with_reducible apply is_meter) | split)

theorem is_shareLent {kk : Kept} {s : State} (hk : Is kk s) : Is kk (shareLent s) := by
  unfold shareLent
  try dsimp only
  repeat' (first | with_reducible assumption | (simp only [↓is_mk_iff]; refine ⟨is_and ?_, ?_⟩) | (with_reducible apply is_modPow) | (with_reducible apply is_lendRound) | (with_reducible apply is_foldl; intro _ _ _) | (with_reducible apply is_meter) | split)

theorem is_unlend {kk : Kept} {s : State} {p : Nat} (hk : Is kk s) : Is kk (unlend s p) := by
  unfold unlend
  try dsimp only
  repeat' (first | with_reducible assumption | (with_reducible apply is_setPow) | (with_reducible apply is_shareLent) | (with_reducible apply is_meter) | split)

theorem is_stir {kk : Kept} {s : State} {p : Nat} (hk : Is kk s) : Is kk (stir s p) := by
  unfold stir
  try dsimp only
  repeat' (first | with_reducible assumption | (with_reducible apply is_unlend) | (with_reducible apply is_meter) | split)

theorem is_postEvent {kk : Kept} {s : State} {die : Nat} {r : EventRec} (hk : Is kk s) : Is kk (postEvent s die r) := by
  unfold postEvent
  try dsimp only
  repeat' (first | with_reducible assumption | (with_reducible apply is_setDie) | (with_reducible apply is_meter) | split)

theorem is_coreEvent {kk : Kept} {s : State} {p code : Nat} {detail : List Byte} (hk : Is kk s)
    : Is kk (coreEvent s p code detail) := by
  unfold coreEvent
  try dsimp only
  repeat' (first | with_reducible assumption | (with_reducible apply is_postEvent))

theorem is_trap {kk : Kept} {s : State} {p t cause : Nat} {w : Why} (hk : Is kk s) : Is kk (trap s p t cause w) := by
  unfold trap
  try dsimp only
  repeat' (first | with_reducible assumption | (with_reducible apply is_setCore) | (with_reducible apply is_setDie) | (with_reducible apply is_modDie) | (with_reducible apply is_meter) | split)

theorem is_trapHere {kk : Kept} {s : State} {p t cause : Nat} {syncId : Nat} {detail : W64} (hk : Is kk s)
    : Is kk (trapHere s p t cause syncId detail) := by
  unfold trapHere
  try dsimp only
  repeat' (first | with_reducible assumption | (with_reducible apply is_trap))

theorem is_trapOp {kk : Kept} {s : State} {p : Nat} {o : IssueOp} {cause syncId : Nat} {detail : W64} (hk : Is kk s)
    : Is kk (trapOp s p o cause syncId detail) := by
  unfold trapOp
  try dsimp only
  repeat' (first | with_reducible assumption | (with_reducible apply is_trap))

theorem is_faultWaiters {kk : Kept} {s : State} {p i : Nat} (hk : Is kk s) : Is kk (faultWaiters s p i) := by
  unfold faultWaiters
  try dsimp only
  repeat' (first | with_reducible assumption | (with_reducible apply is_trapHere) | (with_reducible apply is_foldl; intro _ _ _) | (with_reducible apply is_meter) | split)

theorem is_writeCtr {kk : Kept} {s : State} {p i : Nat} {r : SyncCtr × Bool} (hk : Is kk s) : Is kk (writeCtr s p i r) := by
  unfold writeCtr
  try dsimp only
  repeat' (first | with_reducible assumption | (with_reducible apply is_modCore) | (with_reducible apply is_faultWaiters) | (with_reducible apply is_meter) | split)

theorem is_raiseFor {kk : Kept} {s : State} {p i v : Nat} {o : IssueOp} (hk : Is kk s) : Is kk (raiseFor s p i v o) := by
  unfold raiseFor
  try dsimp only
  repeat' (first | with_reducible assumption | (with_reducible apply is_trapOp) | (with_reducible apply is_writeCtr) | (with_reducible apply is_meter) | split)

theorem is_progress {kk : Kept} {s : State} {p : Nat} (hk : Is kk s) : Is kk (progress s p) := by
  unfold progress
  try dsimp only
  repeat' (first | with_reducible assumption | (with_reducible apply is_modCore))

theorem is_opDone {kk : Kept} {s : State} {p : Nat} {o : IssueOp} (hk : Is kk s) : Is kk (opDone s p o) := by
  unfold opDone
  try dsimp only
  repeat' (first | with_reducible assumption | (with_reducible apply is_modCore) | (with_reducible apply is_raiseFor) | (with_reducible apply is_progress) | (with_reducible apply is_meter) | split)

theorem is_coreStop {kk : Kept} {s : State} {p row word : Nat} {store : Bool} (hk : Is kk s)
    : Is kk (coreStop s p row word store) := by
  unfold coreStop
  try dsimp only
  repeat' (first | with_reducible assumption | (with_reducible apply is_modCore) | (with_reducible apply is_postEvent))

theorem is_readCore {kk : Kept} {s : State} {p a n : Nat} (hk : Is kk s) : Is kk (readCore s p a n).1 := by
  unfold readCore
  try dsimp only
  repeat' (first | with_reducible assumption | (with_reducible apply is_setCore) | (with_reducible apply is_coreStop) | (with_reducible apply is_meter) | split)

theorem is_readStore {kk : Kept} {s : State} {p a n : Nat} (hk : Is kk s) : Is kk (readStore s p a n).1 := by
  unfold readStore
  try dsimp only
  repeat' (first | with_reducible assumption | (with_reducible apply is_setCore) | (with_reducible apply is_coreStop) | (with_reducible apply is_meter) | split)

theorem is_dropSliceCv {kk : Kept} {s : State} {key off : Nat} (hk : Is kk s) : Is kk (dropSliceCv s key off) := by
  unfold dropSliceCv
  try dsimp only
  repeat' (first | with_reducible assumption | (with_reducible apply is_modSlice) | (with_reducible apply is_meter) | split)

theorem is_writeSlice {kk : Kept} {s : State} {key a : Nat} {l : List Byte} {keepCv : Bool} (hk : Is kk s)
    : Is kk (writeSlice s key a l keepCv) := by
  unfold writeSlice
  try dsimp only
  repeat' (first | with_reducible assumption | (with_reducible apply is_modSlice) | (with_reducible apply is_dropSliceCv) | (with_reducible apply is_meter) | split)

theorem is_readSlice {kk : Kept} {s : State} {key a n : Nat} (hk : Is kk s) : Is kk (readSlice s key a n).1 := by
  unfold readSlice
  try dsimp only
  repeat' (first | with_reducible assumption | (with_reducible apply is_setSlice) | (with_reducible apply is_postEvent) | (with_reducible apply is_meter) | split)

theorem is_setTier {kk : Kept} {s : State} {t : Nat} {v : Tier} (hk : Is kk s) : Is kk (setTier s t v) := by
  unfold setTier
  try dsimp only
  repeat' (first | with_reducible assumption | (simp only [↓is_mk_iff]; refine ⟨is_and ?_, ?_⟩) | (with_reducible apply is_meter) | split)

theorem is_integrityEvent {kk : Kept} {s : State} {t sec cause : Nat} (hk : Is kk s) : Is kk (integrityEvent s t sec cause) := by
  unfold integrityEvent
  try dsimp only
  repeat' (first | with_reducible assumption | (with_reducible apply is_postEvent))

theorem is_addSoft {kk : Kept} {s : State} {kind unit reason count : Nat} (hk : Is kk s)
    : Is kk (addSoft s kind unit reason count) := by
  unfold addSoft
  try dsimp only
  repeat' (first | with_reducible assumption | (simp only [↓is_mk_iff]; refine ⟨is_and ?_, ?_⟩) | (with_reducible apply is_meter) | split)

theorem is_repairRow {kk : Kept} {s : State} {t sec : Nat} (hk : Is kk s) : Is kk (repairRow s t sec) := by
  unfold repairRow
  try dsimp only
  repeat' (first | with_reducible assumption | (with_reducible apply is_setTier) | (with_reducible apply is_addSoft) | (with_reducible apply is_foldl; intro _ _ _) | (with_reducible apply is_meter) | split)

theorem is_correctSector {kk : Kept} {s : State} {t sec : Nat} (hk : Is kk s) : Is kk (correctSector s t sec) := by
  unfold correctSector
  try dsimp only
  repeat' (first | with_reducible assumption | (with_reducible apply is_setTier) | (with_reducible apply is_repairRow) | (with_reducible apply is_meter) | split)

theorem is_checkSector {kk : Kept} {s : State} {t sec : Nat} (hk : Is kk s) : Is kk (checkSector s t sec).1 := by
  unfold checkSector
  try dsimp only
  repeat' (first | with_reducible assumption | (with_reducible apply is_integrityEvent) | (with_reducible apply is_repairRow) | (with_reducible apply is_correctSector) | (with_reducible apply is_meter) | split)

theorem is_checkSectors {kk : Kept} {s : State} {t sec : Nat} {y1 : Nat} (hk : Is kk s) : Is kk (checkSectors s t sec y1).1 := by
  induction y1 generalizing s sec with
  | zero => exact hk
  | succ n ih =>
    unfold checkSectors
    exact ih (is_checkSector hk)

theorem is_countMoved {kk : Kept} {s : State} {t a n : Nat} (hk : Is kk s) : Is kk (countMoved s t a n) := by
  unfold countMoved
  try dsimp only
  repeat' (first | with_reducible assumption | (simp only [↓is_mk_iff]; refine ⟨is_and ?_, ?_⟩) | (with_reducible apply is_meter) | split)

theorem is_readTier {kk : Kept} {s : State} {t a n : Nat} (hk : Is kk s) : Is kk (readTier s t a n).1 := by
  unfold readTier
  try dsimp only
  repeat' (first | with_reducible assumption | (with_reducible apply is_checkSectors) | (with_reducible apply is_countMoved))

theorem is_storeSector {kk : Kept} {s : State} {t sec a : Nat} {l : List Byte} (hk : Is kk s)
    : Is kk (storeSector s t sec a l) := by
  unfold storeSector
  try dsimp only
  repeat' (first | with_reducible assumption | (with_reducible apply is_setTier))

theorem is_writeTierGo {kk : Kept} {s : State} {t : Nat} {y1 : Nat} {y2 : Nat} {y3 : List Byte} {y4 : Option Nat} (hk : Is kk s)
    : Is kk (writeTierGo s t y1 y2 y3 y4).1 := by
  induction y1 generalizing s y2 y3 y4 with
  | zero => (unfold writeTierGo; (try dsimp only); repeat' (with_reducible assumption))
  | succ n ih => (unfold writeTierGo; (try dsimp only); repeat' (first | with_reducible assumption | (with_reducible apply ih) | (with_reducible apply is_checkSector) | (with_reducible apply is_storeSector) | (with_reducible apply is_meter) | (split <;> (try (rename_i hq; simp only [↓Prod.ext_iff] at hq; obtain ⟨hf, _⟩ := hq; subst hf)))))

theorem is_writeTier {kk : Kept} {s : State} {t a : Nat} {l : List Byte} (hk : Is kk s) : Is kk (writeTier s t a l).1 := by
  unfold writeTier
  try dsimp only
  repeat' (first | with_reducible assumption | (with_reducible apply is_setTier) | (with_reducible apply is_countMoved) | (with_reducible apply is_writeTierGo))

theorem is_sendCells {kk : Kept} {s : State} {x : Nat} {l : List Cell} (hk : Is kk s) : Is kk (sendCells s x l) := by
  unfold sendCells
  try dsimp only
  repeat' (first | with_reducible assumption | (with_reducible apply is_modEnd))

theorem is_sendRaise {kk : Kept} {s : State} {p pos dst : Nat} {src : RaiseSrc} {target syncId amt : Nat} (hk : Is kk s)
    : Is kk (sendRaise s p pos dst src target syncId amt) := by
  unfold sendRaise
  try dsimp only
  repeat' (first | with_reducible assumption | (with_reducible apply is_setCore) | (with_reducible apply is_sendCells))

theorem is_useFree {kk : Kept} {s : State} (hk : Is kk s) : Is kk (useFree s) := by
  unfold useFree
  try dsimp only
  repeat' (first | with_reducible assumption | (simp only [↓is_mk_iff]; refine ⟨is_and ?_, ?_⟩) | (with_reducible apply is_meter))

theorem is_setClu {kk : Kept} {s : State} {c state part : Nat} (hk : Is kk s) : Is kk (setClu s c state part) := by
  unfold setClu
  try dsimp only
  repeat' (first | with_reducible assumption | (simp only [↓is_mk_iff]; refine ⟨is_and ?_, ?_⟩) | (with_reducible apply is_meter))

theorem is_modScree {kk : Kept} {s : State} {kind unit : Nat} {f : Scree → Scree} (hk : Is kk s)
    : Is kk (modScree s kind unit f) := by
  unfold modScree
  try dsimp only
  repeat' (first | with_reducible assumption | (simp only [↓is_mk_iff]; refine ⟨is_and ?_, ?_⟩) | (with_reducible apply is_meter))

theorem is_addUncorrected {kk : Kept} {s : State} {kind unit n : Nat} (hk : Is kk s) : Is kk (addUncorrected s kind unit n) := by
  unfold addUncorrected
  try dsimp only
  repeat' (first | with_reducible assumption | (with_reducible apply is_modScree))

theorem is_addCorrected {kk : Kept} {s : State} {kind unit n : Nat} (hk : Is kk s) : Is kk (addCorrected s kind unit n) := by
  unfold addCorrected
  try dsimp only
  repeat' (first | with_reducible assumption | (with_reducible apply is_modScree) | (with_reducible apply is_meter) | split)

theorem is_countReset {kk : Kept} {s : State} {kind unit : Nat} (hk : Is kk s) : Is kk (countReset s kind unit) := by
  unfold countReset
  try dsimp only
  repeat' (first | with_reducible assumption | (with_reducible apply is_modScree))

theorem is_passMs {kk : Kept} {s s1 : State} (hk : Is kk s1) : Is kk (passMs s s1) := by
  unfold passMs
  split
  · exact hk
  · simp only [is_mk_iff]
    exact ⟨is_and hk, is_meter hk⟩

end Sys2Proof.Machine
end

