-- ==== Sys2Proof/Laws/KeptMail.lean ====
section
/-! SUPPORT. One lemma per operation of Machine/Mail.lean: it keeps what `Kept` lists, or only ages it. -/

namespace Sys2Proof.Machine

theorem is_setQp {kk : Kept} {s : State} {q : Nat} {v : Option Qp} (hk : Is kk s) : Is kk (setQp s q v) := by
  unfold setQp
  try dsimp only
  repeat' (first | with_reducible assumption | (simp only [↓is_mk_iff]; refine ⟨is_and ?_, ?_⟩) | (with_reducible apply is_meter))

theorem is_modQp {kk : Kept} {s : State} {q : Nat} {f : Qp → Qp} (hk : Is kk s) : Is kk (modQp s q f) := by
  unfold modQp
  try dsimp only
  repeat' (first | with_reducible assumption | (simp only [↓is_mk_iff]; refine ⟨is_and ?_, ?_⟩) | (with_reducible apply is_meter))

theorem is_setLport {kk : Kept} {s : State} {l : Nat} {v : LPort} (hk : Is kk s) : Is kk (setLport s l v) := by
  unfold setLport
  try dsimp only
  repeat' (first | with_reducible assumption | (simp only [↓is_mk_iff]; refine ⟨is_and ?_, ?_⟩) | (with_reducible apply is_meter))

theorem is_modLport {kk : Kept} {s : State} {l : Nat} {f : LPort → LPort} (hk : Is kk s) : Is kk (modLport s l f) := by
  unfold modLport
  try dsimp only
  repeat' (first | with_reducible assumption | (with_reducible apply is_setLport))

theorem is_setEntry {kk : Kept} {s : State} {l k : Nat} {e : Option AddrEntry} (hk : Is kk s) : Is kk (setEntry s l k e) := by
  unfold setEntry
  try dsimp only
  repeat' (first | with_reducible assumption | (with_reducible apply is_modLport))

theorem is_noteEvent {kk : Kept} {s : State} {body : List Byte} (hk : Is kk s) : Is kk (noteEvent s body) := by
  unfold noteEvent
  try dsimp only
  repeat' (first | with_reducible assumption | (simp only [↓is_mk_iff]; refine ⟨is_and ?_, ?_⟩) | (with_reducible apply is_meter))

theorem is_burnPn {kk : Kept} {s : State} {l k n : Nat} (hk : Is kk s) : Is kk (burnPn s l k n) := by
  unfold burnPn
  try dsimp only
  repeat' (first | with_reducible assumption | (with_reducible apply is_setEntry) | (with_reducible apply is_noteEvent) | (with_reducible apply is_meter) | split)

theorem is_putOut {kk : Kept} {s : State} {q : Nat} {v : Qp} {n : Nat} (hk : Is kk s) : Is kk (putOut s q v n) := by
  unfold putOut
  try dsimp only
  repeat' (first | with_reducible assumption | (simp only [↓is_mk_iff]; refine ⟨is_and ?_, ?_⟩) | (simp only [↓isM_mk_iff]; refine isM_and ?_) | (with_reducible apply is_setQp) | (with_reducible apply is_burnPn) | (with_reducible apply is_foldl; intro _ _ _) | (with_reducible apply is_foldl_fst; intro _ _ _) | (with_reducible apply is_foldl_s; intro _ _ _) | (with_reducible apply is_foldl_fst_s; intro _ _ _) | (with_reducible apply is_iter; intro _ _) | (with_reducible apply isM_foldl; intro _ _ _) | (with_reducible apply is_meter) | (intro _; try dsimp only) | (split <;> (try (rename_i hq; simp only [↓Prod.ext_iff] at hq; obtain ⟨hf, _⟩ := hq; subst hf))) | (dsimp only [id]))

theorem is_emit {kk : Kept} {s : State} {q : Nat} {t : Tx} (hk : Is kk s) : Is kk (emit s q t) := by
  unfold emit
  try dsimp only
  repeat' (first | with_reducible assumption | (simp only [↓is_mk_iff]; refine ⟨is_and ?_, ?_⟩) | (simp only [↓isM_mk_iff]; refine isM_and ?_) | (with_reducible apply is_putOut) | (with_reducible apply is_foldl; intro _ _ _) | (with_reducible apply is_foldl_fst; intro _ _ _) | (with_reducible apply is_foldl_s; intro _ _ _) | (with_reducible apply is_foldl_fst_s; intro _ _ _) | (with_reducible apply is_iter; intro _ _) | (with_reducible apply isM_foldl; intro _ _ _) | (with_reducible apply is_meter) | (intro _; try dsimp only) | (split <;> (try (rename_i hq; simp only [↓Prod.ext_iff] at hq; obtain ⟨hf, _⟩ := hq; subst hf))) | (dsimp only [id]))

theorem is_transmitOn {kk : Kept} {s : State} {q : Nat} {t : Tx} (hk : Is kk s) : Is kk (transmitOn s q t) := by
  unfold transmitOn
  try dsimp only
  repeat' (first | with_reducible assumption | (simp only [↓is_mk_iff]; refine ⟨is_and ?_, ?_⟩) | (simp only [↓isM_mk_iff]; refine isM_and ?_) | (with_reducible apply is_setQp) | (with_reducible apply is_emit) | (with_reducible apply is_foldl; intro _ _ _) | (with_reducible apply is_foldl_fst; intro _ _ _) | (with_reducible apply is_foldl_s; intro _ _ _) | (with_reducible apply is_foldl_fst_s; intro _ _ _) | (with_reducible apply is_iter; intro _ _) | (with_reducible apply isM_foldl; intro _ _ _) | (with_reducible apply is_meter) | (intro _; try dsimp only) | (split <;> (try (rename_i hq; simp only [↓Prod.ext_iff] at hq; obtain ⟨hf, _⟩ := hq; subst hf))) | (dsimp only [id]))

theorem is_post {kk : Kept} {s : State} {q : Nat} {v : Qp} {m : OutMsg} {mail : Option Sent} (hk : Is kk s) : Is kk (post s q v m mail) := by
  unfold post
  try dsimp only
  repeat' (first | with_reducible assumption | (simp only [↓is_mk_iff]; refine ⟨is_and ?_, ?_⟩) | (simp only [↓isM_mk_iff]; refine isM_and ?_) | (with_reducible apply is_setQp) | (with_reducible apply is_transmitOn) | (with_reducible apply is_foldl; intro _ _ _) | (with_reducible apply is_foldl_fst; intro _ _ _) | (with_reducible apply is_foldl_s; intro _ _ _) | (with_reducible apply is_foldl_fst_s; intro _ _ _) | (with_reducible apply is_iter; intro _ _) | (with_reducible apply isM_foldl; intro _ _ _) | (with_reducible apply is_meter) | (intro _; try dsimp only) | (split <;> (try (rename_i hq; simp only [↓Prod.ext_iff] at hq; obtain ⟨hf, _⟩ := hq; subst hf))) | (dsimp only [id]))

theorem is_sendOn {kk : Kept} {s : State} {q : Nat} {m : OutMsg} {mail : Option Sent} (hk : Is kk s) : Is kk (sendOn s q m mail) := by
  unfold sendOn
  try dsimp only
  repeat' (first | with_reducible assumption | (simp only [↓is_mk_iff]; refine ⟨is_and ?_, ?_⟩) | (simp only [↓isM_mk_iff]; refine isM_and ?_) | (with_reducible apply is_setQp) | (with_reducible apply is_post) | (with_reducible apply is_foldl; intro _ _ _) | (with_reducible apply is_foldl_fst; intro _ _ _) | (with_reducible apply is_foldl_s; intro _ _ _) | (with_reducible apply is_foldl_fst_s; intro _ _ _) | (with_reducible apply is_iter; intro _ _) | (with_reducible apply isM_foldl; intro _ _ _) | (with_reducible apply is_meter) | (intro _; try dsimp only) | (split <;> (try (rename_i hq; simp only [↓Prod.ext_iff] at hq; obtain ⟨hf, _⟩ := hq; subst hf))) | (dsimp only [id]))

theorem is_postLater {kk : Kept} {s : State} {q : Nat} {y1 : Nat} (hk : Is kk s) : Is kk (postLater s q y1) := by
  induction y1 generalizing s with
  | zero => (unfold postLater; (try dsimp only); repeat' (first | with_reducible assumption | (simp only [↓is_mk_iff]; refine ⟨is_and ?_, ?_⟩) | (simp only [↓isM_mk_iff]; refine isM_and ?_) | (with_reducible apply is_post) | (with_reducible apply is_foldl; intro _ _ _) | (with_reducible apply is_foldl_fst; intro _ _ _) | (with_reducible apply is_foldl_s; intro _ _ _) | (with_reducible apply is_foldl_fst_s; intro _ _ _) | (with_reducible apply is_iter; intro _ _) | (with_reducible apply isM_foldl; intro _ _ _) | (with_reducible apply is_meter) | (intro _; try dsimp only) | (split <;> (try (rename_i hq; simp only [↓Prod.ext_iff] at hq; obtain ⟨hf, _⟩ := hq; subst hf))) | (dsimp only [id])))
  | succ n ih => (unfold postLater; (try dsimp only); repeat' (first | with_reducible assumption | (simp only [↓is_mk_iff]; refine ⟨is_and ?_, ?_⟩) | (simp only [↓isM_mk_iff]; refine isM_and ?_) | (with_reducible apply ih) | (with_reducible apply is_post) | (with_reducible apply is_foldl; intro _ _ _) | (with_reducible apply is_foldl_fst; intro _ _ _) | (with_reducible apply is_foldl_s; intro _ _ _) | (with_reducible apply is_foldl_fst_s; intro _ _ _) | (with_reducible apply is_iter; intro _ _) | (with_reducible apply isM_foldl; intro _ _ _) | (with_reducible apply is_meter) | (intro _; try dsimp only) | (split <;> (try (rename_i hq; simp only [↓Prod.ext_iff] at hq; obtain ⟨hf, _⟩ := hq; subst hf))) | (dsimp only [id])))

theorem is_sendMail {kk : Kept} {s : State} {m : Sent} (hk : Is kk s) : Is kk (sendMail s m) := by
  unfold sendMail
  try dsimp only
  repeat' (first | with_reducible assumption | (simp only [↓is_mk_iff]; refine ⟨is_and ?_, ?_⟩) | (simp only [↓isM_mk_iff]; refine isM_and ?_) | (with_reducible apply is_sendOn) | (with_reducible apply is_foldl; intro _ _ _) | (with_reducible apply is_foldl_fst; intro _ _ _) | (with_reducible apply is_foldl_s; intro _ _ _) | (with_reducible apply is_foldl_fst_s; intro _ _ _) | (with_reducible apply is_iter; intro _ _) | (with_reducible apply isM_foldl; intro _ _ _) | (with_reducible apply is_meter) | (intro _; try dsimp only) | (split <;> (try (rename_i hq; simp only [↓Prod.ext_iff] at hq; obtain ⟨hf, _⟩ := hq; subst hf))) | (dsimp only [id]))

theorem is_respond {kk : Kept} {s : State} {q op tag status scope seq retry : Nat} {admitted : Bool} {body : List Byte} (hk
    : Is kk s) : Is kk (respond s q op tag status scope seq retry admitted body) := by
  unfold respond
  try dsimp only
  repeat' (first | with_reducible assumption | (with_reducible apply is_sendMail))

theorem is_flushGo {kk : Kept} {s : State} {q : Nat} {y1 : Nat} (hk : Is kk s) : Is kk (flushGo s q y1) := by
  induction y1 generalizing s with
  | zero => (unfold flushGo; (try dsimp only); repeat' (with_reducible assumption))
  | succ n ih => (unfold flushGo; (try dsimp only); repeat' (first | with_reducible assumption | (with_reducible apply ih) | (with_reducible apply is_setQp) | (with_reducible apply is_sendMail) | (with_reducible apply is_meter) | split))

theorem is_flushEvents {kk : Kept} {s : State} {q : Nat} (hk : Is kk s) : Is kk (flushEvents s q) := by
  unfold flushEvents
  try dsimp only
  repeat' (first | with_reducible assumption | (with_reducible apply is_flushGo))

theorem is_pushEvent {kk : Kept} {s : State} {q op status scope : Nat} {body : List Byte} (hk : Is kk s)
    : Is kk (pushEvent s q op status scope body) := by
  unfold pushEvent
  try dsimp only
  repeat' (first | with_reducible assumption | (with_reducible apply is_setQp) | (with_reducible apply is_flushEvents) | (with_reducible apply is_meter) | split)

theorem is_jobEvent {kk : Kept} {s : State} {p op status : Nat} {body : List Byte} (hk : Is kk s)
    : Is kk (jobEvent s p op status body) := by
  unfold jobEvent
  try dsimp only
  repeat' (first | with_reducible assumption | (with_reducible apply is_pushEvent) | (with_reducible apply is_foldl; intro _ _ _))

theorem is_devEvent {kk : Kept} {s : State} {op : Nat} {body : List Byte} (hk : Is kk s) : Is kk (devEvent s op body) := by
  unfold devEvent
  try dsimp only
  repeat' (first | with_reducible assumption | (with_reducible apply is_pushEvent) | (with_reducible apply is_foldl; intro _ _ _))

theorem is_devFault {kk : Kept} {s : State} {kind unitKind unit : Nat} {record : List Byte} (hk : Is kk s)
    : Is kk (devFault s kind unitKind unit record) := by
  unfold devFault
  try dsimp only
  repeat' (first | with_reducible assumption | (with_reducible apply is_devEvent))

theorem is_jobFault {kk : Kept} {s : State} {p kind unitKind unit : Nat} {record : List Byte} (hk : Is kk s)
    : Is kk (jobFault s p kind unitKind unit record) := by
  unfold jobFault
  try dsimp only
  repeat' (first | with_reducible assumption | (with_reducible apply is_jobEvent))

theorem is_setService {kk : Kept} {s : State} {code : Nat} (hk : Is kk s) : Is kk (setService s code) := by
  unfold setService
  try dsimp only
  repeat' (first | with_reducible assumption | (simp only [↓is_mk_iff]; refine ⟨is_and ?_, ?_⟩) | (with_reducible apply is_devEvent) | (with_reducible apply is_meter))

theorem is_putPiece {kk : Kept} {s : State} {p : Nat} {d : Dest} {l : List Byte} {keepCv noting : Bool} {again : Bool} (hk : Is kk s) : Is kk (putPiece s p d l keepCv noting again).1 := by
  unfold putPiece
  try dsimp only
  repeat' (first | with_reducible assumption | (simp only [↓is_mk_iff]; refine ⟨is_and ?_, ?_⟩) | (simp only [↓isM_mk_iff]; refine isM_and ?_) | (with_reducible apply is_modPart) | (with_reducible apply is_modCore) | (with_reducible apply is_writeSlice) | (with_reducible apply is_writeTier) | (with_reducible apply is_foldl; intro _ _ _) | (with_reducible apply is_foldl_fst; intro _ _ _) | (with_reducible apply is_foldl_s; intro _ _ _) | (with_reducible apply is_foldl_fst_s; intro _ _ _) | (with_reducible apply is_iter; intro _ _) | (with_reducible apply isM_foldl; intro _ _ _) | (with_reducible apply is_meter) | (intro _; try dsimp only) | (split <;> (try (rename_i hq; simp only [↓Prod.ext_iff] at hq; obtain ⟨hf, _⟩ := hq; subst hf))) | (dsimp only [id]))

theorem is_getPiece {kk : Kept} {s : State} {p : Nat} {d : Dest} {n : Nat} (hk : Is kk s) : Is kk (getPiece s p d n).1 := by
  unfold getPiece
  try dsimp only
  repeat' (first | with_reducible assumption | (with_reducible apply is_readCore) | (with_reducible apply is_readSlice) | (with_reducible apply is_readTier) | (with_reducible apply is_meter) | (split <;> (try (rename_i hq; simp only [↓Prod.ext_iff] at hq; obtain ⟨hf, _⟩ := hq; subst hf))))

theorem is_putMemGo {kk : Kept} {s : State} {p die : Nat} {y1 : Nat} {y2 : Nat} {y3 : List Byte} (hk : Is kk s)
    : Is kk (putMemGo s p die y1 y2 y3).1 := by
  induction y1 generalizing s y2 y3 with
  | zero => (unfold putMemGo; (try dsimp only); repeat' (with_reducible assumption))
  | succ n ih => (unfold putMemGo; (try dsimp only); repeat' (first | with_reducible assumption | (with_reducible apply ih) | (with_reducible apply is_putPiece) | (with_reducible apply is_meter) | split))

theorem is_putMem {kk : Kept} {s : State} {p die a : Nat} {l : List Byte} (hk : Is kk s) : Is kk (putMem s p die a l).1 := by
  unfold putMem
  try dsimp only
  repeat' (first | with_reducible assumption | (with_reducible apply is_putMemGo) | (with_reducible apply is_meter) | split)

theorem is_getMemGo {kk : Kept} {s : State} {p die : Nat} {y1 : Nat} {y2 : Nat} {y3 : Nat} {y4 : List Byte} (hk : Is kk s)
    : Is kk (getMemGo s p die y1 y2 y3 y4).1 := by
  induction y1 generalizing s y2 y3 y4 with
  | zero => (unfold getMemGo; (try dsimp only); repeat' (with_reducible assumption))
  | succ n ih => (unfold getMemGo; (try dsimp only); repeat' (first | with_reducible assumption | (with_reducible apply ih) | (with_reducible apply is_getPiece) | (with_reducible apply is_meter) | split))

theorem is_getMem {kk : Kept} {s : State} {p die a n : Nat} (hk : Is kk s) : Is kk (getMem s p die a n).1 := by
  unfold getMem
  try dsimp only
  repeat' (first | with_reducible assumption | (with_reducible apply is_getMemGo) | (with_reducible apply is_meter) | split)

theorem is_eachCore {kk : Kept} {s : State} {pt : Part} {f : Core → Core} (hk : Is kk s) : Is kk (eachCore s pt f) := by
  unfold eachCore
  try dsimp only
  repeat' (first | with_reducible assumption | (with_reducible apply is_modCore) | (with_reducible apply is_foldl; intro _ _ _))

theorem is_endJob {kk : Kept} {s : State} {p code : Nat} (hk : Is kk s) : Is kk (endJob s p code) := by
  unfold endJob
  try dsimp only
  repeat' (first | with_reducible assumption | (with_reducible apply is_modPart) | (with_reducible apply is_modPow) | (with_reducible apply is_jobEvent) | (with_reducible apply is_putMem) | (with_reducible apply is_foldl; intro _ _ _) | (with_reducible apply is_meter) | split)

theorem is_jobCheck {kk : Kept} {s : State} {p : Nat} (hk : Is kk s) : Is kk (jobCheck s p) := by
  unfold jobCheck
  try dsimp only
  repeat' (first | with_reducible assumption | (with_reducible apply is_eachCore) | (with_reducible apply is_endJob) | (with_reducible apply is_meter) | split)

theorem is_jobCheckAt {kk : Kept} {s : State} {phys : Nat} (hk : Is kk s) : Is kk (jobCheckAt s phys) := by
  unfold jobCheckAt
  try dsimp only
  repeat' (first | with_reducible assumption | (with_reducible apply is_jobCheck) | (with_reducible apply is_meter) | split)

end Sys2Proof.Machine
end

