-- ==== Sys2Proof/Laws/KeptThreads.lean ====
section
/-! SUPPORT. One lemma per operation of Machine/Threads.lean: it keeps what `Kept` lists, or only ages it. -/

namespace Sys2Proof.Machine

theorem is_issue {kk : Kept} {s : State} {p t op : Nat} {f : State → W64 → State} (hk : Is kk s)
    (hf : ∀ (z0 : State) (z1 : W64), Is kk z0 → Is kk (f z0 z1)) : Is kk (issue s p t op f) := by
  unfold issue
  try dsimp only
  repeat' (first | with_reducible assumption | (with_reducible apply hf) | (with_reducible apply is_modCore) | (with_reducible apply is_trapHere) | (with_reducible apply is_meter) | split)

theorem is_issueOut {kk : Kept} {s : State} {p t op : Nat} {f : State → W64 → State} {tR : State}
    (he : issueOut s p t op f = .next tR) (hk : Is kk s) (hf : ∀ (z0 : State) (z1 : W64), Is kk z0 → Is kk (f z0 z1))
    : Is kk tR := by
  unfold issueOut at he
  with_reducible refine is_onUnit he ?_
  clear he
  try dsimp only
  repeat' (first | with_reducible assumption | (with_reducible apply hf) | (with_reducible apply is_issue))

theorem is_continueAt {kk : Kept} {s : State} {p t i : Nat} {f : State → State} (hk : Is kk s)
    (hf : ∀ (z0 : State), Is kk z0 → Is kk (f z0)) : Is kk (continueAt s p t i f) := by
  unfold continueAt
  try dsimp only
  repeat' (first | with_reducible assumption | (with_reducible apply hf) | (with_reducible apply is_modCore) | (with_reducible apply is_trapHere) | (with_reducible apply is_meter) | split)

theorem is_execNop {kk : Kept} {p t : Nat} {s : State} {tR : State} (he : execNop p t s = .next tR) (hk : Is kk s)
    : Is kk tR := by
  unfold execNop at he
  repeat' (first | with_reducible assumption | (with_reducible apply is_issueOut (by with_reducible assumption)) | (with_reducible apply is_continueAt) | (with_reducible apply is_meter) | (intro _; try dsimp only) | (dsimp only [id]))

theorem is_execIllegalOpcode {kk : Kept} {p t : Nat} {s : State} {tR : State} (he : execIllegalOpcode p t s = .next tR) (hk
    : Is kk s) : Is kk tR := by
  unfold execIllegalOpcode at he
  with_reducible refine is_onUnit he ?_
  clear he
  try dsimp only
  repeat' (first | with_reducible assumption | (with_reducible apply is_modCore) | (with_reducible apply is_trapHere) | (with_reducible apply is_meter) | split)

theorem is_issueEngine {kk : Kept} {op p t : Nat} {s : State} {tR : State} (he : issueEngine op p t s = .next tR) (hk : Is kk s)
    : Is kk tR := by
  unfold issueEngine at he
  (try dsimp only at he)
  repeat' (first | with_reducible assumption | (with_reducible apply is_modCore) | (with_reducible apply is_trapHere) | (with_reducible apply is_issueOut (by with_reducible assumption)) | (with_reducible apply is_meter) | (intro _; try dsimp only) | split)

theorem is_execIssueTe {kk : Kept} {p t : Nat} {s : State} {tR : State} (he : execIssueTe p t s = .next tR) (hk : Is kk s)
    : Is kk tR := by
  unfold execIssueTe at he
  repeat' (first | with_reducible assumption | (with_reducible apply is_issueEngine (by with_reducible assumption)))

theorem is_execIssueVe {kk : Kept} {p t : Nat} {s : State} {tR : State} (he : execIssueVe p t s = .next tR) (hk : Is kk s)
    : Is kk tR := by
  unfold execIssueVe at he
  repeat' (first | with_reducible assumption | (with_reducible apply is_issueEngine (by with_reducible assumption)))

theorem is_execIssueDma {kk : Kept} {p t : Nat} {s : State} {tR : State} (he : execIssueDma p t s = .next tR) (hk : Is kk s)
    : Is kk tR := by
  unfold execIssueDma at he
  repeat' (first | with_reducible assumption | (with_reducible apply is_issueEngine (by with_reducible assumption)))

theorem is_execIssueSend {kk : Kept} {p t : Nat} {s : State} {tR : State} (he : execIssueSend p t s = .next tR) (hk : Is kk s)
    : Is kk tR := by
  unfold execIssueSend at he
  repeat' (first | with_reducible assumption | (with_reducible apply is_issueEngine (by with_reducible assumption)))

theorem is_execIssueRecv {kk : Kept} {p t : Nat} {s : State} {tR : State} (he : execIssueRecv p t s = .next tR) (hk : Is kk s)
    : Is kk tR := by
  unfold execIssueRecv at he
  repeat' (first | with_reducible assumption | (with_reducible apply is_issueEngine (by with_reducible assumption)))

theorem is_syncCmd {kk : Kept} {op p t : Nat} {f : SyncCtr → Nat → SyncCtr × Bool} {s : State} {tR : State}
    (he : syncCmd op p t f s = .next tR) (hk : Is kk s) : Is kk tR := by
  unfold syncCmd at he
  (try dsimp only at he)
  repeat' (first | with_reducible assumption | (with_reducible apply is_trapHere) | (with_reducible apply is_writeCtr) | (with_reducible apply is_issueOut (by with_reducible assumption)) | (with_reducible apply is_continueAt) | (with_reducible apply is_meter) | (intro _; try dsimp only) | split)

theorem is_execSyncSet {kk : Kept} {p t : Nat} {s : State} {tR : State} (he : execSyncSet p t s = .next tR) (hk : Is kk s)
    : Is kk tR := by
  unfold execSyncSet at he
  repeat' (first | with_reducible assumption | (with_reducible apply is_syncCmd (by with_reducible assumption)))

theorem is_execSyncAdd {kk : Kept} {p t : Nat} {s : State} {tR : State} (he : execSyncAdd p t s = .next tR) (hk : Is kk s)
    : Is kk tR := by
  unfold execSyncAdd at he
  repeat' (first | with_reducible assumption | (with_reducible apply is_syncCmd (by with_reducible assumption)))

theorem is_execSyncSub {kk : Kept} {p t : Nat} {s : State} {tR : State} (he : execSyncSub p t s = .next tR) (hk : Is kk s)
    : Is kk tR := by
  unfold execSyncSub at he
  repeat' (first | with_reducible assumption | (with_reducible apply is_syncCmd (by with_reducible assumption)))

theorem is_execSyncAddRemote {kk : Kept} {p t : Nat} {s : State} {tR : State} (he : execSyncAddRemote p t s = .next tR) (hk
    : Is kk s) : Is kk tR := by
  unfold execSyncAddRemote at he
  (try dsimp only at he)
  repeat' (first | with_reducible assumption | (with_reducible apply is_modCore) | (with_reducible apply is_trapHere) | (with_reducible apply is_sendRaise) | (with_reducible apply is_issueOut (by with_reducible assumption)) | (with_reducible apply is_meter) | (intro _; try dsimp only) | split)

theorem is_waitCmd {kk : Kept} {op p t : Nat} {s : State} {tR : State} (he : waitCmd op p t s = .next tR) (hk : Is kk s)
    : Is kk tR := by
  unfold waitCmd at he
  (try dsimp only at he)
  repeat' (first | (with_reducible cases he; done) | (with_reducible obtain ⟨_, _, rfl⟩ := Option.map_eq_some_iff.1 he) | split at he)
  repeat' (first | with_reducible assumption | (with_reducible apply is_modCore) | (with_reducible apply is_trapHere) | (with_reducible apply is_issueOut (by with_reducible assumption)) | (with_reducible apply is_meter) | (intro _; try dsimp only) | split)

theorem is_execWaitGe {kk : Kept} {p t : Nat} {s : State} {tR : State} (he : execWaitGe p t s = .next tR) (hk : Is kk s)
    : Is kk tR := by
  unfold execWaitGe at he
  repeat' (first | with_reducible assumption | (with_reducible apply is_waitCmd (by with_reducible assumption)))

theorem is_execWaitEq {kk : Kept} {p t : Nat} {s : State} {tR : State} (he : execWaitEq p t s = .next tR) (hk : Is kk s)
    : Is kk tR := by
  unfold execWaitEq at he
  repeat' (first | with_reducible assumption | (with_reducible apply is_waitCmd (by with_reducible assumption)))

theorem is_execWaitTake {kk : Kept} {p t : Nat} {s : State} {tR : State} (he : execWaitTake p t s = .next tR) (hk : Is kk s)
    : Is kk tR := by
  unfold execWaitTake at he
  repeat' (first | with_reducible assumption | (with_reducible apply is_waitCmd (by with_reducible assumption)))

theorem is_execWaitSatisfied {kk : Kept} {p t : Nat} {s : State} {tR : State} (he : execWaitSatisfied p t s = .next tR) (hk
    : Is kk s) : Is kk tR := by
  unfold execWaitSatisfied at he
  with_reducible refine is_onUnit he ?_
  clear he
  try dsimp only
  repeat' (first | with_reducible assumption | (with_reducible apply is_setCore) | (with_reducible apply is_unlend) | (with_reducible apply is_meter) | split)

theorem is_execWaitWatchdog {kk : Kept} {p t : Nat} {s : State} {tR : State} (he : execWaitWatchdog p t s = .next tR) (hk
    : Is kk s) : Is kk tR := by
  unfold execWaitWatchdog at he
  with_reducible refine is_onUnit he ?_
  clear he
  try dsimp only
  repeat' (first | with_reducible assumption | (with_reducible apply is_trapHere) | (with_reducible apply is_meter) | split)

theorem is_execLoop {kk : Kept} {p t : Nat} {s : State} {tR : State} (he : execLoop p t s = .next tR) (hk : Is kk s)
    : Is kk tR := by
  unfold execLoop at he
  (try dsimp only at he)
  repeat' (first | with_reducible assumption | (with_reducible apply is_modCore) | (with_reducible apply is_trapHere) | (with_reducible apply is_issueOut (by with_reducible assumption)) | (with_reducible apply is_continueAt) | (with_reducible apply is_meter) | (intro _; try dsimp only) | split | (dsimp only [id]))

theorem is_execLoopEnd {kk : Kept} {p t : Nat} {s : State} {tR : State} (he : execLoopEnd p t s = .next tR) (hk : Is kk s)
    : Is kk tR := by
  unfold execLoopEnd at he
  (try dsimp only at he)
  repeat' (first | with_reducible assumption | (with_reducible apply is_modCore) | (with_reducible apply is_issueOut (by with_reducible assumption)) | (with_reducible apply is_continueAt) | (with_reducible apply is_meter) | (intro _; try dsimp only))

theorem is_execBranch {kk : Kept} {p t : Nat} {s : State} {tR : State} (he : execBranch p t s = .next tR) (hk : Is kk s)
    : Is kk tR := by
  unfold execBranch at he
  (try dsimp only at he)
  repeat' (first | with_reducible assumption | (with_reducible apply is_trapHere) | (with_reducible apply is_issueOut (by with_reducible assumption)) | (with_reducible apply is_continueAt) | (with_reducible apply is_meter) | (intro _; try dsimp only) | split | (dsimp only [id]))

theorem is_execJump {kk : Kept} {p t : Nat} {s : State} {tR : State} (he : execJump p t s = .next tR) (hk : Is kk s)
    : Is kk tR := by
  unfold execJump at he
  repeat' (first | with_reducible assumption | (with_reducible apply is_issueOut (by with_reducible assumption)) | (with_reducible apply is_continueAt) | (with_reducible apply is_meter) | (intro _; try dsimp only) | (dsimp only [id]))

theorem is_execCall {kk : Kept} {p t : Nat} {s : State} {tR : State} (he : execCall p t s = .next tR) (hk : Is kk s)
    : Is kk tR := by
  unfold execCall at he
  (try dsimp only at he)
  repeat' (first | with_reducible assumption | (with_reducible apply is_modCore) | (with_reducible apply is_trapHere) | (with_reducible apply is_issueOut (by with_reducible assumption)) | (with_reducible apply is_continueAt) | (with_reducible apply is_meter) | (intro _; try dsimp only) | split)

theorem is_execRet {kk : Kept} {p t : Nat} {s : State} {tR : State} (he : execRet p t s = .next tR) (hk : Is kk s)
    : Is kk tR := by
  unfold execRet at he
  repeat' (first | with_reducible assumption | (with_reducible apply is_modCore) | (with_reducible apply is_trapHere) | (with_reducible apply is_issueOut (by with_reducible assumption)) | (with_reducible apply is_continueAt) | (with_reducible apply is_meter) | (intro _; try dsimp only) | split)

theorem is_finishRecord {kk : Kept} {s : State} {p t : Nat} {halts : Bool} (hk : Is kk s) : Is kk (finishRecord s p t halts) := by
  unfold finishRecord
  try dsimp only
  repeat' (first | with_reducible assumption | (with_reducible apply is_modCore) | (with_reducible apply is_stir) | (with_reducible apply is_jobCheckAt) | (with_reducible apply is_meter) | split)

theorem is_failRecord {kk : Kept} {s : State} {p t : Nat} (hk : Is kk s) : Is kk (failRecord s p t) := by
  unfold failRecord
  try dsimp only
  repeat' (first | with_reducible assumption | (with_reducible apply is_trap) | (with_reducible apply is_jobCheckAt))

theorem is_sendRecord {kk : Kept} {s : State} {p t : Nat} {halts : Bool} {rid : Nat} (hk : Is kk s)
    : Is kk (sendRecord s p t halts rid) := by
  unfold sendRecord
  try dsimp only
  repeat' (first | with_reducible assumption | (with_reducible apply is_modCore) | (with_reducible apply is_sendCells) | (with_reducible apply is_finishRecord) | (with_reducible apply is_failRecord) | (with_reducible apply is_meter) | split)

theorem is_settleRecord {kk : Kept} {s : State} {p : Nat} {r : RecordWrite} (hk : Is kk s) : Is kk (settleRecord s p r) := by
  unfold settleRecord
  try dsimp only
  repeat' (first | with_reducible assumption | (with_reducible apply is_modCore) | (with_reducible apply is_finishRecord) | (with_reducible apply is_failRecord) | (with_reducible apply is_meter) | split)

theorem is_recordAnswered {kk : Kept} {s : State} {p : Nat} {r : RecordWrite} {st : Nat} (hk : Is kk s)
    : Is kk (recordAnswered s p r st) := by
  unfold recordAnswered
  try dsimp only
  repeat' (first | with_reducible assumption | (with_reducible apply is_modCore) | (with_reducible apply is_settleRecord) | (with_reducible apply is_meter) | split)

theorem is_drainCmd {kk : Kept} {op p t : Nat} {s : State} {tR : State} (he : drainCmd op p t s = .next tR) (hk : Is kk s)
    : Is kk tR := by
  unfold drainCmd at he
  with_reducible refine is_onUnit he ?_
  clear he
  try dsimp only
  repeat' (first | with_reducible assumption | (with_reducible apply is_modCore) | (with_reducible apply is_trapHere) | (with_reducible apply is_issue) | (with_reducible apply is_sendRecord) | (with_reducible apply is_settleRecord) | (with_reducible apply is_meter) | (intro _; try dsimp only) | split)

theorem is_execReplay {kk : Kept} {p t : Nat} {s : State} {tR : State} (he : execReplay p t s = .next tR) (hk : Is kk s)
    : Is kk tR := by
  unfold execReplay at he
  repeat' (first | with_reducible assumption | (with_reducible apply is_drainCmd (by with_reducible assumption)))

theorem is_execHalt {kk : Kept} {p t : Nat} {s : State} {tR : State} (he : execHalt p t s = .next tR) (hk : Is kk s)
    : Is kk tR := by
  unfold execHalt at he
  repeat' (first | with_reducible assumption | (with_reducible apply is_drainCmd (by with_reducible assumption)))

theorem is_execCommandFetch {kk : Kept} {p t : Nat} {s : State} {tR : State} (he : execCommandFetch p t s = .next tR) (hk
    : Is kk s) : Is kk tR := by
  unfold execCommandFetch at he
  with_reducible refine is_onUnit he ?_
  clear he
  try dsimp only
  repeat' (first | with_reducible assumption | (with_reducible apply is_modCore) | (with_reducible apply is_stir) | (with_reducible apply is_readCore) | (with_reducible apply is_meter) | (split <;> (try (rename_i hq; simp only [↓Prod.ext_iff] at hq; obtain ⟨hf, _⟩ := hq; subst hf))))

theorem is_execAgePromotion {kk : Kept} {p t : Nat} {s : State} {tR : State} (he : execAgePromotion p t s = .next tR) (hk
    : Is kk s) : Is kk tR := by
  unfold execAgePromotion at he
  with_reducible refine is_onUnit he ?_
  clear he
  try dsimp only
  repeat' (first | with_reducible assumption | (with_reducible apply is_modCore))

theorem is_execRemoteSyncTimeout {kk : Kept} {p tag : Nat} {s : State} {tR : State}
    (he : execRemoteSyncTimeout p tag s = .next tR) (hk : Is kk s) : Is kk tR := by
  unfold execRemoteSyncTimeout at he
  with_reducible refine is_onUnit he ?_
  clear he
  try dsimp only
  repeat' (first | with_reducible assumption | (with_reducible apply is_setCore) | (with_reducible apply is_stir) | (with_reducible apply is_trap) | (with_reducible apply is_jobCheckAt) | (with_reducible apply is_meter) | split)

theorem is_execHeldRecordEntersRing {kk : Kept} {d : Nat} {s : State} {tR : State}
    (he : execHeldRecordEntersRing d s = .next tR) (hk : Is kk s) : Is kk tR := by
  unfold execHeldRecordEntersRing at he
  with_reducible refine is_onUnit he ?_
  clear he
  try dsimp only
  repeat' (first | with_reducible assumption | (with_reducible apply is_setDie) | (with_reducible apply is_meter) | split)

end Sys2Proof.Machine
end

