-- ==== Sys2Proof/Laws/KeptDma.lean ====
section
/-! SUPPORT. One lemma per operation of Machine/Dma.lean: it keeps what `Kept` lists, or only ages it. -/

namespace Sys2Proof.Machine

theorem is_modTag {kk : Kept} {s : State} {p tag : Nat} {f : DmaOp → DmaOp} (hk : Is kk s) : Is kk (modTag s p tag f) := by
  unfold modTag
  try dsimp only
  repeat' (first | with_reducible assumption | (with_reducible apply is_modCore))

theorem is_checkEvent {kk : Kept} {s : State} {p part reason : Nat} {src dst : Dest} {addr : Nat} (hk : Is kk s)
    : Is kk (checkEvent s p part reason src dst addr) := by
  unfold checkEvent
  try dsimp only
  repeat' (first | with_reducible assumption | (with_reducible apply is_postEvent))

theorem is_storeCv {kk : Kept} {s : State} {d : Dest} {v : Option W32} (hk : Is kk s) : Is kk (storeCv s d v) := by
  unfold storeCv
  try dsimp only
  repeat' (first | with_reducible assumption | (simp only [↓is_mk_iff]; refine ⟨is_and ?_, ?_⟩) | (with_reducible apply is_modCore) | (with_reducible apply is_modSlice) | (with_reducible apply is_meter) | split)

theorem is_dropCvAt {kk : Kept} {s : State} {d : Dest} (hk : Is kk s) : Is kk (dropCvAt s d) := by
  unfold dropCvAt
  try dsimp only
  repeat' (first | with_reducible assumption | (with_reducible apply is_dropSliceCv) | (with_reducible apply is_storeCv) | (with_reducible apply is_meter) | split)

theorem is_sendWrite {kk : Kept} {s : State} {x : Ctx4} {it : Item} {piece : Bool} {off n : Nat} {cv flags : Nat} (hk : Is kk s)
    : Is kk (sendWrite s x it piece off n cv flags) := by
  unfold sendWrite
  try dsimp only
  repeat' (first | with_reducible assumption | (with_reducible apply is_sendCells) | (with_reducible apply is_modTag) | (with_reducible apply is_meter) | split)

theorem is_beginWrite {kk : Kept} {s : State} {x : Ctx4} {it : Item} (hk : Is kk s) : Is kk (beginWrite s x it) := by
  unfold beginWrite
  try dsimp only
  repeat' (first | with_reducible assumption | (with_reducible apply is_modCore) | (with_reducible apply is_modTag) | (with_reducible apply is_checkEvent) | (with_reducible apply is_storeCv) | (with_reducible apply is_dropCvAt) | (with_reducible apply is_sendWrite) | (with_reducible apply is_foldl; intro _ _ _) | (with_reducible apply is_meter) | split)

theorem is_askRead {kk : Kept} {s : State} {x : Ctx4} {it : Item} {i : Nat} {q : Nat × Nat} (hk : Is kk s) : Is kk (askRead s x it i q) := by
  unfold askRead
  try dsimp only
  repeat' (first | with_reducible assumption | (simp only [↓is_mk_iff]; refine ⟨is_and ?_, ?_⟩) | (simp only [↓isM_mk_iff]; refine isM_and ?_) | (with_reducible apply is_sendCells) | (with_reducible apply is_modTag) | (with_reducible apply is_foldl; intro _ _ _) | (with_reducible apply is_foldl_fst; intro _ _ _) | (with_reducible apply is_foldl_s; intro _ _ _) | (with_reducible apply is_foldl_fst_s; intro _ _ _) | (with_reducible apply is_iter; intro _ _) | (with_reducible apply isM_foldl; intro _ _ _) | (with_reducible apply is_meter) | (intro _; try dsimp only) | (split <;> (try (rename_i hq; simp only [↓Prod.ext_iff] at hq; obtain ⟨hf, _⟩ := hq; subst hf))) | (dsimp only [id]))

theorem is_beginItem {kk : Kept} {s : State} {x : Ctx4} {it : Item} (hk : Is kk s) : Is kk (beginItem s x it) := by
  unfold beginItem
  try dsimp only
  repeat' (first | with_reducible assumption | (simp only [↓is_mk_iff]; refine ⟨is_and ?_, ?_⟩) | (simp only [↓isM_mk_iff]; refine isM_and ?_) | (with_reducible apply is_readCore) | (with_reducible apply is_modTag) | (with_reducible apply is_beginWrite) | (with_reducible apply is_askRead) | (with_reducible apply is_foldl; intro _ _ _) | (with_reducible apply is_foldl_fst; intro _ _ _) | (with_reducible apply is_foldl_s; intro _ _ _) | (with_reducible apply is_foldl_fst_s; intro _ _ _) | (with_reducible apply is_iter; intro _ _) | (with_reducible apply isM_foldl; intro _ _ _) | (with_reducible apply is_meter) | (intro _; try dsimp only) | (split <;> (try (rename_i hq; simp only [↓Prod.ext_iff] at hq; obtain ⟨hf, _⟩ := hq; subst hf))) | (dsimp only [id]))

theorem is_pumpOne {kk : Kept} {s : State} {p tag : Nat} {tR : State} (he : pumpOne s p tag = some tR) (hk : Is kk s)
    : Is kk tR := by
  unfold pumpOne at he
  (try dsimp only at he)
  repeat' (first | (with_reducible cases he; done) | (with_reducible injection he with he; subst he) | (with_reducible obtain ⟨_, _, rfl⟩ := Option.map_eq_some_iff.1 he) | (split at he <;> (try (rename_i hq; simp only [↓Prod.ext_iff] at hq; obtain ⟨hf, _⟩ := hq; subst hf))))
  all_goals (try dsimp only)
  repeat' (first | with_reducible assumption | (with_reducible apply is_readCore) | (with_reducible apply is_modTag) | (with_reducible apply is_beginWrite) | (with_reducible apply is_beginItem))

theorem is_pumpTurn {kk : Kept} {s : State} {p : Nat} {tR : State} (he : pumpTurn s p = some tR) (hk : Is kk s) : Is kk tR := by
  unfold pumpTurn at he
  dsimp only at he
  split at he
  · obtain ⟨_, ho, rfl⟩ := Option.map_eq_some_iff.1 he
    exact is_modCore (is_pumpOne ho hk)
  · obtain ⟨_, _, ht⟩ := List.exists_of_findSome?_eq_some he
    obtain ⟨_, ho, rfl⟩ := Option.map_eq_some_iff.1 ht
    exact is_modCore (is_pumpOne ho hk)

theorem is_pumpGo {kk : Kept} {p : Nat} {y1 : Nat} {y2 : State} (hk : Is kk y2) : Is kk (pumpGo p y1 y2) := by
  induction y1 generalizing y2 with
  | zero => (unfold pumpGo; (try dsimp only); repeat' (with_reducible assumption))
  | succ n ih => (unfold pumpGo; (try dsimp only); repeat' (first | with_reducible assumption | (with_reducible apply ih) | (with_reducible apply is_pumpTurn (by with_reducible assumption)) | (with_reducible apply is_meter) | split))

theorem is_pump {kk : Kept} {s : State} {p : Nat} (hk : Is kk s) : Is kk (pump s p) := by
  unfold pump
  try dsimp only
  repeat' (first | with_reducible assumption | (with_reducible apply is_pumpGo))

theorem is_readDesc {kk : Kept} {s : State} {p : Nat} {o : IssueOp} (hk : Is kk s) : Is kk (readDesc s p o).1 := by
  unfold readDesc
  try dsimp only
  repeat' (first | with_reducible assumption | (with_reducible apply is_readCore) | (with_reducible apply is_meter) | (split <;> (try (rename_i hq; simp only [↓Prod.ext_iff] at hq; obtain ⟨hf, _⟩ := hq; subst hf))))

theorem is_startDma {kk : Kept} {p : Nat} {modes : Nat → Bool} {s : State} {tR : State} (he : startDma p modes s = .next tR) (hk
    : Is kk s) : Is kk tR := by
  unfold startDma at he
  with_reducible refine is_onUnit he ?_
  clear he
  try dsimp only
  repeat' (first | with_reducible assumption | (with_reducible apply is_modCore) | (with_reducible apply is_stir) | (with_reducible apply is_pump) | (with_reducible apply is_readDesc) | (with_reducible apply is_meter) | (split <;> (try (rename_i hq; simp only [↓Prod.ext_iff] at hq; obtain ⟨hf, _⟩ := hq; subst hf))))

theorem is_execDmaCopy {kk : Kept} {p : Nat} {s : State} {tR : State} (he : execDmaCopy p s = .next tR) (hk : Is kk s)
    : Is kk tR := by
  unfold execDmaCopy at he
  repeat' (first | with_reducible assumption | (with_reducible apply is_startDma (by with_reducible assumption)))

theorem is_execDmaGather {kk : Kept} {p : Nat} {s : State} {tR : State} (he : execDmaGather p s = .next tR) (hk : Is kk s)
    : Is kk tR := by
  unfold execDmaGather at he
  repeat' (first | with_reducible assumption | (with_reducible apply is_startDma (by with_reducible assumption)))

theorem is_execDmaScatter {kk : Kept} {p : Nat} {s : State} {tR : State} (he : execDmaScatter p s = .next tR) (hk : Is kk s)
    : Is kk tR := by
  unfold execDmaScatter at he
  repeat' (first | with_reducible assumption | (with_reducible apply is_startDma (by with_reducible assumption)))

theorem is_execDmaPattern {kk : Kept} {p : Nat} {s : State} {tR : State} (he : execDmaPattern p s = .next tR) (hk : Is kk s)
    : Is kk tR := by
  unfold execDmaPattern at he
  repeat' (first | with_reducible assumption | (with_reducible apply is_startDma (by with_reducible assumption)))

theorem is_execDmaCreditTake {kk : Kept} {p tag : Nat} {s : State} {tR : State} (he : execDmaCreditTake p tag s = .next tR) (hk
    : Is kk s) : Is kk tR := by
  unfold execDmaCreditTake at he
  with_reducible refine is_onUnit he ?_
  clear he
  try dsimp only
  repeat' (first | with_reducible assumption | (with_reducible apply is_modCore) | (with_reducible apply is_modTag) | (with_reducible apply is_pump) | (with_reducible apply is_meter) | split)

theorem is_raiseGo {kk : Kept} {x : Ctx4} {y1 : Nat} {y2 : State} (hk : Is kk y2) : Is kk (raiseGo x y1 y2) := by
  induction y1 generalizing y2 with
  | zero => (unfold raiseGo; (try dsimp only); repeat' (with_reducible assumption))
  | succ n ih => (unfold raiseGo; (try dsimp only); repeat' (first | with_reducible assumption | (with_reducible apply ih) | (with_reducible apply is_sendRaise) | (with_reducible apply is_modTag) | (with_reducible apply is_meter) | split))

theorem is_raiseReady {kk : Kept} {s : State} {p tag : Nat} (hk : Is kk s) : Is kk (raiseReady s p tag) := by
  unfold raiseReady
  try dsimp only
  repeat' (first | with_reducible assumption | (with_reducible apply is_raiseGo) | (with_reducible apply is_meter) | split)

theorem is_execPatternChunk {kk : Kept} {p tag : Nat} {s : State} {tR : State} (he : execPatternChunk p tag s = .next tR) (hk
    : Is kk s) : Is kk tR := by
  unfold execPatternChunk at he
  with_reducible refine is_onUnit he ?_
  clear he
  try dsimp only
  repeat' (first | with_reducible assumption | (with_reducible apply is_modCore) | (with_reducible apply is_modTag) | (with_reducible apply is_pump) | (with_reducible apply is_raiseReady) | (with_reducible apply is_meter) | split)

theorem is_readDone {kk : Kept} {s : State} {p tag : Nat} {xf : Xfer} {l : List Byte} {cv : Option W32} (hk : Is kk s) : Is kk (readDone s p tag xf l cv) := by
  unfold readDone
  try dsimp only
  repeat' (first | with_reducible assumption | (simp only [↓is_mk_iff]; refine ⟨is_and ?_, ?_⟩) | (simp only [↓isM_mk_iff]; refine isM_and ?_) | (with_reducible apply is_modTag) | (with_reducible apply is_askRead) | (with_reducible apply is_pump) | (with_reducible apply is_foldl; intro _ _ _) | (with_reducible apply is_foldl_fst; intro _ _ _) | (with_reducible apply is_foldl_s; intro _ _ _) | (with_reducible apply is_foldl_fst_s; intro _ _ _) | (with_reducible apply is_iter; intro _ _) | (with_reducible apply isM_foldl; intro _ _ _) | (with_reducible apply is_meter) | (intro _; try dsimp only) | (split <;> (try (rename_i hq; simp only [↓Prod.ext_iff] at hq; obtain ⟨hf, _⟩ := hq; subst hf))) | (dsimp only [id]))

theorem is_xferFail {kk : Kept} {s : State} {p tag : Nat} {xf : Xfer} {cause : Nat} {detail : W64} (hk : Is kk s)
    : Is kk (xferFail s p tag xf cause detail) := by
  unfold xferFail
  try dsimp only
  repeat' (first | with_reducible assumption | (with_reducible apply is_modTag) | (with_reducible apply is_dropCvAt) | (with_reducible apply is_pump) | (with_reducible apply is_meter) | split)

theorem is_writeDone {kk : Kept} {s : State} {p tag : Nat} {xf : Xfer} (hk : Is kk s) : Is kk (writeDone s p tag xf) := by
  unfold writeDone
  try dsimp only
  repeat' (first | with_reducible assumption | (with_reducible apply is_modTag) | (with_reducible apply is_pump) | (with_reducible apply is_raiseReady))

theorem is_execDmaOpComplete {kk : Kept} {p tag : Nat} {s : State} {tR : State} (he : execDmaOpComplete p tag s = .next tR) (hk
    : Is kk s) : Is kk tR := by
  unfold execDmaOpComplete at he
  with_reducible refine is_onUnit he ?_
  clear he
  try dsimp only
  repeat' (first | with_reducible assumption | (with_reducible apply is_setCore) | (with_reducible apply is_trapOp) | (with_reducible apply is_opDone) | (with_reducible apply is_jobCheckAt) | (with_reducible apply is_pump) | (with_reducible apply is_meter) | split)

theorem is_teLate {kk : Kept} {s : State} {p : Nat} (hk : Is kk s) : Is kk (teLate s p) := by
  unfold teLate
  try dsimp only
  repeat' (first | with_reducible assumption | (with_reducible apply is_modCore))

theorem is_execDmaTransferTimeout {kk : Kept} {p tag xfer : Nat} {s : State} {tR : State}
    (he : execDmaTransferTimeout p tag xfer s = .next tR) (hk : Is kk s) : Is kk tR := by
  unfold execDmaTransferTimeout at he
  with_reducible refine is_onUnit he ?_
  clear he
  try dsimp only
  repeat' (first | with_reducible assumption | (with_reducible apply is_setCore) | (with_reducible apply is_recordAnswered) | (with_reducible apply is_modTag) | (with_reducible apply is_xferFail) | (with_reducible apply is_teLate) | (with_reducible apply is_meter) | split)

theorem is_execDmaTagHoldExpiry {kk : Kept} {p tag : Nat} {s : State} {tR : State}
    (he : execDmaTagHoldExpiry p tag s = .next tR) (hk : Is kk s) : Is kk tR := by
  unfold execDmaTagHoldExpiry at he
  with_reducible refine is_onUnit he ?_
  clear he
  try dsimp only
  repeat' (first | with_reducible assumption | (with_reducible apply is_modCore) | (with_reducible apply is_meter) | split)

end Sys2Proof.Machine
end

