-- ==== Sys2Proof/Laws/KeptEndpoint.lean ====
section
/-! SUPPORT. One lemma per operation of Machine/Endpoint.lean: it keeps what `Kept` lists, or only ages it. -/

namespace Sys2Proof.Machine

theorem is_popCell {kk : Kept} {s : State} {x : Nat} (hk : Is kk s) : Is kk (popCell s x) := by
  unfold popCell
  try dsimp only
  repeat' (first | with_reducible assumption | (simp only [↓is_mk_iff]; refine ⟨is_and ?_, ?_⟩) | (simp only [↓isM_mk_iff]; refine isM_and ?_) | (with_reducible apply is_modEnd) | (with_reducible apply is_foldl; intro _ _ _) | (with_reducible apply is_foldl_fst; intro _ _ _) | (with_reducible apply is_foldl_s; intro _ _ _) | (with_reducible apply is_foldl_fst_s; intro _ _ _) | (with_reducible apply is_iter; intro _ _) | (with_reducible apply isM_foldl; intro _ _ _) | (with_reducible apply is_meter) | (intro _; try dsimp only) | (split <;> (try (rename_i hq; simp only [↓Prod.ext_iff] at hq; obtain ⟨hf, _⟩ := hq; subst hf))) | (dsimp only [id]))

theorem is_dropCell {kk : Kept} {s : State} {x : Nat} (hk : Is kk s) : Is kk (dropCell s x) := by
  unfold dropCell
  try dsimp only
  repeat' (first | with_reducible assumption | (simp only [↓is_mk_iff]; refine ⟨is_and ?_, ?_⟩) | (simp only [↓isM_mk_iff]; refine isM_and ?_) | (with_reducible apply is_modEnd) | (with_reducible apply is_modScree) | (with_reducible apply is_foldl; intro _ _ _) | (with_reducible apply is_foldl_fst; intro _ _ _) | (with_reducible apply is_foldl_s; intro _ _ _) | (with_reducible apply is_foldl_fst_s; intro _ _ _) | (with_reducible apply is_iter; intro _ _) | (with_reducible apply isM_foldl; intro _ _ _) | (with_reducible apply is_meter) | (intro _; try dsimp only) | (split <;> (try (rename_i hq; simp only [↓Prod.ext_iff] at hq; obtain ⟨hf, _⟩ := hq; subst hf))) | (dsimp only [id]))

theorem is_hear {kk : Kept} {s : State} {x : Nat} (hk : Is kk s) : Is kk (hear s x) := by
  unfold hear
  try dsimp only
  repeat' (first | with_reducible assumption | (with_reducible apply is_progress) | (with_reducible apply is_meter) | split)

theorem is_sendAck {kk : Kept} {s : State} {x toWhom tag xfer status addr : Nat} (hk : Is kk s)
    : Is kk (sendAck s x toWhom tag xfer status addr) := by
  unfold sendAck
  try dsimp only
  repeat' (first | with_reducible assumption | (with_reducible apply is_sendCells))

theorem is_poolEvent {kk : Kept} {s : State} {x src a : Nat} (hk : Is kk s) : Is kk (poolEvent s x src a) := by
  unfold poolEvent
  try dsimp only
  repeat' (first | with_reducible assumption | (with_reducible apply is_coreEvent))

theorem is_applyBytes {kk : Kept} {s : State} {x src tag a : Nat} {l : List Byte} {again : Bool} (hk : Is kk s) : Is kk (applyBytes s x src tag a l again).1 := by
  unfold applyBytes
  try dsimp only
  repeat' (first | with_reducible assumption | (simp only [↓is_mk_iff]; refine ⟨is_and ?_, ?_⟩) | (simp only [↓isM_mk_iff]; refine isM_and ?_) | (with_reducible apply is_putPiece) | (with_reducible apply is_foldl; intro _ _ _) | (with_reducible apply is_foldl_fst; intro _ _ _) | (with_reducible apply is_foldl_s; intro _ _ _) | (with_reducible apply is_foldl_fst_s; intro _ _ _) | (with_reducible apply is_iter; intro _ _) | (with_reducible apply isM_foldl; intro _ _ _) | (with_reducible apply is_meter) | (intro _; try dsimp only) | (split <;> (try (rename_i hq; simp only [↓Prod.ext_iff] at hq; obtain ⟨hf, _⟩ := hq; subst hf))) | (dsimp only [id]))

theorem is_land {kk : Kept} {s : State} {x : Nat} {o : OpenX} {ends : Bool} (hk : Is kk s) : Is kk (land s x o ends).1 := by
  unfold land
  try dsimp only
  repeat' (first | with_reducible assumption | (simp only [↓is_mk_iff]; refine ⟨is_and ?_, ?_⟩) | (simp only [↓isM_mk_iff]; refine isM_and ?_) | (with_reducible apply is_applyBytes) | (with_reducible apply is_foldl; intro _ _ _) | (with_reducible apply is_foldl_fst; intro _ _ _) | (with_reducible apply is_foldl_s; intro _ _ _) | (with_reducible apply is_foldl_fst_s; intro _ _ _) | (with_reducible apply is_iter; intro _ _) | (with_reducible apply isM_foldl; intro _ _ _) | (with_reducible apply is_meter) | (intro _; try dsimp only) | (split <;> (try (rename_i hq; simp only [↓Prod.ext_iff] at hq; obtain ⟨hf, _⟩ := hq; subst hf))) | (dsimp only [id]))

theorem is_closeIncomplete {kk : Kept} {s : State} {x : Nat} {o : OpenX} (hk : Is kk s) : Is kk (closeIncomplete s x o) := by
  unfold closeIncomplete
  try dsimp only
  repeat' (first | with_reducible assumption | (with_reducible apply is_dropCvAt) | (with_reducible apply is_sendAck) | (with_reducible apply is_land) | (with_reducible apply is_meter) | split)

theorem is_closeComplete {kk : Kept} {s : State} {x : Nat} {o : OpenX} (hk : Is kk s) : Is kk (closeComplete s x o) := by
  unfold closeComplete
  try dsimp only
  repeat' (first | with_reducible assumption | (with_reducible apply is_storeCv) | (with_reducible apply is_dropCvAt) | (with_reducible apply is_sendAck) | (with_reducible apply is_land) | (with_reducible apply is_meter) | split)

theorem is_closeOld {kk : Kept} {s : State} {x src : Nat} {reply : Bool} (hk : Is kk s) : Is kk (closeOld s x src reply) := by
  unfold closeOld
  try dsimp only
  repeat' (first | with_reducible assumption | (with_reducible apply is_modEnd) | (with_reducible apply is_closeIncomplete) | (with_reducible apply is_foldl; intro _ _ _))

theorem is_openNew {kk : Kept} {s : State} {x : Nat} {o : OpenX} (hk : Is kk s) : Is kk (openNew s x o) := by
  unfold openNew
  try dsimp only
  repeat' (first | with_reducible assumption | (with_reducible apply is_modEnd))

theorem is_execWriteIndexed {kk : Kept} {x : Nat} {s : State} {tR : State} (he : execWriteIndexed x s = .next tR) (hk : Is kk s)
    : Is kk tR := by
  unfold execWriteIndexed at he
  with_reducible refine is_onUnit he ?_
  clear he
  try dsimp only
  repeat' (first | with_reducible assumption | (with_reducible apply is_popCell) | (with_reducible apply is_dropCell) | (with_reducible apply is_hear) | (with_reducible apply is_sendAck) | (with_reducible apply is_poolEvent) | (with_reducible apply is_applyBytes) | (with_reducible apply is_closeOld) | (with_reducible apply is_openNew) | (with_reducible apply is_meter) | (split <;> (try (rename_i hq; simp only [↓Prod.ext_iff] at hq; obtain ⟨hf, _⟩ := hq; subst hf))))

theorem is_checkFail {kk : Kept} {s : State} {p tag : Nat} {y : Xfer} {reason : Nat} (hk : Is kk s)
    : Is kk (checkFail s p tag y reason) := by
  unfold checkFail
  try dsimp only
  repeat' (first | with_reducible assumption | (with_reducible apply is_checkEvent) | (with_reducible apply is_xferFail) | (with_reducible apply is_meter) | split)

theorem is_execReadReply {kk : Kept} {x : Nat} {s : State} {tR : State} (he : execReadReply x s = .next tR) (hk : Is kk s)
    : Is kk tR := by
  unfold execReadReply at he
  with_reducible refine is_onUnit he ?_
  clear he
  try dsimp only
  repeat' (first | with_reducible assumption | (with_reducible apply is_readDone) | (with_reducible apply is_popCell) | (with_reducible apply is_hear) | (with_reducible apply is_closeOld) | (with_reducible apply is_openNew) | (with_reducible apply is_checkFail) | (with_reducible apply is_meter) | split)

theorem is_execWrite {kk : Kept} {x : Nat} {s : State} {tR : State} (he : execWrite x s = .next tR) (hk : Is kk s)
    : Is kk tR := by
  unfold execWrite at he
  with_reducible refine is_onUnit he ?_
  clear he
  try dsimp only
  repeat' (first | with_reducible assumption | (with_reducible apply is_setEnd) | (with_reducible apply is_readDone) | (with_reducible apply is_popCell) | (with_reducible apply is_dropCell) | (with_reducible apply is_hear) | (with_reducible apply is_land) | (with_reducible apply is_closeComplete) | (with_reducible apply is_meter) | split)

theorem is_execEndpointTransferTimeout {kk : Kept} {x src : Nat} {reply : Bool} {s : State} {tR : State}
    (he : execEndpointTransferTimeout x src reply s = .next tR) (hk : Is kk s) : Is kk tR := by
  unfold execEndpointTransferTimeout at he
  with_reducible refine is_onUnit he ?_
  clear he
  try dsimp only
  repeat' (first | with_reducible assumption | (with_reducible apply is_modEnd) | (with_reducible apply is_closeIncomplete) | (with_reducible apply is_meter) | split)

theorem is_sampleValid {kk : Kept} {s : State} {src tag xf : Nat} (hk : Is kk s) : Is kk (sampleValid s src tag xf) := by
  unfold sampleValid
  try dsimp only
  repeat' (first | with_reducible assumption | (with_reducible apply is_modTag) | (with_reducible apply is_meter) | split)

theorem is_sendReply {kk : Kept} {s : State} {x toWhom tag stage xf status : Nat} {cv : W32} {l : List Byte} {piece : Bool} (hk
    : Is kk s) : Is kk (sendReply s x toWhom tag stage xf status cv l piece) := by
  unfold sendReply
  try dsimp only
  repeat' (first | with_reducible assumption | (with_reducible apply is_sendCells) | (with_reducible apply is_meter) | split)

theorem is_execReadReq {kk : Kept} {x : Nat} {s : State} {tR : State} (he : execReadReq x s = .next tR) (hk : Is kk s)
    : Is kk tR := by
  unfold execReadReq at he
  with_reducible refine is_onUnit he ?_
  clear he
  try dsimp only
  repeat' (first | with_reducible assumption | (with_reducible apply is_getPiece) | (with_reducible apply is_popCell) | (with_reducible apply is_dropCell) | (with_reducible apply is_hear) | (with_reducible apply is_sampleValid) | (with_reducible apply is_sendReply) | (with_reducible apply is_meter) | split)

theorem is_teAnswer {kk : Kept} {s : State} {p status : Nat} (hk : Is kk s) : Is kk (teAnswer s p status) := by
  unfold teAnswer
  try dsimp only
  repeat' (first | with_reducible assumption | (with_reducible apply is_modCore))

theorem is_execWriteAck {kk : Kept} {x : Nat} {s : State} {tR : State} (he : execWriteAck x s = .next tR) (hk : Is kk s)
    : Is kk tR := by
  unfold execWriteAck at he
  with_reducible refine is_onUnit he ?_
  clear he
  try dsimp only
  repeat' (first | with_reducible assumption | (with_reducible apply is_recordAnswered) | (with_reducible apply is_xferFail) | (with_reducible apply is_writeDone) | (with_reducible apply is_popCell) | (with_reducible apply is_hear) | (with_reducible apply is_checkFail) | (with_reducible apply is_teAnswer) | (with_reducible apply is_meter) | split)

theorem is_execSyncRaise {kk : Kept} {x : Nat} {s : State} {tR : State} (he : execSyncRaise x s = .next tR) (hk : Is kk s)
    : Is kk tR := by
  unfold execSyncRaise at he
  with_reducible refine is_onUnit he ?_
  clear he
  try dsimp only
  repeat' (first | with_reducible assumption | (with_reducible apply is_writeCtr) | (with_reducible apply is_sendCells) | (with_reducible apply is_popCell) | (with_reducible apply is_hear) | (with_reducible apply is_meter) | split)

theorem is_raiseAcked {kk : Kept} {s : State} {p tag : Nat} {ok : Bool} (hk : Is kk s) : Is kk (raiseAcked s p tag ok) := by
  unfold raiseAcked
  try dsimp only
  repeat' (first | with_reducible assumption | (with_reducible apply is_setCore) | (with_reducible apply is_stir) | (with_reducible apply is_trap) | (with_reducible apply is_trapOp) | (with_reducible apply is_jobCheckAt) | (with_reducible apply is_raiseReady) | (with_reducible apply is_meter) | split)

theorem is_unitRaise {kk : Kept} {s : State} {col l tag origin i v : Nat} (hk : Is kk s)
    : Is kk (unitRaise s col l tag origin i v) := by
  unfold unitRaise
  try dsimp only
  repeat' (first | with_reducible assumption | (with_reducible apply is_sendCells))

theorem is_hubRaise {kk : Kept} {s : State} {l tag i v : Nat} (hk : Is kk s) : Is kk (hubRaise s l tag i v) := by
  unfold hubRaise
  try dsimp only
  repeat' (first | with_reducible assumption | (with_reducible apply is_unitRaise))

theorem is_hubRaiseAcked {kk : Kept} {s : State} {tag : Nat} {ok : Bool} (hk : Is kk s) : Is kk (hubRaiseAcked s tag ok) := by
  unfold hubRaiseAcked
  try dsimp only
  repeat' (first | with_reducible assumption | (with_reducible apply is_setBucket) | (with_reducible apply is_jobFault) | (with_reducible apply is_hubRaise) | (with_reducible apply is_meter) | split)

theorem is_execSyncAck {kk : Kept} {x : Nat} {s : State} {tR : State} (he : execSyncAck x s = .next tR) (hk : Is kk s)
    : Is kk tR := by
  unfold execSyncAck at he
  with_reducible refine is_onUnit he ?_
  clear he
  try dsimp only
  repeat' (first | with_reducible assumption | (with_reducible apply is_modCore) | (with_reducible apply is_jobFault) | (with_reducible apply is_popCell) | (with_reducible apply is_hear) | (with_reducible apply is_raiseAcked) | (with_reducible apply is_hubRaiseAcked) | (with_reducible apply is_meter) | split)

end Sys2Proof.Machine
end

