-- ==== Sys2Proof/Laws/KeptPacketNet.lean ====
section
/-! SUPPORT. One lemma per operation of Machine/PacketNet.lean: it keeps what `Kept` lists, or only ages it. -/

namespace Sys2Proof.Machine

theorem is_setRouter {kk : Kept} {s : State} {r : Nat} {v : Router} (hk : Is kk s) : Is kk (setRouter s r v) := by
  unfold setRouter
  try dsimp only
  repeat' (first | with_reducible assumption | (simp only [↓is_mk_iff]; refine ⟨is_and ?_, ?_⟩) | (with_reducible apply is_meter))

theorem is_modRouter {kk : Kept} {s : State} {r : Nat} {f : Router → Router} (hk : Is kk s) : Is kk (modRouter s r f) := by
  unfold modRouter
  try dsimp only
  repeat' (first | with_reducible assumption | (with_reducible apply is_setRouter))

theorem is_injectOne {kk : Kept} {s : State} {x port pos : Nat} {control : Bool} (hk : Is kk s)
    : Is kk (injectOne s x port pos control) := by
  unfold injectOne
  try dsimp only
  repeat' (first | with_reducible assumption | (with_reducible apply is_modEnd) | (with_reducible apply is_modRouter) | (with_reducible apply is_meter) | split)

theorem is_inject {kk : Kept} {s : State} {x : Nat} (hk : Is kk s) : Is kk (inject s x) := by
  unfold inject
  try dsimp only
  repeat' (first | with_reducible assumption | (with_reducible apply is_injectOne) | (with_reducible apply is_foldl; intro _ _ _))

theorem is_takeHead {kk : Kept} {s : State} {x port vc : Nat} (hk : Is kk s) : Is kk (takeHead s x port vc) := by
  unfold takeHead
  try dsimp only
  repeat' (first | with_reducible assumption | (simp only [↓is_mk_iff]; refine ⟨is_and ?_, ?_⟩) | (with_reducible apply is_modRouter) | (with_reducible apply is_meter) | split)

theorem is_crossLink {kk : Kept} {s : State} {out y port v : Nat} {sent c : Cell} (hk : Is kk s) : Is kk (crossLink s out y port v sent c) := by
  unfold crossLink
  try dsimp only
  repeat' (first | with_reducible assumption | (simp only [↓is_mk_iff]; refine ⟨is_and ?_, ?_⟩) | (simp only [↓isM_mk_iff]; refine isM_and ?_) | (with_reducible apply is_modRouter) | (with_reducible apply is_foldl; intro _ _ _) | (with_reducible apply is_foldl_fst; intro _ _ _) | (with_reducible apply is_foldl_s; intro _ _ _) | (with_reducible apply is_foldl_fst_s; intro _ _ _) | (with_reducible apply is_iter; intro _ _) | (with_reducible apply isM_foldl; intro _ _ _) | (with_reducible apply is_meter) | (intro _; try dsimp only) | (split <;> (try (rename_i hq; simp only [↓Prod.ext_iff] at hq; obtain ⟨hf, _⟩ := hq; subst hf))) | (dsimp only [id]))

theorem is_execPnCellHop {kk : Kept} {x out : Nat} {flip : BitVec 320} {s : State} {tR : State} (he : execPnCellHop x out flip s = .next tR) (hk : Is kk s) : Is kk tR := by
  unfold execPnCellHop at he
  with_reducible refine is_onUnit he ?_
  clear he
  try dsimp only
  repeat' (first | with_reducible assumption | (simp only [↓is_mk_iff]; refine ⟨is_and ?_, ?_⟩) | (simp only [↓isM_mk_iff]; refine isM_and ?_) | (with_reducible apply is_modEnd) | (with_reducible apply is_modRouter) | (with_reducible apply is_inject) | (with_reducible apply is_takeHead) | (with_reducible apply is_crossLink) | (with_reducible apply is_foldl; intro _ _ _) | (with_reducible apply is_foldl_fst; intro _ _ _) | (with_reducible apply is_foldl_s; intro _ _ _) | (with_reducible apply is_foldl_fst_s; intro _ _ _) | (with_reducible apply is_iter; intro _ _) | (with_reducible apply isM_foldl; intro _ _ _) | (with_reducible apply is_meter) | (intro _; try dsimp only) | (split <;> (try (rename_i hq; simp only [↓Prod.ext_iff] at hq; obtain ⟨hf, _⟩ := hq; subst hf))) | (dsimp only [id]))

theorem is_applyCore {kk : Kept} {s : State} {p : Nat} {k : Chunk} (hk : Is kk s) : Is kk (applyCore s p k) := by
  unfold applyCore
  try dsimp only
  repeat' (first | with_reducible assumption | (with_reducible apply is_modCore) | (with_reducible apply is_writeSlice) | (with_reducible apply is_meter) | split)

theorem is_bcastCore {kk : Kept} {s : State} {c : Cell} {p : Nat} (hk : Is kk s) : Is kk (bcastCore s c p) := by
  unfold bcastCore
  try dsimp only
  repeat' (first | with_reducible assumption | (with_reducible apply is_setCore) | (with_reducible apply is_modCore) | (with_reducible apply is_progress) | (with_reducible apply is_applyCore) | (with_reducible apply is_meter) | split)

theorem is_bcastSwitch {kk : Kept} {s : State} {c : Cell} {x : Nat} (hk : Is kk s) : Is kk (bcastSwitch s c x) := by
  unfold bcastSwitch
  try dsimp only
  repeat' (first | with_reducible assumption | (with_reducible apply is_setSwitch) | (with_reducible apply is_meter) | split)

theorem is_bcastHere {kk : Kept} {s : State} {x : Nat} {c : Cell} (hk : Is kk s) : Is kk (bcastHere s x c) := by
  unfold bcastHere
  try dsimp only
  repeat' (first | with_reducible assumption | (with_reducible apply is_bcastCore) | (with_reducible apply is_bcastSwitch) | (with_reducible apply is_meter) | split)

theorem is_execBcast {kk : Kept} {hop : BcastHop} {s : State} {tR : State} (he : execBcast hop s = .next tR) (hk : Is kk s) : Is kk tR := by
  unfold execBcast at he
  (try dsimp only at he)
  repeat' (first | (with_reducible cases he; done) | (with_reducible injection he with he; subst he) | (with_reducible obtain ⟨_, _, rfl⟩ := Option.map_eq_some_iff.1 he) | (split at he <;> (try (rename_i hq; simp only [↓Prod.ext_iff] at hq; obtain ⟨hf, _⟩ := hq; subst hf))))
  all_goals (try (with_reducible refine is_onUnit he ?_))
  all_goals (try dsimp only)
  repeat' (first | with_reducible assumption | (simp only [↓is_mk_iff]; refine ⟨is_and ?_, ?_⟩) | (simp only [↓isM_mk_iff]; refine isM_and ?_) | (with_reducible apply is_modRouter) | (with_reducible apply is_inject) | (with_reducible apply is_takeHead) | (with_reducible apply is_crossLink) | (with_reducible apply is_bcastHere) | (with_reducible apply is_foldl; intro _ _ _) | (with_reducible apply is_foldl_fst; intro _ _ _) | (with_reducible apply is_foldl_s; intro _ _ _) | (with_reducible apply is_foldl_fst_s; intro _ _ _) | (with_reducible apply is_iter; intro _ _) | (with_reducible apply isM_foldl; intro _ _ _) | (with_reducible apply is_meter) | (intro _; try dsimp only) | (split <;> (try (rename_i hq; simp only [↓Prod.ext_iff] at hq; obtain ⟨hf, _⟩ := hq; subst hf))) | (dsimp only [id]))

end Sys2Proof.Machine
end

