-- ==== Sys2Proof/Laws/KeptChannels.lean ====
section
/-! SUPPORT. One lemma per operation of Machine/Channels.lean: it keeps what `Kept` lists, or only ages it. -/

namespace Sys2Proof.Machine

theorem is_transmit {kk : Kept} {s : State} {p i : Nat} (hk : Is kk s) : Is kk (transmit s p i) := by
  unfold transmit
  try dsimp only
  repeat' (first | with_reducible assumption | (with_reducible apply is_modCore) | (with_reducible apply is_readCore) | (with_reducible apply is_sendCells) | (with_reducible apply is_meter) | (split <;> (try (rename_i hq; simp only [↓Prod.ext_iff] at hq; obtain ⟨hf, _⟩ := hq; subst hf))))

theorem is_nextSend {kk : Kept} {s : State} {p i : Nat} (hk : Is kk s) : Is kk (nextSend s p i) := by
  unfold nextSend
  try dsimp only
  repeat' (first | with_reducible assumption | (with_reducible apply is_modCore) | (with_reducible apply is_transmit) | (with_reducible apply is_meter) | split)

theorem is_execSendOperation {kk : Kept} {p : Nat} {s : State} {tR : State} (he : execSendOperation p s = .next tR) (hk
    : Is kk s) : Is kk tR := by
  unfold execSendOperation at he
  with_reducible refine is_onUnit he ?_
  clear he
  try dsimp only
  repeat' (first | with_reducible assumption | (with_reducible apply is_modCore) | (with_reducible apply is_stir) | (with_reducible apply is_trapOp) | (with_reducible apply is_opDone) | (with_reducible apply is_jobCheckAt) | (with_reducible apply is_readDesc) | (with_reducible apply is_nextSend) | (with_reducible apply is_meter) | (split <;> (try (rename_i hq; simp only [↓Prod.ext_iff] at hq; obtain ⟨hf, _⟩ := hq; subst hf))))

theorem is_sendEnds {kk : Kept} {s : State} {p i : Nat} {acked : Bool} {fail : Option W64} (hk : Is kk s)
    : Is kk (sendEnds s p i acked fail) := by
  unfold sendEnds
  try dsimp only
  repeat' (first | with_reducible assumption | (with_reducible apply is_modCore) | (with_reducible apply is_trapOp) | (with_reducible apply is_opDone) | (with_reducible apply is_jobCheckAt) | (with_reducible apply is_nextSend) | (with_reducible apply is_meter) | split)

theorem is_countWait {kk : Kept} {s : State} {p i : Nat} {failed : Bool} (hk : Is kk s) : Is kk (countWait s p i failed) := by
  unfold countWait
  try dsimp only
  repeat' (first | with_reducible assumption | (with_reducible apply is_modCore))

theorem is_attemptFails {kk : Kept} {s : State} {p i outcome : Nat} (hk : Is kk s) : Is kk (attemptFails s p i outcome) := by
  unfold attemptFails
  try dsimp only
  repeat' (first | with_reducible assumption | (with_reducible apply is_modCore) | (with_reducible apply is_transmit) | (with_reducible apply is_sendEnds) | (with_reducible apply is_countWait) | (with_reducible apply is_meter) | split)

theorem is_execMsgAck {kk : Kept} {x : Nat} {s : State} {tR : State} (he : execMsgAck x s = .next tR) (hk : Is kk s)
    : Is kk tR := by
  unfold execMsgAck at he
  with_reducible refine is_onUnit he ?_
  clear he
  try dsimp only
  repeat' (first | with_reducible assumption | (with_reducible apply is_modCore) | (with_reducible apply is_popCell) | (with_reducible apply is_hear) | (with_reducible apply is_sendEnds) | (with_reducible apply is_countWait) | (with_reducible apply is_meter) | split)

theorem is_execMsgNack {kk : Kept} {x : Nat} {s : State} {tR : State} (he : execMsgNack x s = .next tR) (hk : Is kk s)
    : Is kk tR := by
  unfold execMsgNack at he
  with_reducible refine is_onUnit he ?_
  clear he
  try dsimp only
  repeat' (first | with_reducible assumption | (with_reducible apply is_modCore) | (with_reducible apply is_popCell) | (with_reducible apply is_hear) | (with_reducible apply is_attemptFails) | (with_reducible apply is_meter) | split)

theorem is_execMsgAckTimeout {kk : Kept} {p i : Nat} {s : State} {tR : State} (he : execMsgAckTimeout p i s = .next tR) (hk
    : Is kk s) : Is kk tR := by
  unfold execMsgAckTimeout at he
  with_reducible refine is_onUnit he ?_
  clear he
  try dsimp only
  repeat' (first | with_reducible assumption | (with_reducible apply is_attemptFails) | (with_reducible apply is_meter) | split)

theorem is_execMsgRetryBackoff {kk : Kept} {p i : Nat} {s : State} {tR : State} (he : execMsgRetryBackoff p i s = .next tR) (hk
    : Is kk s) : Is kk tR := by
  unfold execMsgRetryBackoff at he
  with_reducible refine is_onUnit he ?_
  clear he
  try dsimp only
  repeat' (first | with_reducible assumption | (with_reducible apply is_modCore) | (with_reducible apply is_transmit) | (with_reducible apply is_meter) | split)

theorem is_sendMsgAck {kk : Kept} {s : State} {x toWhom tag : Nat} (hk : Is kk s) : Is kk (sendMsgAck s x toWhom tag) := by
  unfold sendMsgAck
  try dsimp only
  repeat' (first | with_reducible assumption | (with_reducible apply is_sendCells))

theorem is_sendNack {kk : Kept} {s : State} {x toWhom tag reason : Nat} (hk : Is kk s)
    : Is kk (sendNack s x toWhom tag reason) := by
  unfold sendNack
  try dsimp only
  repeat' (first | with_reducible assumption | (with_reducible apply is_sendCells))

theorem is_fillRecord {kk : Kept} {s : State} {x i : Nat} {q : RingRec} {toWhom tag : Nat} {l : List Byte} (hk : Is kk s)
    : Is kk (fillRecord s x i q toWhom tag l) := by
  unfold fillRecord
  try dsimp only
  repeat' (first | with_reducible assumption | (with_reducible apply is_modCore) | (with_reducible apply is_progress) | (with_reducible apply is_sendMsgAck) | (with_reducible apply is_meter) | split)

theorem is_execMsgFirst {kk : Kept} {x : Nat} {s : State} {tR : State} (he : execMsgFirst x s = .next tR) (hk : Is kk s)
    : Is kk tR := by
  unfold execMsgFirst at he
  with_reducible refine is_onUnit he ?_
  clear he
  try dsimp only
  repeat' (first | with_reducible assumption | (with_reducible apply is_setCore) | (with_reducible apply is_modCore) | (with_reducible apply is_popCell) | (with_reducible apply is_hear) | (with_reducible apply is_sendMsgAck) | (with_reducible apply is_sendNack) | (with_reducible apply is_fillRecord) | (with_reducible apply is_meter) | split)

theorem is_execMsgNext {kk : Kept} {x : Nat} {s : State} {tR : State} (he : execMsgNext x s = .next tR) (hk : Is kk s)
    : Is kk tR := by
  unfold execMsgNext at he
  with_reducible refine is_onUnit he ?_
  clear he
  try dsimp only
  repeat' (first | with_reducible assumption | (with_reducible apply is_popCell) | (with_reducible apply is_hear) | (with_reducible apply is_fillRecord) | (with_reducible apply is_meter) | split)

theorem is_execReservationTimeout {kk : Kept} {p i res : Nat} {s : State} {tR : State}
    (he : execReservationTimeout p i res s = .next tR) (hk : Is kk s) : Is kk tR := by
  unfold execReservationTimeout at he
  with_reducible refine is_onUnit he ?_
  clear he
  try dsimp only
  repeat' (first | with_reducible assumption | (with_reducible apply is_modCore) | (with_reducible apply is_meter) | split)

theorem is_execReceiveOperation {kk : Kept} {p : Nat} {s : State} {tR : State} (he : execReceiveOperation p s = .next tR) (hk
    : Is kk s) : Is kk tR := by
  unfold execReceiveOperation at he
  with_reducible refine is_onUnit he ?_
  clear he
  try dsimp only
  repeat' (first | with_reducible assumption | (with_reducible apply is_modCore) | (with_reducible apply is_stir) | (with_reducible apply is_trapOp) | (with_reducible apply is_opDone) | (with_reducible apply is_jobCheckAt) | (with_reducible apply is_readDesc) | (with_reducible apply is_meter) | (split <;> (try (rename_i hq; simp only [↓Prod.ext_iff] at hq; obtain ⟨hf, _⟩ := hq; subst hf))))

theorem is_execReceiveTakesRecord {kk : Kept} {p i : Nat} {s : State} {tR : State}
    (he : execReceiveTakesRecord p i s = .next tR) (hk : Is kk s) : Is kk tR := by
  unfold execReceiveTakesRecord at he
  with_reducible refine is_onUnit he ?_
  clear he
  try dsimp only
  repeat' (first | with_reducible assumption | (with_reducible apply is_modCore) | (with_reducible apply is_opDone) | (with_reducible apply is_readCore) | (with_reducible apply is_jobCheckAt) | (with_reducible apply is_meter) | (split <;> (try (rename_i hq; simp only [↓Prod.ext_iff] at hq; obtain ⟨hf, _⟩ := hq; subst hf))))

end Sys2Proof.Machine
end

