-- ==== Sys2Proof/Laws/KeptFlags.lean ====
section
/-! SUPPORT. One lemma per operation of Machine/Flags.lean: it keeps what `Kept` lists, or only ages it. -/

namespace Sys2Proof.Machine

theorem is_reportFlags {kk : Kept} {s : State} {p : Nat} {o : IssueOp} {sat inf nan : Option Nat} {src : Nat} (hk : Is kk s)
    : Is kk (reportFlags s p o sat inf nan src) := by
  unfold reportFlags
  try dsimp only
  repeat' (first | with_reducible assumption | (with_reducible apply is_modCore) | (with_reducible apply is_trapOp) | (with_reducible apply is_meter) | split)

end Sys2Proof.Machine
end

