-- ==== Sys2Proof/Laws/KeptFabric.lean ====
section
/-! SUPPORT. One lemma per operation of Machine/Fabric.lean: it keeps what `Kept` lists, or only ages it. -/

namespace Sys2Proof.Machine

theorem is_modIn {kk : Kept} {s : State} {p q : Nat} {f : InQ → InQ} (hk : Is kk s) : Is kk (modIn s p q f) := by
  unfold modIn
  try dsimp only
  repeat' (first | with_reducible assumption | (with_reducible apply is_modCore))

theorem is_spillGet {kk : Kept} {s : State} {p : Nat} {q : InQ} {i : Nat} (hk : Is kk s) : Is kk (spillGet s p q i).1 := by
  unfold spillGet
  try dsimp only
  repeat' (first | with_reducible assumption | (with_reducible apply is_readCore) | (with_reducible apply is_meter) | (split <;> (try (rename_i hq; simp only [↓Prod.ext_iff] at hq; obtain ⟨hf, _⟩ := hq; subst hf))))

theorem is_refill {kk : Kept} {p q : Nat} {y1 : Nat} {y2 : State} (hk : Is kk y2) : Is kk (refill p q y1 y2) := by
  induction y1 generalizing y2 with
  | zero => (unfold refill; (try dsimp only); repeat' (with_reducible assumption))
  | succ n ih => (unfold refill; (try dsimp only); repeat' (first | with_reducible assumption | (with_reducible apply ih) | (with_reducible apply is_modIn) | (with_reducible apply is_spillGet) | (with_reducible apply is_meter) | (split <;> (try (rename_i hq; simp only [↓Prod.ext_iff] at hq; obtain ⟨hf, _⟩ := hq; subst hf)))))

theorem is_spillOne {kk : Kept} {s : State} {p q : Nat} (hk : Is kk s) : Is kk (spillOne s p q) := by
  unfold spillOne
  try dsimp only
  repeat' (first | with_reducible assumption | (with_reducible apply is_modCore) | (with_reducible apply is_modIn) | (with_reducible apply is_meter) | split)

theorem is_serveQueue {kk : Kept} {s : State} {p q : Nat} (hk : Is kk s) : Is kk (serveQueue s p q) := by
  unfold serveQueue
  try dsimp only
  repeat' (first | with_reducible assumption | (with_reducible apply is_modIn) | (with_reducible apply is_refill) | (with_reducible apply is_spillOne) | (with_reducible apply is_iter; intro _ _) | (with_reducible apply is_meter) | split)

theorem is_queueArrive {kk : Kept} {s : State} {p q : Nat} {w : VnWord} (hk : Is kk s) : Is kk (queueArrive s p q w) := by
  unfold queueArrive
  try dsimp only
  repeat' (first | with_reducible assumption | (with_reducible apply is_modIn))

theorem is_freeToken {kk : Kept} {s : State} {p q : Nat} (hk : Is kk s) : Is kk (freeToken s p q) := by
  unfold freeToken
  try dsimp only
  repeat' (first | with_reducible assumption | (with_reducible apply is_modCore) | (with_reducible apply is_modIn) | (with_reducible apply is_meter) | split)

theorem is_takeWord {kk : Kept} {s : State} {p q : Nat} (hk : Is kk s) : Is kk (takeWord s p q).1 := by
  unfold takeWord
  try dsimp only
  repeat' (first | with_reducible assumption | (with_reducible apply is_progress) | (with_reducible apply is_modIn) | (with_reducible apply is_refill) | (with_reducible apply is_freeToken) | (with_reducible apply is_meter) | split)

theorem is_takeWords {kk : Kept} {p q : Nat} {y1 : Nat} {y2 : State} (hk : Is kk y2) : Is kk (takeWords p q y1 y2).1 := by
  induction y1 generalizing y2 with
  | zero => (unfold takeWords; (try dsimp only); repeat' (with_reducible assumption))
  | succ n ih => (unfold takeWords; (try dsimp only); repeat' (first | with_reducible assumption | (with_reducible apply ih) | (with_reducible apply is_takeWord) | (with_reducible apply is_meter) | (split <;> (try (rename_i hq; simp only [↓Prod.ext_iff] at hq; obtain ⟨hf, _⟩ := hq; subst hf)))))

theorem is_putWords {kk : Kept} {s : State} {p q : Nat} {l : List VnWord} (hk : Is kk s) : Is kk (putWords s p q l).1 := by
  unfold putWords
  try dsimp only
  repeat' (first | with_reducible assumption | (with_reducible apply is_modCore))

theorem is_coreReturn {kk : Kept} {s : State} {p i : Nat} (hk : Is kk s) : Is kk (coreReturn s p i).1 := by
  unfold coreReturn
  try dsimp only
  repeat' (first | with_reducible assumption | (with_reducible apply is_modCore) | (with_reducible apply is_modIn) | (with_reducible apply is_meter) | split)

theorem is_sliceReturn {kk : Kept} {s : State} {key i : Nat} (hk : Is kk s) : Is kk (sliceReturn s key i).1 := by
  unfold sliceReturn
  try dsimp only
  repeat' (first | with_reducible assumption | (with_reducible apply is_modSlice) | (with_reducible apply is_meter) | split)

theorem is_vnSource {kk : Kept} {s : State} {x : Nat} {e : W64} {code : Nat} (hk : Is kk s) : Is kk (vnSource s x e code).1 := by
  unfold vnSource
  try dsimp only
  repeat' (first | with_reducible assumption | (with_reducible apply is_modSlice) | (with_reducible apply is_setSwitch) | (with_reducible apply is_meter) | split)

theorem is_steerFault {kk : Kept} {s : State} {p u kind : Nat} (hk : Is kk s) : Is kk (steerFault s p u kind) := by
  unfold steerFault
  try dsimp only
  repeat' (first | with_reducible assumption | (with_reducible apply is_modCore) | (with_reducible apply is_coreEvent))

theorem is_landAt {kk : Kept} {s : State} {x p dst : Nat} {w : VnWord} (hk : Is kk s) : Is kk (landAt s x p dst w) := by
  unfold landAt
  try dsimp only
  repeat' (first | with_reducible assumption | (with_reducible apply is_modCore) | (with_reducible apply is_modSwitch) | (with_reducible apply is_queueArrive) | (with_reducible apply is_steerFault) | (with_reducible apply is_meter) | split)

theorem is_landInbound {kk : Kept} {s : State} {x : Nat} (hk : Is kk s) : Is kk (landInbound s x) := by
  unfold landInbound
  try dsimp only
  repeat' (first | with_reducible assumption | (with_reducible apply is_modSwitch) | (with_reducible apply is_landAt) | (with_reducible apply is_foldl; intro _ _ _))

theorem is_sendInbound {kk : Kept} {s : State} {x dst slots : Nat} {w : VnWord} (hk : Is kk s)
    : Is kk (sendInbound s x dst slots w) := by
  unfold sendInbound
  try dsimp only
  repeat' (first | with_reducible assumption | (with_reducible apply is_modSwitch) | (with_reducible apply is_meter) | split)

theorem is_vnDeliver {kk : Kept} {x : Nat} {e : W64} {w : VnWord} {i : Nat} {a : State × Moves} (hk : Is kk a.1)
    : Is kk (vnDeliver x e w i a).1 := by
  unfold vnDeliver
  try dsimp only
  repeat' (first | with_reducible assumption | (with_reducible apply is_modSlice) | (with_reducible apply is_modSwitch) | (with_reducible apply is_sendInbound) | (with_reducible apply is_meter) | split)

theorem is_vnEntry {kk : Kept} {x : Nat} {e : W64} {a : State × Moves} (hk : Is kk a.1) : Is kk (vnEntry x e a).1 := by
  unfold vnEntry
  try dsimp only
  repeat' (first | with_reducible assumption | (with_reducible apply is_vnSource) | (with_reducible apply is_vnDeliver) | (with_reducible apply is_foldl_fst; intro _ _ _) | (with_reducible apply is_meter) | (split <;> (try (rename_i hq; simp only [↓Prod.ext_iff] at hq; obtain ⟨hf, _⟩ := hq; subst hf))))

theorem is_snSource {kk : Kept} {s : State} {x : Nat} {e : W64} {code : Nat} (hk : Is kk s) : Is kk (snSource s x e code).1 := by
  unfold snSource
  try dsimp only
  repeat' (first | with_reducible assumption | (with_reducible apply is_setSwitch) | (with_reducible apply is_sliceReturn) | (with_reducible apply is_meter) | split)

theorem is_snDeliver {kk : Kept} {x : Nat} {e : W64} {w : W32} {i : Nat} {a : State × Moves} (hk : Is kk a.1)
    : Is kk (snDeliver x e w i a).1 := by
  unfold snDeliver
  try dsimp only
  repeat' (first | with_reducible assumption | (with_reducible apply is_modSwitch) | (with_reducible apply is_sendInbound) | (with_reducible apply is_meter) | split)

theorem is_snEntry {kk : Kept} {x : Nat} {e : W64} {a : State × Moves} (hk : Is kk a.1) : Is kk (snEntry x e a).1 := by
  unfold snEntry
  try dsimp only
  repeat' (first | with_reducible assumption | (with_reducible apply is_snSource) | (with_reducible apply is_snDeliver) | (with_reducible apply is_foldl_fst; intro _ _ _) | (with_reducible apply is_meter) | (split <;> (try (rename_i hq; simp only [↓Prod.ext_iff] at hq; obtain ⟨hf, _⟩ := hq; subst hf))))

theorem is_cnEntry {kk : Kept} {x : Nat} {e : W64} {a : State × Moves} (hk : Is kk a.1) : Is kk (cnEntry x e a).1 := by
  unfold cnEntry
  try dsimp only
  repeat' (first | with_reducible assumption | (with_reducible apply is_sendInbound) | (with_reducible apply is_foldl_fst; intro _ _ _) | (with_reducible apply is_meter) | split)

theorem is_leaveVn {kk : Kept} {s : State} {x p q : Nat} (hk : Is kk s) : Is kk (leaveVn s x p q) := by
  unfold leaveVn
  try dsimp only
  repeat' (first | with_reducible assumption | (with_reducible apply is_modCore) | (with_reducible apply is_modSwitch) | (with_reducible apply is_meter) | split)

theorem is_leaveCn {kk : Kept} {s : State} {x p q : Nat} (hk : Is kk s) : Is kk (leaveCn s x p q) := by
  unfold leaveCn
  try dsimp only
  repeat' (first | with_reducible assumption | (with_reducible apply is_modCore) | (with_reducible apply is_modSwitch) | (with_reducible apply is_meter) | split)

theorem is_lookAhead {kk : Kept} {s : State} {x : Nat} (hk : Is kk s) : Is kk (lookAhead s x) := by
  unfold lookAhead
  try dsimp only
  repeat' (first | with_reducible assumption | (with_reducible apply is_modSwitch) | (with_reducible apply is_coreReturn) | (with_reducible apply is_leaveVn) | (with_reducible apply is_leaveCn) | (with_reducible apply is_meter) | (split <;> (try (rename_i hq; simp only [↓Prod.ext_iff] at hq; obtain ⟨hf, _⟩ := hq; subst hf))))

theorem is_ctxWrite {kk : Kept} {s : State} {key : Nat} (hk : Is kk s) : Is kk (ctxWrite s key) := by
  unfold ctxWrite
  try dsimp only
  repeat' (first | with_reducible assumption | (with_reducible apply is_modSlice) | (with_reducible apply is_writeSlice) | (with_reducible apply is_meter) | split)

theorem is_ctxRead {kk : Kept} {s : State} {key : Nat} (hk : Is kk s) : Is kk (ctxRead s key) := by
  unfold ctxRead
  try dsimp only
  repeat' (first | with_reducible assumption | (with_reducible apply is_modSlice) | (with_reducible apply is_readSlice) | (with_reducible apply is_meter) | split)

theorem is_atVnPort {kk : Kept} {s : State} {x port : Nat} {f : VnWord → VnWord} {tR : State}
    (he : atVnPort s x port f = some tR) (hk : Is kk s) : Is kk tR := by
  unfold atVnPort at he
  (try dsimp only at he)
  repeat' (first | (with_reducible cases he; done) | (with_reducible injection he with he; subst he) | (with_reducible obtain ⟨_, _, rfl⟩ := Option.map_eq_some_iff.1 he) | split at he)
  repeat' (first | with_reducible assumption | (with_reducible apply is_modSlice) | (with_reducible apply is_setSwitch))

theorem is_dropScalar {kk : Kept} {s : State} {x port net : Nat} {tR : State} (he : dropScalar s x port net = some tR) (hk
    : Is kk s) : Is kk tR := by
  unfold dropScalar at he
  (try dsimp only at he)
  repeat' (first | (with_reducible cases he; done) | (with_reducible injection he with he; subst he) | (with_reducible obtain ⟨_, _, rfl⟩ := Option.map_eq_some_iff.1 he) | (split at he <;> (try (rename_i hq; simp only [↓Prod.ext_iff] at hq; obtain ⟨hf, _⟩ := hq; subst hf))))
  repeat' (first | with_reducible assumption | (with_reducible apply is_setSwitch) | (with_reducible apply is_sliceReturn))

theorem is_linkFault {kk : Kept} {s : State} {f : Nat × Nat × Nat} (hk : Is kk s) : Is kk (linkFault s f) := by
  have g : ∀ (o : Option State) (F : State → State), (∀ a, o = some a → Is kk a) → (∀ a, Is kk a → Is kk (F a)) →
      Is kk ((o.map F).getD s) := by
    intro o F h1 h2
    cases o with
    | none => exact hk
    | some a => exact h2 _ (h1 _ rfl)
  obtain ⟨x, port, net⟩ := f
  unfold linkFault
  dsimp only
  refine is_ite (g _ _ (fun _ h => is_atVnPort h hk) (fun _ h => is_modSwitch h)) (is_ite ?_ ?_)
  · exact g _ _ (fun _ h => is_atVnPort h hk) (fun _ h => is_postEvent (is_modSwitch h))
  · exact g _ _ (fun _ h => is_dropScalar h hk) (fun _ h => is_postEvent (is_modSwitch h))

theorem is_slotOf {kk : Kept} {x : Nat} {a : State × Moves} (hk : Is kk a.1) : Is kk (slotOf x a).1 := by
  unfold slotOf
  try dsimp only
  repeat' (first | with_reducible assumption | (with_reducible apply is_modSwitch) | (with_reducible apply is_landInbound) | (with_reducible apply is_vnEntry) | (with_reducible apply is_snEntry) | (with_reducible apply is_cnEntry) | (with_reducible apply is_lookAhead) | (with_reducible apply is_meter) | split)

theorem is_place {kk : Kept} {a : State × Moves} (hk : Is kk a.1) : Is kk (place a) := by
  unfold place
  try dsimp only
  repeat' (first | with_reducible assumption | (with_reducible apply is_modSwitch) | (with_reducible apply is_foldl; intro _ _ _))

theorem is_modTe {kk : Kept} {s : State} {p i : Nat} {f : TeOp → TeOp} (hk : Is kk s) : Is kk (modTe s p i f) := by
  unfold modTe
  try dsimp only
  repeat' (first | with_reducible assumption | (with_reducible apply is_modCore))

theorem is_tePort {kk : Kept} {s : State} {p : Nat} (hk : Is kk s) : Is kk (tePort s p) := by
  unfold tePort
  try dsimp only
  repeat' (first | with_reducible assumption | (with_reducible apply is_takeWords) | (with_reducible apply is_putWords) | (with_reducible apply is_modTe) | (with_reducible apply is_meter) | split)

theorem is_veFire {kk : Kept} {s : State} {p : Nat} {tR : State} (he : veFire s p = some tR) (hk : Is kk s) : Is kk tR := by
  unfold veFire at he
  (try dsimp only at he)
  repeat' (first | (with_reducible cases he; done) | (with_reducible injection he with he; subst he) | (with_reducible obtain ⟨_, _, rfl⟩ := Option.map_eq_some_iff.1 he) | split at he)
  repeat' (first | with_reducible assumption | (with_reducible apply is_modCore) | (with_reducible apply is_takeWords))

theorem is_veFires {kk : Kept} {p : Nat} {y1 : Nat} {y2 : State} (hk : Is kk y2) : Is kk (veFires p y1 y2) := by
  induction y1 generalizing y2 with
  | zero => (unfold veFires; (try dsimp only); repeat' (with_reducible assumption))
  | succ n ih => (unfold veFires; (try dsimp only); repeat' (first | with_reducible assumption | (with_reducible apply ih) | (with_reducible apply is_veFire (by with_reducible assumption)) | (with_reducible apply is_meter) | split))

theorem is_vePort {kk : Kept} {s0 : State} {p : Nat} (hk : Is kk s0) : Is kk (vePort s0 p) := by
  unfold vePort
  try dsimp only
  repeat' (first | with_reducible assumption | (with_reducible apply is_modCore) | (with_reducible apply is_putWords) | (with_reducible apply is_veFires) | (with_reducible apply is_meter) | split)

theorem is_enginePorts {kk : Kept} {s : State} {p : Nat} (hk : Is kk s) : Is kk (enginePorts s p) := by
  unfold enginePorts
  try dsimp only
  repeat' (first | with_reducible assumption | (with_reducible apply is_tePort) | (with_reducible apply is_vePort) | (with_reducible apply is_meter) | split)

theorem is_coreSlot {kk : Kept} {s : State} {p : Nat} (hk : Is kk s) : Is kk (coreSlot s p) := by
  unfold coreSlot
  try dsimp only
  repeat' (first | with_reducible assumption | (with_reducible apply is_modCore) | (with_reducible apply is_serveQueue) | (with_reducible apply is_enginePorts) | (with_reducible apply is_foldl; intro _ _ _))

theorem is_vnSlot {kk : Kept} {s : State} {pt : Part} {faults : List (Nat × Nat × Nat)} (hk : Is kk s)
    : Is kk (vnSlot s pt faults) := by
  unfold vnSlot
  try dsimp only
  repeat' (first | with_reducible assumption | (with_reducible apply is_modSwitch) | (with_reducible apply is_ctxWrite) | (with_reducible apply is_ctxRead) | (with_reducible apply is_linkFault) | (with_reducible apply is_slotOf) | (with_reducible apply is_place) | (with_reducible apply is_coreSlot) | (with_reducible apply is_foldl; intro _ _ _) | (with_reducible apply is_foldl_fst; intro _ _ _) | (with_reducible apply is_meter) | split)

theorem is_execVnSwitchSlot {kk : Kept} {part : Nat} {faults : List (Nat × Nat × Nat)} {s : State} {tR : State}
    (he : execVnSwitchSlot part faults s = .next tR) (hk : Is kk s) : Is kk tR := by
  unfold execVnSwitchSlot at he
  with_reducible refine is_onUnit he ?_
  clear he
  try dsimp only
  repeat' (first | with_reducible assumption | (with_reducible apply is_modPart) | (with_reducible apply is_vnSlot) | (with_reducible apply is_meter) | split)

theorem is_execAdderFire {kk : Kept} {switch : Nat} {s : State} {tR : State} (he : execAdderFire switch s = .next tR) (hk
    : Is kk s) : Is kk tR := by
  unfold execAdderFire at he
  with_reducible refine is_onUnit he ?_
  clear he
  try dsimp only
  repeat' (first | with_reducible assumption | (with_reducible apply is_setSwitch) | (with_reducible apply is_meter) | split)

theorem is_execSteeringMove {kk : Kept} {core unit : Nat} {s : State} {tR : State}
    (he : execSteeringMove core unit s = .next tR) (hk : Is kk s) : Is kk tR := by
  unfold execSteeringMove at he
  with_reducible refine is_onUnit he ?_
  clear he
  try dsimp only
  repeat' (first | with_reducible assumption | (with_reducible apply is_modCore) | (with_reducible apply is_modSwitch) | (with_reducible apply is_progress) | (with_reducible apply is_modIn) | (with_reducible apply is_steerFault) | (with_reducible apply is_meter) | split)

theorem is_execSnReturnWord {kk : Kept} {switch kind idx : Nat} {s : State} {tR : State}
    (he : execSnReturnWord switch kind idx s = .next tR) (hk : Is kk s) : Is kk tR := by
  unfold execSnReturnWord at he
  with_reducible refine is_onUnit he ?_
  clear he
  try dsimp only
  repeat' (first | with_reducible assumption | (with_reducible apply is_modCore) | (with_reducible apply is_modSlice) | (with_reducible apply is_setSwitch) | (with_reducible apply is_modSwitch) | (with_reducible apply is_meter) | split)

theorem is_execSliceContextHeader {kk : Kept} {switch ctx : Nat} {s : State} {tR : State}
    (he : execSliceContextHeader switch ctx s = .next tR) (hk : Is kk s) : Is kk tR := by
  unfold execSliceContextHeader at he
  with_reducible refine is_onUnit he ?_
  clear he
  try dsimp only
  repeat' (first | with_reducible assumption | (with_reducible apply is_modSlice) | (with_reducible apply is_postEvent) | (with_reducible apply is_meter) | split)

end Sys2Proof.Machine
end

