-- ==== Sys2Proof/Laws/KeptFormats.lean ====
section
/-! SUPPORT. One lemma per operation of Machine/Formats.lean: it keeps what `Kept` lists, or only ages it. -/

namespace Sys2Proof.Machine

theorem is_readParts {kk : Kept} {rd : State → Nat → Nat → State × Option (List Byte)} {a : Nat} {y1 : List (Nat × Nat × Bool)}
    {y2 : State} (hk : Is kk y2) (hrd : ∀ (z0 : State) (z1 : Nat) (z2 : Nat), Is kk z0 → Is kk (rd z0 z1 z2).1)
    : Is kk (readParts rd a y1 y2).1 := by
  induction y1 generalizing y2 with
  | nil => (unfold readParts; (try dsimp only); repeat' (with_reducible assumption))
  | cons z zs ih => (unfold readParts; (try dsimp only); repeat' (first | with_reducible assumption | (with_reducible apply ih) | (with_reducible apply hrd) | (with_reducible apply is_meter) | split))

end Sys2Proof.Machine
end

