-- ==== Sys2Proof/Laws/KeptTensor.lean ====
section
/-! SUPPORT. One lemma per operation of Machine/Tensor.lean: it keeps what `Kept` lists, or only ages it. -/

namespace Sys2Proof.Machine

theorem is_setTile {kk : Kept} {s : State} {p t : Nat} {v : Tile} (hk : Is kk s) : Is kk (setTile s p t v) := by
  unfold setTile
  try dsimp only
  repeat' (first | with_reducible assumption | (with_reducible apply is_modCore))

theorem is_teHead {kk : Kept} {s : State} {p : Nat} {ops : Nat → Bool} (hk : Is kk s) : Is kk (teHead s p ops).1 := by
  unfold teHead
  try dsimp only
  repeat' (first | with_reducible assumption | (with_reducible apply is_readDesc) | (with_reducible apply is_meter) | (split <;> (try (rename_i hq; simp only [↓Prod.ext_iff] at hq; obtain ⟨hf, _⟩ := hq; subst hf))))

theorem is_teStart {kk : Kept} {s : State} {p : Nat} {o : TeOp} (hk : Is kk s) : Is kk (teStart s p o) := by
  unfold teStart
  try dsimp only
  repeat' (first | with_reducible assumption | (with_reducible apply is_modCore) | (with_reducible apply is_stir))

theorem is_execMatmul {kk : Kept} {core : Nat} {s : State} {tR : State} (he : execMatmul core s = .next tR) (hk : Is kk s)
    : Is kk tR := by
  unfold execMatmul at he
  with_reducible refine is_onUnit he ?_
  clear he
  try dsimp only
  repeat' (first | with_reducible assumption | (with_reducible apply is_teHead) | (with_reducible apply is_teStart) | (with_reducible apply is_meter) | (split <;> (try (rename_i hq; simp only [↓Prod.ext_iff] at hq; obtain ⟨hf, _⟩ := hq; subst hf))))

theorem is_execTeClear {kk : Kept} {core : Nat} {s : State} {tR : State} (he : execTeClear core s = .next tR) (hk : Is kk s)
    : Is kk tR := by
  unfold execTeClear at he
  with_reducible refine is_onUnit he ?_
  clear he
  try dsimp only
  repeat' (first | with_reducible assumption | (with_reducible apply is_setTile) | (with_reducible apply is_teHead) | (with_reducible apply is_teStart) | (with_reducible apply is_meter) | (split <;> (try (rename_i hq; simp only [↓Prod.ext_iff] at hq; obtain ⟨hf, _⟩ := hq; subst hf))))

theorem is_fetchGroup {kk : Kept} {s : State} {p : Nat} {o : TeOp} {b : Bool} (hk : Is kk s) : Is kk (fetchGroup s p o b).1 := by
  unfold fetchGroup
  try dsimp only
  repeat' (first | with_reducible assumption | (with_reducible apply is_readCore) | (with_reducible apply is_takeWords) | (with_reducible apply is_readParts) | (with_reducible apply is_meter) | (intro _; try dsimp only) | (split <;> (try (rename_i hq; simp only [↓Prod.ext_iff] at hq; obtain ⟨hf, _⟩ := hq; subst hf))))

theorem is_execTeBlockLoad {kk : Kept} {core : Nat} {s : State} {tR : State} (he : execTeBlockLoad core s = .next tR) (hk
    : Is kk s) : Is kk tR := by
  unfold execTeBlockLoad at he
  with_reducible refine is_onUnit he ?_
  clear he
  try dsimp only
  repeat' (first | with_reducible assumption | (with_reducible apply is_modCore) | (with_reducible apply is_modTe) | (with_reducible apply is_fetchGroup) | (with_reducible apply is_meter) | (split <;> (try (rename_i hq; simp only [↓Prod.ext_iff] at hq; obtain ⟨hf, _⟩ := hq; subst hf))))

theorem is_endBad {kk : Kept} {s : State} {p i : Nat} {o : TeOp} {f : Nat × W64} (hk : Is kk s) : Is kk (endBad s p i o f) := by
  unfold endBad
  try dsimp only
  repeat' (first | with_reducible assumption | (with_reducible apply is_modTe) | (with_reducible apply is_setTile))

theorem is_execTeKblockStep {kk : Kept} {core : Nat} {s : State} {tR : State} (he : execTeKblockStep core s = .next tR) (hk
    : Is kk s) : Is kk tR := by
  unfold execTeKblockStep at he
  with_reducible refine is_onUnit he ?_
  clear he
  try dsimp only
  repeat' (first | with_reducible assumption | (with_reducible apply is_modCore) | (with_reducible apply is_modTe) | (with_reducible apply is_setTile) | (with_reducible apply is_endBad) | (with_reducible apply is_meter) | split)

theorem is_sendContribution {kk : Kept} {s : State} {p i : Nat} {o : TeOp} {l : List Byte} {poison : Bool} (hk : Is kk s)
    : Is kk (sendContribution s p i o l poison) := by
  unfold sendContribution
  try dsimp only
  repeat' (first | with_reducible assumption | (with_reducible apply is_sendCells) | (with_reducible apply is_modTe))

theorem is_deliverTile {kk : Kept} {s : State} {p i : Nat} {o : TeOp} {l : List Byte} {bad : Bool} (hk : Is kk s)
    : Is kk (deliverTile s p i o l bad) := by
  unfold deliverTile
  try dsimp only
  repeat' (first | with_reducible assumption | (with_reducible apply is_modCore) | (with_reducible apply is_putWords) | (with_reducible apply is_modTe) | (with_reducible apply is_sendContribution) | (with_reducible apply is_meter) | split)

theorem is_drainTile {kk : Kept} {s : State} {p i : Nat} {o : TeOp} (hk : Is kk s) : Is kk (drainTile s p i o) := by
  unfold drainTile
  try dsimp only
  repeat' (first | with_reducible assumption | (with_reducible apply is_modCore) | (with_reducible apply is_coreEvent) | (with_reducible apply is_trapOp) | (with_reducible apply is_modTe) | (with_reducible apply is_setTile) | (with_reducible apply is_deliverTile) | (with_reducible apply is_meter) | split)

theorem is_execTeDrain {kk : Kept} {core : Nat} {s : State} {tR : State} (he : execTeDrain core s = .next tR) (hk : Is kk s)
    : Is kk tR := by
  unfold execTeDrain at he
  with_reducible refine is_onUnit he ?_
  clear he
  try dsimp only
  repeat' (first | with_reducible assumption | (with_reducible apply is_teHead) | (with_reducible apply is_teStart) | (with_reducible apply is_sendContribution) | (with_reducible apply is_drainTile) | (with_reducible apply is_meter) | (split <;> (try (rename_i hq; simp only [↓Prod.ext_iff] at hq; obtain ⟨hf, _⟩ := hq; subst hf))))

theorem is_clearAfter {kk : Kept} {s : State} {p : Nat} {o : TeOp} (hk : Is kk s) : Is kk (clearAfter s p o) := by
  unfold clearAfter
  try dsimp only
  repeat' (first | with_reducible assumption | (with_reducible apply is_setTile) | (with_reducible apply is_meter) | (split <;> (try (rename_i hq; simp only [↓Prod.ext_iff] at hq; obtain ⟨hf, _⟩ := hq; subst hf))))

theorem is_execTeOpComplete {kk : Kept} {core : Nat} {s : State} {tR : State} (he : execTeOpComplete core s = .next tR) (hk
    : Is kk s) : Is kk tR := by
  unfold execTeOpComplete at he
  with_reducible refine is_onUnit he ?_
  clear he
  try dsimp only
  repeat' (first | with_reducible assumption | (with_reducible apply is_modCore) | (with_reducible apply is_trapOp) | (with_reducible apply is_opDone) | (with_reducible apply is_jobCheckAt) | (with_reducible apply is_reportFlags) | (with_reducible apply is_clearAfter) | (with_reducible apply is_meter) | split)

end Sys2Proof.Machine
end

