-- ==== Sys2Proof/Laws/KeptVector.lean ====
section
/-! SUPPORT. One lemma per operation of Machine/Vector.lean: it keeps what `Kept` lists, or only ages it. -/

namespace Sys2Proof.Machine

theorem is_vRead {kk : Kept} {x : VCtx} {w : Work} {kind a n : Nat} (hk : Is kk w.s) : Is kk (vRead x w kind a n).1.s := by
  unfold vRead
  try dsimp only
  repeat' (first | with_reducible assumption | (with_reducible apply is_readCore) | (with_reducible apply is_readStore) | (with_reducible apply is_meter) | (split <;> (try (rename_i hq; simp only [↓Prod.ext_iff] at hq; obtain ⟨hf, _⟩ := hq; subst hf))))

theorem is_vWrite {kk : Kept} {x : VCtx} {w : Work} {kind a : Nat} {l : List Byte} (hk : Is kk w.s)
    : Is kk (vWrite x w kind a l).s := by
  unfold vWrite
  try dsimp only
  repeat' (first | with_reducible assumption | (with_reducible apply is_modCore))

theorem is_getAt {kk : Kept} {x : VCtx} {w : Work} {i rowLen n : Nat} (hk : Is kk w.s) : Is kk (getAt x w i rowLen n).1.s := by
  unfold getAt
  try dsimp only
  repeat' (first | with_reducible assumption | (with_reducible apply is_vRead) | (with_reducible apply is_meter) | split)

theorem is_getAll {kk : Kept} {x : VCtx} {i rowLen : Nat} {ns : List Nat} {w : Work} (hk : Is kk w.s)
    : Is kk (getAll x i rowLen ns w).1.s := by
  unfold getAll
  try dsimp only
  repeat' (first | with_reducible assumption | (with_reducible apply is_getAt) | (with_reducible apply is_foldl_fst_s; intro _ _ _))

theorem is_getWords {kk : Kept} {x : VCtx} {i rowLen : Nat} {ns : List Nat} {w : Work} (hk : Is kk w.s)
    : Is kk (getWords x i rowLen ns w).1.s := by
  unfold getWords
  try dsimp only
  repeat' (first | with_reducible assumption | (with_reducible apply is_getAll))

theorem is_putAll {kk : Kept} {x : VCtx} {i rowLen : Nat} {l : List (Nat × Nat)} {w : Work} (hk : Is kk w.s)
    : Is kk (putAll x i rowLen l w).s := by
  unfold putAll
  try dsimp only
  repeat' (first | with_reducible assumption | (with_reducible apply is_vWrite) | (with_reducible apply is_foldl_s; intro _ _ _) | (with_reducible apply is_meter) | split)

theorem is_noteRes {kk : Kept} {n : Nat} {r : Res} {w : Work} (hk : Is kk w.s) : Is kk (noteRes n r w).s := by
  unfold noteRes
  try dsimp only
  repeat' (with_reducible assumption)

theorem is_putRes {kk : Kept} {x : VCtx} {rowLen : Nat} {l : List (Nat × Nat × Res)} {w : Work} (hk : Is kk w.s)
    : Is kk (putRes x rowLen l w).s := by
  unfold putRes
  try dsimp only
  repeat' (first | with_reducible assumption | (with_reducible apply is_putAll) | (with_reducible apply is_noteRes) | (with_reducible apply is_foldl_s; intro _ _ _))

theorem is_overGroups {kk : Kept} {f : List Nat → Work → Work} {gs : List (List Nat)} {w : Work} (hk : Is kk w.s)
    (hf : ∀ (z0 : List Nat) (z1 : Work), Is kk z1.s → Is kk (f z0 z1).s) : Is kk (overGroups f gs w).s := by
  unfold overGroups
  try dsimp only
  repeat' (first | with_reducible assumption | (with_reducible apply hf) | (with_reducible apply is_foldl_s; intro _ _ _) | (with_reducible apply is_meter) | split)

theorem is_doElems {kk : Kept} {x : VCtx} {w : Work} (hk : Is kk w.s) : Is kk (doElems x w).s := by
  unfold doElems
  try dsimp only
  repeat' (first | with_reducible assumption | (with_reducible apply is_getWords) | (with_reducible apply is_putRes) | (with_reducible apply is_overGroups) | (with_reducible apply is_meter) | (intro _; try dsimp only))

theorem is_doRowsGo {kk : Kept} {x : VCtx} {y1 : List (List Nat)} {y2 : Nat} {y3 : List W32} {y4 : List W32} {y5 : Work} (hk
    : Is kk y5.s) : Is kk (doRowsGo x y1 y2 y3 y4 y5).s := by
  induction y1 generalizing y5 y2 y3 y4 with
  | nil => (unfold doRowsGo; (try dsimp only); repeat' (with_reducible assumption))
  | cons z zs ih => (unfold doRowsGo; (try dsimp only); repeat' (first | with_reducible assumption | (with_reducible apply ih) | (with_reducible apply is_getWords) | (with_reducible apply is_putRes) | (with_reducible apply is_meter) | split))

theorem is_doRows {kk : Kept} {x : VCtx} {w : Work} (hk : Is kk w.s) : Is kk (doRows x w).s := by
  unfold doRows
  try dsimp only
  repeat' (first | with_reducible assumption | (with_reducible apply is_doRowsGo))

theorem is_normGroup {kk : Kept} {x : VCtx} {g : List Nat} {st : List (Nat × W32 × W32)} {w : Work} (hk : Is kk w.s) :
    Is kk (normGroup x g st w).1.s := by
  unfold normGroup
  extract_lets rl eps
  split
  rename_i w1 new h1
  have hw : Is kk w1.s := by
    refine (congrArg (fun q => Is kk q.1.s) h1).mp (is_foldl_fst_s _ _ _ ?_ hk)
    intro _ _ h
    exact is_getWords h
  dsimp only
  split
  · exact is_getWords (is_getWords (is_getWords hw))
  · exact is_putRes (is_getWords (is_getWords (is_getWords hw)))

theorem is_doNormGo {kk : Kept} {x : VCtx} {y1 : List (List Nat)} {y2 : List (Nat × W32 × W32)} {y3 : Work} (hk : Is kk y3.s) :
    Is kk (doNormGo x y1 y2 y3).s := by
  induction y1 generalizing y3 y2 with
  | nil => exact hk
  | cons g gs ih =>
    unfold doNormGo
    extract_lets r
    have hr : Is kk r.1.s := is_normGroup hk
    split
    · exact hr
    · exact ih hr

theorem is_doNorm {kk : Kept} {x : VCtx} {w : Work} (hk : Is kk w.s) : Is kk (doNorm x w).s := by
  unfold doNorm
  try dsimp only
  repeat' (first | with_reducible assumption | (with_reducible apply is_doNormGo))

theorem is_putPanel {kk : Kept} {x : VCtx} {l : List Byte} {w : Work} (hk : Is kk w.s) : Is kk (putPanel x l w).s := by
  unfold putPanel
  try dsimp only
  repeat' (first | with_reducible assumption | (with_reducible apply is_vWrite) | (with_reducible apply is_meter) | split)

theorem is_quantFeed {kk : Kept} {x : VCtx} {vals : List W32} {w : Work} (hk : Is kk w.s) : Is kk (quantFeed x vals w).s := by
  unfold quantFeed
  try dsimp only
  repeat' (first | with_reducible assumption | (with_reducible apply is_putPanel) | (with_reducible apply is_foldl_s; intro _ _ _))

theorem is_quantGroups {kk : Kept} {x : VCtx} {w : Work} (hk : Is kk w.s) : Is kk (quantGroups x w).s := by
  unfold quantGroups
  try dsimp only
  repeat' (first | with_reducible assumption | (with_reducible apply is_getWords) | (with_reducible apply is_overGroups) | (with_reducible apply is_quantFeed) | (with_reducible apply is_meter) | (intro _; try dsimp only) | split)

theorem is_quantising {kk : Kept} {x : VCtx} {run : Work → Work} {w : Work} (hk : Is kk w.s)
    (hrun : ∀ (z0 : Work), Is kk z0.s → Is kk (run z0).s) : Is kk (quantising x run w).s := by
  unfold quantising
  try dsimp only
  repeat' (first | with_reducible assumption | (with_reducible apply hrun) | (with_reducible apply is_modCore) | (with_reducible apply is_meter) | split)

theorem is_doQuant {kk : Kept} {x : VCtx} {w : Work} (hk : Is kk w.s) : Is kk (doQuant x w).s := by
  unfold doQuant
  try dsimp only
  repeat' (first | with_reducible assumption | (with_reducible apply is_quantGroups) | (with_reducible apply is_quantising))

theorem is_panelGroups {kk : Kept} {x : VCtx} {kind : Nat} {y1 : Nat} {y2 : Nat} {y3 : Work} {y4 : List (Nat × Nat)} (hk
    : Is kk y3.s) : Is kk (panelGroups x kind y1 y2 y3 y4).1.s := by
  induction y1 generalizing y3 y2 y4 with
  | zero => (unfold panelGroups; (try dsimp only); repeat' (with_reducible assumption))
  | succ n ih => (unfold panelGroups; (try dsimp only); repeat' (first | with_reducible assumption | (with_reducible apply ih) | (with_reducible apply is_vRead) | (with_reducible apply is_meter) | split))

theorem is_readBlock {kk : Kept} {x : VCtx} {kind r : Nat} {g : Nat × Nat} {w : Work} (hk : Is kk w.s)
    : Is kk (readBlock x kind r g w).1.s := by
  unfold readBlock
  try dsimp only
  repeat' (first | with_reducible assumption | (with_reducible apply is_vRead) | (with_reducible apply is_meter) | split)

theorem is_doDequant {kk : Kept} {x : VCtx} {w : Work} (hk : Is kk w.s) : Is kk (doDequant x w).s := by
  unfold doDequant
  try dsimp only
  repeat' (first | with_reducible assumption | (with_reducible apply is_putRes) | (with_reducible apply is_overGroups) | (with_reducible apply is_panelGroups) | (with_reducible apply is_readBlock) | (with_reducible apply is_foldl_fst_s; intro _ _ _) | (with_reducible apply is_meter) | (intro _; try dsimp only) | (split <;> (try (rename_i hq; simp only [↓Prod.ext_iff] at hq; obtain ⟨hf, _⟩ := hq; subst hf))))

theorem is_indexFault {kk : Kept} {x : VCtx} {table : Nat} {i : Int} {w : Work} (hk : Is kk w.s)
    : Is kk (indexFault x table i w).s := by
  unfold indexFault
  try dsimp only
  repeat' (with_reducible assumption)

theorem is_doGather {kk : Kept} {x : VCtx} {w : Work} (hk : Is kk w.s) : Is kk (doGather x w).s := by
  unfold doGather
  try dsimp only
  repeat' (first | with_reducible assumption | (with_reducible apply is_getWords) | (with_reducible apply is_putAll) | (with_reducible apply is_overGroups) | (with_reducible apply is_indexFault) | (with_reducible apply is_meter) | (intro _; try dsimp only) | split)

theorem is_doScatter {kk : Kept} {x : VCtx} {w : Work} (hk : Is kk w.s) : Is kk (doScatter x w).s := by
  unfold doScatter
  try dsimp only
  repeat' (first | with_reducible assumption | (with_reducible apply is_getAt) | (with_reducible apply is_getWords) | (with_reducible apply is_putAll) | (with_reducible apply is_putRes) | (with_reducible apply is_overGroups) | (with_reducible apply is_indexFault) | (with_reducible apply is_foldl_s; intro _ _ _) | (with_reducible apply is_meter) | (intro _; try dsimp only) | split)

theorem is_doGf {kk : Kept} {x : VCtx} {w : Work} (hk : Is kk w.s) : Is kk (doGf x w).s := by
  unfold doGf
  try dsimp only
  repeat' (first | with_reducible assumption | (with_reducible apply is_getAll) | (with_reducible apply is_putAll) | (with_reducible apply is_overGroups) | (with_reducible apply is_meter) | (intro _; try dsimp only) | split)

theorem is_setSlot {kk : Kept} {s : State} {p i : Nat} {v : Slot} (hk : Is kk s) : Is kk (setSlot s p i v) := by
  unfold setSlot
  try dsimp only
  repeat' (first | with_reducible assumption | (with_reducible apply is_modCore))

theorem is_smaxOf {kk : Kept} {x : VCtx} {r : Nat} {w : Work} (hk : Is kk w.s) : Is kk (smaxOf x r w).1.s := by
  unfold smaxOf
  try dsimp only
  repeat' (first | with_reducible assumption | (with_reducible apply is_getWords))

theorem is_smaxPut {kk : Kept} {x : VCtx} {e : Nat × SmaxRow} {w : Work} (hk : Is kk w.s) : Is kk (smaxPut x e w).s := by
  unfold smaxPut
  try dsimp only
  repeat' (first | with_reducible assumption | (with_reducible apply is_putAll) | (with_reducible apply is_setSlot) | (with_reducible apply is_meter) | split)

theorem is_smaxGroup {kk : Kept} {x : VCtx} {g : List Nat} {st : List (Nat × SmaxRow)} {w : Work} (hk : Is kk w.s) :
    Is kk (smaxGroup x g st w).1.s := by
  unfold smaxGroup
  extract_lets rl
  split
  rename_i w1 new h1
  have hw : Is kk w1.s := by
    refine (congrArg (fun q => Is kk q.1.s) h1).mp (is_foldl_fst_s _ _ _ ?_ hk)
    intro _ _ h
    exact is_smaxOf h
  split
  · exact hw
  · extract_lets fresh w2 p
    have h2 : Is kk w2.s := is_foldl_s _ _ _ (fun _ _ h => is_smaxPut h) hw
    clear_value w2
    dsimp only
    split
    · exact is_quantFeed h2
    · exact is_putAll h2

theorem is_smaxGo {kk : Kept} {x : VCtx} {y1 : List (List Nat)} {y2 : List (Nat × SmaxRow)} {y3 : Work} (hk : Is kk y3.s) :
    Is kk (smaxGo x y1 y2 y3).s := by
  induction y1 generalizing y3 y2 with
  | nil => exact hk
  | cons g gs ih =>
    unfold smaxGo
    extract_lets r
    have hr : Is kk r.1.s := is_smaxGroup hk
    split
    · exact hr
    · exact ih hr

theorem is_doSmax {kk : Kept} {x : VCtx} {w : Work} (hk : Is kk w.s) : Is kk (doSmax x w).s := by
  unfold doSmax
  try dsimp only
  repeat' (first | with_reducible assumption | (with_reducible apply is_quantising) | (with_reducible apply is_smaxGo) | (with_reducible apply is_meter) | split)

theorem is_doFinal {kk : Kept} {x : VCtx} {w : Work} (hk : Is kk w.s) : Is kk (doFinal x w).s := by
  unfold doFinal
  try dsimp only
  repeat' (first | with_reducible assumption | (with_reducible apply is_putRes) | (with_reducible apply is_overGroups) | (with_reducible apply is_setSlot) | (with_reducible apply is_meter) | (intro _; try dsimp only) | split)

theorem is_posOfRow {kk : Kept} {x : VCtx} {r : Nat} {w : Work} (hk : Is kk w.s) : Is kk (posOfRow x r w).1.s := by
  unfold posOfRow
  try dsimp only
  repeat' (first | with_reducible assumption | (with_reducible apply is_getAt) | (with_reducible apply is_meter) | split)

theorem is_angleBad {kk : Kept} {x : VCtx} {w : Work} (hk : Is kk w.s) : Is kk (angleBad x w).1.s := by
  unfold angleBad
  try dsimp only
  repeat' (first | with_reducible assumption | (with_reducible apply is_getAll) | (with_reducible apply is_meter) | split)

theorem is_doAngle {kk : Kept} {x : VCtx} {w : Work} (hk : Is kk w.s) : Is kk (doAngle x w).s := by
  unfold doAngle
  try dsimp only
  repeat' (first | with_reducible assumption | (with_reducible apply is_getAll) | (with_reducible apply is_getWords) | (with_reducible apply is_putRes) | (with_reducible apply is_overGroups) | (with_reducible apply is_posOfRow) | (with_reducible apply is_angleBad) | (with_reducible apply is_foldl_fst_s; intro _ _ _) | (with_reducible apply is_meter) | (intro _; try dsimp only) | (split <;> (try (rename_i hq; simp only [↓Prod.ext_iff] at hq; obtain ⟨hf, _⟩ := hq; subst hf))))

theorem is_vWork {kk : Kept} {x : VCtx} {w : Work} (hk : Is kk w.s) : Is kk (vWork x w).s := by
  unfold vWork
  try dsimp only
  repeat' (first | with_reducible assumption | (with_reducible apply is_doElems) | (with_reducible apply is_doRows) | (with_reducible apply is_doNorm) | (with_reducible apply is_doQuant) | (with_reducible apply is_doDequant) | (with_reducible apply is_doGather) | (with_reducible apply is_doScatter) | (with_reducible apply is_doGf) | (with_reducible apply is_doSmax) | (with_reducible apply is_doFinal) | (with_reducible apply is_doAngle) | (with_reducible apply is_meter) | split)

theorem is_setCur {kk : Kept} {s : State} {p : Nat} {o : Option VeOp} (hk : Is kk s) : Is kk (setCur s p o) := by
  unfold setCur
  try dsimp only
  repeat' (first | with_reducible assumption | (with_reducible apply is_modCore))

theorem is_veEmit {kk : Kept} {s : State} {p : Nat} {o : VeOp} (hk : Is kk s) : Is kk (veEmit s p o) := by
  unfold veEmit
  try dsimp only
  repeat' (first | with_reducible assumption | (simp only [↓is_mk_iff]; refine ⟨is_and ?_, ?_⟩) | (simp only [↓isM_mk_iff]; refine isM_and ?_) | (with_reducible apply is_vWork) | (with_reducible apply is_setCur) | (with_reducible apply is_foldl; intro _ _ _) | (with_reducible apply is_foldl_fst; intro _ _ _) | (with_reducible apply is_foldl_s; intro _ _ _) | (with_reducible apply is_foldl_fst_s; intro _ _ _) | (with_reducible apply is_iter; intro _ _) | (with_reducible apply isM_foldl; intro _ _ _) | (with_reducible apply is_meter) | (intro _; try dsimp only) | (split <;> (try (rename_i hq; simp only [↓Prod.ext_iff] at hq; obtain ⟨hf, _⟩ := hq; subst hf))) | (dsimp only [id]))

theorem is_veCompute {kk : Kept} {s : State} {p : Nat} {o : VeOp} (hk : Is kk s) : Is kk (veCompute s p o) := by
  unfold veCompute
  try dsimp only
  repeat' (first | with_reducible assumption | (with_reducible apply is_modCore) | (with_reducible apply is_useFree) | (with_reducible apply is_vWork) | (with_reducible apply is_setCur) | (with_reducible apply is_meter) | split)

theorem is_veStart {kk : Kept} {s : State} {p : Nat} {op : IssueOp} {rest : List IssueOp} {d : W512} (hk : Is kk s) :
    Is kk (veStart s p op rest d) := by
  unfold veStart
  extract_lets s2 o
  have h2 : Is kk s2 := is_stir (is_modCore (is_useFree hk))
  clear_value s2 o
  split
  · exact is_setCur h2
  · refine is_ite (is_setCur h2) ?_
    exact is_ite (is_veCompute h2) (is_setCur h2)

theorem is_veRow {kk : Kept} {p : Nat} {prims : Nat → Bool} {s : State} {tR : State} (he : veRow p prims s = .next tR) (hk : Is kk s) : Is kk tR := by
  unfold veRow at he
  with_reducible refine is_onUnit he ?_
  clear he
  try dsimp only
  repeat' (first | with_reducible assumption | (simp only [↓is_mk_iff]; refine ⟨is_and ?_, ?_⟩) | (simp only [↓isM_mk_iff]; refine isM_and ?_) | (with_reducible apply is_readDesc) | (with_reducible apply is_veEmit) | (with_reducible apply is_veCompute) | (with_reducible apply is_veStart) | (with_reducible apply is_foldl; intro _ _ _) | (with_reducible apply is_foldl_fst; intro _ _ _) | (with_reducible apply is_foldl_s; intro _ _ _) | (with_reducible apply is_foldl_fst_s; intro _ _ _) | (with_reducible apply is_iter; intro _ _) | (with_reducible apply isM_foldl; intro _ _ _) | (with_reducible apply is_meter) | (intro _; try dsimp only) | (split <;> (try (rename_i hq; simp only [↓Prod.ext_iff] at hq; obtain ⟨hf, _⟩ := hq; subst hf))) | (dsimp only [id]))

theorem is_execAdd {kk : Kept} {core : Nat} {s : State} {tR : State} (he : execAdd core s = .next tR) (hk : Is kk s)
    : Is kk tR := by
  unfold execAdd at he
  repeat' (first | with_reducible assumption | (with_reducible apply is_veRow (by with_reducible assumption)))

theorem is_execSub {kk : Kept} {core : Nat} {s : State} {tR : State} (he : execSub core s = .next tR) (hk : Is kk s)
    : Is kk tR := by
  unfold execSub at he
  repeat' (first | with_reducible assumption | (with_reducible apply is_veRow (by with_reducible assumption)))

theorem is_execMul {kk : Kept} {core : Nat} {s : State} {tR : State} (he : execMul core s = .next tR) (hk : Is kk s)
    : Is kk tR := by
  unfold execMul at he
  repeat' (first | with_reducible assumption | (with_reducible apply is_veRow (by with_reducible assumption)))

theorem is_execFma {kk : Kept} {core : Nat} {s : State} {tR : State} (he : execFma core s = .next tR) (hk : Is kk s)
    : Is kk tR := by
  unfold execFma at he
  repeat' (first | with_reducible assumption | (with_reducible apply is_veRow (by with_reducible assumption)))

theorem is_execMax {kk : Kept} {core : Nat} {s : State} {tR : State} (he : execMax core s = .next tR) (hk : Is kk s)
    : Is kk tR := by
  unfold execMax at he
  repeat' (first | with_reducible assumption | (with_reducible apply is_veRow (by with_reducible assumption)))

theorem is_execMin {kk : Kept} {core : Nat} {s : State} {tR : State} (he : execMin core s = .next tR) (hk : Is kk s)
    : Is kk tR := by
  unfold execMin at he
  repeat' (first | with_reducible assumption | (with_reducible apply is_veRow (by with_reducible assumption)))

theorem is_execDiv {kk : Kept} {core : Nat} {s : State} {tR : State} (he : execDiv core s = .next tR) (hk : Is kk s)
    : Is kk tR := by
  unfold execDiv at he
  repeat' (first | with_reducible assumption | (with_reducible apply is_veRow (by with_reducible assumption)))

theorem is_execSqrt {kk : Kept} {core : Nat} {s : State} {tR : State} (he : execSqrt core s = .next tR) (hk : Is kk s)
    : Is kk tR := by
  unfold execSqrt at he
  repeat' (first | with_reducible assumption | (with_reducible apply is_veRow (by with_reducible assumption)))

theorem is_execRsqrt {kk : Kept} {core : Nat} {s : State} {tR : State} (he : execRsqrt core s = .next tR) (hk : Is kk s)
    : Is kk tR := by
  unfold execRsqrt at he
  repeat' (first | with_reducible assumption | (with_reducible apply is_veRow (by with_reducible assumption)))

theorem is_execF2i {kk : Kept} {core : Nat} {s : State} {tR : State} (he : execF2i core s = .next tR) (hk : Is kk s)
    : Is kk tR := by
  unfold execF2i at he
  repeat' (first | with_reducible assumption | (with_reducible apply is_veRow (by with_reducible assumption)))

theorem is_execI2f {kk : Kept} {core : Nat} {s : State} {tR : State} (he : execI2f core s = .next tR) (hk : Is kk s)
    : Is kk tR := by
  unfold execI2f at he
  repeat' (first | with_reducible assumption | (with_reducible apply is_veRow (by with_reducible assumption)))

theorem is_execIadd {kk : Kept} {core : Nat} {s : State} {tR : State} (he : execIadd core s = .next tR) (hk : Is kk s)
    : Is kk tR := by
  unfold execIadd at he
  repeat' (first | with_reducible assumption | (with_reducible apply is_veRow (by with_reducible assumption)))

theorem is_execIsub {kk : Kept} {core : Nat} {s : State} {tR : State} (he : execIsub core s = .next tR) (hk : Is kk s)
    : Is kk tR := by
  unfold execIsub at he
  repeat' (first | with_reducible assumption | (with_reducible apply is_veRow (by with_reducible assumption)))

theorem is_execImul {kk : Kept} {core : Nat} {s : State} {tR : State} (he : execImul core s = .next tR) (hk : Is kk s)
    : Is kk tR := by
  unfold execImul at he
  repeat' (first | with_reducible assumption | (with_reducible apply is_veRow (by with_reducible assumption)))

theorem is_execImax {kk : Kept} {core : Nat} {s : State} {tR : State} (he : execImax core s = .next tR) (hk : Is kk s)
    : Is kk tR := by
  unfold execImax at he
  repeat' (first | with_reducible assumption | (with_reducible apply is_veRow (by with_reducible assumption)))

theorem is_execImin {kk : Kept} {core : Nat} {s : State} {tR : State} (he : execImin core s = .next tR) (hk : Is kk s)
    : Is kk tR := by
  unfold execImin at he
  repeat' (first | with_reducible assumption | (with_reducible apply is_veRow (by with_reducible assumption)))

theorem is_execShl {kk : Kept} {core : Nat} {s : State} {tR : State} (he : execShl core s = .next tR) (hk : Is kk s)
    : Is kk tR := by
  unfold execShl at he
  repeat' (first | with_reducible assumption | (with_reducible apply is_veRow (by with_reducible assumption)))

theorem is_execShra {kk : Kept} {core : Nat} {s : State} {tR : State} (he : execShra core s = .next tR) (hk : Is kk s)
    : Is kk tR := by
  unfold execShra at he
  repeat' (first | with_reducible assumption | (with_reducible apply is_veRow (by with_reducible assumption)))

theorem is_execAnd {kk : Kept} {core : Nat} {s : State} {tR : State} (he : execAnd core s = .next tR) (hk : Is kk s)
    : Is kk tR := by
  unfold execAnd at he
  repeat' (first | with_reducible assumption | (with_reducible apply is_veRow (by with_reducible assumption)))

theorem is_execOr {kk : Kept} {core : Nat} {s : State} {tR : State} (he : execOr core s = .next tR) (hk : Is kk s)
    : Is kk tR := by
  unfold execOr at he
  repeat' (first | with_reducible assumption | (with_reducible apply is_veRow (by with_reducible assumption)))

theorem is_execXor {kk : Kept} {core : Nat} {s : State} {tR : State} (he : execXor core s = .next tR) (hk : Is kk s)
    : Is kk tR := by
  unfold execXor at he
  repeat' (first | with_reducible assumption | (with_reducible apply is_veRow (by with_reducible assumption)))

theorem is_execExp {kk : Kept} {core : Nat} {s : State} {tR : State} (he : execExp core s = .next tR) (hk : Is kk s)
    : Is kk tR := by
  unfold execExp at he
  repeat' (first | with_reducible assumption | (with_reducible apply is_veRow (by with_reducible assumption)))

theorem is_execExp2 {kk : Kept} {core : Nat} {s : State} {tR : State} (he : execExp2 core s = .next tR) (hk : Is kk s)
    : Is kk tR := by
  unfold execExp2 at he
  repeat' (first | with_reducible assumption | (with_reducible apply is_veRow (by with_reducible assumption)))

theorem is_execLog {kk : Kept} {core : Nat} {s : State} {tR : State} (he : execLog core s = .next tR) (hk : Is kk s)
    : Is kk tR := by
  unfold execLog at he
  repeat' (first | with_reducible assumption | (with_reducible apply is_veRow (by with_reducible assumption)))

theorem is_execTanh {kk : Kept} {core : Nat} {s : State} {tR : State} (he : execTanh core s = .next tR) (hk : Is kk s)
    : Is kk tR := by
  unfold execTanh at he
  repeat' (first | with_reducible assumption | (with_reducible apply is_veRow (by with_reducible assumption)))

theorem is_execSigmoid {kk : Kept} {core : Nat} {s : State} {tR : State} (he : execSigmoid core s = .next tR) (hk : Is kk s)
    : Is kk tR := by
  unfold execSigmoid at he
  repeat' (first | with_reducible assumption | (with_reducible apply is_veRow (by with_reducible assumption)))

theorem is_execSilu {kk : Kept} {core : Nat} {s : State} {tR : State} (he : execSilu core s = .next tR) (hk : Is kk s)
    : Is kk tR := by
  unfold execSilu at he
  repeat' (first | with_reducible assumption | (with_reducible apply is_veRow (by with_reducible assumption)))

theorem is_execGelu {kk : Kept} {core : Nat} {s : State} {tR : State} (he : execGelu core s = .next tR) (hk : Is kk s)
    : Is kk tR := by
  unfold execGelu at he
  repeat' (first | with_reducible assumption | (with_reducible apply is_veRow (by with_reducible assumption)))

theorem is_execSin {kk : Kept} {core : Nat} {s : State} {tR : State} (he : execSin core s = .next tR) (hk : Is kk s)
    : Is kk tR := by
  unfold execSin at he
  repeat' (first | with_reducible assumption | (with_reducible apply is_veRow (by with_reducible assumption)))

theorem is_execCos {kk : Kept} {core : Nat} {s : State} {tR : State} (he : execCos core s = .next tR) (hk : Is kk s)
    : Is kk tR := by
  unfold execCos at he
  repeat' (first | with_reducible assumption | (with_reducible apply is_veRow (by with_reducible assumption)))

theorem is_execRsum {kk : Kept} {core : Nat} {s : State} {tR : State} (he : execRsum core s = .next tR) (hk : Is kk s)
    : Is kk tR := by
  unfold execRsum at he
  repeat' (first | with_reducible assumption | (with_reducible apply is_veRow (by with_reducible assumption)))

theorem is_execRmax {kk : Kept} {core : Nat} {s : State} {tR : State} (he : execRmax core s = .next tR) (hk : Is kk s)
    : Is kk tR := by
  unfold execRmax at he
  repeat' (first | with_reducible assumption | (with_reducible apply is_veRow (by with_reducible assumption)))

theorem is_execRmin {kk : Kept} {core : Nat} {s : State} {tR : State} (he : execRmin core s = .next tR) (hk : Is kk s)
    : Is kk tR := by
  unfold execRmin at he
  repeat' (first | with_reducible assumption | (with_reducible apply is_veRow (by with_reducible assumption)))

theorem is_execRsumsq {kk : Kept} {core : Nat} {s : State} {tR : State} (he : execRsumsq core s = .next tR) (hk : Is kk s)
    : Is kk tR := by
  unfold execRsumsq at he
  repeat' (first | with_reducible assumption | (with_reducible apply is_veRow (by with_reducible assumption)))

theorem is_execRdot {kk : Kept} {core : Nat} {s : State} {tR : State} (he : execRdot core s = .next tR) (hk : Is kk s)
    : Is kk tR := by
  unfold execRdot at he
  repeat' (first | with_reducible assumption | (with_reducible apply is_veRow (by with_reducible assumption)))

theorem is_execLnorm {kk : Kept} {core : Nat} {s : State} {tR : State} (he : execLnorm core s = .next tR) (hk : Is kk s)
    : Is kk tR := by
  unfold execLnorm at he
  repeat' (first | with_reducible assumption | (with_reducible apply is_veRow (by with_reducible assumption)))

theorem is_execRmsnorm {kk : Kept} {core : Nat} {s : State} {tR : State} (he : execRmsnorm core s = .next tR) (hk : Is kk s)
    : Is kk tR := by
  unfold execRmsnorm at he
  repeat' (first | with_reducible assumption | (with_reducible apply is_veRow (by with_reducible assumption)))

theorem is_execQuant {kk : Kept} {core : Nat} {s : State} {tR : State} (he : execQuant core s = .next tR) (hk : Is kk s)
    : Is kk tR := by
  unfold execQuant at he
  repeat' (first | with_reducible assumption | (with_reducible apply is_veRow (by with_reducible assumption)))

theorem is_execDequant {kk : Kept} {core : Nat} {s : State} {tR : State} (he : execDequant core s = .next tR) (hk : Is kk s)
    : Is kk tR := by
  unfold execDequant at he
  repeat' (first | with_reducible assumption | (with_reducible apply is_veRow (by with_reducible assumption)))

theorem is_execCmp {kk : Kept} {core : Nat} {s : State} {tR : State} (he : execCmp core s = .next tR) (hk : Is kk s)
    : Is kk tR := by
  unfold execCmp at he
  repeat' (first | with_reducible assumption | (with_reducible apply is_veRow (by with_reducible assumption)))

theorem is_execSelect {kk : Kept} {core : Nat} {s : State} {tR : State} (he : execSelect core s = .next tR) (hk : Is kk s)
    : Is kk tR := by
  unfold execSelect at he
  repeat' (first | with_reducible assumption | (with_reducible apply is_veRow (by with_reducible assumption)))

theorem is_execVeGather {kk : Kept} {core : Nat} {s : State} {tR : State} (he : execVeGather core s = .next tR) (hk : Is kk s)
    : Is kk tR := by
  unfold execVeGather at he
  repeat' (first | with_reducible assumption | (with_reducible apply is_veRow (by with_reducible assumption)))

theorem is_execVeScatter {kk : Kept} {core : Nat} {s : State} {tR : State} (he : execVeScatter core s = .next tR) (hk : Is kk s)
    : Is kk tR := by
  unfold execVeScatter at he
  repeat' (first | with_reducible assumption | (with_reducible apply is_veRow (by with_reducible assumption)))

theorem is_execScatterAdd {kk : Kept} {core : Nat} {s : State} {tR : State} (he : execScatterAdd core s = .next tR) (hk
    : Is kk s) : Is kk tR := by
  unfold execScatterAdd at he
  repeat' (first | with_reducible assumption | (with_reducible apply is_veRow (by with_reducible assumption)))

theorem is_execGfmul {kk : Kept} {core : Nat} {s : State} {tR : State} (he : execGfmul core s = .next tR) (hk : Is kk s)
    : Is kk tR := by
  unfold execGfmul at he
  repeat' (first | with_reducible assumption | (with_reducible apply is_veRow (by with_reducible assumption)))

theorem is_execGfmac {kk : Kept} {core : Nat} {s : State} {tR : State} (he : execGfmac core s = .next tR) (hk : Is kk s)
    : Is kk tR := by
  unfold execGfmac at he
  repeat' (first | with_reducible assumption | (with_reducible apply is_veRow (by with_reducible assumption)))

theorem is_execSmaxStep {kk : Kept} {core : Nat} {s : State} {tR : State} (he : execSmaxStep core s = .next tR) (hk : Is kk s)
    : Is kk tR := by
  unfold execSmaxStep at he
  repeat' (first | with_reducible assumption | (with_reducible apply is_veRow (by with_reducible assumption)))

theorem is_execSmaxFinal {kk : Kept} {core : Nat} {s : State} {tR : State} (he : execSmaxFinal core s = .next tR) (hk : Is kk s)
    : Is kk tR := by
  unfold execSmaxFinal at he
  repeat' (first | with_reducible assumption | (with_reducible apply is_veRow (by with_reducible assumption)))

theorem is_execRope {kk : Kept} {core : Nat} {s : State} {tR : State} (he : execRope core s = .next tR) (hk : Is kk s)
    : Is kk tR := by
  unfold execRope at he
  repeat' (first | with_reducible assumption | (with_reducible apply is_veRow (by with_reducible assumption)))

theorem is_execAngle {kk : Kept} {core : Nat} {s : State} {tR : State} (he : execAngle core s = .next tR) (hk : Is kk s)
    : Is kk tR := by
  unfold execAngle at he
  repeat' (first | with_reducible assumption | (with_reducible apply is_veRow (by with_reducible assumption)))

theorem is_execVeOpComplete {kk : Kept} {core : Nat} {s : State} {tR : State} (he : execVeOpComplete core s = .next tR) (hk
    : Is kk s) : Is kk tR := by
  unfold execVeOpComplete at he
  with_reducible refine is_onUnit he ?_
  clear he
  try dsimp only
  repeat' (first | with_reducible assumption | (with_reducible apply is_trapOp) | (with_reducible apply is_opDone) | (with_reducible apply is_jobCheckAt) | (with_reducible apply is_reportFlags) | (with_reducible apply is_setCur) | (with_reducible apply is_meter) | split)

end Sys2Proof.Machine
end

