-- ==== Sys2Proof/Laws/KeptUpdate.lean ====
section
/-! SUPPORT. One lemma per operation of Machine/Update.lean: it keeps what `Kept` lists, or only ages it. -/

namespace Sys2Proof.Machine

theorem is_setGf {kk : Kept} {s : State} {part g off n v : Nat} (hk : Is kk s) : Is kk (setGf s part g off n v) := by
  unfold setGf
  try dsimp only
  repeat' (first | with_reducible assumption | (with_reducible apply is_modPart))

theorem is_startGroup {kk : Kept} {s : State} {part g : Nat} (hk : Is kk s) : Is kk (startGroup s part g) := by
  unfold startGroup
  try dsimp only
  repeat' (first | with_reducible assumption | (with_reducible apply is_modDie) | (with_reducible apply is_setGf) | (with_reducible apply is_meter) | split)

theorem is_takeTouch {kk : Kept} {s : State} {part o n : Nat} {t : State} (he : takeTouch s part o = some (t, n)) (hk : Is kk s)
    : Is kk t := by
  unfold takeTouch at he
  split at he
  · cases he
  · obtain ⟨e, _, h2⟩ := Option.map_eq_some_iff.1 he
    injection h2 with h3 h4
    subst h3
    exact is_setPart hk

theorem is_execUpdateStartWord {kk : Kept} {part group : Nat} {s : State} {tR : State}
    (he : execUpdateStartWord part group s = .next tR) (hk : Is kk s) : Is kk tR := by
  unfold execUpdateStartWord at he
  with_reducible refine is_onUnit he ?_
  clear he
  try dsimp only
  repeat' (first | with_reducible assumption | (with_reducible apply is_setGf) | (with_reducible apply is_startGroup) | (with_reducible apply is_takeTouch (by with_reducible assumption)) | (with_reducible apply is_meter) | split)

theorem is_readSchedule {kk : Kept} {s : State} {part g : Nat} (hk : Is kk s) : Is kk (readSchedule s part g).1 := by
  unfold readSchedule
  try dsimp only
  repeat' (first | with_reducible assumption | (with_reducible apply is_getMem) | (with_reducible apply is_meter) | (split <;> (try (rename_i hq; simp only [↓Prod.ext_iff] at hq; obtain ⟨hf, _⟩ := hq; subst hf))))

theorem is_readF {kk : Kept} {s : State} {part die a n : Nat} (hk : Is kk s) : Is kk (readF s part die a n).1 := by
  unfold readF
  try dsimp only
  repeat' (first | with_reducible assumption | (with_reducible apply is_getMem) | (with_reducible apply is_meter) | (split <;> (try (rename_i hq; simp only [↓Prod.ext_iff] at hq; obtain ⟨hf, _⟩ := hq; subst hf))))

theorem is_readArrays {kk : Kept} {s : State} {part g n : Nat} (hk : Is kk s) : Is kk (readArrays s part g n).1 := by
  unfold readArrays
  try dsimp only
  repeat' (first | with_reducible assumption | (with_reducible apply is_readF) | (with_reducible apply is_meter) | (split <;> (try (rename_i hq; simp only [↓Prod.ext_iff] at hq; obtain ⟨hf, _⟩ := hq; subst hf))))

theorem is_updateRaise {kk : Kept} {s : State} {part n i v : Nat} (hk : Is kk s) : Is kk (updateRaise s part n i v) := by
  unfold updateRaise
  try dsimp only
  repeat' (first | with_reducible assumption | (with_reducible apply is_unitRaise) | (with_reducible apply is_meter) | split)

theorem is_releaseGrad {kk : Kept} {s : State} {part g : Nat} (hk : Is kk s) : Is kk (releaseGrad s part g) := by
  unfold releaseGrad
  try dsimp only
  repeat' (first | with_reducible assumption | (with_reducible apply is_modBucket) | (with_reducible apply is_updateRaise) | (with_reducible apply is_meter) | split)

theorem is_setUpdating {kk : Kept} {s : State} {die : Nat} {u : Option Updating} (hk : Is kk s)
    : Is kk (setUpdating s die u) := by
  unfold setUpdating
  try dsimp only
  repeat' (first | with_reducible assumption | (with_reducible apply is_modDie))

theorem is_decide_ {kk : Kept} {s : State} {die : Nat} {u : Updating} {o : Nat} (hk : Is kk s) : Is kk (decide_ s die u o) := by
  unfold decide_
  try dsimp only
  repeat' (first | with_reducible assumption | (with_reducible apply is_setUpdating))

theorem is_execUpdateGroupStart {kk : Kept} {die : Nat} {s : State} {tR : State} (he : execUpdateGroupStart die s = .next tR)
    (hk : Is kk s) : Is kk tR := by
  unfold execUpdateGroupStart at he
  with_reducible refine is_onUnit he ?_
  clear he
  try dsimp only
  repeat' (first | with_reducible assumption | (with_reducible apply is_setDie) | (with_reducible apply is_postEvent) | (with_reducible apply is_setGf) | (with_reducible apply is_readSchedule) | (with_reducible apply is_releaseGrad) | (with_reducible apply is_setUpdating) | (with_reducible apply is_decide_) | (with_reducible apply is_meter) | (split <;> (try (rename_i hq; simp only [↓Prod.ext_iff] at hq; obtain ⟨hf, _⟩ := hq; subst hf))))

theorem is_execUpdatePass1End {kk : Kept} {die : Nat} {s : State} {tR : State} (he : execUpdatePass1End die s = .next tR) (hk
    : Is kk s) : Is kk tR := by
  unfold execUpdatePass1End at he
  with_reducible refine is_onUnit he ?_
  clear he
  try dsimp only
  repeat' (first | with_reducible assumption | (with_reducible apply is_modPart) | (with_reducible apply is_useFree) | (with_reducible apply is_readArrays) | (with_reducible apply is_updateRaise) | (with_reducible apply is_setUpdating) | (with_reducible apply is_decide_) | (with_reducible apply is_foldl; intro _ _ _) | (with_reducible apply is_meter) | (split <;> (try (rename_i hq; simp only [↓Prod.ext_iff] at hq; obtain ⟨hf, _⟩ := hq; subst hf)) <;> (try (rename_i hq _; simp only [↓Prod.ext_iff] at hq; obtain ⟨hf, _⟩ := hq; subst hf))))

theorem is_execUpdateResumeWord {kk : Kept} {part group : Nat} {s : State} {tR : State}
    (he : execUpdateResumeWord part group s = .next tR) (hk : Is kk s) : Is kk tR := by
  unfold execUpdateResumeWord at he
  with_reducible refine is_onUnit he ?_
  clear he
  try dsimp only
  repeat' (first | with_reducible assumption | (with_reducible apply is_takeTouch (by with_reducible assumption)) | (with_reducible apply is_setUpdating) | (with_reducible apply is_meter) | split)

theorem is_writeF {kk : Kept} {s : State} {part die a : Nat} {l : List W32} (hk : Is kk s) : Is kk (writeF s part die a l) := by
  unfold writeF
  try dsimp only
  repeat' (first | with_reducible assumption | (with_reducible apply is_putMem))

theorem is_writeCopy {kk : Kept} {s : State} {part g tiles : Nat} {w : List W32} (hk : Is kk s)
    : Is kk (writeCopy s part g tiles w) := by
  unfold writeCopy
  try dsimp only
  repeat' (first | with_reducible assumption | (with_reducible apply is_useFree) | (with_reducible apply is_putMem) | (with_reducible apply is_foldl_fst; intro _ _ _) | (with_reducible apply is_meter) | split)

theorem is_sweepWrite {kk : Kept} {s : State} {die : Nat} {u : Updating} {pt : Part} {k : Nat} {a : Arrays} {xs : List W32} (hk
    : Is kk s) : Is kk (sweepWrite s die u pt k a xs) := by
  unfold sweepWrite
  try dsimp only
  repeat' (first | with_reducible assumption | (with_reducible apply is_writeF) | (with_reducible apply is_writeCopy) | (with_reducible apply is_meter) | split)

theorem is_sweep {kk : Kept} {s : State} {die : Nat} {u : Updating} (hk : Is kk s) : Is kk (sweep s die u).1 := by
  unfold sweep
  try dsimp only
  repeat' (first | with_reducible assumption | (with_reducible apply is_readF) | (with_reducible apply is_readArrays) | (with_reducible apply is_sweepWrite) | (with_reducible apply is_foldl; intro _ _ _) | (with_reducible apply is_meter) | (split <;> (try (rename_i hq; simp only [↓Prod.ext_iff] at hq; obtain ⟨hf, _⟩ := hq; subst hf)) <;> (try (rename_i hq _; simp only [↓Prod.ext_iff] at hq; obtain ⟨hf, _⟩ := hq; subst hf))))

theorem is_finishPass2 {kk : Kept} {s : State} {die : Nat} {u : Updating} (hk : Is kk s) : Is kk (finishPass2 s die u) := by
  unfold finishPass2
  try dsimp only
  repeat' (first | with_reducible assumption | (with_reducible apply is_releaseGrad) | (with_reducible apply is_setUpdating) | (with_reducible apply is_sweep))

theorem is_execGradientRelease {kk : Kept} {die : Nat} {s : State} {tR : State} (he : execGradientRelease die s = .next tR) (hk
    : Is kk s) : Is kk tR := by
  unfold execGradientRelease at he
  with_reducible refine is_onUnit he ?_
  clear he
  try dsimp only
  repeat' (first | with_reducible assumption | (with_reducible apply is_finishPass2) | (with_reducible apply is_meter) | split)

theorem is_endUpdate {kk : Kept} {s : State} {die : Nat} {u : Updating} {o : Nat} (hk : Is kk s)
    : Is kk (endUpdate s die u o) := by
  unfold endUpdate
  try dsimp only
  repeat' (first | with_reducible assumption | (with_reducible apply is_jobEvent) | (with_reducible apply is_putMem) | (with_reducible apply is_setGf) | (with_reducible apply is_updateRaise) | (with_reducible apply is_releaseGrad) | (with_reducible apply is_setUpdating) | (with_reducible apply is_meter) | split)

theorem is_execUpdateGroupEnd {kk : Kept} {die : Nat} {s : State} {tR : State} (he : execUpdateGroupEnd die s = .next tR) (hk
    : Is kk s) : Is kk tR := by
  unfold execUpdateGroupEnd at he
  with_reducible refine is_onUnit he ?_
  clear he
  try dsimp only
  repeat' (first | with_reducible assumption | (with_reducible apply is_finishPass2) | (with_reducible apply is_endUpdate) | (with_reducible apply is_meter) | split)

end Sys2Proof.Machine
end

