-- ==== Sys2Proof/Laws/KeptReduction.lean ====
section
/-! SUPPORT. One lemma per operation of Machine/Reduction.lean: it keeps what `Kept` lists, or only ages it. -/

namespace Sys2Proof.Machine

theorem is_logEntry {kk : Kept} {s : State} {tag tile rank kind : Nat} {digest : W32} (hk : Is kk s)
    : Is kk (logEntry s tag tile rank kind digest) := by
  unfold logEntry
  try dsimp only
  repeat' (first | with_reducible assumption | (with_reducible apply is_setBucket) | (with_reducible apply is_putMem) | (with_reducible apply is_meter) | split)

theorem is_bucketEvent {kk : Kept} {s : State} {tag : Nat} {entry : List Byte} (hk : Is kk s)
    : Is kk (bucketEvent s tag entry) := by
  unfold bucketEvent
  try dsimp only
  repeat' (first | with_reducible assumption | (with_reducible apply is_jobEvent))

theorem is_beginRaises {kk : Kept} {s : State} {tag : Nat} {l : List (Nat × Nat × Nat)} (hk : Is kk s)
    : Is kk (beginRaises s tag l) := by
  unfold beginRaises
  try dsimp only
  repeat' (first | with_reducible assumption | (with_reducible apply is_setBucket) | (with_reducible apply is_hubRaise) | (with_reducible apply is_meter) | split)

theorem is_failBucket {kk : Kept} {s : State} {tag reason : Nat} {unit : Nat} (hk : Is kk s) : Is kk (failBucket s tag reason unit) := by
  unfold failBucket
  try dsimp only
  repeat' (first | with_reducible assumption | (simp only [↓is_mk_iff]; refine ⟨is_and ?_, ?_⟩) | (simp only [↓isM_mk_iff]; refine isM_and ?_) | (with_reducible apply is_setBucket) | (with_reducible apply is_devFault) | (with_reducible apply is_jobFault) | (with_reducible apply is_bucketEvent) | (with_reducible apply is_beginRaises) | (with_reducible apply is_foldl; intro _ _ _) | (with_reducible apply is_foldl_fst; intro _ _ _) | (with_reducible apply is_foldl_s; intro _ _ _) | (with_reducible apply is_foldl_fst_s; intro _ _ _) | (with_reducible apply is_iter; intro _ _) | (with_reducible apply isM_foldl; intro _ _ _) | (with_reducible apply is_meter) | (intro _; try dsimp only) | (split <;> (try (rename_i hq; simp only [↓Prod.ext_iff] at hq; obtain ⟨hf, _⟩ := hq; subst hf))) | (dsimp only [id]))

theorem is_bucketCheck {kk : Kept} {s : State} {tag : Nat} (hk : Is kk s) : Is kk (bucketCheck s tag) := by
  unfold bucketCheck
  try dsimp only
  repeat' (first | with_reducible assumption | (with_reducible apply is_setBucket) | (with_reducible apply is_startGroup) | (with_reducible apply is_bucketEvent) | (with_reducible apply is_beginRaises) | (with_reducible apply is_foldl; intro _ _ _) | (with_reducible apply is_meter) | split)

theorem is_sendLists {kk : Kept} {s : State} {tag : Nat} (hk : Is kk s) : Is kk (sendLists s tag) := by
  unfold sendLists
  try dsimp only
  repeat' (first | with_reducible assumption | (with_reducible apply is_setBucket) | (with_reducible apply is_sendOn) | (with_reducible apply is_foldl; intro _ _ _) | (with_reducible apply is_meter) | split)

theorem is_applyArrival {kk : Kept} {s : State} {tag rank tile : Nat} {l : List Byte} {digest : W32} (hk : Is kk s)
    : Is kk (applyArrival s tag rank tile l digest) := by
  unfold applyArrival
  try dsimp only
  repeat' (first | with_reducible assumption | (with_reducible apply is_modBucket) | (with_reducible apply is_putMem) | (with_reducible apply is_getMem) | (with_reducible apply is_failBucket) | (with_reducible apply is_meter) | (split <;> (try (rename_i hq; simp only [↓Prod.ext_iff] at hq; obtain ⟨hf, _⟩ := hq; subst hf))))

theorem is_shadowCompare {kk : Kept} {s : State} {tag rank tile : Nat} {mine : W32} {others : List (Nat × Nat × W32)} (hk
    : Is kk s) : Is kk (shadowCompare s tag rank tile mine others) := by
  unfold shadowCompare
  try dsimp only
  repeat' (first | with_reducible assumption | (with_reducible apply is_logEntry) | (with_reducible apply is_bucketEvent) | (with_reducible apply is_meter) | split)

theorem is_peerArrival {kk : Kept} {s : State} {part addr : Nat} {imm : W32} {l : List Byte} (hk : Is kk s)
    : Is kk (peerArrival s part addr imm l).1 := by
  unfold peerArrival
  try dsimp only
  repeat' (first | with_reducible assumption | (with_reducible apply is_modBucket) | (with_reducible apply is_logEntry) | (with_reducible apply is_failBucket) | (with_reducible apply is_bucketCheck) | (with_reducible apply is_applyArrival) | (with_reducible apply is_shadowCompare) | (with_reducible apply is_meter) | split)

theorem is_listArrival {kk : Kept} {s : State} {part : Nat} {l : List Byte} (hk : Is kk s) : Is kk (listArrival s part l) := by
  unfold listArrival
  try dsimp only
  repeat' (first | with_reducible assumption | (with_reducible apply is_setBucket) | (with_reducible apply is_failBucket) | (with_reducible apply is_bucketCheck) | (with_reducible apply is_shadowCompare) | (with_reducible apply is_foldl; intro _ _ _) | (with_reducible apply is_meter) | split)

theorem is_peerAcked {kk : Kept} {s : State} {tag closes : Nat} (hk : Is kk s) : Is kk (peerAcked s tag closes) := by
  unfold peerAcked
  try dsimp only
  repeat' (first | with_reducible assumption | (simp only [↓is_mk_iff]; refine ⟨is_and ?_, ?_⟩) | (simp only [↓isM_mk_iff]; refine isM_and ?_) | (with_reducible apply is_modBucket) | (with_reducible apply is_bucketCheck) | (with_reducible apply is_foldl; intro _ _ _) | (with_reducible apply is_foldl_fst; intro _ _ _) | (with_reducible apply is_foldl_s; intro _ _ _) | (with_reducible apply is_foldl_fst_s; intro _ _ _) | (with_reducible apply is_iter; intro _ _) | (with_reducible apply isM_foldl; intro _ _ _) | (with_reducible apply is_meter) | (intro _; try dsimp only) | (split <;> (try (rename_i hq; simp only [↓Prod.ext_iff] at hq; obtain ⟨hf, _⟩ := hq; subst hf))) | (dsimp only [id]))

theorem is_sendTile {kk : Kept} {s : State} {tag d die dst t kind : Nat} {l : List Byte} (hk : Is kk s)
    : Is kk (sendTile s tag d die dst t kind l) := by
  unfold sendTile
  try dsimp only
  repeat' (first | with_reducible assumption | (with_reducible apply is_sendCells))

theorem is_sendTotal {kk : Kept} {s : State} {tag : Nat} {dies : List Nat} {t : Nat} {l : List Byte} (hk : Is kk s)
    : Is kk (sendTotal s tag dies t l) := by
  unfold sendTotal
  try dsimp only
  repeat' (first | with_reducible assumption | (with_reducible apply is_sendTile))

theorem is_forward {kk : Kept} {s : State} {tag d t : Nat} (hk : Is kk s) : Is kk (forward s tag d t) := by
  unfold forward
  try dsimp only
  repeat' (first | with_reducible assumption | (with_reducible apply is_getMem) | (with_reducible apply is_failBucket) | (with_reducible apply is_sendTile) | (with_reducible apply is_sendTotal) | (with_reducible apply is_meter) | (split <;> (try (rename_i hq; simp only [↓Prod.ext_iff] at hq; obtain ⟨hf, _⟩ := hq; subst hf))))

theorem is_applyTile {kk : Kept} {s : State} {tag d t : Nat} {l : List Byte} (hk : Is kk s) : Is kk (applyTile s tag d t l) := by
  unfold applyTile
  try dsimp only
  repeat' (first | with_reducible assumption | (with_reducible apply is_modBucket) | (with_reducible apply is_putMem) | (with_reducible apply is_getMem) | (with_reducible apply is_failBucket) | (with_reducible apply is_forward) | (with_reducible apply is_meter) | (split <;> (try (rename_i hq; simp only [↓Prod.ext_iff] at hq; obtain ⟨hf, _⟩ := hq; subst hf))))

theorem is_endTransfer {kk : Kept} {s : State} {die : Nat} {o : OpenX} (hk : Is kk s) : Is kk (endTransfer s die o) := by
  unfold endTransfer
  try dsimp only
  repeat' (first | with_reducible assumption | (with_reducible apply is_modEnd) | (with_reducible apply is_sendAck) | (with_reducible apply is_failBucket) | (with_reducible apply is_applyTile) | (with_reducible apply is_meter) | split)

theorem is_execReduce {kk : Kept} {die : Nat} {s : State} {tR : State} (he : execReduce die s = .next tR) (hk : Is kk s)
    : Is kk tR := by
  unfold execReduce at he
  with_reducible refine is_onUnit he ?_
  clear he
  try dsimp only
  repeat' (first | with_reducible assumption | (with_reducible apply is_popCell) | (with_reducible apply is_openNew) | (with_reducible apply is_endTransfer) | (with_reducible apply is_meter) | split)

theorem is_totalBad {kk : Kept} {s : State} {x : Nat} {o : OpenX} (hk : Is kk s) : Is kk (totalBad s x o) := by
  unfold totalBad
  try dsimp only
  repeat' (first | with_reducible assumption | (simp only [↓is_mk_iff]; refine ⟨is_and ?_, ?_⟩) | (simp only [↓isM_mk_iff]; refine isM_and ?_) | (with_reducible apply is_modEnd) | (with_reducible apply is_failBucket) | (with_reducible apply is_foldl; intro _ _ _) | (with_reducible apply is_foldl_fst; intro _ _ _) | (with_reducible apply is_foldl_s; intro _ _ _) | (with_reducible apply is_foldl_fst_s; intro _ _ _) | (with_reducible apply is_iter; intro _ _) | (with_reducible apply isM_foldl; intro _ _ _) | (with_reducible apply is_meter) | (intro _; try dsimp only) | (split <;> (try (rename_i hq; simp only [↓Prod.ext_iff] at hq; obtain ⟨hf, _⟩ := hq; subst hf))) | (dsimp only [id]))

theorem is_hubOpen {kk : Kept} {s : State} {die : Nat} (hk : Is kk s) : Is kk (hubOpen s die) := by
  unfold hubOpen
  try dsimp only
  repeat' (first | with_reducible assumption | (with_reducible apply is_popCell) | (with_reducible apply is_openNew) | (with_reducible apply is_totalBad) | (with_reducible apply is_meter) | split)

theorem is_routeTotal {kk : Kept} {s : State} {tag t : Nat} {l : List Byte} (hk : Is kk s) : Is kk (routeTotal s tag t l) := by
  unfold routeTotal
  try dsimp only
  repeat' (first | with_reducible assumption | (with_reducible apply is_setBucket) | (with_reducible apply is_modBucket) | (with_reducible apply is_sendOn) | (with_reducible apply is_logEntry) | (with_reducible apply is_bucketCheck) | (with_reducible apply is_sendLists) | (with_reducible apply is_applyArrival) | (with_reducible apply is_shadowCompare) | (with_reducible apply is_meter) | split)

theorem is_execDeviceTotal {kk : Kept} {tag tile : Nat} {s : State} {tR : State} (he : execDeviceTotal tag tile s = .next tR)
    (hk : Is kk s) : Is kk tR := by
  unfold execDeviceTotal at he
  with_reducible refine is_onUnit he ?_
  clear he
  try dsimp only
  repeat' (first | with_reducible assumption | (with_reducible apply is_modEnd) | (with_reducible apply is_totalBad) | (with_reducible apply is_hubOpen) | (with_reducible apply is_routeTotal) | (with_reducible apply is_foldl; intro _ _ _) | (with_reducible apply is_meter) | split)

theorem is_execBucketStartWord {kk : Kept} {part tag : Nat} {s : State} {tR : State}
    (he : execBucketStartWord part tag s = .next tR) (hk : Is kk s) : Is kk tR := by
  unfold execBucketStartWord at he
  with_reducible refine is_onUnit he ?_
  clear he
  try dsimp only
  repeat' (first | with_reducible assumption | (with_reducible apply is_setBucket) | (with_reducible apply is_modBucket) | (with_reducible apply is_takeTouch (by with_reducible assumption)) | (with_reducible apply is_forward) | (with_reducible apply is_foldl; intro _ _ _) | (with_reducible apply is_meter) | split)

theorem is_openRound {kk : Kept} {s : State} {tag round : Nat} {parity : Bool} (hk : Is kk s)
    : Is kk (openRound s tag round parity) := by
  unfold openRound
  try dsimp only
  repeat' (first | with_reducible assumption | (with_reducible apply is_setBucket) | (with_reducible apply is_bucketCheck) | (with_reducible apply is_sendLists) | (with_reducible apply is_sendTotal) | (with_reducible apply is_foldl; intro _ _ _) | (with_reducible apply is_meter) | split)

theorem is_execBucketRearm {kk : Kept} {tag : Nat} {s : State} {tR : State} (he : execBucketRearm tag s = .next tR) (hk
    : Is kk s) : Is kk tR := by
  unfold execBucketRearm at he
  with_reducible refine is_onUnit he ?_
  clear he
  try dsimp only
  repeat' (first | with_reducible assumption | (with_reducible apply is_openRound) | (with_reducible apply is_meter) | split)

theorem is_execBucketRoundTimeout {kk : Kept} {tag : Nat} {s : State} {tR : State}
    (he : execBucketRoundTimeout tag s = .next tR) (hk : Is kk s) : Is kk tR := by
  unfold execBucketRoundTimeout at he
  with_reducible refine is_onUnit he ?_
  clear he
  try dsimp only
  repeat' (first | with_reducible assumption | (with_reducible apply is_failBucket) | (with_reducible apply is_meter) | split)

end Sys2Proof.Machine
end

