-- ==== Sys2Proof/Laws/KeptImage.lean ====
section
/-! SUPPORT. One lemma per operation of Machine/Image.lean: it keeps what `Kept` lists, or only ages it. -/

namespace Sys2Proof.Machine

theorem is_emptyContexts {kk : Kept} {s : State} {pt : Part} (hk : Is kk s) : Is kk (emptyContexts s pt) := by
  unfold emptyContexts
  try dsimp only
  repeat' (first | with_reducible assumption | (with_reducible apply is_modSlice) | (with_reducible apply is_foldl; intro _ _ _))

theorem is_emptyNetwork {kk : Kept} {s : State} {pt : Part} (hk : Is kk s) : Is kk (emptyNetwork s pt) := by
  unfold emptyNetwork
  try dsimp only
  repeat' (first | with_reducible assumption | (with_reducible apply is_modSwitch) | (with_reducible apply is_eachCore) | (with_reducible apply is_emptyContexts) | (with_reducible apply is_foldl; intro _ _ _))

theorem is_startNetwork {kk : Kept} {s : State} {pt : Part} (hk : Is kk s) : Is kk (startNetwork s pt) := by
  unfold startNetwork
  try dsimp only
  repeat' (first | with_reducible assumption | (with_reducible apply is_modSwitch) | (with_reducible apply is_foldl; intro _ _ _))

theorem is_wipeCluster {kk : Kept} {s : State} {c : Nat} (hk : Is kk s) : Is kk (wipeCluster s c) := by
  unfold wipeCluster
  try dsimp only
  repeat' (first | with_reducible assumption | (with_reducible apply is_modCore) | (with_reducible apply is_modSlice) | (with_reducible apply is_foldl; intro _ _ _))

theorem is_broadcast {kk : Kept} {s : State} {part : Nat} {dies : List Nat} {l : List Piece} (hk : Is kk s)
    : Is kk (broadcast s part dies l) := by
  unfold broadcast
  try dsimp only
  repeat' (first | with_reducible assumption | (simp only [↓is_mk_iff]; refine ⟨is_and ?_, ?_⟩) | (with_reducible apply is_modPart) | (with_reducible apply is_sendCells) | (with_reducible apply is_foldl; intro _ _ _) | (with_reducible apply is_meter))

theorem is_repairPiece {kk : Kept} {s : State} {pt : Part} {q : Piece} (hk : Is kk s) : Is kk (repairPiece s pt q) := by
  unfold repairPiece
  try dsimp only
  repeat' (first | with_reducible assumption | (with_reducible apply is_modCore) | (with_reducible apply is_modSwitch) | (with_reducible apply is_writeSlice) | (with_reducible apply is_meter) | split)

end Sys2Proof.Machine
end

