-- ==== Sys2Proof/Laws/KeptDump.lean ====
section
/-! SUPPORT. One lemma per operation of Machine/Dump.lean: it keeps what `Kept` lists, or only ages it. -/

namespace Sys2Proof.Machine

theorem is_withMs {kk : Kept} {s : State} (hk : Is kk s) : Is kk (withMs s) := by
  unfold withMs
  try dsimp only
  repeat' (first | with_reducible assumption | (simp only [↓is_mk_iff]; refine ⟨is_and ?_, ?_⟩) | (with_reducible apply is_meter))

theorem is_capture {kk : Kept} {s : State} {x : Scope} (hk : Is kk s) : Is kk (capture s x) := by
  unfold capture
  try dsimp only
  repeat' (first | with_reducible assumption | (simp only [↓is_mk_iff]; refine ⟨is_and ?_, ?_⟩) | (with_reducible apply is_withMs) | (with_reducible apply is_meter) | split)

theorem is_addCensus {kk : Kept} {s : State} {x : Scope} {time : Nat} {secs : List (List Byte)} (hk : Is kk s)
    : Is kk (addCensus s x time secs) := by
  unfold addCensus
  try dsimp only
  repeat' (first | with_reducible assumption | (simp only [↓is_mk_iff]; refine ⟨is_and ?_, ?_⟩) | (with_reducible apply is_meter) | split)

theorem is_execDumpCopy {kk : Kept} {slot : Nat} {s : State} {tR : State} (he : execDumpCopy slot s = .next tR) (hk : Is kk s)
    : Is kk tR := by
  unfold execDumpCopy at he
  with_reducible refine is_onUnit he ?_
  clear he
  try dsimp only
  repeat' (first | with_reducible assumption | (simp only [↓is_mk_iff]; refine ⟨is_and ?_, ?_⟩) | (with_reducible apply is_meter) | split)

end Sys2Proof.Machine
end

