-- ==== Sys2Proof/Laws/KeptJobs.lean ====
section
/-! SUPPORT. One lemma per operation of Machine/Jobs.lean: it keeps what `Kept` lists, or only ages it. -/

namespace Sys2Proof.Machine

theorem is_runDeferred {kk : Kept} {s : State} {p : Nat} {e : Nat × Nat} (hk : Is kk s) : Is kk (runDeferred s p e) := by
  unfold runDeferred
  try dsimp only
  repeat' (first | with_reducible assumption | (with_reducible apply is_raiseAcked) | (with_reducible apply is_sendEnds) | (with_reducible apply is_countWait) | (with_reducible apply is_attemptFails) | (with_reducible apply is_meter) | split)

theorem is_setFrozen {kk : Kept} {s : State} {p : Nat} {frozen : Bool} (hk : Is kk s) : Is kk (setFrozen s p frozen) := by
  unfold setFrozen
  try dsimp only
  repeat' (first | with_reducible assumption | (simp only [↓is_mk_iff]; refine ⟨is_and ?_, ?_⟩) | (with_reducible apply is_setCore) | (with_reducible apply is_runDeferred) | (with_reducible apply is_foldl; intro _ _ _) | (with_reducible apply is_meter) | split)

theorem is_execCoreFreeze {kk : Kept} {core : Nat} {frozen : Bool} {s : State} {tR : State}
    (he : execCoreFreeze core frozen s = .next tR) (hk : Is kk s) : Is kk tR := by
  unfold execCoreFreeze at he
  with_reducible refine is_onUnit he ?_
  clear he
  try dsimp only
  repeat' (first | with_reducible assumption | (with_reducible apply is_setFrozen))

theorem is_freezePart {kk : Kept} {s : State} {pt : Part} {frozen : Bool} (hk : Is kk s) : Is kk (freezePart s pt frozen) := by
  unfold freezePart
  try dsimp only
  repeat' (first | with_reducible assumption | (with_reducible apply is_setFrozen) | (with_reducible apply is_foldl; intro _ _ _))

theorem is_censusEnds {kk : Kept} {s : State} {x : Scope} {time : Nat} {l : List CensusFail} (hk : Is kk s)
    : Is kk (censusEnds s x time l) := by
  unfold censusEnds
  try dsimp only
  repeat' (first | with_reducible assumption | (with_reducible apply is_devFault) | (with_reducible apply is_setService) | (with_reducible apply is_addCensus) | (with_reducible apply is_foldl; intro _ _ _) | (with_reducible apply is_meter) | split)

theorem is_dropUpdates {kk : Kept} {s : State} {part : Nat} (hk : Is kk s) : Is kk (dropUpdates s part) := by
  unfold dropUpdates
  try dsimp only
  repeat' (first | with_reducible assumption | (with_reducible apply is_modDie) | (with_reducible apply is_setGf) | (with_reducible apply is_foldl; intro _ _ _) | (with_reducible apply is_meter) | split)

theorem is_freeBuckets {kk : Kept} {s : State} {pt : Part} (hk : Is kk s) : Is kk (freeBuckets s pt) := by
  unfold freeBuckets
  try dsimp only
  repeat' (first | with_reducible assumption | (with_reducible apply is_modBucket) | (with_reducible apply is_foldl; intro _ _ _))

theorem is_quietPairs {kk : Kept} {s : State} {part : Nat} (hk : Is kk s) : Is kk (quietPairs s part) := by
  unfold quietPairs
  try dsimp only
  repeat' (first | with_reducible assumption | (simp only [↓is_mk_iff]; refine ⟨is_and ?_, ?_⟩) | (simp only [↓isM_mk_iff]; refine isM_and ?_) | (with_reducible apply is_modQp) | (with_reducible apply is_foldl; intro _ _ _) | (with_reducible apply is_foldl_fst; intro _ _ _) | (with_reducible apply is_foldl_s; intro _ _ _) | (with_reducible apply is_foldl_fst_s; intro _ _ _) | (with_reducible apply is_iter; intro _ _) | (with_reducible apply isM_foldl; intro _ _ _) | (with_reducible apply is_meter) | (intro _; try dsimp only) | (split <;> (try (rename_i hq; simp only [↓Prod.ext_iff] at hq; obtain ⟨hf, _⟩ := hq; subst hf))) | (dsimp only [id]))

theorem is_closeEnds {kk : Kept} {s : State} {pt : Part} (hk : Is kk s) : Is kk (closeEnds s pt) := by
  unfold closeEnds
  try dsimp only
  repeat' (first | with_reducible assumption | (with_reducible apply is_modEnd) | (with_reducible apply is_foldl; intro _ _ _))

theorem is_stopPart {kk : Kept} {s : State} {part : Nat} {x : Scope} (hk : Is kk s) : Is kk (stopPart s part x) := by
  unfold stopPart
  try dsimp only
  repeat' (first | with_reducible assumption | (simp only [↓is_mk_iff]; refine ⟨is_and ?_, ?_⟩) | (simp only [↓isM_mk_iff]; refine isM_and ?_) | (with_reducible apply is_modPart) | (with_reducible apply is_eachCore) | (with_reducible apply is_emptyNetwork) | (with_reducible apply is_capture) | (with_reducible apply is_freezePart) | (with_reducible apply is_censusEnds) | (with_reducible apply is_dropUpdates) | (with_reducible apply is_freeBuckets) | (with_reducible apply is_quietPairs) | (with_reducible apply is_closeEnds) | (with_reducible apply is_foldl; intro _ _ _) | (with_reducible apply is_foldl_fst; intro _ _ _) | (with_reducible apply is_foldl_s; intro _ _ _) | (with_reducible apply is_foldl_fst_s; intro _ _ _) | (with_reducible apply is_iter; intro _ _) | (with_reducible apply isM_foldl; intro _ _ _) | (with_reducible apply is_meter) | (intro _; try dsimp only) | (split <;> (try (rename_i hq; simp only [↓Prod.ext_iff] at hq; obtain ⟨hf, _⟩ := hq; subst hf))) | (dsimp only [id]))

theorem is_stirPart {kk : Kept} {s : State} {pt : Part} (hk : Is kk s) : Is kk (stirPart s pt) := by
  unfold stirPart
  try dsimp only
  repeat' (first | with_reducible assumption | (with_reducible apply is_stir) | (with_reducible apply is_foldl; intro _ _ _))

theorem is_wakePart {kk : Kept} {s : State} {pt : Part} (hk : Is kk s) : Is kk (wakePart s pt) := by
  unfold wakePart
  try dsimp only
  repeat' (first | with_reducible assumption | (with_reducible apply is_awaken) | (with_reducible apply is_foldl; intro _ _ _))

theorem is_startJob {kk : Kept} {s : State} {part policy flags report : Nat} (hk : Is kk s)
    : Is kk (startJob s part policy flags report) := by
  unfold startJob
  try dsimp only
  repeat' (first | with_reducible assumption | (with_reducible apply is_modPart) | (with_reducible apply is_modCore) | (with_reducible apply is_eachCore) | (with_reducible apply is_jobCheck) | (with_reducible apply is_emptyNetwork) | (with_reducible apply is_startNetwork) | (with_reducible apply is_stirPart) | (with_reducible apply is_wakePart) | (with_reducible apply is_foldl; intro _ _ _) | (with_reducible apply is_meter) | split)

theorem is_restartPart {kk : Kept} {s : State} {part : Nat} (hk : Is kk s) : Is kk (restartPart s part) := by
  unfold restartPart
  try dsimp only
  repeat' (first | with_reducible assumption | (with_reducible apply is_modPart) | (with_reducible apply is_modCore) | (with_reducible apply is_jobCheck) | (with_reducible apply is_emptyNetwork) | (with_reducible apply is_startNetwork) | (with_reducible apply is_stirPart) | (with_reducible apply is_wakePart) | (with_reducible apply is_foldl; intro _ _ _) | (with_reducible apply is_meter) | split)

theorem is_abortPart {kk : Kept} {s : State} {part code : Nat} {x : Scope} (hk : Is kk s) : Is kk (abortPart s part code x) := by
  unfold abortPart
  try dsimp only
  repeat' (first | with_reducible assumption | (with_reducible apply is_modPart) | (with_reducible apply is_endJob) | (with_reducible apply is_stopPart) | (with_reducible apply is_meter) | split)

theorem is_resetCluster {kk : Kept} {out : Nat → Bool} {s : State} {c : Nat} (hk : Is kk s) : Is kk (resetCluster out s c) := by
  unfold resetCluster
  try dsimp only
  repeat' (first | with_reducible assumption | (with_reducible apply is_modCore) | (with_reducible apply is_countReset) | (with_reducible apply is_foldl; intro _ _ _) | (with_reducible apply is_meter) | split)

theorem is_closePorts {kk : Kept} {s : State} {c : Nat} (hk : Is kk s) : Is kk (closePorts s c) := by
  unfold closePorts
  try dsimp only
  repeat' (first | with_reducible assumption | (simp only [↓is_mk_iff]; refine ⟨is_and ?_, ?_⟩) | (simp only [↓isM_mk_iff]; refine isM_and ?_) | (with_reducible apply is_modEnd) | (with_reducible apply is_foldl; intro _ _ _) | (with_reducible apply is_foldl_fst; intro _ _ _) | (with_reducible apply is_foldl_s; intro _ _ _) | (with_reducible apply is_foldl_fst_s; intro _ _ _) | (with_reducible apply is_iter; intro _ _) | (with_reducible apply isM_foldl; intro _ _ _) | (with_reducible apply is_meter) | (intro _; try dsimp only) | (split <;> (try (rename_i hq; simp only [↓Prod.ext_iff] at hq; obtain ⟨hf, _⟩ := hq; subst hf))) | (dsimp only [id]))

theorem is_resetClusters {kk : Kept} {s : State} {pt : Part} (hk : Is kk s) : Is kk (resetClusters s pt) := by
  unfold resetClusters
  try dsimp only
  repeat' (first | with_reducible assumption | (simp only [↓is_mk_iff]; refine ⟨is_and ?_, ?_⟩) | (simp only [↓isM_mk_iff]; refine isM_and ?_) | (with_reducible apply is_emptyContexts) | (with_reducible apply is_resetCluster) | (with_reducible apply is_closePorts) | (with_reducible apply is_foldl; intro _ _ _) | (with_reducible apply is_foldl_fst; intro _ _ _) | (with_reducible apply is_foldl_s; intro _ _ _) | (with_reducible apply is_foldl_fst_s; intro _ _ _) | (with_reducible apply is_iter; intro _ _) | (with_reducible apply isM_foldl; intro _ _ _) | (with_reducible apply is_meter) | (intro _; try dsimp only) | (split <;> (try (rename_i hq; simp only [↓Prod.ext_iff] at hq; obtain ⟨hf, _⟩ := hq; subst hf))) | (dsimp only [id]))

theorem is_qpError {kk : Kept} {s : State} {q : Nat} (hk : Is kk s) : Is kk (qpError s q) := by
  unfold qpError
  try dsimp only
  repeat' (first | with_reducible assumption | (with_reducible apply is_setQp) | (with_reducible apply is_failBucket) | (with_reducible apply is_foldl; intro _ _ _) | (with_reducible apply is_meter) | split)

theorem is_failPairs {kk : Kept} {s : State} {part : Nat} (hk : Is kk s) : Is kk (failPairs s part) := by
  unfold failPairs
  try dsimp only
  repeat' (first | with_reducible assumption | (with_reducible apply is_qpError) | (with_reducible apply is_foldl; intro _ _ _))

theorem is_resetPart {kk : Kept} {s : State} {part : Nat} {cause : Nat} (hk : Is kk s) : Is kk (resetPart s part cause) := by
  unfold resetPart
  try dsimp only
  repeat' (first | with_reducible assumption | (with_reducible apply is_modPart) | (with_reducible apply is_censusEnds) | (with_reducible apply is_abortPart) | (with_reducible apply is_resetClusters) | (with_reducible apply is_failPairs) | (with_reducible apply is_meter) | split)

theorem is_execGooseDeadlock {kk : Kept} {part : Nat} {s : State} {tR : State} (he : execGooseDeadlock part s = .next tR) (hk
    : Is kk s) : Is kk tR := by
  unfold execGooseDeadlock at he
  with_reducible refine is_onUnit he ?_
  clear he
  try dsimp only
  repeat' (first | with_reducible assumption | (with_reducible apply is_setPart) | (with_reducible apply is_modDie) | (with_reducible apply is_postEvent) | (with_reducible apply is_meter) | split)

end Sys2Proof.Machine
end

