-- ==== Sys2Proof/Laws/KeptFencing.lean ====
section
/-! SUPPORT. One lemma per operation of Machine/Fencing.lean: it keeps what `Kept` lists, or only ages it. -/

namespace Sys2Proof.Machine

theorem is_chargeUnit {kk : Kept} {s : State} {kind unit code n : Nat} (hk : Is kk s)
    : Is kk (chargeUnit s kind unit code n) := by
  unfold chargeUnit
  try dsimp only
  repeat' (first | with_reducible assumption | (simp only [↓is_mk_iff]; refine ⟨is_and ?_, ?_⟩) | (with_reducible apply is_modScree) | (with_reducible apply is_meter) | split)

theorem is_permanentVerdict {kk : Kept} {s : State} {kind unit : Nat} (hk : Is kk s) : Is kk (permanentVerdict s kind unit) := by
  unfold permanentVerdict
  try dsimp only
  repeat' (first | with_reducible assumption | (simp only [↓is_mk_iff]; refine ⟨is_and ?_, ?_⟩) | (with_reducible apply is_modScree) | (with_reducible apply is_meter))

theorem is_setFence {kk : Kept} {s : State} {p state reason : Nat} (hk : Is kk s) : Is kk (setFence s p state reason) := by
  unfold setFence
  try dsimp only
  repeat' (first | with_reducible assumption | (simp only [↓is_mk_iff]; refine ⟨is_and ?_, ?_⟩) | (with_reducible apply is_meter))

theorem is_setHold {kk : Kept} {s : State} {p : Nat} {h : Bool} (hk : Is kk s) : Is kk (setHold s p h) := by
  unfold setHold
  try dsimp only
  repeat' (first | with_reducible assumption | (simp only [↓is_mk_iff]; refine ⟨is_and ?_, ?_⟩) | (with_reducible apply is_meter))

theorem is_setShift {kk : Kept} {s : State} {g v : Nat} (hk : Is kk s) : Is kk (setShift s g v) := by
  unfold setShift
  try dsimp only
  repeat' (first | with_reducible assumption | (simp only [↓is_mk_iff]; refine ⟨is_and ?_, ?_⟩) | (with_reducible apply is_meter))

theorem is_takeArrival {kk : Kept} {ty x : Nat} {s : State} {tR : State} (he : takeArrival ty x s = .next tR) (hk : Is kk s)
    : Is kk tR := by
  unfold takeArrival at he
  repeat' (first | (with_reducible cases he; done) | (with_reducible injection he with he; subst he) | (with_reducible obtain ⟨_, _, rfl⟩ := Option.map_eq_some_iff.1 he) | split at he)
  repeat' (first | with_reducible assumption | (with_reducible apply is_popCell) | (with_reducible apply is_execWriteIndexed (by with_reducible assumption)) | (with_reducible apply is_execReadReply (by with_reducible assumption)) | (with_reducible apply is_execWrite (by with_reducible assumption)) | (with_reducible apply is_execReadReq (by with_reducible assumption)) | (with_reducible apply is_execWriteAck (by with_reducible assumption)) | (with_reducible apply is_execSyncRaise (by with_reducible assumption)) | (with_reducible apply is_execSyncAck (by with_reducible assumption)) | (with_reducible apply is_execMsgAck (by with_reducible assumption)) | (with_reducible apply is_execMsgNack (by with_reducible assumption)) | (with_reducible apply is_execMsgFirst (by with_reducible assumption)) | (with_reducible apply is_execMsgNext (by with_reducible assumption)))

theorem is_deliverGo {kk : Kept} {x : Nat} {y1 : Nat} {y2 : State} (hk : Is kk y2) : Is kk (deliverGo x y1 y2) := by
  induction y1 generalizing y2 with
  | zero => (unfold deliverGo; (try dsimp only); repeat' (with_reducible assumption))
  | succ n ih => (unfold deliverGo; (try dsimp only); repeat' (first | with_reducible assumption | (with_reducible apply ih) | (with_reducible apply is_takeArrival (by with_reducible assumption)) | (with_reducible apply is_meter) | split))

theorem is_deliverAll {kk : Kept} {s : State} {x : Nat} (hk : Is kk s) : Is kk (deliverAll s x) := by
  unfold deliverAll
  try dsimp only
  repeat' (first | with_reducible assumption | (with_reducible apply is_deliverGo))

theorem is_deliverSeg {kk : Kept} {s : State} {g : Nat} (hk : Is kk s) : Is kk (deliverSeg s g) := by
  unfold deliverSeg
  try dsimp only
  repeat' (first | with_reducible assumption | (with_reducible apply is_deliverAll) | (with_reducible apply is_foldl; intro _ _ _))

theorem is_deliverCluster {kk : Kept} {s : State} {c : Nat} (hk : Is kk s) : Is kk (deliverCluster s c) := by
  unfold deliverCluster
  try dsimp only
  repeat' (first | with_reducible assumption | (simp only [↓is_mk_iff]; refine ⟨is_and ?_, ?_⟩) | (simp only [↓isM_mk_iff]; refine isM_and ?_) | (with_reducible apply is_deliverSeg) | (with_reducible apply is_foldl; intro _ _ _) | (with_reducible apply is_foldl_fst; intro _ _ _) | (with_reducible apply is_foldl_s; intro _ _ _) | (with_reducible apply is_foldl_fst_s; intro _ _ _) | (with_reducible apply is_iter; intro _ _) | (with_reducible apply isM_foldl; intro _ _ _) | (with_reducible apply is_meter) | (intro _; try dsimp only) | (split <;> (try (rename_i hq; simp only [↓Prod.ext_iff] at hq; obtain ⟨hf, _⟩ := hq; subst hf))) | (dsimp only [id]))

theorem is_execCoreFenceState {kk : Kept} {core state reason : Nat} {s : State} {tR : State} (he : execCoreFenceState core state reason s = .next tR) (hk : Is kk s) : Is kk tR := by
  unfold execCoreFenceState at he
  with_reducible refine is_onUnit he ?_
  clear he
  try dsimp only
  repeat' (first | with_reducible assumption | (simp only [↓is_mk_iff]; refine ⟨is_and ?_, ?_⟩) | (simp only [↓isM_mk_iff]; refine isM_and ?_) | (with_reducible apply is_setFence) | (with_reducible apply is_deliverSeg) | (with_reducible apply is_foldl; intro _ _ _) | (with_reducible apply is_foldl_fst; intro _ _ _) | (with_reducible apply is_foldl_s; intro _ _ _) | (with_reducible apply is_foldl_fst_s; intro _ _ _) | (with_reducible apply is_iter; intro _ _) | (with_reducible apply isM_foldl; intro _ _ _) | (with_reducible apply is_meter) | (intro _; try dsimp only) | (split <;> (try (rename_i hq; simp only [↓Prod.ext_iff] at hq; obtain ⟨hf, _⟩ := hq; subst hf))) | (dsimp only [id]))

theorem is_execCoreHold {kk : Kept} {core : Nat} {hold : Bool} {s : State} {tR : State}
    (he : execCoreHold core hold s = .next tR) (hk : Is kk s) : Is kk tR := by
  unfold execCoreHold at he
  with_reducible refine is_onUnit he ?_
  clear he
  try dsimp only
  repeat' (first | with_reducible assumption | (with_reducible apply is_setHold))

theorem is_execClusterFenceState {kk : Kept} {cluster state part : Nat} {s : State} {tR : State} (he : execClusterFenceState cluster state part s = .next tR) (hk : Is kk s) : Is kk tR := by
  unfold execClusterFenceState at he
  with_reducible refine is_onUnit he ?_
  clear he
  try dsimp only
  repeat' (first | with_reducible assumption | (simp only [↓is_mk_iff]; refine ⟨is_and ?_, ?_⟩) | (simp only [↓isM_mk_iff]; refine isM_and ?_) | (with_reducible apply is_setClu) | (with_reducible apply is_deliverCluster) | (with_reducible apply is_foldl; intro _ _ _) | (with_reducible apply is_foldl_fst; intro _ _ _) | (with_reducible apply is_foldl_s; intro _ _ _) | (with_reducible apply is_foldl_fst_s; intro _ _ _) | (with_reducible apply is_iter; intro _ _) | (with_reducible apply isM_foldl; intro _ _ _) | (with_reducible apply is_meter) | (intro _; try dsimp only) | (split <;> (try (rename_i hq; simp only [↓Prod.ext_iff] at hq; obtain ⟨hf, _⟩ := hq; subst hf))) | (dsimp only [id]))

theorem is_execVnShiftWrite {kk : Kept} {seg value : Nat} {s : State} {tR : State}
    (he : execVnShiftWrite seg value s = .next tR) (hk : Is kk s) : Is kk tR := by
  unfold execVnShiftWrite at he
  with_reducible refine is_onUnit he ?_
  clear he
  try dsimp only
  repeat' (first | with_reducible assumption | (with_reducible apply is_postEvent) | (with_reducible apply is_setShift) | (with_reducible apply is_deliverSeg) | (with_reducible apply is_meter) | split)

theorem is_announce {kk : Kept} {s : State} {kind unitKind unit : Nat} {part : Option Nat} {rec_ : List Byte} (hk : Is kk s)
    : Is kk (announce s kind unitKind unit part rec_) := by
  unfold announce
  try dsimp only
  repeat' (first | with_reducible assumption | (with_reducible apply is_devFault) | (with_reducible apply is_jobFault) | (with_reducible apply is_meter) | split)

theorem is_sweepEnds {kk : Kept} {s : State} (hk : Is kk s) : Is kk (sweepEnds s) := by
  unfold sweepEnds
  try dsimp only
  repeat' (first | with_reducible assumption | (simp only [↓is_mk_iff]; refine ⟨is_and ?_, ?_⟩) | (with_reducible apply is_meter) | split)

theorem is_sweepLeaves {kk : Kept} {s : State} {p : Nat} {sounded : Bool} (hk : Is kk s) : Is kk (sweepLeaves s p sounded) := by
  unfold sweepLeaves
  try dsimp only
  repeat' (first | with_reducible assumption | (simp only [↓is_mk_iff]; refine ⟨is_and ?_, ?_⟩) | (with_reducible apply is_sweepEnds) | (with_reducible apply is_meter) | split)

theorem is_endTest {kk : Kept} {s : State} {p : Nat} {sounded : Bool} (hk : Is kk s) : Is kk (endTest s p sounded) := by
  unfold endTest
  try dsimp only
  repeat' (first | with_reducible assumption | (simp only [↓is_mk_iff]; refine ⟨is_and ?_, ?_⟩) | (with_reducible apply is_sweepLeaves) | (with_reducible apply is_meter))

theorem is_startSlice {kk : Kept} {s : State} {p n : Nat} {again : Bool} {begun : Bool} (hk : Is kk s) : Is kk (startSlice s p n again begun) := by
  unfold startSlice
  try dsimp only
  repeat' (first | with_reducible assumption | (simp only [↓is_mk_iff]; refine ⟨is_and ?_, ?_⟩) | (simp only [↓isM_mk_iff]; refine isM_and ?_) | (with_reducible apply is_modCore) | (with_reducible apply is_foldl; intro _ _ _) | (with_reducible apply is_foldl_fst; intro _ _ _) | (with_reducible apply is_foldl_s; intro _ _ _) | (with_reducible apply is_foldl_fst_s; intro _ _ _) | (with_reducible apply is_iter; intro _ _) | (with_reducible apply isM_foldl; intro _ _ _) | (with_reducible apply is_meter) | (intro _; try dsimp only) | (split <;> (try (rename_i hq; simp only [↓Prod.ext_iff] at hq; obtain ⟨hf, _⟩ := hq; subst hf))) | (dsimp only [id]))

theorem is_fenceCore {kk : Kept} {s : State} {p reason : Nat} {rec_ : List Byte} (hk : Is kk s) : Is kk (fenceCore s p reason rec_) := by
  unfold fenceCore
  try dsimp only
  repeat' (first | with_reducible assumption | (simp only [↓is_mk_iff]; refine ⟨is_and ?_, ?_⟩) | (simp only [↓isM_mk_iff]; refine isM_and ?_) | (with_reducible apply is_addSoft) | (with_reducible apply is_setFence) | (with_reducible apply is_deliverSeg) | (with_reducible apply is_announce) | (with_reducible apply is_endTest) | (with_reducible apply is_foldl; intro _ _ _) | (with_reducible apply is_foldl_fst; intro _ _ _) | (with_reducible apply is_foldl_s; intro _ _ _) | (with_reducible apply is_foldl_fst_s; intro _ _ _) | (with_reducible apply is_iter; intro _ _) | (with_reducible apply isM_foldl; intro _ _ _) | (with_reducible apply is_meter) | (intro _; try dsimp only) | (split <;> (try (rename_i hq; simp only [↓Prod.ext_iff] at hq; obtain ⟨hf, _⟩ := hq; subst hf))) | (dsimp only [id]))

theorem is_useSpare {kk : Kept} {s : State} {kind unit reason count : Nat} (hk : Is kk s)
    : Is kk (useSpare s kind unit reason count) := by
  unfold useSpare
  try dsimp only
  repeat' (first | with_reducible assumption | (simp only [↓is_mk_iff]; refine ⟨is_and ?_, ?_⟩) | (with_reducible apply is_addSoft) | (with_reducible apply is_meter))

theorem is_repairMarked {kk : Kept} {s : State} {p : Nat} (hk : Is kk s) : Is kk (repairMarked s p) := by
  unfold repairMarked
  try dsimp only
  repeat' (first | with_reducible assumption | (with_reducible apply is_modCore) | (with_reducible apply is_permanentVerdict) | (with_reducible apply is_fenceCore) | (with_reducible apply is_useSpare) | (with_reducible apply is_foldl; intro _ _ _) | (with_reducible apply is_meter) | split)

theorem is_repairSliceRow {kk : Kept} {s : State} {key row : Nat} (hk : Is kk s) : Is kk (repairSliceRow s key row) := by
  unfold repairSliceRow
  try dsimp only
  repeat' (first | with_reducible assumption | (with_reducible apply is_modSlice) | (with_reducible apply is_useSpare))

theorem is_repairDue {kk : Kept} {s : State} {c : Nat} (hk : Is kk s) : Is kk (repairDue s c) := by
  unfold repairDue
  try dsimp only
  repeat' (first | with_reducible assumption | (with_reducible apply is_modSlice) | (with_reducible apply is_repairSliceRow) | (with_reducible apply is_foldl; intro _ _ _) | (with_reducible apply is_meter) | split)

theorem is_writeRemap {kk : Kept} {s : State} {p target reason : Nat} (hk : Is kk s) : Is kk (writeRemap s p target reason) := by
  unfold writeRemap
  try dsimp only
  repeat' (first | with_reducible assumption | (with_reducible apply is_setFence) | (with_reducible apply is_setShift))

theorem is_writeReturn {kk : Kept} {s : State} {p : Nat} {reason : Nat} (hk : Is kk s) : Is kk (writeReturn s p reason) := by
  unfold writeReturn
  try dsimp only
  repeat' (first | with_reducible assumption | (simp only [↓is_mk_iff]; refine ⟨is_and ?_, ?_⟩) | (simp only [↓isM_mk_iff]; refine isM_and ?_) | (with_reducible apply is_setFence) | (with_reducible apply is_setShift) | (with_reducible apply is_foldl; intro _ _ _) | (with_reducible apply is_foldl_fst; intro _ _ _) | (with_reducible apply is_foldl_s; intro _ _ _) | (with_reducible apply is_foldl_fst_s; intro _ _ _) | (with_reducible apply is_iter; intro _ _) | (with_reducible apply isM_foldl; intro _ _ _) | (with_reducible apply is_meter) | (intro _; try dsimp only) | (split <;> (try (rename_i hq; simp only [↓Prod.ext_iff] at hq; obtain ⟨hf, _⟩ := hq; subst hf))) | (dsimp only [id]))

theorem is_tableRemap {kk : Kept} {s : State} {p target reason : Nat} (hk : Is kk s) : Is kk (tableRemap s p target reason) := by
  unfold tableRemap
  try dsimp only
  repeat' (first | with_reducible assumption | (with_reducible apply is_deliverSeg) | (with_reducible apply is_writeRemap))

theorem is_tableReturn {kk : Kept} {s : State} {p : Nat} {reason : Nat} (hk : Is kk s) : Is kk (tableReturn s p reason) := by
  unfold tableReturn
  try dsimp only
  repeat' (first | with_reducible assumption | (simp only [↓is_mk_iff]; refine ⟨is_and ?_, ?_⟩) | (simp only [↓isM_mk_iff]; refine isM_and ?_) | (with_reducible apply is_deliverSeg) | (with_reducible apply is_writeReturn) | (with_reducible apply is_foldl; intro _ _ _) | (with_reducible apply is_foldl_fst; intro _ _ _) | (with_reducible apply is_foldl_s; intro _ _ _) | (with_reducible apply is_foldl_fst_s; intro _ _ _) | (with_reducible apply is_iter; intro _ _) | (with_reducible apply isM_foldl; intro _ _ _) | (with_reducible apply is_meter) | (intro _; try dsimp only) | (split <;> (try (rename_i hq; simp only [↓Prod.ext_iff] at hq; obtain ⟨hf, _⟩ := hq; subst hf))) | (dsimp only [id]))

theorem is_afterRemap {kk : Kept} {s : State} {p target reason : Nat} {rec_ : List Byte} (hk : Is kk s)
    : Is kk (afterRemap s p target reason rec_) := by
  unfold afterRemap
  try dsimp only
  repeat' (first | with_reducible assumption | (with_reducible apply is_endTest) | (with_reducible apply is_startSlice) | (with_reducible apply is_fenceCore) | (with_reducible apply is_repairMarked) | (with_reducible apply is_meter) | split)

theorem is_setHolds {kk : Kept} {s : State} {g f : Nat} {h : Bool} (hk : Is kk s) : Is kk (setHolds s g f h) := by
  unfold setHolds
  try dsimp only
  repeat' (first | with_reducible assumption | (with_reducible apply is_setHold) | (with_reducible apply is_foldl; intro _ _ _))

theorem is_readImage {kk : Kept} {s : State} {p : Nat} {store : Bool} (hk : Is kk s) : Is kk (readImage s p store) := by
  unfold readImage
  try dsimp only
  repeat' (first | with_reducible assumption | (simp only [↓is_mk_iff]; refine ⟨is_and ?_, ?_⟩) | (simp only [↓isM_mk_iff]; refine isM_and ?_) | (with_reducible apply is_modCore) | (with_reducible apply is_coreStop) | (with_reducible apply is_foldl; intro _ _ _) | (with_reducible apply is_foldl_fst; intro _ _ _) | (with_reducible apply is_foldl_s; intro _ _ _) | (with_reducible apply is_foldl_fst_s; intro _ _ _) | (with_reducible apply is_iter; intro _ _) | (with_reducible apply isM_foldl; intro _ _ _) | (with_reducible apply is_meter) | (intro _; try dsimp only) | (split <;> (try (rename_i hq; simp only [↓Prod.ext_iff] at hq; obtain ⟨hf, _⟩ := hq; subst hf))) | (dsimp only [id]))

theorem is_readImages {kk : Kept} {s : State} {g lo hi : Nat} {store : Bool} (hk : Is kk s)
    : Is kk (readImages s g lo hi store) := by
  unfold readImages
  try dsimp only
  repeat' (first | with_reducible assumption | (with_reducible apply is_readImage) | (with_reducible apply is_foldl; intro _ _ _))

theorem is_moveEast {kk : Kept} {s : State} {g f : Nat} {carry : Core → Core → Core} (hk : Is kk s)
    : Is kk (moveEast s g f carry) := by
  unfold moveEast
  try dsimp only
  repeat' (first | with_reducible assumption | (with_reducible apply is_setCore) | (with_reducible apply is_foldl; intro _ _ _))

theorem is_moveWest {kk : Kept} {s : State} {g f : Nat} {carry : Core → Core → Core} (hk : Is kk s)
    : Is kk (moveWest s g f carry) := by
  unfold moveWest
  try dsimp only
  repeat' (first | with_reducible assumption | (with_reducible apply is_setCore) | (with_reducible apply is_foldl; intro _ _ _))

theorem is_reloadCore {kk : Kept} {s : State} {pt : Part} {p n : Nat} (hk : Is kk s) : Is kk (reloadCore s pt p n) := by
  unfold reloadCore
  try dsimp only
  repeat' (first | with_reducible assumption | (with_reducible apply is_modCore))

theorem is_chargeReset {kk : Kept} {s : State} {key : Nat} (hk : Is kk s) : Is kk (chargeReset s key).1 := by
  unfold chargeReset
  try dsimp only
  repeat' (first | with_reducible assumption | (simp only [↓is_mk_iff]; refine ⟨is_and ?_, ?_⟩) | (with_reducible apply is_meter))

theorem is_dieOut {kk : Kept} {s : State} {d : Nat} (hk : Is kk s) : Is kk (dieOut s d) := by
  unfold dieOut
  try dsimp only
  repeat' (first | with_reducible assumption | (with_reducible apply is_modDie) | (with_reducible apply is_setService) | (with_reducible apply is_abortPart) | (with_reducible apply is_foldl; intro _ _ _) | (with_reducible apply is_meter) | split)

theorem is_dropActions {kk : Kept} {s0 : State} {part : Nat} (hk : Is kk s0) : Is kk (dropActions s0 part) := by
  unfold dropActions
  try dsimp only
  repeat' (first | with_reducible assumption | (simp only [↓is_mk_iff]; refine ⟨is_and ?_, ?_⟩) | (simp only [↓isM_mk_iff]; refine isM_and ?_) | (with_reducible apply is_modPart) | (with_reducible apply is_sweepLeaves) | (with_reducible apply is_foldl; intro _ _ _) | (with_reducible apply is_foldl_fst; intro _ _ _) | (with_reducible apply is_foldl_s; intro _ _ _) | (with_reducible apply is_foldl_fst_s; intro _ _ _) | (with_reducible apply is_iter; intro _ _) | (with_reducible apply isM_foldl; intro _ _ _) | (with_reducible apply is_meter) | (intro _; try dsimp only) | (split <;> (try (rename_i hq; simp only [↓Prod.ext_iff] at hq; obtain ⟨hf, _⟩ := hq; subst hf))) | (dsimp only [id]))

theorem is_returnLanding {kk : Kept} {s : State} {d : Nat} (hk : Is kk s) : Is kk (returnLanding s d) := by
  unfold returnLanding
  try dsimp only
  repeat' (first | with_reducible assumption | (simp only [↓is_mk_iff]; refine ⟨is_and ?_, ?_⟩) | (simp only [↓isM_mk_iff]; refine isM_and ?_) | (with_reducible apply is_foldl; intro _ _ _) | (with_reducible apply is_foldl_fst; intro _ _ _) | (with_reducible apply is_foldl_s; intro _ _ _) | (with_reducible apply is_foldl_fst_s; intro _ _ _) | (with_reducible apply is_iter; intro _ _) | (with_reducible apply isM_foldl; intro _ _ _) | (with_reducible apply is_meter) | (intro _; try dsimp only) | (split <;> (try (rename_i hq; simp only [↓Prod.ext_iff] at hq; obtain ⟨hf, _⟩ := hq; subst hf))) | (dsimp only [id]))

theorem is_resetTransit {kk : Kept} {s0 : State} {d : Nat} (hk : Is kk s0) : Is kk (resetTransit s0 d) := by
  unfold resetTransit
  try dsimp only
  repeat' (first | with_reducible assumption | (simp only [↓is_mk_iff]; refine ⟨is_and ?_, ?_⟩) | (simp only [↓isM_mk_iff]; refine isM_and ?_) | (with_reducible apply is_modDie) | (with_reducible apply is_returnLanding) | (with_reducible apply is_foldl; intro _ _ _) | (with_reducible apply is_foldl_fst; intro _ _ _) | (with_reducible apply is_foldl_s; intro _ _ _) | (with_reducible apply is_foldl_fst_s; intro _ _ _) | (with_reducible apply is_iter; intro _ _) | (with_reducible apply isM_foldl; intro _ _ _) | (with_reducible apply is_meter) | (intro _; try dsimp only) | (split <;> (try (rename_i hq; simp only [↓Prod.ext_iff] at hq; obtain ⟨hf, _⟩ := hq; subst hf))) | (dsimp only [id]))

theorem is_beginDieReset {kk : Kept} {s : State} {d cause : Nat} (hk : Is kk s) : Is kk (beginDieReset s d cause) := by
  unfold beginDieReset
  try dsimp only
  repeat' (first | with_reducible assumption | (simp only [↓is_mk_iff]; refine ⟨is_and ?_, ?_⟩) | (simp only [↓isM_mk_iff]; refine isM_and ?_) | (with_reducible apply is_modDie) | (with_reducible apply is_modSlice) | (with_reducible apply is_capture) | (with_reducible apply is_abortPart) | (with_reducible apply is_resetCluster) | (with_reducible apply is_endTest) | (with_reducible apply is_dropActions) | (with_reducible apply is_resetTransit) | (with_reducible apply is_foldl; intro _ _ _) | (with_reducible apply is_foldl_fst; intro _ _ _) | (with_reducible apply is_foldl_s; intro _ _ _) | (with_reducible apply is_foldl_fst_s; intro _ _ _) | (with_reducible apply is_iter; intro _ _) | (with_reducible apply isM_foldl; intro _ _ _) | (with_reducible apply is_meter) | (intro _; try dsimp only) | (split <;> (try (rename_i hq; simp only [↓Prod.ext_iff] at hq; obtain ⟨hf, _⟩ := hq; subst hf))) | (dsimp only [id]))

theorem is_resetDieOut {kk : Kept} {s : State} {d : Nat} (hk : Is kk s) : Is kk (resetDieOut s d) := by
  unfold resetDieOut
  try dsimp only
  repeat' (first | with_reducible assumption | (simp only [↓is_mk_iff]; refine ⟨is_and ?_, ?_⟩) | (simp only [↓isM_mk_iff]; refine isM_and ?_) | (with_reducible apply is_modDie) | (with_reducible apply is_setService) | (with_reducible apply is_chargeReset) | (with_reducible apply is_beginDieReset) | (with_reducible apply is_foldl; intro _ _ _) | (with_reducible apply is_foldl_fst; intro _ _ _) | (with_reducible apply is_foldl_s; intro _ _ _) | (with_reducible apply is_foldl_fst_s; intro _ _ _) | (with_reducible apply is_iter; intro _ _) | (with_reducible apply isM_foldl; intro _ _ _) | (with_reducible apply is_meter) | (intro _; try dsimp only) | (split <;> (try (rename_i hq; simp only [↓Prod.ext_iff] at hq; obtain ⟨hf, _⟩ := hq; subst hf))) | (dsimp only [id]))

theorem is_beginLoad {kk : Kept} {s : State} {part : Nat} (hk : Is kk s) : Is kk (beginLoad s part) := by
  unfold beginLoad
  try dsimp only
  repeat' (first | with_reducible assumption | (with_reducible apply is_setPart) | (with_reducible apply is_broadcast) | (with_reducible apply is_meter) | split)

theorem is_markFailed {kk : Kept} {s : State} {c reason : Nat} {part : Option Nat} {rec_ : List Byte} (hk : Is kk s) : Is kk (markFailed s c reason part rec_) := by
  unfold markFailed
  try dsimp only
  repeat' (first | with_reducible assumption | (simp only [↓is_mk_iff]; refine ⟨is_and ?_, ?_⟩) | (simp only [↓isM_mk_iff]; refine isM_and ?_) | (with_reducible apply is_modPow) | (with_reducible apply is_addSoft) | (with_reducible apply is_setClu) | (with_reducible apply is_permanentVerdict) | (with_reducible apply is_deliverCluster) | (with_reducible apply is_announce) | (with_reducible apply is_foldl; intro _ _ _) | (with_reducible apply is_foldl_fst; intro _ _ _) | (with_reducible apply is_foldl_s; intro _ _ _) | (with_reducible apply is_foldl_fst_s; intro _ _ _) | (with_reducible apply is_iter; intro _ _) | (with_reducible apply isM_foldl; intro _ _ _) | (with_reducible apply is_meter) | (intro _; try dsimp only) | (split <;> (try (rename_i hq; simp only [↓Prod.ext_iff] at hq; obtain ⟨hf, _⟩ := hq; subst hf))) | (dsimp only [id]))

theorem is_swapIn {kk : Kept} {s : State} {part c : Nat} {tR : State} (he : swapIn s part c = some tR) (hk : Is kk s) : Is kk tR := by
  unfold swapIn at he
  (try dsimp only at he)
  repeat' (first | (with_reducible cases he; done) | (with_reducible injection he with he; subst he) | (with_reducible obtain ⟨_, _, rfl⟩ := Option.map_eq_some_iff.1 he) | (split at he <;> (try (rename_i hq; simp only [↓Prod.ext_iff] at hq; obtain ⟨hf, _⟩ := hq; subst hf))))
  all_goals (try dsimp only)
  repeat' (first | with_reducible assumption | (simp only [↓is_mk_iff]; refine ⟨is_and ?_, ?_⟩) | (simp only [↓isM_mk_iff]; refine isM_and ?_) | (with_reducible apply is_modPart) | (with_reducible apply is_modPow) | (with_reducible apply is_setClu) | (with_reducible apply is_wipeCluster) | (with_reducible apply is_endTest) | (with_reducible apply is_repairDue) | (with_reducible apply is_foldl; intro _ _ _) | (with_reducible apply is_foldl_fst; intro _ _ _) | (with_reducible apply is_foldl_s; intro _ _ _) | (with_reducible apply is_foldl_fst_s; intro _ _ _) | (with_reducible apply is_iter; intro _ _) | (with_reducible apply isM_foldl; intro _ _ _) | (with_reducible apply is_meter) | (intro _; try dsimp only) | (split <;> (try (rename_i hq; simp only [↓Prod.ext_iff] at hq; obtain ⟨hf, _⟩ := hq; subst hf))) | (dsimp only [id]))

theorem is_awaitReserve {kk : Kept} {s : State} {part c reason : Nat} (hk : Is kk s) : Is kk (awaitReserve s part c reason) := by
  unfold awaitReserve
  try dsimp only
  repeat' (first | with_reducible assumption | (with_reducible apply is_modPart) | (with_reducible apply is_abortPart))

theorem is_beginMove {kk : Kept} {s : State} {part c reason : Nat} {rec_ : List Byte} (hk : Is kk s) : Is kk (beginMove s part c reason rec_).1 := by
  unfold beginMove
  try dsimp only
  repeat' (first | with_reducible assumption | (simp only [↓is_mk_iff]; refine ⟨is_and ?_, ?_⟩) | (simp only [↓isM_mk_iff]; refine isM_and ?_) | (with_reducible apply is_modPart) | (with_reducible apply is_stopPart) | (with_reducible apply is_chargeReset) | (with_reducible apply is_beginLoad) | (with_reducible apply is_markFailed) | (with_reducible apply is_swapIn (by with_reducible assumption)) | (with_reducible apply is_awaitReserve) | (with_reducible apply is_foldl; intro _ _ _) | (with_reducible apply is_foldl_fst; intro _ _ _) | (with_reducible apply is_foldl_s; intro _ _ _) | (with_reducible apply is_foldl_fst_s; intro _ _ _) | (with_reducible apply is_iter; intro _ _) | (with_reducible apply isM_foldl; intro _ _ _) | (with_reducible apply is_meter) | (intro _; try dsimp only) | (split <;> (try (rename_i hq; simp only [↓Prod.ext_iff] at hq; obtain ⟨hf, _⟩ := hq; subst hf))) | (dsimp only [id]))

theorem is_resumeJob {kk : Kept} {s : State} {part : Nat} (hk : Is kk s) : Is kk (resumeJob s part) := by
  unfold resumeJob
  try dsimp only
  repeat' (first | with_reducible assumption | (with_reducible apply is_restartPart) | (with_reducible apply is_meter) | split)

theorem is_remapMemory {kk : Kept} {s : State} {part p target reason : Nat} {rec_ : List Byte} (hk : Is kk s)
    : Is kk (remapMemory s part p target reason rec_) := by
  unfold remapMemory
  try dsimp only
  repeat' (first | with_reducible assumption | (with_reducible apply is_setCore) | (with_reducible apply is_modCore) | (with_reducible apply is_censusEnds) | (with_reducible apply is_deliverSeg) | (with_reducible apply is_writeRemap) | (with_reducible apply is_afterRemap) | (with_reducible apply is_readImages) | (with_reducible apply is_moveEast) | (with_reducible apply is_reloadCore) | (with_reducible apply is_meter) | split)

theorem is_restartRemap {kk : Kept} {s : State} {part : Nat} {a : FenceAction} {rec_ : List Byte} (hk : Is kk s) :
    Is kk (restartRemap s part a rec_) := by
  unfold restartRemap
  extract_lets g s0 s1 s2 s3 s4
  have h0 : Is kk s0 := is_setHolds hk
  clear_value s0
  have h1 : Is kk s1 := by
    refine is_ite (is_stopPart h0) ?_
    cases getPart s part with
    | none => exact h0
    | some pt => exact is_freezePart h0
  clear_value s1
  have h3 : Is kk s3 := is_writeReturn (is_modCore (is_moveWest (is_readImages (is_deliverSeg h1))))
  clear_value s3
  refine is_resumeJob ?_
  refine is_ite ?_ (is_remapMemory h1)
  cases getPart s3 part with
  | none => exact h3
  | some pt => exact is_censusEnds h3

theorem is_beginLive {kk : Kept} {s : State} {part : Nat} {a : FenceAction} (hk : Is kk s) : Is kk (beginLive s part a) := by
  unfold beginLive
  try dsimp only
  repeat' (first | with_reducible assumption | (with_reducible apply is_modPart) | (with_reducible apply is_freezePart) | (with_reducible apply is_meter) | split)

theorem is_staysIn {kk : Kept} {s : State} {p target : Nat} (hk : Is kk s) : Is kk (staysIn s p target) := by
  unfold staysIn
  try dsimp only
  repeat' (first | with_reducible assumption | (with_reducible apply is_modScree) | (with_reducible apply is_sweepLeaves) | (with_reducible apply is_meter) | split)

theorem is_beginRemap {kk : Kept} {s : State} {part : Nat} {a : FenceAction} (hk : Is kk s) : Is kk (beginRemap s part a).1 := by
  unfold beginRemap
  try dsimp only
  repeat' (first | with_reducible assumption | (with_reducible apply is_modPart) | (with_reducible apply is_modCore) | (with_reducible apply is_fenceCore) | (with_reducible apply is_tableRemap) | (with_reducible apply is_afterRemap) | (with_reducible apply is_restartRemap) | (with_reducible apply is_beginLive) | (with_reducible apply is_staysIn) | (with_reducible apply is_meter) | split)

theorem is_beginReturn {kk : Kept} {s : State} {part : Nat} {a : FenceAction} (hk : Is kk s)
    : Is kk (beginReturn s part a).1 := by
  unfold beginReturn
  try dsimp only
  repeat' (first | with_reducible assumption | (with_reducible apply is_endTest) | (with_reducible apply is_tableReturn) | (with_reducible apply is_restartRemap) | (with_reducible apply is_beginLive) | (with_reducible apply is_meter) | split)

theorem is_runActions {kk : Kept} {part : Nat} {y1 : Nat} {y2 : State} (hk : Is kk y2) : Is kk (runActions part y1 y2) := by
  induction y1 generalizing y2 with
  | zero => (unfold runActions; (try dsimp only); repeat' (with_reducible assumption))
  | succ n ih => (unfold runActions; (try dsimp only); repeat' (first | with_reducible assumption | (with_reducible apply ih) | (with_reducible apply is_modPart) | (with_reducible apply is_beginMove) | (with_reducible apply is_beginRemap) | (with_reducible apply is_beginReturn) | (with_reducible apply is_meter) | split))

theorem is_kick {kk : Kept} {s : State} {part : Nat} (hk : Is kk s) : Is kk (kick s part) := by
  unfold kick
  try dsimp only
  repeat' (first | with_reducible assumption | (with_reducible apply is_runActions))

theorem is_pushAction {kk : Kept} {s : State} {part : Nat} {a : FenceAction} (hk : Is kk s) : Is kk (pushAction s part a) := by
  unfold pushAction
  try dsimp only
  repeat' (first | with_reducible assumption | (with_reducible apply is_modPart) | (with_reducible apply is_kick))

theorem is_actionOver {kk : Kept} {s : State} {part : Nat} (hk : Is kk s) : Is kk (actionOver s part) := by
  unfold actionOver
  try dsimp only
  repeat' (first | with_reducible assumption | (with_reducible apply is_modPart) | (with_reducible apply is_kick))

theorem is_failCluster {kk : Kept} {s : State} {c reason : Nat} {record : List Byte} (hk : Is kk s)
    : Is kk (failCluster s c reason record) := by
  unfold failCluster
  try dsimp only
  repeat' (first | with_reducible assumption | (with_reducible apply is_markFailed) | (with_reducible apply is_pushAction) | (with_reducible apply is_meter) | split)

theorem is_permanentCore {kk : Kept} {s : State} {p reason : Nat} {intact : Bool} {record : List Byte} (hk : Is kk s) : Is kk (permanentCore s p reason intact record) := by
  unfold permanentCore
  try dsimp only
  repeat' (first | with_reducible assumption | (simp only [↓is_mk_iff]; refine ⟨is_and ?_, ?_⟩) | (simp only [↓isM_mk_iff]; refine isM_and ?_) | (with_reducible apply is_modPart) | (with_reducible apply is_permanentVerdict) | (with_reducible apply is_endTest) | (with_reducible apply is_fenceCore) | (with_reducible apply is_tableRemap) | (with_reducible apply is_tableReturn) | (with_reducible apply is_afterRemap) | (with_reducible apply is_pushAction) | (with_reducible apply is_failCluster) | (with_reducible apply is_foldl; intro _ _ _) | (with_reducible apply is_foldl_fst; intro _ _ _) | (with_reducible apply is_foldl_s; intro _ _ _) | (with_reducible apply is_foldl_fst_s; intro _ _ _) | (with_reducible apply is_iter; intro _ _) | (with_reducible apply isM_foldl; intro _ _ _) | (with_reducible apply is_meter) | (intro _; try dsimp only) | (split <;> (try (rename_i hq; simp only [↓Prod.ext_iff] at hq; obtain ⟨hf, _⟩ := hq; subst hf))) | (dsimp only [id]))

theorem is_suspectCore {kk : Kept} {s : State} {p reason : Nat} {record : List Byte} (hk : Is kk s)
    : Is kk (suspectCore s p reason record) := by
  unfold suspectCore
  try dsimp only
  repeat' (first | with_reducible assumption | (with_reducible apply is_modScree) | (with_reducible apply is_tableRemap) | (with_reducible apply is_afterRemap) | (with_reducible apply is_staysIn) | (with_reducible apply is_pushAction) | (with_reducible apply is_meter) | split)

theorem is_releaseAll {kk : Kept} {s : State} {l : List Nat} (hk : Is kk s) : Is kk (releaseAll s l) := by
  unfold releaseAll
  try dsimp only
  repeat' (first | with_reducible assumption | (with_reducible apply is_setFrozen) | (with_reducible apply is_foldl; intro _ _ _))

theorem is_finishLive {kk : Kept} {s : State} {part : Nat} {pt : Part} {a : FenceAction} (hk : Is kk s)
    : Is kk (finishLive s part pt a) := by
  unfold finishLive
  try dsimp only
  repeat' (first | with_reducible assumption | (with_reducible apply is_modCore) | (with_reducible apply is_censusEnds) | (with_reducible apply is_deliverSeg) | (with_reducible apply is_writeRemap) | (with_reducible apply is_writeReturn) | (with_reducible apply is_afterRemap) | (with_reducible apply is_setHolds) | (with_reducible apply is_readImages) | (with_reducible apply is_moveEast) | (with_reducible apply is_moveWest) | (with_reducible apply is_actionOver) | (with_reducible apply is_releaseAll) | (with_reducible apply is_meter) | split)

theorem is_remapSettled {kk : Kept} {s : State} {part : Nat} (hk : Is kk s) : Is kk (remapSettled s part) := by
  unfold remapSettled
  try dsimp only
  repeat' (first | with_reducible assumption | (simp only [↓is_mk_iff]; refine ⟨is_and ?_, ?_⟩) | (simp only [↓isM_mk_iff]; refine isM_and ?_) | (with_reducible apply is_setHolds) | (with_reducible apply is_readImages) | (with_reducible apply is_restartRemap) | (with_reducible apply is_actionOver) | (with_reducible apply is_finishLive) | (with_reducible apply is_foldl; intro _ _ _) | (with_reducible apply is_foldl_fst; intro _ _ _) | (with_reducible apply is_foldl_s; intro _ _ _) | (with_reducible apply is_foldl_fst_s; intro _ _ _) | (with_reducible apply is_iter; intro _ _) | (with_reducible apply isM_foldl; intro _ _ _) | (with_reducible apply is_meter) | (intro _; try dsimp only) | (split <;> (try (rename_i hq; simp only [↓Prod.ext_iff] at hq; obtain ⟨hf, _⟩ := hq; subst hf))) | (dsimp only [id]))

theorem is_settleTimeout {kk : Kept} {s : State} {part : Nat} (hk : Is kk s) : Is kk (settleTimeout s part) := by
  unfold settleTimeout
  try dsimp only
  repeat' (first | with_reducible assumption | (with_reducible apply is_restartRemap) | (with_reducible apply is_actionOver) | (with_reducible apply is_meter) | split)

theorem is_policyRestart {kk : Kept} {s : State} {part cause : Nat} {first : List Nat} (hk : Is kk s)
    : Is kk (policyRestart s part cause first) := by
  unfold policyRestart
  try dsimp only
  repeat' (first | with_reducible assumption | (with_reducible apply is_restartPart) | (with_reducible apply is_abortPart) | (with_reducible apply is_meter) | split)

theorem is_applyPolicy {kk : Kept} {s : State} {part : Nat} {pt : Part} {cause : Nat} {first : List Nat} {engine : Nat}
    {snap : List Byte} (hk : Is kk s) : Is kk (applyPolicy s part pt cause first engine snap) := by
  unfold applyPolicy
  try dsimp only
  repeat' (first | with_reducible assumption | (with_reducible apply is_modPart) | (with_reducible apply is_setFrozen) | (with_reducible apply is_stopPart) | (with_reducible apply is_abortPart) | (with_reducible apply is_policyRestart) | (with_reducible apply is_foldl; intro _ _ _) | (with_reducible apply is_meter) | split)

theorem is_chargeCore {kk : Kept} {s : State} {p cause : Nat} (hk : Is kk s) : Is kk (chargeCore s p cause) := by
  unfold chargeCore
  try dsimp only
  repeat' (first | with_reducible assumption | (with_reducible apply is_chargeReset) | (with_reducible apply is_permanentCore) | (with_reducible apply is_meter) | split)

theorem is_policyFor {kk : Kept} {s : State} {e : RingEntry} {snap : List Byte} (hk : Is kk s) : Is kk (policyFor s e snap) := by
  unfold policyFor
  try dsimp only
  repeat' (first | with_reducible assumption | (with_reducible apply is_applyPolicy) | (with_reducible apply is_chargeCore) | (with_reducible apply is_meter) | split)

theorem is_policyOrWait {kk : Kept} {s : State} {part : Nat} {pt : Part} {e : RingEntry} {snap : List Byte} (hk : Is kk s)
    : Is kk (policyOrWait s part pt e snap) := by
  unfold policyOrWait
  try dsimp only
  repeat' (first | with_reducible assumption | (with_reducible apply is_modPart) | (with_reducible apply is_policyFor) | (with_reducible apply is_meter) | split)

theorem is_duePolicies {kk : Kept} {s : State} (hk : Is kk s) : Is kk (duePolicies s) := by
  unfold duePolicies
  try dsimp only
  repeat' (first | with_reducible assumption | (with_reducible apply is_modPart) | (with_reducible apply is_policyFor) | (with_reducible apply is_foldl; intro _ _ _) | (with_reducible apply is_meter) | split)

theorem is_takeTrap {kk : Kept} {s : State} {r : TrapRec} (hk : Is kk s) : Is kk (takeTrap s r) := by
  unfold takeTrap
  try dsimp only
  repeat' (first | with_reducible assumption | (with_reducible apply is_jobEvent) | (with_reducible apply is_policyOrWait) | (with_reducible apply is_meter) | split)

theorem is_chargeEndpoint {kk : Kept} {s : State} {u : Nat × Nat} {code n : Nat} {record : List Byte} (hk : Is kk s) : Is kk (chargeEndpoint s u code n record) := by
  unfold chargeEndpoint
  try dsimp only
  repeat' (first | with_reducible assumption | (simp only [↓is_mk_iff]; refine ⟨is_and ?_, ?_⟩) | (simp only [↓isM_mk_iff]; refine isM_and ?_) | (with_reducible apply is_modScree) | (with_reducible apply is_chargeUnit) | (with_reducible apply is_failCluster) | (with_reducible apply is_permanentCore) | (with_reducible apply is_suspectCore) | (with_reducible apply is_foldl; intro _ _ _) | (with_reducible apply is_foldl_fst; intro _ _ _) | (with_reducible apply is_foldl_s; intro _ _ _) | (with_reducible apply is_foldl_fst_s; intro _ _ _) | (with_reducible apply is_iter; intro _ _) | (with_reducible apply isM_foldl; intro _ _ _) | (with_reducible apply is_meter) | (intro _; try dsimp only) | (split <;> (try (rename_i hq; simp only [↓Prod.ext_iff] at hq; obtain ⟨hf, _⟩ := hq; subst hf))) | (dsimp only [id]))

theorem is_abftVerdict {kk : Kept} {s : State} {p n : Nat} {record : List Byte} (hk : Is kk s)
    : Is kk (abftVerdict s p n record) := by
  unfold abftVerdict
  try dsimp only
  repeat' (first | with_reducible assumption | (with_reducible apply is_modScree) | (with_reducible apply is_chargeUnit) | (with_reducible apply is_permanentCore) | (with_reducible apply is_suspectCore) | (with_reducible apply is_meter) | split)

theorem is_sliceVerdict {kk : Kept} {s : State} {unit n : Nat} {record : List Byte} (hk : Is kk s)
    : Is kk (sliceVerdict s unit n record) := by
  unfold sliceVerdict
  try dsimp only
  repeat' (first | with_reducible assumption | (with_reducible apply is_modSlice) | (with_reducible apply is_addUncorrected) | (with_reducible apply is_chargeUnit) | (with_reducible apply is_repairSliceRow) | (with_reducible apply is_failCluster) | (with_reducible apply is_meter) | split)

theorem is_linkVerdict {kk : Kept} {s : State} {unit n : Nat} {record : List Byte} (hk : Is kk s) : Is kk (linkVerdict s unit n record) := by
  unfold linkVerdict
  try dsimp only
  repeat' (first | with_reducible assumption | (simp only [↓is_mk_iff]; refine ⟨is_and ?_, ?_⟩) | (simp only [↓isM_mk_iff]; refine isM_and ?_) | (with_reducible apply is_addSoft) | (with_reducible apply is_jobFault) | (with_reducible apply is_chargeUnit) | (with_reducible apply is_resetDieOut) | (with_reducible apply is_markFailed) | (with_reducible apply is_failCluster) | (with_reducible apply is_foldl; intro _ _ _) | (with_reducible apply is_foldl_fst; intro _ _ _) | (with_reducible apply is_foldl_s; intro _ _ _) | (with_reducible apply is_foldl_fst_s; intro _ _ _) | (with_reducible apply is_iter; intro _ _) | (with_reducible apply isM_foldl; intro _ _ _) | (with_reducible apply is_meter) | (intro _; try dsimp only) | (split <;> (try (rename_i hq; simp only [↓Prod.ext_iff] at hq; obtain ⟨hf, _⟩ := hq; subst hf))) | (dsimp only [id]))

theorem is_announceUnit {kk : Kept} {s : State} {t u : Nat} {record : List Byte} (hk : Is kk s) : Is kk (announceUnit s t u record) := by
  unfold announceUnit
  try dsimp only
  repeat' (first | with_reducible assumption | (simp only [↓is_mk_iff]; refine ⟨is_and ?_, ?_⟩) | (simp only [↓isM_mk_iff]; refine isM_and ?_) | (with_reducible apply is_setTier) | (with_reducible apply is_announce) | (with_reducible apply is_foldl; intro _ _ _) | (with_reducible apply is_foldl_fst; intro _ _ _) | (with_reducible apply is_foldl_s; intro _ _ _) | (with_reducible apply is_foldl_fst_s; intro _ _ _) | (with_reducible apply is_iter; intro _ _) | (with_reducible apply isM_foldl; intro _ _ _) | (with_reducible apply is_meter) | (intro _; try dsimp only) | (split <;> (try (rename_i hq; simp only [↓Prod.ext_iff] at hq; obtain ⟨hf, _⟩ := hq; subst hf))) | (dsimp only [id]))

theorem is_announceRetired {kk : Kept} {s : State} (hk : Is kk s) : Is kk (announceRetired s) := by
  unfold announceRetired
  try dsimp only
  repeat' (first | with_reducible assumption | (simp only [↓is_mk_iff]; refine ⟨is_and ?_, ?_⟩) | (simp only [↓isM_mk_iff]; refine isM_and ?_) | (with_reducible apply is_announceUnit) | (with_reducible apply is_foldl; intro _ _ _) | (with_reducible apply is_foldl_fst; intro _ _ _) | (with_reducible apply is_foldl_s; intro _ _ _) | (with_reducible apply is_foldl_fst_s; intro _ _ _) | (with_reducible apply is_iter; intro _ _) | (with_reducible apply isM_foldl; intro _ _ _) | (with_reducible apply is_meter) | (intro _; try dsimp only) | (split <;> (try (rename_i hq; simp only [↓Prod.ext_iff] at hq; obtain ⟨hf, _⟩ := hq; subst hf))) | (dsimp only [id]))

theorem is_takeEvent {kk : Kept} {s : State} {die : Nat} {e : EventRec} (hk : Is kk s) : Is kk (takeEvent s die e) := by
  unfold takeEvent
  try dsimp only
  repeat' (first | with_reducible assumption | (with_reducible apply is_modDie) | (with_reducible apply is_addUncorrected) | (with_reducible apply is_jobEvent) | (with_reducible apply is_devFault) | (with_reducible apply is_jobFault) | (with_reducible apply is_chargeUnit) | (with_reducible apply is_permanentCore) | (with_reducible apply is_policyOrWait) | (with_reducible apply is_chargeEndpoint) | (with_reducible apply is_abftVerdict) | (with_reducible apply is_sliceVerdict) | (with_reducible apply is_linkVerdict) | (with_reducible apply is_announceUnit) | (with_reducible apply is_foldl; intro _ _ _) | (with_reducible apply is_meter) | split)

theorem is_faultEventTaken {kk : Kept} {s : State} {die : Nat} (hk : Is kk s) : Is kk (faultEventTaken s die) := by
  unfold faultEventTaken
  try dsimp only
  repeat' (first | with_reducible assumption | (with_reducible apply is_modDie) | (with_reducible apply is_takeTrap) | (with_reducible apply is_takeEvent) | (with_reducible apply is_meter) | split)

theorem is_completeLocally {kk : Kept} {s : State} {pos : Nat} (hk : Is kk s) : Is kk (completeLocally s pos) := by
  unfold completeLocally
  try dsimp only
  repeat' (first | with_reducible assumption | (with_reducible apply is_setEnd))

theorem is_startSuspect {kk : Kept} {s : State} {part : Nat} {pt : Part} {v : Isolate} {t : Nat} (hk : Is kk s) : Is kk (startSuspect s part pt v t) := by
  unfold startSuspect
  try dsimp only
  repeat' (first | with_reducible assumption | (simp only [↓is_mk_iff]; refine ⟨is_and ?_, ?_⟩) | (simp only [↓isM_mk_iff]; refine isM_and ?_) | (with_reducible apply is_modCore) | (with_reducible apply is_stir) | (with_reducible apply is_foldl; intro _ _ _) | (with_reducible apply is_foldl_fst; intro _ _ _) | (with_reducible apply is_foldl_s; intro _ _ _) | (with_reducible apply is_foldl_fst_s; intro _ _ _) | (with_reducible apply is_iter; intro _ _) | (with_reducible apply isM_foldl; intro _ _ _) | (with_reducible apply is_meter) | (intro _; try dsimp only) | (split <;> (try (rename_i hq; simp only [↓Prod.ext_iff] at hq; obtain ⟨hf, _⟩ := hq; subst hf))) | (dsimp only [id]))

theorem is_endReplay {kk : Kept} {s : State} {part : Nat} {v : Isolate} {hit : List TrapRec} (hk : Is kk s)
    : Is kk (endReplay s part v hit) := by
  unfold endReplay
  try dsimp only
  repeat' (first | with_reducible assumption | (with_reducible apply is_modPart) | (with_reducible apply is_modCore) | (with_reducible apply is_modEnd))

theorem is_endSearch {kk : Kept} {s : State} {part : Nat} {pt : Part} {v : Isolate} (hk : Is kk s) : Is kk (endSearch s part pt v) := by
  unfold endSearch
  try dsimp only
  repeat' (first | with_reducible assumption | (simp only [↓is_mk_iff]; refine ⟨is_and ?_, ?_⟩) | (simp only [↓isM_mk_iff]; refine isM_and ?_) | (with_reducible apply is_modPart) | (with_reducible apply is_modScree) | (with_reducible apply is_jobEvent) | (with_reducible apply is_freezePart) | (with_reducible apply is_chargeUnit) | (with_reducible apply is_kick) | (with_reducible apply is_permanentCore) | (with_reducible apply is_suspectCore) | (with_reducible apply is_policyRestart) | (with_reducible apply is_chargeCore) | (with_reducible apply is_foldl; intro _ _ _) | (with_reducible apply is_foldl_fst; intro _ _ _) | (with_reducible apply is_foldl_s; intro _ _ _) | (with_reducible apply is_foldl_fst_s; intro _ _ _) | (with_reducible apply is_iter; intro _ _) | (with_reducible apply isM_foldl; intro _ _ _) | (with_reducible apply is_meter) | (intro _; try dsimp only) | (split <;> (try (rename_i hq; simp only [↓Prod.ext_iff] at hq; obtain ⟨hf, _⟩ := hq; subst hf))) | (dsimp only [id]))

theorem is_isolateSuspectReplay {kk : Kept} {s : State} {part : Nat} (hk : Is kk s) : Is kk (isolateSuspectReplay s part) := by
  unfold isolateSuspectReplay
  try dsimp only
  repeat' (first | with_reducible assumption | (with_reducible apply is_modPart) | (with_reducible apply is_completeLocally) | (with_reducible apply is_startSuspect) | (with_reducible apply is_endReplay) | (with_reducible apply is_endSearch) | (with_reducible apply is_meter) | split)

theorem is_isolateReplayTimeout {kk : Kept} {s : State} {part : Nat} (hk : Is kk s) : Is kk (isolateReplayTimeout s part) := by
  unfold isolateReplayTimeout
  try dsimp only
  repeat' (first | with_reducible assumption | (with_reducible apply is_endReplay) | (with_reducible apply is_meter) | split)

end Sys2Proof.Machine
end

