-- ==== Sys2Proof/Laws/KeptFlock.lean ====
section
/-! SUPPORT. One lemma per operation of Machine/Flock.lean: it keeps what `Kept` lists, or only ages it. -/

namespace Sys2Proof.Machine

theorem is_repairTarget {kk : Kept} {s : State} {pt : Part} {t : Nat} {lack : List Nat} (hk : Is kk s) : Is kk (repairTarget s pt t lack) := by
  unfold repairTarget
  try dsimp only
  repeat' (first | with_reducible assumption | (simp only [↓is_mk_iff]; refine ⟨is_and ?_, ?_⟩) | (simp only [↓isM_mk_iff]; refine isM_and ?_) | (with_reducible apply is_modCore) | (with_reducible apply is_modSwitch) | (with_reducible apply is_repairPiece) | (with_reducible apply is_foldl; intro _ _ _) | (with_reducible apply is_foldl_fst; intro _ _ _) | (with_reducible apply is_foldl_s; intro _ _ _) | (with_reducible apply is_foldl_fst_s; intro _ _ _) | (with_reducible apply is_iter; intro _ _) | (with_reducible apply isM_foldl; intro _ _ _) | (with_reducible apply is_meter) | (intro _; try dsimp only) | (split <;> (try (rename_i hq; simp only [↓Prod.ext_iff] at hq; obtain ⟨hf, _⟩ := hq; subst hf))) | (dsimp only [id]))

theorem is_flockEvent {kk : Kept} {s : State} {part : Option Nat} {p missing : Nat} (hk : Is kk s)
    : Is kk (flockEvent s part p missing) := by
  unfold flockEvent
  try dsimp only
  repeat' (first | with_reducible assumption | (with_reducible apply is_postEvent))

theorem is_fenceIncomplete {kk : Kept} {s : State} {part : Nat} {pt : Part} {l : List (Nat × Nat)} (hk : Is kk s)
    : Is kk (fenceIncomplete s part pt l) := by
  unfold fenceIncomplete
  try dsimp only
  repeat' (first | with_reducible assumption | (with_reducible apply is_modPart) | (with_reducible apply is_chargeUnit) | (with_reducible apply is_permanentVerdict) | (with_reducible apply is_remapMemory) | (with_reducible apply is_flockEvent) | (with_reducible apply is_foldl; intro _ _ _) | (with_reducible apply is_meter) | split)

theorem is_replaceClusters {kk : Kept} {s : State} {part : Nat} {l : List Nat} (hk : Is kk s)
    : Is kk (replaceClusters s part l).1 := by
  unfold replaceClusters
  try dsimp only
  repeat' (first | with_reducible assumption | (with_reducible apply is_modPart) | (with_reducible apply is_markFailed) | (with_reducible apply is_swapIn (by with_reducible assumption)) | (with_reducible apply is_foldl_fst; intro _ _ _) | (with_reducible apply is_meter) | split)

theorem is_setupMoved {kk : Kept} {s : State} {pt : Part} (hk : Is kk s) : Is kk (setupMoved s pt) := by
  unfold setupMoved
  try dsimp only
  repeat' (first | with_reducible assumption | (with_reducible apply is_modCore) | (with_reducible apply is_foldl; intro _ _ _))

theorem is_announceMoves {kk : Kept} {s : State} {part : Nat} {pt : Part} (hk : Is kk s) : Is kk (announceMoves s part pt) := by
  unfold announceMoves
  try dsimp only
  repeat' (first | with_reducible assumption | (with_reducible apply is_announce) | (with_reducible apply is_foldl; intro _ _ _))

theorem is_endMove {kk : Kept} {s : State} {part : Nat} {pt : Part} (hk : Is kk s) : Is kk (endMove s part pt) := by
  unfold endMove
  try dsimp only
  repeat' (first | with_reducible assumption | (with_reducible apply is_modPart) | (with_reducible apply is_raiseFloors) | (with_reducible apply is_censusEnds) | (with_reducible apply is_resumeJob) | (with_reducible apply is_actionOver) | (with_reducible apply is_setupMoved) | (with_reducible apply is_announceMoves))

theorem is_rollCall {kk : Kept} {s : State} {part : Nat} {answers : List (Nat × Nat)} (hk : Is kk s) : Is kk (rollCall s part answers).1 := by
  unfold rollCall
  try dsimp only
  repeat' (first | with_reducible assumption | (simp only [↓is_mk_iff]; refine ⟨is_and ?_, ?_⟩) | (simp only [↓isM_mk_iff]; refine isM_and ?_) | (with_reducible apply is_modPart) | (with_reducible apply is_beginLoad) | (with_reducible apply is_repairTarget) | (with_reducible apply is_fenceIncomplete) | (with_reducible apply is_replaceClusters) | (with_reducible apply is_foldl; intro _ _ _) | (with_reducible apply is_foldl_fst; intro _ _ _) | (with_reducible apply is_foldl_s; intro _ _ _) | (with_reducible apply is_foldl_fst_s; intro _ _ _) | (with_reducible apply is_iter; intro _ _) | (with_reducible apply isM_foldl; intro _ _ _) | (with_reducible apply is_meter) | (intro _; try dsimp only) | (split <;> (try (rename_i hq; simp only [↓Prod.ext_iff] at hq; obtain ⟨hf, _⟩ := hq; subst hf))) | (dsimp only [id]))

theorem is_moveRollCall {kk : Kept} {s : State} {part : Nat} {r : State × RollCall} (hk : Is kk s) (hr : Is kk r.1) :
    Is kk (moveRollCall s part r) := by
  unfold moveRollCall
  split
  · exact is_endMove hr
  · exact is_actionOver (is_awaitReserve (is_modPart hr))
  · exact is_ite hr hk

theorem is_execFlockRollCallTimeout {kk : Kept} {part target : Nat} {s : State} {tR : State}
    (he : execFlockRollCallTimeout part target s = .next tR) (hk : Is kk s) : Is kk tR := by
  unfold execFlockRollCallTimeout at he
  with_reducible refine is_onUnit he ?_
  clear he
  try dsimp only
  repeat' (first | with_reducible assumption | (with_reducible apply is_modPart))

end Sys2Proof.Machine
end

