-- ==== Sys2Proof/Laws/KeptSounding.lean ====
section
/-! SUPPORT. One lemma per operation of Machine/Sounding.lean: it keeps what `Kept` lists, or only ages it. -/

namespace Sys2Proof.Machine

theorem is_soundNext {kk : Kept} {s : State} {p : Nat} (hk : Is kk s) : Is kk (soundNext s p) := by
  unfold soundNext
  try dsimp only
  repeat' (first | with_reducible assumption | (simp only [↓is_mk_iff]; refine ⟨is_and ?_, ?_⟩) | (with_reducible apply is_modPow) | (with_reducible apply is_startSlice) | (with_reducible apply is_pushAction) | (with_reducible apply is_meter) | split)

theorem is_newSweep {kk : Kept} {s : State} (hk : Is kk s) : Is kk (newSweep s) := by
  unfold newSweep
  try dsimp only
  repeat' (first | with_reducible assumption | (simp only [↓is_mk_iff]; refine ⟨is_and ?_, ?_⟩) | (with_reducible apply is_sweep) | (with_reducible apply is_meter) | (split <;> (try (rename_i hq; simp only [↓Prod.ext_iff] at hq; obtain ⟨hf, _⟩ := hq; subst hf))))

theorem is_execSoundingSweepTick {kk : Kept} {s : State} {tR : State} (he : execSoundingSweepTick s = .next tR) (hk : Is kk s)
    : Is kk tR := by
  unfold execSoundingSweepTick at he
  (try dsimp only at he)
  repeat' (first | (with_reducible cases he; done) | (with_reducible injection he with he; subst he) | (with_reducible obtain ⟨_, _, rfl⟩ := Option.map_eq_some_iff.1 he))
  repeat' (first | with_reducible assumption | (simp only [↓is_mk_iff]; refine ⟨is_and ?_, ?_⟩) | (with_reducible apply is_sweep) | (with_reducible apply is_sweepEnds) | (with_reducible apply is_soundNext) | (with_reducible apply is_newSweep) | (with_reducible apply is_meter) | split)

theorem is_restCluster {kk : Kept} {s : State} {c : Nat} (hk : Is kk s) : Is kk (restCluster s c) := by
  unfold restCluster
  try dsimp only
  repeat' (first | with_reducible assumption | (with_reducible apply is_modPow) | (with_reducible apply is_meter) | split)

theorem is_soundEnds {kk : Kept} {s : State} {p : Nat} (hk : Is kk s) : Is kk (soundEnds s p) := by
  unfold soundEnds
  try dsimp only
  repeat' (first | with_reducible assumption | (with_reducible apply is_modScree) | (with_reducible apply is_endTest) | (with_reducible apply is_tableReturn) | (with_reducible apply is_pushAction) | (with_reducible apply is_restCluster) | (with_reducible apply is_meter) | split)

theorem is_soundFails {kk : Kept} {s : State} {p n addr b : Nat} (hk : Is kk s) : Is kk (soundFails s p n addr b) := by
  unfold soundFails
  try dsimp only
  repeat' (first | with_reducible assumption | (with_reducible apply is_coreEvent) | (with_reducible apply is_modScree) | (with_reducible apply is_chargeUnit) | (with_reducible apply is_startSlice))

theorem is_soundCondemns {kk : Kept} {s : State} {p : Nat} {rec_ : List Byte} (hk : Is kk s)
    : Is kk (soundCondemns s p rec_) := by
  unfold soundCondemns
  try dsimp only
  repeat' (first | with_reducible assumption | (with_reducible apply is_endTest) | (with_reducible apply is_permanentCore))

theorem is_execSoundingSlice {kk : Kept} {core : Nat} {pass : Bool} {addr b : Nat} {s : State} {tR : State}
    (he : execSoundingSlice core pass addr b s = .next tR) (hk : Is kk s) : Is kk tR := by
  unfold execSoundingSlice at he
  with_reducible refine is_onUnit he ?_
  clear he
  try dsimp only
  repeat' (first | with_reducible assumption | (with_reducible apply is_startSlice) | (with_reducible apply is_soundEnds) | (with_reducible apply is_soundFails) | (with_reducible apply is_soundCondemns) | (with_reducible apply is_meter) | split)

theorem is_linkCheck {kk : Kept} {s : State} {l : Nat} (hk : Is kk s) : Is kk (linkCheck s l) := by
  unfold linkCheck
  try dsimp only
  repeat' (first | with_reducible assumption | (simp only [↓is_mk_iff]; refine ⟨is_and ?_, ?_⟩) | (with_reducible apply is_setService) | (with_reducible apply is_meter) | split)

theorem is_failLane {kk : Kept} {s0 : State} {unit reason : Nat} (hk : Is kk s0) : Is kk (failLane s0 unit reason) := by
  unfold failLane
  try dsimp only
  repeat' (first | with_reducible assumption | (simp only [↓is_mk_iff]; refine ⟨is_and ?_, ?_⟩) | (simp only [↓isM_mk_iff]; refine isM_and ?_) | (with_reducible apply is_addSoft) | (with_reducible apply is_addUncorrected) | (with_reducible apply is_linkCheck) | (with_reducible apply is_foldl; intro _ _ _) | (with_reducible apply is_foldl_fst; intro _ _ _) | (with_reducible apply is_foldl_s; intro _ _ _) | (with_reducible apply is_foldl_fst_s; intro _ _ _) | (with_reducible apply is_iter; intro _ _) | (with_reducible apply isM_foldl; intro _ _ _) | (with_reducible apply is_meter) | (intro _; try dsimp only) | (split <;> (try (rename_i hq; simp only [↓Prod.ext_iff] at hq; obtain ⟨hf, _⟩ := hq; subst hf))) | (dsimp only [id]))

theorem is_loseRow {kk : Kept} {s : State} {k u : Nat} (hk : Is kk s) : Is kk (loseRow s k u) := by
  unfold loseRow
  try dsimp only
  repeat' (first | with_reducible assumption | (with_reducible apply is_setTier) | (with_reducible apply is_foldl; intro _ _ _))

theorem is_countFail {kk : Kept} {s : State} {k u : Nat} (hk : Is kk s) : Is kk (countFail s k u) := by
  unfold countFail
  try dsimp only
  repeat' (first | with_reducible assumption | (with_reducible apply is_modScree) | (with_reducible apply is_meter) | (split <;> (try (rename_i hq; simp only [↓Prod.ext_iff] at hq; obtain ⟨hf, _⟩ := hq; subst hf))))

theorem is_repairDram {kk : Kept} {s : State} {k u reason : Nat} (hk : Is kk s) : Is kk (repairDram s k u reason) := by
  unfold repairDram
  try dsimp only
  repeat' (first | with_reducible assumption | (with_reducible apply is_setTier) | (with_reducible apply is_addSoft) | (with_reducible apply is_announceUnit) | (with_reducible apply is_foldl; intro _ _ _) | (with_reducible apply is_meter) | split)

theorem is_repairUnit {kk : Kept} {s : State} {unitKind unit test : Nat} (hk : Is kk s)
    : Is kk (repairUnit s unitKind unit test) := by
  unfold repairUnit
  try dsimp only
  repeat' (first | with_reducible assumption | (with_reducible apply is_addSoft) | (with_reducible apply is_useSpare) | (with_reducible apply is_dieOut) | (with_reducible apply is_failCluster) | (with_reducible apply is_permanentCore) | (with_reducible apply is_failLane) | (with_reducible apply is_countFail) | (with_reducible apply is_repairDram) | (with_reducible apply is_meter) | split)

theorem is_setSoft {kk : Kept} {s : State} {l : List Spoil} (hk : Is kk s) : Is kk (setSoft s l) := by
  unfold setSoft
  try dsimp only
  repeat' (first | with_reducible assumption | (simp only [↓is_mk_iff]; refine ⟨is_and ?_, ?_⟩) | (with_reducible apply is_meter))

theorem is_fuseEntry {kk : Kept} {s : State} {e : Spoil} (hk : Is kk s) : Is kk (fuseEntry s e) := by
  unfold fuseEntry
  try dsimp only
  repeat' (first | with_reducible assumption | (simp only [↓is_mk_iff]; refine ⟨is_and ?_, ?_⟩) | (with_reducible apply is_modScree) | (with_reducible apply is_setSoft) | (with_reducible apply is_meter) | split)

theorem is_fusePhase {kk : Kept} {s : State} (hk : Is kk s) : Is kk (fusePhase s) := by
  unfold fusePhase
  try dsimp only
  repeat' (first | with_reducible assumption | (with_reducible apply is_fuseEntry) | (with_reducible apply is_foldl; intro _ _ _))

theorem is_newPlan {kk : Kept} {s : State} (hk : Is kk s) : Is kk (newPlan s) := by
  unfold newPlan
  try dsimp only
  repeat' (first | with_reducible assumption | (simp only [↓is_mk_iff]; refine ⟨is_and ?_, ?_⟩) | (with_reducible apply is_meter))

theorem is_sliceEnds {kk : Kept} {s : State} {i : Nat} {results : List (Nat × Nat × Nat × Nat × Nat)} (hk : Is kk s)
    : Is kk (sliceEnds s i results) := by
  unfold sliceEnds
  try dsimp only
  repeat' (first | with_reducible assumption | (simp only [↓is_mk_iff]; refine ⟨is_and ?_, ?_⟩) | (with_reducible apply is_loseRow) | (with_reducible apply is_repairUnit) | (with_reducible apply is_foldl; intro _ _ _) | (with_reducible apply is_meter) | split)

theorem is_planStep {kk : Kept} {s : State} {results : List (Nat × Nat × Nat × Nat × Nat)} (hk : Is kk s)
    : Is kk (planStep s results).1 := by
  unfold planStep
  try dsimp only
  repeat' (first | with_reducible assumption | (simp only [↓is_mk_iff]; refine ⟨is_and ?_, ?_⟩) | (with_reducible apply is_fusePhase) | (with_reducible apply is_sliceEnds) | (with_reducible apply is_meter) | split)

theorem is_clearDies {kk : Kept} {s : State} (hk : Is kk s) : Is kk (clearDies s) := by
  unfold clearDies
  try dsimp only
  repeat' (first | with_reducible assumption | (with_reducible apply is_modDie) | (with_reducible apply is_foldl; intro _ _ _) | (with_reducible apply is_meter) | split)

theorem is_gather {kk : Kept} {s0 : State} (hk : Is kk s0) : Is kk (gather s0) := by
  unfold gather
  try dsimp only
  repeat' (first | with_reducible assumption | (simp only [↓is_mk_iff]; refine ⟨is_and ?_, ?_⟩) | (simp only [↓isM_mk_iff]; refine isM_and ?_) | (with_reducible apply is_modCore) | (with_reducible apply is_modSlice) | (with_reducible apply is_modSwitch) | (with_reducible apply is_addUncorrected) | (with_reducible apply is_addCorrected) | (with_reducible apply is_modRouter) | (with_reducible apply is_announceRetired) | (with_reducible apply is_foldl; intro _ _ _) | (with_reducible apply is_foldl_fst; intro _ _ _) | (with_reducible apply is_foldl_s; intro _ _ _) | (with_reducible apply is_foldl_fst_s; intro _ _ _) | (with_reducible apply is_iter; intro _ _) | (with_reducible apply isM_foldl; intro _ _ _) | (with_reducible apply is_meter) | (intro _; try dsimp only) | (split <;> (try (rename_i hq; simp only [↓Prod.ext_iff] at hq; obtain ⟨hf, _⟩ := hq; subst hf))) | (dsimp only [id]))

theorem is_execScreeBinTick {kk : Kept} {temps : List (Nat × Nat)} {volts : List (Nat × Int)} {s : State} {tR : State} (he : execScreeBinTick temps volts s = .next tR) (hk : Is kk s) : Is kk tR := by
  unfold execScreeBinTick at he
  (try dsimp only at he)
  repeat' (first | (with_reducible cases he; done) | (with_reducible injection he with he; subst he) | (with_reducible obtain ⟨_, _, rfl⟩ := Option.map_eq_some_iff.1 he) | (split at he <;> (try (rename_i hq; simp only [↓Prod.ext_iff] at hq; obtain ⟨hf, _⟩ := hq; subst hf))))
  all_goals (try (with_reducible refine is_onUnit he ?_))
  all_goals (try dsimp only)
  repeat' (first | with_reducible assumption | (simp only [↓is_mk_iff]; refine ⟨is_and ?_, ?_⟩) | (simp only [↓isM_mk_iff]; refine isM_and ?_) | (with_reducible apply is_gather) | (with_reducible apply is_foldl; intro _ _ _) | (with_reducible apply is_foldl_fst; intro _ _ _) | (with_reducible apply is_foldl_s; intro _ _ _) | (with_reducible apply is_foldl_fst_s; intro _ _ _) | (with_reducible apply is_iter; intro _ _) | (with_reducible apply isM_foldl; intro _ _ _) | (with_reducible apply is_meter) | (intro _; try dsimp only) | (split <;> (try (rename_i hq; simp only [↓Prod.ext_iff] at hq; obtain ⟨hf, _⟩ := hq; subst hf))) | (dsimp only [id]))

theorem is_writeGeneration {kk : Kept} {s : State} (hk : Is kk s) : Is kk (writeGeneration s) := by
  unfold writeGeneration
  try dsimp only
  repeat' (first | with_reducible assumption | (simp only [↓is_mk_iff]; refine ⟨is_and ?_, ?_⟩) | (simp only [↓isM_mk_iff]; refine isM_and ?_) | (with_reducible apply is_foldl; intro _ _ _) | (with_reducible apply is_foldl_fst; intro _ _ _) | (with_reducible apply is_foldl_s; intro _ _ _) | (with_reducible apply is_foldl_fst_s; intro _ _ _) | (with_reducible apply is_iter; intro _ _) | (with_reducible apply isM_foldl; intro _ _ _) | (with_reducible apply is_meter) | (intro _; try dsimp only) | (split <;> (try (rename_i hq; simp only [↓Prod.ext_iff] at hq; obtain ⟨hf, _⟩ := hq; subst hf))) | (dsimp only [id]))

theorem is_execScreeGenerationWrite {kk : Kept} {s : State} {tR : State} (he : execScreeGenerationWrite s = .next tR) (hk
    : Is kk s) : Is kk tR := by
  unfold execScreeGenerationWrite at he
  repeat' (first | (with_reducible cases he; done) | (with_reducible injection he with he; subst he) | (with_reducible obtain ⟨_, _, rfl⟩ := Option.map_eq_some_iff.1 he))
  repeat' (first | with_reducible assumption | (with_reducible apply is_writeGeneration) | (with_reducible apply is_meter) | split)

theorem is_overdueGeneration {kk : Kept} {s : State} (hk : Is kk s) : Is kk (overdueGeneration s) := by
  unfold overdueGeneration
  try dsimp only
  repeat' (first | with_reducible assumption | (simp only [↓is_mk_iff]; refine ⟨is_and ?_, ?_⟩) | (simp only [↓isM_mk_iff]; refine isM_and ?_) | (with_reducible apply is_writeGeneration) | (with_reducible apply is_foldl; intro _ _ _) | (with_reducible apply is_foldl_fst; intro _ _ _) | (with_reducible apply is_foldl_s; intro _ _ _) | (with_reducible apply is_foldl_fst_s; intro _ _ _) | (with_reducible apply is_iter; intro _ _) | (with_reducible apply isM_foldl; intro _ _ _) | (with_reducible apply is_meter) | (intro _; try dsimp only) | (split <;> (try (rename_i hq; simp only [↓Prod.ext_iff] at hq; obtain ⟨hf, _⟩ := hq; subst hf))) | (dsimp only [id]))

theorem is_execDramRefresh {kk : Kept} {tier unit : Nat} {calOk : Bool} {s : State} {tR : State}
    (he : execDramRefresh tier unit calOk s = .next tR) (hk : Is kk s) : Is kk tR := by
  unfold execDramRefresh at he
  with_reducible refine is_onUnit he ?_
  clear he
  try dsimp only
  repeat' (first | with_reducible assumption | (with_reducible apply is_postEvent) | (with_reducible apply is_setTier) | (with_reducible apply is_meter) | split)

end Sys2Proof.Machine
end

