-- ==== Sys2Proof/Laws/KeptPower.lean ====
section
/-! SUPPORT. One lemma per operation of Machine/Power.lean: it keeps what `Kept` lists, or only ages it. -/

namespace Sys2Proof.Machine

theorem is_holdRatio {kk : Kept} {y1 : Nat} {y2 : State} {y3 : Nat} (hk : Is kk y2) : Is kk (holdRatio y1 y2 y3) := by
  induction y1 generalizing y2 y3 with
  | zero => (unfold holdRatio; (try dsimp only); repeat' (with_reducible assumption))
  | succ n ih => (unfold holdRatio; (try dsimp only); repeat' (first | with_reducible assumption | (with_reducible apply ih) | (with_reducible apply is_modPow) | (with_reducible apply is_foldl; intro _ _ _) | (with_reducible apply is_meter) | split))

theorem is_lowerTo {kk : Kept} {s : State} {c g : Nat} (hk : Is kk s) : Is kk (lowerTo s c g) := by
  unfold lowerTo
  try dsimp only
  repeat' (first | with_reducible assumption | (with_reducible apply is_modPow) | (with_reducible apply is_holdRatio))

theorem is_lowerStep {kk : Kept} {s : State} {c : Nat} (hk : Is kk s) : Is kk (lowerStep s c) := by
  unfold lowerStep
  try dsimp only
  repeat' (first | with_reducible assumption | (with_reducible apply is_modPow) | (with_reducible apply is_lowerTo) | (with_reducible apply is_meter) | split)

theorem is_clampStep {kk : Kept} {s : State} {c kind : Nat} (hk : Is kk s) : Is kk (clampStep s c kind) := by
  unfold clampStep
  try dsimp only
  repeat' (first | with_reducible assumption | (with_reducible apply is_modPow) | (with_reducible apply is_lowerStep))

theorem is_execLendFlagSet {kk : Kept} {cluster : Nat} {s : State} {tR : State} (he : execLendFlagSet cluster s = .next tR) (hk
    : Is kk s) : Is kk tR := by
  unfold execLendFlagSet at he
  with_reducible refine is_onUnit he ?_
  clear he
  try dsimp only
  repeat' (first | with_reducible assumption | (with_reducible apply is_setPow) | (with_reducible apply is_shareLent) | (with_reducible apply is_meter) | split)

theorem is_execGrantChangeDone {kk : Kept} {cluster : Nat} {s : State} {tR : State}
    (he : execGrantChangeDone cluster s = .next tR) (hk : Is kk s) : Is kk tR := by
  unfold execGrantChangeDone at he
  with_reducible refine is_onUnit he ?_
  clear he
  try dsimp only
  repeat' (first | with_reducible assumption | (with_reducible apply is_modPow))

theorem is_reduceStep {kk : Kept} {s : State} (hk : Is kk s) : Is kk (reduceStep s) := by
  unfold reduceStep
  try dsimp only
  repeat' (first | with_reducible assumption | (simp only [↓is_mk_iff]; refine ⟨is_and ?_, ?_⟩) | (with_reducible apply is_modPow) | (with_reducible apply is_lowerTo) | (with_reducible apply is_foldl; intro _ _ _) | (with_reducible apply is_meter) | split)

theorem is_restoreLent {kk : Kept} {s : State} (hk : Is kk s) : Is kk (restoreLent s) := by
  unfold restoreLent
  try dsimp only
  repeat' (first | with_reducible assumption | (simp only [↓is_mk_iff]; refine ⟨is_and ?_, ?_⟩) | (simp only [↓isM_mk_iff]; refine isM_and ?_) | (with_reducible apply is_lendRound) | (with_reducible apply is_useFree) | (with_reducible apply is_foldl; intro _ _ _) | (with_reducible apply is_foldl_fst; intro _ _ _) | (with_reducible apply is_foldl_s; intro _ _ _) | (with_reducible apply is_foldl_fst_s; intro _ _ _) | (with_reducible apply is_iter; intro _ _) | (with_reducible apply isM_foldl; intro _ _ _) | (with_reducible apply is_meter) | (intro _; try dsimp only) | (split <;> (try (rename_i hq; simp only [↓Prod.ext_iff] at hq; obtain ⟨hf, _⟩ := hq; subst hf))) | (dsimp only [id]))

theorem is_restoreStep {kk : Kept} {s : State} (hk : Is kk s) : Is kk (restoreStep s) := by
  unfold restoreStep
  try dsimp only
  repeat' (first | with_reducible assumption | (simp only [↓is_mk_iff]; refine ⟨is_and ?_, ?_⟩) | (simp only [↓isM_mk_iff]; refine isM_and ?_) | (with_reducible apply is_modPow) | (with_reducible apply is_restoreLent) | (with_reducible apply is_foldl; intro _ _ _) | (with_reducible apply is_foldl_fst; intro _ _ _) | (with_reducible apply is_foldl_s; intro _ _ _) | (with_reducible apply is_foldl_fst_s; intro _ _ _) | (with_reducible apply is_iter; intro _ _) | (with_reducible apply isM_foldl; intro _ _ _) | (with_reducible apply is_meter) | (intro _; try dsimp only) | (split <;> (try (rename_i hq; simp only [↓Prod.ext_iff] at hq; obtain ⟨hf, _⟩ := hq; subst hf))) | (dsimp only [id]))

theorem is_execPowerBudgetTick {kk : Kept} {estimate : Nat} {s : State} {tR : State} (he : execPowerBudgetTick estimate s = .next tR) (hk : Is kk s) : Is kk tR := by
  unfold execPowerBudgetTick at he
  (try dsimp only at he)
  repeat' (first | (with_reducible cases he; done) | (with_reducible injection he with he; subst he) | (with_reducible obtain ⟨_, _, rfl⟩ := Option.map_eq_some_iff.1 he) | (split at he <;> (try (rename_i hq; simp only [↓Prod.ext_iff] at hq; obtain ⟨hf, _⟩ := hq; subst hf))))
  all_goals (try (with_reducible refine is_onUnit he ?_))
  all_goals (try dsimp only)
  repeat' (first | with_reducible assumption | (simp only [↓is_mk_iff]; refine ⟨is_and ?_, ?_⟩) | (simp only [↓isM_mk_iff]; refine isM_and ?_) | (with_reducible apply is_reduceStep) | (with_reducible apply is_restoreStep) | (with_reducible apply is_foldl; intro _ _ _) | (with_reducible apply is_foldl_fst; intro _ _ _) | (with_reducible apply is_foldl_s; intro _ _ _) | (with_reducible apply is_foldl_fst_s; intro _ _ _) | (with_reducible apply is_iter; intro _ _) | (with_reducible apply isM_foldl; intro _ _ _) | (with_reducible apply is_meter) | (intro _; try dsimp only) | (split <;> (try (rename_i hq; simp only [↓Prod.ext_iff] at hq; obtain ⟨hf, _⟩ := hq; subst hf))) | (dsimp only [id]))

theorem is_execPwrLimitWrite {kk : Kept} {value : W64} {s : State} {tR : State} (he : execPwrLimitWrite value s = .next tR) (hk
    : Is kk s) : Is kk tR := by
  unfold execPwrLimitWrite at he
  (try dsimp only at he)
  repeat' (first | (with_reducible cases he; done) | (with_reducible injection he with he; subst he) | (with_reducible obtain ⟨_, _, rfl⟩ := Option.map_eq_some_iff.1 he))
  repeat' (first | with_reducible assumption | (simp only [↓is_mk_iff]; refine ⟨is_and ?_, ?_⟩) | (with_reducible apply is_meter) | split)

theorem is_execPwrLimitRead {kk : Kept} {s : State} {tR : State} (he : execPwrLimitRead s = .next tR) (hk : Is kk s)
    : Is kk tR := by
  unfold execPwrLimitRead at he
  repeat' (first | (with_reducible cases he; done) | (with_reducible injection he with he; subst he) | (with_reducible obtain ⟨_, _, rfl⟩ := Option.map_eq_some_iff.1 he))
  repeat' (first | with_reducible assumption | (simp only [↓is_mk_iff]; refine ⟨is_and ?_, ?_⟩) | (with_reducible apply is_meter))

theorem is_atFloor {kk : Kept} {s : State} {c : Nat} (hk : Is kk s) : Is kk (atFloor s c) := by
  unfold atFloor
  try dsimp only
  repeat' (first | with_reducible assumption | (with_reducible apply is_modPow) | (with_reducible apply is_holdRatio))

theorem is_execPwrBrakeAssert {kk : Kept} {s : State} {tR : State} (he : execPwrBrakeAssert s = .next tR) (hk : Is kk s)
    : Is kk tR := by
  unfold execPwrBrakeAssert at he
  repeat' (first | (with_reducible cases he; done) | (with_reducible injection he with he; subst he) | (with_reducible obtain ⟨_, _, rfl⟩ := Option.map_eq_some_iff.1 he))
  repeat' (first | with_reducible assumption | (simp only [↓is_mk_iff]; refine ⟨is_and ?_, ?_⟩) | (with_reducible apply is_modPow) | (with_reducible apply is_atFloor) | (with_reducible apply is_foldl; intro _ _ _) | (with_reducible apply is_meter))

theorem is_execPwrBrakeRelease {kk : Kept} {s : State} {tR : State} (he : execPwrBrakeRelease s = .next tR) (hk : Is kk s)
    : Is kk tR := by
  unfold execPwrBrakeRelease at he
  repeat' (first | (with_reducible cases he; done) | (with_reducible injection he with he; subst he) | (with_reducible obtain ⟨_, _, rfl⟩ := Option.map_eq_some_iff.1 he))
  repeat' (first | with_reducible assumption | (simp only [↓is_mk_iff]; refine ⟨is_and ?_, ?_⟩) | (with_reducible apply is_meter))

theorem is_execVoltageClamp {kk : Kept} {a b va vb : Nat} {s : State} {tR : State}
    (he : execVoltageClamp a b va vb s = .next tR) (hk : Is kk s) : Is kk tR := by
  unfold execVoltageClamp at he
  with_reducible refine is_onUnit he ?_
  clear he
  try dsimp only
  repeat' (first | with_reducible assumption | (with_reducible apply is_modPow) | (with_reducible apply is_clampStep) | (with_reducible apply is_meter) | split)

theorem is_throttle {kk : Kept} {s : State} {c : Nat} {t : Int} (hk : Is kk s) : Is kk (throttle s c t) := by
  unfold throttle
  try dsimp only
  repeat' (first | with_reducible assumption | (with_reducible apply is_setPow) | (with_reducible apply is_modPow) | (with_reducible apply is_clampStep) | (with_reducible apply is_meter) | split)

theorem is_temperatureClamp {kk : Kept} {s : State} {c : Nat} (hk : Is kk s) : Is kk (temperatureClamp s c) := by
  unfold temperatureClamp
  try dsimp only
  repeat' (first | with_reducible assumption | (with_reducible apply is_modPow) | (with_reducible apply is_clampStep) | (with_reducible apply is_meter) | split)

theorem is_readSensor {kk : Kept} {s : State} {sensor : Nat} {t : Int} (hk : Is kk s) : Is kk (readSensor s sensor t) := by
  unfold readSensor
  try dsimp only
  repeat' (first | with_reducible assumption | (simp only [↓is_mk_iff]; refine ⟨is_and ?_, ?_⟩) | (with_reducible apply is_modPow) | (with_reducible apply is_atFloor) | (with_reducible apply is_throttle) | (with_reducible apply is_temperatureClamp) | (with_reducible apply is_foldl; intro _ _ _) | (with_reducible apply is_meter) | split)

theorem is_execClusterIdleEntry {kk : Kept} {cluster : Nat} {s : State} {tR : State}
    (he : execClusterIdleEntry cluster s = .next tR) (hk : Is kk s) : Is kk tR := by
  unfold execClusterIdleEntry at he
  with_reducible refine is_onUnit he ?_
  clear he
  try dsimp only
  repeat' (first | with_reducible assumption | (with_reducible apply is_modPow) | (with_reducible apply is_meter) | split)

theorem is_execClusterWake {kk : Kept} {cluster : Nat} {s : State} {tR : State} (he : execClusterWake cluster s = .next tR) (hk
    : Is kk s) : Is kk tR := by
  unfold execClusterWake at he
  with_reducible refine is_onUnit he ?_
  clear he
  try dsimp only
  repeat' (first | with_reducible assumption | (with_reducible apply is_awaken) | (with_reducible apply is_wipeCluster) | (with_reducible apply is_meter) | split)

end Sys2Proof.Machine
end

