-- ==== Sys2Proof/Laws/KeptMeter.lean ====
section
/-! SUPPORT. One lemma per operation of Machine/Meter.lean: it keeps what `Kept` lists, or only ages it. -/

namespace Sys2Proof.Machine

theorem is_setTap {kk : Kept} {m : Meter} {k : Nat} {t : Tap} (hk : IsM kk m ) : IsM kk (setTap m k t)  := by
  unfold setTap
  try dsimp only
  repeat' (first | with_reducible assumption | (simp only [↓isM_mk_iff]; refine isM_and ?_))

theorem is_setGroup {kk : Kept} {m : Meter} {g : Nat} {v : Group} (hk : IsM kk m ) : IsM kk (setGroup m g v)  := by
  unfold setGroup
  try dsimp only
  repeat' (first | with_reducible assumption | (simp only [↓isM_mk_iff]; refine isM_and ?_))

theorem is_modLine {kk : Kept} {m : Meter} {p : Nat} {f : Line → Line} (hk : IsM kk m ) : IsM kk (modLine m p f)  := by
  unfold modLine
  try dsimp only
  repeat' (first | with_reducible assumption | (simp only [↓isM_mk_iff]; refine isM_and ?_))

theorem is_addAudit {kk : Kept} {m : Meter} {code old new : Nat} (hk : IsM kk m ) : IsM kk (addAudit m code old new)  := by
  unfold addAudit
  try dsimp only
  repeat' (first | with_reducible assumption | (simp only [↓isM_mk_iff]; refine isM_and ?_) | (with_reducible apply is_meter) | split)

theorem ag_breakSeal {kk : Kept} {s : State} {cause : Nat} (hk : Ag kk s) : Ag kk (breakSeal s cause) := by
  unfold breakSeal
  dsimp only
  split
  · refine ag_mk_iff.2 ⟨ag_and hk, ?_⟩
    exact ⟨(isM_same (is_addAudit (isM_keptM s.meter kk))).1.trans hk.meter.sealFuse, fun _ => rfl⟩
  · exact hk

theorem is_sessionsStep {kk : Kept} {m m1 : Meter} (hk : IsM kk m1) : IsM kk (sessionsStep m m1) := by
  unfold sessionsStep
  dsimp only
  repeat' (first | with_reducible assumption | (simp only [↓isM_mk_iff]; refine isM_and ?_) | (with_reducible apply isM_foldl; intro _ _ _) | (with_reducible apply is_modLine) | split)

theorem is_openRecord {kk : Kept} {m : Meter} {start : Nat} {gap : Bool} (hk : IsM kk m ) : IsM kk (openRecord m start gap)  := by
  unfold openRecord
  try dsimp only
  repeat' (first | with_reducible assumption | (simp only [↓isM_mk_iff]; refine isM_and ?_))

theorem is_closeRecord {kk : Kept} {s : State} {endT : Nat} (hk : Is kk s) : Is kk (closeRecord s endT) := by
  unfold closeRecord
  try dsimp only
  repeat' (first | with_reducible assumption | (simp only [↓is_mk_iff]; refine ⟨is_and ?_, ?_⟩) | (simp only [↓isM_mk_iff]; refine isM_and ?_) | (with_reducible apply is_useFree) | (with_reducible apply is_meter))

theorem is_settle {kk : Kept} {s : State} {b : Nat} (hk : Is kk s) : Is kk (settle s b) := by
  unfold settle
  try dsimp only
  repeat' (first | with_reducible assumption | (simp only [↓is_mk_iff]; refine ⟨is_and ?_, ?_⟩) | (simp only [↓isM_mk_iff]; refine isM_and ?_) | (with_reducible apply is_openRecord) | (with_reducible apply is_closeRecord) | (with_reducible apply is_meter) | split)

theorem is_execSettlementClose {kk : Kept} {s : State} {tR : State} (he : execSettlementClose s = .next tR) (hk : Is kk s)
    : Is kk tR := by
  unfold execSettlementClose at he
  repeat' (first | (with_reducible cases he; done) | (with_reducible injection he with he; subst he) | (with_reducible obtain ⟨_, _, rfl⟩ := Option.map_eq_some_iff.1 he))
  repeat' (first | with_reducible assumption | (with_reducible apply is_settle) | (with_reducible apply is_meter) | split)

theorem is_execMtrLastAdvance {kk : Kept} {s : State} {tR : State} (he : execMtrLastAdvance s = .next tR) (hk : Is kk s)
    : Is kk tR := by
  unfold execMtrLastAdvance at he
  (try dsimp only at he)
  repeat' (first | (with_reducible cases he; done) | (with_reducible injection he with he; subst he) | (with_reducible obtain ⟨_, _, rfl⟩ := Option.map_eq_some_iff.1 he) | split at he)
  repeat' (first | with_reducible assumption | (simp only [↓is_mk_iff]; refine ⟨is_and ?_, ?_⟩) | (simp only [↓isM_mk_iff]; refine isM_and ?_) | (with_reducible apply is_meter))

theorem is_sampleGroup {kk : Kept} {m : Meter} {g : Nat} {v i : Option Nat} (hk : IsM kk m ) : IsM kk (sampleGroup m g v i)  := by
  unfold sampleGroup
  try dsimp only
  repeat' (first | with_reducible assumption | (simp only [↓isM_mk_iff]; refine isM_and ?_) | (with_reducible apply is_setGroup) | (with_reducible apply is_meter) | split)

theorem is_divideHbm {kk : Kept} {m : Meter} (hk : IsM kk m ) : IsM kk (divideHbm m)  := by
  unfold divideHbm
  try dsimp only
  repeat' (first | with_reducible assumption | (simp only [↓isM_mk_iff]; refine isM_and ?_) | (with_reducible apply is_setGroup) | (with_reducible apply is_modLine) | (with_reducible apply isM_foldl; intro _ _ _) | (with_reducible apply is_meter) | split)

theorem is_execMeterSample {kk : Kept} {volts amps : List Nat} {s : State} {tR : State}
    (he : execMeterSample volts amps s = .next tR) (hk : Is kk s) : Is kk tR := by
  unfold execMeterSample at he
  (try dsimp only at he)
  repeat' (first | (with_reducible cases he; done) | (with_reducible injection he with he; subst he) | (with_reducible obtain ⟨_, _, rfl⟩ := Option.map_eq_some_iff.1 he) | split at he)
  repeat' (first | with_reducible assumption | (simp only [↓is_mk_iff]; refine ⟨is_and ?_, ?_⟩) | (simp only [↓isM_mk_iff]; refine isM_and ?_) | (with_reducible apply is_sampleGroup) | (with_reducible apply is_divideHbm) | (with_reducible apply isM_foldl; intro _ _ _) | (with_reducible apply is_meter) | split)

theorem is_countTap {kk : Kept} {s : State} {k charge cycles sounding : Nat} (hk : Is kk s)
    : Is kk (countTap s k charge cycles sounding) := by
  unfold countTap
  try dsimp only
  repeat' (first | with_reducible assumption | (simp only [↓is_mk_iff]; refine ⟨is_and ?_, ?_⟩) | (with_reducible apply is_meter))

theorem is_countTaps {kk : Kept} {s : State} {die : Nat} {charge cycles withdrawn inPlace : List Nat} (hk : Is kk s)
    : Is kk (countTaps s die charge cycles withdrawn inPlace) := by
  unfold countTaps
  try dsimp only
  repeat' (first | with_reducible assumption | (with_reducible apply is_countTap) | (with_reducible apply is_foldl; intro _ _ _))

theorem is_countOther {kk : Kept} {s : State} {die : Nat} {other : List Nat} (hk : Is kk s) : Is kk (countOther s die other) := by
  unfold countOther
  try dsimp only
  repeat' (first | with_reducible assumption | (simp only [↓is_mk_iff]; refine ⟨is_and ?_, ?_⟩) | (with_reducible apply is_foldl; intro _ _ _) | (with_reducible apply is_meter))

theorem is_bookCluster {kk : Kept} {dt cap sum volts : Nat} {late : Bool} {m : Meter} {x : TapStep} (hk : IsM kk m ) : IsM kk (bookCluster dt cap sum volts late m x)  := by
  unfold bookCluster
  try dsimp only
  repeat' (first | with_reducible assumption | (simp only [↓is_mk_iff]; refine ⟨is_and ?_, ?_⟩) | (simp only [↓isM_mk_iff]; refine isM_and ?_) | (with_reducible apply is_modLine) | (with_reducible apply is_foldl; intro _ _ _) | (with_reducible apply is_foldl_fst; intro _ _ _) | (with_reducible apply is_foldl_s; intro _ _ _) | (with_reducible apply is_foldl_fst_s; intro _ _ _) | (with_reducible apply is_iter; intro _ _) | (with_reducible apply isM_foldl; intro _ _ _) | (with_reducible apply is_meter) | (intro _; try dsimp only) | (split <;> (try (rename_i hq; simp only [↓Prod.ext_iff] at hq; obtain ⟨hf, _⟩ := hq; subst hf))) | (dsimp only [id]))

theorem is_keepTap {kk : Kept} {s : State} {m : Meter} {x : TapStep} (hk : IsM kk m ) : IsM kk (keepTap s m x)  := by
  unfold keepTap
  try dsimp only
  repeat' (first | with_reducible assumption | (with_reducible apply is_setTap))

theorem is_takeHbm {kk : Kept} {s : State} {book : Bool} {m : Meter} {k : Nat} (hk : IsM kk m )
    : IsM kk (takeHbm s book m k)  := by
  unfold takeHbm
  try dsimp only
  repeat' (first | with_reducible assumption | (simp only [↓isM_mk_iff]; refine isM_and ?_) | (with_reducible apply is_meter) | split)

theorem is_bookFrame {kk : Kept} {s : State} {die turn : Nat} (hk : Is kk s) : IsM kk (bookFrame s die turn)  := by
  unfold bookFrame
  try dsimp only
  repeat' (first | with_reducible assumption | (simp only [↓is_mk_iff]; refine ⟨is_and ?_, ?_⟩) | (simp only [↓isM_mk_iff]; refine isM_and ?_) | (with_reducible apply is_setGroup) | (with_reducible apply is_sessionsStep) | (with_reducible apply is_bookCluster) | (with_reducible apply is_keepTap) | (with_reducible apply is_takeHbm) | (with_reducible apply is_foldl; intro _ _ _) | (with_reducible apply is_foldl_fst; intro _ _ _) | (with_reducible apply is_foldl_s; intro _ _ _) | (with_reducible apply is_foldl_fst_s; intro _ _ _) | (with_reducible apply is_iter; intro _ _) | (with_reducible apply isM_foldl; intro _ _ _) | (with_reducible apply is_meter) | (intro _; try dsimp only) | (split <;> (try (rename_i hq; simp only [↓Prod.ext_iff] at hq; obtain ⟨hf, _⟩ := hq; subst hf))) | (dsimp only [id]))

theorem is_execTapFrame {kk : Kept} {die : Nat} {crcOk : Bool} {charge cycles withdrawn inPlace other : List Nat} {s : State} {tR : State}
    (he : execTapFrame die crcOk charge cycles withdrawn inPlace other s = .next tR) (hk : Is kk s) : Is kk tR := by
  unfold execTapFrame at he
  (try dsimp only at he)
  repeat' (first | (with_reducible cases he; done) | (with_reducible injection he with he; subst he) | (with_reducible obtain ⟨_, _, rfl⟩ := Option.map_eq_some_iff.1 he) | split at he)
  repeat' (first | with_reducible assumption | (simp only [↓is_mk_iff]; refine ⟨is_and ?_, ?_⟩) | (with_reducible apply is_countTaps) | (with_reducible apply is_countOther) | (with_reducible apply is_bookFrame) | (with_reducible apply is_meter) | split)

theorem is_execTapGapTimeout {kk : Kept} {die : Nat} {s : State} {tR : State} (he : execTapGapTimeout die s = .next tR) (hk
    : Is kk s) : Is kk tR := by
  unfold execTapGapTimeout at he
  (try dsimp only at he)
  repeat' (first | (with_reducible cases he; done) | (with_reducible injection he with he; subst he) | (with_reducible obtain ⟨_, _, rfl⟩ := Option.map_eq_some_iff.1 he) | split at he)
  repeat' (first | with_reducible assumption | (simp only [↓is_mk_iff]; refine ⟨is_and ?_, ?_⟩) | (simp only [↓isM_mk_iff]; refine isM_and ?_) | (with_reducible apply is_setGroup) | (with_reducible apply is_meter))

theorem is_chipStep {kk : Kept} {m : Meter} {k b : Nat} (hk : IsM kk m ) : IsM kk (chipStep m k b)  := by
  unfold chipStep
  try dsimp only
  repeat' (first | with_reducible assumption | (with_reducible apply is_setTap))

theorem is_execBallastChip {kk : Kept} {damaged : List Nat} {s : State} {tR : State} (he : execBallastChip damaged s = .next tR)
    (hk : Is kk s) : Is kk tR := by
  unfold execBallastChip at he
  (try dsimp only at he)
  repeat' (first | (with_reducible cases he; done) | (with_reducible injection he with he; subst he) | (with_reducible obtain ⟨_, _, rfl⟩ := Option.map_eq_some_iff.1 he) | split at he)
  repeat' (first | with_reducible assumption | (simp only [↓is_mk_iff]; refine ⟨is_and ?_, ?_⟩) | (simp only [↓isM_mk_iff]; refine isM_and ?_) | (with_reducible apply is_chipStep) | (with_reducible apply isM_foldl; intro _ _ _) | (with_reducible apply is_meter))

theorem is_renewGain {kk : Kept} {s : State} {m : Meter} {e : Nat × Option (Nat × Nat)} (hk : IsM kk m )
    : IsM kk (renewGain s m e)  := by
  unfold renewGain
  try dsimp only
  repeat' (first | with_reducible assumption | (with_reducible apply is_setTap) | (with_reducible apply is_meter) | split)

theorem is_execBallastCalibration {kk : Kept} {gains : List (Nat × Option (Nat × Nat))} {s : State} {tR : State}
    (he : execBallastCalibration gains s = .next tR) (hk : Is kk s) : Is kk tR := by
  unfold execBallastCalibration at he
  repeat' (first | (with_reducible cases he; done) | (with_reducible injection he with he; subst he) | (with_reducible obtain ⟨_, _, rfl⟩ := Option.map_eq_some_iff.1 he) | split at he)
  repeat' (first | with_reducible assumption | (simp only [↓is_mk_iff]; refine ⟨is_and ?_, ?_⟩) | (with_reducible apply is_renewGain) | (with_reducible apply isM_foldl; intro _ _ _) | (with_reducible apply is_meter))

theorem is_execCalibrationStale {kk : Kept} {cluster : Nat} {s : State} {tR : State}
    (he : execCalibrationStale cluster s = .next tR) (hk : Is kk s) : Is kk tR := by
  unfold execCalibrationStale at he
  (try dsimp only at he)
  repeat' (first | (with_reducible cases he; done) | (with_reducible injection he with he; subst he) | (with_reducible obtain ⟨_, _, rfl⟩ := Option.map_eq_some_iff.1 he) | split at he)
  repeat' (first | with_reducible assumption | (simp only [↓is_mk_iff]; refine ⟨is_and ?_, ?_⟩) | (simp only [↓isM_mk_iff]; refine isM_and ?_) | (with_reducible apply is_setTap) | (with_reducible apply is_modLine) | (with_reducible apply is_meter))

theorem is_commit {kk : Kept} {m : Meter} (hk : IsM kk m ) : IsM kk (commit m)  := by
  unfold commit
  try dsimp only
  repeat' (first | with_reducible assumption | (simp only [↓isM_mk_iff]; refine isM_and ?_))

theorem is_execMeterCommit {kk : Kept} {s : State} {tR : State} (he : execMeterCommit s = .next tR) (hk : Is kk s)
    : Is kk tR := by
  unfold execMeterCommit at he
  repeat' (first | (with_reducible cases he; done) | (with_reducible injection he with he; subst he) | (with_reducible obtain ⟨_, _, rfl⟩ := Option.map_eq_some_iff.1 he) | split at he)
  repeat' (first | with_reducible assumption | (simp only [↓is_mk_iff]; refine ⟨is_and ?_, ?_⟩) | (with_reducible apply is_commit) | (with_reducible apply is_meter))

theorem is_execMeterVddLow {kk : Kept} {s : State} {tR : State} (he : execMeterVddLow s = .next tR) (hk : Is kk s)
    : Is kk tR := by
  unfold execMeterVddLow at he
  (try dsimp only at he)
  repeat' (first | (with_reducible cases he; done) | (with_reducible injection he with he; subst he) | (with_reducible obtain ⟨_, _, rfl⟩ := Option.map_eq_some_iff.1 he) | split at he)
  repeat' (first | with_reducible assumption | (simp only [↓is_mk_iff]; refine ⟨is_and ?_, ?_⟩) | (simp only [↓isM_mk_iff]; refine isM_and ?_) | (with_reducible apply is_commit) | (with_reducible apply is_meter) | split)

theorem is_closeShort {kk : Kept} {s : State} {endT : Nat} (hk : Is kk s) : Is kk (closeShort s endT) := by
  unfold closeShort
  try dsimp only
  repeat' (first | with_reducible assumption | (simp only [↓is_mk_iff]; refine ⟨is_and ?_, ?_⟩) | (simp only [↓isM_mk_iff]; refine isM_and ?_) | (with_reducible apply is_closeRecord) | (with_reducible apply is_meter) | split)

theorem is_meterBoot {kk : Kept} {m : Meter} {seen : Bool} (hk : IsM kk m ) : IsM kk (meterBoot m seen)  := by
  unfold meterBoot
  try dsimp only
  repeat' (first | with_reducible assumption | (simp only [↓isM_mk_iff]; refine isM_and ?_) | (with_reducible apply is_openRecord))

theorem ag_execMeterPowerOn {kk : Kept} {fwOk calOk : Bool} {s : State} {tR : State}
    (he : execMeterPowerOn fwOk calOk s = .next tR) (hk : Ag kk s) : Ag kk tR := by
  unfold execMeterPowerOn at he
  (try dsimp only at he)
  repeat' (first | (with_reducible cases he; done) | (with_reducible injection he with he; subst he) | (with_reducible obtain ⟨_, _, rfl⟩ := Option.map_eq_some_iff.1 he) | split at he)
  repeat' (first | with_reducible assumption | (simp only [↓ag_mk_iff]; refine ⟨ag_and ?_, ?_⟩) | (simp only [↓agM_mk_iff]; refine agM_and ?_) | (with_reducible refine ag_of (fun _ hk => is_useFree hk) ?_) | (with_reducible apply ag_breakSeal) | (with_reducible refine ag_of (fun _ hk => is_closeShort hk) ?_) | (with_reducible refine agM_of (fun _ hk => is_meterBoot hk) ?_) | (with_reducible apply ag_meter))

theorem is_meterRestart {kk : Kept} {s : State} (hk : Is kk s) : Is kk (meterRestart s) := by
  unfold meterRestart
  try dsimp only
  repeat' (first | with_reducible assumption | (simp only [↓is_mk_iff]; refine ⟨is_and ?_, ?_⟩) | (with_reducible apply is_commit) | (with_reducible apply is_closeShort) | (with_reducible apply is_meterBoot) | (with_reducible apply is_meter))

theorem is_meterRetry {kk : Kept} {s : State} (hk : Is kk s) : Is kk (meterRetry s) := by
  unfold meterRetry
  try dsimp only
  repeat' (first | with_reducible assumption | (simp only [↓is_mk_iff]; refine ⟨is_and ?_, ?_⟩) | (simp only [↓isM_mk_iff]; refine isM_and ?_) | (with_reducible apply is_meterBoot) | (with_reducible apply is_foldl; intro _ _ _) | (with_reducible apply is_foldl_fst; intro _ _ _) | (with_reducible apply is_foldl_s; intro _ _ _) | (with_reducible apply is_foldl_fst_s; intro _ _ _) | (with_reducible apply is_iter; intro _ _) | (with_reducible apply isM_foldl; intro _ _ _) | (with_reducible apply is_meter) | (intro _; try dsimp only) | (split <;> (try (rename_i hq; simp only [↓Prod.ext_iff] at hq; obtain ⟨hf, _⟩ := hq; subst hf))) | (dsimp only [id]))

theorem is_resetMeter {kk : Kept} {s : State} (hk : Is kk s) : Is kk (resetMeter s) := by
  unfold resetMeter
  try dsimp only
  repeat' (first | with_reducible assumption | (simp only [↓is_mk_iff]; refine ⟨is_and ?_, ?_⟩) | (simp only [↓isM_mk_iff]; refine isM_and ?_) | (with_reducible apply is_meterRestart) | (with_reducible apply is_meterRetry) | (with_reducible apply is_foldl; intro _ _ _) | (with_reducible apply is_foldl_fst; intro _ _ _) | (with_reducible apply is_foldl_s; intro _ _ _) | (with_reducible apply is_foldl_fst_s; intro _ _ _) | (with_reducible apply is_iter; intro _ _) | (with_reducible apply isM_foldl; intro _ _ _) | (with_reducible apply is_meter) | (intro _; try dsimp only) | (split <;> (try (rename_i hq; simp only [↓Prod.ext_iff] at hq; obtain ⟨hf, _⟩ := hq; subst hf))) | (dsimp only [id]))

theorem is_execMeterWatchdogExpiry {kk : Kept} {s : State} {tR : State} (he : execMeterWatchdogExpiry s = .next tR) (hk : Is kk s) : Is kk tR := by
  unfold execMeterWatchdogExpiry at he
  (try dsimp only at he)
  repeat' (first | (with_reducible cases he; done) | (with_reducible injection he with he; subst he) | (with_reducible obtain ⟨_, _, rfl⟩ := Option.map_eq_some_iff.1 he) | (split at he <;> (try (rename_i hq; simp only [↓Prod.ext_iff] at hq; obtain ⟨hf, _⟩ := hq; subst hf))))
  all_goals (try (with_reducible refine is_onUnit he ?_))
  all_goals (try dsimp only)
  repeat' (first | with_reducible assumption | (simp only [↓is_mk_iff]; refine ⟨is_and ?_, ?_⟩) | (simp only [↓isM_mk_iff]; refine isM_and ?_) | (with_reducible apply is_resetMeter) | (with_reducible apply is_foldl; intro _ _ _) | (with_reducible apply is_foldl_fst; intro _ _ _) | (with_reducible apply is_foldl_s; intro _ _ _) | (with_reducible apply is_foldl_fst_s; intro _ _ _) | (with_reducible apply is_iter; intro _ _) | (with_reducible apply isM_foldl; intro _ _ _) | (with_reducible apply is_meter) | (intro _; try dsimp only) | (split <;> (try (rename_i hq; simp only [↓Prod.ext_iff] at hq; obtain ⟨hf, _⟩ := hq; subst hf))) | (dsimp only [id]))

theorem is_execMeterClkFault {kk : Kept} {s : State} {tR : State} (he : execMeterClkFault s = .next tR) (hk : Is kk s)
    : Is kk tR := by
  unfold execMeterClkFault at he
  (try dsimp only at he)
  repeat' (first | (with_reducible cases he; done) | (with_reducible injection he with he; subst he) | (with_reducible obtain ⟨_, _, rfl⟩ := Option.map_eq_some_iff.1 he) | split at he)
  repeat' (first | with_reducible assumption | (simp only [↓is_mk_iff]; refine ⟨is_and ?_, ?_⟩) | (simp only [↓isM_mk_iff]; refine isM_and ?_) | (with_reducible apply is_meter))

theorem is_execMtrCfgWrite {kk : Kept} {value : W64} {s : State} {tR : State} (he : execMtrCfgWrite value s = .next tR) (hk
    : Is kk s) : Is kk tR := by
  unfold execMtrCfgWrite at he
  (try dsimp only at he)
  repeat' (first | (with_reducible cases he; done) | (with_reducible injection he with he; subst he) | (with_reducible obtain ⟨_, _, rfl⟩ := Option.map_eq_some_iff.1 he) | split at he)
  repeat' (first | with_reducible assumption | (simp only [↓is_mk_iff]; refine ⟨is_and ?_, ?_⟩) | (simp only [↓isM_mk_iff]; refine isM_and ?_) | (with_reducible apply is_addAudit) | (with_reducible apply is_meter))

theorem is_execMtrTimeWrite {kk : Kept} {value : W64} {s : State} {tR : State} (he : execMtrTimeWrite value s = .next tR) (hk
    : Is kk s) : Is kk tR := by
  unfold execMtrTimeWrite at he
  (try dsimp only at he)
  repeat' (first | (with_reducible cases he; done) | (with_reducible injection he with he; subst he) | (with_reducible obtain ⟨_, _, rfl⟩ := Option.map_eq_some_iff.1 he) | split at he)
  repeat' (first | with_reducible assumption | (simp only [↓is_mk_iff]; refine ⟨is_and ?_, ?_⟩) | (simp only [↓isM_mk_iff]; refine isM_and ?_) | (with_reducible apply is_addAudit) | (with_reducible apply is_openRecord) | (with_reducible apply is_closeRecord) | (with_reducible apply is_meter) | split)

theorem is_execMeterReset {kk : Kept} {s : State} {tR : State} (he : execMeterReset s = .next tR) (hk : Is kk s) : Is kk tR := by
  unfold execMeterReset at he
  (try dsimp only at he)
  repeat' (first | (with_reducible cases he; done) | (with_reducible injection he with he; subst he) | (with_reducible obtain ⟨_, _, rfl⟩ := Option.map_eq_some_iff.1 he) | (split at he <;> (try (rename_i hq; simp only [↓Prod.ext_iff] at hq; obtain ⟨hf, _⟩ := hq; subst hf))))
  all_goals (try (with_reducible refine is_onUnit he ?_))
  all_goals (try dsimp only)
  repeat' (first | with_reducible assumption | (simp only [↓is_mk_iff]; refine ⟨is_and ?_, ?_⟩) | (simp only [↓isM_mk_iff]; refine isM_and ?_) | (with_reducible apply is_addAudit) | (with_reducible apply is_resetMeter) | (with_reducible apply is_foldl; intro _ _ _) | (with_reducible apply is_foldl_fst; intro _ _ _) | (with_reducible apply is_foldl_s; intro _ _ _) | (with_reducible apply is_foldl_fst_s; intro _ _ _) | (with_reducible apply is_iter; intro _ _) | (with_reducible apply isM_foldl; intro _ _ _) | (with_reducible apply is_meter) | (intro _; try dsimp only) | (split <;> (try (rename_i hq; simp only [↓Prod.ext_iff] at hq; obtain ⟨hf, _⟩ := hq; subst hf))) | (dsimp only [id]))

theorem ag_execFwCommit {kk : Kept} {s : State} {tR : State} (he : execFwCommit s = .next tR) (hk : Ag kk s) : Ag kk tR := by
  unfold execFwCommit at he
  (try dsimp only at he)
  repeat' (first | (with_reducible cases he; done) | (with_reducible injection he with he; subst he) | (with_reducible obtain ⟨_, _, rfl⟩ := Option.map_eq_some_iff.1 he) | split at he)
  repeat' (first | with_reducible assumption | (simp only [↓ag_mk_iff]; refine ⟨ag_and ?_, ?_⟩) | (simp only [↓agM_mk_iff]; refine agM_and ?_) | (with_reducible refine agM_of (fun _ hk => is_addAudit hk) ?_) | (with_reducible apply ag_breakSeal) | (with_reducible apply ag_meter))

theorem ag_execMeterTestAccessOpen {kk : Kept} {s : State} {tR : State} (he : execMeterTestAccessOpen s = .next tR) (hk
    : Ag kk s) : Ag kk tR := by
  unfold execMeterTestAccessOpen at he
  repeat' (first | (with_reducible cases he; done) | (with_reducible injection he with he; subst he) | (with_reducible obtain ⟨_, _, rfl⟩ := Option.map_eq_some_iff.1 he))
  repeat' (first | with_reducible assumption | (with_reducible apply ag_breakSeal))

end Sys2Proof.Machine
end

