-- ==== Sys2Proof/Laws/KeptEther.lean ====
section
/-! SUPPORT. One lemma per operation of Machine/Ether.lean: it keeps what `Kept` lists, or only ages it. -/

namespace Sys2Proof.Machine

theorem is_portSend {kk : Kept} {s : State} {l k cls : Nat} {b : List Byte} (hk : Is kk s) : Is kk (portSend s l k cls b) := by
  unfold portSend
  try dsimp only
  repeat' (first | with_reducible assumption | (simp only [↓is_mk_iff]; refine ⟨is_and ?_, ?_⟩) | (with_reducible apply is_modLport) | (with_reducible apply is_burnPn) | (with_reducible apply is_meter) | split)

theorem is_releaseFrames {kk : Kept} {s : State} {l cls : Nat} (hk : Is kk s) : Is kk (releaseFrames s l cls) := by
  unfold releaseFrames
  try dsimp only
  repeat' (first | with_reducible assumption | (simp only [↓is_mk_iff]; refine ⟨is_and ?_, ?_⟩) | (simp only [↓isM_mk_iff]; refine isM_and ?_) | (with_reducible apply is_modLport) | (with_reducible apply is_portSend) | (with_reducible apply is_foldl; intro _ _ _) | (with_reducible apply is_foldl_fst; intro _ _ _) | (with_reducible apply is_foldl_s; intro _ _ _) | (with_reducible apply is_foldl_fst_s; intro _ _ _) | (with_reducible apply is_iter; intro _ _) | (with_reducible apply isM_foldl; intro _ _ _) | (with_reducible apply is_meter) | (intro _; try dsimp only) | (split <;> (try (rename_i hq; simp only [↓Prod.ext_iff] at hq; obtain ⟨hf, _⟩ := hq; subst hf))) | (dsimp only [id]))

theorem is_releaseOne {kk : Kept} {s : State} {q : Nat} (hk : Is kk s) : Is kk (releaseOne s q) := by
  unfold releaseOne
  try dsimp only
  repeat' (first | with_reducible assumption | (simp only [↓is_mk_iff]; refine ⟨is_and ?_, ?_⟩) | (simp only [↓isM_mk_iff]; refine isM_and ?_) | (with_reducible apply is_setQp) | (with_reducible apply is_emit) | (with_reducible apply is_foldl; intro _ _ _) | (with_reducible apply is_foldl_fst; intro _ _ _) | (with_reducible apply is_foldl_s; intro _ _ _) | (with_reducible apply is_foldl_fst_s; intro _ _ _) | (with_reducible apply is_iter; intro _ _) | (with_reducible apply isM_foldl; intro _ _ _) | (with_reducible apply is_meter) | (intro _; try dsimp only) | (split <;> (try (rename_i hq; simp only [↓Prod.ext_iff] at hq; obtain ⟨hf, _⟩ := hq; subst hf))) | (dsimp only [id]))

theorem is_releasePairs {kk : Kept} {s : State} {l cls : Nat} (hk : Is kk s) : Is kk (releasePairs s l cls) := by
  unfold releasePairs
  try dsimp only
  repeat' (first | with_reducible assumption | (simp only [↓is_mk_iff]; refine ⟨is_and ?_, ?_⟩) | (simp only [↓isM_mk_iff]; refine isM_and ?_) | (with_reducible apply is_releaseOne) | (with_reducible apply is_foldl; intro _ _ _) | (with_reducible apply is_foldl_fst; intro _ _ _) | (with_reducible apply is_foldl_s; intro _ _ _) | (with_reducible apply is_foldl_fst_s; intro _ _ _) | (with_reducible apply is_iter; intro _ _) | (with_reducible apply isM_foldl; intro _ _ _) | (with_reducible apply is_meter) | (intro _; try dsimp only) | (split <;> (try (rename_i hq; simp only [↓Prod.ext_iff] at hq; obtain ⟨hf, _⟩ := hq; subst hf))) | (dsimp only [id]))

theorem is_releaseTx {kk : Kept} {s : State} {l : Nat} (hk : Is kk s) : Is kk (releaseTx s l) := by
  unfold releaseTx
  try dsimp only
  repeat' (first | with_reducible assumption | (simp only [↓is_mk_iff]; refine ⟨is_and ?_, ?_⟩) | (simp only [↓isM_mk_iff]; refine isM_and ?_) | (with_reducible apply is_releaseFrames) | (with_reducible apply is_releasePairs) | (with_reducible apply is_foldl; intro _ _ _) | (with_reducible apply is_foldl_fst; intro _ _ _) | (with_reducible apply is_foldl_s; intro _ _ _) | (with_reducible apply is_foldl_fst_s; intro _ _ _) | (with_reducible apply is_iter; intro _ _) | (with_reducible apply isM_foldl; intro _ _ _) | (with_reducible apply is_meter) | (intro _; try dsimp only) | (split <;> (try (rename_i hq; simp only [↓Prod.ext_iff] at hq; obtain ⟨hf, _⟩ := hq; subst hf))) | (dsimp only [id]))

theorem is_sendPfc {kk : Kept} {s : State} {l prio quanta : Nat} (hk : Is kk s) : Is kk (sendPfc s l prio quanta) := by
  unfold sendPfc
  try dsimp only
  repeat' (first | with_reducible assumption | (simp only [↓is_mk_iff]; refine ⟨is_and ?_, ?_⟩) | (simp only [↓isM_mk_iff]; refine isM_and ?_) | (with_reducible apply is_foldl; intro _ _ _) | (with_reducible apply is_foldl_fst; intro _ _ _) | (with_reducible apply is_foldl_s; intro _ _ _) | (with_reducible apply is_foldl_fst_s; intro _ _ _) | (with_reducible apply is_iter; intro _ _) | (with_reducible apply isM_foldl; intro _ _ _) | (with_reducible apply is_meter) | (intro _; try dsimp only) | (split <;> (try (rename_i hq; simp only [↓Prod.ext_iff] at hq; obtain ⟨hf, _⟩ := hq; subst hf))) | (dsimp only [id]))

theorem is_rxTake {kk : Kept} {s : State} {e : AddrEntry} {f : Frame} (hk : Is kk s) : Is kk (rxTake s e f) := by
  unfold rxTake
  try dsimp only
  repeat' (first | with_reducible assumption | (simp only [↓is_mk_iff]; refine ⟨is_and ?_, ?_⟩) | (simp only [↓isM_mk_iff]; refine isM_and ?_) | (with_reducible apply is_modLport) | (with_reducible apply is_sendPfc) | (with_reducible apply is_foldl; intro _ _ _) | (with_reducible apply is_foldl_fst; intro _ _ _) | (with_reducible apply is_foldl_s; intro _ _ _) | (with_reducible apply is_foldl_fst_s; intro _ _ _) | (with_reducible apply is_iter; intro _ _) | (with_reducible apply isM_foldl; intro _ _ _) | (with_reducible apply is_meter) | (intro _; try dsimp only) | (split <;> (try (rename_i hq; simp only [↓Prod.ext_iff] at hq; obtain ⟨hf, _⟩ := hq; subst hf))) | (dsimp only [id]))

theorem is_rxDrain {kk : Kept} {s : State} {l : Nat} (hk : Is kk s) : Is kk (rxDrain s l) := by
  unfold rxDrain
  try dsimp only
  repeat' (first | with_reducible assumption | (simp only [↓is_mk_iff]; refine ⟨is_and ?_, ?_⟩) | (simp only [↓isM_mk_iff]; refine isM_and ?_) | (with_reducible apply is_modLport) | (with_reducible apply is_sendPfc) | (with_reducible apply is_foldl; intro _ _ _) | (with_reducible apply is_foldl_fst; intro _ _ _) | (with_reducible apply is_foldl_s; intro _ _ _) | (with_reducible apply is_foldl_fst_s; intro _ _ _) | (with_reducible apply is_iter; intro _ _) | (with_reducible apply isM_foldl; intro _ _ _) | (with_reducible apply is_meter) | (intro _; try dsimp only) | (split <;> (try (rename_i hq; simp only [↓Prod.ext_iff] at hq; obtain ⟨hf, _⟩ := hq; subst hf))) | (dsimp only [id]))

theorem is_acceptFrame {kk : Kept} {s : State} {f : Frame} {pick : Nat → AddrEntry → Bool} (hk : Is kk s) : Is kk (acceptFrame s f pick).1 := by
  unfold acceptFrame
  try dsimp only
  repeat' (first | with_reducible assumption | (simp only [↓is_mk_iff]; refine ⟨is_and ?_, ?_⟩) | (simp only [↓isM_mk_iff]; refine isM_and ?_) | (with_reducible apply is_modLport) | (with_reducible apply is_setEntry) | (with_reducible apply is_rxTake) | (with_reducible apply is_foldl; intro _ _ _) | (with_reducible apply is_foldl_fst; intro _ _ _) | (with_reducible apply is_foldl_s; intro _ _ _) | (with_reducible apply is_foldl_fst_s; intro _ _ _) | (with_reducible apply is_iter; intro _ _) | (with_reducible apply isM_foldl; intro _ _ _) | (with_reducible apply is_meter) | (intro _; try dsimp only) | (split <;> (try (rename_i hq; simp only [↓Prod.ext_iff] at hq; obtain ⟨hf, _⟩ := hq; subst hf))) | (dsimp only [id]))

theorem is_onFrame {kk : Kept} {f : Frame} {g : Unit → State} {tR : State} (he : onFrame f g = .next tR) (hg : ∀ u, Is kk (g u))
    : Is kk tR := by
  unfold onFrame at he
  split at he
  · injection he with he; subst he; exact hg ()
  · cases he

theorem ag_onFrame {kk : Kept} {f : Frame} {g : Unit → State} {tR : State} (he : onFrame f g = .next tR) (hg : ∀ u, Ag kk (g u))
    : Ag kk tR := by
  unfold onFrame at he
  split at he
  · injection he with he; subst he; exact hg ()
  · cases he

theorem is_execArpRequest {kk : Kept} {f : Frame} {target : Nat} {s : State} {tR : State}
    (he : execArpRequest f target s = .next tR) (hk : Is kk s) : Is kk tR := by
  unfold execArpRequest at he
  (try dsimp only at he)
  repeat' (first | (with_reducible cases he; done) | (with_reducible obtain ⟨_, _, rfl⟩ := Option.map_eq_some_iff.1 he) | split at he)
  repeat' (first | with_reducible assumption | (with_reducible apply is_portSend) | (with_reducible apply is_acceptFrame) | (with_reducible apply is_onFrame (by with_reducible assumption)) | (with_reducible apply is_meter) | (intro _; try dsimp only))

theorem is_execNeighbourSolicitation {kk : Kept} {f : Frame} {target : Nat} {s : State} {tR : State}
    (he : execNeighbourSolicitation f target s = .next tR) (hk : Is kk s) : Is kk tR := by
  unfold execNeighbourSolicitation at he
  (try dsimp only at he)
  repeat' (first | (with_reducible cases he; done) | (with_reducible obtain ⟨_, _, rfl⟩ := Option.map_eq_some_iff.1 he) | split at he)
  repeat' (first | with_reducible assumption | (with_reducible apply is_portSend) | (with_reducible apply is_acceptFrame) | (with_reducible apply is_onFrame (by with_reducible assumption)) | (with_reducible apply is_meter) | (intro _; try dsimp only))

theorem is_execIcmpEchoRequest {kk : Kept} {f : Frame} {data : List Byte} {s : State} {tR : State}
    (he : execIcmpEchoRequest f data s = .next tR) (hk : Is kk s) : Is kk tR := by
  unfold execIcmpEchoRequest at he
  (try dsimp only at he)
  repeat' (first | (with_reducible cases he; done) | (with_reducible obtain ⟨_, _, rfl⟩ := Option.map_eq_some_iff.1 he) | split at he)
  repeat' (first | with_reducible assumption | (with_reducible apply is_portSend) | (with_reducible apply is_acceptFrame) | (with_reducible apply is_onFrame (by with_reducible assumption)) | (with_reducible apply is_meter) | (intro _; try dsimp only))

theorem is_execArpOrNeighbourReply {kk : Kept} {f : Frame} {ip mac : Nat} {s : State} {tR : State}
    (he : execArpOrNeighbourReply f ip mac s = .next tR) (hk : Is kk s) : Is kk tR := by
  unfold execArpOrNeighbourReply at he
  (try dsimp only at he)
  repeat' (first | (with_reducible cases he; done) | (with_reducible obtain ⟨_, _, rfl⟩ := Option.map_eq_some_iff.1 he) | split at he)
  repeat' (first | with_reducible assumption | (simp only [↓is_mk_iff]; refine ⟨is_and ?_, ?_⟩) | (with_reducible apply is_acceptFrame) | (with_reducible apply is_onFrame (by with_reducible assumption)) | (with_reducible apply is_meter) | (intro _; try dsimp only))

theorem is_execNeighbourEntryAgeing {kk : Kept} {ip : Nat} {s : State} {tR : State}
    (he : execNeighbourEntryAgeing ip s = .next tR) (hk : Is kk s) : Is kk tR := by
  unfold execNeighbourEntryAgeing at he
  repeat' (first | (with_reducible cases he; done) | (with_reducible injection he with he; subst he) | (with_reducible obtain ⟨_, _, rfl⟩ := Option.map_eq_some_iff.1 he) | split at he)
  repeat' (first | with_reducible assumption | (simp only [↓is_mk_iff]; refine ⟨is_and ?_, ?_⟩) | (with_reducible apply is_meter) | split)

theorem is_pfcOne {kk : Kept} {s : State} {l prio q : Nat} (hk : Is kk s) : Is kk (pfcOne s l prio q) := by
  unfold pfcOne
  try dsimp only
  repeat' (first | with_reducible assumption | (with_reducible apply is_modLport) | (with_reducible apply is_meter) | split)

theorem is_execPfcFrame {kk : Kept} {lport enable : Nat} {quanta : List Nat} {s : State} {tR : State}
    (he : execPfcFrame lport enable quanta s = .next tR) (hk : Is kk s) : Is kk tR := by
  unfold execPfcFrame at he
  with_reducible refine is_onUnit he ?_
  clear he
  try dsimp only
  repeat' (first | with_reducible assumption | (with_reducible apply is_releaseTx) | (with_reducible apply is_pfcOne) | (with_reducible apply is_foldl; intro _ _ _) | (with_reducible apply is_meter) | split)

theorem is_execPfcPauseHeld {kk : Kept} {lport prio : Nat} {s : State} {tR : State}
    (he : execPfcPauseHeld lport prio s = .next tR) (hk : Is kk s) : Is kk tR := by
  unfold execPfcPauseHeld at he
  with_reducible refine is_onUnit he ?_
  clear he
  try dsimp only
  repeat' (first | with_reducible assumption | (with_reducible apply is_setLport) | (with_reducible apply is_devFault) | (with_reducible apply is_meter) | split)

theorem is_execEthernetLinkChange {kk : Kept} {lport : Nat} {up : Bool} {s : State} {tR : State}
    (he : execEthernetLinkChange lport up s = .next tR) (hk : Is kk s) : Is kk tR := by
  unfold execEthernetLinkChange at he
  with_reducible refine is_onUnit he ?_
  clear he
  try dsimp only
  repeat' (first | with_reducible assumption | (with_reducible apply is_modLport) | (with_reducible apply is_meter) | split)

theorem is_execPtpEventMessage {kk : Kept} {f : Frame} {seqId ingress : Nat} {s : State} {tR : State}
    (he : execPtpEventMessage f seqId ingress s = .next tR) (hk : Is kk s) : Is kk tR := by
  unfold execPtpEventMessage at he
  (try dsimp only at he)
  repeat' (first | (with_reducible cases he; done) | (with_reducible obtain ⟨_, _, rfl⟩ := Option.map_eq_some_iff.1 he) | split at he)
  repeat' (first | with_reducible assumption | (simp only [↓is_mk_iff]; refine ⟨is_and ?_, ?_⟩) | (with_reducible apply is_acceptFrame) | (with_reducible apply is_onFrame (by with_reducible assumption)) | (with_reducible apply is_meter) | (intro _; try dsimp only))

theorem is_setTimeBase {kk : Kept} {s : State} {t : Int} (hk : Is kk s) : Is kk (setTimeBase s t) := by
  unfold setTimeBase
  try dsimp only
  repeat' (first | with_reducible assumption | (simp only [↓is_mk_iff]; refine ⟨is_and ?_, ?_⟩) | (simp only [↓isM_mk_iff]; refine isM_and ?_) | (with_reducible apply is_passMs) | (with_reducible apply is_foldl; intro _ _ _) | (with_reducible apply is_foldl_fst; intro _ _ _) | (with_reducible apply is_foldl_s; intro _ _ _) | (with_reducible apply is_foldl_fst_s; intro _ _ _) | (with_reducible apply is_iter; intro _ _) | (with_reducible apply isM_foldl; intro _ _ _) | (with_reducible apply is_meter) | (intro _; try dsimp only) | (split <;> (try (rename_i hq; simp only [↓Prod.ext_iff] at hq; obtain ⟨hf, _⟩ := hq; subst hf))) | (dsimp only [id]))

theorem is_steerTime {kk : Kept} {s : State} {ingress timestamp : Nat} (hk : Is kk s) : Is kk (steerTime s ingress timestamp) := by
  unfold steerTime
  try dsimp only
  repeat' (first | with_reducible assumption | (simp only [↓is_mk_iff]; refine ⟨is_and ?_, ?_⟩) | (simp only [↓isM_mk_iff]; refine isM_and ?_) | (with_reducible apply is_useFree) | (with_reducible apply is_setTimeBase) | (with_reducible apply is_foldl; intro _ _ _) | (with_reducible apply is_foldl_fst; intro _ _ _) | (with_reducible apply is_foldl_s; intro _ _ _) | (with_reducible apply is_foldl_fst_s; intro _ _ _) | (with_reducible apply is_iter; intro _ _) | (with_reducible apply isM_foldl; intro _ _ _) | (with_reducible apply is_meter) | (intro _; try dsimp only) | (split <;> (try (rename_i hq; simp only [↓Prod.ext_iff] at hq; obtain ⟨hf, _⟩ := hq; subst hf))) | (dsimp only [id]))

theorem is_delayReq {kk : Kept} {s : State} {l seqId : Nat} {d : Int} (hk : Is kk s) : Is kk (delayReq s l seqId d) := by
  unfold delayReq
  try dsimp only
  repeat' (first | with_reducible assumption | (simp only [↓is_mk_iff]; refine ⟨is_and ?_, ?_⟩) | (simp only [↓isM_mk_iff]; refine isM_and ?_) | (with_reducible apply is_portSend) | (with_reducible apply is_foldl; intro _ _ _) | (with_reducible apply is_foldl_fst; intro _ _ _) | (with_reducible apply is_foldl_s; intro _ _ _) | (with_reducible apply is_foldl_fst_s; intro _ _ _) | (with_reducible apply is_iter; intro _ _) | (with_reducible apply isM_foldl; intro _ _ _) | (with_reducible apply is_meter) | (intro _; try dsimp only) | (split <;> (try (rename_i hq; simp only [↓Prod.ext_iff] at hq; obtain ⟨hf, _⟩ := hq; subst hf))) | (dsimp only [id]))

theorem is_delayResp {kk : Kept} {s : State} {seqId timestamp : Nat} (hk : Is kk s) : Is kk (delayResp s seqId timestamp) := by
  unfold delayResp
  try dsimp only
  repeat' (first | with_reducible assumption | (simp only [↓is_mk_iff]; refine ⟨is_and ?_, ?_⟩) | (simp only [↓isM_mk_iff]; refine isM_and ?_) | (with_reducible apply is_foldl; intro _ _ _) | (with_reducible apply is_foldl_fst; intro _ _ _) | (with_reducible apply is_foldl_s; intro _ _ _) | (with_reducible apply is_foldl_fst_s; intro _ _ _) | (with_reducible apply is_iter; intro _ _) | (with_reducible apply isM_foldl; intro _ _ _) | (with_reducible apply is_meter) | (intro _; try dsimp only) | (split <;> (try (rename_i hq; simp only [↓Prod.ext_iff] at hq; obtain ⟨hf, _⟩ := hq; subst hf))) | (dsimp only [id]))

theorem is_execPtpGeneralMessage {kk : Kept} {f : Frame} {kind seqId timestamp : Nat} {s : State} {tR : State} (he : execPtpGeneralMessage f kind seqId timestamp s = .next tR) (hk : Is kk s) : Is kk tR := by
  unfold execPtpGeneralMessage at he
  (try dsimp only at he)
  repeat' (first | (with_reducible cases he; done) | (with_reducible injection he with he; subst he) | (with_reducible obtain ⟨_, _, rfl⟩ := Option.map_eq_some_iff.1 he) | (split at he <;> (try (rename_i hq; simp only [↓Prod.ext_iff] at hq; obtain ⟨hf, _⟩ := hq; subst hf))))
  all_goals (try (with_reducible refine is_onUnit he ?_))
  all_goals (try dsimp only)
  repeat' (first | with_reducible assumption | (simp only [↓is_mk_iff]; refine ⟨is_and ?_, ?_⟩) | (simp only [↓isM_mk_iff]; refine isM_and ?_) | (with_reducible apply is_acceptFrame) | (with_reducible apply is_onFrame (by with_reducible assumption)) | (with_reducible apply is_steerTime) | (with_reducible apply is_delayReq) | (with_reducible apply is_delayResp) | (with_reducible apply is_foldl; intro _ _ _) | (with_reducible apply is_foldl_fst; intro _ _ _) | (with_reducible apply is_foldl_s; intro _ _ _) | (with_reducible apply is_foldl_fst_s; intro _ _ _) | (with_reducible apply is_iter; intro _ _) | (with_reducible apply isM_foldl; intro _ _ _) | (with_reducible apply is_meter) | (intro _; try dsimp only) | (split <;> (try (rename_i hq; simp only [↓Prod.ext_iff] at hq; obtain ⟨hf, _⟩ := hq; subst hf))) | (dsimp only [id]))

theorem is_execPtpMasterTimeout {kk : Kept} {s : State} {tR : State} (he : execPtpMasterTimeout s = .next tR) (hk : Is kk s)
    : Is kk tR := by
  unfold execPtpMasterTimeout at he
  repeat' (first | (with_reducible cases he; done) | (with_reducible injection he with he; subst he) | (with_reducible obtain ⟨_, _, rfl⟩ := Option.map_eq_some_iff.1 he) | split at he)
  repeat' (first | with_reducible assumption | (simp only [↓is_mk_iff]; refine ⟨is_and ?_, ?_⟩) | (with_reducible apply is_meter))

end Sys2Proof.Machine
end

