-- ==== Sys2Proof/Laws/KeptRoce.lean ====
section
/-! SUPPORT. One lemma per operation of Machine/Roce.lean: it keeps what `Kept` lists, or only ages it. -/

namespace Sys2Proof.Machine

theorem is_answer {kk : Kept} {s : State} {q psn n code : Nat} (hk : Is kk s) : Is kk (answer s q psn n code) := by
  unfold answer
  try dsimp only
  repeat' (first | with_reducible assumption | (simp only [↓is_mk_iff]; refine ⟨is_and ?_, ?_⟩) | (simp only [↓isM_mk_iff]; refine isM_and ?_) | (with_reducible apply is_setQp) | (with_reducible apply is_transmitOn) | (with_reducible apply is_qpError) | (with_reducible apply is_foldl; intro _ _ _) | (with_reducible apply is_foldl_fst; intro _ _ _) | (with_reducible apply is_foldl_s; intro _ _ _) | (with_reducible apply is_foldl_fst_s; intro _ _ _) | (with_reducible apply is_iter; intro _ _) | (with_reducible apply isM_foldl; intro _ _ _) | (with_reducible apply is_meter) | (intro _; try dsimp only) | (split <;> (try (rename_i hq; simp only [↓Prod.ext_iff] at hq; obtain ⟨hf, _⟩ := hq; subst hf))) | (dsimp only [id]))

theorem is_congested {kk : Kept} {s : State} {q : Nat} {ce : Bool} (hk : Is kk s) : Is kk (congested s q ce) := by
  unfold congested
  try dsimp only
  repeat' (first | with_reducible assumption | (simp only [↓is_mk_iff]; refine ⟨is_and ?_, ?_⟩) | (simp only [↓isM_mk_iff]; refine isM_and ?_) | (with_reducible apply is_setQp) | (with_reducible apply is_transmitOn) | (with_reducible apply is_foldl; intro _ _ _) | (with_reducible apply is_foldl_fst; intro _ _ _) | (with_reducible apply is_foldl_s; intro _ _ _) | (with_reducible apply is_foldl_fst_s; intro _ _ _) | (with_reducible apply is_iter; intro _ _) | (with_reducible apply isM_foldl; intro _ _ _) | (with_reducible apply is_meter) | (intro _; try dsimp only) | (split <;> (try (rename_i hq; simp only [↓Prod.ext_iff] at hq; obtain ⟨hf, _⟩ := hq; subst hf))) | (dsimp only [id]))

theorem is_atQp {kk : Kept} {p : Packet} {n : Nat} {s : State} {act : State → Qp → State × Nat} {again : State → Qp → State}
    {tR : State} (he : atQp p n s act again = .next tR) (hk : Is kk s)
    (hact : ∀ (z0 : State) (z1 : Qp), Is kk z0 → Is kk (act z0 z1).1)
    (hagain : ∀ (z0 : State) (z1 : Qp), Is kk z0 → Is kk (again z0 z1)) : Is kk tR := by
  unfold atQp at he
  (try dsimp only at he)
  repeat' (first | (with_reducible cases he; done) | (with_reducible obtain ⟨_, _, rfl⟩ := Option.map_eq_some_iff.1 he) | split at he)
  repeat' (first | with_reducible assumption | (with_reducible apply hact) | (with_reducible apply hagain) | (with_reducible apply is_acceptFrame) | (with_reducible apply is_onFrame (by with_reducible assumption)) | (with_reducible apply is_answer) | (with_reducible apply is_congested) | (with_reducible apply is_meter) | (intro _; try dsimp only))

theorem is_placeSend {kk : Kept} {s : State} {q : Nat} {v : Qp} {data : List Byte} (hk : Is kk s)
    : Is kk (placeSend s q v data).1 := by
  unfold placeSend
  try dsimp only
  repeat' (first | with_reducible assumption | (with_reducible apply is_setQp) | (with_reducible apply is_putMem) | (with_reducible apply is_unitRaise) | (with_reducible apply is_meter) | (split <;> (try (rename_i hq; simp only [↓Prod.ext_iff] at hq; obtain ⟨hf, _⟩ := hq; subst hf))))

theorem is_mailboxSend {kk : Kept} {s : State} {q : Nat} {v : Qp} (hk : Is kk s) : Is kk (mailboxSend s q v).1 := by
  unfold mailboxSend
  try dsimp only
  repeat' (first | with_reducible assumption | (simp only [↓is_mk_iff]; refine ⟨is_and ?_, ?_⟩) | (simp only [↓isM_mk_iff]; refine isM_and ?_) | (with_reducible apply is_setQp) | (with_reducible apply is_foldl; intro _ _ _) | (with_reducible apply is_foldl_fst; intro _ _ _) | (with_reducible apply is_foldl_s; intro _ _ _) | (with_reducible apply is_foldl_fst_s; intro _ _ _) | (with_reducible apply is_iter; intro _ _) | (with_reducible apply isM_foldl; intro _ _ _) | (with_reducible apply is_meter) | (intro _; try dsimp only) | (split <;> (try (rename_i hq; simp only [↓Prod.ext_iff] at hq; obtain ⟨hf, _⟩ := hq; subst hf))) | (dsimp only [id]))

theorem is_execRoceSend {kk : Kept} {p : Packet} {data : List Byte} {s : State} {tR : State} (he : execRoceSend p data s = .next tR) (hk : Is kk s) : Is kk tR := by
  unfold execRoceSend at he
  (try dsimp only at he)
  repeat' (first | (with_reducible cases he; done) | (with_reducible injection he with he; subst he) | (with_reducible obtain ⟨_, _, rfl⟩ := Option.map_eq_some_iff.1 he) | (split at he <;> (try (rename_i hq; simp only [↓Prod.ext_iff] at hq; obtain ⟨hf, _⟩ := hq; subst hf))))
  all_goals (try (with_reducible refine is_onUnit he ?_))
  all_goals (try dsimp only)
  repeat' (first | with_reducible assumption | (simp only [↓is_mk_iff]; refine ⟨is_and ?_, ?_⟩) | (simp only [↓isM_mk_iff]; refine isM_and ?_) | (with_reducible apply is_atQp (by with_reducible assumption)) | (with_reducible apply is_placeSend) | (with_reducible apply is_mailboxSend) | (with_reducible apply is_foldl; intro _ _ _) | (with_reducible apply is_foldl_fst; intro _ _ _) | (with_reducible apply is_foldl_s; intro _ _ _) | (with_reducible apply is_foldl_fst_s; intro _ _ _) | (with_reducible apply is_iter; intro _ _) | (with_reducible apply isM_foldl; intro _ _ _) | (with_reducible apply is_meter) | (intro _; try dsimp only) | (split <;> (try (rename_i hq; simp only [↓Prod.ext_iff] at hq; obtain ⟨hf, _⟩ := hq; subst hf))) | (dsimp only [id]))

theorem is_writeRegion {kk : Kept} {s : State} {owner rkey addr : Nat} {data : List Byte} (hk : Is kk s)
    : Is kk (writeRegion s owner rkey addr data).1 := by
  unfold writeRegion
  try dsimp only
  repeat' (first | with_reducible assumption | (with_reducible apply is_putMem) | (with_reducible apply is_meter) | (split <;> (try (rename_i hq; simp only [↓Prod.ext_iff] at hq; obtain ⟨hf, _⟩ := hq; subst hf))))

theorem is_execRdmaWrite {kk : Kept} {p : Packet} {rkey addr : Nat} {data : List Byte} {s : State} {tR : State}
    (he : execRdmaWrite p rkey addr data s = .next tR) (hk : Is kk s) : Is kk tR := by
  unfold execRdmaWrite at he
  repeat' (first | with_reducible assumption | (with_reducible apply is_atQp (by with_reducible assumption)) | (with_reducible apply is_writeRegion) | (with_reducible apply is_meter) | (intro _; try dsimp only))

theorem is_execRdmaWriteWithImmediate {kk : Kept} {p : Packet} {rkey addr : Nat} {imm : W32} {data : List Byte} {s : State}
    {tR : State} (he : execRdmaWriteWithImmediate p rkey addr imm data s = .next tR) (hk : Is kk s) : Is kk tR := by
  unfold execRdmaWriteWithImmediate at he
  (try dsimp only at he)
  repeat' (first | with_reducible assumption | (with_reducible apply is_peerArrival) | (with_reducible apply is_atQp (by with_reducible assumption)) | (with_reducible apply is_writeRegion) | (with_reducible apply is_meter) | (intro _; try dsimp only) | split)

theorem is_readRegion {kk : Kept} {s : State} {q : Nat} {owner rkey addr len : Nat} (hk : Is kk s) : Is kk (readRegion s q owner rkey addr len).1 := by
  unfold readRegion
  try dsimp only
  repeat' (first | with_reducible assumption | (simp only [↓is_mk_iff]; refine ⟨is_and ?_, ?_⟩) | (simp only [↓isM_mk_iff]; refine isM_and ?_) | (with_reducible apply is_transmitOn) | (with_reducible apply is_getMem) | (with_reducible apply is_foldl; intro _ _ _) | (with_reducible apply is_foldl_fst; intro _ _ _) | (with_reducible apply is_foldl_s; intro _ _ _) | (with_reducible apply is_foldl_fst_s; intro _ _ _) | (with_reducible apply is_iter; intro _ _) | (with_reducible apply isM_foldl; intro _ _ _) | (with_reducible apply is_meter) | (intro _; try dsimp only) | (split <;> (try (rename_i hq; simp only [↓Prod.ext_iff] at hq; obtain ⟨hf, _⟩ := hq; subst hf))) | (dsimp only [id]))

theorem is_execRdmaRead {kk : Kept} {p : Packet} {rkey addr len : Nat} {s : State} {tR : State}
    (he : execRdmaRead p rkey addr len s = .next tR) (hk : Is kk s) : Is kk tR := by
  unfold execRdmaRead at he
  repeat' (first | with_reducible assumption | (with_reducible apply is_atQp (by with_reducible assumption)) | (with_reducible apply is_readRegion) | (with_reducible apply is_meter) | (intro _; try dsimp only))

theorem is_execDigestList {kk : Kept} {p : Packet} {data : List Byte} {s : State} {tR : State}
    (he : execDigestList p data s = .next tR) (hk : Is kk s) : Is kk tR := by
  unfold execDigestList at he
  (try dsimp only at he)
  repeat' (first | with_reducible assumption | (with_reducible apply is_listArrival) | (with_reducible apply is_atQp (by with_reducible assumption)) | (with_reducible apply is_meter) | (intro _; try dsimp only) | split)

theorem is_execCnp {kk : Kept} {qpn : Nat} {s : State} {tR : State} (he : execCnp qpn s = .next tR) (hk : Is kk s)
    : Is kk tR := by
  unfold execCnp at he
  repeat' (first | (with_reducible cases he; done) | (with_reducible injection he with he; subst he) | (with_reducible obtain ⟨_, _, rfl⟩ := Option.map_eq_some_iff.1 he))
  repeat' (first | with_reducible assumption | (with_reducible apply is_modQp))

theorem is_execCnpRateTimer {kk : Kept} {qpn : Nat} {s : State} {tR : State} (he : execCnpRateTimer qpn s = .next tR) (hk
    : Is kk s) : Is kk tR := by
  unfold execCnpRateTimer at he
  (try dsimp only at he)
  repeat' (first | (with_reducible cases he; done) | (with_reducible injection he with he; subst he) | (with_reducible obtain ⟨_, _, rfl⟩ := Option.map_eq_some_iff.1 he))
  repeat' (first | with_reducible assumption | (with_reducible apply is_modQp))

end Sys2Proof.Machine
end

