-- ==== Sys2Proof/Laws/KeptCmd.lean ====
section
/-! SUPPORT. One lemma per operation of Machine/Cmd.lean: it keeps what `Kept` lists, or only ages it. -/

namespace Sys2Proof.Machine

theorem is_ok {kk : Kept} {s : State} (hk : Is kk s) : Is kk (ok s).1 := by
  unfold ok
  try dsimp only
  repeat' (with_reducible assumption)

theorem is_okBody {kk : Kept} {s : State} {b : List Byte} (hk : Is kk s) : Is kk (okBody s b).1 := by
  unfold okBody
  try dsimp only
  repeat' (with_reducible assumption)

theorem is_bad {kk : Kept} {s : State} (hk : Is kk s) : Is kk (bad s).1 := by
  unfold bad
  try dsimp only
  repeat' (with_reducible assumption)

theorem is_notFound {kk : Kept} {s : State} (hk : Is kk s) : Is kk (notFound s).1 := by
  unfold notFound
  try dsimp only
  repeat' (with_reducible assumption)

theorem is_noResource {kk : Kept} {s : State} (hk : Is kk s) : Is kk (noResource s).1 := by
  unfold noResource
  try dsimp only
  repeat' (with_reducible assumption)

theorem is_finish {kk : Kept} {s : State} {c : Cmd} {status : Nat} {body : List Byte} (hk : Is kk s)
    : Is kk (finish s c status body) := by
  unfold finish
  try dsimp only
  repeat' (first | with_reducible assumption | (simp only [↓is_mk_iff]; refine ⟨is_and ?_, ?_⟩) | (with_reducible apply is_respond) | (with_reducible apply is_meter))

theorem is_modCmd {kk : Kept} {s : State} {m : Mbx} {f : Cmd → Cmd} (hk : Is kk s) : Is kk (modCmd s m f) := by
  unfold modCmd
  try dsimp only
  repeat' (first | with_reducible assumption | (simp only [↓is_mk_iff]; refine ⟨is_and ?_, ?_⟩) | (with_reducible apply is_meter))

theorem is_answerOthers {kk : Kept} {s : State} {part status : Nat} {m : Mbx} (hk : Is kk s)
    : Is kk (answerOthers s part status m) := by
  unfold answerOthers
  try dsimp only
  repeat' (first | with_reducible assumption | (with_reducible apply is_finish) | (with_reducible apply is_foldl; intro _ _ _))

theorem is_dropOthers {kk : Kept} {s : State} {part : Nat} {m : Mbx} (hk : Is kk s) : Is kk (dropOthers s part m) := by
  unfold dropOthers
  try dsimp only
  repeat' (first | with_reducible assumption | (simp only [↓is_mk_iff]; refine ⟨is_and ?_, ?_⟩) | (with_reducible apply is_meter))

theorem is_createQp {kk : Kept} {s : State} {m : Mbx} {owner : Nat} {mbx : Bool} (hk : Is kk s)
    : Is kk (createQp s m owner mbx).1 := by
  unfold createQp
  try dsimp only
  repeat' (first | with_reducible assumption | (with_reducible apply is_useFree) | (with_reducible apply is_setQp) | (with_reducible apply is_okBody) | (with_reducible apply is_bad) | (with_reducible apply is_noResource) | (with_reducible apply is_meter) | split)

theorem is_orphan {kk : Kept} {s : State} {q : Nat} (hk : Is kk s) : Is kk (orphan s q) := by
  unfold orphan
  try dsimp only
  repeat' (first | with_reducible assumption | (simp only [↓is_mk_iff]; refine ⟨is_and ?_, ?_⟩) | (simp only [↓isM_mk_iff]; refine isM_and ?_) | (with_reducible apply is_foldl; intro _ _ _) | (with_reducible apply is_foldl_fst; intro _ _ _) | (with_reducible apply is_foldl_s; intro _ _ _) | (with_reducible apply is_foldl_fst_s; intro _ _ _) | (with_reducible apply is_iter; intro _ _) | (with_reducible apply isM_foldl; intro _ _ _) | (with_reducible apply is_meter) | (intro _; try dsimp only) | (split <;> (try (rename_i hq; simp only [↓Prod.ext_iff] at hq; obtain ⟨hf, _⟩ := hq; subst hf))) | (dsimp only [id]))

theorem is_destroyQp {kk : Kept} {s : State} {q : Nat} (hk : Is kk s) : Is kk (destroyQp s q) := by
  unfold destroyQp
  try dsimp only
  repeat' (first | with_reducible assumption | (simp only [↓is_mk_iff]; refine ⟨is_and ?_, ?_⟩) | (simp only [↓isM_mk_iff]; refine isM_and ?_) | (with_reducible apply is_setQp) | (with_reducible apply is_qpError) | (with_reducible apply is_orphan) | (with_reducible apply is_foldl; intro _ _ _) | (with_reducible apply is_foldl_fst; intro _ _ _) | (with_reducible apply is_foldl_s; intro _ _ _) | (with_reducible apply is_foldl_fst_s; intro _ _ _) | (with_reducible apply is_iter; intro _ _) | (with_reducible apply isM_foldl; intro _ _ _) | (with_reducible apply is_meter) | (intro _; try dsimp only) | (split <;> (try (rename_i hq; simp only [↓Prod.ext_iff] at hq; obtain ⟨hf, _⟩ := hq; subst hf))) | (dsimp only [id]))

theorem is_destroyQps {kk : Kept} {s : State} {f : Qp → Bool} (hk : Is kk s) : Is kk (destroyQps s f) := by
  unfold destroyQps
  try dsimp only
  repeat' (first | with_reducible assumption | (with_reducible apply is_destroyQp) | (with_reducible apply is_foldl; intro _ _ _))

theorem is_storeDevEntry {kk : Kept} {s : State} {l : Nat} (hk : Is kk s) : Is kk (storeDevEntry s l) := by
  unfold storeDevEntry
  try dsimp only
  repeat' (first | with_reducible assumption | (simp only [↓is_mk_iff]; refine ⟨is_and ?_, ?_⟩) | (with_reducible apply is_meter))

theorem is_removeEntry {kk : Kept} {s : State} {l k : Nat} (hk : Is kk s) : Is kk (removeEntry s l k) := by
  unfold removeEntry
  try dsimp only
  repeat' (first | with_reducible assumption | (with_reducible apply is_modPart) | (with_reducible apply is_setEntry) | (with_reducible apply is_destroyQps) | (with_reducible apply is_storeDevEntry) | (with_reducible apply is_meter) | split)

theorem is_plainTables {kk : Kept} {s : State} {d : Nat} (hk : Is kk s) : Is kk (plainTables s d) := by
  unfold plainTables
  try dsimp only
  repeat' (first | with_reducible assumption | (with_reducible apply is_setClu) | (with_reducible apply is_setFence) | (with_reducible apply is_setHold) | (with_reducible apply is_setShift) | (with_reducible apply is_foldl; intro _ _ _) | (with_reducible apply is_meter) | split)

theorem is_applyCoreEntry {kk : Kept} {s : State} {p state reason : Nat} (hk : Is kk s)
    : Is kk (applyCoreEntry s p state reason) := by
  unfold applyCoreEntry
  try dsimp only
  repeat' (first | with_reducible assumption | (with_reducible apply is_setClu) | (with_reducible apply is_setFence) | (with_reducible apply is_writeRemap) | (with_reducible apply is_meter) | split)

theorem is_applyEntry {kk : Kept} {s : State} {d state : Nat} {e : Spoil} (hk : Is kk s) : Is kk (applyEntry s d state e) := by
  unfold applyEntry
  try dsimp only
  repeat' (first | with_reducible assumption | (with_reducible apply is_modDie) | (with_reducible apply is_setClu) | (with_reducible apply is_applyCoreEntry) | (with_reducible apply is_meter) | split)

theorem is_rebuildDie {kk : Kept} {s : State} {d : Nat} (hk : Is kk s) : Is kk (rebuildDie s d) := by
  unfold rebuildDie
  try dsimp only
  repeat' (first | with_reducible assumption | (with_reducible apply is_plainTables) | (with_reducible apply is_applyEntry) | (with_reducible apply is_foldl; intro _ _ _))

theorem is_fillRange {kk : Kept} {s : State} {t first units : Nat} (hk : Is kk s) : Is kk (fillRange s t first units) := by
  unfold fillRange
  try dsimp only
  repeat' (first | with_reducible assumption | (simp only [↓is_mk_iff]; refine ⟨is_and ?_, ?_⟩) | (with_reducible apply is_setTier) | (with_reducible apply is_bad) | (with_reducible apply is_meter) | split)

end Sys2Proof.Machine
end

