-- ==== Sys2Proof/Laws/KeptCmdDevice.lean ====
section
/-! SUPPORT. One lemma per operation of Machine/CmdDevice.lean: it keeps what `Kept` lists, or only ages it. -/

namespace Sys2Proof.Machine

theorem is_doDeviceStatus {kk : Kept} {s : State} {m : Mbx} (hk : Is kk s) : Is kk (doDeviceStatus s m).1 := by
  unfold doDeviceStatus
  try dsimp only
  repeat' (first | with_reducible assumption | (with_reducible apply is_okBody) | (with_reducible apply is_bad) | (with_reducible apply is_meter) | split)

theorem is_doSubscribe {kk : Kept} {s : State} {m : Mbx} (hk : Is kk s) : Is kk (doSubscribe s m).1 := by
  unfold doSubscribe
  try dsimp only
  repeat' (first | with_reducible assumption | (with_reducible apply is_modQp) | (with_reducible apply is_ok) | (with_reducible apply is_bad) | (with_reducible apply is_meter) | split)

theorem is_doPortMode {kk : Kept} {s : State} {m : Mbx} (hk : Is kk s) : Is kk (doPortMode s m).1 := by
  unfold doPortMode
  try dsimp only
  repeat' (first | with_reducible assumption | (simp only [↓is_mk_iff]; refine ⟨is_and ?_, ?_⟩) | (with_reducible apply is_ok) | (with_reducible apply is_bad) | (with_reducible apply is_meter) | split)

theorem is_doAddrSet {kk : Kept} {s : State} {m : Mbx} (hk : Is kk s) : Is kk (doAddrSet s m).1 := by
  unfold doAddrSet
  try dsimp only
  repeat' (first | with_reducible assumption | (with_reducible apply is_setEntry) | (with_reducible apply is_ok) | (with_reducible apply is_bad) | (with_reducible apply is_notFound) | (with_reducible apply is_storeDevEntry) | (with_reducible apply is_removeEntry) | (with_reducible apply is_meter) | split)

theorem is_doPtpSet {kk : Kept} {s : State} {m : Mbx} (hk : Is kk s) : Is kk (doPtpSet s m).1 := by
  unfold doPtpSet
  try dsimp only
  repeat' (first | with_reducible assumption | (simp only [↓is_mk_iff]; refine ⟨is_and ?_, ?_⟩) | (with_reducible apply is_ok) | (with_reducible apply is_bad) | (with_reducible apply is_meter) | split)

theorem is_doReinstate {kk : Kept} {s : State} {m : Mbx} (hk : Is kk s) : Is kk (doReinstate s m).1 := by
  unfold doReinstate
  try dsimp only
  repeat' (first | with_reducible assumption | (simp only [↓is_mk_iff]; refine ⟨is_and ?_, ?_⟩) | (with_reducible apply is_setService) | (with_reducible apply is_ok) | (with_reducible apply is_bad) | (with_reducible apply is_meter) | split)

theorem is_doDieReset {kk : Kept} {s : State} {m : Mbx} (hk : Is kk s) : Is kk (doDieReset s m).1 := by
  unfold doDieReset
  try dsimp only
  repeat' (first | with_reducible assumption | (with_reducible apply is_bad) | (with_reducible apply is_beginDieReset) | (with_reducible apply is_meter) | split)

theorem is_doDeviceReset {kk : Kept} {s : State} {m : Mbx} (hk : Is kk s) : Is kk (doDeviceReset s m).1 := by
  unfold doDeviceReset
  try dsimp only
  repeat' (first | with_reducible assumption | (simp only [↓is_mk_iff]; refine ⟨is_and ?_, ?_⟩) | (with_reducible apply is_ok) | (with_reducible apply is_bad) | (with_reducible apply is_meter) | split)

theorem is_shutdownWrites {kk : Kept} {s : State} (hk : Is kk s) : Is kk (shutdownWrites s) := by
  unfold shutdownWrites
  try dsimp only
  repeat' (first | with_reducible assumption | (simp only [↓is_mk_iff]; refine ⟨is_and ?_, ?_⟩) | (with_reducible apply is_writeGeneration) | (with_reducible apply is_meter))

theorem is_loseMemories {kk : Kept} {s : State} (hk : Is kk s) : Is kk (loseMemories s) := by
  unfold loseMemories
  try dsimp only
  repeat' (first | with_reducible assumption | (with_reducible apply is_modPart) | (with_reducible apply is_wipeCluster) | (with_reducible apply is_foldl; intro _ _ _))

theorem is_doShutdown {kk : Kept} {s : State} {m : Mbx} (hk : Is kk s) : Is kk (doShutdown s m).1 := by
  unfold doShutdown
  try dsimp only
  repeat' (first | with_reducible assumption | (simp only [↓is_mk_iff]; refine ⟨is_and ?_, ?_⟩) | (with_reducible apply is_setService) | (with_reducible apply is_sweep) | (with_reducible apply is_abortPart) | (with_reducible apply is_newPlan) | (with_reducible apply is_okBody) | (with_reducible apply is_bad) | (with_reducible apply is_shutdownWrites) | (with_reducible apply is_loseMemories) | (with_reducible apply is_foldl; intro _ _ _) | (with_reducible apply is_meter) | split)

theorem is_doCountersRead {kk : Kept} {s : State} {m : Mbx} {part : Nat} (hk : Is kk s) : Is kk (doCountersRead s m part).1 := by
  unfold doCountersRead
  try dsimp only
  repeat' (first | with_reducible assumption | (with_reducible apply is_okBody) | (with_reducible apply is_bad) | (with_reducible apply is_notFound) | (with_reducible apply is_meter) | split)

theorem is_doCoreStateRead {kk : Kept} {s : State} {m : Mbx} {part : Nat} (hk : Is kk s)
    : Is kk (doCoreStateRead s m part).1 := by
  unfold doCoreStateRead
  try dsimp only
  repeat' (first | with_reducible assumption | (with_reducible apply is_modCore) | (with_reducible apply is_okBody) | (with_reducible apply is_bad) | (with_reducible apply is_notFound) | (with_reducible apply is_meter) | split)

theorem is_doScreeRead {kk : Kept} {s : State} {m : Mbx} {part : Nat} (hk : Is kk s) : Is kk (doScreeRead s m part).1 := by
  unfold doScreeRead
  try dsimp only
  repeat' (first | with_reducible assumption | (with_reducible apply is_okBody) | (with_reducible apply is_bad) | (with_reducible apply is_meter) | split)

theorem is_doDumpRead {kk : Kept} {s : State} {m : Mbx} {part : Nat} (hk : Is kk s) : Is kk (doDumpRead s m part).1 := by
  unfold doDumpRead
  try dsimp only
  repeat' (first | with_reducible assumption | (with_reducible apply is_okBody) | (with_reducible apply is_bad) | (with_reducible apply is_notFound) | (with_reducible apply is_meter) | (split <;> (try (rename_i hq; simp only [↓Prod.ext_iff] at hq; obtain ⟨hf, _⟩ := hq; subst hf))))

theorem is_doSpoilRead {kk : Kept} {s : State} {m : Mbx} (hk : Is kk s) : Is kk (doSpoilRead s m).1 := by
  unfold doSpoilRead
  try dsimp only
  repeat' (first | with_reducible assumption | (with_reducible apply is_okBody) | (with_reducible apply is_bad) | (with_reducible apply is_meter) | split)

theorem is_doSoundingCfg {kk : Kept} {s : State} {m : Mbx} (hk : Is kk s) : Is kk (doSoundingCfg s m).1 := by
  unfold doSoundingCfg
  try dsimp only
  repeat' (first | with_reducible assumption | (simp only [↓is_mk_iff]; refine ⟨is_and ?_, ?_⟩) | (with_reducible apply is_ok) | (with_reducible apply is_bad) | (with_reducible apply is_meter) | split)

end Sys2Proof.Machine
end

