-- ==== Sys2Proof/Laws/KeptCmdPart.lean ====
section
/-! SUPPORT. One lemma per operation of Machine/CmdPart.lean: it keeps what `Kept` lists, or only ages it. -/

namespace Sys2Proof.Machine

theorem is_takeCluster {kk : Kept} {part state : Nat} {s : State} {c : Nat} (hk : Is kk s)
    : Is kk (takeCluster part state s c) := by
  unfold takeCluster
  try dsimp only
  repeat' (first | with_reducible assumption | (with_reducible apply is_modPow) | (with_reducible apply is_setClu) | (with_reducible apply is_wipeCluster) | (with_reducible apply is_endTest) | (with_reducible apply is_repairDue) | (with_reducible apply is_foldl; intro _ _ _))

theorem is_doPartCreate {kk : Kept} {s : State} {m : Mbx} (hk : Is kk s) : Is kk (doPartCreate s m).1 := by
  unfold doPartCreate
  try dsimp only
  repeat' (first | with_reducible assumption | (with_reducible apply is_setPart) | (with_reducible apply is_useFree) | (with_reducible apply is_okBody) | (with_reducible apply is_bad) | (with_reducible apply is_noResource) | (with_reducible apply is_takeCluster) | (with_reducible apply is_foldl; intro _ _ _) | (with_reducible apply is_meter) | split)

theorem is_dropCluster {kk : Kept} {s : State} {c : Nat} (hk : Is kk s) : Is kk (dropCluster s c) := by
  unfold dropCluster
  try dsimp only
  repeat' (first | with_reducible assumption | (simp only [↓is_mk_iff]; refine ⟨is_and ?_, ?_⟩) | (simp only [↓isM_mk_iff]; refine isM_and ?_) | (with_reducible apply is_modPow) | (with_reducible apply is_setClu) | (with_reducible apply is_wipeCluster) | (with_reducible apply is_sweepLeaves) | (with_reducible apply is_repairDue) | (with_reducible apply is_tableReturn) | (with_reducible apply is_foldl; intro _ _ _) | (with_reducible apply is_foldl_fst; intro _ _ _) | (with_reducible apply is_foldl_s; intro _ _ _) | (with_reducible apply is_foldl_fst_s; intro _ _ _) | (with_reducible apply is_iter; intro _ _) | (with_reducible apply isM_foldl; intro _ _ _) | (with_reducible apply is_meter) | (intro _; try dsimp only) | (split <;> (try (rename_i hq; simp only [↓Prod.ext_iff] at hq; obtain ⟨hf, _⟩ := hq; subst hf))) | (dsimp only [id]))

theorem is_deletePart {kk : Kept} {s : State} {part : Nat} (hk : Is kk s) : Is kk (deletePart s part) := by
  unfold deletePart
  try dsimp only
  repeat' (first | with_reducible assumption | (simp only [↓is_mk_iff]; refine ⟨is_and ?_, ?_⟩) | (simp only [↓isM_mk_iff]; refine isM_and ?_) | (with_reducible apply is_setPart) | (with_reducible apply is_modBucket) | (with_reducible apply is_stopPart) | (with_reducible apply is_abortPart) | (with_reducible apply is_dropActions) | (with_reducible apply is_destroyQps) | (with_reducible apply is_removeEntry) | (with_reducible apply is_dropCluster) | (with_reducible apply is_foldl; intro _ _ _) | (with_reducible apply is_foldl_fst; intro _ _ _) | (with_reducible apply is_foldl_s; intro _ _ _) | (with_reducible apply is_foldl_fst_s; intro _ _ _) | (with_reducible apply is_iter; intro _ _) | (with_reducible apply isM_foldl; intro _ _ _) | (with_reducible apply is_meter) | (intro _; try dsimp only) | (split <;> (try (rename_i hq; simp only [↓Prod.ext_iff] at hq; obtain ⟨hf, _⟩ := hq; subst hf))) | (dsimp only [id]))

theorem is_doPartDelete {kk : Kept} {s : State} {m : Mbx} {part : Nat} (hk : Is kk s) : Is kk (doPartDelete s m part).1 := by
  unfold doPartDelete
  try dsimp only
  repeat' (first | with_reducible assumption | (with_reducible apply is_ok) | (with_reducible apply is_bad) | (with_reducible apply is_dropOthers) | (with_reducible apply is_deletePart) | (with_reducible apply is_meter) | split)

theorem is_doPartReserve {kk : Kept} {s : State} {m : Mbx} {part : Nat} (hk : Is kk s) : Is kk (doPartReserve s m part).1 := by
  unfold doPartReserve
  try dsimp only
  repeat' (first | with_reducible assumption | (with_reducible apply is_modPart) | (with_reducible apply is_pushAction) | (with_reducible apply is_ok) | (with_reducible apply is_bad) | (with_reducible apply is_notFound) | (with_reducible apply is_takeCluster) | (with_reducible apply is_dropCluster) | (with_reducible apply is_foldl; intro _ _ _) | (with_reducible apply is_meter) | split)

theorem is_doPartWindows {kk : Kept} {s : State} {m : Mbx} {part : Nat} (hk : Is kk s) : Is kk (doPartWindows s m part).1 := by
  unfold doPartWindows
  try dsimp only
  repeat' (first | with_reducible assumption | (with_reducible apply is_setPart) | (with_reducible apply is_ok) | (with_reducible apply is_bad) | (with_reducible apply is_notFound) | (with_reducible apply is_meter) | split)

theorem is_addRange {kk : Kept} {s : State} {part t first units : Nat} (hk : Is kk s)
    : Is kk (addRange s part t first units).1 := by
  unfold addRange
  try dsimp only
  repeat' (first | with_reducible assumption | (with_reducible apply is_setPart) | (with_reducible apply is_fillRange) | (with_reducible apply is_meter) | split)

theorem is_removeRange {kk : Kept} {s : State} {part t first units : Nat} (hk : Is kk s)
    : Is kk (removeRange s part t first units).1 := by
  unfold removeRange
  try dsimp only
  repeat' (first | with_reducible assumption | (with_reducible apply is_setPart) | (with_reducible apply is_meter) | split)

theorem is_eachRange {kk : Kept} {f : State → Nat → Nat → State × Nat} {y1 : List (Nat × Nat)} {y2 : State} (hk : Is kk y2)
    (hf : ∀ (z0 : State) (z1 : Nat) (z2 : Nat), Is kk z0 → Is kk (f z0 z1 z2).1) : Is kk (eachRange f y1 y2).1 := by
  induction y1 generalizing y2 with
  | nil => (unfold eachRange; (try dsimp only); repeat' (with_reducible assumption))
  | cons z zs ih => (unfold eachRange; (try dsimp only); repeat' (first | with_reducible assumption | (with_reducible apply ih) | (with_reducible apply hf) | (with_reducible apply is_meter) | (split <;> (try (rename_i hq; simp only [↓Prod.ext_iff] at hq; obtain ⟨hf, _⟩ := hq; subst hf)))))

theorem is_doPartMemory {kk : Kept} {s : State} {m : Mbx} {part : Nat} (hk : Is kk s) : Is kk (doPartMemory s m part).1 := by
  unfold doPartMemory
  try dsimp only
  repeat' (first | with_reducible assumption | (simp only [↓is_mk_iff]; refine ⟨is_and ?_, ?_⟩) | (simp only [↓isM_mk_iff]; refine isM_and ?_) | (with_reducible apply is_ok) | (with_reducible apply is_bad) | (with_reducible apply is_notFound) | (with_reducible apply is_addRange) | (with_reducible apply is_removeRange) | (with_reducible apply is_eachRange) | (with_reducible apply is_foldl; intro _ _ _) | (with_reducible apply is_foldl_fst; intro _ _ _) | (with_reducible apply is_foldl_s; intro _ _ _) | (with_reducible apply is_foldl_fst_s; intro _ _ _) | (with_reducible apply is_iter; intro _ _) | (with_reducible apply isM_foldl; intro _ _ _) | (with_reducible apply is_meter) | (intro _; try dsimp only) | (split <;> (try (rename_i hq; simp only [↓Prod.ext_iff] at hq; obtain ⟨hf, _⟩ := hq; subst hf))) | (dsimp only [id]))

theorem is_rotateReads {kk : Kept} {s : State} {t first units : Nat} (hk : Is kk s) : Is kk (rotateReads s t first units).1 := by
  unfold rotateReads
  try dsimp only
  repeat' (first | with_reducible assumption | (with_reducible apply is_checkSector) | (with_reducible apply is_foldl_fst; intro _ _ _) | (with_reducible apply is_meter) | (split <;> (try (rename_i hq; simp only [↓Prod.ext_iff] at hq; obtain ⟨hf, _⟩ := hq; subst hf))))

theorem is_rotateWrites {kk : Kept} {s : State} {t first units : Nat} (hk : Is kk s) : Is kk (rotateWrites s t first units) := by
  unfold rotateWrites
  try dsimp only
  repeat' (first | with_reducible assumption | (simp only [↓is_mk_iff]; refine ⟨is_and ?_, ?_⟩) | (simp only [↓isM_mk_iff]; refine isM_and ?_) | (with_reducible apply is_setTier) | (with_reducible apply is_foldl; intro _ _ _) | (with_reducible apply is_foldl_fst; intro _ _ _) | (with_reducible apply is_foldl_s; intro _ _ _) | (with_reducible apply is_foldl_fst_s; intro _ _ _) | (with_reducible apply is_iter; intro _ _) | (with_reducible apply isM_foldl; intro _ _ _) | (with_reducible apply is_meter) | (intro _; try dsimp only) | (split <;> (try (rename_i hq; simp only [↓Prod.ext_iff] at hq; obtain ⟨hf, _⟩ := hq; subst hf))) | (dsimp only [id]))

theorem is_poisonSector {kk : Kept} {s : State} {t sec : Nat} (hk : Is kk s) : Is kk (poisonSector s t sec) := by
  unfold poisonSector
  try dsimp only
  repeat' (first | with_reducible assumption | (with_reducible apply is_setTier) | (with_reducible apply is_bad) | (with_reducible apply is_meter) | split)

theorem is_doPartRekey {kk : Kept} {s : State} {m : Mbx} {part : Nat} (hk : Is kk s) : Is kk (doPartRekey s m part).1 := by
  unfold doPartRekey
  try dsimp only
  repeat' (first | with_reducible assumption | (with_reducible apply is_modPart) | (with_reducible apply is_useFree) | (with_reducible apply is_okBody) | (with_reducible apply is_bad) | (with_reducible apply is_notFound) | (with_reducible apply is_noResource) | (with_reducible apply is_fillRange) | (with_reducible apply is_rotateReads) | (with_reducible apply is_rotateWrites) | (with_reducible apply is_poisonSector) | (with_reducible apply is_foldl; intro _ _ _) | (with_reducible apply is_foldl_fst; intro _ _ _) | (with_reducible apply is_meter) | split)

theorem is_doMbxBind {kk : Kept} {s : State} {m : Mbx} {part : Nat} (hk : Is kk s) : Is kk (doMbxBind s m part).1 := by
  unfold doMbxBind
  try dsimp only
  repeat' (first | with_reducible assumption | (with_reducible apply is_bad) | (with_reducible apply is_noResource) | (with_reducible apply is_createQp) | (with_reducible apply is_meter) | split)

theorem is_doMbxUnbind {kk : Kept} {s : State} {m : Mbx} {part : Nat} (hk : Is kk s) : Is kk (doMbxUnbind s m part).1 := by
  unfold doMbxUnbind
  try dsimp only
  repeat' (first | with_reducible assumption | (with_reducible apply is_ok) | (with_reducible apply is_bad) | (with_reducible apply is_notFound) | (with_reducible apply is_destroyQp) | (with_reducible apply is_meter) | split)

theorem is_doPartCm5 {kk : Kept} {s : State} {m : Mbx} {part : Nat} (hk : Is kk s) : Is kk (doPartCm5 s m part).1 := by
  unfold doPartCm5
  try dsimp only
  repeat' (first | with_reducible assumption | (with_reducible apply is_setPart) | (with_reducible apply is_ok) | (with_reducible apply is_bad) | (with_reducible apply is_notFound) | (with_reducible apply is_meter) | split)

theorem is_doPartGoose {kk : Kept} {s : State} {m : Mbx} {part : Nat} (hk : Is kk s) : Is kk (doPartGoose s m part).1 := by
  unfold doPartGoose
  try dsimp only
  repeat' (first | with_reducible assumption | (with_reducible apply is_modPart) | (with_reducible apply is_ok) | (with_reducible apply is_bad) | (with_reducible apply is_meter) | split)

theorem is_doPartReset {kk : Kept} {s : State} {m : Mbx} {part : Nat} (hk : Is kk s) : Is kk (doPartReset s m part).1 := by
  unfold doPartReset
  try dsimp only
  repeat' (first | with_reducible assumption | (simp only [↓is_mk_iff]; refine ⟨is_and ?_, ?_⟩) | (simp only [↓isM_mk_iff]; refine isM_and ?_) | (with_reducible apply is_modPart) | (with_reducible apply is_failPairs) | (with_reducible apply is_resetPart) | (with_reducible apply is_ok) | (with_reducible apply is_bad) | (with_reducible apply is_answerOthers) | (with_reducible apply is_foldl; intro _ _ _) | (with_reducible apply is_foldl_fst; intro _ _ _) | (with_reducible apply is_foldl_s; intro _ _ _) | (with_reducible apply is_foldl_fst_s; intro _ _ _) | (with_reducible apply is_iter; intro _ _) | (with_reducible apply isM_foldl; intro _ _ _) | (with_reducible apply is_meter) | (intro _; try dsimp only) | (split <;> (try (rename_i hq; simp only [↓Prod.ext_iff] at hq; obtain ⟨hf, _⟩ := hq; subst hf))) | (dsimp only [id]))

theorem is_doPartStatus {kk : Kept} {s : State} {m : Mbx} {part : Nat} (hk : Is kk s) : Is kk (doPartStatus s m part).1 := by
  unfold doPartStatus
  try dsimp only
  repeat' (first | with_reducible assumption | (with_reducible apply is_okBody) | (with_reducible apply is_bad) | (with_reducible apply is_notFound) | (with_reducible apply is_meter) | split)

end Sys2Proof.Machine
end

