-- ==== Sys2Proof/Laws/KeptCmdJob.lean ====
section
/-! SUPPORT. One lemma per operation of Machine/CmdJob.lean: it keeps what `Kept` lists, or only ages it. -/

namespace Sys2Proof.Machine

theorem is_fetchNext {kk : Kept} {m : Mbx} {y1 : Nat} {y2 : State} (hk : Is kk y2) : Is kk (fetchNext m y1 y2).1 := by
  induction y1 generalizing y2 with
  | zero => (unfold fetchNext; (try dsimp only); repeat' (with_reducible assumption))
  | succ n ih => (unfold fetchNext; (try dsimp only); repeat' (first | with_reducible assumption | (with_reducible apply ih) | (with_reducible apply is_sendOn) | (with_reducible apply is_bad) | (with_reducible apply is_modCmd) | (with_reducible apply is_meter) | split))

theorem is_startFetch {kk : Kept} {s : State} {m : Mbx} (hk : Is kk s) : Is kk (startFetch s m).1 := by
  unfold startFetch
  try dsimp only
  repeat' (first | with_reducible assumption | (with_reducible apply is_fetchNext))

theorem is_fetched {kk : Kept} {s : State} {m : Mbx} {sofar data : List Byte} (hk : Is kk s)
    : Is kk (fetched s m sofar data).1 := by
  unfold fetched
  try dsimp only
  repeat' (first | with_reducible assumption | (with_reducible apply is_putMem) | (with_reducible apply is_bad) | (with_reducible apply is_modCmd) | (with_reducible apply is_startFetch) | (with_reducible apply is_meter) | (split <;> (try (rename_i hq; simp only [↓Prod.ext_iff] at hq; obtain ⟨hf, _⟩ := hq; subst hf))))

theorem is_doImageLoad {kk : Kept} {s : State} {m : Mbx} {part : Nat} (hk : Is kk s) : Is kk (doImageLoad s m part).1 := by
  unfold doImageLoad
  try dsimp only
  repeat' (first | with_reducible assumption | (with_reducible apply is_bad) | (with_reducible apply is_notFound) | (with_reducible apply is_startFetch) | (with_reducible apply is_meter) | split)

theorem is_concludeImage {kk : Kept} {s : State} {c : Cmd} {part : Nat} (hk : Is kk s) : Is kk (concludeImage s c part).1 := by
  unfold concludeImage
  try dsimp only
  repeat' (first | with_reducible assumption | (with_reducible apply is_modPart) | (with_reducible apply is_beginLoad) | (with_reducible apply is_okBody) | (with_reducible apply is_bad) | (with_reducible apply is_notFound) | (with_reducible apply is_modCmd) | (with_reducible apply is_meter) | split)

theorem is_loadDone {kk : Kept} {s : State} {part : Nat} {pt : Part} {c : Cmd} (hk : Is kk s) : Is kk (loadDone s part pt c) := by
  unfold loadDone
  try dsimp only
  repeat' (first | with_reducible assumption | (with_reducible apply is_modPart) | (with_reducible apply is_modCore) | (with_reducible apply is_raiseFloors) | (with_reducible apply is_emptyNetwork) | (with_reducible apply is_foldl; intro _ _ _))

theorem is_loadFails {kk : Kept} {s : State} {part : Nat} (hk : Is kk s) : Is kk (loadFails s part) := by
  unfold loadFails
  try dsimp only
  repeat' (first | with_reducible assumption | (with_reducible apply is_modPart))

theorem is_loadRollCall {kk : Kept} {part : Nat} {r : State × RollCall} (hk : Is kk r.1) : Is kk (loadRollCall part r) := by
  unfold loadRollCall
  try dsimp only
  repeat' (first | with_reducible assumption | (with_reducible apply is_modPart) | (with_reducible apply is_finish) | (with_reducible apply is_loadDone) | (with_reducible apply is_loadFails) | (with_reducible apply is_meter) | split)

theorem is_launch {kk : Kept} {s : State} {part policy flags report argAddr : Nat} {args : List Byte} (hk : Is kk s)
    : Is kk (launch s part policy flags report argAddr args).1 := by
  unfold launch
  try dsimp only
  repeat' (first | with_reducible assumption | (with_reducible apply is_raiseFloors) | (with_reducible apply is_putMem) | (with_reducible apply is_startJob) | (with_reducible apply is_okBody) | (with_reducible apply is_bad) | (with_reducible apply is_notFound) | (with_reducible apply is_meter) | split)

theorem is_doJobStart {kk : Kept} {s : State} {m : Mbx} {part : Nat} (hk : Is kk s) : Is kk (doJobStart s m part).1 := by
  unfold doJobStart
  try dsimp only
  repeat' (first | with_reducible assumption | (with_reducible apply is_bad) | (with_reducible apply is_launch) | (with_reducible apply is_meter) | split)

theorem is_doJobAbort {kk : Kept} {s : State} {m : Mbx} {part : Nat} (hk : Is kk s) : Is kk (doJobAbort s m part).1 := by
  unfold doJobAbort
  try dsimp only
  repeat' (first | with_reducible assumption | (with_reducible apply is_abortPart) | (with_reducible apply is_ok) | (with_reducible apply is_bad) | (with_reducible apply is_meter) | split)

theorem is_doJobRestart {kk : Kept} {s : State} {m : Mbx} {part : Nat} (hk : Is kk s) : Is kk (doJobRestart s m part).1 := by
  unfold doJobRestart
  try dsimp only
  repeat' (first | with_reducible assumption | (with_reducible apply is_stopPart) | (with_reducible apply is_restartPart) | (with_reducible apply is_ok) | (with_reducible apply is_bad) | (with_reducible apply is_meter) | split)

theorem is_doJobStatus {kk : Kept} {s : State} {m : Mbx} {part : Nat} (hk : Is kk s) : Is kk (doJobStatus s m part).1 := by
  unfold doJobStatus
  try dsimp only
  repeat' (first | with_reducible assumption | (with_reducible apply is_useFree) | (with_reducible apply is_okBody) | (with_reducible apply is_bad) | (with_reducible apply is_notFound) | (with_reducible apply is_meter) | split)

theorem is_doBucketOpen {kk : Kept} {s : State} {m : Mbx} {part : Nat} (hk : Is kk s) : Is kk (doBucketOpen s m part).1 := by
  unfold doBucketOpen
  try dsimp only
  repeat' (first | with_reducible assumption | (with_reducible apply is_setBucket) | (with_reducible apply is_openRound) | (with_reducible apply is_ok) | (with_reducible apply is_bad) | (with_reducible apply is_notFound) | (with_reducible apply is_noResource) | (with_reducible apply is_meter) | split)

theorem is_doBucketClose {kk : Kept} {s : State} {m : Mbx} {part : Nat} (hk : Is kk s) : Is kk (doBucketClose s m part).1 := by
  unfold doBucketClose
  try dsimp only
  repeat' (first | with_reducible assumption | (simp only [↓is_mk_iff]; refine ⟨is_and ?_, ?_⟩) | (simp only [↓isM_mk_iff]; refine isM_and ?_) | (with_reducible apply is_modBucket) | (with_reducible apply is_ok) | (with_reducible apply is_bad) | (with_reducible apply is_notFound) | (with_reducible apply is_foldl; intro _ _ _) | (with_reducible apply is_foldl_fst; intro _ _ _) | (with_reducible apply is_foldl_s; intro _ _ _) | (with_reducible apply is_foldl_fst_s; intro _ _ _) | (with_reducible apply is_iter; intro _ _) | (with_reducible apply isM_foldl; intro _ _ _) | (with_reducible apply is_meter) | (intro _; try dsimp only) | (split <;> (try (rename_i hq; simp only [↓Prod.ext_iff] at hq; obtain ⟨hf, _⟩ := hq; subst hf))) | (dsimp only [id]))

theorem is_doBucketQuery {kk : Kept} {s : State} {m : Mbx} {part : Nat} (hk : Is kk s) : Is kk (doBucketQuery s m part).1 := by
  unfold doBucketQuery
  try dsimp only
  repeat' (first | with_reducible assumption | (with_reducible apply is_okBody) | (with_reducible apply is_bad) | (with_reducible apply is_notFound) | (with_reducible apply is_meter) | split)

theorem is_doPeerTable {kk : Kept} {s : State} {m : Mbx} {part : Nat} (hk : Is kk s) : Is kk (doPeerTable s m part).1 := by
  unfold doPeerTable
  try dsimp only
  repeat' (first | with_reducible assumption | (with_reducible apply is_modBucket) | (with_reducible apply is_ok) | (with_reducible apply is_bad) | (with_reducible apply is_notFound) | (with_reducible apply is_meter) | split)

theorem is_doRegionRegister {kk : Kept} {s : State} {m : Mbx} {part : Nat} (hk : Is kk s)
    : Is kk (doRegionRegister s m part).1 := by
  unfold doRegionRegister
  try dsimp only
  repeat' (first | with_reducible assumption | (simp only [↓is_mk_iff]; refine ⟨is_and ?_, ?_⟩) | (with_reducible apply is_okBody) | (with_reducible apply is_bad) | (with_reducible apply is_notFound) | (with_reducible apply is_noResource) | (with_reducible apply is_meter) | split)

theorem is_doRegionDeregister {kk : Kept} {s : State} {m : Mbx} {part : Nat} (hk : Is kk s)
    : Is kk (doRegionDeregister s m part).1 := by
  unfold doRegionDeregister
  try dsimp only
  repeat' (first | with_reducible assumption | (simp only [↓is_mk_iff]; refine ⟨is_and ?_, ?_⟩) | (with_reducible apply is_ok) | (with_reducible apply is_bad) | (with_reducible apply is_notFound) | (with_reducible apply is_meter) | split)

theorem is_doQpCreate {kk : Kept} {s : State} {m : Mbx} {part : Nat} (hk : Is kk s) : Is kk (doQpCreate s m part).1 := by
  unfold doQpCreate
  try dsimp only
  repeat' (first | with_reducible assumption | (with_reducible apply is_createQp))

theorem is_doQpDestroy {kk : Kept} {s : State} {m : Mbx} {part : Nat} (hk : Is kk s) : Is kk (doQpDestroy s m part).1 := by
  unfold doQpDestroy
  try dsimp only
  repeat' (first | with_reducible assumption | (with_reducible apply is_ok) | (with_reducible apply is_bad) | (with_reducible apply is_notFound) | (with_reducible apply is_destroyQp) | (with_reducible apply is_meter) | split)

theorem is_doRecvPost {kk : Kept} {s : State} {m : Mbx} {part : Nat} (hk : Is kk s) : Is kk (doRecvPost s m part).1 := by
  unfold doRecvPost
  try dsimp only
  repeat' (first | with_reducible assumption | (with_reducible apply is_setQp) | (with_reducible apply is_ok) | (with_reducible apply is_bad) | (with_reducible apply is_notFound) | (with_reducible apply is_noResource) | (with_reducible apply is_meter) | split)

theorem is_doMemWrite {kk : Kept} {s : State} {m : Mbx} {part : Nat} (hk : Is kk s) : Is kk (doMemWrite s m part).1 := by
  unfold doMemWrite
  try dsimp only
  repeat' (first | with_reducible assumption | (with_reducible apply is_bad) | (with_reducible apply is_notFound) | (with_reducible apply is_startFetch) | (with_reducible apply is_meter) | split)

theorem is_sealRange {kk : Kept} {part die : Nat} {y1 : Nat} {y2 : Nat} {y3 : List Byte} {y4 : State} (hk : Is kk y4)
    : Is kk (sealRange part die y1 y2 y3 y4) := by
  induction y1 generalizing y4 y2 y3 with
  | zero => (unfold sealRange; (try dsimp only); repeat' (with_reducible assumption))
  | succ n ih => (unfold sealRange; (try dsimp only); repeat' (first | with_reducible assumption | (with_reducible apply ih) | (with_reducible apply is_storeCv) | (with_reducible apply is_meter) | split))

theorem is_concludeWrite {kk : Kept} {s : State} {c : Cmd} {part : Nat} (hk : Is kk s) : Is kk (concludeWrite s c part).1 := by
  unfold concludeWrite
  try dsimp only
  repeat' (first | with_reducible assumption | (with_reducible apply is_okBody) | (with_reducible apply is_sealRange) | (with_reducible apply is_meter) | split)

theorem is_readBlocks {kk : Kept} {part die : Nat} {verify : Bool} {y1 : Nat} {y2 : Nat} {y3 : Nat} {y4 : List Byte}
    {y5 : State} (hk : Is kk y5) : Is kk (readBlocks part die verify y1 y2 y3 y4 y5).1 := by
  induction y1 generalizing y5 y2 y3 y4 with
  | zero => (unfold readBlocks; (try dsimp only); repeat' (with_reducible assumption))
  | succ n ih => (unfold readBlocks; (try dsimp only); repeat' (first | with_reducible assumption | (with_reducible apply ih) | (with_reducible apply is_getMem) | (with_reducible apply is_meter) | (split <;> (try (rename_i hq; simp only [↓Prod.ext_iff] at hq; obtain ⟨hf, _⟩ := hq; subst hf)))))

theorem is_doMemRead {kk : Kept} {s : State} {m : Mbx} {part : Nat} (hk : Is kk s) : Is kk (doMemRead s m part).1 := by
  unfold doMemRead
  try dsimp only
  repeat' (first | with_reducible assumption | (with_reducible apply is_sendOn) | (with_reducible apply is_okBody) | (with_reducible apply is_bad) | (with_reducible apply is_notFound) | (with_reducible apply is_modCmd) | (with_reducible apply is_fetched) | (with_reducible apply is_readBlocks) | (with_reducible apply is_meter) | split)

end Sys2Proof.Machine
end

