-- ==== Sys2Proof/Laws/KeptCmdSec.lean ====
section
/-! SUPPORT. One lemma per operation of Machine/CmdSec.lean: it keeps what `Kept` lists, or only ages it. -/

namespace Sys2Proof.Machine

theorem is_doAttest {kk : Kept} {s : State} {m : Mbx} {part : Nat} (hk : Is kk s) : Is kk (doAttest s m part).1 := by
  unfold doAttest
  try dsimp only
  repeat' (first | with_reducible assumption | (with_reducible apply is_okBody) | (with_reducible apply is_bad) | (with_reducible apply is_meter) | split)

theorem is_doIdentityRead {kk : Kept} {s : State} {m : Mbx} (hk : Is kk s) : Is kk (doIdentityRead s m).1 := by
  unfold doIdentityRead
  try dsimp only
  repeat' (first | with_reducible assumption | (with_reducible apply is_okBody) | (with_reducible apply is_bad) | (with_reducible apply is_meter) | split)

theorem is_releaseHeld {kk : Kept} {s : State} {l k : Nat} (hk : Is kk s) : Is kk (releaseHeld s l k) := by
  unfold releaseHeld
  try dsimp only
  repeat' (first | with_reducible assumption | (with_reducible apply is_setEntry) | (with_reducible apply is_burnPn) | (with_reducible apply is_releaseTx) | (with_reducible apply is_meter) | split)

theorem is_putSas {kk : Kept} {s : State} {l k : Nat} {e : AddrEntry} {sas : List Sa} (hk : Is kk s)
    : Is kk (putSas s l k e sas) := by
  unfold putSas
  try dsimp only
  repeat' (first | with_reducible assumption | (with_reducible apply is_setEntry) | (with_reducible apply is_storeDevEntry) | (with_reducible apply is_meter) | split)

theorem is_doMacsecSa {kk : Kept} {s : State} {m : Mbx} (hk : Is kk s) : Is kk (doMacsecSa s m).1 := by
  unfold doMacsecSa
  try dsimp only
  repeat' (first | with_reducible assumption | (with_reducible apply is_ok) | (with_reducible apply is_bad) | (with_reducible apply is_notFound) | (with_reducible apply is_noResource) | (with_reducible apply is_releaseHeld) | (with_reducible apply is_putSas) | (with_reducible apply is_meter) | split)

theorem is_doStewardKeySet {kk : Kept} {s : State} {m : Mbx} (hk : Is kk s) : Is kk (doStewardKeySet s m).1 := by
  unfold doStewardKeySet
  try dsimp only
  repeat' (first | with_reducible assumption | (simp only [↓is_mk_iff]; refine ⟨is_and ?_, ?_⟩) | (with_reducible apply is_ok) | (with_reducible apply is_bad) | (with_reducible apply is_meter) | split)

theorem is_doFwUpdate {kk : Kept} {s : State} {m : Mbx} (hk : Is kk s) : Is kk (doFwUpdate s m).1 := by
  unfold doFwUpdate
  try dsimp only
  repeat' (first | with_reducible assumption | (with_reducible apply is_bad) | (with_reducible apply is_startFetch) | (with_reducible apply is_meter) | split)

theorem is_concludeFw {kk : Kept} {s : State} {c : Cmd} (hk : Is kk s) : Is kk (concludeFw s c).1 := by
  unfold concludeFw
  dsimp only
  split
  · exact hk
  · split
    · exact hk
    · split
      · exact hk
      · unfold putSlot okBody
        split <;> split <;> exact ⟨hk.product, hk.pending, hk.fwKey, hk.serial, hk.lc, hk.rbOuvos, hk.rbUcode, hk.meter⟩

theorem is_doFwActivate {kk : Kept} {s : State} {m : Mbx} (hk : Is kk s) : Is kk (doFwActivate s m).1 := by
  unfold doFwActivate
  try dsimp only
  repeat' (first | with_reducible assumption | (simp only [↓is_mk_iff]; refine ⟨is_and ?_, ?_⟩) | (with_reducible apply is_ok) | (with_reducible apply is_bad) | (with_reducible apply is_meter) | split)

theorem ag_transit {kk : Kept} {s : State} {target : Nat} (hk : Ag kk s) : Ag kk (transit s target) := by
  have h2 : Ag kk ((List.range 64).foldl (fun s p => deletePart { s with cmds := s.cmds.filter (fun c => scopePart c.m != p || c.op == 0x0607) } p) s) :=
    ag_foldl _ _ _ (fun a x h => ag_of (fun _ h => is_deletePart (is_mk_iff.2 ⟨is_and h, is_meter h⟩)) h) hk
  unfold transit
  generalize (List.range 64).foldl (fun s p => deletePart { s with cmds := s.cmds.filter (fun c => scopePart c.m != p || c.op == 0x0607) } p) s = s2 at h2 ⊢
  by_cases ht : target = 3 ∨ target = 4
  · simp only [ht, if_true]
    exact ag_mk_iff.2 ⟨⟨h2.product, h2.pending, h2.fwKey, h2.serial, and_or_kept h2.lc, h2.rbOuvos, h2.rbUcode⟩, h2.meter⟩
  · simp only [ht, if_false]
    exact ag_mk_iff.2 ⟨⟨hk.product, hk.pending, hk.fwKey, hk.serial, and_or_kept hk.lc, hk.rbOuvos, hk.rbUcode⟩, hk.meter⟩

theorem ag_doLifecycle {kk : Kept} {s : State} {m : Mbx} (hk : Ag kk s) : Ag kk (doLifecycle s m).1 := by
  unfold doLifecycle
  try dsimp only
  repeat' (first | with_reducible assumption | (simp only [↓ag_mk_iff]; refine ⟨ag_and ?_, ?_⟩) | (with_reducible refine ag_of (fun _ hk => is_ok hk) ?_) | (with_reducible refine ag_of (fun _ hk => is_bad hk) ?_) | (with_reducible apply ag_transit) | (with_reducible apply ag_meter) | split)

theorem is_doMeterRecords {kk : Kept} {s : State} {m : Mbx} {part : Nat} (hk : Is kk s) : Is kk (doMeterRecords s m part).1 := by
  unfold doMeterRecords
  try dsimp only
  repeat' (first | with_reducible assumption | (simp only [↓is_mk_iff]; refine ⟨is_and ?_, ?_⟩) | (simp only [↓isM_mk_iff]; refine isM_and ?_) | (with_reducible apply is_useFree) | (with_reducible apply is_okBody) | (with_reducible apply is_bad) | (with_reducible apply is_notFound) | (with_reducible apply is_noResource) | (with_reducible apply is_foldl; intro _ _ _) | (with_reducible apply is_foldl_fst; intro _ _ _) | (with_reducible apply is_foldl_s; intro _ _ _) | (with_reducible apply is_foldl_fst_s; intro _ _ _) | (with_reducible apply is_iter; intro _ _) | (with_reducible apply isM_foldl; intro _ _ _) | (with_reducible apply is_meter) | (intro _; try dsimp only) | (split <;> (try (rename_i hq; simp only [↓Prod.ext_iff] at hq; obtain ⟨hf, _⟩ := hq; subst hf))) | (dsimp only [id]))

theorem is_doMeterAudit {kk : Kept} {s : State} {m : Mbx} (hk : Is kk s) : Is kk (doMeterAudit s m).1 := by
  unfold doMeterAudit
  try dsimp only
  repeat' (first | with_reducible assumption | (with_reducible apply is_okBody) | (with_reducible apply is_bad) | (with_reducible apply is_notFound) | (with_reducible apply is_noResource) | (with_reducible apply is_meter) | split)

theorem is_doMeterIdentity {kk : Kept} {s : State} {m : Mbx} (hk : Is kk s) : Is kk (doMeterIdentity s m).1 := by
  unfold doMeterIdentity
  try dsimp only
  repeat' (first | with_reducible assumption | (with_reducible apply is_okBody) | (with_reducible apply is_bad) | (with_reducible apply is_noResource) | (with_reducible apply is_meter) | split)

end Sys2Proof.Machine
end

