-- ==== Sys2Proof/Laws/KeptMailbox.lean ====
section
/-! SUPPORT. One lemma per operation of Machine/Mailbox.lean: it keeps what `Kept` lists, or only ages it. -/

namespace Sys2Proof.Machine

theorem ag_doOp {kk : Kept} {s : State} {m : Mbx} {op : Nat} (hk : Ag kk s) : Ag kk (doOp s m op).1 := by
  unfold doOp
  try dsimp only
  repeat' (first | with_reducible assumption | (with_reducible refine ag_of (fun _ hk => is_doDeviceStatus hk) ?_) | (with_reducible refine ag_of (fun _ hk => is_doSubscribe hk) ?_) | (with_reducible refine ag_of (fun _ hk => is_doPortMode hk) ?_) | (with_reducible refine ag_of (fun _ hk => is_doAddrSet hk) ?_) | (with_reducible refine ag_of (fun _ hk => is_doPtpSet hk) ?_) | (with_reducible refine ag_of (fun _ hk => is_doReinstate hk) ?_) | (with_reducible refine ag_of (fun _ hk => is_doDieReset hk) ?_) | (with_reducible refine ag_of (fun _ hk => is_doDeviceReset hk) ?_) | (with_reducible refine ag_of (fun _ hk => is_doShutdown hk) ?_) | (with_reducible refine ag_of (fun _ hk => is_doCountersRead hk) ?_) | (with_reducible refine ag_of (fun _ hk => is_doCoreStateRead hk) ?_) | (with_reducible refine ag_of (fun _ hk => is_doScreeRead hk) ?_) | (with_reducible refine ag_of (fun _ hk => is_doDumpRead hk) ?_) | (with_reducible refine ag_of (fun _ hk => is_doSpoilRead hk) ?_) | (with_reducible refine ag_of (fun _ hk => is_doSoundingCfg hk) ?_) | (with_reducible refine ag_of (fun _ hk => is_doPartCreate hk) ?_) | (with_reducible refine ag_of (fun _ hk => is_doPartDelete hk) ?_) | (with_reducible refine ag_of (fun _ hk => is_doPartReserve hk) ?_) | (with_reducible refine ag_of (fun _ hk => is_doPartWindows hk) ?_) | (with_reducible refine ag_of (fun _ hk => is_doPartMemory hk) ?_) | (with_reducible refine ag_of (fun _ hk => is_doPartRekey hk) ?_) | (with_reducible refine ag_of (fun _ hk => is_doMbxBind hk) ?_) | (with_reducible refine ag_of (fun _ hk => is_doMbxUnbind hk) ?_) | (with_reducible refine ag_of (fun _ hk => is_doPartCm5 hk) ?_) | (with_reducible refine ag_of (fun _ hk => is_doPartGoose hk) ?_) | (with_reducible refine ag_of (fun _ hk => is_doPartReset hk) ?_) | (with_reducible refine ag_of (fun _ hk => is_doPartStatus hk) ?_) | (with_reducible refine ag_of (fun _ hk => is_doImageLoad hk) ?_) | (with_reducible refine ag_of (fun _ hk => is_doJobStart hk) ?_) | (with_reducible refine ag_of (fun _ hk => is_doJobAbort hk) ?_) | (with_reducible refine ag_of (fun _ hk => is_doJobRestart hk) ?_) | (with_reducible refine ag_of (fun _ hk => is_doJobStatus hk) ?_) | (with_reducible refine ag_of (fun _ hk => is_doBucketOpen hk) ?_) | (with_reducible refine ag_of (fun _ hk => is_doBucketClose hk) ?_) | (with_reducible refine ag_of (fun _ hk => is_doBucketQuery hk) ?_) | (with_reducible refine ag_of (fun _ hk => is_doPeerTable hk) ?_) | (with_reducible refine ag_of (fun _ hk => is_doRegionRegister hk) ?_) | (with_reducible refine ag_of (fun _ hk => is_doRegionDeregister hk) ?_) | (with_reducible refine ag_of (fun _ hk => is_doQpCreate hk) ?_) | (with_reducible refine ag_of (fun _ hk => is_doQpDestroy hk) ?_) | (with_reducible refine ag_of (fun _ hk => is_doRecvPost hk) ?_) | (with_reducible refine ag_of (fun _ hk => is_doMemWrite hk) ?_) | (with_reducible refine ag_of (fun _ hk => is_doMemRead hk) ?_) | (with_reducible refine ag_of (fun _ hk => is_doAttest hk) ?_) | (with_reducible refine ag_of (fun _ hk => is_doIdentityRead hk) ?_) | (with_reducible refine ag_of (fun _ hk => is_doMacsecSa hk) ?_) | (with_reducible refine ag_of (fun _ hk => is_doStewardKeySet hk) ?_) | (with_reducible refine ag_of (fun _ hk => is_doFwUpdate hk) ?_) | (with_reducible refine ag_of (fun _ hk => is_doFwActivate hk) ?_) | (with_reducible apply ag_doLifecycle) | (with_reducible refine ag_of (fun _ hk => is_doMeterRecords hk) ?_) | (with_reducible refine ag_of (fun _ hk => is_doMeterAudit hk) ?_) | (with_reducible refine ag_of (fun _ hk => is_doMeterIdentity hk) ?_) | (with_reducible apply ag_meter) | split)

theorem ag_beginOp {kk : Kept} {s : State} {c : Cmd} (hk : Ag kk s) : Ag kk (beginOp s c).1 := by
  unfold beginOp
  try dsimp only
  repeat' (first | with_reducible assumption | (with_reducible refine ag_of (fun _ hk => is_bad hk) ?_) | (with_reducible refine ag_of (fun _ hk => is_notFound hk) ?_) | (with_reducible apply ag_doOp) | (with_reducible apply ag_meter) | split)

theorem is_concludeOp {kk : Kept} {s : State} {c : Cmd} (hk : Is kk s) : Is kk (concludeOp s c).1 := by
  unfold concludeOp
  try dsimp only
  repeat' (first | with_reducible assumption | (with_reducible apply is_concludeImage) | (with_reducible apply is_concludeWrite) | (with_reducible apply is_concludeFw) | (with_reducible apply is_meter) | split)

theorem is_settleCmd {kk : Kept} {c : Cmd} {y1 : CmdRes} (hk : Is kk y1.1) : Is kk (settleCmd c y1) := by
  unfold settleCmd
  try dsimp only
  repeat' (first | with_reducible assumption | (with_reducible apply is_finish) | (with_reducible apply is_meter) | split)

theorem ag_advanceOne {kk : Kept} {s : State} {tR : State} (he : advanceOne s = some tR) (hk : Ag kk s) : Ag kk tR := by
  unfold advanceOne at he
  (try dsimp only at he)
  repeat' (first | (with_reducible cases he; done) | (with_reducible injection he with he; subst he) | (with_reducible obtain ⟨_, _, rfl⟩ := Option.map_eq_some_iff.1 he) | (split at he <;> (try (rename_i hq; simp only [↓Prod.ext_iff] at hq; obtain ⟨hf, _⟩ := hq; subst hf))))
  all_goals (try dsimp only)
  repeat' (first | with_reducible assumption | (simp only [↓ag_mk_iff]; refine ⟨ag_and ?_, ?_⟩) | (simp only [↓agM_mk_iff]; refine agM_and ?_) | (with_reducible refine ag_of (fun _ hk => is_modCmd hk) ?_) | (with_reducible apply ag_beginOp) | (with_reducible refine ag_of (fun _ hk => is_concludeOp hk) ?_) | (with_reducible refine ag_of (fun _ hk => is_settleCmd hk) ?_) | (with_reducible apply ag_foldl; intro _ _ _) | (with_reducible apply ag_foldl_fst; intro _ _ _) | (with_reducible refine ag_of (fun _ hk => is_foldl_s hk) ?_; intro _ _ _) | (with_reducible refine ag_of (fun _ hk => is_foldl_fst_s hk) ?_; intro _ _ _) | (with_reducible apply ag_iter; intro _ _) | (with_reducible apply agM_foldl; intro _ _ _) | (with_reducible apply ag_meter) | (intro _; try dsimp only) | (split <;> (try (rename_i hq; simp only [↓Prod.ext_iff] at hq; obtain ⟨hf, _⟩ := hq; subst hf))) | (dsimp only [id]))

theorem ag_advanceGo {kk : Kept} {y1 : Nat} {y2 : State} (hk : Ag kk y2) : Ag kk (advanceGo y1 y2) := by
  induction y1 generalizing y2 with
  | zero => (unfold advanceGo; (try dsimp only); repeat' (with_reducible assumption))
  | succ n ih => (unfold advanceGo; (try dsimp only); repeat' (first | with_reducible assumption | (with_reducible apply ih) | (with_reducible apply ag_advanceOne (by with_reducible assumption)) | (with_reducible apply ag_meter) | split))

theorem is_failTransfers {kk : Kept} {s : State} (hk : Is kk s) : Is kk (failTransfers s) := by
  unfold failTransfers
  try dsimp only
  repeat' (first | with_reducible assumption | (with_reducible apply is_finish) | (with_reducible apply is_foldl; intro _ _ _))

theorem is_kickAll {kk : Kept} {s : State} (hk : Is kk s) : Is kk (kickAll s) := by
  unfold kickAll
  try dsimp only
  repeat' (first | with_reducible assumption | (with_reducible apply is_kick) | (with_reducible apply is_foldl; intro _ _ _))

theorem ag_startWaiting {kk : Kept} {s : State} (hk : Ag kk s) : Ag kk (startWaiting s) := by
  unfold startWaiting
  try dsimp only
  repeat' (first | with_reducible assumption | (simp only [↓ag_mk_iff]; refine ⟨ag_and ?_, ?_⟩) | (simp only [↓agM_mk_iff]; refine agM_and ?_) | (with_reducible refine ag_of (fun _ hk => is_duePolicies hk) ?_) | (with_reducible refine ag_of (fun _ hk => is_overdueGeneration hk) ?_) | (with_reducible apply ag_advanceGo) | (with_reducible refine ag_of (fun _ hk => is_failTransfers hk) ?_) | (with_reducible refine ag_of (fun _ hk => is_kickAll hk) ?_) | (with_reducible apply ag_foldl; intro _ _ _) | (with_reducible apply ag_foldl_fst; intro _ _ _) | (with_reducible refine ag_of (fun _ hk => is_foldl_s hk) ?_; intro _ _ _) | (with_reducible refine ag_of (fun _ hk => is_foldl_fst_s hk) ?_; intro _ _ _) | (with_reducible apply ag_iter; intro _ _) | (with_reducible apply agM_foldl; intro _ _ _) | (with_reducible apply ag_meter) | (intro _; try dsimp only) | (split <;> (try (rename_i hq; simp only [↓Prod.ext_iff] at hq; obtain ⟨hf, _⟩ := hq; subst hf))) | (dsimp only [id]))

theorem is_recordSeq {kk : Kept} {s : State} {m : Mbx} {op : Nat} (hk : Is kk s) : Is kk (recordSeq s m op) := by
  unfold recordSeq
  try dsimp only
  repeat' (first | with_reducible assumption | (simp only [↓is_mk_iff]; refine ⟨is_and ?_, ?_⟩) | (with_reducible apply is_meter) | split)

theorem ag_request {kk : Kept} {op : Nat} {m : Mbx} {s : State} (hk : Ag kk s) : Ag kk (request op m s) := by
  unfold request
  try dsimp only
  repeat' (first | with_reducible assumption | (simp only [↓ag_mk_iff]; refine ⟨ag_and ?_, ?_⟩) | (simp only [↓agM_mk_iff]; refine agM_and ?_) | (with_reducible refine ag_of (fun _ hk => is_useFree hk) ?_) | (with_reducible refine ag_of (fun _ hk => is_setQp hk) ?_) | (with_reducible refine ag_of (fun _ hk => is_transmitOn hk) ?_) | (with_reducible refine ag_of (fun _ hk => is_respond hk) ?_) | (with_reducible apply ag_startWaiting) | (with_reducible refine ag_of (fun _ hk => is_recordSeq hk) ?_) | (with_reducible apply ag_foldl; intro _ _ _) | (with_reducible apply ag_foldl_fst; intro _ _ _) | (with_reducible refine ag_of (fun _ hk => is_foldl_s hk) ?_; intro _ _ _) | (with_reducible refine ag_of (fun _ hk => is_foldl_fst_s hk) ?_; intro _ _ _) | (with_reducible apply ag_iter; intro _ _) | (with_reducible apply agM_foldl; intro _ _ _) | (with_reducible apply ag_meter) | (intro _; try dsimp only) | (split <;> (try (rename_i hq; simp only [↓Prod.ext_iff] at hq; obtain ⟨hf, _⟩ := hq; subst hf))) | (dsimp only [id]))

theorem is_abandon {kk : Kept} {s : State} {c : Cmd} (hk : Is kk s) : Is kk (abandon s c) := by
  unfold abandon
  split
  · exact is_loadFails hk
  · have h2 : Is kk (setService s s.outBefore) := is_setService hk
    split
    · exact ⟨h2.product, h2.pending, hk.fwKey, hk.serial, hk.lc, hk.rbOuvos, hk.rbUcode, h2.meter⟩
    · exact hk

theorem ag_execCommandTimeout {kk : Kept} {qpn tag : Nat} {s : State} {tR : State}
    (he : execCommandTimeout qpn tag s = .next tR) (hk : Ag kk s) : Ag kk tR := by
  unfold execCommandTimeout at he
  repeat' (first | (with_reducible cases he; done) | (with_reducible injection he with he; subst he) | (with_reducible obtain ⟨_, _, rfl⟩ := Option.map_eq_some_iff.1 he))
  repeat' (first | with_reducible assumption | (with_reducible refine ag_of (fun _ hk => is_finish hk) ?_) | (with_reducible apply ag_startWaiting) | (with_reducible refine ag_of (fun _ hk => is_abandon hk) ?_) | (with_reducible apply ag_meter) | split)

theorem ag_execUnsupportedRequest {kk : Kept} {m : Mbx} {opcode : Nat} {s : State} {tR : State}
    (he : execUnsupportedRequest m opcode s = .next tR) (hk : Ag kk s) : Ag kk tR := by
  unfold execUnsupportedRequest at he
  repeat' (first | (with_reducible cases he; done) | (with_reducible injection he with he; subst he) | (with_reducible obtain ⟨_, _, rfl⟩ := Option.map_eq_some_iff.1 he))
  repeat' (first | with_reducible assumption | (with_reducible apply ag_request) | (with_reducible apply ag_meter) | split)

theorem ag_execDeviceStatus {kk : Kept} {m : Mbx} {s : State} {tR : State} (he : execDeviceStatus m s = .next tR) (hk : Ag kk s)
    : Ag kk tR := by
  unfold execDeviceStatus at he
  repeat' (first | (with_reducible cases he; done) | (with_reducible injection he with he; subst he) | (with_reducible obtain ⟨_, _, rfl⟩ := Option.map_eq_some_iff.1 he))
  repeat' (first | with_reducible assumption | (with_reducible apply ag_request))

theorem ag_execSubscribe {kk : Kept} {m : Mbx} {s : State} {tR : State} (he : execSubscribe m s = .next tR) (hk : Ag kk s)
    : Ag kk tR := by
  unfold execSubscribe at he
  repeat' (first | (with_reducible cases he; done) | (with_reducible injection he with he; subst he) | (with_reducible obtain ⟨_, _, rfl⟩ := Option.map_eq_some_iff.1 he))
  repeat' (first | with_reducible assumption | (with_reducible apply ag_request))

theorem ag_execPortMode {kk : Kept} {m : Mbx} {s : State} {tR : State} (he : execPortMode m s = .next tR) (hk : Ag kk s)
    : Ag kk tR := by
  unfold execPortMode at he
  repeat' (first | (with_reducible cases he; done) | (with_reducible injection he with he; subst he) | (with_reducible obtain ⟨_, _, rfl⟩ := Option.map_eq_some_iff.1 he))
  repeat' (first | with_reducible assumption | (with_reducible apply ag_request))

theorem ag_execAddrSet {kk : Kept} {m : Mbx} {s : State} {tR : State} (he : execAddrSet m s = .next tR) (hk : Ag kk s)
    : Ag kk tR := by
  unfold execAddrSet at he
  repeat' (first | (with_reducible cases he; done) | (with_reducible injection he with he; subst he) | (with_reducible obtain ⟨_, _, rfl⟩ := Option.map_eq_some_iff.1 he))
  repeat' (first | with_reducible assumption | (with_reducible apply ag_request))

theorem ag_execPtpSet {kk : Kept} {m : Mbx} {s : State} {tR : State} (he : execPtpSet m s = .next tR) (hk : Ag kk s)
    : Ag kk tR := by
  unfold execPtpSet at he
  repeat' (first | (with_reducible cases he; done) | (with_reducible injection he with he; subst he) | (with_reducible obtain ⟨_, _, rfl⟩ := Option.map_eq_some_iff.1 he))
  repeat' (first | with_reducible assumption | (with_reducible apply ag_request))

theorem ag_execReinstate {kk : Kept} {m : Mbx} {s : State} {tR : State} (he : execReinstate m s = .next tR) (hk : Ag kk s)
    : Ag kk tR := by
  unfold execReinstate at he
  repeat' (first | (with_reducible cases he; done) | (with_reducible injection he with he; subst he) | (with_reducible obtain ⟨_, _, rfl⟩ := Option.map_eq_some_iff.1 he))
  repeat' (first | with_reducible assumption | (with_reducible apply ag_request))

theorem ag_execDieReset {kk : Kept} {m : Mbx} {s : State} {tR : State} (he : execDieReset m s = .next tR) (hk : Ag kk s)
    : Ag kk tR := by
  unfold execDieReset at he
  repeat' (first | (with_reducible cases he; done) | (with_reducible injection he with he; subst he) | (with_reducible obtain ⟨_, _, rfl⟩ := Option.map_eq_some_iff.1 he))
  repeat' (first | with_reducible assumption | (with_reducible apply ag_request))

theorem ag_execDeviceReset {kk : Kept} {m : Mbx} {s : State} {tR : State} (he : execDeviceReset m s = .next tR) (hk : Ag kk s)
    : Ag kk tR := by
  unfold execDeviceReset at he
  repeat' (first | (with_reducible cases he; done) | (with_reducible injection he with he; subst he) | (with_reducible obtain ⟨_, _, rfl⟩ := Option.map_eq_some_iff.1 he))
  repeat' (first | with_reducible assumption | (with_reducible apply ag_request))

theorem ag_execShutdown {kk : Kept} {m : Mbx} {s : State} {tR : State} (he : execShutdown m s = .next tR) (hk : Ag kk s)
    : Ag kk tR := by
  unfold execShutdown at he
  repeat' (first | (with_reducible cases he; done) | (with_reducible injection he with he; subst he) | (with_reducible obtain ⟨_, _, rfl⟩ := Option.map_eq_some_iff.1 he))
  repeat' (first | with_reducible assumption | (with_reducible apply ag_request))

theorem ag_execPartCreate {kk : Kept} {m : Mbx} {s : State} {tR : State} (he : execPartCreate m s = .next tR) (hk : Ag kk s)
    : Ag kk tR := by
  unfold execPartCreate at he
  repeat' (first | (with_reducible cases he; done) | (with_reducible injection he with he; subst he) | (with_reducible obtain ⟨_, _, rfl⟩ := Option.map_eq_some_iff.1 he))
  repeat' (first | with_reducible assumption | (with_reducible apply ag_request))

theorem ag_execPartDelete {kk : Kept} {m : Mbx} {s : State} {tR : State} (he : execPartDelete m s = .next tR) (hk : Ag kk s)
    : Ag kk tR := by
  unfold execPartDelete at he
  repeat' (first | (with_reducible cases he; done) | (with_reducible injection he with he; subst he) | (with_reducible obtain ⟨_, _, rfl⟩ := Option.map_eq_some_iff.1 he))
  repeat' (first | with_reducible assumption | (with_reducible apply ag_request))

theorem ag_execPartReserve {kk : Kept} {m : Mbx} {s : State} {tR : State} (he : execPartReserve m s = .next tR) (hk : Ag kk s)
    : Ag kk tR := by
  unfold execPartReserve at he
  repeat' (first | (with_reducible cases he; done) | (with_reducible injection he with he; subst he) | (with_reducible obtain ⟨_, _, rfl⟩ := Option.map_eq_some_iff.1 he))
  repeat' (first | with_reducible assumption | (with_reducible apply ag_request))

theorem ag_execPartWindows {kk : Kept} {m : Mbx} {s : State} {tR : State} (he : execPartWindows m s = .next tR) (hk : Ag kk s)
    : Ag kk tR := by
  unfold execPartWindows at he
  repeat' (first | (with_reducible cases he; done) | (with_reducible injection he with he; subst he) | (with_reducible obtain ⟨_, _, rfl⟩ := Option.map_eq_some_iff.1 he))
  repeat' (first | with_reducible assumption | (with_reducible apply ag_request))

theorem ag_execPartMemory {kk : Kept} {m : Mbx} {s : State} {tR : State} (he : execPartMemory m s = .next tR) (hk : Ag kk s)
    : Ag kk tR := by
  unfold execPartMemory at he
  repeat' (first | (with_reducible cases he; done) | (with_reducible injection he with he; subst he) | (with_reducible obtain ⟨_, _, rfl⟩ := Option.map_eq_some_iff.1 he))
  repeat' (first | with_reducible assumption | (with_reducible apply ag_request))

theorem ag_execPartRekey {kk : Kept} {m : Mbx} {s : State} {tR : State} (he : execPartRekey m s = .next tR) (hk : Ag kk s)
    : Ag kk tR := by
  unfold execPartRekey at he
  repeat' (first | (with_reducible cases he; done) | (with_reducible injection he with he; subst he) | (with_reducible obtain ⟨_, _, rfl⟩ := Option.map_eq_some_iff.1 he))
  repeat' (first | with_reducible assumption | (with_reducible apply ag_request))

theorem ag_execMbxBind {kk : Kept} {m : Mbx} {s : State} {tR : State} (he : execMbxBind m s = .next tR) (hk : Ag kk s)
    : Ag kk tR := by
  unfold execMbxBind at he
  repeat' (first | (with_reducible cases he; done) | (with_reducible injection he with he; subst he) | (with_reducible obtain ⟨_, _, rfl⟩ := Option.map_eq_some_iff.1 he))
  repeat' (first | with_reducible assumption | (with_reducible apply ag_request))

theorem ag_execMbxUnbind {kk : Kept} {m : Mbx} {s : State} {tR : State} (he : execMbxUnbind m s = .next tR) (hk : Ag kk s)
    : Ag kk tR := by
  unfold execMbxUnbind at he
  repeat' (first | (with_reducible cases he; done) | (with_reducible injection he with he; subst he) | (with_reducible obtain ⟨_, _, rfl⟩ := Option.map_eq_some_iff.1 he))
  repeat' (first | with_reducible assumption | (with_reducible apply ag_request))

theorem ag_execPartCm5 {kk : Kept} {m : Mbx} {s : State} {tR : State} (he : execPartCm5 m s = .next tR) (hk : Ag kk s)
    : Ag kk tR := by
  unfold execPartCm5 at he
  repeat' (first | (with_reducible cases he; done) | (with_reducible injection he with he; subst he) | (with_reducible obtain ⟨_, _, rfl⟩ := Option.map_eq_some_iff.1 he))
  repeat' (first | with_reducible assumption | (with_reducible apply ag_request))

theorem ag_execPartGoose {kk : Kept} {m : Mbx} {s : State} {tR : State} (he : execPartGoose m s = .next tR) (hk : Ag kk s)
    : Ag kk tR := by
  unfold execPartGoose at he
  repeat' (first | (with_reducible cases he; done) | (with_reducible injection he with he; subst he) | (with_reducible obtain ⟨_, _, rfl⟩ := Option.map_eq_some_iff.1 he))
  repeat' (first | with_reducible assumption | (with_reducible apply ag_request))

theorem ag_execPartReset {kk : Kept} {m : Mbx} {s : State} {tR : State} (he : execPartReset m s = .next tR) (hk : Ag kk s)
    : Ag kk tR := by
  unfold execPartReset at he
  repeat' (first | (with_reducible cases he; done) | (with_reducible injection he with he; subst he) | (with_reducible obtain ⟨_, _, rfl⟩ := Option.map_eq_some_iff.1 he))
  repeat' (first | with_reducible assumption | (with_reducible apply ag_request))

theorem ag_execPartStatus {kk : Kept} {m : Mbx} {s : State} {tR : State} (he : execPartStatus m s = .next tR) (hk : Ag kk s)
    : Ag kk tR := by
  unfold execPartStatus at he
  repeat' (first | (with_reducible cases he; done) | (with_reducible injection he with he; subst he) | (with_reducible obtain ⟨_, _, rfl⟩ := Option.map_eq_some_iff.1 he))
  repeat' (first | with_reducible assumption | (with_reducible apply ag_request))

theorem ag_execImageLoad {kk : Kept} {m : Mbx} {s : State} {tR : State} (he : execImageLoad m s = .next tR) (hk : Ag kk s)
    : Ag kk tR := by
  unfold execImageLoad at he
  repeat' (first | (with_reducible cases he; done) | (with_reducible injection he with he; subst he) | (with_reducible obtain ⟨_, _, rfl⟩ := Option.map_eq_some_iff.1 he))
  repeat' (first | with_reducible assumption | (with_reducible apply ag_request))

theorem ag_execJobStart {kk : Kept} {m : Mbx} {s : State} {tR : State} (he : execJobStart m s = .next tR) (hk : Ag kk s)
    : Ag kk tR := by
  unfold execJobStart at he
  repeat' (first | (with_reducible cases he; done) | (with_reducible injection he with he; subst he) | (with_reducible obtain ⟨_, _, rfl⟩ := Option.map_eq_some_iff.1 he))
  repeat' (first | with_reducible assumption | (with_reducible apply ag_request))

theorem ag_execJobAbort {kk : Kept} {m : Mbx} {s : State} {tR : State} (he : execJobAbort m s = .next tR) (hk : Ag kk s)
    : Ag kk tR := by
  unfold execJobAbort at he
  repeat' (first | (with_reducible cases he; done) | (with_reducible injection he with he; subst he) | (with_reducible obtain ⟨_, _, rfl⟩ := Option.map_eq_some_iff.1 he))
  repeat' (first | with_reducible assumption | (with_reducible apply ag_request))

theorem ag_execJobRestart {kk : Kept} {m : Mbx} {s : State} {tR : State} (he : execJobRestart m s = .next tR) (hk : Ag kk s)
    : Ag kk tR := by
  unfold execJobRestart at he
  repeat' (first | (with_reducible cases he; done) | (with_reducible injection he with he; subst he) | (with_reducible obtain ⟨_, _, rfl⟩ := Option.map_eq_some_iff.1 he))
  repeat' (first | with_reducible assumption | (with_reducible apply ag_request))

theorem ag_execJobStatus {kk : Kept} {m : Mbx} {s : State} {tR : State} (he : execJobStatus m s = .next tR) (hk : Ag kk s)
    : Ag kk tR := by
  unfold execJobStatus at he
  repeat' (first | (with_reducible cases he; done) | (with_reducible injection he with he; subst he) | (with_reducible obtain ⟨_, _, rfl⟩ := Option.map_eq_some_iff.1 he))
  repeat' (first | with_reducible assumption | (with_reducible apply ag_request))

theorem ag_execBucketOpen {kk : Kept} {m : Mbx} {s : State} {tR : State} (he : execBucketOpen m s = .next tR) (hk : Ag kk s)
    : Ag kk tR := by
  unfold execBucketOpen at he
  repeat' (first | (with_reducible cases he; done) | (with_reducible injection he with he; subst he) | (with_reducible obtain ⟨_, _, rfl⟩ := Option.map_eq_some_iff.1 he))
  repeat' (first | with_reducible assumption | (with_reducible apply ag_request))

theorem ag_execBucketClose {kk : Kept} {m : Mbx} {s : State} {tR : State} (he : execBucketClose m s = .next tR) (hk : Ag kk s)
    : Ag kk tR := by
  unfold execBucketClose at he
  repeat' (first | (with_reducible cases he; done) | (with_reducible injection he with he; subst he) | (with_reducible obtain ⟨_, _, rfl⟩ := Option.map_eq_some_iff.1 he))
  repeat' (first | with_reducible assumption | (with_reducible apply ag_request))

theorem ag_execBucketQuery {kk : Kept} {m : Mbx} {s : State} {tR : State} (he : execBucketQuery m s = .next tR) (hk : Ag kk s)
    : Ag kk tR := by
  unfold execBucketQuery at he
  repeat' (first | (with_reducible cases he; done) | (with_reducible injection he with he; subst he) | (with_reducible obtain ⟨_, _, rfl⟩ := Option.map_eq_some_iff.1 he))
  repeat' (first | with_reducible assumption | (with_reducible apply ag_request))

theorem ag_execPeerTable {kk : Kept} {m : Mbx} {s : State} {tR : State} (he : execPeerTable m s = .next tR) (hk : Ag kk s)
    : Ag kk tR := by
  unfold execPeerTable at he
  repeat' (first | (with_reducible cases he; done) | (with_reducible injection he with he; subst he) | (with_reducible obtain ⟨_, _, rfl⟩ := Option.map_eq_some_iff.1 he))
  repeat' (first | with_reducible assumption | (with_reducible apply ag_request))

theorem ag_execRegionRegister {kk : Kept} {m : Mbx} {s : State} {tR : State} (he : execRegionRegister m s = .next tR) (hk
    : Ag kk s) : Ag kk tR := by
  unfold execRegionRegister at he
  repeat' (first | (with_reducible cases he; done) | (with_reducible injection he with he; subst he) | (with_reducible obtain ⟨_, _, rfl⟩ := Option.map_eq_some_iff.1 he))
  repeat' (first | with_reducible assumption | (with_reducible apply ag_request))

theorem ag_execRegionDeregister {kk : Kept} {m : Mbx} {s : State} {tR : State} (he : execRegionDeregister m s = .next tR) (hk
    : Ag kk s) : Ag kk tR := by
  unfold execRegionDeregister at he
  repeat' (first | (with_reducible cases he; done) | (with_reducible injection he with he; subst he) | (with_reducible obtain ⟨_, _, rfl⟩ := Option.map_eq_some_iff.1 he))
  repeat' (first | with_reducible assumption | (with_reducible apply ag_request))

theorem ag_execQpCreate {kk : Kept} {m : Mbx} {s : State} {tR : State} (he : execQpCreate m s = .next tR) (hk : Ag kk s)
    : Ag kk tR := by
  unfold execQpCreate at he
  repeat' (first | (with_reducible cases he; done) | (with_reducible injection he with he; subst he) | (with_reducible obtain ⟨_, _, rfl⟩ := Option.map_eq_some_iff.1 he))
  repeat' (first | with_reducible assumption | (with_reducible apply ag_request))

theorem ag_execQpDestroy {kk : Kept} {m : Mbx} {s : State} {tR : State} (he : execQpDestroy m s = .next tR) (hk : Ag kk s)
    : Ag kk tR := by
  unfold execQpDestroy at he
  repeat' (first | (with_reducible cases he; done) | (with_reducible injection he with he; subst he) | (with_reducible obtain ⟨_, _, rfl⟩ := Option.map_eq_some_iff.1 he))
  repeat' (first | with_reducible assumption | (with_reducible apply ag_request))

theorem ag_execRecvPost {kk : Kept} {m : Mbx} {s : State} {tR : State} (he : execRecvPost m s = .next tR) (hk : Ag kk s)
    : Ag kk tR := by
  unfold execRecvPost at he
  repeat' (first | (with_reducible cases he; done) | (with_reducible injection he with he; subst he) | (with_reducible obtain ⟨_, _, rfl⟩ := Option.map_eq_some_iff.1 he))
  repeat' (first | with_reducible assumption | (with_reducible apply ag_request))

theorem ag_execMemWrite {kk : Kept} {m : Mbx} {s : State} {tR : State} (he : execMemWrite m s = .next tR) (hk : Ag kk s)
    : Ag kk tR := by
  unfold execMemWrite at he
  repeat' (first | (with_reducible cases he; done) | (with_reducible injection he with he; subst he) | (with_reducible obtain ⟨_, _, rfl⟩ := Option.map_eq_some_iff.1 he))
  repeat' (first | with_reducible assumption | (with_reducible apply ag_request))

theorem ag_execMemRead {kk : Kept} {m : Mbx} {s : State} {tR : State} (he : execMemRead m s = .next tR) (hk : Ag kk s)
    : Ag kk tR := by
  unfold execMemRead at he
  repeat' (first | (with_reducible cases he; done) | (with_reducible injection he with he; subst he) | (with_reducible obtain ⟨_, _, rfl⟩ := Option.map_eq_some_iff.1 he))
  repeat' (first | with_reducible assumption | (with_reducible apply ag_request))

theorem ag_execCountersRead {kk : Kept} {m : Mbx} {s : State} {tR : State} (he : execCountersRead m s = .next tR) (hk : Ag kk s)
    : Ag kk tR := by
  unfold execCountersRead at he
  repeat' (first | (with_reducible cases he; done) | (with_reducible injection he with he; subst he) | (with_reducible obtain ⟨_, _, rfl⟩ := Option.map_eq_some_iff.1 he))
  repeat' (first | with_reducible assumption | (with_reducible apply ag_request))

theorem ag_execCoreStateRead {kk : Kept} {m : Mbx} {s : State} {tR : State} (he : execCoreStateRead m s = .next tR) (hk
    : Ag kk s) : Ag kk tR := by
  unfold execCoreStateRead at he
  repeat' (first | (with_reducible cases he; done) | (with_reducible injection he with he; subst he) | (with_reducible obtain ⟨_, _, rfl⟩ := Option.map_eq_some_iff.1 he))
  repeat' (first | with_reducible assumption | (with_reducible apply ag_request))

theorem ag_execScreeRead {kk : Kept} {m : Mbx} {s : State} {tR : State} (he : execScreeRead m s = .next tR) (hk : Ag kk s)
    : Ag kk tR := by
  unfold execScreeRead at he
  repeat' (first | (with_reducible cases he; done) | (with_reducible injection he with he; subst he) | (with_reducible obtain ⟨_, _, rfl⟩ := Option.map_eq_some_iff.1 he))
  repeat' (first | with_reducible assumption | (with_reducible apply ag_request))

theorem ag_execDumpRead {kk : Kept} {m : Mbx} {s : State} {tR : State} (he : execDumpRead m s = .next tR) (hk : Ag kk s)
    : Ag kk tR := by
  unfold execDumpRead at he
  repeat' (first | (with_reducible cases he; done) | (with_reducible injection he with he; subst he) | (with_reducible obtain ⟨_, _, rfl⟩ := Option.map_eq_some_iff.1 he))
  repeat' (first | with_reducible assumption | (with_reducible apply ag_request))

theorem ag_execSpoilRead {kk : Kept} {m : Mbx} {s : State} {tR : State} (he : execSpoilRead m s = .next tR) (hk : Ag kk s)
    : Ag kk tR := by
  unfold execSpoilRead at he
  repeat' (first | (with_reducible cases he; done) | (with_reducible injection he with he; subst he) | (with_reducible obtain ⟨_, _, rfl⟩ := Option.map_eq_some_iff.1 he))
  repeat' (first | with_reducible assumption | (with_reducible apply ag_request))

theorem ag_execSoundingCfg {kk : Kept} {m : Mbx} {s : State} {tR : State} (he : execSoundingCfg m s = .next tR) (hk : Ag kk s)
    : Ag kk tR := by
  unfold execSoundingCfg at he
  repeat' (first | (with_reducible cases he; done) | (with_reducible injection he with he; subst he) | (with_reducible obtain ⟨_, _, rfl⟩ := Option.map_eq_some_iff.1 he))
  repeat' (first | with_reducible assumption | (with_reducible apply ag_request))

theorem ag_execAttest {kk : Kept} {m : Mbx} {s : State} {tR : State} (he : execAttest m s = .next tR) (hk : Ag kk s)
    : Ag kk tR := by
  unfold execAttest at he
  repeat' (first | (with_reducible cases he; done) | (with_reducible injection he with he; subst he) | (with_reducible obtain ⟨_, _, rfl⟩ := Option.map_eq_some_iff.1 he))
  repeat' (first | with_reducible assumption | (with_reducible apply ag_request))

theorem ag_execIdentityRead {kk : Kept} {m : Mbx} {s : State} {tR : State} (he : execIdentityRead m s = .next tR) (hk : Ag kk s)
    : Ag kk tR := by
  unfold execIdentityRead at he
  repeat' (first | (with_reducible cases he; done) | (with_reducible injection he with he; subst he) | (with_reducible obtain ⟨_, _, rfl⟩ := Option.map_eq_some_iff.1 he))
  repeat' (first | with_reducible assumption | (with_reducible apply ag_request))

theorem ag_execMacsecSa {kk : Kept} {m : Mbx} {s : State} {tR : State} (he : execMacsecSa m s = .next tR) (hk : Ag kk s)
    : Ag kk tR := by
  unfold execMacsecSa at he
  repeat' (first | (with_reducible cases he; done) | (with_reducible injection he with he; subst he) | (with_reducible obtain ⟨_, _, rfl⟩ := Option.map_eq_some_iff.1 he))
  repeat' (first | with_reducible assumption | (with_reducible apply ag_request))

theorem ag_execStewardKeySet {kk : Kept} {m : Mbx} {s : State} {tR : State} (he : execStewardKeySet m s = .next tR) (hk
    : Ag kk s) : Ag kk tR := by
  unfold execStewardKeySet at he
  repeat' (first | (with_reducible cases he; done) | (with_reducible injection he with he; subst he) | (with_reducible obtain ⟨_, _, rfl⟩ := Option.map_eq_some_iff.1 he))
  repeat' (first | with_reducible assumption | (with_reducible apply ag_request))

theorem ag_execFwUpdate {kk : Kept} {m : Mbx} {s : State} {tR : State} (he : execFwUpdate m s = .next tR) (hk : Ag kk s)
    : Ag kk tR := by
  unfold execFwUpdate at he
  repeat' (first | (with_reducible cases he; done) | (with_reducible injection he with he; subst he) | (with_reducible obtain ⟨_, _, rfl⟩ := Option.map_eq_some_iff.1 he))
  repeat' (first | with_reducible assumption | (with_reducible apply ag_request))

theorem ag_execFwActivate {kk : Kept} {m : Mbx} {s : State} {tR : State} (he : execFwActivate m s = .next tR) (hk : Ag kk s)
    : Ag kk tR := by
  unfold execFwActivate at he
  repeat' (first | (with_reducible cases he; done) | (with_reducible injection he with he; subst he) | (with_reducible obtain ⟨_, _, rfl⟩ := Option.map_eq_some_iff.1 he))
  repeat' (first | with_reducible assumption | (with_reducible apply ag_request))

theorem ag_execLifecycle {kk : Kept} {m : Mbx} {s : State} {tR : State} (he : execLifecycle m s = .next tR) (hk : Ag kk s)
    : Ag kk tR := by
  unfold execLifecycle at he
  repeat' (first | (with_reducible cases he; done) | (with_reducible injection he with he; subst he) | (with_reducible obtain ⟨_, _, rfl⟩ := Option.map_eq_some_iff.1 he))
  repeat' (first | with_reducible assumption | (with_reducible apply ag_request))

theorem ag_execMeterRecords {kk : Kept} {m : Mbx} {s : State} {tR : State} (he : execMeterRecords m s = .next tR) (hk : Ag kk s)
    : Ag kk tR := by
  unfold execMeterRecords at he
  repeat' (first | (with_reducible cases he; done) | (with_reducible injection he with he; subst he) | (with_reducible obtain ⟨_, _, rfl⟩ := Option.map_eq_some_iff.1 he))
  repeat' (first | with_reducible assumption | (with_reducible apply ag_request))

theorem ag_execMeterAudit {kk : Kept} {m : Mbx} {s : State} {tR : State} (he : execMeterAudit m s = .next tR) (hk : Ag kk s)
    : Ag kk tR := by
  unfold execMeterAudit at he
  repeat' (first | (with_reducible cases he; done) | (with_reducible injection he with he; subst he) | (with_reducible obtain ⟨_, _, rfl⟩ := Option.map_eq_some_iff.1 he))
  repeat' (first | with_reducible assumption | (with_reducible apply ag_request))

theorem ag_execMeterIdentity {kk : Kept} {m : Mbx} {s : State} {tR : State} (he : execMeterIdentity m s = .next tR) (hk
    : Ag kk s) : Ag kk tR := by
  unfold execMeterIdentity at he
  repeat' (first | (with_reducible cases he; done) | (with_reducible injection he with he; subst he) | (with_reducible obtain ⟨_, _, rfl⟩ := Option.map_eq_some_iff.1 he))
  repeat' (first | with_reducible assumption | (with_reducible apply ag_request))

end Sys2Proof.Machine
end

