-- ==== Sys2Proof/Laws/KeptRows.lean ====
section
/-! SUPPORT. One lemma per operation of Machine/Rows.lean: it keeps what `Kept` lists, or only ages it. -/

namespace Sys2Proof.Machine

theorem ag_execSelftestSlice {kk : Kept} {results : List (Nat × Nat × Nat × Nat × Nat)} {s : State} {tR : State}
    (he : execSelftestSlice results s = .next tR) (hk : Ag kk s) : Ag kk tR := by
  unfold execSelftestSlice at he
  (try dsimp only at he)
  repeat' (first | (with_reducible cases he; done) | (with_reducible injection he with he; subst he) | (with_reducible obtain ⟨_, _, rfl⟩ := Option.map_eq_some_iff.1 he))
  repeat' (first | with_reducible assumption | (with_reducible refine ag_of (fun _ hk => is_planStep hk) ?_) | (with_reducible refine ag_of (fun _ hk => is_clearDies hk) ?_) | (with_reducible refine ag_of (fun _ hk => is_finish hk) ?_) | (with_reducible refine ag_of (fun _ hk => is_shutdownWrites hk) ?_) | (with_reducible apply ag_startWaiting) | (with_reducible apply ag_meter) | split)

theorem is_atPair {kk : Kept} {p : Packet} {s : State} {act : State → Qp → State} {tR : State} (he : atPair p s act = .next tR)
    (hk : Is kk s) (hact : ∀ (z0 : State) (z1 : Qp), Is kk z0 → Is kk (act z0 z1)) : Is kk tR := by
  unfold atPair at he
  (try dsimp only at he)
  repeat' (first | (with_reducible cases he; done) | (with_reducible obtain ⟨_, _, rfl⟩ := Option.map_eq_some_iff.1 he) | split at he)
  repeat' (first | with_reducible assumption | (with_reducible apply hact) | (with_reducible apply is_acceptFrame) | (with_reducible apply is_onFrame (by with_reducible assumption)) | (with_reducible apply is_congested) | (with_reducible apply is_meter) | (intro _; try dsimp only))

theorem ag_atPair {kk : Kept} {p : Packet} {s : State} {act : State → Qp → State} {tR : State} (he : atPair p s act = .next tR)
    (hk : Ag kk s) (hact : ∀ (z0 : State) (z1 : Qp), Ag kk z0 → Ag kk (act z0 z1)) : Ag kk tR := by
  unfold atPair at he
  (try dsimp only at he)
  repeat' (first | (with_reducible cases he; done) | (with_reducible obtain ⟨_, _, rfl⟩ := Option.map_eq_some_iff.1 he) | split at he)
  repeat' (first | with_reducible assumption | (with_reducible apply hact) | (with_reducible refine ag_of (fun _ hk => is_acceptFrame hk) ?_) | (with_reducible apply ag_onFrame (by with_reducible assumption)) | (with_reducible refine ag_of (fun _ hk => is_congested hk) ?_) | (with_reducible apply ag_meter) | (intro _; try dsimp only))

theorem is_acked {kk : Kept} {q : Nat} {s : State} {o : OutMsg} (hk : Is kk s) : Is kk (acked q s o) := by
  unfold acked
  try dsimp only
  repeat' (first | with_reducible assumption | (with_reducible apply is_peerAcked) | (with_reducible apply is_finish) | (with_reducible apply is_meter) | split)

theorem is_ackUpTo {kk : Kept} {s : State} {q psn : Nat} (hk : Is kk s) : Is kk (ackUpTo s q psn) := by
  unfold ackUpTo
  try dsimp only
  repeat' (first | with_reducible assumption | (with_reducible apply is_setQp) | (with_reducible apply is_acked) | (with_reducible apply is_foldl; intro _ _ _) | (with_reducible apply is_meter) | split)

theorem is_resend {kk : Kept} {s : State} {q : Nat} (hk : Is kk s) : Is kk (resend s q) := by
  unfold resend
  try dsimp only
  repeat' (first | with_reducible assumption | (simp only [↓is_mk_iff]; refine ⟨is_and ?_, ?_⟩) | (simp only [↓isM_mk_iff]; refine isM_and ?_) | (with_reducible apply is_setQp) | (with_reducible apply is_transmitOn) | (with_reducible apply is_foldl; intro _ _ _) | (with_reducible apply is_foldl_fst; intro _ _ _) | (with_reducible apply is_foldl_s; intro _ _ _) | (with_reducible apply is_foldl_fst_s; intro _ _ _) | (with_reducible apply is_iter; intro _ _) | (with_reducible apply isM_foldl; intro _ _ _) | (with_reducible apply is_meter) | (intro _; try dsimp only) | (split <;> (try (rename_i hq; simp only [↓Prod.ext_iff] at hq; obtain ⟨hf, _⟩ := hq; subst hf))) | (dsimp only [id]))

theorem is_retry {kk : Kept} {s : State} {q : Nat} {v : Qp} (hk : Is kk s) : Is kk (retry s q v) := by
  unfold retry
  try dsimp only
  repeat' (first | with_reducible assumption | (with_reducible apply is_modQp) | (with_reducible apply is_qpError) | (with_reducible apply is_resend) | (with_reducible apply is_meter) | split)

theorem ag_execRdmaAck {kk : Kept} {p : Packet} {syndrome : Nat} {s : State} {tR : State}
    (he : execRdmaAck p syndrome s = .next tR) (hk : Ag kk s) : Ag kk tR := by
  unfold execRdmaAck at he
  (try dsimp only at he)
  repeat' (first | (with_reducible cases he; done) | (with_reducible obtain ⟨_, _, rfl⟩ := Option.map_eq_some_iff.1 he) | split at he)
  repeat' (first | with_reducible assumption | (with_reducible refine ag_of (fun _ hk => is_modQp hk) ?_) | (with_reducible refine ag_of (fun _ hk => is_flushEvents hk) ?_) | (with_reducible refine ag_of (fun _ hk => is_qpError hk) ?_) | (with_reducible apply ag_startWaiting) | (with_reducible apply ag_atPair (by with_reducible assumption)) | (with_reducible refine ag_of (fun _ hk => is_ackUpTo hk) ?_) | (with_reducible refine ag_of (fun _ hk => is_retry hk) ?_) | (with_reducible apply ag_meter) | (intro _; try dsimp only) | split)

theorem ag_execLocalAckTimeout {kk : Kept} {qpn : Nat} {s : State} {tR : State} (he : execLocalAckTimeout qpn s = .next tR) (hk
    : Ag kk s) : Ag kk tR := by
  unfold execLocalAckTimeout at he
  repeat' (first | (with_reducible cases he; done) | (with_reducible injection he with he; subst he) | (with_reducible obtain ⟨_, _, rfl⟩ := Option.map_eq_some_iff.1 he))
  repeat' (first | with_reducible assumption | (with_reducible apply ag_startWaiting) | (with_reducible refine ag_of (fun _ hk => is_retry hk) ?_) | (with_reducible apply ag_meter) | split)

theorem is_execRnrRetryTimer {kk : Kept} {qpn : Nat} {s : State} {tR : State} (he : execRnrRetryTimer qpn s = .next tR) (hk
    : Is kk s) : Is kk tR := by
  unfold execRnrRetryTimer at he
  repeat' (first | (with_reducible cases he; done) | (with_reducible injection he with he; subst he) | (with_reducible obtain ⟨_, _, rfl⟩ := Option.map_eq_some_iff.1 he))
  repeat' (first | with_reducible assumption | (with_reducible apply is_modQp) | (with_reducible apply is_flushEvents) | (with_reducible apply is_resend) | (with_reducible apply is_meter) | split)

theorem is_laterNow {kk : Kept} {s : State} {q : Nat} (hk : Is kk s) : Is kk (laterNow s q) := by
  unfold laterNow
  try dsimp only
  repeat' (first | with_reducible assumption | (simp only [↓is_mk_iff]; refine ⟨is_and ?_, ?_⟩) | (simp only [↓isM_mk_iff]; refine isM_and ?_) | (with_reducible apply is_postLater) | (with_reducible apply is_foldl; intro _ _ _) | (with_reducible apply is_foldl_fst; intro _ _ _) | (with_reducible apply is_foldl_s; intro _ _ _) | (with_reducible apply is_foldl_fst_s; intro _ _ _) | (with_reducible apply is_iter; intro _ _) | (with_reducible apply isM_foldl; intro _ _ _) | (with_reducible apply is_meter) | (intro _; try dsimp only) | (split <;> (try (rename_i hq; simp only [↓Prod.ext_iff] at hq; obtain ⟨hf, _⟩ := hq; subst hf))) | (dsimp only [id]))

theorem ag_execRdmaReadResponse {kk : Kept} {p : Packet} {data : List Byte} {s : State} {tR : State} (he : execRdmaReadResponse p data s = .next tR) (hk : Ag kk s) : Ag kk tR := by
  unfold execRdmaReadResponse at he
  (try dsimp only at he)
  repeat' (first | (with_reducible cases he; done) | (with_reducible injection he with he; subst he) | (with_reducible obtain ⟨_, _, rfl⟩ := Option.map_eq_some_iff.1 he) | (split at he <;> (try (rename_i hq; simp only [↓Prod.ext_iff] at hq; obtain ⟨hf, _⟩ := hq; subst hf))))
  all_goals (try (with_reducible refine ag_onUnit he ?_))
  all_goals (try dsimp only)
  repeat' (first | with_reducible assumption | (simp only [↓ag_mk_iff]; refine ⟨ag_and ?_, ?_⟩) | (simp only [↓agM_mk_iff]; refine agM_and ?_) | (with_reducible refine ag_of (fun _ hk => is_modQp hk) ?_) | (with_reducible refine ag_of (fun _ hk => is_fetched hk) ?_) | (with_reducible refine ag_of (fun _ hk => is_settleCmd hk) ?_) | (with_reducible apply ag_startWaiting) | (with_reducible apply ag_atPair (by with_reducible assumption)) | (with_reducible refine ag_of (fun _ hk => is_ackUpTo hk) ?_) | (with_reducible refine ag_of (fun _ hk => is_laterNow hk) ?_) | (with_reducible apply ag_foldl; intro _ _ _) | (with_reducible apply ag_foldl_fst; intro _ _ _) | (with_reducible refine ag_of (fun _ hk => is_foldl_s hk) ?_; intro _ _ _) | (with_reducible refine ag_of (fun _ hk => is_foldl_fst_s hk) ?_; intro _ _ _) | (with_reducible apply ag_iter; intro _ _) | (with_reducible apply agM_foldl; intro _ _ _) | (with_reducible apply ag_meter) | (intro _; try dsimp only) | (split <;> (try (rename_i hq; simp only [↓Prod.ext_iff] at hq; obtain ⟨hf, _⟩ := hq; subst hf))) | (dsimp only [id]))

theorem is_execCmConnectRequest {kk : Kept} {lport remoteIp remoteQpn mtu retry rnr timeout : Nat} {s : State} {tR : State}
    (he : execCmConnectRequest lport remoteIp remoteQpn mtu retry rnr timeout s = .next tR) (hk : Is kk s) : Is kk tR := by
  unfold execCmConnectRequest at he
  (try dsimp only at he)
  repeat' (first | (with_reducible cases he; done) | (with_reducible injection he with he; subst he) | (with_reducible obtain ⟨_, _, rfl⟩ := Option.map_eq_some_iff.1 he))
  repeat' (first | with_reducible assumption | (with_reducible apply is_useFree) | (with_reducible apply is_setQp) | (with_reducible apply is_portSend) | (with_reducible apply is_retry) | (with_reducible apply is_meter) | split)

theorem ag_execPortModeTakedown {kk : Kept} {port : Nat} {s : State} {tR : State} (he : execPortModeTakedown port s = .next tR)
    (hk : Ag kk s) : Ag kk tR := by
  unfold execPortModeTakedown at he
  with_reducible refine ag_onUnit he ?_
  clear he
  try dsimp only
  repeat' (first | with_reducible assumption | (simp only [↓ag_mk_iff]; refine ⟨ag_and ?_, ?_⟩) | (with_reducible refine ag_of (fun _ hk => is_modLport hk) ?_) | (with_reducible refine ag_of (fun _ hk => is_qpError hk) ?_) | (with_reducible refine ag_of (fun _ hk => is_removeEntry hk) ?_) | (with_reducible apply ag_startWaiting) | (with_reducible apply ag_foldl; intro _ _ _) | (with_reducible apply ag_meter) | split)

theorem ag_execDieResetEnd {kk : Kept} {die : Nat} {s : State} {tR : State} (he : execDieResetEnd die s = .next tR) (hk
    : Ag kk s) : Ag kk tR := by
  unfold execDieResetEnd at he
  with_reducible refine ag_onUnit he ?_
  clear he
  try dsimp only
  repeat' (first | with_reducible assumption | (with_reducible refine ag_of (fun _ hk => is_modDie hk) ?_) | (with_reducible refine ag_of (fun _ hk => is_censusEnds hk) ?_) | (with_reducible refine ag_of (fun _ hk => is_finish hk) ?_) | (with_reducible refine ag_of (fun _ hk => is_rebuildDie hk) ?_) | (with_reducible apply ag_startWaiting) | (with_reducible apply ag_foldl; intro _ _ _) | (with_reducible apply ag_meter) | split)

theorem is_emptyBuffers {kk : Kept} {s : State} (hk : Is kk s) : Is kk (emptyBuffers s) := by
  unfold emptyBuffers
  try dsimp only
  repeat' (first | with_reducible assumption | (simp only [↓is_mk_iff]; refine ⟨is_and ?_, ?_⟩) | (simp only [↓isM_mk_iff]; refine isM_and ?_) | (with_reducible apply is_modQp) | (with_reducible apply is_foldl; intro _ _ _) | (with_reducible apply is_foldl_fst; intro _ _ _) | (with_reducible apply is_foldl_s; intro _ _ _) | (with_reducible apply is_foldl_fst_s; intro _ _ _) | (with_reducible apply is_iter; intro _ _) | (with_reducible apply isM_foldl; intro _ _ _) | (with_reducible apply is_meter) | (intro _; try dsimp only) | (split <;> (try (rename_i hq; simp only [↓Prod.ext_iff] at hq; obtain ⟨hf, _⟩ := hq; subst hf))) | (dsimp only [id]))

theorem ag_execOuvosRestartEnd {kk : Kept} {s : State} {tR : State} (he : execOuvosRestartEnd s = .next tR) (hk : Ag kk s) : Ag kk tR := by
  unfold execOuvosRestartEnd at he
  (try dsimp only at he)
  repeat' (first | (with_reducible cases he; done) | (with_reducible injection he with he; subst he) | (with_reducible obtain ⟨_, _, rfl⟩ := Option.map_eq_some_iff.1 he) | (split at he <;> (try (rename_i hq; simp only [↓Prod.ext_iff] at hq; obtain ⟨hf, _⟩ := hq; subst hf))))
  all_goals (try (with_reducible refine ag_onUnit he ?_))
  all_goals (try dsimp only)
  repeat' (first | with_reducible assumption | (simp only [↓ag_mk_iff]; refine ⟨ag_and ?_, ?_⟩) | (simp only [↓agM_mk_iff]; refine agM_and ?_) | (with_reducible refine ag_of (fun _ hk => is_modPart hk) ?_) | (with_reducible refine ag_of (fun _ hk => is_wipeCluster hk) ?_) | (with_reducible refine ag_of (fun _ hk => is_stopPart hk) ?_) | (with_reducible refine ag_of (fun _ hk => is_beginLoad hk) ?_) | (with_reducible refine ag_of (fun _ hk => is_finish hk) ?_) | (with_reducible apply ag_startWaiting) | (with_reducible refine ag_of (fun _ hk => is_abandon hk) ?_) | (with_reducible refine ag_of (fun _ hk => is_emptyBuffers hk) ?_) | (with_reducible apply ag_foldl; intro _ _ _) | (with_reducible apply ag_foldl_fst; intro _ _ _) | (with_reducible refine ag_of (fun _ hk => is_foldl_s hk) ?_; intro _ _ _) | (with_reducible refine ag_of (fun _ hk => is_foldl_fst_s hk) ?_; intro _ _ _) | (with_reducible apply ag_iter; intro _ _) | (with_reducible apply agM_foldl; intro _ _ _) | (with_reducible apply ag_meter) | (intro _; try dsimp only) | (split <;> (try (rename_i hq; simp only [↓Prod.ext_iff] at hq; obtain ⟨hf, _⟩ := hq; subst hf))) | (dsimp only [id]))

theorem is_execOxLaneRetraining {kk : Kept} {link lane : Nat} {recovered : Bool} {s : State} {tR : State}
    (he : execOxLaneRetraining link lane recovered s = .next tR) (hk : Is kk s) : Is kk tR := by
  unfold execOxLaneRetraining at he
  with_reducible refine is_onUnit he ?_
  clear he
  try dsimp only
  repeat' (first | with_reducible assumption | (with_reducible apply is_modScree) | (with_reducible apply is_addUncorrected) | (with_reducible apply is_failLane) | (with_reducible apply is_meter) | split)

theorem is_cm5Record {kk : Kept} {s : State} {part who seq : Nat} {r : Option (List Byte)} (hk : Is kk s)
    : Is kk (cm5Record s part who seq r) := by
  unfold cm5Record
  try dsimp only
  repeat' (first | with_reducible assumption | (with_reducible apply is_modPart))

theorem is_cm5Answer {kk : Kept} {s : State} {part lport who seq : Nat} {r : List Byte} (hk : Is kk s)
    : Is kk (cm5Answer s part lport who seq r) := by
  unfold cm5Answer
  try dsimp only
  repeat' (first | with_reducible assumption | (with_reducible apply is_portSend) | (with_reducible apply is_cm5Record))

theorem is_cm5Do {kk : Kept} {op lport : Nat} {l : List Byte} {act : State → Nat → Part → Nat → State} {s : State} {k : Nat}
    {pt : Part} {who seq : Nat} (hk : Is kk s)
    (hact : ∀ (z0 : State) (z1 : Nat) (z2 : Part) (z3 : Nat), Is kk z0 → Is kk (act z0 z1 z2 z3))
    : Is kk (cm5Do op lport l act s k pt who seq) := by
  unfold cm5Do
  try dsimp only
  repeat' (first | with_reducible assumption | (with_reducible apply hact) | (with_reducible apply is_cm5Answer) | (with_reducible apply is_meter) | split)

theorem ag_cm5Do {kk : Kept} {op lport : Nat} {l : List Byte} {act : State → Nat → Part → Nat → State} {s : State} {k : Nat}
    {pt : Part} {who seq : Nat} (hk : Ag kk s)
    (hact : ∀ (z0 : State) (z1 : Nat) (z2 : Part) (z3 : Nat), Ag kk z0 → Ag kk (act z0 z1 z2 z3))
    : Ag kk (cm5Do op lport l act s k pt who seq) := by
  unfold cm5Do
  try dsimp only
  repeat' (first | with_reducible assumption | (with_reducible apply hact) | (with_reducible refine ag_of (fun _ hk => is_cm5Answer hk) ?_) | (with_reducible apply ag_meter) | split)

theorem ag_cm5At {kk : Kept} {op : Nat} {f : Frame} {udpSrc udpDst : Nat} {l : List Byte} {s : State}
    {act : State → Nat → Part → Nat → State} {tR : State} (he : cm5At op f udpSrc udpDst l s act = .next tR) (hk : Ag kk s)
    (hact : ∀ (z0 : State) (z1 : Nat) (z2 : Part) (z3 : Nat), Ag kk z0 → Ag kk (act z0 z1 z2 z3)) : Ag kk tR := by
  unfold cm5At at he
  (try dsimp only at he)
  repeat' (first | (with_reducible cases he; done) | (with_reducible obtain ⟨_, _, rfl⟩ := Option.map_eq_some_iff.1 he) | split at he)
  repeat' (first | with_reducible assumption | (with_reducible apply hact) | (with_reducible refine ag_of (fun _ hk => is_setPart hk) ?_) | (with_reducible refine ag_of (fun _ hk => is_portSend hk) ?_) | (with_reducible refine ag_of (fun _ hk => is_acceptFrame hk) ?_) | (with_reducible apply ag_onFrame (by with_reducible assumption)) | (with_reducible apply ag_startWaiting) | (with_reducible apply ag_cm5Do) | (with_reducible apply ag_meter) | (intro _; try dsimp only))

theorem is_cm5Put {kk : Kept} {s : State} {part die o : Nat} {l : List Byte} (hk : Is kk s) : Is kk (cm5Put s part die o l) := by
  unfold cm5Put
  try dsimp only
  repeat' (first | with_reducible assumption | (with_reducible apply is_putMem))

theorem is_cm5Get {kk : Kept} {s : State} {part die o n : Nat} (hk : Is kk s) : Is kk (cm5Get s part die o n).1 := by
  unfold cm5Get
  try dsimp only
  repeat' (first | with_reducible assumption | (with_reducible apply is_getMem) | (with_reducible apply is_meter) | split)

theorem ag_execCm5Load {kk : Kept} {f : Frame} {udpSrc udpDst : Nat} {payload : List Byte} {s : State} {tR : State}
    (he : execCm5Load f udpSrc udpDst payload s = .next tR) (hk : Ag kk s) : Ag kk tR := by
  unfold execCm5Load at he
  (try dsimp only at he)
  repeat' (first | with_reducible assumption | (with_reducible refine ag_of (fun _ hk => is_cm5Answer hk) ?_) | (with_reducible apply ag_cm5At (by with_reducible assumption)) | (with_reducible refine ag_of (fun _ hk => is_cm5Put hk) ?_) | (with_reducible apply ag_meter) | (intro _; try dsimp only))

theorem is_cm5Launch {kk : Kept} {s : State} {k who seq len o : Nat} {args : List Byte} {lport : Nat} (hk : Is kk s) : Is kk (cm5Launch s k who seq len o args lport) := by
  unfold cm5Launch
  try dsimp only
  repeat' (first | with_reducible assumption | (simp only [↓is_mk_iff]; refine ⟨is_and ?_, ?_⟩) | (simp only [↓isM_mk_iff]; refine isM_and ?_) | (with_reducible apply is_putMem) | (with_reducible apply is_bad) | (with_reducible apply is_launch) | (with_reducible apply is_cm5Answer) | (with_reducible apply is_foldl; intro _ _ _) | (with_reducible apply is_foldl_fst; intro _ _ _) | (with_reducible apply is_foldl_s; intro _ _ _) | (with_reducible apply is_foldl_fst_s; intro _ _ _) | (with_reducible apply is_iter; intro _ _) | (with_reducible apply isM_foldl; intro _ _ _) | (with_reducible apply is_meter) | (intro _; try dsimp only) | (split <;> (try (rename_i hq; simp only [↓Prod.ext_iff] at hq; obtain ⟨hf, _⟩ := hq; subst hf))) | (dsimp only [id]))

theorem ag_execCm5Run {kk : Kept} {f : Frame} {udpSrc udpDst : Nat} {payload : List Byte} {s : State} {tR : State}
    (he : execCm5Run f udpSrc udpDst payload s = .next tR) (hk : Ag kk s) : Ag kk tR := by
  unfold execCm5Run at he
  (try dsimp only at he)
  repeat' (first | with_reducible assumption | (with_reducible refine ag_of (fun _ hk => is_modPart hk) ?_) | (with_reducible refine ag_of (fun _ hk => is_cm5Record hk) ?_) | (with_reducible apply ag_cm5At (by with_reducible assumption)) | (with_reducible refine ag_of (fun _ hk => is_cm5Launch hk) ?_) | (with_reducible apply ag_meter) | (intro _; try dsimp only) | split)

theorem is_cm5Waiting {kk : Kept} {s : State} (hk : Is kk s) : Is kk (cm5Waiting s) := by
  unfold cm5Waiting
  try dsimp only
  repeat' (first | with_reducible assumption | (with_reducible apply is_modPart) | (with_reducible apply is_cm5Launch) | (with_reducible apply is_foldl; intro _ _ _) | (with_reducible apply is_meter) | split)

theorem ag_execCm5Read {kk : Kept} {f : Frame} {udpSrc udpDst : Nat} {payload : List Byte} {s : State} {tR : State}
    (he : execCm5Read f udpSrc udpDst payload s = .next tR) (hk : Ag kk s) : Ag kk tR := by
  unfold execCm5Read at he
  (try dsimp only at he)
  repeat' (first | with_reducible assumption | (with_reducible refine ag_of (fun _ hk => is_cm5Answer hk) ?_) | (with_reducible apply ag_cm5At (by with_reducible assumption)) | (with_reducible refine ag_of (fun _ hk => is_cm5Get hk) ?_) | (with_reducible apply ag_meter) | (intro _; try dsimp only))

theorem ag_afterAction {kk : Kept} {s : State} (hk : Ag kk s) : Ag kk (afterAction s) := by
  unfold afterAction
  try dsimp only
  repeat' (first | with_reducible assumption | (with_reducible apply ag_startWaiting) | (with_reducible refine ag_of (fun _ hk => is_cm5Waiting hk) ?_) | (with_reducible apply ag_meter) | split)

theorem ag_execFaultEventTaken {kk : Kept} {die : Nat} {s : State} {tR : State} (he : execFaultEventTaken die s = .next tR) (hk
    : Ag kk s) : Ag kk tR := by
  unfold execFaultEventTaken at he
  with_reducible refine ag_onUnit he ?_
  clear he
  try dsimp only
  repeat' (first | with_reducible assumption | (with_reducible refine ag_of (fun _ hk => is_faultEventTaken hk) ?_) | (with_reducible apply ag_afterAction))

theorem ag_execRemapSettled {kk : Kept} {part : Nat} {s : State} {tR : State} (he : execRemapSettled part s = .next tR) (hk
    : Ag kk s) : Ag kk tR := by
  unfold execRemapSettled at he
  with_reducible refine ag_onUnit he ?_
  clear he
  try dsimp only
  repeat' (first | with_reducible assumption | (with_reducible refine ag_of (fun _ hk => is_remapSettled hk) ?_) | (with_reducible apply ag_afterAction))

theorem ag_execSettleTimeout {kk : Kept} {part : Nat} {s : State} {tR : State} (he : execSettleTimeout part s = .next tR) (hk
    : Ag kk s) : Ag kk tR := by
  unfold execSettleTimeout at he
  with_reducible refine ag_onUnit he ?_
  clear he
  try dsimp only
  repeat' (first | with_reducible assumption | (with_reducible refine ag_of (fun _ hk => is_settleTimeout hk) ?_) | (with_reducible apply ag_afterAction))

theorem ag_execIsolateSuspectReplay {kk : Kept} {part : Nat} {s : State} {tR : State}
    (he : execIsolateSuspectReplay part s = .next tR) (hk : Ag kk s) : Ag kk tR := by
  unfold execIsolateSuspectReplay at he
  with_reducible refine ag_onUnit he ?_
  clear he
  try dsimp only
  repeat' (first | with_reducible assumption | (with_reducible refine ag_of (fun _ hk => is_isolateSuspectReplay hk) ?_) | (with_reducible apply ag_afterAction))

theorem ag_execIsolateReplayTimeout {kk : Kept} {part : Nat} {s : State} {tR : State}
    (he : execIsolateReplayTimeout part s = .next tR) (hk : Ag kk s) : Ag kk tR := by
  unfold execIsolateReplayTimeout at he
  with_reducible refine ag_onUnit he ?_
  clear he
  try dsimp only
  repeat' (first | with_reducible assumption | (with_reducible refine ag_of (fun _ hk => is_isolateReplayTimeout hk) ?_) | (with_reducible apply ag_afterAction))

theorem ag_execFlockRollCall {kk : Kept} {part : Nat} {lacking : List (Nat × Nat)} {s tR : State}
    (he : execFlockRollCall part lacking s = .next tR) (hk : Ag kk s) : Ag kk tR := by
  unfold execFlockRollCall at he
  refine ag_onUnit he ?_
  split
  · exact hk
  · dsimp only
    refine ag_afterAction (ag_ite ?_ ?_)
    · exact ag_of (fun _ h => is_moveRollCall h (is_rollCall h)) hk
    · exact ag_of (fun _ h => is_loadRollCall (is_rollCall h)) hk

theorem is_execJtagIdcode {kk : Kept} {s : State} {tR : State} (he : execJtagIdcode s = .next tR) (hk : Is kk s) : Is kk tR := by
  unfold execJtagIdcode at he
  repeat' (first | (with_reducible cases he; done) | (with_reducible injection he with he; subst he) | (with_reducible obtain ⟨_, _, rfl⟩ := Option.map_eq_some_iff.1 he))
  repeat' (first | with_reducible assumption | (simp only [↓is_mk_iff]; refine ⟨is_and ?_, ?_⟩) | (with_reducible apply is_meter) | split)

theorem is_execJtagBypass {kk : Kept} {bits : List Bool} {s : State} {tR : State} (he : execJtagBypass bits s = .next tR) (hk
    : Is kk s) : Is kk tR := by
  unfold execJtagBypass at he
  repeat' (first | (with_reducible cases he; done) | (with_reducible injection he with he; subst he) | (with_reducible obtain ⟨_, _, rfl⟩ := Option.map_eq_some_iff.1 he))
  repeat' (first | with_reducible assumption | (simp only [↓is_mk_iff]; refine ⟨is_and ?_, ?_⟩) | (with_reducible apply is_meter) | split)

theorem is_execRegisterWrite {kk : Kept} {port : Nat} {offset : Nat} {value : W64} {s : State} {tR : State}
    (he : execRegisterWrite port offset value s = .next tR) (hk : Is kk s) : Is kk tR := by
  unfold execRegisterWrite at he
  (try dsimp only at he)
  repeat' (first | (with_reducible cases he; done) | (with_reducible injection he with he; subst he) | (with_reducible obtain ⟨_, _, rfl⟩ := Option.map_eq_some_iff.1 he) | split at he)
  all_goals (try (with_reducible refine is_onUnit he ?_))
  repeat' (first | with_reducible assumption | (simp only [↓is_mk_iff]; refine ⟨is_and ?_, ?_⟩) | (simp only [↓isM_mk_iff]; refine isM_and ?_) | (with_reducible apply is_modCore) | (with_reducible apply is_modSwitch) | (with_reducible apply is_modRouter) | (with_reducible apply is_meter))

end Sys2Proof.Machine
end

