-- ==== Sys2Proof/Laws/KeptBoot.lean ====
section
/-! SUPPORT. One lemma per operation of Machine/Boot.lean: it keeps what `Kept` lists, or only ages it. -/

namespace Sys2Proof.Machine

theorem is_stageReport {kk : Kept} {s : State} {stage status failed count detail : Nat} (hk : Is kk s)
    : Is kk (stageReport s stage status failed count detail) := by
  unfold stageReport
  try dsimp only
  repeat' (first | with_reducible assumption | (simp only [↓is_mk_iff]; refine ⟨is_and ?_, ?_⟩) | (with_reducible apply is_meter))

theorem is_endStage {kk : Kept} {s : State} {stage status failed count detail : Nat} {next : BootPhase} (hk : Is kk s)
    : Is kk (endStage s stage status failed count detail next) := by
  unfold endStage
  try dsimp only
  repeat' (first | with_reducible assumption | (simp only [↓is_mk_iff]; refine ⟨is_and ?_, ?_⟩) | (with_reducible apply is_stageReport) | (with_reducible apply is_meter))

theorem is_deviceReset {kk : Kept} {s : State} (hk : Is kk s) : Is kk (deviceReset s) := by
  unfold deviceReset
  try dsimp only
  repeat' (first | with_reducible assumption | (simp only [↓is_mk_iff]; refine ⟨is_and ?_, ?_⟩) | (with_reducible apply is_meter))

theorem is_countAllResets {kk : Kept} {s : State} (hk : Is kk s) : Is kk (countAllResets s) := by
  unfold countAllResets
  try dsimp only
  repeat' (first | with_reducible assumption | (simp only [↓is_mk_iff]; refine ⟨is_and ?_, ?_⟩) | (with_reducible apply is_meter))

theorem is_resetCensus {kk : Kept} {s : State} (hk : Is kk s) : Is kk (resetCensus s) := by
  unfold resetCensus
  try dsimp only
  repeat' (first | with_reducible assumption | (with_reducible apply is_censusEnds))

theorem is_chargeDevice {kk : Kept} {s : State} (hk : Is kk s) : Is kk (chargeDevice s) := by
  unfold chargeDevice
  try dsimp only
  repeat' (first | with_reducible assumption | (simp only [↓is_mk_iff]; refine ⟨is_and ?_, ?_⟩) | (with_reducible apply is_chargeReset) | (with_reducible apply is_countAllResets) | (with_reducible apply is_resetCensus) | (with_reducible apply is_meter) | split)

theorem is_startBoot {kk : Kept} {s : State} (hk : Is kk s) : Is kk (startBoot s) := by
  unfold startBoot
  try dsimp only
  repeat' (first | with_reducible assumption | (simp only [↓is_mk_iff]; refine ⟨is_and ?_, ?_⟩) | (with_reducible apply is_meter))

theorem is_resetWithDump {kk : Kept} {s : State} {cause : Nat} (hk : Is kk s) : Is kk (resetWithDump s cause) := by
  unfold resetWithDump
  try dsimp only
  repeat' (first | with_reducible assumption | (with_reducible apply is_capture) | (with_reducible apply is_deviceReset) | (with_reducible apply is_chargeDevice) | (with_reducible apply is_startBoot))

theorem is_resetByBoard {kk : Kept} {s : State} (hk : Is kk s) : Is kk (resetByBoard s) := by
  unfold resetByBoard
  try dsimp only
  repeat' (first | with_reducible assumption | (with_reducible apply is_deviceReset) | (with_reducible apply is_chargeDevice) | (with_reducible apply is_startBoot))

theorem is_losePower {kk : Kept} {s : State} (hk : Is kk s) : Is kk (losePower s) := by
  unfold losePower
  try dsimp only
  repeat' (first | with_reducible assumption | (simp only [↓is_mk_iff]; refine ⟨is_and ?_, ?_⟩) | (with_reducible apply is_deviceReset) | (with_reducible apply is_meter))

theorem is_execPowerOn {kk : Kept} {s : State} {tR : State} (he : execPowerOn s = .next tR) (hk : Is kk s) : Is kk tR := by
  unfold execPowerOn at he
  repeat' (first | (with_reducible cases he; done) | (with_reducible injection he with he; subst he) | (with_reducible obtain ⟨_, _, rfl⟩ := Option.map_eq_some_iff.1 he))
  repeat' (first | with_reducible assumption | (simp only [↓is_mk_iff]; refine ⟨is_and ?_, ?_⟩) | (with_reducible apply is_startBoot) | (with_reducible apply is_meter) | split)

theorem is_execPowerLoss {kk : Kept} {s : State} {tR : State} (he : execPowerLoss s = .next tR) (hk : Is kk s) : Is kk tR := by
  unfold execPowerLoss at he
  repeat' (first | (with_reducible cases he; done) | (with_reducible injection he with he; subst he) | (with_reducible obtain ⟨_, _, rfl⟩ := Option.map_eq_some_iff.1 he))
  repeat' (first | with_reducible assumption | (with_reducible apply is_losePower))

theorem is_execRefclkStop {kk : Kept} {s : State} {tR : State} (he : execRefclkStop s = .next tR) (hk : Is kk s) : Is kk tR := by
  unfold execRefclkStop at he
  repeat' (first | (with_reducible cases he; done) | (with_reducible injection he with he; subst he) | (with_reducible obtain ⟨_, _, rfl⟩ := Option.map_eq_some_iff.1 he))
  repeat' (first | with_reducible assumption | (with_reducible apply is_losePower) | (with_reducible apply is_meter) | split)

theorem is_execResetInputAssert {kk : Kept} {s : State} {tR : State} (he : execResetInputAssert s = .next tR) (hk : Is kk s)
    : Is kk tR := by
  unfold execResetInputAssert at he
  repeat' (first | (with_reducible cases he; done) | (with_reducible injection he with he; subst he) | (with_reducible obtain ⟨_, _, rfl⟩ := Option.map_eq_some_iff.1 he))
  repeat' (first | with_reducible assumption | (simp only [↓is_mk_iff]; refine ⟨is_and ?_, ?_⟩) | (with_reducible apply is_resetByBoard) | (with_reducible apply is_meter) | split)

theorem is_execResetInputRelease {kk : Kept} {s : State} {tR : State} (he : execResetInputRelease s = .next tR) (hk : Is kk s)
    : Is kk tR := by
  unfold execResetInputRelease at he
  (try dsimp only at he)
  repeat' (first | (with_reducible cases he; done) | (with_reducible injection he with he; subst he) | (with_reducible obtain ⟨_, _, rfl⟩ := Option.map_eq_some_iff.1 he))
  repeat' (first | with_reducible assumption | (simp only [↓is_mk_iff]; refine ⟨is_and ?_, ?_⟩) | (with_reducible apply is_startBoot) | (with_reducible apply is_meter) | split)

theorem is_execManagementWatchdogExpiry {kk : Kept} {s : State} {tR : State} (he : execManagementWatchdogExpiry s = .next tR)
    (hk : Is kk s) : Is kk tR := by
  unfold execManagementWatchdogExpiry at he
  (try dsimp only at he)
  repeat' (first | (with_reducible cases he; done) | (with_reducible injection he with he; subst he) | (with_reducible obtain ⟨_, _, rfl⟩ := Option.map_eq_some_iff.1 he))
  repeat' (first | with_reducible assumption | (simp only [↓is_mk_iff]; refine ⟨is_and ?_, ?_⟩) | (with_reducible apply is_chargeReset) | (with_reducible apply is_resetWithDump) | (with_reducible apply is_meter) | split)

theorem is_execDeviceResetBegin {kk : Kept} {s : State} {tR : State} (he : execDeviceResetBegin s = .next tR) (hk : Is kk s)
    : Is kk tR := by
  unfold execDeviceResetBegin at he
  repeat' (first | (with_reducible cases he; done) | (with_reducible injection he with he; subst he) | (with_reducible obtain ⟨_, _, rfl⟩ := Option.map_eq_some_iff.1 he))
  repeat' (first | with_reducible assumption | (simp only [↓is_mk_iff]; refine ⟨is_and ?_, ?_⟩) | (with_reducible apply is_resetWithDump) | (with_reducible apply is_meter) | split)

theorem is_execThermalSensorRead {kk : Kept} {sensor temp : Nat} {s : State} {tR : State}
    (he : execThermalSensorRead sensor temp s = .next tR) (hk : Is kk s) : Is kk tR := by
  unfold execThermalSensorRead at he
  (try dsimp only at he)
  repeat' (first | (with_reducible cases he; done) | (with_reducible injection he with he; subst he) | (with_reducible obtain ⟨_, _, rfl⟩ := Option.map_eq_some_iff.1 he))
  repeat' (first | with_reducible assumption | (simp only [↓is_mk_iff]; refine ⟨is_and ?_, ?_⟩) | (with_reducible apply is_readSensor) | (with_reducible apply is_startBoot) | (with_reducible apply is_resetByBoard) | (with_reducible apply is_meter) | split)

theorem is_inStage {kk : Kept} {n : Nat} {s : State} {f : State → State} {tR : State} (he : inStage n s f = .next tR) (hk
    : Is kk s) (hf : ∀ (z0 : State), Is kk z0 → Is kk (f z0)) : Is kk tR := by
  unfold inStage at he
  repeat' (first | (with_reducible cases he; done) | (with_reducible injection he with he; subst he) | (with_reducible obtain ⟨_, _, rfl⟩ := Option.map_eq_some_iff.1 he))
  repeat' (first | with_reducible assumption | (with_reducible apply hf) | (with_reducible apply is_meter) | split)

theorem ag_inStage {kk : Kept} {n : Nat} {s : State} {f : State → State} {tR : State} (he : inStage n s f = .next tR) (hk
    : Ag kk s) (hf : ∀ (z0 : State), Ag kk z0 → Ag kk (f z0)) : Ag kk tR := by
  unfold inStage at he
  repeat' (first | (with_reducible cases he; done) | (with_reducible injection he with he; subst he) | (with_reducible obtain ⟨_, _, rfl⟩ := Option.map_eq_some_iff.1 he))
  repeat' (first | with_reducible assumption | (with_reducible apply hf) | (with_reducible apply ag_meter) | split)

theorem is_stage0 {kk : Kept} {straps : Nat} {bad : Bool} {s0 : State} (hk : Is kk s0) : Is kk (stage0 straps bad s0) := by
  unfold stage0
  try dsimp only
  repeat' (first | with_reducible assumption | (simp only [↓is_mk_iff]; refine ⟨is_and ?_, ?_⟩) | (with_reducible apply is_modScree) | (with_reducible apply is_bad) | (with_reducible apply is_endStage) | (with_reducible apply is_meter))

theorem is_execBootStage0 {kk : Kept} {straps : Nat} {s : State} {tR : State} (he : execBootStage0 straps s = .next tR) (hk
    : Is kk s) : Is kk tR := by
  unfold execBootStage0 at he
  repeat' (first | with_reducible assumption | (with_reducible apply is_inStage (by with_reducible assumption)) | (with_reducible apply is_stage0))

theorem ag_finishTransition {kk : Kept} {s : State} (hk : Ag kk s) : Ag kk (finishTransition s).1 := by
  unfold finishTransition
  try dsimp only
  repeat' (first | with_reducible assumption | (simp only [↓ag_mk_iff]; refine ⟨ag_and ?_, ?_⟩) | (with_reducible apply ag_transit) | (with_reducible apply ag_meter) | split)

theorem is_applySpares {kk : Kept} {s : State} {e : Spoil} (hk : Is kk s) : Is kk (applySpares s e) := by
  unfold applySpares
  try dsimp only
  repeat' (first | with_reducible assumption | (simp only [↓is_mk_iff]; refine ⟨is_and ?_, ?_⟩) | (with_reducible apply is_meter) | split)

theorem is_applyMap {kk : Kept} {s : State} (hk : Is kk s) : Is kk (applyMap s) := by
  unfold applyMap
  try dsimp only
  repeat' (first | with_reducible assumption | (simp only [↓is_mk_iff]; refine ⟨is_and ?_, ?_⟩) | (with_reducible apply is_rebuildDie) | (with_reducible apply is_applySpares) | (with_reducible apply is_foldl; intro _ _ _) | (with_reducible apply is_meter))

theorem ag_stage1 {kk : Kept} {fuseError : Bool} {s : State} (hk : Ag kk s) : Ag kk (stage1 fuseError s) := by
  unfold stage1
  try dsimp only
  repeat' (first | with_reducible assumption | (simp only [↓ag_mk_iff]; refine ⟨ag_and ?_, ?_⟩) | (simp only [↓agM_mk_iff]; refine agM_and ?_) | (with_reducible refine ag_of (fun _ hk => is_endStage hk) ?_) | (with_reducible apply ag_finishTransition) | (with_reducible refine ag_of (fun _ hk => is_applyMap hk) ?_) | (with_reducible apply ag_foldl; intro _ _ _) | (with_reducible apply ag_foldl_fst; intro _ _ _) | (with_reducible refine ag_of (fun _ hk => is_foldl_s hk) ?_; intro _ _ _) | (with_reducible refine ag_of (fun _ hk => is_foldl_fst_s hk) ?_; intro _ _ _) | (with_reducible apply ag_iter; intro _ _) | (with_reducible apply agM_foldl; intro _ _ _) | (with_reducible apply ag_meter) | (intro _; try dsimp only) | (split <;> (try (rename_i hq; simp only [↓Prod.ext_iff] at hq; obtain ⟨hf, _⟩ := hq; subst hf))) | (dsimp only [id]))

theorem ag_execBootStage1 {kk : Kept} {fuseError : Bool} {s : State} {tR : State} (he : execBootStage1 fuseError s = .next tR)
    (hk : Ag kk s) : Ag kk tR := by
  unfold execBootStage1 at he
  repeat' (first | with_reducible assumption | (with_reducible apply ag_inStage (by with_reducible assumption)) | (with_reducible apply ag_stage1))

theorem is_stage2 {kk : Kept} {s : State} (hk : Is kk s) : Is kk (stage2 s) := by
  unfold stage2
  have h1 : Is kk { s with flash := (chooseSlot s.flash).1 } := by
    refine is_mk_iff.2 ⟨?_, hk.meter⟩
    unfold chooseSlot
    repeat' split
    all_goals exact is_and hk
  generalize chooseSlot s.flash = c at h1 ⊢
  dsimp only
  refine is_ite (is_endStage ?_) (is_ite (is_endStage ?_) (is_endStage ?_)) <;> exact is_mk_iff.2 ⟨is_and h1, h1.meter⟩

theorem is_execBootStage2 {kk : Kept} {s : State} {tR : State} (he : execBootStage2 s = .next tR) (hk : Is kk s) : Is kk tR := by
  unfold execBootStage2 at he
  repeat' (first | with_reducible assumption | (with_reducible apply is_inStage (by with_reducible assumption)) | (with_reducible apply is_stage2))

theorem is_stage3 {kk : Kept} {answered bad : Bool} {s : State} (hk : Is kk s) : Is kk (stage3 answered bad s) := by
  unfold stage3
  try dsimp only
  repeat' (first | with_reducible assumption | (simp only [↓is_mk_iff]; refine ⟨is_and ?_, ?_⟩) | (simp only [↓isM_mk_iff]; refine isM_and ?_) | (with_reducible apply is_bad) | (with_reducible apply is_endStage) | (with_reducible apply is_foldl; intro _ _ _) | (with_reducible apply is_foldl_fst; intro _ _ _) | (with_reducible apply is_foldl_s; intro _ _ _) | (with_reducible apply is_foldl_fst_s; intro _ _ _) | (with_reducible apply is_iter; intro _ _) | (with_reducible apply isM_foldl; intro _ _ _) | (with_reducible apply is_meter) | (intro _; try dsimp only) | (split <;> (try (rename_i hq; simp only [↓Prod.ext_iff] at hq; obtain ⟨hf, _⟩ := hq; subst hf))) | (dsimp only [id]))

theorem is_execBootStage3 {kk : Kept} {answered : Bool} {s : State} {tR : State} (he : execBootStage3 answered s = .next tR) (hk
    : Is kk s) : Is kk tR := by
  unfold execBootStage3 at he
  repeat' (first | with_reducible assumption | (with_reducible apply is_inStage (by with_reducible assumption)) | (with_reducible apply is_stage3))

theorem is_stage4 {kk : Kept} {badLanes : List (Nat × Nat)} {bad : Bool} {s : State} (hk : Is kk s)
    : Is kk (stage4 badLanes bad s) := by
  unfold stage4
  try dsimp only
  repeat' (first | with_reducible assumption | (with_reducible apply is_linkCheck) | (with_reducible apply is_failLane) | (with_reducible apply is_bad) | (with_reducible apply is_endStage) | (with_reducible apply is_foldl; intro _ _ _) | (with_reducible apply is_meter) | split)

theorem is_execBootStage4 {kk : Kept} {badLanes : List (Nat × Nat)} {s : State} {tR : State}
    (he : execBootStage4 badLanes s = .next tR) (hk : Is kk s) : Is kk tR := by
  unfold execBootStage4 at he
  repeat' (first | with_reducible assumption | (with_reducible apply is_inStage (by with_reducible assumption)) | (with_reducible apply is_stage4))

theorem is_stage5 {kk : Kept} {failedStacks failedChannels : Nat} {dimms : List Dimm} {bad : Bool} {s : State} (hk : Is kk s)
    : Is kk (stage5 failedStacks failedChannels dimms bad s) := by
  unfold stage5
  try dsimp only
  repeat' (first | with_reducible assumption | (simp only [↓is_mk_iff]; refine ⟨is_and ?_, ?_⟩) | (with_reducible apply is_dieOut) | (with_reducible apply is_bad) | (with_reducible apply is_endStage) | (with_reducible apply is_foldl; intro _ _ _) | (with_reducible apply is_meter))

theorem is_execBootStage5 {kk : Kept} {failedStacks failedChannels : Nat} {dimms : List (Nat × Nat × Nat × Nat × Nat)}
    {s : State} {tR : State} (he : execBootStage5 failedStacks failedChannels dimms s = .next tR) (hk : Is kk s)
    : Is kk tR := by
  unfold execBootStage5 at he
  repeat' (first | with_reducible assumption | (with_reducible apply is_inStage (by with_reducible assumption)) | (with_reducible apply is_stage5))

theorem is_runPlan {kk : Kept} {s : State} {failed : List (Nat × Nat × Nat × Nat)} (hk : Is kk s) : Is kk (runPlan s failed) := by
  unfold runPlan
  try dsimp only
  repeat' (first | with_reducible assumption | (with_reducible apply is_planStep) | (with_reducible apply is_foldl_fst; intro _ _ _))

theorem is_quickCheck {kk : Kept} {s : State} {failed : List (Nat × Nat × Nat × Nat)} (hk : Is kk s)
    : Is kk (quickCheck s failed) := by
  unfold quickCheck
  try dsimp only
  repeat' (first | with_reducible assumption | (with_reducible apply is_modScree) | (with_reducible apply is_permanentCore) | (with_reducible apply is_foldl; intro _ _ _) | (with_reducible apply is_meter) | split)

theorem is_powerAll {kk : Kept} {s : State} {mode : Nat} (hk : Is kk s) : Is kk (powerAll s mode) := by
  unfold powerAll
  try dsimp only
  repeat' (first | with_reducible assumption | (with_reducible apply is_modPow) | (with_reducible apply is_foldl; intro _ _ _))

theorem is_stage6 {kk : Kept} {failed : List (Nat × Nat × Nat × Nat)} {bad : Bool} {s : State} (hk : Is kk s)
    : Is kk (stage6 failed bad s) := by
  unfold stage6
  try dsimp only
  repeat' (first | with_reducible assumption | (simp only [↓is_mk_iff]; refine ⟨is_and ?_, ?_⟩) | (with_reducible apply is_wipeCluster) | (with_reducible apply is_broadcast) | (with_reducible apply is_newPlan) | (with_reducible apply is_clearDies) | (with_reducible apply is_bad) | (with_reducible apply is_endStage) | (with_reducible apply is_runPlan) | (with_reducible apply is_quickCheck) | (with_reducible apply is_powerAll) | (with_reducible apply is_foldl; intro _ _ _) | (with_reducible apply is_meter) | split)

theorem is_execBootStage6 {kk : Kept} {failed : List (Nat × Nat × Nat × Nat)} {s : State} {tR : State}
    (he : execBootStage6 failed s = .next tR) (hk : Is kk s) : Is kk tR := by
  unfold execBootStage6 at he
  repeat' (first | with_reducible assumption | (with_reducible apply is_inStage (by with_reducible assumption)) | (with_reducible apply is_stage6))

theorem is_lackingCore {kk : Kept} {s : State} {p n : Nat} (hk : Is kk s) : Is kk (lackingCore s p n) := by
  unfold lackingCore
  try dsimp only
  repeat' (first | with_reducible assumption | (with_reducible apply is_chargeUnit) | (with_reducible apply is_permanentVerdict) | (with_reducible apply is_fenceCore) | (with_reducible apply is_tableRemap) | (with_reducible apply is_afterRemap) | (with_reducible apply is_failCluster) | (with_reducible apply is_flockEvent) | (with_reducible apply is_meter) | split)

theorem is_stage7 {kk : Kept} {missing : List (Nat × Nat)} {bad : Bool} {s : State} (hk : Is kk s) : Is kk (stage7 missing bad s) := by
  unfold stage7
  try dsimp only
  repeat' (first | with_reducible assumption | (simp only [↓is_mk_iff]; refine ⟨is_and ?_, ?_⟩) | (simp only [↓isM_mk_iff]; refine isM_and ?_) | (with_reducible apply is_modCore) | (with_reducible apply is_useFree) | (with_reducible apply is_bad) | (with_reducible apply is_endStage) | (with_reducible apply is_powerAll) | (with_reducible apply is_lackingCore) | (with_reducible apply is_foldl; intro _ _ _) | (with_reducible apply is_foldl_fst; intro _ _ _) | (with_reducible apply is_foldl_s; intro _ _ _) | (with_reducible apply is_foldl_fst_s; intro _ _ _) | (with_reducible apply is_iter; intro _ _) | (with_reducible apply isM_foldl; intro _ _ _) | (with_reducible apply is_meter) | (intro _; try dsimp only) | (split <;> (try (rename_i hq; simp only [↓Prod.ext_iff] at hq; obtain ⟨hf, _⟩ := hq; subst hf))) | (dsimp only [id]))

theorem is_execBootStage7 {kk : Kept} {missing : List (Nat × Nat)} {s : State} {tR : State}
    (he : execBootStage7 missing s = .next tR) (hk : Is kk s) : Is kk tR := by
  unfold execBootStage7 at he
  repeat' (first | with_reducible assumption | (with_reducible apply is_inStage (by with_reducible assumption)) | (with_reducible apply is_stage7))

theorem is_stage8 {kk : Kept} {up : Nat} {bad : Bool} {s : State} (hk : Is kk s) : Is kk (stage8 up bad s) := by
  unfold stage8
  try dsimp only
  repeat' (first | with_reducible assumption | (simp only [↓is_mk_iff]; refine ⟨is_and ?_, ?_⟩) | (with_reducible apply is_useFree) | (with_reducible apply is_modLport) | (with_reducible apply is_bad) | (with_reducible apply is_endStage) | (with_reducible apply is_foldl; intro _ _ _) | (with_reducible apply is_meter))

theorem is_execBootStage8 {kk : Kept} {up : Nat} {s : State} {tR : State} (he : execBootStage8 up s = .next tR) (hk : Is kk s)
    : Is kk tR := by
  unfold execBootStage8 at he
  repeat' (first | with_reducible assumption | (with_reducible apply is_inStage (by with_reducible assumption)) | (with_reducible apply is_stage8))

theorem ag_stage9 {kk : Kept} {bad : Bool} {s : State} (hk : Ag kk s) : Ag kk (stage9 bad s) := by
  have h0 : Ag kk { s with flash := commitTrial s, service := if deviceResets s ≥ 4 then 1 else s.service, ouvosUp := true } := by
    unfold commitTrial
    refine ag_mk_iff.2 ⟨?_, hk.meter⟩
    dsimp only
    split <;> exact ⟨hk.product, hk.pending, hk.fwKey, hk.serial, hk.lc, Nat.le_trans hk.rbOuvos (Nat.le_max_left ..),
      Nat.le_trans hk.rbUcode (Nat.le_max_left ..)⟩
  unfold stage9
  refine ag_mk_iff.2 ⟨ag_and ?_, ag_meter ?_⟩ <;> exact ag_of (fun _ h => is_endStage h) h0

theorem ag_execBootStage9 {kk : Kept} {s : State} {tR : State} (he : execBootStage9 s = .next tR) (hk : Ag kk s) : Ag kk tR := by
  unfold execBootStage9 at he
  repeat' (first | with_reducible assumption | (with_reducible apply ag_inStage (by with_reducible assumption)) | (with_reducible apply ag_stage9))

theorem ag_execStageOverrun {kk : Kept} {s : State} {tR : State} (he : execStageOverrun s = .next tR) (hk : Ag kk s)
    : Ag kk tR := by
  unfold execStageOverrun at he
  repeat' (first | (with_reducible cases he; done) | (with_reducible injection he with he; subst he) | (with_reducible obtain ⟨_, _, rfl⟩ := Option.map_eq_some_iff.1 he))
  repeat' (first | with_reducible assumption | (with_reducible refine ag_of (fun _ hk => is_endStage hk) ?_) | (with_reducible refine ag_of (fun _ hk => is_stage0 hk) ?_) | (with_reducible refine ag_of (fun _ hk => is_stage3 hk) ?_) | (with_reducible refine ag_of (fun _ hk => is_stage4 hk) ?_) | (with_reducible refine ag_of (fun _ hk => is_stage5 hk) ?_) | (with_reducible refine ag_of (fun _ hk => is_stage6 hk) ?_) | (with_reducible refine ag_of (fun _ hk => is_stage7 hk) ?_) | (with_reducible refine ag_of (fun _ hk => is_stage8 hk) ?_) | (with_reducible apply ag_stage9) | (with_reducible apply ag_meter) | split)

theorem is_execStageWaitingReport {kk : Kept} {s : State} {tR : State} (he : execStageWaitingReport s = .next tR) (hk : Is kk s)
    : Is kk tR := by
  unfold execStageWaitingReport at he
  repeat' (first | (with_reducible cases he; done) | (with_reducible injection he with he; subst he) | (with_reducible obtain ⟨_, _, rfl⟩ := Option.map_eq_some_iff.1 he))
  repeat' (first | with_reducible assumption | (with_reducible apply is_stageReport) | (with_reducible apply is_meter) | split)

theorem ag_tick {kk : Kept} {s : State} (hk : Ag kk s) : Ag kk (tick s) := by
  unfold tick
  try dsimp only
  repeat' (first | with_reducible assumption | (simp only [↓ag_mk_iff]; refine ⟨ag_and ?_, ?_⟩) | (simp only [↓agM_mk_iff]; refine agM_and ?_) | (with_reducible refine ag_of (fun _ hk => is_setPart hk) ?_) | (with_reducible refine ag_of (fun _ hk => is_passMs hk) ?_) | (with_reducible refine ag_of (fun _ hk => is_flushEvents hk) ?_) | (with_reducible refine ag_of (fun _ hk => is_releaseTx hk) ?_) | (with_reducible refine ag_of (fun _ hk => is_rxDrain hk) ?_) | (with_reducible apply ag_afterAction) | (with_reducible apply ag_foldl; intro _ _ _) | (with_reducible apply ag_foldl_fst; intro _ _ _) | (with_reducible refine ag_of (fun _ hk => is_foldl_s hk) ?_; intro _ _ _) | (with_reducible refine ag_of (fun _ hk => is_foldl_fst_s hk) ?_; intro _ _ _) | (with_reducible apply ag_iter; intro _ _) | (with_reducible apply agM_foldl; intro _ _ _) | (with_reducible apply ag_meter) | (intro _; try dsimp only) | (split <;> (try (rename_i hq; simp only [↓Prod.ext_iff] at hq; obtain ⟨hf, _⟩ := hq; subst hf))) | (dsimp only [id]))

end Sys2Proof.Machine
end

