-- ==== Sys2Proof/Laws/KeptStep.lean ====
section
/-! SUPPORT. What every command and every step keeps. -/

namespace Sys2Proof.Machine

set_option maxHeartbeats 600000 in
/-- Whatever a command does, what is kept has only aged, and the queue behind it is untouched. -/
theorem ag_exec {kk : Kept} {c : Instr} {s t : State} (he : exec c s = .next t) (hk : Ag kk s) : Ag kk t := by
  cases c with
  | halt _ _ => exact ag_of (fun _ h => is_execHalt he h) hk
  | nop _ _ => exact ag_of (fun _ h => is_execNop he h) hk
  | replay _ _ => exact ag_of (fun _ h => is_execReplay he h) hk
  | illegalOpcode _ _ => exact ag_of (fun _ h => is_execIllegalOpcode he h) hk
  | issueTe _ _ => exact ag_of (fun _ h => is_execIssueTe he h) hk
  | issueVe _ _ => exact ag_of (fun _ h => is_execIssueVe he h) hk
  | issueDma _ _ => exact ag_of (fun _ h => is_execIssueDma he h) hk
  | issueSend _ _ => exact ag_of (fun _ h => is_execIssueSend he h) hk
  | issueRecv _ _ => exact ag_of (fun _ h => is_execIssueRecv he h) hk
  | syncSet _ _ => exact ag_of (fun _ h => is_execSyncSet he h) hk
  | syncAdd _ _ => exact ag_of (fun _ h => is_execSyncAdd he h) hk
  | syncSub _ _ => exact ag_of (fun _ h => is_execSyncSub he h) hk
  | syncAddRemote _ _ => exact ag_of (fun _ h => is_execSyncAddRemote he h) hk
  | waitGe _ _ => exact ag_of (fun _ h => is_execWaitGe he h) hk
  | waitEq _ _ => exact ag_of (fun _ h => is_execWaitEq he h) hk
  | waitTake _ _ => exact ag_of (fun _ h => is_execWaitTake he h) hk
  | loop _ _ => exact ag_of (fun _ h => is_execLoop he h) hk
  | loopEnd _ _ => exact ag_of (fun _ h => is_execLoopEnd he h) hk
  | branch _ _ => exact ag_of (fun _ h => is_execBranch he h) hk
  | jump _ _ => exact ag_of (fun _ h => is_execJump he h) hk
  | call _ _ => exact ag_of (fun _ h => is_execCall he h) hk
  | ret _ _ => exact ag_of (fun _ h => is_execRet he h) hk
  | commandFetch _ _ => exact ag_of (fun _ h => is_execCommandFetch he h) hk
  | agePromotion _ _ => exact ag_of (fun _ h => is_execAgePromotion he h) hk
  | waitSatisfied _ _ => exact ag_of (fun _ h => is_execWaitSatisfied he h) hk
  | waitWatchdog _ _ => exact ag_of (fun _ h => is_execWaitWatchdog he h) hk
  | remoteSyncTimeout _ _ => exact ag_of (fun _ h => is_execRemoteSyncTimeout he h) hk
  | heldRecordEntersRing _ => exact ag_of (fun _ h => is_execHeldRecordEntersRing he h) hk
  | matmul _ => exact ag_of (fun _ h => is_execMatmul he h) hk
  | teDrain _ => exact ag_of (fun _ h => is_execTeDrain he h) hk
  | teClear _ => exact ag_of (fun _ h => is_execTeClear he h) hk
  | teBlockLoad _ => exact ag_of (fun _ h => is_execTeBlockLoad he h) hk
  | teKblockStep _ => exact ag_of (fun _ h => is_execTeKblockStep he h) hk
  | teOpComplete _ => exact ag_of (fun _ h => is_execTeOpComplete he h) hk
  | add _ => exact ag_of (fun _ h => is_execAdd he h) hk
  | sub _ => exact ag_of (fun _ h => is_execSub he h) hk
  | mul _ => exact ag_of (fun _ h => is_execMul he h) hk
  | fma _ => exact ag_of (fun _ h => is_execFma he h) hk
  | max _ => exact ag_of (fun _ h => is_execMax he h) hk
  | min _ => exact ag_of (fun _ h => is_execMin he h) hk
  | div _ => exact ag_of (fun _ h => is_execDiv he h) hk
  | sqrt _ => exact ag_of (fun _ h => is_execSqrt he h) hk
  | rsqrt _ => exact ag_of (fun _ h => is_execRsqrt he h) hk
  | f2i _ => exact ag_of (fun _ h => is_execF2i he h) hk
  | i2f _ => exact ag_of (fun _ h => is_execI2f he h) hk
  | iadd _ => exact ag_of (fun _ h => is_execIadd he h) hk
  | isub _ => exact ag_of (fun _ h => is_execIsub he h) hk
  | imul _ => exact ag_of (fun _ h => is_execImul he h) hk
  | imax _ => exact ag_of (fun _ h => is_execImax he h) hk
  | imin _ => exact ag_of (fun _ h => is_execImin he h) hk
  | shl _ => exact ag_of (fun _ h => is_execShl he h) hk
  | shra _ => exact ag_of (fun _ h => is_execShra he h) hk
  | and _ => exact ag_of (fun _ h => is_execAnd he h) hk
  | or _ => exact ag_of (fun _ h => is_execOr he h) hk
  | xor _ => exact ag_of (fun _ h => is_execXor he h) hk
  | exp _ => exact ag_of (fun _ h => is_execExp he h) hk
  | exp2 _ => exact ag_of (fun _ h => is_execExp2 he h) hk
  | log _ => exact ag_of (fun _ h => is_execLog he h) hk
  | tanh _ => exact ag_of (fun _ h => is_execTanh he h) hk
  | sigmoid _ => exact ag_of (fun _ h => is_execSigmoid he h) hk
  | silu _ => exact ag_of (fun _ h => is_execSilu he h) hk
  | gelu _ => exact ag_of (fun _ h => is_execGelu he h) hk
  | sin _ => exact ag_of (fun _ h => is_execSin he h) hk
  | cos _ => exact ag_of (fun _ h => is_execCos he h) hk
  | rsum _ => exact ag_of (fun _ h => is_execRsum he h) hk
  | rmax _ => exact ag_of (fun _ h => is_execRmax he h) hk
  | rmin _ => exact ag_of (fun _ h => is_execRmin he h) hk
  | rsumsq _ => exact ag_of (fun _ h => is_execRsumsq he h) hk
  | rdot _ => exact ag_of (fun _ h => is_execRdot he h) hk
  | lnorm _ => exact ag_of (fun _ h => is_execLnorm he h) hk
  | rmsnorm _ => exact ag_of (fun _ h => is_execRmsnorm he h) hk
  | quant _ => exact ag_of (fun _ h => is_execQuant he h) hk
  | dequant _ => exact ag_of (fun _ h => is_execDequant he h) hk
  | cmp _ => exact ag_of (fun _ h => is_execCmp he h) hk
  | select _ => exact ag_of (fun _ h => is_execSelect he h) hk
  | veGather _ => exact ag_of (fun _ h => is_execVeGather he h) hk
  | veScatter _ => exact ag_of (fun _ h => is_execVeScatter he h) hk
  | scatterAdd _ => exact ag_of (fun _ h => is_execScatterAdd he h) hk
  | gfmul _ => exact ag_of (fun _ h => is_execGfmul he h) hk
  | gfmac _ => exact ag_of (fun _ h => is_execGfmac he h) hk
  | smaxStep _ => exact ag_of (fun _ h => is_execSmaxStep he h) hk
  | smaxFinal _ => exact ag_of (fun _ h => is_execSmaxFinal he h) hk
  | rope _ => exact ag_of (fun _ h => is_execRope he h) hk
  | angle _ => exact ag_of (fun _ h => is_execAngle he h) hk
  | veOpComplete _ => exact ag_of (fun _ h => is_execVeOpComplete he h) hk
  | dmaCopy _ => exact ag_of (fun _ h => is_execDmaCopy he h) hk
  | dmaGather _ => exact ag_of (fun _ h => is_execDmaGather he h) hk
  | dmaScatter _ => exact ag_of (fun _ h => is_execDmaScatter he h) hk
  | dmaPattern _ => exact ag_of (fun _ h => is_execDmaPattern he h) hk
  | dmaCreditTake _ _ => exact ag_of (fun _ h => is_execDmaCreditTake he h) hk
  | patternChunk _ _ => exact ag_of (fun _ h => is_execPatternChunk he h) hk
  | dmaOpComplete _ _ => exact ag_of (fun _ h => is_execDmaOpComplete he h) hk
  | dmaTransferTimeout _ _ _ => exact ag_of (fun _ h => is_execDmaTransferTimeout he h) hk
  | dmaTagHoldExpiry _ _ => exact ag_of (fun _ h => is_execDmaTagHoldExpiry he h) hk
  | write _ => exact ag_of (fun _ h => is_execWrite he h) hk
  | writeIndexed _ => exact ag_of (fun _ h => is_execWriteIndexed he h) hk
  | readReq _ => exact ag_of (fun _ h => is_execReadReq he h) hk
  | readReply _ => exact ag_of (fun _ h => is_execReadReply he h) hk
  | writeAck _ => exact ag_of (fun _ h => is_execWriteAck he h) hk
  | endpointTransferTimeout _ _ _ => exact ag_of (fun _ h => is_execEndpointTransferTimeout he h) hk
  | syncRaise _ => exact ag_of (fun _ h => is_execSyncRaise he h) hk
  | syncAck _ => exact ag_of (fun _ h => is_execSyncAck he h) hk
  | pnCellHop _ _ _ => exact ag_of (fun _ h => is_execPnCellHop he h) hk
  | bcast _ => exact ag_of (fun _ h => is_execBcast he h) hk
  | sendOperation _ => exact ag_of (fun _ h => is_execSendOperation he h) hk
  | receiveOperation _ => exact ag_of (fun _ h => is_execReceiveOperation he h) hk
  | receiveTakesRecord _ _ => exact ag_of (fun _ h => is_execReceiveTakesRecord he h) hk
  | msgFirst _ => exact ag_of (fun _ h => is_execMsgFirst he h) hk
  | msgNext _ => exact ag_of (fun _ h => is_execMsgNext he h) hk
  | msgAck _ => exact ag_of (fun _ h => is_execMsgAck he h) hk
  | msgNack _ => exact ag_of (fun _ h => is_execMsgNack he h) hk
  | msgAckTimeout _ _ => exact ag_of (fun _ h => is_execMsgAckTimeout he h) hk
  | msgRetryBackoff _ _ => exact ag_of (fun _ h => is_execMsgRetryBackoff he h) hk
  | reservationTimeout _ _ _ => exact ag_of (fun _ h => is_execReservationTimeout he h) hk
  | vnSwitchSlot _ _ => exact ag_of (fun _ h => is_execVnSwitchSlot he h) hk
  | adderFire _ => exact ag_of (fun _ h => is_execAdderFire he h) hk
  | steeringMove _ _ => exact ag_of (fun _ h => is_execSteeringMove he h) hk
  | snReturnWord _ _ _ => exact ag_of (fun _ h => is_execSnReturnWord he h) hk
  | sliceContextHeader _ _ => exact ag_of (fun _ h => is_execSliceContextHeader he h) hk
  | reduce _ => exact ag_of (fun _ h => is_execReduce he h) hk
  | deviceTotal _ _ => exact ag_of (fun _ h => is_execDeviceTotal he h) hk
  | bucketStartWord _ _ => exact ag_of (fun _ h => is_execBucketStartWord he h) hk
  | bucketRearm _ => exact ag_of (fun _ h => is_execBucketRearm he h) hk
  | bucketRoundTimeout _ => exact ag_of (fun _ h => is_execBucketRoundTimeout he h) hk
  | updateStartWord _ _ => exact ag_of (fun _ h => is_execUpdateStartWord he h) hk
  | updateGroupStart _ => exact ag_of (fun _ h => is_execUpdateGroupStart he h) hk
  | updatePass1End _ => exact ag_of (fun _ h => is_execUpdatePass1End he h) hk
  | updateResumeWord _ _ => exact ag_of (fun _ h => is_execUpdateResumeWord he h) hk
  | updateGroupEnd _ => exact ag_of (fun _ h => is_execUpdateGroupEnd he h) hk
  | faultEventTaken _ => exact ag_execFaultEventTaken he hk
  | remapSettled _ => exact ag_execRemapSettled he hk
  | settleTimeout _ => exact ag_execSettleTimeout he hk
  | coreFenceState _ _ _ => exact ag_of (fun _ h => is_execCoreFenceState he h) hk
  | coreFreeze _ _ => exact ag_of (fun _ h => is_execCoreFreeze he h) hk
  | coreHold _ _ => exact ag_of (fun _ h => is_execCoreHold he h) hk
  | clusterFenceState _ _ _ => exact ag_of (fun _ h => is_execClusterFenceState he h) hk
  | vnShiftWrite _ _ => exact ag_of (fun _ h => is_execVnShiftWrite he h) hk
  | soundingSweepTick => exact ag_of (fun _ h => is_execSoundingSweepTick he h) hk
  | soundingSlice _ _ _ _ => exact ag_of (fun _ h => is_execSoundingSlice he h) hk
  | isolateSuspectReplay _ => exact ag_execIsolateSuspectReplay he hk
  | isolateReplayTimeout _ => exact ag_execIsolateReplayTimeout he hk
  | gooseDeadlock _ => exact ag_of (fun _ h => is_execGooseDeadlock he h) hk
  | lendFlagSet _ => exact ag_of (fun _ h => is_execLendFlagSet he h) hk
  | grantChangeDone _ => exact ag_of (fun _ h => is_execGrantChangeDone he h) hk
  | powerBudgetTick _ => exact ag_of (fun _ h => is_execPowerBudgetTick he h) hk
  | thermalSensorRead _ _ => exact ag_of (fun _ h => is_execThermalSensorRead he h) hk
  | voltageClamp _ _ _ _ => exact ag_of (fun _ h => is_execVoltageClamp he h) hk
  | clusterIdleEntry _ => exact ag_of (fun _ h => is_execClusterIdleEntry he h) hk
  | clusterWake _ => exact ag_of (fun _ h => is_execClusterWake he h) hk
  | pwrLimitWrite _ => exact ag_of (fun _ h => is_execPwrLimitWrite he h) hk
  | pwrBrakeAssert => exact ag_of (fun _ h => is_execPwrBrakeAssert he h) hk
  | pwrBrakeRelease => exact ag_of (fun _ h => is_execPwrBrakeRelease he h) hk
  | refclkStop => exact ag_of (fun _ h => is_execRefclkStop he h) hk
  | powerOn => exact ag_of (fun _ h => is_execPowerOn he h) hk
  | powerLoss => exact ag_of (fun _ h => is_execPowerLoss he h) hk
  | resetInputAssert => exact ag_of (fun _ h => is_execResetInputAssert he h) hk
  | resetInputRelease => exact ag_of (fun _ h => is_execResetInputRelease he h) hk
  | managementWatchdogExpiry => exact ag_of (fun _ h => is_execManagementWatchdogExpiry he h) hk
  | bootStage0 _ => exact ag_of (fun _ h => is_execBootStage0 he h) hk
  | bootStage1 _ => exact ag_execBootStage1 he hk
  | bootStage2 => exact ag_of (fun _ h => is_execBootStage2 he h) hk
  | bootStage3 _ => exact ag_of (fun _ h => is_execBootStage3 he h) hk
  | bootStage4 _ => exact ag_of (fun _ h => is_execBootStage4 he h) hk
  | bootStage5 _ _ _ => exact ag_of (fun _ h => is_execBootStage5 he h) hk
  | bootStage6 _ => exact ag_of (fun _ h => is_execBootStage6 he h) hk
  | bootStage7 _ => exact ag_of (fun _ h => is_execBootStage7 he h) hk
  | bootStage8 _ => exact ag_of (fun _ h => is_execBootStage8 he h) hk
  | bootStage9 => exact ag_execBootStage9 he hk
  | stageOverrun => exact ag_execStageOverrun he hk
  | stageWaitingReport => exact ag_of (fun _ h => is_execStageWaitingReport he h) hk
  | flockRollCall _ _ => exact ag_execFlockRollCall he hk
  | flockRollCallTimeout _ _ => exact ag_of (fun _ h => is_execFlockRollCallTimeout he h) hk
  | selftestSlice _ => exact ag_execSelftestSlice he hk
  | screeBinTick _ _ => exact ag_of (fun _ h => is_execScreeBinTick he h) hk
  | screeGenerationWrite => exact ag_of (fun _ h => is_execScreeGenerationWrite he h) hk
  | dumpCopy _ => exact ag_of (fun _ h => is_execDumpCopy he h) hk
  | dramRefresh _ _ _ => exact ag_of (fun _ h => is_execDramRefresh he h) hk
  | deviceStatus _ => exact ag_execDeviceStatus he hk
  | subscribe _ => exact ag_execSubscribe he hk
  | portMode _ => exact ag_execPortMode he hk
  | addrSet _ => exact ag_execAddrSet he hk
  | ptpSet _ => exact ag_execPtpSet he hk
  | reinstate _ => exact ag_execReinstate he hk
  | dieReset _ => exact ag_execDieReset he hk
  | deviceReset _ => exact ag_execDeviceReset he hk
  | shutdown _ => exact ag_execShutdown he hk
  | partCreate _ => exact ag_execPartCreate he hk
  | partDelete _ => exact ag_execPartDelete he hk
  | partReserve _ => exact ag_execPartReserve he hk
  | partWindows _ => exact ag_execPartWindows he hk
  | partMemory _ => exact ag_execPartMemory he hk
  | partRekey _ => exact ag_execPartRekey he hk
  | mbxBind _ => exact ag_execMbxBind he hk
  | mbxUnbind _ => exact ag_execMbxUnbind he hk
  | partCm5 _ => exact ag_execPartCm5 he hk
  | partGoose _ => exact ag_execPartGoose he hk
  | partReset _ => exact ag_execPartReset he hk
  | partStatus _ => exact ag_execPartStatus he hk
  | imageLoad _ => exact ag_execImageLoad he hk
  | jobStart _ => exact ag_execJobStart he hk
  | jobAbort _ => exact ag_execJobAbort he hk
  | jobRestart _ => exact ag_execJobRestart he hk
  | jobStatus _ => exact ag_execJobStatus he hk
  | bucketOpen _ => exact ag_execBucketOpen he hk
  | bucketClose _ => exact ag_execBucketClose he hk
  | bucketQuery _ => exact ag_execBucketQuery he hk
  | peerTable _ => exact ag_execPeerTable he hk
  | regionRegister _ => exact ag_execRegionRegister he hk
  | regionDeregister _ => exact ag_execRegionDeregister he hk
  | qpCreate _ => exact ag_execQpCreate he hk
  | qpDestroy _ => exact ag_execQpDestroy he hk
  | recvPost _ => exact ag_execRecvPost he hk
  | memWrite _ => exact ag_execMemWrite he hk
  | memRead _ => exact ag_execMemRead he hk
  | countersRead _ => exact ag_execCountersRead he hk
  | coreStateRead _ => exact ag_execCoreStateRead he hk
  | screeRead _ => exact ag_execScreeRead he hk
  | dumpRead _ => exact ag_execDumpRead he hk
  | spoilRead _ => exact ag_execSpoilRead he hk
  | soundingCfg _ => exact ag_execSoundingCfg he hk
  | attest _ => exact ag_execAttest he hk
  | identityRead _ => exact ag_execIdentityRead he hk
  | macsecSa _ => exact ag_execMacsecSa he hk
  | stewardKeySet _ => exact ag_execStewardKeySet he hk
  | fwUpdate _ => exact ag_execFwUpdate he hk
  | fwActivate _ => exact ag_execFwActivate he hk
  | lifecycle _ => exact ag_execLifecycle he hk
  | meterRecords _ => exact ag_execMeterRecords he hk
  | meterAudit _ => exact ag_execMeterAudit he hk
  | meterIdentity _ => exact ag_execMeterIdentity he hk
  | commandTimeout _ _ => exact ag_execCommandTimeout he hk
  | cmConnectRequest _ _ _ _ _ _ _ => exact ag_of (fun _ h => is_execCmConnectRequest he h) hk
  | arpRequest _ _ => exact ag_of (fun _ h => is_execArpRequest he h) hk
  | neighbourSolicitation _ _ => exact ag_of (fun _ h => is_execNeighbourSolicitation he h) hk
  | icmpEchoRequest _ _ => exact ag_of (fun _ h => is_execIcmpEchoRequest he h) hk
  | neighbourEntryAgeing _ => exact ag_of (fun _ h => is_execNeighbourEntryAgeing he h) hk
  | pfcFrame _ _ _ => exact ag_of (fun _ h => is_execPfcFrame he h) hk
  | pfcPauseHeld _ _ => exact ag_of (fun _ h => is_execPfcPauseHeld he h) hk
  | ptpEventMessage _ _ _ => exact ag_of (fun _ h => is_execPtpEventMessage he h) hk
  | ptpMasterTimeout => exact ag_of (fun _ h => is_execPtpMasterTimeout he h) hk
  | roceSend _ _ => exact ag_of (fun _ h => is_execRoceSend he h) hk
  | rdmaWrite _ _ _ _ => exact ag_of (fun _ h => is_execRdmaWrite he h) hk
  | rdmaWriteWithImmediate _ _ _ _ _ => exact ag_of (fun _ h => is_execRdmaWriteWithImmediate he h) hk
  | rdmaRead _ _ _ _ => exact ag_of (fun _ h => is_execRdmaRead he h) hk
  | digestList _ _ => exact ag_of (fun _ h => is_execDigestList he h) hk
  | rdmaAck _ _ => exact ag_execRdmaAck he hk
  | localAckTimeout _ => exact ag_execLocalAckTimeout he hk
  | rnrRetryTimer _ => exact ag_of (fun _ h => is_execRnrRetryTimer he h) hk
  | cnp _ => exact ag_of (fun _ h => is_execCnp he h) hk
  | cnpRateTimer _ => exact ag_of (fun _ h => is_execCnpRateTimer he h) hk
  | cm5Load _ _ _ _ => exact ag_execCm5Load he hk
  | cm5Run _ _ _ _ => exact ag_execCm5Run he hk
  | cm5Read _ _ _ _ => exact ag_execCm5Read he hk
  | jtagIdcode => exact ag_of (fun _ h => is_execJtagIdcode he h) hk
  | jtagBypass _ => exact ag_of (fun _ h => is_execJtagBypass he h) hk
  | meterSample _ _ => exact ag_of (fun _ h => is_execMeterSample he h) hk
  | tapFrame _ _ _ _ _ _ _ => exact ag_of (fun _ h => is_execTapFrame he h) hk
  | tapGapTimeout _ => exact ag_of (fun _ h => is_execTapGapTimeout he h) hk
  | ballastChip _ => exact ag_of (fun _ h => is_execBallastChip he h) hk
  | ballastCalibration _ => exact ag_of (fun _ h => is_execBallastCalibration he h) hk
  | calibrationStale _ => exact ag_of (fun _ h => is_execCalibrationStale he h) hk
  | settlementClose => exact ag_of (fun _ h => is_execSettlementClose he h) hk
  | meterCommit => exact ag_of (fun _ h => is_execMeterCommit he h) hk
  | meterVddLow => exact ag_of (fun _ h => is_execMeterVddLow he h) hk
  | meterPowerOn _ _ => exact ag_execMeterPowerOn he hk
  | meterWatchdogExpiry => exact ag_of (fun _ h => is_execMeterWatchdogExpiry he h) hk
  | meterClkFault => exact ag_of (fun _ h => is_execMeterClkFault he h) hk
  | mtrCfgWrite _ => exact ag_of (fun _ h => is_execMtrCfgWrite he h) hk
  | mtrTimeWrite _ => exact ag_of (fun _ h => is_execMtrTimeWrite he h) hk
  | meterReset => exact ag_of (fun _ h => is_execMeterReset he h) hk
  | fwCommit => exact ag_execFwCommit he hk
  | registerWrite _ _ _ => exact ag_of (fun _ h => is_execRegisterWrite he h) hk
  | pwrLimitRead => exact ag_of (fun _ h => is_execPwrLimitRead he h) hk
  | ethernetLinkChange _ _ => exact ag_of (fun _ h => is_execEthernetLinkChange he h) hk
  | portModeTakedown _ => exact ag_execPortModeTakedown he hk
  | deviceResetBegin => exact ag_of (fun _ h => is_execDeviceResetBegin he h) hk
  | dieResetEnd _ => exact ag_execDieResetEnd he hk
  | ouvosRestartEnd => exact ag_execOuvosRestartEnd he hk
  | oxLaneRetraining _ _ _ => exact ag_of (fun _ h => is_execOxLaneRetraining he h) hk
  | rdmaReadResponse _ _ => exact ag_execRdmaReadResponse he hk
  | ptpGeneralMessage _ _ _ _ => exact ag_of (fun _ h => is_execPtpGeneralMessage he h) hk
  | arpOrNeighbourReply _ _ _ => exact ag_of (fun _ h => is_execArpOrNeighbourReply he h) hk
  | unsupportedRequest _ _ => exact ag_execUnsupportedRequest he hk
  | meterTestAccessOpen => exact ag_execMeterTestAccessOpen he hk
  | mtrLastAdvance => exact ag_of (fun _ h => is_execMtrLastAdvance he h) hk
  | gradientRelease _ => exact ag_of (fun _ h => is_execGradientRelease he h) hk

/-- A step takes the front command off the queue, and what is kept only ages. -/
theorem ag_step {s t : State} (he : step s = .next t) : Ag { keptOf s with pending := s.pending.tail } t := by
  unfold step at he
  split at he
  · rename_i c r hq
    refine ag_exec he ⟨rfl, ?_, rfl, rfl, ?_, Nat.le_refl _, Nat.le_refl _, ⟨rfl, fun h => h⟩⟩
    · simp [hq]
    · exact BitVec.and_self
  · rename_i hq
    injection he with he
    subst he
    refine ag_tick ⟨rfl, ?_, rfl, rfl, ?_, Nat.le_refl _, Nat.le_refl _, ⟨rfl, fun h => h⟩⟩
    · simp [hq]
    · exact BitVec.and_self

end Sys2Proof.Machine
end

