-- ==== Sys2Proof/Laws/Table.lean ====
section
/-! SUPPORT. The laws of the sparse tables: read after write, what a write leaves alone, and that every operation keeps
the canonical form. -/

namespace Sys2Proof.Machine

variable {α : Type}

/-- The first key of a table lies above `k`. -/
def tabove (k : Nat) : Tbl α → Prop
  | [] => True
  | (j, _) :: _ => k < j

theorem trising_cons {j : Nat} {v : α} {r : Tbl α} : trising ((j, v) :: r) = true ↔ tabove j r ∧ trising r = true := by
  cases r with
  | nil => simp [trising, tabove]
  | cons e r => obtain ⟨i, w⟩ := e; simp [trising, tabove]

theorem tabove_mono {j k : Nat} {t : Tbl α} (h : tabove k t) (hjk : j ≤ k) : tabove j t := by
  cases t with
  | nil => trivial
  | cons e r => exact Nat.lt_of_le_of_lt hjk h

@[simp] theorem tget_nil (d : α) (k : Nat) : tget d ([] : Tbl α) k = d := rfl

/-- Reading back what was put. -/
@[simp] theorem tget_tput_same (d : α) (t : Tbl α) (k : Nat) (v : α) : tget d (tput t k v) k = v := by
  induction t with
  | nil => simp [tput, tget]
  | cons e r ih =>
    obtain ⟨j, w⟩ := e
    simp only [tput]
    split
    · simp [tget]
    · split
      · simp [tget]
      · rename_i h1 h2
        simp [tget, h1, ih]

/-- A put leaves every other key alone. -/
theorem tget_tput_other (d : α) (t : Tbl α) {k j : Nat} (v : α) (h : j ≠ k) : tget d (tput t k v) j = tget d t j := by
  induction t with
  | nil => simp [tput, tget, Ne.symm h]
  | cons e r ih =>
    obtain ⟨i, w⟩ := e
    simp only [tput]
    split
    · subst i
      simp only [tget, Ne.symm h, if_false]
    · split
      · simp [tget, Ne.symm h]
      · simp only [tget]
        split
        · rfl
        · exact ih

/-- Taking a key away leaves the entries of the other keys. -/
theorem terase_eq_filter (t : Tbl α) (k : Nat) : terase t k = t.filter (fun e => decide (e.1 ≠ k)) := by
  induction t with
  | nil => rfl
  | cons e r ih =>
    obtain ⟨i, w⟩ := e
    simp only [terase, List.filter_cons]
    split <;> rename_i h <;> simp [h, ih]

@[simp] theorem tget_terase_same (d : α) (t : Tbl α) (k : Nat) : tget d (terase t k) k = d := by
  induction t with
  | nil => rfl
  | cons e r ih =>
    obtain ⟨i, w⟩ := e
    simp only [terase]
    split
    · exact ih
    · rename_i h; simp [tget, h, ih]

theorem tget_terase_other (d : α) (t : Tbl α) {k j : Nat} (h : j ≠ k) : tget d (terase t k) j = tget d t j := by
  induction t with
  | nil => rfl
  | cons e r ih =>
    obtain ⟨i, w⟩ := e
    simp only [terase]
    split
    · subst i; simp [tget, Ne.symm h, ih]
    · simp only [tget]
      split
      · rfl
      · exact ih

theorem tabove_filter {t : Tbl α} {j : Nat} (p : Nat × α → Bool) (hr : trising t = true) (h : tabove j t) :
    tabove j (t.filter p) := by
  induction t with
  | nil => trivial
  | cons e r ih =>
    obtain ⟨i, w⟩ := e
    obtain ⟨hab, hr'⟩ := trising_cons.1 hr
    have hji : j < i := h
    simp only [List.filter_cons]
    split
    · exact hji
    · exact ih hr' (tabove_mono hab (by omega))

theorem trising_filter {t : Tbl α} (p : Nat × α → Bool) (hr : trising t = true) : trising (t.filter p) = true := by
  induction t with
  | nil => rfl
  | cons e r ih =>
    obtain ⟨i, w⟩ := e
    obtain ⟨hab, hr'⟩ := trising_cons.1 hr
    simp only [List.filter_cons]
    split
    · exact trising_cons.2 ⟨tabove_filter p hr' hab, ih hr'⟩
    · exact ih hr'

theorem mem_terase {t : Tbl α} {k : Nat} {e : Nat × α} (h : e ∈ terase t k) : e ∈ t := by
  rw [terase_eq_filter] at h; exact List.mem_of_mem_filter h

theorem trising_terase {t : Tbl α} (k : Nat) (hr : trising t = true) : trising (terase t k) = true := by
  rw [terase_eq_filter]; exact trising_filter _ hr

theorem tabove_tput {t : Tbl α} {j k : Nat} {v : α} (h : tabove j t) (hjk : j < k) : tabove j (tput t k v) := by
  cases t with
  | nil => exact hjk
  | cons e r =>
    obtain ⟨i, w⟩ := e
    simp only [tput]
    split
    · exact hjk
    · split
      · exact hjk
      · exact h

theorem trising_tput {t : Tbl α} (k : Nat) (v : α) (hr : trising t = true) : trising (tput t k v) = true := by
  induction t with
  | nil => rfl
  | cons e r ih =>
    obtain ⟨i, w⟩ := e
    obtain ⟨hab, hr'⟩ := trising_cons.1 hr
    simp only [tput]
    split
    · subst i; exact trising_cons.2 ⟨hab, hr'⟩
    · split
      · rename_i h1 h2; exact trising_cons.2 ⟨h2, hr⟩
      · exact trising_cons.2 ⟨tabove_tput hab (by omega), ih hr'⟩

theorem mem_tput {t : Tbl α} {k : Nat} {v : α} {e : Nat × α} (h : e ∈ tput t k v) : e = (k, v) ∨ e ∈ t := by
  induction t with
  | nil => simpa [tput] using h
  | cons x r ih =>
    obtain ⟨i, w⟩ := x
    simp only [tput] at h
    split at h
    · rcases List.mem_cons.1 h with h | h
      · exact .inl h
      · exact .inr (List.mem_cons_of_mem _ h)
    · split at h
      · rcases List.mem_cons.1 h with h | h
        · exact .inl h
        · exact .inr h
      · rcases List.mem_cons.1 h with h | h
        · exact .inr (h ▸ List.mem_cons_self ..)
        · rcases ih h with h | h
          · exact .inl h
          · exact .inr (List.mem_cons_of_mem _ h)

section Canonical

variable [DecidableEq α] {d : α} {t : Tbl α}

theorem Memory.wf_iff : Memory.wf d t = true ↔ trising t = true ∧ ∀ e ∈ t, e.2 ≠ d := by
  simp [Memory.wf]

@[simp] theorem Memory.wf_nil : Memory.wf d ([] : Tbl α) = true := rfl

/-- A write keeps the canonical form. -/
theorem Memory.wf_tset (k : Nat) (v : α) (h : Memory.wf d t = true) : Memory.wf d (tset d t k v) = true := by
  obtain ⟨hr, hd⟩ := Memory.wf_iff.1 h
  unfold tset
  split
  · exact Memory.wf_iff.2 ⟨trising_terase k hr, fun e he => hd e (mem_terase he)⟩
  · rename_i hv
    refine Memory.wf_iff.2 ⟨trising_tput k v hr, fun e he => ?_⟩
    rcases mem_tput he with h | h
    · subst h; exact hv
    · exact hd e h

theorem Memory.wf_tmod (k : Nat) (f : α → α) (h : Memory.wf d t = true) : Memory.wf d (tmod d t k f) = true :=
  Memory.wf_tset _ _ h

end Canonical

section Writes

variable [DecidableEq α] (d : α) (t : Tbl α)

/-- Read after write at the same key. -/
@[simp] theorem tget_tset_same (k : Nat) (v : α) : tget d (tset d t k v) k = v := by
  unfold tset
  split
  · rename_i hv; rw [hv]; exact tget_terase_same d t k
  · exact tget_tput_same d t k v

/-- A write leaves every other key alone. -/
theorem tget_tset_other {k j : Nat} (v : α) (hjk : j ≠ k) : tget d (tset d t k v) j = tget d t j := by
  unfold tset
  split
  · exact tget_terase_other d t hjk
  · exact tget_tput_other d t v hjk

/-- A write, read at any key. -/
theorem tget_tset (k j : Nat) (v : α) : tget d (tset d t k v) j = if j = k then v else tget d t j := by
  split
  · rename_i h; subst h; exact tget_tset_same d t j v
  · rename_i h; exact tget_tset_other d t v h

@[simp] theorem tget_tmod_same (k : Nat) (f : α → α) : tget d (tmod d t k f) k = f (tget d t k) := tget_tset_same d t k _

theorem tget_tmod_other {k j : Nat} (f : α → α) (hjk : j ≠ k) : tget d (tmod d t k f) j = tget d t j :=
  tget_tset_other d t _ hjk

end Writes


theorem Memory.wf_filter [DecidableEq α] {d : α} {t : Tbl α} (p : Nat × α → Bool) (h : Memory.wf d t = true) :
    Memory.wf d (t.filter p) = true := by
  obtain ⟨hr, hd⟩ := Memory.wf_iff.1 h
  exact Memory.wf_iff.2 ⟨trising_filter p hr, fun e he => hd e (List.mem_of_mem_filter he)⟩

/-! ### Bytes -/

theorem Memory.wf_writeBytes {m : Tbl Byte} (a : Nat) (l : List Byte) (h : Memory.wf 0 m = true) :
    Memory.wf 0 (writeBytes m a l) = true := by
  induction l generalizing m a with
  | nil => exact h
  | cons b r ih => exact ih (a + 1) (Memory.wf_tset a b h)

theorem Memory.wf_clearBytes {m : Tbl Byte} (a n : Nat) (h : Memory.wf 0 m = true) : Memory.wf 0 (clearBytes m a n) = true :=
  Memory.wf_filter _ h

/-- A write of bytes leaves every byte outside it alone. -/
theorem tget_writeBytes_other {m : Tbl Byte} {a j : Nat} {l : List Byte}
    (hj : j < a ∨ a + l.length ≤ j) : tget 0 (writeBytes m a l) j = tget 0 m j := by
  induction l generalizing m a with
  | nil => rfl
  | cons b r ih =>
    simp only [List.length_cons] at hj
    simp only [writeBytes]
    rw [ih (by omega)]
    exact tget_tset_other 0 m b (by omega)

/-- A write of bytes puts each byte in its place. -/
theorem tget_writeBytes {m : Tbl Byte} {a i : Nat} {l : List Byte} (hi : i < l.length) :
    tget 0 (writeBytes m a l) (a + i) = l[i] := by
  induction l generalizing m a i with
  | nil => simp at hi
  | cons b r ih =>
    simp only [writeBytes]
    cases i with
    | zero =>
      rw [tget_writeBytes_other (by omega)]
      simp
    | succ i =>
      have := ih (m := tset 0 m a b) (a := a + 1) (i := i) (by simpa using hi)
      rw [show a + (i + 1) = a + 1 + i by omega]; simpa using this

/-- Clearing bytes, read at any address. -/
theorem tget_clearBytes (m : Tbl Byte) (a n j : Nat) :
    tget 0 (clearBytes m a n) j = if a ≤ j ∧ j < a + n then 0 else tget 0 m j := by
  induction m with
  | nil => simp [clearBytes]
  | cons e r ih =>
    obtain ⟨i, w⟩ := e
    simp only [clearBytes, List.filter_cons] at ih ⊢
    by_cases hi : i < a ∨ a + n ≤ i
    · simp only [hi, decide_true, if_true, tget]
      by_cases hj : i = j
      · subst hj
        have h1 : ¬ (a ≤ i ∧ i < a + n) := by omega
        simp [h1]
      · simp only [hj, if_false]; exact ih
    · simp only [hi, decide_false, Bool.false_eq_true, if_false, tget]
      by_cases hj : i = j
      · subst hj
        have h1 : a ≤ i ∧ i < a + n := by omega
        rw [ih]; simp [h1]
      · simp only [hj, if_false]; exact ih

@[simp] theorem readBytes_length (m : Tbl Byte) (a n : Nat) : (readBytes m a n).length = n := by
  induction n generalizing a with
  | zero => rfl
  | succ n ih => simp [readBytes, ih]

end Sys2Proof.Machine
end

