-- ==== Sys2Proof/Laws/State.lean ====
section
/-! SUPPORT. What each update of the state leaves as it was, field by field, and what it makes of the field that it writes;
the state after reset and the canonical form of its tables. -/

namespace Sys2Proof.Machine

variable (s : State)

/-! ### setCore -/

@[simp] theorem setCore_product (p : Nat) (c : Core) : (setCore s p c).product = s.product := rfl
@[simp] theorem setCore_fab (p : Nat) (c : Core) : (setCore s p c).fab = s.fab := rfl
@[simp] theorem setCore_idKey (p : Nat) (c : Core) : (setCore s p c).idKey = s.idKey := rfl
@[simp] theorem setCore_storageKey (p : Nat) (c : Core) : (setCore s p c).storageKey = s.storageKey := rfl
@[simp] theorem setCore_meterUnread (p : Nat) (c : Core) : (setCore s p c).meterUnread = s.meterUnread := rfl
@[simp] theorem setCore_timeBase (p : Nat) (c : Core) : (setCore s p c).timeBase = s.timeBase := rfl
@[simp] theorem setCore_freeSeq (p : Nat) (c : Core) : (setCore s p c).freeSeq = s.freeSeq := rfl
@[simp] theorem setCore_boot (p : Nat) (c : Core) : (setCore s p c).boot = s.boot := rfl
@[simp] theorem setCore_bootFull (p : Nat) (c : Core) : (setCore s p c).bootFull = s.bootFull := rfl
@[simp] theorem setCore_bootFrom (p : Nat) (c : Core) : (setCore s p c).bootFrom = s.bootFrom := rfl
@[simp] theorem setCore_report (p : Nat) (c : Core) : (setCore s p c).report = s.report := rfl
@[simp] theorem setCore_bootLog (p : Nat) (c : Core) : (setCore s p c).bootLog = s.bootLog := rfl
@[simp] theorem setCore_ibis (p : Nat) (c : Core) : (setCore s p c).ibis = s.ibis := rfl
@[simp] theorem setCore_i3cAddr (p : Nat) (c : Core) : (setCore s p c).i3cAddr = s.i3cAddr := rfl
@[simp] theorem setCore_fw (p : Nat) (c : Core) : (setCore s p c).fw = s.fw := rfl
@[simp] theorem setCore_service (p : Nat) (c : Core) : (setCore s p c).service = s.service := rfl
@[simp] theorem setCore_ouvosUp (p : Nat) (c : Core) : (setCore s p c).ouvosUp = s.ouvosUp := rfl
@[simp] theorem setCore_loadMode (p : Nat) (c : Core) : (setCore s p c).loadMode = s.loadMode := rfl
@[simp] theorem setCore_flockNo (p : Nat) (c : Core) : (setCore s p c).flockNo = s.flockNo := rfl
@[simp] theorem setCore_refclk (p : Nat) (c : Core) : (setCore s p c).refclk = s.refclk := rfl
@[simp] theorem setCore_atMs (p : Nat) (c : Core) : (setCore s p c).atMs = s.atMs := rfl
@[simp] theorem setCore_fence (p : Nat) (c : Core) : (setCore s p c).fence = s.fence := rfl
@[simp] theorem setCore_cluFence (p : Nat) (c : Core) : (setCore s p c).cluFence = s.cluFence := rfl
@[simp] theorem setCore_shift (p : Nat) (c : Core) : (setCore s p c).shift = s.shift := rfl
@[simp] theorem setCore_switches (p : Nat) (c : Core) : (setCore s p c).switches = s.switches := rfl
@[simp] theorem setCore_slices (p : Nat) (c : Core) : (setCore s p c).slices = s.slices := rfl
@[simp] theorem setCore_routers (p : Nat) (c : Core) : (setCore s p c).routers = s.routers := rfl
@[simp] theorem setCore_ends (p : Nat) (c : Core) : (setCore s p c).ends = s.ends := rfl
@[simp] theorem setCore_landing (p : Nat) (c : Core) : (setCore s p c).landing = s.landing := rfl
@[simp] theorem setCore_dies (p : Nat) (c : Core) : (setCore s p c).dies = s.dies := rfl
@[simp] theorem setCore_parts (p : Nat) (c : Core) : (setCore s p c).parts = s.parts := rfl
@[simp] theorem setCore_reusable (p : Nat) (c : Core) : (setCore s p c).reusable = s.reusable := rfl
@[simp] theorem setCore_buckets (p : Nat) (c : Core) : (setCore s p c).buckets = s.buckets := rfl
@[simp] theorem setCore_hbm (p : Nat) (c : Core) : (setCore s p c).hbm = s.hbm := rfl
@[simp] theorem setCore_ddr (p : Nat) (c : Core) : (setCore s p c).ddr = s.ddr := rfl
@[simp] theorem setCore_ddrSpeed (p : Nat) (c : Core) : (setCore s p c).ddrSpeed = s.ddrSpeed := rfl
@[simp] theorem setCore_ddrDimms (p : Nat) (c : Core) : (setCore s p c).ddrDimms = s.ddrDimms := rfl
@[simp] theorem setCore_ddrGib (p : Nat) (c : Core) : (setCore s p c).ddrGib = s.ddrGib := rfl
@[simp] theorem setCore_spares (p : Nat) (c : Core) : (setCore s p c).spares = s.spares := rfl
@[simp] theorem setCore_links (p : Nat) (c : Core) : (setCore s p c).links = s.links := rfl
@[simp] theorem setCore_halfLinks (p : Nat) (c : Core) : (setCore s p c).halfLinks = s.halfLinks := rfl
@[simp] theorem setCore_fused (p : Nat) (c : Core) : (setCore s p c).fused = s.fused := rfl
@[simp] theorem setCore_soft (p : Nat) (c : Core) : (setCore s p c).soft = s.soft := rfl
@[simp] theorem setCore_scree (p : Nat) (c : Core) : (setCore s p c).scree = s.scree := rfl
@[simp] theorem setCore_history (p : Nat) (c : Core) : (setCore s p c).history = s.history := rfl
@[simp] theorem setCore_charged (p : Nat) (c : Core) : (setCore s p c).charged = s.charged := rfl
@[simp] theorem setCore_dumps (p : Nat) (c : Core) : (setCore s p c).dumps = s.dumps := rfl
@[simp] theorem setCore_skipped (p : Nat) (c : Core) : (setCore s p c).skipped = s.skipped := rfl
@[simp] theorem setCore_sweepMin (p : Nat) (c : Core) : (setCore s p c).sweepMin = s.sweepMin := rfl
@[simp] theorem setCore_sweep (p : Nat) (c : Core) : (setCore s p c).sweep = s.sweep := rfl
@[simp] theorem setCore_sounding (p : Nat) (c : Core) : (setCore s p c).sounding = s.sounding := rfl
@[simp] theorem setCore_sweepFrom (p : Nat) (c : Core) : (setCore s p c).sweepFrom = s.sweepFrom := rfl
@[simp] theorem setCore_sweepSize (p : Nat) (c : Core) : (setCore s p c).sweepSize = s.sweepSize := rfl
@[simp] theorem setCore_sweepOut (p : Nat) (c : Core) : (setCore s p c).sweepOut = s.sweepOut := rfl
@[simp] theorem setCore_unsounded (p : Nat) (c : Core) : (setCore s p c).unsounded = s.unsounded := rfl
@[simp] theorem setCore_missed (p : Nat) (c : Core) : (setCore s p c).missed = s.missed := rfl
@[simp] theorem setCore_tapCount (p : Nat) (c : Core) : (setCore s p c).tapCount = s.tapCount := rfl
@[simp] theorem setCore_hbmMoved (p : Nat) (c : Core) : (setCore s p c).hbmMoved = s.hbmMoved := rfl
@[simp] theorem setCore_tapTurn (p : Nat) (c : Core) : (setCore s p c).tapTurn = s.tapTurn := rfl
@[simp] theorem setCore_genAt (p : Nat) (c : Core) : (setCore s p c).genAt = s.genAt := rfl
@[simp] theorem setCore_portMode (p : Nat) (c : Core) : (setCore s p c).portMode = s.portMode := rfl
@[simp] theorem setCore_modePend (p : Nat) (c : Core) : (setCore s p c).modePend = s.modePend := rfl
@[simp] theorem setCore_resetPend (p : Nat) (c : Core) : (setCore s p c).resetPend = s.resetPend := rfl
@[simp] theorem setCore_lports (p : Nat) (c : Core) : (setCore s p c).lports = s.lports := rfl
@[simp] theorem setCore_neigh (p : Nat) (c : Core) : (setCore s p c).neigh = s.neigh := rfl
@[simp] theorem setCore_netOut (p : Nat) (c : Core) : (setCore s p c).netOut = s.netOut := rfl
@[simp] theorem setCore_ptpPort (p : Nat) (c : Core) : (setCore s p c).ptpPort = s.ptpPort := rfl
@[simp] theorem setCore_ptpHeard (p : Nat) (c : Core) : (setCore s p c).ptpHeard = s.ptpHeard := rfl
@[simp] theorem setCore_ptpFree (p : Nat) (c : Core) : (setCore s p c).ptpFree = s.ptpFree := rfl
@[simp] theorem setCore_ptpSync (p : Nat) (c : Core) : (setCore s p c).ptpSync = s.ptpSync := rfl
@[simp] theorem setCore_ptpDelay (p : Nat) (c : Core) : (setCore s p c).ptpDelay = s.ptpDelay := rfl
@[simp] theorem setCore_ptpReq (p : Nat) (c : Core) : (setCore s p c).ptpReq = s.ptpReq := rfl
@[simp] theorem setCore_stamps (p : Nat) (c : Core) : (setCore s p c).stamps = s.stamps := rfl
@[simp] theorem setCore_qps (p : Nat) (c : Core) : (setCore s p c).qps = s.qps := rfl
@[simp] theorem setCore_regions (p : Nat) (c : Core) : (setCore s p c).regions = s.regions := rfl
@[simp] theorem setCore_cmds (p : Nat) (c : Core) : (setCore s p c).cmds = s.cmds := rfl
@[simp] theorem setCore_sent (p : Nat) (c : Core) : (setCore s p c).sent = s.sent := rfl
@[simp] theorem setCore_seqHigh (p : Nat) (c : Core) : (setCore s p c).seqHigh = s.seqHigh := rfl
@[simp] theorem setCore_seqSeen (p : Nat) (c : Core) : (setCore s p c).seqSeen = s.seqSeen := rfl
@[simp] theorem setCore_seqFlash (p : Nat) (c : Core) : (setCore s p c).seqFlash = s.seqFlash := rfl
@[simp] theorem setCore_power (p : Nat) (c : Core) : (setCore s p c).power = s.power := rfl
@[simp] theorem setCore_pwrLimit (p : Nat) (c : Core) : (setCore s p c).pwrLimit = s.pwrLimit := rfl
@[simp] theorem setCore_pwrRefused (p : Nat) (c : Core) : (setCore s p c).pwrRefused = s.pwrRefused := rfl
@[simp] theorem setCore_hbmPace (p : Nat) (c : Core) : (setCore s p c).hbmPace = s.hbmPace := rfl
@[simp] theorem setCore_stackPace (p : Nat) (c : Core) : (setCore s p c).stackPace = s.stackPace := rfl
@[simp] theorem setCore_brake (p : Nat) (c : Core) : (setCore s p c).brake = s.brake := rfl
@[simp] theorem setCore_temps (p : Nat) (c : Core) : (setCore s p c).temps = s.temps := rfl
@[simp] theorem setCore_restoredAt (p : Nat) (c : Core) : (setCore s p c).restoredAt = s.restoredAt := rfl
@[simp] theorem setCore_turn (p : Nat) (c : Core) : (setCore s p c).turn = s.turn := rfl
@[simp] theorem setCore_outBefore (p : Nat) (c : Core) : (setCore s p c).outBefore = s.outBefore := rfl
@[simp] theorem setCore_binAt (p : Nat) (c : Core) : (setCore s p c).binAt = s.binAt := rfl
@[simp] theorem setCore_trip (p : Nat) (c : Core) : (setCore s p c).trip = s.trip := rfl
@[simp] theorem setCore_resetLow (p : Nat) (c : Core) : (setCore s p c).resetLow = s.resetLow := rfl
@[simp] theorem setCore_flash (p : Nat) (c : Core) : (setCore s p c).flash = s.flash := rfl
@[simp] theorem setCore_meter (p : Nat) (c : Core) : (setCore s p c).meter = s.meter := rfl
@[simp] theorem setCore_jtagOut (p : Nat) (c : Core) : (setCore s p c).jtagOut = s.jtagOut := rfl
@[simp] theorem setCore_pending (p : Nat) (c : Core) : (setCore s p c).pending = s.pending := rfl

/-! ### setDie -/

@[simp] theorem setDie_product (d : Nat) (v : Die) : (setDie s d v).product = s.product := rfl
@[simp] theorem setDie_fab (d : Nat) (v : Die) : (setDie s d v).fab = s.fab := rfl
@[simp] theorem setDie_idKey (d : Nat) (v : Die) : (setDie s d v).idKey = s.idKey := rfl
@[simp] theorem setDie_storageKey (d : Nat) (v : Die) : (setDie s d v).storageKey = s.storageKey := rfl
@[simp] theorem setDie_meterUnread (d : Nat) (v : Die) : (setDie s d v).meterUnread = s.meterUnread := rfl
@[simp] theorem setDie_timeBase (d : Nat) (v : Die) : (setDie s d v).timeBase = s.timeBase := rfl
@[simp] theorem setDie_freeSeq (d : Nat) (v : Die) : (setDie s d v).freeSeq = s.freeSeq := rfl
@[simp] theorem setDie_boot (d : Nat) (v : Die) : (setDie s d v).boot = s.boot := rfl
@[simp] theorem setDie_bootFull (d : Nat) (v : Die) : (setDie s d v).bootFull = s.bootFull := rfl
@[simp] theorem setDie_bootFrom (d : Nat) (v : Die) : (setDie s d v).bootFrom = s.bootFrom := rfl
@[simp] theorem setDie_report (d : Nat) (v : Die) : (setDie s d v).report = s.report := rfl
@[simp] theorem setDie_bootLog (d : Nat) (v : Die) : (setDie s d v).bootLog = s.bootLog := rfl
@[simp] theorem setDie_ibis (d : Nat) (v : Die) : (setDie s d v).ibis = s.ibis := rfl
@[simp] theorem setDie_i3cAddr (d : Nat) (v : Die) : (setDie s d v).i3cAddr = s.i3cAddr := rfl
@[simp] theorem setDie_fw (d : Nat) (v : Die) : (setDie s d v).fw = s.fw := rfl
@[simp] theorem setDie_service (d : Nat) (v : Die) : (setDie s d v).service = s.service := rfl
@[simp] theorem setDie_ouvosUp (d : Nat) (v : Die) : (setDie s d v).ouvosUp = s.ouvosUp := rfl
@[simp] theorem setDie_loadMode (d : Nat) (v : Die) : (setDie s d v).loadMode = s.loadMode := rfl
@[simp] theorem setDie_flockNo (d : Nat) (v : Die) : (setDie s d v).flockNo = s.flockNo := rfl
@[simp] theorem setDie_refclk (d : Nat) (v : Die) : (setDie s d v).refclk = s.refclk := rfl
@[simp] theorem setDie_cores (d : Nat) (v : Die) : (setDie s d v).cores = s.cores := rfl
@[simp] theorem setDie_atMs (d : Nat) (v : Die) : (setDie s d v).atMs = s.atMs := rfl
@[simp] theorem setDie_fence (d : Nat) (v : Die) : (setDie s d v).fence = s.fence := rfl
@[simp] theorem setDie_cluFence (d : Nat) (v : Die) : (setDie s d v).cluFence = s.cluFence := rfl
@[simp] theorem setDie_shift (d : Nat) (v : Die) : (setDie s d v).shift = s.shift := rfl
@[simp] theorem setDie_switches (d : Nat) (v : Die) : (setDie s d v).switches = s.switches := rfl
@[simp] theorem setDie_slices (d : Nat) (v : Die) : (setDie s d v).slices = s.slices := rfl
@[simp] theorem setDie_routers (d : Nat) (v : Die) : (setDie s d v).routers = s.routers := rfl
@[simp] theorem setDie_ends (d : Nat) (v : Die) : (setDie s d v).ends = s.ends := rfl
@[simp] theorem setDie_landing (d : Nat) (v : Die) : (setDie s d v).landing = s.landing := rfl
@[simp] theorem setDie_parts (d : Nat) (v : Die) : (setDie s d v).parts = s.parts := rfl
@[simp] theorem setDie_reusable (d : Nat) (v : Die) : (setDie s d v).reusable = s.reusable := rfl
@[simp] theorem setDie_buckets (d : Nat) (v : Die) : (setDie s d v).buckets = s.buckets := rfl
@[simp] theorem setDie_hbm (d : Nat) (v : Die) : (setDie s d v).hbm = s.hbm := rfl
@[simp] theorem setDie_ddr (d : Nat) (v : Die) : (setDie s d v).ddr = s.ddr := rfl
@[simp] theorem setDie_ddrSpeed (d : Nat) (v : Die) : (setDie s d v).ddrSpeed = s.ddrSpeed := rfl
@[simp] theorem setDie_ddrDimms (d : Nat) (v : Die) : (setDie s d v).ddrDimms = s.ddrDimms := rfl
@[simp] theorem setDie_ddrGib (d : Nat) (v : Die) : (setDie s d v).ddrGib = s.ddrGib := rfl
@[simp] theorem setDie_spares (d : Nat) (v : Die) : (setDie s d v).spares = s.spares := rfl
@[simp] theorem setDie_links (d : Nat) (v : Die) : (setDie s d v).links = s.links := rfl
@[simp] theorem setDie_halfLinks (d : Nat) (v : Die) : (setDie s d v).halfLinks = s.halfLinks := rfl
@[simp] theorem setDie_fused (d : Nat) (v : Die) : (setDie s d v).fused = s.fused := rfl
@[simp] theorem setDie_soft (d : Nat) (v : Die) : (setDie s d v).soft = s.soft := rfl
@[simp] theorem setDie_scree (d : Nat) (v : Die) : (setDie s d v).scree = s.scree := rfl
@[simp] theorem setDie_history (d : Nat) (v : Die) : (setDie s d v).history = s.history := rfl
@[simp] theorem setDie_charged (d : Nat) (v : Die) : (setDie s d v).charged = s.charged := rfl
@[simp] theorem setDie_dumps (d : Nat) (v : Die) : (setDie s d v).dumps = s.dumps := rfl
@[simp] theorem setDie_skipped (d : Nat) (v : Die) : (setDie s d v).skipped = s.skipped := rfl
@[simp] theorem setDie_sweepMin (d : Nat) (v : Die) : (setDie s d v).sweepMin = s.sweepMin := rfl
@[simp] theorem setDie_sweep (d : Nat) (v : Die) : (setDie s d v).sweep = s.sweep := rfl
@[simp] theorem setDie_sounding (d : Nat) (v : Die) : (setDie s d v).sounding = s.sounding := rfl
@[simp] theorem setDie_sweepFrom (d : Nat) (v : Die) : (setDie s d v).sweepFrom = s.sweepFrom := rfl
@[simp] theorem setDie_sweepSize (d : Nat) (v : Die) : (setDie s d v).sweepSize = s.sweepSize := rfl
@[simp] theorem setDie_sweepOut (d : Nat) (v : Die) : (setDie s d v).sweepOut = s.sweepOut := rfl
@[simp] theorem setDie_unsounded (d : Nat) (v : Die) : (setDie s d v).unsounded = s.unsounded := rfl
@[simp] theorem setDie_missed (d : Nat) (v : Die) : (setDie s d v).missed = s.missed := rfl
@[simp] theorem setDie_tapCount (d : Nat) (v : Die) : (setDie s d v).tapCount = s.tapCount := rfl
@[simp] theorem setDie_hbmMoved (d : Nat) (v : Die) : (setDie s d v).hbmMoved = s.hbmMoved := rfl
@[simp] theorem setDie_tapTurn (d : Nat) (v : Die) : (setDie s d v).tapTurn = s.tapTurn := rfl
@[simp] theorem setDie_genAt (d : Nat) (v : Die) : (setDie s d v).genAt = s.genAt := rfl
@[simp] theorem setDie_portMode (d : Nat) (v : Die) : (setDie s d v).portMode = s.portMode := rfl
@[simp] theorem setDie_modePend (d : Nat) (v : Die) : (setDie s d v).modePend = s.modePend := rfl
@[simp] theorem setDie_resetPend (d : Nat) (v : Die) : (setDie s d v).resetPend = s.resetPend := rfl
@[simp] theorem setDie_lports (d : Nat) (v : Die) : (setDie s d v).lports = s.lports := rfl
@[simp] theorem setDie_neigh (d : Nat) (v : Die) : (setDie s d v).neigh = s.neigh := rfl
@[simp] theorem setDie_netOut (d : Nat) (v : Die) : (setDie s d v).netOut = s.netOut := rfl
@[simp] theorem setDie_ptpPort (d : Nat) (v : Die) : (setDie s d v).ptpPort = s.ptpPort := rfl
@[simp] theorem setDie_ptpHeard (d : Nat) (v : Die) : (setDie s d v).ptpHeard = s.ptpHeard := rfl
@[simp] theorem setDie_ptpFree (d : Nat) (v : Die) : (setDie s d v).ptpFree = s.ptpFree := rfl
@[simp] theorem setDie_ptpSync (d : Nat) (v : Die) : (setDie s d v).ptpSync = s.ptpSync := rfl
@[simp] theorem setDie_ptpDelay (d : Nat) (v : Die) : (setDie s d v).ptpDelay = s.ptpDelay := rfl
@[simp] theorem setDie_ptpReq (d : Nat) (v : Die) : (setDie s d v).ptpReq = s.ptpReq := rfl
@[simp] theorem setDie_stamps (d : Nat) (v : Die) : (setDie s d v).stamps = s.stamps := rfl
@[simp] theorem setDie_qps (d : Nat) (v : Die) : (setDie s d v).qps = s.qps := rfl
@[simp] theorem setDie_regions (d : Nat) (v : Die) : (setDie s d v).regions = s.regions := rfl
@[simp] theorem setDie_cmds (d : Nat) (v : Die) : (setDie s d v).cmds = s.cmds := rfl
@[simp] theorem setDie_sent (d : Nat) (v : Die) : (setDie s d v).sent = s.sent := rfl
@[simp] theorem setDie_seqHigh (d : Nat) (v : Die) : (setDie s d v).seqHigh = s.seqHigh := rfl
@[simp] theorem setDie_seqSeen (d : Nat) (v : Die) : (setDie s d v).seqSeen = s.seqSeen := rfl
@[simp] theorem setDie_seqFlash (d : Nat) (v : Die) : (setDie s d v).seqFlash = s.seqFlash := rfl
@[simp] theorem setDie_power (d : Nat) (v : Die) : (setDie s d v).power = s.power := rfl
@[simp] theorem setDie_pwrLimit (d : Nat) (v : Die) : (setDie s d v).pwrLimit = s.pwrLimit := rfl
@[simp] theorem setDie_pwrRefused (d : Nat) (v : Die) : (setDie s d v).pwrRefused = s.pwrRefused := rfl
@[simp] theorem setDie_hbmPace (d : Nat) (v : Die) : (setDie s d v).hbmPace = s.hbmPace := rfl
@[simp] theorem setDie_stackPace (d : Nat) (v : Die) : (setDie s d v).stackPace = s.stackPace := rfl
@[simp] theorem setDie_brake (d : Nat) (v : Die) : (setDie s d v).brake = s.brake := rfl
@[simp] theorem setDie_temps (d : Nat) (v : Die) : (setDie s d v).temps = s.temps := rfl
@[simp] theorem setDie_restoredAt (d : Nat) (v : Die) : (setDie s d v).restoredAt = s.restoredAt := rfl
@[simp] theorem setDie_turn (d : Nat) (v : Die) : (setDie s d v).turn = s.turn := rfl
@[simp] theorem setDie_outBefore (d : Nat) (v : Die) : (setDie s d v).outBefore = s.outBefore := rfl
@[simp] theorem setDie_binAt (d : Nat) (v : Die) : (setDie s d v).binAt = s.binAt := rfl
@[simp] theorem setDie_trip (d : Nat) (v : Die) : (setDie s d v).trip = s.trip := rfl
@[simp] theorem setDie_resetLow (d : Nat) (v : Die) : (setDie s d v).resetLow = s.resetLow := rfl
@[simp] theorem setDie_flash (d : Nat) (v : Die) : (setDie s d v).flash = s.flash := rfl
@[simp] theorem setDie_meter (d : Nat) (v : Die) : (setDie s d v).meter = s.meter := rfl
@[simp] theorem setDie_jtagOut (d : Nat) (v : Die) : (setDie s d v).jtagOut = s.jtagOut := rfl
@[simp] theorem setDie_pending (d : Nat) (v : Die) : (setDie s d v).pending = s.pending := rfl

/-! ### setEnd -/

@[simp] theorem setEnd_product (x : Nat) (e : Endpoint) : (setEnd s x e).product = s.product := rfl
@[simp] theorem setEnd_fab (x : Nat) (e : Endpoint) : (setEnd s x e).fab = s.fab := rfl
@[simp] theorem setEnd_idKey (x : Nat) (e : Endpoint) : (setEnd s x e).idKey = s.idKey := rfl
@[simp] theorem setEnd_storageKey (x : Nat) (e : Endpoint) : (setEnd s x e).storageKey = s.storageKey := rfl
@[simp] theorem setEnd_meterUnread (x : Nat) (e : Endpoint) : (setEnd s x e).meterUnread = s.meterUnread := rfl
@[simp] theorem setEnd_timeBase (x : Nat) (e : Endpoint) : (setEnd s x e).timeBase = s.timeBase := rfl
@[simp] theorem setEnd_freeSeq (x : Nat) (e : Endpoint) : (setEnd s x e).freeSeq = s.freeSeq := rfl
@[simp] theorem setEnd_boot (x : Nat) (e : Endpoint) : (setEnd s x e).boot = s.boot := rfl
@[simp] theorem setEnd_bootFull (x : Nat) (e : Endpoint) : (setEnd s x e).bootFull = s.bootFull := rfl
@[simp] theorem setEnd_bootFrom (x : Nat) (e : Endpoint) : (setEnd s x e).bootFrom = s.bootFrom := rfl
@[simp] theorem setEnd_report (x : Nat) (e : Endpoint) : (setEnd s x e).report = s.report := rfl
@[simp] theorem setEnd_bootLog (x : Nat) (e : Endpoint) : (setEnd s x e).bootLog = s.bootLog := rfl
@[simp] theorem setEnd_ibis (x : Nat) (e : Endpoint) : (setEnd s x e).ibis = s.ibis := rfl
@[simp] theorem setEnd_i3cAddr (x : Nat) (e : Endpoint) : (setEnd s x e).i3cAddr = s.i3cAddr := rfl
@[simp] theorem setEnd_fw (x : Nat) (e : Endpoint) : (setEnd s x e).fw = s.fw := rfl
@[simp] theorem setEnd_service (x : Nat) (e : Endpoint) : (setEnd s x e).service = s.service := rfl
@[simp] theorem setEnd_ouvosUp (x : Nat) (e : Endpoint) : (setEnd s x e).ouvosUp = s.ouvosUp := rfl
@[simp] theorem setEnd_loadMode (x : Nat) (e : Endpoint) : (setEnd s x e).loadMode = s.loadMode := rfl
@[simp] theorem setEnd_flockNo (x : Nat) (e : Endpoint) : (setEnd s x e).flockNo = s.flockNo := rfl
@[simp] theorem setEnd_refclk (x : Nat) (e : Endpoint) : (setEnd s x e).refclk = s.refclk := rfl
@[simp] theorem setEnd_cores (x : Nat) (e : Endpoint) : (setEnd s x e).cores = s.cores := rfl
@[simp] theorem setEnd_atMs (x : Nat) (e : Endpoint) : (setEnd s x e).atMs = s.atMs := rfl
@[simp] theorem setEnd_fence (x : Nat) (e : Endpoint) : (setEnd s x e).fence = s.fence := rfl
@[simp] theorem setEnd_cluFence (x : Nat) (e : Endpoint) : (setEnd s x e).cluFence = s.cluFence := rfl
@[simp] theorem setEnd_shift (x : Nat) (e : Endpoint) : (setEnd s x e).shift = s.shift := rfl
@[simp] theorem setEnd_switches (x : Nat) (e : Endpoint) : (setEnd s x e).switches = s.switches := rfl
@[simp] theorem setEnd_slices (x : Nat) (e : Endpoint) : (setEnd s x e).slices = s.slices := rfl
@[simp] theorem setEnd_routers (x : Nat) (e : Endpoint) : (setEnd s x e).routers = s.routers := rfl
@[simp] theorem setEnd_landing (x : Nat) (e : Endpoint) : (setEnd s x e).landing = s.landing := rfl
@[simp] theorem setEnd_dies (x : Nat) (e : Endpoint) : (setEnd s x e).dies = s.dies := rfl
@[simp] theorem setEnd_parts (x : Nat) (e : Endpoint) : (setEnd s x e).parts = s.parts := rfl
@[simp] theorem setEnd_reusable (x : Nat) (e : Endpoint) : (setEnd s x e).reusable = s.reusable := rfl
@[simp] theorem setEnd_buckets (x : Nat) (e : Endpoint) : (setEnd s x e).buckets = s.buckets := rfl
@[simp] theorem setEnd_hbm (x : Nat) (e : Endpoint) : (setEnd s x e).hbm = s.hbm := rfl
@[simp] theorem setEnd_ddr (x : Nat) (e : Endpoint) : (setEnd s x e).ddr = s.ddr := rfl
@[simp] theorem setEnd_ddrSpeed (x : Nat) (e : Endpoint) : (setEnd s x e).ddrSpeed = s.ddrSpeed := rfl
@[simp] theorem setEnd_ddrDimms (x : Nat) (e : Endpoint) : (setEnd s x e).ddrDimms = s.ddrDimms := rfl
@[simp] theorem setEnd_ddrGib (x : Nat) (e : Endpoint) : (setEnd s x e).ddrGib = s.ddrGib := rfl
@[simp] theorem setEnd_spares (x : Nat) (e : Endpoint) : (setEnd s x e).spares = s.spares := rfl
@[simp] theorem setEnd_links (x : Nat) (e : Endpoint) : (setEnd s x e).links = s.links := rfl
@[simp] theorem setEnd_halfLinks (x : Nat) (e : Endpoint) : (setEnd s x e).halfLinks = s.halfLinks := rfl
@[simp] theorem setEnd_fused (x : Nat) (e : Endpoint) : (setEnd s x e).fused = s.fused := rfl
@[simp] theorem setEnd_soft (x : Nat) (e : Endpoint) : (setEnd s x e).soft = s.soft := rfl
@[simp] theorem setEnd_scree (x : Nat) (e : Endpoint) : (setEnd s x e).scree = s.scree := rfl
@[simp] theorem setEnd_history (x : Nat) (e : Endpoint) : (setEnd s x e).history = s.history := rfl
@[simp] theorem setEnd_charged (x : Nat) (e : Endpoint) : (setEnd s x e).charged = s.charged := rfl
@[simp] theorem setEnd_dumps (x : Nat) (e : Endpoint) : (setEnd s x e).dumps = s.dumps := rfl
@[simp] theorem setEnd_skipped (x : Nat) (e : Endpoint) : (setEnd s x e).skipped = s.skipped := rfl
@[simp] theorem setEnd_sweepMin (x : Nat) (e : Endpoint) : (setEnd s x e).sweepMin = s.sweepMin := rfl
@[simp] theorem setEnd_sweep (x : Nat) (e : Endpoint) : (setEnd s x e).sweep = s.sweep := rfl
@[simp] theorem setEnd_sounding (x : Nat) (e : Endpoint) : (setEnd s x e).sounding = s.sounding := rfl
@[simp] theorem setEnd_sweepFrom (x : Nat) (e : Endpoint) : (setEnd s x e).sweepFrom = s.sweepFrom := rfl
@[simp] theorem setEnd_sweepSize (x : Nat) (e : Endpoint) : (setEnd s x e).sweepSize = s.sweepSize := rfl
@[simp] theorem setEnd_sweepOut (x : Nat) (e : Endpoint) : (setEnd s x e).sweepOut = s.sweepOut := rfl
@[simp] theorem setEnd_unsounded (x : Nat) (e : Endpoint) : (setEnd s x e).unsounded = s.unsounded := rfl
@[simp] theorem setEnd_missed (x : Nat) (e : Endpoint) : (setEnd s x e).missed = s.missed := rfl
@[simp] theorem setEnd_tapCount (x : Nat) (e : Endpoint) : (setEnd s x e).tapCount = s.tapCount := rfl
@[simp] theorem setEnd_hbmMoved (x : Nat) (e : Endpoint) : (setEnd s x e).hbmMoved = s.hbmMoved := rfl
@[simp] theorem setEnd_tapTurn (x : Nat) (e : Endpoint) : (setEnd s x e).tapTurn = s.tapTurn := rfl
@[simp] theorem setEnd_genAt (x : Nat) (e : Endpoint) : (setEnd s x e).genAt = s.genAt := rfl
@[simp] theorem setEnd_portMode (x : Nat) (e : Endpoint) : (setEnd s x e).portMode = s.portMode := rfl
@[simp] theorem setEnd_modePend (x : Nat) (e : Endpoint) : (setEnd s x e).modePend = s.modePend := rfl
@[simp] theorem setEnd_resetPend (x : Nat) (e : Endpoint) : (setEnd s x e).resetPend = s.resetPend := rfl
@[simp] theorem setEnd_lports (x : Nat) (e : Endpoint) : (setEnd s x e).lports = s.lports := rfl
@[simp] theorem setEnd_neigh (x : Nat) (e : Endpoint) : (setEnd s x e).neigh = s.neigh := rfl
@[simp] theorem setEnd_netOut (x : Nat) (e : Endpoint) : (setEnd s x e).netOut = s.netOut := rfl
@[simp] theorem setEnd_ptpPort (x : Nat) (e : Endpoint) : (setEnd s x e).ptpPort = s.ptpPort := rfl
@[simp] theorem setEnd_ptpHeard (x : Nat) (e : Endpoint) : (setEnd s x e).ptpHeard = s.ptpHeard := rfl
@[simp] theorem setEnd_ptpFree (x : Nat) (e : Endpoint) : (setEnd s x e).ptpFree = s.ptpFree := rfl
@[simp] theorem setEnd_ptpSync (x : Nat) (e : Endpoint) : (setEnd s x e).ptpSync = s.ptpSync := rfl
@[simp] theorem setEnd_ptpDelay (x : Nat) (e : Endpoint) : (setEnd s x e).ptpDelay = s.ptpDelay := rfl
@[simp] theorem setEnd_ptpReq (x : Nat) (e : Endpoint) : (setEnd s x e).ptpReq = s.ptpReq := rfl
@[simp] theorem setEnd_stamps (x : Nat) (e : Endpoint) : (setEnd s x e).stamps = s.stamps := rfl
@[simp] theorem setEnd_qps (x : Nat) (e : Endpoint) : (setEnd s x e).qps = s.qps := rfl
@[simp] theorem setEnd_regions (x : Nat) (e : Endpoint) : (setEnd s x e).regions = s.regions := rfl
@[simp] theorem setEnd_cmds (x : Nat) (e : Endpoint) : (setEnd s x e).cmds = s.cmds := rfl
@[simp] theorem setEnd_sent (x : Nat) (e : Endpoint) : (setEnd s x e).sent = s.sent := rfl
@[simp] theorem setEnd_seqHigh (x : Nat) (e : Endpoint) : (setEnd s x e).seqHigh = s.seqHigh := rfl
@[simp] theorem setEnd_seqSeen (x : Nat) (e : Endpoint) : (setEnd s x e).seqSeen = s.seqSeen := rfl
@[simp] theorem setEnd_seqFlash (x : Nat) (e : Endpoint) : (setEnd s x e).seqFlash = s.seqFlash := rfl
@[simp] theorem setEnd_power (x : Nat) (e : Endpoint) : (setEnd s x e).power = s.power := rfl
@[simp] theorem setEnd_pwrLimit (x : Nat) (e : Endpoint) : (setEnd s x e).pwrLimit = s.pwrLimit := rfl
@[simp] theorem setEnd_pwrRefused (x : Nat) (e : Endpoint) : (setEnd s x e).pwrRefused = s.pwrRefused := rfl
@[simp] theorem setEnd_hbmPace (x : Nat) (e : Endpoint) : (setEnd s x e).hbmPace = s.hbmPace := rfl
@[simp] theorem setEnd_stackPace (x : Nat) (e : Endpoint) : (setEnd s x e).stackPace = s.stackPace := rfl
@[simp] theorem setEnd_brake (x : Nat) (e : Endpoint) : (setEnd s x e).brake = s.brake := rfl
@[simp] theorem setEnd_temps (x : Nat) (e : Endpoint) : (setEnd s x e).temps = s.temps := rfl
@[simp] theorem setEnd_restoredAt (x : Nat) (e : Endpoint) : (setEnd s x e).restoredAt = s.restoredAt := rfl
@[simp] theorem setEnd_turn (x : Nat) (e : Endpoint) : (setEnd s x e).turn = s.turn := rfl
@[simp] theorem setEnd_outBefore (x : Nat) (e : Endpoint) : (setEnd s x e).outBefore = s.outBefore := rfl
@[simp] theorem setEnd_binAt (x : Nat) (e : Endpoint) : (setEnd s x e).binAt = s.binAt := rfl
@[simp] theorem setEnd_trip (x : Nat) (e : Endpoint) : (setEnd s x e).trip = s.trip := rfl
@[simp] theorem setEnd_resetLow (x : Nat) (e : Endpoint) : (setEnd s x e).resetLow = s.resetLow := rfl
@[simp] theorem setEnd_flash (x : Nat) (e : Endpoint) : (setEnd s x e).flash = s.flash := rfl
@[simp] theorem setEnd_meter (x : Nat) (e : Endpoint) : (setEnd s x e).meter = s.meter := rfl
@[simp] theorem setEnd_jtagOut (x : Nat) (e : Endpoint) : (setEnd s x e).jtagOut = s.jtagOut := rfl
@[simp] theorem setEnd_pending (x : Nat) (e : Endpoint) : (setEnd s x e).pending = s.pending := rfl

/-! ### setSlice -/

@[simp] theorem setSlice_product (k : Nat) (v : Slice) : (setSlice s k v).product = s.product := rfl
@[simp] theorem setSlice_fab (k : Nat) (v : Slice) : (setSlice s k v).fab = s.fab := rfl
@[simp] theorem setSlice_idKey (k : Nat) (v : Slice) : (setSlice s k v).idKey = s.idKey := rfl
@[simp] theorem setSlice_storageKey (k : Nat) (v : Slice) : (setSlice s k v).storageKey = s.storageKey := rfl
@[simp] theorem setSlice_meterUnread (k : Nat) (v : Slice) : (setSlice s k v).meterUnread = s.meterUnread := rfl
@[simp] theorem setSlice_timeBase (k : Nat) (v : Slice) : (setSlice s k v).timeBase = s.timeBase := rfl
@[simp] theorem setSlice_freeSeq (k : Nat) (v : Slice) : (setSlice s k v).freeSeq = s.freeSeq := rfl
@[simp] theorem setSlice_boot (k : Nat) (v : Slice) : (setSlice s k v).boot = s.boot := rfl
@[simp] theorem setSlice_bootFull (k : Nat) (v : Slice) : (setSlice s k v).bootFull = s.bootFull := rfl
@[simp] theorem setSlice_bootFrom (k : Nat) (v : Slice) : (setSlice s k v).bootFrom = s.bootFrom := rfl
@[simp] theorem setSlice_report (k : Nat) (v : Slice) : (setSlice s k v).report = s.report := rfl
@[simp] theorem setSlice_bootLog (k : Nat) (v : Slice) : (setSlice s k v).bootLog = s.bootLog := rfl
@[simp] theorem setSlice_ibis (k : Nat) (v : Slice) : (setSlice s k v).ibis = s.ibis := rfl
@[simp] theorem setSlice_i3cAddr (k : Nat) (v : Slice) : (setSlice s k v).i3cAddr = s.i3cAddr := rfl
@[simp] theorem setSlice_fw (k : Nat) (v : Slice) : (setSlice s k v).fw = s.fw := rfl
@[simp] theorem setSlice_service (k : Nat) (v : Slice) : (setSlice s k v).service = s.service := rfl
@[simp] theorem setSlice_ouvosUp (k : Nat) (v : Slice) : (setSlice s k v).ouvosUp = s.ouvosUp := rfl
@[simp] theorem setSlice_loadMode (k : Nat) (v : Slice) : (setSlice s k v).loadMode = s.loadMode := rfl
@[simp] theorem setSlice_flockNo (k : Nat) (v : Slice) : (setSlice s k v).flockNo = s.flockNo := rfl
@[simp] theorem setSlice_refclk (k : Nat) (v : Slice) : (setSlice s k v).refclk = s.refclk := rfl
@[simp] theorem setSlice_cores (k : Nat) (v : Slice) : (setSlice s k v).cores = s.cores := rfl
@[simp] theorem setSlice_atMs (k : Nat) (v : Slice) : (setSlice s k v).atMs = s.atMs := rfl
@[simp] theorem setSlice_fence (k : Nat) (v : Slice) : (setSlice s k v).fence = s.fence := rfl
@[simp] theorem setSlice_cluFence (k : Nat) (v : Slice) : (setSlice s k v).cluFence = s.cluFence := rfl
@[simp] theorem setSlice_shift (k : Nat) (v : Slice) : (setSlice s k v).shift = s.shift := rfl
@[simp] theorem setSlice_switches (k : Nat) (v : Slice) : (setSlice s k v).switches = s.switches := rfl
@[simp] theorem setSlice_routers (k : Nat) (v : Slice) : (setSlice s k v).routers = s.routers := rfl
@[simp] theorem setSlice_ends (k : Nat) (v : Slice) : (setSlice s k v).ends = s.ends := rfl
@[simp] theorem setSlice_landing (k : Nat) (v : Slice) : (setSlice s k v).landing = s.landing := rfl
@[simp] theorem setSlice_dies (k : Nat) (v : Slice) : (setSlice s k v).dies = s.dies := rfl
@[simp] theorem setSlice_parts (k : Nat) (v : Slice) : (setSlice s k v).parts = s.parts := rfl
@[simp] theorem setSlice_reusable (k : Nat) (v : Slice) : (setSlice s k v).reusable = s.reusable := rfl
@[simp] theorem setSlice_buckets (k : Nat) (v : Slice) : (setSlice s k v).buckets = s.buckets := rfl
@[simp] theorem setSlice_hbm (k : Nat) (v : Slice) : (setSlice s k v).hbm = s.hbm := rfl
@[simp] theorem setSlice_ddr (k : Nat) (v : Slice) : (setSlice s k v).ddr = s.ddr := rfl
@[simp] theorem setSlice_ddrSpeed (k : Nat) (v : Slice) : (setSlice s k v).ddrSpeed = s.ddrSpeed := rfl
@[simp] theorem setSlice_ddrDimms (k : Nat) (v : Slice) : (setSlice s k v).ddrDimms = s.ddrDimms := rfl
@[simp] theorem setSlice_ddrGib (k : Nat) (v : Slice) : (setSlice s k v).ddrGib = s.ddrGib := rfl
@[simp] theorem setSlice_spares (k : Nat) (v : Slice) : (setSlice s k v).spares = s.spares := rfl
@[simp] theorem setSlice_links (k : Nat) (v : Slice) : (setSlice s k v).links = s.links := rfl
@[simp] theorem setSlice_halfLinks (k : Nat) (v : Slice) : (setSlice s k v).halfLinks = s.halfLinks := rfl
@[simp] theorem setSlice_fused (k : Nat) (v : Slice) : (setSlice s k v).fused = s.fused := rfl
@[simp] theorem setSlice_soft (k : Nat) (v : Slice) : (setSlice s k v).soft = s.soft := rfl
@[simp] theorem setSlice_scree (k : Nat) (v : Slice) : (setSlice s k v).scree = s.scree := rfl
@[simp] theorem setSlice_history (k : Nat) (v : Slice) : (setSlice s k v).history = s.history := rfl
@[simp] theorem setSlice_charged (k : Nat) (v : Slice) : (setSlice s k v).charged = s.charged := rfl
@[simp] theorem setSlice_dumps (k : Nat) (v : Slice) : (setSlice s k v).dumps = s.dumps := rfl
@[simp] theorem setSlice_skipped (k : Nat) (v : Slice) : (setSlice s k v).skipped = s.skipped := rfl
@[simp] theorem setSlice_sweepMin (k : Nat) (v : Slice) : (setSlice s k v).sweepMin = s.sweepMin := rfl
@[simp] theorem setSlice_sweep (k : Nat) (v : Slice) : (setSlice s k v).sweep = s.sweep := rfl
@[simp] theorem setSlice_sounding (k : Nat) (v : Slice) : (setSlice s k v).sounding = s.sounding := rfl
@[simp] theorem setSlice_sweepFrom (k : Nat) (v : Slice) : (setSlice s k v).sweepFrom = s.sweepFrom := rfl
@[simp] theorem setSlice_sweepSize (k : Nat) (v : Slice) : (setSlice s k v).sweepSize = s.sweepSize := rfl
@[simp] theorem setSlice_sweepOut (k : Nat) (v : Slice) : (setSlice s k v).sweepOut = s.sweepOut := rfl
@[simp] theorem setSlice_unsounded (k : Nat) (v : Slice) : (setSlice s k v).unsounded = s.unsounded := rfl
@[simp] theorem setSlice_missed (k : Nat) (v : Slice) : (setSlice s k v).missed = s.missed := rfl
@[simp] theorem setSlice_tapCount (k : Nat) (v : Slice) : (setSlice s k v).tapCount = s.tapCount := rfl
@[simp] theorem setSlice_hbmMoved (k : Nat) (v : Slice) : (setSlice s k v).hbmMoved = s.hbmMoved := rfl
@[simp] theorem setSlice_tapTurn (k : Nat) (v : Slice) : (setSlice s k v).tapTurn = s.tapTurn := rfl
@[simp] theorem setSlice_genAt (k : Nat) (v : Slice) : (setSlice s k v).genAt = s.genAt := rfl
@[simp] theorem setSlice_portMode (k : Nat) (v : Slice) : (setSlice s k v).portMode = s.portMode := rfl
@[simp] theorem setSlice_modePend (k : Nat) (v : Slice) : (setSlice s k v).modePend = s.modePend := rfl
@[simp] theorem setSlice_resetPend (k : Nat) (v : Slice) : (setSlice s k v).resetPend = s.resetPend := rfl
@[simp] theorem setSlice_lports (k : Nat) (v : Slice) : (setSlice s k v).lports = s.lports := rfl
@[simp] theorem setSlice_neigh (k : Nat) (v : Slice) : (setSlice s k v).neigh = s.neigh := rfl
@[simp] theorem setSlice_netOut (k : Nat) (v : Slice) : (setSlice s k v).netOut = s.netOut := rfl
@[simp] theorem setSlice_ptpPort (k : Nat) (v : Slice) : (setSlice s k v).ptpPort = s.ptpPort := rfl
@[simp] theorem setSlice_ptpHeard (k : Nat) (v : Slice) : (setSlice s k v).ptpHeard = s.ptpHeard := rfl
@[simp] theorem setSlice_ptpFree (k : Nat) (v : Slice) : (setSlice s k v).ptpFree = s.ptpFree := rfl
@[simp] theorem setSlice_ptpSync (k : Nat) (v : Slice) : (setSlice s k v).ptpSync = s.ptpSync := rfl
@[simp] theorem setSlice_ptpDelay (k : Nat) (v : Slice) : (setSlice s k v).ptpDelay = s.ptpDelay := rfl
@[simp] theorem setSlice_ptpReq (k : Nat) (v : Slice) : (setSlice s k v).ptpReq = s.ptpReq := rfl
@[simp] theorem setSlice_stamps (k : Nat) (v : Slice) : (setSlice s k v).stamps = s.stamps := rfl
@[simp] theorem setSlice_qps (k : Nat) (v : Slice) : (setSlice s k v).qps = s.qps := rfl
@[simp] theorem setSlice_regions (k : Nat) (v : Slice) : (setSlice s k v).regions = s.regions := rfl
@[simp] theorem setSlice_cmds (k : Nat) (v : Slice) : (setSlice s k v).cmds = s.cmds := rfl
@[simp] theorem setSlice_sent (k : Nat) (v : Slice) : (setSlice s k v).sent = s.sent := rfl
@[simp] theorem setSlice_seqHigh (k : Nat) (v : Slice) : (setSlice s k v).seqHigh = s.seqHigh := rfl
@[simp] theorem setSlice_seqSeen (k : Nat) (v : Slice) : (setSlice s k v).seqSeen = s.seqSeen := rfl
@[simp] theorem setSlice_seqFlash (k : Nat) (v : Slice) : (setSlice s k v).seqFlash = s.seqFlash := rfl
@[simp] theorem setSlice_power (k : Nat) (v : Slice) : (setSlice s k v).power = s.power := rfl
@[simp] theorem setSlice_pwrLimit (k : Nat) (v : Slice) : (setSlice s k v).pwrLimit = s.pwrLimit := rfl
@[simp] theorem setSlice_pwrRefused (k : Nat) (v : Slice) : (setSlice s k v).pwrRefused = s.pwrRefused := rfl
@[simp] theorem setSlice_hbmPace (k : Nat) (v : Slice) : (setSlice s k v).hbmPace = s.hbmPace := rfl
@[simp] theorem setSlice_stackPace (k : Nat) (v : Slice) : (setSlice s k v).stackPace = s.stackPace := rfl
@[simp] theorem setSlice_brake (k : Nat) (v : Slice) : (setSlice s k v).brake = s.brake := rfl
@[simp] theorem setSlice_temps (k : Nat) (v : Slice) : (setSlice s k v).temps = s.temps := rfl
@[simp] theorem setSlice_restoredAt (k : Nat) (v : Slice) : (setSlice s k v).restoredAt = s.restoredAt := rfl
@[simp] theorem setSlice_turn (k : Nat) (v : Slice) : (setSlice s k v).turn = s.turn := rfl
@[simp] theorem setSlice_outBefore (k : Nat) (v : Slice) : (setSlice s k v).outBefore = s.outBefore := rfl
@[simp] theorem setSlice_binAt (k : Nat) (v : Slice) : (setSlice s k v).binAt = s.binAt := rfl
@[simp] theorem setSlice_trip (k : Nat) (v : Slice) : (setSlice s k v).trip = s.trip := rfl
@[simp] theorem setSlice_resetLow (k : Nat) (v : Slice) : (setSlice s k v).resetLow = s.resetLow := rfl
@[simp] theorem setSlice_flash (k : Nat) (v : Slice) : (setSlice s k v).flash = s.flash := rfl
@[simp] theorem setSlice_meter (k : Nat) (v : Slice) : (setSlice s k v).meter = s.meter := rfl
@[simp] theorem setSlice_jtagOut (k : Nat) (v : Slice) : (setSlice s k v).jtagOut = s.jtagOut := rfl
@[simp] theorem setSlice_pending (k : Nat) (v : Slice) : (setSlice s k v).pending = s.pending := rfl

/-! ### setSwitch -/

@[simp] theorem setSwitch_product (p : Nat) (w : Switch) : (setSwitch s p w).product = s.product := rfl
@[simp] theorem setSwitch_fab (p : Nat) (w : Switch) : (setSwitch s p w).fab = s.fab := rfl
@[simp] theorem setSwitch_idKey (p : Nat) (w : Switch) : (setSwitch s p w).idKey = s.idKey := rfl
@[simp] theorem setSwitch_storageKey (p : Nat) (w : Switch) : (setSwitch s p w).storageKey = s.storageKey := rfl
@[simp] theorem setSwitch_meterUnread (p : Nat) (w : Switch) : (setSwitch s p w).meterUnread = s.meterUnread := rfl
@[simp] theorem setSwitch_timeBase (p : Nat) (w : Switch) : (setSwitch s p w).timeBase = s.timeBase := rfl
@[simp] theorem setSwitch_freeSeq (p : Nat) (w : Switch) : (setSwitch s p w).freeSeq = s.freeSeq := rfl
@[simp] theorem setSwitch_boot (p : Nat) (w : Switch) : (setSwitch s p w).boot = s.boot := rfl
@[simp] theorem setSwitch_bootFull (p : Nat) (w : Switch) : (setSwitch s p w).bootFull = s.bootFull := rfl
@[simp] theorem setSwitch_bootFrom (p : Nat) (w : Switch) : (setSwitch s p w).bootFrom = s.bootFrom := rfl
@[simp] theorem setSwitch_report (p : Nat) (w : Switch) : (setSwitch s p w).report = s.report := rfl
@[simp] theorem setSwitch_bootLog (p : Nat) (w : Switch) : (setSwitch s p w).bootLog = s.bootLog := rfl
@[simp] theorem setSwitch_ibis (p : Nat) (w : Switch) : (setSwitch s p w).ibis = s.ibis := rfl
@[simp] theorem setSwitch_i3cAddr (p : Nat) (w : Switch) : (setSwitch s p w).i3cAddr = s.i3cAddr := rfl
@[simp] theorem setSwitch_fw (p : Nat) (w : Switch) : (setSwitch s p w).fw = s.fw := rfl
@[simp] theorem setSwitch_service (p : Nat) (w : Switch) : (setSwitch s p w).service = s.service := rfl
@[simp] theorem setSwitch_ouvosUp (p : Nat) (w : Switch) : (setSwitch s p w).ouvosUp = s.ouvosUp := rfl
@[simp] theorem setSwitch_loadMode (p : Nat) (w : Switch) : (setSwitch s p w).loadMode = s.loadMode := rfl
@[simp] theorem setSwitch_flockNo (p : Nat) (w : Switch) : (setSwitch s p w).flockNo = s.flockNo := rfl
@[simp] theorem setSwitch_refclk (p : Nat) (w : Switch) : (setSwitch s p w).refclk = s.refclk := rfl
@[simp] theorem setSwitch_cores (p : Nat) (w : Switch) : (setSwitch s p w).cores = s.cores := rfl
@[simp] theorem setSwitch_atMs (p : Nat) (w : Switch) : (setSwitch s p w).atMs = s.atMs := rfl
@[simp] theorem setSwitch_fence (p : Nat) (w : Switch) : (setSwitch s p w).fence = s.fence := rfl
@[simp] theorem setSwitch_cluFence (p : Nat) (w : Switch) : (setSwitch s p w).cluFence = s.cluFence := rfl
@[simp] theorem setSwitch_shift (p : Nat) (w : Switch) : (setSwitch s p w).shift = s.shift := rfl
@[simp] theorem setSwitch_slices (p : Nat) (w : Switch) : (setSwitch s p w).slices = s.slices := rfl
@[simp] theorem setSwitch_routers (p : Nat) (w : Switch) : (setSwitch s p w).routers = s.routers := rfl
@[simp] theorem setSwitch_ends (p : Nat) (w : Switch) : (setSwitch s p w).ends = s.ends := rfl
@[simp] theorem setSwitch_landing (p : Nat) (w : Switch) : (setSwitch s p w).landing = s.landing := rfl
@[simp] theorem setSwitch_dies (p : Nat) (w : Switch) : (setSwitch s p w).dies = s.dies := rfl
@[simp] theorem setSwitch_parts (p : Nat) (w : Switch) : (setSwitch s p w).parts = s.parts := rfl
@[simp] theorem setSwitch_reusable (p : Nat) (w : Switch) : (setSwitch s p w).reusable = s.reusable := rfl
@[simp] theorem setSwitch_buckets (p : Nat) (w : Switch) : (setSwitch s p w).buckets = s.buckets := rfl
@[simp] theorem setSwitch_hbm (p : Nat) (w : Switch) : (setSwitch s p w).hbm = s.hbm := rfl
@[simp] theorem setSwitch_ddr (p : Nat) (w : Switch) : (setSwitch s p w).ddr = s.ddr := rfl
@[simp] theorem setSwitch_ddrSpeed (p : Nat) (w : Switch) : (setSwitch s p w).ddrSpeed = s.ddrSpeed := rfl
@[simp] theorem setSwitch_ddrDimms (p : Nat) (w : Switch) : (setSwitch s p w).ddrDimms = s.ddrDimms := rfl
@[simp] theorem setSwitch_ddrGib (p : Nat) (w : Switch) : (setSwitch s p w).ddrGib = s.ddrGib := rfl
@[simp] theorem setSwitch_spares (p : Nat) (w : Switch) : (setSwitch s p w).spares = s.spares := rfl
@[simp] theorem setSwitch_links (p : Nat) (w : Switch) : (setSwitch s p w).links = s.links := rfl
@[simp] theorem setSwitch_halfLinks (p : Nat) (w : Switch) : (setSwitch s p w).halfLinks = s.halfLinks := rfl
@[simp] theorem setSwitch_fused (p : Nat) (w : Switch) : (setSwitch s p w).fused = s.fused := rfl
@[simp] theorem setSwitch_soft (p : Nat) (w : Switch) : (setSwitch s p w).soft = s.soft := rfl
@[simp] theorem setSwitch_scree (p : Nat) (w : Switch) : (setSwitch s p w).scree = s.scree := rfl
@[simp] theorem setSwitch_history (p : Nat) (w : Switch) : (setSwitch s p w).history = s.history := rfl
@[simp] theorem setSwitch_charged (p : Nat) (w : Switch) : (setSwitch s p w).charged = s.charged := rfl
@[simp] theorem setSwitch_dumps (p : Nat) (w : Switch) : (setSwitch s p w).dumps = s.dumps := rfl
@[simp] theorem setSwitch_skipped (p : Nat) (w : Switch) : (setSwitch s p w).skipped = s.skipped := rfl
@[simp] theorem setSwitch_sweepMin (p : Nat) (w : Switch) : (setSwitch s p w).sweepMin = s.sweepMin := rfl
@[simp] theorem setSwitch_sweep (p : Nat) (w : Switch) : (setSwitch s p w).sweep = s.sweep := rfl
@[simp] theorem setSwitch_sounding (p : Nat) (w : Switch) : (setSwitch s p w).sounding = s.sounding := rfl
@[simp] theorem setSwitch_sweepFrom (p : Nat) (w : Switch) : (setSwitch s p w).sweepFrom = s.sweepFrom := rfl
@[simp] theorem setSwitch_sweepSize (p : Nat) (w : Switch) : (setSwitch s p w).sweepSize = s.sweepSize := rfl
@[simp] theorem setSwitch_sweepOut (p : Nat) (w : Switch) : (setSwitch s p w).sweepOut = s.sweepOut := rfl
@[simp] theorem setSwitch_unsounded (p : Nat) (w : Switch) : (setSwitch s p w).unsounded = s.unsounded := rfl
@[simp] theorem setSwitch_missed (p : Nat) (w : Switch) : (setSwitch s p w).missed = s.missed := rfl
@[simp] theorem setSwitch_tapCount (p : Nat) (w : Switch) : (setSwitch s p w).tapCount = s.tapCount := rfl
@[simp] theorem setSwitch_hbmMoved (p : Nat) (w : Switch) : (setSwitch s p w).hbmMoved = s.hbmMoved := rfl
@[simp] theorem setSwitch_tapTurn (p : Nat) (w : Switch) : (setSwitch s p w).tapTurn = s.tapTurn := rfl
@[simp] theorem setSwitch_genAt (p : Nat) (w : Switch) : (setSwitch s p w).genAt = s.genAt := rfl
@[simp] theorem setSwitch_portMode (p : Nat) (w : Switch) : (setSwitch s p w).portMode = s.portMode := rfl
@[simp] theorem setSwitch_modePend (p : Nat) (w : Switch) : (setSwitch s p w).modePend = s.modePend := rfl
@[simp] theorem setSwitch_resetPend (p : Nat) (w : Switch) : (setSwitch s p w).resetPend = s.resetPend := rfl
@[simp] theorem setSwitch_lports (p : Nat) (w : Switch) : (setSwitch s p w).lports = s.lports := rfl
@[simp] theorem setSwitch_neigh (p : Nat) (w : Switch) : (setSwitch s p w).neigh = s.neigh := rfl
@[simp] theorem setSwitch_netOut (p : Nat) (w : Switch) : (setSwitch s p w).netOut = s.netOut := rfl
@[simp] theorem setSwitch_ptpPort (p : Nat) (w : Switch) : (setSwitch s p w).ptpPort = s.ptpPort := rfl
@[simp] theorem setSwitch_ptpHeard (p : Nat) (w : Switch) : (setSwitch s p w).ptpHeard = s.ptpHeard := rfl
@[simp] theorem setSwitch_ptpFree (p : Nat) (w : Switch) : (setSwitch s p w).ptpFree = s.ptpFree := rfl
@[simp] theorem setSwitch_ptpSync (p : Nat) (w : Switch) : (setSwitch s p w).ptpSync = s.ptpSync := rfl
@[simp] theorem setSwitch_ptpDelay (p : Nat) (w : Switch) : (setSwitch s p w).ptpDelay = s.ptpDelay := rfl
@[simp] theorem setSwitch_ptpReq (p : Nat) (w : Switch) : (setSwitch s p w).ptpReq = s.ptpReq := rfl
@[simp] theorem setSwitch_stamps (p : Nat) (w : Switch) : (setSwitch s p w).stamps = s.stamps := rfl
@[simp] theorem setSwitch_qps (p : Nat) (w : Switch) : (setSwitch s p w).qps = s.qps := rfl
@[simp] theorem setSwitch_regions (p : Nat) (w : Switch) : (setSwitch s p w).regions = s.regions := rfl
@[simp] theorem setSwitch_cmds (p : Nat) (w : Switch) : (setSwitch s p w).cmds = s.cmds := rfl
@[simp] theorem setSwitch_sent (p : Nat) (w : Switch) : (setSwitch s p w).sent = s.sent := rfl
@[simp] theorem setSwitch_seqHigh (p : Nat) (w : Switch) : (setSwitch s p w).seqHigh = s.seqHigh := rfl
@[simp] theorem setSwitch_seqSeen (p : Nat) (w : Switch) : (setSwitch s p w).seqSeen = s.seqSeen := rfl
@[simp] theorem setSwitch_seqFlash (p : Nat) (w : Switch) : (setSwitch s p w).seqFlash = s.seqFlash := rfl
@[simp] theorem setSwitch_power (p : Nat) (w : Switch) : (setSwitch s p w).power = s.power := rfl
@[simp] theorem setSwitch_pwrLimit (p : Nat) (w : Switch) : (setSwitch s p w).pwrLimit = s.pwrLimit := rfl
@[simp] theorem setSwitch_pwrRefused (p : Nat) (w : Switch) : (setSwitch s p w).pwrRefused = s.pwrRefused := rfl
@[simp] theorem setSwitch_hbmPace (p : Nat) (w : Switch) : (setSwitch s p w).hbmPace = s.hbmPace := rfl
@[simp] theorem setSwitch_stackPace (p : Nat) (w : Switch) : (setSwitch s p w).stackPace = s.stackPace := rfl
@[simp] theorem setSwitch_brake (p : Nat) (w : Switch) : (setSwitch s p w).brake = s.brake := rfl
@[simp] theorem setSwitch_temps (p : Nat) (w : Switch) : (setSwitch s p w).temps = s.temps := rfl
@[simp] theorem setSwitch_restoredAt (p : Nat) (w : Switch) : (setSwitch s p w).restoredAt = s.restoredAt := rfl
@[simp] theorem setSwitch_turn (p : Nat) (w : Switch) : (setSwitch s p w).turn = s.turn := rfl
@[simp] theorem setSwitch_outBefore (p : Nat) (w : Switch) : (setSwitch s p w).outBefore = s.outBefore := rfl
@[simp] theorem setSwitch_binAt (p : Nat) (w : Switch) : (setSwitch s p w).binAt = s.binAt := rfl
@[simp] theorem setSwitch_trip (p : Nat) (w : Switch) : (setSwitch s p w).trip = s.trip := rfl
@[simp] theorem setSwitch_resetLow (p : Nat) (w : Switch) : (setSwitch s p w).resetLow = s.resetLow := rfl
@[simp] theorem setSwitch_flash (p : Nat) (w : Switch) : (setSwitch s p w).flash = s.flash := rfl
@[simp] theorem setSwitch_meter (p : Nat) (w : Switch) : (setSwitch s p w).meter = s.meter := rfl
@[simp] theorem setSwitch_jtagOut (p : Nat) (w : Switch) : (setSwitch s p w).jtagOut = s.jtagOut := rfl
@[simp] theorem setSwitch_pending (p : Nat) (w : Switch) : (setSwitch s p w).pending = s.pending := rfl

/-! ### setRouter -/

@[simp] theorem setRouter_product (r : Nat) (v : Router) : (setRouter s r v).product = s.product := rfl
@[simp] theorem setRouter_fab (r : Nat) (v : Router) : (setRouter s r v).fab = s.fab := rfl
@[simp] theorem setRouter_idKey (r : Nat) (v : Router) : (setRouter s r v).idKey = s.idKey := rfl
@[simp] theorem setRouter_storageKey (r : Nat) (v : Router) : (setRouter s r v).storageKey = s.storageKey := rfl
@[simp] theorem setRouter_meterUnread (r : Nat) (v : Router) : (setRouter s r v).meterUnread = s.meterUnread := rfl
@[simp] theorem setRouter_timeBase (r : Nat) (v : Router) : (setRouter s r v).timeBase = s.timeBase := rfl
@[simp] theorem setRouter_freeSeq (r : Nat) (v : Router) : (setRouter s r v).freeSeq = s.freeSeq := rfl
@[simp] theorem setRouter_boot (r : Nat) (v : Router) : (setRouter s r v).boot = s.boot := rfl
@[simp] theorem setRouter_bootFull (r : Nat) (v : Router) : (setRouter s r v).bootFull = s.bootFull := rfl
@[simp] theorem setRouter_bootFrom (r : Nat) (v : Router) : (setRouter s r v).bootFrom = s.bootFrom := rfl
@[simp] theorem setRouter_report (r : Nat) (v : Router) : (setRouter s r v).report = s.report := rfl
@[simp] theorem setRouter_bootLog (r : Nat) (v : Router) : (setRouter s r v).bootLog = s.bootLog := rfl
@[simp] theorem setRouter_ibis (r : Nat) (v : Router) : (setRouter s r v).ibis = s.ibis := rfl
@[simp] theorem setRouter_i3cAddr (r : Nat) (v : Router) : (setRouter s r v).i3cAddr = s.i3cAddr := rfl
@[simp] theorem setRouter_fw (r : Nat) (v : Router) : (setRouter s r v).fw = s.fw := rfl
@[simp] theorem setRouter_service (r : Nat) (v : Router) : (setRouter s r v).service = s.service := rfl
@[simp] theorem setRouter_ouvosUp (r : Nat) (v : Router) : (setRouter s r v).ouvosUp = s.ouvosUp := rfl
@[simp] theorem setRouter_loadMode (r : Nat) (v : Router) : (setRouter s r v).loadMode = s.loadMode := rfl
@[simp] theorem setRouter_flockNo (r : Nat) (v : Router) : (setRouter s r v).flockNo = s.flockNo := rfl
@[simp] theorem setRouter_refclk (r : Nat) (v : Router) : (setRouter s r v).refclk = s.refclk := rfl
@[simp] theorem setRouter_cores (r : Nat) (v : Router) : (setRouter s r v).cores = s.cores := rfl
@[simp] theorem setRouter_atMs (r : Nat) (v : Router) : (setRouter s r v).atMs = s.atMs := rfl
@[simp] theorem setRouter_fence (r : Nat) (v : Router) : (setRouter s r v).fence = s.fence := rfl
@[simp] theorem setRouter_cluFence (r : Nat) (v : Router) : (setRouter s r v).cluFence = s.cluFence := rfl
@[simp] theorem setRouter_shift (r : Nat) (v : Router) : (setRouter s r v).shift = s.shift := rfl
@[simp] theorem setRouter_switches (r : Nat) (v : Router) : (setRouter s r v).switches = s.switches := rfl
@[simp] theorem setRouter_slices (r : Nat) (v : Router) : (setRouter s r v).slices = s.slices := rfl
@[simp] theorem setRouter_ends (r : Nat) (v : Router) : (setRouter s r v).ends = s.ends := rfl
@[simp] theorem setRouter_landing (r : Nat) (v : Router) : (setRouter s r v).landing = s.landing := rfl
@[simp] theorem setRouter_dies (r : Nat) (v : Router) : (setRouter s r v).dies = s.dies := rfl
@[simp] theorem setRouter_parts (r : Nat) (v : Router) : (setRouter s r v).parts = s.parts := rfl
@[simp] theorem setRouter_reusable (r : Nat) (v : Router) : (setRouter s r v).reusable = s.reusable := rfl
@[simp] theorem setRouter_buckets (r : Nat) (v : Router) : (setRouter s r v).buckets = s.buckets := rfl
@[simp] theorem setRouter_hbm (r : Nat) (v : Router) : (setRouter s r v).hbm = s.hbm := rfl
@[simp] theorem setRouter_ddr (r : Nat) (v : Router) : (setRouter s r v).ddr = s.ddr := rfl
@[simp] theorem setRouter_ddrSpeed (r : Nat) (v : Router) : (setRouter s r v).ddrSpeed = s.ddrSpeed := rfl
@[simp] theorem setRouter_ddrDimms (r : Nat) (v : Router) : (setRouter s r v).ddrDimms = s.ddrDimms := rfl
@[simp] theorem setRouter_ddrGib (r : Nat) (v : Router) : (setRouter s r v).ddrGib = s.ddrGib := rfl
@[simp] theorem setRouter_spares (r : Nat) (v : Router) : (setRouter s r v).spares = s.spares := rfl
@[simp] theorem setRouter_links (r : Nat) (v : Router) : (setRouter s r v).links = s.links := rfl
@[simp] theorem setRouter_halfLinks (r : Nat) (v : Router) : (setRouter s r v).halfLinks = s.halfLinks := rfl
@[simp] theorem setRouter_fused (r : Nat) (v : Router) : (setRouter s r v).fused = s.fused := rfl
@[simp] theorem setRouter_soft (r : Nat) (v : Router) : (setRouter s r v).soft = s.soft := rfl
@[simp] theorem setRouter_scree (r : Nat) (v : Router) : (setRouter s r v).scree = s.scree := rfl
@[simp] theorem setRouter_history (r : Nat) (v : Router) : (setRouter s r v).history = s.history := rfl
@[simp] theorem setRouter_charged (r : Nat) (v : Router) : (setRouter s r v).charged = s.charged := rfl
@[simp] theorem setRouter_dumps (r : Nat) (v : Router) : (setRouter s r v).dumps = s.dumps := rfl
@[simp] theorem setRouter_skipped (r : Nat) (v : Router) : (setRouter s r v).skipped = s.skipped := rfl
@[simp] theorem setRouter_sweepMin (r : Nat) (v : Router) : (setRouter s r v).sweepMin = s.sweepMin := rfl
@[simp] theorem setRouter_sweep (r : Nat) (v : Router) : (setRouter s r v).sweep = s.sweep := rfl
@[simp] theorem setRouter_sounding (r : Nat) (v : Router) : (setRouter s r v).sounding = s.sounding := rfl
@[simp] theorem setRouter_sweepFrom (r : Nat) (v : Router) : (setRouter s r v).sweepFrom = s.sweepFrom := rfl
@[simp] theorem setRouter_sweepSize (r : Nat) (v : Router) : (setRouter s r v).sweepSize = s.sweepSize := rfl
@[simp] theorem setRouter_sweepOut (r : Nat) (v : Router) : (setRouter s r v).sweepOut = s.sweepOut := rfl
@[simp] theorem setRouter_unsounded (r : Nat) (v : Router) : (setRouter s r v).unsounded = s.unsounded := rfl
@[simp] theorem setRouter_missed (r : Nat) (v : Router) : (setRouter s r v).missed = s.missed := rfl
@[simp] theorem setRouter_tapCount (r : Nat) (v : Router) : (setRouter s r v).tapCount = s.tapCount := rfl
@[simp] theorem setRouter_hbmMoved (r : Nat) (v : Router) : (setRouter s r v).hbmMoved = s.hbmMoved := rfl
@[simp] theorem setRouter_tapTurn (r : Nat) (v : Router) : (setRouter s r v).tapTurn = s.tapTurn := rfl
@[simp] theorem setRouter_genAt (r : Nat) (v : Router) : (setRouter s r v).genAt = s.genAt := rfl
@[simp] theorem setRouter_portMode (r : Nat) (v : Router) : (setRouter s r v).portMode = s.portMode := rfl
@[simp] theorem setRouter_modePend (r : Nat) (v : Router) : (setRouter s r v).modePend = s.modePend := rfl
@[simp] theorem setRouter_resetPend (r : Nat) (v : Router) : (setRouter s r v).resetPend = s.resetPend := rfl
@[simp] theorem setRouter_lports (r : Nat) (v : Router) : (setRouter s r v).lports = s.lports := rfl
@[simp] theorem setRouter_neigh (r : Nat) (v : Router) : (setRouter s r v).neigh = s.neigh := rfl
@[simp] theorem setRouter_netOut (r : Nat) (v : Router) : (setRouter s r v).netOut = s.netOut := rfl
@[simp] theorem setRouter_ptpPort (r : Nat) (v : Router) : (setRouter s r v).ptpPort = s.ptpPort := rfl
@[simp] theorem setRouter_ptpHeard (r : Nat) (v : Router) : (setRouter s r v).ptpHeard = s.ptpHeard := rfl
@[simp] theorem setRouter_ptpFree (r : Nat) (v : Router) : (setRouter s r v).ptpFree = s.ptpFree := rfl
@[simp] theorem setRouter_ptpSync (r : Nat) (v : Router) : (setRouter s r v).ptpSync = s.ptpSync := rfl
@[simp] theorem setRouter_ptpDelay (r : Nat) (v : Router) : (setRouter s r v).ptpDelay = s.ptpDelay := rfl
@[simp] theorem setRouter_ptpReq (r : Nat) (v : Router) : (setRouter s r v).ptpReq = s.ptpReq := rfl
@[simp] theorem setRouter_stamps (r : Nat) (v : Router) : (setRouter s r v).stamps = s.stamps := rfl
@[simp] theorem setRouter_qps (r : Nat) (v : Router) : (setRouter s r v).qps = s.qps := rfl
@[simp] theorem setRouter_regions (r : Nat) (v : Router) : (setRouter s r v).regions = s.regions := rfl
@[simp] theorem setRouter_cmds (r : Nat) (v : Router) : (setRouter s r v).cmds = s.cmds := rfl
@[simp] theorem setRouter_sent (r : Nat) (v : Router) : (setRouter s r v).sent = s.sent := rfl
@[simp] theorem setRouter_seqHigh (r : Nat) (v : Router) : (setRouter s r v).seqHigh = s.seqHigh := rfl
@[simp] theorem setRouter_seqSeen (r : Nat) (v : Router) : (setRouter s r v).seqSeen = s.seqSeen := rfl
@[simp] theorem setRouter_seqFlash (r : Nat) (v : Router) : (setRouter s r v).seqFlash = s.seqFlash := rfl
@[simp] theorem setRouter_power (r : Nat) (v : Router) : (setRouter s r v).power = s.power := rfl
@[simp] theorem setRouter_pwrLimit (r : Nat) (v : Router) : (setRouter s r v).pwrLimit = s.pwrLimit := rfl
@[simp] theorem setRouter_pwrRefused (r : Nat) (v : Router) : (setRouter s r v).pwrRefused = s.pwrRefused := rfl
@[simp] theorem setRouter_hbmPace (r : Nat) (v : Router) : (setRouter s r v).hbmPace = s.hbmPace := rfl
@[simp] theorem setRouter_stackPace (r : Nat) (v : Router) : (setRouter s r v).stackPace = s.stackPace := rfl
@[simp] theorem setRouter_brake (r : Nat) (v : Router) : (setRouter s r v).brake = s.brake := rfl
@[simp] theorem setRouter_temps (r : Nat) (v : Router) : (setRouter s r v).temps = s.temps := rfl
@[simp] theorem setRouter_restoredAt (r : Nat) (v : Router) : (setRouter s r v).restoredAt = s.restoredAt := rfl
@[simp] theorem setRouter_turn (r : Nat) (v : Router) : (setRouter s r v).turn = s.turn := rfl
@[simp] theorem setRouter_outBefore (r : Nat) (v : Router) : (setRouter s r v).outBefore = s.outBefore := rfl
@[simp] theorem setRouter_binAt (r : Nat) (v : Router) : (setRouter s r v).binAt = s.binAt := rfl
@[simp] theorem setRouter_trip (r : Nat) (v : Router) : (setRouter s r v).trip = s.trip := rfl
@[simp] theorem setRouter_resetLow (r : Nat) (v : Router) : (setRouter s r v).resetLow = s.resetLow := rfl
@[simp] theorem setRouter_flash (r : Nat) (v : Router) : (setRouter s r v).flash = s.flash := rfl
@[simp] theorem setRouter_meter (r : Nat) (v : Router) : (setRouter s r v).meter = s.meter := rfl
@[simp] theorem setRouter_jtagOut (r : Nat) (v : Router) : (setRouter s r v).jtagOut = s.jtagOut := rfl
@[simp] theorem setRouter_pending (r : Nat) (v : Router) : (setRouter s r v).pending = s.pending := rfl

/-! ### setBucket -/

@[simp] theorem setBucket_product (t : Nat) (b : Bucket) : (setBucket s t b).product = s.product := rfl
@[simp] theorem setBucket_fab (t : Nat) (b : Bucket) : (setBucket s t b).fab = s.fab := rfl
@[simp] theorem setBucket_idKey (t : Nat) (b : Bucket) : (setBucket s t b).idKey = s.idKey := rfl
@[simp] theorem setBucket_storageKey (t : Nat) (b : Bucket) : (setBucket s t b).storageKey = s.storageKey := rfl
@[simp] theorem setBucket_meterUnread (t : Nat) (b : Bucket) : (setBucket s t b).meterUnread = s.meterUnread := rfl
@[simp] theorem setBucket_timeBase (t : Nat) (b : Bucket) : (setBucket s t b).timeBase = s.timeBase := rfl
@[simp] theorem setBucket_freeSeq (t : Nat) (b : Bucket) : (setBucket s t b).freeSeq = s.freeSeq := rfl
@[simp] theorem setBucket_boot (t : Nat) (b : Bucket) : (setBucket s t b).boot = s.boot := rfl
@[simp] theorem setBucket_bootFull (t : Nat) (b : Bucket) : (setBucket s t b).bootFull = s.bootFull := rfl
@[simp] theorem setBucket_bootFrom (t : Nat) (b : Bucket) : (setBucket s t b).bootFrom = s.bootFrom := rfl
@[simp] theorem setBucket_report (t : Nat) (b : Bucket) : (setBucket s t b).report = s.report := rfl
@[simp] theorem setBucket_bootLog (t : Nat) (b : Bucket) : (setBucket s t b).bootLog = s.bootLog := rfl
@[simp] theorem setBucket_ibis (t : Nat) (b : Bucket) : (setBucket s t b).ibis = s.ibis := rfl
@[simp] theorem setBucket_i3cAddr (t : Nat) (b : Bucket) : (setBucket s t b).i3cAddr = s.i3cAddr := rfl
@[simp] theorem setBucket_fw (t : Nat) (b : Bucket) : (setBucket s t b).fw = s.fw := rfl
@[simp] theorem setBucket_service (t : Nat) (b : Bucket) : (setBucket s t b).service = s.service := rfl
@[simp] theorem setBucket_ouvosUp (t : Nat) (b : Bucket) : (setBucket s t b).ouvosUp = s.ouvosUp := rfl
@[simp] theorem setBucket_loadMode (t : Nat) (b : Bucket) : (setBucket s t b).loadMode = s.loadMode := rfl
@[simp] theorem setBucket_flockNo (t : Nat) (b : Bucket) : (setBucket s t b).flockNo = s.flockNo := rfl
@[simp] theorem setBucket_refclk (t : Nat) (b : Bucket) : (setBucket s t b).refclk = s.refclk := rfl
@[simp] theorem setBucket_cores (t : Nat) (b : Bucket) : (setBucket s t b).cores = s.cores := rfl
@[simp] theorem setBucket_atMs (t : Nat) (b : Bucket) : (setBucket s t b).atMs = s.atMs := rfl
@[simp] theorem setBucket_fence (t : Nat) (b : Bucket) : (setBucket s t b).fence = s.fence := rfl
@[simp] theorem setBucket_cluFence (t : Nat) (b : Bucket) : (setBucket s t b).cluFence = s.cluFence := rfl
@[simp] theorem setBucket_shift (t : Nat) (b : Bucket) : (setBucket s t b).shift = s.shift := rfl
@[simp] theorem setBucket_switches (t : Nat) (b : Bucket) : (setBucket s t b).switches = s.switches := rfl
@[simp] theorem setBucket_slices (t : Nat) (b : Bucket) : (setBucket s t b).slices = s.slices := rfl
@[simp] theorem setBucket_routers (t : Nat) (b : Bucket) : (setBucket s t b).routers = s.routers := rfl
@[simp] theorem setBucket_ends (t : Nat) (b : Bucket) : (setBucket s t b).ends = s.ends := rfl
@[simp] theorem setBucket_landing (t : Nat) (b : Bucket) : (setBucket s t b).landing = s.landing := rfl
@[simp] theorem setBucket_dies (t : Nat) (b : Bucket) : (setBucket s t b).dies = s.dies := rfl
@[simp] theorem setBucket_parts (t : Nat) (b : Bucket) : (setBucket s t b).parts = s.parts := rfl
@[simp] theorem setBucket_reusable (t : Nat) (b : Bucket) : (setBucket s t b).reusable = s.reusable := rfl
@[simp] theorem setBucket_hbm (t : Nat) (b : Bucket) : (setBucket s t b).hbm = s.hbm := rfl
@[simp] theorem setBucket_ddr (t : Nat) (b : Bucket) : (setBucket s t b).ddr = s.ddr := rfl
@[simp] theorem setBucket_ddrSpeed (t : Nat) (b : Bucket) : (setBucket s t b).ddrSpeed = s.ddrSpeed := rfl
@[simp] theorem setBucket_ddrDimms (t : Nat) (b : Bucket) : (setBucket s t b).ddrDimms = s.ddrDimms := rfl
@[simp] theorem setBucket_ddrGib (t : Nat) (b : Bucket) : (setBucket s t b).ddrGib = s.ddrGib := rfl
@[simp] theorem setBucket_spares (t : Nat) (b : Bucket) : (setBucket s t b).spares = s.spares := rfl
@[simp] theorem setBucket_links (t : Nat) (b : Bucket) : (setBucket s t b).links = s.links := rfl
@[simp] theorem setBucket_halfLinks (t : Nat) (b : Bucket) : (setBucket s t b).halfLinks = s.halfLinks := rfl
@[simp] theorem setBucket_fused (t : Nat) (b : Bucket) : (setBucket s t b).fused = s.fused := rfl
@[simp] theorem setBucket_soft (t : Nat) (b : Bucket) : (setBucket s t b).soft = s.soft := rfl
@[simp] theorem setBucket_scree (t : Nat) (b : Bucket) : (setBucket s t b).scree = s.scree := rfl
@[simp] theorem setBucket_history (t : Nat) (b : Bucket) : (setBucket s t b).history = s.history := rfl
@[simp] theorem setBucket_charged (t : Nat) (b : Bucket) : (setBucket s t b).charged = s.charged := rfl
@[simp] theorem setBucket_dumps (t : Nat) (b : Bucket) : (setBucket s t b).dumps = s.dumps := rfl
@[simp] theorem setBucket_skipped (t : Nat) (b : Bucket) : (setBucket s t b).skipped = s.skipped := rfl
@[simp] theorem setBucket_sweepMin (t : Nat) (b : Bucket) : (setBucket s t b).sweepMin = s.sweepMin := rfl
@[simp] theorem setBucket_sweep (t : Nat) (b : Bucket) : (setBucket s t b).sweep = s.sweep := rfl
@[simp] theorem setBucket_sounding (t : Nat) (b : Bucket) : (setBucket s t b).sounding = s.sounding := rfl
@[simp] theorem setBucket_sweepFrom (t : Nat) (b : Bucket) : (setBucket s t b).sweepFrom = s.sweepFrom := rfl
@[simp] theorem setBucket_sweepSize (t : Nat) (b : Bucket) : (setBucket s t b).sweepSize = s.sweepSize := rfl
@[simp] theorem setBucket_sweepOut (t : Nat) (b : Bucket) : (setBucket s t b).sweepOut = s.sweepOut := rfl
@[simp] theorem setBucket_unsounded (t : Nat) (b : Bucket) : (setBucket s t b).unsounded = s.unsounded := rfl
@[simp] theorem setBucket_missed (t : Nat) (b : Bucket) : (setBucket s t b).missed = s.missed := rfl
@[simp] theorem setBucket_tapCount (t : Nat) (b : Bucket) : (setBucket s t b).tapCount = s.tapCount := rfl
@[simp] theorem setBucket_hbmMoved (t : Nat) (b : Bucket) : (setBucket s t b).hbmMoved = s.hbmMoved := rfl
@[simp] theorem setBucket_tapTurn (t : Nat) (b : Bucket) : (setBucket s t b).tapTurn = s.tapTurn := rfl
@[simp] theorem setBucket_genAt (t : Nat) (b : Bucket) : (setBucket s t b).genAt = s.genAt := rfl
@[simp] theorem setBucket_portMode (t : Nat) (b : Bucket) : (setBucket s t b).portMode = s.portMode := rfl
@[simp] theorem setBucket_modePend (t : Nat) (b : Bucket) : (setBucket s t b).modePend = s.modePend := rfl
@[simp] theorem setBucket_resetPend (t : Nat) (b : Bucket) : (setBucket s t b).resetPend = s.resetPend := rfl
@[simp] theorem setBucket_lports (t : Nat) (b : Bucket) : (setBucket s t b).lports = s.lports := rfl
@[simp] theorem setBucket_neigh (t : Nat) (b : Bucket) : (setBucket s t b).neigh = s.neigh := rfl
@[simp] theorem setBucket_netOut (t : Nat) (b : Bucket) : (setBucket s t b).netOut = s.netOut := rfl
@[simp] theorem setBucket_ptpPort (t : Nat) (b : Bucket) : (setBucket s t b).ptpPort = s.ptpPort := rfl
@[simp] theorem setBucket_ptpHeard (t : Nat) (b : Bucket) : (setBucket s t b).ptpHeard = s.ptpHeard := rfl
@[simp] theorem setBucket_ptpFree (t : Nat) (b : Bucket) : (setBucket s t b).ptpFree = s.ptpFree := rfl
@[simp] theorem setBucket_ptpSync (t : Nat) (b : Bucket) : (setBucket s t b).ptpSync = s.ptpSync := rfl
@[simp] theorem setBucket_ptpDelay (t : Nat) (b : Bucket) : (setBucket s t b).ptpDelay = s.ptpDelay := rfl
@[simp] theorem setBucket_ptpReq (t : Nat) (b : Bucket) : (setBucket s t b).ptpReq = s.ptpReq := rfl
@[simp] theorem setBucket_stamps (t : Nat) (b : Bucket) : (setBucket s t b).stamps = s.stamps := rfl
@[simp] theorem setBucket_qps (t : Nat) (b : Bucket) : (setBucket s t b).qps = s.qps := rfl
@[simp] theorem setBucket_regions (t : Nat) (b : Bucket) : (setBucket s t b).regions = s.regions := rfl
@[simp] theorem setBucket_cmds (t : Nat) (b : Bucket) : (setBucket s t b).cmds = s.cmds := rfl
@[simp] theorem setBucket_sent (t : Nat) (b : Bucket) : (setBucket s t b).sent = s.sent := rfl
@[simp] theorem setBucket_seqHigh (t : Nat) (b : Bucket) : (setBucket s t b).seqHigh = s.seqHigh := rfl
@[simp] theorem setBucket_seqSeen (t : Nat) (b : Bucket) : (setBucket s t b).seqSeen = s.seqSeen := rfl
@[simp] theorem setBucket_seqFlash (t : Nat) (b : Bucket) : (setBucket s t b).seqFlash = s.seqFlash := rfl
@[simp] theorem setBucket_power (t : Nat) (b : Bucket) : (setBucket s t b).power = s.power := rfl
@[simp] theorem setBucket_pwrLimit (t : Nat) (b : Bucket) : (setBucket s t b).pwrLimit = s.pwrLimit := rfl
@[simp] theorem setBucket_pwrRefused (t : Nat) (b : Bucket) : (setBucket s t b).pwrRefused = s.pwrRefused := rfl
@[simp] theorem setBucket_hbmPace (t : Nat) (b : Bucket) : (setBucket s t b).hbmPace = s.hbmPace := rfl
@[simp] theorem setBucket_stackPace (t : Nat) (b : Bucket) : (setBucket s t b).stackPace = s.stackPace := rfl
@[simp] theorem setBucket_brake (t : Nat) (b : Bucket) : (setBucket s t b).brake = s.brake := rfl
@[simp] theorem setBucket_temps (t : Nat) (b : Bucket) : (setBucket s t b).temps = s.temps := rfl
@[simp] theorem setBucket_restoredAt (t : Nat) (b : Bucket) : (setBucket s t b).restoredAt = s.restoredAt := rfl
@[simp] theorem setBucket_turn (t : Nat) (b : Bucket) : (setBucket s t b).turn = s.turn := rfl
@[simp] theorem setBucket_outBefore (t : Nat) (b : Bucket) : (setBucket s t b).outBefore = s.outBefore := rfl
@[simp] theorem setBucket_binAt (t : Nat) (b : Bucket) : (setBucket s t b).binAt = s.binAt := rfl
@[simp] theorem setBucket_trip (t : Nat) (b : Bucket) : (setBucket s t b).trip = s.trip := rfl
@[simp] theorem setBucket_resetLow (t : Nat) (b : Bucket) : (setBucket s t b).resetLow = s.resetLow := rfl
@[simp] theorem setBucket_flash (t : Nat) (b : Bucket) : (setBucket s t b).flash = s.flash := rfl
@[simp] theorem setBucket_meter (t : Nat) (b : Bucket) : (setBucket s t b).meter = s.meter := rfl
@[simp] theorem setBucket_jtagOut (t : Nat) (b : Bucket) : (setBucket s t b).jtagOut = s.jtagOut := rfl
@[simp] theorem setBucket_pending (t : Nat) (b : Bucket) : (setBucket s t b).pending = s.pending := rfl

/-! ### setPow -/

@[simp] theorem setPow_product (c : Nat) (v : Pow) : (setPow s c v).product = s.product := rfl
@[simp] theorem setPow_fab (c : Nat) (v : Pow) : (setPow s c v).fab = s.fab := rfl
@[simp] theorem setPow_idKey (c : Nat) (v : Pow) : (setPow s c v).idKey = s.idKey := rfl
@[simp] theorem setPow_storageKey (c : Nat) (v : Pow) : (setPow s c v).storageKey = s.storageKey := rfl
@[simp] theorem setPow_meterUnread (c : Nat) (v : Pow) : (setPow s c v).meterUnread = s.meterUnread := rfl
@[simp] theorem setPow_timeBase (c : Nat) (v : Pow) : (setPow s c v).timeBase = s.timeBase := rfl
@[simp] theorem setPow_freeSeq (c : Nat) (v : Pow) : (setPow s c v).freeSeq = s.freeSeq := rfl
@[simp] theorem setPow_boot (c : Nat) (v : Pow) : (setPow s c v).boot = s.boot := rfl
@[simp] theorem setPow_bootFull (c : Nat) (v : Pow) : (setPow s c v).bootFull = s.bootFull := rfl
@[simp] theorem setPow_bootFrom (c : Nat) (v : Pow) : (setPow s c v).bootFrom = s.bootFrom := rfl
@[simp] theorem setPow_report (c : Nat) (v : Pow) : (setPow s c v).report = s.report := rfl
@[simp] theorem setPow_bootLog (c : Nat) (v : Pow) : (setPow s c v).bootLog = s.bootLog := rfl
@[simp] theorem setPow_ibis (c : Nat) (v : Pow) : (setPow s c v).ibis = s.ibis := rfl
@[simp] theorem setPow_i3cAddr (c : Nat) (v : Pow) : (setPow s c v).i3cAddr = s.i3cAddr := rfl
@[simp] theorem setPow_fw (c : Nat) (v : Pow) : (setPow s c v).fw = s.fw := rfl
@[simp] theorem setPow_service (c : Nat) (v : Pow) : (setPow s c v).service = s.service := rfl
@[simp] theorem setPow_ouvosUp (c : Nat) (v : Pow) : (setPow s c v).ouvosUp = s.ouvosUp := rfl
@[simp] theorem setPow_loadMode (c : Nat) (v : Pow) : (setPow s c v).loadMode = s.loadMode := rfl
@[simp] theorem setPow_flockNo (c : Nat) (v : Pow) : (setPow s c v).flockNo = s.flockNo := rfl
@[simp] theorem setPow_refclk (c : Nat) (v : Pow) : (setPow s c v).refclk = s.refclk := rfl
@[simp] theorem setPow_cores (c : Nat) (v : Pow) : (setPow s c v).cores = s.cores := rfl
@[simp] theorem setPow_atMs (c : Nat) (v : Pow) : (setPow s c v).atMs = s.atMs := rfl
@[simp] theorem setPow_fence (c : Nat) (v : Pow) : (setPow s c v).fence = s.fence := rfl
@[simp] theorem setPow_cluFence (c : Nat) (v : Pow) : (setPow s c v).cluFence = s.cluFence := rfl
@[simp] theorem setPow_shift (c : Nat) (v : Pow) : (setPow s c v).shift = s.shift := rfl
@[simp] theorem setPow_switches (c : Nat) (v : Pow) : (setPow s c v).switches = s.switches := rfl
@[simp] theorem setPow_slices (c : Nat) (v : Pow) : (setPow s c v).slices = s.slices := rfl
@[simp] theorem setPow_routers (c : Nat) (v : Pow) : (setPow s c v).routers = s.routers := rfl
@[simp] theorem setPow_ends (c : Nat) (v : Pow) : (setPow s c v).ends = s.ends := rfl
@[simp] theorem setPow_landing (c : Nat) (v : Pow) : (setPow s c v).landing = s.landing := rfl
@[simp] theorem setPow_dies (c : Nat) (v : Pow) : (setPow s c v).dies = s.dies := rfl
@[simp] theorem setPow_parts (c : Nat) (v : Pow) : (setPow s c v).parts = s.parts := rfl
@[simp] theorem setPow_reusable (c : Nat) (v : Pow) : (setPow s c v).reusable = s.reusable := rfl
@[simp] theorem setPow_buckets (c : Nat) (v : Pow) : (setPow s c v).buckets = s.buckets := rfl
@[simp] theorem setPow_hbm (c : Nat) (v : Pow) : (setPow s c v).hbm = s.hbm := rfl
@[simp] theorem setPow_ddr (c : Nat) (v : Pow) : (setPow s c v).ddr = s.ddr := rfl
@[simp] theorem setPow_ddrSpeed (c : Nat) (v : Pow) : (setPow s c v).ddrSpeed = s.ddrSpeed := rfl
@[simp] theorem setPow_ddrDimms (c : Nat) (v : Pow) : (setPow s c v).ddrDimms = s.ddrDimms := rfl
@[simp] theorem setPow_ddrGib (c : Nat) (v : Pow) : (setPow s c v).ddrGib = s.ddrGib := rfl
@[simp] theorem setPow_spares (c : Nat) (v : Pow) : (setPow s c v).spares = s.spares := rfl
@[simp] theorem setPow_links (c : Nat) (v : Pow) : (setPow s c v).links = s.links := rfl
@[simp] theorem setPow_halfLinks (c : Nat) (v : Pow) : (setPow s c v).halfLinks = s.halfLinks := rfl
@[simp] theorem setPow_fused (c : Nat) (v : Pow) : (setPow s c v).fused = s.fused := rfl
@[simp] theorem setPow_soft (c : Nat) (v : Pow) : (setPow s c v).soft = s.soft := rfl
@[simp] theorem setPow_scree (c : Nat) (v : Pow) : (setPow s c v).scree = s.scree := rfl
@[simp] theorem setPow_history (c : Nat) (v : Pow) : (setPow s c v).history = s.history := rfl
@[simp] theorem setPow_charged (c : Nat) (v : Pow) : (setPow s c v).charged = s.charged := rfl
@[simp] theorem setPow_dumps (c : Nat) (v : Pow) : (setPow s c v).dumps = s.dumps := rfl
@[simp] theorem setPow_skipped (c : Nat) (v : Pow) : (setPow s c v).skipped = s.skipped := rfl
@[simp] theorem setPow_sweepMin (c : Nat) (v : Pow) : (setPow s c v).sweepMin = s.sweepMin := rfl
@[simp] theorem setPow_sweep (c : Nat) (v : Pow) : (setPow s c v).sweep = s.sweep := rfl
@[simp] theorem setPow_sounding (c : Nat) (v : Pow) : (setPow s c v).sounding = s.sounding := rfl
@[simp] theorem setPow_sweepFrom (c : Nat) (v : Pow) : (setPow s c v).sweepFrom = s.sweepFrom := rfl
@[simp] theorem setPow_sweepSize (c : Nat) (v : Pow) : (setPow s c v).sweepSize = s.sweepSize := rfl
@[simp] theorem setPow_sweepOut (c : Nat) (v : Pow) : (setPow s c v).sweepOut = s.sweepOut := rfl
@[simp] theorem setPow_unsounded (c : Nat) (v : Pow) : (setPow s c v).unsounded = s.unsounded := rfl
@[simp] theorem setPow_missed (c : Nat) (v : Pow) : (setPow s c v).missed = s.missed := rfl
@[simp] theorem setPow_tapCount (c : Nat) (v : Pow) : (setPow s c v).tapCount = s.tapCount := rfl
@[simp] theorem setPow_hbmMoved (c : Nat) (v : Pow) : (setPow s c v).hbmMoved = s.hbmMoved := rfl
@[simp] theorem setPow_tapTurn (c : Nat) (v : Pow) : (setPow s c v).tapTurn = s.tapTurn := rfl
@[simp] theorem setPow_genAt (c : Nat) (v : Pow) : (setPow s c v).genAt = s.genAt := rfl
@[simp] theorem setPow_portMode (c : Nat) (v : Pow) : (setPow s c v).portMode = s.portMode := rfl
@[simp] theorem setPow_modePend (c : Nat) (v : Pow) : (setPow s c v).modePend = s.modePend := rfl
@[simp] theorem setPow_resetPend (c : Nat) (v : Pow) : (setPow s c v).resetPend = s.resetPend := rfl
@[simp] theorem setPow_lports (c : Nat) (v : Pow) : (setPow s c v).lports = s.lports := rfl
@[simp] theorem setPow_neigh (c : Nat) (v : Pow) : (setPow s c v).neigh = s.neigh := rfl
@[simp] theorem setPow_netOut (c : Nat) (v : Pow) : (setPow s c v).netOut = s.netOut := rfl
@[simp] theorem setPow_ptpPort (c : Nat) (v : Pow) : (setPow s c v).ptpPort = s.ptpPort := rfl
@[simp] theorem setPow_ptpHeard (c : Nat) (v : Pow) : (setPow s c v).ptpHeard = s.ptpHeard := rfl
@[simp] theorem setPow_ptpFree (c : Nat) (v : Pow) : (setPow s c v).ptpFree = s.ptpFree := rfl
@[simp] theorem setPow_ptpSync (c : Nat) (v : Pow) : (setPow s c v).ptpSync = s.ptpSync := rfl
@[simp] theorem setPow_ptpDelay (c : Nat) (v : Pow) : (setPow s c v).ptpDelay = s.ptpDelay := rfl
@[simp] theorem setPow_ptpReq (c : Nat) (v : Pow) : (setPow s c v).ptpReq = s.ptpReq := rfl
@[simp] theorem setPow_stamps (c : Nat) (v : Pow) : (setPow s c v).stamps = s.stamps := rfl
@[simp] theorem setPow_qps (c : Nat) (v : Pow) : (setPow s c v).qps = s.qps := rfl
@[simp] theorem setPow_regions (c : Nat) (v : Pow) : (setPow s c v).regions = s.regions := rfl
@[simp] theorem setPow_cmds (c : Nat) (v : Pow) : (setPow s c v).cmds = s.cmds := rfl
@[simp] theorem setPow_sent (c : Nat) (v : Pow) : (setPow s c v).sent = s.sent := rfl
@[simp] theorem setPow_seqHigh (c : Nat) (v : Pow) : (setPow s c v).seqHigh = s.seqHigh := rfl
@[simp] theorem setPow_seqSeen (c : Nat) (v : Pow) : (setPow s c v).seqSeen = s.seqSeen := rfl
@[simp] theorem setPow_seqFlash (c : Nat) (v : Pow) : (setPow s c v).seqFlash = s.seqFlash := rfl
@[simp] theorem setPow_pwrLimit (c : Nat) (v : Pow) : (setPow s c v).pwrLimit = s.pwrLimit := rfl
@[simp] theorem setPow_pwrRefused (c : Nat) (v : Pow) : (setPow s c v).pwrRefused = s.pwrRefused := rfl
@[simp] theorem setPow_hbmPace (c : Nat) (v : Pow) : (setPow s c v).hbmPace = s.hbmPace := rfl
@[simp] theorem setPow_stackPace (c : Nat) (v : Pow) : (setPow s c v).stackPace = s.stackPace := rfl
@[simp] theorem setPow_brake (c : Nat) (v : Pow) : (setPow s c v).brake = s.brake := rfl
@[simp] theorem setPow_temps (c : Nat) (v : Pow) : (setPow s c v).temps = s.temps := rfl
@[simp] theorem setPow_restoredAt (c : Nat) (v : Pow) : (setPow s c v).restoredAt = s.restoredAt := rfl
@[simp] theorem setPow_turn (c : Nat) (v : Pow) : (setPow s c v).turn = s.turn := rfl
@[simp] theorem setPow_outBefore (c : Nat) (v : Pow) : (setPow s c v).outBefore = s.outBefore := rfl
@[simp] theorem setPow_binAt (c : Nat) (v : Pow) : (setPow s c v).binAt = s.binAt := rfl
@[simp] theorem setPow_trip (c : Nat) (v : Pow) : (setPow s c v).trip = s.trip := rfl
@[simp] theorem setPow_resetLow (c : Nat) (v : Pow) : (setPow s c v).resetLow = s.resetLow := rfl
@[simp] theorem setPow_flash (c : Nat) (v : Pow) : (setPow s c v).flash = s.flash := rfl
@[simp] theorem setPow_meter (c : Nat) (v : Pow) : (setPow s c v).meter = s.meter := rfl
@[simp] theorem setPow_jtagOut (c : Nat) (v : Pow) : (setPow s c v).jtagOut = s.jtagOut := rfl
@[simp] theorem setPow_pending (c : Nat) (v : Pow) : (setPow s c v).pending = s.pending := rfl

/-! ### setPart -/

@[simp] theorem setPart_product (p : Nat) (v : Option Part) : (setPart s p v).product = s.product := rfl
@[simp] theorem setPart_fab (p : Nat) (v : Option Part) : (setPart s p v).fab = s.fab := rfl
@[simp] theorem setPart_idKey (p : Nat) (v : Option Part) : (setPart s p v).idKey = s.idKey := rfl
@[simp] theorem setPart_storageKey (p : Nat) (v : Option Part) : (setPart s p v).storageKey = s.storageKey := rfl
@[simp] theorem setPart_meterUnread (p : Nat) (v : Option Part) : (setPart s p v).meterUnread = s.meterUnread := rfl
@[simp] theorem setPart_timeBase (p : Nat) (v : Option Part) : (setPart s p v).timeBase = s.timeBase := rfl
@[simp] theorem setPart_freeSeq (p : Nat) (v : Option Part) : (setPart s p v).freeSeq = s.freeSeq := rfl
@[simp] theorem setPart_boot (p : Nat) (v : Option Part) : (setPart s p v).boot = s.boot := rfl
@[simp] theorem setPart_bootFull (p : Nat) (v : Option Part) : (setPart s p v).bootFull = s.bootFull := rfl
@[simp] theorem setPart_bootFrom (p : Nat) (v : Option Part) : (setPart s p v).bootFrom = s.bootFrom := rfl
@[simp] theorem setPart_report (p : Nat) (v : Option Part) : (setPart s p v).report = s.report := rfl
@[simp] theorem setPart_bootLog (p : Nat) (v : Option Part) : (setPart s p v).bootLog = s.bootLog := rfl
@[simp] theorem setPart_ibis (p : Nat) (v : Option Part) : (setPart s p v).ibis = s.ibis := rfl
@[simp] theorem setPart_i3cAddr (p : Nat) (v : Option Part) : (setPart s p v).i3cAddr = s.i3cAddr := rfl
@[simp] theorem setPart_fw (p : Nat) (v : Option Part) : (setPart s p v).fw = s.fw := rfl
@[simp] theorem setPart_service (p : Nat) (v : Option Part) : (setPart s p v).service = s.service := rfl
@[simp] theorem setPart_ouvosUp (p : Nat) (v : Option Part) : (setPart s p v).ouvosUp = s.ouvosUp := rfl
@[simp] theorem setPart_loadMode (p : Nat) (v : Option Part) : (setPart s p v).loadMode = s.loadMode := rfl
@[simp] theorem setPart_flockNo (p : Nat) (v : Option Part) : (setPart s p v).flockNo = s.flockNo := rfl
@[simp] theorem setPart_refclk (p : Nat) (v : Option Part) : (setPart s p v).refclk = s.refclk := rfl
@[simp] theorem setPart_cores (p : Nat) (v : Option Part) : (setPart s p v).cores = s.cores := rfl
@[simp] theorem setPart_atMs (p : Nat) (v : Option Part) : (setPart s p v).atMs = s.atMs := rfl
@[simp] theorem setPart_fence (p : Nat) (v : Option Part) : (setPart s p v).fence = s.fence := rfl
@[simp] theorem setPart_cluFence (p : Nat) (v : Option Part) : (setPart s p v).cluFence = s.cluFence := rfl
@[simp] theorem setPart_shift (p : Nat) (v : Option Part) : (setPart s p v).shift = s.shift := rfl
@[simp] theorem setPart_switches (p : Nat) (v : Option Part) : (setPart s p v).switches = s.switches := rfl
@[simp] theorem setPart_slices (p : Nat) (v : Option Part) : (setPart s p v).slices = s.slices := rfl
@[simp] theorem setPart_routers (p : Nat) (v : Option Part) : (setPart s p v).routers = s.routers := rfl
@[simp] theorem setPart_ends (p : Nat) (v : Option Part) : (setPart s p v).ends = s.ends := rfl
@[simp] theorem setPart_landing (p : Nat) (v : Option Part) : (setPart s p v).landing = s.landing := rfl
@[simp] theorem setPart_dies (p : Nat) (v : Option Part) : (setPart s p v).dies = s.dies := rfl
@[simp] theorem setPart_reusable (p : Nat) (v : Option Part) : (setPart s p v).reusable = s.reusable := rfl
@[simp] theorem setPart_buckets (p : Nat) (v : Option Part) : (setPart s p v).buckets = s.buckets := rfl
@[simp] theorem setPart_hbm (p : Nat) (v : Option Part) : (setPart s p v).hbm = s.hbm := rfl
@[simp] theorem setPart_ddr (p : Nat) (v : Option Part) : (setPart s p v).ddr = s.ddr := rfl
@[simp] theorem setPart_ddrSpeed (p : Nat) (v : Option Part) : (setPart s p v).ddrSpeed = s.ddrSpeed := rfl
@[simp] theorem setPart_ddrDimms (p : Nat) (v : Option Part) : (setPart s p v).ddrDimms = s.ddrDimms := rfl
@[simp] theorem setPart_ddrGib (p : Nat) (v : Option Part) : (setPart s p v).ddrGib = s.ddrGib := rfl
@[simp] theorem setPart_spares (p : Nat) (v : Option Part) : (setPart s p v).spares = s.spares := rfl
@[simp] theorem setPart_links (p : Nat) (v : Option Part) : (setPart s p v).links = s.links := rfl
@[simp] theorem setPart_halfLinks (p : Nat) (v : Option Part) : (setPart s p v).halfLinks = s.halfLinks := rfl
@[simp] theorem setPart_fused (p : Nat) (v : Option Part) : (setPart s p v).fused = s.fused := rfl
@[simp] theorem setPart_soft (p : Nat) (v : Option Part) : (setPart s p v).soft = s.soft := rfl
@[simp] theorem setPart_scree (p : Nat) (v : Option Part) : (setPart s p v).scree = s.scree := rfl
@[simp] theorem setPart_history (p : Nat) (v : Option Part) : (setPart s p v).history = s.history := rfl
@[simp] theorem setPart_charged (p : Nat) (v : Option Part) : (setPart s p v).charged = s.charged := rfl
@[simp] theorem setPart_dumps (p : Nat) (v : Option Part) : (setPart s p v).dumps = s.dumps := rfl
@[simp] theorem setPart_skipped (p : Nat) (v : Option Part) : (setPart s p v).skipped = s.skipped := rfl
@[simp] theorem setPart_sweepMin (p : Nat) (v : Option Part) : (setPart s p v).sweepMin = s.sweepMin := rfl
@[simp] theorem setPart_sweep (p : Nat) (v : Option Part) : (setPart s p v).sweep = s.sweep := rfl
@[simp] theorem setPart_sounding (p : Nat) (v : Option Part) : (setPart s p v).sounding = s.sounding := rfl
@[simp] theorem setPart_sweepFrom (p : Nat) (v : Option Part) : (setPart s p v).sweepFrom = s.sweepFrom := rfl
@[simp] theorem setPart_sweepSize (p : Nat) (v : Option Part) : (setPart s p v).sweepSize = s.sweepSize := rfl
@[simp] theorem setPart_sweepOut (p : Nat) (v : Option Part) : (setPart s p v).sweepOut = s.sweepOut := rfl
@[simp] theorem setPart_unsounded (p : Nat) (v : Option Part) : (setPart s p v).unsounded = s.unsounded := rfl
@[simp] theorem setPart_missed (p : Nat) (v : Option Part) : (setPart s p v).missed = s.missed := rfl
@[simp] theorem setPart_tapCount (p : Nat) (v : Option Part) : (setPart s p v).tapCount = s.tapCount := rfl
@[simp] theorem setPart_hbmMoved (p : Nat) (v : Option Part) : (setPart s p v).hbmMoved = s.hbmMoved := rfl
@[simp] theorem setPart_tapTurn (p : Nat) (v : Option Part) : (setPart s p v).tapTurn = s.tapTurn := rfl
@[simp] theorem setPart_genAt (p : Nat) (v : Option Part) : (setPart s p v).genAt = s.genAt := rfl
@[simp] theorem setPart_portMode (p : Nat) (v : Option Part) : (setPart s p v).portMode = s.portMode := rfl
@[simp] theorem setPart_modePend (p : Nat) (v : Option Part) : (setPart s p v).modePend = s.modePend := rfl
@[simp] theorem setPart_resetPend (p : Nat) (v : Option Part) : (setPart s p v).resetPend = s.resetPend := rfl
@[simp] theorem setPart_lports (p : Nat) (v : Option Part) : (setPart s p v).lports = s.lports := rfl
@[simp] theorem setPart_neigh (p : Nat) (v : Option Part) : (setPart s p v).neigh = s.neigh := rfl
@[simp] theorem setPart_netOut (p : Nat) (v : Option Part) : (setPart s p v).netOut = s.netOut := rfl
@[simp] theorem setPart_ptpPort (p : Nat) (v : Option Part) : (setPart s p v).ptpPort = s.ptpPort := rfl
@[simp] theorem setPart_ptpHeard (p : Nat) (v : Option Part) : (setPart s p v).ptpHeard = s.ptpHeard := rfl
@[simp] theorem setPart_ptpFree (p : Nat) (v : Option Part) : (setPart s p v).ptpFree = s.ptpFree := rfl
@[simp] theorem setPart_ptpSync (p : Nat) (v : Option Part) : (setPart s p v).ptpSync = s.ptpSync := rfl
@[simp] theorem setPart_ptpDelay (p : Nat) (v : Option Part) : (setPart s p v).ptpDelay = s.ptpDelay := rfl
@[simp] theorem setPart_ptpReq (p : Nat) (v : Option Part) : (setPart s p v).ptpReq = s.ptpReq := rfl
@[simp] theorem setPart_stamps (p : Nat) (v : Option Part) : (setPart s p v).stamps = s.stamps := rfl
@[simp] theorem setPart_qps (p : Nat) (v : Option Part) : (setPart s p v).qps = s.qps := rfl
@[simp] theorem setPart_regions (p : Nat) (v : Option Part) : (setPart s p v).regions = s.regions := rfl
@[simp] theorem setPart_cmds (p : Nat) (v : Option Part) : (setPart s p v).cmds = s.cmds := rfl
@[simp] theorem setPart_sent (p : Nat) (v : Option Part) : (setPart s p v).sent = s.sent := rfl
@[simp] theorem setPart_seqHigh (p : Nat) (v : Option Part) : (setPart s p v).seqHigh = s.seqHigh := rfl
@[simp] theorem setPart_seqSeen (p : Nat) (v : Option Part) : (setPart s p v).seqSeen = s.seqSeen := rfl
@[simp] theorem setPart_seqFlash (p : Nat) (v : Option Part) : (setPart s p v).seqFlash = s.seqFlash := rfl
@[simp] theorem setPart_power (p : Nat) (v : Option Part) : (setPart s p v).power = s.power := rfl
@[simp] theorem setPart_pwrLimit (p : Nat) (v : Option Part) : (setPart s p v).pwrLimit = s.pwrLimit := rfl
@[simp] theorem setPart_pwrRefused (p : Nat) (v : Option Part) : (setPart s p v).pwrRefused = s.pwrRefused := rfl
@[simp] theorem setPart_hbmPace (p : Nat) (v : Option Part) : (setPart s p v).hbmPace = s.hbmPace := rfl
@[simp] theorem setPart_stackPace (p : Nat) (v : Option Part) : (setPart s p v).stackPace = s.stackPace := rfl
@[simp] theorem setPart_brake (p : Nat) (v : Option Part) : (setPart s p v).brake = s.brake := rfl
@[simp] theorem setPart_temps (p : Nat) (v : Option Part) : (setPart s p v).temps = s.temps := rfl
@[simp] theorem setPart_restoredAt (p : Nat) (v : Option Part) : (setPart s p v).restoredAt = s.restoredAt := rfl
@[simp] theorem setPart_turn (p : Nat) (v : Option Part) : (setPart s p v).turn = s.turn := rfl
@[simp] theorem setPart_outBefore (p : Nat) (v : Option Part) : (setPart s p v).outBefore = s.outBefore := rfl
@[simp] theorem setPart_binAt (p : Nat) (v : Option Part) : (setPart s p v).binAt = s.binAt := rfl
@[simp] theorem setPart_trip (p : Nat) (v : Option Part) : (setPart s p v).trip = s.trip := rfl
@[simp] theorem setPart_resetLow (p : Nat) (v : Option Part) : (setPart s p v).resetLow = s.resetLow := rfl
@[simp] theorem setPart_flash (p : Nat) (v : Option Part) : (setPart s p v).flash = s.flash := rfl
@[simp] theorem setPart_meter (p : Nat) (v : Option Part) : (setPart s p v).meter = s.meter := rfl
@[simp] theorem setPart_jtagOut (p : Nat) (v : Option Part) : (setPart s p v).jtagOut = s.jtagOut := rfl
@[simp] theorem setPart_pending (p : Nat) (v : Option Part) : (setPart s p v).pending = s.pending := rfl

/-! ### modPart -/

@[simp] theorem modPart_product (p : Nat) (f : Part → Part) : (modPart s p f).product = s.product := rfl
@[simp] theorem modPart_fab (p : Nat) (f : Part → Part) : (modPart s p f).fab = s.fab := rfl
@[simp] theorem modPart_idKey (p : Nat) (f : Part → Part) : (modPart s p f).idKey = s.idKey := rfl
@[simp] theorem modPart_storageKey (p : Nat) (f : Part → Part) : (modPart s p f).storageKey = s.storageKey := rfl
@[simp] theorem modPart_meterUnread (p : Nat) (f : Part → Part) : (modPart s p f).meterUnread = s.meterUnread := rfl
@[simp] theorem modPart_timeBase (p : Nat) (f : Part → Part) : (modPart s p f).timeBase = s.timeBase := rfl
@[simp] theorem modPart_freeSeq (p : Nat) (f : Part → Part) : (modPart s p f).freeSeq = s.freeSeq := rfl
@[simp] theorem modPart_boot (p : Nat) (f : Part → Part) : (modPart s p f).boot = s.boot := rfl
@[simp] theorem modPart_bootFull (p : Nat) (f : Part → Part) : (modPart s p f).bootFull = s.bootFull := rfl
@[simp] theorem modPart_bootFrom (p : Nat) (f : Part → Part) : (modPart s p f).bootFrom = s.bootFrom := rfl
@[simp] theorem modPart_report (p : Nat) (f : Part → Part) : (modPart s p f).report = s.report := rfl
@[simp] theorem modPart_bootLog (p : Nat) (f : Part → Part) : (modPart s p f).bootLog = s.bootLog := rfl
@[simp] theorem modPart_ibis (p : Nat) (f : Part → Part) : (modPart s p f).ibis = s.ibis := rfl
@[simp] theorem modPart_i3cAddr (p : Nat) (f : Part → Part) : (modPart s p f).i3cAddr = s.i3cAddr := rfl
@[simp] theorem modPart_fw (p : Nat) (f : Part → Part) : (modPart s p f).fw = s.fw := rfl
@[simp] theorem modPart_service (p : Nat) (f : Part → Part) : (modPart s p f).service = s.service := rfl
@[simp] theorem modPart_ouvosUp (p : Nat) (f : Part → Part) : (modPart s p f).ouvosUp = s.ouvosUp := rfl
@[simp] theorem modPart_loadMode (p : Nat) (f : Part → Part) : (modPart s p f).loadMode = s.loadMode := rfl
@[simp] theorem modPart_flockNo (p : Nat) (f : Part → Part) : (modPart s p f).flockNo = s.flockNo := rfl
@[simp] theorem modPart_refclk (p : Nat) (f : Part → Part) : (modPart s p f).refclk = s.refclk := rfl
@[simp] theorem modPart_cores (p : Nat) (f : Part → Part) : (modPart s p f).cores = s.cores := rfl
@[simp] theorem modPart_atMs (p : Nat) (f : Part → Part) : (modPart s p f).atMs = s.atMs := rfl
@[simp] theorem modPart_fence (p : Nat) (f : Part → Part) : (modPart s p f).fence = s.fence := rfl
@[simp] theorem modPart_cluFence (p : Nat) (f : Part → Part) : (modPart s p f).cluFence = s.cluFence := rfl
@[simp] theorem modPart_shift (p : Nat) (f : Part → Part) : (modPart s p f).shift = s.shift := rfl
@[simp] theorem modPart_switches (p : Nat) (f : Part → Part) : (modPart s p f).switches = s.switches := rfl
@[simp] theorem modPart_slices (p : Nat) (f : Part → Part) : (modPart s p f).slices = s.slices := rfl
@[simp] theorem modPart_routers (p : Nat) (f : Part → Part) : (modPart s p f).routers = s.routers := rfl
@[simp] theorem modPart_ends (p : Nat) (f : Part → Part) : (modPart s p f).ends = s.ends := rfl
@[simp] theorem modPart_landing (p : Nat) (f : Part → Part) : (modPart s p f).landing = s.landing := rfl
@[simp] theorem modPart_dies (p : Nat) (f : Part → Part) : (modPart s p f).dies = s.dies := rfl
@[simp] theorem modPart_reusable (p : Nat) (f : Part → Part) : (modPart s p f).reusable = s.reusable := rfl
@[simp] theorem modPart_buckets (p : Nat) (f : Part → Part) : (modPart s p f).buckets = s.buckets := rfl
@[simp] theorem modPart_hbm (p : Nat) (f : Part → Part) : (modPart s p f).hbm = s.hbm := rfl
@[simp] theorem modPart_ddr (p : Nat) (f : Part → Part) : (modPart s p f).ddr = s.ddr := rfl
@[simp] theorem modPart_ddrSpeed (p : Nat) (f : Part → Part) : (modPart s p f).ddrSpeed = s.ddrSpeed := rfl
@[simp] theorem modPart_ddrDimms (p : Nat) (f : Part → Part) : (modPart s p f).ddrDimms = s.ddrDimms := rfl
@[simp] theorem modPart_ddrGib (p : Nat) (f : Part → Part) : (modPart s p f).ddrGib = s.ddrGib := rfl
@[simp] theorem modPart_spares (p : Nat) (f : Part → Part) : (modPart s p f).spares = s.spares := rfl
@[simp] theorem modPart_links (p : Nat) (f : Part → Part) : (modPart s p f).links = s.links := rfl
@[simp] theorem modPart_halfLinks (p : Nat) (f : Part → Part) : (modPart s p f).halfLinks = s.halfLinks := rfl
@[simp] theorem modPart_fused (p : Nat) (f : Part → Part) : (modPart s p f).fused = s.fused := rfl
@[simp] theorem modPart_soft (p : Nat) (f : Part → Part) : (modPart s p f).soft = s.soft := rfl
@[simp] theorem modPart_scree (p : Nat) (f : Part → Part) : (modPart s p f).scree = s.scree := rfl
@[simp] theorem modPart_history (p : Nat) (f : Part → Part) : (modPart s p f).history = s.history := rfl
@[simp] theorem modPart_charged (p : Nat) (f : Part → Part) : (modPart s p f).charged = s.charged := rfl
@[simp] theorem modPart_dumps (p : Nat) (f : Part → Part) : (modPart s p f).dumps = s.dumps := rfl
@[simp] theorem modPart_skipped (p : Nat) (f : Part → Part) : (modPart s p f).skipped = s.skipped := rfl
@[simp] theorem modPart_sweepMin (p : Nat) (f : Part → Part) : (modPart s p f).sweepMin = s.sweepMin := rfl
@[simp] theorem modPart_sweep (p : Nat) (f : Part → Part) : (modPart s p f).sweep = s.sweep := rfl
@[simp] theorem modPart_sounding (p : Nat) (f : Part → Part) : (modPart s p f).sounding = s.sounding := rfl
@[simp] theorem modPart_sweepFrom (p : Nat) (f : Part → Part) : (modPart s p f).sweepFrom = s.sweepFrom := rfl
@[simp] theorem modPart_sweepSize (p : Nat) (f : Part → Part) : (modPart s p f).sweepSize = s.sweepSize := rfl
@[simp] theorem modPart_sweepOut (p : Nat) (f : Part → Part) : (modPart s p f).sweepOut = s.sweepOut := rfl
@[simp] theorem modPart_unsounded (p : Nat) (f : Part → Part) : (modPart s p f).unsounded = s.unsounded := rfl
@[simp] theorem modPart_missed (p : Nat) (f : Part → Part) : (modPart s p f).missed = s.missed := rfl
@[simp] theorem modPart_tapCount (p : Nat) (f : Part → Part) : (modPart s p f).tapCount = s.tapCount := rfl
@[simp] theorem modPart_hbmMoved (p : Nat) (f : Part → Part) : (modPart s p f).hbmMoved = s.hbmMoved := rfl
@[simp] theorem modPart_tapTurn (p : Nat) (f : Part → Part) : (modPart s p f).tapTurn = s.tapTurn := rfl
@[simp] theorem modPart_genAt (p : Nat) (f : Part → Part) : (modPart s p f).genAt = s.genAt := rfl
@[simp] theorem modPart_portMode (p : Nat) (f : Part → Part) : (modPart s p f).portMode = s.portMode := rfl
@[simp] theorem modPart_modePend (p : Nat) (f : Part → Part) : (modPart s p f).modePend = s.modePend := rfl
@[simp] theorem modPart_resetPend (p : Nat) (f : Part → Part) : (modPart s p f).resetPend = s.resetPend := rfl
@[simp] theorem modPart_lports (p : Nat) (f : Part → Part) : (modPart s p f).lports = s.lports := rfl
@[simp] theorem modPart_neigh (p : Nat) (f : Part → Part) : (modPart s p f).neigh = s.neigh := rfl
@[simp] theorem modPart_netOut (p : Nat) (f : Part → Part) : (modPart s p f).netOut = s.netOut := rfl
@[simp] theorem modPart_ptpPort (p : Nat) (f : Part → Part) : (modPart s p f).ptpPort = s.ptpPort := rfl
@[simp] theorem modPart_ptpHeard (p : Nat) (f : Part → Part) : (modPart s p f).ptpHeard = s.ptpHeard := rfl
@[simp] theorem modPart_ptpFree (p : Nat) (f : Part → Part) : (modPart s p f).ptpFree = s.ptpFree := rfl
@[simp] theorem modPart_ptpSync (p : Nat) (f : Part → Part) : (modPart s p f).ptpSync = s.ptpSync := rfl
@[simp] theorem modPart_ptpDelay (p : Nat) (f : Part → Part) : (modPart s p f).ptpDelay = s.ptpDelay := rfl
@[simp] theorem modPart_ptpReq (p : Nat) (f : Part → Part) : (modPart s p f).ptpReq = s.ptpReq := rfl
@[simp] theorem modPart_stamps (p : Nat) (f : Part → Part) : (modPart s p f).stamps = s.stamps := rfl
@[simp] theorem modPart_qps (p : Nat) (f : Part → Part) : (modPart s p f).qps = s.qps := rfl
@[simp] theorem modPart_regions (p : Nat) (f : Part → Part) : (modPart s p f).regions = s.regions := rfl
@[simp] theorem modPart_cmds (p : Nat) (f : Part → Part) : (modPart s p f).cmds = s.cmds := rfl
@[simp] theorem modPart_sent (p : Nat) (f : Part → Part) : (modPart s p f).sent = s.sent := rfl
@[simp] theorem modPart_seqHigh (p : Nat) (f : Part → Part) : (modPart s p f).seqHigh = s.seqHigh := rfl
@[simp] theorem modPart_seqSeen (p : Nat) (f : Part → Part) : (modPart s p f).seqSeen = s.seqSeen := rfl
@[simp] theorem modPart_seqFlash (p : Nat) (f : Part → Part) : (modPart s p f).seqFlash = s.seqFlash := rfl
@[simp] theorem modPart_power (p : Nat) (f : Part → Part) : (modPart s p f).power = s.power := rfl
@[simp] theorem modPart_pwrLimit (p : Nat) (f : Part → Part) : (modPart s p f).pwrLimit = s.pwrLimit := rfl
@[simp] theorem modPart_pwrRefused (p : Nat) (f : Part → Part) : (modPart s p f).pwrRefused = s.pwrRefused := rfl
@[simp] theorem modPart_hbmPace (p : Nat) (f : Part → Part) : (modPart s p f).hbmPace = s.hbmPace := rfl
@[simp] theorem modPart_stackPace (p : Nat) (f : Part → Part) : (modPart s p f).stackPace = s.stackPace := rfl
@[simp] theorem modPart_brake (p : Nat) (f : Part → Part) : (modPart s p f).brake = s.brake := rfl
@[simp] theorem modPart_temps (p : Nat) (f : Part → Part) : (modPart s p f).temps = s.temps := rfl
@[simp] theorem modPart_restoredAt (p : Nat) (f : Part → Part) : (modPart s p f).restoredAt = s.restoredAt := rfl
@[simp] theorem modPart_turn (p : Nat) (f : Part → Part) : (modPart s p f).turn = s.turn := rfl
@[simp] theorem modPart_outBefore (p : Nat) (f : Part → Part) : (modPart s p f).outBefore = s.outBefore := rfl
@[simp] theorem modPart_binAt (p : Nat) (f : Part → Part) : (modPart s p f).binAt = s.binAt := rfl
@[simp] theorem modPart_trip (p : Nat) (f : Part → Part) : (modPart s p f).trip = s.trip := rfl
@[simp] theorem modPart_resetLow (p : Nat) (f : Part → Part) : (modPart s p f).resetLow = s.resetLow := rfl
@[simp] theorem modPart_flash (p : Nat) (f : Part → Part) : (modPart s p f).flash = s.flash := rfl
@[simp] theorem modPart_meter (p : Nat) (f : Part → Part) : (modPart s p f).meter = s.meter := rfl
@[simp] theorem modPart_jtagOut (p : Nat) (f : Part → Part) : (modPart s p f).jtagOut = s.jtagOut := rfl
@[simp] theorem modPart_pending (p : Nat) (f : Part → Part) : (modPart s p f).pending = s.pending := rfl

/-! ### setQp -/

@[simp] theorem setQp_product (q : Nat) (v : Option Qp) : (setQp s q v).product = s.product := rfl
@[simp] theorem setQp_fab (q : Nat) (v : Option Qp) : (setQp s q v).fab = s.fab := rfl
@[simp] theorem setQp_idKey (q : Nat) (v : Option Qp) : (setQp s q v).idKey = s.idKey := rfl
@[simp] theorem setQp_storageKey (q : Nat) (v : Option Qp) : (setQp s q v).storageKey = s.storageKey := rfl
@[simp] theorem setQp_meterUnread (q : Nat) (v : Option Qp) : (setQp s q v).meterUnread = s.meterUnread := rfl
@[simp] theorem setQp_timeBase (q : Nat) (v : Option Qp) : (setQp s q v).timeBase = s.timeBase := rfl
@[simp] theorem setQp_freeSeq (q : Nat) (v : Option Qp) : (setQp s q v).freeSeq = s.freeSeq := rfl
@[simp] theorem setQp_boot (q : Nat) (v : Option Qp) : (setQp s q v).boot = s.boot := rfl
@[simp] theorem setQp_bootFull (q : Nat) (v : Option Qp) : (setQp s q v).bootFull = s.bootFull := rfl
@[simp] theorem setQp_bootFrom (q : Nat) (v : Option Qp) : (setQp s q v).bootFrom = s.bootFrom := rfl
@[simp] theorem setQp_report (q : Nat) (v : Option Qp) : (setQp s q v).report = s.report := rfl
@[simp] theorem setQp_bootLog (q : Nat) (v : Option Qp) : (setQp s q v).bootLog = s.bootLog := rfl
@[simp] theorem setQp_ibis (q : Nat) (v : Option Qp) : (setQp s q v).ibis = s.ibis := rfl
@[simp] theorem setQp_i3cAddr (q : Nat) (v : Option Qp) : (setQp s q v).i3cAddr = s.i3cAddr := rfl
@[simp] theorem setQp_fw (q : Nat) (v : Option Qp) : (setQp s q v).fw = s.fw := rfl
@[simp] theorem setQp_service (q : Nat) (v : Option Qp) : (setQp s q v).service = s.service := rfl
@[simp] theorem setQp_ouvosUp (q : Nat) (v : Option Qp) : (setQp s q v).ouvosUp = s.ouvosUp := rfl
@[simp] theorem setQp_loadMode (q : Nat) (v : Option Qp) : (setQp s q v).loadMode = s.loadMode := rfl
@[simp] theorem setQp_flockNo (q : Nat) (v : Option Qp) : (setQp s q v).flockNo = s.flockNo := rfl
@[simp] theorem setQp_refclk (q : Nat) (v : Option Qp) : (setQp s q v).refclk = s.refclk := rfl
@[simp] theorem setQp_cores (q : Nat) (v : Option Qp) : (setQp s q v).cores = s.cores := rfl
@[simp] theorem setQp_atMs (q : Nat) (v : Option Qp) : (setQp s q v).atMs = s.atMs := rfl
@[simp] theorem setQp_fence (q : Nat) (v : Option Qp) : (setQp s q v).fence = s.fence := rfl
@[simp] theorem setQp_cluFence (q : Nat) (v : Option Qp) : (setQp s q v).cluFence = s.cluFence := rfl
@[simp] theorem setQp_shift (q : Nat) (v : Option Qp) : (setQp s q v).shift = s.shift := rfl
@[simp] theorem setQp_switches (q : Nat) (v : Option Qp) : (setQp s q v).switches = s.switches := rfl
@[simp] theorem setQp_slices (q : Nat) (v : Option Qp) : (setQp s q v).slices = s.slices := rfl
@[simp] theorem setQp_routers (q : Nat) (v : Option Qp) : (setQp s q v).routers = s.routers := rfl
@[simp] theorem setQp_ends (q : Nat) (v : Option Qp) : (setQp s q v).ends = s.ends := rfl
@[simp] theorem setQp_landing (q : Nat) (v : Option Qp) : (setQp s q v).landing = s.landing := rfl
@[simp] theorem setQp_dies (q : Nat) (v : Option Qp) : (setQp s q v).dies = s.dies := rfl
@[simp] theorem setQp_parts (q : Nat) (v : Option Qp) : (setQp s q v).parts = s.parts := rfl
@[simp] theorem setQp_reusable (q : Nat) (v : Option Qp) : (setQp s q v).reusable = s.reusable := rfl
@[simp] theorem setQp_buckets (q : Nat) (v : Option Qp) : (setQp s q v).buckets = s.buckets := rfl
@[simp] theorem setQp_hbm (q : Nat) (v : Option Qp) : (setQp s q v).hbm = s.hbm := rfl
@[simp] theorem setQp_ddr (q : Nat) (v : Option Qp) : (setQp s q v).ddr = s.ddr := rfl
@[simp] theorem setQp_ddrSpeed (q : Nat) (v : Option Qp) : (setQp s q v).ddrSpeed = s.ddrSpeed := rfl
@[simp] theorem setQp_ddrDimms (q : Nat) (v : Option Qp) : (setQp s q v).ddrDimms = s.ddrDimms := rfl
@[simp] theorem setQp_ddrGib (q : Nat) (v : Option Qp) : (setQp s q v).ddrGib = s.ddrGib := rfl
@[simp] theorem setQp_spares (q : Nat) (v : Option Qp) : (setQp s q v).spares = s.spares := rfl
@[simp] theorem setQp_links (q : Nat) (v : Option Qp) : (setQp s q v).links = s.links := rfl
@[simp] theorem setQp_halfLinks (q : Nat) (v : Option Qp) : (setQp s q v).halfLinks = s.halfLinks := rfl
@[simp] theorem setQp_fused (q : Nat) (v : Option Qp) : (setQp s q v).fused = s.fused := rfl
@[simp] theorem setQp_soft (q : Nat) (v : Option Qp) : (setQp s q v).soft = s.soft := rfl
@[simp] theorem setQp_scree (q : Nat) (v : Option Qp) : (setQp s q v).scree = s.scree := rfl
@[simp] theorem setQp_history (q : Nat) (v : Option Qp) : (setQp s q v).history = s.history := rfl
@[simp] theorem setQp_charged (q : Nat) (v : Option Qp) : (setQp s q v).charged = s.charged := rfl
@[simp] theorem setQp_dumps (q : Nat) (v : Option Qp) : (setQp s q v).dumps = s.dumps := rfl
@[simp] theorem setQp_skipped (q : Nat) (v : Option Qp) : (setQp s q v).skipped = s.skipped := rfl
@[simp] theorem setQp_sweepMin (q : Nat) (v : Option Qp) : (setQp s q v).sweepMin = s.sweepMin := rfl
@[simp] theorem setQp_sweep (q : Nat) (v : Option Qp) : (setQp s q v).sweep = s.sweep := rfl
@[simp] theorem setQp_sounding (q : Nat) (v : Option Qp) : (setQp s q v).sounding = s.sounding := rfl
@[simp] theorem setQp_sweepFrom (q : Nat) (v : Option Qp) : (setQp s q v).sweepFrom = s.sweepFrom := rfl
@[simp] theorem setQp_sweepSize (q : Nat) (v : Option Qp) : (setQp s q v).sweepSize = s.sweepSize := rfl
@[simp] theorem setQp_sweepOut (q : Nat) (v : Option Qp) : (setQp s q v).sweepOut = s.sweepOut := rfl
@[simp] theorem setQp_unsounded (q : Nat) (v : Option Qp) : (setQp s q v).unsounded = s.unsounded := rfl
@[simp] theorem setQp_missed (q : Nat) (v : Option Qp) : (setQp s q v).missed = s.missed := rfl
@[simp] theorem setQp_tapCount (q : Nat) (v : Option Qp) : (setQp s q v).tapCount = s.tapCount := rfl
@[simp] theorem setQp_hbmMoved (q : Nat) (v : Option Qp) : (setQp s q v).hbmMoved = s.hbmMoved := rfl
@[simp] theorem setQp_tapTurn (q : Nat) (v : Option Qp) : (setQp s q v).tapTurn = s.tapTurn := rfl
@[simp] theorem setQp_genAt (q : Nat) (v : Option Qp) : (setQp s q v).genAt = s.genAt := rfl
@[simp] theorem setQp_portMode (q : Nat) (v : Option Qp) : (setQp s q v).portMode = s.portMode := rfl
@[simp] theorem setQp_modePend (q : Nat) (v : Option Qp) : (setQp s q v).modePend = s.modePend := rfl
@[simp] theorem setQp_resetPend (q : Nat) (v : Option Qp) : (setQp s q v).resetPend = s.resetPend := rfl
@[simp] theorem setQp_lports (q : Nat) (v : Option Qp) : (setQp s q v).lports = s.lports := rfl
@[simp] theorem setQp_neigh (q : Nat) (v : Option Qp) : (setQp s q v).neigh = s.neigh := rfl
@[simp] theorem setQp_netOut (q : Nat) (v : Option Qp) : (setQp s q v).netOut = s.netOut := rfl
@[simp] theorem setQp_ptpPort (q : Nat) (v : Option Qp) : (setQp s q v).ptpPort = s.ptpPort := rfl
@[simp] theorem setQp_ptpHeard (q : Nat) (v : Option Qp) : (setQp s q v).ptpHeard = s.ptpHeard := rfl
@[simp] theorem setQp_ptpFree (q : Nat) (v : Option Qp) : (setQp s q v).ptpFree = s.ptpFree := rfl
@[simp] theorem setQp_ptpSync (q : Nat) (v : Option Qp) : (setQp s q v).ptpSync = s.ptpSync := rfl
@[simp] theorem setQp_ptpDelay (q : Nat) (v : Option Qp) : (setQp s q v).ptpDelay = s.ptpDelay := rfl
@[simp] theorem setQp_ptpReq (q : Nat) (v : Option Qp) : (setQp s q v).ptpReq = s.ptpReq := rfl
@[simp] theorem setQp_stamps (q : Nat) (v : Option Qp) : (setQp s q v).stamps = s.stamps := rfl
@[simp] theorem setQp_regions (q : Nat) (v : Option Qp) : (setQp s q v).regions = s.regions := rfl
@[simp] theorem setQp_cmds (q : Nat) (v : Option Qp) : (setQp s q v).cmds = s.cmds := rfl
@[simp] theorem setQp_sent (q : Nat) (v : Option Qp) : (setQp s q v).sent = s.sent := rfl
@[simp] theorem setQp_seqHigh (q : Nat) (v : Option Qp) : (setQp s q v).seqHigh = s.seqHigh := rfl
@[simp] theorem setQp_seqSeen (q : Nat) (v : Option Qp) : (setQp s q v).seqSeen = s.seqSeen := rfl
@[simp] theorem setQp_seqFlash (q : Nat) (v : Option Qp) : (setQp s q v).seqFlash = s.seqFlash := rfl
@[simp] theorem setQp_power (q : Nat) (v : Option Qp) : (setQp s q v).power = s.power := rfl
@[simp] theorem setQp_pwrLimit (q : Nat) (v : Option Qp) : (setQp s q v).pwrLimit = s.pwrLimit := rfl
@[simp] theorem setQp_pwrRefused (q : Nat) (v : Option Qp) : (setQp s q v).pwrRefused = s.pwrRefused := rfl
@[simp] theorem setQp_hbmPace (q : Nat) (v : Option Qp) : (setQp s q v).hbmPace = s.hbmPace := rfl
@[simp] theorem setQp_stackPace (q : Nat) (v : Option Qp) : (setQp s q v).stackPace = s.stackPace := rfl
@[simp] theorem setQp_brake (q : Nat) (v : Option Qp) : (setQp s q v).brake = s.brake := rfl
@[simp] theorem setQp_temps (q : Nat) (v : Option Qp) : (setQp s q v).temps = s.temps := rfl
@[simp] theorem setQp_restoredAt (q : Nat) (v : Option Qp) : (setQp s q v).restoredAt = s.restoredAt := rfl
@[simp] theorem setQp_turn (q : Nat) (v : Option Qp) : (setQp s q v).turn = s.turn := rfl
@[simp] theorem setQp_outBefore (q : Nat) (v : Option Qp) : (setQp s q v).outBefore = s.outBefore := rfl
@[simp] theorem setQp_binAt (q : Nat) (v : Option Qp) : (setQp s q v).binAt = s.binAt := rfl
@[simp] theorem setQp_trip (q : Nat) (v : Option Qp) : (setQp s q v).trip = s.trip := rfl
@[simp] theorem setQp_resetLow (q : Nat) (v : Option Qp) : (setQp s q v).resetLow = s.resetLow := rfl
@[simp] theorem setQp_flash (q : Nat) (v : Option Qp) : (setQp s q v).flash = s.flash := rfl
@[simp] theorem setQp_meter (q : Nat) (v : Option Qp) : (setQp s q v).meter = s.meter := rfl
@[simp] theorem setQp_jtagOut (q : Nat) (v : Option Qp) : (setQp s q v).jtagOut = s.jtagOut := rfl
@[simp] theorem setQp_pending (q : Nat) (v : Option Qp) : (setQp s q v).pending = s.pending := rfl

/-! ### modQp -/

@[simp] theorem modQp_product (q : Nat) (f : Qp → Qp) : (modQp s q f).product = s.product := rfl
@[simp] theorem modQp_fab (q : Nat) (f : Qp → Qp) : (modQp s q f).fab = s.fab := rfl
@[simp] theorem modQp_idKey (q : Nat) (f : Qp → Qp) : (modQp s q f).idKey = s.idKey := rfl
@[simp] theorem modQp_storageKey (q : Nat) (f : Qp → Qp) : (modQp s q f).storageKey = s.storageKey := rfl
@[simp] theorem modQp_meterUnread (q : Nat) (f : Qp → Qp) : (modQp s q f).meterUnread = s.meterUnread := rfl
@[simp] theorem modQp_timeBase (q : Nat) (f : Qp → Qp) : (modQp s q f).timeBase = s.timeBase := rfl
@[simp] theorem modQp_freeSeq (q : Nat) (f : Qp → Qp) : (modQp s q f).freeSeq = s.freeSeq := rfl
@[simp] theorem modQp_boot (q : Nat) (f : Qp → Qp) : (modQp s q f).boot = s.boot := rfl
@[simp] theorem modQp_bootFull (q : Nat) (f : Qp → Qp) : (modQp s q f).bootFull = s.bootFull := rfl
@[simp] theorem modQp_bootFrom (q : Nat) (f : Qp → Qp) : (modQp s q f).bootFrom = s.bootFrom := rfl
@[simp] theorem modQp_report (q : Nat) (f : Qp → Qp) : (modQp s q f).report = s.report := rfl
@[simp] theorem modQp_bootLog (q : Nat) (f : Qp → Qp) : (modQp s q f).bootLog = s.bootLog := rfl
@[simp] theorem modQp_ibis (q : Nat) (f : Qp → Qp) : (modQp s q f).ibis = s.ibis := rfl
@[simp] theorem modQp_i3cAddr (q : Nat) (f : Qp → Qp) : (modQp s q f).i3cAddr = s.i3cAddr := rfl
@[simp] theorem modQp_fw (q : Nat) (f : Qp → Qp) : (modQp s q f).fw = s.fw := rfl
@[simp] theorem modQp_service (q : Nat) (f : Qp → Qp) : (modQp s q f).service = s.service := rfl
@[simp] theorem modQp_ouvosUp (q : Nat) (f : Qp → Qp) : (modQp s q f).ouvosUp = s.ouvosUp := rfl
@[simp] theorem modQp_loadMode (q : Nat) (f : Qp → Qp) : (modQp s q f).loadMode = s.loadMode := rfl
@[simp] theorem modQp_flockNo (q : Nat) (f : Qp → Qp) : (modQp s q f).flockNo = s.flockNo := rfl
@[simp] theorem modQp_refclk (q : Nat) (f : Qp → Qp) : (modQp s q f).refclk = s.refclk := rfl
@[simp] theorem modQp_cores (q : Nat) (f : Qp → Qp) : (modQp s q f).cores = s.cores := rfl
@[simp] theorem modQp_atMs (q : Nat) (f : Qp → Qp) : (modQp s q f).atMs = s.atMs := rfl
@[simp] theorem modQp_fence (q : Nat) (f : Qp → Qp) : (modQp s q f).fence = s.fence := rfl
@[simp] theorem modQp_cluFence (q : Nat) (f : Qp → Qp) : (modQp s q f).cluFence = s.cluFence := rfl
@[simp] theorem modQp_shift (q : Nat) (f : Qp → Qp) : (modQp s q f).shift = s.shift := rfl
@[simp] theorem modQp_switches (q : Nat) (f : Qp → Qp) : (modQp s q f).switches = s.switches := rfl
@[simp] theorem modQp_slices (q : Nat) (f : Qp → Qp) : (modQp s q f).slices = s.slices := rfl
@[simp] theorem modQp_routers (q : Nat) (f : Qp → Qp) : (modQp s q f).routers = s.routers := rfl
@[simp] theorem modQp_ends (q : Nat) (f : Qp → Qp) : (modQp s q f).ends = s.ends := rfl
@[simp] theorem modQp_landing (q : Nat) (f : Qp → Qp) : (modQp s q f).landing = s.landing := rfl
@[simp] theorem modQp_dies (q : Nat) (f : Qp → Qp) : (modQp s q f).dies = s.dies := rfl
@[simp] theorem modQp_parts (q : Nat) (f : Qp → Qp) : (modQp s q f).parts = s.parts := rfl
@[simp] theorem modQp_reusable (q : Nat) (f : Qp → Qp) : (modQp s q f).reusable = s.reusable := rfl
@[simp] theorem modQp_buckets (q : Nat) (f : Qp → Qp) : (modQp s q f).buckets = s.buckets := rfl
@[simp] theorem modQp_hbm (q : Nat) (f : Qp → Qp) : (modQp s q f).hbm = s.hbm := rfl
@[simp] theorem modQp_ddr (q : Nat) (f : Qp → Qp) : (modQp s q f).ddr = s.ddr := rfl
@[simp] theorem modQp_ddrSpeed (q : Nat) (f : Qp → Qp) : (modQp s q f).ddrSpeed = s.ddrSpeed := rfl
@[simp] theorem modQp_ddrDimms (q : Nat) (f : Qp → Qp) : (modQp s q f).ddrDimms = s.ddrDimms := rfl
@[simp] theorem modQp_ddrGib (q : Nat) (f : Qp → Qp) : (modQp s q f).ddrGib = s.ddrGib := rfl
@[simp] theorem modQp_spares (q : Nat) (f : Qp → Qp) : (modQp s q f).spares = s.spares := rfl
@[simp] theorem modQp_links (q : Nat) (f : Qp → Qp) : (modQp s q f).links = s.links := rfl
@[simp] theorem modQp_halfLinks (q : Nat) (f : Qp → Qp) : (modQp s q f).halfLinks = s.halfLinks := rfl
@[simp] theorem modQp_fused (q : Nat) (f : Qp → Qp) : (modQp s q f).fused = s.fused := rfl
@[simp] theorem modQp_soft (q : Nat) (f : Qp → Qp) : (modQp s q f).soft = s.soft := rfl
@[simp] theorem modQp_scree (q : Nat) (f : Qp → Qp) : (modQp s q f).scree = s.scree := rfl
@[simp] theorem modQp_history (q : Nat) (f : Qp → Qp) : (modQp s q f).history = s.history := rfl
@[simp] theorem modQp_charged (q : Nat) (f : Qp → Qp) : (modQp s q f).charged = s.charged := rfl
@[simp] theorem modQp_dumps (q : Nat) (f : Qp → Qp) : (modQp s q f).dumps = s.dumps := rfl
@[simp] theorem modQp_skipped (q : Nat) (f : Qp → Qp) : (modQp s q f).skipped = s.skipped := rfl
@[simp] theorem modQp_sweepMin (q : Nat) (f : Qp → Qp) : (modQp s q f).sweepMin = s.sweepMin := rfl
@[simp] theorem modQp_sweep (q : Nat) (f : Qp → Qp) : (modQp s q f).sweep = s.sweep := rfl
@[simp] theorem modQp_sounding (q : Nat) (f : Qp → Qp) : (modQp s q f).sounding = s.sounding := rfl
@[simp] theorem modQp_sweepFrom (q : Nat) (f : Qp → Qp) : (modQp s q f).sweepFrom = s.sweepFrom := rfl
@[simp] theorem modQp_sweepSize (q : Nat) (f : Qp → Qp) : (modQp s q f).sweepSize = s.sweepSize := rfl
@[simp] theorem modQp_sweepOut (q : Nat) (f : Qp → Qp) : (modQp s q f).sweepOut = s.sweepOut := rfl
@[simp] theorem modQp_unsounded (q : Nat) (f : Qp → Qp) : (modQp s q f).unsounded = s.unsounded := rfl
@[simp] theorem modQp_missed (q : Nat) (f : Qp → Qp) : (modQp s q f).missed = s.missed := rfl
@[simp] theorem modQp_tapCount (q : Nat) (f : Qp → Qp) : (modQp s q f).tapCount = s.tapCount := rfl
@[simp] theorem modQp_hbmMoved (q : Nat) (f : Qp → Qp) : (modQp s q f).hbmMoved = s.hbmMoved := rfl
@[simp] theorem modQp_tapTurn (q : Nat) (f : Qp → Qp) : (modQp s q f).tapTurn = s.tapTurn := rfl
@[simp] theorem modQp_genAt (q : Nat) (f : Qp → Qp) : (modQp s q f).genAt = s.genAt := rfl
@[simp] theorem modQp_portMode (q : Nat) (f : Qp → Qp) : (modQp s q f).portMode = s.portMode := rfl
@[simp] theorem modQp_modePend (q : Nat) (f : Qp → Qp) : (modQp s q f).modePend = s.modePend := rfl
@[simp] theorem modQp_resetPend (q : Nat) (f : Qp → Qp) : (modQp s q f).resetPend = s.resetPend := rfl
@[simp] theorem modQp_lports (q : Nat) (f : Qp → Qp) : (modQp s q f).lports = s.lports := rfl
@[simp] theorem modQp_neigh (q : Nat) (f : Qp → Qp) : (modQp s q f).neigh = s.neigh := rfl
@[simp] theorem modQp_netOut (q : Nat) (f : Qp → Qp) : (modQp s q f).netOut = s.netOut := rfl
@[simp] theorem modQp_ptpPort (q : Nat) (f : Qp → Qp) : (modQp s q f).ptpPort = s.ptpPort := rfl
@[simp] theorem modQp_ptpHeard (q : Nat) (f : Qp → Qp) : (modQp s q f).ptpHeard = s.ptpHeard := rfl
@[simp] theorem modQp_ptpFree (q : Nat) (f : Qp → Qp) : (modQp s q f).ptpFree = s.ptpFree := rfl
@[simp] theorem modQp_ptpSync (q : Nat) (f : Qp → Qp) : (modQp s q f).ptpSync = s.ptpSync := rfl
@[simp] theorem modQp_ptpDelay (q : Nat) (f : Qp → Qp) : (modQp s q f).ptpDelay = s.ptpDelay := rfl
@[simp] theorem modQp_ptpReq (q : Nat) (f : Qp → Qp) : (modQp s q f).ptpReq = s.ptpReq := rfl
@[simp] theorem modQp_stamps (q : Nat) (f : Qp → Qp) : (modQp s q f).stamps = s.stamps := rfl
@[simp] theorem modQp_regions (q : Nat) (f : Qp → Qp) : (modQp s q f).regions = s.regions := rfl
@[simp] theorem modQp_cmds (q : Nat) (f : Qp → Qp) : (modQp s q f).cmds = s.cmds := rfl
@[simp] theorem modQp_sent (q : Nat) (f : Qp → Qp) : (modQp s q f).sent = s.sent := rfl
@[simp] theorem modQp_seqHigh (q : Nat) (f : Qp → Qp) : (modQp s q f).seqHigh = s.seqHigh := rfl
@[simp] theorem modQp_seqSeen (q : Nat) (f : Qp → Qp) : (modQp s q f).seqSeen = s.seqSeen := rfl
@[simp] theorem modQp_seqFlash (q : Nat) (f : Qp → Qp) : (modQp s q f).seqFlash = s.seqFlash := rfl
@[simp] theorem modQp_power (q : Nat) (f : Qp → Qp) : (modQp s q f).power = s.power := rfl
@[simp] theorem modQp_pwrLimit (q : Nat) (f : Qp → Qp) : (modQp s q f).pwrLimit = s.pwrLimit := rfl
@[simp] theorem modQp_pwrRefused (q : Nat) (f : Qp → Qp) : (modQp s q f).pwrRefused = s.pwrRefused := rfl
@[simp] theorem modQp_hbmPace (q : Nat) (f : Qp → Qp) : (modQp s q f).hbmPace = s.hbmPace := rfl
@[simp] theorem modQp_stackPace (q : Nat) (f : Qp → Qp) : (modQp s q f).stackPace = s.stackPace := rfl
@[simp] theorem modQp_brake (q : Nat) (f : Qp → Qp) : (modQp s q f).brake = s.brake := rfl
@[simp] theorem modQp_temps (q : Nat) (f : Qp → Qp) : (modQp s q f).temps = s.temps := rfl
@[simp] theorem modQp_restoredAt (q : Nat) (f : Qp → Qp) : (modQp s q f).restoredAt = s.restoredAt := rfl
@[simp] theorem modQp_turn (q : Nat) (f : Qp → Qp) : (modQp s q f).turn = s.turn := rfl
@[simp] theorem modQp_outBefore (q : Nat) (f : Qp → Qp) : (modQp s q f).outBefore = s.outBefore := rfl
@[simp] theorem modQp_binAt (q : Nat) (f : Qp → Qp) : (modQp s q f).binAt = s.binAt := rfl
@[simp] theorem modQp_trip (q : Nat) (f : Qp → Qp) : (modQp s q f).trip = s.trip := rfl
@[simp] theorem modQp_resetLow (q : Nat) (f : Qp → Qp) : (modQp s q f).resetLow = s.resetLow := rfl
@[simp] theorem modQp_flash (q : Nat) (f : Qp → Qp) : (modQp s q f).flash = s.flash := rfl
@[simp] theorem modQp_meter (q : Nat) (f : Qp → Qp) : (modQp s q f).meter = s.meter := rfl
@[simp] theorem modQp_jtagOut (q : Nat) (f : Qp → Qp) : (modQp s q f).jtagOut = s.jtagOut := rfl
@[simp] theorem modQp_pending (q : Nat) (f : Qp → Qp) : (modQp s q f).pending = s.pending := rfl

/-! ### setLport -/

@[simp] theorem setLport_product (l : Nat) (v : LPort) : (setLport s l v).product = s.product := rfl
@[simp] theorem setLport_fab (l : Nat) (v : LPort) : (setLport s l v).fab = s.fab := rfl
@[simp] theorem setLport_idKey (l : Nat) (v : LPort) : (setLport s l v).idKey = s.idKey := rfl
@[simp] theorem setLport_storageKey (l : Nat) (v : LPort) : (setLport s l v).storageKey = s.storageKey := rfl
@[simp] theorem setLport_meterUnread (l : Nat) (v : LPort) : (setLport s l v).meterUnread = s.meterUnread := rfl
@[simp] theorem setLport_timeBase (l : Nat) (v : LPort) : (setLport s l v).timeBase = s.timeBase := rfl
@[simp] theorem setLport_freeSeq (l : Nat) (v : LPort) : (setLport s l v).freeSeq = s.freeSeq := rfl
@[simp] theorem setLport_boot (l : Nat) (v : LPort) : (setLport s l v).boot = s.boot := rfl
@[simp] theorem setLport_bootFull (l : Nat) (v : LPort) : (setLport s l v).bootFull = s.bootFull := rfl
@[simp] theorem setLport_bootFrom (l : Nat) (v : LPort) : (setLport s l v).bootFrom = s.bootFrom := rfl
@[simp] theorem setLport_report (l : Nat) (v : LPort) : (setLport s l v).report = s.report := rfl
@[simp] theorem setLport_bootLog (l : Nat) (v : LPort) : (setLport s l v).bootLog = s.bootLog := rfl
@[simp] theorem setLport_ibis (l : Nat) (v : LPort) : (setLport s l v).ibis = s.ibis := rfl
@[simp] theorem setLport_i3cAddr (l : Nat) (v : LPort) : (setLport s l v).i3cAddr = s.i3cAddr := rfl
@[simp] theorem setLport_fw (l : Nat) (v : LPort) : (setLport s l v).fw = s.fw := rfl
@[simp] theorem setLport_service (l : Nat) (v : LPort) : (setLport s l v).service = s.service := rfl
@[simp] theorem setLport_ouvosUp (l : Nat) (v : LPort) : (setLport s l v).ouvosUp = s.ouvosUp := rfl
@[simp] theorem setLport_loadMode (l : Nat) (v : LPort) : (setLport s l v).loadMode = s.loadMode := rfl
@[simp] theorem setLport_flockNo (l : Nat) (v : LPort) : (setLport s l v).flockNo = s.flockNo := rfl
@[simp] theorem setLport_refclk (l : Nat) (v : LPort) : (setLport s l v).refclk = s.refclk := rfl
@[simp] theorem setLport_cores (l : Nat) (v : LPort) : (setLport s l v).cores = s.cores := rfl
@[simp] theorem setLport_atMs (l : Nat) (v : LPort) : (setLport s l v).atMs = s.atMs := rfl
@[simp] theorem setLport_fence (l : Nat) (v : LPort) : (setLport s l v).fence = s.fence := rfl
@[simp] theorem setLport_cluFence (l : Nat) (v : LPort) : (setLport s l v).cluFence = s.cluFence := rfl
@[simp] theorem setLport_shift (l : Nat) (v : LPort) : (setLport s l v).shift = s.shift := rfl
@[simp] theorem setLport_switches (l : Nat) (v : LPort) : (setLport s l v).switches = s.switches := rfl
@[simp] theorem setLport_slices (l : Nat) (v : LPort) : (setLport s l v).slices = s.slices := rfl
@[simp] theorem setLport_routers (l : Nat) (v : LPort) : (setLport s l v).routers = s.routers := rfl
@[simp] theorem setLport_ends (l : Nat) (v : LPort) : (setLport s l v).ends = s.ends := rfl
@[simp] theorem setLport_landing (l : Nat) (v : LPort) : (setLport s l v).landing = s.landing := rfl
@[simp] theorem setLport_dies (l : Nat) (v : LPort) : (setLport s l v).dies = s.dies := rfl
@[simp] theorem setLport_parts (l : Nat) (v : LPort) : (setLport s l v).parts = s.parts := rfl
@[simp] theorem setLport_reusable (l : Nat) (v : LPort) : (setLport s l v).reusable = s.reusable := rfl
@[simp] theorem setLport_buckets (l : Nat) (v : LPort) : (setLport s l v).buckets = s.buckets := rfl
@[simp] theorem setLport_hbm (l : Nat) (v : LPort) : (setLport s l v).hbm = s.hbm := rfl
@[simp] theorem setLport_ddr (l : Nat) (v : LPort) : (setLport s l v).ddr = s.ddr := rfl
@[simp] theorem setLport_ddrSpeed (l : Nat) (v : LPort) : (setLport s l v).ddrSpeed = s.ddrSpeed := rfl
@[simp] theorem setLport_ddrDimms (l : Nat) (v : LPort) : (setLport s l v).ddrDimms = s.ddrDimms := rfl
@[simp] theorem setLport_ddrGib (l : Nat) (v : LPort) : (setLport s l v).ddrGib = s.ddrGib := rfl
@[simp] theorem setLport_spares (l : Nat) (v : LPort) : (setLport s l v).spares = s.spares := rfl
@[simp] theorem setLport_links (l : Nat) (v : LPort) : (setLport s l v).links = s.links := rfl
@[simp] theorem setLport_halfLinks (l : Nat) (v : LPort) : (setLport s l v).halfLinks = s.halfLinks := rfl
@[simp] theorem setLport_fused (l : Nat) (v : LPort) : (setLport s l v).fused = s.fused := rfl
@[simp] theorem setLport_soft (l : Nat) (v : LPort) : (setLport s l v).soft = s.soft := rfl
@[simp] theorem setLport_scree (l : Nat) (v : LPort) : (setLport s l v).scree = s.scree := rfl
@[simp] theorem setLport_history (l : Nat) (v : LPort) : (setLport s l v).history = s.history := rfl
@[simp] theorem setLport_charged (l : Nat) (v : LPort) : (setLport s l v).charged = s.charged := rfl
@[simp] theorem setLport_dumps (l : Nat) (v : LPort) : (setLport s l v).dumps = s.dumps := rfl
@[simp] theorem setLport_skipped (l : Nat) (v : LPort) : (setLport s l v).skipped = s.skipped := rfl
@[simp] theorem setLport_sweepMin (l : Nat) (v : LPort) : (setLport s l v).sweepMin = s.sweepMin := rfl
@[simp] theorem setLport_sweep (l : Nat) (v : LPort) : (setLport s l v).sweep = s.sweep := rfl
@[simp] theorem setLport_sounding (l : Nat) (v : LPort) : (setLport s l v).sounding = s.sounding := rfl
@[simp] theorem setLport_sweepFrom (l : Nat) (v : LPort) : (setLport s l v).sweepFrom = s.sweepFrom := rfl
@[simp] theorem setLport_sweepSize (l : Nat) (v : LPort) : (setLport s l v).sweepSize = s.sweepSize := rfl
@[simp] theorem setLport_sweepOut (l : Nat) (v : LPort) : (setLport s l v).sweepOut = s.sweepOut := rfl
@[simp] theorem setLport_unsounded (l : Nat) (v : LPort) : (setLport s l v).unsounded = s.unsounded := rfl
@[simp] theorem setLport_missed (l : Nat) (v : LPort) : (setLport s l v).missed = s.missed := rfl
@[simp] theorem setLport_tapCount (l : Nat) (v : LPort) : (setLport s l v).tapCount = s.tapCount := rfl
@[simp] theorem setLport_hbmMoved (l : Nat) (v : LPort) : (setLport s l v).hbmMoved = s.hbmMoved := rfl
@[simp] theorem setLport_tapTurn (l : Nat) (v : LPort) : (setLport s l v).tapTurn = s.tapTurn := rfl
@[simp] theorem setLport_genAt (l : Nat) (v : LPort) : (setLport s l v).genAt = s.genAt := rfl
@[simp] theorem setLport_portMode (l : Nat) (v : LPort) : (setLport s l v).portMode = s.portMode := rfl
@[simp] theorem setLport_modePend (l : Nat) (v : LPort) : (setLport s l v).modePend = s.modePend := rfl
@[simp] theorem setLport_resetPend (l : Nat) (v : LPort) : (setLport s l v).resetPend = s.resetPend := rfl
@[simp] theorem setLport_neigh (l : Nat) (v : LPort) : (setLport s l v).neigh = s.neigh := rfl
@[simp] theorem setLport_netOut (l : Nat) (v : LPort) : (setLport s l v).netOut = s.netOut := rfl
@[simp] theorem setLport_ptpPort (l : Nat) (v : LPort) : (setLport s l v).ptpPort = s.ptpPort := rfl
@[simp] theorem setLport_ptpHeard (l : Nat) (v : LPort) : (setLport s l v).ptpHeard = s.ptpHeard := rfl
@[simp] theorem setLport_ptpFree (l : Nat) (v : LPort) : (setLport s l v).ptpFree = s.ptpFree := rfl
@[simp] theorem setLport_ptpSync (l : Nat) (v : LPort) : (setLport s l v).ptpSync = s.ptpSync := rfl
@[simp] theorem setLport_ptpDelay (l : Nat) (v : LPort) : (setLport s l v).ptpDelay = s.ptpDelay := rfl
@[simp] theorem setLport_ptpReq (l : Nat) (v : LPort) : (setLport s l v).ptpReq = s.ptpReq := rfl
@[simp] theorem setLport_stamps (l : Nat) (v : LPort) : (setLport s l v).stamps = s.stamps := rfl
@[simp] theorem setLport_qps (l : Nat) (v : LPort) : (setLport s l v).qps = s.qps := rfl
@[simp] theorem setLport_regions (l : Nat) (v : LPort) : (setLport s l v).regions = s.regions := rfl
@[simp] theorem setLport_cmds (l : Nat) (v : LPort) : (setLport s l v).cmds = s.cmds := rfl
@[simp] theorem setLport_sent (l : Nat) (v : LPort) : (setLport s l v).sent = s.sent := rfl
@[simp] theorem setLport_seqHigh (l : Nat) (v : LPort) : (setLport s l v).seqHigh = s.seqHigh := rfl
@[simp] theorem setLport_seqSeen (l : Nat) (v : LPort) : (setLport s l v).seqSeen = s.seqSeen := rfl
@[simp] theorem setLport_seqFlash (l : Nat) (v : LPort) : (setLport s l v).seqFlash = s.seqFlash := rfl
@[simp] theorem setLport_power (l : Nat) (v : LPort) : (setLport s l v).power = s.power := rfl
@[simp] theorem setLport_pwrLimit (l : Nat) (v : LPort) : (setLport s l v).pwrLimit = s.pwrLimit := rfl
@[simp] theorem setLport_pwrRefused (l : Nat) (v : LPort) : (setLport s l v).pwrRefused = s.pwrRefused := rfl
@[simp] theorem setLport_hbmPace (l : Nat) (v : LPort) : (setLport s l v).hbmPace = s.hbmPace := rfl
@[simp] theorem setLport_stackPace (l : Nat) (v : LPort) : (setLport s l v).stackPace = s.stackPace := rfl
@[simp] theorem setLport_brake (l : Nat) (v : LPort) : (setLport s l v).brake = s.brake := rfl
@[simp] theorem setLport_temps (l : Nat) (v : LPort) : (setLport s l v).temps = s.temps := rfl
@[simp] theorem setLport_restoredAt (l : Nat) (v : LPort) : (setLport s l v).restoredAt = s.restoredAt := rfl
@[simp] theorem setLport_turn (l : Nat) (v : LPort) : (setLport s l v).turn = s.turn := rfl
@[simp] theorem setLport_outBefore (l : Nat) (v : LPort) : (setLport s l v).outBefore = s.outBefore := rfl
@[simp] theorem setLport_binAt (l : Nat) (v : LPort) : (setLport s l v).binAt = s.binAt := rfl
@[simp] theorem setLport_trip (l : Nat) (v : LPort) : (setLport s l v).trip = s.trip := rfl
@[simp] theorem setLport_resetLow (l : Nat) (v : LPort) : (setLport s l v).resetLow = s.resetLow := rfl
@[simp] theorem setLport_flash (l : Nat) (v : LPort) : (setLport s l v).flash = s.flash := rfl
@[simp] theorem setLport_meter (l : Nat) (v : LPort) : (setLport s l v).meter = s.meter := rfl
@[simp] theorem setLport_jtagOut (l : Nat) (v : LPort) : (setLport s l v).jtagOut = s.jtagOut := rfl
@[simp] theorem setLport_pending (l : Nat) (v : LPort) : (setLport s l v).pending = s.pending := rfl

/-! ### setShift -/

@[simp] theorem setShift_product (g v : Nat) : (setShift s g v).product = s.product := rfl
@[simp] theorem setShift_fab (g v : Nat) : (setShift s g v).fab = s.fab := rfl
@[simp] theorem setShift_idKey (g v : Nat) : (setShift s g v).idKey = s.idKey := rfl
@[simp] theorem setShift_storageKey (g v : Nat) : (setShift s g v).storageKey = s.storageKey := rfl
@[simp] theorem setShift_meterUnread (g v : Nat) : (setShift s g v).meterUnread = s.meterUnread := rfl
@[simp] theorem setShift_timeBase (g v : Nat) : (setShift s g v).timeBase = s.timeBase := rfl
@[simp] theorem setShift_freeSeq (g v : Nat) : (setShift s g v).freeSeq = s.freeSeq := rfl
@[simp] theorem setShift_boot (g v : Nat) : (setShift s g v).boot = s.boot := rfl
@[simp] theorem setShift_bootFull (g v : Nat) : (setShift s g v).bootFull = s.bootFull := rfl
@[simp] theorem setShift_bootFrom (g v : Nat) : (setShift s g v).bootFrom = s.bootFrom := rfl
@[simp] theorem setShift_report (g v : Nat) : (setShift s g v).report = s.report := rfl
@[simp] theorem setShift_bootLog (g v : Nat) : (setShift s g v).bootLog = s.bootLog := rfl
@[simp] theorem setShift_ibis (g v : Nat) : (setShift s g v).ibis = s.ibis := rfl
@[simp] theorem setShift_i3cAddr (g v : Nat) : (setShift s g v).i3cAddr = s.i3cAddr := rfl
@[simp] theorem setShift_fw (g v : Nat) : (setShift s g v).fw = s.fw := rfl
@[simp] theorem setShift_service (g v : Nat) : (setShift s g v).service = s.service := rfl
@[simp] theorem setShift_ouvosUp (g v : Nat) : (setShift s g v).ouvosUp = s.ouvosUp := rfl
@[simp] theorem setShift_loadMode (g v : Nat) : (setShift s g v).loadMode = s.loadMode := rfl
@[simp] theorem setShift_flockNo (g v : Nat) : (setShift s g v).flockNo = s.flockNo := rfl
@[simp] theorem setShift_refclk (g v : Nat) : (setShift s g v).refclk = s.refclk := rfl
@[simp] theorem setShift_cores (g v : Nat) : (setShift s g v).cores = s.cores := rfl
@[simp] theorem setShift_atMs (g v : Nat) : (setShift s g v).atMs = s.atMs := rfl
@[simp] theorem setShift_fence (g v : Nat) : (setShift s g v).fence = s.fence := rfl
@[simp] theorem setShift_cluFence (g v : Nat) : (setShift s g v).cluFence = s.cluFence := rfl
@[simp] theorem setShift_switches (g v : Nat) : (setShift s g v).switches = s.switches := rfl
@[simp] theorem setShift_slices (g v : Nat) : (setShift s g v).slices = s.slices := rfl
@[simp] theorem setShift_routers (g v : Nat) : (setShift s g v).routers = s.routers := rfl
@[simp] theorem setShift_ends (g v : Nat) : (setShift s g v).ends = s.ends := rfl
@[simp] theorem setShift_landing (g v : Nat) : (setShift s g v).landing = s.landing := rfl
@[simp] theorem setShift_dies (g v : Nat) : (setShift s g v).dies = s.dies := rfl
@[simp] theorem setShift_parts (g v : Nat) : (setShift s g v).parts = s.parts := rfl
@[simp] theorem setShift_reusable (g v : Nat) : (setShift s g v).reusable = s.reusable := rfl
@[simp] theorem setShift_buckets (g v : Nat) : (setShift s g v).buckets = s.buckets := rfl
@[simp] theorem setShift_hbm (g v : Nat) : (setShift s g v).hbm = s.hbm := rfl
@[simp] theorem setShift_ddr (g v : Nat) : (setShift s g v).ddr = s.ddr := rfl
@[simp] theorem setShift_ddrSpeed (g v : Nat) : (setShift s g v).ddrSpeed = s.ddrSpeed := rfl
@[simp] theorem setShift_ddrDimms (g v : Nat) : (setShift s g v).ddrDimms = s.ddrDimms := rfl
@[simp] theorem setShift_ddrGib (g v : Nat) : (setShift s g v).ddrGib = s.ddrGib := rfl
@[simp] theorem setShift_spares (g v : Nat) : (setShift s g v).spares = s.spares := rfl
@[simp] theorem setShift_links (g v : Nat) : (setShift s g v).links = s.links := rfl
@[simp] theorem setShift_halfLinks (g v : Nat) : (setShift s g v).halfLinks = s.halfLinks := rfl
@[simp] theorem setShift_fused (g v : Nat) : (setShift s g v).fused = s.fused := rfl
@[simp] theorem setShift_soft (g v : Nat) : (setShift s g v).soft = s.soft := rfl
@[simp] theorem setShift_scree (g v : Nat) : (setShift s g v).scree = s.scree := rfl
@[simp] theorem setShift_history (g v : Nat) : (setShift s g v).history = s.history := rfl
@[simp] theorem setShift_charged (g v : Nat) : (setShift s g v).charged = s.charged := rfl
@[simp] theorem setShift_dumps (g v : Nat) : (setShift s g v).dumps = s.dumps := rfl
@[simp] theorem setShift_skipped (g v : Nat) : (setShift s g v).skipped = s.skipped := rfl
@[simp] theorem setShift_sweepMin (g v : Nat) : (setShift s g v).sweepMin = s.sweepMin := rfl
@[simp] theorem setShift_sweep (g v : Nat) : (setShift s g v).sweep = s.sweep := rfl
@[simp] theorem setShift_sounding (g v : Nat) : (setShift s g v).sounding = s.sounding := rfl
@[simp] theorem setShift_sweepFrom (g v : Nat) : (setShift s g v).sweepFrom = s.sweepFrom := rfl
@[simp] theorem setShift_sweepSize (g v : Nat) : (setShift s g v).sweepSize = s.sweepSize := rfl
@[simp] theorem setShift_sweepOut (g v : Nat) : (setShift s g v).sweepOut = s.sweepOut := rfl
@[simp] theorem setShift_unsounded (g v : Nat) : (setShift s g v).unsounded = s.unsounded := rfl
@[simp] theorem setShift_missed (g v : Nat) : (setShift s g v).missed = s.missed := rfl
@[simp] theorem setShift_tapCount (g v : Nat) : (setShift s g v).tapCount = s.tapCount := rfl
@[simp] theorem setShift_hbmMoved (g v : Nat) : (setShift s g v).hbmMoved = s.hbmMoved := rfl
@[simp] theorem setShift_tapTurn (g v : Nat) : (setShift s g v).tapTurn = s.tapTurn := rfl
@[simp] theorem setShift_genAt (g v : Nat) : (setShift s g v).genAt = s.genAt := rfl
@[simp] theorem setShift_portMode (g v : Nat) : (setShift s g v).portMode = s.portMode := rfl
@[simp] theorem setShift_modePend (g v : Nat) : (setShift s g v).modePend = s.modePend := rfl
@[simp] theorem setShift_resetPend (g v : Nat) : (setShift s g v).resetPend = s.resetPend := rfl
@[simp] theorem setShift_lports (g v : Nat) : (setShift s g v).lports = s.lports := rfl
@[simp] theorem setShift_neigh (g v : Nat) : (setShift s g v).neigh = s.neigh := rfl
@[simp] theorem setShift_netOut (g v : Nat) : (setShift s g v).netOut = s.netOut := rfl
@[simp] theorem setShift_ptpPort (g v : Nat) : (setShift s g v).ptpPort = s.ptpPort := rfl
@[simp] theorem setShift_ptpHeard (g v : Nat) : (setShift s g v).ptpHeard = s.ptpHeard := rfl
@[simp] theorem setShift_ptpFree (g v : Nat) : (setShift s g v).ptpFree = s.ptpFree := rfl
@[simp] theorem setShift_ptpSync (g v : Nat) : (setShift s g v).ptpSync = s.ptpSync := rfl
@[simp] theorem setShift_ptpDelay (g v : Nat) : (setShift s g v).ptpDelay = s.ptpDelay := rfl
@[simp] theorem setShift_ptpReq (g v : Nat) : (setShift s g v).ptpReq = s.ptpReq := rfl
@[simp] theorem setShift_stamps (g v : Nat) : (setShift s g v).stamps = s.stamps := rfl
@[simp] theorem setShift_qps (g v : Nat) : (setShift s g v).qps = s.qps := rfl
@[simp] theorem setShift_regions (g v : Nat) : (setShift s g v).regions = s.regions := rfl
@[simp] theorem setShift_cmds (g v : Nat) : (setShift s g v).cmds = s.cmds := rfl
@[simp] theorem setShift_sent (g v : Nat) : (setShift s g v).sent = s.sent := rfl
@[simp] theorem setShift_seqHigh (g v : Nat) : (setShift s g v).seqHigh = s.seqHigh := rfl
@[simp] theorem setShift_seqSeen (g v : Nat) : (setShift s g v).seqSeen = s.seqSeen := rfl
@[simp] theorem setShift_seqFlash (g v : Nat) : (setShift s g v).seqFlash = s.seqFlash := rfl
@[simp] theorem setShift_power (g v : Nat) : (setShift s g v).power = s.power := rfl
@[simp] theorem setShift_pwrLimit (g v : Nat) : (setShift s g v).pwrLimit = s.pwrLimit := rfl
@[simp] theorem setShift_pwrRefused (g v : Nat) : (setShift s g v).pwrRefused = s.pwrRefused := rfl
@[simp] theorem setShift_hbmPace (g v : Nat) : (setShift s g v).hbmPace = s.hbmPace := rfl
@[simp] theorem setShift_stackPace (g v : Nat) : (setShift s g v).stackPace = s.stackPace := rfl
@[simp] theorem setShift_brake (g v : Nat) : (setShift s g v).brake = s.brake := rfl
@[simp] theorem setShift_temps (g v : Nat) : (setShift s g v).temps = s.temps := rfl
@[simp] theorem setShift_restoredAt (g v : Nat) : (setShift s g v).restoredAt = s.restoredAt := rfl
@[simp] theorem setShift_turn (g v : Nat) : (setShift s g v).turn = s.turn := rfl
@[simp] theorem setShift_outBefore (g v : Nat) : (setShift s g v).outBefore = s.outBefore := rfl
@[simp] theorem setShift_binAt (g v : Nat) : (setShift s g v).binAt = s.binAt := rfl
@[simp] theorem setShift_trip (g v : Nat) : (setShift s g v).trip = s.trip := rfl
@[simp] theorem setShift_resetLow (g v : Nat) : (setShift s g v).resetLow = s.resetLow := rfl
@[simp] theorem setShift_flash (g v : Nat) : (setShift s g v).flash = s.flash := rfl
@[simp] theorem setShift_meter (g v : Nat) : (setShift s g v).meter = s.meter := rfl
@[simp] theorem setShift_jtagOut (g v : Nat) : (setShift s g v).jtagOut = s.jtagOut := rfl
@[simp] theorem setShift_pending (g v : Nat) : (setShift s g v).pending = s.pending := rfl

/-! ### setFence -/

@[simp] theorem setFence_product (p state reason : Nat) : (setFence s p state reason).product = s.product := rfl
@[simp] theorem setFence_fab (p state reason : Nat) : (setFence s p state reason).fab = s.fab := rfl
@[simp] theorem setFence_idKey (p state reason : Nat) : (setFence s p state reason).idKey = s.idKey := rfl
@[simp] theorem setFence_storageKey (p state reason : Nat) : (setFence s p state reason).storageKey = s.storageKey := rfl
@[simp] theorem setFence_meterUnread (p state reason : Nat) : (setFence s p state reason).meterUnread = s.meterUnread := rfl
@[simp] theorem setFence_timeBase (p state reason : Nat) : (setFence s p state reason).timeBase = s.timeBase := rfl
@[simp] theorem setFence_freeSeq (p state reason : Nat) : (setFence s p state reason).freeSeq = s.freeSeq := rfl
@[simp] theorem setFence_boot (p state reason : Nat) : (setFence s p state reason).boot = s.boot := rfl
@[simp] theorem setFence_bootFull (p state reason : Nat) : (setFence s p state reason).bootFull = s.bootFull := rfl
@[simp] theorem setFence_bootFrom (p state reason : Nat) : (setFence s p state reason).bootFrom = s.bootFrom := rfl
@[simp] theorem setFence_report (p state reason : Nat) : (setFence s p state reason).report = s.report := rfl
@[simp] theorem setFence_bootLog (p state reason : Nat) : (setFence s p state reason).bootLog = s.bootLog := rfl
@[simp] theorem setFence_ibis (p state reason : Nat) : (setFence s p state reason).ibis = s.ibis := rfl
@[simp] theorem setFence_i3cAddr (p state reason : Nat) : (setFence s p state reason).i3cAddr = s.i3cAddr := rfl
@[simp] theorem setFence_fw (p state reason : Nat) : (setFence s p state reason).fw = s.fw := rfl
@[simp] theorem setFence_service (p state reason : Nat) : (setFence s p state reason).service = s.service := rfl
@[simp] theorem setFence_ouvosUp (p state reason : Nat) : (setFence s p state reason).ouvosUp = s.ouvosUp := rfl
@[simp] theorem setFence_loadMode (p state reason : Nat) : (setFence s p state reason).loadMode = s.loadMode := rfl
@[simp] theorem setFence_flockNo (p state reason : Nat) : (setFence s p state reason).flockNo = s.flockNo := rfl
@[simp] theorem setFence_refclk (p state reason : Nat) : (setFence s p state reason).refclk = s.refclk := rfl
@[simp] theorem setFence_cores (p state reason : Nat) : (setFence s p state reason).cores = s.cores := rfl
@[simp] theorem setFence_atMs (p state reason : Nat) : (setFence s p state reason).atMs = s.atMs := rfl
@[simp] theorem setFence_cluFence (p state reason : Nat) : (setFence s p state reason).cluFence = s.cluFence := rfl
@[simp] theorem setFence_shift (p state reason : Nat) : (setFence s p state reason).shift = s.shift := rfl
@[simp] theorem setFence_switches (p state reason : Nat) : (setFence s p state reason).switches = s.switches := rfl
@[simp] theorem setFence_slices (p state reason : Nat) : (setFence s p state reason).slices = s.slices := rfl
@[simp] theorem setFence_routers (p state reason : Nat) : (setFence s p state reason).routers = s.routers := rfl
@[simp] theorem setFence_ends (p state reason : Nat) : (setFence s p state reason).ends = s.ends := rfl
@[simp] theorem setFence_landing (p state reason : Nat) : (setFence s p state reason).landing = s.landing := rfl
@[simp] theorem setFence_dies (p state reason : Nat) : (setFence s p state reason).dies = s.dies := rfl
@[simp] theorem setFence_parts (p state reason : Nat) : (setFence s p state reason).parts = s.parts := rfl
@[simp] theorem setFence_reusable (p state reason : Nat) : (setFence s p state reason).reusable = s.reusable := rfl
@[simp] theorem setFence_buckets (p state reason : Nat) : (setFence s p state reason).buckets = s.buckets := rfl
@[simp] theorem setFence_hbm (p state reason : Nat) : (setFence s p state reason).hbm = s.hbm := rfl
@[simp] theorem setFence_ddr (p state reason : Nat) : (setFence s p state reason).ddr = s.ddr := rfl
@[simp] theorem setFence_ddrSpeed (p state reason : Nat) : (setFence s p state reason).ddrSpeed = s.ddrSpeed := rfl
@[simp] theorem setFence_ddrDimms (p state reason : Nat) : (setFence s p state reason).ddrDimms = s.ddrDimms := rfl
@[simp] theorem setFence_ddrGib (p state reason : Nat) : (setFence s p state reason).ddrGib = s.ddrGib := rfl
@[simp] theorem setFence_spares (p state reason : Nat) : (setFence s p state reason).spares = s.spares := rfl
@[simp] theorem setFence_links (p state reason : Nat) : (setFence s p state reason).links = s.links := rfl
@[simp] theorem setFence_halfLinks (p state reason : Nat) : (setFence s p state reason).halfLinks = s.halfLinks := rfl
@[simp] theorem setFence_fused (p state reason : Nat) : (setFence s p state reason).fused = s.fused := rfl
@[simp] theorem setFence_soft (p state reason : Nat) : (setFence s p state reason).soft = s.soft := rfl
@[simp] theorem setFence_scree (p state reason : Nat) : (setFence s p state reason).scree = s.scree := rfl
@[simp] theorem setFence_history (p state reason : Nat) : (setFence s p state reason).history = s.history := rfl
@[simp] theorem setFence_charged (p state reason : Nat) : (setFence s p state reason).charged = s.charged := rfl
@[simp] theorem setFence_dumps (p state reason : Nat) : (setFence s p state reason).dumps = s.dumps := rfl
@[simp] theorem setFence_skipped (p state reason : Nat) : (setFence s p state reason).skipped = s.skipped := rfl
@[simp] theorem setFence_sweepMin (p state reason : Nat) : (setFence s p state reason).sweepMin = s.sweepMin := rfl
@[simp] theorem setFence_sweep (p state reason : Nat) : (setFence s p state reason).sweep = s.sweep := rfl
@[simp] theorem setFence_sounding (p state reason : Nat) : (setFence s p state reason).sounding = s.sounding := rfl
@[simp] theorem setFence_sweepFrom (p state reason : Nat) : (setFence s p state reason).sweepFrom = s.sweepFrom := rfl
@[simp] theorem setFence_sweepSize (p state reason : Nat) : (setFence s p state reason).sweepSize = s.sweepSize := rfl
@[simp] theorem setFence_sweepOut (p state reason : Nat) : (setFence s p state reason).sweepOut = s.sweepOut := rfl
@[simp] theorem setFence_unsounded (p state reason : Nat) : (setFence s p state reason).unsounded = s.unsounded := rfl
@[simp] theorem setFence_missed (p state reason : Nat) : (setFence s p state reason).missed = s.missed := rfl
@[simp] theorem setFence_tapCount (p state reason : Nat) : (setFence s p state reason).tapCount = s.tapCount := rfl
@[simp] theorem setFence_hbmMoved (p state reason : Nat) : (setFence s p state reason).hbmMoved = s.hbmMoved := rfl
@[simp] theorem setFence_tapTurn (p state reason : Nat) : (setFence s p state reason).tapTurn = s.tapTurn := rfl
@[simp] theorem setFence_genAt (p state reason : Nat) : (setFence s p state reason).genAt = s.genAt := rfl
@[simp] theorem setFence_portMode (p state reason : Nat) : (setFence s p state reason).portMode = s.portMode := rfl
@[simp] theorem setFence_modePend (p state reason : Nat) : (setFence s p state reason).modePend = s.modePend := rfl
@[simp] theorem setFence_resetPend (p state reason : Nat) : (setFence s p state reason).resetPend = s.resetPend := rfl
@[simp] theorem setFence_lports (p state reason : Nat) : (setFence s p state reason).lports = s.lports := rfl
@[simp] theorem setFence_neigh (p state reason : Nat) : (setFence s p state reason).neigh = s.neigh := rfl
@[simp] theorem setFence_netOut (p state reason : Nat) : (setFence s p state reason).netOut = s.netOut := rfl
@[simp] theorem setFence_ptpPort (p state reason : Nat) : (setFence s p state reason).ptpPort = s.ptpPort := rfl
@[simp] theorem setFence_ptpHeard (p state reason : Nat) : (setFence s p state reason).ptpHeard = s.ptpHeard := rfl
@[simp] theorem setFence_ptpFree (p state reason : Nat) : (setFence s p state reason).ptpFree = s.ptpFree := rfl
@[simp] theorem setFence_ptpSync (p state reason : Nat) : (setFence s p state reason).ptpSync = s.ptpSync := rfl
@[simp] theorem setFence_ptpDelay (p state reason : Nat) : (setFence s p state reason).ptpDelay = s.ptpDelay := rfl
@[simp] theorem setFence_ptpReq (p state reason : Nat) : (setFence s p state reason).ptpReq = s.ptpReq := rfl
@[simp] theorem setFence_stamps (p state reason : Nat) : (setFence s p state reason).stamps = s.stamps := rfl
@[simp] theorem setFence_qps (p state reason : Nat) : (setFence s p state reason).qps = s.qps := rfl
@[simp] theorem setFence_regions (p state reason : Nat) : (setFence s p state reason).regions = s.regions := rfl
@[simp] theorem setFence_cmds (p state reason : Nat) : (setFence s p state reason).cmds = s.cmds := rfl
@[simp] theorem setFence_sent (p state reason : Nat) : (setFence s p state reason).sent = s.sent := rfl
@[simp] theorem setFence_seqHigh (p state reason : Nat) : (setFence s p state reason).seqHigh = s.seqHigh := rfl
@[simp] theorem setFence_seqSeen (p state reason : Nat) : (setFence s p state reason).seqSeen = s.seqSeen := rfl
@[simp] theorem setFence_seqFlash (p state reason : Nat) : (setFence s p state reason).seqFlash = s.seqFlash := rfl
@[simp] theorem setFence_power (p state reason : Nat) : (setFence s p state reason).power = s.power := rfl
@[simp] theorem setFence_pwrLimit (p state reason : Nat) : (setFence s p state reason).pwrLimit = s.pwrLimit := rfl
@[simp] theorem setFence_pwrRefused (p state reason : Nat) : (setFence s p state reason).pwrRefused = s.pwrRefused := rfl
@[simp] theorem setFence_hbmPace (p state reason : Nat) : (setFence s p state reason).hbmPace = s.hbmPace := rfl
@[simp] theorem setFence_stackPace (p state reason : Nat) : (setFence s p state reason).stackPace = s.stackPace := rfl
@[simp] theorem setFence_brake (p state reason : Nat) : (setFence s p state reason).brake = s.brake := rfl
@[simp] theorem setFence_temps (p state reason : Nat) : (setFence s p state reason).temps = s.temps := rfl
@[simp] theorem setFence_restoredAt (p state reason : Nat) : (setFence s p state reason).restoredAt = s.restoredAt := rfl
@[simp] theorem setFence_turn (p state reason : Nat) : (setFence s p state reason).turn = s.turn := rfl
@[simp] theorem setFence_outBefore (p state reason : Nat) : (setFence s p state reason).outBefore = s.outBefore := rfl
@[simp] theorem setFence_binAt (p state reason : Nat) : (setFence s p state reason).binAt = s.binAt := rfl
@[simp] theorem setFence_trip (p state reason : Nat) : (setFence s p state reason).trip = s.trip := rfl
@[simp] theorem setFence_resetLow (p state reason : Nat) : (setFence s p state reason).resetLow = s.resetLow := rfl
@[simp] theorem setFence_flash (p state reason : Nat) : (setFence s p state reason).flash = s.flash := rfl
@[simp] theorem setFence_meter (p state reason : Nat) : (setFence s p state reason).meter = s.meter := rfl
@[simp] theorem setFence_jtagOut (p state reason : Nat) : (setFence s p state reason).jtagOut = s.jtagOut := rfl
@[simp] theorem setFence_pending (p state reason : Nat) : (setFence s p state reason).pending = s.pending := rfl

/-! ### setHold -/

@[simp] theorem setHold_product (p : Nat) (h : Bool) : (setHold s p h).product = s.product := rfl
@[simp] theorem setHold_fab (p : Nat) (h : Bool) : (setHold s p h).fab = s.fab := rfl
@[simp] theorem setHold_idKey (p : Nat) (h : Bool) : (setHold s p h).idKey = s.idKey := rfl
@[simp] theorem setHold_storageKey (p : Nat) (h : Bool) : (setHold s p h).storageKey = s.storageKey := rfl
@[simp] theorem setHold_meterUnread (p : Nat) (h : Bool) : (setHold s p h).meterUnread = s.meterUnread := rfl
@[simp] theorem setHold_timeBase (p : Nat) (h : Bool) : (setHold s p h).timeBase = s.timeBase := rfl
@[simp] theorem setHold_freeSeq (p : Nat) (h : Bool) : (setHold s p h).freeSeq = s.freeSeq := rfl
@[simp] theorem setHold_boot (p : Nat) (h : Bool) : (setHold s p h).boot = s.boot := rfl
@[simp] theorem setHold_bootFull (p : Nat) (h : Bool) : (setHold s p h).bootFull = s.bootFull := rfl
@[simp] theorem setHold_bootFrom (p : Nat) (h : Bool) : (setHold s p h).bootFrom = s.bootFrom := rfl
@[simp] theorem setHold_report (p : Nat) (h : Bool) : (setHold s p h).report = s.report := rfl
@[simp] theorem setHold_bootLog (p : Nat) (h : Bool) : (setHold s p h).bootLog = s.bootLog := rfl
@[simp] theorem setHold_ibis (p : Nat) (h : Bool) : (setHold s p h).ibis = s.ibis := rfl
@[simp] theorem setHold_i3cAddr (p : Nat) (h : Bool) : (setHold s p h).i3cAddr = s.i3cAddr := rfl
@[simp] theorem setHold_fw (p : Nat) (h : Bool) : (setHold s p h).fw = s.fw := rfl
@[simp] theorem setHold_service (p : Nat) (h : Bool) : (setHold s p h).service = s.service := rfl
@[simp] theorem setHold_ouvosUp (p : Nat) (h : Bool) : (setHold s p h).ouvosUp = s.ouvosUp := rfl
@[simp] theorem setHold_loadMode (p : Nat) (h : Bool) : (setHold s p h).loadMode = s.loadMode := rfl
@[simp] theorem setHold_flockNo (p : Nat) (h : Bool) : (setHold s p h).flockNo = s.flockNo := rfl
@[simp] theorem setHold_refclk (p : Nat) (h : Bool) : (setHold s p h).refclk = s.refclk := rfl
@[simp] theorem setHold_cores (p : Nat) (h : Bool) : (setHold s p h).cores = s.cores := rfl
@[simp] theorem setHold_atMs (p : Nat) (h : Bool) : (setHold s p h).atMs = s.atMs := rfl
@[simp] theorem setHold_cluFence (p : Nat) (h : Bool) : (setHold s p h).cluFence = s.cluFence := rfl
@[simp] theorem setHold_shift (p : Nat) (h : Bool) : (setHold s p h).shift = s.shift := rfl
@[simp] theorem setHold_switches (p : Nat) (h : Bool) : (setHold s p h).switches = s.switches := rfl
@[simp] theorem setHold_slices (p : Nat) (h : Bool) : (setHold s p h).slices = s.slices := rfl
@[simp] theorem setHold_routers (p : Nat) (h : Bool) : (setHold s p h).routers = s.routers := rfl
@[simp] theorem setHold_ends (p : Nat) (h : Bool) : (setHold s p h).ends = s.ends := rfl
@[simp] theorem setHold_landing (p : Nat) (h : Bool) : (setHold s p h).landing = s.landing := rfl
@[simp] theorem setHold_dies (p : Nat) (h : Bool) : (setHold s p h).dies = s.dies := rfl
@[simp] theorem setHold_parts (p : Nat) (h : Bool) : (setHold s p h).parts = s.parts := rfl
@[simp] theorem setHold_reusable (p : Nat) (h : Bool) : (setHold s p h).reusable = s.reusable := rfl
@[simp] theorem setHold_buckets (p : Nat) (h : Bool) : (setHold s p h).buckets = s.buckets := rfl
@[simp] theorem setHold_hbm (p : Nat) (h : Bool) : (setHold s p h).hbm = s.hbm := rfl
@[simp] theorem setHold_ddr (p : Nat) (h : Bool) : (setHold s p h).ddr = s.ddr := rfl
@[simp] theorem setHold_ddrSpeed (p : Nat) (h : Bool) : (setHold s p h).ddrSpeed = s.ddrSpeed := rfl
@[simp] theorem setHold_ddrDimms (p : Nat) (h : Bool) : (setHold s p h).ddrDimms = s.ddrDimms := rfl
@[simp] theorem setHold_ddrGib (p : Nat) (h : Bool) : (setHold s p h).ddrGib = s.ddrGib := rfl
@[simp] theorem setHold_spares (p : Nat) (h : Bool) : (setHold s p h).spares = s.spares := rfl
@[simp] theorem setHold_links (p : Nat) (h : Bool) : (setHold s p h).links = s.links := rfl
@[simp] theorem setHold_halfLinks (p : Nat) (h : Bool) : (setHold s p h).halfLinks = s.halfLinks := rfl
@[simp] theorem setHold_fused (p : Nat) (h : Bool) : (setHold s p h).fused = s.fused := rfl
@[simp] theorem setHold_soft (p : Nat) (h : Bool) : (setHold s p h).soft = s.soft := rfl
@[simp] theorem setHold_scree (p : Nat) (h : Bool) : (setHold s p h).scree = s.scree := rfl
@[simp] theorem setHold_history (p : Nat) (h : Bool) : (setHold s p h).history = s.history := rfl
@[simp] theorem setHold_charged (p : Nat) (h : Bool) : (setHold s p h).charged = s.charged := rfl
@[simp] theorem setHold_dumps (p : Nat) (h : Bool) : (setHold s p h).dumps = s.dumps := rfl
@[simp] theorem setHold_skipped (p : Nat) (h : Bool) : (setHold s p h).skipped = s.skipped := rfl
@[simp] theorem setHold_sweepMin (p : Nat) (h : Bool) : (setHold s p h).sweepMin = s.sweepMin := rfl
@[simp] theorem setHold_sweep (p : Nat) (h : Bool) : (setHold s p h).sweep = s.sweep := rfl
@[simp] theorem setHold_sounding (p : Nat) (h : Bool) : (setHold s p h).sounding = s.sounding := rfl
@[simp] theorem setHold_sweepFrom (p : Nat) (h : Bool) : (setHold s p h).sweepFrom = s.sweepFrom := rfl
@[simp] theorem setHold_sweepSize (p : Nat) (h : Bool) : (setHold s p h).sweepSize = s.sweepSize := rfl
@[simp] theorem setHold_sweepOut (p : Nat) (h : Bool) : (setHold s p h).sweepOut = s.sweepOut := rfl
@[simp] theorem setHold_unsounded (p : Nat) (h : Bool) : (setHold s p h).unsounded = s.unsounded := rfl
@[simp] theorem setHold_missed (p : Nat) (h : Bool) : (setHold s p h).missed = s.missed := rfl
@[simp] theorem setHold_tapCount (p : Nat) (h : Bool) : (setHold s p h).tapCount = s.tapCount := rfl
@[simp] theorem setHold_hbmMoved (p : Nat) (h : Bool) : (setHold s p h).hbmMoved = s.hbmMoved := rfl
@[simp] theorem setHold_tapTurn (p : Nat) (h : Bool) : (setHold s p h).tapTurn = s.tapTurn := rfl
@[simp] theorem setHold_genAt (p : Nat) (h : Bool) : (setHold s p h).genAt = s.genAt := rfl
@[simp] theorem setHold_portMode (p : Nat) (h : Bool) : (setHold s p h).portMode = s.portMode := rfl
@[simp] theorem setHold_modePend (p : Nat) (h : Bool) : (setHold s p h).modePend = s.modePend := rfl
@[simp] theorem setHold_resetPend (p : Nat) (h : Bool) : (setHold s p h).resetPend = s.resetPend := rfl
@[simp] theorem setHold_lports (p : Nat) (h : Bool) : (setHold s p h).lports = s.lports := rfl
@[simp] theorem setHold_neigh (p : Nat) (h : Bool) : (setHold s p h).neigh = s.neigh := rfl
@[simp] theorem setHold_netOut (p : Nat) (h : Bool) : (setHold s p h).netOut = s.netOut := rfl
@[simp] theorem setHold_ptpPort (p : Nat) (h : Bool) : (setHold s p h).ptpPort = s.ptpPort := rfl
@[simp] theorem setHold_ptpHeard (p : Nat) (h : Bool) : (setHold s p h).ptpHeard = s.ptpHeard := rfl
@[simp] theorem setHold_ptpFree (p : Nat) (h : Bool) : (setHold s p h).ptpFree = s.ptpFree := rfl
@[simp] theorem setHold_ptpSync (p : Nat) (h : Bool) : (setHold s p h).ptpSync = s.ptpSync := rfl
@[simp] theorem setHold_ptpDelay (p : Nat) (h : Bool) : (setHold s p h).ptpDelay = s.ptpDelay := rfl
@[simp] theorem setHold_ptpReq (p : Nat) (h : Bool) : (setHold s p h).ptpReq = s.ptpReq := rfl
@[simp] theorem setHold_stamps (p : Nat) (h : Bool) : (setHold s p h).stamps = s.stamps := rfl
@[simp] theorem setHold_qps (p : Nat) (h : Bool) : (setHold s p h).qps = s.qps := rfl
@[simp] theorem setHold_regions (p : Nat) (h : Bool) : (setHold s p h).regions = s.regions := rfl
@[simp] theorem setHold_cmds (p : Nat) (h : Bool) : (setHold s p h).cmds = s.cmds := rfl
@[simp] theorem setHold_sent (p : Nat) (h : Bool) : (setHold s p h).sent = s.sent := rfl
@[simp] theorem setHold_seqHigh (p : Nat) (h : Bool) : (setHold s p h).seqHigh = s.seqHigh := rfl
@[simp] theorem setHold_seqSeen (p : Nat) (h : Bool) : (setHold s p h).seqSeen = s.seqSeen := rfl
@[simp] theorem setHold_seqFlash (p : Nat) (h : Bool) : (setHold s p h).seqFlash = s.seqFlash := rfl
@[simp] theorem setHold_power (p : Nat) (h : Bool) : (setHold s p h).power = s.power := rfl
@[simp] theorem setHold_pwrLimit (p : Nat) (h : Bool) : (setHold s p h).pwrLimit = s.pwrLimit := rfl
@[simp] theorem setHold_pwrRefused (p : Nat) (h : Bool) : (setHold s p h).pwrRefused = s.pwrRefused := rfl
@[simp] theorem setHold_hbmPace (p : Nat) (h : Bool) : (setHold s p h).hbmPace = s.hbmPace := rfl
@[simp] theorem setHold_stackPace (p : Nat) (h : Bool) : (setHold s p h).stackPace = s.stackPace := rfl
@[simp] theorem setHold_brake (p : Nat) (h : Bool) : (setHold s p h).brake = s.brake := rfl
@[simp] theorem setHold_temps (p : Nat) (h : Bool) : (setHold s p h).temps = s.temps := rfl
@[simp] theorem setHold_restoredAt (p : Nat) (h : Bool) : (setHold s p h).restoredAt = s.restoredAt := rfl
@[simp] theorem setHold_turn (p : Nat) (h : Bool) : (setHold s p h).turn = s.turn := rfl
@[simp] theorem setHold_outBefore (p : Nat) (h : Bool) : (setHold s p h).outBefore = s.outBefore := rfl
@[simp] theorem setHold_binAt (p : Nat) (h : Bool) : (setHold s p h).binAt = s.binAt := rfl
@[simp] theorem setHold_trip (p : Nat) (h : Bool) : (setHold s p h).trip = s.trip := rfl
@[simp] theorem setHold_resetLow (p : Nat) (h : Bool) : (setHold s p h).resetLow = s.resetLow := rfl
@[simp] theorem setHold_flash (p : Nat) (h : Bool) : (setHold s p h).flash = s.flash := rfl
@[simp] theorem setHold_meter (p : Nat) (h : Bool) : (setHold s p h).meter = s.meter := rfl
@[simp] theorem setHold_jtagOut (p : Nat) (h : Bool) : (setHold s p h).jtagOut = s.jtagOut := rfl
@[simp] theorem setHold_pending (p : Nat) (h : Bool) : (setHold s p h).pending = s.pending := rfl

/-! ### setClu -/

@[simp] theorem setClu_product (c state part : Nat) : (setClu s c state part).product = s.product := rfl
@[simp] theorem setClu_fab (c state part : Nat) : (setClu s c state part).fab = s.fab := rfl
@[simp] theorem setClu_idKey (c state part : Nat) : (setClu s c state part).idKey = s.idKey := rfl
@[simp] theorem setClu_storageKey (c state part : Nat) : (setClu s c state part).storageKey = s.storageKey := rfl
@[simp] theorem setClu_meterUnread (c state part : Nat) : (setClu s c state part).meterUnread = s.meterUnread := rfl
@[simp] theorem setClu_timeBase (c state part : Nat) : (setClu s c state part).timeBase = s.timeBase := rfl
@[simp] theorem setClu_freeSeq (c state part : Nat) : (setClu s c state part).freeSeq = s.freeSeq := rfl
@[simp] theorem setClu_boot (c state part : Nat) : (setClu s c state part).boot = s.boot := rfl
@[simp] theorem setClu_bootFull (c state part : Nat) : (setClu s c state part).bootFull = s.bootFull := rfl
@[simp] theorem setClu_bootFrom (c state part : Nat) : (setClu s c state part).bootFrom = s.bootFrom := rfl
@[simp] theorem setClu_report (c state part : Nat) : (setClu s c state part).report = s.report := rfl
@[simp] theorem setClu_bootLog (c state part : Nat) : (setClu s c state part).bootLog = s.bootLog := rfl
@[simp] theorem setClu_ibis (c state part : Nat) : (setClu s c state part).ibis = s.ibis := rfl
@[simp] theorem setClu_i3cAddr (c state part : Nat) : (setClu s c state part).i3cAddr = s.i3cAddr := rfl
@[simp] theorem setClu_fw (c state part : Nat) : (setClu s c state part).fw = s.fw := rfl
@[simp] theorem setClu_service (c state part : Nat) : (setClu s c state part).service = s.service := rfl
@[simp] theorem setClu_ouvosUp (c state part : Nat) : (setClu s c state part).ouvosUp = s.ouvosUp := rfl
@[simp] theorem setClu_loadMode (c state part : Nat) : (setClu s c state part).loadMode = s.loadMode := rfl
@[simp] theorem setClu_flockNo (c state part : Nat) : (setClu s c state part).flockNo = s.flockNo := rfl
@[simp] theorem setClu_refclk (c state part : Nat) : (setClu s c state part).refclk = s.refclk := rfl
@[simp] theorem setClu_cores (c state part : Nat) : (setClu s c state part).cores = s.cores := rfl
@[simp] theorem setClu_atMs (c state part : Nat) : (setClu s c state part).atMs = s.atMs := rfl
@[simp] theorem setClu_fence (c state part : Nat) : (setClu s c state part).fence = s.fence := rfl
@[simp] theorem setClu_shift (c state part : Nat) : (setClu s c state part).shift = s.shift := rfl
@[simp] theorem setClu_switches (c state part : Nat) : (setClu s c state part).switches = s.switches := rfl
@[simp] theorem setClu_slices (c state part : Nat) : (setClu s c state part).slices = s.slices := rfl
@[simp] theorem setClu_routers (c state part : Nat) : (setClu s c state part).routers = s.routers := rfl
@[simp] theorem setClu_ends (c state part : Nat) : (setClu s c state part).ends = s.ends := rfl
@[simp] theorem setClu_landing (c state part : Nat) : (setClu s c state part).landing = s.landing := rfl
@[simp] theorem setClu_dies (c state part : Nat) : (setClu s c state part).dies = s.dies := rfl
@[simp] theorem setClu_parts (c state part : Nat) : (setClu s c state part).parts = s.parts := rfl
@[simp] theorem setClu_reusable (c state part : Nat) : (setClu s c state part).reusable = s.reusable := rfl
@[simp] theorem setClu_buckets (c state part : Nat) : (setClu s c state part).buckets = s.buckets := rfl
@[simp] theorem setClu_hbm (c state part : Nat) : (setClu s c state part).hbm = s.hbm := rfl
@[simp] theorem setClu_ddr (c state part : Nat) : (setClu s c state part).ddr = s.ddr := rfl
@[simp] theorem setClu_ddrSpeed (c state part : Nat) : (setClu s c state part).ddrSpeed = s.ddrSpeed := rfl
@[simp] theorem setClu_ddrDimms (c state part : Nat) : (setClu s c state part).ddrDimms = s.ddrDimms := rfl
@[simp] theorem setClu_ddrGib (c state part : Nat) : (setClu s c state part).ddrGib = s.ddrGib := rfl
@[simp] theorem setClu_spares (c state part : Nat) : (setClu s c state part).spares = s.spares := rfl
@[simp] theorem setClu_links (c state part : Nat) : (setClu s c state part).links = s.links := rfl
@[simp] theorem setClu_halfLinks (c state part : Nat) : (setClu s c state part).halfLinks = s.halfLinks := rfl
@[simp] theorem setClu_fused (c state part : Nat) : (setClu s c state part).fused = s.fused := rfl
@[simp] theorem setClu_soft (c state part : Nat) : (setClu s c state part).soft = s.soft := rfl
@[simp] theorem setClu_scree (c state part : Nat) : (setClu s c state part).scree = s.scree := rfl
@[simp] theorem setClu_history (c state part : Nat) : (setClu s c state part).history = s.history := rfl
@[simp] theorem setClu_charged (c state part : Nat) : (setClu s c state part).charged = s.charged := rfl
@[simp] theorem setClu_dumps (c state part : Nat) : (setClu s c state part).dumps = s.dumps := rfl
@[simp] theorem setClu_skipped (c state part : Nat) : (setClu s c state part).skipped = s.skipped := rfl
@[simp] theorem setClu_sweepMin (c state part : Nat) : (setClu s c state part).sweepMin = s.sweepMin := rfl
@[simp] theorem setClu_sweep (c state part : Nat) : (setClu s c state part).sweep = s.sweep := rfl
@[simp] theorem setClu_sounding (c state part : Nat) : (setClu s c state part).sounding = s.sounding := rfl
@[simp] theorem setClu_sweepFrom (c state part : Nat) : (setClu s c state part).sweepFrom = s.sweepFrom := rfl
@[simp] theorem setClu_sweepSize (c state part : Nat) : (setClu s c state part).sweepSize = s.sweepSize := rfl
@[simp] theorem setClu_sweepOut (c state part : Nat) : (setClu s c state part).sweepOut = s.sweepOut := rfl
@[simp] theorem setClu_unsounded (c state part : Nat) : (setClu s c state part).unsounded = s.unsounded := rfl
@[simp] theorem setClu_missed (c state part : Nat) : (setClu s c state part).missed = s.missed := rfl
@[simp] theorem setClu_tapCount (c state part : Nat) : (setClu s c state part).tapCount = s.tapCount := rfl
@[simp] theorem setClu_hbmMoved (c state part : Nat) : (setClu s c state part).hbmMoved = s.hbmMoved := rfl
@[simp] theorem setClu_tapTurn (c state part : Nat) : (setClu s c state part).tapTurn = s.tapTurn := rfl
@[simp] theorem setClu_genAt (c state part : Nat) : (setClu s c state part).genAt = s.genAt := rfl
@[simp] theorem setClu_portMode (c state part : Nat) : (setClu s c state part).portMode = s.portMode := rfl
@[simp] theorem setClu_modePend (c state part : Nat) : (setClu s c state part).modePend = s.modePend := rfl
@[simp] theorem setClu_resetPend (c state part : Nat) : (setClu s c state part).resetPend = s.resetPend := rfl
@[simp] theorem setClu_lports (c state part : Nat) : (setClu s c state part).lports = s.lports := rfl
@[simp] theorem setClu_neigh (c state part : Nat) : (setClu s c state part).neigh = s.neigh := rfl
@[simp] theorem setClu_netOut (c state part : Nat) : (setClu s c state part).netOut = s.netOut := rfl
@[simp] theorem setClu_ptpPort (c state part : Nat) : (setClu s c state part).ptpPort = s.ptpPort := rfl
@[simp] theorem setClu_ptpHeard (c state part : Nat) : (setClu s c state part).ptpHeard = s.ptpHeard := rfl
@[simp] theorem setClu_ptpFree (c state part : Nat) : (setClu s c state part).ptpFree = s.ptpFree := rfl
@[simp] theorem setClu_ptpSync (c state part : Nat) : (setClu s c state part).ptpSync = s.ptpSync := rfl
@[simp] theorem setClu_ptpDelay (c state part : Nat) : (setClu s c state part).ptpDelay = s.ptpDelay := rfl
@[simp] theorem setClu_ptpReq (c state part : Nat) : (setClu s c state part).ptpReq = s.ptpReq := rfl
@[simp] theorem setClu_stamps (c state part : Nat) : (setClu s c state part).stamps = s.stamps := rfl
@[simp] theorem setClu_qps (c state part : Nat) : (setClu s c state part).qps = s.qps := rfl
@[simp] theorem setClu_regions (c state part : Nat) : (setClu s c state part).regions = s.regions := rfl
@[simp] theorem setClu_cmds (c state part : Nat) : (setClu s c state part).cmds = s.cmds := rfl
@[simp] theorem setClu_sent (c state part : Nat) : (setClu s c state part).sent = s.sent := rfl
@[simp] theorem setClu_seqHigh (c state part : Nat) : (setClu s c state part).seqHigh = s.seqHigh := rfl
@[simp] theorem setClu_seqSeen (c state part : Nat) : (setClu s c state part).seqSeen = s.seqSeen := rfl
@[simp] theorem setClu_seqFlash (c state part : Nat) : (setClu s c state part).seqFlash = s.seqFlash := rfl
@[simp] theorem setClu_power (c state part : Nat) : (setClu s c state part).power = s.power := rfl
@[simp] theorem setClu_pwrLimit (c state part : Nat) : (setClu s c state part).pwrLimit = s.pwrLimit := rfl
@[simp] theorem setClu_pwrRefused (c state part : Nat) : (setClu s c state part).pwrRefused = s.pwrRefused := rfl
@[simp] theorem setClu_hbmPace (c state part : Nat) : (setClu s c state part).hbmPace = s.hbmPace := rfl
@[simp] theorem setClu_stackPace (c state part : Nat) : (setClu s c state part).stackPace = s.stackPace := rfl
@[simp] theorem setClu_brake (c state part : Nat) : (setClu s c state part).brake = s.brake := rfl
@[simp] theorem setClu_temps (c state part : Nat) : (setClu s c state part).temps = s.temps := rfl
@[simp] theorem setClu_restoredAt (c state part : Nat) : (setClu s c state part).restoredAt = s.restoredAt := rfl
@[simp] theorem setClu_turn (c state part : Nat) : (setClu s c state part).turn = s.turn := rfl
@[simp] theorem setClu_outBefore (c state part : Nat) : (setClu s c state part).outBefore = s.outBefore := rfl
@[simp] theorem setClu_binAt (c state part : Nat) : (setClu s c state part).binAt = s.binAt := rfl
@[simp] theorem setClu_trip (c state part : Nat) : (setClu s c state part).trip = s.trip := rfl
@[simp] theorem setClu_resetLow (c state part : Nat) : (setClu s c state part).resetLow = s.resetLow := rfl
@[simp] theorem setClu_flash (c state part : Nat) : (setClu s c state part).flash = s.flash := rfl
@[simp] theorem setClu_meter (c state part : Nat) : (setClu s c state part).meter = s.meter := rfl
@[simp] theorem setClu_jtagOut (c state part : Nat) : (setClu s c state part).jtagOut = s.jtagOut := rfl
@[simp] theorem setClu_pending (c state part : Nat) : (setClu s c state part).pending = s.pending := rfl

/-! ### modScree -/

@[simp] theorem modScree_product (kind unit : Nat) (f : Scree → Scree) : (modScree s kind unit f).product = s.product := rfl
@[simp] theorem modScree_fab (kind unit : Nat) (f : Scree → Scree) : (modScree s kind unit f).fab = s.fab := rfl
@[simp] theorem modScree_idKey (kind unit : Nat) (f : Scree → Scree) : (modScree s kind unit f).idKey = s.idKey := rfl
@[simp] theorem modScree_storageKey (kind unit : Nat) (f : Scree → Scree) : (modScree s kind unit f).storageKey = s.storageKey := rfl
@[simp] theorem modScree_meterUnread (kind unit : Nat) (f : Scree → Scree) : (modScree s kind unit f).meterUnread = s.meterUnread := rfl
@[simp] theorem modScree_timeBase (kind unit : Nat) (f : Scree → Scree) : (modScree s kind unit f).timeBase = s.timeBase := rfl
@[simp] theorem modScree_freeSeq (kind unit : Nat) (f : Scree → Scree) : (modScree s kind unit f).freeSeq = s.freeSeq := rfl
@[simp] theorem modScree_boot (kind unit : Nat) (f : Scree → Scree) : (modScree s kind unit f).boot = s.boot := rfl
@[simp] theorem modScree_bootFull (kind unit : Nat) (f : Scree → Scree) : (modScree s kind unit f).bootFull = s.bootFull := rfl
@[simp] theorem modScree_bootFrom (kind unit : Nat) (f : Scree → Scree) : (modScree s kind unit f).bootFrom = s.bootFrom := rfl
@[simp] theorem modScree_report (kind unit : Nat) (f : Scree → Scree) : (modScree s kind unit f).report = s.report := rfl
@[simp] theorem modScree_bootLog (kind unit : Nat) (f : Scree → Scree) : (modScree s kind unit f).bootLog = s.bootLog := rfl
@[simp] theorem modScree_ibis (kind unit : Nat) (f : Scree → Scree) : (modScree s kind unit f).ibis = s.ibis := rfl
@[simp] theorem modScree_i3cAddr (kind unit : Nat) (f : Scree → Scree) : (modScree s kind unit f).i3cAddr = s.i3cAddr := rfl
@[simp] theorem modScree_fw (kind unit : Nat) (f : Scree → Scree) : (modScree s kind unit f).fw = s.fw := rfl
@[simp] theorem modScree_service (kind unit : Nat) (f : Scree → Scree) : (modScree s kind unit f).service = s.service := rfl
@[simp] theorem modScree_ouvosUp (kind unit : Nat) (f : Scree → Scree) : (modScree s kind unit f).ouvosUp = s.ouvosUp := rfl
@[simp] theorem modScree_loadMode (kind unit : Nat) (f : Scree → Scree) : (modScree s kind unit f).loadMode = s.loadMode := rfl
@[simp] theorem modScree_flockNo (kind unit : Nat) (f : Scree → Scree) : (modScree s kind unit f).flockNo = s.flockNo := rfl
@[simp] theorem modScree_refclk (kind unit : Nat) (f : Scree → Scree) : (modScree s kind unit f).refclk = s.refclk := rfl
@[simp] theorem modScree_cores (kind unit : Nat) (f : Scree → Scree) : (modScree s kind unit f).cores = s.cores := rfl
@[simp] theorem modScree_atMs (kind unit : Nat) (f : Scree → Scree) : (modScree s kind unit f).atMs = s.atMs := rfl
@[simp] theorem modScree_fence (kind unit : Nat) (f : Scree → Scree) : (modScree s kind unit f).fence = s.fence := rfl
@[simp] theorem modScree_cluFence (kind unit : Nat) (f : Scree → Scree) : (modScree s kind unit f).cluFence = s.cluFence := rfl
@[simp] theorem modScree_shift (kind unit : Nat) (f : Scree → Scree) : (modScree s kind unit f).shift = s.shift := rfl
@[simp] theorem modScree_switches (kind unit : Nat) (f : Scree → Scree) : (modScree s kind unit f).switches = s.switches := rfl
@[simp] theorem modScree_slices (kind unit : Nat) (f : Scree → Scree) : (modScree s kind unit f).slices = s.slices := rfl
@[simp] theorem modScree_routers (kind unit : Nat) (f : Scree → Scree) : (modScree s kind unit f).routers = s.routers := rfl
@[simp] theorem modScree_ends (kind unit : Nat) (f : Scree → Scree) : (modScree s kind unit f).ends = s.ends := rfl
@[simp] theorem modScree_landing (kind unit : Nat) (f : Scree → Scree) : (modScree s kind unit f).landing = s.landing := rfl
@[simp] theorem modScree_dies (kind unit : Nat) (f : Scree → Scree) : (modScree s kind unit f).dies = s.dies := rfl
@[simp] theorem modScree_parts (kind unit : Nat) (f : Scree → Scree) : (modScree s kind unit f).parts = s.parts := rfl
@[simp] theorem modScree_reusable (kind unit : Nat) (f : Scree → Scree) : (modScree s kind unit f).reusable = s.reusable := rfl
@[simp] theorem modScree_buckets (kind unit : Nat) (f : Scree → Scree) : (modScree s kind unit f).buckets = s.buckets := rfl
@[simp] theorem modScree_hbm (kind unit : Nat) (f : Scree → Scree) : (modScree s kind unit f).hbm = s.hbm := rfl
@[simp] theorem modScree_ddr (kind unit : Nat) (f : Scree → Scree) : (modScree s kind unit f).ddr = s.ddr := rfl
@[simp] theorem modScree_ddrSpeed (kind unit : Nat) (f : Scree → Scree) : (modScree s kind unit f).ddrSpeed = s.ddrSpeed := rfl
@[simp] theorem modScree_ddrDimms (kind unit : Nat) (f : Scree → Scree) : (modScree s kind unit f).ddrDimms = s.ddrDimms := rfl
@[simp] theorem modScree_ddrGib (kind unit : Nat) (f : Scree → Scree) : (modScree s kind unit f).ddrGib = s.ddrGib := rfl
@[simp] theorem modScree_spares (kind unit : Nat) (f : Scree → Scree) : (modScree s kind unit f).spares = s.spares := rfl
@[simp] theorem modScree_links (kind unit : Nat) (f : Scree → Scree) : (modScree s kind unit f).links = s.links := rfl
@[simp] theorem modScree_halfLinks (kind unit : Nat) (f : Scree → Scree) : (modScree s kind unit f).halfLinks = s.halfLinks := rfl
@[simp] theorem modScree_fused (kind unit : Nat) (f : Scree → Scree) : (modScree s kind unit f).fused = s.fused := rfl
@[simp] theorem modScree_soft (kind unit : Nat) (f : Scree → Scree) : (modScree s kind unit f).soft = s.soft := rfl
@[simp] theorem modScree_history (kind unit : Nat) (f : Scree → Scree) : (modScree s kind unit f).history = s.history := rfl
@[simp] theorem modScree_charged (kind unit : Nat) (f : Scree → Scree) : (modScree s kind unit f).charged = s.charged := rfl
@[simp] theorem modScree_dumps (kind unit : Nat) (f : Scree → Scree) : (modScree s kind unit f).dumps = s.dumps := rfl
@[simp] theorem modScree_skipped (kind unit : Nat) (f : Scree → Scree) : (modScree s kind unit f).skipped = s.skipped := rfl
@[simp] theorem modScree_sweepMin (kind unit : Nat) (f : Scree → Scree) : (modScree s kind unit f).sweepMin = s.sweepMin := rfl
@[simp] theorem modScree_sweep (kind unit : Nat) (f : Scree → Scree) : (modScree s kind unit f).sweep = s.sweep := rfl
@[simp] theorem modScree_sounding (kind unit : Nat) (f : Scree → Scree) : (modScree s kind unit f).sounding = s.sounding := rfl
@[simp] theorem modScree_sweepFrom (kind unit : Nat) (f : Scree → Scree) : (modScree s kind unit f).sweepFrom = s.sweepFrom := rfl
@[simp] theorem modScree_sweepSize (kind unit : Nat) (f : Scree → Scree) : (modScree s kind unit f).sweepSize = s.sweepSize := rfl
@[simp] theorem modScree_sweepOut (kind unit : Nat) (f : Scree → Scree) : (modScree s kind unit f).sweepOut = s.sweepOut := rfl
@[simp] theorem modScree_unsounded (kind unit : Nat) (f : Scree → Scree) : (modScree s kind unit f).unsounded = s.unsounded := rfl
@[simp] theorem modScree_missed (kind unit : Nat) (f : Scree → Scree) : (modScree s kind unit f).missed = s.missed := rfl
@[simp] theorem modScree_tapCount (kind unit : Nat) (f : Scree → Scree) : (modScree s kind unit f).tapCount = s.tapCount := rfl
@[simp] theorem modScree_hbmMoved (kind unit : Nat) (f : Scree → Scree) : (modScree s kind unit f).hbmMoved = s.hbmMoved := rfl
@[simp] theorem modScree_tapTurn (kind unit : Nat) (f : Scree → Scree) : (modScree s kind unit f).tapTurn = s.tapTurn := rfl
@[simp] theorem modScree_genAt (kind unit : Nat) (f : Scree → Scree) : (modScree s kind unit f).genAt = s.genAt := rfl
@[simp] theorem modScree_portMode (kind unit : Nat) (f : Scree → Scree) : (modScree s kind unit f).portMode = s.portMode := rfl
@[simp] theorem modScree_modePend (kind unit : Nat) (f : Scree → Scree) : (modScree s kind unit f).modePend = s.modePend := rfl
@[simp] theorem modScree_resetPend (kind unit : Nat) (f : Scree → Scree) : (modScree s kind unit f).resetPend = s.resetPend := rfl
@[simp] theorem modScree_lports (kind unit : Nat) (f : Scree → Scree) : (modScree s kind unit f).lports = s.lports := rfl
@[simp] theorem modScree_neigh (kind unit : Nat) (f : Scree → Scree) : (modScree s kind unit f).neigh = s.neigh := rfl
@[simp] theorem modScree_netOut (kind unit : Nat) (f : Scree → Scree) : (modScree s kind unit f).netOut = s.netOut := rfl
@[simp] theorem modScree_ptpPort (kind unit : Nat) (f : Scree → Scree) : (modScree s kind unit f).ptpPort = s.ptpPort := rfl
@[simp] theorem modScree_ptpHeard (kind unit : Nat) (f : Scree → Scree) : (modScree s kind unit f).ptpHeard = s.ptpHeard := rfl
@[simp] theorem modScree_ptpFree (kind unit : Nat) (f : Scree → Scree) : (modScree s kind unit f).ptpFree = s.ptpFree := rfl
@[simp] theorem modScree_ptpSync (kind unit : Nat) (f : Scree → Scree) : (modScree s kind unit f).ptpSync = s.ptpSync := rfl
@[simp] theorem modScree_ptpDelay (kind unit : Nat) (f : Scree → Scree) : (modScree s kind unit f).ptpDelay = s.ptpDelay := rfl
@[simp] theorem modScree_ptpReq (kind unit : Nat) (f : Scree → Scree) : (modScree s kind unit f).ptpReq = s.ptpReq := rfl
@[simp] theorem modScree_stamps (kind unit : Nat) (f : Scree → Scree) : (modScree s kind unit f).stamps = s.stamps := rfl
@[simp] theorem modScree_qps (kind unit : Nat) (f : Scree → Scree) : (modScree s kind unit f).qps = s.qps := rfl
@[simp] theorem modScree_regions (kind unit : Nat) (f : Scree → Scree) : (modScree s kind unit f).regions = s.regions := rfl
@[simp] theorem modScree_cmds (kind unit : Nat) (f : Scree → Scree) : (modScree s kind unit f).cmds = s.cmds := rfl
@[simp] theorem modScree_sent (kind unit : Nat) (f : Scree → Scree) : (modScree s kind unit f).sent = s.sent := rfl
@[simp] theorem modScree_seqHigh (kind unit : Nat) (f : Scree → Scree) : (modScree s kind unit f).seqHigh = s.seqHigh := rfl
@[simp] theorem modScree_seqSeen (kind unit : Nat) (f : Scree → Scree) : (modScree s kind unit f).seqSeen = s.seqSeen := rfl
@[simp] theorem modScree_seqFlash (kind unit : Nat) (f : Scree → Scree) : (modScree s kind unit f).seqFlash = s.seqFlash := rfl
@[simp] theorem modScree_power (kind unit : Nat) (f : Scree → Scree) : (modScree s kind unit f).power = s.power := rfl
@[simp] theorem modScree_pwrLimit (kind unit : Nat) (f : Scree → Scree) : (modScree s kind unit f).pwrLimit = s.pwrLimit := rfl
@[simp] theorem modScree_pwrRefused (kind unit : Nat) (f : Scree → Scree) : (modScree s kind unit f).pwrRefused = s.pwrRefused := rfl
@[simp] theorem modScree_hbmPace (kind unit : Nat) (f : Scree → Scree) : (modScree s kind unit f).hbmPace = s.hbmPace := rfl
@[simp] theorem modScree_stackPace (kind unit : Nat) (f : Scree → Scree) : (modScree s kind unit f).stackPace = s.stackPace := rfl
@[simp] theorem modScree_brake (kind unit : Nat) (f : Scree → Scree) : (modScree s kind unit f).brake = s.brake := rfl
@[simp] theorem modScree_temps (kind unit : Nat) (f : Scree → Scree) : (modScree s kind unit f).temps = s.temps := rfl
@[simp] theorem modScree_restoredAt (kind unit : Nat) (f : Scree → Scree) : (modScree s kind unit f).restoredAt = s.restoredAt := rfl
@[simp] theorem modScree_turn (kind unit : Nat) (f : Scree → Scree) : (modScree s kind unit f).turn = s.turn := rfl
@[simp] theorem modScree_outBefore (kind unit : Nat) (f : Scree → Scree) : (modScree s kind unit f).outBefore = s.outBefore := rfl
@[simp] theorem modScree_binAt (kind unit : Nat) (f : Scree → Scree) : (modScree s kind unit f).binAt = s.binAt := rfl
@[simp] theorem modScree_trip (kind unit : Nat) (f : Scree → Scree) : (modScree s kind unit f).trip = s.trip := rfl
@[simp] theorem modScree_resetLow (kind unit : Nat) (f : Scree → Scree) : (modScree s kind unit f).resetLow = s.resetLow := rfl
@[simp] theorem modScree_flash (kind unit : Nat) (f : Scree → Scree) : (modScree s kind unit f).flash = s.flash := rfl
@[simp] theorem modScree_meter (kind unit : Nat) (f : Scree → Scree) : (modScree s kind unit f).meter = s.meter := rfl
@[simp] theorem modScree_jtagOut (kind unit : Nat) (f : Scree → Scree) : (modScree s kind unit f).jtagOut = s.jtagOut := rfl
@[simp] theorem modScree_pending (kind unit : Nat) (f : Scree → Scree) : (modScree s kind unit f).pending = s.pending := rfl

/-! ### modCmd -/

@[simp] theorem modCmd_product (m : Mbx) (f : Cmd → Cmd) : (modCmd s m f).product = s.product := rfl
@[simp] theorem modCmd_fab (m : Mbx) (f : Cmd → Cmd) : (modCmd s m f).fab = s.fab := rfl
@[simp] theorem modCmd_idKey (m : Mbx) (f : Cmd → Cmd) : (modCmd s m f).idKey = s.idKey := rfl
@[simp] theorem modCmd_storageKey (m : Mbx) (f : Cmd → Cmd) : (modCmd s m f).storageKey = s.storageKey := rfl
@[simp] theorem modCmd_meterUnread (m : Mbx) (f : Cmd → Cmd) : (modCmd s m f).meterUnread = s.meterUnread := rfl
@[simp] theorem modCmd_timeBase (m : Mbx) (f : Cmd → Cmd) : (modCmd s m f).timeBase = s.timeBase := rfl
@[simp] theorem modCmd_freeSeq (m : Mbx) (f : Cmd → Cmd) : (modCmd s m f).freeSeq = s.freeSeq := rfl
@[simp] theorem modCmd_boot (m : Mbx) (f : Cmd → Cmd) : (modCmd s m f).boot = s.boot := rfl
@[simp] theorem modCmd_bootFull (m : Mbx) (f : Cmd → Cmd) : (modCmd s m f).bootFull = s.bootFull := rfl
@[simp] theorem modCmd_bootFrom (m : Mbx) (f : Cmd → Cmd) : (modCmd s m f).bootFrom = s.bootFrom := rfl
@[simp] theorem modCmd_report (m : Mbx) (f : Cmd → Cmd) : (modCmd s m f).report = s.report := rfl
@[simp] theorem modCmd_bootLog (m : Mbx) (f : Cmd → Cmd) : (modCmd s m f).bootLog = s.bootLog := rfl
@[simp] theorem modCmd_ibis (m : Mbx) (f : Cmd → Cmd) : (modCmd s m f).ibis = s.ibis := rfl
@[simp] theorem modCmd_i3cAddr (m : Mbx) (f : Cmd → Cmd) : (modCmd s m f).i3cAddr = s.i3cAddr := rfl
@[simp] theorem modCmd_fw (m : Mbx) (f : Cmd → Cmd) : (modCmd s m f).fw = s.fw := rfl
@[simp] theorem modCmd_service (m : Mbx) (f : Cmd → Cmd) : (modCmd s m f).service = s.service := rfl
@[simp] theorem modCmd_ouvosUp (m : Mbx) (f : Cmd → Cmd) : (modCmd s m f).ouvosUp = s.ouvosUp := rfl
@[simp] theorem modCmd_loadMode (m : Mbx) (f : Cmd → Cmd) : (modCmd s m f).loadMode = s.loadMode := rfl
@[simp] theorem modCmd_flockNo (m : Mbx) (f : Cmd → Cmd) : (modCmd s m f).flockNo = s.flockNo := rfl
@[simp] theorem modCmd_refclk (m : Mbx) (f : Cmd → Cmd) : (modCmd s m f).refclk = s.refclk := rfl
@[simp] theorem modCmd_cores (m : Mbx) (f : Cmd → Cmd) : (modCmd s m f).cores = s.cores := rfl
@[simp] theorem modCmd_atMs (m : Mbx) (f : Cmd → Cmd) : (modCmd s m f).atMs = s.atMs := rfl
@[simp] theorem modCmd_fence (m : Mbx) (f : Cmd → Cmd) : (modCmd s m f).fence = s.fence := rfl
@[simp] theorem modCmd_cluFence (m : Mbx) (f : Cmd → Cmd) : (modCmd s m f).cluFence = s.cluFence := rfl
@[simp] theorem modCmd_shift (m : Mbx) (f : Cmd → Cmd) : (modCmd s m f).shift = s.shift := rfl
@[simp] theorem modCmd_switches (m : Mbx) (f : Cmd → Cmd) : (modCmd s m f).switches = s.switches := rfl
@[simp] theorem modCmd_slices (m : Mbx) (f : Cmd → Cmd) : (modCmd s m f).slices = s.slices := rfl
@[simp] theorem modCmd_routers (m : Mbx) (f : Cmd → Cmd) : (modCmd s m f).routers = s.routers := rfl
@[simp] theorem modCmd_ends (m : Mbx) (f : Cmd → Cmd) : (modCmd s m f).ends = s.ends := rfl
@[simp] theorem modCmd_landing (m : Mbx) (f : Cmd → Cmd) : (modCmd s m f).landing = s.landing := rfl
@[simp] theorem modCmd_dies (m : Mbx) (f : Cmd → Cmd) : (modCmd s m f).dies = s.dies := rfl
@[simp] theorem modCmd_parts (m : Mbx) (f : Cmd → Cmd) : (modCmd s m f).parts = s.parts := rfl
@[simp] theorem modCmd_reusable (m : Mbx) (f : Cmd → Cmd) : (modCmd s m f).reusable = s.reusable := rfl
@[simp] theorem modCmd_buckets (m : Mbx) (f : Cmd → Cmd) : (modCmd s m f).buckets = s.buckets := rfl
@[simp] theorem modCmd_hbm (m : Mbx) (f : Cmd → Cmd) : (modCmd s m f).hbm = s.hbm := rfl
@[simp] theorem modCmd_ddr (m : Mbx) (f : Cmd → Cmd) : (modCmd s m f).ddr = s.ddr := rfl
@[simp] theorem modCmd_ddrSpeed (m : Mbx) (f : Cmd → Cmd) : (modCmd s m f).ddrSpeed = s.ddrSpeed := rfl
@[simp] theorem modCmd_ddrDimms (m : Mbx) (f : Cmd → Cmd) : (modCmd s m f).ddrDimms = s.ddrDimms := rfl
@[simp] theorem modCmd_ddrGib (m : Mbx) (f : Cmd → Cmd) : (modCmd s m f).ddrGib = s.ddrGib := rfl
@[simp] theorem modCmd_spares (m : Mbx) (f : Cmd → Cmd) : (modCmd s m f).spares = s.spares := rfl
@[simp] theorem modCmd_links (m : Mbx) (f : Cmd → Cmd) : (modCmd s m f).links = s.links := rfl
@[simp] theorem modCmd_halfLinks (m : Mbx) (f : Cmd → Cmd) : (modCmd s m f).halfLinks = s.halfLinks := rfl
@[simp] theorem modCmd_fused (m : Mbx) (f : Cmd → Cmd) : (modCmd s m f).fused = s.fused := rfl
@[simp] theorem modCmd_soft (m : Mbx) (f : Cmd → Cmd) : (modCmd s m f).soft = s.soft := rfl
@[simp] theorem modCmd_scree (m : Mbx) (f : Cmd → Cmd) : (modCmd s m f).scree = s.scree := rfl
@[simp] theorem modCmd_history (m : Mbx) (f : Cmd → Cmd) : (modCmd s m f).history = s.history := rfl
@[simp] theorem modCmd_charged (m : Mbx) (f : Cmd → Cmd) : (modCmd s m f).charged = s.charged := rfl
@[simp] theorem modCmd_dumps (m : Mbx) (f : Cmd → Cmd) : (modCmd s m f).dumps = s.dumps := rfl
@[simp] theorem modCmd_skipped (m : Mbx) (f : Cmd → Cmd) : (modCmd s m f).skipped = s.skipped := rfl
@[simp] theorem modCmd_sweepMin (m : Mbx) (f : Cmd → Cmd) : (modCmd s m f).sweepMin = s.sweepMin := rfl
@[simp] theorem modCmd_sweep (m : Mbx) (f : Cmd → Cmd) : (modCmd s m f).sweep = s.sweep := rfl
@[simp] theorem modCmd_sounding (m : Mbx) (f : Cmd → Cmd) : (modCmd s m f).sounding = s.sounding := rfl
@[simp] theorem modCmd_sweepFrom (m : Mbx) (f : Cmd → Cmd) : (modCmd s m f).sweepFrom = s.sweepFrom := rfl
@[simp] theorem modCmd_sweepSize (m : Mbx) (f : Cmd → Cmd) : (modCmd s m f).sweepSize = s.sweepSize := rfl
@[simp] theorem modCmd_sweepOut (m : Mbx) (f : Cmd → Cmd) : (modCmd s m f).sweepOut = s.sweepOut := rfl
@[simp] theorem modCmd_unsounded (m : Mbx) (f : Cmd → Cmd) : (modCmd s m f).unsounded = s.unsounded := rfl
@[simp] theorem modCmd_missed (m : Mbx) (f : Cmd → Cmd) : (modCmd s m f).missed = s.missed := rfl
@[simp] theorem modCmd_tapCount (m : Mbx) (f : Cmd → Cmd) : (modCmd s m f).tapCount = s.tapCount := rfl
@[simp] theorem modCmd_hbmMoved (m : Mbx) (f : Cmd → Cmd) : (modCmd s m f).hbmMoved = s.hbmMoved := rfl
@[simp] theorem modCmd_tapTurn (m : Mbx) (f : Cmd → Cmd) : (modCmd s m f).tapTurn = s.tapTurn := rfl
@[simp] theorem modCmd_genAt (m : Mbx) (f : Cmd → Cmd) : (modCmd s m f).genAt = s.genAt := rfl
@[simp] theorem modCmd_portMode (m : Mbx) (f : Cmd → Cmd) : (modCmd s m f).portMode = s.portMode := rfl
@[simp] theorem modCmd_modePend (m : Mbx) (f : Cmd → Cmd) : (modCmd s m f).modePend = s.modePend := rfl
@[simp] theorem modCmd_resetPend (m : Mbx) (f : Cmd → Cmd) : (modCmd s m f).resetPend = s.resetPend := rfl
@[simp] theorem modCmd_lports (m : Mbx) (f : Cmd → Cmd) : (modCmd s m f).lports = s.lports := rfl
@[simp] theorem modCmd_neigh (m : Mbx) (f : Cmd → Cmd) : (modCmd s m f).neigh = s.neigh := rfl
@[simp] theorem modCmd_netOut (m : Mbx) (f : Cmd → Cmd) : (modCmd s m f).netOut = s.netOut := rfl
@[simp] theorem modCmd_ptpPort (m : Mbx) (f : Cmd → Cmd) : (modCmd s m f).ptpPort = s.ptpPort := rfl
@[simp] theorem modCmd_ptpHeard (m : Mbx) (f : Cmd → Cmd) : (modCmd s m f).ptpHeard = s.ptpHeard := rfl
@[simp] theorem modCmd_ptpFree (m : Mbx) (f : Cmd → Cmd) : (modCmd s m f).ptpFree = s.ptpFree := rfl
@[simp] theorem modCmd_ptpSync (m : Mbx) (f : Cmd → Cmd) : (modCmd s m f).ptpSync = s.ptpSync := rfl
@[simp] theorem modCmd_ptpDelay (m : Mbx) (f : Cmd → Cmd) : (modCmd s m f).ptpDelay = s.ptpDelay := rfl
@[simp] theorem modCmd_ptpReq (m : Mbx) (f : Cmd → Cmd) : (modCmd s m f).ptpReq = s.ptpReq := rfl
@[simp] theorem modCmd_stamps (m : Mbx) (f : Cmd → Cmd) : (modCmd s m f).stamps = s.stamps := rfl
@[simp] theorem modCmd_qps (m : Mbx) (f : Cmd → Cmd) : (modCmd s m f).qps = s.qps := rfl
@[simp] theorem modCmd_regions (m : Mbx) (f : Cmd → Cmd) : (modCmd s m f).regions = s.regions := rfl
@[simp] theorem modCmd_sent (m : Mbx) (f : Cmd → Cmd) : (modCmd s m f).sent = s.sent := rfl
@[simp] theorem modCmd_seqHigh (m : Mbx) (f : Cmd → Cmd) : (modCmd s m f).seqHigh = s.seqHigh := rfl
@[simp] theorem modCmd_seqSeen (m : Mbx) (f : Cmd → Cmd) : (modCmd s m f).seqSeen = s.seqSeen := rfl
@[simp] theorem modCmd_seqFlash (m : Mbx) (f : Cmd → Cmd) : (modCmd s m f).seqFlash = s.seqFlash := rfl
@[simp] theorem modCmd_power (m : Mbx) (f : Cmd → Cmd) : (modCmd s m f).power = s.power := rfl
@[simp] theorem modCmd_pwrLimit (m : Mbx) (f : Cmd → Cmd) : (modCmd s m f).pwrLimit = s.pwrLimit := rfl
@[simp] theorem modCmd_pwrRefused (m : Mbx) (f : Cmd → Cmd) : (modCmd s m f).pwrRefused = s.pwrRefused := rfl
@[simp] theorem modCmd_hbmPace (m : Mbx) (f : Cmd → Cmd) : (modCmd s m f).hbmPace = s.hbmPace := rfl
@[simp] theorem modCmd_stackPace (m : Mbx) (f : Cmd → Cmd) : (modCmd s m f).stackPace = s.stackPace := rfl
@[simp] theorem modCmd_brake (m : Mbx) (f : Cmd → Cmd) : (modCmd s m f).brake = s.brake := rfl
@[simp] theorem modCmd_temps (m : Mbx) (f : Cmd → Cmd) : (modCmd s m f).temps = s.temps := rfl
@[simp] theorem modCmd_restoredAt (m : Mbx) (f : Cmd → Cmd) : (modCmd s m f).restoredAt = s.restoredAt := rfl
@[simp] theorem modCmd_turn (m : Mbx) (f : Cmd → Cmd) : (modCmd s m f).turn = s.turn := rfl
@[simp] theorem modCmd_outBefore (m : Mbx) (f : Cmd → Cmd) : (modCmd s m f).outBefore = s.outBefore := rfl
@[simp] theorem modCmd_binAt (m : Mbx) (f : Cmd → Cmd) : (modCmd s m f).binAt = s.binAt := rfl
@[simp] theorem modCmd_trip (m : Mbx) (f : Cmd → Cmd) : (modCmd s m f).trip = s.trip := rfl
@[simp] theorem modCmd_resetLow (m : Mbx) (f : Cmd → Cmd) : (modCmd s m f).resetLow = s.resetLow := rfl
@[simp] theorem modCmd_flash (m : Mbx) (f : Cmd → Cmd) : (modCmd s m f).flash = s.flash := rfl
@[simp] theorem modCmd_meter (m : Mbx) (f : Cmd → Cmd) : (modCmd s m f).meter = s.meter := rfl
@[simp] theorem modCmd_jtagOut (m : Mbx) (f : Cmd → Cmd) : (modCmd s m f).jtagOut = s.jtagOut := rfl
@[simp] theorem modCmd_pending (m : Mbx) (f : Cmd → Cmd) : (modCmd s m f).pending = s.pending := rfl

/-! ### useFree -/

@[simp] theorem useFree_product : (useFree s).product = s.product := rfl
@[simp] theorem useFree_fab : (useFree s).fab = s.fab := rfl
@[simp] theorem useFree_idKey : (useFree s).idKey = s.idKey := rfl
@[simp] theorem useFree_storageKey : (useFree s).storageKey = s.storageKey := rfl
@[simp] theorem useFree_meterUnread : (useFree s).meterUnread = s.meterUnread := rfl
@[simp] theorem useFree_timeBase : (useFree s).timeBase = s.timeBase := rfl
@[simp] theorem useFree_boot : (useFree s).boot = s.boot := rfl
@[simp] theorem useFree_bootFull : (useFree s).bootFull = s.bootFull := rfl
@[simp] theorem useFree_bootFrom : (useFree s).bootFrom = s.bootFrom := rfl
@[simp] theorem useFree_report : (useFree s).report = s.report := rfl
@[simp] theorem useFree_bootLog : (useFree s).bootLog = s.bootLog := rfl
@[simp] theorem useFree_ibis : (useFree s).ibis = s.ibis := rfl
@[simp] theorem useFree_i3cAddr : (useFree s).i3cAddr = s.i3cAddr := rfl
@[simp] theorem useFree_fw : (useFree s).fw = s.fw := rfl
@[simp] theorem useFree_service : (useFree s).service = s.service := rfl
@[simp] theorem useFree_ouvosUp : (useFree s).ouvosUp = s.ouvosUp := rfl
@[simp] theorem useFree_loadMode : (useFree s).loadMode = s.loadMode := rfl
@[simp] theorem useFree_flockNo : (useFree s).flockNo = s.flockNo := rfl
@[simp] theorem useFree_refclk : (useFree s).refclk = s.refclk := rfl
@[simp] theorem useFree_cores : (useFree s).cores = s.cores := rfl
@[simp] theorem useFree_atMs : (useFree s).atMs = s.atMs := rfl
@[simp] theorem useFree_fence : (useFree s).fence = s.fence := rfl
@[simp] theorem useFree_cluFence : (useFree s).cluFence = s.cluFence := rfl
@[simp] theorem useFree_shift : (useFree s).shift = s.shift := rfl
@[simp] theorem useFree_switches : (useFree s).switches = s.switches := rfl
@[simp] theorem useFree_slices : (useFree s).slices = s.slices := rfl
@[simp] theorem useFree_routers : (useFree s).routers = s.routers := rfl
@[simp] theorem useFree_ends : (useFree s).ends = s.ends := rfl
@[simp] theorem useFree_landing : (useFree s).landing = s.landing := rfl
@[simp] theorem useFree_dies : (useFree s).dies = s.dies := rfl
@[simp] theorem useFree_parts : (useFree s).parts = s.parts := rfl
@[simp] theorem useFree_reusable : (useFree s).reusable = s.reusable := rfl
@[simp] theorem useFree_buckets : (useFree s).buckets = s.buckets := rfl
@[simp] theorem useFree_hbm : (useFree s).hbm = s.hbm := rfl
@[simp] theorem useFree_ddr : (useFree s).ddr = s.ddr := rfl
@[simp] theorem useFree_ddrSpeed : (useFree s).ddrSpeed = s.ddrSpeed := rfl
@[simp] theorem useFree_ddrDimms : (useFree s).ddrDimms = s.ddrDimms := rfl
@[simp] theorem useFree_ddrGib : (useFree s).ddrGib = s.ddrGib := rfl
@[simp] theorem useFree_spares : (useFree s).spares = s.spares := rfl
@[simp] theorem useFree_links : (useFree s).links = s.links := rfl
@[simp] theorem useFree_halfLinks : (useFree s).halfLinks = s.halfLinks := rfl
@[simp] theorem useFree_fused : (useFree s).fused = s.fused := rfl
@[simp] theorem useFree_soft : (useFree s).soft = s.soft := rfl
@[simp] theorem useFree_scree : (useFree s).scree = s.scree := rfl
@[simp] theorem useFree_history : (useFree s).history = s.history := rfl
@[simp] theorem useFree_charged : (useFree s).charged = s.charged := rfl
@[simp] theorem useFree_dumps : (useFree s).dumps = s.dumps := rfl
@[simp] theorem useFree_skipped : (useFree s).skipped = s.skipped := rfl
@[simp] theorem useFree_sweepMin : (useFree s).sweepMin = s.sweepMin := rfl
@[simp] theorem useFree_sweep : (useFree s).sweep = s.sweep := rfl
@[simp] theorem useFree_sounding : (useFree s).sounding = s.sounding := rfl
@[simp] theorem useFree_sweepFrom : (useFree s).sweepFrom = s.sweepFrom := rfl
@[simp] theorem useFree_sweepSize : (useFree s).sweepSize = s.sweepSize := rfl
@[simp] theorem useFree_sweepOut : (useFree s).sweepOut = s.sweepOut := rfl
@[simp] theorem useFree_unsounded : (useFree s).unsounded = s.unsounded := rfl
@[simp] theorem useFree_missed : (useFree s).missed = s.missed := rfl
@[simp] theorem useFree_tapCount : (useFree s).tapCount = s.tapCount := rfl
@[simp] theorem useFree_hbmMoved : (useFree s).hbmMoved = s.hbmMoved := rfl
@[simp] theorem useFree_tapTurn : (useFree s).tapTurn = s.tapTurn := rfl
@[simp] theorem useFree_genAt : (useFree s).genAt = s.genAt := rfl
@[simp] theorem useFree_portMode : (useFree s).portMode = s.portMode := rfl
@[simp] theorem useFree_modePend : (useFree s).modePend = s.modePend := rfl
@[simp] theorem useFree_resetPend : (useFree s).resetPend = s.resetPend := rfl
@[simp] theorem useFree_lports : (useFree s).lports = s.lports := rfl
@[simp] theorem useFree_neigh : (useFree s).neigh = s.neigh := rfl
@[simp] theorem useFree_netOut : (useFree s).netOut = s.netOut := rfl
@[simp] theorem useFree_ptpPort : (useFree s).ptpPort = s.ptpPort := rfl
@[simp] theorem useFree_ptpHeard : (useFree s).ptpHeard = s.ptpHeard := rfl
@[simp] theorem useFree_ptpFree : (useFree s).ptpFree = s.ptpFree := rfl
@[simp] theorem useFree_ptpSync : (useFree s).ptpSync = s.ptpSync := rfl
@[simp] theorem useFree_ptpDelay : (useFree s).ptpDelay = s.ptpDelay := rfl
@[simp] theorem useFree_ptpReq : (useFree s).ptpReq = s.ptpReq := rfl
@[simp] theorem useFree_stamps : (useFree s).stamps = s.stamps := rfl
@[simp] theorem useFree_qps : (useFree s).qps = s.qps := rfl
@[simp] theorem useFree_regions : (useFree s).regions = s.regions := rfl
@[simp] theorem useFree_cmds : (useFree s).cmds = s.cmds := rfl
@[simp] theorem useFree_sent : (useFree s).sent = s.sent := rfl
@[simp] theorem useFree_seqHigh : (useFree s).seqHigh = s.seqHigh := rfl
@[simp] theorem useFree_seqSeen : (useFree s).seqSeen = s.seqSeen := rfl
@[simp] theorem useFree_seqFlash : (useFree s).seqFlash = s.seqFlash := rfl
@[simp] theorem useFree_power : (useFree s).power = s.power := rfl
@[simp] theorem useFree_pwrLimit : (useFree s).pwrLimit = s.pwrLimit := rfl
@[simp] theorem useFree_pwrRefused : (useFree s).pwrRefused = s.pwrRefused := rfl
@[simp] theorem useFree_hbmPace : (useFree s).hbmPace = s.hbmPace := rfl
@[simp] theorem useFree_stackPace : (useFree s).stackPace = s.stackPace := rfl
@[simp] theorem useFree_brake : (useFree s).brake = s.brake := rfl
@[simp] theorem useFree_temps : (useFree s).temps = s.temps := rfl
@[simp] theorem useFree_restoredAt : (useFree s).restoredAt = s.restoredAt := rfl
@[simp] theorem useFree_turn : (useFree s).turn = s.turn := rfl
@[simp] theorem useFree_outBefore : (useFree s).outBefore = s.outBefore := rfl
@[simp] theorem useFree_binAt : (useFree s).binAt = s.binAt := rfl
@[simp] theorem useFree_trip : (useFree s).trip = s.trip := rfl
@[simp] theorem useFree_resetLow : (useFree s).resetLow = s.resetLow := rfl
@[simp] theorem useFree_flash : (useFree s).flash = s.flash := rfl
@[simp] theorem useFree_meter : (useFree s).meter = s.meter := rfl
@[simp] theorem useFree_jtagOut : (useFree s).jtagOut = s.jtagOut := rfl
@[simp] theorem useFree_pending : (useFree s).pending = s.pending := rfl

/-! ### setTier -/

@[simp] theorem setTier_product (t : Nat) (v : Tier) : (setTier s t v).product = s.product := by
  unfold setTier; split <;> rfl
@[simp] theorem setTier_fab (t : Nat) (v : Tier) : (setTier s t v).fab = s.fab := by
  unfold setTier; split <;> rfl
@[simp] theorem setTier_idKey (t : Nat) (v : Tier) : (setTier s t v).idKey = s.idKey := by
  unfold setTier; split <;> rfl
@[simp] theorem setTier_storageKey (t : Nat) (v : Tier) : (setTier s t v).storageKey = s.storageKey := by
  unfold setTier; split <;> rfl
@[simp] theorem setTier_meterUnread (t : Nat) (v : Tier) : (setTier s t v).meterUnread = s.meterUnread := by
  unfold setTier; split <;> rfl
@[simp] theorem setTier_timeBase (t : Nat) (v : Tier) : (setTier s t v).timeBase = s.timeBase := by
  unfold setTier; split <;> rfl
@[simp] theorem setTier_freeSeq (t : Nat) (v : Tier) : (setTier s t v).freeSeq = s.freeSeq := by
  unfold setTier; split <;> rfl
@[simp] theorem setTier_boot (t : Nat) (v : Tier) : (setTier s t v).boot = s.boot := by
  unfold setTier; split <;> rfl
@[simp] theorem setTier_bootFull (t : Nat) (v : Tier) : (setTier s t v).bootFull = s.bootFull := by
  unfold setTier; split <;> rfl
@[simp] theorem setTier_bootFrom (t : Nat) (v : Tier) : (setTier s t v).bootFrom = s.bootFrom := by
  unfold setTier; split <;> rfl
@[simp] theorem setTier_report (t : Nat) (v : Tier) : (setTier s t v).report = s.report := by
  unfold setTier; split <;> rfl
@[simp] theorem setTier_bootLog (t : Nat) (v : Tier) : (setTier s t v).bootLog = s.bootLog := by
  unfold setTier; split <;> rfl
@[simp] theorem setTier_ibis (t : Nat) (v : Tier) : (setTier s t v).ibis = s.ibis := by
  unfold setTier; split <;> rfl
@[simp] theorem setTier_i3cAddr (t : Nat) (v : Tier) : (setTier s t v).i3cAddr = s.i3cAddr := by
  unfold setTier; split <;> rfl
@[simp] theorem setTier_fw (t : Nat) (v : Tier) : (setTier s t v).fw = s.fw := by
  unfold setTier; split <;> rfl
@[simp] theorem setTier_service (t : Nat) (v : Tier) : (setTier s t v).service = s.service := by
  unfold setTier; split <;> rfl
@[simp] theorem setTier_ouvosUp (t : Nat) (v : Tier) : (setTier s t v).ouvosUp = s.ouvosUp := by
  unfold setTier; split <;> rfl
@[simp] theorem setTier_loadMode (t : Nat) (v : Tier) : (setTier s t v).loadMode = s.loadMode := by
  unfold setTier; split <;> rfl
@[simp] theorem setTier_flockNo (t : Nat) (v : Tier) : (setTier s t v).flockNo = s.flockNo := by
  unfold setTier; split <;> rfl
@[simp] theorem setTier_refclk (t : Nat) (v : Tier) : (setTier s t v).refclk = s.refclk := by
  unfold setTier; split <;> rfl
@[simp] theorem setTier_cores (t : Nat) (v : Tier) : (setTier s t v).cores = s.cores := by
  unfold setTier; split <;> rfl
@[simp] theorem setTier_atMs (t : Nat) (v : Tier) : (setTier s t v).atMs = s.atMs := by
  unfold setTier; split <;> rfl
@[simp] theorem setTier_fence (t : Nat) (v : Tier) : (setTier s t v).fence = s.fence := by
  unfold setTier; split <;> rfl
@[simp] theorem setTier_cluFence (t : Nat) (v : Tier) : (setTier s t v).cluFence = s.cluFence := by
  unfold setTier; split <;> rfl
@[simp] theorem setTier_shift (t : Nat) (v : Tier) : (setTier s t v).shift = s.shift := by
  unfold setTier; split <;> rfl
@[simp] theorem setTier_switches (t : Nat) (v : Tier) : (setTier s t v).switches = s.switches := by
  unfold setTier; split <;> rfl
@[simp] theorem setTier_slices (t : Nat) (v : Tier) : (setTier s t v).slices = s.slices := by
  unfold setTier; split <;> rfl
@[simp] theorem setTier_routers (t : Nat) (v : Tier) : (setTier s t v).routers = s.routers := by
  unfold setTier; split <;> rfl
@[simp] theorem setTier_ends (t : Nat) (v : Tier) : (setTier s t v).ends = s.ends := by
  unfold setTier; split <;> rfl
@[simp] theorem setTier_landing (t : Nat) (v : Tier) : (setTier s t v).landing = s.landing := by
  unfold setTier; split <;> rfl
@[simp] theorem setTier_dies (t : Nat) (v : Tier) : (setTier s t v).dies = s.dies := by
  unfold setTier; split <;> rfl
@[simp] theorem setTier_parts (t : Nat) (v : Tier) : (setTier s t v).parts = s.parts := by
  unfold setTier; split <;> rfl
@[simp] theorem setTier_reusable (t : Nat) (v : Tier) : (setTier s t v).reusable = s.reusable := by
  unfold setTier; split <;> rfl
@[simp] theorem setTier_buckets (t : Nat) (v : Tier) : (setTier s t v).buckets = s.buckets := by
  unfold setTier; split <;> rfl
@[simp] theorem setTier_ddrSpeed (t : Nat) (v : Tier) : (setTier s t v).ddrSpeed = s.ddrSpeed := by
  unfold setTier; split <;> rfl
@[simp] theorem setTier_ddrDimms (t : Nat) (v : Tier) : (setTier s t v).ddrDimms = s.ddrDimms := by
  unfold setTier; split <;> rfl
@[simp] theorem setTier_ddrGib (t : Nat) (v : Tier) : (setTier s t v).ddrGib = s.ddrGib := by
  unfold setTier; split <;> rfl
@[simp] theorem setTier_spares (t : Nat) (v : Tier) : (setTier s t v).spares = s.spares := by
  unfold setTier; split <;> rfl
@[simp] theorem setTier_links (t : Nat) (v : Tier) : (setTier s t v).links = s.links := by
  unfold setTier; split <;> rfl
@[simp] theorem setTier_halfLinks (t : Nat) (v : Tier) : (setTier s t v).halfLinks = s.halfLinks := by
  unfold setTier; split <;> rfl
@[simp] theorem setTier_fused (t : Nat) (v : Tier) : (setTier s t v).fused = s.fused := by
  unfold setTier; split <;> rfl
@[simp] theorem setTier_soft (t : Nat) (v : Tier) : (setTier s t v).soft = s.soft := by
  unfold setTier; split <;> rfl
@[simp] theorem setTier_scree (t : Nat) (v : Tier) : (setTier s t v).scree = s.scree := by
  unfold setTier; split <;> rfl
@[simp] theorem setTier_history (t : Nat) (v : Tier) : (setTier s t v).history = s.history := by
  unfold setTier; split <;> rfl
@[simp] theorem setTier_charged (t : Nat) (v : Tier) : (setTier s t v).charged = s.charged := by
  unfold setTier; split <;> rfl
@[simp] theorem setTier_dumps (t : Nat) (v : Tier) : (setTier s t v).dumps = s.dumps := by
  unfold setTier; split <;> rfl
@[simp] theorem setTier_skipped (t : Nat) (v : Tier) : (setTier s t v).skipped = s.skipped := by
  unfold setTier; split <;> rfl
@[simp] theorem setTier_sweepMin (t : Nat) (v : Tier) : (setTier s t v).sweepMin = s.sweepMin := by
  unfold setTier; split <;> rfl
@[simp] theorem setTier_sweep (t : Nat) (v : Tier) : (setTier s t v).sweep = s.sweep := by
  unfold setTier; split <;> rfl
@[simp] theorem setTier_sounding (t : Nat) (v : Tier) : (setTier s t v).sounding = s.sounding := by
  unfold setTier; split <;> rfl
@[simp] theorem setTier_sweepFrom (t : Nat) (v : Tier) : (setTier s t v).sweepFrom = s.sweepFrom := by
  unfold setTier; split <;> rfl
@[simp] theorem setTier_sweepSize (t : Nat) (v : Tier) : (setTier s t v).sweepSize = s.sweepSize := by
  unfold setTier; split <;> rfl
@[simp] theorem setTier_sweepOut (t : Nat) (v : Tier) : (setTier s t v).sweepOut = s.sweepOut := by
  unfold setTier; split <;> rfl
@[simp] theorem setTier_unsounded (t : Nat) (v : Tier) : (setTier s t v).unsounded = s.unsounded := by
  unfold setTier; split <;> rfl
@[simp] theorem setTier_missed (t : Nat) (v : Tier) : (setTier s t v).missed = s.missed := by
  unfold setTier; split <;> rfl
@[simp] theorem setTier_tapCount (t : Nat) (v : Tier) : (setTier s t v).tapCount = s.tapCount := by
  unfold setTier; split <;> rfl
@[simp] theorem setTier_hbmMoved (t : Nat) (v : Tier) : (setTier s t v).hbmMoved = s.hbmMoved := by
  unfold setTier; split <;> rfl
@[simp] theorem setTier_tapTurn (t : Nat) (v : Tier) : (setTier s t v).tapTurn = s.tapTurn := by
  unfold setTier; split <;> rfl
@[simp] theorem setTier_genAt (t : Nat) (v : Tier) : (setTier s t v).genAt = s.genAt := by
  unfold setTier; split <;> rfl
@[simp] theorem setTier_portMode (t : Nat) (v : Tier) : (setTier s t v).portMode = s.portMode := by
  unfold setTier; split <;> rfl
@[simp] theorem setTier_modePend (t : Nat) (v : Tier) : (setTier s t v).modePend = s.modePend := by
  unfold setTier; split <;> rfl
@[simp] theorem setTier_resetPend (t : Nat) (v : Tier) : (setTier s t v).resetPend = s.resetPend := by
  unfold setTier; split <;> rfl
@[simp] theorem setTier_lports (t : Nat) (v : Tier) : (setTier s t v).lports = s.lports := by
  unfold setTier; split <;> rfl
@[simp] theorem setTier_neigh (t : Nat) (v : Tier) : (setTier s t v).neigh = s.neigh := by
  unfold setTier; split <;> rfl
@[simp] theorem setTier_netOut (t : Nat) (v : Tier) : (setTier s t v).netOut = s.netOut := by
  unfold setTier; split <;> rfl
@[simp] theorem setTier_ptpPort (t : Nat) (v : Tier) : (setTier s t v).ptpPort = s.ptpPort := by
  unfold setTier; split <;> rfl
@[simp] theorem setTier_ptpHeard (t : Nat) (v : Tier) : (setTier s t v).ptpHeard = s.ptpHeard := by
  unfold setTier; split <;> rfl
@[simp] theorem setTier_ptpFree (t : Nat) (v : Tier) : (setTier s t v).ptpFree = s.ptpFree := by
  unfold setTier; split <;> rfl
@[simp] theorem setTier_ptpSync (t : Nat) (v : Tier) : (setTier s t v).ptpSync = s.ptpSync := by
  unfold setTier; split <;> rfl
@[simp] theorem setTier_ptpDelay (t : Nat) (v : Tier) : (setTier s t v).ptpDelay = s.ptpDelay := by
  unfold setTier; split <;> rfl
@[simp] theorem setTier_ptpReq (t : Nat) (v : Tier) : (setTier s t v).ptpReq = s.ptpReq := by
  unfold setTier; split <;> rfl
@[simp] theorem setTier_stamps (t : Nat) (v : Tier) : (setTier s t v).stamps = s.stamps := by
  unfold setTier; split <;> rfl
@[simp] theorem setTier_qps (t : Nat) (v : Tier) : (setTier s t v).qps = s.qps := by
  unfold setTier; split <;> rfl
@[simp] theorem setTier_regions (t : Nat) (v : Tier) : (setTier s t v).regions = s.regions := by
  unfold setTier; split <;> rfl
@[simp] theorem setTier_cmds (t : Nat) (v : Tier) : (setTier s t v).cmds = s.cmds := by
  unfold setTier; split <;> rfl
@[simp] theorem setTier_sent (t : Nat) (v : Tier) : (setTier s t v).sent = s.sent := by
  unfold setTier; split <;> rfl
@[simp] theorem setTier_seqHigh (t : Nat) (v : Tier) : (setTier s t v).seqHigh = s.seqHigh := by
  unfold setTier; split <;> rfl
@[simp] theorem setTier_seqSeen (t : Nat) (v : Tier) : (setTier s t v).seqSeen = s.seqSeen := by
  unfold setTier; split <;> rfl
@[simp] theorem setTier_seqFlash (t : Nat) (v : Tier) : (setTier s t v).seqFlash = s.seqFlash := by
  unfold setTier; split <;> rfl
@[simp] theorem setTier_power (t : Nat) (v : Tier) : (setTier s t v).power = s.power := by
  unfold setTier; split <;> rfl
@[simp] theorem setTier_pwrLimit (t : Nat) (v : Tier) : (setTier s t v).pwrLimit = s.pwrLimit := by
  unfold setTier; split <;> rfl
@[simp] theorem setTier_pwrRefused (t : Nat) (v : Tier) : (setTier s t v).pwrRefused = s.pwrRefused := by
  unfold setTier; split <;> rfl
@[simp] theorem setTier_hbmPace (t : Nat) (v : Tier) : (setTier s t v).hbmPace = s.hbmPace := by
  unfold setTier; split <;> rfl
@[simp] theorem setTier_stackPace (t : Nat) (v : Tier) : (setTier s t v).stackPace = s.stackPace := by
  unfold setTier; split <;> rfl
@[simp] theorem setTier_brake (t : Nat) (v : Tier) : (setTier s t v).brake = s.brake := by
  unfold setTier; split <;> rfl
@[simp] theorem setTier_temps (t : Nat) (v : Tier) : (setTier s t v).temps = s.temps := by
  unfold setTier; split <;> rfl
@[simp] theorem setTier_restoredAt (t : Nat) (v : Tier) : (setTier s t v).restoredAt = s.restoredAt := by
  unfold setTier; split <;> rfl
@[simp] theorem setTier_turn (t : Nat) (v : Tier) : (setTier s t v).turn = s.turn := by
  unfold setTier; split <;> rfl
@[simp] theorem setTier_outBefore (t : Nat) (v : Tier) : (setTier s t v).outBefore = s.outBefore := by
  unfold setTier; split <;> rfl
@[simp] theorem setTier_binAt (t : Nat) (v : Tier) : (setTier s t v).binAt = s.binAt := by
  unfold setTier; split <;> rfl
@[simp] theorem setTier_trip (t : Nat) (v : Tier) : (setTier s t v).trip = s.trip := by
  unfold setTier; split <;> rfl
@[simp] theorem setTier_resetLow (t : Nat) (v : Tier) : (setTier s t v).resetLow = s.resetLow := by
  unfold setTier; split <;> rfl
@[simp] theorem setTier_flash (t : Nat) (v : Tier) : (setTier s t v).flash = s.flash := by
  unfold setTier; split <;> rfl
@[simp] theorem setTier_meter (t : Nat) (v : Tier) : (setTier s t v).meter = s.meter := by
  unfold setTier; split <;> rfl
@[simp] theorem setTier_jtagOut (t : Nat) (v : Tier) : (setTier s t v).jtagOut = s.jtagOut := by
  unfold setTier; split <;> rfl
@[simp] theorem setTier_pending (t : Nat) (v : Tier) : (setTier s t v).pending = s.pending := by
  unfold setTier; split <;> rfl

@[simp] theorem setTier_hbm (v : Tier) : setTier s 0 v = { s with hbm := v } := rfl
@[simp] theorem setTier_ddr (v : Tier) : setTier s 1 v = { s with ddr := v } := rfl

/-! ### The written fields -/

@[simp] theorem setCore_cores (p : Nat) (c : Core) : (setCore s p c).cores = tset {} s.cores p c := rfl
@[simp] theorem setDie_dies (d : Nat) (v : Die) : (setDie s d v).dies = tset {} s.dies d v := rfl
@[simp] theorem setEnd_ends (x : Nat) (e : Endpoint) : (setEnd s x e).ends = tset {} s.ends x e := rfl
@[simp] theorem setSlice_slices (k : Nat) (v : Slice) : (setSlice s k v).slices = tset {} s.slices k v := rfl
@[simp] theorem setSwitch_switches (p : Nat) (w : Switch) : (setSwitch s p w).switches = tset {} s.switches p w := rfl
@[simp] theorem setRouter_routers (r : Nat) (v : Router) : (setRouter s r v).routers = tset {} s.routers r v := rfl
@[simp] theorem setBucket_buckets (t : Nat) (b : Bucket) : (setBucket s t b).buckets = tset {} s.buckets t b := rfl
@[simp] theorem setPow_power (c : Nat) (v : Pow) : (setPow s c v).power = tset {} s.power c v := rfl
@[simp] theorem setPart_parts (p : Nat) (v : Option Part) : (setPart s p v).parts = tset none s.parts p v := rfl
@[simp] theorem modPart_parts (p : Nat) (f : Part → Part) : (modPart s p f).parts = tmod none s.parts p (Option.map f) := rfl
@[simp] theorem setQp_qps (q : Nat) (v : Option Qp) : (setQp s q v).qps = tset none s.qps q v := rfl
@[simp] theorem modQp_qps (q : Nat) (f : Qp → Qp) : (modQp s q f).qps = tmod none s.qps q (Option.map f) := rfl
@[simp] theorem setLport_lports (l : Nat) (v : LPort) : (setLport s l v).lports = tset {} s.lports l v := rfl
@[simp] theorem setShift_shift (g v : Nat) : (setShift s g v).shift = tset 0 s.shift g (BitVec.ofNat 8 v) := rfl
@[simp] theorem useFree_freeSeq : (useFree s).freeSeq = s.freeSeq + 1 := rfl

/-! ### Reading back -/

@[simp] theorem getCore_setCore_same (k : Nat) (v : Core) : getCore (setCore s k v) k = v := tget_tset_same _ _ k v
theorem getCore_setCore_other {k j : Nat} (v : Core) (hj : j ≠ k) : getCore (setCore s k v) j = getCore s j := tget_tset_other _ _ v hj
@[simp] theorem getDie_setDie_same (k : Nat) (v : Die) : getDie (setDie s k v) k = v := tget_tset_same _ _ k v
theorem getDie_setDie_other {k j : Nat} (v : Die) (hj : j ≠ k) : getDie (setDie s k v) j = getDie s j := tget_tset_other _ _ v hj
@[simp] theorem getEnd_setEnd_same (k : Nat) (v : Endpoint) : getEnd (setEnd s k v) k = v := tget_tset_same _ _ k v
theorem getEnd_setEnd_other {k j : Nat} (v : Endpoint) (hj : j ≠ k) : getEnd (setEnd s k v) j = getEnd s j := tget_tset_other _ _ v hj
@[simp] theorem getSlice_setSlice_same (k : Nat) (v : Slice) : getSlice (setSlice s k v) k = v := tget_tset_same _ _ k v
theorem getSlice_setSlice_other {k j : Nat} (v : Slice) (hj : j ≠ k) : getSlice (setSlice s k v) j = getSlice s j := tget_tset_other _ _ v hj
@[simp] theorem getSwitch_setSwitch_same (k : Nat) (v : Switch) : getSwitch (setSwitch s k v) k = v := tget_tset_same _ _ k v
theorem getSwitch_setSwitch_other {k j : Nat} (v : Switch) (hj : j ≠ k) : getSwitch (setSwitch s k v) j = getSwitch s j := tget_tset_other _ _ v hj
@[simp] theorem getRouter_setRouter_same (k : Nat) (v : Router) : getRouter (setRouter s k v) k = v := tget_tset_same _ _ k v
theorem getRouter_setRouter_other {k j : Nat} (v : Router) (hj : j ≠ k) : getRouter (setRouter s k v) j = getRouter s j := tget_tset_other _ _ v hj
@[simp] theorem getBucket_setBucket_same (k : Nat) (v : Bucket) : getBucket (setBucket s k v) k = v := tget_tset_same _ _ k v
theorem getBucket_setBucket_other {k j : Nat} (v : Bucket) (hj : j ≠ k) : getBucket (setBucket s k v) j = getBucket s j := tget_tset_other _ _ v hj
@[simp] theorem getPow_setPow_same (k : Nat) (v : Pow) : getPow (setPow s k v) k = v := tget_tset_same _ _ k v
theorem getPow_setPow_other {k j : Nat} (v : Pow) (hj : j ≠ k) : getPow (setPow s k v) j = getPow s j := tget_tset_other _ _ v hj
@[simp] theorem getLport_setLport_same (k : Nat) (v : LPort) : getLport (setLport s k v) k = v := tget_tset_same _ _ k v
theorem getLport_setLport_other {k j : Nat} (v : LPort) (hj : j ≠ k) : getLport (setLport s k v) j = getLport s j := tget_tset_other _ _ v hj
@[simp] theorem getPart_setPart_same (k : Nat) (v : Option Part) : getPart (setPart s k v) k = v := tget_tset_same _ _ k v
theorem getPart_setPart_other {k j : Nat} (v : Option Part) (hj : j ≠ k) : getPart (setPart s k v) j = getPart s j := tget_tset_other _ _ v hj
@[simp] theorem getQp_setQp_same (k : Nat) (v : Option Qp) : getQp (setQp s k v) k = v := tget_tset_same _ _ k v
theorem getQp_setQp_other {k j : Nat} (v : Option Qp) (hj : j ≠ k) : getQp (setQp s k v) j = getQp s j := tget_tset_other _ _ v hj

/-! ### Canonical tables -/

/-- Every table of the state is in its canonical form: keys strictly rising, no entry equal to what an absent one reads as. -/
structure State.Canonical (s : State) : Prop where
  cores    : Memory.wf {} s.cores = true
  fence    : Memory.wf 0 s.fence = true
  cluFence : Memory.wf 0 s.cluFence = true
  shift    : Memory.wf 0 s.shift = true
  switches : Memory.wf {} s.switches = true
  slices   : Memory.wf {} s.slices = true
  routers  : Memory.wf {} s.routers = true
  ends     : Memory.wf {} s.ends = true
  dies     : Memory.wf {} s.dies = true
  parts    : Memory.wf none s.parts = true
  buckets  : Memory.wf {} s.buckets = true
  hbm      : Memory.wf 0 s.hbm.mem = true
  ddr      : Memory.wf 0 s.ddr.mem = true
  qps      : Memory.wf none s.qps = true
  lports   : Memory.wf {} s.lports = true
  power    : Memory.wf {} s.power = true

theorem reset_canonical : State.reset.Canonical := by constructor <;> rfl

/-- No core of the reset state holds anything but what a core holds at reset. -/
@[simp] theorem reset_core (p : Nat) : getCore State.reset p = {} := rfl
@[simp] theorem reset_pending : State.reset.pending = [] := rfl
@[simp] theorem reset_boot : State.reset.boot = .unpowered := rfl

theorem canonical_setCore {s : State} (h : s.Canonical) (p : Nat) (c : Core) : (setCore s p c).Canonical :=
  { h with cores := Memory.wf_tset _ _ h.cores }
theorem canonical_setDie {s : State} (h : s.Canonical) (d : Nat) (v : Die) : (setDie s d v).Canonical :=
  { h with dies := Memory.wf_tset _ _ h.dies }
theorem canonical_setEnd {s : State} (h : s.Canonical) (x : Nat) (e : Endpoint) : (setEnd s x e).Canonical :=
  { h with ends := Memory.wf_tset _ _ h.ends }
theorem canonical_setSlice {s : State} (h : s.Canonical) (k : Nat) (v : Slice) : (setSlice s k v).Canonical :=
  { h with slices := Memory.wf_tset _ _ h.slices }
theorem canonical_setSwitch {s : State} (h : s.Canonical) (p : Nat) (w : Switch) : (setSwitch s p w).Canonical :=
  { h with switches := Memory.wf_tset _ _ h.switches }
theorem canonical_setRouter {s : State} (h : s.Canonical) (r : Nat) (v : Router) : (setRouter s r v).Canonical :=
  { h with routers := Memory.wf_tset _ _ h.routers }
theorem canonical_setBucket {s : State} (h : s.Canonical) (t : Nat) (b : Bucket) : (setBucket s t b).Canonical :=
  { h with buckets := Memory.wf_tset _ _ h.buckets }
theorem canonical_setPow {s : State} (h : s.Canonical) (c : Nat) (v : Pow) : (setPow s c v).Canonical :=
  { h with power := Memory.wf_tset _ _ h.power }
theorem canonical_setPart {s : State} (h : s.Canonical) (p : Nat) (v : Option Part) : (setPart s p v).Canonical :=
  { h with parts := Memory.wf_tset _ _ h.parts }
theorem canonical_setQp {s : State} (h : s.Canonical) (q : Nat) (v : Option Qp) : (setQp s q v).Canonical :=
  { h with qps := Memory.wf_tset _ _ h.qps }
theorem canonical_setLport {s : State} (h : s.Canonical) (l : Nat) (v : LPort) : (setLport s l v).Canonical :=
  { h with lports := Memory.wf_tset _ _ h.lports }

end Sys2Proof.Machine
end

