-- ==== Sys2Proof/Laws/Memory.lean ====
section
/-! SUPPORT. The block's addressed memories (core memory, vector stores, slices, the two tiers): every operation keeps their
canonical form, and what one write changes. -/

namespace Sys2Proof.Machine

/-! ### Core memory and vector store -/

/-- The memories of a core and their marks are in canonical form. -/
structure CoreMem (c : Core) : Prop where
  mem   : Memory.wf 0 c.mem = true
  bad   : Memory.wf false c.bad = true
  vbad  : Memory.wf false c.vbad = true
  weak  : Memory.wf false c.weak = true
  vweak : Memory.wf false c.vweak = true
  cv    : Memory.wf none c.cv = true
  store : Memory.wf 0 c.ve.store = true

theorem coreMem_reset : CoreMem {} := by constructor <;> rfl

theorem wf_healWords {t : Tbl Bool} (a n : Nat) (h : Memory.wf false t = true) : Memory.wf false (healWords t a n) = true :=
  Memory.wf_filter _ h

theorem wf_freshWords {t : Tbl Bool} (a n : Nat) (h : Memory.wf false t = true) : Memory.wf false (freshWords t a n) = true := by
  unfold freshWords; split
  · exact h
  · exact Memory.wf_filter _ h

theorem wf_dropCv {t : Tbl (Option W32)} (a n : Nat) (h : Memory.wf none t = true) : Memory.wf none (dropCv t a n) = true := by
  unfold dropCv; split
  · exact h
  · exact Memory.wf_filter _ h

theorem writeCore_coreMem {c : Core} (h : CoreMem c) (a : Nat) (l : List Byte) : CoreMem (writeCore c a l) :=
  ⟨Memory.wf_writeBytes a l h.mem, wf_healWords a _ h.bad, h.vbad, wf_freshWords a _ h.weak, h.vweak, wf_dropCv a _ h.cv, h.store⟩

theorem writeStore_coreMem {c : Core} (h : CoreMem c) (a : Nat) (l : List Byte) : CoreMem (writeStore c a l) :=
  ⟨h.mem, h.bad, wf_healWords a _ h.vbad, h.weak, wf_freshWords a _ h.vweak, h.cv, Memory.wf_writeBytes a l h.store⟩

theorem wipeCore_coreMem (c : Core) : CoreMem (wipeCore c) := by constructor <;> rfl

/-- A write of core memory changes the bytes that it names and no other. -/
theorem writeCore_other {c : Core} {a j : Nat} {l : List Byte} (hj : j < a ∨ a + l.length ≤ j) :
    tget 0 (writeCore c a l).mem j = tget 0 c.mem j := tget_writeBytes_other hj

theorem writeCore_at {c : Core} {a i : Nat} {l : List Byte} (hi : i < l.length) :
    tget 0 (writeCore c a l).mem (a + i) = l[i] := tget_writeBytes hi

theorem writeStore_other {c : Core} {a j : Nat} {l : List Byte} (hj : j < a ∨ a + l.length ≤ j) :
    tget 0 (writeStore c a l).ve.store j = tget 0 c.ve.store j := tget_writeBytes_other hj

theorem writeStore_at {c : Core} {a i : Nat} {l : List Byte} (hi : i < l.length) :
    tget 0 (writeStore c a l).ve.store (a + i) = l[i] := tget_writeBytes hi

/-- A write of core memory leaves all of the core but its memory, its marks of words in error and its check values. -/
theorem writeCore_frame (c : Core) (a : Nat) (l : List Byte) :
    { writeCore c a l with mem := c.mem, bad := c.bad, weak := c.weak, cv := c.cv } = c := rfl

theorem writeStore_frame (c : Core) (a : Nat) (l : List Byte) :
    { writeStore c a l with ve := { (writeStore c a l).ve with store := c.ve.store }, vbad := c.vbad, vweak := c.vweak } = c := rfl

/-- Reading core memory without an uncorrectable word answers its bytes; where no word holds an error it changes nothing. -/
theorem readCore_good {s : State} {p a n : Nat} (h : badWord (getCore s p).bad a n = none) (hw : (getCore s p).weak = []) :
    readCore s p a n = (s, some (readBytes (getCore s p).mem a n)) := by
  unfold readCore; simp only [h, hw, if_true]

theorem readStore_good {s : State} {p a n : Nat} (h : badWord (getCore s p).vbad a n = none) (hw : (getCore s p).vweak = []) :
    readStore s p a n = (s, some (readBytes (getCore s p).ve.store a n)) := by
  unfold readStore; simp only [h, hw, if_true]

/-! ### Slices -/

structure SliceMem (v : Slice) : Prop where
  mem    : Memory.wf 0 v.mem = true
  bad    : Memory.wf false v.bad = true
  poison : Memory.wf false v.poison = true
  weak   : Memory.wf false v.weak = true
  cv     : Memory.wf none v.cv = true

theorem sliceMem_reset : SliceMem {} := by constructor <;> rfl

/-- Every slice is in canonical form, and so is the table of them. -/
structure SlicesOk (s : State) : Prop where
  table : Memory.wf {} s.slices = true
  each  : ∀ k, SliceMem (getSlice s k)

theorem slicesOk_reset : SlicesOk State.reset := ⟨rfl, fun _ => sliceMem_reset⟩

theorem setSlice_slicesOk {s : State} (h : SlicesOk s) (k : Nat) {v : Slice} (hv : SliceMem v) : SlicesOk (setSlice s k v) :=
  ⟨Memory.wf_tset k v h.table, fun j => by
    by_cases hj : j = k
    · subst hj; rw [getSlice_setSlice_same s j v]; exact hv
    · rw [getSlice_setSlice_other s v hj]; exact h.each j⟩

theorem wf_terase {α : Type} [DecidableEq α] {d : α} {t : Tbl α} (k : Nat) (h : Memory.wf d t = true) :
    Memory.wf d (terase t k) = true := by
  obtain ⟨hr, hd⟩ := Memory.wf_iff.1 h
  exact Memory.wf_iff.2 ⟨trising_terase k hr, fun e he => hd e (mem_terase he)⟩

theorem writeSlice_slicesOk {s : State} (h : SlicesOk s) (k a : Nat) (l : List Byte) (keep : Bool) :
    SlicesOk (writeSlice s k a l keep) := by
  have h1 := setSlice_slicesOk h k (v := { getSlice s k with
    mem := writeBytes (getSlice s k).mem a l, bad := healWords (getSlice s k).bad a l.length
    weak := freshWords (getSlice s k).weak a l.length
    poison := (getSlice s k).poison.filter (fun e => decide (e.1 * 64 < a ∨ a + l.length < e.1 * 64 + 64)) })
    ⟨Memory.wf_writeBytes a l (h.each k).mem, wf_healWords a _ (h.each k).bad, Memory.wf_filter _ (h.each k).poison,
      wf_freshWords a _ (h.each k).weak, (h.each k).cv⟩
  unfold writeSlice dropSliceCv
  dsimp only
  split
  · exact h1
  · split
    · exact h1
    · rename_i q g _
      exact setSlice_slicesOk h1 q ⟨(h1.each q).mem, (h1.each q).bad, (h1.each q).poison, (h1.each q).weak, wf_terase g (h1.each q).cv⟩

/-! ### External memory -/

structure TierMem (v : Tier) : Prop where
  mem  : Memory.wf 0 v.mem = true
  bad  : Memory.wf false v.bad = true
  weak : Memory.wf false v.weak = true
  tags : Memory.wf none v.tags = true
  cv   : Memory.wf none v.cv = true

theorem tierMem_reset : TierMem {} := by constructor <;> rfl

/-- Both tiers are in canonical form. -/
structure TiersOk (s : State) : Prop where
  hbm : TierMem s.hbm
  ddr : TierMem s.ddr

theorem tiersOk_reset : TiersOk State.reset := ⟨tierMem_reset, tierMem_reset⟩

theorem TiersOk.get {s : State} (h : TiersOk s) (t : Nat) : TierMem (getTier s t) := by
  unfold getTier; split
  · exact h.hbm
  · exact h.ddr

theorem setTier_tiersOk {s : State} (h : TiersOk s) (t : Nat) {v : Tier} (hv : TierMem v) : TiersOk (setTier s t v) := by
  unfold setTier; split
  · exact ⟨hv, h.ddr⟩
  · exact ⟨h.hbm, hv⟩

/-- What does not touch a tier keeps both in canonical form. -/
theorem TiersOk.same {s t : State} (h : TiersOk s) (hh : t.hbm = s.hbm) (hd : t.ddr = s.ddr) : TiersOk t :=
  ⟨hh ▸ h.hbm, hd ▸ h.ddr⟩

@[simp] theorem postEvent_hbm (s : State) (d : Nat) (r : EventRec) : (postEvent s d r).hbm = s.hbm := by
  unfold postEvent; dsimp only; split <;> rfl

@[simp] theorem postEvent_ddr (s : State) (d : Nat) (r : EventRec) : (postEvent s d r).ddr = s.ddr := by
  unfold postEvent; dsimp only; split <;> rfl

@[simp] theorem addSoft_hbm (s : State) (k u r n : Nat) : (addSoft s k u r n).hbm = s.hbm := by
  unfold addSoft; split <;> rfl

@[simp] theorem addSoft_ddr (s : State) (k u r n : Nat) : (addSoft s k u r n).ddr = s.ddr := by
  unfold addSoft; split <;> rfl

theorem addSoft_tiersOk {s : State} (h : TiersOk s) (k u r n : Nat) : TiersOk (addSoft s k u r n) :=
  h.same (addSoft_hbm s k u r n) (addSoft_ddr s k u r n)

theorem addSofts_tiersOk {s : State} (h : TiersOk s) (t : Nat) (us : List Nat) :
    TiersOk (us.foldl (fun s x => addSoft s 0x0A (t + 2 * x) 0x8A 1) s) := by
  induction us generalizing s with
  | nil => exact h
  | cons x r ih => exact ih (addSoft_tiersOk h _ _ _ _)

theorem integrityEvent_tiersOk {s : State} (h : TiersOk s) (t sec cause : Nat) : TiersOk (integrityEvent s t sec cause) :=
  h.same (postEvent_hbm s _ _) (postEvent_ddr s _ _)

theorem repairRow_tiersOk {s : State} (h : TiersOk s) (t sec : Nat) : TiersOk (repairRow s t sec) := by
  unfold repairRow
  extract_lets v
  split
  have hv := h.get t
  split
  · refine addSoft_tiersOk (setTier_tiersOk h t ?_) _ _ _ _
    exact ⟨hv.mem, hv.bad, hv.weak, hv.tags, hv.cv⟩
  · refine addSofts_tiersOk (setTier_tiersOk h t ?_) t _
    exact ⟨hv.mem, hv.bad, hv.weak, hv.tags, hv.cv⟩

theorem correctSector_tiersOk {s : State} (h : TiersOk s) (t sec : Nat) : TiersOk (correctSector s t sec) := by
  unfold correctSector
  extract_lets v
  split
  extract_lets l s1
  have hv := h.get t
  have h1 : TiersOk s1 := by
    refine setTier_tiersOk h t ?_
    exact ⟨hv.mem, hv.bad, wf_terase sec hv.weak, hv.tags, hv.cv⟩
  split
  · exact repairRow_tiersOk h1 t sec
  · exact h1

theorem checkSector_tiersOk {s : State} (h : TiersOk s) (t sec : Nat) : TiersOk (checkSector s t sec).1 := by
  unfold checkSector
  split
  · split
    · exact correctSector_tiersOk h t sec
    · exact h
  · exact repairRow_tiersOk (integrityEvent_tiersOk h t sec 3) t sec
  · exact integrityEvent_tiersOk h t sec _

theorem storeSector_tiersOk {s : State} (h : TiersOk s) (t sec a : Nat) (l : List Byte) : TiersOk (storeSector s t sec a l) := by
  have hv := h.get t
  exact setTier_tiersOk h t ⟨Memory.wf_writeBytes a l hv.mem, wf_terase sec hv.bad, wf_terase sec hv.weak, wf_terase _ hv.tags, hv.cv⟩

theorem countMoved_tiersOk {s : State} (h : TiersOk s) (t a n : Nat) : TiersOk (countMoved s t a n) := by
  unfold countMoved
  split
  · exact h.same rfl rfl
  · exact h

theorem writeTierGo_tiersOk {s : State} (h : TiersOk s) (t k a : Nat) (l : List Byte) (r : Option Nat) :
    TiersOk (writeTierGo s t k a l r).1 := by
  induction k generalizing s a l r with
  | zero => exact h
  | succ k ih =>
    unfold writeTierGo
    dsimp only
    split
    · exact ih h _ _ _
    · split
      · exact ih (storeSector_tiersOk h _ _ _ _) _ _ _
      · have hc := checkSector_tiersOk h t (a / 512)
        split <;> rename_i s1 he <;> rw [he] at hc
        · exact ih hc _ _ _
        · exact ih (storeSector_tiersOk hc _ _ _ _) _ _ _

/-- A write of external memory keeps the canonical form. -/
theorem writeTier_tiersOk {s : State} (h : TiersOk s) (t a : Nat) (l : List Byte) : TiersOk (writeTier s t a l).1 := by
  unfold writeTier
  extract_lets s1 v
  have h1 : TiersOk s1 := countMoved_tiersOk h t a l.length
  have hv := h1.get t
  exact writeTierGo_tiersOk (setTier_tiersOk h1 t (v := { v with cv := dropCv v.cv a l.length }) ⟨hv.mem, hv.bad, hv.weak, hv.tags, wf_dropCv a _ hv.cv⟩) t _ a l none

theorem fillRange_tiersOk {s : State} (h : TiersOk s) (t first units : Nat) : TiersOk (fillRange s t first units) := by
  unfold fillRange
  extract_lets v a n out s1 k
  have hv := h.get t
  have h1 : TiersOk s1 := setTier_tiersOk h t
    ⟨Memory.wf_clearBytes _ _ hv.mem, Memory.wf_filter _ hv.bad, Memory.wf_filter _ hv.weak, Memory.wf_filter _ hv.tags,
     Memory.wf_filter _ hv.cv⟩
  split
  · exact h1.same rfl rfl
  · exact h1

end Sys2Proof.Machine
end

