-- ==== Sys2Proof/Tests/Slice0.lean ====
section
/-! SUPPORT. The model's own tests: ill-formed commands, concrete states that meet the hypotheses of the statements, and one
step of some commands with results taken from the manual's tables and worked examples. -/

set_option maxRecDepth 100000
set_option Elab.async false

open Sys2Proof Sys2Proof.Machine

namespace Sys2Proof.Tests

/-! ### Hypotheses as checks -/

def issuesB (s : State) (p t op : Nat) (w : W64) : Bool :=
  coreOk s p && decide (t < 16) && (ready s p t (fun o => o == op) == some w) && fieldsOk w && ((thr (noted s p t) p t).state == .ready)

theorem issues_of {s : State} {p t op : Nat} {w : W64} (h : issuesB s p t op w = true) : Issues s p t op w := by
  simp only [issuesB, Bool.and_eq_true, beq_iff_eq, decide_eq_true_eq] at h
  obtain ⟨⟨⟨⟨a, b⟩, c⟩, d⟩, e⟩ := h
  exact ⟨a, b, c, d, e⟩

def headB (s : State) (core : Nat) (q : List IssueOp) (o : IssueOp) (rest : List IssueOp) (d : W512) : Bool :=
  coreOk s core && runs s core && (q == o :: rest) && (badWord (getCore s core).bad (64 * o.row) 64).isNone && (d == descRow s core o.row)

theorem head_of {s : State} {core : Nat} {q : List IssueOp} {o : IssueOp} {rest : List IssueOp} {d : W512}
    (h : headB s core q o rest d = true) : Head s core q o rest d := by
  simp only [headB, Bool.and_eq_true, beq_iff_eq, Option.isNone_iff_eq_none] at h
  obtain ⟨⟨⟨⟨a, b⟩, c⟩, d⟩, e⟩ := h
  exact ⟨a, b, c, d, e⟩

def arrivesB (s : State) (x ty : Nat) (c : Cell) : Bool := posOk s x && (headCell s x ty == some c) && !deaf s x

theorem arrives_of {s : State} {x ty : Nat} {c : Cell} (h : arrivesB s x ty c = true) : Arrives s x ty c := by
  simp only [arrivesB, Bool.and_eq_true, beq_iff_eq, Bool.not_eq_true'] at h
  exact ⟨h.1.1, h.1.2, h.2⟩

/-! ### Outcomes -/

/-- The command answers exactly this next state. -/
def gives (i : Instr) (s t : State) : Bool := match exec i s with | .next u => u == t | _ => false

/-- The command answers a next state of which `f` holds. -/
def after (i : Instr) (s : State) (f : State → Bool) : Bool := match exec i s with | .next u => f u | _ => false

/-! ### Small states -/

/-- A command word: opcode and the lower 56 bits. -/
def tWord (op low : Nat) : W64 := BitVec.ofNat 64 (op * 2 ^ 56 + low)

/-- Core 0 with thread 0 READY at index 0 of a list of 101 words, the first of which is `w`. -/
def tCore (w : W64) : Core :=
  { threads := [(0, { state := .ready, range := BitVec.ofNat 64 (100 * 2 ^ 18), fetch := [{ row := 0, data := w.setWidth 512 }] })] }

def tState (w : W64) (f : Core → Core) : State := setCore State.reset 0 (f (tCore w))

def tThread (c : Core) (f : Thread → Thread) : Core := modThread c 0 f


/-! ### Threads -/

theorem witness_EmptyQueueLetsACyclePass : State.reset.pending = [] ∧ State.reset.parts = [] ∧ State.reset.qps = [] ∧
    State.reset.lports = [] ∧ State.reset.cmds = [] := ⟨rfl, rfl, rfl, rfl, rfl⟩

/-- A command waits, and step runs it. -/
def tQueued : State := { tState (tWord 0x02 0) id with pending := [.nop 0 0, .powerOn] }

theorem test_step_takes_the_front : (match step tQueued with | .next u => u.pending == [.powerOn] | _ => false) = true := by
  decide +kernel

theorem witness_StepsOnlyAge : ∃ t, step tQueued = .next t := by
  generalize h : step tQueued = o
  have k := test_step_takes_the_front
  rw [h] at k
  cases o with
  | next t => exact ⟨t, rfl⟩
  | fault f => exact absurd k Bool.false_ne_true
  | refused r => exact absurd k Bool.false_ne_true

theorem witness_NopAndJumpMoveTheThread : Issues (tState (tWord 0x02 0) id) 0 0 0x02 (tWord 0x02 0) ∧
    inRange (thr (noted (tState (tWord 0x02 0) id) 0 0) 0 0) 1 = true ∧ Issues (tState (tWord 0x33 100) id) 0 0 0x33 (tWord 0x33 100) ∧
    inRange (thr (noted (tState (tWord 0x33 100) id) 0 0) 0 0) (fld (tWord 0x33 100) 17 0) = true :=
  ⟨issues_of (by decide +kernel), by decide +kernel, issues_of (by decide +kernel), by decide +kernel⟩

theorem test_nop : gives (.nop 0 0) (tState (tWord 0x02 0) id) (movedTo (noted (tState (tWord 0x02 0) id) 0 0) 0 0 1) = true := by
  decide +kernel

theorem test_jump : gives (.jump 0 0) (tState (tWord 0x33 9) id) (movedTo (noted (tState (tWord 0x33 9) id) 0 0) 0 0 9) = true := by
  decide +kernel

/-- BRANCH to index 7 − 3 = 4 on counter 1 above 4: the offset is −3. -/
def tBranch (imm : Nat) : W64 := tWord 0x32 (1 * 2 ^ 48 + 5 * 2 ^ 45 + (2 ^ 18 - 3) * 2 ^ 24 + imm)
def tCount (n : Nat) (c : Core) : Core := setCtr c 1 { value := BitVec.ofNat 32 n }
def tAt (i : Nat) (w : W64) (c : Core) : Core :=
  tThread c (fun th => { th with pc := i, fetch := [{ row := 0, data := w.setWidth 512 <<< (64 * i) }] })
def tBr (imm n : Nat) : State := tState 0 (fun c => tCount n (tAt 7 (tBranch imm) c))

theorem witness_BranchOnACounter : (Issues (tBr 4 5) 0 0 0x32 (tBranch 4) ∧ (getCtr (getCore (noted (tBr 4 5) 0 0) 0) 1).fault = false ∧
      Taken 5 (getCtr (getCore (noted (tBr 4 5) 0 0) 0) 1).value.toNat 4 ∧ ((4 : Nat) : Int) = 7 + signed 18 (fld (tBranch 4) 41 24) ∧
      inRange (thr (noted (tBr 4 5) 0 0) 0 0) 4 = true) ∧
    (Issues (tBr 5 5) 0 0 0x32 (tBranch 5) ∧ ¬ Taken 5 (getCtr (getCore (noted (tBr 5 5) 0 0) 0) 1).value.toNat 5 ∧
      inRange (thr (noted (tBr 5 5) 0 0) 0 0) 8 = true) := by
  refine ⟨⟨issues_of (by decide +kernel), by decide +kernel, ?_, by decide +kernel, by decide +kernel⟩,
    issues_of (by decide +kernel), ?_, by decide +kernel⟩
  · exact .inr (.inr (.inr (.inr (.inr (by decide +kernel)))))
  · have e : (getCtr (getCore (noted (tBr 5 5) 0 0) 0) 1).value.toNat = 5 := by decide +kernel
    rw [e]; unfold Taken; omega

theorem test_branch : gives (.branch 0 0) (tBr 4 5) (movedTo (noted (tBr 4 5) 0 0) 0 0 4) = true := by decide +kernel
theorem test_branch_not_taken : gives (.branch 0 0) (tBr 5 5) (movedTo (noted (tBr 5 5) 0 0) 0 0 8) = true := by decide +kernel

def tCalls (n op : Nat) : State := tState (tWord op (if op = 0x34 then 20 else 0)) (fun c => tThread c (fun th => { th with calls := List.replicate n 6 }))

theorem witness_CallAndReturn : (Issues (tCalls 8 0x34) 0 0 0x34 (tWord 0x34 20) ∧ (thr (noted (tCalls 8 0x34) 0 0) 0 0).calls.length ≥ 8) ∧
    (Issues (tCalls 7 0x34) 0 0 0x34 (tWord 0x34 20) ∧ (thr (noted (tCalls 7 0x34) 0 0) 0 0).calls.length < 8 ∧
      inRange (thr (noted (tCalls 7 0x34) 0 0) 0 0) (fld (tWord 0x34 20) 17 0) = true) ∧
    (Issues (tCalls 0 0x35) 0 0 0x35 (tWord 0x35 0) ∧ (thr (noted (tCalls 0 0x35) 0 0) 0 0).calls = []) ∧
    (Issues (tCalls 1 0x35) 0 0 0x35 (tWord 0x35 0) ∧ (thr (noted (tCalls 1 0x35) 0 0) 0 0).calls = [6] ∧
      inRange (thr (noted (tCalls 1 0x35) 0 0) 0 0) 6 = true) :=
  ⟨⟨issues_of (by decide +kernel), by decide +kernel⟩, ⟨issues_of (by decide +kernel), by decide +kernel, by decide +kernel⟩,
   ⟨issues_of (by decide +kernel), by decide +kernel⟩, ⟨issues_of (by decide +kernel), by decide +kernel, by decide +kernel⟩⟩

theorem test_call : after (.call 0 0) (tCalls 7 0x34) (fun u => (thr u 0 0).pc == 20 && (thr u 0 0).calls == 1 :: List.replicate 7 6) = true := by
  decide +kernel
theorem test_call_too_deep : after (.call 0 0) (tCalls 8 0x34) (fun u => (thr u 0 0).state == .trapped && (thr u 0 0).cause == 3) = true := by
  decide +kernel
theorem test_ret : after (.ret 0 0) (tCalls 1 0x35) (fun u => (thr u 0 0).pc == 6 && (thr u 0 0).calls == []) = true := by decide +kernel

/-- LOOP register 2, 3 times, body of 9 commands after the first. -/
def tLoop (n : Nat) : W64 := tWord 0x30 (2 * 2 ^ 54 + 9 * 2 ^ 32 + n)
def tLoopCnt : W64 := tWord 0x30 (2 * 2 ^ 54 + 2 ^ 53 + 9 * 2 ^ 32 + 1)
def tLoopEnd (n : Nat) : State :=
  tState (tWord 0x31 (2 * 2 ^ 54)) (fun c => tThread c (fun th => { th with lc := [(2, BitVec.ofNat 32 n)], lcStart := [(2, 33)] }))

theorem witness_CountedLoops : (Issues (tState (tLoop 0) id) 0 0 0x30 (tLoop 0) ∧ 0 = fld (tLoop 0) 31 0 ∧ bit (tLoop 0) 53 = false ∧
      inRange (thr (noted (tState (tLoop 0) id) 0 0) 0 0) 11 = true) ∧
    (Issues (tState tLoopCnt (tCount 3)) 0 0 0x30 tLoopCnt ∧ bit tLoopCnt 53 = true ∧
      (getCtr (getCore (noted (tState tLoopCnt (tCount 3)) 0 0) 0) 1).value.toNat = 3 ∧
      (getCtr (getCore (noted (tState tLoopCnt (tCount 3)) 0 0) 0) 1).fault = false ∧
      inRange (thr (noted (tState tLoopCnt (tCount 3)) 0 0) 0 0) 1 = true) ∧
    (Issues (tLoopEnd 2) 0 0 0x31 (tWord 0x31 (2 * 2 ^ 54)) ∧ 2 = (tget (0 : W32) (thr (noted (tLoopEnd 2) 0 0) 0 0).lc 2).toNat ∧
      inRange (thr (noted (tLoopEnd 2) 0 0) 0 0) 33 = true) ∧
    (Issues (tLoopEnd 1) 0 0 0x31 (tWord 0x31 (2 * 2 ^ 54)) ∧ inRange (thr (noted (tLoopEnd 1) 0 0) 0 0) 1 = true) :=
  ⟨⟨issues_of (by decide +kernel), by decide +kernel, by decide +kernel, by decide +kernel⟩,
   ⟨issues_of (by decide +kernel), by decide +kernel, by decide +kernel, by decide +kernel, by decide +kernel⟩,
   ⟨issues_of (by decide +kernel), by decide +kernel, by decide +kernel⟩, ⟨issues_of (by decide +kernel), by decide +kernel⟩⟩

theorem test_loop : after (.loop 0 0) (tState tLoopCnt (tCount 3)) (fun u => (thr u 0 0).pc == 1 && (thr u 0 0).lc == [(2, 3)] &&
    (thr u 0 0).lcStart == [(2, 1)]) = true := by decide +kernel
theorem test_loop_of_zero : after (.loop 0 0) (tState (tLoop 0) id) (fun u => (thr u 0 0).pc == 11 && (thr u 0 0).lc == []) = true := by decide +kernel
theorem test_loop_end : after (.loopEnd 0 0) (tLoopEnd 2) (fun u => (thr u 0 0).pc == 33 && (thr u 0 0).lc == [(2, 1)]) = true := by decide +kernel
theorem test_loop_end_last : after (.loopEnd 0 0) (tLoopEnd 1) (fun u => (thr u 0 0).pc == 1 && (thr u 0 0).lc == []) = true := by decide +kernel

/-- A command on counter 1 with an immediate. -/
def tSync (op imm : Nat) : W64 := tWord op (2 ^ 48 + imm)
def tLim (op imm n lim : Nat) : State :=
  tState (tSync op imm) (fun c => setCtr c 1 { value := BitVec.ofNat 32 n, limit := BitVec.ofNat 32 lim })

theorem witness_CounterUpdates : (Issues (tLim 0x20 9 4 9) 0 0 0x20 (tSync 0x20 9) ∧
      (getCtr (getCore (noted (tLim 0x20 9 4 9) 0 0) 0) 1) = { value := 4, limit := 9 } ∧
      inRange (thr (noted (tLim 0x20 9 4 9) 0 0) 0 0) 1 = true) ∧
    (Issues (tLim 0x21 5 4 9) 0 0 0x21 (tSync 0x21 5) ∧ (getCtr (getCore (noted (tLim 0x21 5 4 9) 0 0) 0) 1) = { value := 4, limit := 9 } ∧
      inRange (thr (noted (tLim 0x21 5 4 9) 0 0) 0 0) 1 = true) ∧
    (Issues (tLim 0x22 4 4 9) 0 0 0x22 (tSync 0x22 4) ∧ (getCtr (getCore (noted (tLim 0x22 4 4 9) 0 0) 0) 1) = { value := 4, limit := 9 } ∧
      inRange (thr (noted (tLim 0x22 4 4 9) 0 0) 0 0) 1 = true) :=
  ⟨⟨issues_of (by decide +kernel), by decide +kernel, by decide +kernel⟩, ⟨issues_of (by decide +kernel), by decide +kernel, by decide +kernel⟩,
   issues_of (by decide +kernel), by decide +kernel, by decide +kernel⟩

theorem test_sync_set : after (.syncSet 0 0) (tLim 0x20 9 4 9) (fun u => (getCtr (getCore u 0) 1).value == 9 && (thr u 0 0).pc == 1) = true := by
  decide +kernel
theorem test_sync_add : after (.syncAdd 0 0) (tLim 0x21 5 4 9) (fun u => (getCtr (getCore u 0) 1).value == 9 && (thr u 0 0).pc == 1) = true := by
  decide +kernel
theorem test_sync_add_over_limit : after (.syncAdd 0 0) (tLim 0x21 6 4 9) (fun u => (getCtr (getCore u 0) 1).value == 4 &&
    (getCtr (getCore u 0) 1).fault && (thr u 0 0).state == .trapped) = true := by decide +kernel
theorem test_sync_sub : after (.syncSub 0 0) (tLim 0x22 4 4 9) (fun u => (getCtr (getCore u 0) 1).value == 0 && (thr u 0 0).pc == 1) = true := by
  decide +kernel

theorem witness_CountersNeverWrap : (5 : Nat) < 2 ^ 32 ∧ (ctrAdd { value := 4, limit := 9 } 5).2 = true ∧
    (ctrAdd { value := 4, limit := 9 } 6).2 = false ∧ (ctrSub { value := 4 } 4).2 = true ∧ (ctrSub { value := 4 } 5).2 = false ∧
    (ctrSet { value := 4, limit := 9 } 9).2 = true ∧ (ctrSet { value := 4, limit := 9 } 10).2 = false := by decide

def tWait (op imm n : Nat) : State := tLim op imm n 9

theorem witness_Waits : (∀ n, n < 10 → issuesB (tWait 0x24 4 n) 0 0 0x24 (tSync 0x24 4) ∧ issuesB (tWait 0x25 4 n) 0 0 0x25 (tSync 0x25 4) ∧
      issuesB (tWait 0x26 4 n) 0 0 0x26 (tSync 0x26 4) ∧ (getCtr (getCore (noted (tWait 0x26 4 n) 0 0) 0) 1).value.toNat = n ∧
      (getCtr (getCore (noted (tWait 0x26 4 n) 0 0) 0) 1).fault = false) ∧
    inRange (thr (noted (tWait 0x24 4 4) 0 0) 0 0) 1 = true := by decide +kernel

theorem test_wait_ge : after (.waitGe 0 0) (tWait 0x24 4 4) (fun u => (thr u 0 0).state == .ready && (thr u 0 0).pc == 1) = true := by decide +kernel
theorem test_wait_eq : after (.waitEq 0 0) (tWait 0x25 4 5) (fun u => (thr u 0 0).state == .waiting && (thr u 0 0).pc == 0) = true := by decide +kernel
theorem test_wait_take : after (.waitTake 0 0) (tWait 0x26 4 5) (fun u => (getCtr (getCore u 0) 1).value == 1 && (thr u 0 0).pc == 1) = true := by
  decide +kernel

def tWaiting (op : Nat) (n : Nat) : State :=
  { tState 0 (fun c => tCount n (tThread c (fun th => { th with
      state := .waiting, waitSync := 1, waitImm := 4, waitOp := op, waitFrom := some 10,
      cfg := BitVec.ofNat 64 (2 ^ 20) }))) with fab := 10 + 16 * 1800 + 1 }
def tOld : State := tState 0 (fun c => tThread c (fun th => { th with age := 63 }))

theorem witness_WaitEventsAndAgeing : (coreOk (tWaiting 0x25 4) 0 = true ∧ (thr (tWaiting 0x25 4) 0 0).state = .waiting ∧ runs (tWaiting 0x25 4) 0 = true ∧
      (getCtr (getCore (tWaiting 0x25 4) 0) 1).fault = false ∧ (getCtr (getCore (tWaiting 0x25 4) 0) 1).value = (thr (tWaiting 0x25 4) 0 0).waitImm ∧
      (getCtr (getCore (tWaiting 0x24 5) 0) 1).value.toNat ≥ (thr (tWaiting 0x24 5) 0 0).waitImm.toNat) ∧
    ((thr (tWaiting 0x24 3) 0 0).waitFrom = some 10 ∧ bit (thr (tWaiting 0x24 3) 0 0).cfg 20 = true ∧
      (getCore (tWaiting 0x24 3) 0).frozenAt = none ∧ (getCore (tWaiting 0x24 3) 0).stopped = false ∧
      coreNow (tWaiting 0x24 3) (getCore (tWaiting 0x24 3) 0) > 10 + usCycles (16 * 2 ^ fld (thr (tWaiting 0x24 3) 0 0).cfg 24 21)) ∧
    (coreOk tOld 0 = true ∧ (thr tOld 0 0).state = .ready ∧ bit (thr tOld 0 0).cfg 19 = false ∧ (thr tOld 0 0).age = 63) := by decide +kernel

theorem test_wait_satisfied : after (.waitSatisfied 0 0) (tWaiting 0x24 4) (fun u => (thr u 0 0).state == .ready && (thr u 0 0).fetch == []) = true := by
  decide +kernel
theorem test_wait_watchdog : after (.waitWatchdog 0 0) (tWaiting 0x24 3) (fun u => (thr u 0 0).cause == 0x0F) = true := by decide +kernel
theorem test_age_promotion : after (.agePromotion 0 0) tOld (fun u => (thr u 0 0).age == 64) = true := by decide +kernel

def tIssue (op n : Nat) : State :=
  tState (tWord op 5) (fun c => withQueue c op (List.replicate n { thread := 1, index := 2, word := 3 }))

theorem witness_EngineIssue : (∀ e ∈ issueRows 0 0, issuesB (tIssue e.2 8) 0 0 e.2 (tWord e.2 5) = true ∧
      (queueOf (getCore (noted (tIssue e.2 8) 0 0) 0) e.2).length = 8 ∧ issuesB (tIssue e.2 7) 0 0 e.2 (tWord e.2 5) = true ∧
      (queueOf (getCore (noted (tIssue e.2 7) 0 0) 0) e.2).length = 7 ∧ inRange (thr (noted (tIssue e.2 7) 0 0) 0 0) 1 = true) := by
  decide +kernel

theorem test_issue : (issueRows 0 0).all (fun e => after e.1 (tIssue e.2 7) (fun u =>
    queueOf (getCore u 0) e.2 == List.replicate 7 { thread := 1, index := 2, word := 3 } ++ [{ thread := 0, index := 0, word := tWord e.2 5 }] &&
    (thr u 0 0).pc == 1 && (thr u 0 0).opsOut == 1)) = true := by decide +kernel
theorem test_issue_queue_full : (issueRows 0 0).all (fun e => after e.1 (tIssue e.2 8) (fun u =>
    queueOf (getCore u 0) e.2 == queueOf (getCore (tIssue e.2 8) 0) e.2 && (thr u 0 0).pc == 0 && (thr u 0 0).state == .stalled)) = true := by
  decide +kernel

/-- Partition 0 on cluster 0. -/
def tPart (pt : Part) (s : State) : State := setPart (setClu s 0 1 0) 0 (some { pt with clusters := [0] })

/-- A raise of counter 1 of core 3 by 7. -/
def tRaiseW : W64 := tWord 0x23 (2 ^ 48 + 3 * 2 ^ 36 + 7)
def tRaises (n : Nat) : State :=
  tPart {} (tState tRaiseW (fun c => { c with
    raiseNo := n, raises := (List.range n).map (fun i => { tag := i, src := .thread 0 0, target := 1, syncId := 1, sentAt := 0 }) }))
def tTimedOut : State :=
  { tPart {} (tState 0 (fun c => { c with
    raiseNo := 1, raises := [{ tag := 0, src := .thread 0 5, target := 1, syncId := 1, sentAt := 0 }] })) with fab := 64 * 16 * 1800 }

theorem witness_RemoteRaises : (Issues (tRaises 3) 0 0 0x23 tRaiseW ∧ homeIn (noted (tRaises 3) 0 0) 0 = some (0, { clusters := [0] }, 0) ∧
      fld tRaiseW 46 36 < 32 ∧ inRange (thr (noted (tRaises 3) 0 0) 0 0) 1 = true ∧ raisesOf (getCore (noted (tRaises 3) 0 0) 0) 0 = 3) ∧
    (Issues (tRaises 4) 0 0 0x23 tRaiseW ∧ homeIn (noted (tRaises 4) 0 0) 0 = some (0, { clusters := [0] }, 0) ∧
      raisesOf (getCore (noted (tRaises 4) 0 0) 0) 0 = 4) ∧
    (coreOk tTimedOut 0 = true ∧ (getCore tTimedOut 0).raises.find? (fun r => r.tag == 0) =
        some { tag := 0, src := .thread 0 5, target := 1, syncId := 1, sentAt := 0 } ∧ isFrozen (getCore tTimedOut 0) = false ∧ (getCore tTimedOut 0).stopped = false ∧
      coreNow tTimedOut (getCore tTimedOut 0) ≥ 0 + usCycles (16 * 2 ^ fld (getCore tTimedOut 0).dmaCfg 3 0)) :=
  ⟨⟨issues_of (by decide +kernel), by decide +kernel, by decide +kernel, by decide +kernel, by decide +kernel⟩,
   ⟨issues_of (by decide +kernel), by decide +kernel, by decide +kernel⟩, by decide +kernel⟩

theorem test_sync_add_remote : after (.syncAddRemote 0 0) (tRaises 3) (fun u =>
    (getEnd u 0).outbox == [mkCell 0x0A 8 3 0 3 [1, 0, 0, 0, 7, 0, 0, 0]] && (thr u 0 0).pc == 1) = true := by decide +kernel
theorem test_sync_add_remote_fifth : after (.syncAddRemote 0 0) (tRaises 4) (fun u => (thr u 0 0).state == .stalled && (thr u 0 0).pc == 0) = true := by
  decide +kernel
theorem test_remote_sync_timeout : after (.remoteSyncTimeout 0 0) tTimedOut (fun u => (thr u 0 0).cause == 0x10 &&
    (getCore u 0).raises == []) = true := by decide +kernel

def tAtEnd : State := tState (tWord 0x02 0) (fun c => tThread (tAt 2 (tWord 0x02 0) c) (fun th => { th with range := BitVec.ofNat 64 (2 * 2 ^ 18) }))
def tReserved (op : Nat) : W64 := tWord op (if op = 0x32 then 6 * 2 ^ 45 else 2 ^ 56 - 1)

theorem witness_TrapsAtIssue : (coreOk (tState (tWord 0x7F 0) id) 0 = true ∧
      ready (tState (tWord 0x7F 0) id) 0 0 (fun o => !assigned o) = some (tWord 0x7F 0)) ∧
    ((threadRows 0 0).all (fun e => ready (tState (tReserved e.2) id) 0 0 (fun o => o == e.2) == some (tReserved e.2) &&
      !fieldsOk (tReserved e.2) && (thr (tState (tReserved e.2) id) 0 0).state == .ready) = true) ∧
    (Issues tAtEnd 0 0 0x02 (tWord 0x02 0) ∧ inRange (thr (noted tAtEnd 0 0) 0 0) ((thr (noted tAtEnd 0 0) 0 0).pc + 1) = false) ∧
    (Issues (tState (tWord 0x33 101) id) 0 0 0x33 (tWord 0x33 101) ∧
      inRange (thr (noted (tState (tWord 0x33 101) id) 0 0) 0 0) (fld (tWord 0x33 101) 17 0) = false) ∧
    (Issues (tState (tWord 0x34 101) id) 0 0 0x34 (tWord 0x34 101) ∧ (thr (noted (tState (tWord 0x34 101) id) 0 0) 0 0).calls.length < 8 ∧
      inRange (thr (noted (tState (tWord 0x34 101) id) 0 0) 0 0) (fld (tWord 0x34 101) 17 0) = false) :=
  ⟨by decide +kernel, by decide +kernel, ⟨issues_of (by decide +kernel), by decide +kernel⟩, ⟨issues_of (by decide +kernel), by decide +kernel⟩,
   issues_of (by decide +kernel), by decide +kernel, by decide +kernel⟩

theorem test_illegal_opcode : after (.illegalOpcode 0 0) (tState (tWord 0x7F 1) id) (fun u => (thr u 0 0).cause == 1 &&
    ((thr u 0 0).trap.map (fun r => r.detail)) == some (tWord 0x7F 1)) = true := by decide +kernel
theorem test_reserved_field : (threadRows 0 0).all (fun e => after e.1 (tState (tReserved e.2) id) (fun u =>
    (thr u 0 0).cause == 2)) = true := by decide +kernel

theorem witness_ATrapStopsItsThread : (thr State.reset 0 0).state = .idle ∧ (thr tOld 0 0).state ≠ .idle ∧ (thr tOld 0 0).state ≠ .trapped := by
  decide +kernel

/-- REPLAY 9 and HALT. -/
def tRep (op n : Nat) : State := tPart {} (tState (tWord op (if op = 3 then 9 * 2 ^ 40 else 0)) (fun c => tThread c (fun th => { th with opsOut := n })))
def tDrain (op n : Nat) : State :=
  modCore (noted (tRep op n) 0 0) 0 (fun c => modThread c 0 (fun th => { th with state := .draining, waitOp := op, age := 0 }))

theorem witness_ReplayAndHalt : (Issues (tRep 3 1) 0 0 3 (tWord 3 (9 * 2 ^ 40)) ∧ (thr (tRep 3 1) 0 0).state ≠ .draining ∧
      inRange (thr (noted (tRep 3 1) 0 0) 0 0) 1 = true ∧ (thr (noted (tRep 3 1) 0 0) 0 0).opsOut = 1) ∧
    (Issues (tRep 3 0) 0 0 3 (tWord 3 (9 * 2 ^ 40)) ∧ (thr (noted (tRep 3 0) 0 0) 0 0).opsOut = 0 ∧
      homeIn (tDrain 3 0) 0 = some (0, { clusters := [0] }, 0) ∧ (tRep 3 0).parts = [(0, some { clusters := [0] })]) ∧
    (Issues (tRep 1 1) 0 0 1 (tWord 1 0) ∧ (thr (noted (tRep 1 1) 0 0) 0 0).opsOut = 1) ∧
    (Issues (tRep 1 0) 0 0 1 (tWord 1 0) ∧ (thr (noted (tRep 1 0) 0 0) 0 0).opsOut = 0 ∧
      homeIn (tDrain 1 0) 0 = some (0, { clusters := [0] }, 0)) :=
  ⟨⟨issues_of (by decide +kernel), by decide +kernel, by decide +kernel, by decide +kernel⟩,
   ⟨issues_of (by decide +kernel), by decide +kernel, by decide +kernel, by decide +kernel⟩,
   ⟨issues_of (by decide +kernel), by decide +kernel⟩, issues_of (by decide +kernel), by decide +kernel, by decide +kernel⟩

/-- The same with the replay area at address `a`: in the core itself, in core 1, and outside the partition. -/
def tRepAt (op a : Nat) : State := modCore (tRep op 0) 0 (fun c => tThread c (fun th => { th with replay := BitVec.ofNat 64 a }))
def tDrainAt (op a : Nat) : State :=
  modCore (noted (tRepAt op a) 0 0) 0 (fun c => modThread c 0 (fun th => { th with state := .draining, waitOp := op, age := 0 }))
def tAnswered (op st : Nat) : State := modCore (tDrainAt op 0x200000) 0 (fun c =>
  { c with records := [{ tag := 0, thread := 0, halts := op == 1, sentAt := 0, answer := some st }] })

theorem witness_ReplayAndHalt_record : [3, 1].all (fun op =>
      issuesB (tRepAt op 0) 0 0 op (tWord op (if op = 3 then 9 * 2 ^ 40 else 0)) && issuesB (tRepAt op 0x200000) 0 0 op (tWord op (if op = 3 then 9 * 2 ^ 40 else 0)) &&
      issuesB (tRepAt op 0x4000000) 0 0 op (tWord op (if op = 3 then 9 * 2 ^ 40 else 0)) &&
      replayArea (thr (tDrainAt op 0x200000) 0 0) == 0x200000 && (firstBad { clusters := [0] } true 0x4000000 128).isSome &&
      homeIn (tDrainAt op 0x200000) 0 == some (0, { clusters := [0] }, 0) && freeTag (getCore (tDrainAt op 0x200000) 0) == some 0) = true ∧
    (firstBad { clusters := [0] } true 0 128 = none ∧ (placeOf { clusters := [0] } 0 0).pos = logAt { clusters := [0] } 0) ∧
    (firstBad { clusters := [0] } true 0x200000 128 = none ∧ (placeOf { clusters := [0] } 0 0x200000).pos ≠ logAt { clusters := [0] } 0) := by
  decide +kernel

theorem witness_ReplayAndHalt_answered : [3, 1].all (fun op => [0, 2, 3].all (fun st =>
    coreOk (tAnswered op st) 0 && ((thr (tAnswered op st) 0 0).state == .draining) && ((thr (tAnswered op st) 0 0).waitOp == op) &&
    ((thr (tAnswered op st) 0 0).opsOut == 0) && runs (tAnswered op st) 0 &&
    ((getCore (tAnswered op st) 0).records.find? (fun r => r.thread == 0) ==
      some { tag := 0, thread := 0, halts := op == 1, sentAt := 0, answer := some st }))) = true := by decide +kernel

/-- R58: replay_id at offset 0, the ThreadID at 2, the resume index at 4. -/
theorem test_replay : after (.replay 0 0) (tRep 3 0) (fun u => readBytes (getCore u 0).mem 0 8 == [9, 0, 0, 0, 1, 0, 0, 0] &&
    (thr u 0 0).altSlot && (thr u 0 0).pc == 1) = true := by decide +kernel
theorem test_halt : after (.halt 0 0) (tRep 1 0) (fun u => readBytes (getCore u 0).mem 0 8 == [0xFF, 0xFF, 0, 0, 0, 0, 0, 0] &&
    (thr u 0 0).state == .halted) = true := by decide +kernel

/-- A record that leaves the core waits for its acknowledgement (R58): an opener and four data cells go out, and the answer ends it. -/
theorem test_replay_remote : after (.replay 0 0) (tRepAt 3 0x200000) (fun u => (getEnd u 0).outbox.map (fun c => (c.type, c.dst)) ==
    [(0x02, 1), (0x01, 1), (0x01, 1), (0x01, 1), (0x01, 1)] && (thr u 0 0).state == .draining) = true := by decide +kernel
theorem test_replay_answered : after (.replay 0 0) (tAnswered 3 0) (fun u => (thr u 0 0).pc == 1 && (thr u 0 0).altSlot && (getCore u 0).records == []) = true := by
  decide +kernel
theorem test_halt_refused : after (.halt 0 0) (tAnswered 1 3) (fun u => (thr u 0 0).state == .trapped && (thr u 0 0).cause == 0x11) = true := by decide +kernel

theorem witness_ReplayRecordLayout : (replayRecord {} 0 0 0 0 0).length = 128 ∧ (3 : Nat) < 4 ∧ (7 : Nat) < 8 := by decide +kernel

def tHeld (n : Nat) : State := setDie State.reset 0 { ring := List.replicate n (.trap {}), held := [.trap { cause := 1 }, .trap { cause := 2 }] }

theorem witness_FetchAndHeldRecords : (coreOk (tState 0 id) 0 = true ∧ (thr (tState 0 id) 0 0).state = .ready ∧ runs (tState 0 id) 0 = true ∧
      wantedRow (thr (tState 0 id) 0 0) = some 1 ∧ badWord (getCore (tState 0 id) 0).bad (64 * 1) 64 = none) ∧
    (dieOk (tHeld 4095) 0 = true ∧ (getDie (tHeld 4095) 0).held = [.trap { cause := 1 }, .trap { cause := 2 }] ∧
      (getDie (tHeld 4095) 0).ring.length < 4096) := by decide +kernel

theorem test_command_fetch : after (.commandFetch 0 0) (tState 0 (fun c => { c with mem := [(64, 0x5A)] })) (fun u =>
    (thr u 0 0).fetch.map (fun f => (f.row, f.data)) == [(0, 0), (1, 0x5A)]) = true := by decide +kernel
theorem test_held_record : after (.heldRecordEntersRing 0) (tHeld 1) (fun u => (getDie u 0).ring == [.trap {}, .trap { cause := 1 }] &&
    (getDie u 0).held == [.trap { cause := 2 }]) = true := by decide +kernel

/-! ### Engines -/

/-- A descriptor word: values at bit positions. -/
def tDesc (l : List (Nat × Nat)) : W512 := BitVec.ofNat 512 (l.map (fun e => e.2 * 2 ^ e.1)).sum

/-- An operation whose descriptor is row 8. -/
def tOp (op : Nat) : IssueOp := { thread := 0, index := 3, word := tWord op 8 }
def tRest : List IssueOp := [{ thread := 1, index := 4, word := 9 }]

/-- Core 0 with descriptor `d` in row 8 and thread 0 with one operation out. -/
def tEng (d : W512) (f : Core → Core) : State := tState 0 (fun c =>
  f (tThread (writeCore c 512 (rowBytes d)) (fun th => { th with opsOut := 1 })))
def tTe (d : W512) (f : Core → Core) : State := tEng d (fun c => f { c with qTe := tOp 0x10 :: tRest })
def tVe (d : W512) (f : Core → Core) : State := tEng d (fun c => f { c with qVe := tOp 0x11 :: tRest })

/-- MATMUL of one INT8 K-block to tile 1, both operands resident; CLEAR and DRAIN of tile 1. -/
def tMat (k : Nat) : W512 := tDesc [(0, 1), (3, 1), (18, k)]
def tClearD : W512 := tDesc [(0, 3), (3, 1)]
def tDrainD : W512 := tDesc [(0, 2), (3, 1), (35, 1), (192, 64), (207, 2)]
def tZeroSide : SideEntry := { fmt := 0, esc := false, slot := 1024, exps := List.replicate 32 0, least := 0, wide := false, sums := List.replicate 32 0 }
def tResident (c : Core) : Core := { c with te := { c.te with sideA := [(0, some tZeroSide)], sideB := [(0, some tZeroSide)] } }

theorem witness_TensorOperationsStart : (Head (tTe (tMat 1) tResident) 0 (getCore (tTe (tMat 1) tResident) 0).qTe (tOp 0x10) tRest (tMat 1) ∧
      (teOps (tTe (tMat 1) tResident) 0).any loading = false ∧ teHeld (tTe (tMat 1) tResident) 0 = false ∧ fld (tMat 1) 2 0 ≠ 2 ∧ fld (tMat 1) 2 0 ≠ 3 ∧ tReason (tMat 1) = 0 ∧
      fld (tMat 1) 26 18 ≠ 0 ∧ badResident (getCore (tTe (tMat 1) tResident) 0).te (tMat 1) false = none ∧
      badResident (getCore (tTe (tMat 1) tResident) 0).te (tMat 1) true = none) ∧
    (Head (tTe (tMat 257) id) 0 (getCore (tTe (tMat 257) id) 0).qTe (tOp 0x10) tRest (tMat 257) ∧ tReason (tMat 257) = 2 ∧
      teHeld (tTe (tMat 257) id) 0 = false ∧ teHeld (tTe (tMat 0) id) 0 = false ∧ Head (tTe (tMat 0) id) 0 (getCore (tTe (tMat 0) id) 0).qTe (tOp 0x10) tRest (tMat 0) ∧ tReason (tMat 0) = 0 ∧ fld (tMat 0) 26 18 = 0) ∧
    (Head (tTe tClearD id) 0 (getCore (tTe tClearD id) 0).qTe (tOp 0x10) tRest tClearD ∧ fld tClearD 2 0 = 3 ∧ tReason tClearD = 0 ∧
      drainPending (teOps (tTe tClearD id) 0) 1 = false ∧ teHeld (tTe tClearD id) 0 = false) ∧
    (Head (tTe tDrainD id) 0 (getCore (tTe tDrainD id) 0).qTe (tOp 0x10) tRest tDrainD ∧ fld tDrainD 2 0 = 2 ∧ tReason tDrainD = 0 ∧
      (teOps (tTe tDrainD id) 0).any inOutput = false ∧ teHeld (tTe tDrainD id) 0 = false ∧ drainPending (teOps (tTe tDrainD id) 0) 1 = false) :=
  ⟨⟨head_of (by decide +kernel), by decide +kernel⟩, ⟨head_of (by decide +kernel), by decide +kernel, by decide +kernel, by decide +kernel, head_of (by decide +kernel), by decide +kernel⟩,
   ⟨head_of (by decide +kernel), by decide +kernel⟩, head_of (by decide +kernel), by decide +kernel⟩

theorem test_matmul : after (.matmul 0) (tTe (tMat 1) tResident) (fun u => (getCore u 0).qTe == tRest &&
    teOps u 0 == [{ op := tOp 0x10, desc := tMat 1 }]) = true := by decide +kernel
theorem test_matmul_too_long : after (.matmul 0) (tTe (tMat 257) id) (fun u => (teOps u 0).map (fun o => (o.phase, o.fault)) ==
    [(.done, some (0x09, 2))]) = true := by decide +kernel

/-- Core 0 with tile 1 and operations that the TE has started. -/
def tTile (t : Tile) (l : List TeOp) (d : W512) : State := tTe d (fun c => { c with te := { c.te with tiles := [(1, t)], ops := l } })

theorem test_te_clear : after (.teClear 0) (tTile { val := [(0, 7)] } [] tClearD) (fun u => tileOf u 0 1 == {} && (getCore u 0).qTe == tRest) = true := by
  decide +kernel

def tGood : Tile := { val := [(33, 7)], x := [(1, 7)], y := [(1, 7)], z := 7 }
def tWrong : Tile := { val := [(33, 8)], x := [(1, 7)], y := [(1, 7)], z := 7 }
def tDrOp : TeOp := { op := tOp 0x10, desc := tDrainD, phase := .drain }

theorem witness_DrainWritesOrIsRefused : fld tDrOp.desc 37 35 = 1 ∧ (tileOf (tTile tGood [] tDrainD) 0 (fld tDrOp.desc 4 3)).bad = false ∧
    verdict (tileOf (tTile tGood [] tDrainD) 0 (fld tDrOp.desc 4 3)) 1 = none ∧
    (verdict (tileOf (tTile tWrong [] tDrainD) 0 (fld tDrOp.desc 4 3)) 1).isSome = true := by decide +kernel

/-- Element (1, 1) of the drained tile, at bytes 132 to 135 of the 4,096 (R91). -/
theorem test_te_drain_bytes : outElem tGood tDrainD 33 = 7 ∧ outElem tGood tDrainD 32 = 0 := by decide +kernel
theorem test_te_drain_refused : after (.teDrain 0) (tTile tWrong [] tDrainD) (fun u => (tileOf u 0 1).bad && (getCore u 0).te.count == 1 &&
    (teOps u 0).map (fun o => o.fault.map (·.1)) == [some 0x0B] && (thr u 0 0).cause == 0x0B && (getDie u 0).ring.length == 2) = true := by decide +kernel

/-- A MATMUL that loads A in T2 from row 16 of core memory: its header row is zero (R81). -/
def tLoadD : W512 := tDesc [(0, 1), (3, 1), (8, 4), (14, 1), (18, 1), (72, 16)]
def tLoadOp : TeOp := { op := tOp 0x10, desc := tLoadD, rowA := 16 }
def tLoadS : State := tEng tLoadD (fun c => { c with mem := tset 0 c.mem (64 * 17) 1, te := { c.te with ops := [tLoadOp] } })
def tLoadG : Panel := groupOf 4 false (readBytes (getCore tLoadS 0).mem (64 * 16) 320)

theorem witness_TensorLoadAndStep_load : coreOk tLoadS 0 = true ∧ runs tLoadS 0 = true ∧ (teOps tLoadS 0).findIdx? loading = some 0 ∧
    (teOps tLoadS 0)[0]? = some tLoadOp ∧ nextGroup tLoadOp = (false, 0) ∧
    bufferBusy [] false (256 * unitOf tLoadD false 0) (tSlot tLoadD false) = false ∧
    (match fetchGroup tLoadS 0 tLoadOp false with
     | (s1, some (.ok l)) => s1 == tLoadS && l.flatMap (fun w => rowBytes w.data) == readBytes (getCore tLoadS 0).mem (64 * 16) 320
     | _ => false) = true ∧
    tLoadG.exps.findIdx? (fun x => decide (x - (sideEntry 4 false 256 tLoadG).least > 31)) = none := by decide +kernel

theorem test_te_block_load : after (.teBlockLoad 0) tLoadS (fun u => (teOps u 0).map (fun o => (o.loaded, o.rowA)) == [(1, 21)] &&
    ((tget none (getCore u 0).te.sideA 0).map (fun e => e.sums)) == some (1 :: List.replicate 31 0)) = true := by decide +kernel

def tASide : SideEntry := { tZeroSide with sums := 3 :: List.replicate 31 0 }
def tBSide : SideEntry := { tZeroSide with sums := 0xFFFFFFFE :: List.replicate 31 0 }
def tStepS (acc : Nat) : State := tEng (tMat 1) (fun c => { c with te := { c.te with
  bufA := [(0, 3)], bufB := [(1, 0xFE)], sideA := [(0, some tASide)], sideB := [(0, some tBSide)],
  ops := [{ op := tOp 0x10, desc := tMat 1 ||| tDesc [(27, acc)] }] } })

theorem witness_TensorLoadAndStep_step : coreOk (tStepS 0) 0 = true ∧ runs (tStepS 0) 0 = true ∧
    (teOps (tStepS 0) 0).findIdx? (fun o => o.phase == .run) = some 0 ∧ (teOps (tStepS 0) 0)[0]? = some { op := tOp 0x10, desc := tMat 1 } ∧
    0 < blocksReady { op := tOp 0x10, desc := tMat 1 } ∧ (tileOf (tStepS 0) 0 1).bad = false ∧
    ((readSide (getCore (tStepS 0) 0).te (tMat 1) false 0).bind (fun a =>
      (readSide (getCore (tStepS 0) 0).te (tMat 1) true 0).map (fun b => (badShift a b 0, badShift a b 1)))) = some (none, some 0) := by
  decide +kernel

/-- 3 · (−2) = −6 at element (0, 1). -/
theorem test_te_kblock_step : after (.teKblockStep 0) (tStepS 0) (fun u => (tileOf u 0 1).val == [(1, 0xFFFFFFFA)] &&
    (teOps u 0).map (fun o => (o.stepped, o.phase)) == [(1, .done)] && (verdict (tileOf u 0 1) 1).isNone) = true := by decide +kernel
theorem test_te_kblock_shift : after (.teKblockStep 0) (tStepS 1) (fun u => (tileOf u 0 1).bad &&
    (teOps u 0).map (fun o => o.fault.map (·.1)) == [some 0x09]) = true := by decide +kernel

theorem witness_BlockStepArithmetic : Memory.wf 0 tGood.val = true ∧ Memory.wf 0 tGood.ovf = true ∧ (31 : Nat) < 32 := by decide

def tTeDone (f : Option (Nat × W64)) : State := tEng (tMat 1) (fun c => { c with te := { c.te with
  ops := [{ op := tOp 0x10, desc := tMat 1, phase := .done, fault := f }] } })
def tVeDone (f : Option (Nat × W64)) : State := tEng 0 (fun c => { c with ve := { c.ve with
  cur := some { op := tOp 0x11, desc := tDesc [(0, 1)], computed := true, fault := f } } })

theorem witness_EngineOperationsComplete : (coreOk (tTeDone none) 0 = true ∧ runs (tTeDone none) 0 = true ∧
      (teOps (tTeDone none) 0).find? teDone = some { op := tOp 0x10, desc := tMat 1, phase := .done } ∧
      (teOps (tTeDone none) 0).findIdx? teDone = some 0 ∧
      (teOps (tTeDone (some (9, 2))) 0).find? teDone = some { op := tOp 0x10, desc := tMat 1, phase := .done, fault := some (9, 2) }) ∧
    (coreOk (tVeDone none) 0 = true ∧ runs (tVeDone none) 0 = true ∧
      (getCore (tVeDone none) 0).ve.cur = some { op := tOp 0x11, desc := tDesc [(0, 1)], computed := true } ∧
      (getCore (tVeDone (some (9, 1))) 0).ve.cur = some { op := tOp 0x11, desc := tDesc [(0, 1)], computed := true, fault := some (9, 1) }) := by
  decide +kernel

theorem test_te_op_complete : after (.teOpComplete 0) (tTeDone none) (fun u => teOps u 0 == [] && (thr u 0 0).opsOut == 0 &&
    (thr u 0 0).state == .ready) = true := by decide +kernel
theorem test_te_op_complete_fault : after (.teOpComplete 0) (tTeDone (some (9, 2))) (fun u => (thr u 0 0).cause == 9) = true := by decide +kernel
theorem test_ve_op_complete : after (.veOpComplete 0) (tVeDone none) (fun u => (getCore u 0).ve.cur == none && (thr u 0 0).opsOut == 0) = true := by
  decide +kernel
theorem test_ve_op_complete_fault : after (.veOpComplete 0) (tVeDone (some (9, 1))) (fun u => (thr u 0 0).cause == 9) = true := by decide +kernel

/-- A VE descriptor: one row of `count` elements, every operand that the primitive takes in core memory (kind 1) or, with
`k0` = 3, its first operand from input queue 0. -/
def tVD (p count k0 : Nat) : W512 :=
  let d := tDesc [(0, p)]
  let k := (List.range 4).map (fun i => let q := (vKinds d).getD i 0; if q = 0 ∨ q = 3 then 0 else if i = 0 ∧ q ≠ 4 then k0 else 1)
  tDesc ([(0, p), (17, count), (41, if usesQcw d then 32 else min count 2)] ++
    (List.range 4).flatMap (fun i => [(9 + 2 * i, k.getD i 0), (64 * (i + 1), if k.getD i 0 = 1 then 4096 * (i + 1) else 0)]) ++
    (if (0x50 ≤ p ∧ p ≤ 0x52) then [(320, 4)] else if p = 0x60 then [(320, 1)] else []))
def tVRows : List (Instr × Nat) := veElementRows 0 ++ veOtherRows 0
def tVCount (p : Nat) : Nat := if p = 0x40 ∨ p = 0x41 then 1024 else 2

theorem witness_VectorPrimitivesRun : tVRows.all (fun e =>
      headB (tVe (tVD e.2 0 1 ||| tDesc [(57, 1)]) id) 0 (getCore (tVe (tVD e.2 0 1 ||| tDesc [(57, 1)]) id) 0).qVe (tOp 0x11) tRest
        (tVD e.2 0 1 ||| tDesc [(57, 1)]) && vReason (tVD e.2 0 1 ||| tDesc [(57, 1)]) == some 1 && fld (tVD e.2 0 1 ||| tDesc [(57, 1)]) 7 0 == e.2) = true ∧
    tVRows.all (fun e =>
      headB (tVe (tVD e.2 0 1) id) 0 (getCore (tVe (tVD e.2 0 1) id) 0).qVe (tOp 0x11) tRest (tVD e.2 0 1) &&
      (getCore (tVe (tVD e.2 0 1) id) 0).ve.cur == none && vReason (tVD e.2 0 1) == none && vNothing (tVD e.2 0 1)) = true ∧
    tVRows.all (fun e => vReason (tVD e.2 (tVCount e.2) 1) == none && !vNothing (tVD e.2 (tVCount e.2) 1) &&
      (List.range 3).all (fun i => needWords (tVD e.2 (tVCount e.2) 1) i == 0)) = true ∧
    tVRows.all (fun e => (vKinds (tDesc [(0, e.2)])).getD 0 0 != 1 ||
      (vReason (tVD e.2 (tVCount e.2) 3) == none && !vNothing (tVD e.2 (tVCount e.2) 3) && needWords (tVD e.2 (tVCount e.2) 3) 0 != 0)) = true ∧
    tVRows.all (fun e =>
      let s := modCore (tVe (tVD e.2 2 1) id) 0 (fun c => { c with ve := { c.ve with cur := some { op := tOp 0x11, desc := tVD e.2 2 1 } } })
      runs s 0 && ((getCore s 0).ve.cur.map (fun o => (fld o.desc 7 0 == e.2, o.computed, o.needA, o.needB, o.needC))) == some (true, false, 0, 0, 0)) = true ∧
    tVRows.all (fun e =>
      let o : VeOp := { op := tOp 0x11, desc := tVD e.2 2 3, needA := 1, toD := true }
      let s := modCore (tVe (tVD e.2 2 3) id) 0 (fun c => { c with ve := { c.ve with cur := some o } })
      runs s 0 && (getCore s 0).ve.cur == some o && fld o.desc 7 0 == e.2 && !o.computed && (o.toD || o.toC)) = true ∧
    headB (tVe (tVD 0x10 2 1) id) 0 (getCore (tVe (tVD 0x10 2 1) id) 0).qVe (tOp 0x11) tRest (tVD 0x10 2 1) = true := by decide +kernel

/-- Word `i` of a core's memory at operand `o`. -/
def tOpnd (o i v : Nat) (c : Core) : Core := writeCore c (4096 * (o + 1) + 4 * i) (leBytes 4 v)
def tResult (u : State) (i : Nat) : Nat := leNat (readBytes (getCore u 0).mem (4096 * 4 + 4 * i) 4)

/-- One element of 2 operands: the result word that stands in memory after the command (R100, R129). -/
def tElem (i : Instr) (p a b r : Nat) : Bool :=
  after i (tVe (tVD p 1 1) (fun c => tOpnd 1 0 b (tOpnd 0 0 a c))) (fun u => tResult u 0 == r &&
    ((getCore u 0).ve.cur.map (fun o => (o.computed, o.fault))) == some (true, none))

theorem test_ve_iadd : tElem (.iadd 0) 0x10 0x7FFFFFFF 2 0x80000001 = true := by decide +kernel
theorem test_ve_isub : tElem (.isub 0) 0x11 3 5 0xFFFFFFFE = true := by decide +kernel
theorem test_ve_imul : tElem (.imul 0) 0x12 0xFFFFFFFD 5 0xFFFFFFF1 = true := by decide +kernel
theorem test_ve_imax : tElem (.imax 0) 0x13 0xFFFFFFFF 1 1 = true := by decide +kernel
theorem test_ve_imin : tElem (.imin 0) 0x14 0xFFFFFFFF 1 0xFFFFFFFF = true := by decide +kernel
theorem test_ve_shl : tElem (.shl 0) 0x15 3 33 6 = true := by decide +kernel
theorem test_ve_shra : tElem (.shra 0) 0x16 0x80000000 31 0xFFFFFFFF = true := by decide +kernel
theorem test_ve_and : tElem (.and 0) 0x17 12 10 8 = true := by decide +kernel
theorem test_ve_or : tElem (.or 0) 0x18 12 10 14 = true := by decide +kernel
theorem test_ve_xor : tElem (.xor 0) 0x19 12 10 6 = true := by decide +kernel
/-- 1.5 + 2.25 = 3.75, 1.5 − 2.25 = −0.75, 1.5 · 2.25 = 3.375 in FP32. -/
theorem test_ve_add : tElem (.add 0) 0x01 0x3FC00000 0x40100000 0x40700000 = true := by decide +kernel
theorem test_ve_sub : tElem (.sub 0) 0x02 0x3FC00000 0x40100000 0xBF400000 = true := by decide +kernel
theorem test_ve_mul : tElem (.mul 0) 0x03 0x3FC00000 0x40100000 0x40580000 = true := by decide +kernel
theorem test_ve_max : tElem (.max 0) 0x05 0xBF800000 0x3F800000 0x3F800000 = true := by decide +kernel
theorem test_ve_min : tElem (.min 0) 0x06 0xBF800000 0x3F800000 0xBF800000 = true := by decide +kernel
theorem test_ve_sqrt : tElem (.sqrt 0) 0x08 0x40800000 0 0x40000000 = true := by decide +kernel
theorem test_ve_f2i : tElem (.f2i 0) 0x0A 0x40700000 0 4 = true := by decide +kernel
theorem test_ve_i2f : tElem (.i2f 0) 0x0B 0xFFFFFFFF 0 0xBF800000 = true := by decide +kernel

/-- One element whose operands and result are words of core memory (R129). -/
def tWork : VCtx := { p := 0, d := tVD 0x10 1 1, got := fun _ => [], use := 0 }

theorem witness_OneVectorElement : (Instr.iadd 0, 0x10) ∈ veElementRows tWork.p ∧ fld tWork.d 7 0 = 0x10 ∧ fld tWork.d 40 17 = 1 ∧
    (vOp tWork.d 0).kind = 1 ∧ (vOp tWork.d 1).kind = 1 ∧ (vOp tWork.d 2).kind = 0 ∧ (vOp tWork.d 3).kind = 1 ∧
    (getCore State.reset 0).bad = [] ∧ (getCore State.reset 0).weak = [] ∧
    (({ s := State.reset } : Work).ok, ({ s := State.reset } : Work).dry, ({ s := State.reset } : Work).fault) = (true, false, none) := by decide +kernel

theorem witness_IntegerPrimitives : (0x10 : Nat) = 0x10 ∧ (0x13 : Nat) ∈ [0x13, 0x14, 0x15, 0x16, 0x17, 0x18, 0x19, 0x49] := by decide

theorem witness_FieldMultiplication : (255 : Nat) < 256 := by decide

/-- 2 · 0x80 = 0x100, reduced by 0x11D: 0x1D (R134). -/
theorem test_gf_mul : gfMul 0x80 2 = 0x1D := by decide

/-! ### The DMA -/

def tDma (d : W512) (f : Core → Core) : State := tPart {} (tEng d (fun c => f { c with qDma := tOp 0x12 :: tRest }))

theorem witness_DmaOperationsStart : (dmaRows 0).all (fun e =>
    headB (tDma (tDesc [(0, e.2)]) id) 0 (getCore (tDma (tDesc [(0, e.2)]) id) 0).qDma (tOp 0x12) tRest (tDesc [(0, e.2)]) &&
    fld (tDesc [(0, e.2)]) 2 0 == e.2 && freeTag (getCore (tDma (tDesc [(0, e.2)]) id) 0) == some 0 &&
    ctxOf (tDma (tDesc [(0, e.2)]) id) 0 0 == some { p := 0, tag := 0, part := 0, pt := { clusters := [0] }, own := 0, pos := 0, die := 0 }) = true := by
  decide +kernel

theorem test_dma_start : (dmaRows 0).all (fun e => after e.1 (tDma (tDesc [(0, e.2)]) id) (fun u => (getCore u 0).qDma == tRest &&
    ((getTag (getCore u 0) 0).map (fun o => (o.op, o.desc))) == some (tOp 0x12, tDesc [(0, e.2)]))) = true := by decide +kernel

def tTag (o : DmaOp) (f : Core → Core) : State := tDma 0 (fun c => f (setTag c 0 (some o)))
def tCredit (v : Nat) : State := tTag { op := tOp 0x12, desc := tDesc [(0, 0)], go := false, wait := some (1, 5) } (tCount v)
def tPat (v u : Nat) : DmaOp := { op := tOp 0x12, desc := tDesc [(0, 3), (41, v), (429, 1), (437, u)] }
def tXf : Xfer := { n := 4, item := 0, off := 0, bytes := 32, addr := 77, write := false, sentAt := 0 }
def tLive : State := { tTag { op := tOp 0x12, desc := 0, go := false, live := [tXf] } id with fab := 64 * 16 * 1800 }
def tRecOut : State := { modCore (tDrainAt 3 0x200000) 0 (fun c =>
  { c with records := [{ tag := 0, thread := 0, halts := false, sentAt := 0 }] }) with fab := 64 * 16 * 1800 }
def tDmaEnd (f : Option (Nat × W64 × Nat)) : State := tTag { op := tOp 0x12, desc := 0, go := false, fail := f } id
def tHold : State := { tDma 0 (fun c => { c with held := [(5, some 100)] }) with fab := 100 }

theorem witness_DmaOperationsGoOn : coreOk (tCredit 5) 0 = true ∧ runs (tCredit 5) 0 = true ∧
    ((getTag (getCore (tCredit 5) 0) 0).map (fun o => o.wait)) = some (some (1, 5)) ∧ (getCtr (getCore (tCredit 5) 0) 1).fault = false ∧
    (getCtr (getCore (tCredit 5) 0) 1).value.toNat ≥ 5 ∧
    (getTag (getCore (tTag (tPat 1 0) id) 0) 0 = some (tPat 1 0) ∧ fld (tPat 1 0).desc 2 0 = 3 ∧ (0 : Nat) < dSize2 (tPat 1 0).desc ∧
      fld (tPat 1 0).desc 452 437 = 0) ∧
    (getTag (getCore (tTag (tPat 1 3) (tCount 3)) 0) 0 = some (tPat 1 3) ∧ fld (tPat 1 3).desc 452 437 = 3 ∧
      (getCtr (getCore (tTag (tPat 1 3) (tCount 3)) 0) (fld (tPat 1 3).desc 436 429)).value.toNat = 3) ∧
    (getTag (getCore (tDmaEnd none) 0) 0 = some { op := tOp 0x12, desc := 0, go := false } ∧
      dmaFinished (getCore (tDmaEnd none) 0) 0 { op := tOp 0x12, desc := 0, go := false } = true ∧
      dmaFinished (getCore (tDmaEnd (some (9, 2, 0))) 0) 0 { op := tOp 0x12, desc := 0, go := false, fail := some (9, 2, 0) } = true) ∧
    (((getTag (getCore tLive 0) 0).bind (fun o => o.live.find? (fun y => y.n == 4))) = some tXf ∧ (getCore tLive 0).frozenAt = none ∧
      coreNow tLive (getCore tLive 0) ≥ tXf.sentAt + usCycles (16 * 2 ^ fld (getCore tLive 0).dmaCfg 3 0)) ∧
    ((getCore tRecOut 0).records.find? (fun r => r.tag == 0 && r.answer.isNone) = some { tag := 0, thread := 0, halts := false, sentAt := 0 } ∧
      coreNow tRecOut (getCore tRecOut 0) ≥ 0 + usCycles (16 * 2 ^ fld (getCore tRecOut 0).dmaCfg 3 0) ∧ (getCore tRecOut 0).frozenAt = none ∧
      (getCore tLive 0).records = []) ∧
    (tget none (getCore tHold 0).held 5 = some 100 ∧ tHold.fab ≥ 100) := by decide +kernel

theorem test_dma_credit_take : after (.dmaCreditTake 0 0) (tCredit 5) (fun u => (getCtr (getCore u 0) 1).value == 0 &&
    ((getTag (getCore u 0) 0).map (fun o => o.wait)) == some none) = true := by decide +kernel
theorem test_pattern_chunk : after (.patternChunk 0 0) (tTag (tPat 1 3) (tCount 3)) (fun u => (getCtr (getCore u 0) 1).value == 0 &&
    ((getTag (getCore u 0) 0).map (fun o => o.chunk)) == some 1) = true := by decide +kernel
theorem test_dma_op_complete : after (.dmaOpComplete 0 0) (tDmaEnd none) (fun u => getTag (getCore u 0) 0 == none && (thr u 0 0).opsOut == 0) = true := by
  decide +kernel
theorem test_dma_transfer_timeout : after (.dmaTransferTimeout 0 0 4) tLive (fun u =>
    ((getTag (getCore u 0) 0).map (fun o => (o.live, o.fail.map (·.1)))) == some ([], some 0x0E)) = true := by decide +kernel
theorem test_dma_record_timeout : after (.dmaTransferTimeout 0 0 0) tRecOut (fun u => (getCore u 0).records == [] && (thr u 0 0).cause == 0x11) = true := by
  decide +kernel
theorem test_dma_tag_hold : after (.dmaTagHoldExpiry 0 5) tHold (fun u => (getCore u 0).held == []) = true := by decide +kernel

/-! ### Cells and channels -/

/-- Partition 0 on cluster 0, with a cell at the head of endpoint `x`. -/
def tCell (x : Nat) (c : Cell) (s : State) : State := tPart {} (modEnd s x (fun e => { e with inbox := [c] }))
def tCore0 (f : Core → Core) : State := tState 0 f

/-- The bytes of a WRITE_INDEXED whole transfer of 8 bytes at `a` (R227). -/
def tWIdx (a flags : Nat) (data : List Byte) : List Byte :=
  leBytes 6 a ++ [1, 0] ++ leBytes 2 8 ++ leBytes 2 9 ++ leBytes 4 (crc32c (leBytes 6 a ++ data)).toNat ++ leBytes 2 0 ++
    [BitVec.ofNat 8 flags, 0] ++ zeros 4 ++ data
def tData : List Byte := [1, 2, 3, 4, 5, 6, 7, 8]
def tWI (flags : Nat) : Cell := mkCell 0x02 32 0 0 77 (tWIdx 4096 flags tData)
def tOpenX : OpenX := { src := 0, tag := 77, addr := 4096, bytes := 64, count := 2, xfer := 9, cv := 0, ackTo := 0, flags := 0, status := 0, reply := false }
def tWr : Cell := mkCell 0x01 32 0 0 77 (List.replicate 32 5)
def tWrS : State := tCell 0 tWr (modEnd (tCore0 id) 0 (fun e => { e with opens := [tOpenX] }))
def tRq : Cell := mkCell 0x03 32 0 0 77 (leBytes 6 4096 ++ leBytes 2 8 ++ leBytes 2 0 ++ leBytes 2 9)
def tWAck : Cell := mkCell 0x05 32 0 0 0 (leBytes 2 4)
def tLiveOp (write : Bool) (f : Core → Core) : State := tTag { op := tOp 0x12, desc := 0, go := false, live := [{ tXf with write := write }] } f

/-- A replay record that waits for its acknowledgement (R58). -/
def tRecAck : State := tCell 0 tWAck (modCore (tDrainAt 3 0x200000) 0 (fun c =>
  { c with records := [{ tag := 0, thread := 0, halts := false, sentAt := 0 }] }))

theorem witness_TransferCells : (Arrives (tCell 0 (tWI 4) (tCore0 id)) 0 0x02 (tWI 4) ∧ addrOk (channelData (tCell 0 (tWI 4) (tCore0 id))) 0 (numAt (tWI 4).bytes 0 6) (numAt (tWI 4).bytes 8 2) = true ∧
      poolRefuses (hear (popCell (tCell 0 (tWI 4) (tCore0 id)) 0) 0) 0 (tWI 4).src (numAt (tWI 4).bytes 0 6) (numAt (tWI 4).bytes 8 2) = none ∧
      numAt (tWI 4).bytes 18 1 / 4 % 2 = 1 ∧
      crc32c (leBytes 6 (numAt (tWI 4).bytes 0 6) ++ slice (tWI 4).bytes 24 8) = BitVec.ofNat 32 (numAt (tWI 4).bytes 12 4) ∧
      (applyBytes (closeOld (hear (popCell (tCell 0 (tWI 4) (tCore0 id)) 0) 0) 0 0 false) 0 0 77 4096 tData).2 = none ∧
      Arrives (tCell 0 (tWI 0) (tCore0 id)) 0 0x02 (tWI 0) ∧ numAt (tWI 0).bytes 18 1 / 4 % 2 ≠ 1) ∧
    (Arrives tWrS 0 0x01 tWr ∧ (getEnd (popCell tWrS 0) 0).opens.find? (fun o => o.src == tWr.src && o.tag == tWr.tag && decide (0 < o.count)) =
      some tOpenX ∧ tOpenX.poolBad = none ∧ 1 < tOpenX.count ∧ tOpenX.landed = tOpenX.got.length ∧ tWr.bytes.take (min tWr.len (64 - 0)) ≠ []) ∧
    (Arrives (tCell 0 tRq (tCore0 id)) 0 0x03 tRq ∧ addrOk (channelData (tCell 0 tRq (tCore0 id))) 0 (numAt tRq.bytes 0 6) (numAt tRq.bytes 6 2) = true ∧
      numAt tRq.bytes 12 1 = 0) ∧
    (Arrives (tCell 0 tWAck (tLiveOp true id)) 0 0x05 tWAck ∧ tWAck.src % 64 ≠ 51 ∧ numAt tWAck.bytes 2 1 = 0 ∧
      liveXfer (hear (popCell (tCell 0 tWAck (tLiveOp true id)) 0) 0) 0 tWAck.tag (numAt tWAck.bytes 0 2) true = some (0, { tXf with write := true }) ∧
      (getCore (hear (popCell (tCell 0 tWAck (tLiveOp true id)) 0) 0) 0).records.find? (fun r => r.tag == tWAck.tag && r.answer.isNone) = none ∧
      (getCore (hear (popCell tRecAck 0) 0) (servedBy (hear (popCell tRecAck 0) 0) 0)).records.find? (fun r => r.tag == 0 && r.answer.isNone) =
        some { tag := 0, thread := 0, halts := false, sentAt := 0 }) :=
  ⟨⟨arrives_of (by decide +kernel), by decide +kernel, by decide +kernel, by decide +kernel, by decide +kernel, by decide +kernel,
    arrives_of (by decide +kernel), by decide +kernel⟩, ⟨arrives_of (by decide +kernel), by decide +kernel⟩,
   ⟨arrives_of (by decide +kernel), by decide +kernel⟩, arrives_of (by decide +kernel), by decide +kernel⟩

theorem test_write_indexed_whole : after (.writeIndexed 0) (tCell 0 (tWI 4) (tCore0 id)) (fun u => readBytes (getCore u 0).mem 4096 8 == tData &&
    (getEnd u 0).outbox.map (fun c => (c.type, c.tag, numAt c.bytes 0 3)) == [(0x05, 77, 9)]) = true := by decide +kernel
theorem test_write_indexed_opens : after (.writeIndexed 0) (tCell 0 (tWI 0) (tCore0 id)) (fun u => (getEnd u 0).opens.map (fun o => (o.addr, o.bytes, o.count)) ==
    [(4096, 8, 1)] && (getEnd u 0).outbox == []) = true := by decide +kernel
theorem test_write : after (.write 0) tWrS (fun u => readBytes (getCore u 0).mem 4096 33 == List.replicate 32 5 ++ [0] &&
    (getEnd u 0).opens.map (fun o => o.count) == [1]) = true := by decide +kernel
theorem test_read_req : after (.readReq 0) (tCell 0 tRq (tCore0 (fun c => writeCore c 4096 tData))) (fun u =>
    (getEnd u 0).outbox.map (fun c => (c.type, c.tag)) == [(0x04, 77), (0x01, 77)] && (getEnd u 0).outbox.map (fun c => c.bytes.take 8) ==
      [[32, 1, 0, 0, 0, 0, 1, 0], tData]) = true := by decide +kernel
theorem test_write_ack : after (.writeAck 0) (tCell 0 tWAck (tLiveOp true id)) (fun u =>
    ((getTag (getCore u 0) 0).map (fun o => (o.live, o.fail))) == some ([], none)) = true := by decide +kernel
theorem test_write_ack_record : after (.writeAck 0) tRecAck (fun u => (getCore u 0).records == [] && (thr u 0 0).pc == 1) = true := by decide +kernel

/-- READ_REPLY with the bytes within the header cell. -/
def tRpB (flags : Nat) : List Byte :=
  leBytes 6 77 ++ [1, 0] ++ leBytes 2 8 ++ leBytes 2 4 ++ leBytes 4 (crc32c (leBytes 6 77 ++ tData)).toNat ++ leBytes 2 0 ++ [BitVec.ofNat 8 flags, 0] ++
    zeros 4 ++ tData
def tRp (flags : Nat) : Cell := mkCell 0x04 32 0 0 0 (tRpB flags)
def tOldX : State := { modEnd (tCore0 id) 0 (fun e => { e with opens := [tOpenX] }) with fab := 256 * 1800 }
def tRaiseC : Cell := mkCell 0x0A 8 0 1 5 (leBytes 1 1 ++ zeros 3 ++ leBytes 4 7)
def tRAck : Cell := mkCell 0x0B 2 0 0 5 [0, 0]
def tRAckS : State := tCell 0 tRAck (tCore0 (fun c => { c with raises := [{ tag := 5, src := .thread 0 5, target := 1, syncId := 1, sentAt := 0 }] }))

theorem witness_RepliesAndRaises : (Arrives (tCell 0 (tRp 4) (tLiveOp false id)) 0 0x04 (tRp 4) ∧ numAt (tRp 4).bytes 7 1 = 0 ∧
      liveXfer (closeOld (hear (popCell (tCell 0 (tRp 4) (tLiveOp false id)) 0) 0) 0 (tRp 4).src true) 0 (tRp 4).tag (numAt (tRp 4).bytes 10 2) false =
        some (0, tXf) ∧ numAt (tRp 4).bytes 18 1 / 4 % 2 = 1 ∧
      crc32c (slice (tRp 4).bytes 0 6 ++ slice (tRp 4).bytes 24 8) = BitVec.ofNat 32 (numAt (tRp 4).bytes 12 4) ∧
      Arrives (tCell 0 (tRp 0) (tLiveOp false id)) 0 0x04 (tRp 0) ∧ numAt (tRp 0).bytes 18 1 / 4 % 2 ≠ 1) ∧
    (posOk tOldX 0 = true ∧ (getEnd tOldX 0).opens.find? (fun o => o.src == 0 && o.reply == false && !o.red && !o.red) = some tOpenX ∧
      tOldX.fab ≥ tOpenX.last + 256 * 1800) ∧
    Arrives (tCell 0 tRaiseC (tCore0 id)) 0 0x0A tRaiseC ∧ Arrives tRAckS 0 0x0B tRAck ∧
      isFrozen (getCore (hear (popCell tRAckS 0) 0) 0) = false :=
  ⟨⟨arrives_of (by decide +kernel), by decide +kernel, by decide +kernel, by decide +kernel, by decide +kernel, arrives_of (by decide +kernel),
    by decide +kernel⟩, by decide +kernel, arrives_of (by decide +kernel), arrives_of (by decide +kernel), by decide +kernel⟩

theorem test_read_reply : after (.readReply 0) (tCell 0 (tRp 4) (tLiveOp false id)) (fun u =>
    ((getTag (getCore u 0) 0).map (fun o => (o.live, o.fail))) == some ([], none)) = true := by decide +kernel
theorem test_endpoint_timeout : after (.endpointTransferTimeout 0 0 false) tOldX (fun u => (getEnd u 0).opens == []) = true := by decide +kernel
theorem test_sync_raise : after (.syncRaise 0) (tCell 0 tRaiseC (tCore0 (tCount 3))) (fun u => (getCtr (getCore u 0) 1).value == 10 &&
    (getEnd u 0).outbox == [mkCell 0x0B 2 1 0 5 [0, 0]]) = true := by decide +kernel
theorem test_sync_ack : after (.syncAck 0) tRAckS (fun u => (getCore u 0).raises == [] && (getEnd u 0).inbox == []) = true := by decide +kernel

/-- A cell that core 0 sends to position 2, two columns east. -/
def tHopC (dst : Nat) : Cell := mkCell 0x0A 8 dst 0 5 (leBytes 1 1 ++ zeros 3 ++ leBytes 4 7)
def tHop (dst : Nat) : State := tPart {} (modEnd State.reset 0 (fun e => { e with outbox := [tHopC dst] }))
def tLoadC : Cell := mkCell 0x0E 32 0 50 0 (zeros 32)
def tBc : State := { tPart { loadNo := 0 } (modEnd State.reset 50 (fun e => { e with outbox := [tLoadC] })) with loadMode := false }

def tFull : State := modRouter tBc 18 (fun r => { r with buf := (List.range 52).map (fun k => (k, List.replicate 8 tLoadC)) })

def tFree (s : State) (out : Nat) : Bool :=
  let w := outVc s 17 7 0 out 0x0E
  let l := arrives s 17 out w tLoadC
  roomAt (getRouter s l.1) (4 * l.2.1 + l.2.2) &&
    choose s.fab (getRouter s 17) out ((7, 0, tLoadC) :: (channelHeads (getRouter s 17)).filter (maySend s 17 out)) == some (7, 0, tLoadC)

theorem witness_CellsHop : (coreOk (tHop 2) 0 = true ∧ routeOut (tHop 2) 0 2 < 4 ∧ bcastTakes (inject (tHop 2) 0) 0 (routeOut (tHop 2) 0 2) = false ∧
      choose 0 (getRouter (inject (tHop 2) 0) 0) (routeOut (tHop 2) 0 2)
        ((channelHeads (getRouter (inject (tHop 2) 0) 0)).filter (maySend (inject (tHop 2) 0) 0 (routeOut (tHop 2) 0 2))) = some (4, 2, tHopC 2) ∧
      (let s1 := takeHead (inject (tHop 2) 0) 0 4 2
       let w := outVc s1 0 4 2 (routeOut (tHop 2) 0 2) 0x0A
       let y := arrives s1 0 (routeOut (tHop 2) 0 2) w (tHopC 2)
       cellFault s1 (damaged (sealCell (setFld (tHopC 2).hdr 1 0 w) (tHopC 2).pay) 0) (linkPort (routeOut (tHop 2) 0 2) y.2.1) = 0 ∧
       cellFault s1 (damaged (sealCell (setFld (tHopC 2).hdr 1 0 w) (tHopC 2).pay) 1) (linkPort (routeOut (tHop 2) 0 2) y.2.1) = 1)) ∧
    (choose 0 (getRouter (inject (tHop 0) 0) 0) 4 ((channelHeads (getRouter (inject (tHop 0) 0) 0)).filter (maySend (inject (tHop 0) 0) 0 4)) =
      some (4, 2, tHopC 0) ∧ bcastTakes (inject (tHop 0) 0) 0 4 = false) ∧
    [(tBc, true), (tFull, false)].all (fun e => coreOk e.1 17 &&
      ((channelHeads (getRouter (inject e.1 17) 17)).find? (fun h => h.2.2.type == 0x0E)).map (fun h => (h.1, h.2.1, h.2.2)) == some (7, 0, tLoadC) &&
      (bcastOuts 17 7).all (fun out => tFree (inject e.1 17) out == (e.2 || out != 1))) = true ∧
    tLoadC.tag = loadTag tBc (tLoadC.dst % 64) ∧ tLoadC.tag ≠ loadTag { tBc with loadMode := true, flockNo := 1 } (tLoadC.dst % 64) := by decide +kernel

theorem test_hop_east : after (.pnCellHop 0 (routeOut (tHop 2) 0 2) 0) (tHop 2) (fun u => (getEnd u 0).outbox == [] &&
    ((getRouter u 1).buf.map (fun e => e.2.map (fun c => (c.dst, c.type)))) == [[(2, 0x0A)]]) = true := by decide +kernel
theorem test_hop_delivers : after (.pnCellHop 0 4 0) (tHop 0) (fun u => (getEnd u 0).outbox == [] && (getEnd u 0).inbox == [tHopC 0]) = true := by
  decide +kernel
/-- The copies go to the routers east and south (R211), or none of them does. -/
theorem test_bcast : after (.bcast ⟨17, 0, 0⟩) tBc (fun u => (getEnd u 50).outbox == [] && (getRouter u 17).buf.all (fun e => e.2 == []) &&
    [18, 17 + 64].all (fun y => (getRouter u y).buf.any (fun e => e.2.length == 1))) = true := by decide +kernel
theorem test_bcast_waits : after (.bcast ⟨17, 0, 0⟩) tFull (fun u => (getRouter u 17).buf.any (fun e => e.2.length == 1) &&
    (getRouter u (17 + 64)).buf.all (fun e => e.2 == [])) = true := by decide +kernel

/-- SEND of 32 bytes from address 4096 on channel 1, to receiver 0 (R212). -/
def tSendD (len : Nat) : W512 := tDesc [(0, 1), (8, 4096), (29, len)]
def tPort (op : Nat) (d : W512) (f : Core → Core) : State := tPart {} (tEng d (fun c => f { c with qPort := tOp op :: tRest }))
def tSendC (v : SendCh) (c : Core) : Core := setSend c 1 { v with cfg := BitVec.ofNat 64 (1 + 3 * 2 ^ 18 + 2 ^ 22) }
def tMsg : SendMsg := { op := tOp 0x13, src := 4096, len := 32, at_ := 0 }
def tSent (b : Bool) : State := { tPort 0x13 0 (tSendC { cur := some { tMsg with backoff := b } }) with fab := 1800 * 1024 * 1024 }
def tAns (ty : Nat) : Cell := mkCell ty 2 0 0 16 [1, 0]

theorem witness_ChannelSends : (Head (tPort 0x13 (tSendD 32) (tSendC {})) 0 (getCore (tPort 0x13 (tSendD 32) (tSendC {})) 0).qPort (tOp 0x13) tRest (tSendD 32) ∧
      fld (tOp 0x13).word 63 56 = 0x13 ∧ portReason (getCore (tPort 0x13 (tSendD 32) (tSendC {})) 0) true (tSendD 32) = 0 ∧ fld (tSendD 32) 48 29 ≠ 0 ∧
      Head (tPort 0x13 (tSendD 32) id) 0 (getCore (tPort 0x13 (tSendD 32) id) 0).qPort (tOp 0x13) tRest (tSendD 32) ∧
      portReason (getCore (tPort 0x13 (tSendD 32) id) 0) true (tSendD 32) = 2 ∧
      Head (tPort 0x13 (tSendD 0) id) 0 (getCore (tPort 0x13 (tSendD 0) id) 0).qPort (tOp 0x13) tRest (tSendD 0) ∧
      portReason (getCore (tPort 0x13 (tSendD 0) id) 0) true (tSendD 0) = 0 ∧ fld (tSendD 0) 48 29 = 0) ∧
    (Arrives (tCell 0 (tAns 8) (tSent false)) 0 8 (tAns 8) ∧ answered (popCell (tCell 0 (tAns 8) (tSent false)) 0) 0 (tAns 8) = some (0, 1) ∧
      isFrozen (getCore (hear (popCell (tCell 0 (tAns 8) (tSent false)) 0) 0) 0) = false ∧
      (getCore (hear (popCell (tCell 0 (tAns 8) (tSent false)) 0) 0) 0).stopped = false ∧
      isFrozen (getCore (hear (popCell (tCell 0 (tAns 9) (tSent false)) 0) 0) 0) = false ∧
      (getCore (hear (popCell (tCell 0 (tAns 9) (tSent false)) 0) 0) 0).stopped = false ∧
      Arrives (tCell 0 (tAns 9) (tSent false)) 0 9 (tAns 9) ∧ answered (popCell (tCell 0 (tAns 9) (tSent false)) 0) 0 (tAns 9) = some (0, 1)) ∧
    (coreOk (tSent false) 0 = true ∧ runs (tSent false) 0 = true ∧ (getSend (getCore (tSent false) 0) 1).cur = some tMsg ∧
      coreNow (tSent false) (getCore (tSent false) 0) ≥ tMsg.at_ + usCycles (4 * 2 ^ fld (getSend (getCore (tSent false) 0) 1).cfg 29 26) ∧
      (getSend (getCore (tSent true) 0) 1).cur = some { tMsg with backoff := true }) :=
  ⟨⟨head_of (by decide +kernel), by decide +kernel, by decide +kernel, by decide +kernel, head_of (by decide +kernel), by decide +kernel,
    head_of (by decide +kernel), by decide +kernel⟩,
   ⟨arrives_of (by decide +kernel), by decide +kernel, by decide +kernel, by decide +kernel, by decide +kernel, by decide +kernel,
    arrives_of (by decide +kernel), by decide +kernel⟩, by decide +kernel⟩

theorem test_send : after (.sendOperation 0) (tPort 0x13 (tSendD 32) (tSendC {})) (fun u => (getCore u 0).qPort == tRest &&
    ((getSend (getCore u 0) 1).cur.map (fun m => (m.src, m.len))) == some (4096, 32) &&
    (getEnd u 0).outbox.map (fun c => c.type) == [0x06, 0x07]) = true := by decide +kernel
theorem test_send_channel_off : after (.sendOperation 0) (tPort 0x13 (tSendD 32) id) (fun u => (thr u 0 0).cause == 9 && (getCore u 0).qPort == tRest) = true := by
  decide +kernel
theorem test_msg_ack : after (.msgAck 0) (tCell 0 (tAns 8) (tSent false)) (fun u => (getSend (getCore u 0) 1).cur.isNone &&
    (getSend (getCore u 0) 1).parity && (thr u 0 0).opsOut == 0) = true := by decide +kernel
theorem test_msg_nack : after (.msgNack 0) (tCell 0 (tAns 9) (tSent false)) (fun u => ((getSend (getCore u 0) 1).cur.map (fun m => m.backoff)) == some true) = true := by
  decide +kernel
theorem test_msg_ack_timeout : after (.msgAckTimeout 0 1) (tSent false) (fun u => ((getSend (getCore u 0) 1).cur.map (fun m => m.backoff)) == some true) = true := by
  decide +kernel
theorem test_msg_retry : after (.msgRetryBackoff 0 1) (tSent true) (fun u => ((getSend (getCore u 0) 1).cur.map (fun m => m.backoff)) == some false &&
    (getEnd u 0).outbox.map (fun c => c.type) == [0x06, 0x07]) = true := by decide +kernel

/-- RECEIVE on channel 1 of up to 16 bytes at 8192, receipt at 12288 (R217); the ring is the 4,096 bytes from row 256. -/
def tRecvD : W512 := tDesc [(0, 1), (8, 8192), (29, 16), (49, 12288)]
def tRecvC (v : RecvCh) (c : Core) : Core := setRecv c 1 { v with cfg := 1, ring := BitVec.ofNat 64 (256 + 12 * 2 ^ 15 + 2 ^ 20) }
def tFirst : Cell := mkCell 0x06 32 0 0 16 (leBytes 4 24 ++ [1, 0, 0, 0] ++ List.replicate 24 9)
def tRec (got : Nat) (done : Bool) : RingRec :=
  { off := 0, need := 64, len := 40, kind := 0, seq := 0, sender := 0, chan := 1, attempt := 0, parity := false, got := got, done := done, since := 0 }
def tNext : Cell := mkCell 0x07 16 0 0 16 (List.replicate 16 8)
def tRecvS (recs : List RingRec) (ops : List (IssueOp × W512 × Nat)) : State :=
  { tPort 0x14 tRecvD (tRecvC { recs := recs, ops := ops, wp := 64 }) with fab := 1800 * 1024 * 1024 }

/-- Core 0 as the receiver of the first cell of a message, with its channel 1 as given. -/
def tFirstS (f : Core → Core) : State := tCell 0 tFirst (tPort 0x14 0 f)

theorem witness_ChannelReceives : (Head (tPort 0x14 tRecvD (tRecvC {})) 0 (getCore (tPort 0x14 tRecvD (tRecvC {})) 0).qPort (tOp 0x14) tRest tRecvD ∧
      fld (tOp 0x14).word 63 56 = 0x14 ∧ portReason (getCore (tPort 0x14 tRecvD (tRecvC {})) 0) false tRecvD = 0 ∧ fld tRecvD 48 29 ≠ 0 ∧
      Head (tPort 0x14 tRecvD id) 0 (getCore (tPort 0x14 tRecvD id) 0).qPort (tOp 0x14) tRest tRecvD ∧
      portReason (getCore (tPort 0x14 tRecvD id) 0) false tRecvD = 2 ∧
      Head (tPort 0x14 0 id) 0 (getCore (tPort 0x14 0 id) 0).qPort (tOp 0x14) tRest 0 ∧
      portReason (getCore (tPort 0x14 0 id) 0) false 0 = 0 ∧ fld (0 : W512) 48 29 = 0) ∧
    ([tRecvC {}, tRecvC { state := 2 }, tRecvC { state := 1 }, id, tRecvC { table := [(0, 1, false)] }, tRecvC { wp := 4096 }].all (fun f =>
        posOk (tFirstS f) 0 && headCell (tFirstS f) 0 0x06 == some tFirst && !deaf (tFirstS f) 0 && servedBy (tFirstS f) 0 == 0) = true ∧
      numAt tFirst.bytes 4 1 % 64 = 1 ∧ tFirst.tag / 16 = 1 ∧ tFirst.tag / 8 % 2 = 0 ∧
      (indexOfLog (tFirstS id) 0).isSome = true ∧ (indexOfLog (tFirstS id) tFirst.src).map (·.2) = some 0 ∧
      deaf (modDie (tFirstS (tRecvC {})) 0 (fun d => { d with resetting := true })) 0 = true ∧
      (reserve (getCore (tFirstS (tRecvC {})) 0) 1 24 0 1 0 false 0).isSome = true ∧
      (reserve (getCore (tFirstS (tRecvC { wp := 4096 })) 0) 1 24 0 1 0 false 0).isNone = true) ∧
    (Arrives (tCell 0 tNext (tRecvS [tRec 24 false] [])) 0 0x07 tNext ∧
      (getRecv (getCore (popCell (tCell 0 tNext (tRecvS [tRec 24 false] [])) 0) 0) 1).recs = [tRec 24 false] ∧ tNext.tag = 16 ∧
      Arrives (tCell 0 tNext (tRecvS [] [])) 0 0x07 tNext ∧
      (getCore (popCell (tCell 0 tNext (tRecvS [] [])) 0) 0).recv.all (fun e => e.2.recs.isEmpty) = true) ∧
    (coreOk (tRecvS [tRec 40 true] [(tOp 0x14, tRecvD, 0)]) 0 = true ∧ runs (tRecvS [tRec 40 true] [(tOp 0x14, tRecvD, 0)]) 0 = true ∧
      (getRecv (getCore (tRecvS [tRec 40 true] [(tOp 0x14, tRecvD, 0)]) 0) 1).ops = [(tOp 0x14, tRecvD, 0)] ∧
      nextMessage (getRecv (getCore (tRecvS [tRec 40 true] [(tOp 0x14, tRecvD, 0)]) 0) 1).recs = some ([], tRec 40 true, []) ∧
      badWord (getCore (tRecvS [tRec 40 true] []) 0).bad (ringBase (getRecv (getCore (tRecvS [tRec 40 true] []) 0) 1) + 16) (min 40 16) = none) ∧
    ((getRecv (getCore (tRecvS [tRec 24 false] []) 0) 1).recs.find? (fun q => q.seq == 0 && q.kind == 0 && !q.done) = some (tRec 24 false) ∧
      (tRecvS [tRec 24 false] []).fab ≥ 0 + usCycles (4 * 2 ^ fld (getRecv (getCore (tRecvS [tRec 24 false] []) 0) 1).cfg 8 5)) :=
  ⟨⟨head_of (by decide +kernel), by decide +kernel, by decide +kernel, by decide +kernel, head_of (by decide +kernel), by decide +kernel,
    head_of (by decide +kernel), by decide +kernel⟩, by decide +kernel,
   ⟨arrives_of (by decide +kernel), by decide +kernel, by decide +kernel, arrives_of (by decide +kernel), by decide +kernel⟩,
   by decide +kernel⟩

theorem test_receive : after (.receiveOperation 0) (tPort 0x14 tRecvD (tRecvC {})) (fun u => (getRecv (getCore u 0) 1).ops == [(tOp 0x14, tRecvD, 0)]) = true := by
  decide +kernel
/-- The whole message of 24 bytes: the record is done and acknowledged. -/
theorem test_msg_first : after (.msgFirst 0) (tCell 0 tFirst (tPort 0x14 0 (tRecvC {}))) (fun u =>
    (getRecv (getCore u 0) 1).recs.map (fun q => (q.off, q.need, q.len, q.done)) == [(0, 48, 24, true)] &&
    (getEnd u 0).outbox.map (fun c => c.type) == [0x08] && readBytes (getCore u 0).mem (64 * 256 + 16) 24 == List.replicate 24 9) = true := by decide +kernel
theorem test_msg_first_ring_full : after (.msgFirst 0) (tCell 0 tFirst (tPort 0x14 0 (tRecvC { wp := 4096 }))) (fun u =>
    (getEnd u 0).outbox.map (fun c => (c.type, numAt c.bytes 0 1)) == [(0x09, 1)]) = true := by decide +kernel
theorem test_msg_next : after (.msgNext 0) (tCell 0 tNext (tRecvS [tRec 24 false] [])) (fun u =>
    (getRecv (getCore u 0) 1).recs == [{ tRec 40 true with since := u.fab }] && (getEnd u 0).outbox.map (fun c => c.type) == [0x08]) = true := by decide +kernel
theorem test_receive_takes : after (.receiveTakesRecord 0 1) (tRecvS [tRec 40 true] [(tOp 0x14, tRecvD, 0)]) (fun u =>
    (getRecv (getCore u 0) 1).recs == [] && (getRecv (getCore u 0) 1).rp == 64 && (thr u 0 0).opsOut == 0) = true := by decide +kernel
theorem test_reservation_timeout : after (.reservationTimeout 0 1 0) (tRecvS [tRec 24 false] []) (fun u =>
    (getRecv (getCore u 0) 1).recs.map (fun q => (q.kind, q.done)) == [(2, true)]) = true := by decide +kernel

/-! ### The scheduled networks, buckets and updates -/

def tW (n : Nat) : VnWord := { data := BitVec.ofNat 512 n }
def tSw (x : Nat) (w : Switch) : State := tPart {} (setSwitch State.reset x w)
def tAdd (mode : Nat) : State := tSw 0 { cfg := BitVec.ofNat 64 (mode * 2 ^ 13), aa := [tW (2 ^ 32 + 3), tW 1], ab := [tW (2 ^ 32 * 5 + 0xFFFFFFFF), tW 2] }
def tStU (toks : List Nat) : Steer := { cfg := BitVec.ofNat 64 (1 + 2 * 2), d0 := [tW 7, tW 8], d1 := [tW 9], ctl := toks }
def tSteer (toks : List Nat) : State := tPart {} (tState 0 (fun c => { c with steer := [(1, tStU toks)] }))
def tRet (k : Nat) : State := tSw 0 { ret := [(k, 2, BitVec.ofNat 32 (5 + 2 ^ 16)), (k, 2, 6)] }
def tCtx (hdr : Nat) : State :=
  tPart {} (modSlice State.reset (sliceAt 8) (fun z => { z with ctx := [(3, { inW := [tW hdr, tW 1] })] }))

theorem witness_ScheduledNetworks : (getPart (tSw 0 {}) 0 = some { clusters := [0] }) ∧
    (coreOk (tAdd 1) 0 = true ∧ (getSwitch (tAdd 1) 0).aa = [tW (2 ^ 32 + 3), tW 1] ∧ (getSwitch (tAdd 1) 0).ab = [tW (2 ^ 32 * 5 + 0xFFFFFFFF), tW 2] ∧
      (getSwitch (tAdd 1) 0).arNew = 0 ∧ (getSwitch (tAdd 1) 0).ar.length < 8 ∧ addMode (getSwitch (tAdd 1) 0) = 1 ∧ addMode (getSwitch (tAdd 2) 0) = 2) ∧
    ((tget ({} : Steer) (getCore (tSteer [2, 128]) 0).steer 1) = tStU [2, 128] ∧ bit (tStU [2]).cfg 0 = true ∧
      (tStU [128]).ctl = [128] ∧ (128 : Nat) / 64 ≥ 2 ∧ (34 : Nat) % 32 ≠ 0 ∧ (34 : Nat) / 32 % 2 = 1 ∧ (34 : Nat) / 64 = 0 ∧ (66 : Nat) / 64 = 1 ∧
      logOf (modIn (tSteer [2]) 0 2 (fun x => { x with origin := x.origin ++ [0] })) 0 = some 0) ∧
    (coreOk (tRet 0) 0 && (List.range 4).all (fun k =>
      firstRet k 2 (getSwitch (tRet k) 0).ret == some (BitVec.ofNat 32 (5 + 2 ^ 16), [(k, 2, 6)]))) = true ∧
    (coreOk (tCtx (1 + 2 ^ 18 * 65536)) 8 = true ∧ isSpare 8 = true ∧ tget ({} : Ctx) (getSlice (tCtx 5) (sliceAt 8)).ctx 3 = { inW := [tW 5, tW 1] } ∧
      (tW (1 + 2 ^ 18 * 65535)).data.toNat < 2 ^ 34 ∧ fld (tW (1 + 4 + 2 ^ 18 * 65535)).data 17 2 + fld (tW (1 + 4 + 2 ^ 18 * 65535)).data 33 18 ≤ 65536 ∧
      ¬ (tW (1 + 8 + 2 ^ 18 * 65535)).data.toNat ≥ 2 ^ 34 ∧
      ¬ (fld (tW (1 + 8 + 2 ^ 18 * 65535)).data 17 2 + fld (tW (1 + 8 + 2 ^ 18 * 65535)).data 33 18 ≤ 65536)) := by
  refine ⟨?_, ?_, ?_, ?_, ?_⟩ <;> decide +kernel

theorem test_vn_slot_quiet : after (.vnSwitchSlot 0 []) (tSw 0 {}) (fun u => ((getPart u 0).map (fun q => q.quiet)) == some 1) = true := by decide +kernel
theorem test_adder_fire : after (.adderFire 0) (tAdd 1) (fun u => (getSwitch u 0).ar == [tW (2 ^ 32 * 6 + 2)] && (getSwitch u 0).aa == [tW 1] &&
    (getSwitch u 0).arNew == 1) = true := by decide +kernel
theorem test_steering_discard : after (.steeringMove 0 1) (tSteer [66]) (fun u => ((tget ({} : Steer) (getCore u 0).steer 1).d0,
    (tget ({} : Steer) (getCore u 0).steer 1).moved) == ([tW 8], 1)) = true := by decide +kernel
theorem test_steering_move : after (.steeringMove 0 1) (tSteer [33]) (fun u => (tget ({} : Steer) (getCore u 0).steer 1).d1 == [] &&
    (getSwitch u 0).inbound == [(2, tW 9, 2, false)] && (tget ({} : Steer) (getCore u 0).steer 1).ctl == []) = true := by decide +kernel
theorem test_sn_return : after (.snReturnWord 0 0 2) (tRet 0) (fun u => ((tget {} (getCore u 0).outQ 2).tokens, (tget {} (getCore u 0).outQ 2).hold) ==
    (5, true)) = true := by decide +kernel
theorem test_sn_return_east : after (.snReturnWord 0 3 2) (tRet 3) (fun u => (tget {} (getCore u 1).outQ 2).tokens == 5) = true := by decide +kernel
theorem test_slice_context : after (.sliceContextHeader 8 3) (tCtx (1 + 4 + 2 ^ 18 * 65535)) (fun u =>
    ((tget ({} : Ctx) (getSlice u (sliceAt 8)).ctx 3).op, (tget ({} : Ctx) (getSlice u (sliceAt 8)).ctx 3).row,
      (tget ({} : Ctx) (getSlice u (sliceAt 8)).ctx 3).left) == (1, 1, 65535)) = true := by decide +kernel
theorem test_slice_context_bad : after (.sliceContextHeader 8 3) (tCtx (1 + 8 + 2 ^ 18 * 65535)) (fun u =>
    (tget ({} : Ctx) (getSlice u (sliceAt 8)).ctx 3).stopped) = true := by decide +kernel

theorem witness_AdderLanes : (15 : Nat) < 16 := by decide

/-- A bucket of partition 0 with one peer (R262): die 0 alone. -/
def tBuck (b : Bucket) (s : State) : State := setBucket (setPart s 0 (some { clusters := [0], bucketAt := 5, buckets := 2, touched := [(0, 0)] })) 5 b
def tBS (b : Bucket) : State := { tBuck b (setClu State.reset 0 1 0) with fab := 1000 * 1800 }
/-- R262: flags at byte 2, peers less one at 3, tiles at 6. -/
def tBD (flags peers tiles : Nat) : List Byte :=
  [0, 0] ++ leBytes 1 flags ++ leBytes 1 peers ++ [0, 0] ++ leBytes 2 tiles ++ zeros 8 ++ leBytes 2 2 ++ zeros 110
def tRed : Cell := mkCell 0x0C 32 51 0 5 (leBytes 2 3 ++ zeros 2 ++ leBytes 4 77)
def tRedS : State := tPart {} (modEnd State.reset 51 (fun e => { e with inbox := [tRed] }))

/-- A total of tile 3 that the hub has taken, its check value good or not. -/
def tTotX (cv : W32) : OpenX :=
  { src := 51, tag := 5, addr := 0, bytes := 4096, count := 0, xfer := 0, cv := cv, ackTo := 0, flags := 0, status := 0, reply := false, got := [1],
    red := true, tile := 3, kind := 3 }
def tTot (cv : W32) (flags : Nat) : State := modEnd (tBS { desc := tBD 0 flags 4, state := 1 }) 50 (fun e => { e with opens := [tTotX cv] })

theorem witness_BucketCommands : (dieOk tRedS 0 = true ∧ (getEnd tRedS 51).opens.reverse.find? (transferEnded tRedS 0) = none ∧
      headCell tRedS 51 0x0C = some tRed) ∧
    ([0, 1].all (fun peers => [crc32c [1], 0].all (fun cv => hubTotal ((List.range 4).foldl hubOpen (tTot cv peers)) 5 3 == some (50, tTotX cv) &&
      (getBucket (tTot cv peers) 5).state == 1 && decide (3 < bTiles (getBucket (tTot cv peers) 5)) && !(getBucket (tTot cv peers) 5).parity && (tTotX cv).closes == (getBucket (tTot cv peers) 5).closes)) &&
      dieCount State.reset.product == 4 && crc32c [1] != 0) = true ∧
    (ownerRank { desc := tBD 0 0 4 } 3 = bRank { desc := tBD 0 0 4 } ∧ bShadow { desc := tBD 0 0 4 } = false ∧
      ownerRank { desc := tBD 0 1 4 } 3 ≠ bRank { desc := tBD 0 1 4 }) ∧
    ((takeTouch (tBS { desc := tBD 2 0 4, state := 1 }) 0 0).isSome = true ∧ indexIn (dieSlots { clusters := [0] }) 0 = some 0 ∧
      bFallback { desc := tBD 2 0 4 } = true ∧ 0 + 1 ≠ bLocal { desc := tBD 2 0 4 } 0) ∧
    ((getBucket (tBS { desc := tBD 1 0 4, state := 2 }) 5).state = 2 ∧ bRearm { desc := tBD 1 0 4 } = true ∧
      (tBS { desc := tBD 1 0 4, state := 1 }).fab ≥ 0 + usCycles (1000 * 2 ^ numAt (tBD 1 0 4) 9 1)) := by decide +kernel

theorem test_reduce : after (.reduce 0) tRedS (fun u => (getEnd u 51).inbox == [] &&
    (getEnd u 51).opens.map (fun o => (o.tag, o.tile, o.count, o.red)) == [(5, 3, 128, true)]) = true := by decide +kernel
theorem test_bucket_start : after (.bucketStartWord 0 5) (tBS { desc := tBD 2 0 4, state := 1 }) (fun u => (getBucket u 5).starts == [(0, 1)] &&
    ((getPart u 0).map (fun pt => pt.touched)) == some []) = true := by decide +kernel
theorem test_bucket_rearm : after (.bucketRearm 5) (tBS { desc := tBD 1 0 4, state := 2, round := 6 }) (fun u =>
    ((getBucket u 5).state, (getBucket u 5).round, (getBucket u 5).parity) == (1, 7, true)) = true := by decide +kernel
theorem test_bucket_timeout : after (.bucketRoundTimeout 5) (tBS { desc := tBD 0 0 4, state := 1 }) (fun u =>
    ((getBucket u 5).state, (getBucket u 5).reason) == (3, 4)) = true := by decide +kernel
theorem test_device_total : after (.deviceTotal 5 3) (tTot (crc32c [1]) 0) (fun u => (getEnd u 50).opens == [] && (getBucket u 5).taken == 1 &&
    (getBucket u 5).state == 1) = true := by decide +kernel
theorem test_device_total_damaged : after (.deviceTotal 5 3) (tTot 0 0) (fun u => (getBucket u 5).taken == 0 &&
    ((getBucket u 5).state, (getBucket u 5).reason) == (3, 2)) = true := by decide +kernel

/-- Group 0 of partition 0 (R286): rule `rule`, one tile, gradients, weights and momenta at 0x10000, 0x20000 and 0x30000 of
the window at 2^40, the schedule at 0x1000 of the window at 2^36, the status record at 0x2000 of core 0. -/
def tGroup (rule bad : Nat) : List Byte :=
  [BitVec.ofNat 8 rule, 0] ++ leBytes 2 1 ++ leBytes 2 1 ++ [0, BitVec.ofNat 8 bad] ++ leBytes 6 0x10000010000 ++ leBytes 6 0x10000020000 ++
    leBytes 6 0x10000030000 ++
    leBytes 6 0 ++ zeros 16 ++ leBytes 6 0x1000001000 ++ zeros 6 ++ leBytes 4 0x3F800000 ++ zeros 28 ++ leBytes 6 0x2000
def tArea (rule bad : Nat) : Tbl Byte := writeBytes [] (groupBase 0) (tGroup rule bad)
def tGp (rule bad : Nat) : Part :=
  { clusters := [0], hbm := [(0, 64)], ddr := [(0, 64)], area := tArea rule bad,
    windows := [(0, BitVec.ofNat 128 (2 ^ 20 + (2 ^ 20 + 63) * 2 ^ 32 + 7 * 2 ^ 96)), (1, BitVec.ofNat 128 (2 ^ 24 + (2 ^ 24 + 63) * 2 ^ 32 + 7 * 2 ^ 96))],
    touched := [(groupBase 0 + 128, 0), (groupBase 0 + 136, 0)] }
/-- The schedule: one point at step 0 with a learning rate of 1.0. -/
def tSched : Tier := { mem := writeBytes (writeBytes [] 0x1000 [1]) 0x1020 (leBytes 4 0 ++ leBytes 4 0x3F800000), present := true }
def tUp (rule bad : Nat) (d : Die) : State :=
  setDie (setPart (setClu (setTier (setCore State.reset 0 {}) 0 tSched) 0 1 0) 0 (some (tGp rule bad))) 0 d
def tUpd (pass : Nat) : Updating := { part := 0, group := 0, t := 1, pass := pass }
def tUpS (bad : Nat) : State := setGf (setDie (tUp 0 bad {}) 0 { queue := [(0, 1)] }) 0 0 148 1 2

theorem witness_UpdateCommands : ((takeTouch (tUp 0 0 {}) 0 (groupBase 0 + 128)).isSome = true ∧ gFlag (tGp 0 0) 0 3 = false) ∧
    ((getDie (tUp 0 0 { queue := [(0, 0), (0, 1)] }) 0).queue = [(0, 0), (0, 1)] ∧ groupReserved (tGp 0 1) 0 = true ∧
      groupReserved (tGp 0 0) 0 = false ∧ zeroStep (tGp 0 0) 0 = false ∧ gRows (tGp 0 0) 0 = 32 ∧ gCols (tGp 0 0) 0 = 32 ∧
      (match (readSchedule (tUpS 0) 0 0).2 with | .ok l => l.map (fun q => (q.step, q.vals)) == [(0, [0x3F800000, 0, 0, 0])] | _ => false) = true ∧
      groupInvalid (tGp 0 0) 0 = false ∧ gFlag (tGp 0 0) 0 0 = false) ∧
    ((takeTouch (tUp 3 0 { cur := some (tUpd 3) }) 0 (groupBase 0 + 136)).isSome = true ∧
      (getDie (tUp 3 0 { cur := some (tUpd 3) }) (gDie (tGp 3 0) 0)).cur = some (tUpd 3)) ∧
    ((getDie (tUp 0 0 { cur := some (tUpd 2) }) 0).cur = some (tUpd 2) ∧
      (getDie (tUp 0 0 { cur := some { tUpd 2 with outcome := some 0 } }) 0).cur = some { tUpd 2 with outcome := some 0 }) := by decide +kernel

theorem test_update_start : after (.updateStartWord 0 0) (tUp 0 0 {}) (fun u => (getDie u 0).queue == [(0, 0)] &&
    ((getPart u 0).map (fun pt => gf pt 0 148 1)) == some 1) = true := by decide +kernel
theorem test_update_group_start : after (.updateGroupStart 0) (tUp 0 0 { queue := [(0, 0), (0, 1)] }) (fun u => (getDie u 0).queue == [(0, 1)] &&
    ((getDie u 0).cur.map (fun v => (v.t, v.pass, v.lr, v.outcome))) == some (1, 1, 0x3F800000, none)) = true := by decide +kernel
theorem test_update_group_reserved : after (.updateGroupStart 0) (tUp 0 1 { queue := [(0, 0)] }) (fun u =>
    ((getDie u 0).cur.map (fun v => v.outcome)) == some (some 4)) = true := by decide +kernel
theorem test_update_resume : after (.updateResumeWord 0 0) (tUp 3 0 { cur := some (tUpd 3) }) (fun u =>
    ((getDie u 0).cur.map (fun v => (v.pass, v.resumes))) == some (2, 1)) = true := by decide +kernel
theorem test_update_group_end : after (.updateGroupEnd 0) (tUp 0 0 { cur := some { tUpd 2 with outcome := some 0 } }) (fun u => (getDie u 0).cur == none &&
    ((getPart u 0).map (fun pt => gf pt 0 144 4)) == some 1) = true := by decide +kernel

theorem words_of_zeros (n : Nat) : (List.range n).map (fun i => BitVec.ofNat 32 (numAt (zeros (4 * n)) (4 * i) 4)) = List.replicate n 0 := by
  have z : ∀ i, BitVec.ofNat 32 (numAt (zeros (4 * n)) (4 * i) 4) = 0 := by
    intro i
    have e : slice (zeros (4 * n)) (4 * i) 4 = [0, 0, 0, 0] := by
      have g : ∀ j, (zeros (4 * n)).getD j 0 = 0 := by intro j; simp [zeros, List.getD_eq_getElem?_getD, List.getElem?_replicate]; split <;> rfl
      simp only [slice, g]; rfl
    unfold numAt; rw [e]; decide
  simp only [z]
  rw [List.map_const', List.length_range]

/-- Memory that reads as zero gives an array of zeros. -/
theorem readF_of_zeros {s : State} {part die a n : Nat} (h : getMem s part die a (4 * n) = (s, zeros (4 * n), none)) :
    readF s part die a n = (s, some (List.replicate n 0)) := by
  unfold readF
  rw [h]
  simp only [words_of_zeros]

def tPass1 (g : W32) : State := setTier (tUp 0 0 { cur := some (tUpd 1) }) 1 { mem := writeBytes [] 0x10000 (leBytes 4 g.toNat), present := true }

theorem tPass1_arrays (e : W32) (l : List Byte) (p : getPart (tPass1 e) 0 = some (tGp 0 0))
    (ga : getMem (tPass1 e) 0 0 0x10000010000 (4 * 1024) = (tPass1 e, l, none))
    (gb : getMem (tPass1 e) 0 0 0x10000020000 (4 * 1024) = (tPass1 e, zeros (4 * 1024), none))
    (gc : getMem (tPass1 e) 0 0 0x10000030000 (4 * 1024) = (tPass1 e, zeros (4 * 1024), none)) :
    ∃ x, readArrays (tPass1 e) 0 0 (gSize (tGp 0 0) 0) = (tPass1 e, some x) ∧
      x.g = (List.range 1024).map (fun i => BitVec.ofNat 32 (numAt l (4 * i) 4)) := by
  have n : gSize (tGp 0 0) 0 = 1024 := by decide +kernel
  have d : gDie (tGp 0 0) 0 = 0 := by decide +kernel
  have g8 : gf (tGp 0 0) 0 8 6 = 0x10000010000 := by decide +kernel
  have g14 : gf (tGp 0 0) 0 14 6 = 0x10000020000 := by decide +kernel
  have g20 : gf (tGp 0 0) 0 20 6 = 0x10000030000 := by decide +kernel
  have r : ¬ (gRule (tGp 0 0) 0 = 1 ∨ gRule (tGp 0 0) 0 = 2) := by decide +kernel
  have a : readF (tPass1 e) 0 0 0x10000010000 1024 = (tPass1 e, some ((List.range 1024).map (fun i => BitVec.ofNat 32 (numAt l (4 * i) 4)))) := by
    unfold readF; rw [ga]
  have b : readF (tPass1 e) 0 0 0x10000020000 1024 = (tPass1 e, some (List.replicate 1024 0)) := readF_of_zeros gb
  have c : readF (tPass1 e) 0 0 0x10000030000 1024 = (tPass1 e, some (List.replicate 1024 0)) := readF_of_zeros gc
  unfold readArrays
  simp only [p, n, d, g8, g14, g20, a, b, c, if_neg r]
  exact ⟨_, rfl, rfl⟩

theorem tPass1_ready (e : W32) : getPart (tPass1 e) 0 = some (tGp 0 0) ∧ dieOk (tPass1 e) 0 = true ∧ (getDie (tPass1 e) 0).cur = some (tUpd 1) :=
  ⟨rfl, rfl, rfl⟩

theorem witness_UpdateCommands_pass1 : (dieOk (tPass1 0) 0 = true ∧ (getDie (tPass1 0) 0).cur = some (tUpd 1) ∧ getPart (tPass1 0) 0 = some (tGp 0 0)) ∧
    (tUpd 1).pass = 1 ∧ (tUpd 1).outcome = none ∧ gRule (tGp 0 0) 0 ≠ 3 :=
  ⟨⟨(tPass1_ready 0).2.1, (tPass1_ready 0).2.2, (tPass1_ready 0).1⟩, rfl, rfl, by decide +kernel⟩

theorem witness_UpdateCommands_finite : ∃ a, readArrays (tPass1 0) 0 0 (gSize (tGp 0 0) 0) = (tPass1 0, some a) ∧
    a.g.any (fun x => !isFinite (gradOf (tGp 0 0) 0 0 false x)) = false := by
  obtain ⟨a, h, e⟩ := tPass1_arrays 0 (zeros (4 * 1024)) (tPass1_ready 0).1 (by decide +kernel) (by decide +kernel) (by decide +kernel)
  refine ⟨a, h, ?_⟩
  have f : isFinite (gradOf (tGp 0 0) 0 0 false 0) = true := by decide +kernel
  have z := words_of_zeros 1024
  rw [e, z, List.any_eq_false]
  intro x hx
  rw [List.eq_of_mem_replicate hx, f]
  decide

theorem witness_UpdateCommands_infinite : ∃ a, readArrays (tPass1 0x7F800000) 0 0 (gSize (tGp 0 0) 0) = (tPass1 0x7F800000, some a) ∧
    a.g.any (fun x => !isFinite (gradOf (tGp 0 0) 0 0 false x)) = true := by
  obtain ⟨a, h, e⟩ := tPass1_arrays 0x7F800000 (leBytes 4 0x7F800000 ++ zeros 4092) (tPass1_ready _).1 (by decide +kernel) (by decide +kernel)
    (by decide +kernel)
  refine ⟨a, h, ?_⟩
  have f : isFinite (gradOf (tGp 0 0) 0 0 false 0x7F800000) = false := by decide +kernel
  have m : (0 : Nat) ∈ List.range 1024 := List.mem_range.2 (by decide)
  have n : BitVec.ofNat 32 (numAt (leBytes 4 0x7F800000 ++ zeros 4092) (4 * 0) 4) = 0x7F800000 := by decide +kernel
  rw [e, List.any_eq_true]
  exact ⟨0x7F800000, List.mem_map.2 ⟨0, m, n⟩, by rw [f]; exact rfl⟩

/-! ### Fencing, records, power, boot -/

def tRing (e : RingEntry) : State := { tPart {} (setDie State.reset 0 { ring := [e, .trap {}] }) with ouvosUp := true }
def tTrapE : RingEntry := .trap { cause := 1, part := 5 }
def tFrozen (f : Option Nat) : State := { tState 0 (fun c => { c with frozenAt := f, frozenAcc := 3 }) with fab := 100 }

theorem witness_FencingRegisters : (dieOk (tRing tTrapE) 0 = true ∧ (tRing tTrapE).ouvosUp = true ∧ (getDie (tRing tTrapE) 0).ring = [tTrapE, .trap {}] ∧
      (getDie (tRing (.event { code := 0x8D })) 0).ring = [.event { code := 0x8D }, .trap {}]) ∧
    (coreOk (tFrozen none) 0 = true ∧ (getCore (tFrozen none) 0).frozenAt = none ∧ (getCore (tFrozen (some 40)) 0).frozenAt = some 40 ∧
      (getCore (tFrozen (some 40)) 0).stopped = false ∧ (getCore (modCore (tFrozen (some 40)) 0 (fun c => { c with stopped := true })) 0).stopped = true) ∧
    (cluOk State.reset 63 = true ∧ segOk State.reset 255 = true ∧ 0xFC ∈ [0x00, 0xFF, 0xFE, 0xFC, 0xF8, 0xF0, 0xE0, 0xC0, 0x80] ∧
      0x01 ∉ [0x00, 0xFF, 0xFE, 0xFC, 0xF8, 0xF0, 0xE0, 0xC0, 0x80]) := by decide +kernel

theorem test_core_fence : after (.coreFenceState 5 3 0x81) State.reset (fun u => tget 0 u.fence 5 == 0x1023) = true := by decide +kernel
theorem test_core_hold : after (.coreHold 5 true) State.reset (fun u => tget 0 u.fence 5 == 0x10) = true := by decide +kernel
theorem test_core_freeze : after (.coreFreeze 0 true) (tFrozen none) (fun u => (getCore u 0).frozenAt == some 100 && tget 0 u.fence 0 == 8) = true := by decide +kernel
theorem test_core_release : after (.coreFreeze 0 false) (tFrozen (some 40)) (fun u => (getCore u 0).frozenAt == none && (getCore u 0).frozenAcc == 63) = true := by
  decide +kernel
theorem test_cluster_fence : after (.clusterFenceState 63 1 5) State.reset (fun u => tget 0 u.cluFence 63 == 21) = true := by decide +kernel
theorem test_vn_shift : after (.vnShiftWrite 255 0xFC) State.reset (fun u => tget 0 u.shift 255 == 0xFC) = true := by decide +kernel
theorem test_vn_shift_refused : after (.vnShiftWrite 255 0x01) State.reset (fun u => u.shift == State.reset.shift &&
    (getDie u 3).ring.length == 1) = true := by decide +kernel
/-- A raise past the router reaches the core that the old value names (R27). -/
theorem test_vn_shift_cell : after (.vnShiftWrite 0 0xFE) (tCell 0 tRaiseC (tCore0 (tCount 3))) (fun u => (getCtr (getCore u 0) 1).value == 10 &&
    tget 0 u.shift 0 == 0xFE) = true := by decide +kernel
theorem test_fault_event : after (.faultEventTaken 0) (tRing tTrapE) (fun u => (getDie u 0).ring == [.trap {}]) = true := by decide +kernel

def tAct : FenceAction := { kind := 0, core := 0, target := 4, reason := 0x80, step := 1, since := 0 }
/-- A live remap of a partition whose networks have been quiet, and one in which a raise is outstanding. -/
def tRemap (live : Bool) : State :=
  { setPart (setClu (setCore State.reset 0 { raises := if live then [{ tag := 0, src := .thread 0 0, target := 1, syncId := 1, sentAt := 0 }] else [] }) 0 1 0) 0
      (some { clusters := [0], actions := [tAct], quiet := 10000 }) with fab := 500 * 1800 }
def tIso (cur : Option Nat) (todo : List Nat) : Isolate := { core := 0, engine := 1, cause := 7, todo := todo, current := cur, since := 0, hits := [] }
def tSearch (v : Isolate) : State := { tPart { isolate := some v } State.reset with fab := 50000 * 1800 }
def tGoose : State := { tPart { gooseFrom := 0 } (tWaiting 0x24 3) with fab := 1000 * 1800 }

theorem witness_SettleIsolateAndGoose : (getPart (tRemap false) 0 = some { clusters := [0], actions := [tAct], quiet := 10000 } ∧
      settled (tRemap false) { clusters := [0], actions := [tAct], quiet := 10000 } = true ∧ passDirty (setHolds (tRemap false) (segOfPhys 0) 0 true) (segOfPhys 0) 0 true = false ∧
      passDirty (setHolds (modCore (tRemap false) 3 (fun c => { c with bad := [(5, true)] })) (segOfPhys 0) 0 true) (segOfPhys 0) 0 true = true ∧
      settled (tRemap true) { clusters := [0], actions := [tAct], quiet := 10000 } = false ∧ (tRemap true).fab ≥ tAct.since + 500 * 1800) ∧
    (((getPart (tSearch (tIso none [])) 0).map (fun pt => pt.isolate)) = some (some (tIso none [])) ∧
      ((getPart (tSearch (tIso (some 2) [])) 0).map (fun pt => pt.isolate)) = some (some (tIso (some 2) [])) ∧
      (tSearch (tIso (some 2) [])).fab ≥ (tIso (some 2) []).since + 50000 * 1800) ∧
    ((getPart tGoose 0).isSome = true ∧ (gooseLook tGoose { clusters := [0] }).goose = 1000 ∧ (gooseLook tGoose { clusters := [0] }).gooseDone = false ∧
      whollyBlocked tGoose (gooseLook tGoose { clusters := [0] }) = true ∧
      (partCores tGoose (gooseLook tGoose { clusters := [0] })).all (fun p => !isFrozen (getCore tGoose p)) = true ∧
      tGoose.fab ≥ (gooseLook tGoose { clusters := [0] }).gooseFrom + usCycles (gooseLook tGoose { clusters := [0] }).goose) := by
  refine ⟨?_, ?_, ?_⟩ <;> decide +kernel

theorem test_remap_settled : after (.remapSettled 0) (tRemap false) (fun u => ((getPart u 0).map (fun pt => pt.actions)) == some [] &&
    fld (tget 0 u.fence 0) 2 0 == 4) = true := by decide +kernel
theorem test_isolate_begins : after (.isolateSuspectReplay 0) (tSearch (tIso none [2, 3])) (fun u =>
    ((getPart u 0).map (fun pt => pt.isolate.map (fun v => (v.current, v.todo)))) == some (some (some 2, [3]))) = true := by decide +kernel
theorem test_isolate_timeout : after (.isolateReplayTimeout 0) (tSearch (tIso (some 2) [3])) (fun u =>
    ((getPart u 0).map (fun pt => pt.isolate.map (fun v => (v.current, v.todo)))) == some (some (none, [3]))) = true := by decide +kernel
theorem test_goose : after (.gooseDeadlock 0) tGoose (fun u => (getDie u 0).ring.length == 1 && ((getPart u 0).map (fun pt => pt.gooseDone)) == some true &&
    (getDie u 0).snaps.length == 1) = true := by decide +kernel

def tSweep (l : List Nat) : State := { State.reset with boot := .service, sweep := l, sweepSize := l.length, sweepFrom := some 0 }
def tTest (n : Nat) (rep : Bool) : CoreTest := { core := 7, slice := n, again := rep, clock := 0, trim := 25 }
def tSound (n : Nat) (rep : Bool) : State := { State.reset with boot := .service, sounding := [tTest n rep] }
/-- The core has failed twice within a week. -/
def tTwice (n : Nat) (rep : Bool) : State := modScree (tSound n rep) 1 7 (fun r => { r with charged := [(0, 0x8C), (0, 0x8C)] })
def tDump : State := { State.reset with dumps := [(1, { bytes := List.replicate 70 1 })] }

theorem witness_SoundingAndRecords : (testsRun (tSweep [7]) = true ∧ inServicePhase (tSweep [7]) = true ∧ (tSweep [7]).service ≠ 3 ∧
      newSweep (tSweep [7]) = tSweep [7] ∧ devNs (tSweep [7]) ≥ nextSound (tSweep [7]) ((tSweep [7]).sweepFrom.getD 0) ∧
      (tSweep [7]).sweep.find? (fun p => !clusterBusy (tSweep [7]) p) = some 7 ∧
      devNs { tSweep [7] with sweepSize := 8 } < nextSound { tSweep [7] with sweepSize := 8 } 0 ∧
      newSweep { tSweep [7] with sweepSize := 8 } = { tSweep [7] with sweepSize := 8 }) ∧
    (coreOk (tSound 15 false) 7 = true ∧ testsRun (tSound 15 false) = true ∧ soundYields (tSound 15 false) 7 = false ∧
      testOf (tSound 15 false) 7 = some (tTest 15 false) ∧ testOf (tSound 16 false) 7 = some (tTest 16 false) ∧ nextIsPermanent (tSound 16 false) 1 7 = false ∧
      nextIsPermanent (modScree (tSound 16 false) 1 7 (fun r => { r with suspect := true })) 1 7 = true ∧ testOf (tSound 3 true) 7 = some (tTest 3 true) ∧
      countIn (tSound 3 true) 1 7 0x8C week = 0 ∧ countIn (tTwice 3 true) 1 7 0x8C week = 2 ∧ testOf (tTwice 3 true) 7 = some (tTest 3 true) ∧
      (tSound 3 true).service ≠ 3) ∧
    (State.reset.binAt ≠ some (devSec State.reset) ∧ [(3, (900 : Int))].find? (fun e => e.1 == sensorOf 6 12) = some (sensorOf 6 12, 900)) ∧
    (devNs State.reset ≥ State.reset.genAt ∧ State.reset.flash.areaA.number ≤ State.reset.flash.areaB.number) ∧ ((tget {} tDump.dumps 1).bytes ≠ [] ∧ (tget {} tDump.dumps 1).copied = false) ∧
    (tget 0 (getTier State.reset 0).calFail 5 < 2 ∧ tget 0 (getTier (setTier State.reset 1 { calFail := [(5, 2)] }) 1).calFail 5 ≥ 2) := by
  refine ⟨⟨?_, ?_, ?_, ?_, ?_, ?_, ?_, ?_⟩, ?_, ?_, ?_, ?_, ?_⟩ <;> decide +kernel

theorem test_sounding_tick : after .soundingSweepTick (tSweep [7]) (fun u => u.sweep == [] && u.sweepOut == [7] &&
    u.sounding.map (fun e => (e.core, e.slice, e.again)) == [(7, 1, false)]) = true := by decide +kernel
theorem test_sounding_slice : after (.soundingSlice 7 true 0 0) (tSound 15 false) (fun u => (testOf u 7).map (fun e => (e.slice, e.again)) == some (16, false)) = true := by decide +kernel
theorem test_sounding_ends : after (.soundingSlice 7 true 0 0) (tSound 16 false) (fun u => testOf u 7 == none) = true := by decide +kernel
/-- 1.08 × the granted clock, up to the next 25 MHz: 1,296 MHz becomes 1,300 at grant 24; 2.4 GHz and the larger trim at the top (R323). -/
theorem test_sounding_clock : (testSupply 24, testSupply 64, testSupply 65) = ((1300, 25), (2400, 25), (2400, 50)) := by decide +kernel
/-- Core 5 and cluster 1 read the sensor of cluster 0 or 1; the device takes the hottest (R338). -/
theorem test_scree_bins : (binUnit State.reset [(0, 40), (1, 90)] [(0, -26)] 1 5 {}).temp = [(1, 1)] ∧
    (binUnit State.reset [(0, 40), (1, 90)] [(0, -26)] 1 5 {}).volt = [(1, 1)] ∧
    (binUnit State.reset [(0, 40), (1, 90)] [] 6 4 {}).temp = (binUnit State.reset [(0, 40), (1, 90)] [] 0x22 0 {}).temp := by decide +kernel
theorem test_scree_generation : after .screeGenerationWrite { State.reset with flash := { State.reset.flash with areaA := { number := 4 } } } (fun u =>
    u.flash.areaB.number == 5 && u.flash.areaA.number == 4) = true := by decide +kernel
theorem test_dump_copy : after (.dumpCopy 1) tDump (fun u => (tget {} u.dumps 1).copied && u.flash.dumpNext == 1 &&
    (tget {} u.flash.dumps 0).bytes.length == 70) = true := by decide +kernel
theorem test_refresh_third : after (.dramRefresh 1 5 false) (setTier State.reset 1 { calFail := [(5, 2)] }) (fun u => (getTier u 1).calFail == []) = true := by
  decide +kernel

def tIdleClu (p : Pow) : State := { tPart { running := true } (setPow State.reset 0 p) with fab := 20000 }

theorem witness_PowerCommands : (fld (0 : W64) 11 0 = 0 ∧ limitMin State.reset = 600 ∧ limitMax State.reset = 1500 ∧ fld (600 : W64) 11 0 = 600 ∧
      fld (1500 : W64) 11 0 = 1500 ∧ fld (1501 : W64) 11 0 > limitMax State.reset ∧ fld (599 : W64) 11 0 < limitMin State.reset) ∧
    (cluOk (tIdleClu {}) 0 = true ∧ partOfCluster (tIdleClu {}) 0 = some 0 ∧ ((getPart (tIdleClu {}) 0).map (fun pt => pt.running)) = some true ∧
      (getPow (tIdleClu {}) 0).mode ≤ 1 ∧ (getPow (tIdleClu {}) 0).lend = false ∧
      ((partCores (tIdleClu {}) { clusters := [0] }).filter (fun p => cluOfPhys p == 0)).all (coreLends (tIdleClu {})) = true) ∧
    (isActive (tIdleClu {}) 0 = true ∧ scheduled (tIdleClu {}) 0 = false ∧ (clusterPhys 0).all (fun p => !coreBusy (tIdleClu {}) p) = true ∧
      (getPow (tIdleClu { mode := 1, waking := true }) 0).waking = true ∧ (getPow (tIdleClu { mode := 1, waking := true }) 0).mode = 1 ∧
      (getPow (tIdleClu { mode := 3, waking := true }) 0).mode = 3) ∧
    (1456 * 100 > 97 * capOf State.reset ∧ ¬ 1455 * 100 > 97 * capOf State.reset ∧ 1424 * 100 < 95 * capOf State.reset ∧ State.reset.brake = false ∧
      95 * capOf State.reset ≤ 1425 * 100 ∧ 1455 * 100 ≤ 97 * capOf State.reset ∧
      State.reset.restoredAt + usCycles 1000 ≤ ({ State.reset with fab := 1800000 } : State).fab ∧ State.reset.fab < State.reset.restoredAt + usCycles 1000) ∧
    (cluOk State.reset 1 = true ∧ (neighbours 0).contains 1 = true ∧ (getPow State.reset 0).mode ≤ 1 ∧ (getPow State.reset 1).mode ≤ 1) ∧
    ((tSweep []).boot ≠ .unpowered ∧ (readSensor (tSweep []) 68 111).trip = false) := by
  refine ⟨?_, ?_, ?_, ?_, ?_, ?_⟩ <;> decide +kernel

theorem test_pwr_limit : after (.pwrLimitWrite 600) State.reset (fun u => u.pwrLimit == 600 && !u.pwrRefused) = true := by decide +kernel
theorem test_pwr_limit_refused : after (.pwrLimitWrite 599) State.reset (fun u => u.pwrLimit == 1500 && u.pwrRefused) = true := by decide +kernel
theorem test_pwr_limit_read : after .pwrLimitRead { State.reset with pwrRefused := true } (fun u => !u.pwrRefused) = true := by decide +kernel
theorem test_pwr_brake : after .pwrBrakeAssert (tIdleClu { pacing := 16, target := 60 }) (fun u => u.brake && u.hbmPace == 8 && (getPow u 0).pacing == 8) = true := by
  decide +kernel
theorem test_pwr_brake_release : after .pwrBrakeRelease { State.reset with brake := true } (fun u => !u.brake) = true := by decide +kernel
theorem test_budget_over : after (.powerBudgetTick 1456) (tIdleClu { pacing := 16, target := 61 }) (fun u => (getPow u 0).target == 60) = true := by decide +kernel
theorem test_budget_restores :
    after (.powerBudgetTick 100) { tIdleClu { pacing := 15, target := 60 } with fab := 1800000 } (fun u => (getPow u 0).pacing == 16 && u.restoredAt == 1800000) = true := by
  decide +kernel
theorem test_grant_change : after (.grantChangeDone 0) (tIdleClu { grant := 60, target := 58 }) (fun u => (getPow u 0).grant == 58) = true := by decide +kernel
theorem test_idle_entry : after (.clusterIdleEntry 0) (tIdleClu {}) (fun u => (getPow u 0).mode == 1) = true := by decide +kernel
theorem test_wake : after (.clusterWake 0) (tIdleClu { mode := 3, waking := true }) (fun u => ((getPow u 0).mode, (getPow u 0).waking) == (0, false)) = true := by
  decide +kernel
theorem test_voltage_clamp : after (.voltageClamp 0 1 921 800) State.reset (fun u => (getPow u 0).vclamp && (getPow u 0).clamps == 1 && !(getPow u 1).vclamp) = true := by
  decide +kernel
theorem test_thermal : after (.thermalSensorRead 0 105) (tSweep []) (fun u => u.hbmPace == 8) = true := by decide +kernel

def tStage (n : Nat) : State := { State.reset with boot := .stage n, fab := 1800 * 1000 * 4 }
def tOff : State := { State.reset with boot := .unpowered, refclk := true }
def tServ : State := { State.reset with boot := .service, ouvosUp := true }
/-- Stage 6 of a device with stored results. -/
def tPlan : State := { tStage 6 with flash := { (tStage 6).flash with planDigest := some (sha3 (planBytes (tStage 6).flash)) } }

theorem witness_PowerAndResets : State.reset.boot = .unpowered ∧ tOff.refclk = true ∧ (tServ.resetLow = false ∧ tServ.boot ≠ .unpowered) ∧
    ({ State.reset with boot := .held, resetLow := true }.resetLow = true) ∧ (tServ.ouvosUp = true) ∧ (tStage 3).boot = .stage 3 ∧
    ((∀ p, p < 64 → getPart ({ tServ with ouvosUp := false }.cmds.foldl (fun s c => finish (abandon s c) c stReset []) { tServ with ouvosUp := true }) p = none) ∧
      { tServ with ouvosUp := false }.ouvosUp = false) ∧ ({ tServ with resetPend := some 1 }.resetPend = some 1) ∧
    (dieOk (setDie tServ 1 { resetting := true }) 1 = true ∧ (getDie (setDie tServ 1 { resetting := true }) 1).resetting = true) := by
  refine ⟨?_, ?_, ?_, ?_, ?_, ?_, ?_, ?_, ?_⟩ <;> decide +kernel

theorem test_power_on : after .powerOn { tOff with fab := 9 } (fun u => u.boot == .stage 0 && u.bootFrom == 9) = true := by decide +kernel
theorem test_power_on_tripped : after .powerOn { tOff with trip := true } (fun u => u.boot == .held) = true := by decide +kernel
theorem test_power_loss : after .powerLoss { tServ with parts := [(0, some {})] } (fun u => u.boot == .unpowered && u.parts == []) = true := by decide +kernel
theorem test_refclk_stop : after .refclkStop { tServ with refclk := true } (fun u => u.boot == .unpowered) = true := by decide +kernel
theorem test_reset_assert : after .resetInputAssert tServ (fun u => u.resetLow && u.boot == .held) = true := by decide +kernel
theorem test_reset_release : after .resetInputRelease { State.reset with boot := .held, resetLow := true } (fun u => !u.resetLow && u.boot == .stage 0) = true := by
  decide +kernel
theorem test_management_watchdog : after .managementWatchdogExpiry tServ (fun u => !u.ouvosUp && u.boot == .service && u.charged.length == 1) = true := by
  decide +kernel
theorem test_ouvos_restart : after .ouvosRestartEnd { tServ with ouvosUp := false } (fun u => u.ouvosUp) = true := by decide +kernel
theorem witness_BootStages : (finishTransition (tStage 1)).2 = none ∧ lifeCycle (finishTransition (tStage 1)).1.flash.lc ≠ 4 ∧
    (chooseSlot (tStage 2).flash).2 < 2 ∧ { (tStage 3) with meter := { (tStage 3).meter with powered := true } }.meter.powered = true ∧
    (tPlan.boot = .stage 6 ∧ tPlan.bootFull = false ∧ tPlan.flash.plan = [] ∧ planStands tPlan.flash = true) ∧ (tStage 9).boot = .stage 9 :=
  ⟨by decide +kernel, by decide +kernel, by decide +kernel, by decide +kernel, ⟨rfl, rfl, rfl, beq_self_eq_true _⟩, rfl⟩

/-- R482: stage 0 takes the strap address and counts the boot; R485: its report. -/
theorem test_boot_stage0 : after (.bootStage0 3) (tStage 0) (fun u => u.boot == .stage 1 && u.i3cAddr == 0x53 && u.flash.boots == 1 && u.ibis == [0x80] &&
    (u.report.map (fun r => (r.stage, r.status, r.failed, r.boot, r.time))) == some (0, 0, 0, 1, 4)) = true := by decide +kernel
theorem test_boot_stage1 : after (.bootStage1 false) (tStage 1) (fun u => u.boot == .stage 2) = true := by decide +kernel
theorem test_boot_stage3_no_meter : after (.bootStage3 false) (tStage 3) (fun u => u.boot == .stage 4 && (u.report.map (fun r => (r.status, r.failed))) ==
    some (1, 2048)) = true := by decide +kernel
theorem test_boot_stage4 : after (.bootStage4 []) (tStage 4) (fun u => u.boot == .stage 5 && (u.report.map (fun r => r.status)) == some 0) = true := by decide +kernel
theorem test_boot_stage5 : after (.bootStage5 0 0xFFF []) (tStage 5) (fun u => u.boot == .stage 6 && u.hbm.present && !u.ddr.present) = true := by decide +kernel
theorem test_boot_stage8 : after (.bootStage8 0) (tStage 8) (fun u => u.boot == .stage 9) = true := by decide +kernel
theorem test_boot_stage9 : after .bootStage9 (tStage 9) (fun u => u.boot == .service && u.ouvosUp) = true := by decide +kernel
theorem test_stage_overrun : after .stageOverrun (tStage 1) (fun u => u.boot == .stopped 1) = true := by decide +kernel
theorem test_stage_overrun_meter : after .stageOverrun (tStage 3) (fun u => u.boot == .stage 4) = true := by decide +kernel
theorem test_stage_waiting : after .stageWaitingReport (tStage 7) (fun u => u.boot == .stage 7 && (u.report.map (fun r => r.status)) == some 3) = true := by
  decide +kernel

theorem witness_StageReports : (tStage 0).boot = .stage 0 ∧ (tStage 1).boot = .stage 1 ∧ (tStage 2).boot = .stage 2 ∧ (tStage 3).boot = .stage 3 := by
  decide +kernel

/-! ### The mailbox -/

theorem mem_of_tget {α : Type} (d : α) (k : Nat) : ∀ l : Tbl α, tget d l k ≠ d → (k, tget d l k) ∈ l
  | [], h => absurd rfl h
  | (j, v) :: r, h => by
    unfold tget at h ⊢
    split
    · rename_i e; subst e; exact List.mem_cons_self
    · rename_i e; rw [if_neg e] at h; exact List.mem_cons_of_mem _ (mem_of_tget d k r h)

def quietB (s : State) : Bool :=
  s.ouvosUp && s.boot == .service && s.cmds == [] && decide (devNs s < s.genAt + 3600000000000) &&
  s.parts.all (fun e => match e.2 with | none => true | some pt => !actionPending s pt && pt.isolate.isNone && pt.due.isEmpty)

theorem quiet_of {s : State} (h : quietB s = true) : Quiet s := by
  simp only [quietB, Bool.and_eq_true, beq_iff_eq] at h
  refine ⟨h.1.1.1.1, h.1.1.1.2, h.1.1.2, of_decide_eq_true h.1.2, ?_⟩
  intro p pt g
  have m : (p, some pt) ∈ s.parts := by
    have n : tget none s.parts p = some pt := g
    have := mem_of_tget none p s.parts (by rw [n]; exact Option.some_ne_none pt)
    rwa [n] at this
  have := List.all_eq_true.mp h.2 _ m
  simpa [and_assoc] using this

/-- `Admits` as a check. -/
def admB (s : State) (m : Mbx) (op : Nat) : Bool :=
  quietB s &&
  (match getQp s m.qpn with
   | none => false
   | some v => v.mbx && !v.error && decide (v.filled < 64) && !scopeDenied v m op && (decide (v.owner ≠ 64) || seqOk s m op) && (busyMs s v m).isNone) &&
  !msgBad m && !notServed s m op &&
  (match opInfo op with
   | none => true
   | some i => (decide (i.scope ≠ 0) || decide (scopePart m = 64)) && (decide (i.scope ≠ 1) || decide (scopePart m ≠ 64))) &&
  (decide (scopePart m = 64) || (getPart s (scopePart m)).isSome)

theorem admits_of {s : State} {m : Mbx} {op : Nat} (h : admB s m op = true) : Admits s m op := by
  simp only [admB, Bool.and_eq_true] at h
  obtain ⟨⟨⟨⟨⟨a, b⟩, c⟩, d⟩, e⟩, f⟩ := h
  refine ⟨quiet_of a, ?_, ⟨by simpa using c, by simpa using d⟩, ?_, ?_⟩
  · cases q : getQp s m.qpn with
    | none => rw [q] at b; exact absurd b Bool.false_ne_true
    | some v =>
      rw [q] at b
      simp only [Bool.and_eq_true, Bool.or_eq_true, decide_eq_true_eq, Bool.not_eq_true', Option.isNone_iff_eq_none] at b
      obtain ⟨⟨⟨⟨⟨b1, b2⟩, b6⟩, b3⟩, b4⟩, b5⟩ := b
      exact ⟨v, rfl, b1, b2, b6, b3, fun o => b4.resolve_left (not_not_intro o), b5⟩
  · intro i o
    rw [o] at e
    simp only [Bool.and_eq_true, Bool.or_eq_true, decide_eq_true_eq] at e
    exact ⟨fun z => e.1.resolve_left (not_not_intro z), fun z => e.2.resolve_left (not_not_intro z)⟩
  · intro z
    simp only [Bool.or_eq_true, decide_eq_true_eq] at f
    exact f.resolve_left z

/-- A device in mailbox service with partition 0, the tenant's pair 2 and the steward's pair 3. -/
def tMb (pt : Part) (f : State → State) : State :=
  f (tPart pt { State.reset with boot := .service, ouvosUp := true, portMode := [], qps := [(2, some { owner := 0, mbx := true }), (3, some { owner := 64, mbx := true })] })
/-- A tenant's request and a steward's. -/
def tReq (body : List Byte) : Mbx :=
  { qpn := 2, tag := 1, version := 1, flags := 0, status := 0, scope := 0, rsv := 0, seq := 0, time := 0, retry := 0, lost := 0,
    len := body.length, body := body, sig := [], trail := 0 }
def sReq (scope : Nat) (body : List Byte) : Mbx := { tReq body with qpn := 3, flags := 1, scope := scope, seq := 1, sig := List.replicate 2420 0 }
def tZ : State := tMb {} id
def tRun : State := tMb { running := true, job := 7, lastEnd := List.replicate 32 3 } id

/-- R381: a request of DEVICE_STATUS; its response echoes the token. -/
def tTok : List Byte := [1, 2, 3, 4, 5, 6, 7, 8]

theorem witness_MailboxCommandsRun : Admits tZ (sReq 64 tTok) 0x0001 ∧
    (match doOp (admitted tZ (sReq 64 tTok) 1) (sReq 64 tTok) 1 with | (t, .done _ _) => t.cmds == [cmdOf tZ (sReq 64 tTok) 1] | _ => false) = true ∧
    Admits tZ (tReq (leBytes 8 4096 ++ leBytes 8 0 ++ leBytes 4 9 ++ leBytes 4 64 ++ [0])) 0x0406 ∧
    (match doOp (admitted tZ (tReq (leBytes 8 4096 ++ leBytes 8 0 ++ leBytes 4 9 ++ leBytes 4 64 ++ [0])) 0x0406)
        (tReq (leBytes 8 4096 ++ leBytes 8 0 ++ leBytes 4 9 ++ leBytes 4 64 ++ [0])) 0x0406 with
      | (t, .wait) => t.cmds.all (fun c => c.started && decide (c.stage ≠ 2)) | _ => false) = true :=
  ⟨admits_of (by decide +kernel), by decide +kernel, admits_of (by decide +kernel), by decide +kernel⟩

def tEnt (k : Nat) (e : AddrEntry) (s : State) : State := setEntry s 0 k (some e)
/-- An IPv4 entry: PD 3, PC 6, VLAN 5, a unicast MAC, 10.0.0.1. -/
def tE4 : AddrEntry := { flags := 3, pd := 3, pc := 6, vlan := 5, mac := 0x020000000002, ip4 := 0x0A000001 }
def tAddrBody (flags : Nat) (entry : Byte := 1) : List Byte :=
  [0, entry] ++ [BitVec.ofNat 8 flags, 51] ++ leBytes 2 5 ++ leBytes 6 0x020000000002 ++ leBytes 4 0x0A000001 ++ zeros 16

theorem witness_DeviceCommands : (admB tZ (sReq 64 tTok) 1 && !bOver (sReq 64 tTok) 8 && admB tZ (sReq 64 tTok) 2) = true ∧
    (admB tZ (sReq 64 [1, 2]) 3 && bf (sReq 64 [1, 2]) 1 1 == 2 && !bOver (sReq 64 [1, 2]) 2 && tget 0 tZ.portMode 1 != 2) = true ∧
    (admB tZ (sReq 64 (tAddrBody 3)) 4 && lportExists tZ 0 && !bOver (sReq 64 (tAddrBody 3)) 32 &&
      !multicast tE4.mac && !entryClash tZ 0 1 tE4 && bf (sReq 64 (tAddrBody 3)) 3 1 % 8 == 3 && bf (sReq 64 (tAddrBody 3)) 3 1 / 8 == 6 &&
      bf (sReq 64 (tAddrBody 3)) 4 2 == 5 && bf (sReq 64 (tAddrBody 3)) 6 6 == tE4.mac && bf (sReq 64 (tAddrBody 3)) 12 4 == tE4.ip4 &&
      admB (tMb {} (tEnt 1 tE4)) (sReq 64 (tAddrBody 2)) 4 && (getEntry (tMb {} (tEnt 1 tE4)) 0 1).isSome &&
      admB tZ (sReq 64 (tAddrBody 3 0)) 4 && bf (sReq 64 (tAddrBody 3 0)) 1 1 == 0 && !entryClash tZ 0 0 tE4) = true ∧
    (admB tZ (sReq 64 [0, 2]) 5 && !bOver (sReq 64 [0, 2]) 2 && admB tZ (sReq 64 []) 6 && tZ.service == 0 &&
      admB { tZ with service := 1 } (sReq 64 []) 6 && admB { tZ with service := 2 } (sReq 64 []) 6) = true ∧
    (admB tZ (sReq 64 [3]) 7 && dieOk tZ 3 && !(getDie tZ 3).resetting && admB tZ (sReq 64 [1]) 8 && !bOver (sReq 64 [1]) 1 &&
      admB { tZ with parts := [] } (sReq 64 [0]) 9) = true := by
  refine ⟨?_, ?_, ?_, ?_, ?_⟩ <;> decide +kernel

/-- PART_CREATE on clusters 1 and 2 of die 0 with 3 buckets; an HBM range; a window; a pair's body; a steward's pair of the tenant. -/
def tCreate : List Byte := [0, 0, 2, 0] ++ leBytes 2 6 ++ [0, 0] ++ [0xFF, 0xFF, 0xFF, 0xFF] ++ leBytes 2 3 ++ [0, 0]
def tRange (o : Nat) : List Byte := [BitVec.ofNat 8 o, 0, 1, 0, 0, 0, 0, 0] ++ leBytes 8 5 ++ leBytes 8 2
def tWin : List Byte := [3, 1, 0, 0, 0, 0, 0, 0] ++ leBytes 16 0
def tPair : List Byte := [0, 5, 7, 14] ++ leBytes 3 9 ++ [0] ++ leBytes 16 0x0A000002 ++ [16] ++ zeros 7
def tTenantQ (mbx : Bool) : State := tMb {} (fun s => { s with qps := (s.qps ++ [(9, some { owner := 0, mbx := mbx })]) })
/-- The same while its die is reset. -/
def tDieR : State := setDie tZ 0 { getDie tZ 0 with resetting := true }

theorem witness_PartitionCommands : (admB tZ (sReq 64 tCreate) 0x0101 && !createBad tZ (sReq 64 tCreate) &&
      (List.range 64).find? (partIdFree tZ) == some 1 && (freeTags tZ 3).isSome && !diesOut tZ (namedClusters (sReq 64 tCreate))) = true ∧
    (admB tZ (sReq 0 []) 0x0102 && admB tZ (sReq 0 [0xFF, 0xFF, 0xFF, 0xFF]) 0x0103 && reservesAt (sReq 0 [0xFF, 0xFF, 0xFF, 0xFF]) 0 == [] &&
      heldReserves tZ 0 == [] && !bOver (sReq 0 [0xFF, 0xFF, 0xFF, 0xFF]) 4) = true ∧
    (admB tZ (sReq 0 tWin) 0x0104 && bf (sReq 0 tWin) 1 1 == 1 && !bRsv (sReq 0 tWin) 2 6 && !bOver (sReq 0 tWin) 24 &&
      !windowSetBad {} (tset 0 [] 3 0)) = true ∧
    (admB tZ (sReq 0 (tRange 0)) 0x0105 && inDataPart tZ 0 5 2 && !rangeTaken tZ 0 5 2 && bf (sReq 0 (tRange 0)) 8 8 == 5 &&
      admB (tMb { hbm := [(5, 2)] } id) (sReq 0 (tRange 1)) 0x0105 && !windowOn { hbm := [(5, 2)] } 0 5 2) = true ∧
    (admB tZ (sReq 0 [0]) 0x0106 && admB (tMb {} (tEnt 1 tE4)) (sReq 0 tPair) 0x0107 && !qpBodyBad (sReq 0 tPair) &&
      (getEntry (tMb {} (tEnt 1 tE4)) 0 1).isSome && mbxPairs (tMb {} (tEnt 1 tE4)) 0 == 1 && freeQpn (tMb {} (tEnt 1 tE4)) == some 4) = true ∧
    (admB (tTenantQ true) (sReq 0 (leBytes 4 9)) 0x0108 && (getQp (tTenantQ true) 9).isSome &&
      admB tZ (sReq 0 [0, 0, 0, 0]) 0x0109 && admB tZ (sReq 0 ([1, 0] ++ leBytes 2 9999)) 0x0109 && !(partEntries tZ 0).any (fun e => e.sas.isEmpty)) = true ∧
    (admB tZ (sReq 0 (leBytes 4 5000)) 0x010A && admB tZ (sReq 0 []) 0x010B && admB tDieR (sReq 0 []) 0x010B &&
      !(diesOf { clusters := [0] }).all (fun d => (getDie tZ d).resetting) && (diesOf { clusters := [0] }).all (fun d => (getDie tDieR d).resetting) &&
      admB tZ (tReq []) 0x010C) = true := by
  refine ⟨?_, ?_, ?_, ?_, ?_, ?_, ?_⟩ <;> decide +kernel

theorem test_part_status : after (.partStatus (tReq [])) tZ (fun u => u.cmds == [] && u.sent.length == 1 && u.parts == tZ.parts) = true := by decide +kernel

theorem test_job_status : after (.jobStatus (tReq [])) (tMb { lastEnd := List.replicate 32 3 } id) (fun u => u.cmds == [] && u.sent.length == 1) = true := by
  decide +kernel

/-- IMAGE_LOAD: the host's buffer at 4096 with key 9 and length 64, the device's at 2^36. -/
def tImg : List Byte := leBytes 8 4096 ++ leBytes 4 9 ++ leBytes 4 64 ++ leBytes 8 (2 ^ 36) ++ zeros 40
def tImgP : Part := { hbm := [(0, 64)], windows := [(0, BitVec.ofNat 128 (2 ^ 20 + (2 ^ 20 + 63) * 2 ^ 32 + 7 * 2 ^ 96))] }
def tJob : List Byte := zeros 8 ++ leBytes 8 4096 ++ leBytes 8 8192 ++ leBytes 4 2 ++ zeros 4 ++ [1, 2]
def tBk (st : Nat) : State := tMb { bucketAt := 5, buckets := 2 } (fun s => setBucket s 5 { state := st, round := 3 })
/-- R262: a bucket of no tiles for one die. -/
def tBOpen : List Byte := leBytes 2 5 ++ zeros 62
def tPeers : List Byte := leBytes 2 5 ++ [1] ++ zeros 5 ++ leBytes 4 9 ++ leBytes 4 77 ++ leBytes 8 4096

/-- The own rank's entry alone: zeros. -/
def tPeers0 : List Byte := leBytes 2 5 ++ [1] ++ zeros 21

theorem witness_LoadJobAndBucketCommands : (admB (tMb tImgP id) (sReq 0 tImg) 0x0201 && (getPart (tMb tImgP id) 0 == some { tImgP with clusters := [0] }) &&
      !imageLoadBad { tImgP with clusters := [0] } (sReq 0 tImg) && !partHeld (tMb tImgP id) { tImgP with clusters := [0] } && bf (sReq 0 tImg) 12 4 == 64) = true ∧
    (admB (tMb { image := [1] } id) (sReq 0 tJob) 0x0202 && !partOut (tMb { image := [1] } id) { clusters := [0], image := [1] } && !bRsv (sReq 0 tJob) 2 6 && !bRsv (sReq 0 tJob) 28 4 && !bOver (sReq 0 tJob) 34 &&
      slice (sReq 0 tJob).body 32 2 == [1, 2] && (firstBad { clusters := [0] } true 8192 2).isNone) = true ∧
    (admB tRun (sReq 0 []) 0x0203 && jobRuns tRun 0 && admB tRun (sReq 0 []) 0x0204 && admB tZ (tReq []) 0x0205) = true ∧
    (admB (tBk 0) (tReq tBOpen) 0x0301 && !bOver (tReq tBOpen) 64 &&
      !bucketOpenBad (tBk 0) 0 { clusters := [0], bucketAt := 5, buckets := 2 } 5 { desc := slice (tReq tBOpen).body 0 64, part := 0 } &&
      admB (tBk 1) (tReq (leBytes 2 5)) 0x0302 && admB (tBk 1) (tReq (leBytes 2 5)) 0x0303) = true ∧
    (admB { tBk 0 with qps := (tBk 0).qps ++ [(9, some { owner := 0 })] } (tReq tPeers) 0x0304 && !bRsv (tReq tPeers) 3 5 && !bOver (tReq tPeers) 24 &&
      bf (tReq tPeers) 8 4 == 9 && ((getQp { tBk 0 with qps := (tBk 0).qps ++ [(9, some { owner := 0 })] } 9).map (fun v => (v.mbx, v.owner))) == some (false, 0) &&
      admB (tBk 0) (tReq tPeers0) 0x0304 && admB (tBk 0) (tReq (leBytes 2 5 ++ [0] ++ zeros 5)) 0x0304) = true := by
  refine ⟨?_, ?_, ?_, ?_, ?_⟩ <;> decide +kernel

theorem test_bucket_close : after (.bucketClose (tReq (leBytes 2 5))) (tBk 1) (fun u => (getBucket u 5).state == 0 && u.cmds == []) = true := by decide +kernel
theorem test_bucket_query : after (.bucketQuery (tReq (leBytes 2 5))) (tBk 1) (fun u => u.sent.length == 1 && (getBucket u 5).state == 1) = true := by decide +kernel

/-- A roll call of a load that lacks nothing. -/
def tLoadCmd : Cmd := { op := 0x0201, m := sReq 0 tImg, since := 0, started := true, stage := 1 }
def tLoad : State := tMb { loading := true } (fun s => { s with cmds := [tLoadCmd] })

theorem witness_LoadJobAndBucketCommands_rollCall : moving { clusters := [0], loading := true } = false ∧
    (match rollCall tLoad 0 [] with | (u, .complete) => (getPart u 0).isSome && u.cmds == [tLoadCmd] | _ => false) = true := by decide +kernel

/-- REGION_REGISTER at the window; RECV_POST; MEM_READ. -/
def tReg : List Byte := leBytes 8 (2 ^ 36) ++ leBytes 8 4096 ++ [3, 0] ++ leBytes 2 0 ++ zeros 4
def tRecvB : List Byte := leBytes 4 9 ++ leBytes 2 1 ++ zeros 2 ++ leBytes 8 4096 ++ leBytes 4 16 ++ leBytes 2 0 ++ [0, 0]
def tMemB (a n : Nat) : List Byte := leBytes 8 a ++ leBytes 8 0 ++ leBytes 4 9 ++ leBytes 4 n ++ [0]
def tRegS : State := tMb {} (fun s => { s with regions := [(4, some { owner := 0, addr := 4096, len := 64, access := 3, tag := 0 })] })
def tDumpS : State := tMb {} (fun s => { s with dumps := [(1, { bytes := List.replicate 70 1 })] })

theorem witness_MemoryAndDiagnosticCommands : (admB (tMb tImgP id) (tReq tReg) 0x0401 && !bRsv (tReq tReg) 17 1 && !bRsv (tReq tReg) 20 4 &&
      !areaBad { tImgP with clusters := [0] } true true (2 ^ 36) 4096 && freeRkey (tMb tImgP id) == some 1 && bf (tReq tReg) 8 8 == 4096) = true ∧
    (admB tRegS (tReq (leBytes 4 4)) 0x0402 && ((getRegion tRegS 4).map (fun r => (r.owner, r.access.testBit 2))) == some (0, false)) = true ∧
    (admB (tMb {} (tEnt 1 tE4)) (tReq tPair) 0x0403 && admB (tTenantQ false) (tReq (leBytes 4 9)) 0x0404 && admB (tTenantQ false) (tReq tRecvB) 0x0405 &&
      bf (tReq tRecvB) 16 4 == 16 && !bRsv (tReq tRecvB) 6 2 && !bOver (tReq tRecvB) 24 && (firstBad { clusters := [0] } true 4096 16).isNone) = true ∧
    (admB tZ (tReq (tMemB 4096 64)) 0x0406 && (firstBad { clusters := [0] } true 4096 64).isNone && admB tZ (tReq (tMemB 4096 8)) 0x0407 &&
      (match readBlocks 0 0 false 2 4096 8 [] (admitted tZ (tReq (tMemB 4096 8)) 0x0407) with | (_, l, none) => l == zeros 8 | _ => false)) = true ∧
    (admB tZ (sReq 0 (leBytes 2 1 ++ leBytes 2 31)) 0x0501 && !tenant tZ (sReq 0 (leBytes 2 1 ++ leBytes 2 31)) &&
      admB tZ (sReq 64 (leBytes 2 7)) 0x0502 && !tenant tZ (sReq 64 (leBytes 2 7)) && coreOk tZ 7 && scopePart (sReq 64 []) == 64 &&
      admB tZ (sReq 64 (leBytes 2 0 ++ leBytes 2 2)) 0x0503 && admB tDumpS (sReq 64 ([9, 0, 0, 0] ++ leBytes 4 64 ++ leBytes 4 6)) 0x0504 &&
      (dumpAt tDumpS 9).bytes != [] && admB tZ (sReq 64 (leBytes 2 0 ++ leBytes 2 2)) 0x0505 && admB tZ (sReq 64 [20]) 0x0506) = true := by
  refine ⟨?_, ?_, ?_, ?_, ?_⟩ <;> decide +kernel

theorem test_region_register : after (.regionRegister (tReq tReg)) (tMb tImgP id) (fun u =>
    getRegion u 1 == some { owner := 0, addr := 2 ^ 36, len := 4096, access := 3, tag := 0 }) = true := by decide +kernel
theorem test_region_deregister : after (.regionDeregister (tReq (leBytes 4 4))) tRegS (fun u => u.regions == []) = true := by decide +kernel
theorem test_qp_destroy : after (.qpDestroy (tReq (leBytes 4 9))) (tTenantQ false) (fun u => getQp u 9 == none) = true := by decide +kernel
theorem test_recv_post : after (.recvPost (tReq tRecvB)) (tTenantQ false) (fun u => ((getQp u 9).map (fun v => v.recvs)) == some [(4096, 16, 0, 0, 0)]) = true := by
  decide +kernel
theorem test_mem_write : after (.memWrite (tReq (tMemB 4096 64))) tZ (fun u => u.cmds.map (fun c => c.want) == [64]) = true := by decide +kernel
theorem test_mem_read : after (.memRead (tReq (tMemB 4096 8))) tZ (fun u => u.cmds.map (fun c => c.stage) == [1]) = true := by decide +kernel

/-- MACSEC_SA: deletion of the transmit SA with AN 0 of entry 1. -/
def tSa : List Byte := [0, 1, 0, 0] ++ leBytes 8 99 ++ zeros 8 ++ [2] ++ zeros 11 ++ zeros 32
def tSaS : State := tMb {} (tEnt 1 { tE4 with sas := [{ tx := true, an := 0, sci := 99, pn := 1, window := 0, active := true, sak := [] }] })
def tMtr (f : Meter → Meter) : State := tMb {} (fun s => { s with meter := f { s.meter with powered := true, measuring := true } })

theorem witness_SecurityAndMeterCommands : (admB tZ (sReq 64 (zeros 32)) 0x0601 && admB tZ (sReq 64 []) 0x0602 && admB tSaS (sReq 64 tSa) 0x0603 &&
      bf (sReq 64 tSa) 20 1 == 2 && !bRsv (sReq 64 tSa) 21 11 && !bOver (sReq 64 tSa) 64 &&
      ((getEntry tSaS 0 1).map (fun e => e.sas.any (fun x => x.tx == true && x.an == bf (sReq 64 tSa) 3 1 && x.sci == bf (sReq 64 tSa) 4 8))) == some true) = true ∧
    (admB tZ (sReq 64 (List.replicate 1312 7)) 0x0604 && !bOver (sReq 64 (List.replicate 1312 7)) 1312 &&
      admB tZ (sReq 64 (leBytes 8 4096 ++ leBytes 4 9 ++ leBytes 4 64 ++ zeros 32)) 0x0605 &&
      !bOver (sReq 64 (leBytes 8 4096 ++ leBytes 4 9 ++ leBytes 4 64 ++ zeros 32)) 48) = true ∧
    (lifeCycle { tZ with flash := { tZ.flash with lc := 3 } }.flash.lc = 1 ∧ admB { tZ with flash := { tZ.flash with lc := 3 } } (sReq 64 [2]) 0x0607 = true ∧
      lifeCycle { tZ with flash := { tZ.flash with lc := 15 } }.flash.lc = 2) ∧
    (admB (tMtr (fun m => { m with last := some 5, number := 6 })) (sReq 64 (leBytes 8 5 ++ leBytes 2 1)) 0x0701 &&
      !tenant (tMtr id) (sReq 64 (leBytes 8 5 ++ leBytes 2 1)) && recordHeld (tMtr (fun m => { m with last := some 5, number := 6 })).meter 5 &&
      admB (tMtr id) (sReq 64 (leBytes 8 1 ++ leBytes 2 0)) 0x0702 && meterRuns (tMtr id).meter && admB (tMtr id) (sReq 64 []) 0x0703) = true := by
  refine ⟨?_, ?_, ?_, ?_⟩ <;> decide +kernel

/-! A digest in a request's body, without its value. -/

theorem slice_after (a d e : List Byte) : slice (a ++ (d ++ e)) a.length d.length = d := by
  apply List.ext_getElem
  · simp [slice]
  · intro i h1 h2
    have g : (a ++ (d ++ e))[a.length + i]? = some d[i] := by
      rw [List.getElem?_append_right (by omega), Nat.add_sub_cancel_left, List.getElem?_append_left h2, List.getElem?_eq_getElem h2]
    simp [slice, g]

theorem length_leBytes : ∀ n v, (leBytes n v).length = n := by
  intro n
  induction n with
  | zero => intro v; rfl
  | succ n ih => intro v; simp only [leBytes, List.length_cons, ih]

/-- The shortest image of R408: a header of 64 bytes and no section. -/
def tImage : List Byte := leBytes 4 0x56E5C7A1 ++ leBytes 2 1 ++ leBytes 2 0 ++ zeros 4 ++ leBytes 4 64 ++ [0, 1] ++ zeros 46
def tImgCmd : Cmd :=
  { op := 0x0201, m := sReq 0 (zeros 24 ++ (digestBytes (sha3 tImage) ++ [])), since := 0, started := true, fetched := [tImage] }

theorem witness_LoadJobAndBucketCommands_image : tImgCmd.fetched.headD [] = tImage ∧ tImage ≠ [] ∧ badItem tImgCmd = none ∧
    numAt tImage 12 4 = tImage.length ∧ imageBad tZ tImage { clusters := [0] } = false := by
  refine ⟨rfl, by decide, ?_, by decide +kernel, by decide +kernel⟩
  have d : declared tImgCmd.m 0 = digestBytes (sha3 tImage) := by
    have k := slice_after (zeros 24) (digestBytes (sha3 tImage)) []
    rw [show (digestBytes (sha3 tImage)).length = 32 from length_leBytes 32 _] at k
    exact k
  unfold badItem
  rw [show tImgCmd.fetched = [tImage] from rfl]
  show List.find? _ [0] = none
  simp only [List.find?, List.getD_cons_zero, d]
  rw [bne_self_eq_false]
  simp

/-- The shortest firmware image (R498, R499): no microcode. -/
def tFwImg : List Byte := leBytes 4 0x0F71C7A5 ++ leBytes 2 1 ++ leBytes 2 0 ++ zeros 4 ++ leBytes 4 3828 ++ leBytes 4 1408 ++ zeros 44 ++ zeros 3764
def tFwKey : BitVec 256 := sha3 (slice tFwImg 64 1312)
def tFwS : State := tMb {} (fun s => { s with flash := { s.flash with fwKey := tFwKey, slotB := tFwImg } })
def tFwCmd : Cmd := { op := 0x0605, m := sReq 64 (zeros 16 ++ (digestBytes (sha3 (tFwImg.take (fwLength tFwImg))) ++ [])), since := 0, started := true, fetched := [tFwImg] }

theorem witness_SecurityAndMeterCommands_firmware : tFwCmd.fetched = [tFwImg] ∧ digestBytes (sha3 (tFwImg.take (fwLength tFwImg))) = slice tFwCmd.m.body 16 32 ∧
    fwFieldsOk tFwImg = true ∧ fwFresh tFwS tFwImg = true ∧ fwSignerOk tFwS tFwImg = true ∧ tFwS.flash.pending = none ∧
    fwSlot tFwS 1 = tFwImg ∧ tFwS.flash.active = 0 ∧ Admits tFwS (sReq 64 [1]) 0x0606 := by
  refine ⟨rfl, ?_, by decide +kernel, by decide +kernel, ?_, rfl, rfl, rfl, admits_of (by decide +kernel)⟩
  · have k := slice_after (zeros 16) (digestBytes (sha3 (tFwImg.take (fwLength tFwImg)))) []
    rw [show (digestBytes (sha3 (tFwImg.take (fwLength tFwImg)))).length = 32 from length_leBytes 32 _] at k
    exact k.symm
  · show (tFwKey == tFwKey) = true
    exact beq_self_eq_true _

/-! ### Admission, Ethernet, RoCE -/

def tBusy : State := { tZ with qps := [(2, some { owner := 0, mbx := true, busyTill := 5 })] }
def tSeqS : State := { tZ with seqHigh := 9, seqSeen := [1] }
def tTimeout : State := { tZ with cmds := [{ op := 0x0301, m := tReq [], since := 0, started := true }], fab := 10 * 1800000 }

theorem witness_RequestsAreChecked : (refusal tZ { owner := 0, mbx := true } (sReq 64 []) 1 = some (stAuth, 0, 0) ∧
      (refusal tBusy { owner := 0, mbx := true, busyTill := 5 } (tReq []) 0x010C).map (fun r => r.1) = some stBusy ∧
      getQp tBusy 2 = some { owner := 0, mbx := true, busyTill := 5 } ∧ tBusy.boot = .service ∧ tBusy.ouvosUp = true) ∧
    (msgBad { tReq [] with rsv := 1 } = true ∧ msgBad (tReq []) = false ∧ scopeDenied { owner := 0, mbx := true } { tReq [] with scope := 1 } 0x010C = true ∧
      scopeDenied { owner := 64, mbx := true } (sReq 0 []) 0x010C = false ∧ signatureOk tZ (sReq 0 []) 0x010C = false ∧ seqOk tSeqS (sReq 0 []) 0x010C = false ∧
      refusal { tZ with ouvosUp := false } { owner := 0, mbx := true } (tReq []) 0x010C = some (stBusy, 0, 2000) ∧
      (getQp { tZ with qps := [(2, some { owner := 0, mbx := true, filled := 64 })] } 2).map (fun v => (v.mbx, v.error, v.filled)) = some (true, false, 64)) ∧
    (opInfo 0x0001 ≠ none ∧ opInfo 0x0FFF = none ∧ scopeDenied { owner := 0, mbx := true } (tReq []) 0x0FFF = false) ∧
    (tTimeout.cmds.find? (fun c => c.m.qpn == 2 && c.m.tag == 1) = some { op := 0x0301, m := tReq [], since := 0, started := true } ∧
      ((opInfo 0x0301).map (fun i => i.limit)) = some 10 ∧ tTimeout.fab ≥ 0 + 10 * 1800000) := by
  refine ⟨?_, ?_, ?_, ?_⟩ <;> decide +kernel

theorem test_request_out_of_scope : after (.partStatus { tReq [] with scope := 1 }) tZ (fun u => u.sent.map (fun r => (r.op, r.status, r.flags)) ==
    [(0x010C, stAuth, 0x0A)]) = true := by decide +kernel
theorem test_unsupported : after (.unsupportedRequest (tReq []) 0x0FFF) tZ (fun u => u.sent.map (fun r => r.status) == [stUnsupported]) = true := by decide +kernel
theorem test_command_timeout : after (.commandTimeout 2 1) tTimeout (fun u => u.cmds == [] && u.sent.map (fun r => r.status) == [stTimeout]) = true := by
  decide +kernel

/-- An accepted frame, where the port has one entry. -/
def accB (s : State) (f : Frame) (pick : Nat → AddrEntry → Bool) (k : Nat) (e e1 : AddrEntry) : Bool :=
  decide (f.lport < 8) && (getLport s f.lport).up && decide (f.octets ≤ 4352) && f.fcsOk && !f.fragment && (!f.v6 || !f.extHdr || f.mld) &&
  (getLport s f.lport).entries == [(k, some e)] && vlanOk e f && (!multicast f.dmac || pick k e) && (multicast f.dmac || e.mac == f.dmac) &&
  macsecIn e f == some e1 && !rxNone s e f

theorem accepted_of {s : State} {f : Frame} {pick : Nat → AddrEntry → Bool} {k : Nat} {e e1 : AddrEntry} (h : accB s f pick k e e1 = true) :
    Accepted s f pick k e e1 := by
  simp only [accB, Bool.and_eq_true, Bool.or_eq_true, Bool.not_eq_true', decide_eq_true_eq, beq_iff_eq] at h
  obtain ⟨⟨⟨⟨⟨⟨⟨⟨⟨⟨⟨a, b⟩, c⟩, d⟩, i⟩, j⟩, l⟩, m⟩, n⟩, o⟩, p⟩, q⟩ := h
  refine ⟨⟨a, b⟩, ⟨c, d⟩, ⟨i, fun v w => j.resolve_left (by rw [v, w]; exact fun y => y.elim Bool.noConfusion Bool.noConfusion)⟩, by rw [l]; exact List.mem_singleton.mpr rfl,
    ⟨m, fun v => n.resolve_left (by rw [v]; exact Bool.noConfusion), fun v => o.resolve_left (by rw [v]; exact Bool.noConfusion)⟩, ?_, p, q⟩
  intro j d q _ _ _
  rw [l, List.mem_singleton] at q
  injection q with q1 q2
  injection q2 with q3
  rw [q1, q3]

def tFrame (dmac dst : Nat) (v6 : Bool) : Frame :=
  { lport := 0, octets := 64, fcsOk := true, dmac := dmac, smac := 5, vlans := [5], sectag := none, icvOk := false, v6 := v6, srcIp := 9, dstIp := dst,
    fragment := false, extHdr := false }
def tE6 : AddrEntry := { tE4 with flags := 7, ip6 := 2 ^ 127 + 1 }
def tNet (k : Nat) (e : AddrEntry) (f : State → State) : State :=
  f (setLport tZ 0 { up := true, entries := [(k, some e)] })
def tMac : Nat := 0x020000000002
def tBrd : Nat := 2 ^ 48 - 1
/-- The address's solicited-node group and PTP's group. -/
def tSol : Nat := solicitedMac (2 ^ 127 + 1)
def tPtpMac : Nat := ptpMac false

theorem witness_EthernetFrames_accepted :
    Accepted (tNet 1 tE6 id) (tFrame tBrd 0 false) (fun _ e => tBrd == broadcastMac && e.ip4 == 0x0A000001 && e.flags.testBit 1) 1 tE6 tE6 ∧
    Accepted (tNet 1 tE6 id) (tFrame tSol 0 true) (fun _ e => tSol == solicitedMac e.ip6 && e.ip6 == 2 ^ 127 + 1 && e.flags.testBit 2) 1 tE6 tE6 ∧
    Accepted (tNet 1 tE6 id) (tFrame tMac 0x0A000001 false) (fun _ _ => false) 1 tE6 tE6 ∧
    Accepted (tNet 1 tE6 id) (tFrame tMac (2 ^ 127 + 1) true) (fun _ _ => false) 1 tE6 tE6 ∧
    (tE6.flags.testBit 1 = true ∧ tE6.flags.testBit 2 = true ∧ tE6.ip4 = 0x0A000001 ∧ tE6.ip6 = 2 ^ 127 + 1) ∧
    (Accepted (tNet 0 tE6 (fun s => { s with ptpPort := some (0, 1), ptpSync := some (7, 100) })) (tFrame tPtpMac 0 false) (fun k _ => k == 0 && tPtpMac == ptpMac false) 0 tE6 tE6 ∧
      (tNet 0 tE6 (fun s => { s with ptpPort := some (0, 1), ptpSync := some (7, 100) })).ptpSync = some (7, 100)) :=
  ⟨accepted_of (by decide +kernel), accepted_of (by decide +kernel), accepted_of (by decide +kernel), accepted_of (by decide +kernel), by decide,
   accepted_of (by decide +kernel), rfl⟩

def tNeigh (t : Nat) : State := { tZ with neigh := [(9, some (5, 3))], fab := t }
def tPause (p : LPort) : State := { tNet 1 tE4 (fun s => setLport s 0 { p with up := true, entries := [(1, some tE4)] }) with fab := 1800 * 100000 }
def tPtp : State := { tZ with ptpPort := some (0, 1), fab := 1800 * 10000000 }
def tCm (n : Nat) : State := tNet 0 tE4 (fun s => { s with qps := (List.range n).map (fun i => (i + 2, some { owner := 64, mbx := true })) })

theorem witness_EthernetFrames : ((tFrame 1 2 false).lport < 8 ∧ (getLport (tNet 1 tE4 id) 0).up = true) ∧
    (tget none (tNeigh 7).neigh 9 = some (5, 3) ∧ (tNeigh (3 + 1800 * 300000000)).fab ≥ 3 + usCycles 300000000 ∧ (tNeigh 7).fab < 3 + usCycles 300000000) ∧
    (pausedAt (tPause { paused := [(3, 1)], pauseEnd := [(3, 10 ^ 12)] }) 0 3 = true ∧ lossless (tPause {}) 0 3 = true ∧
      (tPause {}).fab + 1 ≥ 1 + usCycles 100000) ∧
    (tPtp.ptpPort = some (0, 1) ∧ tPtp.fab ≥ tPtp.ptpHeard + usCycles 10000000) ∧
    ({ tCm 8 with boot := .stage 9 }.boot ≠ .service ∧ lportExists { tCm 8 with boot := .stage 9 } 0 = true) ∧
    ((tCm 8).boot = .service ∧ lportExists (tCm 8) 0 = true ∧ (getLport (tCm 8) 0).up = true ∧ getEntry (tCm 8) 0 0 = some tE4 ∧ freeQpn (tCm 8) = some 10 ∧
      (qpsWhere (tCm 8) (fun v => v.mbx && v.owner == 64)).length = 8 ∧ (qpsWhere (tCm 7) (fun v => v.mbx && v.owner == 64)).length = 7) := by
  refine ⟨?_, ?_, ?_, ?_, ?_, ?_⟩ <;> decide +kernel

theorem test_arp_request : after (.arpRequest (tFrame tBrd 0 false) 0x0A000001) (tNet 1 tE6 id) (fun u => (u.netOut.map (fun e => (e.1, e.2.2))) ==
    [(0, [1] ++ beBytes 6 5 ++ beBytes 6 tMac ++ [10, 0, 0, 1] ++ [0, 0, 0, 9])]) = true := by decide +kernel
theorem test_neighbour_solicitation : after (.neighbourSolicitation (tFrame tSol 0 true) (2 ^ 127 + 1)) (tNet 1 tE6 id) (fun u => u.netOut.length == 1) = true := by
  decide +kernel
theorem test_echo : after (.icmpEchoRequest (tFrame tMac 0x0A000001 false) [1, 2]) (tNet 1 tE6 id) (fun u => u.netOut.length == 1) = true := by decide +kernel
theorem test_arp_reply : after (.arpOrNeighbourReply (tFrame tMac 0 false) 77 66) (tNet 1 tE6 id) (fun u => u.neigh == [(neighKey 0 77, some (66, 0))]) = true := by
  decide +kernel
theorem test_frame_too_long : after (.arpOrNeighbourReply { tFrame tMac 0 false with octets := 4353 } 77 66) (tNet 1 tE6 id) (fun u =>
    (getLport u 0).tooLong == 1 && u.neigh == []) = true := by decide +kernel
theorem test_neighbour_ageing : after (.neighbourEntryAgeing 9) (tNeigh (3 + 1800 * 300000000)) (fun u => u.neigh == []) = true := by decide +kernel
theorem test_pfc_frame : after (.pfcFrame 0 8 [0, 0, 0, 7]) (tPause {}) (fun u => pausedAt u 0 3 && !pausedAt u 0 2) = true := by decide +kernel
theorem test_pfc_held : after (.pfcPauseHeld 0 3) (tPause { paused := [(3, 1)], pauseEnd := [(3, 10 ^ 12)] }) (fun u =>
    (getLport u 0).pauseEvents == 1 && (getLport u 0).pauseSeen == [(3, 1)]) = true := by decide +kernel
theorem test_ptp_sync : after (.ptpEventMessage (tFrame tPtpMac 0 false) 7 100) (tNet 0 tE6 (fun s => { s with ptpPort := some (0, 1), fab := 180 })) (fun u =>
    u.ptpSync == some (7, 100) && !u.ptpFree) = true := by decide +kernel
theorem test_ptp_follow_up : after (.ptpGeneralMessage (tFrame tPtpMac 0 false) 1 7 5000)
    (tNet 0 tE6 (fun s => { s with ptpPort := some (0, 1), ptpSync := some (7, 100), ptpDelay := some 3 })) (fun u =>
      u.ptpSync == none && !u.ptpFree && u.timeBase == 4903 && u.ptpReq.isSome) = true := by decide +kernel
theorem test_ptp_timeout : after .ptpMasterTimeout tPtp (fun u => u.ptpFree && u.ptpSync == none) = true := by decide +kernel
theorem test_cm_connect : after (.cmConnectRequest 0 9 8 5 7 7 14) (tCm 7) (fun u => ((getQp u 9).map (fun v => (v.owner, v.mbx, v.remote, v.remoteIp))) ==
    some (64, true, 8, 9)) = true := by decide +kernel
theorem test_cm_connect_full : after (.cmConnectRequest 0 9 8 5 7 7 14) (tCm 8) (fun u => u.qps == (tCm 8).qps && u.netOut.map (fun e => (e.1, e.2.2)) == [(0, [5, 0, 0, 0, 0, 0])]) = true := by
  decide +kernel
theorem test_link_change : after (.ethernetLinkChange 0 false) (tNet 1 tE4 id) (fun u => !(getLport u 0).up) = true := by decide +kernel

def tQp (v : Qp) (f : State → State) : State := f { tNet 1 tE4 id with qps := [(9, some v)] }
def tPk (psn : Nat) : Packet := { frame := tFrame tMac 0x0A000001 false, qpn := 9, psn := psn, ce := false }
/-- The tenant's pair 9, which expects packet 3. -/
def tV : Qp := { owner := 0, ePsn := 3 }
def tRg (f : Region → Region) (s : State) : State := { s with regions := [(4, some (f { owner := 0, addr := 4096, len := 4096, access := 3, tag := 5 }))] }
def tRdq : OutMsg := { psn := 0, kind := 2, addr := 0, rkey := 9, data := [], len := 2, job := 1 }
def tRdS : State := tQp { tV with mbx := true, outstanding := [tRdq] } (fun s => { s with cmds :=
  [{ op := 0x0406, m := { tReq (tMemB 4096 2) with qpn := 9 }, since := 0, started := true, want := 2 }] })

theorem witness_RoceMessages_pair : AtPair (tQp tV id) (tPk 3) 1 tE4 tE4 tV ∧ InOrder (tQp tV id) (tPk 3) tV ∧
    AtPair (tQp { tV with mbx := true } id) (tPk 3) 1 tE4 tE4 { tV with mbx := true } ∧
    AtPair (tQp { tV with recvs := [(4096, 32, 0, 0, 0)] } id) (tPk 3) 1 tE4 tE4 { tV with recvs := [(4096, 32, 0, 0, 0)] } ∧
    AtPair (tQp { tV with outstanding := [tRdq] } id) (tPk 3) 1 tE4 tE4 { tV with outstanding := [tRdq] } ∧
    AtPair tRdS (tPk 0) 1 tE4 tE4 { tV with mbx := true, outstanding := [tRdq] } :=
  ⟨⟨accepted_of (by decide +kernel), by decide +kernel, by decide +kernel⟩, by unfold InOrder; decide +kernel,
   ⟨accepted_of (by decide +kernel), by decide +kernel, by decide +kernel⟩, ⟨accepted_of (by decide +kernel), by decide +kernel, by decide +kernel⟩,
   ⟨accepted_of (by decide +kernel), by decide +kernel, by decide +kernel⟩, ⟨accepted_of (by decide +kernel), by decide +kernel, by decide +kernel⟩⟩

def tHd (s : State) : State := heard s (tPk 3) 1 tE4 tE4

theorem witness_RoceMessages : ((putMem (tHd (tQp tV id)) 0 0 (4096 + 16) [1, 2]).2 = none ∧ (putMem (tHd (tQp tV id)) 0 0 4096 (zeros 16)).2 = none) ∧
    ((regionFor (tHd (tQp tV (tRg id))) 0 4 4096 2 1).isSome = true ∧ (putMem (tHd (tQp tV (tRg id))) 0 0 4096 [1, 2]).2 = none ∧
      regionFor (tHd (tQp tV (tRg id))) 0 4 8191 2 1 = none ∧ regionFor (tHd (tQp tV (tRg id))) 0 4 8190 2 0 ≠ none ∧
      (getMem (tHd (tQp tV (tRg id))) 0 0 4096 2).2.2 = none ∧ getQp (getMem (tHd (tQp tV (tRg id))) 0 0 4096 2).1 9 = some tV) ∧
    ((accRegion (tHd (tQp tV (tRg (fun r => { r with access := 4 })))) 0 4).isSome = true ∧ (List.replicate 4096 (0 : Byte)).length = 4096) ∧
    (tV.owner = (getBucket (tHd (tQp tV id)) 5).part) ∧
    ((tV.ePsn + 2 ^ 24 - (tPk 2).psn % 2 ^ 24) % 2 ^ 24 < 2 ^ 23 ∧ (tPk 2).psn % 2 ^ 24 ≠ tV.ePsn ∧
      2 ^ 23 ≤ (tV.ePsn + 2 ^ 24 - (tPk 4).psn % 2 ^ 24) % 2 ^ 24) ∧
    ((31 : Nat) / 32 % 4 = 0 ∧ (32 : Nat) / 32 % 4 = 1 ∧ (97 : Nat) / 32 % 4 = 3 ∧ (97 : Nat) % 32 ≠ 0 ∧
      [tRdq].find? (fun o => o.kind == 2) = some tRdq ∧ tV.outstanding.find? (fun o => o.kind == 2) = none) ∧
    (tRdq.psn = 0 ∧ (tPk 0).psn % 2 ^ 24 = tRdq.data.length / mtuBytes 5 % 2 ^ 24 ∧ tRdq.data.length + [1, 2].length = tRdq.len ∧
      (tRdS.cmds.find? (fun c => c.m.qpn == 9 && c.m.tag == tRdq.job && c.stage == 0 && c.want != 0)).isSome = true) ∧
    (10 * ((18000000 : Nat) - 0) ≥ 73728 * 2 ^ 11) ∧
    (repliesHeld (tHd (tQp { tV with txq := List.replicate 16 (.reply []) } id)) 9 = 16 ∧ repliesHeld (tHd (tQp tV id)) 9 = 0 ∧
      (getQp (tHd (tQp { tV with mbx := true, filled := 64 } id)) 9).map (fun w => w.filled) = some 64 ∧
      pairUp (tQp tV id) tV = true ∧ 98999 < tV.quietFrom + usCycles 55 ∧ tV.quietFrom + usCycles 55 ≤ 99000) := by
  refine ⟨?_, ?_, ?_, ?_, ?_, ?_, ?_, ?_, ?_⟩ <;> decide +kernel

def tSend (v : Qp) : State := tQp { v with outstanding := [{ psn := 0, kind := 1, data := [1], len := 1 }] } (fun s => { s with fab := 10 ^ 9 })

theorem test_roce_send : after (.roceSend (tPk 3) [7]) (tQp { tV with recvs := [(4096, 32, 0, 0, 0)] } id) (fun u => readBytes (getCore u 0).mem 4096 17 ==
    leBytes 4 1 ++ zeros 12 ++ [7] && ((getQp u 9).map (fun v => (v.ePsn, v.acks, v.recvs))) == some (4, [(3, 0)], [])) = true := by decide +kernel
theorem test_roce_send_no_buffer : after (.roceSend (tPk 3) [7]) (tQp tV id) (fun u => ((getQp u 9).map (fun v => (v.ePsn, v.acks))) == some (3, [(3, ackRnr)])) = true := by
  decide +kernel
theorem test_rdma_write : after (.rdmaWrite (tPk 3) 4 4096 [7, 8]) (tQp tV (tRg id)) (fun u => readBytes (getCore u 0).mem 4096 2 == [7, 8] &&
    ((getQp u 9).map (fun v => (v.ePsn, v.acks))) == some (4, [(3, ackOk)])) = true := by decide +kernel
theorem test_rdma_write_duplicate : after (.rdmaWrite (tPk 2) 4 4096 [7, 8]) (tQp tV (tRg id)) (fun u => readBytes (getCore u 0).mem 4096 2 == [0, 0] &&
    ((getQp u 9).map (fun v => (v.ePsn, v.acks))) == some (3, [(2, ackOk)])) = true := by decide +kernel
theorem test_rdma_read : after (.rdmaRead (tPk 3) 4 4096 2) (tQp tV (tRg id)) (fun u => ((getQp u 9).map (fun v => (v.ePsn, v.reply))) == some (4, [[0, 0]])) = true := by
  decide +kernel
theorem test_rdma_read_refused : after (.rdmaRead (tPk 3) 5 4096 2) (tQp tV (tRg id)) (fun u => ((getQp u 9).map (fun v => v.error)) == some true) = true := by
  decide +kernel
theorem test_digest_list : after (.digestList (tPk 3) (leBytes 2 5 ++ zeros 6)) (tQp tV id) (fun u => ((getQp u 9).map (fun v => v.acks)) == some [(3, ackOk)]) = true := by
  decide +kernel
theorem test_rdma_ack : after (.rdmaAck (tPk 0) 0) (tSend tV) (fun u => ((getQp u 9).map (fun v => v.outstanding)) == some []) = true := by decide +kernel
theorem test_rdma_nak : after (.rdmaAck (tPk 0) 97) (tSend tV) (fun u => ((getQp u 9).map (fun v => v.error)) == some true) = true := by decide +kernel
theorem test_ack_timeout : after (.localAckTimeout 9) (tSend { tV with timeout := 11 }) (fun u => ((getQp u 9).map (fun v => (v.retries, v.error))) == some (1, false)) = true := by
  decide +kernel
theorem test_ack_timeout_last : after (.localAckTimeout 9) (tSend { tV with timeout := 11, retries := 7 }) (fun u => ((getQp u 9).map (fun v => v.error)) == some true) = true := by
  decide +kernel
theorem test_rnr_retry : after (.rnrRetryTimer 9) (tSend { tV with rnrWait := true }) (fun u => ((getQp u 9).map (fun v => v.rnrWait)) == some false) = true := by
  decide +kernel
/-- R374: a CNP leaves seven eighths of the rate. -/
theorem test_cnp : after (.cnp 9) (tQp tV id) (fun u => ((getQp u 9).map (fun v => (v.rate, v.quiet))) == some (57344, 0)) = true := by decide +kernel
theorem test_cnp_timer : after (.cnpRateTimer 9) (tQp { tV with rate := 57344, quiet := 5 } (fun s => { s with fab := 99000 })) (fun u => ((getQp u 9).map (fun v => (v.rate, v.quiet))) == some (58368, 6)) = true := by
  decide +kernel
theorem test_read_response : after (.rdmaReadResponse (tPk 0) [1, 2]) tRdS (fun u => u.cmds == [] && readBytes (getCore u 0).mem 4096 2 == [1, 2]) = true := by
  decide +kernel

/-! ### The meter, frames and registers -/

def tMt (f : Meter → Meter) : State := { State.reset with meter := f { State.reset.meter with powered := true, measuring := true, up := 4000000, opened := true } }
def tTapS : State := tMt (fun m => { m with tapLast := [(1, 3999990)], tapSeen := [(1, true)] })
def tOpen (i start now : Nat) : State := tMt (fun m => { m with interval := i, start := start, time := now, number := 3 })

theorem witness_MeterMeasurement : meterRuns (tMt id).meter = true ∧ dieOk tTapS 1 = true ∧ tget false tTapS.meter.tapSeen 1 = true ∧
    tTapS.meter.up - tget 0 tTapS.meter.tapLast 1 ≤ 100000 ∧ 100000 < tTapS.meter.up - tget 0 tTapS.meter.tapLast 0 ∧
    (tMt (fun m => { m with tapSeen := [(1, true)] })).meter.up - tget 0 (tMt (fun m => { m with tapSeen := [(1, true)] })).meter.tapLast 1 > 100000 ∧
    cluOk (tMt id) 63 = true ∧ 2000000 ≤ (tMt id).meter.up - (getTap (tMt id).meter 63).renewed ∧
    (boundary (tOpen 60 30000000 61000000).meter = some 60000000 ∧ boundary (tOpen 60 30000000 59999999).meter = none) ∧
    (tMt (fun m => { m with closing := [7, 8] })).meter.closing = [7, 8] := by decide +kernel

/-- 4 µs at 900 units of voltage and 50 of current on group 0; group 1 is not read. -/
theorem test_meter_sample : after (.meterSample [900] [50]) (tMt id) (fun u => (getGroup u.meter 0).energy == 4 * 900 * 50 && (getGroup u.meter 1).sense &&
    u.meter.total == 180000 && u.meter.up == 4000004) = true := by decide +kernel
theorem test_tap_frame_refused : after (.tapFrame 1 false [7] [8] [1] [2] [5]) tTapS (fun u => u.meter == tTapS.meter && tget 0 u.tapTurn 1 == 1 &&
    tget {} u.tapCount 16 == { charge := 7, cycles := 8, sounding := 3 } && tget 0 u.hbmMoved (65 * 2 + 64) == 5) = true := by decide +kernel
/-- Cluster 16, labelled partition 3 in state 1, draws 2 units at 10 units of voltage: 20,000 go to partition 3's line, with the 10 µs. -/
theorem test_tap_frame : after (.tapFrame 1 true [2] [8] [] [] []) (setClu { tTapS with meter := setGroup tTapS.meter 1 { getGroup tTapS.meter 1 with volts := 10, sample := 50000 } } 16 1 3)
    (fun u => (getLine u.meter 3).energy == 20000 && (getLine u.meter 3).cycles == 8 && (getLine u.meter 3).time == 10) = true := by decide +kernel
theorem test_tap_gap : after (.tapGapTimeout 1) (tMt (fun m => { m with tapSeen := [(1, true)] })) (fun u => u.meter.tapFault && u.meter.tapFlag) = true := by
  decide +kernel
theorem test_ballast_chip : after (.ballastChip [1]) (tMt id) (fun u => u.meter.chip == 1 && (getTap u.meter 16).next == false) = true := by decide +kernel
theorem test_ballast_calibration : after (.ballastCalibration [(5, some (26, 25))]) (tMt id) (fun u => ((getTap u.meter 5).gainNum, (getTap u.meter 5).gainDen,
    (getTap u.meter 5).renewed) == (26, 25, 4000000)) = true := by decide +kernel
theorem test_calibration_stale : after (.calibrationStale 5) (tMt id) (fun u => (getTap u.meter 5).stale && u.meter.calFlag) = true := by decide +kernel
theorem test_meter_commit : after .meterCommit (tMt (fun m => { m with total := 9 })) (fun u => u.meter.mramTotal == 9) = true := by decide +kernel
theorem test_meter_vdd_low : after .meterVddLow (tMt (fun m => { m with total := 9 })) (fun u => u.meter.mramTotal == 9 && !u.meter.powered) = true := by decide +kernel
theorem test_mtr_last : after .mtrLastAdvance (tMt (fun m => { m with closing := [7, 8] })) (fun u => u.meter.last == some 7 && u.meter.closing == [8]) = true := by
  decide +kernel

def tBoard (f : Meter → Meter) : State := { State.reset with meter := f { State.reset.meter with powered := true, cfgN := false } }

theorem witness_MeterBoardAndSeal : State.reset.meter.powered = false ∧ meterRuns (tMt id).meter = true ∧ (tBoard id).meter.powered = true ∧ (tBoard id).meter.measuring = false ∧
    boardWrites (tBoard id).meter = true ∧ (1 ≤ fld (3600 : W64) 11 0 ∧ fld (3600 : W64) 11 0 ≤ 3600 ∧ fld (3600 : W64) 11 0 ≠ (tBoard id).meter.nextInterval.getD 60) ∧
    (fld (0 : W64) 11 0 = 0 ∧ 3600 < fld (3601 : W64) 11 0) ∧ (tMt id).meter.cfgN = true ∧ metered .cm74m = true ∧ metered .cm74u = false := by decide +kernel

theorem test_meter_power_on : after (.meterPowerOn true true) { State.reset with meter := { State.reset.meter with mramTotal := 8 } } (fun u => u.meter.powered &&
    u.meter.measuring && u.meter.total == 8 && u.meter.gap && sealState u == 0) = true := by decide +kernel
theorem test_meter_power_on_bad : after (.meterPowerOn false true) State.reset (fun u => !u.meter.measuring && sealState u == 2) = true := by decide +kernel
theorem test_mtr_cfg : after (.mtrCfgWrite 3600) (tBoard id) (fun u => u.meter.nextInterval == some 3600 && u.meter.audit.length == 1) = true := by decide +kernel
theorem test_mtr_cfg_refused : after (.mtrCfgWrite 3601) (tBoard id) (fun u => u == tBoard id) = true := by decide +kernel
theorem test_mtr_time : after (.mtrTimeWrite 77) (tBoard id) (fun u => u.meter.time == 77 && u.meter.audit.length == 1) = true := by decide +kernel
theorem test_meter_reset_locked : after .meterReset (tMt id) (fun u => u == tMt id) = true := by decide +kernel
theorem test_clk_fault : after .meterClkFault (tMt id) (fun u => u.meter.clkFault) = true := by decide +kernel
theorem test_test_access : after .meterTestAccessOpen (tMt id) (fun u => sealState u == 2 && u.meter.cause == 3) = true := by decide +kernel

def tTxSa : Sa := { tx := true, an := 0, sci := 99, pn := 1, window := 0, active := true, sak := [] }
def tKeyed : AddrEntry := { tE4 with sas := [{ tx := false, an := 0, sci := 99, pn := 1, window := 0, active := true, sak := [] }, tTxSa] }
def tKeyed1 : AddrEntry := { tE4 with sas := [{ tx := false, an := 0, sci := 99, pn := 2, window := 0, active := true, sak := [] }, tTxSa] }
def tCm5F : Frame := { tFrame tMac 0x0A000001 false with sectag := some (99, 0, 1), icvOk := true }
def tCm5Pt (seen : List (Nat × Nat × Option (List Byte))) : Part := { clusters := [0], cm5 := some 9999, cm5From := seen }
def tCm5S (seen : List (Nat × Nat × Option (List Byte))) : State := setPart (tNet 1 tKeyed id) 0 (some (tCm5Pt seen))
/-- R375: magic, version, opcode, sequence 7, one word at offset 4096. -/
def tCm5L (op : Nat) : List Byte :=
  beBytes 4 0x5C35F7A0 ++ [1, BitVec.ofNat 8 op] ++ beBytes 2 7 ++ beBytes 2 0 ++ beBytes 2 0 ++ beBytes 4 4096 ++ zeros 16 ++ [1, 2, 3, 4] ++ zeros 988

theorem witness_FramesJtagAndRegisters_frame : Cm5Frame (tCm5S []) tCm5F 1234 9999 0 (tCm5L 1) tKeyed tKeyed1 (tCm5Pt []) ∧
    partOut (took (tCm5S []) tCm5F 1 tKeyed tKeyed1) (tCm5Pt []) = false ∧ (cm5Bad 1 (tCm5L 1) = false ∧ cm5Bad 2 (tCm5L 2) = false ∧ cm5Bad 3 (tCm5L 3) = false ∧
      cm5Bad 1 (tCm5L 2) = true) ∧ actionPending (took (tCm5S []) tCm5F 1 tKeyed tKeyed1) (tCm5Pt []) = false ∧
    (cm5Get (took (tCm5S []) tCm5F 1 tKeyed tKeyed1) 0 0 4096 4).2.2 = true ∧
    Accepted (tCm5S [(9 * 65536 + 1234, 7, some [5])]) tCm5F (fun _ _ => false) 1 tKeyed tKeyed1 ∧
    cm5Entry (tCm5Pt [(9 * 65536 + 1234, 7, some [5])]) (9 * 65536 + 1234) = some (9 * 65536 + 1234, 7, some [5]) ∧ 7 = beNat (slice (tCm5L 1) 6 2) :=
  ⟨⟨accepted_of (by decide +kernel), by decide +kernel, by decide +kernel, .inl (by decide +kernel)⟩, by decide +kernel, by decide +kernel, by decide +kernel,
   by decide +kernel, accepted_of (by decide +kernel), by decide +kernel, by decide +kernel⟩

theorem test_cm5_repeat : after (.cm5Load tCm5F 1234 9999 (tCm5L 1)) (tCm5S [(9 * 65536 + 1234, 7, some [5])]) (fun u => u.netOut.length == 1 && u.cores == []) = true := by
  decide +kernel
theorem test_cm5_load : after (.cm5Load tCm5F 1234 9999 (tCm5L 1)) (tCm5S []) (fun u => readBytes (getCore u 0).mem 4096 4 == [4, 3, 2, 1] &&
    u.netOut.length == 1) = true := by decide +kernel
theorem test_cm5_read : after (.cm5Read tCm5F 1234 9999 (tCm5L 3)) (tCm5S []) (fun u => u.netOut.length == 1) = true := by decide +kernel

def tModePend : State := { tZ with modePend := [(1, some 2)] }
def tPlanS : State := { State.reset with service := 3 }

theorem witness_FramesJtagAndRegisters : tZ.boot ≠ .unpowered ∧ (coreOk tZ 0xFFF = false ∧ coreOk tZ 0xFE3 = true ∧ colIx 0xFE3 % 9 = 8 ∧ colIx 7 % 9 ≠ 8 ∧ coreOk tZ 7 = true) ∧
    (coreRegs ≤ 0x400) ∧ (boardWrites (tBoard id).meter = true ∧ boardWrites (tMt id).meter = false) ∧ tget none tModePend.modePend 1 = some 2 ∧
    ((linksOf tZ).contains 7 = true ∧ 67 < linkLanes 7 + spareLanes 7) ∧ tZ.service ≠ 3 ∧ tPlanS.service = 3 ∧
    lifeCycle tPlanS.flash.lc ≠ 4 ∧ (planStep tPlanS []).2 = false ∧ lifeCycle { tPlanS.flash with lc := 255 }.lc = 4 ∧
    ((getPart (tMb { loading := true, flock := [(5, 0, 1)] } id) 0).map (fun pt => pt.loading)) = some true := by decide +kernel

theorem test_jtag_bypass : after (.jtagBypass [true, false, true]) tZ (fun u => u.jtagOut == [false, true, false]) = true := by decide +kernel
theorem test_register_window : after (.registerWrite 1 0x80000 0x0102) (tBoard id) (fun u => readBytes u.meter.fwWin 0 3 == [2, 1, 0]) = true := by decide +kernel
theorem test_port_mode : after (.portModeTakedown 1) tModePend (fun u => tget 0 u.portMode 1 == 2 && tget none u.modePend 1 == none) = true := by decide +kernel
theorem test_lane_retraining : after (.oxLaneRetraining 7 67 true) tZ (fun u => (getScree u 7 (7 + 8 * 67)).resets == 1) = true := by decide +kernel
theorem test_selftest_idle : after (.selftestSlice []) tZ (fun u => u == tZ) = true := by decide +kernel
theorem test_flock_timeout : after (.flockRollCallTimeout 0 5) (tMb { loading := true, flock := [(5, 0, 1)] } id) (fun u =>
    ((getPart u 0).map (fun pt => pt.flock)) == some [(5, 1, 1)]) = true := by decide +kernel

/-! ### Commands that no interface carries -/

theorem test_wf_core : Instr.wf (.nop 4096 0) = false ∧ Instr.wf (.nop 4095 16) = false ∧ Instr.wf (.nop 4095 15) = true := by decide +kernel
theorem test_wf_die : Instr.wf (.reduce 4) = false ∧ Instr.wf (.reduce 3) = true := by decide +kernel
theorem test_wf_part : Instr.wf (.remapSettled 64) = false ∧ Instr.wf (.remapSettled 63) = true := by decide +kernel
theorem test_wf_cluster : Instr.wf (.clusterWake 64) = false ∧ Instr.wf (.clusterWake 63) = true := by decide +kernel
theorem test_wf_tag : Instr.wf (.dmaOpComplete 0 1024) = false ∧ Instr.wf (.dmaTransferTimeout 0 2048 0) = false ∧ Instr.wf (.bucketRearm 1023) = true := by
  decide +kernel
theorem test_wf_channel : Instr.wf (.msgAckTimeout 0 64) = false ∧ Instr.wf (.receiveTakesRecord 0 63) = true := by decide +kernel
theorem test_wf_ports : Instr.wf (.pnCellHop 0 13 0) = false ∧ Instr.wf (.steeringMove 0 4) = false ∧ Instr.wf (.snReturnWord 0 4 0) = false ∧
    Instr.wf (.snReturnWord 0 3 64) = false ∧ Instr.wf (.sliceContextHeader 0 16) = false := by decide +kernel
theorem test_wf_slot : Instr.wf (.vnSwitchSlot 0 [(0, 8, 0)]) = false ∧ Instr.wf (.vnSwitchSlot 0 [(0, 7, 3)]) = false ∧ Instr.wf (.vnSwitchSlot 0 [(0, 7, 2)]) = true := by
  decide +kernel
theorem test_wf_group : Instr.wf (.updateStartWord 0 256) = false ∧ Instr.wf (.updateResumeWord 0 255) = true ∧ Instr.wf (.deviceTotal 0 4096) = false := by
  decide +kernel
theorem test_wf_fence : Instr.wf (.coreFenceState 0 8 0) = false ∧ Instr.wf (.coreFenceState 0 7 256) = false ∧ Instr.wf (.clusterFenceState 0 4 0) = false ∧
    Instr.wf (.vnShiftWrite 256 0) = false ∧ Instr.wf (.soundingSlice 0 true 0 8) = false := by decide +kernel
theorem test_wf_sensor : Instr.wf (.thermalSensorRead 80 0) = false ∧ Instr.wf (.thermalSensorRead 79 1024) = false ∧ Instr.wf (.thermalSensorRead 79 1023) = true := by
  decide +kernel
theorem test_wf_boot : Instr.wf (.bootStage0 4) = false ∧ Instr.wf (.bootStage4 [(8, 0)]) = false ∧ Instr.wf (.bootStage5 256 0 []) = false ∧
    Instr.wf (.bootStage6 [(12, 0, 0, 0)]) = false ∧ Instr.wf (.bootStage7 [(4096, 0)]) = false ∧ Instr.wf (.bootStage8 256) = false := by decide +kernel
theorem test_wf_records : Instr.wf (.dumpCopy 2) = false ∧ Instr.wf (.dramRefresh 2 0 true) = false ∧ Instr.wf (.selftestSlice [(12, 0, 0, 0, 0)]) = false := by decide +kernel
theorem test_wf_mailbox : Instr.wf (.deviceStatus { tReq [] with qpn := 2 ^ 24 }) = false ∧ Instr.wf (.deviceStatus { tReq [] with tag := 65536 }) = false ∧
    Instr.wf (.deviceStatus { tReq [] with scope := 256 }) = false ∧ Instr.wf (.commandTimeout 2 65536) = false ∧ Instr.wf (.deviceStatus (tReq [])) = true := by
  decide +kernel
theorem test_wf_frame : Instr.wf (.arpRequest { tCm5F with lport := 8 } 0) = false ∧ Instr.wf (.arpRequest { tCm5F with dmac := 2 ^ 48 } 0) = false ∧
    Instr.wf (.arpRequest { tCm5F with srcIp := 2 ^ 128 } 0) = false ∧ Instr.wf (.arpRequest { tCm5F with vlans := [65536] } 0) = false ∧
    Instr.wf (.arpRequest { tCm5F with sectag := some (0, 4, 0) } 0) = false ∧ Instr.wf (.arpRequest tCm5F (2 ^ 32)) = false ∧ Instr.wf (.arpRequest tCm5F 0) = true := by
  decide +kernel
theorem test_wf_packet : Instr.wf (.roceSend { tPk 0 with psn := 2 ^ 24 } []) = false ∧ Instr.wf (.rdmaWrite (tPk 0) (2 ^ 32) 0 []) = false ∧
    Instr.wf (.rdmaRead (tPk 0) 0 (2 ^ 64) 0) = false ∧ Instr.wf (.rdmaAck (tPk 0) 256) = false ∧ Instr.wf (.cm5Load tCm5F 65536 0 []) = false := by decide +kernel
theorem test_wf_meter : Instr.wf (.meterSample [] []) = false ∧ Instr.wf (.tapFrame 0 true (List.replicate 16 0) (List.replicate 16 0) (List.replicate 16 0) (List.replicate 15 0) [0, 0]) = false ∧ Instr.wf (.ballastChip [4]) = false ∧
    Instr.wf (.ballastCalibration [(64, none)]) = false ∧ Instr.wf (.registerWrite 0x3000 0 0) = false ∧ Instr.wf (.portModeTakedown 2) = false ∧
    Instr.wf (.oxLaneRetraining 8 0 true) = false ∧ Instr.wf (.pfcFrame 8 0 []) = false ∧ Instr.wf (.unsupportedRequest (tReq []) 65536) = false := by decide +kernel
theorem test_no_word : decodeTableWord 8 0 = none := by decide

/-! ### The manual's worked examples -/

/-- Chapter 1: clusters c1.05 and c1.06, p1.05.19 fenced. Core address 0x0520_1000 is l1.05.17 at 0x1000, which p1.05.20 serves; shared
address 0x1_0000_0B40 is byte 0x140 of slice 3 of c1.05. -/
def xPart : Part := { clusters := [21, 22] }
theorem example_addresses : placeOf xPart 1 0x05201000 = ⟨1024 + 64 * 5 + 17, 0x1000⟩ ∧
    servedBy { State.reset with shift := [(64 + 4 * 5 + 2, 0xFE)] } (1024 + 64 * 5 + 17) = 1024 + 64 * 5 + 20 ∧
    slicePlace xPart 0xB40 = (4 * 21 + 3, 0x140) ∧ firstBad xPart false 0x101FFFFFF 1 = none ∧ firstBad xPart false 0x102000000 1 = some 0x102000000 := by
  decide +kernel

/-- Chapter 2: LOOP lc 0, body 4, count 16; ISSUE_TE done 6 +1, op_tag 0x021, row 0x0200; SYNC_ADD_REMOTE core 37, counter 9, 1. -/
theorem example_command_words : (opcode 0x3000000400000010, fld (0x3000000400000010 : W64) 49 32, fld (0x3000000400000010 : W64) 31 0) = (0x30, 4, 16) ∧
    IssueOp.row { word := 0x1006010210000200 } = 0x200 ∧ (opcode 0x2309025000000001, fld (0x2309025000000001 : W64) 55 48,
      fld (0x2309025000000001 : W64) 46 36, fld (0x2309025000000001 : W64) 31 0) = (0x23, 9, 37, 1) := by decide +kernel
theorem example_loop_word : after (.loop 0 0) (tState 0x3000000400000010 id) (fun u => (thr u 0 0).lc == [(0, 16)] && (thr u 0 0).pc == 1) = true := by
  decide +kernel

/-- Chapter 4: 32 activations, 0.3 at even and −0.2 at odd elements, 2.6 at element 5; N4 with escalation, clip_shift 1, half a step:
exponent −2, marked, INT8 codes 1, −1 and 10. -/
def xRow : List W32 := (List.range 32).map (fun k => if k = 5 then 0x40266666 else if k % 2 = 0 then 0x3E99999A else 0xBE4CCCCD)
def xQcw : W64 := BitVec.ofNat 64 (3 + 2 ^ 5 + 2 ^ 6 + 8 * 2 ^ 9 + (256 - 10) * 2 ^ 17 + 2 * 2 ^ 25)
theorem example_quantisation : (planBlock xQcw xRow).eps = -2 ∧ (planBlock xQcw xRow).mark = true ∧
    [0, 1, 5].map (fun k => (quantElem xQcw (planBlock xQcw xRow) 0 (xRow.getD k 0)).1) = [1, -1, 10] ∧ groupRows 3 true 0x00020008 = 10 := by decide +kernel

/-- Chapter 6: a ring of 1,024 bytes, rp = 0x1180, wp = 0x13A0: 200 bytes take a pad of 80 and go to offset 0; 300 bytes are then FULL, and fit
at offset 224 once rp is 0x1280. -/
def xRing (wp rp : Nat) : Core := setRecv {} 1 { cfg := 1, ring := BitVec.ofNat 64 (10 * 2 ^ 15 + 2 ^ 20), wp := wp, rp := rp }
theorem example_ring : ((reserve (xRing 0x13A0 0x1180) 1 200 0 1 0 false 0).map (fun c => ((getRecv c 1).wp, (getRecv c 1).recs.map (fun q => (q.off, q.len, q.kind))))) =
      some (0x14E0, [(928, 80, 1), (0, 200, 0)]) ∧
    (reserve (xRing 0x14E0 0x1180) 1 300 0 1 0 false 0).isNone = true ∧
    ((reserve (xRing 0x14E0 0x1280) 1 300 0 1 0 false 0).map (fun c => (getRecv c 1).recs.map (fun q => q.off))) = some [224] := by decide +kernel

/-- Chapter 8: from l0.02.30 to l0.09.01: east over columns 33, 34, 35, 0 to 1, the wrap link on D1, then south from row 2 on D0. -/
def xHop (r c : Nat) : Nat := 64 * r + c
theorem example_route : [33, 34, 35, 0].map (fun c => routeOut State.reset (xHop 2 c) (xHop 9 1)) = List.replicate 4 (routeOut State.reset (xHop 2 33) (xHop 9 1)) ∧
    neighbour (xHop 2 35) (routeOut State.reset (xHop 2 35) (xHop 9 1)) = xHop 2 0 ∧
    neighbour (xHop 2 1) (routeOut State.reset (xHop 2 1) (xHop 9 1)) = xHop 3 1 ∧
    outVc State.reset (xHop 2 33) 4 0 (routeOut State.reset (xHop 2 33) (xHop 9 1)) 0x01 = 0 ∧
    outVc State.reset (xHop 2 35) 3 0 (routeOut State.reset (xHop 2 35) (xHop 9 1)) 0x01 = 1 ∧
    routeOut State.reset (xHop 9 1) (xHop 9 1) = 4 := by decide +kernel

/-- Chapter 9: the descriptor of 8 verified blocks passes its checks; the value of block 5 at 0x0010_0042_1000 is wrong. -/
theorem example_dma : dReason (tDesc [(0, 0x0000020008040010), (64, 0x0001001000400000), (128, 0x0000000000610000), (192, 0x10000), (256, 0x0000200000000000)]) 32 = 0 ∧
    runTotal (tDesc [(0, 0x0000020008040010), (64, 0x0001001000400000), (128, 0x0000000000610000), (192, 0x10000), (256, 0x0000200000000000)]) = 4 ∧
    dmaDetail 1 0x001000421000 = 0x0000100042100001 := by decide +kernel

/-- Chapter 11: chunk_log2 = 2, 4 peers: tile 37 belongs to rank 1 as its owned tile 9. -/
theorem example_bucket : (ownerRank { desc := [0, 0, 0, 3, 0, 0, 0, 0, 2] } 37, ownedIndex { desc := [0, 0, 0, 3, 0, 0, 0, 0, 2] } 37) = (1, 9) := by decide +kernel

/-- Chapter 13 and 22: a fenced core at position 1 of its segment sets VN_SHIFT to 0xFE, at position 3 to 0xF8. -/
theorem example_shift : (shiftFor 1, shiftFor 3) = (0xFE, 0xF8) ∧ segOfPhys 0xD0C = 64 * 3 + 4 * 4 + 1 ∧ 0xD0C - segBase (segOfPhys 0xD0C) = 3 := by decide +kernel

/-- Chapter 16: three CNPs on 800 Gbit/s leave 700, 612.5 and 535.9; five halvings leave 791.7 and the next step 800. -/
def xRates : Nat → List Instr → State → List Nat
  | 0, _, _ => []
  | _, [], _ => []
  | n + 1, i :: r, s => match exec i { s with fab := s.fab + 99000 } with
    | .next u => ((getQp u 9).map (fun v => v.rate)).getD 0 :: xRates n r u
    | _ => []
theorem example_cnp : xRates 9 (List.replicate 3 (.cnp 9) ++ List.replicate 6 (.cnpRateTimer 9)) { tNet 1 tE4 id with qps := [(9, some {})] } =
    [57344, 50176, 43904, 54720, 60128, 62832, 64184, 64860, 65536] := by decide +kernel

/-- Chapter 17: the header of a device request numbered 8,001; host B's 301 is behind the window, and 8,002 is accepted. -/
def xReq (seq : Nat) : Mbx := { sReq 64 tTok with tag := 7, seq := seq }
theorem example_mailbox : headerBytes (xReq 8001) 1 = [1, 0, 7, 0, 1, 1, 0, 0, 8, 0, 0, 0, 0x40, 0, 0, 0, 0x41, 0x1F] ++ zeros 46 ∧
    seqOk { tZ with seqHigh := 8000 } (xReq 8001) 1 = true ∧ (recordSeq { tZ with seqHigh := 8000 } (xReq 8001) 1).seqHigh = 8001 ∧
    seqOk { tZ with seqHigh := 8001, seqSeen := [8001] } (xReq 301) 1 = false ∧ seqOk { tZ with seqHigh := 8001, seqSeen := [8001] } (xReq 8002) 1 = true := by
  decide +kernel

/-- R470: the endpoint of a core in a SLEEP or IDLE cluster takes nothing; CLUSTER_WAKE wakes the IDLE one for the waiting cell. -/
theorem test_sleeping_endpoint : (headCell (tFirstS id) 0 0x06).isSome = true ∧ headCell (setPow (tFirstS id) 0 { mode := 2 }) 0 0x06 = none ∧
    headCell (setPow (tFirstS id) 0 { mode := 1 }) 0 0x06 = none := by decide +kernel
theorem test_cell_wakes_idle : after (.clusterWake 0) (setPow (tFirstS id) 0 { mode := 1 })
    (fun u => (getPow u 0).mode == 0 && (headCell u 0 0x06).isSome) = true := by decide +kernel

end Sys2Proof.Tests
end

section
/-! SUPPORT. The two statements about the scope of the model: how a command can end, and what every step keeps. Each way
in which a meaning gives its answer has one lemma, and the command's case cites the lemma of the way that it takes. -/

namespace Sys2Proof.Machine

/-- The answer is a next state, or the fault that names a unit the product lacks: no refusal (R2, R5, R15). -/
def NextOrAbsent (o : Out) : Prop := (∃ t, o = .next t) ∨ o = .fault .absentUnit

theorem nextOrAbsent_next (t : State) : NextOrAbsent (.next t) := .inl ⟨t, rfl⟩

theorem nextOrAbsent_absentUnit : NextOrAbsent (.fault .absentUnit) := .inr rfl

theorem nextOrAbsent_ite {c : Prop} [Decidable c] {a b : Out} (ha : NextOrAbsent a) (hb : NextOrAbsent b) :
    NextOrAbsent (if c then a else b) := by
  split
  · exact ha
  · exact hb

theorem nextOrAbsent_next_ite {c : Prop} [Decidable c] (a b : State) : NextOrAbsent (if c then .next a else .next b) :=
  nextOrAbsent_ite (nextOrAbsent_next a) (nextOrAbsent_next b)

theorem nextOrAbsent_absentUnit_ite {c : Prop} [Decidable c] (t : State) :
    NextOrAbsent (if c then .next t else .fault .absentUnit) :=
  nextOrAbsent_ite (nextOrAbsent_next t) nextOrAbsent_absentUnit

theorem nextOrAbsent_onUnit (ok : Bool) (s : State) : NextOrAbsent (onUnit ok s) := nextOrAbsent_absentUnit_ite s

/-! ### Commands that choose between answers themselves -/

theorem nextOrAbsent_execTapFrame (die : Nat) (crcOk : Bool) (charge cycles withdrawn inPlace other : List Nat) (s : State) :
    NextOrAbsent (execTapFrame die crcOk charge cycles withdrawn inPlace other s) :=
  nextOrAbsent_ite nextOrAbsent_absentUnit (nextOrAbsent_next _)

theorem nextOrAbsent_execTapGapTimeout (die : Nat) (s : State) : NextOrAbsent (execTapGapTimeout die s) :=
  nextOrAbsent_ite nextOrAbsent_absentUnit (nextOrAbsent_next_ite _ _)

theorem nextOrAbsent_execCalibrationStale (cluster : Nat) (s : State) : NextOrAbsent (execCalibrationStale cluster s) :=
  nextOrAbsent_ite nextOrAbsent_absentUnit (nextOrAbsent_next_ite _ _)

theorem nextOrAbsent_execMeterPowerOn (fwOk calOk : Bool) (s : State) : NextOrAbsent (execMeterPowerOn fwOk calOk s) :=
  nextOrAbsent_ite (nextOrAbsent_next s) (nextOrAbsent_next_ite _ _)

theorem nextOrAbsent_execMtrLastAdvance (s : State) : NextOrAbsent (execMtrLastAdvance s) := by
  unfold execMtrLastAdvance
  split <;> exact nextOrAbsent_next _

theorem nextOrAbsent_execNeighbourEntryAgeing (ip : Nat) (s : State) : NextOrAbsent (execNeighbourEntryAgeing ip s) := by
  unfold execNeighbourEntryAgeing
  split <;> exact nextOrAbsent_next _

/-- The cases are the ports: those that no write changes, the board port, core and router registers, switch words. -/
theorem nextOrAbsent_execRegisterWrite (port offset : Nat) (value : W64) (s : State) :
    NextOrAbsent (execRegisterWrite port offset value s) :=
  nextOrAbsent_ite (nextOrAbsent_next s) <| nextOrAbsent_ite (nextOrAbsent_next_ite _ _) <|
    nextOrAbsent_ite (nextOrAbsent_onUnit _ _) (nextOrAbsent_onUnit _ _)

/-! ### Every command -/

/-- The commands by how they answer: for a unit that they name, for the port that a frame comes in by (`onFrame`), always with a
next state, with one of two next states, or in a way of their own. -/
theorem exec_nextOrAbsent (c : Instr) (s : State) : NextOrAbsent (exec c s) := by
  cases c with
  | halt | nop | replay | illegalOpcode | issueTe | issueVe | issueDma | issueSend | issueRecv | syncSet | syncAdd | syncSub
  | syncAddRemote | waitGe | waitEq | waitTake | loop | loopEnd | branch | jump | call | ret | commandFetch | agePromotion
  | waitSatisfied | waitWatchdog | remoteSyncTimeout | heldRecordEntersRing | matmul | teDrain | teClear | teBlockLoad
  | teKblockStep | teOpComplete | add | sub | mul | fma | max | min | div | sqrt | rsqrt | f2i | i2f | iadd | isub | imul
  | imax | imin | shl | shra | and | or | xor | exp | exp2 | log | tanh | sigmoid | silu | gelu | sin | cos | rsum | rmax
  | rmin | rsumsq | rdot | lnorm | rmsnorm | quant | dequant | cmp | select | veGather | veScatter | scatterAdd | gfmul
  | gfmac | smaxStep | smaxFinal | rope | angle | veOpComplete | dmaCopy | dmaGather | dmaScatter | dmaPattern
  | dmaCreditTake | patternChunk | dmaOpComplete | dmaTransferTimeout | dmaTagHoldExpiry | write | writeIndexed | readReq
  | readReply | writeAck | endpointTransferTimeout | syncRaise | syncAck | pnCellHop | bcast | sendOperation
  | receiveOperation | receiveTakesRecord | msgFirst | msgNext | msgAck | msgNack | msgAckTimeout | msgRetryBackoff
  | reservationTimeout | vnSwitchSlot | adderFire | steeringMove | snReturnWord | sliceContextHeader | reduce | deviceTotal
  | bucketStartWord | bucketRearm | bucketRoundTimeout | updateStartWord | updateGroupStart | updatePass1End
  | updateResumeWord | updateGroupEnd | faultEventTaken | remapSettled | settleTimeout | coreFenceState | coreFreeze
  | coreHold | clusterFenceState | vnShiftWrite | soundingSlice | isolateSuspectReplay | isolateReplayTimeout | gooseDeadlock
  | lendFlagSet | grantChangeDone | voltageClamp | clusterIdleEntry | clusterWake | flockRollCall | flockRollCallTimeout
  | dumpCopy | dramRefresh | pfcFrame | pfcPauseHeld | ethernetLinkChange | portModeTakedown | dieResetEnd | oxLaneRetraining
  | gradientRelease =>
    exact nextOrAbsent_onUnit _ _
  | arpRequest | neighbourSolicitation | icmpEchoRequest | ptpEventMessage | roceSend | rdmaWrite | rdmaWriteWithImmediate
  | rdmaRead | digestList | rdmaAck | cm5Load | cm5Run | cm5Read | rdmaReadResponse | ptpGeneralMessage | arpOrNeighbourReply =>
    exact nextOrAbsent_absentUnit_ite _
  | soundingSweepTick | powerBudgetTick | thermalSensorRead | pwrLimitWrite | pwrBrakeAssert | pwrBrakeRelease | refclkStop
  | powerOn | powerLoss | resetInputAssert | resetInputRelease | managementWatchdogExpiry | bootStage0 | bootStage1
  | bootStage2 | bootStage3 | bootStage4 | bootStage5 | bootStage6 | bootStage7 | bootStage8 | bootStage9 | stageOverrun
  | stageWaitingReport | selftestSlice | screeBinTick | screeGenerationWrite | deviceStatus | subscribe | portMode | addrSet
  | ptpSet | reinstate | dieReset | deviceReset | shutdown | partCreate | partDelete | partReserve | partWindows | partMemory
  | partRekey | mbxBind | mbxUnbind | partCm5 | partGoose | partReset | partStatus | imageLoad | jobStart | jobAbort
  | jobRestart | jobStatus | bucketOpen | bucketClose | bucketQuery | peerTable | regionRegister | regionDeregister
  | qpCreate | qpDestroy | recvPost | memWrite | memRead | countersRead | coreStateRead | screeRead | dumpRead | spoilRead
  | soundingCfg | attest | identityRead | macsecSa | stewardKeySet | fwUpdate | fwActivate | lifecycle | meterRecords
  | meterAudit | meterIdentity | commandTimeout | cmConnectRequest | localAckTimeout | rnrRetryTimer | cnp | cnpRateTimer
  | jtagIdcode | jtagBypass | settlementClose | meterWatchdogExpiry | pwrLimitRead | deviceResetBegin | ouvosRestartEnd
  | unsupportedRequest | meterTestAccessOpen =>
    exact nextOrAbsent_next _
  | ptpMasterTimeout | meterSample | ballastChip | ballastCalibration | meterCommit | meterVddLow | meterClkFault
  | mtrCfgWrite | mtrTimeWrite | meterReset | fwCommit =>
    exact nextOrAbsent_next_ite _ _
  | neighbourEntryAgeing => exact nextOrAbsent_execNeighbourEntryAgeing ..
  | tapFrame => exact nextOrAbsent_execTapFrame ..
  | tapGapTimeout => exact nextOrAbsent_execTapGapTimeout ..
  | calibrationStale => exact nextOrAbsent_execCalibrationStale ..
  | meterPowerOn => exact nextOrAbsent_execMeterPowerOn ..
  | registerWrite => exact nextOrAbsent_execRegisterWrite ..
  | mtrLastAdvance => exact nextOrAbsent_execMtrLastAdvance ..

/-! ### What a step keeps -/

/-- `Ag` and `Ages` say the same of a state: `Ag` takes the meter's fuses apart from the rest. -/
theorem ages_of_ag {kk : Kept} {s : State} (h : Ag kk s) : Ages kk (keptOf s) where
  product := h.product
  pending := h.pending
  fwKey := h.fwKey
  serial := h.serial
  sealFuse := h.meter.sealFuse
  breakFuse := h.meter.breakFuse
  lc := h.lc
  rbOuvos := h.rbOuvos
  rbUcode := h.rbUcode

/-! ### The obligations -/

/-- Settles O3: every command answers in one of the ways above, none of which refuses. -/
theorem noCommandIsRefused : Obligations.NoCommandIsRefused := exec_nextOrAbsent

/-- Settles O4: a step carries out the front command or lets a cycle pass, and either only ages what is kept (`ag_step`). -/
theorem stepsOnlyAge : Obligations.StepsOnlyAge := fun _ _ h => ages_of_ag (ag_step h)

end Sys2Proof.Machine
end

section
/-! SUPPORT. The rules that the statements about command threads rest on: reading a core or a thread back after it was
written, and what a command that issues (R45, R49, R50, R57) makes of the state. -/

namespace Sys2Proof.Machine

/-! ### Reading back -/

@[simp] theorem getThread_setThread_same (c : Core) (t : Nat) (v : Thread) : getThread (setThread c t v) t = v :=
  tget_tset_same _ _ t v

@[simp] theorem getThread_modThread_same (c : Core) (t : Nat) (f : Thread → Thread) :
    getThread (modThread c t f) t = f (getThread c t) := getThread_setThread_same ..

@[simp] theorem getCore_modCore_same (s : State) (p : Nat) (f : Core → Core) : getCore (modCore s p f) p = f (getCore s p) :=
  getCore_setCore_same ..

@[simp] theorem thr_modCore_modThread (s : State) (p t : Nat) (f : Thread → Thread) :
    thr (modCore s p (fun c => modThread c t f)) p t = f (thr s p t) := by simp [thr]

@[simp] theorem thr_modCore_setCtr (s : State) (p t i : Nat) (k : SyncCtr) :
    thr (modCore s p (fun c => setCtr c i k)) p t = thr s p t := by simp [thr, setCtr, getThread]

/-- Two changes of a core are one when they agree on the core as it stands. -/
theorem modCore_congr {s : State} {p : Nat} {f g : Core → Core} (h : f (getCore s p) = g (getCore s p)) :
    modCore s p f = modCore s p g := congrArg (setCore s p) h

theorem tput_tput_same {α : Type} (t : Tbl α) (k : Nat) (v w : α) : tput (tput t k v) k w = tput t k w := by
  induction t with
  | nil => simp [tput]
  | cons e r ih =>
    obtain ⟨j, x⟩ := e
    simp only [tput]
    split
    · simp [tput]
    · split
      · simp [tput]
      · rename_i hne hlt
        simp [tput, hne, hlt, ih]

/-- Of two writes of a key the second stands, when neither is the value that an absent key reads as. -/
theorem tset_tset_same {α : Type} [DecidableEq α] {d : α} (t : Tbl α) (k : Nat) {v w : α} (hv : v ≠ d) (hw : w ≠ d) :
    tset d (tset d t k v) k w = tset d t k w := by
  simp only [tset, hv, hw, if_false, tput_tput_same]

/-! ### Existing units -/

theorem onUnit_true {ok : Bool} (s : State) (h : ok = true) : onUnit ok s = .next s := if_pos h

/-- A command whose unit exists, with its next state worked out. -/
theorem exec_of_onUnit {i : Instr} {s u s' : State} {ok : Bool} (h : ok = true) (hi : exec i s = onUnit ok u) (hu : u = s') :
    exec i s = .next s' := by
  rw [hi, onUnit_true _ h, hu]

theorem coreAndThread {s : State} {p t : Nat} (hc : coreOk s p = true) (ht : t < 16) :
    (coreOk s p && decide (t < 16)) = true := by simp [hc, ht]

/-! ### Issue -/

section Issue

variable {s : State} {p t op : Nat} {w : W64} {f : State → W64 → State}

/-- A command without reserved bits takes effect in the state in which its issue has been noted. -/
theorem issue_of_ready (hw : ready s p t (fun o => o == op) = some w) (hf : fieldsOk w = true) :
    issue s p t op f = f (noted s p t) w := by
  unfold issue
  rw [hw]
  exact if_pos hf

/-- A command with a reserved bit set traps in the state in which its issue has been noted (R50). -/
theorem issue_of_reserved (hw : ready s p t (fun o => o == op) = some w) (hf : fieldsOk w = false) :
    issue s p t op f = trapHere (noted s p t) p t causeBadField 0 w := by
  unfold issue
  rw [hw]
  exact if_neg (by simp [hf])

theorem issueOut_of_issues (h : Issues s p t op w) (f : State → W64 → State) :
    issueOut s p t op f = .next (f (noted s p t) w) := by
  rw [issueOut, onUnit_true _ (coreAndThread h.core h.thread), issue_of_ready h.picked h.fields]

/-- The same with the effect worked out: `i` is a command whose meaning is `issueOut`. -/
theorem exec_of_issues {i : Instr} {s' : State} (h : Issues s p t op w) (hi : exec i s = issueOut s p t op f)
    (hs : f (noted s p t) w = s') : exec i s = .next s' := by
  rw [hi, issueOut_of_issues h, hs]

end Issue

/-! ### Going on at an index -/

/-- An effect that leaves the thread untrapped, and then the index (R57). -/
theorem continueAt_inRange {s : State} {p t i : Nat} {f : State → State} (hi : inRange (thr s p t) i = true)
    (hf : (thr (f s) p t).state ≠ .trapped) : continueAt s p t i f = movedTo (f s) p t i := by
  have hi' : inRange (getThread (getCore s p) t) i = true := hi
  have hf' : ¬ (getThread (getCore (f s) p) t).state = .trapped := hf
  simp only [continueAt, hi', hf', if_true, if_false, movedTo]

/-- The same where nothing but the index changes. -/
theorem continueAt_id {s : State} {p t i : Nat} (hs : (thr s p t).state = .ready) (hi : inRange (thr s p t) i = true) :
    continueAt s p t i id = movedTo s p t i := continueAt_inRange hi (by simp [hs])

/-- The same where only the thread itself changes, and stays READY. -/
theorem continueAt_modThread {s : State} {p t i : Nat} {g : Thread → Thread} (hs : (g (thr s p t)).state = .ready)
    (hi : inRange (thr s p t) i = true) :
    continueAt s p t i (fun s => modCore s p (fun c => modThread c t g)) =
      movedTo (modCore s p (fun c => modThread c t g)) p t i :=
  continueAt_inRange hi (by simp [hs])

/-- An index outside the range traps, and the command has no effect (R57). -/
theorem continueAt_outOfRange {s : State} {p t i : Nat} {f : State → State} (hi : inRange (thr s p t) i = false) :
    continueAt s p t i f = trapHere s p t causePcRange 0 0 := by
  have hi' : inRange (getThread (getCore s p) t) i = false := hi
  simp only [continueAt, hi', Bool.false_eq_true, if_false]

end Sys2Proof.Machine
end

section
/-! SUPPORT. The thread's own commands: control, flow and loops (R46, R49, R50, R54 to R57). -/

namespace Sys2Proof.Machine

/-! ### Control and flow -/

/-- Settles O5: both continue at an index of the range with no effect of their own. -/
theorem nopAndJumpMoveTheThread : Obligations.NopAndJumpMoveTheThread := fun _ _ _ _ =>
  ⟨fun h hr => exec_of_issues h rfl (continueAt_id h.state hr), fun h hr => exec_of_issues h rfl (continueAt_id h.state hr)⟩

/-- Settles O6: the fields that `goTo` writes are the first four, and the buffer is filtered by the two rows. -/
theorem movingAThread : Obligations.MovingAThread := by
  intro th i
  refine ⟨rfl, rfl, rfl, ?_, ?_, rfl⟩
  · -- the row of `i` passes the filter, so the filtered buffer holds it exactly when the whole one does
    have hany : (th.fetch.filter (fun r => r.row == i / 8 || r.row == i / 8 + 1)).any (fun r => r.row == i / 8) =
        th.fetch.any (fun r => r.row == i / 8) := by
      rw [List.any_filter]
      congr 1
      funext r
      cases r.row == i / 8 <;> simp
    simp only [goTo, hany]
  · intro f
    simp [goTo]

theorem branchHolds_iff (cond v imm : Nat) : branchHolds cond v imm = true ↔ Taken cond v imm := by
  match cond with
  | 0 => simp [branchHolds, Taken]
  | 1 => simp [branchHolds, Taken]
  | 2 => simp [branchHolds, Taken]
  | 3 => simp [branchHolds, Taken]
  | 4 => simp [branchHolds, Taken]
  | 5 => simp [branchHolds, Taken]
  | n + 6 => simp [branchHolds, Taken]

/-- Settles O7: the counter has not faulted, so the comparison alone chooses between the two indices. -/
theorem branchOnACounter : Obligations.BranchOnACounter := by
  intro s p t w h hk
  refine ⟨fun ht j hj hr => ?_, fun ht hr => ?_⟩
  · have hb := (branchHolds_iff ..).2 ht
    have hn : ¬ ((thr (noted s p t) p t).pc : Int) + offsetOf w < 0 := by unfold offsetOf; omega
    have hj' : (((thr (noted s p t) p t).pc : Int) + offsetOf w).toNat = j := by unfold offsetOf; omega
    refine exec_of_issues h rfl ?_
    rw [← continueAt_id h.state hr, ← hj']
    exact (if_neg (by simp [syncIdOf, hk])).trans ((if_pos hb).trans (if_neg hn))
  · have hb : ¬ branchHolds (condOf w) (getCtr (getCore (noted s p t) p) (syncIdOf w)).value.toNat (branchImm w) = true :=
      mt (branchHolds_iff ..).1 ht
    refine exec_of_issues h rfl ?_
    rw [← continueAt_id h.state hr]
    exact (if_neg (by simp [syncIdOf, hk])).trans (if_neg hb)

/-- Settles O8: the depth of the call stack decides, and then the index is checked. -/
theorem callAndReturn : Obligations.CallAndReturn := by
  intro s p t w
  refine ⟨fun h => ⟨fun hd => ?_, fun hd hr => ?_⟩, fun h => ⟨fun he => ?_, fun i r he hr => ?_⟩⟩
  · exact exec_of_issues h rfl (if_pos hd)
  · refine exec_of_issues h rfl ((if_neg (Nat.not_le.2 hd)).trans ?_)
    exact continueAt_modThread h.state hr
  · have he' : (getThread (getCore (noted s p t) p) t).calls = [] := he
    exact exec_of_issues h rfl (by rw [he']; rfl)
  · have he' : (getThread (getCore (noted s p t) p) t).calls = i :: r := he
    refine exec_of_issues h rfl ?_
    rw [he']
    exact continueAt_modThread h.state hr

end Sys2Proof.Machine
end

section
/-! SUPPORT. Counted loops, synchronisation counters and waits (R54, R60 to R63, R67). -/

namespace Sys2Proof.Machine

/-! ### Loops (R54) -/

/-- The count that LOOP reads: its immediate, or the value of the counter that it names. -/
def loopCount (c : Core) (w : W64) : Nat := if cntSrc w then (getCtr c (fld w 7 0)).value.toNat else immOf w

/-- The state in which LOOP has written its count and start index into the register that it names. -/
def loopEntered (s : State) (p t n : Nat) (w : W64) : State :=
  modCore s p (fun c => modThread c t (fun th =>
    { th with lc := tset 0 th.lc (lcOf w) (BitVec.ofNat 32 n), lcStart := tset 0 th.lcStart (lcOf w) (th.pc + 1) }))

/-- LOOP with a count that it may read goes past its body, or into it. -/
theorem exec_loop {s : State} {p t n : Nat} {w : W64} (h : Issues s p t opLoop w)
    (hn : n = loopCount (getCore (noted s p t) p) w)
    (hk : ¬ (cntSrc w = true ∧ (getCtr (getCore (noted s p t) p) (fld w 7 0)).fault = true)) :
    exec (.loop p t) s = .next
      (if n = 0 then continueAt (noted s p t) p t ((thr (noted s p t) p t).pc + bodyOf w + 2) id
       else continueAt (noted s p t) p t ((thr (noted s p t) p t).pc + 1) (fun s => loopEntered s p t n w)) := by
  subst hn
  refine exec_of_issues h rfl ?_
  dsimp only
  rw [if_neg hk]
  rfl

/-- Settles O9: LOOP by its count, LOOP_END by the value of its register. -/
theorem countedLoops : Obligations.CountedLoops := by
  intro s p t w n
  refine ⟨fun h hn => ?_, fun h hn next hnext hr => ?_⟩
  · have hread : n = loopCount (getCore (noted s p t) p) w ∧
        ¬ (cntSrc w = true ∧ (getCtr (getCore (noted s p t) p) (fld w 7 0)).fault = true) := by
      rcases hn with ⟨rfl, hsrc⟩ | ⟨rfl, hsrc, hfault⟩
      · simp [loopCount, cntSrc, immOf, hsrc]
      · simp [loopCount, cntSrc, hsrc, hfault]
    obtain ⟨hcount, hk⟩ := hread
    refine ⟨fun h0 hr => ?_, fun h0 hr => ?_⟩
    · rw [exec_loop h hcount hk, if_pos h0]
      exact congrArg _ (continueAt_id h.state hr)
    · rw [exec_loop h hcount hk, if_neg h0]
      exact congrArg _ (continueAt_modThread h.state hr)
  · subst hn hnext
    exact exec_of_issues h rfl (continueAt_modThread h.state hr)

/-! ### What an update makes of a counter (R62, R63) -/

@[simp] theorem SyncCtr.at_value (k : SyncCtr) : k.at k.value.toNat = k := by
  simp [SyncCtr.at]

theorem SyncCtr.at_value_toNat (k : SyncCtr) {n : Nat} (hn : n < 2 ^ 32) : (k.at n).value.toNat = n :=
  BitVec.toNat_ofNat _ _ ▸ Nat.mod_eq_of_lt hn

/-- A faulted counter records no second fault. -/
theorem ctrFail_of_fault {k : SyncCtr} (h : k.fault = true) (excess : Bool) : ctrFail k excess = k := if_pos h

theorem ctrFail_of_good {k : SyncCtr} (h : k.fault = false) (excess : Bool) :
    ctrFail k excess = { k with fault := true, excess := excess } := if_neg (by simp [h])

@[simp] theorem ctrFail_fault (k : SyncCtr) (excess : Bool) : (ctrFail k excess).fault = true := by
  cases h : k.fault
  · rw [ctrFail_of_good h]
  · rw [ctrFail_of_fault h, h]

@[simp] theorem ctrFail_value (k : SyncCtr) (excess : Bool) : (ctrFail k excess).value = k.value := by
  unfold ctrFail; split <;> rfl

@[simp] theorem ctrFail_limit (k : SyncCtr) (excess : Bool) : (ctrFail k excess).limit = k.limit := by
  unfold ctrFail; split <;> rfl

/-- The form of every update: applied, the counter holds `n`; refused, the fault is recorded with its kind. -/
def updated (k : SyncCtr) (applies : Prop) [Decidable applies] (n : Nat) (excess : Bool) : SyncCtr × Bool :=
  if applies then (k.at n, true) else (ctrFail k excess, false)

theorem ctrAdd_eq (k : SyncCtr) (v : Nat) :
    ctrAdd k v = updated k (v = 0 ∨ k.fault = false ∧ k.value.toNat + v ≤ k.limit.toNat) (k.value.toNat + v) true := by
  by_cases h0 : v = 0
  · subst h0; simp [ctrAdd, updated]
  · cases hf : k.fault
    · by_cases hl : k.value.toNat + v ≤ k.limit.toNat
      · simp [ctrAdd, updated, h0, hf, hl, SyncCtr.at]
      · simp [ctrAdd, updated, h0, hf, hl, Nat.not_le.1 hl]
    · simp [ctrAdd, updated, h0, hf, ctrFail]

theorem ctrSub_eq (k : SyncCtr) (v : Nat) :
    ctrSub k v = updated k (k.fault = false ∧ v ≤ k.value.toNat) (k.value.toNat - v) false := by
  cases hf : k.fault
  · by_cases hl : v ≤ k.value.toNat
    · simp [ctrSub, updated, hf, hl, SyncCtr.at]
    · simp [ctrSub, updated, hf, hl, Nat.not_le.1 hl]
  · simp [ctrSub, updated, hf, ctrFail]

theorem ctrSet_eq (k : SyncCtr) (v : Nat) : ctrSet k v = updated k (k.fault = false ∧ v ≤ k.limit.toNat) v true := by
  cases hf : k.fault
  · by_cases hl : v ≤ k.limit.toNat
    · simp [ctrSet, updated, hf, hl, SyncCtr.at]
    · simp [ctrSet, updated, hf, hl, Nat.not_le.1 hl]
  · simp [ctrSet, updated, hf, ctrFail]

section Updated

variable {k : SyncCtr} {applies : Prop} [Decidable applies] {n : Nat} {excess : Bool}

theorem updated_of (h : applies) : updated k applies n excess = (k.at n, true) := if_pos h
theorem updated_of_not (h : ¬ applies) : updated k applies n excess = (ctrFail k excess, false) := if_neg h

@[simp] theorem updated_applied : (updated k applies n excess).2 = true ↔ applies := by
  unfold updated; split <;> simp [*]

@[simp] theorem updated_refused : (updated k applies n excess).2 = false ↔ ¬ applies := by
  unfold updated; split <;> simp [*]

/-- An applied update writes its exact value. -/
theorem updated_value (hn : applies → n < 2 ^ 32) (h : (updated k applies n excess).2 = true) :
    (updated k applies n excess).1.value.toNat = n := by
  have happ := updated_applied.1 h
  rw [updated_of happ]
  exact k.at_value_toNat (hn happ)

/-- An update keeps the limit; refused it keeps the value and the counter is faulted; applied it keeps the fault and its kind. -/
theorem updated_frame (r : SyncCtr × Bool) (hr : r = updated k applies n excess) :
    r.1.limit = k.limit ∧ (r.2 = false → r.1.value = k.value ∧ r.1.fault = true) ∧
    (r.2 = true → r.1.fault = k.fault ∧ r.1.excess = k.excess) := by
  subst hr
  by_cases h : applies
  · rw [updated_of h]; simp [SyncCtr.at]
  · rw [updated_of_not h]; simp

/-- The first fault of a counter records its kind. -/
theorem updated_excess (hk : k.fault = false) (h : (updated k applies n excess).2 = false) :
    (updated k applies n excess).1.excess = excess := by
  rw [updated_of_not (updated_refused.1 h), ctrFail_of_good hk]

end Updated

/-- Settles O11: each update has the form of `updated`, with a value below 2^32 where it applies. -/
theorem countersNeverWrap : Obligations.CountersNeverWrap := by
  intro k v hv
  have hval := k.value.isLt
  have hlim := k.limit.isLt
  simp only [ctrAdd_eq, ctrSub_eq, ctrSet_eq]
  refine ⟨updated_value (by omega), fun h => ?_, updated_value fun _ => hv, ?_, ?_, ?_, ?_, updated_excess, updated_excess⟩
  · have happ := updated_applied.1 h
    rw [updated_value (by omega) h]
    omega
  · rw [updated_refused]; cases k.fault <;> simp
  · rw [updated_refused]; cases k.fault <;> simp
  · rw [updated_refused]; cases k.fault <;> simp
  · rintro r (h | h | h)
    · exact updated_frame r h
    · exact updated_frame r h
    · exact updated_frame r h

/-! ### Counter updates of a thread -/

/-- An update that applies is written, and the thread goes on. -/
theorem syncCmd_applied {op p t n : Nat} {f : SyncCtr → Nat → SyncCtr × Bool} {s : State} {w : W64} {k : SyncCtr}
    (h : Issues s p t op w) (hk : k = getCtr (getCore (noted s p t) p) (syncIdOf w))
    (hr : inRange (thr (noted s p t) p t) ((thr (noted s p t) p t).pc + 1) = true) (hf : f k (immOf w) = (k.at n, true)) :
    syncCmd op p t f s = .next (movedTo (modCore (noted s p t) p (fun c => setCtr c (syncIdOf w) (k.at n))) p t
      ((thr (noted s p t) p t).pc + 1)) := by
  rw [syncCmd, issueOut_of_issues h]
  dsimp only
  rw [← hk, hf]
  exact congrArg _ (continueAt_inRange hr (by simp [writeCtr, h.state]))

/-- Settles O10: with the stated conditions each update applies, and an applied update is written as `syncCmd_applied` says. -/
theorem counterUpdates : Obligations.CounterUpdates := by
  rintro s p t w k hk hr wrote rfl
  refine ⟨fun h hf hl => ?_, fun h hok => ?_, fun h hf hl => ?_⟩
  · exact syncCmd_applied h hk hr ((ctrSet_eq ..).trans (updated_of ⟨hf, hl⟩))
  · exact syncCmd_applied h hk hr ((ctrAdd_eq ..).trans (updated_of hok))
  · exact syncCmd_applied h hk hr ((ctrSub_eq ..).trans (updated_of ⟨hf, hl⟩))

/-! ### Waits (R61, R67) -/

/-- The state in which thread `t` waits on the counter that `w` names; its watchdog runs from the first entry. -/
def waitingOn (s : State) (p t op : Nat) (w : W64) : State :=
  modCore s p (fun c => modThread c t (fun th =>
    { th with state := .waiting, waitSync := syncIdOf w, waitImm := BitVec.ofNat 32 (immOf w), waitOp := op, age := 0,
              waitFrom := th.waitFrom.or (some (coreNow s c)) }))

section WaitCmd

variable {op p t : Nat} {s : State} {w : W64} {k : SyncCtr}
  (h : Issues s p t op w) (hk : k = getCtr (getCore (noted s p t) p) (syncIdOf w)) (hf : k.fault = false)
  (hr : inRange (thr (noted s p t) p t) ((thr (noted s p t) p t).pc + 1) = true)
include h hk hf hr

/-- A WAIT on a counter that has not faulted, with its next index in range, is decided by its condition. -/
theorem waitCmd_eq : waitCmd op p t s = .next (if waitHolds op k.value.toNat (immOf w) then
    modCore (noted s p t) p (fun c => modThread (if op = opWaitTake then setCtr c (syncIdOf w) (ctrSub k (immOf w)).1 else c) t
      (fun th => goTo th (th.pc + 1)))
    else waitingOn (noted s p t) p t op w) := by
  subst hk
  have hr' : ¬ inRange (getThread (getCore (noted s p t) p) t) ((getThread (getCore (noted s p t) p) t).pc + 1) = false :=
    Bool.not_eq_false _ ▸ hr
  rw [waitCmd, issueOut_of_issues h]
  exact congrArg _ ((if_neg hr').trans (if_neg (by simp [hf])))

theorem waitCmd_waits (hc : waitHolds op k.value.toNat (immOf w) = false) :
    waitCmd op p t s = .next (waitingOn (noted s p t) p t op w) := by
  rw [waitCmd_eq h hk hf hr, if_neg (by simp [hc])]

theorem waitCmd_goesOn (hop : op ≠ opWaitTake) (hc : waitHolds op k.value.toNat (immOf w) = true) :
    waitCmd op p t s = .next (movedTo (noted s p t) p t ((thr (noted s p t) p t).pc + 1)) := by
  rw [waitCmd_eq h hk hf hr, if_pos hc]
  simp only [if_neg hop]
  rfl

theorem waitCmd_takes (hop : op = opWaitTake) (hc : waitHolds op k.value.toNat (immOf w) = true)
    (hn : immOf w ≤ k.value.toNat) :
    waitCmd op p t s = .next (modCore (noted s p t) p (fun c =>
      modThread (setCtr c (syncIdOf w) (k.at (k.value.toNat - immOf w))) t (fun th => goTo th ((thr (noted s p t) p t).pc + 1)))) := by
  rw [waitCmd_eq h hk hf hr, if_pos hc, ctrSub_eq, updated_of ⟨hf, hn⟩]
  simp only [if_pos hop]
  rfl

end WaitCmd

theorem waitHolds_of_ne {op v imm : Nat} (h : op ≠ opWaitEq) : waitHolds op v imm = decide (v ≥ imm) := if_neg h
theorem waitHolds_eq (v imm : Nat) : waitHolds opWaitEq v imm = (v == imm) := if_pos rfl

/-- Settles O12: each WAIT goes on or waits, by its condition. -/
theorem waits : Obligations.Waits := by
  rintro s p t w k th hk rfl hr hf waiting rfl
  have hge : opWaitGe ≠ opWaitEq := by decide
  have htake : opWaitTake ≠ opWaitEq := by decide
  refine ⟨fun h => ⟨fun hc => ?_, fun hc => ?_⟩, fun h => ⟨fun hc => ?_, fun hc => ?_⟩, fun h => ⟨fun hc => ?_, fun hc => ?_⟩⟩
  · exact waitCmd_goesOn h hk hf hr (by decide) ((waitHolds_of_ne hge).trans (decide_eq_true hc))
  · exact waitCmd_waits h hk hf hr ((waitHolds_of_ne hge).trans (decide_eq_false (Nat.not_le.2 hc)))
  · exact waitCmd_goesOn h hk hf hr (by decide) ((waitHolds_eq ..).trans (beq_iff_eq.2 hc))
  · exact waitCmd_waits h hk hf hr ((waitHolds_eq ..).trans (beq_eq_false_iff_ne.2 hc))
  · exact waitCmd_takes h hk hf hr rfl ((waitHolds_of_ne htake).trans (decide_eq_true hc)) hc
  · exact waitCmd_waits h hk hf hr ((waitHolds_of_ne htake).trans (decide_eq_false (Nat.not_le.2 hc)))

theorem waitHolds_iff (op : Nat) (v imm : W32) :
    waitHolds op v.toNat imm.toNat = true ↔ if op = opWaitEq then v = imm else v.toNat ≥ imm.toNat := by
  unfold waitHolds
  split <;> simp [BitVec.toNat_inj]

/-- Settles O13: the three events, each under the condition that its meaning asks for. -/
theorem waitEventsAndAgeing : Obligations.WaitEventsAndAgeing := by
  intro s p t hcore ht
  have hunit := coreAndThread hcore ht
  refine ⟨fun hst hrun hk hc => ?_, fun f hfrom hen hst hfrozen hstop hlate => ?_, fun hst hprio hage => ?_⟩
  · exact exec_of_onUnit hunit rfl (if_pos ⟨hst, hrun, hk, (waitHolds_iff ..).2 hc⟩)
  · have hfrom' : (getThread (getCore s p) t).waitFrom = some f := hfrom
    have hnot : isFrozen (getCore s p) = false := by rw [isFrozen, hfrozen]; rfl
    refine exec_of_onUnit hunit rfl ?_
    dsimp only
    rw [hfrom']
    exact if_pos ⟨hen, .inl hst, hnot, hstop, hlate⟩
  · refine exec_of_onUnit hunit rfl (modCore_congr ?_)
    exact congrArg (setThread (getCore s p) t) (if_pos ⟨hst, hprio, hage⟩)

end Sys2Proof.Machine
end

section
/-! SUPPORT. Engine issue, remote raises and traps (R44, R50, R51, R64, R68 to R70). -/

namespace Sys2Proof.Machine

/-! ### Engine issue (R51) -/

@[simp] theorem queueOf_withQueue (c : Core) (op : Nat) (q : List IssueOp) : queueOf (withQueue c op q) op = q := by
  unfold queueOf withQueue
  split
  · rfl
  · split
    · rfl
    · split <;> rfl

@[simp] theorem queueOf_setThread (c : Core) (op t : Nat) (v : Thread) : queueOf (setThread c t v) op = queueOf c op := rfl

@[simp] theorem getThread_withQueue (c : Core) (op t : Nat) (q : List IssueOp) : getThread (withQueue c op q) t = getThread c t := by
  unfold withQueue
  split
  · rfl
  · split
    · rfl
    · split <;> rfl

/-- A thread with one more operation out, on the engine that the opcode names. -/
def withOpOut (th : Thread) (op : Nat) (w : W64) : Thread :=
  { th with used := if th.used.contains (engineOf op) then th.used else engineOf op :: th.used, opsOut := th.opsOut + 1,
            lastOp := tset none th.lastOp (engineOf op) (some (fld w 14 0)) }

/-- One more operation out changes nothing but the count, the last operation and the engines used. -/
theorem withOpOut_frame (th : Thread) (op : Nat) (w : W64) :
    { withOpOut th op w with opsOut := (withOpOut th op w).opsOut - 1, used := th.used, lastOp := th.lastOp } = th := rfl

/-- The core whose thread `t` has issued the word at its index to the engine's queue and gone on. -/
def issuedCore (c : Core) (op t : Nat) (w : W64) : Core :=
  setThread (withQueue c op (queueOf c op ++ [{ thread := t, index := (getThread c t).pc, word := w }])) t
    (goTo (withOpOut (getThread c t) op w) ((getThread c t).pc + 1))

/-- Every ISSUE command is `issueEngine` for its opcode. -/
theorem exec_issueRow {p t : Nat} {e : Instr × Nat} (he : e ∈ issueRows p t) (s : State) : exec e.1 s = issueEngine e.2 p t s := by
  simp only [issueRows, List.mem_cons, List.not_mem_nil, or_false] at he
  rcases he with rfl | rfl | rfl | rfl | rfl
  · rfl
  · rfl
  · rfl
  · rfl
  · rfl

/-- An ISSUE with its next index in range stalls at a full queue, and else queues its operation. -/
theorem issueEngine_eq {op p t : Nat} {s : State} {w : W64} (h : Issues s p t op w)
    (hr : inRange (thr (noted s p t) p t) ((thr (noted s p t) p t).pc + 1) = true) :
    issueEngine op p t s = .next
      (if (queueOf (getCore (noted s p t) p) op).length ≥ queueDepth then
        modCore (noted s p t) p (fun c => modThread c t (fun th => { th with state := .stalled, age := 0 }))
       else setCore (noted s p t) p (issuedCore (getCore (noted s p t) p) op t w)) := by
  have hr' : ¬ inRange (getThread (getCore (noted s p t) p) t) (pcOf (noted s p t) p t + 1) = false := by
    rw [Bool.not_eq_false]; exact hr
  rw [issueEngine, issueOut_of_issues h]
  dsimp only
  rw [if_neg hr']
  simp only [modCore, modThread, getThread_withQueue]
  rfl

/-- Settles O14: the length of the queue decides between the two ends of `issueEngine_eq`. -/
theorem engineIssue : Obligations.EngineIssue := by
  intro s p t w e he h hr
  rw [exec_issueRow he, issueEngine_eq h hr]
  refine ⟨fun hfull => by rw [if_pos (show _ ≥ queueDepth from hfull)], fun hroom => ?_⟩
  rw [if_neg (show ¬ _ ≥ queueDepth from Nat.not_le.2 hroom)]
  refine ⟨issuedCore (getCore (noted s p t) p) e.2 t w, withOpOut (thr (noted s p t) p t) e.2 w, rfl, ?_, ?_, rfl, withOpOut_frame ..⟩
  · simp only [issuedCore, queueOf_setThread, queueOf_withQueue]; rfl
  · simp only [issuedCore, queueOf_setThread, queueOf_withQueue]; rfl

/-! ### Remote raises (R64) -/

/-- SYNC_ADD_REMOTE to a core of the partition, with its next index in range, stalls at 4 raises, and else sends its own. -/
theorem exec_syncAddRemote {s : State} {p t q own : Nat} {w : W64} {pt : Part} (h : Issues s p t opRemote w)
    (hhome : homeIn (noted s p t) p = some (q, pt, own)) (hn : coreIndexOf w < coresOf pt)
    (hr : inRange (thr (noted s p t) p t) ((thr (noted s p t) p t).pc + 1) = true) :
    exec (.syncAddRemote p t) s = .next
      (if raisesOf (getCore (noted s p t) p) t ≥ 4 then
        modCore (noted s p t) p (fun c => modThread c t (fun th => { th with state := .stalled, age := 0 }))
       else movedTo (sendRaise (noted s p t) p (logAt pt own) (logAt pt (coreIndexOf w)) (.thread t (thr (noted s p t) p t).pc)
        (coreIndexOf w) (syncIdOf w) (immOf w)) p t ((thr (noted s p t) p t).pc + 1)) := by
  have hr' : ¬ inRange (getThread (getCore (noted s p t) p) t) (pcOf (noted s p t) p t + 1) = false := by
    rw [Bool.not_eq_false]; exact hr
  refine exec_of_issues h rfl ?_
  dsimp only
  rw [hhome]
  dsimp only
  rw [if_neg hr', if_neg (Nat.not_le.2 hn)]
  rfl

/-- Settles O15: the count of unacknowledged raises decides at the issue; the time-out finds its raise by the tag. -/
theorem remoteRaises : Obligations.RemoteRaises := by
  refine ⟨fun s p t w q pt own h hhome hn hr => ?_, fun s p tag r t i hcore hfind hsrc hfrozen hstop hlate => ?_⟩
  · rw [exec_syncAddRemote h hhome hn hr]
    exact ⟨fun hfew => congrArg _ (if_neg (Nat.not_le.2 hfew)), fun hmany => congrArg _ (if_pos hmany)⟩
  · refine exec_of_onUnit hcore rfl ?_
    dsimp only
    rw [hfind]
    dsimp only
    rw [hsrc]
    exact if_pos ⟨hfrozen, hstop, hlate⟩

/-! ### REPLAY and HALT at issue -/

/-- The state in which thread `t` drains, to write the record of the command with opcode `op` (R44). -/
def draining (s : State) (p t op : Nat) : State :=
  modCore s p (fun c => modThread c t (fun th => { th with state := .draining, waitOp := op, age := 0 }))

/-- What REPLAY or HALT does as it issues: REPLAY checks its next index, and the record goes out when nothing is outstanding. -/
def drainEffect (op p t : Nat) (s : State) (w : W64) : State :=
  if op = opReplay ∧ inRange (getThread (getCore s p) t) (pcOf s p t + 1) = false then trapHere s p t causePcRange 0 0
  else if (getThread (getCore s p) t).opsOut = 0 then
    sendRecord (draining s p t op) p t (decide (op = opHalt)) (if decide (op = opHalt) then 0xFFFF else replayId w)
  else draining s p t op

/-- REPLAY and HALT issue as every command does, in a thread that does not drain already. -/
theorem drainCmd_issues {op p t : Nat} {s : State} (h : (thr s p t).state ≠ .draining) :
    drainCmd op p t s = issueOut s p t op (drainEffect op p t) := by
  have h' : ¬ (getThread (getCore s p) t).state = .draining := h
  unfold drainCmd issueOut
  dsimp only
  rw [if_neg h']
  rfl

/-! ### Traps at issue (R49, R50, R57) -/

/-- Every command of a thread that does not drain is an issue of its opcode. -/
theorem exec_threadRow {p t : Nat} {e : Instr × Nat} {s : State} (he : e ∈ threadRows p t) (h : (thr s p t).state ≠ .draining) :
    ∃ f, exec e.1 s = issueOut s p t e.2 f := by
  simp only [threadRows, List.cons_append, List.nil_append, List.mem_cons, List.not_mem_nil, or_false] at he
  rcases he with rfl | rfl | rfl | rfl | rfl | rfl | rfl | rfl | rfl | rfl | rfl | rfl | rfl | rfl | rfl | rfl | rfl | rfl | rfl |
    rfl | rfl
  case inl => exact ⟨_, drainCmd_issues h⟩
  case inr.inr.inl => exact ⟨_, drainCmd_issues h⟩
  all_goals exact ⟨_, rfl⟩

/-- Settles O16: no opcode, a reserved bit, and an index outside the range. -/
theorem trapsAtIssue : Obligations.TrapsAtIssue := by
  refine ⟨fun s p t w hcore ht hw => ?_, fun s p t w e he hcore ht hst hw hf => ?_,
    fun s p t w => ⟨fun h hr => ?_, fun h hr => ?_, fun h hd hr => ?_⟩⟩
  · refine exec_of_onUnit (coreAndThread hcore ht) rfl ?_
    rw [hw]
    rfl
  · obtain ⟨f, hrow⟩ := exec_threadRow he hst
    rw [hrow, issueOut, onUnit_true _ (coreAndThread hcore ht), issue_of_reserved hw hf]
    rfl
  · exact exec_of_issues h rfl (continueAt_outOfRange hr)
  · exact exec_of_issues h rfl (continueAt_outOfRange hr)
  · exact exec_of_issues h rfl ((if_neg (Nat.not_le.2 hd)).trans (continueAt_outOfRange hr))

/-! ### What a trap leaves (R69, R70) -/

theorem setCore_setCore_same (s : State) (p : Nat) {c c' : Core} (h : c ≠ {}) (h' : c' ≠ {}) :
    setCore (setCore s p c) p c' = setCore s p c' := by
  simp only [setCore, tset_tset_same _ _ h h']

/-- The record of a thread's first fault (R70). -/
def firstTrap (s : State) (p t cause : Nat) (w : Why) : TrapRec :=
  { cause := cause, precise := w.precise, who := (logOf s p).getD 0 + 4096 * t, phys := p,
    opTag := w.opTag, index := w.index, part := ((indexOf s p).map (·.1)).getD 0,
    syncId := if cause = causeUnder ∨ cause = causeOver ∨ cause = causeRemote then w.syncId else 0,
    detail := w.detail, time := devNs s }

/-- The thread that has taken a trap with record `r`. -/
def trappedWith (r : TrapRec) (cause : Nat) (th : Thread) : Thread :=
  { th with state := .trapped, cause := cause, trap := some r, age := 0, waitFrom := none }

theorem trap_of_idle {s : State} {p t : Nat} (h : (thr s p t).state = .idle) (cause : Nat) (w : Why) : trap s p t cause w = s := by
  have h' : (getThread (getCore s p) t).state = .idle := h
  unfold trap
  dsimp only
  rw [h']

/-- The first fault of a thread at work. -/
theorem trap_first {s : State} {p t : Nat} (hi : (thr s p t).state ≠ .idle) (ht : (thr s p t).state ≠ .trapped) (cause : Nat)
    (w : Why) : trap s p t cause w =
      modDie (setCore s p { modThread (getCore s p) t (trappedWith (firstTrap s p t cause w) cause) with
        idleFrom := some (coreNow s (getCore s p)) }) (dieOf p) (fun d => postEntry d (.trap (firstTrap s p t cause w))) := by
  have hi' : (getThread (getCore s p) t).state ≠ .idle := hi
  have ht' : (getThread (getCore s p) t).state ≠ .trapped := ht
  unfold trap
  dsimp only
  cases hs : (getThread (getCore s p) t).state
  case idle => exact absurd hs hi'
  case trapped => exact absurd hs ht'
  all_goals rfl

/-- A core with a trapped thread is not as a core at reset. -/
theorem modThread_trapped_ne_reset (c : Core) (t : Nat) (r : TrapRec) (cause : Nat) : modThread c t (trappedWith r cause) ≠ {} := by
  intro h
  have hst : (getThread (modThread c t (trappedWith r cause)) t).state = .trapped := by rw [getThread_modThread_same]; rfl
  rw [h, show (getThread {} t).state = .idle from rfl] at hst
  exact ThreadState.noConfusion hst

/-- Settles O17: the record is `firstTrap`; the thread and `idleFrom` are of one core, so two writes of it are one. -/
theorem aTrapStopsItsThread : Obligations.ATrapStopsItsThread := by
  intro s p t cause w
  refine ⟨fun h => trap_of_idle h cause w, fun hi ht => ⟨firstTrap s p t cause w, rfl, rfl, rfl, rfl, rfl, rfl, rfl, rfl, ?_⟩⟩
  have hne := modThread_trapped_ne_reset (getCore s p) t (firstTrap s p t cause w) cause
  have hne' : { modThread (getCore s p) t (trappedWith (firstTrap s p t cause w) cause) with
      idleFrom := some (coreNow s (getCore s p)) } ≠ ({} : Core) := fun h => by
    have hfrom := congrArg Core.idleFrom h
    exact absurd hfrom (by simp)
  rw [trap_first hi ht, ← setCore_setCore_same s p hne hne']
  simp only [modCore, getCore_setCore_same]
  rfl

end Sys2Proof.Machine
end

section
/-! SUPPORT. Replay records: the two commands that write one, and the layout of its 128 bytes (R58, R59, R232). -/

namespace Sys2Proof.Machine

/-! ### What becomes of a record -/

theorem finishRecord_halts (s : State) (p t : Nat) : finishRecord s p t true =
    jobCheckAt (modCore (modCore s p (fun c => modThread c t (fun th =>
      { th with state := .halted, altSlot := !th.altSlot, age := 0, used := [] }))) p (fun c => closeOwned c t)) p := rfl

theorem finishRecord_goesOn (s : State) (p t : Nat) : finishRecord s p t false =
    stir (modCore s p (fun c => modThread c t (fun th => goTo { th with altSlot := !th.altSlot, used := [] } (th.pc + 1)))) p := rfl

theorem failRecord_eq (s : State) (p t : Nat) :
    failRecord s p t = jobCheckAt (trap s p t causeReplay { precise := false, index := (thr s p t).pc }) p := rfl

/-- The partition address of a thread's next record: the slot whose turn it is, in its area (R66). -/
def recordSlot (th : Thread) : Nat := replayArea th + if th.altSlot then 128 else 0

/-- The record that a draining thread writes. -/
def threadRecord (s : State) (p t job : Nat) (halts : Bool) (rid : Nat) : List Byte :=
  replayRecord (thr s p t) t rid (if halts then (thr s p t).pc else (thr s p t).pc + 1) (devNs s) job

section SendRecord

variable {s : State} {p t q own : Nat} {pt : Part} (hhome : homeIn s p = some (q, pt, own)) (hiso : pt.isolate = none)
include hhome hiso

/-- A slot that the partition may not write. -/
theorem sendRecord_fails (halts : Bool) (rid : Nat) (hbad : (firstBad pt true (recordSlot (thr s p t)) 128).isSome = true) :
    sendRecord s p t halts rid = failRecord s p t := by
  have hiso' : ¬ pt.isolate.isSome = true := by simp [hiso]
  unfold sendRecord
  dsimp only
  rw [hhome]
  exact (if_neg hiso').trans (if_pos hbad)

/-- A slot in the core's own memory. -/
theorem sendRecord_own (halts : Bool) (rid : Nat) (hok : firstBad pt true (recordSlot (thr s p t)) 128 = none)
    (hpos : (placeOf pt (dieOf p) (recordSlot (thr s p t))).pos = logAt pt own) :
    sendRecord s p t halts rid = finishRecord (modCore s p (fun c =>
      writeCore c (placeOf pt (dieOf p) (recordSlot (thr s p t))).addr (threadRecord s p t pt.job halts rid))) p t halts := by
  have hiso' : ¬ pt.isolate.isSome = true := by simp [hiso]
  have hok' : ¬ (firstBad pt true (recordSlot (thr s p t)) 128).isSome = true := by simp [hok]
  unfold sendRecord
  dsimp only
  rw [hhome]
  exact (if_neg hiso').trans ((if_neg hok').trans (if_pos hpos))

/-- A slot elsewhere: a write transfer under the lowest free tag. -/
theorem sendRecord_elsewhere (halts : Bool) (rid : Nat) {tag : Nat} (hok : firstBad pt true (recordSlot (thr s p t)) 128 = none)
    (hpos : (placeOf pt (dieOf p) (recordSlot (thr s p t))).pos ≠ logAt pt own) (htag : freeTag (getCore s p) = some tag) :
    sendRecord s p t halts rid = sendCells (modCore s p (fun c => { c with
        records := c.records ++ [{ tag := tag, thread := t, halts := halts, sentAt := coreNow s (getCore s p) }] })) (logAt pt own)
      (mkCell 0x02 32 (placeOf pt (dieOf p) (recordSlot (thr s p t))).pos (logAt pt own) tag
          (openerBytes (placeOf pt (dieOf p) (recordSlot (thr s p t))).addr 4 0 128 0 0 (logAt pt own) 0 0) ::
        dataCells 0x01 (placeOf pt (dieOf p) (recordSlot (thr s p t))).pos (logAt pt own) tag 4 (threadRecord s p t pt.job halts rid)) := by
  have hiso' : ¬ pt.isolate.isSome = true := by simp [hiso]
  have hok' : ¬ (firstBad pt true (recordSlot (thr s p t)) 128).isSome = true := by simp [hok]
  unfold sendRecord
  dsimp only
  rw [hhome]
  refine (if_neg hiso').trans ((if_neg hok').trans ((if_neg hpos).trans ?_))
  rw [htag]
  rfl

end SendRecord

/-! ### The two commands -/

/-- REPLAY or HALT: the meaning that they share, whether it halts, and which of them checks its next index. -/
theorem exec_recordRow {p t : Nat} {e : Instr × Nat × Bool} (he : e ∈ recordRows p t) (s : State) :
    exec e.1 s = drainCmd e.2.1 p t s ∧ decide (e.2.1 = opHalt) = e.2.2 ∧ (e.2.1 = opReplay → e.2.2 = false) := by
  simp only [recordRows, List.mem_cons, List.not_mem_nil, or_false] at he
  rcases he with rfl | rfl
  · exact ⟨rfl, rfl, fun _ => rfl⟩
  · exact ⟨rfl, rfl, fun h => absurd h (show ¬ opHalt = opReplay by decide)⟩

/-- The thread drains, and its record goes out when no operation of it is outstanding. -/
theorem drainEffect_inRange {op p t : Nat} {s : State} (w : W64)
    (hr : op = opReplay → inRange (thr s p t) ((thr s p t).pc + 1) = true) :
    drainEffect op p t s w = if (thr s p t).opsOut = 0 then
      sendRecord (draining s p t op) p t (decide (op = opHalt)) (if decide (op = opHalt) then 0xFFFF else replayId w)
    else draining s p t op := by
  refine if_neg ?_
  rintro ⟨hop, hout⟩
  exact Bool.false_ne_true (hout.symm.trans (hr hop))

/-- A later run of the command acts on the answer that the record has had. -/
theorem drainCmd_answered {op p t : Nat} {s : State} {r : RecordWrite} (hcore : coreOk s p = true) (ht : t < 16)
    (hst : (thr s p t).state = .draining) (hop : (thr s p t).waitOp = op) (hout : (thr s p t).opsOut = 0) (hrun : runs s p = true)
    (hfind : (getCore s p).records.find? (fun r => r.thread == t) = some r) : drainCmd op p t s = .next (settleRecord s p r) := by
  have hgo : (getThread (getCore s p) t).waitOp = op ∧ (getThread (getCore s p) t).opsOut = 0 ∧ runs s p = true := ⟨hop, hout, hrun⟩
  have hst' : (getThread (getCore s p) t).state = .draining := hst
  rw [drainCmd, onUnit_true _ (coreAndThread hcore ht)]
  dsimp only
  rw [if_pos hst', if_pos hgo, hfind]

/-- The state in which an answered record has been taken out; after the status 2 its tag is held (R231). -/
def recordTaken (s : State) (p : Nat) (r : RecordWrite) (st : Nat) : State :=
  modCore s p (fun c => { c with records := c.records.erase r
                                 held := if st = 2 then tset none c.held r.tag (some (s.fab + holdTime c)) else c.held })

theorem settleRecord_done {s : State} {p : Nat} {r : RecordWrite} (ha : r.answer = some 0)
    (hst : (thr s p r.thread).state = .draining) : settleRecord s p r = finishRecord (recordTaken s p r 0) p r.thread r.halts := by
  unfold settleRecord
  rw [ha]
  exact (if_neg (by simp)).trans (if_pos hst)

theorem settleRecord_refused {s : State} {p st : Nat} {r : RecordWrite} (ha : r.answer = some st) (hst : st ≠ 0) :
    settleRecord s p r = failRecord (recordTaken s p r st) p r.thread := by
  unfold settleRecord
  rw [ha]
  exact if_pos hst

/-- Settles O18: the issue drains the thread, `sendRecord` places the record, and `settleRecord` acts on the answer. -/
theorem replayAndHalt : Obligations.ReplayAndHalt := by
  rintro s p t e he finished failed hfin rfl
  obtain ⟨hexec, hhalts, hreplay⟩ := exec_recordRow he s
  have hfinish : ∀ u th, finishRecord u p t e.2.2 = finished u th := by
    intro u th
    subst hfin
    cases e.2.2
    · exact finishRecord_goesOn u p t
    · exact finishRecord_halts u p t
  refine ⟨?_, ?_⟩
  · rintro w d th h hst hr rfl rfl
    have hi : exec e.1 s = issueOut s p t e.2.1 (drainEffect e.2.1 p t) := hexec.trans (drainCmd_issues hst)
    have heff := drainEffect_inRange (op := e.2.1) w (fun hop => hr (hreplay hop))
    refine ⟨fun hout => exec_of_issues h hi (heff.trans (if_neg hout)), fun q pt own a l hout hhome hiso ha hl => ?_⟩
    subst ha hl
    have hsend : drainEffect e.2.1 p t (noted s p t) w =
        sendRecord (draining (noted s p t) p t e.2.1) p t e.2.2 (if e.2.2 then 0xFFFF else replayId w) := by
      rw [heff, if_pos hout, hhalts]
    refine ⟨fun hbad => ?_, fun hok hpos => ?_, fun tag hok hpos htag => ?_⟩
    · exact exec_of_issues h hi (hsend.trans (sendRecord_fails hhome hiso _ _ hbad))
    · exact exec_of_issues h hi ((hsend.trans (sendRecord_own hhome hiso _ _ hok hpos)).trans (hfinish _ _))
    · exact exec_of_issues h hi (hsend.trans (sendRecord_elsewhere hhome hiso _ _ hok hpos htag))
  · rintro r st u hcore ht hst hop hout hrun hfind hrh ha rfl
    obtain rfl : r.thread = t := by simpa using List.find?_some hfind
    rw [hexec, drainCmd_answered hcore ht hst hop hout hrun hfind]
    refine ⟨?_, fun hne => ?_⟩
    · rintro rfl
      rw [settleRecord_done ha hst, hrh]
      exact congrArg _ (hfinish _ _)
    · exact congrArg _ ((settleRecord_refused ha hne).trans (failRecord_eq ..))

/-! ### The layout (R58) -/

theorem leBytes_length (n v : Nat) : (leBytes n v).length = n := by
  induction n generalizing v with
  | zero => rfl
  | succ n ih => simp [leBytes, ih]

/-- The fields of a replay record before its CRC-32C, in the order of R58. -/
def replayFields (th : Thread) (t rid resume time job : Nat) : List (List Byte) :=
  [leBytes 2 rid, leBytes 1 t, leBytes 1 th.calls.length, leBytes 4 resume] ++
  (List.range 4).map (fun i => leBytes 4 (tget (0 : W32) th.lc i).toNat) ++
  (List.range 4).map (fun i => leBytes 4 (tget 0 th.lcStart i)) ++
  (List.range 8).map (fun i => leBytes 4 (th.calls.reverse.getD i 0)) ++ [leBytes 8 time, leBytes 8 job, zeros 36]

/-- The widths of those fields in bytes. -/
def replayWidths : List Nat := [2, 1, 1, 4] ++ List.replicate 16 4 ++ [8, 8, 36]

section Layout

variable (th : Thread) (t rid resume time job : Nat)

theorem replayFields_widths : (replayFields th t rid resume time job).map List.length = replayWidths := by
  simp [replayFields, replayWidths, leBytes_length, zeros, Function.comp_def, List.map_const', List.replicate_succ]

theorem replayFields_flatten_length : (replayFields th t rid resume time job).flatten.length = 124 := by
  rw [List.length_flatten, replayFields_widths]
  rfl

theorem replayRecord_eq : replayRecord th t rid resume time job =
    (replayFields th t rid resume time job).flatten ++ leBytes 4 (crc32c (replayFields th t rid resume time job).flatten).toNat := by
  have hb : (replayFields th t rid resume time job).flatten =
      leBytes 2 rid ++ leBytes 1 t ++ leBytes 1 th.calls.length ++ leBytes 4 resume ++
      (List.range 4).flatMap (fun i => leBytes 4 (tget (0 : W32) th.lc i).toNat) ++
      (List.range 4).flatMap (fun i => leBytes 4 (tget 0 th.lcStart i)) ++
      (List.range 8).flatMap (fun i => leBytes 4 (th.calls.reverse.getD i 0)) ++ leBytes 8 time ++ leBytes 8 job ++ zeros 36 := by
    simp only [replayFields, List.flatten_append, List.flatMap_def, List.flatten_cons, List.flatten_nil, List.append_assoc,
      List.append_nil]
  rw [hb]
  rfl

/-- Field `i` stands behind the fields before it. -/
theorem replayRecord_field (i off n : Nat) (f : List Byte) (hf : (replayFields th t rid resume time job)[i]? = some f)
    (hoff : (replayWidths.take i).sum = off) (hn : (replayWidths.take (i + 1)).sum = off + n) :
    ((replayRecord th t rid resume time job).drop off).take n = f := by
  obtain ⟨hi, rfl⟩ := List.getElem?_eq_some_iff.1 hf
  have hfield := List.drop_take_succ_flatten_eq_getElem (replayFields th t rid resume time job) i hi
  rw [replayFields_widths, hoff, hn, List.drop_take, Nat.add_sub_cancel_left] at hfield
  have hle : off + n ≤ 124 := hn ▸ (List.take_sublist (i + 1) replayWidths).sum_le_sum (fun _ _ => Nat.zero_le _)
  rw [replayRecord_eq, List.drop_append_of_le_length (by rw [replayFields_flatten_length]; omega),
    List.take_append_of_le_length (by rw [List.length_drop, replayFields_flatten_length]; omega), hfield]

/-- The sixteen 4-byte fields stand from byte 8 on. -/
theorem replayRecord_word (i : Nat) (hi : i < 16) (f : List Byte) (hf : (replayFields th t rid resume time job)[4 + i]? = some f) :
    ((replayRecord th t rid resume time job).drop (8 + 4 * i)).take 4 = f := by
  have hsums : ∀ i < 16, (replayWidths.take (4 + i)).sum = 8 + 4 * i ∧ (replayWidths.take (4 + i + 1)).sum = 8 + 4 * i + 4 := by
    decide
  exact replayRecord_field _ _ _ _ _ _ _ _ _ f hf (hsums i hi).1 (hsums i hi).2

theorem replayFields_loop {i : Nat} (hi : i < 4) :
    (replayFields th t rid resume time job)[4 + i]? = some (leBytes 4 (tget (0 : W32) th.lc i).toNat) ∧
    (replayFields th t rid resume time job)[4 + (4 + i)]? = some (leBytes 4 (tget 0 th.lcStart i)) := by
  interval_cases i <;> exact ⟨rfl, rfl⟩

theorem replayFields_call {i : Nat} (hi : i < 8) :
    (replayFields th t rid resume time job)[4 + (8 + i)]? = some (leBytes 4 (th.calls.reverse.getD i 0)) := by
  interval_cases i <;> rfl

end Layout

/-- Settles O19: each field by its place in `replayFields`, and the CRC-32C behind their 124 bytes. -/
theorem replayRecordLayout : Obligations.ReplayRecordLayout := by
  rintro th t rid resume time job b rfl
  have hlen := replayFields_flatten_length th t rid resume time job
  have hfield := replayRecord_field th t rid resume time job
  have hword := replayRecord_word th t rid resume time job
  refine ⟨?_, hfield 0 0 2 _ rfl rfl rfl, hfield 1 2 1 _ rfl rfl rfl, hfield 2 3 1 _ rfl rfl rfl, hfield 3 4 4 _ rfl rfl rfl,
    fun i hi => ⟨?_, ?_⟩, fun i hi => ?_, hfield 20 72 8 _ rfl rfl rfl, hfield 21 80 8 _ rfl rfl rfl,
    hfield 22 88 36 _ rfl rfl rfl, ?_⟩
  · rw [replayRecord_eq, List.length_append, hlen, leBytes_length]
  · exact hword i (by omega) _ (replayFields_loop th t rid resume time job hi).1
  · rw [show 24 + 4 * i = 8 + 4 * (4 + i) by omega]
    exact hword (4 + i) (by omega) _ (replayFields_loop th t rid resume time job hi).2
  · rw [show 40 + 4 * i = 8 + 4 * (8 + i) by omega]
    exact hword (8 + i) (by omega) _ (replayFields_call th t rid resume time job hi)
  · rw [replayRecord_eq, List.drop_left' hlen, List.take_left' hlen]

end Sys2Proof.Machine
end

section
/-! SUPPORT. Fetch, held records, completion of engine operations, and reset values (R28, R46, R53, R65, R466). -/

namespace Sys2Proof.Machine

/-! ### Fetch and held records (R28, R46, R147) -/

/-- A read of core memory that meets no uncorrectable word answers the bytes; single-bit errors it corrects. -/
theorem readCore_of_noBadWord {s : State} {p a n : Nat} (h : badWord (getCore s p).bad a n = none) :
    readCore s p a n = ((readCore s p a n).1, some (readBytes (getCore s p).mem a n)) := by
  unfold readCore
  simp only [h]

/-- Settles O20: the row that the thread lacks is read, and the oldest held record is taken while the ring has room. -/
theorem fetchAndHeldRecords : Obligations.FetchAndHeldRecords := by
  refine ⟨fun s p t r hcore ht hst hrun hrow hgood => ?_, fun s d e r hd hheld hroom => ?_⟩
  · have hrow' : wantedRow (getThread (getCore s p) t) = some r := hrow
    refine exec_of_onUnit (coreAndThread hcore ht) rfl ((if_pos ⟨hst, hrun⟩).trans ?_)
    rw [hrow']
    dsimp only
    rw [readCore_of_noBadWord hgood]
  · refine exec_of_onUnit hd rfl ?_
    dsimp only
    rw [hheld]
    exact if_pos hroom

/-! ### Completion (R53, R91, R120) -/

/-- TE_OP_COMPLETE for an operation that took no poisoned word. -/
theorem exec_teOpComplete {s u : State} {core i : Nat} {o : TeOp} (hcore : coreOk s core = true) (hrun : runs s core = true)
    (hfind : (teOps s core).find? teDone = some o) (hix : (teOps s core).findIdx? teDone = some i) (hp : o.poison = false)
    (hm : o.merged.any (fun w => w.poison) = false)
    (hu : u = opDone (reportFlags (clearAfter (modCore s core (fun c => { c with te := { c.te with ops := c.te.ops.eraseIdx i } })) core o)
      core o.op (tilePos o.desc o.sat) (tilePos o.desc o.inf) none 0) core o.op) :
    exec (.teOpComplete core) s = .next (jobCheckAt (match o.fault with
      | none => u
      | some (c, w) => if o.trapped then u else trapOp u core o.op c 0 w) core) := by
  have hgood : (o.poison || o.merged.any (·.poison)) = false := by rw [hp, hm]; rfl
  subst hu
  refine exec_of_onUnit hcore rfl ?_
  dsimp only
  rw [hfind]
  dsimp only
  rw [hrun, hix, hgood]
  rfl

/-- VE_OP_COMPLETE for a computed operation whose words have left and that took no poisoned word. -/
theorem exec_veOpComplete {s u : State} {core : Nat} {o : VeOp} (hcore : coreOk s core = true) (hrun : runs s core = true)
    (hcur : (getCore s core).ve.cur = some o) (hc : o.computed = true) (ho : o.out = []) (hoc : o.outC = []) (hp : o.poison = none)
    (hq : o.quantSrc = false)
    (hu : u = opDone (reportFlags (setCur s core none) core o.op o.sat o.inf o.nan (flagSrc (vPrim o.desc))) core o.op) :
    exec (.veOpComplete core) s = .next (jobCheckAt (match o.fault with
      | none => u
      | some (c, w) => trapOp u core o.op c 0 w) core) := by
  subst hu
  refine exec_of_onUnit hcore rfl ?_
  rw [hcur]
  dsimp only
  rw [hrun, hc, ho, hoc, hp, hq]
  rfl

/-- Settles O25: what follows the completion depends on the fault that the operation met. -/
theorem engineOperationsComplete : Obligations.EngineOperationsComplete := by
  refine ⟨fun s core i o u hcore hrun hfind hix hp hm hu => ?_, fun s core o u hcore hrun hcur hc ho hoc hp hq hu => ?_⟩
  · have hexec := exec_teOpComplete hcore hrun hfind hix hp hm hu
    exact ⟨fun hf => by rw [hexec, hf], fun c w hf => by rw [hexec, hf]⟩
  · have hexec := exec_veOpComplete hcore hrun hcur hc ho hoc hp hq hu
    exact ⟨fun hf => by rw [hexec, hf], fun c w hf => by rw [hexec, hf]⟩

/-! ### Reset values -/

@[simp] theorem getCore_deviceReset (s : State) (p : Nat) : getCore (deviceReset s) p = getCore State.reset p := rfl
@[simp] theorem pwrClamp_reset (p : Nat) : pwrClamp State.reset p = 0 := rfl
@[simp] theorem pwrClamp_deviceReset (s : State) (p : Nat) : pwrClamp (deviceReset s) p = 0 := rfl

/-- Settles O60: every table is empty, so each entry reads as its reset value. -/
theorem resetValues : Obligations.ResetValues := by
  refine ⟨?_, fun _ => rfl, rfl, rfl, rfl, rfl, rfl, rfl, fun _ => rfl, rfl, rfl, rfl, rfl,
    fun s p => ⟨getCore_deviceReset s p, pwrClamp_deviceReset s p⟩⟩
  rintro p c rfl
  rw [reset_core]
  refine ⟨fun _ => rfl, ?_, rfl, fun _ => rfl, rfl, rfl, fun _ => rfl, rfl, rfl, rfl, rfl, rfl, rfl, fun _ => ⟨rfl, rfl⟩,
    fun _ => ⟨rfl, rfl⟩, ?_, ?_, ?_, ?_, ?_, fun _ => rfl, rfl, rfl, rfl, pwrClamp_reset p⟩
  · rintro t r rfl
    exact ⟨rfl, rfl, rfl, rfl, rfl, fun _ => rfl, rfl, rfl, rfl, rfl, rfl, rfl⟩
  · rintro k v rfl
    exact ⟨rfl, rfl, rfl, rfl, rfl, rfl⟩
  · rintro k v rfl
    exact ⟨rfl, rfl, rfl, rfl⟩
  · rintro k v rfl
    exact ⟨rfl, rfl, rfl⟩
  · rintro k v rfl
    exact ⟨rfl, rfl, rfl, rfl, rfl⟩
  · rintro w i rfl
    exact ⟨rfl, rfl, rfl, rfl⟩

end Sys2Proof.Machine
end

section
/-! SUPPORT. The arithmetic of a K-block step (R83, R84): what one addition does to an element, and what the 1,024
additions of a block do to the tile. -/

namespace Sys2Proof.Machine

/-! ### One addition -/

/-- The overflow mark that adding the shifted partial `v` to an element of value `x` gives: 2 and 1 for a first result below
and above the INT32 range, 0 for none (R84). -/
def overflowMark (x v : Int) : Nat :=
  if v < -(2 ^ 31) then 2 else if v ≥ 2 ^ 31 then 1 else if x + v < -(2 ^ 31) then 2 else if x + v ≥ 2 ^ 31 then 1 else 0

section AddElem

variable (t : Tile) (k : Nat) (v : Int)

@[simp] theorem addElem_bad : (addElem t k v).bad = t.bad := rfl

theorem addElem_val_same : tget 0 (addElem t k v).val k = tget 0 t.val k + BitVec.ofInt 32 v := by
  simp [addElem, BitVec.ofInt_add]

theorem addElem_val_other {j : Nat} (hj : j ≠ k) : tget 0 (addElem t k v).val j = tget 0 t.val j :=
  tget_tset_other _ _ _ hj

/-- Only an element without a mark takes one, and only when a result lies outside the INT32 range. -/
theorem addElem_ovf : (addElem t k v).ovf =
    if overflowMark (tget 0 t.val k).toInt v ≠ 0 ∧ tget 0 t.ovf k = 0 then
      tset 0 t.ovf k (overflowMark (tget 0 t.val k).toInt v) else t.ovf := by
  simp only [addElem, beyond32, overflowMark]
  grind

theorem addElem_ovf_of_set (h : tget 0 t.ovf k ≠ 0) : (addElem t k v).ovf = t.ovf := by
  rw [addElem_ovf, if_neg (fun hk => h hk.2)]

theorem addElem_ovf_of_unset (h : tget 0 t.ovf k = 0) :
    tget 0 (addElem t k v).ovf k = overflowMark (tget 0 t.val k).toInt v := by
  rw [addElem_ovf]
  split
  · exact tget_tset_same ..
  · rename_i hmark
    rw [h, eq_comm]
    exact not_not.1 (fun hne => hmark ⟨hne, h⟩)

theorem addElem_ovf_other {j : Nat} (hj : j ≠ k) : tget 0 (addElem t k v).ovf j = tget 0 t.ovf j := by
  rw [addElem_ovf]
  split
  · exact tget_tset_other _ _ _ hj
  · rfl

theorem addElem_wf (h : Memory.wf 0 t.val = true ∧ Memory.wf 0 t.ovf = true) :
    Memory.wf 0 (addElem t k v).val = true ∧ Memory.wf 0 (addElem t k v).ovf = true := by
  obtain ⟨hval, hovf⟩ := h
  refine ⟨Memory.wf_tset _ _ hval, ?_⟩
  rw [addElem_ovf]
  split
  · exact Memory.wf_tset _ _ hovf
  · exact hovf

end AddElem

/-! ### The additions of a block -/

/-- Add `f k` to every element `k` below `n`, one after another. -/
def addElems (t : Tile) (f : Nat → Int) (n : Nat) : Tile := (List.range n).foldl (fun t k => addElem t k (f k)) t

section AddElems

variable (t : Tile) (f : Nat → Int)

@[simp] theorem addElems_zero : addElems t f 0 = t := rfl

theorem addElems_succ (n : Nat) : addElems t f (n + 1) = addElem (addElems t f n) n (f n) := by
  simp [addElems, List.range_succ]

@[simp] theorem addElems_bad (n : Nat) : (addElems t f n).bad = t.bad := by
  induction n with
  | zero => rfl
  | succ n ih => rw [addElems_succ, addElem_bad, ih]

theorem addElems_wf (n : Nat) (h : Memory.wf 0 t.val = true ∧ Memory.wf 0 t.ovf = true) :
    Memory.wf 0 (addElems t f n).val = true ∧ Memory.wf 0 (addElems t f n).ovf = true := by
  induction n with
  | zero => exact h
  | succ n ih => rw [addElems_succ]; exact addElem_wf _ _ _ ih

/-- An element whose turn has not come is as it was. -/
theorem addElems_above {n k : Nat} (h : n ≤ k) :
    tget 0 (addElems t f n).val k = tget 0 t.val k ∧ tget 0 (addElems t f n).ovf k = tget 0 t.ovf k := by
  induction n with
  | zero => exact ⟨rfl, rfl⟩
  | succ n ih =>
    obtain ⟨hval, hovf⟩ := ih (by omega)
    rw [addElems_succ, addElem_val_other _ _ _ (by omega), addElem_ovf_other _ _ _ (by omega)]
    exact ⟨hval, hovf⟩

/-- After its turn an element holds what one addition to the tile at the start would give: the turns of the others leave it. -/
theorem addElems_below {n k : Nat} (h : k < n) :
    tget 0 (addElems t f n).val k = tget 0 t.val k + BitVec.ofInt 32 (f k) ∧
    tget 0 (addElems t f n).ovf k =
      if tget 0 t.ovf k = 0 then overflowMark (tget 0 t.val k).toInt (f k) else tget 0 t.ovf k := by
  induction n with
  | zero => exact absurd h (Nat.not_lt_zero k)
  | succ n ih =>
    rw [addElems_succ]
    obtain hlt | rfl := Nat.lt_succ_iff_lt_or_eq.1 h
    · rw [addElem_val_other _ _ _ hlt.ne, addElem_ovf_other _ _ _ hlt.ne]
      exact ih hlt
    · obtain ⟨hval, hovf⟩ := addElems_above t f (Nat.le_refl k)
      refine ⟨by rw [addElem_val_same, hval], ?_⟩
      split
      · rename_i hunset
        rw [addElem_ovf_of_unset _ _ _ (hovf.trans hunset), hval]
      · rename_i hset
        rw [addElem_ovf_of_set _ _ _ (hovf.symm ▸ hset), hovf]

end AddElems

/-! ### The block -/

/-- The shifted block partial of tile element `n` (R83). -/
def shiftedPartial (a b : Side) (acc : Int) (n : Nat) : Int :=
  dot (a.vals.getD (n / 32) []) (b.vals.getD (n % 32) []) *
    ((2 ^ (a.e.exps.getD (n / 32) 0 + b.e.exps.getD (n % 32) 0 - acc).toNat : Nat) : Int)

/-- The checksum accumulators aside, a step is the 1,024 additions. -/
theorem stepTile_eq_addElems (t : Tile) (a b : Side) (acc : Int) :
    (stepTile t a b acc).val = (addElems t (shiftedPartial a b acc) 1024).val ∧
    (stepTile t a b acc).ovf = (addElems t (shiftedPartial a b acc) 1024).ovf ∧
    (stepTile t a b acc).bad = (addElems t (shiftedPartial a b acc) 1024).bad := by
  have h : ∃ x y z, stepTile t a b acc = { addElems t (shiftedPartial a b acc) 1024 with x := x, y := y, z := z } :=
    ⟨_, _, _, rfl⟩
  generalize addElems t (shiftedPartial a b acc) 1024 = u at h ⊢
  obtain ⟨x, y, z, h⟩ := h
  rw [h]
  exact ⟨rfl, rfl, rfl⟩

theorem shiftedPartial_at (a b : Side) (acc : Int) {i j : Nat} (hj : j < 32) :
    shiftedPartial a b acc (32 * i + j) = dot (a.vals.getD i []) (b.vals.getD j []) *
      ((2 ^ (a.e.exps.getD i 0 + b.e.exps.getD j 0 - acc).toNat : Nat) : Int) := by
  rw [shiftedPartial, show (32 * i + j) / 32 = i by omega, show (32 * i + j) % 32 = j by omega]

/-- Settles O24: element (i, j) is changed at its own turn among the 1,024 additions, and only then. -/
theorem blockStepArithmetic : Obligations.BlockStepArithmetic := by
  intro t a b acc hval hovf
  obtain ⟨eval, eovf, ebad⟩ := stepTile_eq_addElems t a b acc
  obtain ⟨wval, wovf⟩ := addElems_wf t (shiftedPartial a b acc) 1024 ⟨hval, hovf⟩
  rw [eval, eovf, ebad]
  refine ⟨wval, wovf, addElems_bad t _ 1024, fun i j hi hj v hv => ?_⟩
  rw [← shiftedPartial_at a b acc hj] at hv
  obtain ⟨hsum, hmark⟩ := addElems_below t (shiftedPartial a b acc) (n := 1024) (k := 32 * i + j) (by omega)
  rw [← hv] at hsum hmark
  exact ⟨hsum, fun hset => hmark.trans (if_neg hset), fun hunset => hmark.trans (if_pos hunset)⟩

end Sys2Proof.Machine
end

section
/-! SUPPORT. The tensor engine: what its operations start as, load, step and deliver (R76, R81 to R84, R87 to R93). -/

namespace Sys2Proof.Machine

/-! ### The descriptor at the head of the queue (R51, R147) -/

theorem noteFix_te (now : Nat) (c : Core) (row : Nat) : (noteFix now c row).te = c.te := rfl

theorem noteFixes_te (now : Nat) (ws : List Nat) (c : Core) :
    (ws.foldl (fun c w => noteFix now c (w / 8)) c).te = c.te := by
  induction ws generalizing c with
  | nil => rfl
  | cons w ws ih => exact (ih _).trans (noteFix_te ..)

/-- Correcting single-bit errors of core memory leaves the TE. -/
theorem fixCore_te (now : Nat) (c : Core) (a n : Nat) : (fixCore now c a n).te = c.te := by
  unfold fixCore
  dsimp only
  split
  · rfl
  · exact noteFixes_te ..

/-- Reading a good range of core memory leaves the TE. -/
theorem readCore_te {s : State} {p a n : Nat} (h : badWord (getCore s p).bad a n = none) :
    (getCore (readCore s p a n).1 p).te = (getCore s p).te := by
  unfold readCore
  simp only [h]
  split
  · rfl
  · rw [getCore_setCore_same, fixCore_te]

section Start

variable {s : State} {core : Nat} {o : IssueOp} {rest : List IssueOp} {d : W512}

/-- Reading the descriptor of the head operation leaves the TE. -/
theorem Head.described_te {q : List IssueOp} (h : Head s core q o rest d) :
    (getCore (described s core o) core).te = (getCore s core).te := readCore_te h.good

theorem Head.teOps_described {q : List IssueOp} (h : Head s core q o rest d) : teOps (described s core o) core = teOps s core :=
  congrArg Te.ops h.described_te

/-- The head operation of the TE's queue with its descriptor, for a command that takes operations of its op. -/
theorem Head.teHead_eq (h : Head s core (getCore s core).qTe o rest d) {ops : Nat → Bool} (hop : ops (tOp d) = true) :
    teHead s core ops = (described s core o, some (o, d)) := by
  have hdesc : readDesc s core o = (described s core o, some d) := by
    rw [readDesc, readCore_of_noBadWord h.good, h.desc]
    rfl
  rw [teHead, h.queue]
  dsimp only
  rw [hdesc]
  dsimp only
  rw [if_pos hop]

/-- No operation of the TE waits on a queue, and the core runs: the TE may start an operation (R182). -/
theorem Head.teMayStart {q : List IssueOp} (h : Head s core q o rest d) (hheld : teHeld s core = false) : teFree s core = true := by
  simpa [teFree, h.running, teHeld] using hheld

/-! ### Starting (R87, R88, R515) -/

/-- The operation as it starts, before any check. -/
def teFresh (o : IssueOp) (d : W512) : TeOp := { op := o, desc := d, rowA := tRow d false, rowB := tRow d true }

/-- A started operation is the fresh one but for its phase and the fault that a check found. -/
theorem teNew_frame (s : State) (core : Nat) (o : IssueOp) (d : W512) :
    ∃ ph f, teNew s core o d = { teFresh o d with phase := ph, fault := f } := by
  unfold teNew
  dsimp only
  split
  · exact ⟨_, _, rfl⟩
  split
  · exact ⟨_, _, rfl⟩
  split
  · exact ⟨_, _, rfl⟩
  split <;> exact ⟨_, _, rfl⟩

theorem teNew_rejected (h : tReason d ≠ 0) : teNew s core o d =
    { teFresh o d with phase := .done, fault := some (causeDescriptor, tDetail (tReason d) (faultyOperand d (tReason d)) 0 0) } :=
  if_pos h

theorem teNew_nothing (hr : tReason d = 0) (hn : tNothing d = true) : teNew s core o d = { teFresh o d with phase := .done } := by
  unfold teNew
  dsimp only
  rw [if_neg (not_not.2 hr), if_pos hn]
  rfl

theorem teNew_other (hr : tReason d = 0) (hop : tOp d ≠ opMatmul) : teNew s core o d = teFresh o d := by
  have hn : ¬ tNothing d = true := by simp [tNothing, hop]
  unfold teNew
  dsimp only
  rw [if_neg (not_not.2 hr), if_neg hn, if_pos hop]
  rfl

theorem teNew_resident (hr : tReason d = 0) (hop : tOp d = opMatmul) (hk : tK d ≠ 0)
    (ha : badResident (getCore s core).te d false = none) (hb : badResident (getCore s core).te d true = none) :
    teNew s core o d = teFresh o d := by
  have hn : ¬ tNothing d = true := by simp [tNothing, hk]
  unfold teNew
  dsimp only
  rw [if_neg (not_not.2 hr), if_neg hn, if_neg (not_not.2 hop), ha, hb]
  rfl

/-! ### The head operation starts -/

/-- MATMUL takes the head operation when nothing still loads. -/
theorem exec_matmul (h : Head s core (getCore s core).qTe o rest d) (hheld : teHeld s core = false)
    (hload : (teOps s core).any loading = false) (hdrain : tOp d ≠ opDrain) (hclear : tOp d ≠ opClear) :
    exec (.matmul core) s = .next (teTakes s core (teNew (described s core o) core o d)) := by
  obtain ⟨ph, f, hnew⟩ := teNew_frame (described s core o) core o d
  have htake : teTakes s core (teNew (described s core o) core o d) =
      teStart (described s core o) core (teNew (described s core o) core o d) := by
    rw [hnew]
    rfl
  refine exec_of_onUnit h.exists_ rfl ?_
  rw [if_neg (by simp [h.teMayStart hheld, hload]), h.teHead_eq (by simpa using ⟨hdrain, hclear⟩), htake]

/-- TE_CLEAR takes a CLEAR that passes its checks when no MATMUL runs and no drain of the tile is pending (R89). -/
theorem exec_teClear (h : Head s core (getCore s core).qTe o rest d) (hheld : teHeld s core = false) (hop : tOp d = opClear)
    (hr : tReason d = 0) (hrun : (teOps s core).any (fun y => y.phase == .run) = false)
    (hpend : drainPending (teOps s core) (tTile d) = false) : exec (.teClear core) s =
      .next (setTile (teTakes s core { teFresh o d with phase := .done }) core (tTile d) {}) := by
  have hnew : teNew (described s core o) core o d = teFresh o d := teNew_other hr (by rw [hop]; decide)
  have hstarts : (teFresh o d).phase ≠ .done := nofun
  refine exec_of_onUnit h.exists_ rfl ?_
  rw [if_neg (by simp [h.teMayStart hheld]), h.teHead_eq (by simp [hop])]
  dsimp only
  rw [hnew, if_neg hstarts, h.teOps_described, hrun, hpend, if_neg (by decide)]
  rfl

/-- TE_DRAIN takes a DRAIN that passes its checks when the output stage is free and nothing runs or drains before it (R89). -/
theorem exec_teDrain (h : Head s core (getCore s core).qTe o rest d) (hheld : teHeld s core = false) (hop : tOp d = opDrain)
    (hr : tReason d = 0) (hout : (teOps s core).any inOutput = false)
    (hdrain : (teOps s core).any (fun y => y.phase == .drain) = false)
    (hrun : (teOps s core).any (fun y => y.phase == .run) = false) (hpend : drainPending (teOps s core) (tTile d) = false) :
    exec (.teDrain core) s = .next (drainTile (teTakes s core (teFresh o d)) core (teOps s core).length (teFresh o d)) := by
  have hnew : teNew (described s core o) core o d = teFresh o d := teNew_other hr (by rw [hop]; decide)
  have hstarts : (teFresh o d).phase ≠ .done := nofun
  refine exec_of_onUnit h.exists_ rfl ?_
  rw [if_neg (by simp [h.running]), List.findIdx?_eq_none_iff.2 (by simpa using hout)]
  dsimp only
  rw [List.findIdx?_eq_none_iff.2 (by simpa using hdrain)]
  dsimp only
  rw [if_neg (by simp [h.teMayStart hheld]), h.teHead_eq (by simp [hop])]
  dsimp only
  rw [hnew, if_neg hstarts, hrun, hpend, if_neg (by decide)]
  rfl

end Start

/-- Settles O21: each command takes the head operation in the state in which its descriptor has been read; that state has the
same TE, so the checks of the statement are those that the command makes. -/
theorem tensorOperationsStart : Obligations.TensorOperationsStart := by
  refine ⟨fun s core o rest d h hheld hload hdrain hclear => ?_, fun s core o rest d h hheld hop hr hrun hpend => ?_,
    fun s core o rest d h hheld hop hr hout hdrain hrun hpend => ?_⟩
  · obtain ⟨ph, f, hnew⟩ := teNew_frame (described s core o) core o d
    refine ⟨_, exec_matmul h hheld hload hdrain hclear, by rw [hnew]; rfl, by rw [hnew]; rfl, by rw [hnew]; rfl,
      by rw [hnew]; rfl, fun hr => ?_, fun hr hop hk => ?_, fun hr hop hk ha hb => ?_⟩
    · rw [teNew_rejected hr]
      exact ⟨rfl, rfl⟩
    · rw [teNew_nothing hr (by simp [tNothing, tOp, tK, opMatmul, hop, hk])]
      exact ⟨rfl, rfl⟩
    · rw [teNew_resident hr hop hk (h.described_te.symm ▸ ha) (h.described_te.symm ▸ hb)]
      exact ⟨rfl, rfl⟩
  · exact ⟨_, rfl, rfl, rfl, rfl, exec_teClear h hheld hop hr hrun hpend⟩
  · exact ⟨_, rfl, rfl, exec_teDrain h hheld hop hr hout hdrain hrun hpend⟩

/-! ### Loading and stepping (R81 to R83) -/

/-- The operation after the words of a group: poison is kept, with the queue of the first poisoned word (R197). -/
def tookWords (b : Bool) (l : List VnWord) (y : TeOp) : TeOp :=
  { y with poison := y.poison || l.any (fun w => w.poison)
           poisonQ := if !y.poison && l.any (fun w => w.poison) then tQueue y.desc b else y.poisonQ }

/-- The state in which the MAC stage has stepped the next block of an operation into its tile (R83). -/
def blockStepped (s : State) (core i : Nat) (o : TeOp) (a b : Side) : State :=
  modTe (modCore (setTile s core (tTile o.desc)
      (stepTile (if o.stepped = 0 ∧ tClear o.desc = true then {} else tileOf s core (tTile o.desc)) a b (tAcc o.desc))) core
      (fun c => { c with teBusy := c.teBusy + stepCycles (widthOf a.e) (widthOf b.e) })) core i
    (fun y => { y with stepped := y.stepped + 1
                       phase := if o.stepped + 1 = tK o.desc then (if tOut o.desc = 0 then .done else .drain) else .run })

/-- TE_KBLOCK_STEP with a block ready on a tile that may be stepped into: a shift out of range decides (R83). -/
theorem exec_teKblockStep {s : State} {core i : Nat} {o : TeOp} {a b : Side} (hcore : coreOk s core = true)
    (hrun : runs s core = true) (hix : (teOps s core).findIdx? (fun o => o.phase == .run) = some i)
    (ho : (teOps s core)[i]? = some o) (hpend : drainPending ((teOps s core).take i) (tTile o.desc) = false)
    (hready : o.stepped < blocksReady o)
    (hbad : o.stepped = 0 → tClear o.desc = false → (tileOf s core (tTile o.desc)).bad = false)
    (ha : readSide (getCore s core).te o.desc false o.stepped = some a)
    (hb : readSide (getCore s core).te o.desc true o.stepped = some b) :
    exec (.teKblockStep core) s = .next (match badShift a b (tAcc o.desc) with
      | some r => endBad s core i o (causeDescriptor, tDetail 6 false o.stepped r)
      | none => blockStepped s core i o a b) := by
  have hgood : ¬ (o.stepped = 0 ∧ tClear o.desc = false ∧ (tileOf s core (tTile o.desc)).bad = true) := by
    rintro ⟨h0, hclear, htile⟩
    rw [hbad h0 hclear] at htile
    cases htile
  refine exec_of_onUnit hcore rfl ?_
  dsimp only
  rw [hix]
  dsimp only
  rw [ho]
  dsimp only
  rw [if_neg (by simp [hrun, hpend]), if_neg (Nat.not_le.2 hready), if_neg hgood, ha, hb]
  rfl

/-- TE_BLOCK_LOAD with a group whose part of the buffer is free and whose exponents span at most 31 (R81, R83). -/
theorem exec_teBlockLoad {s : State} {core i : Nat} {o : TeOp} {s1 : State} {l : List VnWord} {b : Bool} {k : Nat} {g : Panel}
    {e : SideEntry} (hcore : coreOk s core = true) (hrun : runs s core = true)
    (hix : (teOps s core).findIdx? loading = some i) (ho : (teOps s core)[i]? = some o) (hnext : nextGroup o = (b, k))
    (hbusy : bufferBusy ((teOps s core).take i) b (256 * unitOf o.desc b k) (tSlot o.desc b) = false)
    (hfetch : fetchGroup s core o b = (s1, some (.ok l)))
    (hg : g = groupOf (tFmt o.desc b) (tEsc o.desc b) (l.flatMap (fun w => rowBytes w.data)))
    (he : e = sideEntry (tFmt o.desc b) (tEsc o.desc b) (tSlot o.desc b) g)
    (hspread : g.exps.findIdx? (fun x => decide (x - e.least > 31)) = none) :
    exec (.teBlockLoad core) s =
      .next (modTe (modCore (modTe s1 core i (tookWords b l)) core (fun c =>
          { c with te := storeBlock c.te b (unitOf o.desc b k) e g })) core i
        (fun y => { y with loaded := y.loaded + 1, rowA := if b then y.rowA else y.rowA + g.rows,
                           rowB := if b then y.rowB + g.rows else y.rowB })) := by
  refine exec_of_onUnit hcore rfl ?_
  dsimp only
  rw [hix]
  dsimp only
  rw [ho]
  dsimp only
  rw [hnext]
  dsimp only
  rw [if_neg (by simp [hrun, hbusy]), hfetch]
  dsimp only
  rw [← hg, ← he, hspread]
  rfl

/-- Settles O23: the hypotheses are the conditions under which the load stage takes a group and the MAC stage a block. -/
theorem tensorLoadAndStep : Obligations.TensorLoadAndStep := by
  refine ⟨fun s core i o s1 l b k g e hcore hrun hix ho hnext hbusy hfetch hg he hspread =>
      ⟨_, exec_teBlockLoad hcore hrun hix ho hnext hbusy hfetch hg he hspread, fun y => ⟨rfl, rfl⟩⟩,
    fun s core i o a b hcore hrun hix ho hpend hready hbad ha hb => ?_⟩
  have hexec := exec_teKblockStep hcore hrun hix ho hpend hready hbad ha hb
  exact ⟨fun hshift => by rw [hexec, hshift]; rfl, fun r hshift => by rw [hexec, hshift]; rfl⟩

/-! ### Draining (R91 to R96) -/

section Drain

variable {s : State} {core i : Nat} {o : TeOp} {l : List Byte}

/-- A route to core memory writes the rows of a tile that passed, none of one that failed, and the operation is done (R91). -/
theorem deliverTile_core (h : tOut o.desc = 1 ∨ tOut o.desc = 2) (bad : Bool) : deliverTile s core i o l bad =
    modTe (if bad then s else modCore s core (fun c => writeRows c o.desc l)) core i (fun y => { y with phase := .done }) :=
  if_pos h

/-- The operation with what the drain of a passed tile records: its first saturated position and its first infinity. -/
def drained (o : TeOp) (sat inf : Option Nat) : TeOp := { o with sat := sat, inf := inf }

theorem drained_frame (o : TeOp) (sat inf : Option Nat) : (drained o sat inf).op = o.op ∧ (drained o sat inf).desc = o.desc ∧
    (drained o sat inf).fault = o.fault ∧ (drained o sat inf).sat = sat := ⟨rfl, rfl, rfl, rfl⟩

/-- A sound tile that passes the checker goes to its route, and is cleared unless it is kept. -/
theorem drainTile_passed (hout : tOut o.desc ≠ 5) {v : Tile} (hv : v = tileOf s core (tTile o.desc)) (hbad : v.bad = false)
    (hpass : verdict v (tTile o.desc) = none) {o1 : TeOp} (ho1 : o1 = drained o (firstSat v) (firstInf v o.desc)) {s1 : State}
    (hs1 : s1 = modTe s core i (fun _ => o1)) : drainTile s core i o =
      deliverTile (if tKeep o.desc = true then s1 else setTile s1 core (tTile o.desc) {}) core i o1 (outBytes v o.desc) false := by
  subst hv hs1 ho1
  unfold drainTile
  dsimp only
  rw [if_neg (by simp [hbad]), hpass]
  simp only [hout, or_false, drained]

/-- The operation at a failed verdict: its thread has been trapped already (R96). -/
def failedAt (o : TeOp) (w : W64) : TeOp := { o with fault := some (causeAbft, w), trapped := true }

/-- The state in which a failed verdict has been counted, the tile marked, the event raised and the thread trapped (R95, R96). -/
def verdictFailed (s : State) (core : Nat) (o : TeOp) (w : W64) : State :=
  trapOp (coreEvent (setTile (modCore s core (fun c => { c with te :=
    { c.te with last := w, count := if c.te.count = 0xFFFFFFFF then c.te.count else c.te.count + 1 } }))
    core (tTile o.desc) { bad := true }) core 0x80 (leBytes 8 w.toNat)) core o.op causeAbft 0 w

theorem drainTile_failed (hbad : (tileOf s core (tTile o.desc)).bad = false) {w : W64}
    (hfail : verdict (tileOf s core (tTile o.desc)) (tTile o.desc) = some w) :
    drainTile s core i o = deliverTile (modTe (verdictFailed s core o w) core i (fun _ => failedAt o w)) core i (failedAt o w)
      (zeros 4096) true := by
  unfold drainTile
  dsimp only
  rw [if_neg (by simp [hbad]), hfail]
  rfl

end Drain

/-- Settles O22: the verdict decides between the two, and the route is core memory in both. -/
theorem drainWritesOrIsRefused : Obligations.DrainWritesOrIsRefused := by
  intro s core i o hroute hbad
  have hne : tOut o.desc ≠ 5 := fun h5 => by rw [tOut] at h5; omega
  refine ⟨fun hpass => ?_, fun w hfail => ⟨failedAt o w, rfl, rfl, rfl, rfl, ?_⟩⟩
  · obtain ⟨hop, hdesc, hfault, hsat⟩ := drained_frame o (firstSat (tileOf s core (tTile o.desc)))
      (firstInf (tileOf s core (tTile o.desc)) o.desc)
    refine ⟨_, hop, hdesc, hfault, hsat, fun s1 hs1 => ?_⟩
    rw [drainTile_passed hne rfl hbad hpass rfl hs1, deliverTile_core (hdesc.symm ▸ hroute), hdesc]
    rfl
  · rw [drainTile_failed hbad hfail, deliverTile_core (o := failedAt o w) hroute]
    rfl

end Sys2Proof.Machine
end

section
/-! SUPPORT. The integer primitives of the vector engine (R100, R129): what an INT32 result does with an exact value, which the
sum, the difference and the product share, and the words that the other primitives answer with. -/

namespace Sys2Proof.Machine

/-! ### An INT32 result (R100) -/

theorem ires_of_lt {x : Int} (sat : Bool) (h : x < -(2 ^ 31)) :
    ires sat x = { v := if sat then 0x80000000 else BitVec.ofInt 32 x, sat := true } := if_pos h

theorem ires_of_ge {x : Int} (sat : Bool) (h : x ≥ 2 ^ 31) :
    ires sat x = { v := if sat then 0x7FFFFFFF else BitVec.ofInt 32 x, sat := true } := by
  rw [ires, if_neg (by omega), if_pos h]

theorem ires_of_fits {x : Int} (sat : Bool) (hlo : -(2 ^ 31) ≤ x) (hhi : x < 2 ^ 31) :
    ires sat x = { v := BitVec.ofInt 32 x } := by
  rw [ires, if_neg (by omega), if_neg (by omega)]

/-- The three places of an exact result: below the INT32 range, above it, and within it. -/
theorem int32_cases (x : Int) : x < -(2 ^ 31) ∨ x ≥ 2 ^ 31 ∨ (-(2 ^ 31) ≤ x ∧ x < 2 ^ 31) := by omega

/-- The sat flag tells of the exact result alone, whether it was saturated or wrapped. -/
theorem ires_sat_iff (sat : Bool) (x : Int) : (ires sat x).sat = true ↔ x < -(2 ^ 31) ∨ x ≥ 2 ^ 31 := by
  obtain hlt | hge | ⟨hlo, hhi⟩ := int32_cases x
  · rw [ires_of_lt sat hlt]
    exact iff_of_true rfl (.inl hlt)
  · rw [ires_of_ge sat hge]
    exact iff_of_true rfl (.inr hge)
  · rw [ires_of_fits sat hlo hhi]
    exact iff_of_false Bool.false_ne_true (by omega)

/-- With the saturate bit, a result outside the range is its nearest end. -/
theorem ires_saturated_toInt (x : Int) : (ires true x).v.toInt = max (-(2 ^ 31)) (min x (2 ^ 31 - 1)) := by
  obtain hlt | hge | ⟨hlo, hhi⟩ := int32_cases x
  · have hend : (0x80000000 : W32).toInt = -(2 ^ 31) := by decide
    rw [ires_of_lt true hlt, if_pos rfl, hend]
    omega
  · have hend : (0x7FFFFFFF : W32).toInt = 2 ^ 31 - 1 := by decide
    rw [ires_of_ge true hge, if_pos rfl, hend]
    omega
  · rw [ires_of_fits true hlo hhi, BitVec.toInt_ofInt_eq_self (by decide) hlo hhi]
    omega

/-- Without it, every result is reduced modulo 2^32. -/
theorem ires_wrapped (x : Int) : (ires false x).v = BitVec.ofInt 32 x := by
  obtain hlt | hge | ⟨hlo, hhi⟩ := int32_cases x
  · rw [ires_of_lt false hlt, if_neg Bool.false_ne_true]
  · rw [ires_of_ge false hge, if_neg Bool.false_ne_true]
  · rw [ires_of_fits false hlo hhi]

/-! ### The primitives by their codes (R129) -/

section Codes

variable (sat : Bool) (aux : W64) (f : Nat) (a b c : W32)

theorem elemOp_iadd : elemOp 0x10 sat aux f a b c = ires sat (a.toInt + b.toInt) := rfl

theorem elemOp_isub : elemOp 0x11 sat aux f a b c = ires sat (a.toInt - b.toInt) := rfl

theorem elemOp_imul : elemOp 0x12 sat aux f a b c = ires sat (a.toInt * b.toInt) := rfl

theorem elemOp_imax : elemOp 0x13 sat aux f a b c = { v := if a.toInt ≥ b.toInt then a else b } := rfl

theorem elemOp_imin : elemOp 0x14 sat aux f a b c = { v := if a.toInt ≤ b.toInt then a else b } := rfl

theorem elemOp_shl : elemOp 0x15 sat aux f a b c = { v := a <<< (b.toNat % 32) } := rfl

theorem elemOp_shra : elemOp 0x16 sat aux f a b c = { v := a.sshiftRight (b.toNat % 32) } := rfl

theorem elemOp_and : elemOp 0x17 sat aux f a b c = { v := a &&& b } := rfl

theorem elemOp_or : elemOp 0x18 sat aux f a b c = { v := a ||| b } := rfl

theorem elemOp_xor : elemOp 0x19 sat aux f a b c = { v := a ^^^ b } := rfl

theorem elemOp_select : elemOp 0x49 sat aux f a b c = { v := if c ≠ 0 then a else b } := rfl

/-! ### The sum, the difference and the product -/

/-- The three primitives whose exact result may lie outside the range give it as an INT32 result. -/
theorem elemOp_exact {code : Nat} {x : Int} (h : (code = 0x10 ∧ x = a.toInt + b.toInt) ∨
    (code = 0x11 ∧ x = a.toInt - b.toInt) ∨ (code = 0x12 ∧ x = a.toInt * b.toInt)) :
    elemOp code sat aux f a b c = ires sat x := by
  obtain ⟨rfl, rfl⟩ | ⟨rfl, rfl⟩ | ⟨rfl, rfl⟩ := h
  · exact elemOp_iadd ..
  · exact elemOp_isub ..
  · exact elemOp_imul ..

theorem iadd_wrapped : (elemOp 0x10 false aux f a b c).v = a + b := by
  rw [elemOp_iadd, ires_wrapped, BitVec.ofInt_add, BitVec.ofInt_toInt, BitVec.ofInt_toInt]

theorem isub_wrapped : (elemOp 0x11 false aux f a b c).v = a - b := by
  rw [elemOp_isub, ires_wrapped, Int.sub_eq_add_neg, BitVec.ofInt_add, BitVec.ofInt_neg, BitVec.ofInt_toInt,
    BitVec.ofInt_toInt, BitVec.sub_eq_add_neg]

theorem imul_wrapped : (elemOp 0x12 false aux f a b c).v = a * b := by
  rw [elemOp_imul, ires_wrapped, BitVec.ofInt_mul, BitVec.ofInt_toInt, BitVec.ofInt_toInt]

/-! ### The other primitives -/

/-- The comparison is signed. -/
theorem imax_toInt : (elemOp 0x13 sat aux f a b c).v.toInt = max a.toInt b.toInt := by
  rw [elemOp_imax, max_def, apply_ite BitVec.toInt]
  split <;> split <;> omega

theorem imin_toInt : (elemOp 0x14 sat aux f a b c).v.toInt = min a.toInt b.toInt := by
  rw [elemOp_imin, min_def, apply_ite BitVec.toInt]

theorem shl_toNat : (elemOp 0x15 sat aux f a b c).v.toNat = a.toNat * 2 ^ (b.toNat % 32) % 2 ^ 32 := by
  rw [elemOp_shl, BitVec.toNat_shiftLeft, Nat.shiftLeft_eq]

/-- The arithmetic shift divides by a power of two and rounds down. -/
theorem shra_toInt : (elemOp 0x16 sat aux f a b c).v.toInt = a.toInt / 2 ^ (b.toNat % 32) := by
  rw [elemOp_shra, BitVec.toInt_sshiftRight, Int.shiftRight_eq_div_pow]
  norm_cast

theorem bitwise_getLsbD (i : Nat) : (elemOp 0x17 sat aux f a b c).v.getLsbD i = (a.getLsbD i && b.getLsbD i) ∧
    (elemOp 0x18 sat aux f a b c).v.getLsbD i = (a.getLsbD i || b.getLsbD i) ∧
    (elemOp 0x19 sat aux f a b c).v.getLsbD i = (a.getLsbD i != b.getLsbD i) :=
  ⟨BitVec.getLsbD_and, BitVec.getLsbD_or, BitVec.getLsbD_xor⟩

theorem select_v : (elemOp 0x49 sat aux f a b c).v = if c = 0 then b else a := by
  rw [elemOp_select, ite_not]

/-- A result that is given as a word alone has all its flags clear. -/
theorem flags_of_word {r : Res} {v : W32} (h : r = { v := v }) : r.sat = false ∧ r.inf = false ∧ r.nan = false := by
  subst h
  exact ⟨rfl, rfl, rfl⟩

theorem elemOp_no_flags {code : Nat} (h : code ∈ [0x13, 0x14, 0x15, 0x16, 0x17, 0x18, 0x19, 0x49]) :
    (elemOp code sat aux f a b c).sat = false ∧ (elemOp code sat aux f a b c).inf = false ∧
      (elemOp code sat aux f a b c).nan = false := by
  simp only [List.mem_cons, List.not_mem_nil, or_false] at h
  obtain rfl | rfl | rfl | rfl | rfl | rfl | rfl | rfl := h
  · exact flags_of_word (elemOp_imax ..)
  · exact flags_of_word (elemOp_imin ..)
  · exact flags_of_word (elemOp_shl ..)
  · exact flags_of_word (elemOp_shra ..)
  · exact flags_of_word (elemOp_and ..)
  · exact flags_of_word (elemOp_or ..)
  · exact flags_of_word (elemOp_xor ..)
  · exact flags_of_word (elemOp_select ..)

end Codes

/-- Settles O28: the first three primitives are INT32 results, and each of the others is a word without flags. -/
theorem integerPrimitives : Obligations.IntegerPrimitives := by
  intro sat aux f a b c
  refine ⟨fun code x hcode r hr => ?_, iadd_wrapped aux f a b c, isub_wrapped aux f a b c, imul_wrapped aux f a b c,
    imax_toInt sat aux f a b c, imin_toInt sat aux f a b c, shl_toNat sat aux f a b c, shra_toInt sat aux f a b c,
    bitwise_getLsbD sat aux f a b c, select_v sat aux f a b c, fun _ => elemOp_no_flags sat aux f a b c⟩
  rw [hr, elemOp_exact sat aux f a b c hcode]
  exact ⟨ires_sat_iff sat x, by rintro rfl; exact ires_saturated_toInt x⟩

end Sys2Proof.Machine
end

section
/-! SUPPORT. The field multiplication of GFMUL and GFMAC (R134): what one of its eight steps does to two products at once, and
so what all of them do. -/

namespace Sys2Proof.Machine

/-! ### Doubling -/

/-- A byte has bit 7 when its double leaves the bytes. -/
theorem testBit_seven_of_byte {a : Nat} (h : a < 256) : a.testBit 7 = decide (2 * a ≥ 256) := by
  rw [Nat.testBit_eq_decide_div_mod_eq, decide_eq_decide]
  omega

/-- The reduction is decided by bit 7 of the doubled byte. -/
theorem gfDouble_of_byte {a : Nat} (h : a < 256) : gfDouble a = (2 * a) ^^^ (if a.testBit 7 then 0x11D else 0) := by
  rw [testBit_seven_of_byte h, gfDouble]
  by_cases hge : 2 * a ≥ 256 <;> simp [hge]

theorem gfDouble_lt {a : Nat} (h : a < 256) : gfDouble a < 256 := by
  unfold gfDouble
  split
  · next hge =>
    have htop : 2 * a / 2 ^ 8 = 1 := by omega
    refine Nat.lt_of_div_eq_zero (k := 2 ^ 8) (by decide) ?_
    rw [Nat.xor_div_two_pow, htop]
    decide
  · next hlt => exact Nat.not_le.1 hlt

theorem xor_byte {a b : Nat} (ha : a < 256) (hb : b < 256) : a ^^^ b < 256 := Nat.xor_lt_two_pow (n := 8) ha hb

/-- Doubling is additive: bit 7 of the sum is the sum of the bits 7. -/
theorem gfDouble_xor {a b : Nat} (ha : a < 256) (hb : b < 256) : gfDouble (a ^^^ b) = gfDouble a ^^^ gfDouble b := by
  have hshift : 2 * (a ^^^ b) = (2 * a) ^^^ (2 * b) := by
    simpa [Nat.shiftLeft_eq, Nat.mul_comm] using Nat.shiftLeft_xor_distrib (a := a) (b := b) (i := 1)
  rw [gfDouble_of_byte (xor_byte ha hb), gfDouble_of_byte ha, gfDouble_of_byte hb, Nat.testBit_xor, hshift]
  cases a.testBit 7 <;> cases b.testBit 7 <;> simp [Nat.xor_assoc, Nat.xor_comm, Nat.xor_left_comm]

/-! ### The steps of a product -/

/-- One step of a product by `b`: the sum so far and the multiplicand, doubled for each bit of `b`. -/
def gfAddStep (b : Nat) (v : Nat × Nat) (i : Nat) : Nat × Nat := (if b.testBit i then v.1 ^^^ v.2 else v.1, gfDouble v.2)

theorem gfMul_eq_steps (a b : Nat) : gfMul a b = ((List.range 8).foldl (gfAddStep b) (0, a)).1 := rfl

/-- Both the sum and the multiplicand are bytes. -/
def BytePair (v : Nat × Nat) : Prop := v.1 < 256 ∧ v.2 < 256

theorem gfAddStep_bytes {v : Nat × Nat} (b i : Nat) (h : BytePair v) : BytePair (gfAddStep b v i) := by
  obtain ⟨hsum, hmul⟩ := h
  refine ⟨?_, gfDouble_lt hmul⟩
  unfold gfAddStep
  split
  · exact xor_byte hsum hmul
  · exact hsum

theorem gfAddSteps_bytes (b : Nat) (l : List Nat) {v : Nat × Nat} (h : BytePair v) : BytePair (l.foldl (gfAddStep b) v) := by
  induction l generalizing v with
  | nil => exact h
  | cons i l ih => exact ih (gfAddStep_bytes b i h)

/-- The steps for the sum of two multiplicands keep to the sum of the steps for each. -/
theorem gfAddSteps_xor_left (b : Nat) (l : List Nat) {v w : Nat × Nat} (hv : BytePair v) (hw : BytePair w) :
    (l.foldl (gfAddStep b) (v.1 ^^^ w.1, v.2 ^^^ w.2)).1 = (l.foldl (gfAddStep b) v).1 ^^^ (l.foldl (gfAddStep b) w).1 := by
  induction l generalizing v w with
  | nil => rfl
  | cons i l ih =>
    have hstep : gfAddStep b (v.1 ^^^ w.1, v.2 ^^^ w.2) i =
        ((gfAddStep b v i).1 ^^^ (gfAddStep b w i).1, (gfAddStep b v i).2 ^^^ (gfAddStep b w i).2) := by
      refine Prod.ext ?_ (gfDouble_xor hv.2 hw.2)
      cases hbit : b.testBit i <;> simp [gfAddStep, hbit, Nat.xor_assoc, Nat.xor_left_comm]
    rw [List.foldl_cons, hstep]
    exact ih (gfAddStep_bytes b i hv) (gfAddStep_bytes b i hw)

/-- The steps for the sum of two multipliers add where either has its bit. -/
theorem gfAddSteps_xor_right (b c : Nat) (l : List Nat) (x y m : Nat) :
    (l.foldl (gfAddStep (b ^^^ c)) (x ^^^ y, m)).1 = (l.foldl (gfAddStep b) (x, m)).1 ^^^ (l.foldl (gfAddStep c) (y, m)).1 := by
  induction l generalizing x y m with
  | nil => rfl
  | cons i l ih =>
    have hsum : (gfAddStep (b ^^^ c) (x ^^^ y, m) i).1 = (gfAddStep b (x, m) i).1 ^^^ (gfAddStep c (y, m) i).1 := by
      cases hb : b.testBit i <;> cases hc : c.testBit i <;>
        simp [gfAddStep, hb, hc, Nat.xor_comm, Nat.xor_left_comm]
    have hstep : gfAddStep (b ^^^ c) (x ^^^ y, m) i = ((gfAddStep b (x, m) i).1 ^^^ (gfAddStep c (y, m) i).1, gfDouble m) :=
      Prod.ext hsum rfl
    rw [List.foldl_cons, hstep]
    exact ih ..

/-! ### The product -/

theorem gfMul_lt {a : Nat} (b : Nat) (ha : a < 256) : gfMul a b < 256 := by
  rw [gfMul_eq_steps]
  exact (gfAddSteps_bytes b (List.range 8) (v := (0, a)) ⟨Nat.two_pow_pos 8, ha⟩).1

theorem gfMul_xor_left {a b : Nat} (c : Nat) (ha : a < 256) (hb : b < 256) : gfMul (a ^^^ b) c = gfMul a c ^^^ gfMul b c := by
  have hsteps := gfAddSteps_xor_left c (List.range 8) (v := (0, a)) (w := (0, b))
    ⟨Nat.two_pow_pos 8, ha⟩ ⟨Nat.two_pow_pos 8, hb⟩
  rwa [Nat.xor_self, ← gfMul_eq_steps, ← gfMul_eq_steps, ← gfMul_eq_steps] at hsteps

theorem gfMul_xor_right (a b c : Nat) : gfMul c (a ^^^ b) = gfMul c a ^^^ gfMul c b :=
  gfAddSteps_xor_right a b (List.range 8) 0 0 c

/-- A product by 0 is its own sum with itself. -/
theorem gfMul_zero (a : Nat) : gfMul a 0 = 0 := by
  have h := gfMul_xor_right 0 0 a
  rwa [Nat.xor_self, Nat.xor_self] at h

/-- Only the first step of a product by 1 adds. -/
theorem gfMul_one (a : Nat) : gfMul a 1 = a := Nat.zero_xor a

/-- Only the second step of a product by 2 adds. -/
theorem gfMul_two (a : Nat) : gfMul a 2 = gfDouble a := Nat.zero_xor (gfDouble a)

/-- Settles O29: each product is a sum over the bits of its multiplier, and doubling adds up, so the product adds up in both. -/
theorem fieldMultiplication : Obligations.FieldMultiplication := by
  intro a b c ha hb _
  refine ⟨gfMul_one a, gfMul_zero a, ?_, gfMul_lt b ha, gfMul_xor_left c ha hb, gfMul_xor_right a b c⟩
  rw [gfMul_two, gfDouble, ← ite_not]
  simp only [ge_iff_le, not_le]

end Sys2Proof.Machine
end

section
/-! SUPPORT. The vector engine: the row that every primitive has in the engine's table (R129), and how the operation at the head of
the queue starts, is computed and streams out (R124 to R128, R182). -/

namespace Sys2Proof.Machine

/-! ### The rows (R129) -/

/-- A command is the VE's row for some primitives, its own code among them. -/
def IsVeRow (core : Nat) (e : Instr × Nat) : Prop := ∃ prims : Nat → Bool, prims e.2 = true ∧ ∀ s, exec e.1 s = veRow core prims s

theorem isVeRow_of_code {core n : Nat} {i : Instr} (h : ∀ s, exec i s = veRow core (fun m => m == n) s) : IsVeRow core (i, n) :=
  ⟨fun m => m == n, beq_self_eq_true n, h⟩

/-- ADD takes the codes that no primitive has beside its own. -/
theorem isVeRow_add (core : Nat) : IsVeRow core (.add core, 0x01) := ⟨fun m => m == 0x01 || !isPrim m, rfl, fun _ => rfl⟩

theorem isVeRow_of_element (core : Nat) : ∀ e ∈ veElementRows core, IsVeRow core e := by
  simp only [veElementRows, List.forall_mem_append, List.forall_mem_cons, List.not_mem_nil, false_implies, implies_true, and_true]
  refine ⟨⟨isVeRow_add core, ?_⟩, ?_⟩
  · and_intros <;> exact isVeRow_of_code fun _ => rfl
  · and_intros <;> exact isVeRow_of_code fun _ => rfl

theorem isVeRow_of_other (core : Nat) : ∀ e ∈ veOtherRows core, IsVeRow core e := by
  simp only [veOtherRows, List.forall_mem_cons, List.not_mem_nil, false_implies, implies_true, and_true]
  and_intros <;> exact isVeRow_of_code fun _ => rfl

theorem isVeRow_of_mem {core : Nat} {e : Instr × Nat} (h : e ∈ veElementRows core ++ veOtherRows core) : IsVeRow core e :=
  (List.mem_append.1 h).elim (isVeRow_of_element core e) (isVeRow_of_other core e)

/-! ### Starting (R126 to R128) -/

section Start

variable {s : State} {core : Nat} {o : IssueOp} {rest : List IssueOp} {d : W512}

theorem Head.readDesc_eq {q : List IssueOp} (h : Head s core q o rest d) :
    readDesc s core o = (described s core o, some d) := by
  rw [readDesc, readCore_of_noBadWord h.good, h.desc]
  rfl

/-- Reading a good range of core memory takes no free value. -/
theorem readCore_freeSeq {p a n : Nat} (h : badWord (getCore s p).bad a n = none) : (readCore s p a n).1.freeSeq = s.freeSeq := by
  unfold readCore
  simp only [h]
  split <;> rfl

theorem Head.described_freeSeq {q : List IssueOp} (h : Head s core q o rest d) : (described s core o).freeSeq = s.freeSeq :=
  readCore_freeSeq h.good

/-- The operation as it starts, before any check; `use` numbers its free values. -/
def veFresh (use : Nat) (o : IssueOp) (d : W512) : VeOp :=
  { op := o, use := use, desc := d, toD := (vOp d 3).kind == 3, toC := vPrim d == pSMAX && (vOp d 2).kind == 3 }

/-- A free VE takes the head operation of its queue when the row's primitives include the operation's. -/
theorem veRow_head {prims : Nat → Bool} (h : Head s core (getCore s core).qVe o rest d) (hfree : (getCore s core).ve.cur = none)
    (hprim : prims (vPrim d) = true) : veRow core prims s = .next (veStart (described s core o) core o rest d) := by
  rw [veRow, onUnit_true _ h.exists_, if_neg (by simp [h.running]), hfree, h.queue]
  dsimp only
  rw [h.readDesc_eq]
  exact congrArg _ (if_pos hprim)

/-- A descriptor that fails a check ends the operation, with the check's detail (R128). -/
theorem veStart_rejected {r : Nat} (hr : vReason d = some r) : veStart (described s core o) core o rest d =
    setCur (veTakes s core o rest) core (some { veFresh (described s core o).freeSeq o d with
      computed := true, fault := some (causeDescriptor, BitVec.ofNat 64 r) }) := by
  unfold veStart
  rw [hr]
  rfl

theorem veStart_nothing (hr : vReason d = none) (hn : vNothing d = true) : veStart (described s core o) core o rest d =
    setCur (veTakes s core o rest) core (some { veFresh (described s core o).freeSeq o d with computed := true }) := by
  unfold veStart
  rw [hr]
  exact if_pos hn

/-- With no operand from a queue the primitive is computed at once. -/
theorem veStart_computed (hr : vReason d = none) (hn : vNothing d = false)
    (h0 : needWords d 0 = 0) (h1 : needWords d 1 = 0) (h2 : needWords d 2 = 0) : veStart (described s core o) core o rest d =
      veCompute (veTakes s core o rest) core (veFresh (described s core o).freeSeq o d) := by
  unfold veStart
  rw [hr]
  refine (if_neg (by simp [hn])).trans ((if_pos ⟨h0, h1, h2⟩).trans ?_)
  rw [h0, h1, h2]
  rfl

/-- Operands from queues are waited for (R125). -/
theorem veStart_waits (hr : vReason d = none) (hn : vNothing d = false)
    (hneed : ¬ (needWords d 0 = 0 ∧ needWords d 1 = 0 ∧ needWords d 2 = 0)) : veStart (described s core o) core o rest d =
      setCur (veTakes s core o rest) core (some { veFresh (described s core o).freeSeq o d with
        needA := needWords d 0, needB := needWords d 1, needC := needWords d 2 }) := by
  unfold veStart
  rw [hr]
  exact (if_neg (by simp [hn])).trans (if_neg hneed)

end Start

/-! ### Going on (R125, R182) -/

section InHand

variable {s : State} {core : Nat} {o : VeOp} {prims : Nat → Bool} (hcore : coreOk s core = true) (hrun : runs s core = true)
  (hcur : (getCore s core).ve.cur = some o) (hprim : prims (vPrim o.desc) = true) (hopen : o.computed = false)

include hcore hrun hcur hprim hopen

/-- An operation in hand is computed when all its words have come. -/
theorem veRow_computes (hall : o.needA = 0 ∧ o.needB = 0 ∧ o.needC = 0) :
    veRow core prims s = .next (veCompute s core o) := by
  rw [veRow, onUnit_true _ hcore, if_neg (by simp [hrun]), hcur]
  dsimp only
  rw [if_neg (by simp [hprim, hopen]), if_pos hall]

/-- Before that it lets go what it has completed, when a queue takes its results. -/
theorem veRow_emits (hneed : ¬ (o.needA = 0 ∧ o.needB = 0 ∧ o.needC = 0)) (hto : (o.toD || o.toC) = true) :
    veRow core prims s = .next (veEmit s core o) := by
  rw [veRow, onUnit_true _ hcore, if_neg (by simp [hrun]), hcur]
  dsimp only
  rw [if_neg (by simp [hprim, hopen]), if_neg hneed, if_pos hto]

end InHand

/-- Settles O26: every command is the VE's row for its code, and that row takes the head operation in the state in which its
descriptor has been read, or goes on with the operation in hand. -/
theorem vectorPrimitivesRun : Obligations.VectorPrimitivesRun := by
  rintro s core e he start rfl
  obtain ⟨prims, hown, hrow⟩ := isVeRow_of_mem he
  refine ⟨fun o rest d h hfree hcode => ?_, fun o hcore hrun hcur hcode hopen => ?_⟩
  · have hprim : prims (vPrim d) = true := (congrArg prims hcode).trans hown
    have hfresh : veFresh (described s core o).freeSeq o d = veFresh s.freeSeq o d := by rw [h.described_freeSeq]
    rw [hrow, veRow_head h hfree hprim]
    refine ⟨fun r hr => ?_, fun hr hn => ?_, fun hr hn h0 h1 h2 => ?_, fun hr hn hneed => ?_⟩
    · rw [veStart_rejected hr, hfresh]
      rfl
    · rw [veStart_nothing hr hn, hfresh]
      rfl
    · rw [veStart_computed hr hn h0 h1 h2, hfresh]
      rfl
    · rw [veStart_waits hr hn hneed, hfresh]
      rfl
  · have hprim : prims (vPrim o.desc) = true := (congrArg prims hcode).trans hown
    rw [hrow]
    exact ⟨fun hA hB hC => veRow_computes hcore hrun hcur hprim hopen ⟨hA, hB, hC⟩,
      fun hneed hto => veRow_emits hcore hrun hcur hprim hopen hneed hto⟩

end Sys2Proof.Machine
end

section
/-! SUPPORT. One element of an elementwise primitive in core memory (R117, R118, R123, R126, R129): what reading an operand and
writing its result are there. -/

namespace Sys2Proof.Machine

/-! ### The primitives that compute element by element -/

/-- The codes of the elementwise primitives. -/
def elementCodes : List Nat := (veElementRows 0).map Prod.snd

theorem code_mem_elementCodes {core : Nat} {e : Instr × Nat} (h : e ∈ veElementRows core) : e.2 ∈ elementCodes := by
  have hmem := List.mem_map_of_mem (f := Prod.snd) h
  exact hmem

/-- None of them belongs to another kind of primitive. -/
theorem elementCodes_kind : ∀ p ∈ elementCodes, isRowOp p = false ∧ isNorm p = false ∧ isIndexedV p = false ∧ isGf p = false ∧
    isAngle p = false ∧ p ≠ pQUANT ∧ p ≠ pDEQUANT ∧ p ≠ pSMAX ∧ p ≠ pFINAL := by decide

theorem vWork_element {x : VCtx} (w : Work) (h : vPrim x.d ∈ elementCodes) : vWork x w = doElems x w := by
  obtain ⟨hrow, hnorm, hindex, hgf, hangle, hquant, hdequant, hsmax, hfinal⟩ := elementCodes_kind _ h
  simp only [isIndexedV, Bool.or_eq_false_iff, beq_eq_false_iff_ne] at hindex
  obtain ⟨⟨hgather, hscatter⟩, hscatadd⟩ := hindex
  simp [vWork, hrow, hnorm, hgf, hangle, hquant, hdequant, hsmax, hfinal, hgather, hscatter, hscatadd]

/-- Their elements have 4 bytes. -/
theorem elemSize_element {d : W512} (i : Nat) (h : vPrim d ∈ elementCodes) : elemSize d i = 4 := by
  obtain ⟨-, -, -, hgf, hangle, hquant, hdequant, hsmax, -⟩ := elementCodes_kind _ h
  simp [elemSize, vQOut, hgf, hangle, hquant, hdequant, hsmax]

/-! ### One element of core memory -/

/-- Element 0 stands at the operand's address whatever its strides are (R123). -/
theorem elemAddr_zero (o : Opnd) (z rowLen : Nat) : elemAddr o z rowLen 0 = o.addr := by simp [elemAddr]

/-- A core whose memory holds no word in error is left as it is by a read. -/
theorem readCore_clean {s : State} {p : Nat} (a n : Nat) (hbad : (getCore s p).bad = []) (hweak : (getCore s p).weak = []) :
    readCore s p a n = (s, some (readBytes (getCore s p).mem a n)) := by
  have hnone : badWord (getCore s p).bad a n = none := by simp [badWord, hbad]
  rw [readCore_of_noBadWord hnone]
  simp [readCore, hnone, hweak]

section Element

variable {x : VCtx} {w : Work} {i : Nat} (rl : Nat)

/-- A read of one word changes nothing and answers the 4 bytes at the operand's address. -/
theorem getWords_core (hprim : vPrim x.d ∈ elementCodes) (hkind : (vOp x.d i).kind = 1)
    (hbad : (getCore w.s x.p).bad = []) (hweak : (getCore w.s x.p).weak = []) : getWords x i rl [0] w =
      (w, [BitVec.ofNat 32 (leNat (readBytes (getCore w.s x.p).mem (vOp x.d i).addr 4))]) := by
  have hat : getAt x w i rl 0 = (w, leNat (readBytes (getCore w.s x.p).mem (vOp x.d i).addr 4)) := by
    simp [getAt, vRead, hkind, elemSize_element i hprim, elemAddr_zero, readCore_clean _ _ hbad hweak]
  simp [getWords, getAll, hat]

/-- An operand that a primitive does not take reads as 0. -/
theorem getWords_none (hkind : (vOp x.d i).kind = 0) : getWords x i rl [0] w = (w, [0]) := by
  simp [getWords, getAll, getAt, hkind]

/-- A write of one word to core memory puts its 4 bytes at the address of d, and its flags are noted. -/
theorem putRes_core (n : Nat) (r : Res) (hprim : vPrim x.d ∈ elementCodes) (hok : w.ok = true) (hdry : w.dry = false)
    (hkind : (vOp x.d 3).kind = 1) : putRes x rl [(0, n, r)] w =
      noteRes n r { w with s := modCore w.s x.p (fun c => writeCore c (vOp x.d 3).addr (leBytes 4 r.v.toNat)) } := by
  simp [putRes, putAll, joinWrites, vWrite, hok, hdry, hkind, elemSize_element 3 hprim, elemAddr_zero]

end Element

/-- A count of 1 is one group of element 0. -/
theorem groupsIn_one : groupsIn 64 1 = [[0]] := by decide

/-- Settles O27: the one group reads a and b, which change nothing, and writes one result. -/
theorem oneVectorElement : Obligations.OneVectorElement := by
  intro x w e r he hcode hok hfault hcount ha hb hc hd hdry hbad hweak hr
  have hcode' : vPrim x.d = e.2 := hcode
  have hprim : vPrim x.d ∈ elementCodes := hcode' ▸ code_mem_elementCodes he
  have hone : vCount x.d = 1 := hcount
  rw [vWork_element w hprim, doElems, hone, groupsIn_one]
  dsimp only [overGroups, List.foldl_cons, List.foldl_nil]
  rw [if_pos (by simp [hok, hfault]), getWords_core _ hprim ha hbad hweak]
  dsimp only
  rw [getWords_core _ hprim hb hbad hweak]
  dsimp only
  rw [getWords_none _ hc, hr, ← hcode']
  exact putRes_core _ 0 _ hprim hok hdry hd

end Sys2Proof.Machine
end

section
/-! SUPPORT. A DMA operation after its start: the credits that it takes, its completion, and what comes late (R53, R156, R224,
R230, R231, R261). -/

namespace Sys2Proof.Machine

/-! ### Credits (R156, R261) -/

/-- The state in which counter `i` of a core has given up `u` units. -/
def tookUnits (s : State) (core i u : Nat) : State :=
  modCore s core (fun c => setCtr c i ((getCtr (getCore s core) i).at ((getCtr (getCore s core) i).value.toNat - u)))

/-- A counter that has not faulted and holds `u` units gives them up (R62). -/
theorem modCore_ctrSub_applied {s : State} {core i u : Nat} (hf : (getCtr (getCore s core) i).fault = false)
    (hu : (getCtr (getCore s core) i).value.toNat ≥ u) :
    modCore s core (fun c => setCtr c i (ctrSub (getCtr (getCore s core) i) u).1) = tookUnits s core i u := by
  rw [ctrSub_eq, updated_of ⟨hf, hu⟩]
  rfl

section Operation

variable {s : State} {core tag : Nat} {o : DmaOp} (hcore : coreOk s core = true) (hop : getTag (getCore s core) tag = some o)
include hcore hop

/-- DMA_CREDIT_TAKE with the units there. -/
theorem exec_dmaCreditTake {i u : Nat} (hwait : o.wait = some (i, u)) (hrun : runs s core = true)
    (hf : (getCtr (getCore s core) i).fault = false) (hu : (getCtr (getCore s core) i).value.toNat ≥ u) :
    exec (.dmaCreditTake core tag) s =
      .next (pump (modTag (tookUnits s core i u) core tag (fun o => { o with wait := none })) core) := by
  refine exec_of_onUnit hcore rfl ?_
  rw [hop]
  dsimp only
  rw [hwait]
  exact (if_pos ⟨hrun, hf, hu⟩).trans (by rw [modCore_ctrSub_applied hf hu])

/-- PATTERN_CHUNK of a PATTERN that waits for nothing and has a chunk to start: the chunk needs no units, or they are there. -/
theorem exec_patternChunk (hmode : dMode o.desc = 3) (hrun : runs s core = true) (hwait : o.wait = none) (hgo : o.go = true)
    (hfail : o.fail = none) (hchunk : o.chunk < dSize2 o.desc)
    (htake : dFreeTake o.desc = 0 ∨ (getCtr (getCore s core) (dFreeSync o.desc)).fault = false ∧
      (getCtr (getCore s core) (dFreeSync o.desc)).value.toNat ≥ dFreeTake o.desc) :
    exec (.patternChunk core tag) s = .next (raiseReady (pump (modTag
      (if dFreeTake o.desc = 0 then s else tookUnits s core (dFreeSync o.desc) (dFreeTake o.desc)) core tag
      (fun o => { o with chunk := o.chunk + 1 })) core) core tag) := by
  have htaken : (if dFreeTake o.desc = 0 then s else modCore s core (fun c => setCtr c (dFreeSync o.desc)
      (ctrSub (getCtr (getCore s core) (dFreeSync o.desc)) (dFreeTake o.desc)).1)) =
      if dFreeTake o.desc = 0 then s else tookUnits s core (dFreeSync o.desc) (dFreeTake o.desc) := by
    split
    · rfl
    · next h0 =>
      obtain ⟨hf, hu⟩ := htake.resolve_left h0
      exact modCore_ctrSub_applied hf hu
  refine exec_of_onUnit hcore rfl ?_
  rw [hop]
  dsimp only
  rw [if_neg (by simp [isPattern, hmode, hrun, hwait]), if_pos ⟨hgo, by simp [hfail], hchunk, htake⟩, htaken]

/-! ### Completion (R53, R224, R230) -/

/-- DMA_OP_COMPLETE of a finished operation that met no time-out: its tag is free, and its first failure traps its thread. -/
theorem exec_dmaOpComplete {u : State} (hrun : runs s core = true) (hfin : dmaFinished (getCore s core) tag o = true)
    (hlate : o.timedOut = false) (hu : u = opDone (setCore s core (setTag (getCore s core) tag none)) core o.op) :
    exec (.dmaOpComplete core tag) s = .next (jobCheckAt (match o.fail with
      | none => u
      | some (c, w, _) => trapOp u core o.op c 0 w) core) := by
  subst hu
  refine exec_of_onUnit hcore rfl ?_
  dsimp only
  rw [hop]
  dsimp only
  rw [if_pos (by rw [hrun, hfin]; rfl), hlate]
  rfl

/-! ### Time-outs (R231) -/

/-- DMA_TRANSFER_TIMEOUT of a transfer of the operation whose answer is late. -/
theorem exec_dmaTransferTimeout_transfer {n : Nat} {y : Xfer} (htag : tag < 1024)
    (hrec : (getCore s core).records.find? (fun r => r.tag == tag && r.answer.isNone) = none)
    (hlive : o.live.find? (fun y => y.n == n) = some y) (hfrozen : (getCore s core).frozenAt = none)
    (hlate : coreNow s (getCore s core) ≥ y.sentAt + dmaTimeout (getCore s core)) :
    exec (.dmaTransferTimeout core tag n) s =
      .next (xferFail s core tag y causeDmaTimeout (dmaDetail (if y.write = true then 2 else 1) y.addr)) := by
  refine exec_of_onUnit hcore rfl ?_
  dsimp only
  rw [if_neg (Nat.not_le.2 htag), hrec]
  dsimp only
  rw [hop]
  dsimp only
  rw [hlive]
  exact if_pos (by simp [isFrozen, hfrozen, hlate])

end Operation

section Tag

variable {s : State} {core tag : Nat} (hcore : coreOk s core = true)
include hcore

/-- DMA_TRANSFER_TIMEOUT of a tag under which a replay record is written: a late write counts as answered with 2. -/
theorem exec_dmaTransferTimeout_record {n : Nat} {r : RecordWrite} (htag : tag < 1024) (hfrozen : (getCore s core).frozenAt = none)
    (hrec : (getCore s core).records.find? (fun r => r.tag == tag && r.answer.isNone) = some r)
    (hlate : coreNow s (getCore s core) ≥ r.sentAt + dmaTimeout (getCore s core)) :
    exec (.dmaTransferTimeout core tag n) s = .next (recordAnswered s core r 2) := by
  refine exec_of_onUnit hcore rfl ?_
  dsimp only
  rw [if_neg (Nat.not_le.2 htag), hrec]
  exact if_pos (by simp [isFrozen, hfrozen, hlate])

/-- DMA_TAG_HOLD_EXPIRY at or after the time until which the tag is held. -/
theorem exec_dmaTagHoldExpiry {t : Nat} (hheld : tget none (getCore s core).held tag = some t) (ht : s.fab ≥ t) :
    exec (.dmaTagHoldExpiry core tag) s = .next (modCore s core (fun c => { c with held := tset none c.held tag none })) := by
  refine exec_of_onUnit hcore rfl ?_
  rw [hheld]
  exact if_pos ht

end Tag

/-- Settles O31: the hypotheses of each clause are the conditions under which its command acts; whether a chunk takes units and
whether the operation failed decide between two clauses each. -/
theorem dmaOperationsGoOn : Obligations.DmaOperationsGoOn := by
  intro s core tag hcore
  refine ⟨fun o i u hop hwait hrun hf hu => exec_dmaCreditTake hcore hop hwait hrun hf hu,
    fun o hop hmode hrun hwait hgo hfail hchunk => ⟨fun hzero => ?_, fun k hk hsome hf hu => ?_⟩,
    fun o u hop hrun hfin hlate hu => ?_,
    fun n r htag hfrozen hrec hlate => exec_dmaTransferTimeout_record hcore htag hfrozen hrec hlate,
    fun o n y htag hop hrec hlive hfrozen hlate => exec_dmaTransferTimeout_transfer hcore hop htag hrec hlive hfrozen hlate,
    fun t hheld ht => exec_dmaTagHoldExpiry hcore hheld ht⟩
  · rw [exec_patternChunk hcore hop hmode hrun hwait hgo hfail hchunk (.inl hzero)]
    rw [if_pos (show dFreeTake o.desc = 0 from hzero)]
  · subst hk
    rw [exec_patternChunk hcore hop hmode hrun hwait hgo hfail hchunk (.inr ⟨hf, hu⟩)]
    rw [if_neg (show ¬ dFreeTake o.desc = 0 from hsome)]
    rfl
  · have hexec := exec_dmaOpComplete hcore hop hrun hfin hlate hu
    exact ⟨fun hf => by rw [hexec, hf], fun c w n hf => by rw [hexec, hf]⟩

end Sys2Proof.Machine
end

section
/-! SUPPORT. The receiver's side of the message channels: receives at the queue ports, the cells of a message, and the records of a
ring (R53, R159 to R163, R214, R215, R217 to R220). -/

namespace Sys2Proof.Machine

/-! ### Channels of a core -/

@[simp] theorem getRecv_setRecv_same (c : Core) (i : Nat) (v : RecvCh) : getRecv (setRecv c i v) i = v := tget_tset_same _ _ i v

/-- An arrival counts as progress, which leaves every receive channel. -/
@[simp] theorem getRecv_hear (s : State) (x p i : Nat) : getRecv (getCore (hear s x) p) i = getRecv (getCore s p) i := by
  unfold hear
  split
  · by_cases hp : p = servedBy s x
    · subst hp
      rw [progress, getCore_modCore_same]
      rfl
    · rw [progress, modCore, getCore_setCore_other _ _ hp]
  · rfl

/-! ### A receive starts (R53, R218, R219) -/

/-- The state in which the head operation has left the queue of the queue ports. -/
def portTakes (s : State) (core : Nat) (o : IssueOp) (rest : List IssueOp) : State :=
  stir (modCore (described s core o) core (fun c => unstall { c with qPort := rest })) core

/-- A receive that has left its queue: a failed check traps it, a length of 0 completes it, else it waits on its channel. -/
def receiveStarts (u : State) (core : Nat) (o : IssueOp) (d : W512) : State :=
  if portReason (getCore u core) false d ≠ 0 then
    jobCheckAt (trapOp (opDone u core o) core o causeDescriptor 0 (BitVec.ofNat 64 (portReason (getCore u core) false d))) core
  else if qLen d = 0 then jobCheckAt (opDone u core o) core
  else modCore u core (fun c => setRecv c (qChan d) { getRecv c (qChan d) with
    ops := (getRecv c (qChan d)).ops ++ [(o, d, coreNow u c)] })

/-- RECEIVE_OPERATION takes an ISSUE_RECV at the head of the queue. -/
theorem exec_receiveOperation {s u : State} {core : Nat} {o : IssueOp} {rest : List IssueOp} {d : W512}
    (h : Head s core (getCore s core).qPort o rest d) (hop : opcode o.word = opIssueRecv) (hu : u = portTakes s core o rest) :
    exec (.receiveOperation core) s = .next (receiveStarts u core o d) := by
  rw [hu]
  refine exec_of_onUnit h.exists_ rfl ?_
  rw [h.queue]
  dsimp only
  rw [if_neg (by simp [h.running, hop]), h.readDesc_eq]
  rfl

section Receive

variable {u : State} {core : Nat} {o : IssueOp} {d : W512}

theorem receiveStarts_rejected (hr : portReason (getCore u core) false d ≠ 0) : receiveStarts u core o d =
    jobCheckAt (trapOp (opDone u core o) core o causeDescriptor 0 (BitVec.ofNat 64 (portReason (getCore u core) false d))) core :=
  if_pos hr

theorem receiveStarts_empty (hr : portReason (getCore u core) false d = 0) (hlen : qLen d = 0) :
    receiveStarts u core o d = jobCheckAt (opDone u core o) core := (if_neg (not_not.2 hr)).trans (if_pos hlen)

theorem receiveStarts_waits (hr : portReason (getCore u core) false d = 0) (hlen : qLen d ≠ 0) : receiveStarts u core o d =
    modCore u core (fun c => setRecv c (qChan d) { getRecv c (qChan d) with
      ops := (getRecv c (qChan d)).ops ++ [(o, d, coreNow u c)] }) := (if_neg (not_not.2 hr)).trans (if_neg hlen)

end Receive

/-! ### The first cell of a message (R161, R215, R217) -/

/-- A place in the ring is the last record of its channel (R161). -/
theorem exists_getLast_of_reserve {c k : Core} {i len sender chan attempt now : Nat} {parity : Bool}
    (h : reserve c i len sender chan attempt parity now = some k) : ∃ q, (getRecv k i).recs.getLast? = some q := by
  unfold reserve at h
  dsimp only at h
  generalize (if (getRecv c i).wp % ringSize (getRecv c i) = 0 then true else _) = fits at h
  cases fits with
  | true => -- the record stands where the ring stands
    rw [if_pos rfl] at h
    obtain ⟨-, hplaced⟩ := Option.ite_none_right_eq_some.1 h
    obtain rfl := Option.some.inj hplaced
    simp
  | false => -- a pad fills the end of the ring, and the record stands at its start
    rw [if_neg Bool.false_ne_true] at h
    obtain ⟨-, hplaced⟩ := Option.ite_none_right_eq_some.1 h
    obtain rfl := Option.some.inj hplaced
    simp

section First

variable {s s0 : State} {x p i sender now : Nat} {c : Cell}

/-- The cell is taken and refused for a reason, which the channel's NACKs count (R217, R220). -/
def refuseMessage (s0 : State) (x p i : Nat) (c : Cell) (reason : Nat) : State :=
  sendNack (modCore (hear s0 x) p (fun k => setRecv k i
    { getRecv k i with stats := bumpStat (getRecv (getCore s0 p) i).stats 43 24 1 })) x c.src c.tag reason

/-- What the core `p` at position `x` does with the first cell `c` of a message when the cell has left the arrivals, in `s0`:
channel `i` refuses the message, acknowledges it again, or places a record for it. -/
def messageOffered (s0 : State) (x p i sender now : Nat) (c : Cell) : State :=
  let r := getRecv (getCore s0 p) i
  if r.state = 2 then refuseMessage s0 x p i c 3
  else if r.state = 1 ∨ !bit r.cfg 0 then refuseMessage s0 x p i c 2
  else if r.table.contains (sender, c.tag / 16, c.tag / 8 % 2 == 1) then sendMsgAck (hear s0 x) x c.src c.tag
  else
    match reserve (getCore s0 p) i (numAt c.bytes 0 4) sender (c.tag / 16) (c.tag % 8) (c.tag / 8 % 2 == 1) now with
    | none => refuseMessage s0 x p i c 1
    | some k =>
      match (getRecv (getCore (hear (setCore s0 p k) x) p) i).recs.getLast? with
      | none => hear (setCore s0 p k) x
      | some q => fillRecord (hear (setCore s0 p k) x) x i q c.src c.tag (slice c.bytes 8 24)

/-- MSG_FIRST at a core position that is not reached: a NACK of reason 3 (R212). -/
theorem exec_msgFirst_deaf (hpos : posOk s x = true) (hhead : headCell s x 0x06 = some c) (hcol : x % 64 < 32)
    (hdeaf : deaf s x = true) : exec (.msgFirst x) s = .next (sendNack (popCell s x) x c.src c.tag 3) := by
  refine exec_of_onUnit hpos rfl ?_
  rw [hhead]
  dsimp only
  rw [if_neg (by simp [isCorePos, hcol]), if_pos hdeaf]

/-- MSG_FIRST at a core position that is reached: the message is offered to the channel that the cell names. -/
theorem exec_msgFirst_reached (hpos : posOk s x = true) (hhead : headCell s x 0x06 = some c) (hcol : x % 64 < 32)
    (hopen : deaf s x = false) (hs0 : s0 = popCell s x) (hp : p = servedBy s x) (hi : i = numAt c.bytes 4 1 % 64)
    (hsender : sender = ((indexOfLog s x).bind (fun _ => (indexOfLog s c.src).map (fun e => e.2))).getD 0) :
    exec (.msgFirst x) s = .next (messageOffered s0 x p i sender s.fab c) := by
  rw [hs0, hp, hi, hsender]
  refine exec_of_onUnit hpos rfl ?_
  rw [hhead]
  dsimp only
  rw [if_neg (by simp [isCorePos, hcol]), if_neg (by simp [hopen])]
  rfl

theorem messageOffered_reset (hstate : (getRecv (getCore s0 p) i).state = 2) :
    messageOffered s0 x p i sender now c = refuseMessage s0 x p i c 3 := if_pos hstate

theorem messageOffered_closed (hreset : (getRecv (getCore s0 p) i).state ≠ 2)
    (hclosed : (getRecv (getCore s0 p) i).state = 1 ∨ bit (getRecv (getCore s0 p) i).cfg 0 = false) :
    messageOffered s0 x p i sender now c = refuseMessage s0 x p i c 2 :=
  (if_neg hreset).trans (if_pos (by simpa using hclosed))

section Enabled

variable (hreset : (getRecv (getCore s0 p) i).state ≠ 2) (hclosed : (getRecv (getCore s0 p) i).state ≠ 1)
  (henabled : bit (getRecv (getCore s0 p) i).cfg 0 = true)
include hreset hclosed henabled

/-- A message that the channel has completed already. -/
theorem messageOffered_again (hdone : (getRecv (getCore s0 p) i).table.contains (sender, c.tag / 16, c.tag / 8 % 2 == 1) = true) :
    messageOffered s0 x p i sender now c = sendMsgAck (hear s0 x) x c.src c.tag :=
  (if_neg hreset).trans ((if_neg (by simp [hclosed, henabled])).trans (if_pos hdone))

variable (hnew : (getRecv (getCore s0 p) i).table.contains (sender, c.tag / 16, c.tag / 8 % 2 == 1) = false)
include hnew

theorem messageOffered_full (hfull : reserve (getCore s0 p) i (numAt c.bytes 0 4) sender (c.tag / 16) (c.tag % 8)
    (c.tag / 8 % 2 == 1) now = none) : messageOffered s0 x p i sender now c = refuseMessage s0 x p i c 1 := by
  refine (if_neg hreset).trans ((if_neg (by simp [hclosed, henabled])).trans ((if_neg (Bool.eq_false_iff.1 hnew)).trans ?_))
  rw [hfull]

/-- A message that the ring has room for: its record, the last of the channel, takes the cell's message bytes. -/
theorem messageOffered_placed {k : Core} {q : RingRec} (hplaced : reserve (getCore s0 p) i (numAt c.bytes 0 4) sender (c.tag / 16)
    (c.tag % 8) (c.tag / 8 % 2 == 1) now = some k) (hlast : (getRecv k i).recs.getLast? = some q) :
    messageOffered s0 x p i sender now c =
      fillRecord (hear (setCore s0 p k) x) x i q c.src c.tag (slice c.bytes 8 24) := by
  refine (if_neg hreset).trans ((if_neg (by simp [hclosed, henabled])).trans ((if_neg (Bool.eq_false_iff.1 hnew)).trans ?_))
  rw [hplaced]
  dsimp only
  rw [getRecv_hear, getCore_setCore_same, hlast]

end Enabled

end First

/-! ### Following cells (R215) -/

/-- The open record, with its channel, that `isIt` picks among those of core `c`, the lowest channel first. -/
def openMessage (c : Core) (isIt : RingRec → Bool) : Option (Nat × RingRec) :=
  (List.range 64).findSome? (fun i => ((getRecv c i).recs.find? isIt).map (fun q => (i, q)))

/-- MSG_NEXT at a core position: the record that the cell belongs to takes its bytes. -/
theorem exec_msgNext {s s0 : State} {x p sender : Nat} {c : Cell} {isIt : RingRec → Bool} (h : Arrives s x 0x07 c)
    (hcol : x % 64 < 32) (hs0 : s0 = popCell s x) (hp : p = servedBy s x)
    (hsender : sender = ((indexOfLog s c.src).map (fun e => e.2)).getD 0)
    (hisIt : isIt = (fun q => q.kind == 0 && !q.done && q.sender == sender && q.chan == c.tag / 16 &&
      q.parity == (c.tag / 8 % 2 == 1) && q.attempt == c.tag % 8)) :
    exec (.msgNext x) s = .next (match openMessage (getCore s0 p) isIt with
      | none => hear s0 x
      | some (i, q) => fillRecord (hear s0 x) x i q c.src c.tag c.bytes) := by
  rw [hs0, hp, hisIt, hsender]
  refine exec_of_onUnit h.pos rfl ?_
  rw [h.head]
  dsimp only
  rw [if_neg (by simp [h.open_, isCorePos, hcol])]
  rfl

/-! ### Records leave the ring (R53, R162, R163, R218, R220) -/

section Ring

variable {s : State} {core i : Nat} {r : RecvCh} (hcore : coreOk s core = true) (hi : i < 64) (hr : r = getRecv (getCore s core) i)
include hcore hi hr

/-- RECEIVE_TAKES_RECORD: the oldest completed message and its receipt go to the addresses of the first waiting receive. -/
theorem exec_receiveTakesRecord {o : IssueOp} {d : W512} {since n w : Nat} {ops : List (IssueOp × W512 × Nat)}
    {skip rest : List RingRec} {q : RingRec} {u : State} (hrun : runs s core = true) (hops : r.ops = (o, d, since) :: ops)
    (hnext : nextMessage r.recs = some (skip, q, rest)) (hn : n = min q.len (qLen d))
    (hgood : badWord (getCore s core).bad (ringBase r + q.off + 16) n = none) (hw : w = r.waited + (q.since - since))
    (hu : u = (readCore s core (ringBase r + q.off + 16) n).1) :
    exec (.receiveTakesRecord core i) s = .next (jobCheckAt (opDone (modCore u core (fun c => setRecv (writeCore (writeCore c
      (qAddr d) (readBytes (getCore s core).mem (ringBase r + q.off + 16) n))
      (qReceipt d) (receiptBytes q (decide (q.len > qLen d)))) i
      { r with ops := ops.map (fun e => (e.1, e.2.1, max e.2.2 (coreNow u c))), recs := rest,
               rp := r.rp + ((skip.map (fun y => y.need)).sum + q.need), waited := w,
               stats := stallStat (bumpStat r.stats 23 0 1) w })) core o) core) := by
  subst hr hn hw hu
  refine exec_of_onUnit (by simp [hcore, hi]) rfl ?_
  dsimp only
  rw [hops, hnext]
  dsimp only
  rw [if_neg (by simp [hrun]), readCore_of_noBadWord hgood]

/-- RESERVATION_TIMEOUT of a record that is as old as the channel's time: it becomes padding (R163). -/
theorem exec_reservationTimeout {res : Nat} {q : RingRec}
    (hfind : r.recs.find? (fun q => q.seq == res && q.kind == 0 && !q.done) = some q)
    (hlate : s.fab ≥ q.since + chanTime (fld r.cfg 8 5)) :
    exec (.reservationTimeout core i res) s = .next (modCore s core (fun c =>
      setRecv (writeCore c (ringBase r + q.off) (ringHeader q.len 2 q.chan q.sender q.seq)) i
        (modRec (getRecv (writeCore c (ringBase r + q.off) (ringHeader q.len 2 q.chan q.sender q.seq)) i) res
          (fun y => { y with kind := 2, done := true })))) := by
  subst hr
  refine exec_of_onUnit (by simp [hcore, hi]) rfl ?_
  dsimp only
  rw [hfind]
  exact if_pos hlate

end Ring

/-- Settles O36: the checks of the head receive, the state of the channel that a cell names, and the records of its ring decide. -/
theorem channelReceives : Obligations.ChannelReceives := by
  refine ⟨?_, ?_, ?_, ?_, ?_⟩
  · rintro s core o rest d u h hop hu
    rw [exec_receiveOperation h hop hu]
    refine ⟨?_, fun hr hlen => congrArg _ (receiveStarts_empty hr hlen), fun hr hlen => congrArg _ (receiveStarts_waits hr hlen)⟩
    rintro r rfl hr
    exact congrArg _ (receiveStarts_rejected hr)
  · rintro s s0 x c p i sender r nack hpos hhead hcol hs0 hp hi rfl hsender rfl
    refine ⟨fun hdeaf => hs0 ▸ exec_msgFirst_deaf hpos hhead hcol hdeaf, fun hopen => ?_⟩
    rw [exec_msgFirst_reached hpos hhead hcol hopen hs0 hp hi hsender]
    refine ⟨fun hreset => congrArg _ (messageOffered_reset hreset),
      fun hreset hclosed => congrArg _ (messageOffered_closed hreset hclosed), fun hreset hclosed henabled =>
        ⟨fun hdone => congrArg _ (messageOffered_again hreset hclosed henabled hdone), fun hnew res hres => ?_⟩⟩
    subst hres
    refine ⟨fun hfull => congrArg _ (messageOffered_full hreset hclosed henabled hnew hfull), fun k hplaced => ?_⟩
    obtain ⟨q, hlast⟩ := exists_getLast_of_reserve hplaced
    exact ⟨q, hlast, congrArg _ (messageOffered_placed hreset hclosed henabled hnew hplaced hlast)⟩
  · intro s s0 x c p sender isIt h hcol hs0 hp hsender hisIt
    rw [exec_msgNext h hcol hs0 hp hsender hisIt]
    refine ⟨fun i q hfound => ?_, fun hnone => ?_⟩
    · rw [show openMessage (getCore s0 p) isIt = some (i, q) from hfound]
    · rw [show openMessage (getCore s0 p) isIt = none from hnone]
  · exact fun s core i r o d since ops skip rest q n w hcore hi hrun hr hops hnext hn hgood hw u hu =>
      exec_receiveTakesRecord hcore hi hr hrun hops hnext hn hgood hw hu
  · exact fun s core i res r q hcore hi hr hfind hlate => exec_reservationTimeout hcore hi hr hfind hlate

end Sys2Proof.Machine
end

section
/-! SUPPORT. The bytes of a vector word and its sixteen lanes: what the adder of a switch makes of two words (R167, R185). -/

namespace Sys2Proof.Machine

/-! ### Numbers from bytes (R8) -/

/-- Bytes are the digits of their number in base 256. -/
theorem leNat_eq_ofDigits (l : List Byte) : leNat l = Nat.ofDigits 256 (l.map BitVec.toNat) := by
  induction l with
  | nil => rfl
  | cons b r ih => rw [leNat, List.map_cons, Nat.ofDigits_cons, ih, Nat.mul_comm]

theorem leNat_append (l m : List Byte) : leNat (l ++ m) = leNat l + 256 ^ l.length * leNat m := by
  simp only [leNat_eq_ofDigits, List.map_append, Nat.ofDigits_append, List.length_map]

theorem leNat_leBytes (n v : Nat) : leNat (leBytes n v) = v % 256 ^ n := by
  induction n generalizing v with
  | zero => exact (Nat.mod_one v).symm
  | succ n ih =>
    rw [leBytes, leNat, ih, BitVec.toNat_ofNat, Nat.shiftRight_eq_div_pow, Nat.pow_succ' (n := n), Nat.mod_mul, Nat.mul_comm]

/-- The bytes of 32-bit words, one word after the other, spell the number whose digits in base 2^32 the words are. -/
theorem leNat_words (f : Nat → W32) (l : List Nat) :
    leNat (l.flatMap (fun i => leBytes 4 (f i).toNat)) = Nat.ofDigits (2 ^ 32) (l.map (fun i => (f i).toNat)) := by
  induction l with
  | nil => rfl
  | cons i r ih =>
    rw [List.flatMap_cons, leNat_append, leNat_leBytes, leBytes_length, ih, List.map_cons, Nat.ofDigits_cons,
      Nat.mod_eq_of_lt ((f i).isLt.trans_eq (by decide))]
    rfl

/-! ### Lanes (R167) -/

theorem words_lt (f : Nat → W32) (l : List Nat) : ∀ d ∈ l.map (fun i => (f i).toNat), d < 2 ^ 32 :=
  List.forall_mem_map.2 fun i _ => (f i).isLt

/-- The lanes that a word is made of are the digits of its number. -/
theorem fromLanes_toNat (f : Nat → W32) :
    (fromLanes f).toNat = Nat.ofDigits (2 ^ 32) ((List.range 16).map (fun i => (f i).toNat)) := by
  have hlt := Nat.ofDigits_lt_base_pow_length (by decide) (words_lt f (List.range 16))
  rw [List.length_map, List.length_range, ← Nat.pow_mul, show 32 * 16 = 512 from rfl] at hlt
  rw [fromLanes, leNat_words, BitVec.toNat_ofNat, Nat.mod_eq_of_lt hlt]

@[simp] theorem lane_fromLanes (f : Nat → W32) {i : Nat} (hi : i < 16) : lane (fromLanes f) i = f i := by
  have hdrop : ((List.range 16).map (fun i => (f i).toNat)).drop i =
      (f i).toNat :: ((List.range 16).map (fun i => (f i).toNat)).drop (i + 1) := by
    rw [List.drop_eq_getElem_cons (by simpa using hi), List.getElem_map, List.getElem_range]
  apply BitVec.eq_of_toNat_eq
  rw [lane, BitVec.toNat_ofNat, fromLanes_toNat, Nat.shiftRight_eq_div_pow, Nat.pow_mul,
    Nat.ofDigits_div_pow_eq_ofDigits_drop i (by decide) _ (words_lt f _), hdrop, Nat.ofDigits_cons, Nat.add_mul_mod_self_left]
  exact Nat.mod_eq_of_lt (f i).isLt

/-! ### The sum of two words (R185) -/

/-- In either mode the adder works lane by lane. -/
theorem lane_addWords (fp : Bool) (a b : VnWord) {i : Nat} (hi : i < 16) : lane (addWords fp a b).data i =
    if fp then fadd (lane a.data i) (lane b.data i) else lane a.data i + lane b.data i := lane_fromLanes _ hi

/-- Settles O38: the lanes of a word made of lanes are those lanes. -/
theorem adderLanes : Obligations.AdderLanes :=
  fun a b => ⟨fun _ hi => lane_addWords false a b hi, fun _ => rfl⟩

end Sys2Proof.Machine
end

section
/-! SUPPORT. The commands of the scheduled networks: a slot of a partition's switches, the adder of a switch, a steering unit's
next token, a return word at its producer and the header of a slice context (R171, R179, R185 to R191). -/

namespace Sys2Proof.Machine

/-! ### A slot of a partition (R171) -/

/-- A word is on a link or a crossing of one of the partition's switches before the slot or after it. -/
def SlotMoves (s : State) (pt : Part) (faults : List (Nat × Nat × Nat)) : Prop :=
  ∃ x, x ∈ partSwitches pt ∧ (inMotion (getSwitch s x) = true ∨ inMotion (getSwitch (vnSlot s pt faults) x) = true)

/-- VN_SWITCH_SLOT of a partition that exists: its switches carry out the slot, and `n`, which is 0 when words move, decides whether
it is one more quiet slot. -/
theorem exec_vnSwitchSlot {s : State} {part n : Nat} {faults : List (Nat × Nat × Nat)} {pt : Part} (hpart : part < 64)
    (hpt : getPart s part = some pt) (hn : n = 0 ↔ SlotMoves s pt faults) : exec (.vnSwitchSlot part faults) s =
      .next (modPart (vnSlot s pt faults) part (fun q => { q with quiet := if n = 0 then 0 else q.quiet + 1 })) := by
  have hmoving : (partSwitches pt).any (fun x => inMotion (getSwitch s x) || inMotion (getSwitch (vnSlot s pt faults) x)) =
      decide (n = 0) := by
    rw [Bool.eq_iff_iff, decide_eq_true_iff, hn]
    simp only [SlotMoves, List.any_eq_true, Bool.or_eq_true]
  refine exec_of_onUnit (decide_eq_true hpart) rfl ?_
  rw [hpt]
  dsimp only
  rw [hmoving]
  simp only [decide_eq_true_iff]

/-! ### The adder (R185) -/

/-- ADDER_FIRE with a word in both input queues and room for the sum that this cycle has not seen yet. -/
theorem exec_adderFire {s : State} {x : Nat} {w : Switch} {a b : VnWord} {ra rb : List VnWord} (hcore : coreOk s x = true)
    (hw : w = getSwitch s x) (ha : w.aa = a :: ra) (hb : w.ab = b :: rb) (hnew : w.arNew = 0) (hroom : w.ar.length < portDepth)
    (hmode : addMode w = 1 ∨ addMode w = 2) :
    exec (.adderFire x) s = .next (setSwitch s x { w with aa := ra, ab := rb, ar := w.ar ++ [addWords (addMode w == 2) a b], arNew := 1,
                                                          freedAA := w.freedAA + 1, freedAB := w.freedAB + 1 }) := by
  subst hw
  refine exec_of_onUnit hcore rfl ?_
  dsimp only
  rw [ha, hb]
  exact if_neg (by omega)

/-! ### Steering units (R186 to R189) -/

section Steering

variable {s : State} {core unit tok : Nat} {u : Steer} {rest : List Nat}

/-- The core's steering unit becomes `v`. -/
def putSteer (s : State) (core unit : Nat) (v : Steer) : State := modCore s core (fun c => { c with steer := tset {} c.steer unit v })

/-- The unit after a word of the input that its token names has left: `r` are the words that the input still holds. -/
def steerTakes (u : Steer) (tok : Nat) (r : List VnWord) : Steer :=
  steerCount (if tok / 32 % 2 = 1 then { u with d1 := r } else { u with d0 := r }) (u.moved + 1) tok

/-- One more place is free in the input that the token names (R188). -/
def steerFrees (tok : Nat) (v : Steer) : Steer :=
  if tok / 32 % 2 = 1 then { v with freed1 := v.freed1 + 1 } else { v with freed0 := v.freed0 + 1 }

/-- The word `w` has left for the unit's input queue `q`: the queue notes the input that it comes from, and the word sets out at the
switch of the core. -/
def steerSends (s : State) (core q tok : Nat) (w : VnWord) : State :=
  let s1 := modIn s core q (fun x => { x with origin := x.origin ++ [if tok / 32 % 2 = 1 then 1 else 0] })
  match logOf s1 core with
  | none => s1
  | some l => modSwitch s1 (homeOf l) (fun y => { y with inbound := y.inbound ++ [(q, w, 2, core != homeOf l)] })

/-- What a unit that is ready does with the token at the head of its control FIFO (R187 to R189). -/
def steerActs (s : State) (core unit : Nat) (u : Steer) (tok : Nat) (rest : List Nat) : State :=
  if tok / 64 ≥ 2 then steerFault (putSteer s core unit { u with ctl := rest }) core unit 2
  else if tok % 32 = 0 then putSteer s core unit { u with ctl := rest, busy := true }
  else match (if tok / 32 % 2 = 1 then u.d1 else u.d0) with
    | [] => s
    | w :: r =>
      if tok / 64 = 1 then progress (putSteer s core unit (steerFrees tok (steerTakes u tok r))) core
      else steerSends (putSteer s core unit (steerTakes u tok r)) core (fld u.cfg 4 1) tok w

/-- STEERING_MOVE of an enabled unit without a fault that has moved nothing in this cycle. -/
theorem exec_steeringMove (hcore : coreOk s core = true) (hunit : unit < 4) (hu : u = tget ({} : Steer) (getCore s core).steer unit)
    (hon : bit u.cfg 0 = true) (hgood : u.fault = none) (hidle : u.busy = false) (hctl : u.ctl = tok :: rest) :
    exec (.steeringMove core unit) s = .next (steerActs s core unit u tok rest) := by
  refine exec_of_onUnit (by simp [hcore, hunit]) rfl ?_
  dsimp only
  rw [← hu, if_neg (by simp [hon, hgood, hidle])]
  split
  · next hnil => simp [hnil] at hctl
  · next hcons =>
    obtain ⟨rfl, rfl⟩ := List.cons.inj (hcons.symm.trans hctl)
    rfl

theorem steerActs_reserved (h : tok / 64 ≥ 2) :
    steerActs s core unit u tok rest = steerFault (putSteer s core unit { u with ctl := rest }) core unit 2 := if_pos h

theorem steerActs_noDestination (hop : tok / 64 < 2) (h : tok % 32 = 0) :
    steerActs s core unit u tok rest = putSteer s core unit { u with ctl := rest, busy := true } :=
  (if_neg (by omega)).trans (if_pos h)

section Word

variable {w : VnWord} {r : List VnWord} (hdest : tok % 32 ≠ 0) (hin : (if tok / 32 % 2 = 1 then u.d1 else u.d0) = w :: r)
include hdest hin

/-- A discard token frees the place of the word. -/
theorem steerActs_discards (hop : tok / 64 = 1) : steerActs s core unit u tok rest =
    progress (putSteer s core unit (steerFrees tok (steerTakes u tok r))) core := by
  refine (if_neg (by omega)).trans ((if_neg hdest).trans ?_)
  rw [hin]
  exact if_pos hop

/-- A token that moves sends the word towards the queue of the unit. -/
theorem steerActs_moves (hop : tok / 64 = 0) : steerActs s core unit u tok rest =
    steerSends (putSteer s core unit (steerTakes u tok r)) core (fld u.cfg 4 1) tok w := by
  refine (if_neg (by omega)).trans ((if_neg hdest).trans ?_)
  rw [hin]
  exact if_neg (by omega)

end Word

/-- A core that serves has a switch, where the word waits for its two slots. -/
theorem steerSends_of_serving {s1 : State} {q l : Nat} {w : VnWord}
    (hs1 : s1 = modIn s core q (fun x => { x with origin := x.origin ++ [if tok / 32 % 2 = 1 then 1 else 0] }))
    (hl : logOf s1 core = some l) : steerSends s core q tok w =
      modSwitch s1 (homeOf l) (fun y => { y with inbound := y.inbound ++ [(q, w, 2, core != homeOf l)] }) := by
  subst hs1
  rw [steerSends, hl]

end Steering

/-! ### Return words (R179) -/

section Return

variable {s : State} {x kind idx : Nat} {v : W32}

/-- A return word's tokens and hold reach the producer that it is for: an output queue of the core at the switch (kind 0) or of the
core over the slack link (kind 3), a context of the slice at the switch (kind 1), or else the adder. -/
def tokensReturn (s : State) (x kind idx : Nat) (v : W32) : State :=
  if kind = 0 ∨ kind = 3 then
    modCore s (if kind = 0 then x else x + 1) (fun c =>
      { c with outQ := tmod {} c.outQ idx (fun q => { q with tokens := q.tokens + fld v 15 0, hold := bit v 16 }) })
  else if kind = 1 then
    modSlice s (sliceAt x) (fun y =>
      { y with ctx := tmod {} y.ctx idx (fun z => { z with tokens := z.tokens + fld v 15 0, hold := bit v 16 }) })
  else modSwitch s x (fun w => { w with arTok := w.arTok + fld v 15 0, arHold := bit v 16 })

/-- SN_RETURN_WORD takes the first return word that waits for the producer. -/
theorem exec_snReturnWord {r : List (Nat × Nat × W32)} (hcore : coreOk s x = true)
    (hret : firstRet kind idx (getSwitch s x).ret = some (v, r)) :
    exec (.snReturnWord x kind idx) s = .next (tokensReturn (setSwitch s x { getSwitch s x with ret := r }) x kind idx v) := by
  refine exec_of_onUnit hcore rfl ?_
  dsimp only
  rw [hret]
  rfl

theorem tokensReturn_core {p : Nat} (h : kind = 0 ∧ p = x ∨ kind = 3 ∧ p = x + 1) : tokensReturn s x kind idx v =
    modCore s p (fun c => { c with outQ := tmod {} c.outQ idx (fun q => { q with tokens := q.tokens + fld v 15 0, hold := bit v 16 }) }) := by
  obtain ⟨rfl, rfl⟩ | ⟨rfl, rfl⟩ := h
  · rfl
  · rfl

theorem tokensReturn_slice (s : State) (x idx : Nat) (v : W32) : tokensReturn s x 1 idx v = modSlice s (sliceAt x) (fun y =>
    { y with ctx := tmod {} y.ctx idx (fun z => { z with tokens := z.tokens + fld v 15 0, hold := bit v 16 }) }) := rfl

theorem tokensReturn_adder (s : State) (x idx : Nat) (v : W32) : tokensReturn s x 2 idx v =
    modSwitch s x (fun w => { w with arTok := w.arTok + fld v 15 0, arHold := bit v 16 }) := rfl

end Return

/-! ### Slice contexts (R191) -/

section Context

variable {s : State} {x ctx : Nat} {v : Ctx} {w : VnWord} {r : List VnWord}

/-- A header that a slice takes: only its 34 bits, a write or a read, and rows within the slice. -/
def goodHeader (w : VnWord) : Prop :=
  w.data.toNat < 2 ^ 34 ∧ (fld w.data 1 0 = 1 ∨ fld w.data 1 0 = 2) ∧ fld w.data 17 2 + fld w.data 33 18 ≤ 65536

/-- The context `ctx` of slice `key` becomes `v`. -/
def putCtx (s : State) (key ctx : Nat) (v : Ctx) : State := modSlice s key (fun z => { z with ctx := tset {} z.ctx ctx v })

/-- A field of two bits that is neither 1 nor 2 is 0 or 3, which the model tests for. -/
theorem goodHeader_iff (w : VnWord) : goodHeader w ↔
    ¬ (w.data.toNat / 2 ^ 34 ≠ 0 ∨ fld w.data 1 0 = 0 ∨ fld w.data 1 0 = 3 ∨ fld w.data 17 2 + fld w.data 33 18 > 65536) := by
  have hop : fld w.data 1 0 < 4 := Nat.mod_lt _ (by decide)
  unfold goodHeader
  omega

variable (hcore : coreOk s x = true) (hspare : isSpare x = true) (hctx : ctx < 16)
  (hv : v = tget ({} : Ctx) (getSlice s (sliceAt x)).ctx ctx) (hin : v.inW = w :: r) (hidle : v.op = 0) (hruns : v.stopped = false)
include hcore hspare hctx hv hin hidle hruns

/-- SLICE_CONTEXT_HEADER of an idle context with a good header: the transfer starts. -/
theorem exec_sliceContextHeader_starts (hgood : goodHeader w) (hrows : 0 < fld w.data 33 18) :
    exec (.sliceContextHeader x ctx) s = .next (putCtx s (sliceAt x) ctx
      { v with inW := r, freed := v.freed + 1, op := fld w.data 1 0, row := fld w.data 17 2, left := fld w.data 33 18 }) := by
  subst hv
  refine exec_of_onUnit (by simp [hcore, hspare, hctx]) rfl ?_
  dsimp only
  rw [hin]
  dsimp only
  rw [if_neg (by simp [hidle, hruns]), if_neg ((goodHeader_iff w).1 hgood), if_neg (by omega)]
  rfl

/-- SLICE_CONTEXT_HEADER of an idle context with a bad header: the context stops, and the slice reports the header. -/
theorem exec_sliceContextHeader_stops (hbad : ¬ goodHeader w) :
    exec (.sliceContextHeader x ctx) s = .next (postEvent (putCtx s (sliceAt x) ctx
      { v with inW := r, freed := v.freed + 1, stopped := true }) (sliceAt x / 64)
        { code := 0x86, unitKind := 3, unit := sliceRowUnit (sliceAt x) (fld w.data 17 2), by_ := detSlice (sliceAt x),
          part := partOrNone (partOfCluster s (sliceAt x / 4)),
          detail := BitVec.ofNat 8 ctx :: leBytes 8 (w.data.toNat % 2 ^ 64) }) := by
  subst hv
  refine exec_of_onUnit (by simp [hcore, hspare, hctx]) rfl ?_
  dsimp only
  rw [hin]
  dsimp only
  rw [if_neg (by simp [hidle, hruns]), if_pos (not_not.1 fun h => hbad ((goodHeader_iff w).2 h))]
  rfl

end Context

/-- Settles O37: each command by the equation of its unit, in the case that the statement names. -/
theorem scheduledNetworks : Obligations.ScheduledNetworks := by
  refine ⟨?_, ?_, ?_, ?_, ?_⟩
  · intro s part faults pt hpart hpt
    obtain ⟨n, hn⟩ : ∃ n : Nat, n = 0 ↔ SlotMoves s pt faults := by
      by_cases h : SlotMoves s pt faults
      · exact ⟨0, by simp [h]⟩
      · exact ⟨1, by simp [h]⟩
    exact ⟨n, exec_vnSwitchSlot hpart hpt hn, hn⟩
  · intro s x a b ra rb hcore ha hb hnew hroom hmode
    exact ⟨_, exec_adderFire hcore rfl ha hb hnew hroom hmode, rfl, rfl, rfl, rfl, rfl, rfl, rfl⟩
  · rintro s core unit tok rest u put hcore hunit hu rfl hon hgood hidle hctl
    rw [exec_steeringMove hcore hunit hu hon hgood hidle hctl]
    refine ⟨fun hop => congrArg _ (steerActs_reserved hop), fun hop hdest => congrArg _ (steerActs_noDestination hop hdest), ?_⟩
    intro w r v hdest hcase
    obtain ⟨hin, rfl⟩ : (if tok / 32 % 2 = 1 then u.d1 else u.d0) = w :: r ∧ v = steerTakes u tok r := by
      obtain ⟨hside, hin, rfl⟩ | ⟨hside, hin, rfl⟩ := hcase
      · simp [steerTakes, hside, hin]
      · simp [steerTakes, hside, hin]
    refine ⟨fun hop => congrArg _ (steerActs_discards hdest hin hop), fun hop l s1 hl hs1 => ?_⟩
    subst hs1
    exact congrArg _ ((steerActs_moves hdest hin hop).trans (steerSends_of_serving rfl hl))
  · rintro s x kind idx v r s1 hcore hret rfl
    rw [exec_snReturnWord hcore hret]
    refine ⟨fun p hp => congrArg _ (tokensReturn_core hp), ?_, ?_⟩
    · rintro rfl
      exact congrArg _ (tokensReturn_slice ..)
    · rintro rfl
      exact congrArg _ (tokensReturn_adder ..)
  · rintro s x ctx v w r put hcore hspare hctx hv rfl hin hidle hruns
    refine ⟨fun hbits hop hrows hsome => ?_, fun hbad => ?_⟩
    · exact exec_sliceContextHeader_starts hcore hspare hctx hv hin hidle hruns ⟨hbits, hop, hrows⟩ hsome
    · exact exec_sliceContextHeader_stops hcore hspare hctx hv hin hidle hruns hbad

end Sys2Proof.Machine
end

section
/-! SUPPORT. Routers: a hop of a cell by an output (R200 to R210) and the broadcast of a load (R211, R487, R489, R492). -/

namespace Sys2Proof.Machine

/-! ### An output serves (R209) -/

@[simp] theorem served_buf (v : Router) (out inp vc ty : Nat) : (served v out inp vc ty).buf = v.buf := rfl

/-- The outputs of a broadcast's copies have each taken it from its input channel. -/
def servedLegs (legs : List (Nat × Nat × Nat × Nat × Nat)) (inp vc ty : Nat) (v : Router) : Router :=
  legs.foldl (fun v l => served v l.1 inp vc ty) v

@[simp] theorem servedLegs_buf (legs : List (Nat × Nat × Nat × Nat × Nat)) (inp vc ty : Nat) (v : Router) :
    (servedLegs legs inp vc ty v).buf = v.buf := by
  induction legs generalizing v with
  | nil => rfl
  | cons l r ih => exact (ih _).trans (served_buf ..)

/-! ### Links (R207, R210) -/

/-- The links of the rings are not Ox links. -/
theorem notOx_of_ring {out : Nat} (hring : out < 4) : (out == 8 || out == 9) = false := by
  simp [show out ≠ 8 by omega, show out ≠ 9 by omega]

section Link

variable {s : State} {out y port v : Nat} {sent c : Cell}

theorem crossLink_accepted (h : cellFault s c (linkPort out port) = 0) :
    crossLink s out y port v sent c = modRouter s y (fun q => pushCell s.fab q (4 * port + v) c) := if_pos h

/-- A discard on a ring link returns no landing credit. -/
theorem crossLink_discarded (hring : out < 4) (h : cellFault s c (linkPort out port) ≠ 0) : crossLink s out y port v sent c =
    modRouter s y (fun q => countDiscard q (linkPort out port) (cellFault s c (linkPort out port))) :=
  (if_neg h).trans (if_neg (by simp [notOx_of_ring hring]))

end Link

/-- A READ_REQ that enters the ring of four dies by `out` takes a landing credit of the die that it goes to (R207). -/
def takesCredit (s : State) (out inp : Nat) (c : Cell) : State :=
  if isFour s && (out == 8 || out == 9) && c.type == 0x03 && inp != 10 then
    { s with landing := tmod 0 s.landing (landingKey s out c.dst) (· + 1) }
  else s

/-- Only an Ox link takes a credit. -/
theorem takesCredit_ring {out : Nat} (hring : out < 4) (s : State) (inp : Nat) (c : Cell) : takesCredit s out inp c = s :=
  if_neg (by simp [notOx_of_ring hring])

theorem takesCredit_ox {out : Nat} (hox : out = 8 ∨ out = 9) (s : State) (inp : Nat) (c : Cell) : takesCredit s out inp c =
    if isFour s = true ∧ c.type = 0x03 ∧ inp ≠ 10 then { s with landing := tmod 0 s.landing (landingKey s out c.dst) (· + 1) }
    else s := by
  have hport : (out == 8 || out == 9) = true := by simpa using hox
  simp [takesCredit, hport, and_assoc]

/-! ### Hops (R201 to R209) -/

/-- A cell leaves over the link `out`, on the channel that the link's place gives it, with the bits of `flip` damaged. -/
def hopSends (s : State) (x inp vc out : Nat) (c : Cell) (flip : BitVec 320) : State :=
  let w := outVc s x inp vc out c.type
  let a := arrives s x out w c
  crossLink (takesCredit s out inp c) out a.1 a.2.1 a.2.2 c (damaged (sealCell (setFld c.hdr 1 0 w) c.pay) flip)

/-- The endpoint that a cell reaches by the local output `out`: the hub, the reduction unit's service port, or the cell's
destination. -/
def localEnd (x out : Nat) (c : Cell) : Nat :=
  if out = 7 then 1024 * dieOf x + 50 else if out = 11 then 1024 * dieOf x + 51 else c.dst

theorem localEnd_of_destination {out : Nat} (hlocal : out ∈ [4, 5, 6]) (x : Nat) (c : Cell) : localEnd x out c = c.dst := by
  have hout : out = 4 ∨ out = 5 ∨ out = 6 := by simpa using hlocal
  rw [localEnd, if_neg (by omega), if_neg (by omega)]

section Hop

variable {s s0 s1 : State} {x out inp vc : Nat} {flip : BitVec 320} {c : Cell}

/-- PN_CELL_HOP by an output that no broadcast takes and for which the arbiter chooses a cell. -/
theorem exec_pnCellHop (hcore : coreOk s x = true) (hout : out < 12) (hs0 : s0 = inject s x) (hfree : bcastTakes s0 x out = false)
    (hchoice : choose s0.fab (getRouter s0 x) out ((channelHeads (getRouter s0 x)).filter (maySend s0 x out)) = some (inp, vc, c))
    (hs1 : s1 = modRouter (takeHead s0 x inp vc) x (fun v => served v out inp vc c.type)) :
    exec (.pnCellHop x out flip) s = .next (if out < 4 ∨ out = 8 ∨ out = 9 then hopSends s1 x inp vc out c flip
      else modEnd s1 (localEnd x out c) (fun e => { e with inbox := e.inbox ++ [c] })) := by
  subst hs0 hs1
  refine exec_of_onUnit (by simp [hcore, hout]) rfl ?_
  dsimp only
  rw [if_neg (Bool.eq_false_iff.1 hfree), headsFor, hchoice]
  rfl

/-- Over a ring link (R210): the neighbour buffers the cell in which it finds no fault, and counts the other. -/
theorem hopSends_ring {w y port v : Nat} {got : Cell} (hring : out < 4) (hw : w = outVc s x inp vc out c.type)
    (ha : arrives s x out w c = (y, port, v)) (hgot : got = damaged (sealCell (setFld c.hdr 1 0 w) c.pay) flip) :
    hopSends s x inp vc out c flip = crossLink s out y port v c got := by
  subst hw hgot
  rw [hopSends, takesCredit_ring hring, ha]

/-- Over an Ox link (R205, R207). -/
theorem hopSends_ox {w y port v : Nat} (hox : out = 8 ∨ out = 9) (hw : w = outVc s x inp vc out c.type)
    (ha : arrives s x out w c = (y, port, v)) : hopSends s x inp vc out c flip =
      crossLink (if isFour s = true ∧ c.type = 0x03 ∧ inp ≠ 10 then
        { s with landing := tmod 0 s.landing (landingKey s out c.dst) (· + 1) } else s) out y port v c
        (damaged (sealCell (setFld c.hdr 1 0 w) c.pay) flip) := by
  subst hw
  rw [hopSends, takesCredit_ox hox, ha]

end Hop

/-! ### Broadcast (R211, R487, R492) -/

/-- Every copy has its buffer, and each copy's output would take the broadcast before the other cells. -/
theorem bcastGoes_iff (s : State) (x inp vc : Nat) (c : Cell) : bcastGoes s x inp vc c = true ↔
    ∀ l ∈ bcastLegs s x inp vc c, roomAt (getRouter s l.2.2.1) (4 * l.2.2.2.1 + l.2.2.2.2) = true ∧
      choose s.fab (getRouter s x) l.1 ((inp, vc, c) :: headsFor s x l.1) = some (inp, vc, c) := by
  simp [bcastGoes]

/-- The copies of a broadcast cross their links, the eastward one with the bits of `flipE` damaged, the southward one with those of
`flipS`. -/
def sendCopies (s : State) (legs : List (Nat × Nat × Nat × Nat × Nat)) (c : Cell) (flipE flipS : BitVec 320) : State :=
  legs.foldl (fun s l => crossLink s l.1 l.2.2.1 l.2.2.2.1 l.2.2.2.2 c
    (damaged (sealCell (setFld c.hdr 1 0 l.2.1) c.pay) (if l.1 = 1 then flipE else flipS))) s

section Bcast

variable {s s0 : State} {x inp vc : Nat} {flipE flipS : BitVec 320} {c : Cell} (hcore : coreOk s x = true) (hs0 : s0 = inject s x)
  (hhead : bcastHead (getRouter s0 x) = some (inp, vc, c))
include hcore hs0 hhead

/-- BCAST of a broadcast of which some copy has no room or loses an output: it stays. -/
theorem exec_bcast_stays (h : ¬ bcastGoes s0 x inp vc c = true) : exec (.bcast ⟨x, flipE, flipS⟩) s = .next s0 := by
  subst hs0
  refine exec_of_onUnit hcore rfl ?_
  dsimp only
  rw [hhead]
  exact if_neg h

/-- BCAST of a broadcast that goes on: it leaves its channel, its copies cross their links, and the router's core and switch get it. -/
theorem exec_bcast_goes (h : bcastGoes s0 x inp vc c = true) : exec (.bcast ⟨x, flipE, flipS⟩) s =
    .next (bcastHere (sendCopies (modRouter (takeHead s0 x inp vc) x (servedLegs (bcastLegs s0 x inp vc c) inp vc c.type))
      (bcastLegs s0 x inp vc c) c flipE flipS) x c) := by
  subst hs0
  refine exec_of_onUnit hcore rfl ?_
  dsimp only
  rw [hhead]
  exact if_pos h

end Bcast

/-- A broadcast of another load than the partition's is not delivered. -/
theorem bcastHere_otherLoad {s : State} {x : Nat} {c : Cell} (htag : c.tag ≠ loadTag s (c.dst % 64)) : bcastHere s x c = s :=
  if_pos htag

/-- A broadcast of the partition's load goes to the core that the router serves, in `s2`, and then to the router's switch. -/
theorem bcastHere_load {s s2 : State} {x : Nat} {c : Cell} (htag : c.tag = loadTag s (c.dst % 64))
    (hserved : ∀ p, bcastTo s x = some p → s2 = (if bcastHears s (c.dst % 64) p then bcastCore s c p else s))
    (hspare : bcastTo s x = none → s2 = s) : bcastHere s x c =
      if partOfCluster s2 (cluOfPhys x) = some (c.dst % 64) then bcastSwitch s2 c x else s2 := by
  refine (if_neg (not_not.2 htag)).trans ?_
  cases hto : bcastTo s x with
  | none => rw [hspare hto]
  | some p => rw [hserved p hto]

/-- Settles O34: the output decides where the chosen cell goes, and `bcastGoes` whether a broadcast leaves its channel. -/
theorem cellsHop : Obligations.CellsHop := by
  refine ⟨?_, ?_⟩
  · intro s x out flip s0 inp vc c hcore hout hs0 hfree hchoice
    refine ⟨fun v => served v out inp vc c.type, _, rfl, fun v => served_buf .., ?_⟩
    rw [exec_pnCellHop hcore hout hs0 hfree hchoice rfl]
    refine ⟨fun hlocal => ?_, ?_, ?_, fun hring w y port v got hw ha hgot => ?_, fun hox w y port v s2 hw ha hs2 => ?_⟩
    · have hout : out = 4 ∨ out = 5 ∨ out = 6 := by simpa using hlocal
      rw [if_neg (by omega), localEnd_of_destination hlocal]
    · rintro rfl
      rfl
    · rintro rfl
      rfl
    · rw [if_pos (.inl hring), hopSends_ring hring hw ha hgot]
      exact ⟨fun hgood => congrArg _ (crossLink_accepted hgood), fun hbad => congrArg _ (crossLink_discarded hring hbad)⟩
    · rw [if_pos (.inr hox), hopSends_ox hox hw ha, hs2]
  · rintro s x inp vc flipE flipS c s0 hcore hs0 hhead legs rfl free rfl
    refine ⟨fun ⟨l, hl, hblocked⟩ => ?_, fun hall => ?_⟩
    · exact exec_bcast_stays hcore hs0 hhead fun hgoes => hblocked ((bcastGoes_iff ..).1 hgoes l hl)
    · refine ⟨servedLegs (bcastLegs s0 x inp vc c) inp vc c.type, servedLegs_buf _ _ _ _, fun s1 s2 hs1 => ?_⟩
      rw [exec_bcast_goes hcore hs0 hhead ((bcastGoes_iff ..).2 hall)]
      subst hs1
      exact ⟨fun htag => congrArg _ (bcastHere_otherLoad htag),
        fun htag hserved hspare => congrArg _ (bcastHere_load htag hserved hspare)⟩

end Sys2Proof.Machine
end

section
/-! SUPPORT. The sender's side of the message channels: sends at the queue ports, the answers to a message, its time-out and its
back-off (R53, R213 to R220). -/

namespace Sys2Proof.Machine

/-! ### A send starts (R53, R214, R218, R219) -/

/-- A send that has left its queue: a failed check traps it, a length of 0 completes it, else it waits on its channel, which goes
on with its next send. -/
def sendStarts (u : State) (core : Nat) (o : IssueOp) (d : W512) : State :=
  if portReason (getCore u core) true d ≠ 0 then
    jobCheckAt (trapOp (opDone u core o) core o causeDescriptor 0 (BitVec.ofNat 64 (portReason (getCore u core) true d))) core
  else if qLen d = 0 then jobCheckAt (opDone u core o) core
  else nextSend (modCore u core (fun c => setSend c (qChan d) { getSend c (qChan d) with
    wait := (getSend c (qChan d)).wait ++ [(o, qAddr d, qLen d)] })) core (qChan d)

/-- SEND_OPERATION takes an ISSUE_SEND at the head of the queue. -/
theorem exec_sendOperation {s u : State} {core : Nat} {o : IssueOp} {rest : List IssueOp} {d : W512}
    (h : Head s core (getCore s core).qPort o rest d) (hop : opcode o.word = opIssueSend) (hu : u = portTakes s core o rest) :
    exec (.sendOperation core) s = .next (sendStarts u core o d) := by
  rw [hu]
  refine exec_of_onUnit h.exists_ rfl ?_
  rw [h.queue]
  dsimp only
  rw [if_neg (by simp [h.running, hop]), h.readDesc_eq]
  rfl

section Send

variable {u : State} {core : Nat} {o : IssueOp} {d : W512}

theorem sendStarts_rejected (hr : portReason (getCore u core) true d ≠ 0) : sendStarts u core o d =
    jobCheckAt (trapOp (opDone u core o) core o causeDescriptor 0 (BitVec.ofNat 64 (portReason (getCore u core) true d))) core :=
  if_pos hr

theorem sendStarts_empty (hr : portReason (getCore u core) true d = 0) (hlen : qLen d = 0) :
    sendStarts u core o d = jobCheckAt (opDone u core o) core := (if_neg (not_not.2 hr)).trans (if_pos hlen)

theorem sendStarts_waits (hr : portReason (getCore u core) true d = 0) (hlen : qLen d ≠ 0) : sendStarts u core o d =
    nextSend (modCore u core (fun c => setSend c (qChan d) { getSend c (qChan d) with
      wait := (getSend c (qChan d)).wait ++ [(o, qAddr d, qLen d)] })) core (qChan d) :=
  (if_neg (not_not.2 hr)).trans (if_neg hlen)

end Send

/-! ### Answers (R216, R220) -/

section Answer

variable {s : State} {x p i : Nat} {c : Cell} (hcol : x % 64 < 32) (hanswered : answered (popCell s x) x c = some (p, i))
  (hthawed : isFrozen (getCore (hear (popCell s x) x) p) = false) (hgoing : (getCore (hear (popCell s x) x) p).stopped = false)
include hcol hanswered hthawed hgoing

/-- MSG_ACK of the message in flight ends it. -/
theorem exec_msgAck (h : Arrives s x 0x08 c) :
    exec (.msgAck x) s = .next (sendEnds (countWait (hear (popCell s x) x) p i false) p i true none) := by
  refine exec_of_onUnit h.pos rfl ?_
  rw [h.head]
  dsimp only
  rw [if_neg (by simp [h.open_, isCorePos, hcol]), hanswered]
  exact if_neg (by simp [hthawed, hgoing])

/-- MSG_NACK of the message in flight fails its attempt, with the reason that it carries. -/
theorem exec_msgNack (h : Arrives s x 0x09 c) :
    exec (.msgNack x) s = .next (attemptFails (hear (popCell s x) x) p i (numAt c.bytes 0 1)) := by
  refine exec_of_onUnit h.pos rfl ?_
  rw [h.head]
  dsimp only
  rw [if_neg (by simp [h.open_, isCorePos, hcol]), hanswered]
  exact if_neg (by simp [hthawed, hgoing])

end Answer

/-! ### Time-out and back-off (R213, R216, R220) -/

/-- The time that a channel's sends have waited never falls. -/
theorem waited_le_sendWaited (now : Nat) (v : SendCh) : v.waited ≤ sendWaited now v := by
  unfold sendWaited
  split
  · exact Nat.le_refl _
  · exact Nat.le_add_right ..

/-- The channel with its time waited up to core time `now` counted (R220). -/
def waitCounted (now : Nat) (v : SendCh) : SendCh :=
  { v with waited := sendWaited now v, stats := stallStat v.stats (sendWaited now v) }

@[simp] theorem waitCounted_cur (now : Nat) (v : SendCh) : (waitCounted now v).cur = v.cur := by rw [waitCounted]
@[simp] theorem waitCounted_parity (now : Nat) (v : SendCh) : (waitCounted now v).parity = v.parity := by rw [waitCounted]
@[simp] theorem waitCounted_wait (now : Nat) (v : SendCh) : (waitCounted now v).wait = v.wait := by rw [waitCounted]
@[simp] theorem waitCounted_cfg (now : Nat) (v : SendCh) : (waitCounted now v).cfg = v.cfg := by rw [waitCounted]

/-- Counting a wait never lowers the time waited. -/
theorem waited_le_waitCounted (now : Nat) (v : SendCh) : v.waited ≤ (waitCounted now v).waited := waited_le_sendWaited now v

section InFlight

variable {s : State} {core i : Nat} {m : SendMsg} (hcore : coreOk s core = true) (hi : i < 64) (hrun : runs s core = true)
  (hcur : (getSend (getCore s core) i).cur = some m)
include hcore hi hrun hcur

/-- MSG_ACK_TIMEOUT of an attempt that has waited for its answer as long as the channel lets it: outcome 4. -/
theorem exec_msgAckTimeout (hsent : m.backoff = false)
    (hlate : coreNow s (getCore s core) ≥ m.at_ + chanTime (fld (getSend (getCore s core) i).cfg 29 26)) :
    exec (.msgAckTimeout core i) s = .next (attemptFails s core i 4) := by
  refine exec_of_onUnit (by simp [hcore, hi]) rfl ?_
  dsimp only
  rw [hcur]
  exact if_pos (by simp [hrun, hsent, hlate])

/-- MSG_RETRY_BACKOFF of a back-off that is over: the wait is counted and the message goes again. -/
theorem exec_msgRetryBackoff (hback : m.backoff = true) (hover : coreNow s (getCore s core) ≥ m.at_) :
    exec (.msgRetryBackoff core i) s = .next (transmit (modCore s core (fun c => setSend c i
      (waitCounted (coreNow s (getCore s core)) (getSend (getCore s core) i)))) core i) := by
  refine exec_of_onUnit (by simp [hcore, hi]) rfl ?_
  dsimp only
  rw [waitCounted, hcur]
  dsimp only
  exact if_pos (by simp [hrun, hback, hover])

end InFlight

/-- Settles O35: the checks of the head send, the message that an answer names, and the times of the message in flight decide. -/
theorem channelSends : Obligations.ChannelSends := by
  refine ⟨?_, ?_, ?_⟩
  · rintro s core o rest d u h hop hu
    rw [exec_sendOperation h hop hu]
    refine ⟨?_, fun hr hlen => congrArg _ (sendStarts_empty hr hlen), fun hr hlen => congrArg _ (sendStarts_waits hr hlen)⟩
    rintro r rfl hr
    exact congrArg _ (sendStarts_rejected hr)
  · exact fun s x c p i hcol hanswered hthawed hgoing =>
      ⟨exec_msgAck hcol hanswered hthawed hgoing, exec_msgNack hcol hanswered hthawed hgoing⟩
  · intro s core i m hcore hi hrun hcur
    refine ⟨exec_msgAckTimeout hcore hi hrun hcur, fun hback hover =>
      ⟨waitCounted (coreNow s (getCore s core)) (getSend (getCore s core) i), waited_le_waitCounted .., (waitCounted_cur ..).trans hcur,
        waitCounted_parity .., waitCounted_wait .., waitCounted_cfg .., exec_msgRetryBackoff hcore hi hrun hcur hback hover⟩⟩

end Sys2Proof.Machine
end

section
/-! SUPPORT. The DMA engine takes the operation at the head of its queue (R52, R156, R221 to R224, R237, R260). -/

namespace Sys2Proof.Machine

/-! ### The rows (R221) -/

/-- Every row of the DMA starts the operations of some modes, its own among them. -/
theorem exists_startDma_of_mem {core : Nat} {e : Instr × Nat} (h : e ∈ dmaRows core) :
    ∃ modes : Nat → Bool, modes e.2 = true ∧ ∀ s, exec e.1 s = startDma core modes s := by
  simp only [dmaRows, List.mem_cons, List.not_mem_nil, or_false] at h
  obtain rfl | rfl | rfl | rfl := h
  · exact ⟨fun m => m == 0 || decide (m > 3), rfl, fun _ => rfl⟩
  · exact ⟨fun m => m == 1, rfl, fun _ => rfl⟩
  · exact ⟨fun m => m == 2, rfl, fun _ => rfl⟩
  · exact ⟨fun m => m == 3, rfl, fun _ => rfl⟩

/-! ### The start -/

/-- The operation that was issued, as it starts: it goes on, has failed or waits for credits, and nothing of it has moved. -/
def StartsAs (o : IssueOp) (d : W512) (y : DmaOp) : Prop :=
  ∃ go fail wait, y = { op := o, desc := d, go := go, fail := fail, wait := wait }

theorem StartsAs.mk (o : IssueOp) (d : W512) (go : Bool) (fail : Option (Nat × W64 × Nat)) (wait : Option (Nat × Nat)) :
    StartsAs o d { op := o, desc := d, go := go, fail := fail, wait := wait } := ⟨go, fail, wait, rfl⟩

theorem StartsAs.ite {o : IssueOp} {d : W512} {p : Prop} [Decidable p] {y z : DmaOp} (hy : StartsAs o d y) (hz : StartsAs o d z) :
    StartsAs o d (if p then y else z) := iteInduction (fun _ => hy) fun _ => hz

/-- The checks of a start settle whether the operation goes on, fails or waits, and nothing else of it (R36, R156, R223). The credits
and the span that they are reckoned for are taken as given values, so that the kernel does not evaluate them. -/
theorem startState_startsAs (s : State) (x : Ctx4) (o : IssueOp) (d : W512) : StartsAs o d (startState s x o d) := by
  obtain ⟨credit, hcredit⟩ : ∃ f, f = creditFor (getCore s x.p) := ⟨_, rfl⟩
  obtain ⟨⟨lo, hi⟩, hspan⟩ : ∃ p, p = dstSpan d (runTotal d) 0 (2 ^ 48, 0) := ⟨_, rfl⟩
  rw [startState, ← hcredit, ← hspan]
  refine .ite (.mk ..) (.ite (.mk ..) ?_)
  split
  · exact .mk ..
  · refine .ite (.mk ..) ?_
    cases firstOther x.own d (runTotal d) 0 with
    | none => exact .mk ..
    | some t =>
      dsimp only
      split <;> exact .mk ..

/-- The state in which operation `x` has left the DMA's queue for tag `tag`. -/
def dmaTakes (s : State) (core tag : Nat) (x : DmaOp) (rest : List IssueOp) : State :=
  stir (modCore s core (fun c => unstall { setTag c tag (some x) with qDma := rest })) core

/-- The head operation starts under a free tag when no started operation waits for credits and the row has its mode. -/
theorem startDma_head {s : State} {core tag : Nat} {o : IssueOp} {rest : List IssueOp} {d : W512} {x : Ctx4} {modes : Nat → Bool}
    (h : Head s core (getCore s core).qDma o rest d)
    (hwait : (getCore s core).tags.any (fun e => match e.2 with | none => false | some o => o.wait.isSome) = false)
    (htag : freeTag (getCore s core) = some tag) (hctx : ctxOf (described s core o) core tag = some x)
    (hmode : modes (dMode d) = true) : startDma core modes s =
      .next (pump (dmaTakes (described s core o) core tag (startState (described s core o) x o d) rest) core) := by
  have hmay : ¬ (!runs s core || (getCore s core).tags.any
      (fun e => match e.2 with | none => false | some o => o.wait.isSome)) = true := by
    rw [h.running, Bool.not_true, Bool.false_or]
    exact Bool.eq_false_iff.1 hwait
  rw [startDma, onUnit_true _ h.exists_]
  dsimp only
  rw [h.queue]
  dsimp only
  rw [htag, h.readDesc_eq]
  dsimp only
  rw [hctx]
  exact congrArg _ ((if_neg hmay).trans (if_pos hmode))

/-- Settles O30: each row starts its own mode, and the checks of a start keep the operation and its descriptor. -/
theorem dmaOperationsStart : Obligations.DmaOperationsStart := by
  intro s core e o rest d tag x he h hmode hwait htag u hu hctx
  subst hu
  obtain ⟨modes, hown, hexec⟩ := exists_startDma_of_mem he
  obtain ⟨go, fail, wait, hstart⟩ := startState_startsAs (described s core o) x o d
  have hmode' : modes (dMode d) = true := (congrArg modes hmode).trans hown
  refine ⟨by rw [hstart], by rw [hstart], ?_⟩
  rw [hexec]
  exact startDma_head h hwait htag hctx hmode'

end Sys2Proof.Machine
end

section
/-! SUPPORT. The cells of write and read transfers at the endpoint that they reach (R155, R226, R228 to R230, R237). -/

namespace Sys2Proof.Machine

section Cells

variable {s : State} {x : Nat} {c : Cell}

/-! ### WRITE_INDEXED (R229, R237) -/

/-- The write transfer that an opener opens, which no pool rule refuses. -/
def openedWrite (c : Cell) (now : Nat) : OpenX :=
  { src := c.src, tag := c.tag, addr := numAt c.bytes 0 6, bytes := numAt c.bytes 8 2, count := numAt c.bytes 6 1,
    xfer := numAt c.bytes 10 2, cv := BitVec.ofNat 32 (numAt c.bytes 12 4), ackTo := numAt c.bytes 16 2 % 4096,
    flags := numAt c.bytes 18 1, status := 0, reply := false, last := now, poolBad := none }

section Opener

variable (h : Arrives s x 0x02 c) (haddr : addrOk (channelData s) x (numAt c.bytes 0 6) (numAt c.bytes 8 2) = true)
  (hpool : poolRefuses (hear (popCell s x) x) x c.src (numAt c.bytes 0 6) (numAt c.bytes 8 2) = none)
include h haddr hpool

/-- WRITE_INDEXED of a piece whose check value agrees: its bytes are written and acknowledged with status 0. -/
theorem exec_writeIndexed_piece {s3 : State} (hpiece : numAt c.bytes 18 1 / 4 % 2 = 1)
    (hcv : crc32c (leBytes 6 (numAt c.bytes 0 6) ++ slice c.bytes 24 8) = BitVec.ofNat 32 (numAt c.bytes 12 4))
    (hwritten : applyBytes (closeOld (hear (popCell s x) x) x c.src false) x c.src c.tag (numAt c.bytes 0 6)
      (slice c.bytes 24 (numAt c.bytes 8 2)) = (s3, none)) :
    exec (.writeIndexed x) s = .next (sendAck s3 x (numAt c.bytes 16 2 % 4096) c.tag (numAt c.bytes 10 2) 0 0) := by
  refine exec_of_onUnit h.pos rfl ?_
  rw [h.head]
  dsimp only
  rw [if_neg (by simp [h.open_]), if_neg (by simp [haddr]), hpool]
  dsimp only
  rw [if_pos hpiece, if_neg (not_not.2 hcv), hwritten]

/-- WRITE_INDEXED of anything else opens a transfer. -/
theorem exec_writeIndexed_opener (hopener : numAt c.bytes 18 1 / 4 % 2 ≠ 1) :
    exec (.writeIndexed x) s = .next (openNew (closeOld (hear (popCell s x) x) x c.src false) x (openedWrite c s.fab)) := by
  refine exec_of_onUnit h.pos rfl ?_
  rw [h.head]
  dsimp only
  rw [if_neg (by simp [h.open_]), if_neg (by simp [haddr]), hpool]
  exact if_neg hopener

end Opener

/-! ### WRITE (R229) -/

/-- A core's memory refuses no byte of a transfer. -/
theorem applyBytes_core (hcol : x % 64 < 32) (s : State) (src tag a : Nat) (l : List Byte) (again : Bool) :
    (applyBytes s x src tag a l again).2 = none := by
  rw [applyBytes, putPiece]
  dsimp only
  rw [if_pos hcol]

/-- An open write transfer of a core, all of whose bytes have landed, lands at once those that come next. -/
theorem land_core {o : OpenX} {l : List Byte} (hcol : x % 64 < 32) (hreply : o.reply = false) (hred : o.red = false)
    (hpool : o.poolBad = none) (hlanded : o.landed = o.got.length) (hl : l ≠ []) (s : State) (n now : Nat) :
    land s x { o with got := o.got ++ l, count := n, last := now } false =
      ((applyBytes s x o.src o.tag (o.addr + o.got.length) l (decide (0 < o.got.length))).1,
        { o with got := o.got ++ l, count := n, last := now, landed := o.got.length + l.length }) := by
  have hripe : ripe x { o with got := o.got ++ l, count := n, last := now } false = o.got.length + l.length :=
    (if_pos (.inr (.inl (Nat.lt_trans hcol (by decide))))).trans List.length_append
  have hmore : ¬ o.got.length + l.length ≤ o.got.length := by
    have hpos := List.length_pos_iff.2 hl
    omega
  have hrest : ((o.got ++ l).take (o.got.length + l.length)).drop o.got.length = l := by
    rw [← List.length_append, List.take_length, List.drop_left]
  rw [land, hripe]
  dsimp only
  rw [hlanded, hrest, if_neg (by simp [hreply, hred, hpool, hmore]), applyBytes_core hcol, Option.or_none]

/-- WRITE of a data cell, not the last, of an open transfer of a core. -/
theorem exec_write_core {o : OpenX} {l : List Byte} {u : State} (h : Arrives s x 0x01 c) (hcol : x % 64 < 32)
    (hreply : o.reply = false) (hred : o.red = false) (hpool : o.poolBad = none) (hcount : 1 < o.count)
    (hlanded : o.landed = o.got.length)
    (hopen : (getEnd (popCell s x) x).opens.find? (fun o => o.src == c.src && o.tag == c.tag && decide (0 < o.count)) = some o)
    (hl : l = c.bytes.take (min c.len (o.bytes - o.got.length))) (hne : l ≠ [])
    (hu : u = (applyBytes (hear (popCell s x) x) x o.src o.tag (o.addr + o.got.length) l (decide (0 < o.got.length))).1) :
    exec (.write x) s = .next (setEnd u x { getEnd u x with
      opens := { o with got := o.got ++ l, count := o.count - 1, last := s.fab, landed := o.got.length + l.length } ::
        (getEnd (popCell s x) x).opens.erase o }) := by
  refine exec_of_onUnit h.pos rfl ?_
  rw [h.head]
  dsimp only
  rw [if_neg (by simp [h.open_]), hopen]
  dsimp only
  rw [← hl, land_core hcol hreply hred hpool hlanded hne, ← hu]
  exact if_pos (by simp [hred, Nat.sub_eq_zero_iff_le, hcount])

/-! ### READ_REQ (R226, R228, R237) -/

/-- READ_REQ without a check value: the bytes go back, or status 1 when they are poisoned. -/
theorem exec_readReq {s2 : State} {l : List Byte} {poison : Bool} (h : Arrives s x 0x03 c)
    (haddr : addrOk (channelData s) x (numAt c.bytes 0 6) (numAt c.bytes 6 2) = true) (hplain : numAt c.bytes 12 1 = 0)
    (hread : getPiece (sampleValid (hear (popCell s x) x) c.src c.tag (numAt c.bytes 8 2)) ((partAt s c.src).getD 64)
      ⟨x, numAt c.bytes 0 6⟩ (numAt c.bytes 6 2) = (s2, l, poison)) :
    exec (.readReq x) s =
      .next (sendReply s2 x c.src c.tag (numAt c.bytes 10 2) (numAt c.bytes 8 2) (if poison = true then 1 else 0) 0 l
        (decide (numAt c.bytes 6 2 ≤ 8) && asksPiece s2 c.src c.tag)) := by
  refine exec_of_onUnit h.pos rfl ?_
  rw [h.head]
  dsimp only
  rw [if_neg (by simp [h.open_]), if_neg (by simp [haddr]), hread, hplain]
  rfl

/-! ### WRITE_ACK (R230) -/

/-- Taking a cell and hearing it move no core away from its position. -/
theorem servedBy_hear_popCell (s : State) (x y : Nat) : servedBy (hear (popCell s x) x) y = servedBy s y := by
  have hshift : (hear (popCell s x) x).shift = s.shift := by
    unfold hear
    split <;> rfl
  rw [servedBy, servedBy, hshift]

section Ack

variable {u : State} (h : Arrives s x 0x05 c) (hhere : x % 64 ≠ 51) (hthere : c.src % 64 ≠ 51) (hgood : numAt c.bytes 2 1 = 0)
  (hu : u = hear (popCell s x) x)
include h hhere hthere hgood hu

/-- WRITE_ACK with status 0 of a replay record's write. -/
theorem exec_writeAck_record {w : RecordWrite}
    (hrec : (getCore u (servedBy u x)).records.find? (fun r => r.tag == c.tag && r.answer.isNone) = some w) :
    exec (.writeAck x) s = .next (recordAnswered u (servedBy u x) w 0) := by
  subst hu
  rw [servedBy_hear_popCell] at hrec ⊢
  refine exec_of_onUnit h.pos rfl ?_
  rw [h.head]
  dsimp only
  rw [if_neg (by simp [h.open_]), if_neg hhere, if_neg hthere, hrec, hgood]

/-- WRITE_ACK with status 0 of a live write transfer. -/
theorem exec_writeAck_transfer {p : Nat} {y : Xfer}
    (hrec : (getCore u (servedBy u x)).records.find? (fun r => r.tag == c.tag && r.answer.isNone) = none)
    (hlive : liveXfer u x c.tag (numAt c.bytes 0 2) true = some (p, y)) :
    exec (.writeAck x) s = .next (writeDone u p c.tag y) := by
  subst hu
  rw [servedBy_hear_popCell] at hrec
  refine exec_of_onUnit h.pos rfl ?_
  rw [h.head]
  dsimp only
  rw [if_neg (by simp [h.open_]), if_neg hhere, if_neg hthere, hrec]
  dsimp only
  rw [hlive]
  exact if_pos hgood

end Ack

end Cells

/-- Settles O32: each cell by the equation of its type; a bit of the flags tells a piece from an opener, and the records of the core
tell whose write is acknowledged. -/
theorem transferCells : Obligations.TransferCells := by
  refine fun s x c => ⟨fun h haddr hpool => ⟨fun hpiece hcv s3 hwritten =>
      exec_writeIndexed_piece h haddr hpool hpiece hcv hwritten, fun hopener => ?_⟩,
    fun h o l u hcol hreply hred hpool hcount hlanded hopen hl hne hu =>
      exec_write_core h hcol hreply hred hpool hcount hlanded hopen hl hne hu,
    fun h haddr hplain s2 l poison hread => exec_readReq h haddr hplain hread, ?_⟩
  · exact ⟨openedWrite c s.fab, rfl, rfl, rfl, rfl, rfl, rfl, rfl, rfl, rfl, rfl, exec_writeIndexed_opener h haddr hpool hopener⟩
  · intro h hhere hthere hgood u r hu hr
    exact ⟨fun w hw => exec_writeAck_record h hhere hthere hgood hu (hr ▸ hw),
      fun p y hnone hlive => exec_writeAck_transfer h hhere hthere hgood hu (hr ▸ hnone) hlive⟩

end Sys2Proof.Machine
end

section
/-! SUPPORT. Answers to reads, transfers that stay open too long, and remote raises with their acknowledgements (R62, R64, R155,
R228 to R231, R304). -/

namespace Sys2Proof.Machine

section Cells

variable {s : State} {x : Nat} {c : Cell}

/-! ### READ_REPLY (R228, R230) -/

/-- The reply transfer that an opener with status 0 opens. -/
def openedReply (c : Cell) (now : Nat) : OpenX :=
  { src := c.src, tag := c.tag, addr := numAt c.bytes 0 6, bytes := numAt c.bytes 8 2, count := numAt c.bytes 6 1,
    xfer := numAt c.bytes 10 2, cv := BitVec.ofNat 32 (numAt c.bytes 12 4), ackTo := 0, flags := 0, status := 0, reply := true,
    last := now }

section Reply

variable {s1 : State} {p : Nat} {y : Xfer} (h : Arrives s x 0x04 c) (hs1 : s1 = closeOld (hear (popCell s x) x) x c.src true)
  (hgood : numAt c.bytes 7 1 = 0) (hlive : liveXfer s1 x c.tag (numAt c.bytes 10 2) false = some (p, y))
include h hs1 hgood hlive

/-- READ_REPLY of a piece whose check value agrees delivers its bytes. -/
theorem exec_readReply_piece (hpiece : numAt c.bytes 18 1 / 4 % 2 = 1)
    (hcv : crc32c (slice c.bytes 0 6 ++ slice c.bytes 24 8) = BitVec.ofNat 32 (numAt c.bytes 12 4)) :
    exec (.readReply x) s = .next (readDone s1 p c.tag y (slice c.bytes 24 (numAt c.bytes 8 2)) none) := by
  subst hs1
  refine exec_of_onUnit h.pos rfl ?_
  rw [h.head]
  dsimp only
  rw [if_neg (by simp [h.open_]), hlive]
  dsimp only
  rw [if_neg (by simp [hgood]), if_neg (by simp [hgood]), if_pos hpiece, if_neg (not_not.2 hcv)]

/-- READ_REPLY of anything else opens the reply's transfer. -/
theorem exec_readReply_opener (hopener : numAt c.bytes 18 1 / 4 % 2 ≠ 1) :
    exec (.readReply x) s = .next (openNew s1 x (openedReply c s.fab)) := by
  subst hs1
  refine exec_of_onUnit h.pos rfl ?_
  rw [h.head]
  dsimp only
  rw [if_neg (by simp [h.open_]), hlive]
  dsimp only
  rw [if_neg (by simp [hgood]), if_neg (by simp [hgood]), if_neg hopener, hgood]
  rfl

end Reply

/-! ### ENDPOINT_TRANSFER_TIMEOUT (R229) -/

/-- ENDPOINT_TRANSFER_TIMEOUT of an open transfer that no cell has reached for 256 µs. -/
theorem exec_endpointTransferTimeout {src : Nat} {reply : Bool} {o : OpenX} (hpos : posOk s x = true)
    (hopen : (getEnd s x).opens.find? (fun o => sameKind src reply o && !o.red) = some o) (hlate : s.fab ≥ o.last + usCycles 256) :
    exec (.endpointTransferTimeout x src reply) s =
      .next (closeIncomplete (modEnd s x (fun e => { e with opens := e.opens.erase o })) x o) := by
  refine exec_of_onUnit hpos rfl ?_
  rw [hopen]
  exact if_pos hlate

/-! ### Raises (R62, R64, R304) -/

section Raise

variable {s1 : State} {p : Nat} (hcol : x % 64 < 32) (hp : p = servedBy s x) (hs1 : s1 = hear (popCell s x) x)
include hcol hp hs1

/-- SYNC_RAISE at a core: the add is tried, and its outcome goes back. -/
theorem exec_syncRaise {i : Nat} {r : SyncCtr × Bool} (h : Arrives s x 0x0A c) (hi : i = numAt c.bytes 0 1)
    (hr : r = ctrAdd (getCtr (getCore s1 p) i) (numAt c.bytes 4 4)) :
    exec (.syncRaise x) s = .next (sendCells (writeCtr s1 p i r) x
      [mkCell 0x0B 2 c.src x c.tag (leBytes 1 (if r.2 = true then 0 else 1) ++ leBytes 1 (numAt c.bytes 1 1))]) := by
  rw [hr, hi, hs1, hp]
  refine exec_of_onUnit h.pos rfl ?_
  rw [h.head]
  dsimp only
  rw [if_neg (by simp [h.open_, isCorePos, hcol])]

variable (h : Arrives s x 0x0B c)
include h

/-- SYNC_ACK at a core that is neither frozen nor stopped. -/
theorem exec_syncAck_closes (hthawed : isFrozen (getCore s1 p) = false) (hgoing : (getCore s1 p).stopped = false) :
    exec (.syncAck x) s = .next (raiseAcked s1 p c.tag (decide (numAt c.bytes 0 1 = 0))) := by
  subst hp hs1
  refine exec_of_onUnit h.pos rfl ?_
  rw [h.head]
  dsimp only
  rw [if_neg (by simp [h.open_]), if_pos (by simp [isCorePos, hcol]), if_neg (by simp [hthawed, hgoing])]

/-- SYNC_ACK at a core that is frozen or stopped waits for it. -/
theorem exec_syncAck_deferred (hheld : isFrozen (getCore s1 p) = true ∨ (getCore s1 p).stopped = true) :
    exec (.syncAck x) s =
      .next (modCore s1 p (fun k => { k with deferred := k.deferred ++ [(if numAt c.bytes 0 1 = 0 then 2 else 3, c.tag)] })) := by
  subst hp hs1
  refine exec_of_onUnit h.pos rfl ?_
  rw [h.head]
  dsimp only
  rw [if_neg (by simp [h.open_]), if_pos (by simp [isCorePos, hcol]), if_pos (by simpa using hheld)]
  simp only [decide_eq_true_eq]

end Raise

end Cells

/-- Settles O33: each cell by the equation of its type; a bit of the flags tells a piece from an opener, and the core's state whether
an acknowledgement acts at once. -/
theorem repliesAndRaises : Obligations.RepliesAndRaises := by
  refine fun s x c => ⟨fun h p y s1 hs1 hgood hlive => ⟨exec_readReply_piece h hs1 hgood hlive, fun hopener => ?_⟩,
    fun hpos src reply o hopen hlate => exec_endpointTransferTimeout hpos hopen hlate,
    fun h hcol p i s1 r hp hi hs1 hr => exec_syncRaise hcol hp hs1 h hi hr,
    fun h hcol p s1 hp hs1 => ⟨exec_syncAck_closes hcol hp hs1 h, exec_syncAck_deferred hcol hp hs1 h⟩⟩
  exact ⟨openedReply c s.fab, rfl, rfl, rfl, rfl, rfl, rfl, rfl, exec_readReply_opener h hs1 hgood hlive hopener⟩

end Sys2Proof.Machine
end

section
/-! SUPPORT. Buckets at the die's reduction units and the hub: REDUCE, DEVICE_TOTAL, start words, the next round and the round's
time-out (R264, R268 to R270, R273, R274, R277 to R280, R295). -/

namespace Sys2Proof.Machine

/-! ### REDUCE (R269, R270) -/

/-- The unit of a die when its next opener comes: a transfer of the same source that still misses cells has ended. -/
def sourceEnded (s : State) (die : Nat) (c : Cell) : State :=
  match (getEnd (popCell s (1024 * die + 51)) (1024 * die + 51)).opens.find? (fun o => o.src == c.src && o.red && decide (o.count ≠ 0)) with
  | none => popCell s (1024 * die + 51)
  | some o => endTransfer (popCell s (1024 * die + 51)) die o

/-- REDUCE with no transfer at its end opens the transfer of the opener at the head. -/
theorem exec_reduce_opens {s : State} {die : Nat} {c : Cell} (hdie : dieOk s die = true)
    (hnone : (getEnd s (1024 * die + 51)).opens.reverse.find? (transferEnded s die) = none)
    (hhead : headCell s (1024 * die + 51) 0x0C = some c) :
    exec (.reduce die) s =
      .next (openNew (sourceEnded s die c) (1024 * die + 51) (redOpen (sourceEnded s die c) c)) := by
  refine exec_of_onUnit hdie rfl ?_
  dsimp only
  rw [hnone]
  dsimp only
  rw [hhead]
  rfl

/-! ### DEVICE_TOTAL (R273, R274) -/

@[simp] theorem getBucket_modEnd (s : State) (x t : Nat) (f : Endpoint → Endpoint) : getBucket (modEnd s x f) t = getBucket s t := rfl

/-- What the hub takes for a tag is a total of that tag. -/
theorem tag_of_hubTotal {s : State} {tag tile x : Nat} {o : OpenX} (h : hubTotal s tag tile = some (x, o)) : o.tag = tag := by
  obtain ⟨d, -, hd⟩ := List.exists_of_findSome?_eq_some h
  obtain ⟨o', hfind, heq⟩ := Option.map_eq_some_iff.1 hd
  obtain rfl : o' = o := congrArg Prod.snd heq
  have hsought := List.find?_some hfind
  simp only [Bool.and_eq_true, beq_iff_eq] at hsought
  obtain ⟨⟨⟨-, htag⟩, -⟩, -⟩ := hsought
  exact htag

/-- A total that misses cells, or whose digest does not agree, fails the bucket whose opening it was sent for. -/
theorem totalBad_of_closes {s : State} {x : Nat} {o : OpenX} (h : (getBucket s o.tag).closes = o.closes) :
    totalBad s x o = failBucket (modEnd s x (fun e => { e with opens := e.opens.erase o })) o.tag 2 := if_pos h

section Total

variable {s s0 : State} {tag tile x : Nat} {o : OpenX} (htag : tag < 1024)
  (hs0 : s0 = (List.range (dieCount s.product)).foldl hubOpen s) (htotal : hubTotal s0 tag tile = some (x, o))
  (hopen : (getBucket s0 tag).state = 1) (hcloses : o.closes = (getBucket s0 tag).closes) (htile : o.tile < bTiles (getBucket s0 tag))
  (hparity : (BitVec.ofNat 8 o.flags).getLsbD 1 = (getBucket s0 tag).parity)
include htag hs0 htotal hopen hcloses htile hparity

/-- DEVICE_TOTAL of a total of the OPEN bucket, of its opening and its parity: whether it is whole and agrees with its digest decides. -/
theorem exec_deviceTotal_ofRound : exec (.deviceTotal tag tile) s = .next (if o.count ≠ 0 ∨ crc32c o.got ≠ o.cv then totalBad s0 x o
    else routeTotal (modEnd s0 x (fun e => { e with opens := e.opens.erase o })) tag o.tile o.got) := by
  subst hs0
  refine exec_of_onUnit (decide_eq_true htag) rfl ?_
  dsimp only
  rw [htotal]
  refine if_neg ?_
  rintro (h | h | h | h)
  exacts [h hopen, h hcloses, Nat.not_le.2 htile h, h hparity]

theorem exec_deviceTotal_fails (hbad : o.count ≠ 0 ∨ crc32c o.got ≠ o.cv) : exec (.deviceTotal tag tile) s =
    .next (failBucket (modEnd s0 x (fun e => { e with opens := e.opens.erase o })) o.tag 2) := by
  have hof : (getBucket s0 o.tag).closes = o.closes := by rw [tag_of_hubTotal htotal, hcloses]
  rw [exec_deviceTotal_ofRound htag hs0 htotal hopen hcloses htile hparity, if_pos hbad, totalBad_of_closes hof]

theorem exec_deviceTotal_routes (hcount : o.count = 0) (hcv : crc32c o.got = o.cv) : exec (.deviceTotal tag tile) s =
    .next (routeTotal (modEnd s0 x (fun e => { e with opens := e.opens.erase o })) tag o.tile o.got) := by
  rw [exec_deviceTotal_ofRound htag hs0 htotal hopen hcloses htile hparity, if_neg (by simp [hcount, hcv])]

end Total

/-- Two changes of a bucket just written are one when they agree on what was written. -/
theorem modBucket_setBucket_congr {s : State} {t : Nat} {b : Bucket} {f g : Bucket → Bucket} (h : f b = g b) :
    modBucket (setBucket s t b) t f = modBucket (setBucket s t b) t g := by
  rw [modBucket, modBucket, getBucket_setBucket_same, h]

section Route

variable {s s2 : State} {tag t : Nat} {l : List Byte} {b : Bucket} (hb : b = getBucket s tag)
  (hs2 : s2 = setBucket s tag { b with taken := b.taken + 1 })
include hb hs2

/-- A total of the device's own tiles joins the round as the arrival of its rank. -/
theorem routeTotal_own (hown : ownerRank b t = bRank b ∧ bShadow b = false) : routeTotal s tag t l =
    bucketCheck (sendLists (shadowCompare (applyArrival (logEntry s2 tag t (ownerRank b t) 2 (crc32c l)) tag (ownerRank b t) t l
      (crc32c l)) tag (ownerRank b t) t (crc32c l) b.shadow) tag) tag := by
  subst hs2 hb
  rw [routeTotal]
  dsimp only
  rw [if_pos hown]

/-- Any other total is sent to its owner, and waits for the acknowledgement. The owner is a matter of the descriptor, which counting the
total leaves. -/
theorem routeTotal_peer {q key a : Nat} (hpeer : ¬ (ownerRank b t = bRank b ∧ bShadow b = false))
    (haddr : peerOf b (ownerRank b t) = (q, key, a)) : routeTotal s tag t l =
    bucketCheck (sendLists (sendOn (logEntry
      (modBucket s2 tag (fun b => { b with sent := b.sent ++ [(ownerRank b t, t, crc32c l)], unacked := b.unacked + 1 }))
      tag t (ownerRank b t) 1 (crc32c l)) q
      { psn := 0, kind := 3, addr := a + ownedIndex b t * 4096, rkey := key, imm := immOfTotal b tag t, data := l,
        len := 4096, job := tag, closes := b.closes }) tag) tag := by
  subst hs2 hb
  rw [routeTotal]
  dsimp only
  rw [if_neg hpeer, haddr]
  exact congrArg (fun u => bucketCheck (sendLists (sendOn (logEntry u tag t _ 1 _) q _) tag) tag) (modBucket_setBucket_congr rfl)

end Route

/-! ### BUCKET_START_WORD (R268, R277) -/

/-- A start word of an OPEN fallback bucket that is not the last of its die is counted. -/
theorem exec_bucketStartWord_counts {s s1 : State} {part tag die d : Nat} {pt : Part} (hunits : part < 64 ∧ tag < 1024)
    (hpart : getPart s part = some pt) (hrange : pt.bucketAt ≤ tag ∧ tag < pt.bucketAt + pt.buckets)
    (htouch : takeTouch s part (8 * (tag - pt.bucketAt)) = some (s1, die)) (hslot : indexIn (dieSlots pt) die = some d)
    (hopen : (getBucket s1 tag).state = 1) (hfallback : bFallback (getBucket s1 tag) = true)
    (hmore : tget 0 (getBucket s1 tag).starts d + 1 ≠ bLocal (getBucket s1 tag) d) :
    exec (.bucketStartWord part tag) s = .next (setBucket s1 tag { getBucket s1 tag with
      starts := tset 0 (getBucket s1 tag).starts d (tget 0 (getBucket s1 tag).starts d + 1) }) := by
  refine exec_of_onUnit (decide_eq_true hunits) rfl ?_
  rw [hpart]
  dsimp only
  rw [if_neg (by omega), htouch]
  dsimp only
  rw [hslot]
  dsimp only
  rw [if_neg (by simp [hopen, hfallback]), if_pos hmore]

/-! ### Rounds (R264, R278, R279, R295) -/

/-- A DONE bucket with rearm, none of whose raises and linked groups is outstanding, opens the next round. -/
theorem exec_bucketRearm_opens {s : State} {tag : Nat} (htag : tag < 1024) (hdone : (getBucket s tag).state = 2)
    (hrearm : bRearm (getBucket s tag) = true) (hraises : (getBucket s tag).raises = []) (hgood : (getBucket s tag).raiseBad = false)
    (hgroups : (getBucket s tag).pend = []) :
    exec (.bucketRearm tag) s = .next (openRound s tag ((getBucket s tag).round + 1) (!(getBucket s tag).parity)) :=
  exec_of_onUnit (decide_eq_true htag) rfl (if_pos ⟨hdone, hrearm, hraises, hgood, hgroups⟩)

/-- A round that is OPEN for as long as its time-out fails. -/
theorem exec_bucketRoundTimeout_fails {s : State} {tag : Nat} (htag : tag < 1024) (hopen : (getBucket s tag).state = 1)
    (hlate : s.fab ≥ (getBucket s tag).openedAt + usCycles (1000 * 2 ^ numAt (getBucket s tag).desc 9 1)) :
    exec (.bucketRoundTimeout tag) s = .next (failBucket s tag 4) :=
  exec_of_onUnit (decide_eq_true htag) rfl (if_pos ⟨hopen, hlate⟩)

/-- Settles O39: each command by its equation; a whole total with its digest goes where its owner is, and any other of the round fails
the bucket. -/
theorem bucketCommands : Obligations.BucketCommands := by
  refine ⟨?_, ?_, ?_, ?_⟩
  · rintro s die x c hdie rfl hnone hhead
    exact ⟨redOpen (sourceEnded s die c) c, sourceEnded s die c, rfl, exec_reduce_opens hdie hnone hhead,
      rfl, rfl, rfl, rfl, rfl, rfl, rfl, rfl⟩
  · rintro s tag tile x o b s0 s1 htag hs0 htotal rfl rfl hopen hcloses htile hparity
    refine ⟨exec_deviceTotal_fails htag hs0 htotal hopen hcloses htile hparity, fun hcount hcv s2 hs2 => ?_⟩
    rw [exec_deviceTotal_routes htag hs0 htotal hopen hcloses htile hparity hcount hcv]
    exact ⟨fun hrank hshadow => congrArg _ (routeTotal_own rfl hs2 ⟨hrank, hshadow⟩),
      fun hpeer q key a haddr => congrArg _ (routeTotal_peer rfl hs2 hpeer haddr)⟩
  · exact fun s part tag pt s1 die d hp ht hpart hlo hhi htouch hslot hopen hfallback hmore =>
      exec_bucketStartWord_counts ⟨hp, ht⟩ hpart ⟨hlo, hhi⟩ htouch hslot hopen hfallback hmore
  · rintro s tag b htag rfl
    exact ⟨exec_bucketRearm_opens htag, exec_bucketRoundTimeout_fails htag⟩

end Sys2Proof.Machine
end

section
/-! SUPPORT. The update engine: start words, the engine's next group, the end of pass 1, resume words, the sweep and the group's end
(R286 to R295). -/

namespace Sys2Proof.Machine

/-! ### UPDATE_START_WORD (R291) -/

/-- A start word of an unlinked group sets the step when it asks for one, and starts the group. -/
theorem exec_updateStartWord_starts {s s1 : State} {part group d : Nat} {pt : Part} (hunits : part < 64 ∧ group < 256)
    (htouch : takeTouch s part (groupBase group + 128) = some (s1, d)) (hpart : getPart s1 part = some pt)
    (hunlinked : gFlag pt group 3 = false) :
    exec (.updateStartWord part group) s = .next (startGroup
      (if gf pt group 128 8 / 2 ^ 32 % 2 = 1 ∧ gf pt group 128 8 % 2 ^ 32 ≠ 0 then
        setGf s1 part group 144 4 (gf pt group 128 8 % 2 ^ 32 - 1) else s1) part group) := by
  refine exec_of_onUnit (decide_eq_true hunits) rfl ?_
  rw [htouch]
  dsimp only
  rw [hpart]
  exact if_neg (by simp [hunlinked])

/-! ### UPDATE_GROUP_START (R290 to R293) -/

/-- The update that an engine begins with a group: the step is the one after those applied. -/
def newUpdate (pt : Part) (part g : Nat) : Updating := { part := part, group := g, t := (gStep pt g + 1) % 2 ^ 32, pass := 1 }

section GroupStart

variable {s s0 : State} {die part g : Nat} {rest : List (Nat × Nat)} {pt : Part} (hdie : dieOk s die = true)
  (hfree : (getDie s die).cur = none) (hqueue : (getDie s die).queue = (part, g) :: rest)
  (hs0 : s0 = setDie s die { getDie s die with queue := rest }) (hpart : getPart s0 part = some pt)
include hdie hfree hqueue hs0 hpart

/-- A group with a reserved value, or whose start word asks for step 0, is decided INVALID and releases its gradient unread. -/
theorem exec_updateGroupStart_rejects (hbad : groupReserved pt g = true ∨ zeroStep pt g = true) :
    exec (.updateGroupStart die) s = .next (releaseGrad (decide_ (setGf s0 part g 148 1 2) die
      { newUpdate pt part g with released := true } 4) part g) := by
  dsimp only at hs0
  rw [hfree] at hs0
  refine exec_of_onUnit hdie rfl ?_
  dsimp only
  rw [hfree, hqueue]
  dsimp only
  rw [← hs0, hpart]
  exact if_pos (by simpa using hbad)

/-- A group that passes the checks and is not frozen begins pass 1 with the schedule's values of its step. -/
theorem exec_updateGroupStart_begins {s2 : State} {pts : List Point} (hclean : groupReserved pt g = false)
    (hstep : zeroStep pt g = false) (hrows : gRows pt g ≠ 0) (hcols : gCols pt g ≠ 0)
    (hschedule : readSchedule (setGf s0 part g 148 1 2) part g = (s2, .ok pts)) (hpoints : pts ≠ [])
    (hvalid : groupInvalid pt g = false) (hunfrozen : gFlag pt g 0 = false) :
    exec (.updateGroupStart die) s = .next (setUpdating s2 die (some { newUpdate pt part g with
      lr := scheduleAt pts (newUpdate pt part g).t 0, wd := scheduleAt pts (newUpdate pt part g).t 1,
      b1 := scheduleAt pts (newUpdate pt part g).t 2, b2 := scheduleAt pts (newUpdate pt part g).t 3 })) := by
  dsimp only at hs0
  rw [hfree] at hs0
  refine exec_of_onUnit hdie rfl ?_
  dsimp only
  rw [hfree, hqueue]
  dsimp only
  rw [← hs0, hpart]
  dsimp only
  rw [if_neg (by simp [hclean, hstep]), if_neg (by simp [hrows, hcols]), hschedule]
  dsimp only
  rw [if_neg hpoints, if_neg (by simp [hvalid]), if_neg (by simp [hunfrozen])]
  rfl

end GroupStart

/-! ### UPDATE_PASS_1_END (R287, R293) -/

/-- A U3 group ends pass 1 (R294): ns_par is written, its cores are raised, and the group waits for their resume words. -/
def awaitResumes (s : State) (die part g : Nat) (pt : Part) (c : Coef) (u : Updating) : State :=
  let par := leBytes 4 c.b1.toNat ++ leBytes 4 (fmul (gw pt g 60) u.factor).toNat ++
    leBytes 4 (fdivR one32 (fadd u.unorm c.eps)).toNat ++ zeros 4
  let written := modPart s part (fun p => { p with area := writeBytes p.area (groupBase g + 160) par })
  let raised := (List.range (gf pt g 84 2)).foldl (fun s i => updateRaise s part (gf pt g 82 2 + i) (gf pt g 79 1) 1) written
  setUpdating raised die (some { u with pass := 3 })

section PassOne

variable {s s2 : State} {die : Nat} {u v w : Updating} {a : Arrays} {pt : Part} (hdie : dieOk s die = true)
  (hcur : (getDie s die).cur = some u) (hpass : u.pass = 1) (hopen : u.outcome = none) (hpart : getPart s u.part = some pt)
  (hread : readArrays s u.part u.group (gSize pt u.group) = (s2, some a))
  (hv : v = { u with p1 := fpow (Config.freeValue s2.freeSeq 0) u.b1 u.t, p2 := fpow (Config.freeValue s2.freeSeq 1) u.b2 u.t })
  (hw : w = passOne pt u.group (coefOf pt v) a v)
include hdie hcur hpass hopen hpart hread hv hw

/-- UPDATE_PASS_1_END with the arrays read: the gradients and the rule decide what follows, with what the pass has formed. -/
theorem exec_updatePass1End_ofRead : exec (.updatePass1End die) s = .next
    (if a.g.any (fun x => !isFinite (gradOf pt u.group 0 false x)) = true then decide_ (useFree s2) die w 6
      else if gRule pt u.group = 3 then awaitResumes (useFree s2) die u.part u.group pt (coefOf pt v) w
      else setUpdating (useFree s2) die (some { w with pass := 2 })) := by
  refine exec_of_onUnit hdie rfl ?_
  rw [hcur]
  dsimp only
  rw [if_neg (by simp [hpass, hopen]), hpart]
  dsimp only
  rw [hread]
  dsimp only [awaitResumes]
  rw [hw, hv]

/-- A gradient that is not finite decides the update NONFINITE, with the norms kept. -/
theorem exec_updatePass1End_nonfinite (hbad : a.g.any (fun x => !isFinite (gradOf pt u.group 0 false x)) = true) :
    exec (.updatePass1End die) s = .next (decide_ (useFree s2) die w 6) := by
  rw [exec_updatePass1End_ofRead hdie hcur hpass hopen hpart hread hv hw, if_pos hbad]

/-- With finite gradients a rule other than U3 goes on to pass 2. -/
theorem exec_updatePass1End_continues (hfinite : a.g.any (fun x => !isFinite (gradOf pt u.group 0 false x)) = false)
    (hrule : gRule pt u.group ≠ 3) :
    exec (.updatePass1End die) s = .next (setUpdating (useFree s2) die (some { w with pass := 2 })) := by
  rw [exec_updatePass1End_ofRead hdie hcur hpass hopen hpart hread hv hw, if_neg (ne_true_of_eq_false hfinite), if_neg hrule]

end PassOne

/-! ### UPDATE_RESUME_WORD (R294) -/

/-- A resume word of the group that waits for it is counted, and the last one begins pass 2. -/
theorem exec_updateResumeWord_counts {s s1 : State} {part group d : Nat} {pt : Part} {u : Updating} (hunits : part < 64 ∧ group < 256)
    (htouch : takeTouch s part (groupBase group + 136) = some (s1, d)) (hpart : getPart s1 part = some pt)
    (hcur : (getDie s1 (gDie pt group)).cur = some u) (hwaits : u.part = part ∧ u.group = group ∧ u.pass = 3) :
    exec (.updateResumeWord part group) s = .next (setUpdating s1 (gDie pt group)
      (some { u with resumes := u.resumes + 1, pass := if u.resumes + 1 ≥ gf pt group 84 2 then 2 else 3 })) := by
  refine exec_of_onUnit (decide_eq_true hunits) rfl ?_
  rw [htouch]
  dsimp only
  rw [hpart]
  dsimp only
  rw [hcur]
  exact if_pos hwaits

/-! ### GRADIENT_RELEASE and UPDATE_GROUP_END (R287, R291, R293) -/

/-- An update in pass 2 sweeps its group and releases the gradient. -/
theorem exec_gradientRelease_sweeps {s : State} {die : Nat} {u : Updating} (hdie : dieOk s die = true)
    (hcur : (getDie s die).cur = some u) (hready : u.pass = 2 ∧ u.outcome = none) :
    exec (.gradientRelease die) s = .next (finishPass2 s die u) := by
  refine exec_of_onUnit hdie rfl ?_
  rw [hcur]
  exact if_pos hready

/-- A decided update ends without another sweep. -/
theorem exec_updateGroupEnd_ends {s : State} {die o : Nat} {u : Updating} (hdie : dieOk s die = true)
    (hcur : (getDie s die).cur = some u) (hdecided : u.outcome = some o) :
    exec (.updateGroupEnd die) s = .next (endUpdate s die u o) := by
  refine exec_of_onUnit hdie rfl ?_
  rw [hcur]
  dsimp only
  rw [if_neg (by simp [hdecided]), hcur]
  dsimp only
  rw [hdecided]

/-- Settles O40: each command by its equation. Whether a group's checks pass decides its start, whether its gradients are finite the
end of pass 1, and an outcome that stands lets the group end without a sweep. That pass 1 is carried out at UPDATE_PASS_1_END and pass 2
swept at GRADIENT_RELEASE, and that a U3 group of no cores counts as reserved, is the model's reading (DEDUCED, log 22). -/
theorem updateCommands : Obligations.UpdateCommands := by
  refine ⟨?_, ?_, ?_, ?_, ?_⟩
  · exact fun s part group s1 d pt hp hg htouch hpart hunlinked => exec_updateStartWord_starts ⟨hp, hg⟩ htouch hpart hunlinked
  · rintro s die part g rest pt s0 s1 s2 pts hdie hfree hqueue hs0 hpart rfl
    exact ⟨fun hreserved => exec_updateGroupStart_rejects hdie hfree hqueue hs0 hpart (.inl hreserved),
      exec_updateGroupStart_begins hdie hfree hqueue hs0 hpart⟩
  · intro s die u v w s2 a pt hdie hcur hpass hopen hpart hread hv hw
    exact ⟨exec_updatePass1End_nonfinite hdie hcur hpass hopen hpart hread hv hw,
      exec_updatePass1End_continues hdie hcur hpass hopen hpart hread hv hw⟩
  · exact fun s part group s1 d pt u hp hg htouch hpart hcur hupart hugroup hpass =>
      exec_updateResumeWord_counts ⟨hp, hg⟩ htouch hpart hcur ⟨hupart, hugroup, hpass⟩
  · exact fun s die u hdie hcur => ⟨fun hpass hopen => exec_gradientRelease_sweeps hdie hcur ⟨hpass, hopen⟩,
      fun o hdecided => exec_updateGroupEnd_ends hdie hcur hdecided⟩

end Sys2Proof.Machine
end

section
/-! SUPPORT. The step of the block, and what its tick and a settled remap do beside what is claimed of them. -/

namespace Sys2Proof.Machine

/-- Settles O1: the front command is taken off the queue by `step`'s own definition. -/
theorem stepRunsFrontCommand : Obligations.StepRunsFrontCommand := by
  intro c r s
  rfl

/-- An idle block with its firmware up, one hour after power-on, which has not yet written a generation of lifetime records. -/
def idleHour : State := { State.reset with ouvosUp := true, timeBase := 3600000000000 }

/-- The state's next generation is due at another time after a step. -/
def movesGenAt (s : State) : Bool := match step s with | .next t => t.genAt != s.genAt | _ => false

theorem movesGenAt_idleHour : movesGenAt idleHour = true := by decide +kernel

/-- Refutes O2: a write of the lifetime records that is 60 minutes overdue is served in the tick too (R339), so that an idle block with its
firmware up, `idleHour`, sets the time of its next generation, which the claim leaves as it was. -/
theorem not_emptyQueueLetsACyclePass : ¬ Obligations.EmptyQueueLetsACyclePass := by
  intro h
  obtain ⟨m, hstep, -⟩ := h idleHour rfl rfl rfl rfl rfl
  have hmoves := movesGenAt_idleHour
  simp [movesGenAt, hstep] at hmoves

/-- The live remap of core 7 that is under way in `dirtyRemap`. -/
def dirtyAction : FenceAction := { kind := 0, core := 7, target := 4, reason := 0x80, step := 1, since := 0 }

/-- The partition of `dirtyRemap`: cluster 0, with the live remap in hand. -/
def dirtyPart : Part := { clusters := [0], actions := [dirtyAction] }

/-- A partition at its live remap of core 7, whose core memory holds a word that cannot be corrected. -/
def dirtyRemap : State :=
  setPart (setCore State.reset 7 { ({} : Core) with bad := [(0, true)] }) 0 (some dirtyPart)

/-- The columns that move are held. -/
def dirtyHeld : State := setHolds dirtyRemap (segOfPhys 7) (7 - segBase (segOfPhys 7)) true

theorem settled_dirtyRemap : settled dirtyRemap dirtyPart = true := by decide +kernel

theorem passDirty_dirtyHeld : passDirty dirtyHeld (segOfPhys 7) (7 - segBase (segOfPhys 7)) true = true := by decide +kernel

/-- Events in the ring of die 0 after the command. -/
def ringAfterRemap : Nat := match exec (.remapSettled 0) dirtyRemap with | .next t => (getDie t 0).ring.length | _ => 0

theorem ringAfterRemap_eq : ringAfterRemap = 1 := by decide +kernel

theorem ring_restartRemap_dirtyHeld :
    (getDie (afterAction (actionOver (restartRemap dirtyHeld 0 dirtyAction (actionRecord dirtyRemap dirtyAction)) 0)) 0).ring.length = 0 := by
  decide +kernel

/-- Refutes O42: the pass that finds the word that cannot be corrected has read it, and its event 0x82 is in the ring of the die (R147, R311)
before the remap goes on as a restart remap; in `dirtyRemap` the ring of die 0 holds one event, and none in the state that the claim names. -/
theorem not_settleIsolateAndGoose : ¬ Obligations.SettleIsolateAndGoose := by
  intro h
  obtain ⟨hremap, -, -⟩ := h
  have hsettle := (hremap dirtyRemap 0 dirtyPart dirtyAction [] (by decide) rfl rfl rfl).1 settled_dirtyRemap dirtyHeld rfl
  have hexec := hsettle.2 passDirty_dirtyHeld
  have hring := ringAfterRemap_eq
  rw [ringAfterRemap, hexec] at hring
  exact absurd (ring_restartRemap_dirtyHeld.symm.trans hring) (by decide)

end Sys2Proof.Machine
end

section
/-! SUPPORT. The registers of fencing: a field of a word read back, and the commands that write them (R27, R194, R303, R304). -/

namespace Sys2Proof.Machine

/-! ### The word of CORE_CLU_FENCE -/

/-- The word that `setClu` writes. -/
def cluWord (state part : Nat) : W64 := BitVec.ofNat 64 (state + if state = 1 ∨ state = 2 then 4 * (part % 64) else 0)

theorem cluWord_toNat {state : Nat} (part : Nat) (hstate : state < 4) :
    (cluWord state part).toNat = state + if state = 1 ∨ state = 2 then 4 * (part % 64) else 0 := by
  rw [cluWord, BitVec.toNat_ofNat]
  split <;> omega

theorem fld_cluWord_state {state : Nat} (part : Nat) (hstate : state < 4) : fld (cluWord state part) 1 0 = state := by
  rw [fld, cluWord_toNat part hstate]
  split <;> simp <;> omega

theorem fld_cluWord_part {state part : Nat} (hstate : state < 4) (hpart : part < 64) :
    fld (cluWord state part) 7 2 = if state = 1 ∨ state = 2 then part else 0 := by
  rw [fld, cluWord_toNat part hstate, Nat.shiftRight_eq_div_pow]
  split <;> simp <;> omega

/-! ### The commands -/

theorem exec_faultEventTaken_trap {s : State} {die : Nat} {q : TrapRec} {r : List RingEntry} (hdie : dieOk s die = true)
    (hup : s.ouvosUp = true) (hring : (getDie s die).ring = .trap q :: r) :
    exec (.faultEventTaken die) s = .next (afterAction (takeTrap (modDie s die (fun d => { d with ring := r })) q)) := by
  refine exec_of_onUnit hdie rfl ?_
  rw [faultEventTaken, if_pos hup, hring]

theorem exec_faultEventTaken_event {s : State} {die : Nat} {q : EventRec} {r : List RingEntry} (hdie : dieOk s die = true)
    (hup : s.ouvosUp = true) (hring : (getDie s die).ring = .event q :: r) :
    exec (.faultEventTaken die) s = .next (afterAction (takeEvent (modDie s die (fun d => { d with ring := r })) die q)) := by
  refine exec_of_onUnit hdie rfl ?_
  rw [faultEventTaken, if_pos hup, hring]

theorem exec_coreFenceState_of {s : State} {core state reason : Nat} (hcore : coreOk s core = true) (hstate : state < 6) :
    exec (.coreFenceState core state reason) s = .next (setFence (deliverSeg s (segOfPhys core)) core state (reason % 256)) :=
  exec_of_onUnit hcore rfl (if_pos hstate)

theorem exec_coreHold_of {s : State} {core : Nat} (hold : Bool) (hcore : coreOk s core = true) :
    exec (.coreHold core hold) s = .next (setHold s core hold) := exec_of_onUnit hcore rfl rfl

theorem exec_coreFreeze_freezes {s : State} {core : Nat} (hcore : coreOk s core = true) (hrun : (getCore s core).frozenAt = none) :
    exec (.coreFreeze core true) s =
      .next (setCore { s with fence := tset 0 s.fence core (setFld (tget 0 s.fence core) 3 3 1) } core
        { getCore s core with frozenAt := some s.fab }) := by
  refine exec_of_onUnit hcore rfl ?_
  simp only [setFrozen, hrun, if_true]

theorem exec_coreFreeze_releases {s : State} {core f : Nat} (hcore : coreOk s core = true)
    (hfrozen : (getCore s core).frozenAt = some f) (hgoing : (getCore s core).stopped = false) :
    exec (.coreFreeze core false) s =
      .next ((getCore s core).deferred.foldl (fun s e => runDeferred s core e)
        (setCore { s with fence := tset 0 s.fence core (setFld (tget 0 s.fence core) 3 3 0) } core
          { getCore s core with frozenAt := none, frozenAcc := (getCore s core).frozenAcc + (s.fab - f), deferred := [] })) := by
  refine exec_of_onUnit hcore rfl ?_
  simp only [setFrozen, hfrozen, hgoing, Bool.false_eq_true, if_false]

theorem exec_coreFreeze_staysStopped {s : State} {core f : Nat} (hcore : coreOk s core = true)
    (hfrozen : (getCore s core).frozenAt = some f) (hstopped : (getCore s core).stopped = true) :
    exec (.coreFreeze core false) s =
      .next (setCore { s with fence := tset 0 s.fence core (setFld (tget 0 s.fence core) 3 3 0) } core
        { getCore s core with frozenAt := none, frozenAcc := (getCore s core).frozenAcc + (s.fab - f) }) := by
  refine exec_of_onUnit hcore rfl ?_
  simp only [setFrozen, hfrozen, hstopped, Bool.false_eq_true, if_false, if_true]

theorem exec_clusterFenceState_of {s : State} {cluster state part : Nat} (hclu : cluOk s cluster = true) (hstate : state < 4)
    (hpart : part < 64) : exec (.clusterFenceState cluster state part) s =
      .next { deliverCluster s cluster with
                cluFence := tset 0 (deliverCluster s cluster).cluFence cluster (cluWord state part) } :=
  exec_of_onUnit (by simp [hclu, hstate, hpart]) rfl rfl

theorem exec_vnShiftWrite_valid {s : State} {seg value : Nat} (hseg : segOk s seg = true) (hvalue : value ∈ shiftValues) :
    exec (.vnShiftWrite seg value) s =
      .next { deliverSeg s seg with shift := tset 0 (deliverSeg s seg).shift seg (BitVec.ofNat 8 value) } :=
  exec_of_onUnit hseg rfl (by rw [if_pos (List.contains_iff_mem.mpr hvalue), setShift])

/-- The event of a reserved value (R194). -/
def reservedShift (s : State) (seg value : Nat) : EventRec :=
  let c := cluOfPhys (segBase seg)
  { code := 0x87, unitKind := 6, unit := cluUnit c, part := partOrNone (partOfCluster s c), by_ := detShift c,
    detail := [BitVec.ofNat 8 (seg % 4), BitVec.ofNat 8 value] }

theorem exec_vnShiftWrite_reserved {s : State} {seg value : Nat} (hseg : segOk s seg = true) (hvalue : value ∉ shiftValues) :
    exec (.vnShiftWrite seg value) s = .next (postEvent s (seg / 64) (reservedShift s seg value)) :=
  exec_of_onUnit hseg rfl (by rw [if_neg (by simpa using hvalue), reservedShift])

/-- Settles O41, command by command. That a waiting policy does not hold up the ring of the die is log 27. -/
theorem fencingRegisters : Obligations.FencingRegisters := by
  refine ⟨?_, ?_, ?_, ?_, ?_, ?_⟩
  · rintro s die e r hdie hup hring u rfl
    refine ⟨?_, ?_⟩
    · rintro q rfl
      exact exec_faultEventTaken_trap hdie hup hring
    · rintro q rfl
      exact exec_faultEventTaken_event hdie hup hring
  · intro s core state reason hcore hstate u hu
    rw [hu]
    exact exec_coreFenceState_of hcore hstate
  · exact fun s core hold hcore => exec_coreHold_of hold hcore
  · exact fun s core hcore => ⟨exec_coreFreeze_freezes hcore, fun f => exec_coreFreeze_staysStopped hcore,
      fun f => exec_coreFreeze_releases hcore⟩
  · exact fun s cluster state part hclu hstate hpart => ⟨cluWord state part, exec_clusterFenceState_of hclu hstate hpart,
      fld_cluWord_state part hstate, fld_cluWord_part hstate hpart⟩
  · exact fun s seg value hseg => ⟨exec_vnShiftWrite_valid hseg,
      fun hvalue => ⟨reservedShift s seg value, rfl, rfl, rfl, exec_vnShiftWrite_reserved hseg hvalue⟩⟩

end Sys2Proof.Machine
end

section
/-! SUPPORT. Sounding, the lifetime records, the dumps and DRAM calibration: what the commands do, case by case (R258, R323 to R340, R351). -/

namespace Sys2Proof.Machine

/-! ### The sweep (R326) -/

section Sweep

variable {s u : State}

theorem exec_soundingSweepTick_early (hrun : testsRun s = true) (hphase : inServicePhase s = true) (hservice : s.service ≠ 3)
    (hearly : devNs s < nextSound (newSweep s) ((newSweep s).sweepFrom.getD 0)) :
    exec .soundingSweepTick s = .next (newSweep s) := by
  refine congrArg Host.Outcome.next ?_
  rw [if_neg (by simp [hrun, hphase, hservice])]
  exact if_pos hearly

theorem exec_soundingSweepTick_takes {p : Nat} (hrun : testsRun s = true) (hphase : inServicePhase s = true) (hservice : s.service ≠ 3)
    (hdue : devNs s ≥ nextSound (newSweep s) ((newSweep s).sweepFrom.getD 0))
    (hfirst : (newSweep s).sweep.find? (fun p => !clusterBusy (newSweep s) p) = some p) :
    exec .soundingSweepTick s =
      .next (sweepEnds (soundNext { newSweep s with sweep := (newSweep s).sweep.filter (fun q => q != p) } p)) := by
  refine congrArg Host.Outcome.next ?_
  rw [if_neg (by simp [hrun, hphase, hservice])]
  dsimp only
  rw [if_neg (by omega), hfirst]

end Sweep

/-! ### A slice (R322 to R327) -/

section Slice

variable {s : State} {core addr b : Nat} {x : CoreTest}

/-- The slice in hand of a core under test: the test engine runs, the device is not shut down, and the slice has begun or nothing makes it
yield. -/
structure UnderTest (s : State) (core : Nat) (x : CoreTest) : Prop where
  onDie : coreOk s core = true
  run : testsRun s = true
  service : s.service ≠ 3
  test : testOf s core = some x
  begun : x.begun = true ∨ soundYields s core = false

theorem UnderTest.goes (h : UnderTest s core x) :
    ¬ (!testsRun s || decide (s.service = 3) || (!x.begun && soundYields s core)) = true := by
  have hb : (!x.begun && soundYields s core) = false := by
    obtain hb | hb := h.begun <;> simp [hb]
  simp [h.run, h.service, hb]

/-- What a slice of a core under test comes to. -/
theorem exec_soundingSlice (h : UnderTest s core x) (pass : Bool) (addr b : Nat) : exec (.soundingSlice core pass addr b) s =
    .next (if pass = true then
        if x.again = true ∧ countIn s 1 core 0x8C week ≥ 2 then soundCondemns s core []
        else if x.slice ≥ 16 then soundEnds s core else startSlice s core (x.slice + 1) false (!soundYields s core)
      else if x.again = true then soundCondemns s core (soundRecord s core x.slice addr b)
      else if nextIsPermanent s 1 core = true then soundCondemns (soundFails s core x.slice addr b) core (soundRecord s core x.slice addr b)
      else soundFails s core x.slice addr b) := by
  refine exec_of_onUnit h.onDie rfl ?_
  rw [h.test]
  exact if_neg h.goes

theorem exec_soundingSlice_idle (pass : Bool) (hcore : coreOk s core = true) (htest : testOf s core = some x)
    (hidle : s.service = 3 ∨ (x.begun = false ∧ soundYields s core = true)) :
    exec (.soundingSlice core pass addr b) s = .next s := by
  refine exec_of_onUnit hcore rfl ?_
  rw [htest]
  refine if_pos ?_
  obtain hidle | ⟨hbegun, hyields⟩ := hidle
  · simp [hidle]
  · simp [hbegun, hyields]

/-- A slice that begins runs at the test clock and supply of the cluster's grant (R323). -/
theorem startSlice_entry (s : State) (core n : Nat) (again : Bool) :
    ∃ e, e ∈ (startSlice s core n again).sounding ∧ e.core = core ∧ e.slice = n ∧ e.again = again ∧
      (e.clock, e.trim) = testSupply (getPow s (cluOfPhys core)).grant :=
  ⟨_, List.mem_append_right _ (List.mem_singleton_self _), rfl, rfl, rfl, rfl⟩

end Slice

/-! ### The lifetime records (R335 to R339) -/

/-- The bins of a unit (R338). -/
theorem binUnit_bins (s : State) (temps : List (Nat × Nat)) (volts : List (Nat × Int)) (k n : Nat) (r : Scree) :
    ∃ t v : Nat, binUnit s temps volts k n r =
        { r with temp := tset 0 r.temp t (sat32 (tget 0 r.temp t + 1)), volt := tset 0 r.volt v (sat32 (tget 0 r.volt v + 1)) } ∧
      (k ≠ 0x22 → t = tempBin (readingOf s temps (sensorOf k n))) ∧ (k = 0x22 → t = tempBin (hottest s temps)) ∧
      (∀ w, k ≠ 0x22 → volts.find? (fun e => e.1 == sensorOf k n) = some (sensorOf k n, w) → v = voltBin w) := by
  refine ⟨_, _, rfl, fun hk => ?_, fun hk => ?_, fun w hk hw => ?_⟩
  · rw [if_neg hk]
  · rw [if_pos hk]
  · simp only [if_neg hk, hw, Option.map_some, Option.getD_some]

/-- The generation that a write puts into flash (R339). -/
def newGeneration (s : State) : Generation :=
  { number := max s.flash.areaA.number s.flash.areaB.number + 1, count := (screeUnits s).length, digest := generationDigest s, recs := s.scree }

theorem exec_screeGenerationWrite_areaA {s : State} (hdue : devNs s ≥ s.genAt) (harea : s.flash.areaA.number ≤ s.flash.areaB.number) :
    exec .screeGenerationWrite s =
      .next { s with genAt := devNs s + 600000000000, flash := { s.flash with areaA := newGeneration s } } := by
  refine congrArg Host.Outcome.next ?_
  rw [if_pos hdue, writeGeneration, if_pos harea, newGeneration]

theorem exec_screeGenerationWrite_areaB {s : State} (hdue : devNs s ≥ s.genAt) (harea : s.flash.areaB.number < s.flash.areaA.number) :
    exec .screeGenerationWrite s =
      .next { s with genAt := devNs s + 600000000000, flash := { s.flash with areaB := newGeneration s } } := by
  refine congrArg Host.Outcome.next ?_
  rw [if_pos hdue, writeGeneration, if_neg (by omega), newGeneration]

/-! ### Dumps (R351) -/

theorem length_slice (l : List Byte) (off n : Nat) : (slice l off n).length = n := by simp [slice]

/-- The dump that a copy leaves: its header says that it is retained, and its digest covers it again. -/
def copiedDump (d : Dump) : Dump :=
  let h := slice d.bytes 0 11 ++ leBytes 1 (numAt d.bytes 11 1 % 2 + 2) ++ slice d.bytes 12 20
  { d with bytes := h ++ digestBytes (sha3 (h ++ d.bytes.drop 64)) ++ d.bytes.drop 64, copied := true }

/-- The header and the digest are 64 bytes; what follows them stays. -/
theorem copiedDump_body (d : Dump) : (copiedDump d).bytes.drop 64 = d.bytes.drop 64 := by
  refine List.drop_left' ?_
  simp [length_slice, leBytes_length, digestBytes]

theorem exec_dumpCopy_copies {s : State} {slot : Nat} (hslot : slot < 2) (hbytes : (tget ({} : Dump) s.dumps slot).bytes ≠ [])
    (hnew : (tget ({} : Dump) s.dumps slot).copied = false) :
    exec (.dumpCopy slot) s = .next { s with
      dumps := tset {} s.dumps slot (copiedDump (tget {} s.dumps slot)),
      flash := { s.flash with dumps := tset {} s.flash.dumps (s.flash.dumpNext % 8) (copiedDump (tget {} s.dumps slot)),
                              dumpNext := (s.flash.dumpNext + 1) % 8 } } := by
  refine exec_of_onUnit (by simpa using hslot) rfl ?_
  exact if_neg (by simp [hbytes, hnew])

/-! ### DRAM (R258) -/

section Dram

variable {s : State} {tier unit : Nat}

theorem exec_dramRefresh_good (htier : tier < 2) : exec (.dramRefresh tier unit true) s =
    .next (setTier s tier { getTier s tier with calFail := tset 0 (getTier s tier).calFail unit 0 }) :=
  exec_of_onUnit (by simpa using htier) rfl rfl

theorem exec_dramRefresh_fails (htier : tier < 2) (hfew : tget 0 (getTier s tier).calFail unit < 2) :
    exec (.dramRefresh tier unit false) s =
      .next (setTier s tier { getTier s tier with calFail := tset 0 (getTier s tier).calFail unit (tget 0 (getTier s tier).calFail unit + 1) }) := by
  refine exec_of_onUnit (by simpa using htier) rfl ?_
  have hn : ¬ tget 0 (getTier s tier).calFail unit + 1 ≥ 3 := by omega
  simp only [if_neg hn, Bool.false_eq_true, if_false]

/-- Event 0x8D of a unit that has failed its calibration three times in a row. -/
def calibrationEvent (tier unit : Nat) : EventRec :=
  { code := 0x8D, unitKind := if tier = 0 then 8 else 9, unit := unit, by_ := detTier tier (if tier = 0 then unit % 8 else unit % 16) }

theorem exec_dramRefresh_third (htier : tier < 2) (hmany : tget 0 (getTier s tier).calFail unit ≥ 2) :
    exec (.dramRefresh tier unit false) s =
      .next (postEvent (setTier s tier { getTier s tier with calFail := tset 0 (getTier s tier).calFail unit 0 })
        (if tier = 0 then unit % 8 / 2 else 0) (calibrationEvent tier unit)) := by
  refine exec_of_onUnit (by simpa using htier) rfl ?_
  have hn : tget 0 (getTier s tier).calFail unit + 1 ≥ 3 := by omega
  simp only [if_pos hn, Bool.false_eq_true, if_false, calibrationEvent]

end Dram

/-- Settles O43, command by command; that the counts are gathered with the bins is log 77. -/
theorem soundingAndRecords : Obligations.SoundingAndRecords := by
  refine ⟨?_, ?_, ?_, ?_, ?_, ?_, ?_⟩
  · rintro s u hrun hphase hservice rfl
    exact ⟨exec_soundingSweepTick_early hrun hphase hservice, fun p => exec_soundingSweepTick_takes hrun hphase hservice⟩
  · rintro s core n addr b again x hcore hrun hservice htest hbegun rfl rfl
    have hslice := exec_soundingSlice ⟨hcore, hrun, hservice, htest, hbegun⟩
    refine ⟨fun hagain hcount => ?_, fun hgood => ⟨fun hn => ?_, fun hn => ?_⟩, fun hagain hperm => ?_, fun hagain hperm => ?_, fun hagain => ?_,
      startSlice_entry s core _ _⟩
    · simp only [hslice, if_true, if_pos (And.intro hagain hcount)]
    · simp only [hslice, if_true, if_neg hgood, if_neg (Nat.not_le.mpr hn)]
    · simp only [hslice, if_true, if_neg hgood, if_pos hn]
    · simp only [hslice, hagain, hperm, Bool.false_eq_true, if_false]
    · simp only [hslice, hagain, hperm, Bool.false_eq_true, if_false, if_true]
    · simp only [hslice, hagain, Bool.false_eq_true, if_false, if_true]
  · exact fun s core x addr b pass hcore htest hidle => exec_soundingSlice_idle pass hcore htest hidle
  · rintro s u temps volts rfl
    refine ⟨fun hdone => congrArg Host.Outcome.next (if_pos hdone), fun hnew => congrArg Host.Outcome.next (if_neg hnew),
      binUnit_bins _ temps volts⟩
  · exact fun s hdue => ⟨newGeneration s, rfl, rfl, rfl, rfl, exec_screeGenerationWrite_areaA hdue, exec_screeGenerationWrite_areaB hdue⟩
  · rintro s slot d hslot rfl hbytes hnew
    exact ⟨copiedDump _, rfl, rfl, rfl, copiedDump_body _, exec_dumpCopy_copies hslot hbytes hnew⟩
  · exact fun s tier unit htier => ⟨exec_dramRefresh_good htier, exec_dramRefresh_fails htier,
      fun hmany => ⟨calibrationEvent tier unit, _, rfl, rfl, exec_dramRefresh_third htier hmany⟩⟩

end Sys2Proof.Machine
end

section
/-! SUPPORT. The power manager's commands, case by case (R470 to R480). -/

namespace Sys2Proof.Machine

/-! ### The cap and the brake (R474 to R477) -/

section Cap

variable {s : State} {v : W64} {e : Nat}

theorem exec_pwrLimitWrite_taken (hv : fld v 11 0 ≠ 0) (hmin : limitMin s ≤ fld v 11 0) (hmax : fld v 11 0 ≤ limitMax s) :
    exec (.pwrLimitWrite v) s = .next { s with pwrLimit := BitVec.ofNat 64 (fld v 11 0) } := by
  refine congrArg Host.Outcome.next ?_
  dsimp only
  rw [if_neg hv, if_neg (by omega)]

theorem exec_pwrLimitWrite_refused (hv : fld v 11 0 ≠ 0) (hout : fld v 11 0 < limitMin s ∨ fld v 11 0 > limitMax s) :
    exec (.pwrLimitWrite v) s = .next { s with pwrRefused := true } := by
  refine congrArg Host.Outcome.next ?_
  dsimp only
  rw [if_neg hv, if_pos hout]

theorem exec_powerBudgetTick_reduces (h : e * 100 > 97 * capOf s) : exec (.powerBudgetTick e) s = .next (reduceStep s) :=
  congrArg Host.Outcome.next (if_pos h)

theorem exec_powerBudgetTick_restores (h : e * 100 < 95 * capOf s) (hbrake : s.brake = false)
    (hdue : s.fab ≥ s.restoredAt + usCycles 1000) :
    exec (.powerBudgetTick e) s = .next (restoreStep { s with restoredAt := s.fab }) := by
  refine congrArg Host.Outcome.next ?_
  rw [if_neg (by omega), if_pos ⟨h, hbrake, hdue⟩]

/-- At or below 97 % of the cap nothing changes while the estimate, the brake or the millisecond holds up the restoration. -/
theorem exec_powerBudgetTick_keeps (h : e * 100 ≤ 97 * capOf s)
    (hheld : ¬ (e * 100 < 95 * capOf s ∧ s.brake = false ∧ s.fab ≥ s.restoredAt + usCycles 1000)) :
    exec (.powerBudgetTick e) s = .next s := by
  refine congrArg Host.Outcome.next ?_
  rw [if_neg (by omega), if_neg hheld]

end Cap

/-! ### Clusters (R470, R472, R478, R479) -/

section Cluster

variable {s : State} {c : Nat}

/-- What a lending cluster runs at: the slowest that its floor and its fastest neighbour allow (R478, R479). -/
def lentTarget (s : State) (c : Nat) : Nat :=
  min (getPow s c).target (max (floorOf s c) (halfGrant ((awakeBeside s c).foldl (fun m n => max m (getPow s n).target) 0)))

theorem exec_lendFlagSet_lends {q : Nat} {pt : Part} (hclu : cluOk s c = true) (hpart : partOfCluster s c = some q)
    (hget : getPart s q = some pt) (hrun : pt.running = true) (hmode : (getPow s c).mode ≤ 1) (hnew : (getPow s c).lend = false)
    (hall : ((partCores s pt).filter (fun p => cluOfPhys p == c)).all (coreLends s) = true) :
    exec (.lendFlagSet c) s =
      .next (shareLent (setPow s c { getPow s c with lend := true, own := (getPow s c).target, target := lentTarget s c })) := by
  refine exec_of_onUnit hclu rfl ?_
  simp only [hpart, Option.bind_some, hget]
  exact if_pos ⟨hrun, hmode, hnew, hall⟩

theorem exec_clusterIdleEntry_idles (hclu : cluOk s c = true) (hactive : isActive s c = true) (hfree : scheduled s c = false)
    (hidle : (clusterPhys c).all (fun p => !coreBusy s p) = true) :
    exec (.clusterIdleEntry c) s = .next (setPow s c { getPow s c with mode := 1 }) :=
  exec_of_onUnit hclu rfl (if_pos (by simp only [hactive, hfree, hidle, Bool.not_false, Bool.and_self]))

theorem exec_clusterWake_sleeping (hclu : cluOk s c = true) (hwaking : (getPow s c).waking = true)
    (hmode : (getPow s c).mode = 1 ∨ (getPow s c).mode = 2) : exec (.clusterWake c) s = .next (awaken s c) := by
  refine exec_of_onUnit hclu rfl ?_
  dsimp only
  obtain hmode | hmode := hmode <;> simp [hmode, hwaking]

theorem exec_clusterWake_off (hclu : cluOk s c = true) (hwaking : (getPow s c).waking = true) (hmode : (getPow s c).mode = 3) :
    exec (.clusterWake c) s = .next (awaken (wipeCluster s c) c) := by
  refine exec_of_onUnit hclu rfl ?_
  simp [hmode, hwaking]

theorem exec_voltageClamp_clamps {a b va vb : Nat} (ha : cluOk s a = true) (hb : cluOk s b = true)
    (hbeside : (neighbours a).contains b = true) (hma : (getPow s a).mode ≤ 1) (hmb : (getPow s b).mode ≤ 1) (hv : va ≥ vb + 121) :
    exec (.voltageClamp a b va vb) s = .next (modPow (clampStep s a 1) a (fun w => { w with vclamp := true })) := by
  have hge : va ≥ vb := by omega
  have hfar : va - vb > 120 := by omega
  have hawake : ¬ ((getPow s a).mode > 1 ∨ (getPow s b).mode > 1) := by omega
  refine exec_of_onUnit (by simp [ha, hb]) rfl ?_
  simp only [if_pos hge, hbeside, hawake, decide_false, Bool.not_true, Bool.or_self, Bool.false_eq_true, if_false, hfar, true_or, if_true]

theorem exec_thermalSensorRead_reads {sensor t : Nat} (hon : s.boot ≠ .unpowered) (htrip : (readSensor s sensor t).trip = false)
    (hcool : t < 112) : exec (.thermalSensorRead sensor t) s = .next (readSensor s sensor t) := by
  refine congrArg Host.Outcome.next ?_
  dsimp only
  rw [if_neg hon, if_neg (by simp [htrip]), if_neg (by omega)]

end Cluster

/-- Settles O44, command by command. One estimate stands for the averages of R474, and a die at 105 °C or above keeps its pacing 4 under the
brake (log 33); that a cluster wakes at its floor while the brake is set is log 82. -/
theorem powerCommands : Obligations.PowerCommands := by
  refine ⟨?_, ?_, ?_, ?_, ?_⟩
  · exact fun s v => ⟨fun hv => congrArg Host.Outcome.next (if_pos hv), exec_pwrLimitWrite_taken, exec_pwrLimitWrite_refused, rfl, rfl, rfl⟩
  · exact fun s c hclu => ⟨exec_of_onUnit hclu rfl rfl, fun q pt hpart hget hrun hmode hnew hall =>
        ⟨lentTarget s c, Nat.min_le_left .., exec_lendFlagSet_lends hclu hpart hget hrun hmode hnew hall⟩,
      exec_clusterIdleEntry_idles hclu,
      fun hwaking => ⟨exec_clusterWake_sleeping hclu hwaking, exec_clusterWake_off hclu hwaking⟩, _, rfl, rfl, rfl, rfl, rfl, rfl, rfl⟩
  · refine fun s e => ⟨exec_powerBudgetTick_reduces, exec_powerBudgetTick_restores, fun hlow hheld => ?_, fun hlow hhigh => ?_⟩
    · refine exec_powerBudgetTick_keeps (by omega) fun hgo => ?_
      obtain ⟨-, hbrake, hdue⟩ := hgo
      obtain hheld | hheld := hheld
      · simp [hbrake] at hheld
      · omega
    · exact exec_powerBudgetTick_keeps hhigh fun hgo => by omega
  · exact fun s a b va vb => exec_voltageClamp_clamps
  · exact fun s sensor t => exec_thermalSensorRead_reads

end Sys2Proof.Machine
end

section
/-! SUPPORT. From power-on to service: the resets, the ten stages of the boot and their reports (R341 to R359, R481 to R495). -/

namespace Sys2Proof.Machine

/-! ### Folds -/

/-- What every step of a fold keeps, the fold keeps. -/
theorem foldl_keeps {σ α β : Type} {f : σ → α → σ} (g : σ → β) (h : ∀ s a, g (f s a) = g s) (l : List α) (s : σ) :
    g (l.foldl f s) = g s := by
  induction l generalizing s with
  | nil => rfl
  | cons a l ih => rw [List.foldl_cons, ih, h]

/-- A fold none of whose steps moves its start stays there. -/
theorem foldl_fixed_of_mem {σ α : Type} {f : σ → α → σ} {s : σ} {l : List α} (h : ∀ a ∈ l, f s a = s) : l.foldl f s = s := by
  induction l with
  | nil => rfl
  | cons a l ih => rw [List.foldl_cons, h a List.mem_cons_self, ih fun b hb => h b (List.mem_cons_of_mem a hb)]

/-! ### Resets (R341 to R359, R481, R482) -/

section Reset

variable {s : State}

theorem exec_powerOn_starts (h : s.boot = .unpowered) : exec .powerOn s =
    .next { s with refclk := true, bootFrom := s.fab, boot := if s.resetLow = true ∨ s.trip = true then .held else .stage 0 } := by
  refine congrArg Host.Outcome.next ?_
  rw [if_pos h, startBoot]
  simp

theorem exec_resetInputAssert_resets (hhigh : s.resetLow = false) (hon : s.boot ≠ .unpowered) :
    exec .resetInputAssert s = .next (resetByBoard { s with resetLow := true }) := by
  refine congrArg Host.Outcome.next ?_
  rw [if_neg (by simp [hhigh]), if_neg hon]

theorem exec_resetInputRelease_starts (hlow : s.resetLow = true) (hheld : s.boot = .held) :
    exec .resetInputRelease s = .next (startBoot { s with resetLow := false }) := by
  refine congrArg Host.Outcome.next ?_
  rw [if_neg (by simp [hlow])]
  exact if_pos hheld

theorem exec_managementWatchdogExpiry_service {u : State} {b : Bool} (hboot : s.boot = .service) (hup : s.ouvosUp = true)
    (hcharge : chargeReset { s with ouvosUp := false } mgmtKey = (u, b)) :
    exec .managementWatchdogExpiry s = .next (if b = true then resetWithDump u 0xF1 else u) := by
  refine congrArg Host.Outcome.next ?_
  simp only [hboot] at hcharge
  simp only [hboot, hup, Bool.not_true, Bool.false_eq_true, if_false, hcharge]

theorem exec_managementWatchdogExpiry_boot {n : Nat} (hboot : s.boot = .stage n) :
    exec .managementWatchdogExpiry s = .next (resetWithDump s 0xF2) := by
  refine congrArg Host.Outcome.next ?_
  simp only [hboot]

theorem exec_ouvosRestartEnd_answers (hboot : s.boot = .service) (hdown : s.ouvosUp = false) {u : State}
    (hu : u = s.cmds.foldl (fun s c => finish (abandon s c) c stReset []) (emptyBuffers { s with ouvosUp := true }))
    (hparts : ∀ p, p < 64 → getPart u p = none) : exec .ouvosRestartEnd s = .next (startWaiting u) := by
  refine congrArg Host.Outcome.next ?_
  rw [if_neg (by simp [hboot, hdown]), ← hu]
  dsimp only
  rw [foldl_fixed_of_mem fun p hp => by simp only [hparts p (List.mem_range.mp hp)]]

theorem exec_deviceResetBegin_resets {o : Nat} (hpend : s.resetPend = some o) :
    exec .deviceResetBegin s = .next (resetWithDump (if o = 1 then { s with service := 0 } else s) 0xF0) := by
  refine congrArg Host.Outcome.next ?_
  simp only [hpend]

end Reset

/-- Settles O45, command by command. That the reset after a command begins on its own command, whatever of the 1 ms is over, is log 57; the
stop of REFCLK counts as loss of power by R469. -/
theorem powerAndResets : Obligations.PowerAndResets := by
  refine fun s => ⟨exec_powerOn_starts, rfl, rfl, rfl, rfl, rfl, rfl, rfl, rfl, fun hclk => congrArg Host.Outcome.next (if_pos hclk),
    exec_resetInputAssert_resets, exec_resetInputRelease_starts, fun hboot hup u b => exec_managementWatchdogExpiry_service hboot hup,
    fun n => exec_managementWatchdogExpiry_boot, fun hboot hdown u => exec_ouvosRestartEnd_answers hboot hdown,
    fun o => exec_deviceResetBegin_resets, fun die hdie hreset => ⟨_, rfl, ?_⟩⟩
  exact exec_of_onUnit hdie rfl (if_neg (by simp [hreset]))

end Sys2Proof.Machine
end

section
/-! SUPPORT. The ten stages of the boot and their reports (R483 to R495). -/

namespace Sys2Proof.Machine

/-! ### Reports (R484, R485) -/

/-- The report that a stage writes. -/
def reportOf (s : State) (stage status failed count detail : Nat) : Report :=
  { stage := stage, status := status, boot := s.flash.boots % 65536, duration := if status = 3 then 0 else (s.fab - s.bootFrom) * 5 / 9000,
    failed := failed, count := count, detail := detail, time := devNs s / 1000000 }

theorem stageReport_eq (s : State) (stage status failed count detail : Nat) : stageReport s stage status failed count detail =
    { s with report := some (reportOf s stage status failed count detail), ibis := s.ibis ++ [0x80 + stage],
             bootLog := (s.bootLog ++ [reportOf s stage status failed count detail]).drop (s.bootLog.length + 1 - 64) } := by
  rw [stageReport, List.length_append, List.length_singleton, reportOf]

theorem endStage_eq (s : State) (stage status failed count detail : Nat) (next : BootPhase) :
    endStage s stage status failed count detail next =
      { s with boot := next, bootFrom := s.fab, report := some (reportOf s stage status failed count detail), ibis := s.ibis ++ [0x80 + stage],
               bootLog := (s.bootLog ++ [reportOf s stage status failed count detail]).drop (s.bootLog.length + 1 - 64) } := by
  rw [endStage, stageReport_eq]

theorem inStage_of {n : Nat} {s : State} (f : State → State) (h : s.boot = .stage n) : inStage n s f = .next (f s) :=
  congrArg Host.Outcome.next (if_pos h)

/-! ### Overruns (R483) -/

theorem exec_stageWaitingReport_of {s : State} {n : Nat} (h : s.boot = .stage n) :
    exec .stageWaitingReport s = .next (stageReport s n 3 0 0 0) := by
  refine congrArg Host.Outcome.next ?_
  rw [h]

/-- Settles O47: what a report writes, and the outcome of an overrun stage by stage. -/
theorem stageReports : Obligations.StageReports := by
  refine ⟨fun s stage status failed count detail next =>
      ⟨reportOf s stage status failed count detail, rfl, rfl, rfl, rfl, rfl, rfl, rfl, endStage_eq ..⟩, fun s => ⟨?_, ?_, ?_, ?_, ?_⟩⟩
  · rintro u h rfl
    refine congrArg Host.Outcome.next ?_
    simp only [h]
    rfl
  · intro h
    refine congrArg Host.Outcome.next ?_
    simp only [h]
  · intro h
    refine congrArg Host.Outcome.next ?_
    simp only [h]
  · intro h
    refine congrArg Host.Outcome.next ?_
    simp only [h]
    rfl
  · exact fun n h => ⟨reportOf s n 3 0 0 0, rfl, rfl, by rw [exec_stageWaitingReport_of h, stageReport_eq]⟩

/-! ### Stages 0 to 3 (R425, R427, R467, R486) -/

section Stages

variable {s : State}

theorem exec_bootStage1_applies {u0 u : State} (h : s.boot = .stage 1) (hfin : finishTransition s = (u0, none))
    (hlc : lifeCycle u0.flash.lc ≠ 4)
    (hu : u = { u0 with idKey := classSeed u0 (identityClass u0), storageKey := Config.storageKey u0.flash.idSeed }) :
    exec (.bootStage1 false) s =
      .next (endStage (applyMap u) 1 0 0 (applyMap u).fused.length ((applyMap u).soft.length % 65536) (.stage 2)) := by
  rw [hu]
  refine (inStage_of (stage1 false) h).trans (congrArg Host.Outcome.next ?_)
  simp [stage1, hfin, hlc, orBit]

/-- What stage 2 does with the slot that the ROM chooses: boot it, the other one, or none. -/
theorem exec_bootStage2_of {f : Flash} {n : Nat} {u : State} (h : s.boot = .stage 2) (hslot : chooseSlot s.flash = (f, n)) (hn : n < 2)
    (hu : u = { s with flash := f }) : exec .bootStage2 s = .next (
      if imageOk u (fwSlot u n) = true then
        endStage { u with fw := { slot := n, image := (fwSlot u n).take (fwLength (fwSlot u n)) } } 2 0 0 0 n (.stage 3)
      else if imageOk u (fwSlot u (1 - n)) = true then
        endStage { u with fw := { slot := 1 - n, image := (fwSlot u (1 - n)).take (fwLength (fwSlot u (1 - n))) } } 2 4 (n + 1) 0 (1 - n) (.stage 3)
      else endStage u 2 2 3 0 n (.stopped 2)) := by
  have hbit : slotBit n = n + 1 := by
    interval_cases n <;> rfl
  rw [hu]
  refine (inStage_of stage2 h).trans (congrArg Host.Outcome.next ?_)
  simp only [stage2, hslot, Nat.mod_eq_of_lt hn, hbit]

/-- Failures that stage 3 reports of a meter that answers. -/
def meterFailures (s : State) : Nat :=
  (mtrStatus s).toNat / 256 % 256 + orBit (!s.meter.selfOk) 8 + orBit (sealState s == 2) 9 + orBit s.meter.clkFault 10

theorem exec_bootStage3_answered (h : s.boot = .stage 3) (hmeter : s.meter.powered = true) : exec (.bootStage3 true) s =
    .next (endStage s 3 (if meterFailures s = 0 then 0 else 1) (meterFailures s) 0 ((mtrStatus s).toNat % 65536) (.stage 4)) := by
  refine (inStage_of (stage3 true false) h).trans (congrArg Host.Outcome.next ?_)
  simp only [stage3, hmeter, Bool.and_self, if_true, Bool.false_or, okOr, ← meterFailures.eq_1]
  congr 1
  simp

theorem exec_bootStage3_silent (h : s.boot = .stage 3) : exec (.bootStage3 false) s =
    .next (endStage { s with meterUnread := true } 3 1 (2 ^ 11) 0 0 (.stage 4)) :=
  inStage_of (stage3 false false) h

/-! ### Stages 4 to 6 (R242, R331, R487, R488) -/

theorem okOr_zero_iff (f : Nat) : okOr (false || f != 0) = 0 ↔ f = 0 := by
  simp [okOr]

/-- The links once the lanes that fail training have failed (R331). -/
def lanesFailed (s : State) (bad : List (Nat × Nat)) : State :=
  bad.foldl (fun s e =>
    if (linksOf s).contains e.1 && decide (e.2 < linkLanes e.1 + spareLanes e.1) then failLane s (e.1 + 8 * e.2) 0x10 else s) s

/-- The links as stage 4 leaves them. -/
def linksTrained (s : State) (bad : List (Nat × Nat)) : State := (linksOf (lanesFailed s bad)).foldl linkCheck (lanesFailed s bad)

/-- Links that stage 4 reports: out of lanes, or at half width. -/
def linkFailures (s : State) : Nat :=
  ((linksOf s).map (fun l =>
    orBit (decide (tget 0 s.links l > spareLanes l + linkLanes l / 2)) l + orBit (s.halfLinks.contains l) (8 + l))).sum

theorem exec_bootStage4_of (bad : List (Nat × Nat)) (h : s.boot = .stage 4) : exec (.bootStage4 bad) s =
    .next (endStage (linksTrained s bad) 4 (okOr (false || linkFailures (linksTrained s bad) != 0)) (linkFailures (linksTrained s bad))
      ((linksOf (linksTrained s bad)).map (fun l => min (tget 0 (linksTrained s bad).links l) (spareLanes l))).sum 0 (.stage 5)) :=
  inStage_of (stage4 bad false) h

theorem badChannels_allFailed : badChannels [] 0xFFF = 0xFFF := by decide

/-- The state in which stage 5 leaves a device with every DDR5 channel failed and no stack. -/
def noDdr (s : State) : State :=
  { s with hbm := tierFromMap s 0 { present := true }, ddr := tierFromMap s 1 { present := false }, ddrSpeed := 0, ddrDimms := 0, ddrGib := 0 }

theorem exec_bootStage5_noDdr (h : s.boot = .stage 5) : exec (.bootStage5 0 0xFFF []) s =
    .next (endStage (noDdr s) 5 1 (256 * 0xFFF) ((noDdr s).hbm.retired.length + (noDdr s).ddr.retired.length) 0 (.stage 6)) := by
  refine (inStage_of (stage5 0 0xFFF [] false) h).trans (congrArg Host.Outcome.next ?_)
  simp [stage5, badChannels_allFailed, okOr, noDdr]

/-- The device after the quick check of stage 6: every cluster wiped and at the nominal grant. -/
def quickChecked (s : State) (failed : List (Nat × Nat × Nat × Nat)) : State :=
  powerAll ((allClusters (quickCheck s failed)).foldl wipeCluster (quickCheck s failed)) 0

theorem exec_bootStage6_quick (failed : List (Nat × Nat × Nat × Nat)) (h : s.boot = .stage 6) (hfull : s.bootFull = false)
    (hplan : s.flash.plan = []) (hstands : planStands s.flash = true) : ∃ st a n : Nat, exec (.bootStage6 failed) s = .next
      { broadcast (endStage (quickChecked s failed) 6 st a n 0 (.stage 7)) 0 (List.range (dieCount s.product))
          (microPieces (endStage (quickChecked s failed) 6 st a n 0 (.stage 7))) with loadMode := true } := by
  refine ⟨okOr (false || clustersFailed (quickChecked s failed) != 0 || coresFenced (quickChecked s failed) - coresFenced s != 0),
    clustersFailed (quickChecked s failed), coresFenced (quickChecked s failed) - coresFenced s,
    (inStage_of (stage6 failed false) h).trans (congrArg Host.Outcome.next ?_)⟩
  simp only [stage6, hfull, hplan, hstands, bne_self_eq_false, Bool.false_and, Bool.false_or, Bool.not_true, Bool.false_eq_true, if_false,
      quickChecked]

/-! ### Stages 7 to 9 (R428, R491 to R495) -/

/-- The device once every core has taken the microcode. -/
def microLoaded (s : State) (code : List Byte) : State :=
  powerAll ((allCores s).foldl (fun s p => modCore s p (fun c =>
    { c with micro := writeBytes [] 0 code, microcode := true, chunk := none, chunksHeld := [] })) s) 3

theorem exec_bootStage7_complete (h : s.boot = .stage 7) : ∃ st a n : Nat, n < 4 ∧ exec (.bootStage7 []) s =
    .next (endStage { useFree (microLoaded s (fwUcode s.fw.image)) with switches := [], routers := [], ends := [], loadMode := false }
      7 st a 0 n (.stage 8)) := by
  refine ⟨okOr false, clustersFailed (microLoaded s (fwUcode s.fw.image)), Config.freeValue (microLoaded s (fwUcode s.fw.image)).freeSeq 0 % 4,
    Nat.mod_lt _ (by decide), (inStage_of (stage7 [] false) h).trans (congrArg Host.Outcome.next ?_)⟩
  have hall : (allCores s).filter (fun p => !(([] : List (Nat × Nat)).map (·.1)).contains p) = allCores s :=
    List.filter_eq_self.mpr fun p _ => rfl
  simp only [stage7, hall, List.filter_nil, List.foldl_nil, Nat.sub_self, bne_self_eq_false, Bool.or_self, if_true, microLoaded]

/-- A logical port takes its own entry and its link in stage 8. -/
def portUp (up : Nat) (s : State) (l : Nat) : State :=
  modLport s l (fun p => { p with up := up.testBit l, entries := tset none p.entries 0 (some ((tget none s.flash.devEntries l).getD (defaultEntry s l))) })

/-- The logical ports after stage 8. -/
def portsUp (s : State) (up : Nat) : State :=
  let s0 : State := { s with portMode := s.flash.portModes, ptpPort := s.flash.ptp, ptpHeard := s.fab }
  ((List.range 8).filter (lportExists s0)).foldl (portUp up) s0

/-- What no port touches stands after stage 8 as before it. -/
theorem portsUp_keeps {β : Type} (g : State → β) (h : ∀ up s l, g (portUp up s l) = g s) (s : State) (up : Nat) :
    g (portsUp s up) = g { s with portMode := s.flash.portModes, ptpPort := s.flash.ptp, ptpHeard := s.fab } :=
  foldl_keeps g (fun _ _ => h ..) _ _

theorem exec_bootStage8_of (up : Nat) (h : s.boot = .stage 8) : ∃ st f : Nat,
    exec (.bootStage8 up) s = .next (endStage (useFree (portsUp s up)) 8 st f 0 0 (.stage 9)) :=
  ⟨okOr (false || bitsOf 8 (fun l => lportExists (portsUp s up) l && !up.testBit l) != 0),
    bitsOf 8 (fun l => lportExists (portsUp s up) l && !up.testBit l), inStage_of (stage8 up false) h⟩

end Stages

/-- Settles O46, stage by stage. It rests on log 57 (the microcode reaches every core that lacks no chunk), log 66 (the nominal grant at
stage 6) and log 90 (the free number of repair rounds in the report of stage 7). -/
theorem bootStages : Obligations.BootStages := by
  intro s
  refine ⟨?_, fun u0 u => exec_bootStage1_applies, fun f n u => exec_bootStage2_of,
    fun h => ⟨fun hmeter => ⟨meterFailures s, exec_bootStage3_answered h hmeter⟩, exec_bootStage3_silent h⟩, ?_, ?_, ?_, ?_, ?_, ?_⟩
  · intro straps u h hu
    rw [hu]
    exact inStage_of (stage0 straps false) h
  · exact fun bad h => ⟨_, _, _, _, rfl, exec_bootStage4_of bad h, okOr_zero_iff _⟩
  · exact fun h => ⟨noDdr s, _, _, exec_bootStage5_noDdr h, rfl, rfl, rfl, rfl⟩
  · intro failed h hfull hplan hstands
    obtain ⟨st, a, n, hexec⟩ := exec_bootStage6_quick failed h hfull hplan hstands
    exact ⟨st, a, n, _, rfl, hexec⟩
  · intro code h hcode
    rw [hcode]
    obtain ⟨st, a, n, hn, hexec⟩ := exec_bootStage7_complete h
    exact ⟨st, a, n, _, rfl, hn, hexec⟩
  · intro up h
    obtain ⟨st, f, hexec⟩ := exec_bootStage8_of up h
    exact ⟨st, f, _, hexec, portsUp_keeps State.portMode (fun _ _ _ => rfl) s up, portsUp_keeps State.ptpPort (fun _ _ _ => rfl) s up,
      portsUp_keeps State.ptpHeard (fun _ _ _ => rfl) s up⟩
  · exact fun h => ⟨_, _, inStage_of (stage9 false) h, rfl, rfl, rfl, rfl, rfl, rfl, rfl⟩

end Sys2Proof.Machine
end

section
/-! SUPPORT. Requests on the mailbox pairs: what a row of the catalogue is, and the checks of admission (R380 to R402). -/

namespace Sys2Proof.Machine

/-! ### Requests -/

/-- Every row of the catalogue is the arrival of a request of its opcode. -/
theorem exec_mailRow (s : State) (m : Mbx) : ∀ e ∈ mailRows m, exec e.1 s = .next (request e.2 m s) := by
  simp only [mailRows, List.forall_mem_append, List.forall_mem_cons]
  and_intros
  any_goals rfl
  all_goals exact fun _ h => absurd h List.not_mem_nil

section Arrival

variable {s : State} {m : Mbx} {op : Nat} {v : Qp}

/-- A mailbox pair in service: what arrives on it is received. -/
structure Receives (s : State) (m : Mbx) (v : Qp) : Prop where
  pair : getQp s m.qpn = some v
  mbx : v.mbx = true
  good : v.error = false
  service : s.boot = .service

theorem Receives.listens (h : Receives s m v) : ¬ (!v.mbx || v.error || s.boot != .service) = true := by
  simp [h.mbx, h.good, h.service]

/-- With all buffers of its pair full a request gets RNR NAK (R380). -/
theorem request_full (h : Receives s m v) (hfull : 64 ≤ v.filled) : request op m s = transmitOn s m.qpn (.answer v.ePsn 1) := by
  rw [request, h.pair]
  dsimp only
  rw [if_neg h.listens, if_pos hfull]

/-- A request that fails a check is answered. -/
theorem request_refused {st sq ms : Nat} (h : Receives s m v) (hroom : v.filled < 64) (href : refusal s v m op = some (st, sq, ms)) :
    request op m s = respond (if st = stBusy then
        setQp (useFree s) m.qpn (some { v with busyTill := max v.busyTill (s.fab + ms * usCycles 1000) })
      else s) m.qpn op m.tag st m.scope sq ms false [] := by
  rw [request, h.pair]
  dsimp only
  rw [if_neg h.listens, if_neg (by omega), href]

/-- A request that passes every check is outstanding, and what nothing holds up starts. -/
theorem request_admitted (h : Receives s m v) (hroom : v.filled < 64) (href : refusal s v m op = none) :
    request op m s = startWaiting { recordSeq (useFree s) m op with
      cmds := (recordSeq (useFree s) m op).cmds ++ [{ op := op, m := m, since := s.fab, started := false }] } := by
  rw [request, h.pair]
  dsimp only
  rw [if_neg h.listens, if_neg (by omega), href]

end Arrival

/-! ### The order of the checks (R385 to R387, R395, R402) -/

section Checks

variable {s : State} {m : Mbx} {op : Nat} {v : Qp}

/-- No check answers OK. -/
theorem refusal_status_ne_ok {st sq ms : Nat} (h : refusal s v m op = some (st, sq, ms)) : st ≠ 0 := by
  rintro rfl
  rw [refusal] at h
  split_ifs at h <;> simp [stBusy, stInvalid, stAuth, stReplayed, stUnsupported, stOut] at h

theorem refusal_down (h : s.ouvosUp = false) : refusal s v m op = some (stBusy, 0, 2000) := if_pos (by simp [h])

theorem refusal_malformed (hup : s.ouvosUp = true) (hbad : msgBad m = true) : refusal s v m op = some (stInvalid, 0, 0) := by
  rw [refusal, if_neg (by simp [hup]), if_pos hbad]

theorem refusal_denied (hup : s.ouvosUp = true) (hwell : msgBad m = false) (hdenied : scopeDenied v m op = true) :
    refusal s v m op = some (stAuth, 0, 0) := by
  rw [refusal, if_neg (by simp [hup]), if_neg (by simp [hwell]), if_pos hdenied]

theorem refusal_unsigned (hup : s.ouvosUp = true) (hwell : msgBad m = false) (hallowed : scopeDenied v m op = false)
    (howner : v.owner = 64) (hsig : signatureOk s m op = false) : refusal s v m op = some (stAuth, 0, 0) := by
  rw [refusal, if_neg (by simp [hup]), if_neg (by simp [hwell]), if_neg (by simp [hallowed]), if_pos ⟨howner, hsig⟩]

theorem refusal_replayed (hup : s.ouvosUp = true) (hwell : msgBad m = false) (hallowed : scopeDenied v m op = false)
    (howner : v.owner = 64) (hsig : signatureOk s m op = true) (hseq : seqOk s m op = false) :
    refusal s v m op = some (stReplayed, s.seqHigh + 1, 0) := by
  rw [refusal, if_neg (by simp [hup]), if_neg (by simp [hwell]), if_neg (by simp [hallowed]), if_neg (by simp [hsig]),
    if_pos ⟨howner, hseq⟩]

theorem refusal_unsupported (hup : s.ouvosUp = true) (hwell : msgBad m = false) (hallowed : scopeDenied v m op = false)
    (howner : v.owner ≠ 64) (hop : opInfo op = none) : refusal s v m op = some (stUnsupported, 0, 0) := by
  rw [refusal, if_neg (by simp [hup]), if_neg (by simp [hwell]), if_neg (by simp [hallowed]), if_neg (by simp [howner]),
    if_neg (by simp [howner]), if_pos (by simp [hop])]

end Checks

theorem exec_commandTimeout_abandons {s : State} {q tag : Nat} {c : Cmd} {i : OpInfo} (hup : s.ouvosUp = true)
    (hfind : s.cmds.find? (fun c => c.m.qpn == q && c.m.tag == tag) = some c) (hinfo : opInfo c.op = some i) (hop : c.op ≠ 0x0106)
    (hunder : ¬(c.started = true ∧ (c.op = 0x0007 ∨ c.op = 0x0009))) (hlate : s.fab ≥ c.since + i.limit * 1800000) :
    exec (.commandTimeout q tag) s = .next (startWaiting (finish (abandon s c) c stTimeout [])) := by
  refine congrArg Host.Outcome.next ?_
  simp only [hfind, hup, hinfo]
  exact if_pos ⟨hop, hunder, hlate⟩

/-- Settles O54: the checks in their order, then the two rows. That a reset or a shutdown under way is never abandoned is log 86. -/
theorem requestsAreChecked : Obligations.RequestsAreChecked := by
  refine ⟨?_, ?_, fun s v m op => refusal_down, ?_, ?_, fun s q tag c i => exec_commandTimeout_abandons⟩
  · intro s m e v st sq ms hrow hpair hmbx hgood hroom hservice href
    have hrequest := (exec_mailRow s m e hrow).trans (congrArg Host.Outcome.next (request_refused ⟨hpair, hmbx, hgood, hservice⟩ hroom href))
    refine ⟨refusal_status_ne_ok href, fun hbusy => ?_, fun hbusy => ?_⟩
    · rw [hrequest, if_neg hbusy]
    · rw [if_pos hbusy] at hrequest
      exact ⟨{ v with busyTill := max v.busyTill (s.fab + ms * usCycles 1000) }, Nat.le_max_left .., rfl, hrequest⟩
  · exact fun s m e v hrow hpair hmbx hgood hfull hservice =>
      (exec_mailRow s m e hrow).trans (congrArg Host.Outcome.next (request_full ⟨hpair, hmbx, hgood, hservice⟩ hfull))
  · refine fun s v m op hup => ⟨refusal_malformed hup, refusal_denied hup, refusal_unsigned hup, fun hwell hallowed howner hseq => ?_⟩
    cases hsig : signatureOk s m op with
    | true => exact refusal_replayed hup hwell hallowed howner hsig hseq
    | false => exact refusal_unsigned hup hwell hallowed howner hsig
  · intro s m op v hop hpair hmbx hgood hroom hservice hup hwell hallowed howner
    refine congrArg Host.Outcome.next ?_
    rw [if_neg (by simp [hop]), request_refused ⟨hpair, hmbx, hgood, hservice⟩ hroom
      (refusal_unsupported hup hwell hallowed (Nat.ne_of_lt howner) hop), if_neg (by decide)]

end Sys2Proof.Machine
end

section
/-! SUPPORT. The one command of a quiet device: it is admitted, starts at once, and is carried out (R384 to R399). -/

namespace Sys2Proof.Machine

/-! ### Sending leaves what is outstanding -/

@[simp] theorem noteEvent_cmds (s : State) (body : List Byte) : (noteEvent s body).cmds = s.cmds := rfl

@[simp] theorem setEntry_cmds (s : State) (l k : Nat) (e : Option AddrEntry) : (setEntry s l k e).cmds = s.cmds := rfl

@[simp] theorem burnPn_cmds (s : State) (l k n : Nat) : (burnPn s l k n).cmds = s.cmds := by
  unfold burnPn
  split
  · rfl
  · split
    · rfl
    · dsimp only
      split_ifs <;> rfl

@[simp] theorem putOut_cmds (s : State) (q : Nat) (v : Qp) (n : Nat) : (putOut s q v n).cmds = s.cmds := by simp [putOut]

@[simp] theorem emit_cmds (s : State) (q : Nat) (t : Tx) : (emit s q t).cmds = s.cmds := by
  unfold emit
  split
  · rfl
  · cases t <;> simp

@[simp] theorem transmitOn_cmds (s : State) (q : Nat) (t : Tx) : (transmitOn s q t).cmds = s.cmds := by
  unfold transmitOn
  split
  · rfl
  · split_ifs <;> simp

@[simp] theorem post_cmds (s : State) (q : Nat) (v : Qp) (m : OutMsg) (mail : Option Sent) : (post s q v m mail).cmds = s.cmds := by
  simp [post]

@[simp] theorem sendOn_cmds (s : State) (q : Nat) (m : OutMsg) (mail : Option Sent) : (sendOn s q m mail).cmds = s.cmds := by
  unfold sendOn
  split
  · rfl
  · split_ifs <;> simp

@[simp] theorem sendMail_cmds (s : State) (m : Sent) : (sendMail s m).cmds = s.cmds := by
  unfold sendMail
  split
  · rfl
  · split_ifs <;> simp

@[simp] theorem respond_cmds (s : State) (q op tag status scope seq retry : Nat) (admitted : Bool) (body : List Byte) :
    (respond s q op tag status scope seq retry admitted body).cmds = s.cmds := by simp [respond]

@[simp] theorem finish_cmds (s : State) (c : Cmd) (status : Nat) (body : List Byte) :
    (finish s c status body).cmds = s.cmds.filter (fun x => !sameCmd x c.m) := by simp [finish]

theorem sameCmd_self (c : Cmd) : sameCmd c c.m = true := by simp [sameCmd]

/-! ### What waits in a quiet device -/

/-- No fence action or search holds a command back, and no policy waits. -/
def Idle (s : State) : Prop := ∀ p pt, getPart s p = some pt → actionPending s pt = false ∧ pt.isolate = none ∧ pt.due = []

/-- Nothing that is outstanding can start or go on. -/
def Settled (s : State) : Prop := ∀ c, c ∈ s.cmds → c.started = true ∧ c.stage ≠ 2

section Waiting

variable {s : State} {c : Cmd}

theorem overdueGeneration_fresh (h : devNs s < s.genAt + 3600000000000) : overdueGeneration s = s := if_neg (Nat.not_le.mpr h)

theorem duePolicies_idle (h : Idle s) : duePolicies s = s := by
  refine foldl_fixed_of_mem fun k _ => ?_
  cases hk : getPart s k with
  | none => rfl
  | some pt =>
    obtain ⟨-, -, hdue⟩ := h k pt hk
    simp only [hdue]

theorem actions_of_idle {pt : Part} (h : actionPending s pt = false) : pt.actions = [] := by
  simpa using (Bool.or_eq_false_iff.mp h).1

theorem kick_idle (h : Idle s) (k : Nat) : kick s k = s := by
  cases hk : getPart s k with
  | none => simp [kick, hk, runActions]
  | some pt =>
    obtain ⟨hpending, -, -⟩ := h k pt hk
    simp [kick, hk, runActions, actions_of_idle hpending]

theorem kickAll_idle (h : Idle s) : kickAll s = s := foldl_fixed_of_mem fun k _ => kick_idle h k

theorem failTransfers_unstarted (h : ∀ c ∈ s.cmds, c.started = false) : failTransfers s = s := by
  unfold failTransfers
  rw [List.filter_eq_nil_iff.mpr, List.foldl_nil]
  intro c hc
  simp [transferring, h c hc]

theorem heldBack_idle (h : Idle s) (c : Cmd) : heldBack s c = false := by
  have hany : (List.range 64).any (fun k => (getPart s k).any (actionPending s)) = false := by
    refine List.any_eq_false.mpr fun k _ => ?_
    cases hk : getPart s k with
    | none => simp
    | some pt => simp [(h k pt hk).1]
  rw [heldBack, hany]
  cases hpart : getPart s (scopePart c.m) with
  | none => simp
  | some pt =>
    obtain ⟨hpending, hsearch, -⟩ := h _ pt hpart
    simp [hpending, hsearch]

/-- A search that finds nothing but `c` finds `c`. -/
theorem findSome?_only {α β : Type} {f : α → Option β} {b : β} {l : List α} (honly : ∀ a ∈ l, f a = none ∨ f a = some b)
    (hsome : ∃ a ∈ l, f a = some b) : l.findSome? f = some b := by
  obtain ⟨a, ha, hb⟩ := hsome
  cases hfind : l.findSome? f with
  | none =>
    rw [List.findSome?_eq_none_iff.mp hfind a ha] at hb
    exact absurd hb (by simp)
  | some x =>
    obtain ⟨a', ha', hx⟩ := List.exists_of_findSome?_eq_some hfind
    obtain h | h := honly a' ha'
    · simp [h] at hx
    · exact hx.symm.trans h

/-- The only command of an idle device may start. -/
theorem mayStart_alone (h : Idle s) (hcmds : s.cmds = [c]) (hnew : c.started = false) : mayStart s c = true := by
  have hbefore : admittedBefore s c = [] := by simp [admittedBefore, hcmds, sameCmd_self]
  simp [mayStart, hnew, heldBack_idle h, hbefore]

/-- The only command of an idle device has its turn, whichever partition was served last. -/
theorem nextCmd_alone (h : Idle s) (hcmds : s.cmds = [c]) (hnew : c.started = false) (hscope : c.m.flags ≠ 1 → scopePart c.m < 64) :
    nextCmd s = some c := by
  have hready : readyCmd s c = true := by simp [readyCmd, mayStart_alone h hcmds hnew]
  by_cases hflags : c.m.flags = 1
  · simp [nextCmd, hcmds, hready, hflags]
  · have hturn : ∃ i < 64, scopePart c.m = (s.turn + 1 + i) % 64 := by
      refine ⟨(scopePart c.m + 63 * (s.turn + 1)) % 64, Nat.mod_lt _ (by decide), ?_⟩
      have := hscope hflags
      omega
    obtain ⟨i, hi, hserved⟩ := hturn
    have hfirst : (s.cmds.find? (fun c => c.m.flags == 1 && readyCmd s c)) = none := by simp [hcmds, hflags]
    rw [nextCmd, hfirst]
    refine findSome?_only (fun a _ => ?_) ⟨i, List.mem_range.mpr hi, ?_⟩
    · by_cases ha : scopePart c.m = (s.turn + 1 + a) % 64
      · exact .inr (by simp [hcmds, hflags, hready, ha])
      · exact .inl (by simp [hcmds, ha])
    · simp [hcmds, hflags, hready, ← hserved]

theorem not_readyCmd_of_settled (h : c.started = true ∧ c.stage ≠ 2) : readyCmd s c = false := by simp [readyCmd, mayStart, h.1, h.2]

theorem nextCmd_settled (h : Settled s) : nextCmd s = none := by
  have hsteward : s.cmds.find? (fun c => c.m.flags == 1 && readyCmd s c) = none :=
    List.find?_eq_none.mpr fun c hc => by simp [not_readyCmd_of_settled (h c hc)]
  rw [nextCmd, hsteward]
  refine List.findSome?_eq_none_iff.mpr fun i _ => List.find?_eq_none.mpr fun c hc => ?_
  simp [not_readyCmd_of_settled (h c hc)]

theorem advanceGo_settled (h : Settled s) (k : Nat) : advanceGo k s = s := by
  cases k with
  | zero => rfl
  | succ k => simp [advanceGo, advanceOne, nextCmd_settled h]

end Waiting

end Sys2Proof.Machine
end

section
/-! SUPPORT. An admitted command is carried out and answered (R384, R391, R396). -/

namespace Sys2Proof.Machine

/-! ### The command and its completion -/

/-- What completes of a command is its request and its opcode. -/
theorem finish_congr {c d : Cmd} (hm : c.m = d.m) (hop : c.op = d.op) (t : State) (status : Nat) (body : List Byte) :
    finish t c status body = finish t d status body := by rw [finish, finish, hm, hop]

/-- A command that is outstanding under its own number is itself. -/
theorem nowOf_outstanding {t : State} {c : Cmd} (h : t.cmds.any (fun x => sameCmd x c.m) = true) : nowOf t c = c := if_pos h

/-- One step of the search for the number under which a lost pair's command is outstanding. -/
def newerOf (c a x : Cmd) : Cmd := if x.m.qpn % 2 ^ 24 = c.m.qpn % 2 ^ 24 ∧ x.m.tag = c.m.tag ∧ a.m.qpn < x.m.qpn then x else a

theorem foldl_newerOf_congr {c a b : Cmd} (hm : a.m = b.m) (hop : a.op = b.op) (l : List Cmd) :
    (l.foldl (newerOf c) a).m = (l.foldl (newerOf c) b).m ∧ (l.foldl (newerOf c) a).op = (l.foldl (newerOf c) b).op := by
  induction l generalizing a b with
  | nil => exact ⟨hm, hop⟩
  | cons x l ih =>
    rw [List.foldl_cons, List.foldl_cons, newerOf, newerOf, hm]
    split_ifs
    · exact ih rfl rfl
    · exact ih hm hop

/-- The search does not look at whether the command has started. -/
theorem nowOf_congr {c d : Cmd} (hm : c.m = d.m) (hop : c.op = d.op) (t : State) :
    (nowOf t c).m = (nowOf t d).m ∧ (nowOf t c).op = (nowOf t d).op := by
  rw [nowOf, nowOf, ← hm]
  split_ifs
  · exact ⟨hm, hop⟩
  · exact foldl_newerOf_congr (c := c) hm hop t.cmds

theorem settleCmd_congr {c d : Cmd} (hm : c.m = d.m) (hop : c.op = d.op) (r : CmdRes) : settleCmd c r = settleCmd d r := by
  obtain ⟨t, _ | _⟩ := r
  · obtain ⟨hnm, hnop⟩ := nowOf_congr hm hop t
    exact finish_congr hnm hnop t _ _
  · rfl

/-! ### The state of admission -/

/-- Recording a sequence number writes the window and, now and then, its floor in flash. -/
theorem recordSeq_eq (s : State) (m : Mbx) (op : Nat) : ∃ (h : Nat) (seen : List Nat) (n : Nat) (f : Flash),
    recordSeq s m op = { s with seqHigh := h, seqSeen := seen, seqFlash := n, flash := f } := by
  unfold recordSeq
  split_ifs <;> exact ⟨_, _, _, _, rfl⟩

/-- The request is outstanding and has not started. -/
def waitingCmd (s : State) (m : Mbx) (op : Nat) : State :=
  { recordSeq (useFree s) m op with cmds := [{ op := op, m := m, since := s.fab, started := false }] }

section Admission

variable {s : State} {m : Mbx} {op : Nat}

theorem waitingCmd_idle (h : Quiet s) : Idle (waitingCmd s m op) := by
  obtain ⟨_, _, _, _, hrec⟩ := recordSeq_eq (useFree s) m op
  rw [waitingCmd, hrec]
  exact h.idle

theorem startWaiting_waitingCmd (h : Quiet s) : startWaiting (waitingCmd s m op) = advanceGo 4 (waitingCmd s m op) := by
  have hidle : Idle (waitingCmd s m op) := waitingCmd_idle h
  have hup : (waitingCmd s m op).ouvosUp = true := by
    obtain ⟨_, _, _, _, hrec⟩ := recordSeq_eq (useFree s) m op
    rw [waitingCmd, hrec]
    exact h.up
  have hfresh : devNs (waitingCmd s m op) < (waitingCmd s m op).genAt + 3600000000000 := by
    obtain ⟨_, _, _, _, hrec⟩ := recordSeq_eq (useFree s) m op
    rw [waitingCmd, hrec]
    exact h.fresh
  rw [startWaiting, if_pos hup, overdueGeneration_fresh hfresh, duePolicies_idle hidle, kickAll_idle hidle,
    failTransfers_unstarted (by simp [waitingCmd])]
  rfl

/-- The command starts in the state that `admitted` describes. -/
theorem modCmd_waitingCmd (s : State) (m : Mbx) (op : Nat) :
    modCmd (if m.flags = 1 then waitingCmd s m op else { waitingCmd s m op with turn := scopePart m }) m
      (fun x => { x with started := true }) = admitted s m op := by
  obtain ⟨_, _, _, _, hrec⟩ := recordSeq_eq (useFree s) m op
  rw [waitingCmd, admitted, hrec]
  split_ifs <;> simp [modCmd, sameCmd, cmdOf, useFree]

theorem beginOp_admitted {i : OpInfo} (h : Admits s m op) (hinfo : opInfo op = some i) (c : Cmd) (hm : c.m = m) (hop : c.op = op) :
    beginOp (admitted s m op) c = doOp (admitted s m op) m op := by
  obtain ⟨hdevice, hpart⟩ := h.scope i hinfo
  have hkind : ¬ ((i.scope = 0 ∧ scopePart m ≠ 64) ∨ (i.scope = 1 ∧ scopePart m = 64)) := by
    rintro (⟨h0, hne⟩ | ⟨h1, heq⟩)
    · exact hne (hdevice h0)
    · exact hpart h1 heq
  have hexists : ¬ (scopePart m ≠ 64 ∧ (getPart (admitted s m op) (scopePart m)).isNone = true) := by
    rintro ⟨hne, hnone⟩
    have hsome := h.exists_ hne
    obtain ⟨_, _, _, _, hrec⟩ := recordSeq_eq (useFree s) m op
    rw [admitted, hrec] at hnone
    have hget : (getPart s (scopePart m)).isNone = true := hnone
    simp [Option.isNone_iff_eq_none.mp hget] at hsome
  simp only [beginOp, hm, hop, hinfo, if_neg hkind, if_neg hexists]

/-- The scope of a tenant's request is its own partition. -/
theorem scopePart_lt_of_admits (h : Admits s m op) (hflags : m.flags ≠ 1) : scopePart m < 64 := by
  obtain ⟨v, -, -, -, -, hdenied, -⟩ := h.pair
  have hscope : m.scope ≤ 64 := by
    have hwell := h.well.1
    simp only [msgBad, decide_eq_false_iff_not] at hwell
    omega
  have howner : v.owner ≠ 64 := fun howner => by simp [scopeDenied, howner, hflags] at hdenied
  have hown : m.scope = v.owner := by
    simp only [scopeDenied, if_neg howner, Bool.or_eq_false_iff, decide_eq_false_iff_not] at hdenied
    omega
  rw [scopePart, Nat.testBit_lt_two_pow (by omega : m.scope < 2 ^ 6)]
  exact Nat.mod_lt _ (by decide)

/-- Of the checks only the signature's is left open by `Admits`. -/
theorem refusal_admits {v : Qp} {i : OpInfo} (h : Admits s m op) (hinfo : opInfo op = some i) (hpair : getQp s m.qpn = some v) :
    refusal s v m op = if signedOk s m op = true then none else some (stAuth, 0, 0) := by
  obtain ⟨w, hw, -, -, -, hdenied, hseq, hbusy⟩ := h.pair
  obtain rfl : w = v := Option.some.inj (hw.symm.trans hpair)
  obtain ⟨hwell, hserved⟩ := h.well
  simp only [refusal, h.quiet.up, hwell, hdenied, hinfo, h.quiet.none_, hserved, hbusy, signedOk, hpair, Bool.not_true, Bool.false_eq_true,
    if_false, Option.isNone_some, List.any_nil, Option.map_none]
  by_cases howner : w.owner = 64
  · cases hsig : signatureOk s m op <;> simp [howner, hseq]
  · simp [howner]

/-- The command's turn comes at once, and its outcome is in the next state. -/
theorem advanceOne_waitingCmd {i : OpInfo} (h : Admits s m op) (hinfo : opInfo op = some i) :
    advanceOne (waitingCmd s m op) = some (settleCmd (cmdOf s m op) (doOp (admitted s m op) m op)) := by
  have hidle : Idle (waitingCmd s m op) := waitingCmd_idle h.quiet
  have hnext := nextCmd_alone hidle rfl rfl (scopePart_lt_of_admits h)
  have hmay := mayStart_alone hidle rfl rfl
  simp only [advanceOne, hnext, Option.map_some, hmay, if_true, modCmd_waitingCmd, beginOp_admitted h hinfo]
  exact congrArg some (settleCmd_congr (c := { op := op, m := m, since := s.fab, started := false }) (d := cmdOf s m op) rfl rfl _)

/-- An admitted command is carried out: its outcome is in the next state, if nothing there can start or go on. -/
theorem request_admits {i : OpInfo} (h : Admits s m op) (hinfo : opInfo op = some i)
    (hset : Settled (settleCmd (cmdOf s m op) (doOp (admitted s m op) m op))) :
    request op m s = orDenied s m op (settleCmd (cmdOf s m op) (doOp (admitted s m op) m op)) := by
  obtain ⟨v, hpair, hmbx, hgood, hroom, -⟩ := h.pair
  have hreceives : Receives s m v := ⟨hpair, hmbx, hgood, h.quiet.service⟩
  have hrefusal := refusal_admits h hinfo hpair
  by_cases hsigned : signedOk s m op = true
  · rw [if_pos hsigned] at hrefusal
    have hwaiting : { recordSeq (useFree s) m op with
        cmds := (recordSeq (useFree s) m op).cmds ++ [{ op := op, m := m, since := s.fab, started := false }] } = waitingCmd s m op := by
      obtain ⟨_, _, _, _, hrec⟩ := recordSeq_eq (useFree s) m op
      rw [waitingCmd, hrec]
      simp [h.quiet.none_]
    rw [request_admitted hreceives hroom hrefusal, hwaiting, startWaiting_waitingCmd h.quiet, advanceGo, advanceOne_waitingCmd h hinfo,
      orDenied, if_pos hsigned]
    exact advanceGo_settled hset 3
  · rw [if_neg hsigned] at hrefusal
    rw [request_refused hreceives hroom hrefusal, if_neg (by decide), orDenied, if_neg hsigned]

end Admission

/-! ### The rows of the catalogue -/

/-- Every row is in the index (R397). -/
theorem opInfo_mailRow (m : Mbx) : ∀ e ∈ mailRows m, (opInfo e.2).isSome = true := by
  simp only [mailRows, List.forall_mem_append, List.forall_mem_cons]
  and_intros
  all_goals decide

/-- A row of the catalogue whose request is admitted is carried out. -/
theorem exec_mailRow_admits {s : State} {m : Mbx} {e : Instr × Nat} (hrow : e ∈ mailRows m) (h : Admits s m e.2)
    (hset : Settled (settleCmd (cmdOf s m e.2) (doOp (admitted s m e.2) m e.2))) :
    exec e.1 s = .next (orDenied s m e.2 (settleCmd (cmdOf s m e.2) (doOp (admitted s m e.2) m e.2))) := by
  obtain ⟨i, hinfo⟩ := Option.isSome_iff_exists.mp (opInfo_mailRow m e hrow)
  rw [exec_mailRow s m e hrow, request_admits h hinfo hset]

/-- A command that completes while it alone is outstanding leaves nothing outstanding. -/
theorem settleCmd_done {t : State} {c : Cmd} {st : Nat} {b : List Byte} (hcmds : t.cmds = [c]) :
    settleCmd c (t, .done st b) = finish t c st b ∧ (finish t c st b).cmds = [] := by
  refine ⟨congrArg (finish t · st b) (nowOf_outstanding ?_), ?_⟩
  · simp [hcmds, sameCmd_self]
  · simp [hcmds, sameCmd_self]

/-- Settles O48: the request is the only command, so its turn comes at once (`advanceOne_waitingCmd`), and nothing is left to start. -/
theorem mailboxCommandsRun : Obligations.MailboxCommandsRun := by
  intro s m e hrow h
  refine ⟨fun t st b hdo hcmds => ?_, fun t hdo hset => ?_⟩
  · obtain ⟨hfinish, hnone⟩ := settleCmd_done (st := st) (b := b) hcmds
    have hexec := exec_mailRow_admits hrow h (by
      intro c hc
      rw [hdo, hfinish, hnone] at hc
      exact absurd hc List.not_mem_nil)
    rwa [hdo, hfinish] at hexec
  · have hexec := exec_mailRow_admits hrow h (by rwa [hdo])
    rwa [hdo] at hexec

end Sys2Proof.Machine
end

section
/-! SUPPORT. Frames at the Ethernet ports: what accepting one leaves unchanged, and the rows that answer or count one (R361 to R367). -/

namespace Sys2Proof.Machine

/-! ### Logical ports -/

theorem getLport_setLport (s : State) (l j : Nat) (v : LPort) :
    getLport (setLport s l v) j = if j = l then v else getLport s j := tget_tset ..

theorem getLport_modLport (s : State) (l j : Nat) (g : LPort → LPort) :
    getLport (modLport s l g) j = if j = l then g (getLport s l) else getLport s j := getLport_setLport ..

@[simp] theorem getLport_modLport_same (s : State) (l : Nat) (g : LPort → LPort) : getLport (modLport s l g) l = g (getLport s l) :=
  getLport_setLport_same ..

/-- A change of ports keeps what each port keeps. -/
theorem getLport_modLport_keeps {β : Type} (h : LPort → β) (s : State) (l j : Nat) {g : LPort → LPort}
    (hg : h (g (getLport s l)) = h (getLport s l)) : h (getLport (modLport s l g) j) = h (getLport s j) := by
  rw [getLport_modLport]
  split_ifs with hj
  · rw [hg, hj]
  · rfl

/-! ### Acceptance (R361, R363, R366, R367) -/

section Acceptance

variable {s : State} {f : Frame} {pick : Nat → AddrEntry → Bool} {k : Nat} {e e1 : AddrEntry}

/-- An entry takes the frame. -/
def takesFrame (f : Frame) (pick : Nat → AddrEntry → Bool) (x : Nat × Option AddrEntry) : Bool :=
  match x.2 with
  | none => false
  | some a => vlanOk a f && (if multicast f.dmac then pick x.1 a else a.mac == f.dmac)

theorem takesFrame_some (j : Nat) (a : AddrEntry) : takesFrame f pick (j, some a) = true ↔
    vlanOk a f = true ∧ (multicast f.dmac = true → pick j a = true) ∧ (multicast f.dmac = false → a.mac = f.dmac) := by
  cases h : multicast f.dmac <;> simp [takesFrame, h]

/-- The entry that takes an accepted frame is the one that a search finds. -/
theorem find?_takesFrame (h : Accepted s f pick k e e1) :
    (getLport s f.lport).entries.find? (takesFrame f pick) = some (k, some e) := by
  cases hfind : (getLport s f.lport).entries.find? (takesFrame f pick) with
  | none => exact absurd ((takesFrame_some k e).mpr h.takes) (List.find?_eq_none.mp hfind _ h.entry)
  | some x =>
    have hmem := List.mem_of_find?_eq_some hfind
    have htakes := List.find?_some hfind
    obtain ⟨j, _ | a⟩ := x
    · exact absurd htakes (by simp [takesFrame])
    · obtain ⟨hvlan, hmulti, huni⟩ := (takesFrame_some j a).mp htakes
      obtain ⟨rfl, rfl⟩ := Prod.mk.inj (h.only j a hmem hvlan hmulti huni)
      rfl

/-- An accepted frame reaches its entry, the only one that takes it. -/
theorem acceptFrame_accepted (h : Accepted s f pick k e e1) : acceptFrame s f pick = (took s f k e e1, some (k, e1)) := by
  obtain ⟨-, hup⟩ := h.port
  obtain ⟨hsize, hfcs⟩ := h.size
  obtain ⟨hfragment, hext⟩ := h.whole
  have hwhole : ¬ (f.fragment || (f.v6 && f.extHdr && !f.mld)) = true := by
    simpa [hfragment] using hext
  rw [acceptFrame]
  dsimp only
  rw [if_neg (by simp [hup]), if_neg (by omega), if_neg (by simp [hfcs]), if_neg hwhole]
  split
  · rename_i j a hfound
    obtain ⟨rfl, ha⟩ := Prod.mk.inj (Option.some.inj (hfound.symm.trans (find?_takesFrame h)))
    obtain rfl := Option.some.inj ha
    simp only [h.sec, h.room, Bool.false_eq_true, if_false, took]
  · rename_i hnone
    exact absurd (find?_takesFrame h) (hnone k e)

/-- A frame in its buffer changes the ports, and a PFC frame may have left. -/
theorem rxTake_eq (s : State) (e : AddrEntry) (f : Frame) :
    rxTake s e f = { s with lports := (rxTake s e f).lports, netOut := (rxTake s e f).netOut } := by
  unfold rxTake
  extract_lets c n s1
  split_ifs <;> rfl

/-- What an accepted frame changes: the ports, and a PFC frame may have left. -/
theorem took_eq (s : State) (f : Frame) (k : Nat) (e e1 : AddrEntry) :
    took s f k e e1 = { s with lports := (took s f k e e1).lports, netOut := (took s f k e e1).netOut } :=
  rxTake_eq (setEntry s f.lport k (some e1)) e f

/-- What reads neither the ports nor what they send reads the same once a frame has been accepted. -/
theorem took_keeps {β : Type} (g : State → β)
    (hg : ∀ (t : State) (lp : Tbl LPort) (out : List (Nat × Option Nat × List Byte)), g { t with lports := lp, netOut := out } = g t)
    (s : State) (f : Frame) (k : Nat) (e e1 : AddrEntry) : g (took s f k e e1) = g s :=
  (congrArg g (took_eq s f k e e1)).trans (hg s _ _)

@[simp] theorem took_fab (s : State) (f : Frame) (k : Nat) (e e1 : AddrEntry) : (took s f k e e1).fab = s.fab :=
  took_keeps State.fab (fun _ _ _ => rfl) ..
@[simp] theorem took_neigh (s : State) (f : Frame) (k : Nat) (e e1 : AddrEntry) : (took s f k e e1).neigh = s.neigh :=
  took_keeps State.neigh (fun _ _ _ => rfl) ..
@[simp] theorem took_timeBase (s : State) (f : Frame) (k : Nat) (e e1 : AddrEntry) : (took s f k e e1).timeBase = s.timeBase :=
  took_keeps State.timeBase (fun _ _ _ => rfl) ..
@[simp] theorem took_stamps (s : State) (f : Frame) (k : Nat) (e e1 : AddrEntry) : (took s f k e e1).stamps = s.stamps :=
  took_keeps State.stamps (fun _ _ _ => rfl) ..
@[simp] theorem took_ptpPort (s : State) (f : Frame) (k : Nat) (e e1 : AddrEntry) : (took s f k e e1).ptpPort = s.ptpPort :=
  took_keeps State.ptpPort (fun _ _ _ => rfl) ..
@[simp] theorem took_ptpSync (s : State) (f : Frame) (k : Nat) (e e1 : AddrEntry) : (took s f k e e1).ptpSync = s.ptpSync :=
  took_keeps State.ptpSync (fun _ _ _ => rfl) ..
@[simp] theorem took_ptpReq (s : State) (f : Frame) (k : Nat) (e e1 : AddrEntry) : (took s f k e e1).ptpReq = s.ptpReq :=
  took_keeps State.ptpReq (fun _ _ _ => rfl) ..
@[simp] theorem took_ptpDelay (s : State) (f : Frame) (k : Nat) (e e1 : AddrEntry) : (took s f k e e1).ptpDelay = s.ptpDelay :=
  took_keeps State.ptpDelay (fun _ _ _ => rfl) ..
@[simp] theorem devNs_took (s : State) (f : Frame) (k : Nat) (e e1 : AddrEntry) : devNs (took s f k e e1) = devNs s :=
  took_keeps devNs (fun _ _ _ => rfl) ..

/-- A frame in its buffer leaves the entries of every port. -/
theorem entries_rxTake (s : State) (e : AddrEntry) (f : Frame) (l : Nat) :
    (getLport (rxTake s e f) l).entries = (getLport s l).entries := by
  rw [rxTake]
  split_ifs
  · rw [sendPfc]
    refine (getLport_modLport_keeps LPort.entries _ f.lport l (g := fun p => { p with xoff := p.xoff ++ [frameClass e f] }) rfl).trans ?_
    exact getLport_modLport_keeps LPort.entries s f.lport l (g := fun p => { p with rx := _ }) rfl
  · exact getLport_modLport_keeps LPort.entries s f.lport l (g := fun p => { p with rx := _ }) rfl

/-- The entry of an accepted frame holds its new packet number. -/
theorem getEntry_took (s : State) (f : Frame) (k : Nat) (e e1 : AddrEntry) : getEntry (took s f k e e1) f.lport k = some e1 := by
  rw [getEntry, took, entries_rxTake, setEntry, getLport_modLport_same]
  exact tget_tset_same none _ k (some e1)

end Acceptance

/-! ### The port's own answers (R364) -/

section Answers

variable {s : State} {f : Frame} {k : Nat} {e e1 : AddrEntry}

/-- A frame that names a logical port of the device, with the next state worked out. -/
theorem onFrame_next {g : Unit → State} {t : State} (hport : f.lport < 8) (ht : g () = t) : onFrame f g = .next t := by
  rw [onFrame, if_pos hport, ht]

theorem exec_arpRequest_answers {ip : Nat}
    (h : Accepted s f (fun _ e => f.dmac == broadcastMac && e.ip4 == ip && e.flags.testBit 1) k e e1) (hflag : e1.flags.testBit 1 = true)
    (hip : e1.ip4 = ip) : exec (.arpRequest f ip) s = .next (portSend (took s f k e e1) f.lport k 2
      ([1] ++ beBytes 6 f.smac ++ beBytes 6 e1.mac ++ beBytes 4 ip ++ beBytes 4 f.srcIp)) := by
  change execArpRequest f ip s = _
  refine onFrame_next h.port.1 ?_
  simp only [acceptFrame_accepted h, hflag, hip, beq_self_eq_true, Bool.and_self, if_true]

theorem exec_neighbourSolicitation_answers {ip : Nat}
    (h : Accepted s f (fun _ e => f.dmac == solicitedMac e.ip6 && e.ip6 == ip && e.flags.testBit 2) k e e1)
    (hflag : e1.flags.testBit 2 = true) (hip : e1.ip6 = ip) :
    exec (.neighbourSolicitation f ip) s = .next (portSend (took s f k e e1) f.lport k 2
      ([2] ++ beBytes 6 f.smac ++ beBytes 6 e1.mac ++ beBytes 16 ip ++ beBytes 16 f.srcIp)) := by
  change execNeighbourSolicitation f ip s = _
  refine onFrame_next h.port.1 ?_
  simp only [acceptFrame_accepted h, hflag, hip, beq_self_eq_true, Bool.and_self, if_true]

theorem exec_icmpEchoRequest_answers (data : List Byte) (h : Accepted s f (fun _ _ => false) k e e1)
    (hsix : f.v6 = true → e1.flags.testBit 2 = true ∧ e1.ip6 = f.dstIp)
    (hfour : f.v6 = false → e1.flags.testBit 1 = true ∧ e1.ip4 = f.dstIp) :
    exec (.icmpEchoRequest f data) s = .next (portSend (took s f k e e1) f.lport k 2
      ([3] ++ beBytes 6 f.smac ++ beBytes 6 e1.mac ++ beBytes 16 f.dstIp ++ beBytes 16 f.srcIp ++ data)) := by
  have hip : entryIp e1 f.v6 = some f.dstIp := by
    cases hv : f.v6
    · simp [entryIp, hfour hv]
    · simp [entryIp, hsix hv]
  change execIcmpEchoRequest f data s = _
  refine onFrame_next h.port.1 ?_
  simp only [acceptFrame_accepted h, hip, if_true]

theorem exec_arpOrNeighbourReply_renews {ip mac : Nat} (h : Accepted s f (fun _ _ => false) k e e1)
    (hroom : (tget none s.neigh (neighKey f.lport ip)).isSome = true ∨ neighOf s f.lport < 1024) :
    exec (.arpOrNeighbourReply f ip mac) s = .next { took s f k e e1 with
      neigh := tset none (took s f k e e1).neigh (neighKey f.lport ip) (some (mac, s.fab)) } := by
  change execArpOrNeighbourReply f ip mac s = _
  refine onFrame_next h.port.1 ?_
  have hof : neighOf (took s f k e e1) f.lport = neighOf s f.lport := took_keeps (neighOf · f.lport) (fun _ _ _ => rfl) ..
  have hkeeps : ((tget none s.neigh (neighKey f.lport ip)).isSome || decide (neighOf s f.lport < 1024)) = true := by
    simpa using hroom
  simp only [acceptFrame_accepted h, took_neigh, hof, hkeeps, if_true, took_fab]

end Answers

/-! ### Frames that no entry sees (R361, R366) -/

section Dropped

variable {s : State} {f : Frame} {ip mac : Nat}

/-- A frame that the port itself drops is counted, and that is all. -/
theorem exec_arpOrNeighbourReply_dropped {g : LPort → LPort} (hport : f.lport < 8)
    (hdrop : acceptFrame s f (fun _ _ => false) = (modLport s f.lport g, none)) :
    exec (.arpOrNeighbourReply f ip mac) s = .next (setLport s f.lport (g (getLport s f.lport))) := by
  change execArpOrNeighbourReply f ip mac s = _
  refine onFrame_next hport ?_
  simp only [hdrop, modLport]

variable {pick : Nat → AddrEntry → Bool}

theorem acceptFrame_tooLong (hup : (getLport s f.lport).up = true) (hlong : f.octets > 4352) :
    acceptFrame s f pick = (modLport s f.lport (fun p => { p with tooLong := p.tooLong + 1 }), none) := by
  rw [acceptFrame, if_neg (by simp [hup]), if_pos hlong]

theorem acceptFrame_badFcs (hup : (getLport s f.lport).up = true) (hsize : f.octets ≤ 4352) (hbad : f.fcsOk = false) :
    acceptFrame s f pick = (modLport s f.lport (fun p => { p with badFcs := p.badFcs + 1 }), none) := by
  rw [acceptFrame, if_neg (by simp [hup]), if_neg (by omega), if_pos (by simp [hbad])]

theorem acceptFrame_notWhole (hup : (getLport s f.lport).up = true) (hsize : f.octets ≤ 4352) (hgood : f.fcsOk = true)
    (hpart : f.fragment = true ∨ f.v6 = true ∧ f.extHdr = true ∧ f.mld = false) :
    acceptFrame s f pick = (modLport s f.lport (fun p => { p with fragments := p.fragments + 1 }), none) := by
  have hcut : (f.fragment || (f.v6 && f.extHdr && !f.mld)) = true := by
    obtain hfrag | ⟨hv, hx, hm⟩ := hpart <;> simp [*]
  rw [acceptFrame, if_neg (by simp [hup]), if_neg (by omega), if_neg (by simp [hgood]), if_pos hcut]

end Dropped

end Sys2Proof.Machine
end

section
/-! SUPPORT. What leaves at the Ethernet ports, pauses, and device time (R365 to R369, R379). -/

namespace Sys2Proof.Machine

/-! ### What leaves (R365 to R367) -/

/-- Packet numbers that advance change entries, and may make events of the device. -/
theorem burnPn_eq (s : State) (l k n : Nat) : burnPn s l k n = { s with lports := (burnPn s l k n).lports, qps := (burnPn s l k n).qps } := by
  unfold burnPn
  split
  · rfl
  · split
    · rfl
    · dsimp only
      split_ifs <;> rfl

/-- A frame of the port's own changes ports, events, and what has left. -/
theorem portSend_eq (s : State) (l k cls : Nat) (b : List Byte) : portSend s l k cls b =
    { s with lports := (portSend s l k cls b).lports, qps := (portSend s l k cls b).qps, netOut := (portSend s l k cls b).netOut } := by
  unfold portSend
  split
  · rfl
  · split_ifs
    · rfl
    · rw [burnPn_eq]

/-! ### Device time (R368, R369) -/

theorem passMs_eq (s s1 : State) : passMs s s1 = { s1 with atMs := (passMs s s1).atMs } := by
  rw [passMs]
  split_ifs <;> rfl

theorem steerTime_eq (s : State) (ingress timestamp : Nat) : ∃ m, steerTime s ingress timestamp =
    { s with timeBase := s.timeBase + timestamp + pathDelay s - ingress, atMs := m, freeSeq := s.freeSeq + 1 } := by
  rw [steerTime, setTimeBase, passMs_eq]
  exact ⟨_, rfl⟩

/-- A measurement that begins: what leaves, its stamp, and what is asked; nothing where the port cannot send it at once. -/
theorem delayReq_eq {s : State} {l n : Nat} {d : Int} {e : AddrEntry} (he : getEntry s l 0 = some e) :
    ∃ (lp : Tbl LPort) (qp : Tbl (Option Qp)) (out : List (Nat × Option Nat × List Byte)) (st : List (Nat × Nat)) (rq : Option (Nat × Nat × Int)),
      delayReq s l n d = { s with lports := lp, qps := qp, netOut := out, stamps := st, ptpReq := rq } ∧
        (blocked e = false → st = s.stamps ++ [(n, devNs s)] ∧ rq = some (n, devNs s, d)) := by
  cases hb : blocked e with
  | true =>
    refine ⟨s.lports, s.qps, s.netOut, s.stamps, s.ptpReq, ?_, fun h => absurd h (by simp)⟩
    simp only [delayReq, he, hb, if_true]
  | false =>
    refine ⟨(portSend s l 0 2 ([7] ++ beBytes 2 n)).lports, (portSend s l 0 2 ([7] ++ beBytes 2 n)).qps,
      (portSend s l 0 2 ([7] ++ beBytes 2 n)).netOut, _, _, ?_, fun _ => ⟨rfl, rfl⟩⟩
    simp only [delayReq, he, hb, Bool.false_eq_true, if_false]
    rw [portSend_eq]

section Ptp

variable {s : State} {f : Frame} {e e1 : AddrEntry}

/-- The frame is one of the PTP at the port: entry 0 takes it on the named port in its version of IP. -/
structure PtpFrame (s : State) (f : Frame) (e e1 : AddrEntry) : Prop where
  accepted : Accepted s f (fun k _ => k == 0 && f.dmac == ptpMac f.v6) 0 e e1
  port : s.ptpPort = some (f.lport, if f.v6 = true then 2 else 1)

theorem PtpFrame.here {t : State} (h : PtpFrame s f e e1) (ht : t.ptpPort = s.ptpPort) : ptpHere t f 0 = true := by
  cases hv : f.v6 <;> simp [ptpHere, ht, h.port, hv]

theorem exec_ptpEventMessage_stamps (h : PtpFrame s f e e1) (q i : Nat) : exec (.ptpEventMessage f q i) s =
    .next { took s f 0 e e1 with stamps := s.stamps ++ [(q, stampOf s i)], ptpSync := some (q, stampOf s i), ptpHeard := s.fab, ptpFree := false } := by
  change execPtpEventMessage f q i s = _
  refine onFrame_next h.accepted.port.1 ?_
  have hstamp : stampOf (took s f 0 e e1) i = stampOf s i := took_keeps (stampOf · i) (fun _ _ _ => rfl) ..
  simp only [acceptFrame_accepted h.accepted, hstamp, took_stamps, took_fab]
  exact if_pos (h.here (took_ptpPort ..))

theorem exec_ptpGeneralMessage_delayResp (h : PtpFrame s f e e1) {q ts egress : Nat} {d : Int} (hreq : s.ptpReq = some (q, egress, d)) :
    exec (.ptpGeneralMessage f 2 q ts) s = .next { took s f 0 e e1 with
      ptpHeard := s.fab, ptpFree := false, ptpReq := none, ptpDelay := some ((d + ts - egress) / 2) } := by
  change execPtpGeneralMessage f 2 q ts s = _
  refine onFrame_next h.accepted.port.1 ?_
  simp only [acceptFrame_accepted h.accepted, h.here (took_ptpPort ..), delayResp, took_ptpReq, hreq, took_fab]
  rfl

/-- The state in which a Follow_Up is taken. -/
def followed (s : State) (f : Frame) (e e1 : AddrEntry) : State :=
  { took s f 0 e e1 with ptpHeard := (took s f 0 e e1).fab, ptpFree := false, ptpSync := none }

theorem exec_ptpGeneralMessage_followUp (h : PtpFrame s f e e1) {q i : Nat} (ts : Nat) (hsync : s.ptpSync = some (q, i)) :
    exec (.ptpGeneralMessage f 1 q ts) s =
      .next (delayReq (steerTime (followed s f e e1) i ts) f.lport q (pathDelay (followed s f e e1))) := by
  change execPtpGeneralMessage f 1 q ts s = _
  refine onFrame_next h.accepted.port.1 ?_
  simp only [acceptFrame_accepted h.accepted, h.here (took_ptpPort ..), took_ptpSync, hsync]
  rw [if_pos (by decide), if_neg (by decide), if_pos ⟨trivial, trivial⟩]
  rfl

/-- A Follow_Up steers device time by the path delay, and asks for a new measurement of it. -/
theorem followUp_steers (h : PtpFrame s f e e1) {q i : Nat} (ts : Nat) (hsync : s.ptpSync = some (q, i)) :
    ∃ (u : State) (d : Int), exec (.ptpGeneralMessage f 1 q ts) s = .next u ∧ (∀ x, s.ptpDelay = some x → d = x) ∧
      u.timeBase = s.timeBase + ts + d - i ∧ u.ptpSync = none ∧ u.ptpFree = false ∧ u.ptpHeard = s.fab ∧
      (blocked e1 = false → u.stamps = s.stamps ++ [(q, devNs u)] ∧ u.ptpReq = some (q, devNs u, d)) := by
  obtain ⟨m, hsteer⟩ := steerTime_eq (followed s f e e1) i ts
  have hentry : getEntry (steerTime (followed s f e e1) i ts) f.lport 0 = some e1 := by
    rw [hsteer]
    exact getEntry_took s f 0 e e1
  obtain ⟨lp, qp, out, st, rq, hreq, hmeasure⟩ := delayReq_eq (n := q) (d := pathDelay (followed s f e e1)) hentry
  refine ⟨_, pathDelay (followed s f e e1), exec_ptpGeneralMessage_followUp h ts hsync, fun x hx => ?_, ?_⟩
  · have hdelay : (followed s f e e1).ptpDelay = s.ptpDelay := took_ptpDelay ..
    rw [pathDelay, hdelay, hx, Option.getD_some]
  · rw [hreq, hsteer]
    refine ⟨?_, rfl, rfl, took_fab s f 0 e e1, fun hb => ?_⟩
    · change (took s f 0 e e1).timeBase + _ + _ - _ = _
      rw [took_timeBase]
    · obtain ⟨rfl, rfl⟩ := hmeasure hb
      rw [hsteer]
      refine ⟨?_, rfl⟩
      change (took s f 0 e e1).stamps ++ _ = _
      rw [took_stamps]
      rfl

end Ptp

/-! ### Pauses (R366) -/

/-- The fabric time and what every port holds of its pauses. -/
def pauses (s : State) : Nat × (Nat → Tbl Nat × Tbl Nat) := (s.fab, fun l => ((getLport s l).paused, (getLport s l).pauseEnd))

/-- A change of a port that leaves its own pauses leaves all of them. -/
theorem pauses_modLport (s : State) (l : Nat) {g : LPort → LPort} (hp : (g (getLport s l)).paused = (getLport s l).paused)
    (he : (g (getLport s l)).pauseEnd = (getLport s l).pauseEnd) : pauses (modLport s l g) = pauses s := by
  refine Prod.ext rfl (funext fun j => Prod.ext ?_ ?_)
  · exact getLport_modLport_keeps LPort.paused s l j hp
  · exact getLport_modLport_keeps LPort.pauseEnd s l j he

@[simp] theorem pauses_setEntry (s : State) (l k : Nat) (e : Option AddrEntry) : pauses (setEntry s l k e) = pauses s :=
  pauses_modLport s l rfl rfl

@[simp] theorem pauses_setQp (s : State) (q : Nat) (v : Option Qp) : pauses (setQp s q v) = pauses s := rfl

@[simp] theorem pauses_noteEvent (s : State) (body : List Byte) : pauses (noteEvent s body) = pauses s := rfl

@[simp] theorem pauses_burnPn (s : State) (l k n : Nat) : pauses (burnPn s l k n) = pauses s := by
  unfold burnPn
  split
  · rfl
  · split
    · rfl
    · dsimp only
      split_ifs <;> simp only [pauses_noteEvent, pauses_setEntry]

@[simp] theorem pauses_putOut (s : State) (q : Nat) (v : Qp) (n : Nat) : pauses (putOut s q v n) = pauses s := by
  simp only [putOut, pauses_burnPn, pauses_setQp]

@[simp] theorem pauses_emit (s : State) (q : Nat) (t : Tx) : pauses (emit s q t) = pauses s := by
  unfold emit
  split
  · rfl
  · cases t <;> simp only [pauses_putOut]
    rfl

@[simp] theorem pauses_releaseOne (s : State) (q : Nat) : pauses (releaseOne s q) = pauses s := by
  unfold releaseOne
  split
  · rfl
  · split
    · rfl
    · split_ifs
      · rfl
      · simp only [pauses_emit, pauses_setQp]

@[simp] theorem pauses_releasePairs (s : State) (l cls : Nat) : pauses (releasePairs s l cls) = pauses s :=
  foldl_keeps pauses (fun _ _ => foldl_keeps pauses pauses_releaseOne _ _) _ _

@[simp] theorem pauses_portSend (s : State) (l k cls : Nat) (b : List Byte) : pauses (portSend s l k cls b) = pauses s := by
  unfold portSend
  split
  · rfl
  · split_ifs
    · exact pauses_modLport s l rfl rfl
    · simp only [pauses_burnPn]
      rfl

@[simp] theorem pauses_releaseFrames (s : State) (l cls : Nat) : pauses (releaseFrames s l cls) = pauses s :=
  (foldl_keeps pauses (fun _ _ => pauses_portSend ..) _ _).trans (pauses_modLport s l rfl rfl)

@[simp] theorem pauses_releaseTx (s : State) (l : Nat) : pauses (releaseTx s l) = pauses s := by
  simp only [releaseTx, pauses_releaseFrames, pauses_releasePairs]

/-- What the steps of a fold keep one by one, the fold keeps. -/
theorem foldl_keeps_of_mem {σ α β : Type} {f : σ → α → σ} (g : σ → β) {l : List α} (h : ∀ a ∈ l, ∀ s, g (f s a) = g s) (s : σ) :
    g (l.foldl f s) = g s := by
  induction l generalizing s with
  | nil => rfl
  | cons a l ih => rw [List.foldl_cons, ih fun b hb => h b (List.mem_cons_of_mem a hb), h a List.mem_cons_self]

/-- Where only one step of a fold can change `g`, it alone counts; it sees what every step keeps. -/
theorem foldl_eq_at {σ α β γ : Type} {f : σ → α → σ} {n : α} {l : List α} (hn : n ∈ l) (hnodup : l.Nodup) (g : σ → β) (h : σ → γ)
    (hother : ∀ s j, j ≠ n → g (f s j) = g s) (hkeeps : ∀ s j, h (f s j) = h s) (s : σ) :
    ∃ t, h t = h s ∧ g t = g s ∧ g (l.foldl f s) = g (f t n) := by
  obtain ⟨l1, l2, rfl⟩ := List.append_of_mem hn
  have hl1 : ∀ j ∈ l1, j ≠ n := fun j hj hjn => by
    subst hjn
    exact (List.disjoint_of_nodup_append hnodup) hj List.mem_cons_self
  have hl2 : ∀ j ∈ l2, j ≠ n := fun j hj hjn => by
    subst hjn
    exact (List.nodup_cons.mp (List.nodup_append.mp hnodup).2.1).1 hj
  refine ⟨l1.foldl f s, foldl_keeps h hkeeps l1 s, foldl_keeps_of_mem g (fun j hj t => hother t j (hl1 j hj)) s, ?_⟩
  rw [List.foldl_append, List.foldl_cons]
  exact foldl_keeps_of_mem g (fun j hj t => hother t j (hl2 j hj)) _

/-- One priority of a PFC frame, where its bit is set. -/
def pfcStep (l enable : Nat) (quanta : List Nat) (s : State) (n : Nat) : State :=
  if enable.testBit n then pfcOne s l n (quanta.getD n 0 % 65536) else s

/-- The pause of a priority of a port: since when, and until when. -/
def pauseOf (s : State) (l n : Nat) : Nat × Nat := (tget 0 (getLport s l).paused n, tget 0 (getLport s l).pauseEnd n)

section Pfc

variable {s : State} {l n : Nat}

theorem pauseOf_of_pauses {t : State} (h : pauses t = pauses s) : pauseOf t l n = pauseOf s l n := by
  have hl := congrFun (congrArg Prod.snd h) l
  exact Prod.ext (congrArg (fun x : Tbl Nat × Tbl Nat => tget 0 x.1 n) hl) (congrArg (fun x : Tbl Nat × Tbl Nat => tget 0 x.2 n) hl)

theorem pauseEnd_of_pauseOf {v : Nat × Nat} (h : pauseOf s l n = v) : tget 0 (getLport s l).pauseEnd n = v.2 := by
  rw [← h, pauseOf]

theorem pausedAt_of_pauseOf (h : (pauseOf s l n).1 = 0) : pausedAt s l n = false := by
  have hzero : tget 0 (getLport s l).paused n = 0 := h
  simp [pausedAt, hzero]

theorem pauseOf_pfcOne_other (s : State) (l q : Nat) {j n : Nat} (h : j ≠ n) : pauseOf (pfcOne s l j q) l n = pauseOf s l n := by
  unfold pfcOne
  split_ifs <;> simp [pauseOf, tget_tset_other _ _ _ h.symm]

theorem pauseOf_pfcOne_resume (s : State) (l n : Nat) : pauseOf (pfcOne s l n 0) l n = (0, 0) := by
  simp [pfcOne, pauseOf]

theorem pauseEnd_pfcOne {q : Nat} (hq : q ≠ 0) (s : State) (l n : Nat) : (pauseOf (pfcOne s l n q) l n).2 = s.fab + quantaCycles s l q := by
  simp [pfcOne, pauseOf, hq]

/-- A PFC frame gives each named priority its own pause, and leaves the others. -/
theorem pauseOf_pfcFrame (s : State) (l enable : Nat) (quanta : List Nat) (hn : n < 8) :
    ∃ t, (t.fab, t.portMode) = (s.fab, s.portMode) ∧ pauseOf t l n = pauseOf s l n ∧
      pauseOf (releaseTx ((List.range 8).foldl (pfcStep l enable quanta) s) l) l n = pauseOf (pfcStep l enable quanta t n) l n := by
  have hother : ∀ s j, j ≠ n → pauseOf (pfcStep l enable quanta s j) l n = pauseOf s l n := by
    intro s j hj
    rw [pfcStep]
    split_ifs
    · exact pauseOf_pfcOne_other s l _ hj
    · rfl
  have hkeeps : ∀ s j, ((pfcStep l enable quanta s j).fab, (pfcStep l enable quanta s j).portMode) = (s.fab, s.portMode) := by
    intro s j
    rw [pfcStep, pfcOne]
    split_ifs <;> rfl
  obtain ⟨t, hkept, hsame, hfold⟩ :=
    foldl_eq_at (List.mem_range.mpr hn) List.nodup_range (fun s => pauseOf s l n) (fun s => (s.fab, s.portMode)) hother hkeeps s
  exact ⟨t, hkept, hsame, (pauseOf_of_pauses (pauses_releaseTx _ l)).trans hfold⟩

theorem exec_pfcFrame_up (enable : Nat) (quanta : List Nat) (hl : l < 8) (hup : (getLport s l).up = true) :
    exec (.pfcFrame l enable quanta) s = .next (releaseTx ((List.range 8).foldl (pfcStep l enable quanta) s) l) := by
  refine exec_of_onUnit (by simpa using hl) rfl ?_
  rw [if_pos hup]
  rfl

theorem quantaCycles_congr {t : State} (h : t.portMode = s.portMode) (l q : Nat) : quantaCycles t l q = quantaCycles s l q := by
  rw [quantaCycles, quantaCycles, lportRate, lportRate, h]

end Pfc

/-- A PFC frame pauses and resumes the named priorities, and no other one. -/
theorem exec_pfcFrame_pauses (s : State) (l en : Nat) (quanta : List Nat) (hl : l < 8) (hup : (getLport s l).up = true) :
    ∃ t, exec (.pfcFrame l en quanta) s = .next t ∧ ∀ n, n < 8 →
      (en.testBit n = false → tget 0 (getLport t l).pauseEnd n = tget 0 (getLport s l).pauseEnd n) ∧
      (en.testBit n = true → quanta.getD n 0 % 65536 = 0 → pausedAt t l n = false) ∧
      (en.testBit n = true → quanta.getD n 0 % 65536 ≠ 0 →
        tget 0 (getLport t l).pauseEnd n = s.fab + quantaCycles s l (quanta.getD n 0 % 65536)) := by
  refine ⟨_, exec_pfcFrame_up en quanta hl hup, fun n hn => ?_⟩
  obtain ⟨t, hkept, hsame, hpause⟩ := pauseOf_pfcFrame s l en quanta hn
  obtain ⟨hfab, hmode⟩ := Prod.mk.inj hkept
  refine ⟨fun hbit => ?_, fun hbit hq => ?_, fun hbit hq => ?_⟩
  · rw [pfcStep, if_neg (by simp [hbit]), hsame] at hpause
    rw [pauseEnd_of_pauseOf hpause, pauseOf]
  · rw [pfcStep, if_pos hbit, hq, pauseOf_pfcOne_resume] at hpause
    exact pausedAt_of_pauseOf (congrArg Prod.fst hpause)
  · rw [pfcStep, if_pos hbit] at hpause
    rw [pauseEnd_of_pauseOf hpause, pauseEnd_pfcOne hq, hfab, quantaCycles_congr hmode]

section Rows

variable {s : State}

theorem exec_pfcPauseHeld_raises {l n : Nat} (hl : l < 8) (hn : n < 8) (hpaused : pausedAt s l n = true) (hloss : lossless s l n = true)
    (hlong : s.fab + 1 ≥ tget 0 (getLport s l).paused n + usCycles 100000)
    (hnew : tget 0 (getLport s l).pauseSeen n ≠ tget 0 (getLport s l).paused n) :
    exec (.pfcPauseHeld l n) s = .next (devFault (setLport s l { getLport s l with
      pauseSeen := tset 0 (getLport s l).pauseSeen n (tget 0 (getLport s l).paused n), pauseEvents := (getLport s l).pauseEvents + 1 })
        5 0 (l + 256 * n) []) := by
  refine exec_of_onUnit (by simp [hl, hn]) rfl ?_
  exact if_pos (by simp [hpaused, hloss, hlong, hnew])

theorem exec_pfcPauseHeld_raised {l n : Nat} (hl : l < 8) (hn : n < 8)
    (hseen : tget 0 (getLport s l).pauseSeen n = tget 0 (getLport s l).paused n) : exec (.pfcPauseHeld l n) s = .next s := by
  refine exec_of_onUnit (by simp [hl, hn]) rfl ?_
  exact if_neg (by simp [hseen])

theorem exec_ptpMasterTimeout_frees {p : Nat × Nat} (hport : s.ptpPort = some p) (hsilent : s.fab ≥ s.ptpHeard + usCycles 10000000) :
    exec .ptpMasterTimeout s = .next { s with ptpFree := true, ptpSync := none } :=
  if_pos (by simp [hport, hsilent])

theorem exec_neighbourEntryAgeing_of {ip mac t : Nat} (hentry : tget none s.neigh ip = some (mac, t)) :
    exec (.neighbourEntryAgeing ip) s =
      .next (if s.fab ≥ t + usCycles 300000000 then { s with neigh := tset none s.neigh ip none } else s) := by
  change execNeighbourEntryAgeing ip s = _
  rw [execNeighbourEntryAgeing, hentry]

/-! ### Connections and links (R379, R494) -/

section Connect

variable {l ip rq mtu retry rnr to_ : Nat}

theorem exec_cmConnectRequest_early (hboot : s.boot ≠ .service) (hport : lportExists s l = true) (hup : (getLport s l).up = true) :
    exec (.cmConnectRequest l ip rq mtu retry rnr to_) s = .next (portSend s l 0 1 ([5, 0] ++ zeros 4)) := by
  refine congrArg Host.Outcome.next ?_
  rw [if_neg (by simp [hport, hup]), if_pos hboot]

/-- The mailbox pair of the steward that a connection makes. -/
def connectedQp (l ip rq mtu retry rnr to_ q : Nat) : Qp :=
  { owner := 64, mbx := true, lport := l, mtu := mtu, retry := retry, rnr := rnr, timeout := to_, remote := rq, remoteIp := ip,
    udp := Config.udpPort q % 65536 }

/-- What a connection request in service comes to. -/
theorem exec_cmConnectRequest_service {q : Nat} {e : AddrEntry} (hboot : s.boot = .service) (hfw : s.ouvosUp = true)
    (hport : lportExists s l = true) (hup : (getLport s l).up = true) (hentry : getEntry s l 0 = some e) (hfree : freeQpn s = some q) :
    exec (.cmConnectRequest l ip rq mtu retry rnr to_) s = .next
      (if (qpsWhere s (fun v => v.mbx && v.owner == 64)).length ≥ 8 ∨ mtu < 1 ∨ mtu > 5 ∨ retry > 7 ∨ rnr > 7 ∨ to_ < 1 ∨ to_ > 31 then
        portSend s l 0 1 ([5, 0] ++ zeros 4)
      else portSend (setQp s q (some (connectedQp l ip rq mtu retry rnr to_ q))) l 0 1 ([5, 1] ++ leBytes 4 q)) := by
  refine congrArg Host.Outcome.next ?_
  rw [if_neg (by simp [hport, hup]), if_neg (by simp [hboot]), if_neg (by simp [hfw]), hentry, hfree, connectedQp]

end Connect

end Rows

/-- Settles O55, row by row. Device time steps by the master's timestamp and the path delay less the ingress time (log 41); the kinds of a
general message and the measurement after each Follow_Up are the model's (log 89). -/
theorem ethernetFrames : Obligations.EthernetFrames := by
  refine ⟨?_, ?_, ?_, exec_pfcFrame_pauses, ?_, fun s p => exec_ptpMasterTimeout_frees,
    fun s l ip rq mtu retry rnr to_ => exec_cmConnectRequest_early, ?_, ?_⟩
  · rintro s f k e e1 t rfl
    refine ⟨fun ip => exec_arpRequest_answers, fun ip => exec_neighbourSolicitation_answers, fun data => exec_icmpEchoRequest_answers data,
      fun ip mac => exec_arpOrNeighbourReply_renews, ?_⟩
    rintro h rfl hport
    exact ⟨fun q i n hn => by rw [hn]; exact exec_ptpEventMessage_stamps ⟨h, hport⟩ q i, fun q i ts => followUp_steers ⟨h, hport⟩ ts,
      fun q ts egress d => exec_ptpGeneralMessage_delayResp ⟨h, hport⟩⟩
  · rintro s f p ip mac hport rfl hup
    exact ⟨fun hlong => exec_arpOrNeighbourReply_dropped hport (acceptFrame_tooLong hup hlong),
      fun hsize hbad => exec_arpOrNeighbourReply_dropped hport (acceptFrame_badFcs hup hsize hbad),
      fun hsize hgood hpart => exec_arpOrNeighbourReply_dropped hport (acceptFrame_notWhole hup hsize hgood hpart)⟩
  · intro s ip mac t hentry
    have hage := exec_neighbourEntryAgeing_of hentry
    exact ⟨fun hold => by rw [hage, if_pos hold], fun hnew => by rw [hage, if_neg (by omega)]⟩
  · rintro s l n start p hl hn rfl rfl hpaused hloss hlong
    exact ⟨exec_pfcPauseHeld_raises hl hn hpaused hloss hlong, exec_pfcPauseHeld_raised hl hn⟩
  · intro s l ip rq mtu retry rnr to_ q e hboot hfw hport hup hentry hfree hm1 hm5 hretry hrnr ht1 ht31
    have hconnect := exec_cmConnectRequest_service (ip := ip) (rq := rq) (mtu := mtu) (retry := retry) (rnr := rnr) (to_ := to_)
      hboot hfw hport hup hentry hfree
    refine ⟨fun hmany => ?_, fun hfew => ⟨connectedQp l ip rq mtu retry rnr to_ q, rfl, rfl, rfl, rfl, rfl, rfl, rfl, rfl, ?_⟩⟩
    · rw [hconnect, if_pos (.inl hmany)]
    · rw [hconnect, if_neg (by omega)]
  · refine fun s l up hl hexists => ⟨fun hboot => exec_of_onUnit (by simpa using hl) rfl (if_pos (by simp [hexists, hboot])),
      fun hboot => exec_of_onUnit (by simpa using hl) rfl (if_neg (by simp [hboot]))⟩

end Sys2Proof.Machine
end

section
/-! SUPPORT. RoCEv2: what a packet finds at its pair, and the rows of requests, answers and timers (R370 to R374, R380, R398). -/

namespace Sys2Proof.Machine

/-! ### What a CNP leaves (R374) -/

theorem setQp_keeps {β : Type} (g : State → β) (hg : ∀ (t : State) lp qp, g { t with lports := lp, qps := qp } = g t)
    (s : State) (q : Nat) (v : Option Qp) : g (setQp s q v) = g s := hg s s.lports _

/-- What reads neither pairs nor ports reads the same after packet numbers have advanced. -/
theorem burnPn_keeps {β : Type} (g : State → β) (hg : ∀ (t : State) lp qp, g { t with lports := lp, qps := qp } = g t)
    (s : State) (l k n : Nat) : g (burnPn s l k n) = g s := (congrArg g (burnPn_eq s l k n)).trans (hg s _ _)

/-- A CNP changes pairs and ports alone. -/
theorem congested_keeps {β : Type} (g : State → β) (hg : ∀ (t : State) lp qp, g { t with lports := lp, qps := qp } = g t)
    (s : State) (q : Nat) (ce : Bool) : g (congested s q ce) = g s := by
  unfold congested
  split
  · split_ifs
    · unfold transmitOn
      split
      · exact setQp_keeps g hg ..
      · split_ifs
        · exact (setQp_keeps g hg ..).trans (setQp_keeps g hg ..)
        · unfold emit
          split
          · exact setQp_keeps g hg ..
          · exact (burnPn_keeps g hg ..).trans ((setQp_keeps g hg ..).trans (setQp_keeps g hg ..))
    · rfl
  · rfl

/-- A pair without what a CNP, and the events of a device pair, may change. -/
def steady (v : Qp) : Qp := { v with cnpSent := 0, txq := [], outTag := none, cnps := 0, events := [], lost := 0, evNo := 0 }

theorem steady_queueEvent (v : Qp) (e : Sent) : steady (queueEvent v e) = steady v := by
  rw [queueEvent]
  split_ifs <;> rfl

/-- Every pair, without what a CNP or an event of the device may change. -/
def steadyPairs (s : State) (q : Nat) : Option Qp := (getQp s q).map steady

theorem tget_map {α : Type} (f : Nat → Option α → Option α) (t : Tbl (Option α)) (k : Nat) (hf : f k none = none) :
    tget none (t.map (fun e => (e.1, f e.1 e.2))) k = f k (tget none t k) := by
  induction t with
  | nil => exact hf.symm
  | cons e r ih =>
    obtain ⟨j, x⟩ := e
    simp only [List.map_cons, tget]
    split_ifs with hj
    · rw [hj]
    · exact ih

/-- A pair written with the same steady part leaves all of them. -/
theorem steadyPairs_setQp {s : State} {q : Nat} {v w : Qp} (hpair : getQp s q = some v) (hw : steady w = steady v) :
    steadyPairs (setQp s q (some w)) = steadyPairs s := by
  funext j
  by_cases hj : j = q
  · subst hj
    simp [steadyPairs, hpair, hw]
  · simp [steadyPairs, getQp_setQp_other s _ hj]

theorem steadyPairs_noteEvent (s : State) (body : List Byte) : steadyPairs (noteEvent s body) = steadyPairs s := by
  funext q
  refine (congrArg (Option.map steady) (tget_map (fun q o => o.map (fun v => if v.mbx && v.owner == 64 then
    queueEvent v { qpn := q, op := 0x0080, tag := 0, flags := 0x04, status := 0, scope := 64, seq := 0, time := devNs s, retry := 0, lost := 0,
                   body := body } else v)) s.qps q rfl)).trans ?_
  rw [Option.map_map]
  refine congrArg (Option.map · (getQp s q)) (funext fun v => ?_)
  change steady (if _ then _ else v) = steady v
  split_ifs
  · exact steady_queueEvent v _
  · rfl

theorem steadyPairs_burnPn (s : State) (l k n : Nat) : steadyPairs (burnPn s l k n) = steadyPairs s := by
  unfold burnPn
  split
  · rfl
  · split
    · rfl
    · dsimp only
      split_ifs <;> (repeat rw [steadyPairs_noteEvent]) <;> rfl

theorem steadyPairs_congested (s : State) (q : Nat) (ce : Bool) : steadyPairs (congested s q ce) = steadyPairs s := by
  unfold congested
  cases hpair : getQp s q with
  | none => rfl
  | some v =>
    dsimp only
    split_ifs
    · have hsent : steadyPairs (setQp s q (some { v with cnpSent := s.fab })) = steadyPairs s := steadyPairs_setQp hpair rfl
      simp only [transmitOn, getQp_setQp_same, emit, putOut]
      split_ifs
      · refine (steadyPairs_setQp (getQp_setQp_same s q _) ?_).trans hsent
        rfl
      · refine (steadyPairs_burnPn ..).trans ((steadyPairs_setQp (getQp_setQp_same s q _) ?_).trans hsent)
        rfl
    · rfl

/-! ### A packet at its pair -/

section AtPair

variable {s : State} {p : Packet} {k : Nat} {e e1 : AddrEntry} {v : Qp}

/-- What reads neither pairs nor ports reads the same once a packet has been heard. -/
theorem heard_keeps {β : Type} (g : State → β)
    (hg : ∀ (t : State) lp qp out, g { t with lports := lp, qps := qp, netOut := out } = g t)
    (s : State) (p : Packet) (k : Nat) (e e1 : AddrEntry) : g (heard s p k e e1) = g s :=
  (congested_keeps g (fun t lp qp => hg t lp qp t.netOut) ..).trans (took_keeps g (fun t lp out => hg t lp t.qps out) ..)

theorem getQp_took (s : State) (f : Frame) (k : Nat) (e e1 : AddrEntry) (q : Nat) : getQp (took s f k e e1) q = getQp s q :=
  took_keeps (getQp · q) (fun _ _ _ => rfl) ..

/-- The pair is still there when the packet has been heard, steady. -/
theorem exists_heardQp (h : AtPair s p k e e1 v) : ∃ w, getQp (heard s p k e e1) p.qpn = some w ∧ steady w = steady v := by
  have hsteady := congrFun (steadyPairs_congested (took s p.frame k e e1) p.qpn p.ce) p.qpn
  rw [steadyPairs, steadyPairs, getQp_took, h.pair.1] at hsteady
  obtain ⟨w, hw, hv⟩ := Option.map_eq_some_iff.mp hsteady
  exact ⟨w, hw, hv⟩

end AtPair

end Sys2Proof.Machine
end

section
/-! SUPPORT. The rows of RoCEv2: requests in and out of order, acknowledgements, read responses, timers and the rate (R370 to R374, R398). -/

namespace Sys2Proof.Machine

/-! ### Requests (R371, R372) -/

section Requests

variable {s : State} {p : Packet} {k : Nat} {e e1 : AddrEntry} {v w : Qp} {n : Nat} {act : State → Qp → State × Nat} {again : State → Qp → State}

/-- A packet that reaches its pair is heard there, and stands in the order of the pair's numbers. -/
theorem atQp_reached (h : AtPair s p k e e1 v) : atQp p n s act again = .next (match order v p.psn with
    | 1 =>
      if stoppingNow (heard s p k e e1) v then answer (heard s p k e e1) p.qpn p.psn n ackRnr
      else answer (act (heard s p k e e1) ((getQp (heard s p k e e1) p.qpn).getD v)).1 p.qpn p.psn n
        (act (heard s p k e e1) ((getQp (heard s p k e e1) p.qpn).getD v)).2
    | 2 => answer (again (heard s p k e e1) v) p.qpn p.psn 0 ackOk
    | _ => answer (heard s p k e e1) p.qpn p.psn 0 ackSequence) := by
  refine onFrame_next h.frame.port.1 ?_
  obtain ⟨hport, hentry⟩ := h.owner
  simp only [acceptFrame_accepted h.frame, getQp_took, h.pair.1, h.pair.2, hport, hentry, ne_eq, not_true_eq_false, or_self,
    Bool.false_eq_true, if_false]
  rfl

/-- A request in order acts on the pair as it stands, and is answered. -/
theorem atQp_inOrder (h : AtPair s p k e e1 v) (hord : InOrder s p v) (hw : getQp (heard s p k e e1) p.qpn = some w) :
    atQp p n s act again =
      .next (answer (act (heard s p k e e1) w).1 p.qpn p.psn n (act (heard s p k e e1) w).2) := by
  obtain ⟨hpsn, hgoing⟩ := hord
  have horder : order v p.psn = 1 := if_pos hpsn
  have hstop : stoppingNow (heard s p k e e1) v = false := (heard_keeps (stoppingNow · v) (fun _ _ _ _ => rfl) ..).trans hgoing
  rw [atQp_reached h, horder]
  simp only [hstop, hw, Option.getD_some, Bool.false_eq_true, if_false]

/-- A request in order that acts as `act` says and is answered with `code`. -/
theorem atQp_acts {u : State} {code : Nat} (h : AtPair s p k e e1 v) (hord : InOrder s p v)
    (hact : ∀ w, getQp (heard s p k e e1) p.qpn = some w → steady w = steady v → act (heard s p k e e1) w = (u, code)) :
    atQp p n s act again = .next (answer u p.qpn p.psn n code) := by
  obtain ⟨w, hw, hsteady⟩ := exists_heardQp h
  rw [atQp_inOrder h hord hw, hact w hw hsteady]

theorem atQp_repeated (h : AtPair s p k e e1 v) (hold : (v.ePsn + 2 ^ 24 - p.psn % 2 ^ 24) % 2 ^ 24 < 2 ^ 23)
    (hnot : p.psn % 2 ^ 24 ≠ v.ePsn) :
    atQp p n s act again = .next (answer (again (heard s p k e e1) v) p.qpn p.psn 0 ackOk) := by
  have horder : order v p.psn = 2 := by rw [order, if_neg hnot, if_pos hold]
  rw [atQp_reached h, horder]
  rfl

theorem atQp_later (h : AtPair s p k e e1 v) (hnew : 2 ^ 23 ≤ (v.ePsn + 2 ^ 24 - p.psn % 2 ^ 24) % 2 ^ 24) :
    atQp p n s act again = .next (answer (heard s p k e e1) p.qpn p.psn 0 ackSequence) := by
  have hnot : p.psn % 2 ^ 24 ≠ v.ePsn := fun hpsn => by omega
  have horder : order v p.psn = 3 := by rw [order, if_neg hnot, if_neg (by omega)]
  rw [atQp_reached h, horder]
  rfl

theorem packetsAt_of (hpair : getQp s p.qpn = some v) (len : Nat) : packetsAt s p.qpn len = packetsOf v.mtu len := by
  rw [packetsAt, hpair]

theorem steady_owner (h : steady w = steady v) : w.owner = v.owner := by
  simpa only [steady] using congrArg Qp.owner h

theorem steady_mbx (h : steady w = steady v) : w.mbx = v.mbx := by
  simpa only [steady] using congrArg Qp.mbx h

theorem steady_recvs (h : steady w = steady v) : w.recvs = v.recvs := by
  simpa only [steady] using congrArg Qp.recvs h


theorem exec_roceSend_noBuffer (h : AtPair s p k e e1 v) (hord : InOrder s p v) (data : List Byte) (hmbx : v.mbx = false)
    (hnone : v.recvs = []) : exec (.roceSend p data) s =
      .next (answer (heard s p k e e1) p.qpn p.psn (packetsOf v.mtu data.length) ackRnr) := by
  rw [← packetsAt_of h.pair.1]
  change execRoceSend p data s = _
  refine atQp_acts h hord fun w hw hsteady => ?_
  rw [steady_mbx hsteady, hmbx, if_neg (by simp), placeSend, steady_recvs hsteady, hnone]

theorem exec_roceSend_mailbox (h : AtPair s p k e e1 v) (hord : InOrder s p v) (data : List Byte) (hmbx : v.mbx = true)
    (hw : getQp (heard s p k e e1) p.qpn = some w) : exec (.roceSend p data) s =
      .next (answer (mailboxSend (heard s p k e e1) p.qpn w).1 p.qpn p.psn (packetsOf v.mtu data.length)
        (mailboxSend (heard s p k e e1) p.qpn w).2) := by
  rw [← packetsAt_of h.pair.1]
  change execRoceSend p data s = _
  refine atQp_acts h hord fun w' hw' hsteady => ?_
  obtain rfl := Option.some.inj (hw'.symm.trans hw)
  rw [steady_mbx hsteady, hmbx, if_pos rfl]

theorem exec_roceSend_placed (h : AtPair s p k e e1 v) (hord : InOrder s p v) {data : List Byte} {a len core sync : Nat}
    {rest : List (Nat × Nat × Nat × Nat × Nat)} {pt : Part} {u1 u2 : State} (hw : getQp (heard s p k e e1) p.qpn = some w) (hmbx : v.mbx = false)
    (hrecvs : w.recvs = (a, len, core, sync, 0) :: rest) (hpart : getPart (heard s p k e e1) w.owner = some pt)
    (hdata : putMem (setQp (heard s p k e e1) p.qpn (some { w with recvs := rest, msgNo := w.msgNo + 1 })) w.owner pt.die (a + 16)
      (data.take (len - 16)) = (u1, none))
    (hhead : putMem u1 w.owner pt.die a (leBytes 4 data.length ++ zeros 4 ++ leBytes 8 w.msgNo) = (u2, none)) :
    exec (.roceSend p data) s = .next (answer u2 p.qpn p.psn (packetsOf v.mtu data.length) ackOk) := by
  rw [← packetsAt_of h.pair.1]
  change execRoceSend p data s = _
  refine atQp_acts h hord fun w' hw' hsteady => ?_
  obtain rfl := Option.some.inj (hw'.symm.trans hw)
  have hdatapair : ¬ w'.mbx = true := by simp [steady_mbx hsteady, hmbx]
  simp only [if_neg hdatapair, placeSend, hrecvs, hpart, hdata, hhead, true_or, if_true]

theorem exec_rdmaWrite_stores (h : AtPair s p k e e1 v) (hord : InOrder s p v) {rkey a : Nat} {data : List Byte} {r : Region} {pt : Part}
    {u : State} (hdata : data ≠ []) (hregion : regionFor (heard s p k e e1) v.owner rkey a data.length 1 = some r)
    (hplain : r.access.testBit 2 = false) (hpart : getPart (heard s p k e e1) v.owner = some pt)
    (hput : putMem (heard s p k e e1) v.owner pt.die a data = (u, none)) :
    exec (.rdmaWrite p rkey a data) s = .next (answer u p.qpn p.psn (packetsOf v.mtu data.length) ackOk) := by
  rw [← packetsAt_of h.pair.1]
  change execRdmaWrite p rkey a data s = _
  refine atQp_acts h hord fun w hw hsteady => ?_
  rw [steady_owner hsteady, writeRegion, if_neg hdata, hregion, hpart]
  simp only [hplain, Bool.false_eq_true, if_false, hput]

theorem exec_rdmaWrite_noRegion (h : AtPair s p k e e1 v) (hord : InOrder s p v) {rkey a : Nat} {data : List Byte} (hdata : data ≠ [])
    (hregion : regionFor (heard s p k e e1) v.owner rkey a data.length 1 = none) :
    exec (.rdmaWrite p rkey a data) s = .next (answer (heard s p k e e1) p.qpn p.psn (packetsOf v.mtu data.length) ackAccess) := by
  rw [← packetsAt_of h.pair.1]
  change execRdmaWrite p rkey a data s = _
  refine atQp_acts h hord fun w hw hsteady => ?_
  rw [steady_owner hsteady, writeRegion, if_neg hdata, hregion]

theorem exec_rdmaWrite_repeated (h : AtPair s p k e e1 v) (rkey a : Nat) (data : List Byte)
    (hold : (v.ePsn + 2 ^ 24 - p.psn % 2 ^ 24) % 2 ^ 24 < 2 ^ 23) (hnot : p.psn % 2 ^ 24 ≠ v.ePsn) :
    exec (.rdmaWrite p rkey a data) s = .next (answer (heard s p k e e1) p.qpn p.psn 0 ackOk) := by
  change execRdmaWrite p rkey a data s = _
  exact atQp_repeated h hold hnot

theorem exec_rdmaWrite_later (h : AtPair s p k e e1 v) (rkey a : Nat) (data : List Byte)
    (hnew : 2 ^ 23 ≤ (v.ePsn + 2 ^ 24 - p.psn % 2 ^ 24) % 2 ^ 24) :
    exec (.rdmaWrite p rkey a data) s = .next (answer (heard s p k e e1) p.qpn p.psn 0 ackSequence) := by
  change execRdmaWrite p rkey a data s = _
  exact atQp_later h hnew

theorem exec_rdmaWriteWithImmediate_tile (h : AtPair s p k e e1 v) (hord : InOrder s p v) {rkey a : Nat} {imm : W32} {data : List Byte}
    {r : Region} {u : State} {ok : Bool} (hregion : accRegion (heard s p k e e1) v.owner rkey = some r) (hlen : data.length = 4096)
    (halign : a % 4096 = 0) (hlow : r.addr ≤ a) (hhigh : a + 4096 ≤ r.addr + r.len)
    (harrive : peerArrival (heard s p k e e1) r.owner a imm data = (u, ok)) :
    exec (.rdmaWriteWithImmediate p rkey a imm data) s =
      .next (answer u p.qpn p.psn (packetsOf v.mtu 4096) (if ok = true then ackOk else ackRnr)) := by
  rw [← packetsAt_of h.pair.1, ← hlen]
  change execRdmaWriteWithImmediate p rkey a imm data s = _
  refine atQp_acts h hord fun w hw hsteady => ?_
  rw [steady_owner hsteady, hregion]
  dsimp only
  rw [if_neg (by omega), harrive]

theorem exec_rdmaRead_tooMany (h : AtPair s p k e e1 v) (hord : InOrder s p v) (rkey a len : Nat)
    (hmany : 16 ≤ repliesHeld (heard s p k e e1) p.qpn) : exec (.rdmaRead p rkey a len) s =
      .next (answer (heard s p k e e1) p.qpn p.psn (packetsOf v.mtu len) ackInvalid) := by
  rw [← packetsAt_of h.pair.1]
  change execRdmaRead p rkey a len s = _
  exact atQp_acts h hord fun w hw hsteady => if_pos hmany

theorem exec_rdmaRead_noRegion (h : AtPair s p k e e1 v) (hord : InOrder s p v) {rkey a len : Nat}
    (hfew : repliesHeld (heard s p k e e1) p.qpn < 16) (hlen : len ≠ 0) (hregion : regionFor (heard s p k e e1) v.owner rkey a len 0 = none) :
    exec (.rdmaRead p rkey a len) s = .next (answer (heard s p k e e1) p.qpn p.psn (packetsOf v.mtu len) ackAccess) := by
  rw [← packetsAt_of h.pair.1]
  change execRdmaRead p rkey a len s = _
  refine atQp_acts h hord fun w hw hsteady => ?_
  rw [steady_owner hsteady, readRegion, if_neg (by omega), if_neg hlen, hregion]

theorem exec_rdmaRead_gives (h : AtPair s p k e e1 v) (hord : InOrder s p v) {rkey a len : Nat} {r : Region} {pt : Part} {u : State}
    {l : List Byte} (hfew : repliesHeld (heard s p k e e1) p.qpn < 16) (hlen : len ≠ 0)
    (hregion : regionFor (heard s p k e e1) v.owner rkey a len 0 = some r) (hplain : r.access.testBit 2 = false)
    (hpart : getPart (heard s p k e e1) v.owner = some pt) (hget : getMem (heard s p k e e1) v.owner pt.die a len = (u, l, none)) :
    exec (.rdmaRead p rkey a len) s =
      .next (answer (transmitOn u p.qpn (.reply l)) p.qpn p.psn (packetsOf v.mtu len) ackOk) := by
  rw [← packetsAt_of h.pair.1]
  change execRdmaRead p rkey a len s = _
  refine atQp_acts h hord fun w hw hsteady => ?_
  rw [steady_owner hsteady, readRegion, if_neg (by omega), if_neg hlen, hregion, hpart]
  simp only [hplain, Bool.false_eq_true, if_false, hget]

theorem exec_digestList_lists (h : AtPair s p k e e1 v) (hord : InOrder s p v) {data : List Byte}
    (howner : v.owner = (getBucket (heard s p k e e1) (numAt data 0 2 % 1024)).part) :
    exec (.digestList p data) s =
      .next (answer (listArrival (heard s p k e e1) v.owner data) p.qpn p.psn (packetsOf v.mtu data.length) ackOk) := by
  rw [← packetsAt_of h.pair.1]
  change execDigestList p data s = _
  refine atQp_acts h hord fun w hw hsteady => ?_
  rw [steady_owner hsteady, ← howner]
  exact congrArg (·, ackOk) (if_pos rfl)

end Requests

/-! ### Answers to the device's own packets (R370 to R373, R398) -/

section Replies

variable {s : State} {p : Packet} {k : Nat} {e e1 : AddrEntry} {v : Qp}

theorem atPair_reached (act : State → Qp → State) (h : AtPair s p k e e1 v) : atPair p s act = .next (act (heard s p k e e1) v) := by
  refine onFrame_next h.frame.port.1 ?_
  obtain ⟨hport, hentry⟩ := h.owner
  simp only [acceptFrame_accepted h.frame, getQp_took, h.pair.1, h.pair.2, hport, hentry, ne_eq, not_true_eq_false, or_self,
    Bool.false_eq_true, if_false]
  rfl

theorem exec_rdmaAck_acks (h : AtPair s p k e e1 v) {sy : Nat} (hsy : sy / 32 % 4 = 0) :
    exec (.rdmaAck p sy) s = .next (startWaiting (flushEvents (ackUpTo (heard s p k e e1) p.qpn p.psn) p.qpn)) := by
  change execRdmaAck p sy s = _
  rw [execRdmaAck, atPair_reached _ h]
  dsimp only
  rw [if_pos hsy]

theorem exec_rdmaAck_rnr (h : AtPair s p k e e1 v) {sy : Nat} (hsy : sy / 32 % 4 = 1) (hout : v.outstanding ≠ [])
    (htry : v.rnr = 7 ∨ v.rnrTries < v.rnr) : exec (.rdmaAck p sy) s =
      .next (startWaiting (modQp (heard s p k e e1) p.qpn (fun v => { v with rnrTries := v.rnrTries + 1, rnrWait := true }))) := by
  change execRdmaAck p sy s = _
  rw [execRdmaAck, atPair_reached _ h]
  dsimp only
  rw [if_neg (by omega), if_neg hout, if_pos hsy, if_neg (by omega)]

theorem exec_rdmaAck_nak (h : AtPair s p k e e1 v) {sy : Nat} (hsy : sy / 32 % 4 = 3) (hcode : sy % 32 ≠ 0) (hout : v.outstanding ≠ []) :
    exec (.rdmaAck p sy) s = .next (startWaiting (qpError (heard s p k e e1) p.qpn)) := by
  change execRdmaAck p sy s = _
  rw [execRdmaAck, atPair_reached _ h]
  dsimp only
  rw [if_neg (by omega), if_neg hout, if_neg (by omega), if_pos hsy, if_neg hcode]

theorem exec_rdmaReadResponse_none (h : AtPair s p k e e1 v) (data : List Byte) (hnone : v.outstanding.find? (fun o => o.kind == 2) = none) :
    exec (.rdmaReadResponse p data) s = .next (heard s p k e e1) := by
  change execRdmaReadResponse p data s = _
  rw [execRdmaReadResponse, atPair_reached _ h, hnone]

/-- The pair of a READ whose last bytes have come. -/
def readEnds (fab : Nat) (o : OutMsg) (w : Qp) : Qp :=
  { w with retries := 0, sentAt := fab, outstanding := w.outstanding.filter (fun x => !(x.kind == 2 && x.psn == o.psn)) }

/-- The read in hand leaves the list, and no other message does. -/
theorem filterMap_readEnds (o : OutMsg) (data : List Byte) (hwhole : o.data.length + data.length = o.len) (l : List OutMsg) :
    l.filterMap (fun x => if x.kind == 2 && x.psn == o.psn then
        (if o.data.length + data.length = o.len then none else some { x with data := x.data ++ data }) else some x) =
      l.filter (fun x => !(x.kind == 2 && x.psn == o.psn)) := by
  induction l with
  | nil => rfl
  | cons x l ih =>
    rw [List.filterMap_cons, List.filter_cons, ih]
    cases x.kind == 2 && x.psn == o.psn
    · rfl
    · simp only [if_pos hwhole, if_true, Bool.not_true, Bool.false_eq_true, if_false]

theorem exec_rdmaReadResponse_last (h : AtPair s p k e e1 v) {data : List Byte} {o : OutMsg} {c : Cmd} {u : State}
    (hread : v.outstanding.find? (fun o => o.kind == 2) = some o) (hfirst : o.psn = 0)
    (hpsn : p.psn % 2 ^ 24 = o.data.length / mtuBytes v.mtu % 2 ^ 24) (hwhole : o.data.length + data.length = o.len)
    (hu : u = laterNow (modQp (heard s p k e e1) p.qpn (readEnds (heard s p k e e1).fab o)) p.qpn)
    (hcmd : u.cmds.find? (fun c => c.m.qpn == p.qpn && c.m.tag == o.job && c.stage == 0 && c.want != 0) = some c) :
    exec (.rdmaReadResponse p data) s = .next (startWaiting (settleCmd c (fetched u c.m o.data data))) := by
  change execRdmaReadResponse p data s = _
  have hgood : ¬ (p.psn % 2 ^ 24 ≠ (o.psn + o.data.length / mtuBytes v.mtu) % 2 ^ 24 ∨ o.data.length + data.length > o.len) := by
    rw [hfirst, Nat.zero_add, hpsn, hwhole]
    simp
  rw [execRdmaReadResponse, atPair_reached _ h, hread]
  dsimp only
  rw [if_neg hgood, if_pos hfirst]
  simp only [filterMap_readEnds o data hwhole]
  unfold readEnds at hu
  rw [← hu, hcmd]

end Replies

/-! ### Timers and the rate (R371, R373, R374) -/

section Timers

variable {s : State} {q : Nat} {v : Qp}

/-- A change of a pair that is there. -/
theorem modQp_of_getQp (hpair : getQp s q = some v) (f : Qp → Qp) : modQp s q f = setQp s q (some (f v)) := by
  have hget : tget none s.qps q = some v := hpair
  rw [modQp, tmod, hget, Option.map_some, setQp]

theorem exec_localAckTimeout_of (hpair : getQp s q = some v) (hgood : v.error = false) (hout : v.outstanding ≠ []) (hwait : v.rnrWait = false)
    (hlate : 10 * (s.fab - v.sentAt) ≥ 73728 * 2 ^ v.timeout) : exec (.localAckTimeout q) s = .next (startWaiting (retry s q v)) := by
  refine congrArg Host.Outcome.next ?_
  rw [hpair]
  dsimp only
  rw [if_neg]
  simp only [hgood, hwait, Bool.false_eq_true, false_or, not_or]
  exact ⟨hout, by omega⟩

theorem exec_rnrRetryTimer_resends (hpair : getQp s q = some v) (hgood : v.error = false) (hwait : v.rnrWait = true) :
    exec (.rnrRetryTimer q) s = .next (flushEvents (resend (setQp s q (some { v with rnrWait := false })) q) q) := by
  refine congrArg Host.Outcome.next ?_
  rw [hpair]
  dsimp only
  rw [if_neg (by simp [hgood, hwait]), modQp_of_getQp hpair]

theorem exec_cnp_slows (hpair : getQp s q = some v) (hup : pairUp s v = true) :
    exec (.cnp q) s = .next (setQp s q (some { v with rate := max (v.rate * 7 / 8) 256, quiet := 0, quietFrom := s.fab })) := by
  refine congrArg Host.Outcome.next ?_
  rw [modQp_of_getQp hpair, if_pos hup]

/-- What the rate timer makes of a pair. -/
theorem exec_cnpRateTimer_of (hpair : getQp s q = some v) : exec (.cnpRateTimer q) s = .next (setQp s q (some (
    if s.fab < v.quietFrom + usCycles 55 then v
    else { v with quiet := v.quiet + 1, quietFrom := s.fab,
                  rate := if v.quiet + 1 ≤ 5 then v.rate + (65536 - v.rate) / 2 else min (v.rate + 1024) 65536 }))) := by
  refine congrArg Host.Outcome.next ?_
  rw [modQp_of_getQp hpair]

end Timers

/-- Settles O56, row by row. The sequence NAK, the renewed acknowledgement of a duplicate, the pair error on an access NAK and the retries are
those of log 42 and log 52. -/
theorem roceMessages : Obligations.RoceMessages := by
  refine ⟨?_, ?_, ?_⟩
  · rintro s p k e e1 v t h rfl
    refine ⟨fun hord => ⟨fun data => exec_roceSend_noBuffer h hord data, fun data w hmbx hw => ?_,
        fun data a len core sync rest w pt u1 u2 hw hmbx hrecvs _ => exec_roceSend_placed h hord hw hmbx hrecvs,
        fun rkey a data r pt u => exec_rdmaWrite_stores h hord, fun rkey a data => exec_rdmaWrite_noRegion h hord,
        fun rkey a imm data r u ok => exec_rdmaWriteWithImmediate_tile h hord, exec_rdmaRead_tooMany h hord,
        fun rkey a len => exec_rdmaRead_noRegion h hord, fun rkey a len r pt u l => exec_rdmaRead_gives h hord,
        fun data => exec_digestList_lists h hord⟩,
      fun rkey a data => exec_rdmaWrite_repeated h rkey a data,
      fun rkey a data => exec_rdmaWrite_later h rkey a data, fun sy => exec_rdmaAck_acks h, fun sy => exec_rdmaAck_rnr h,
      fun sy => exec_rdmaAck_nak h, exec_rdmaReadResponse_none h, fun data o c u => exec_rdmaReadResponse_last h⟩
    have hsend := exec_roceSend_mailbox h hord data hmbx hw
    refine ⟨fun hfull => ?_, fun hroom hup => ?_, fun hroom hdown => ?_⟩
    · rw [hsend, mailboxSend, if_pos hfull]
    · rw [hsend, mailboxSend, if_neg (by omega), if_pos ((heard_keeps State.ouvosUp (fun _ _ _ _ => rfl) ..).trans hup)]
    · have hstill : (heard s p k e e1).ouvosUp = false := (heard_keeps State.ouvosUp (fun _ _ _ _ => rfl) ..).trans hdown
      rw [hsend, mailboxSend, if_neg (by omega), if_neg (by simp [hstill])]
  · intro s q v hpair hgood
    refine ⟨fun hout hwait hlate => ⟨fun htry => ?_, fun htry => ?_⟩, exec_rnrRetryTimer_resends hpair hgood⟩
    · rw [exec_localAckTimeout_of hpair hgood hout hwait hlate, retry, if_neg (by omega), modQp_of_getQp hpair]
    · rw [exec_localAckTimeout_of hpair hgood hout hwait hlate, retry, if_pos (by omega)]
  · intro s q v hpair
    have htimer := exec_cnpRateTimer_of hpair
    refine ⟨exec_cnp_slows hpair, fun hearly => ?_, fun hdue => ⟨fun hfew => ?_, fun hmany => ?_⟩⟩
    · rw [htimer, if_pos hearly]
    · rw [htimer, if_neg (by omega), if_pos (by omega)]
    · rw [htimer, if_neg (by omega), if_neg (by omega)]

end Sys2Proof.Machine
end

section
/-! SUPPORT. The meter's measurement: groups, taps and lines read back, samples, tap frames and what they book, the Ballast, records
(R446 to R460). -/

namespace Sys2Proof.Machine

/-! ### Reading back -/

theorem getGroup_setGroup (m : Meter) (g j : Nat) (v : Group) : getGroup (setGroup m g v) j = if j = g then v else getGroup m j := tget_tset ..
@[simp] theorem getGroup_setGroup_same (m : Meter) (g : Nat) (v : Group) : getGroup (setGroup m g v) g = v := tget_tset_same ..
theorem getTap_setTap (m : Meter) (k j : Nat) (v : Tap) : getTap (setTap m k v) j = if j = k then v else getTap m j := tget_tset ..
@[simp] theorem getTap_setTap_same (m : Meter) (k : Nat) (v : Tap) : getTap (setTap m k v) k = v := tget_tset_same ..
@[simp] theorem getLine_modLine_same (m : Meter) (p : Nat) (f : Line → Line) : getLine (modLine m p f) p = f (getLine m p) := tget_tmod_same ..
theorem getLine_modLine_other (m : Meter) {p j : Nat} (f : Line → Line) (h : j ≠ p) : getLine (modLine m p f) j = getLine m j :=
  tget_tmod_other _ _ f h

/-! ### Samples (R446, R452) -/

/-- The meter without its lines and the HBM4 bytes in hand. -/
def unlined (m : Meter) : Meter := { m with lines := [], hbmRecent := [] }

/-- The division of the HBM4 energy changes the lines, the bytes in hand and what G4 has yet to divide. -/
theorem divideHbm_eq (m : Meter) : unlined (divideHbm m) =
    unlined (setGroup m 4 { getGroup m 4 with sample := 0 }) := by
  unfold divideHbm
  dsimp only
  split
  · rfl
  · rw [foldl_keeps unlined]
    · rfl
    · intro m e
      split <;> rfl

theorem divideHbm_groups (m : Meter) : (divideHbm m).groups = (setGroup m 4 { getGroup m 4 with sample := 0 }).groups :=
  (congrArg Meter.groups (divideHbm_eq m) :)
theorem divideHbm_time (m : Meter) : (divideHbm m).time = m.time := (congrArg Meter.time (divideHbm_eq m) :)
theorem divideHbm_up (m : Meter) : (divideHbm m).up = m.up := (congrArg Meter.up (divideHbm_eq m) :)
theorem divideHbm_total (m : Meter) : (divideHbm m).total = m.total := (congrArg Meter.total (divideHbm_eq m) :)

/-- It leaves a group as it is, but for G4's energy yet to divide. -/
theorem getGroup_divideHbm (m : Meter) (g : Nat) : ∃ n, (g ≠ 4 → n = (getGroup m g).sample) ∧
    getGroup (divideHbm m) g = { getGroup m g with sample := n } := by
  have h : getGroup (divideHbm m) g = getGroup (setGroup m 4 { getGroup m 4 with sample := 0 }) g :=
    (congrArg (fun t : Tbl Group => tget ({} : Group) t g) (divideHbm_groups m) :)
  rw [h, getGroup_setGroup]
  split
  · next hg => exact ⟨0, fun hne => absurd hg hne, by rw [hg]⟩
  · exact ⟨(getGroup m g).sample, fun _ => rfl, rfl⟩

/-- Energy of a group in a sample. -/
def sampleEnergy (s : State) (volts amps : List Nat) (g : Nat) : Nat :=
  if groupFitted s g = true ∧ g < volts.length ∧ g < amps.length then 4 * volts.getD g 0 * amps.getD g 0 else 0

/-- One group of a sample, where it is fitted. -/
def sampleStep (s : State) (volts amps : List Nat) (m : Meter) (g : Nat) : Meter :=
  if groupFitted s g then sampleGroup m g volts[g]? amps[g]? else m

section
variable (s : State) (volts amps : List Nat) (m : Meter) (g : Nat)

/-- Both readings are there, or one is missing. -/
theorem sampleGroup_cases : (∃ v i, volts[g]? = some v ∧ amps[g]? = some i ∧ g < volts.length ∧ g < amps.length ∧ volts.getD g 0 = v ∧
    amps.getD g 0 = i) ∨ (¬ (g < volts.length ∧ g < amps.length) ∧
    sampleGroup m g volts[g]? amps[g]? = setGroup m g { getGroup m g with sense := true, sensed := true }) := by
  by_cases hv : g < volts.length
  · by_cases ha : g < amps.length
    · exact .inl ⟨volts[g], amps[g], by simp [hv, ha]⟩
    · exact .inr ⟨fun h => ha h.2, by simp [sampleGroup, List.getElem?_eq_none (Nat.not_lt.mp ha)]⟩
  · exact .inr ⟨fun h => hv h.1, by simp [sampleGroup, List.getElem?_eq_none (Nat.not_lt.mp hv)]⟩

/-- A group's step changes that group and the total. -/
theorem sampleStep_keeps : { sampleStep s volts amps m g with groups := [], total := 0 } = { m with groups := [], total := 0 } := by
  unfold sampleStep
  split
  · unfold sampleGroup
    dsimp only
    split <;> rfl
  · rfl

theorem getGroup_sampleStep_other {j : Nat} (h : j ≠ g) : getGroup (sampleStep s volts amps m g) j = getGroup m j := by
  unfold sampleStep
  split
  · unfold sampleGroup
    dsimp only
    split <;> exact tget_tset_other _ _ _ h
  · rfl

theorem total_sampleStep : (sampleStep s volts amps m g).total = m.total + sampleEnergy s volts amps g := by
  unfold sampleStep sampleEnergy
  by_cases hf : groupFitted s g = true
  · rw [if_pos hf]
    rcases sampleGroup_cases volts amps m g with ⟨v, i, hv, hi, hlv, hli, hgv, hgi⟩ | ⟨hno, heq⟩
    · rw [hv, hi, if_pos ⟨hf, hlv, hli⟩, hgv, hgi]; rfl
    · rw [heq, if_neg fun h => hno h.2]; rfl
  · rw [if_neg hf, if_neg fun h => hf h.1]; rfl

theorem total_samples (l : List Nat) : (l.foldl (sampleStep s volts amps) m).total = m.total + (l.map (sampleEnergy s volts amps)).sum := by
  induction l generalizing m with
  | nil => rfl
  | cons g l ih => rw [List.foldl_cons, ih, total_sampleStep, List.map_cons, List.sum_cons, Nat.add_assoc]

/-- After the eight groups a group stands as its own step leaves it. -/
theorem getGroup_samples {g : Nat} (hg : g < 8) : ∃ t, getGroup t g = getGroup m g ∧
    getGroup ((List.range 8).foldl (sampleStep s volts amps) m) g = getGroup (sampleStep s volts amps t g) g := by
  obtain ⟨t, -, ht, he⟩ := foldl_eq_at (f := sampleStep s volts amps) (n := g) (List.mem_range.mpr hg) List.nodup_range
    (fun m => getGroup m g) (fun _ => ()) (fun m j hj => getGroup_sampleStep_other s volts amps m j (Ne.symm hj)) (fun _ _ => rfl) m
  exact ⟨t, ht, he⟩

/-- What a sample's own step says of its group. -/
theorem getGroup_sampleStep_same : let x := getGroup (sampleStep s volts amps m g) g
    (groupFitted s g = false → x = getGroup m g) ∧
    (groupFitted s g = true → g < volts.length → g < amps.length →
      x.energy = (getGroup m g).energy + 4 * volts.getD g 0 * amps.getD g 0 ∧ x.sense = false ∧
      x.vmin = min (getGroup m g).vmin (volts.getD g 0) ∧ x.imax = max (getGroup m g).imax (amps.getD g 0)) ∧
    (groupFitted s g = true → volts.length ≤ g → x.sense = true ∧ x.energy = (getGroup m g).energy) := by
  refine ⟨fun hf => ?_, fun hf hv ha => ?_, fun hf hv => ?_⟩
  · rw [sampleStep, if_neg (by simp [hf])]
  · have hstep : sampleStep s volts amps m g = sampleGroup m g (some (volts.getD g 0)) (some (amps.getD g 0)) := by
      simp [sampleStep, hf, hv, ha]
    rw [hstep]
    unfold sampleGroup
    dsimp only
    refine ⟨?_, ?_, ?_, ?_⟩ <;> simp [getGroup, setGroup]
  · have hstep : sampleStep s volts amps m g = setGroup m g { getGroup m g with sense := true, sensed := true } := by
      simp [sampleStep, hf, sampleGroup, List.getElem?_eq_none hv]
    rw [hstep, getGroup_setGroup_same]
    exact ⟨rfl, rfl⟩

end

/-- Meter after a sample, before the division. -/
def sampled (s : State) (volts amps : List Nat) : Meter :=
  let m := (List.range 8).foldl (sampleStep s volts amps) s.meter
  { m with time := m.time + 4, up := m.up + 4 }

/-- A sample's outcome: the shown total is renewed with each whole second. -/
theorem exec_meterSample (s : State) (volts amps : List Nat) (hruns : meterRuns s.meter = true) :
    ∃ n, exec (.meterSample volts amps) s = .next { s with meter := { divideHbm (sampled s volts amps) with shown := n } } := by
  change ∃ n, execMeterSample volts amps s = _
  unfold execMeterSample
  rw [if_pos hruns]
  dsimp only
  split
  · exact ⟨(divideHbm (sampled s volts amps)).shown, rfl⟩
  · exact ⟨microJ (divideHbm (sampled s volts amps)).total, rfl⟩

theorem sampled_time (s : State) (volts amps : List Nat) : (sampled s volts amps).time = s.meter.time + 4 ∧
    (sampled s volts amps).up = s.meter.up + 4 := by
  have h := foldl_keeps (f := sampleStep s volts amps) (fun m => { m with groups := [], total := 0 }) (sampleStep_keeps s volts amps) (List.range 8) s.meter
  exact ⟨(congrArg (fun m : Meter => m.time + 4) h :), (congrArg (fun m : Meter => m.up + 4) h :)⟩

/-! ### What the data plane counts (R24, R448) -/

/-- A device without what its data plane counts for the taps. -/
def uncounted (s : State) : State := { s with tapCount := [], hbmMoved := [] }

/-- The counts that a frame follows leave the rest of the device: the meter, the fences and the turn of the HBM4 counters among it. -/
theorem countTaps_keeps (s : State) (die : Nat) (charge cycles withdrawn inPlace : List Nat) :
    uncounted (countTaps s die charge cycles withdrawn inPlace) = uncounted s := by
  unfold countTaps
  refine foldl_keeps uncounted (fun _ _ => ?_) _ s
  rfl

theorem countOther_keeps (s : State) (die : Nat) (other : List Nat) : uncounted (countOther s die other) = uncounted s := by
  unfold countOther
  refine foldl_keeps uncounted (fun _ _ => ?_) _ s
  rfl

theorem tapCount_countOther (s : State) (die : Nat) (other : List Nat) : (countOther s die other).tapCount = s.tapCount := by
  unfold countOther
  refine foldl_keeps State.tapCount (fun _ _ => ?_) _ s
  rfl

theorem hbmMoved_countTaps (s : State) (die : Nat) (charge cycles withdrawn inPlace : List Nat) :
    (countTaps s die charge cycles withdrawn inPlace).hbmMoved = s.hbmMoved := by
  unfold countTaps
  refine foldl_keeps State.hbmMoved (fun _ _ => ?_) _ s
  rfl

theorem tapCount_countTaps (s : State) (die : Nat) (charge cycles withdrawn inPlace : List Nat) {i : Nat} (hi : i < 16) :
    tget {} (countTaps s die charge cycles withdrawn inPlace).tapCount (16 * die + i) =
      { charge := ((tget {} s.tapCount (16 * die + i)).charge + charge.getD i 0) % 2 ^ 48,
        cycles := ((tget {} s.tapCount (16 * die + i)).cycles + cycles.getD i 0) % 2 ^ 48,
        sounding := ((tget {} s.tapCount (16 * die + i)).sounding + (withdrawn.getD i 0 + inPlace.getD i 0)) % 2 ^ 40 } := by
  obtain ⟨t, -, ht, he⟩ := foldl_eq_at
    (f := fun s i => countTap s (16 * die + i) (charge.getD i 0) (cycles.getD i 0) (withdrawn.getD i 0 + inPlace.getD i 0))
    (List.mem_range.mpr hi) List.nodup_range (fun s => tget {} s.tapCount (16 * die + i)) (fun _ => ())
    (fun s j hj => tget_tset_other _ _ _ (by omega)) (fun _ _ => rfl) s
  refine (show _ = _ from he).trans ((tget_tset_same ..).trans ?_)
  rw [show tget {} t.tapCount _ = _ from ht]

/-- One controller's own bytes. -/
def countController (die : Nat) (other : List Nat) (s : State) (i : Nat) : State :=
  let k := 65 * (2 * die + i) + 64
  { s with hbmMoved := tset 0 s.hbmMoved k ((tget 0 s.hbmMoved k + other.getD i 0) % 2 ^ 48) }

theorem hbmMoved_countOther (s : State) (die : Nat) (other : List Nat) {i : Nat} (hi : i < 2) :
    tget 0 (countOther s die other).hbmMoved (65 * (2 * die + i) + 64) =
      (tget 0 s.hbmMoved (65 * (2 * die + i) + 64) + other.getD i 0) % 2 ^ 48 := by
  obtain ⟨t, -, ht, he⟩ := foldl_eq_at (f := countController die other) (List.mem_range.mpr hi) List.nodup_range
    (fun s : State => tget 0 s.hbmMoved (65 * (2 * die + i) + 64)) (fun _ => ())
    (fun s j hj => tget_tset_other _ _ _ (by omega)) (fun _ _ => rfl) s
  refine (show _ = _ from he).trans ((tget_tset_same ..).trans ?_)
  rw [show tget 0 t.hbmMoved _ = _ from ht]

/-! ### What a frame books (R449, R452) -/

/-- Booking changes lines. -/
theorem bookCluster_keeps (dt cap sum volts : Nat) (late : Bool) (m : Meter) (x : TapStep) :
    unlined (bookCluster dt cap sum volts late m x) = unlined m := by
  unfold bookCluster
  dsimp only
  split <;> rfl

theorem bookClusters_keeps (dt cap sum volts : Nat) (late : Bool) (l : List TapStep) (m : Meter) :
    unlined (l.foldl (bookCluster dt cap sum volts late) m) = unlined m :=
  foldl_keeps unlined (bookCluster_keeps dt cap sum volts late) l m

/-- A step of one cluster adds its time and its share to the line that it is booked to. -/
theorem getLine_bookCluster (dt cap sum volts : Nat) (late : Bool) {m m0 : Meter} (x : TapStep) (hm : unlined m = unlined m0) {p : Nat}
    (hp : p < 64) :
    (getLine (bookCluster dt cap sum volts late m x) p).time = (getLine m p).time + tapTime m0 dt p x ∧
    (getLine (bookCluster dt cap sum volts late m x) p).energy =
      (getLine m p).energy + if late then 0 else tapShare m0 dt cap sum volts p x := by
  have htap : getTap m0 x.key = getTap m x.key := (congrArg (fun m => getTap m x.key) hm.symm :)
  have hload : ∀ t, loadTime m0 t = loadTime m t := fun t => (congrArg (fun m => loadTime m t) hm.symm :)
  have ho : p ≠ overheadLine := Nat.ne_of_lt hp
  unfold bookCluster tapTime tapShare
  dsimp only
  rw [htap, hload]
  by_cases hpart : x.label % 4 = 1 ∧ (dt < 16 ∨ (getTap m x.key).label = x.label)
  · obtain ⟨hstate, hlabel⟩ := hpart
    rw [if_pos (c := x.label % 4 = 1 ∧ _) ⟨hstate, hlabel⟩]
    by_cases hx : x.label / 4 % 64 = p
    · have hall : x.label % 4 = 1 ∧ x.label / 4 % 64 = p ∧ (dt < 16 ∨ (getTap m x.key).label = x.label) := ⟨hstate, hx, hlabel⟩
      rw [if_pos hall, if_pos hall, hx, getLine_modLine_same, getLine_modLine_other _ _ ho]
      exact ⟨rfl, rfl⟩
    · have hno : ¬ (x.label % 4 = 1 ∧ x.label / 4 % 64 = p ∧ (dt < 16 ∨ (getTap m x.key).label = x.label)) := fun h => hx h.2.1
      rw [if_neg hno, if_neg hno, getLine_modLine_other _ _ (Ne.symm hx), getLine_modLine_other _ _ ho, ite_self]
      exact ⟨rfl, rfl⟩
  · have hno : ¬ (x.label % 4 = 1 ∧ x.label / 4 % 64 = p ∧ (dt < 16 ∨ (getTap m x.key).label = x.label)) := fun h => hpart ⟨h.1, h.2.2⟩
    rw [if_neg hpart, if_neg hno, if_neg hno, getLine_modLine_other _ _ ho, getLine_modLine_other _ _ ho, ite_self]
    exact ⟨rfl, rfl⟩

/-- Over the clusters of a frame times and shares add up. -/
theorem getLine_bookClusters (dt cap sum volts : Nat) (late : Bool) (m0 : Meter) {p : Nat} (hp : p < 64) (l : List TapStep) (m : Meter)
    (hm : unlined m = unlined m0) :
    (getLine (l.foldl (bookCluster dt cap sum volts late) m) p).time = (getLine m p).time + (l.map (tapTime m0 dt p)).sum ∧
    (getLine (l.foldl (bookCluster dt cap sum volts late) m) p).energy =
      (getLine m p).energy + if late then 0 else (l.map (tapShare m0 dt cap sum volts p)).sum := by
  induction l generalizing m with
  | nil => exact ⟨rfl, by cases late <;> rfl⟩
  | cons x l ih =>
    obtain ⟨htime, henergy⟩ := getLine_bookCluster dt cap sum volts late x hm hp
    obtain ⟨htimes, henergies⟩ := ih (bookCluster dt cap sum volts late m x) ((bookCluster_keeps ..).trans hm)
    rw [List.foldl_cons, htimes, henergies, htime, henergy, List.map_cons, List.map_cons, List.sum_cons, List.sum_cons]
    refine ⟨Nat.add_assoc .., ?_⟩
    cases late
    · exact Nat.add_assoc ..
    · rfl

/-! ### What a frame leaves of a meter -/

/-- A meter without its lines and sessions. -/
def unsessioned (m : Meter) : Meter := { m with lines := [], sessions := [] }
/-- A meter without its taps. -/
def untapped (m : Meter) : Meter := { m with taps := [] }
/-- A meter without its HBM4 bytes. -/
def unmoved (m : Meter) : Meter := { m with hbmBytes := [], hbmRecent := [] }
/-- A meter without what a frame books and carries. -/
def unframed (m : Meter) : Meter := { m with lines := [], sessions := [], taps := [], hbmBytes := [], hbmRecent := [] }

section
variable {m n : Meter}

theorem unframed_of_unlined (h : unlined m = unlined n) : unframed m = unframed n := (congrArg unframed h :)
theorem unframed_of_unsessioned (h : unsessioned m = unsessioned n) : unframed m = unframed n := (congrArg unframed h :)
theorem unframed_of_untapped (h : untapped m = untapped n) : unframed m = unframed n := (congrArg unframed h :)
theorem unframed_of_unmoved (h : unmoved m = unmoved n) : unframed m = unframed n := (congrArg unframed h :)
theorem getLine_of_untapped (h : untapped m = untapped n) (p : Nat) : getLine m p = getLine n p := (congrArg (getLine · p) h :)
theorem getLine_of_unmoved (h : unmoved m = unmoved n) (p : Nat) : getLine m p = getLine n p := (congrArg (getLine · p) h :)
theorem getTap_of_unsessioned (h : unsessioned m = unsessioned n) (k : Nat) : getTap m k = getTap n k := (congrArg (getTap · k) h :)
theorem getTap_of_unmoved (h : unmoved m = unmoved n) (k : Nat) : getTap m k = getTap n k := (congrArg (getTap · k) h :)
theorem hbmBytes_of_unsessioned (h : unsessioned m = unsessioned n) : m.hbmBytes = n.hbmBytes := (congrArg Meter.hbmBytes h :)
theorem hbmBytes_of_untapped (h : untapped m = untapped n) : m.hbmBytes = n.hbmBytes := (congrArg Meter.hbmBytes h :)
theorem hbmBytes_of_unlined (h : unlined m = unlined n) : m.hbmBytes = n.hbmBytes := (congrArg Meter.hbmBytes h :)

end

/-- A line changed in neither time nor energy. -/
theorem getLine_modLine_counts (m : Meter) (q p : Nat) (f : Line → Line) (hf : ∀ l, (f l).time = l.time ∧ (f l).energy = l.energy) :
    ((getLine (modLine m q f) p).time, (getLine (modLine m q f) p).energy) = ((getLine m p).time, (getLine m p).energy) := by
  by_cases hq : p = q
  · rw [hq, getLine_modLine_same, (hf _).1, (hf _).2]
  · rw [getLine_modLine_other _ _ hq]

/-- Sessions begin and end without a line's time or energy. -/
theorem sessionsStep_line (m m1 : Meter) (p : Nat) : (getLine (sessionsStep m m1) p).time = (getLine m1 p).time ∧
    (getLine (sessionsStep m m1) p).energy = (getLine m1 p).energy := by
  refine Prod.mk.inj ?_
  unfold sessionsStep
  refine foldl_keeps (fun x => ((getLine x p).time, (getLine x p).energy)) (fun x q => ?_) partIds m1
  dsimp only
  split
  · exact getLine_modLine_counts x q p (fun l => { l with began := true, inUse := true }) fun _ => ⟨rfl, rfl⟩
  · split
    · exact getLine_modLine_counts x q p (fun l => { l with ended := true }) fun _ => ⟨rfl, rfl⟩
    · rfl

theorem sessionsStep_keeps (m m1 : Meter) : unsessioned (sessionsStep m m1) = unsessioned m1 := by
  unfold sessionsStep
  refine foldl_keeps unsessioned (fun x p => ?_) _ m1
  dsimp only
  split
  · rfl
  · split <;> rfl

/-- The clusters of a frame booked. -/
def bookedFrame (s : State) (die : Nat) : Meter :=
  let m := s.meter
  let g := getGroup m die
  let steps := (List.range 16).map (fun i => tapStep s (16 * die + i))
  if tget false m.tapSeen die then
    steps.foldl (bookCluster (m.up - tget 0 m.tapLast die) g.sample (steps.map (fun x => x.energy)).sum g.volts (tapSilent m die)) m
  else m

/-- What the frame says of the clusters kept. -/
def keptFrame (s : State) (die : Nat) : Meter := ((List.range 16).map (fun i => tapStep s (16 * die + i))).foldl (keepTap s) (bookedFrame s die)

/-- The frame's HBM4 counters taken. -/
def takenFrame (s : State) (die turn : Nat) : Meter :=
  [65 * (2 * die) + turn, 65 * (2 * die + 1) + turn].foldl
    (takeHbm s (tget false s.meter.tapSeen die && !tapSilent s.meter die)) (keptFrame s die)

/-- The die's group divided and its tap seen. -/
def seenFrame (m : Meter) (die up : Nat) (late : Bool) : Meter :=
  let m3 := setGroup m die { getGroup m die with sample := 0 }
  { m3 with tapLast := tset 0 m3.tapLast die up, tapSeen := tset false m3.tapSeen die true, tapFault := m3.tapFault || late,
            tapFlag := m3.tapFlag || late }

theorem bookFrame_eq (s : State) (die turn : Nat) : bookFrame s die turn =
    sessionsStep s.meter (seenFrame (takenFrame s die turn) die s.meter.up (tapSilent s.meter die)) := rfl

theorem bookedFrame_keeps (s : State) (die : Nat) : unlined (bookedFrame s die) = unlined s.meter := by
  unfold bookedFrame
  dsimp only
  split
  · exact bookClusters_keeps ..
  · rfl

theorem keptFrame_keeps (s : State) (die : Nat) : untapped (keptFrame s die) = untapped (bookedFrame s die) := by
  unfold keptFrame
  refine foldl_keeps untapped (fun _ _ => ?_) _ _
  rfl

theorem takeHbm_keeps (s : State) (book : Bool) (m : Meter) (k : Nat) : unmoved (takeHbm s book m k) = unmoved m := by
  unfold takeHbm
  dsimp only
  split <;> rfl

theorem takenFrame_keeps (s : State) (die turn : Nat) : unmoved (takenFrame s die turn) = unmoved (keptFrame s die) :=
  foldl_keeps unmoved (takeHbm_keeps s _) _ _

theorem unframed_seenFrame {m n : Meter} (die up : Nat) (late : Bool) (h : unframed m = unframed n) :
    unframed (seenFrame m die up late) = unframed (seenFrame n die up late) := (congrArg (fun m => unframed (seenFrame m die up late)) h :)

/-- All but lines, sessions, taps and HBM4 bytes is as the frame's arrival sets it. -/
theorem bookFrame_keeps (s : State) (die turn : Nat) : unframed (bookFrame s die turn) =
    unframed (seenFrame s.meter die s.meter.up (tapSilent s.meter die)) := by
  refine (unframed_of_unsessioned (sessionsStep_keeps ..)).trans (unframed_seenFrame _ _ _ ?_)
  calc unframed (takenFrame s die turn)
      _ = unframed (keptFrame s die) := unframed_of_unmoved (takenFrame_keeps ..)
      _ = unframed (bookedFrame s die) := unframed_of_untapped (keptFrame_keeps ..)
      _ = unframed s.meter := unframed_of_unlined (bookedFrame_keeps ..)

theorem getLine_bookFrame (s : State) (die turn p : Nat) : (getLine (bookFrame s die turn) p).time = (getLine (bookedFrame s die) p).time ∧
    (getLine (bookFrame s die turn) p).energy = (getLine (bookedFrame s die) p).energy := by
  have htaken : getLine (seenFrame (takenFrame s die turn) die s.meter.up (tapSilent s.meter die)) p = getLine (bookedFrame s die) p :=
    (getLine_of_unmoved (takenFrame_keeps s die turn) p).trans (getLine_of_untapped (keptFrame_keeps s die) p)
  rw [bookFrame_eq, ← htaken]
  exact sessionsStep_line ..

theorem getTap_bookFrame (s : State) (die turn : Nat) {i : Nat} (hi : i < 16) :
    (getTap (bookFrame s die turn) (16 * die + i)).charge = (tget {} s.tapCount (16 * die + i)).charge ∧
    (getTap (bookFrame s die turn) (16 * die + i)).label = tapLabel s (16 * die + i) := by
  have hkept : getTap (bookFrame s die turn) (16 * die + i) = getTap (keptFrame s die) (16 * die + i) :=
    (getTap_of_unsessioned (sessionsStep_keeps ..) _).trans (getTap_of_unmoved (takenFrame_keeps s die turn) _)
  have hfold : keptFrame s die = (List.range 16).foldl (fun m i => keepTap s m (tapStep s (16 * die + i))) (bookedFrame s die) := List.foldl_map ..
  obtain ⟨t, -, -, he⟩ := foldl_eq_at (f := fun m i => keepTap s m (tapStep s (16 * die + i))) (List.mem_range.mpr hi) List.nodup_range
    (fun m => getTap m (16 * die + i)) (fun _ => ())
    (fun m j hj => (getTap_setTap ..).trans (if_neg (show 16 * die + i ≠ 16 * die + j by omega))) (fun _ _ => rfl) (bookedFrame s die)
  rw [hkept, hfold]
  rw [show getTap _ (16 * die + i) = _ from he, keepTap, show (tapStep s (16 * die + i)).key = 16 * die + i from rfl, getTap_setTap_same]
  exact ⟨rfl, rfl⟩

theorem hbmBytes_takeHbm (s : State) (book : Bool) (m : Meter) (k : Nat) :
    (takeHbm s book m k).hbmBytes = tset 0 m.hbmBytes k (tget 0 s.hbmMoved k) := by
  unfold takeHbm
  dsimp only
  split <;> rfl

theorem hbmBytes_bookFrame (s : State) (die turn k : Nat) : tget 0 (bookFrame s die turn).hbmBytes k =
    if k = 65 * (2 * die) + turn ∨ k = 65 * (2 * die + 1) + turn then tget 0 s.hbmMoved k else tget 0 s.meter.hbmBytes k := by
  have htaken : (bookFrame s die turn).hbmBytes = (takenFrame s die turn).hbmBytes :=
    (hbmBytes_of_unsessioned (sessionsStep_keeps s.meter (seenFrame (takenFrame s die turn) die s.meter.up (tapSilent s.meter die))) :)
  have hkept : (keptFrame s die).hbmBytes = s.meter.hbmBytes :=
    (hbmBytes_of_untapped (keptFrame_keeps s die)).trans (hbmBytes_of_unlined (bookedFrame_keeps s die))
  rw [htaken, takenFrame, List.foldl_cons, List.foldl_cons, List.foldl_nil, hbmBytes_takeHbm, hbmBytes_takeHbm, hkept, tget_tset, tget_tset]
  by_cases h1 : k = 65 * (2 * die + 1) + turn
  · rw [if_pos h1, if_pos (.inr h1), h1]
  · by_cases h0 : k = 65 * (2 * die) + turn
    · rw [if_neg h1, if_pos h0, if_pos (.inl h0), h0]
    · rw [if_neg h1, if_neg h0, if_neg (not_or.mpr ⟨h0, h1⟩)]

/-- A known tap's clusters are booked, each to its line. -/
theorem getLine_bookedFrame (s : State) (die : Nat) (hseen : tget false s.meter.tapSeen die = true) {p : Nat} (hp : p < 64) :
    let m := s.meter
    let dt := m.up - tget 0 m.tapLast die
    let steps := (List.range 16).map (fun i => tapStep s (16 * die + i))
    (getLine (bookedFrame s die) p).time = (getLine m p).time + (steps.map (tapTime m dt p)).sum ∧
    (getLine (bookedFrame s die) p).energy = (getLine m p).energy + if tapSilent m die then 0 else
      (steps.map (tapShare m dt (getGroup m die).sample (steps.map (fun x => x.energy)).sum (getGroup m die).volts p)).sum := by
  unfold bookedFrame
  dsimp only
  rw [if_pos hseen]
  exact getLine_bookClusters _ _ _ _ _ s.meter hp _ s.meter rfl

theorem tapSilent_eq {m : Meter} {die : Nat} (hseen : tget false m.tapSeen die = true) :
    tapSilent m die = decide (100000 < m.up - tget 0 m.tapLast die) := by
  rw [tapSilent, hseen, Bool.true_and]

/-! ### Ballast (R450) -/

/-- A die's loads at a chip boundary. -/
@[irreducible] def chipTaps (damaged : List Nat) (f : Nat) (m : Meter) (d : Nat) : Meter :=
  (List.range 16).foldl (fun m i => chipStep m (16 * d + i) (if damaged.contains d then 0 else f >>> i % 2)) m

/-- One die at a chip boundary. -/
def chipDie (damaged : List Nat) (f : Nat) (m : Meter) (d : Nat) : Meter :=
  { chipTaps damaged f m d with frames := tset 0 (chipTaps damaged f m d).frames d f }

/-- All dies at a chip boundary. -/
@[irreducible] def chipped (s : State) (damaged : List Nat) : Meter :=
  (List.range (dieCount s.product)).foldl (chipDie damaged (ballastFrame s.meter.lfsr s.meter.chip)) s.meter

theorem exec_ballastChip (s : State) (damaged : List Nat) (hruns : meterRuns s.meter = true) : exec (.ballastChip damaged) s =
    .next { s with meter := { chipped s damaged with chip := (chipped s damaged).chip + 1, lfsr := gfStep (chipped s damaged).lfsr } } := by
  change execBallastChip damaged s = _
  unfold execBallastChip chipped chipDie chipTaps
  rw [if_pos hruns]

theorem chipTaps_keeps (damaged : List Nat) (f : Nat) (m : Meter) (d : Nat) : untapped (chipTaps damaged f m d) = untapped m := by
  unfold chipTaps
  refine foldl_keeps untapped (fun _ _ => ?_) _ m
  rfl

/-- A meter without its taps and the frames that it sent. -/
def unchipped (m : Meter) : Meter := { m with taps := [], frames := [] }

theorem unchipped_frames (m : Meter) (t : Tbl Nat) : unchipped { m with frames := t } = unchipped m := rfl
theorem getTap_frames (m : Meter) (t : Tbl Nat) (k : Nat) : getTap { m with frames := t } k = getTap m k := rfl
theorem unchipped_of_untapped {m n : Meter} (h : untapped m = untapped n) : unchipped m = unchipped n := (congrArg unchipped h :)
theorem frames_of_untapped {m n : Meter} (h : untapped m = untapped n) : m.frames = n.frames := (congrArg Meter.frames h :)

theorem chipped_keeps (s : State) (damaged : List Nat) : unchipped (chipped s damaged) = unchipped s.meter := by
  unfold chipped
  refine foldl_keeps unchipped (fun m d => ?_) _ _
  exact (unchipped_frames ..).trans (unchipped_of_untapped (chipTaps_keeps damaged _ m d))

theorem getTap_chipStep_other (m : Meter) {k j : Nat} (b : Nat) (h : j ≠ k) : getTap (chipStep m k b) j = getTap m j := tget_tset_other _ _ _ h

/-- Another die's taps stay. -/
theorem getTap_chipDie_other (damaged : List Nat) (f : Nat) (m : Meter) {d e i : Nat} (hi : i < 16) (h : e ≠ d) :
    getTap (chipDie damaged f m e) (16 * d + i) = getTap m (16 * d + i) := by
  rw [chipDie, getTap_frames]
  unfold chipTaps
  refine foldl_keeps_of_mem (fun m => getTap m (16 * d + i)) (fun j hj m => getTap_chipStep_other m _ ?_) m
  have := List.mem_range.mp hj
  omega

/-- A cluster's load follows the last frame, and the new frame's bit waits. -/
theorem getTap_chipDie_same (damaged : List Nat) (f : Nat) (m : Meter) (d : Nat) {i : Nat} (hi : i < 16) :
    (getTap (chipDie damaged f m d) (16 * d + i)).ballast = (getTap m (16 * d + i)).next ∧
    (getTap (chipDie damaged f m d) (16 * d + i)).next = (!damaged.contains d && f.testBit i) := by
  rw [chipDie, getTap_frames]
  obtain ⟨t, -, ht, he⟩ := foldl_eq_at (f := fun m i => chipStep m (16 * d + i) (if damaged.contains d then 0 else f >>> i % 2))
    (List.mem_range.mpr hi) List.nodup_range (fun m => getTap m (16 * d + i)) (fun _ => ())
    (fun m j hj => getTap_chipStep_other m _ (show 16 * d + i ≠ 16 * d + j by omega)) (fun _ _ => rfl) m
  unfold chipTaps
  rw [show getTap (List.foldl _ _ _) _ = _ from he, chipStep, getTap_setTap_same, show getTap t (16 * d + i) = _ from ht]
  refine ⟨rfl, ?_⟩
  dsimp only
  rw [Nat.testBit_eq_decide_div_mod_eq, Nat.shiftRight_eq_div_pow]
  cases damaged.contains d <;> simp

/-- After a chip each die has its frame, and each cluster its load. -/
theorem chipped_die (s : State) (damaged : List Nat) {d i : Nat} (hd : d < dieCount s.product) (hi : i < 16) :
    tget 0 (chipped s damaged).frames d = ballastFrame s.meter.lfsr s.meter.chip ∧
    (getTap (chipped s damaged) (16 * d + i)).ballast = (getTap s.meter (16 * d + i)).next ∧
    (getTap (chipped s damaged) (16 * d + i)).next = (!damaged.contains d && (ballastFrame s.meter.lfsr s.meter.chip).testBit i) := by
  have hother : ∀ m e, e ≠ d → tget 0 (chipDie damaged (ballastFrame s.meter.lfsr s.meter.chip) m e).frames d = tget 0 m.frames d :=
    fun m e hne => (tget_tset_other _ _ _ (Ne.symm hne)).trans
      (congrArg (fun t : Tbl Nat => tget (0 : Nat) t d) (frames_of_untapped (chipTaps_keeps damaged _ m e)) :)
  obtain ⟨t, -, ht, he⟩ := foldl_eq_at (f := chipDie damaged (ballastFrame s.meter.lfsr s.meter.chip)) (List.mem_range.mpr hd)
    List.nodup_range (fun m => (tget 0 m.frames d, getTap m (16 * d + i))) (fun _ => ())
    (fun m e hne => Prod.ext (hother m e hne) (getTap_chipDie_other damaged _ m hi hne)) (fun _ _ => rfl) s.meter
  obtain ⟨-, htap⟩ := Prod.mk.inj ht
  obtain ⟨hframe, hdie⟩ := Prod.mk.inj he
  obtain ⟨hballast, hnext⟩ := getTap_chipDie_same damaged (ballastFrame s.meter.lfsr s.meter.chip) t d hi
  unfold chipped
  rw [hframe, hdie, hballast, hnext, htap]
  exact ⟨tget_tset_same .., rfl, rfl⟩

/-! ### Records (R455, R459) -/

/-- The bytes of the open record as it closes. -/
def closedRecord (s : State) (endT : Nat) : List Byte := recordHeader s endT ++ deviceBlock s.meter ++ (recordLines s).flatten

/-- Closing a record stores it, chains its digest and counts. -/
theorem closeRecord_record (s : State) (endT : Nat) :
    tget [] (closeRecord s endT).meter.records (s.meter.number % 208) = closedRecord s endT ∧
    (closeRecord s endT).meter.chain = sha3 (digestBytes s.meter.chain ++ digestBytes (recordDigest (closedRecord s endT))) := by
  unfold closedRecord
  rw [← List.flatMap_id]
  exact ⟨tget_tput_same .., rfl⟩

theorem exec_settlementClose {s : State} {b : Nat} (hruns : meterRuns s.meter = true) (hopen : s.meter.opened = true)
    (hb : boundary s.meter = some b) : exec .settlementClose s = .next (settle s b) := by
  change execSettlementClose s = _
  unfold execSettlementClose
  rw [if_pos (by rw [hruns, hopen]; rfl), hb]

/-- A boundary closes the record and opens the next at the same time, under the next interval. -/
theorem settle_meter (s : State) (b : Nat) : (settle s b).meter =
    openRecord { (closeRecord s b).meter with interval := s.meter.nextInterval.getD s.meter.interval, nextInterval := none } b false := by
  have hnext : (closeRecord s b).meter.nextInterval = s.meter.nextInterval := rfl
  unfold settle
  dsimp only
  rw [hnext]
  cases h : s.meter.nextInterval with
  | none => exact congrArg (fun n => openRecord { (closeRecord s b).meter with nextInterval := n } b false) (hnext.trans h)
  | some n => rfl

/-! ### The rows -/

section
variable {s : State} (hruns : meterRuns s.meter = true)
include hruns

/-- A sample's row, group by group. -/
theorem meterSample_row (volts amps : List Nat) : ∃ t : Meter, exec (.meterSample volts amps) s = .next { s with meter := t } ∧
    t.time = s.meter.time + 4 ∧ t.up = s.meter.up + 4 ∧ t.total = s.meter.total + ((List.range 8).map (sampleEnergy s volts amps)).sum ∧
    ∀ g, g < 8 →
      (groupFitted s g = false → getGroup t g = getGroup s.meter g) ∧
      (groupFitted s g = true → g < volts.length → g < amps.length →
        (getGroup t g).energy = (getGroup s.meter g).energy + 4 * volts.getD g 0 * amps.getD g 0 ∧ (getGroup t g).sense = false ∧
        (getGroup t g).vmin = min (getGroup s.meter g).vmin (volts.getD g 0) ∧
        (getGroup t g).imax = max (getGroup s.meter g).imax (amps.getD g 0)) ∧
      (groupFitted s g = true → volts.length ≤ g → (getGroup t g).sense = true ∧ (getGroup t g).energy = (getGroup s.meter g).energy) := by
  obtain ⟨n, he⟩ := exec_meterSample s volts amps hruns
  obtain ⟨htime, hup⟩ := sampled_time s volts amps
  refine ⟨{ divideHbm (sampled s volts amps) with shown := n }, he, (divideHbm_time _).trans htime, (divideHbm_up _).trans hup,
    (divideHbm_total _).trans (total_samples s volts amps _ _), fun g hg => ?_⟩
  obtain ⟨k, hother, hk⟩ := getGroup_divideHbm (sampled s volts amps) g
  obtain ⟨t, ht, hs⟩ := getGroup_samples s volts amps s.meter hg
  obtain ⟨hunfitted, hread, hmissing⟩ := getGroup_sampleStep_same s volts amps t g
  rw [ht, ← hs] at hunfitted hread hmissing
  rw [show getGroup { divideHbm (sampled s volts amps) with shown := n } g = _ from hk]
  refine ⟨fun hf => ?_, hread, hmissing⟩
  have hg4 : g ≠ 4 := fun h => Bool.false_ne_true (hf.symm.trans (h ▸ rfl))
  rw [hother hg4]
  exact hunfitted hf

/-- A frame that passes its CRC books what the meter makes of it; another only counts. -/
theorem exec_tapFrame {die : Nat} (hdie : dieOk s die = true) (crcOk : Bool) (charge cycles withdrawn inPlace other : List Nat) {u : State}
    (hu : u = countOther (countTaps { s with tapTurn := tset 0 s.tapTurn die ((tget 0 s.tapTurn die + 1) % 65) } die charge cycles withdrawn
      inPlace) die other) :
    exec (.tapFrame die crcOk charge cycles withdrawn inPlace other) s =
      .next (if crcOk then { u with meter := bookFrame u die (tget 0 s.tapTurn die) } else u) := by
  change execTapFrame die crcOk charge cycles withdrawn inPlace other s = _
  unfold execTapFrame
  dsimp only
  rw [hdie, hruns, ← hu]
  rfl

theorem tapGapTimeout_row {die : Nat} (hdie : dieOk s die = true) (hgap : 100000 < s.meter.up - tget 0 s.meter.tapLast die) :
    exec (.tapGapTimeout die) s = .next { s with meter :=
      { setGroup s.meter die { getGroup s.meter die with sample := 0 } with tapFault := true, tapFlag := true } } := by
  change execTapGapTimeout die s = _
  unfold execTapGapTimeout
  dsimp only
  rw [hdie, hruns, decide_eq_true hgap]
  rfl

theorem ballastCalibration_row {c a b : Nat} (hc : cluOk s c = true) (hb : b ≠ 0) :
    exec (.ballastCalibration [(c, some (a, b))]) s = .next { s with meter := setTap s.meter c { getTap s.meter c with
      gainNum := a, gainDen := b, ampl := a, renewed := s.meter.up, stale := false } } ∧
    exec (.ballastCalibration [(c, none)]) s = .next s := by
  constructor
  · change execBallastCalibration [(c, some (a, b))] s = _
    rw [execBallastCalibration, if_pos hruns, List.foldl_cons, List.foldl_nil, renewGain, hc]
    dsimp only
    rw [if_neg hb]
  · change execBallastCalibration [(c, none)] s = _
    rw [execBallastCalibration, if_pos hruns, List.foldl_cons, List.foldl_nil, renewGain, hc]

theorem calibrationStale_row {c : Nat} (hc : cluOk s c = true) (hold : 2000000 ≤ s.meter.up - (getTap s.meter c).renewed) :
    ∃ t : Meter, exec (.calibrationStale c) s = .next { s with meter := t } ∧ (getTap t c).stale = true ∧ t.calFlag = true := by
  refine ⟨modLine { setTap s.meter c { getTap s.meter c with stale := true } with calFlag := true }
    (if (getTap s.meter c).label % 4 = 1 then (getTap s.meter c).label / 4 % 64 else overheadLine) fun l => { l with stale := true }, ?_,
    congrArg Tap.stale (getTap_setTap_same s.meter c { getTap s.meter c with stale := true }), rfl⟩
  change execCalibrationStale c s = _
  unfold execCalibrationStale
  dsimp only
  rw [hc, hruns, decide_eq_true hold]
  rfl

theorem powered_of_runs : s.meter.powered = true := by
  rw [meterRuns, Bool.and_eq_true] at hruns
  exact hruns.1

theorem measuring_of_runs : s.meter.measuring = true := by
  rw [meterRuns, Bool.and_eq_true] at hruns
  exact hruns.2

theorem meterVddLow_row : exec .meterVddLow s =
    .next { s with meter := { commit s.meter with powered := false, measuring := false, selfOk := false, clkFault := false } } := by
  change execMeterVddLow s = _
  rw [execMeterVddLow, if_pos (powered_of_runs hruns), if_pos (measuring_of_runs hruns)]

theorem mtrLastAdvance_row {n : Nat} {rest : List Nat} (h : s.meter.closing = n :: rest) :
    exec .mtrLastAdvance s = .next { s with meter := { s.meter with last := some (n % 2 ^ 48), closing := rest } } := by
  change execMtrLastAdvance s = _
  rw [execMtrLastAdvance, powered_of_runs hruns, h]

end

/-- What a good frame books to a partition's line: time and share, in a gap above 100 ms time alone. -/
theorem bookFrame_line (u : State) (die turn : Nat) (hseen : tget false u.meter.tapSeen die = true) {p : Nat} (hp : p < 64) :
    let m := u.meter
    let dt := m.up - tget 0 m.tapLast die
    let steps := (List.range 16).map (fun i => tapStep u (16 * die + i))
    let t := bookFrame u die turn
    (getLine t p).time = (getLine m p).time + (steps.map (tapTime m dt p)).sum ∧
    (dt ≤ 100000 → (getLine t p).energy = (getLine m p).energy +
      (steps.map (tapShare m dt (getGroup m die).sample (steps.map (fun x => x.energy)).sum (getGroup m die).volts p)).sum) ∧
    (100000 < dt → t.tapFault = true ∧ t.tapFlag = true ∧ (getLine t p).energy = (getLine m p).energy) := by
  obtain ⟨htime, henergy⟩ := getLine_bookFrame u die turn p
  obtain ⟨hbt, hbe⟩ := getLine_bookedFrame u die hseen hp
  have hkeeps := bookFrame_keeps u die turn
  rw [tapSilent_eq hseen] at hbe hkeeps
  refine ⟨htime.trans hbt, fun hdt => ?_, fun hdt => ?_⟩
  · rw [henergy, hbe, decide_eq_false (Nat.not_lt.mpr hdt)]
    rfl
  · rw [decide_eq_true hdt] at hkeeps
    rw [henergy, hbe, decide_eq_true hdt]
    exact ⟨(congrArg Meter.tapFault hkeeps :).trans (Bool.or_true _), (congrArg Meter.tapFlag hkeeps :).trans (Bool.or_true _), rfl⟩

/-- A boundary's row. -/
theorem settle_row {s : State} {b : Nat} : (settle s b).meter.number = s.meter.number + 1 ∧ (settle s b).meter.start = b ∧
    (settle s b).meter.opened = true ∧ (settle s b).meter.tapFlag = (List.range 4).any (tapSilent s.meter) ∧
    (settle s b).meter.closing = s.meter.closing ++ [s.meter.number] ∧
    (settle s b).meter.interval = s.meter.nextInterval.getD s.meter.interval ∧
    tget [] (settle s b).meter.records (s.meter.number % 208) = closedRecord s b ∧
    (settle s b).meter.chain = sha3 (digestBytes s.meter.chain ++ digestBytes (recordDigest (closedRecord s b))) := by
  obtain ⟨hrecord, hchain⟩ := closeRecord_record s b
  rw [settle_meter]
  exact ⟨rfl, rfl, rfl, Bool.or_self _, rfl, rfl, hrecord, hchain⟩

/-- A tap frame's row. -/
theorem tapFrame_row {s : State} (hruns : meterRuns s.meter = true) {die : Nat} (hdie : dieOk s die = true)
    (charge cycles withdrawn inPlace other : List Nat) {turn : Nat} {u : State} (hturn : turn = tget 0 s.tapTurn die)
    (hu : u = countOther (countTaps { s with tapTurn := tset 0 s.tapTurn die ((turn + 1) % 65) } die charge cycles withdrawn inPlace) die other) :
    u.meter = s.meter ∧ (∀ k, tapLabel u k = tapLabel s k) ∧
    exec (.tapFrame die false charge cycles withdrawn inPlace other) s = .next u ∧
    exec (.tapFrame die true charge cycles withdrawn inPlace other) s = .next { u with meter := bookFrame u die turn } := by
  have hkeeps : uncounted u = uncounted { s with tapTurn := tset 0 s.tapTurn die ((turn + 1) % 65) } := by
    rw [hu]
    exact (countOther_keeps ..).trans (countTaps_keeps ..)
  subst hturn
  exact ⟨(congrArg State.meter hkeeps :), fun k => (congrArg (tapLabel · k) hkeeps :), exec_tapFrame hruns hdie false _ _ _ _ _ hu,
    exec_tapFrame hruns hdie true _ _ _ _ _ hu⟩

/-- Settles O57, a clause per row. The meter divides the energy at each tap frame, with the clusters' energies scaled to the group's
before the Ballast and Sounding are taken off (notes/assumptions/37.md), and books a gap above 100 ms as time without energy
(notes/assumptions/79.md): both are the model's choices. -/
theorem meterMeasurement : Obligations.MeterMeasurement := by
  unfold Obligations.MeterMeasurement
  intro s m hm hruns
  subst hm
  refine ⟨meterSample_row hruns, ?_, fun die hdie hgap => ⟨_, tapGapTimeout_row hruns hdie hgap, rfl, rfl, rfl,
    congrArg Group.sample (getGroup_setGroup_same ..), rfl⟩, fun damaged => ?_, ?_, fun c hc hold => calibrationStale_row hruns hc hold,
    ?_, meterVddLow_row hruns, fun b hopen hb => ⟨_, exec_settlementClose hruns hopen hb, settle_row⟩,
    fun n rest h => mtrLastAdvance_row hruns h⟩
  · intro die charge cycles withdrawn inPlace other turn u hdie hturn hu
    obtain ⟨hmeter, hlabel, hbad, hgood⟩ := tapFrame_row hruns hdie charge cycles withdrawn inPlace other hturn hu
    have hkeeps := bookFrame_keeps u die turn
    have htaps := fun i hi => getTap_bookFrame u die turn (i := i) hi
    have hbytes := hbmBytes_bookFrame u die turn
    have hline := fun hseen p hp => bookFrame_line u die turn hseen (p := p) hp
    rw [hmeter] at hkeeps hbytes hline
    refine ⟨hmeter, fun i hi => ?_, fun i hi => ?_, hbad, bookFrame u die turn, hgood,
      (congrArg (fun m : Meter => tget 0 m.tapLast die) hkeeps :).trans (tget_tset_same ..),
      (congrArg (fun m : Meter => tget false m.tapSeen die) hkeeps :).trans (tget_tset_same false s.meter.tapSeen die true),
      (congrArg (fun m : Meter => (getGroup m die).sample) hkeeps :).trans (congrArg Group.sample (getGroup_setGroup_same ..)),
      fun i hi => ⟨(htaps i hi).1, (htaps i hi).2.trans (hlabel _)⟩, hbytes, ?_⟩
    · rw [hu, tapCount_countOther]
      exact tapCount_countTaps _ _ _ _ _ _ hi
    · rw [hu, hbmMoved_countOther _ _ _ hi, hbmMoved_countTaps]
    · intro steps dt hsteps hdt hseen p hp
      subst hsteps hdt
      exact hline hseen p hp
  · have hkeeps := chipped_keeps s damaged
    refine ⟨_, exec_ballastChip s damaged hruns, (congrArg (fun m : Meter => m.chip + 1) hkeeps :), (congrArg (fun m : Meter => gfStep m.lfsr) hkeeps :),
      fun d i hd hi => ?_⟩
    exact chipped_die s damaged hd hi
  · intro c a b u v hc hb hu hv
    subst hu hv
    exact ballastCalibration_row hruns hc hb
  · change execMeterCommit s = _
    rw [execMeterCommit, if_pos hruns]

end Sys2Proof.Machine
end

section
/-! SUPPORT. The meter's audit trail, seal, power-on and board port (R440, R461 to R467). -/

namespace Sys2Proof.Machine

/-! ### Audit and seal -/

/-- A meter without its audit trail. -/
def unaudited (m : Meter) : Meter := { m with audit := [], auditSig := [] }

theorem addAudit_keeps (m : Meter) (code old new : Nat) : unaudited (addAudit m code old new) = unaudited m := by
  unfold addAudit
  split <;> rfl

section
variable (m : Meter) (code old new : Nat)

@[simp] theorem addAudit_opened : (addAudit m code old new).opened = m.opened := (congrArg Meter.opened (addAudit_keeps m code old new) :)
@[simp] theorem addAudit_measuring : (addAudit m code old new).measuring = m.measuring := (congrArg Meter.measuring (addAudit_keeps m code old new) :)
@[simp] theorem addAudit_number : (addAudit m code old new).number = m.number := (congrArg Meter.number (addAudit_keeps m code old new) :)
@[simp] theorem addAudit_breakFuse : (addAudit m code old new).breakFuse = m.breakFuse := (congrArg Meter.breakFuse (addAudit_keeps m code old new) :)
@[simp] theorem addAudit_sealFuse : (addAudit m code old new).sealFuse = m.sealFuse := (congrArg Meter.sealFuse (addAudit_keeps m code old new) :)

end

/-- With room in the trail an entry is added. -/
theorem length_addAudit {m : Meter} (h : auditFull m = false) (code old new : Nat) : (addAudit m code old new).audit.length = m.audit.length + 1 := by
  unfold addAudit
  rw [h]
  exact List.length_append

/-- A broken seal, on an M variant whose seal stood; elsewhere nothing. -/
theorem breakSeal_eq (s : State) (cause : Nat) : breakSeal s cause =
    if metered s.product = true ∧ sealState s ≠ 2 then
      { s with meter := { addAudit s.meter 0x0005 (sealState s) cause with breakFuse := true, cause := cause } }
    else s := by
  unfold breakSeal
  simp only [Bool.and_eq_true, decide_eq_true_eq]

/-- On an M variant the seal is then broken. -/
theorem sealState_breakSeal (s : State) (cause : Nat) (h : metered s.product = true) : sealState (breakSeal s cause) = 2 := by
  rw [breakSeal_eq]
  split
  · rfl
  · next hno => exact Decidable.not_not.mp fun h2 => hno ⟨h, h2⟩

theorem breakSeal_unmetered (s : State) (cause : Nat) (h : metered s.product = false) : breakSeal s cause = s := by
  rw [breakSeal_eq, if_neg fun hm => Bool.false_ne_true (h.symm.trans hm.1)]

/-- A meter without its audit trail and its seal. -/
def unsealed (m : Meter) : Meter := { m with audit := [], auditSig := [], breakFuse := false, cause := 0 }

theorem unsealed_of_unaudited {m n : Meter} (h : unaudited m = unaudited n) : unsealed m = unsealed n := (congrArg unsealed h :)

theorem breakSeal_keeps (s : State) (cause : Nat) : unsealed (breakSeal s cause).meter = unsealed s.meter := by
  rw [breakSeal_eq]
  split
  · exact (unsealed_of_unaudited (addAudit_keeps s.meter 0x0005 (sealState s) cause) :)
  · rfl

theorem breakSeal_product (s : State) (cause : Nat) : (breakSeal s cause).product = s.product := by
  rw [breakSeal_eq]
  split <;> rfl

/-! ### Power-on (R440, R467) -/

/-- A meter without its records. -/
def unrecorded (m : Meter) : Meter :=
  { m with records := [], chains := [], chain := 0, sigs := [], closing := [], number := 0, opened := false, tapFault := false, shortened := false }

/-- Closing the record in hand changes the records alone. -/
theorem closeShort_keeps (s : State) (endT : Nat) : unrecorded (closeShort s endT).meter = unrecorded s.meter ∧
    (closeShort s endT).product = s.product := by
  unfold closeShort
  split <;> exact ⟨rfl, rfl⟩

theorem closeShort_number (s : State) (endT : Nat) : (closeShort s endT).meter.number = s.meter.number + if s.meter.opened = true then 1 else 0 := by
  unfold closeShort
  by_cases h : s.meter.opened = true
  · rw [if_pos h, if_pos h]; rfl
  · rw [if_neg h, if_neg h]; rfl

/-- The accumulators last committed, restored. -/
def restored (s : State) : State :=
  let m := s.meter
  useFree { s with meter := { m with lines := m.mramLines, groups := m.mramGroups, total := m.mramTotal, time := m.mramTime, powered := true,
                                     measuring := false } }

/-- The record that the loss cut short closed. -/
def recovered (s : State) : State := closeShort (restored s) s.meter.mramTime

/-- What the boot then reads, before the meter measures or breaks its seal. -/
def bootChecked (s : State) (fwOk calOk : Bool) : State :=
  let m := s.meter
  { recovered s with tapCount := [], hbmMoved := [], meter := { (recovered s).meter with
      time := m.mramTime + Config.freeValue s.freeSeq 0, up := 0, taps := [], hbmBytes := [], chip := 0, lfsr := 1, selfOk := fwOk && calOk,
      fwBad := !fwOk, calBad := !calOk, fwid := sha3 (Config.meterRom ++ m.fwArea) } }

theorem exec_meterPowerOn {s : State} (h : s.meter.powered = false) (fwOk calOk : Bool) : exec (.meterPowerOn fwOk calOk) s =
    .next (if fwOk && calOk then { bootChecked s fwOk calOk with meter := meterBoot (bootChecked s fwOk calOk).meter true }
      else breakSeal (bootChecked s fwOk calOk) 2) := by
  change execMeterPowerOn fwOk calOk s = _
  unfold execMeterPowerOn
  rw [if_neg (by rw [h]; exact Bool.false_ne_true)]
  dsimp only
  split <;> rfl

/-- What the boot reads stands beside what was committed. -/
theorem bootChecked_meter (s : State) (fwOk calOk : Bool) : let m := (bootChecked s fwOk calOk).meter
    m.powered = true ∧ m.total = s.meter.mramTotal ∧ m.up = 0 ∧ m.fwid = sha3 (Config.meterRom ++ s.meter.fwArea) ∧ m.selfOk = (fwOk && calOk) ∧
    m.measuring = false ∧ m.number = s.meter.number + (if s.meter.opened = true then 1 else 0) ∧
    m.time = s.meter.mramTime + Config.freeValue s.freeSeq 0 ∧ sealState (bootChecked s fwOk calOk) = sealState s ∧
    (bootChecked s fwOk calOk).product = s.product := by
  obtain ⟨hkeeps, hproduct⟩ := closeShort_keeps (restored s) s.meter.mramTime
  have hpowered : (recovered s).meter.powered = true := (congrArg Meter.powered hkeeps :)
  have htotal : (recovered s).meter.total = s.meter.mramTotal := (congrArg Meter.total hkeeps :)
  have hmeasuring : (recovered s).meter.measuring = false := (congrArg Meter.measuring hkeeps :)
  have hseal : sealState (recovered s) = sealState s := by
    unfold sealState
    rw [show (recovered s).product = s.product from hproduct, show (recovered s).meter.breakFuse = s.meter.breakFuse from (congrArg Meter.breakFuse hkeeps :),
      show (recovered s).meter.sealFuse = s.meter.sealFuse from (congrArg Meter.sealFuse hkeeps :)]
  exact ⟨hpowered, htotal, rfl, rfl, rfl, hmeasuring, closeShort_number (restored s) s.meter.mramTime, rfl, hseal, hproduct⟩

/-- Power-on's row. -/
theorem meterPowerOn_row {s : State} (hoff : s.meter.powered = false) (fwOk calOk : Bool) :
    ∃ t, exec (.meterPowerOn fwOk calOk) s = .next t ∧ t.meter.powered = true ∧ t.meter.total = s.meter.mramTotal ∧
      t.meter.up = 0 ∧ t.meter.fwid = sha3 (Config.meterRom ++ s.meter.fwArea) ∧ t.meter.selfOk = (fwOk && calOk) ∧
      t.meter.measuring = (fwOk && calOk) ∧ t.meter.number = s.meter.number + (if s.meter.opened = true then 1 else 0) ∧
      (∃ d : Nat, t.meter.time = s.meter.mramTime + d) ∧
      (fwOk = true → calOk = true → t.meter.opened = true ∧ t.meter.gap = true ∧ t.meter.start = t.meter.time ∧ sealState t = sealState s) ∧
      (fwOk = false ∨ calOk = false → metered s.product = true → sealState t = 2) := by
  refine ⟨_, exec_meterPowerOn hoff fwOk calOk, ?_⟩
  obtain ⟨hpowered, htotal, hup, hfwid, hself, hmeasuring, hnumber, htime, hseal, hproduct⟩ := bootChecked_meter s fwOk calOk
  generalize bootChecked s fwOk calOk = b at *
  by_cases hok : (fwOk && calOk) = true
  · rw [if_pos hok, hok]
    refine ⟨rfl, htotal, hup, hfwid, hself.trans hok, rfl, hnumber, ⟨_, htime⟩, fun _ _ => ⟨rfl, rfl, rfl, hseal⟩, fun hbad => ?_⟩
    rw [Bool.and_eq_true] at hok
    rcases hbad with h | h
    · exact absurd (h.symm.trans hok.1) Bool.false_ne_true
    · exact absurd (h.symm.trans hok.2) Bool.false_ne_true
  · have hkeeps := breakSeal_keeps b 2
    rw [if_neg hok]
    rw [Bool.not_eq_true] at hok
    rw [hok] at hself ⊢
    refine ⟨(congrArg Meter.powered hkeeps :).trans hpowered, (congrArg Meter.total hkeeps :).trans htotal, (congrArg Meter.up hkeeps :).trans hup,
      (congrArg Meter.fwid hkeeps :).trans hfwid, (congrArg Meter.selfOk hkeeps :).trans hself, (congrArg Meter.measuring hkeeps :).trans hmeasuring,
      (congrArg Meter.number hkeeps :).trans hnumber, ⟨_, (congrArg Meter.time hkeeps :).trans htime⟩, fun hf hc => ?_,
      fun _ hm => sealState_breakSeal b 2 (hproduct ▸ hm)⟩
    rw [hf, hc] at hok
    exact absurd hok.symm Bool.false_ne_true

/-! ### Board port (R462, R466) -/

section
variable {s : State} (hwrites : boardWrites s.meter = true)
include hwrites

theorem mtrCfgWrite_row {v : W64} (h1 : 1 ≤ fld v 11 0) (h2 : fld v 11 0 ≤ 3600) (hne : fld v 11 0 ≠ s.meter.nextInterval.getD s.meter.interval) :
    exec (.mtrCfgWrite v) s = .next { s with meter := { addAudit s.meter 0x0001 (s.meter.nextInterval.getD s.meter.interval) (fld v 11 0) with
      nextInterval := some (fld v 11 0), changed := true } } := by
  change execMtrCfgWrite v s = _
  unfold execMtrCfgWrite
  dsimp only
  rw [hwrites, decide_eq_true ⟨h1, h2, hne⟩]
  rfl

theorem mtrTimeWrite_row (v : W64) : ∃ t, exec (.mtrTimeWrite v) s = .next t ∧ t.meter.time = v.toNat ∧
    t.meter.audit = (addAudit s.meter 0x0002 s.meter.time v.toNat).audit ∧
    (s.meter.opened = true → s.meter.measuring = true → t.meter.number = s.meter.number + 1 ∧ t.meter.start = v.toNat ∧ t.meter.opened = true ∧
      t.meter.gap = false) := by
  change ∃ t, execMtrTimeWrite v s = _ ∧ _
  unfold execMtrTimeWrite
  dsimp only
  rw [if_pos hwrites, addAudit_opened, addAudit_measuring]
  refine ⟨_, rfl, ?_⟩
  cases hopen : s.meter.opened && s.meter.measuring with
  | true => exact ⟨rfl, rfl, fun _ _ => ⟨congrArg (· + 1) (addAudit_number ..), rfl, rfl, rfl⟩⟩
  | false =>
    refine ⟨rfl, rfl, fun ho hm => ?_⟩
    rw [ho, hm] at hopen
    exact absurd hopen.symm Bool.false_ne_true

theorem meterReset_row : exec .meterReset s = .next (resetMeter { s with meter := addAudit s.meter 0x0003 0 0 }) := by
  change execMeterReset s = _
  unfold execMeterReset
  rw [if_pos hwrites]

/-- Firmware that verifies, in force and audited, before an M variant's seal breaks. -/
def fwCommitted (s : State) : State :=
  let img := readBytes s.meter.fwWin 0 0x80000
  let new := sha3 (Config.meterRom ++ img)
  { s with meter := { addAudit s.meter 0x0004 (leNat ((digestBytes s.meter.fwid).take 8)) (leNat ((digestBytes new).take 8)) with
      fwid := new, fwArea := img, fwBad := false } }

theorem fwCommit_row : exec .fwCommit s =
    .next (if Config.meterImageOk (readBytes s.meter.fwWin 0 0x80000) then breakSeal (fwCommitted s) 1 else s) := by
  change execFwCommit s = _
  unfold execFwCommit
  dsimp only
  rw [hwrites, Bool.true_and]
  split <;> rfl

end

theorem fwCommitted_seal (s : State) : sealState (fwCommitted s) = sealState s := by
  unfold sealState
  rw [show (fwCommitted s).meter.breakFuse = s.meter.breakFuse from addAudit_breakFuse ..,
    show (fwCommitted s).meter.sealFuse = s.meter.sealFuse from addAudit_sealFuse ..]
  rfl

/-- With MTR_CFG_N high the board port writes nothing. -/
theorem cfgN_writes {m : Meter} (h : m.cfgN = true) : boardWrites m = false := by
  rw [boardWrites, h, Bool.not_true, Bool.and_false, Bool.false_and]

/-- Settles O58, a clause per row. What METER_RESET's audit entry holds (old and new 0) and that the time without power is a free value are
the model's choices (notes/assumptions/37.md). -/
theorem meterBoardAndSeal : Obligations.MeterBoardAndSeal := by
  unfold Obligations.MeterBoardAndSeal
  intro s m hm
  subst hm
  refine ⟨fun fw cal hoff => meterPowerOn_row hoff fw cal, fun hruns => ?_, fun hon hoff => ?_, fun hon => ?_, fun hwrites => ⟨?_, ?_, ?_, ?_, ?_⟩,
    fun hcfg => ⟨fun v => ⟨?_, ?_⟩, ?_, ?_⟩, ?_⟩
  · change execMeterWatchdogExpiry s = _
    rw [execMeterWatchdogExpiry, if_pos (powered_of_runs hruns), resetMeter, if_pos (measuring_of_runs hruns)]
  · change execMeterWatchdogExpiry s = _
    rw [execMeterWatchdogExpiry, if_pos hon, resetMeter, hoff]
    rfl
  · change execMeterClkFault s = _
    rw [execMeterClkFault, if_pos hon]
  · intro v n hn h1 h2 hne
    subst hn
    have hroom : auditFull s.meter = false := by
      rw [boardWrites, Bool.and_eq_true, Bool.not_eq_true'] at hwrites
      exact hwrites.2
    exact ⟨_, rfl, length_addAudit hroom _ _ _, mtrCfgWrite_row hwrites h1 h2 hne⟩
  · intro v hout
    change execMtrCfgWrite v s = _
    unfold execMtrCfgWrite
    dsimp only
    rw [if_neg]
    rw [Bool.and_eq_true, decide_eq_true_eq]
    omega
  · exact mtrTimeWrite_row hwrites
  · refine ⟨_, rfl, (meterReset_row hwrites).trans ?_⟩
    unfold resetMeter
    rw [addAudit_measuring]
  · refine ⟨_, fwCommit_row hwrites, fun hbad => if_neg fun h => Bool.false_ne_true (hbad.symm.trans h), fun hgood => ?_⟩
    rw [if_pos hgood]
    have hkeeps := breakSeal_keeps (fwCommitted s) 1
    exact ⟨(congrArg Meter.fwid hkeeps :), (congrArg Meter.fwArea hkeeps :), sealState_breakSeal (fwCommitted s) 1, fun hm => by
      rw [breakSeal_unmetered (fwCommitted s) 1 hm, fwCommitted_seal]⟩
  · change execMtrCfgWrite v s = _
    rw [execMtrCfgWrite, cfgN_writes hcfg]
    rfl
  · change execMtrTimeWrite v s = _
    rw [execMtrTimeWrite, cfgN_writes hcfg]
    rfl
  · change execMeterReset s = _
    rw [execMeterReset, cfgN_writes hcfg]
    rfl
  · change execFwCommit s = _
    rw [execFwCommit, cfgN_writes hcfg]
    rfl
  · refine ⟨breakSeal s 3, rfl, sealState_breakSeal s 3, fun hm hs => ?_⟩
    rw [breakSeal_eq, if_pos ⟨hm, hs⟩]
    exact ⟨rfl, rfl⟩

end Sys2Proof.Machine
end

section
/-! SUPPORT. CM5 frame mode, test access, register writes, mode changes of the ports, link lanes and self-test slices (R317, R331, R360,
R375 to R378, R508). -/

namespace Sys2Proof.Machine

/-! ### CM5 frames (R375 to R378) -/

@[simp] theorem getPart_took (s : State) (f : Frame) (k : Nat) (e e1 : AddrEntry) (p : Nat) : getPart (took s f k e e1) p = getPart s p :=
  took_keeps (fun s => getPart s p) (fun _ _ _ => rfl) ..
@[simp] theorem took_service (s : State) (f : Frame) (k : Nat) (e e1 : AddrEntry) : (took s f k e e1).service = s.service :=
  took_keeps State.service (fun _ _ _ => rfl) ..

section
variable {s : State} {f : Frame} {src dst k : Nat} {l : List Byte} {e e1 : AddrEntry} {pt : Part}

/-- A frame with a new number from a sender with room is taken up. -/
theorem cm5At_fresh (h : Cm5Frame s f src dst k l e e1 pt) (op : Nat) (act : State → Nat → Part → Nat → State) :
    cm5At op f src dst l s act = .next (startWaiting (cm5Do op f.lport l act (took s f (k + 1) e e1) k pt (f.srcIp * 65536 + src % 65536)
      (beNat (slice l 6 2)))) := by
  obtain ⟨hpart, hmode, hlen⟩ := h.part
  refine onFrame_next h.frame.port.1 ?_
  simp only [acceptFrame_accepted h.frame, getPart_took, hpart, hmode, hlen, h.keyed]
  rcases h.fresh with ⟨hnew, hroom⟩ | ⟨w, n, r, hold, hne⟩
  · simp only [hnew, ne_eq, not_true_eq_false, or_self, if_false, Bool.not_true, Bool.false_eq_true]
    rw [if_neg (Nat.not_le.mpr hroom)]
  · simp only [hold, ne_eq, not_true_eq_false, or_self, if_false, Bool.not_true, Bool.false_eq_true, hne]

/-- A repeated frame is answered from what was kept. -/
theorem cm5At_repeated {w n : Nat} {r : List Byte} (h : Accepted s f (fun _ _ => false) (k + 1) e e1) (hpart : getPart s k = some pt)
    (hmode : pt.cm5 = some dst) (hlen : l.length = 1024) (hkeyed : e1.sas.any (fun a => a.active) = true)
    (hold : cm5Entry pt (f.srcIp * 65536 + src % 65536) = some (w, n, some r)) (hn : n = beNat (slice l 6 2))
    (op : Nat) (act : State → Nat → Part → Nat → State) : cm5At op f src dst l s act =
      .next (portSend (took s f (k + 1) e e1) f.lport (entryOf k) 1 ([4] ++ beBytes 16 f.srcIp ++ beBytes 2 src ++ r)) := by
  refine onFrame_next h.port.1 ?_
  simp only [acceptFrame_accepted h, getPart_took, hpart, hmode, hlen, hkeyed, hold, hn, ne_eq, not_true_eq_false, or_self, if_false,
    Bool.not_true, Bool.false_eq_true, if_true]

end

section
variable {op lport : Nat} {l : List Byte} {act : State → Nat → Part → Nat → State} {t : State} {k : Nat} {pt : Part} {who seq : Nat}

theorem cm5Do_good (hform : cm5Bad op l = false) (hservice : t.service = 0) : cm5Do op lport l act t k pt who seq = act t k pt who := by
  unfold cm5Do
  dsimp only
  rw [hform, hservice]
  rfl

theorem cm5Do_bad (hform : cm5Bad op l = true) : cm5Do op lport l act t k pt who seq =
    cm5Answer t k lport who seq (cm5Frame (numAt l 5 1) seq (beNat (slice l 8 2)) stInvalid (beNat (slice l 12 4)) []) := by
  unfold cm5Do
  rw [hform]
  rfl

end

section
variable {s : State} {f : Frame} {src dst k : Nat} {l : List Byte} {e e1 : AddrEntry} {pt : Part} {t : State}
  (h : Cm5Frame s f src dst k l e e1 pt) (ht : t = took s f (k + 1) e e1) (hservice : t.service = 0)
include h ht

theorem exec_cm5Load_malformed (hform : cm5Bad 0x01 l = true) : exec (.cm5Load f src dst l) s =
    .next (startWaiting (cm5Answer t k f.lport (f.srcIp * 65536 + src % 65536) (beNat (slice l 6 2))
      (cm5Frame (numAt l 5 1) (beNat (slice l 6 2)) (beNat (slice l 8 2)) stInvalid (beNat (slice l 12 4)) []))) := by
  change execCm5Load f src dst l s = _
  rw [execCm5Load, cm5At_fresh h, ← ht, cm5Do_bad hform]

include hservice

theorem exec_cm5Load (hform : cm5Bad 0x01 l = false) : exec (.cm5Load f src dst l) s =
    .next (startWaiting (cm5Answer (cm5Put t k pt.die (beNat (slice l 12 4)) (cm5Data l)) k f.lport (f.srcIp * 65536 + src % 65536)
      (beNat (slice l 6 2)) (cm5Frame 0x01 (beNat (slice l 6 2)) (beNat (slice l 8 2)) stOk (beNat (slice l 12 4)) []))) := by
  change execCm5Load f src dst l s = _
  rw [execCm5Load, cm5At_fresh h, ← ht, cm5Do_good hform hservice]

theorem exec_cm5Run (hform : cm5Bad 0x02 l = false) (haction : actionPending t pt = false) (hisolate : pt.isolate = none) :
    exec (.cm5Run f src dst l) s = .next (startWaiting (cm5Launch t k (f.srcIp * 65536 + src % 65536) (beNat (slice l 6 2))
      (beNat (slice l 8 2)) (beNat (slice l 12 4)) (cm5Data l) f.lport)) := by
  change execCm5Run f src dst l s = _
  rw [execCm5Run, cm5At_fresh h, ← ht, cm5Do_good hform hservice]
  simp only [haction, hisolate, Option.isSome_none, Bool.or_self, Bool.false_eq_true, if_false]

theorem exec_cm5Read {u : State} {b : List Byte} (hform : cm5Bad 0x03 l = false)
    (hget : cm5Get t k pt.die (beNat (slice l 12 4)) (4 * (beNat (slice l 8 2) + 1)) = (u, b, true)) : exec (.cm5Read f src dst l) s =
    .next (startWaiting (cm5Answer u k f.lport (f.srcIp * 65536 + src % 65536) (beNat (slice l 6 2))
      (cm5Frame 0x03 (beNat (slice l 6 2)) (beNat (slice l 8 2)) stOk (beNat (slice l 12 4)) (swapWords b)))) := by
  change execCm5Read f src dst l s = _
  rw [execCm5Read, cm5At_fresh h, ← ht, cm5Do_good hform hservice]
  simp only [hget, if_true]

end

/-! ### Register writes (R9, R10) -/

section
variable {s : State} {p off : Nat} {v : W64}

theorem exec_registerWrite_core (hp : p < 0x1000) (hcore : coreOk s p = true) : exec (.registerWrite (0x1000 + p) off v) s =
    .next (if off < coreRegs then modCore s p (writeCoreReg off v)
      else if 0x400 ≤ off ∧ off < 0x40D then
        modRouter s p (fun r => { r with errs := tset 0 r.errs (off - 0x400) (clearPortErr (tget 0 r.errs (off - 0x400)) v) })
      else s) := by
  change execRegisterWrite (0x1000 + p) off v s = _
  rw [execRegisterWrite, if_neg (by omega), if_neg (by omega), if_pos (by omega), Nat.add_sub_cancel_left]
  exact if_pos hcore

theorem exec_registerWrite_switch (hcore : coreOk s p = true) (hmain : colIx p % 9 ≠ 8) (hoff : off < 1 + 3 * 4096) :
    exec (.registerWrite (0x2000 + p) off v) s =
      .next (setSwitch s p (setSwitchReg (getSwitch s p) false off (BitVec.ofNat 64 (v.toNat % 2 ^ switchRegBits false off)))) := by
  change execRegisterWrite (0x2000 + p) off v s = _
  rw [execRegisterWrite, if_neg (by omega), if_neg (by omega), if_neg (by omega), Nat.add_sub_cancel_left]
  have hunit : (decide (0x2000 ≤ 0x2000 + p) && coreOk s p) = true := by rw [hcore, decide_eq_true (Nat.le_add_right _ _)]; rfl
  rw [hunit, onUnit_true _ rfl]
  dsimp only
  rw [beq_eq_false_iff_ne.mpr hmain]
  exact congrArg Host.Outcome.next (if_pos hoff)

end

/-! ### Modes of the ports (R360, R400) -/

/-- What a mode change takes down before the port's new mode is recorded. -/
def takenDown (s : State) (port mode : Nat) : State :=
  let ls := (List.range 4).map (4 * port + ·)
  let s1 := (qpsWhere s (fun v => v.lport / 4 == port)).foldl qpError s
  let gone := ls.filter (fun l => decide (l % 4 ≥ lportsOf mode))
  gone.foldl (fun s l => ((getLport s l).entries.map (·.1)).foldl (fun s k => removeEntry s l k) s) s1

/-- A logical port's link goes down, with what waits there. -/
def linkDown (s : State) (l : Nat) : State :=
  modLport s l (fun p => { p with up := false, paused := [], pauseEnd := [], pauseSeen := [], waitTx := [], rx := [], xoff := [] })

/-- A port's new mode recorded, also in flash. -/
def modeSet (s : State) (port mode : Nat) : State :=
  { s with portMode := tset 0 s.portMode port mode, modePend := tset none s.modePend port none,
           flash := { s.flash with portModes := tset 0 s.flash.portModes port mode } }

theorem getLport_modeSet (s : State) (port mode l : Nat) : getLport (modeSet s port mode) l = getLport s l := rfl
theorem modeSet_modes (s : State) (port mode : Nat) : tget 0 (modeSet s port mode).portMode port = mode ∧
    tget none (modeSet s port mode).modePend port = none ∧ tget 0 (modeSet s port mode).flash.portModes port = mode :=
  ⟨tget_tset_same .., tget_tset_same none s.modePend port none, tget_tset_same ..⟩

/-- The port in its new mode, its four logical ports down. -/
def modeTaken (s : State) (port mode : Nat) : State :=
  modeSet (((List.range 4).map (4 * port + ·)).foldl linkDown (takenDown s port mode)) port mode

theorem exec_portModeTakedown {s : State} {port mode : Nat} (hport : port < 2) (hpend : tget none s.modePend port = some mode) :
    exec (.portModeTakedown port) s = .next (startWaiting (modeTaken s port mode)) := by
  refine exec_of_onUnit (decide_eq_true hport) rfl ?_
  rw [hpend]
  rfl

/-- Its logical ports are down. -/
theorem modeTaken_down (s : State) (port mode : Nat) {i : Nat} (hi : i < 4) : (getLport (modeTaken s port mode) (4 * port + i)).up = false := by
  obtain ⟨t, -, -, he⟩ := foldl_eq_at (f := linkDown) (n := 4 * port + i) (List.mem_map_of_mem (List.mem_range.mpr hi))
    (List.nodup_range.map fun a b h => Nat.add_left_cancel h) (fun s => (getLport s (4 * port + i)).up) (fun _ => ())
    (fun s j hj => congrArg LPort.up ((getLport_modLport ..).trans (if_neg (Ne.symm hj)))) (fun _ _ => rfl) (takenDown s port mode)
  rw [modeTaken, getLport_modeSet, he, linkDown, getLport_modLport_same]

/-! ### Link lanes (R331, R337) -/

theorem getScree_modScree_same (s : State) (kind unit : Nat) (f : Scree → Scree) :
    getScree (modScree s kind unit f) kind unit = f (getScree s kind unit) := tget_tset_same ..

theorem getScree_modScree_other (s : State) {kind unit kind' unit' : Nat} (f : Scree → Scree) (h : screeKey kind' unit' ≠ screeKey kind unit) :
    getScree (modScree s kind unit f) kind' unit' = getScree s kind' unit' := tget_tset_other _ _ _ h

theorem lt_of_mem_linksOf {s : State} {link : Nat} (h : (linksOf s).contains link = true) : link < 8 := by
  unfold linksOf at h
  split at h
  · simpa using h
  · simp at h
    omega

theorem exec_oxLaneRetraining {s : State} {link lane : Nat} (hlink : (linksOf s).contains link = true)
    (hlane : lane < linkLanes link + spareLanes link) (recovered : Bool) {s1 : State}
    (hs1 : s1 = modScree s 7 (link + 8 * lane) (fun r => { r with resets := sat32 (r.resets + 1) })) :
    exec (.oxLaneRetraining link lane recovered) s = .next (if recovered then
      modScree (modScree s1 7 (link + 8 * lane) (fun r => { r with corrected := sat32 (r.corrected + 1) })) 0x22 0
        (fun r => { r with corrected := sat32 (r.corrected + 1) })
      else failLane s1 (link + 8 * lane) 0x10) := by
  subst hs1
  exact exec_of_onUnit (by rw [hlink, decide_eq_true hlane]; rfl) rfl rfl

theorem links_modScree (s : State) (kind unit : Nat) (f : Scree → Scree) : (modScree s kind unit f).links = s.links := rfl
theorem soft_modScree (s : State) (kind unit : Nat) (f : Scree → Scree) : (modScree s kind unit f).soft = s.soft := rfl

/-- A lane that trained again counts the retraining with its unit. -/
theorem resets_retrained (s : State) {link lane : Nat} (hlink : link < 8) (hlane : lane < linkLanes link + spareLanes link) (f g h : Scree → Scree)
    (hg : ∀ r, (g r).resets = r.resets) : (getScree (modScree (modScree (modScree s 7 (link + 8 * lane) f) 7 (link + 8 * lane) g) 0x22 0 h) 7
      (link + 8 * lane)).resets = (f (getScree s 7 (link + 8 * lane))).resets := by
  have hlanes : linkLanes link + spareLanes link ≤ 136 := by
    unfold linkLanes spareLanes
    split <;> omega
  have hkey : screeKey 7 (link + 8 * lane) ≠ screeKey 0x22 0 := by
    unfold screeKey
    omega
  rw [getScree_modScree_other _ _ hkey, getScree_modScree_same, getScree_modScree_same, hg]

/-! ### Self-test slices and roll calls (R317, R490) -/

theorem execSelftestSlice_idle {s : State} (results : List (Nat × Nat × Nat × Nat × Nat)) (h : s.service ≠ 3 ∨ lifeCycle s.flash.lc = 4) :
    exec (.selftestSlice results) s = .next s := by
  change execSelftestSlice results s = _
  refine congrArg Host.Outcome.next (if_pos (h.imp_right fun hlc => ?_))
  exact decide_eq_false (not_not_intro hlc)

theorem execSelftestSlice_more {s u : State} {results : List (Nat × Nat × Nat × Nat × Nat)} (hservice : s.service = 3)
    (hlc : lifeCycle s.flash.lc ≠ 4) (hstep : planStep s results = (u, false)) : exec (.selftestSlice results) s = .next u := by
  change execSelftestSlice results s = _
  refine congrArg Host.Outcome.next ((if_neg ?_).trans ?_)
  · rw [testsRun, decide_eq_true hlc, hservice]
    decide
  · dsimp only
    rw [hstep]
    rfl

theorem exec_flockRollCallTimeout {s : State} {p : Nat} {pt : Part} (target : Nat) (hp : p < 64) (hpart : getPart s p = some pt)
    (hload : pt.loading = true) : exec (.flockRollCallTimeout p target) s =
    .next (setPart s p (some { pt with flock := pt.flock.map (fun e => if e.1 = target then (e.1, 1, e.2.2) else e) })) := by
  refine exec_of_onUnit (decide_eq_true hp) rfl ?_
  change setPart s p ((getPart s p).map _) = _
  rw [hpart, Option.map_some, if_pos hload]

/-- Settles O59, a clause per row. The numbers of the register ports (notes/assumptions/54.md), the IDCODE (notes/assumptions/55.md), the answer to
a malformed CM5 frame (notes/assumptions/53.md) and a mode change carried out without its 1 ms (notes/assumptions/57.md) are the model's choices; a
roll call that nothing answers marks its target in the partition's list, and changes nothing else. -/
theorem framesJtagAndRegisters : Obligations.FramesJtagAndRegisters := by
  unfold Obligations.FramesJtagAndRegisters
  refine ⟨?_, ?_, ?_, ?_, ?_, ?_, ?_, ?_, fun s results h => execSelftestSlice_idle results h,
    fun s results u hservice hlc hstep => execSelftestSlice_more hservice hlc hstep,
    fun s p target pt hp hpart hload => exec_flockRollCallTimeout target hp hpart hload⟩
  · intro s f src dst k l e e1 pt t who seq len o h ht hwho hseq hlen ho hservice
    have hup : t.service = 0 := by rw [ht, took_service, hservice]
    subst hwho hseq hlen ho
    exact ⟨exec_cm5Load h ht hup, exec_cm5Run h ht hup, fun u b => exec_cm5Read h ht hup, exec_cm5Load_malformed h ht⟩
  · intro s f src dst k w n l r e e1 pt h hpart hmode hlen hkeyed hold hn
    exact cm5At_repeated h hpart hmode hlen hkeyed hold hn 0x01 _
  · intro s hon
    exact congrArg Host.Outcome.next (if_neg hon)
  · intro s bits hon
    exact congrArg Host.Outcome.next (if_neg hon)
  · intro s p off v hcore hp
    refine ⟨fun hoff => ?_, fun r q hq hregs hr => ?_, exec_registerWrite_switch hcore⟩
    · rw [exec_registerWrite_core hp hcore, if_pos hoff]
    · subst hr
      rw [exec_registerWrite_core hp hcore, if_neg (by omega), if_pos (by omega), Nat.add_sub_cancel_left]
      rfl
  · intro s off v
    refine ⟨rfl, fun w hon hcfg hlo hhi hw => ?_, fun hoff => ?_⟩
    · subst hw
      exact if_pos ⟨hon, by rw [hcfg]; rfl, hlo, hhi⟩
    · refine if_neg fun h => ?_
      obtain ⟨hon, hcfg, -⟩ := h
      rcases hoff with h | h
      · exact absurd (h.symm.trans hon) Bool.false_ne_true
      · rw [h] at hcfg
        exact absurd hcfg Bool.false_ne_true
  · intro s port mode hport hpend
    obtain ⟨hmode, hgone, hflash⟩ := modeSet_modes (((List.range 4).map (4 * port + ·)).foldl linkDown (takenDown s port mode)) port mode
    exact ⟨modeTaken s port mode, exec_portModeTakedown hport hpend, hmode, hgone, hflash, fun i hi => modeTaken_down s port mode hi⟩
  · intro s link lane hlink hlane
    have htrained := exec_oxLaneRetraining hlink hlane true rfl
    have hfailed := exec_oxLaneRetraining hlink hlane false rfl
    rw [if_pos rfl] at htrained
    rw [if_neg Bool.false_ne_true] at hfailed
    refine ⟨_, htrained, ?_, ?_, ?_, hfailed⟩
    · rw [links_modScree, links_modScree, links_modScree]
    · rw [soft_modScree, soft_modScree, soft_modScree]
    exact resets_retrained s (lt_of_mem_linksOf hlink) hlane (fun r => { r with resets := sat32 (r.resets + 1) })
      (fun r => { r with corrected := sat32 (r.corrected + 1) }) (fun r => { r with corrected := sat32 (r.corrected + 1) }) fun _ => rfl

end Sys2Proof.Machine
end

section
/-! SUPPORT. What the device does for a command, besides answering it and destroying pairs, leaves the outstanding commands alone: one lemma
for each function of the model that a command's meaning may run. -/

namespace Sys2Proof.Machine

/-- A fold whose steps leave the outstanding commands alone leaves them alone. -/
theorem foldl_cmds {α : Type} {f : State → α → State} (h : ∀ s a, (f s a).cmds = s.cmds) (l : List α) (s : State) :
    (l.foldl f s).cmds = s.cmds := foldl_keeps State.cmds h l s

section
variable (s : State)

/-! ### Accessors -/

@[simp] theorem modCore_cmds (p : Nat) (f : Core → Core) : (modCore s p f).cmds = s.cmds := rfl
@[simp] theorem modDie_cmds (d : Nat) (f : Die → Die) : (modDie s d f).cmds = s.cmds := rfl
@[simp] theorem modEnd_cmds (x : Nat) (f : Endpoint → Endpoint) : (modEnd s x f).cmds = s.cmds := rfl
@[simp] theorem modSlice_cmds (k : Nat) (f : Slice → Slice) : (modSlice s k f).cmds = s.cmds := rfl
@[simp] theorem modSwitch_cmds (p : Nat) (f : Switch → Switch) : (modSwitch s p f).cmds = s.cmds := rfl
@[simp] theorem modBucket_cmds (t : Nat) (f : Bucket → Bucket) : (modBucket s t f).cmds = s.cmds := rfl
@[simp] theorem modPow_cmds (c : Nat) (f : Pow → Pow) : (modPow s c f).cmds = s.cmds := rfl
@[simp] theorem modTag_cmds (p tag : Nat) (f : DmaOp → DmaOp) : (modTag s p tag f).cmds = s.cmds := rfl
@[simp] theorem setGf_cmds (part g off n v : Nat) : (setGf s part g off n v).cmds = s.cmds := rfl
@[simp] theorem sendCells_cmds (x : Nat) (l : List Cell) : (sendCells s x l).cmds = s.cmds := rfl

/-! ### Power -/

@[simp] theorem raiseFloors_cmds (cs : List Nat) : (raiseFloors s cs).cmds = s.cmds := by
  unfold raiseFloors
  exact foldl_cmds (fun s _ => modPow_cmds s ..) cs s

@[simp] theorem awaken_cmds (c : Nat) : (awaken s c).cmds = s.cmds := rfl

@[simp] theorem lendRound_cmds : (lendRound s).cmds = s.cmds := by
  unfold lendRound
  refine foldl_cmds (fun s c => ?_) _ s
  split <;> rfl

@[simp] theorem shareLent_cmds : (shareLent s).cmds = s.cmds := by
  have h : ((allClusters s).foldl (fun s c => modPow s c (fun w => { w with target := min w.target 60 })) s).cmds = s.cmds :=
    foldl_cmds (fun s _ => modPow_cmds s ..) _ s
  unfold shareLent
  dsimp only
  split
  · exact (foldl_cmds (fun s _ => lendRound_cmds s) _ _).trans h
  · exact h

@[simp] theorem unlend_cmds (p : Nat) : (unlend s p).cmds = s.cmds := by
  unfold unlend
  dsimp only
  split <;> simp

@[simp] theorem stir_cmds (p : Nat) : (stir s p).cmds = s.cmds := by
  unfold stir
  split <;> simp

/-! ### Events and traps -/

@[simp] theorem postEvent_cmds (die : Nat) (r : EventRec) : (postEvent s die r).cmds = s.cmds := by
  unfold postEvent
  dsimp only
  split <;> rfl

@[simp] theorem trap_cmds (p t cause : Nat) (w : Why) : (trap s p t cause w).cmds = s.cmds := by
  unfold trap
  dsimp only
  split
  · rfl
  · split <;> rfl
  · rfl

@[simp] theorem trapHere_cmds (p t cause syncId : Nat) (detail : W64) : (trapHere s p t cause syncId detail).cmds = s.cmds := trap_cmds ..

@[simp] theorem trapOp_cmds (p : Nat) (o : IssueOp) (cause syncId : Nat) (detail : W64) : (trapOp s p o cause syncId detail).cmds = s.cmds :=
  trap_cmds ..

@[simp] theorem faultWaiters_cmds (p i : Nat) : (faultWaiters s p i).cmds = s.cmds := by
  unfold faultWaiters
  refine foldl_cmds (fun s t => ?_) _ s
  dsimp only
  split <;> simp

@[simp] theorem writeCtr_cmds (p i : Nat) (r : SyncCtr × Bool) : (writeCtr s p i r).cmds = s.cmds := by
  unfold writeCtr
  dsimp only
  split <;> simp

@[simp] theorem raiseFor_cmds (p i v : Nat) (o : IssueOp) : (raiseFor s p i v o).cmds = s.cmds := by
  unfold raiseFor
  dsimp only
  split <;> simp

@[simp] theorem opDone_cmds (p : Nat) (o : IssueOp) : (opDone s p o).cmds = s.cmds := by
  unfold opDone
  dsimp only
  split <;> simp

@[simp] theorem coreStop_cmds (p row word : Nat) (store : Bool) : (coreStop s p row word store).cmds = s.cmds := by simp [coreStop]

/-! ### Memory -/

@[simp] theorem readCore_cmds (p a n : Nat) : (readCore s p a n).1.cmds = s.cmds := by
  unfold readCore
  dsimp only
  split
  · simp
  · dsimp only
    split <;> rfl

@[simp] theorem dropSliceCv_cmds (key a : Nat) : (dropSliceCv s key a).cmds = s.cmds := by
  unfold dropSliceCv
  split <;> rfl

@[simp] theorem writeSlice_cmds (key a : Nat) (l : List Byte) (keepCv : Bool) : (writeSlice s key a l keepCv).cmds = s.cmds := by
  unfold writeSlice
  dsimp only
  split <;> simp

@[simp] theorem readSlice_cmds (key a n : Nat) : (readSlice s key a n).1.cmds = s.cmds := by
  unfold readSlice
  dsimp only
  split
  · dsimp only
    split <;> rfl
  · simp

@[simp] theorem integrityEvent_cmds (t sec cause : Nat) : (integrityEvent s t sec cause).cmds = s.cmds := postEvent_cmds ..

@[simp] theorem addSoft_cmds (kind unit reason count : Nat) : (addSoft s kind unit reason count).cmds = s.cmds := by
  unfold addSoft
  split <;> rfl

@[simp] theorem repairRow_cmds (t sec : Nat) : (repairRow s t sec).cmds = s.cmds := by
  unfold repairRow
  dsimp only
  split
  · simp
  · exact (foldl_cmds (fun s _ => addSoft_cmds s ..) _ _).trans (setTier_cmds ..)

@[simp] theorem correctSector_cmds (t sec : Nat) : (correctSector s t sec).cmds = s.cmds := by
  unfold correctSector
  dsimp only
  split <;> simp

@[simp] theorem checkSector_cmds (t sec : Nat) : (checkSector s t sec).1.cmds = s.cmds := by
  unfold checkSector
  split
  · dsimp only
    split <;> simp
  · simp
  · simp

@[simp] theorem checkSectors_cmds (t sec n : Nat) : (checkSectors s t sec n).1.cmds = s.cmds := by
  induction n generalizing s sec with
  | zero => rfl
  | succ k ih => simp [checkSectors, ih]

@[simp] theorem countMoved_cmds (t a n : Nat) : (countMoved s t a n).cmds = s.cmds := by
  unfold countMoved
  split <;> rfl

@[simp] theorem readTier_cmds (t a n : Nat) : (readTier s t a n).1.cmds = s.cmds := by simp [readTier]

@[simp] theorem writeTierGo_cmds (t n a : Nat) (l : List Byte) (r : Option Nat) : (writeTierGo s t n a l r).1.cmds = s.cmds := by
  induction n generalizing s a l r with
  | zero => rfl
  | succ k ih =>
    have hcheck := checkSector_cmds s t (a / 512)
    unfold writeTierGo
    dsimp only
    split
    · exact ih ..
    · split
      · simp [ih, storeSector]
      · split
        all_goals
          next h =>
            rw [h] at hcheck
            simpa [ih, storeSector] using hcheck

@[simp] theorem writeTier_cmds (t a : Nat) (l : List Byte) : (writeTier s t a l).1.cmds = s.cmds := by simp [writeTier]

@[simp] theorem putPiece_cmds (p : Nat) (d : Dest) (l : List Byte) (keepCv noting again : Bool) :
    (putPiece s p d l keepCv noting again).1.cmds = s.cmds := by
  unfold putPiece
  dsimp only
  split_ifs <;> simp

@[simp] theorem getPiece_cmds (p : Nat) (d : Dest) (n : Nat) : (getPiece s p d n).1.cmds = s.cmds := by
  have hread := readCore_cmds s (servedBy s d.pos) d.addr n
  unfold getPiece
  dsimp only
  split_ifs
  · split
    all_goals
      next h =>
        rw [h] at hread
        exact hread
  · simp
  · simp
  · simp
  · rfl

@[simp] theorem putMemGo_cmds (p die n a : Nat) (l : List Byte) : (putMemGo s p die n a l).1.cmds = s.cmds := by
  induction n generalizing s a l with
  | zero => rfl
  | succ k ih =>
    unfold putMemGo
    split
    · rfl
    · split
      · rfl
      · dsimp only
        split
        · simp
        · simp [ih]

@[simp] theorem putMem_cmds (p die a : Nat) (l : List Byte) : (putMem s p die a l).1.cmds = s.cmds := by
  unfold putMem
  split
  · rfl
  · split <;> simp

@[simp] theorem getMemGo_cmds (p die n a k : Nat) (acc : List Byte) : (getMemGo s p die n a k acc).1.cmds = s.cmds := by
  induction n generalizing s a k acc with
  | zero => rfl
  | succ n ih =>
    unfold getMemGo
    split
    · rfl
    · split
      · rfl
      · dsimp only
        split <;> simp [ih]

@[simp] theorem getMem_cmds (p die a n : Nat) : (getMem s p die a n).1.cmds = s.cmds := by
  unfold getMem
  split
  · rfl
  · split <;> simp

@[simp] theorem readBlocks_cmds (part die : Nat) (verify : Bool) (k a n : Nat) (acc : List Byte) :
    (readBlocks part die verify k a n acc s).1.cmds = s.cmds := by
  induction k generalizing s a n acc with
  | zero => rfl
  | succ k ih =>
    unfold readBlocks
    dsimp only
    split
    · rfl
    · split
      · rfl
      · have hpart := getMem_cmds s part die a (min n (a / 4096 * 4096 + 4096 - a))
        split
        · next s1 l h =>
          rw [h] at hpart
          split
          · have hwhole := getMem_cmds s1 part die (a / 4096 * 4096) 4096
            split
            · next h2 =>
              rw [h2] at hwhole
              split
              · exact (ih ..).trans (hwhole.trans hpart)
              · exact hwhole.trans hpart
            · next h2 =>
              rw [h2] at hwhole
              exact hwhole.trans hpart
          · exact (ih ..).trans hpart
        · next h =>
          rw [h] at hpart
          exact hpart

/-! ### What a pair sends -/

@[simp] theorem flushGo_cmds (q n : Nat) : (flushGo s q n).cmds = s.cmds := by
  induction n generalizing s with
  | zero => rfl
  | succ k ih =>
    unfold flushGo
    split
    · rfl
    · split
      · rfl
      · split
        · rfl
        · simp [ih]

@[simp] theorem flushEvents_cmds (q : Nat) : (flushEvents s q).cmds = s.cmds := flushGo_cmds ..

@[simp] theorem pushEvent_cmds (q op status scope : Nat) (body : List Byte) : (pushEvent s q op status scope body).cmds = s.cmds := by
  unfold pushEvent
  split <;> simp

@[simp] theorem jobEvent_cmds (p op status : Nat) (body : List Byte) : (jobEvent s p op status body).cmds = s.cmds := by
  unfold jobEvent
  exact foldl_cmds (fun s _ => pushEvent_cmds s ..) _ s

@[simp] theorem devEvent_cmds (op : Nat) (body : List Byte) : (devEvent s op body).cmds = s.cmds := by
  unfold devEvent
  exact foldl_cmds (fun s _ => pushEvent_cmds s ..) _ s

@[simp] theorem devFault_cmds (kind unitKind unit : Nat) (record : List Byte) : (devFault s kind unitKind unit record).cmds = s.cmds :=
  devEvent_cmds ..

@[simp] theorem jobFault_cmds (p kind unitKind unit : Nat) (record : List Byte) : (jobFault s p kind unitKind unit record).cmds = s.cmds :=
  jobEvent_cmds ..

@[simp] theorem setService_cmds (code : Nat) : (setService s code).cmds = s.cmds := devEvent_cmds ..

/-! ### Jobs that end -/

@[simp] theorem eachCore_cmds (pt : Part) (f : Core → Core) : (eachCore s pt f).cmds = s.cmds := by
  unfold eachCore
  exact foldl_cmds (fun s _ => modCore_cmds s ..) _ s

@[simp] theorem endJob_cmds (p code : Nat) : (endJob s p code).cmds = s.cmds := by
  unfold endJob
  split
  · rfl
  · dsimp only
    rw [jobEvent_cmds, modPart_cmds, foldl_cmds (fun s _ => modPow_cmds s ..)]
    split <;> simp

@[simp] theorem jobCheck_cmds (p : Nat) : (jobCheck s p).cmds = s.cmds := by
  unfold jobCheck
  split
  · rfl
  · split <;> simp

@[simp] theorem jobCheckAt_cmds (phys : Nat) : (jobCheckAt s phys).cmds = s.cmds := by
  unfold jobCheckAt
  split <;> simp

/-! ### Raises and channels -/

@[simp] theorem sendRaise_cmds (p pos dst : Nat) (src : RaiseSrc) (target syncId amt : Nat) :
    (sendRaise s p pos dst src target syncId amt).cmds = s.cmds := rfl

@[simp] theorem raiseGo_cmds (x : Ctx4) (n : Nat) : (raiseGo x n s).cmds = s.cmds := by
  induction n generalizing s with
  | zero => rfl
  | succ k ih =>
    unfold raiseGo
    split
    · rfl
    · split
      · split
        · rfl
        · simp [ih]
      · split
        · simp [ih]
        · rfl

@[simp] theorem raiseReady_cmds (p tag : Nat) : (raiseReady s p tag).cmds = s.cmds := by
  unfold raiseReady
  split
  · split <;> simp
  · rfl

@[simp] theorem raiseAcked_cmds (p tag : Nat) (ok : Bool) : (raiseAcked s p tag ok).cmds = s.cmds := by
  unfold raiseAcked
  dsimp only
  split
  · rfl
  · split
    · rw [jobCheckAt_cmds]
      split <;> simp
    · rw [raiseReady_cmds]
      split
      · simp
      · split <;> simp

@[simp] theorem hubRaise_cmds (l tag i v : Nat) : (hubRaise s l tag i v).cmds = s.cmds := rfl

@[simp] theorem transmit_cmds (p i : Nat) : (transmit s p i).cmds = s.cmds := by
  unfold transmit
  dsimp only
  split
  · next m _ _ _ _ _ =>
    have hread := readCore_cmds s p m.src m.len
    split
    all_goals
      next h =>
        rw [h] at hread
        exact hread
  · rfl

@[simp] theorem nextSend_cmds (p i : Nat) : (nextSend s p i).cmds = s.cmds := by
  unfold nextSend
  dsimp only
  split <;> simp

@[simp] theorem sendEnds_cmds (p i : Nat) (acked : Bool) (fail : Option W64) : (sendEnds s p i acked fail).cmds = s.cmds := by
  unfold sendEnds
  dsimp only
  split
  · rfl
  · rw [jobCheckAt_cmds, nextSend_cmds]
    split <;> simp

@[simp] theorem countWait_cmds (p i : Nat) (failed : Bool) : (countWait s p i failed).cmds = s.cmds := rfl

@[simp] theorem attemptFails_cmds (p i outcome : Nat) : (attemptFails s p i outcome).cmds = s.cmds := by
  unfold attemptFails
  dsimp only
  split
  · simp
  · split_ifs <;> simp

/-! ### Buckets -/

@[simp] theorem startGroup_cmds (part g : Nat) : (startGroup s part g).cmds = s.cmds := by
  unfold startGroup
  split
  · rfl
  · dsimp only
    split_ifs <;> rfl

@[simp] theorem bucketEvent_cmds (tag : Nat) (entry : List Byte) : (bucketEvent s tag entry).cmds = s.cmds := jobEvent_cmds ..

@[simp] theorem beginRaises_cmds (tag : Nat) (l : List (Nat × Nat × Nat)) : (beginRaises s tag l).cmds = s.cmds := by
  unfold beginRaises
  dsimp only
  split
  · split <;> rfl
  · rfl

@[simp] theorem failBucket_cmds (tag reason unit : Nat) : (failBucket s tag reason unit).cmds = s.cmds := by
  unfold failBucket
  dsimp only
  split
  · rfl
  · rw [beginRaises_cmds]
    split <;> simp

@[simp] theorem bucketCheck_cmds (tag : Nat) : (bucketCheck s tag).cmds = s.cmds := by
  unfold bucketCheck
  dsimp only
  split
  · rw [foldl_cmds (fun s _ => startGroup_cmds s ..)]
    simp
  · rfl

@[simp] theorem sendLists_cmds (tag : Nat) : (sendLists s tag).cmds = s.cmds := by
  unfold sendLists
  refine foldl_cmds (fun s r => ?_) _ s
  dsimp only
  split <;> simp

@[simp] theorem sendTotal_cmds (tag : Nat) (dies : List Nat) (t : Nat) (l : List Byte) : (sendTotal s tag dies t l).cmds = s.cmds := rfl

@[simp] theorem openRound_cmds (tag round : Nat) (parity : Bool) : (openRound s tag round parity).cmds = s.cmds := by
  unfold openRound
  dsimp only
  split
  · simp
  · rw [sendLists_cmds, foldl_cmds (fun s _ => sendTotal_cmds s ..), setBucket_cmds]

/-! ### Stops, starts and resets -/

@[simp] theorem emptyContexts_cmds (pt : Part) : (emptyContexts s pt).cmds = s.cmds := by
  unfold emptyContexts
  exact foldl_cmds (fun s _ => modSlice_cmds s ..) _ s

@[simp] theorem emptyNetwork_cmds (pt : Part) : (emptyNetwork s pt).cmds = s.cmds := by
  unfold emptyNetwork
  rw [emptyContexts_cmds, foldl_cmds (fun s _ => modSwitch_cmds s ..), eachCore_cmds]

@[simp] theorem startNetwork_cmds (pt : Part) : (startNetwork s pt).cmds = s.cmds := by
  unfold startNetwork
  exact foldl_cmds (fun s _ => modSwitch_cmds s ..) _ s

@[simp] theorem capture_cmds (x : Scope) : (capture s x).cmds = s.cmds := by
  unfold capture
  split <;> rfl

@[simp] theorem addCensus_cmds (x : Scope) (time : Nat) (secs : List (List Byte)) : (addCensus s x time secs).cmds = s.cmds := by
  unfold addCensus
  split <;> rfl

@[simp] theorem runDeferred_cmds (p : Nat) (e : Nat × Nat) : (runDeferred s p e).cmds = s.cmds := by
  unfold runDeferred
  split_ifs <;> simp

@[simp] theorem setFrozen_cmds (p : Nat) (frozen : Bool) : (setFrozen s p frozen).cmds = s.cmds := by
  unfold setFrozen
  dsimp only
  split
  · rfl
  · split
    · rfl
    · exact (foldl_cmds (fun s _ => runDeferred_cmds s ..) _ _).trans rfl
  · rfl

@[simp] theorem freezePart_cmds (pt : Part) (frozen : Bool) : (freezePart s pt frozen).cmds = s.cmds := by
  unfold freezePart
  exact foldl_cmds (fun s _ => setFrozen_cmds s ..) _ s

@[simp] theorem censusEnds_cmds (x : Scope) (time : Nat) (l : List CensusFail) : (censusEnds s x time l).cmds = s.cmds := by
  unfold censusEnds
  dsimp only
  split
  · rfl
  · rw [setService_cmds, addCensus_cmds, foldl_cmds (fun s _ => devFault_cmds s ..)]

@[simp] theorem dropUpdates_cmds (part : Nat) : (dropUpdates s part).cmds = s.cmds := by
  unfold dropUpdates
  dsimp only
  rw [foldl_cmds, foldl_cmds (fun s _ => modDie_cmds s ..)]
  intro s g
  split
  · rfl
  · split <;> rfl

@[simp] theorem freeBuckets_cmds (pt : Part) : (freeBuckets s pt).cmds = s.cmds := by
  unfold freeBuckets
  exact foldl_cmds (fun s _ => modBucket_cmds s ..) _ s

@[simp] theorem quietPairs_cmds (part : Nat) : (quietPairs s part).cmds = s.cmds := by
  unfold quietPairs
  exact foldl_cmds (fun s _ => modQp_cmds ..) _ s

@[simp] theorem closeEnds_cmds (pt : Part) : (closeEnds s pt).cmds = s.cmds := by
  unfold closeEnds
  exact foldl_cmds (fun s _ => modEnd_cmds s ..) _ s

@[simp] theorem stopPart_cmds (part : Nat) (x : Scope) : (stopPart s part x).cmds = s.cmds := by
  unfold stopPart
  split <;> simp

@[simp] theorem stirPart_cmds (pt : Part) : (stirPart s pt).cmds = s.cmds := by
  unfold stirPart
  exact foldl_cmds (fun s _ => stir_cmds s ..) _ s

@[simp] theorem wakePart_cmds (pt : Part) : (wakePart s pt).cmds = s.cmds := by
  unfold wakePart
  exact foldl_cmds (fun s _ => awaken_cmds s ..) _ s

@[simp] theorem startJob_cmds (part policy flags report : Nat) : (startJob s part policy flags report).cmds = s.cmds := by
  unfold startJob
  split
  · rfl
  · dsimp only
    rw [jobCheck_cmds, modPart_cmds, stirPart_cmds, eachCore_cmds, startNetwork_cmds, emptyNetwork_cmds, foldl_cmds (fun s _ => modCore_cmds s ..), wakePart_cmds]

@[simp] theorem restartPart_cmds (part : Nat) : (restartPart s part).cmds = s.cmds := by
  unfold restartPart
  split
  · rfl
  · dsimp only
    rw [jobCheck_cmds, modPart_cmds, stirPart_cmds, wakePart_cmds, startNetwork_cmds, emptyNetwork_cmds, foldl_cmds (fun s _ => modCore_cmds s ..)]

@[simp] theorem abortPart_cmds (part code : Nat) (x : Scope) : (abortPart s part code x).cmds = s.cmds := by
  unfold abortPart
  split
  · rfl
  · split <;> simp

@[simp] theorem resetCluster_cmds (out : Nat → Bool) (c : Nat) : (resetCluster out s c).cmds = s.cmds := by
  unfold resetCluster countReset
  rw [modScree_cmds, foldl_cmds]
  intro s p
  split <;> rfl

@[simp] theorem sweepLeaves_cmds (p : Nat) (sounded : Bool) : (sweepLeaves s p sounded).cmds = s.cmds := by
  unfold sweepLeaves sweepEnds
  split
  · dsimp only
    split <;> rfl
  · rfl

@[simp] theorem endTest_cmds (p : Nat) (sounded : Bool) : (endTest s p sounded).cmds = s.cmds := sweepLeaves_cmds ..

@[simp] theorem dropActions_cmds (part : Nat) : (dropActions s part).cmds = s.cmds := by
  unfold dropActions
  rw [modPart_cmds, foldl_cmds]
  intro s a
  split <;> simp

@[simp] theorem returnLanding_cmds (d : Nat) : (returnLanding s d).cmds = s.cmds := by
  unfold returnLanding
  split
  · refine foldl_cmds (fun s r => ?_) _ s
    split
    · rfl
    · refine foldl_cmds (fun s b => ?_) _ s
      split
      · rfl
      · refine foldl_cmds (fun _ _ => ?_) _ s
        rfl
  · rfl

@[simp] theorem resetTransit_cmds (d : Nat) : (resetTransit s d).cmds = s.cmds := by
  unfold resetTransit
  dsimp only
  rw [modDie_cmds, foldl_cmds]
  · exact returnLanding_cmds ..
  · intro s k
    rfl

@[simp] theorem beginDieReset_cmds (d cause : Nat) : (beginDieReset s d cause).cmds = s.cmds := by
  unfold beginDieReset
  dsimp only
  rw [modDie_cmds, foldl_cmds (fun s _ => endTest_cmds s ..), resetTransit_cmds, foldl_cmds (fun s _ => modSlice_cmds s ..),
    foldl_cmds (fun s _ => resetCluster_cmds s ..), foldl_cmds, capture_cmds]
  intro s p
  split
  · rfl
  · split <;> simp

@[simp] theorem writeGeneration_cmds : (writeGeneration s).cmds = s.cmds := by simp [writeGeneration]

/-- A bucket that is open over a lost pair fails (R280). -/
def failOver (q : Nat) (s : State) (t : Nat) : State :=
  let b := getBucket s t
  if b.state = 1 ∧ b.peers.any (fun e => e.1 == q && q != 0) then failBucket s t 5 else s

@[simp] theorem failOver_cmds (q t : Nat) : (failOver q s t).cmds = s.cmds := by
  unfold failOver
  dsimp only
  split <;> simp

/-- A pair in error loses its own work, and the buckets open over it fail (R373). -/
theorem qpError_eq (q : Nat) : qpError s q = match getQp s q with
  | none => s
  | some v =>
    if v.error then s
    else (List.range 1024).foldl (failOver q)
      (setQp s q (some { v with error := true, outstanding := [], txq := [], later := [], events := [], recvs := [], rnrWait := false })) := rfl

@[simp] theorem qpError_cmds (q : Nat) : (qpError s q).cmds = s.cmds := by
  rw [qpError_eq]
  split
  · rfl
  · split
    · rfl
    · rw [foldl_cmds (fun s t => failOver_cmds s q t), setQp_cmds]

end

end Sys2Proof.Machine
end

section
/-! SUPPORT. Admitted commands: what admission leaves unchanged, a command that is answered, and the device's commands (R400 to R402). -/

namespace Sys2Proof.Machine

/-! ### Admission -/

/-- Admission records the sequence number, may write its floor to flash, uses a free value, sets the turn, and makes the command the one that is
outstanding. -/
theorem admitted_eq (s : State) (m : Mbx) (op : Nat) : ∃ (h : Nat) (seen : List Nat) (n floor free turn : Nat), admitted s m op =
    { s with seqHigh := h, seqSeen := seen, seqFlash := n, flash := { s.flash with seqFloor := floor }, freeSeq := free, turn := turn,
             cmds := [cmdOf s m op] } := by
  unfold admitted recordSeq
  dsimp only
  split_ifs <;> exact ⟨_, _, _, _, _, _, rfl⟩

/-- What reads none of that reads the same once a command has been admitted. -/
theorem admitted_keeps {β : Type} (g : State → β)
    (hg : ∀ (t : State) (h : Nat) (seen : List Nat) (n floor free turn : Nat) (l : List Cmd),
      g { t with seqHigh := h, seqSeen := seen, seqFlash := n, flash := { t.flash with seqFloor := floor }, freeSeq := free, turn := turn,
                 cmds := l } = g t)
    (s : State) (m : Mbx) (op : Nat) : g (admitted s m op) = g s := by
  obtain ⟨h, seen, n, floor, free, turn, he⟩ := admitted_eq s m op
  rw [he]
  exact hg s h seen n floor free turn _

section
variable (s : State) (m : Mbx) (op : Nat)

@[simp] theorem admitted_cmds : (admitted s m op).cmds = [cmdOf s m op] := rfl
@[simp] theorem admitted_fab : (admitted s m op).fab = s.fab := admitted_keeps State.fab (fun _ _ _ _ _ _ _ _ => rfl) ..
@[simp] theorem admitted_service : (admitted s m op).service = s.service := admitted_keeps State.service (fun _ _ _ _ _ _ _ _ => rfl) ..
@[simp] theorem admitted_product : (admitted s m op).product = s.product := admitted_keeps State.product (fun _ _ _ _ _ _ _ _ => rfl) ..
@[simp] theorem admitted_charged : (admitted s m op).charged = s.charged := admitted_keeps State.charged (fun _ _ _ _ _ _ _ _ => rfl) ..
@[simp] theorem admitted_parts : (admitted s m op).parts = s.parts := admitted_keeps State.parts (fun _ _ _ _ _ _ _ _ => rfl) ..
@[simp] theorem admitted_regions : (admitted s m op).regions = s.regions := admitted_keeps State.regions (fun _ _ _ _ _ _ _ _ => rfl) ..
@[simp] theorem admitted_modePend : (admitted s m op).modePend = s.modePend := admitted_keeps State.modePend (fun _ _ _ _ _ _ _ _ => rfl) ..
@[simp] theorem admitted_portMode : (admitted s m op).portMode = s.portMode := admitted_keeps State.portMode (fun _ _ _ _ _ _ _ _ => rfl) ..
@[simp] theorem admitted_lifeCycle : lifeCycle (admitted s m op).flash.lc = lifeCycle s.flash.lc :=
  admitted_keeps (fun s => lifeCycle s.flash.lc) (fun _ _ _ _ _ _ _ _ => rfl) ..
@[simp] theorem devNs_admitted : devNs (admitted s m op) = devNs s := admitted_keeps devNs (fun _ _ _ _ _ _ _ _ => rfl) ..
@[simp] theorem getPart_admitted (p : Nat) : getPart (admitted s m op) p = getPart s p :=
  admitted_keeps (fun s => getPart s p) (fun _ _ _ _ _ _ _ _ => rfl) ..
@[simp] theorem getQp_admitted (q : Nat) : getQp (admitted s m op) q = getQp s q :=
  admitted_keeps (fun s => getQp s q) (fun _ _ _ _ _ _ _ _ => rfl) ..
@[simp] theorem getEntry_admitted (l k : Nat) : getEntry (admitted s m op) l k = getEntry s l k :=
  admitted_keeps (fun s => getEntry s l k) (fun _ _ _ _ _ _ _ _ => rfl) ..
@[simp] theorem getDie_admitted (d : Nat) : getDie (admitted s m op) d = getDie s d :=
  admitted_keeps (fun s => getDie s d) (fun _ _ _ _ _ _ _ _ => rfl) ..
@[simp] theorem getBucket_admitted (t : Nat) : getBucket (admitted s m op) t = getBucket s t :=
  admitted_keeps (fun s => getBucket s t) (fun _ _ _ _ _ _ _ _ => rfl) ..
@[simp] theorem getRegion_admitted (k : Nat) : getRegion (admitted s m op) k = getRegion s k :=
  admitted_keeps (fun s => getRegion s k) (fun _ _ _ _ _ _ _ _ => rfl) ..
@[simp] theorem lportExists_admitted (l : Nat) : lportExists (admitted s m op) l = lportExists s l :=
  admitted_keeps (fun s => lportExists s l) (fun _ _ _ _ _ _ _ _ => rfl) ..
@[simp] theorem dieOk_admitted (d : Nat) : dieOk (admitted s m op) d = dieOk s d :=
  admitted_keeps (fun s => dieOk s d) (fun _ _ _ _ _ _ _ _ => rfl) ..
@[simp] theorem tenant_admitted (x : Mbx) : tenant (admitted s m op) x = tenant s x :=
  admitted_keeps (fun s => tenant s x) (fun _ _ _ _ _ _ _ _ => rfl) ..

end

/-! ### Commands that are answered -/

/-- A row of the catalogue whose meaning, the function `f`, completes with OK. -/
theorem answers_of_doOp {s t : State} {m : Mbx} {i : Instr} {op : Nat} {b : List Byte} (f : State → CmdRes) (hf : ∀ u, doOp u m op = f u)
    (hrow : (i, op) ∈ mailRows m) (h : Admits s m op) (hdo : f (admitted s m op) = (t, .done 0 b)) (hcmds : t.cmds = [cmdOf s m op]) :
    Answers i s m op t b :=
  (mailboxCommandsRun s m (i, op) hrow h).1 t 0 b ((hf _).trans hdo) hcmds

/-- A row of the catalogue whose meaning, the function `f`, waits. -/
theorem exec_of_doOp_wait {s t : State} {m : Mbx} {i : Instr} {op : Nat} (f : State → CmdRes) (hf : ∀ u, doOp u m op = f u)
    (hrow : (i, op) ∈ mailRows m) (h : Admits s m op) (hdo : f (admitted s m op) = (t, .wait)) (hset : Settled t) :
    exec i s = .next (orDenied s m op t) :=
  (mailboxCommandsRun s m (i, op) hrow h).2 t ((hf _).trans hdo) hset

/-- Entry `n` of the catalogue is a row of it. -/
theorem mailRow_mem {m : Mbx} {e : Instr × Nat} (n : Nat) (h : (mailRows m)[n]? = some e) : e ∈ mailRows m := List.mem_of_getElem? h

/-! ### Fields of an answer -/

theorem slice_eq_take_drop {l : List Byte} {off n : Nat} (h : off + n ≤ l.length) : slice l off n = (l.drop off).take n := by
  refine List.ext_getElem (by simp [length_slice]; omega) fun i hi _ => ?_
  rw [length_slice] at hi
  simp [slice, List.getD_eq_getElem?_getD, List.getElem?_eq_getElem (show off + i < l.length by omega)]

/-- A body whose fields have the widths `w` has field `i` behind the fields before it. -/
theorem slice_flatten {l : List (List Byte)} {w : List Nat} (hw : l.map List.length = w) (i off n : Nat) (f : List Byte) (hf : l[i]? = some f)
    (hoff : (w.take i).sum = off) (hn : f.length = n) : slice l.flatten off n = f := by
  obtain ⟨hi, rfl⟩ := List.getElem?_eq_some_iff.1 hf
  have hbefore : (l.take i).flatten.length = off := by rw [List.length_flatten, List.map_take, hw, hoff]
  have hsplit : l.flatten = (l.take i).flatten ++ (l[i] ++ (l.drop (i + 1)).flatten) := by
    rw [← List.flatten_cons, ← List.drop_eq_getElem_cons hi, ← List.flatten_append, List.take_append_drop]
  rw [hsplit, slice_eq_take_drop (by simp [hbefore, hn]), List.drop_left' hbefore, List.take_left' hn]

theorem numAt_one {l : List Byte} {off v : Nat} (h : slice l off 1 = leBytes 1 v) : numAt l off 1 = v % 256 := by
  rw [numAt, h, leNat_leBytes]
  rfl

/-- The fields that DEVICE_STATUS answers (R401). -/
def statusFields (s : State) (m : Mbx) : List (List Byte) :=
  [slice m.body 0 8, leBytes 1 (productCode s.product), leBytes 1 0, leBytes 1 (lifeCycle s.flash.lc), leBytes 1 s.service,
   leBytes 1 (diesOk s), leBytes 1 s.ddrSpeed, leBytes 1 s.ddrDimms, leBytes 1 s.ddrGib, leBytes 2 s.unsounded, leBytes 1 s.sweepMin,
   leBytes 1 ((allClusters s).filter (fun c => cluState s c == 0)).length, leBytes 2 (1024 - tagsRanged s), leBytes 2 (4096 - qpCount s),
   leBytes 8 s.seqHigh, leBytes 8 (devNs s), leBytes 8 (bitsOf 64 (fun n => (getPart s n).isSome)), leBytes 1 (tget 0 s.portMode 0),
   leBytes 1 (tget 0 s.portMode 1), leBytes 1 (bitsOf 8 (fun l => (getLport s l).up)), zeros 13]

def statusWidths : List Nat := [8, 1, 1, 1, 1, 1, 1, 1, 1, 2, 1, 1, 2, 2, 8, 8, 8, 1, 1, 1, 13]

theorem statusFields_widths (s : State) (m : Mbx) : (statusFields s m).map List.length = statusWidths := by
  simp [statusFields, statusWidths, leBytes_length, length_slice, zeros]

theorem doDeviceStatus_eq {s : State} {m : Mbx} (hbody : bOver m 8 = false) :
    doDeviceStatus s m = (s, .done 0 (statusFields s m).flatten) := by
  rw [doDeviceStatus, hbody, if_neg (by simp)]
  simp only [statusFields, List.flatten_cons, List.flatten_nil, List.append_assoc, List.append_nil]
  rfl

/-! ### The device's commands (R400 to R402) -/

section
variable {s : State} {m : Mbx}

theorem deviceStatus_row (h : Admits s m 0x0001) (hbody : bOver m 8 = false) : ∃ b, Answers (.deviceStatus m) s m 0x0001 (admitted s m 0x0001) b ∧
    b.length = 64 ∧ b.take 8 = slice m.body 0 8 ∧ numAt b 8 1 = productCode s.product ∧ numAt b 10 1 = lifeCycle s.flash.lc % 256 ∧
    numAt b 11 1 = s.service % 256 ∧ slice b 24 8 = leBytes 8 (admitted s m 0x0001).seqHigh ∧ slice b 32 8 = leBytes 8 (devNs s) := by
  have hlen : (statusFields (admitted s m 0x0001) m).flatten.length = 64 := by rw [List.length_flatten, statusFields_widths]; rfl
  have hfield := slice_flatten (statusFields_widths (admitted s m 0x0001) m)
  have hcode : productCode s.product % 256 = productCode s.product := by cases s.product <;> rfl
  have hnonce := hfield 0 0 8 _ rfl rfl (length_slice ..)
  rw [slice_eq_take_drop (by omega), List.drop_zero] at hnonce
  have hproduct := numAt_one (hfield 1 8 1 _ rfl rfl (leBytes_length ..))
  have hlife := numAt_one (hfield 3 10 1 _ rfl rfl (leBytes_length ..))
  have hservice := numAt_one (hfield 4 11 1 _ rfl rfl (leBytes_length ..))
  have hns := hfield 15 32 8 _ rfl rfl (leBytes_length ..)
  simp only [admitted_product, admitted_lifeCycle, admitted_service, devNs_admitted, hcode] at hproduct hlife hservice hns
  exact ⟨_, answers_of_doOp (doDeviceStatus · m) (fun _ => rfl) (mailRow_mem 0 rfl) h (doDeviceStatus_eq hbody) rfl, hlen, hnonce, hproduct, hlife, hservice,
    hfield 14 24 8 _ rfl rfl (leBytes_length ..), hns⟩

theorem subscribe_row (h : Admits s m 0x0002) (hbody : bOver m 8 = false) :
    Answers (.subscribe m) s m 0x0002 (modQp (admitted s m 0x0002) m.qpn (fun v => { v with subs := BitVec.ofNat 64 (bf m 0 8) })) [] := by
  refine answers_of_doOp (doSubscribe · m) (fun _ => rfl) (mailRow_mem 1 rfl) h ?_ rfl
  rw [doSubscribe, hbody]
  rfl

theorem doPortMode_eq {s : State} (hport : bf m 0 1 ≤ 1) (hmode : bf m 1 1 ≤ 2) (hbody : bOver m 2 = false)
    (hnew : tget 0 s.portMode (bf m 0 1) ≠ bf m 1 1) :
    doPortMode s m = ({ s with modePend := tset none s.modePend (bf m 0 1) (some (bf m 1 1)) }, .done 0 []) := by
  rw [doPortMode, hbody, if_neg (by simp; omega), if_neg hnew]
  rfl

theorem portMode_row (h : Admits s m 0x0003) (hport : bf m 0 1 ≤ 1) (hmode : bf m 1 1 ≤ 2) (hbody : bOver m 2 = false)
    (hnew : tget 0 s.portMode (bf m 0 1) ≠ bf m 1 1) : Answers (.portMode m) s m 0x0003
      { admitted s m 0x0003 with modePend := tset none s.modePend (bf m 0 1) (some (bf m 1 1)) } [] := by
  have hdo := doPortMode_eq (s := admitted s m 0x0003) hport hmode hbody (by rwa [admitted_portMode])
  rw [admitted_modePend] at hdo
  exact answers_of_doOp (doPortMode · m) (fun _ => rfl) (mailRow_mem 2 rfl) h hdo rfl

/-- PTP runs from the cycle `n` on at the port and in the profile `p`, which flash keeps; what was under way is dropped (R368, R369). -/
def ptpChosen (s : State) (n : Nat) (p : Option (Nat × Nat)) : State :=
  { s with ptpPort := p, ptpHeard := n, ptpSync := none, ptpDelay := none, ptpReq := none, ptpFree := true, flash := { s.flash with ptp := p } }

theorem flash_ptp_eta (f : Flash) (p : Option (Nat × Nat)) : { { f with ptp := p } with ptp := f.ptp } = f := rfl

theorem doPtpSet_eq {s : State} (hport : lportExists s (bf m 0 1) = true) (hversion : bf m 1 1 ≤ 2) (hbody : bOver m 2 = false) :
    doPtpSet s m = (ptpChosen s s.fab (if bf m 1 1 = 0 then none else some (bf m 0 1, bf m 1 1)), .done 0 []) := by
  rw [doPtpSet, hbody, hport, if_neg (by simp; omega)]
  rfl

theorem ptpSet_row {p : Option (Nat × Nat)} (h : Admits s m 0x0005) (hport : lportExists s (bf m 0 1) = true) (hversion : bf m 1 1 ≤ 2)
    (hbody : bOver m 2 = false) (hp : p = if bf m 1 1 = 0 then none else some (bf m 0 1, bf m 1 1)) :
    Answers (.ptpSet m) s m 0x0005 (ptpChosen (admitted s m 0x0005) s.fab p) [] := by
  have hdo := doPtpSet_eq (s := admitted s m 0x0005) ((lportExists_admitted ..).trans hport) hversion hbody
  rw [admitted_fab, ← hp] at hdo
  exact answers_of_doOp (doPtpSet · m) (fun _ => rfl) (mailRow_mem 4 rfl) h hdo rfl

/-- The device's resets are forgotten (R402). -/
def reinstated (s : State) (l : List (Nat × Nat × Nat)) : State :=
  { s with charged := l, flash := { s.flash with windows := l.map (fun e => (e.1, e.2.1)) } }

theorem doReinstate_eq {s : State} (hbody : bOver m 0 = false) : doReinstate s m =
    (if s.service = 2 then { reinstated s (s.charged.filter (fun e => e.1 != deviceKey)) with resetPend := some 1 }
     else if s.service = 1 then setService (reinstated s (s.charged.filter (fun e => e.1 != deviceKey))) 0
     else reinstated s (s.charged.filter (fun e => e.1 != deviceKey)), .done 0 []) := by
  rw [doReinstate, hbody, if_neg (by simp)]
  dsimp only
  split_ifs <;> rfl

theorem reinstate_row (h : Admits s m 0x0006) (hbody : bOver m 0 = false) : Answers (.reinstate m) s m 0x0006
    (if s.service = 2 then { reinstated (admitted s m 0x0006) (s.charged.filter (fun e => e.1 != deviceKey)) with resetPend := some 1 }
     else if s.service = 1 then setService (reinstated (admitted s m 0x0006) (s.charged.filter (fun e => e.1 != deviceKey))) 0
     else reinstated (admitted s m 0x0006) (s.charged.filter (fun e => e.1 != deviceKey))) [] := by
  refine answers_of_doOp (doReinstate · m) (fun _ => rfl) (mailRow_mem 5 rfl) h ?_ ?_
  · refine (doReinstate_eq hbody).trans ?_
    rw [admitted_service, admitted_charged]
  · split_ifs
    · rfl
    · rw [setService_cmds]
      rfl
    · rfl

theorem dieReset_row (h : Admits s m 0x0007) (hdie : dieOk s (bf m 0 1) = true) (hbody : bOver m 1 = false)
    (hidle : (getDie s (bf m 0 1)).resetting = false) :
    exec (.dieReset m) s = .next (orDenied s m 0x0007 (beginDieReset (admitted s m 0x0007) (bf m 0 1) 0xF0)) := by
  refine exec_of_doOp_wait (doDieReset · m) (fun _ => rfl) (mailRow_mem 6 rfl) h ?_ ?_
  · rw [doDieReset, dieOk_admitted, getDie_admitted, hdie, hbody, hidle]
    rfl
  · simp [Settled, cmdOf]

theorem deviceReset_row (h : Admits s m 0x0008) (hmode : bf m 0 1 ≤ 1) (hbody : bOver m 1 = false) : Answers (.deviceReset m) s m 0x0008
    { admitted s m 0x0008 with resetPend := some 0, bootFull := decide (bf m 0 1 = 1) } [] := by
  refine answers_of_doOp (doDeviceReset · m) (fun _ => rfl) (mailRow_mem 7 rfl) h ?_ rfl
  rw [doDeviceReset, hbody, if_neg (by simp; omega)]
  rfl

/-- With no partition there is no job to stop. -/
theorem doShutdown_eq {s : State} (hmode : bf m 0 1 = 0) (hbody : bOver m 1 = false) (hparts : ∀ p, getPart s p = none) : doShutdown s m =
    (shutdownWrites (setService { s with outBefore := s.service, sweep := [], sounding := [], sweepFrom := none, sweepOut := [] } 3),
      .done 0 (zeros 8)) := by
  rw [doShutdown, hbody, hmode, if_neg (by simp), foldl_fixed_of_mem (fun p _ => by rw [hparts p])]
  rfl

theorem shutdown_row (h : Admits s m 0x0009) (hmode : bf m 0 1 = 0) (hbody : bOver m 1 = false) (hparts : s.parts = []) :
    Answers (.shutdown m) s m 0x0009 (shutdownWrites (setService
      { admitted s m 0x0009 with outBefore := s.service, sweep := [], sounding := [], sweepFrom := none, sweepOut := [] } 3)) (zeros 8) := by
  refine answers_of_doOp (doShutdown · m) (fun _ => rfl) (mailRow_mem 8 rfl) h ((doShutdown_eq hmode hbody fun p => ?_).trans ?_) ?_
  · rw [getPart_admitted, getPart, hparts]
    rfl
  · rw [admitted_service]
    rfl
  · rw [shutdownWrites, writeGeneration_cmds]
    exact setService_cmds ..

end

/-! ### A command whose pair goes (R389) -/

/-- The command `c` under the pair number `n`. -/
def renamed (c : Cmd) (n : Nat) : Cmd := { c with m := { c.m with qpn := n } }

/-- `c` is the only command outstanding, under its own number or under a number above it that the loss of its pair gave it. -/
def SoleCmd (c : Cmd) (t : State) : Prop := ∃ n, t.cmds = [renamed c n] ∧ n % 2 ^ 24 = c.m.qpn % 2 ^ 24 ∧ c.m.qpn ≤ n

section
variable {c : Cmd} {t : State}

theorem soleCmd_of_cmds {u : State} (h : SoleCmd c t) (hu : u.cmds = t.cmds) : SoleCmd c u := by
  obtain ⟨n, hn⟩ := h
  exact ⟨n, by rwa [hu]⟩

theorem orphan_sole (h : SoleCmd c t) (q : Nat) : SoleCmd c (orphan t q) := by
  obtain ⟨n, hcmds, hmod, hle⟩ := h
  by_cases hq : n = q
  · exact ⟨q + 2 ^ 24 * (n / 2 ^ 24 + 1), by simp [orphan, hcmds, hq, renamed], by omega, by omega⟩
  · exact ⟨n, by simp [orphan, hcmds, hq, renamed], hmod, hle⟩

theorem destroyQp_sole (h : SoleCmd c t) (q : Nat) : SoleCmd c (destroyQp t q) :=
  soleCmd_of_cmds (orphan_sole (soleCmd_of_cmds h (qpError_cmds t q)) q) rfl

theorem destroyQps_sole (h : SoleCmd c t) (f : Qp → Bool) : SoleCmd c (destroyQps t f) :=
  List.foldlRecOn (motive := SoleCmd c) _ _ h fun _ hu q _ => destroyQp_sole hu q

theorem removeEntry_sole (h : SoleCmd c t) (l k : Nat) : SoleCmd c (removeEntry t l k) := by
  rw [removeEntry]
  refine soleCmd_of_cmds (destroyQps_sole h (fun v => v.lport == l && entryOf v.owner == k)) ?_
  split_ifs <;> rfl

/-- The command is found under the number that it has now. -/
theorem nowOf_sole (h : SoleCmd c t) : ∃ n, nowOf t c = renamed c n ∧ t.cmds = [renamed c n] := by
  obtain ⟨n, hcmds, hmod, hle⟩ := h
  refine ⟨n, ?_, hcmds⟩
  obtain rfl | hne := eq_or_ne n c.m.qpn
  · exact nowOf_outstanding (by simp [hcmds, renamed, sameCmd])
  · have hlost : t.cmds.any (fun x => sameCmd x c.m) = false := by simp [hcmds, renamed, sameCmd, hne]
    have hfound : newerOf c c (renamed c n) = renamed c n := if_pos ⟨hmod, rfl, by simp only [renamed]; omega⟩
    rw [nowOf, hlost, if_neg (by simp), hcmds]
    exact hfound

theorem settleCmd_sole (h : SoleCmd c t) (st : Nat) (b : List Byte) : (settleCmd c (t, .done st b)).cmds = [] := by
  obtain ⟨n, hnow, hcmds⟩ := nowOf_sole h
  simp [settleCmd, hnow, hcmds, sameCmd_self]

end

/-! ### Addresses (R400) -/

section
variable {s : State} {m : Mbx}

theorem admitted_sole (op : Nat) : SoleCmd (cmdOf s m op) (admitted s m op) := ⟨m.qpn, rfl, rfl, le_rfl⟩

/-- The entry is of the device or of a partition that exists. -/
def OwnerStands (s : State) (k : Nat) : Prop := k = 0 ∨ k ≤ 64 ∧ (getPart s (k - 1)).isSome = true

theorem ownerStands_admitted {op k : Nat} (h : OwnerStands s k) : OwnerStands (admitted s m op) k := by rwa [OwnerStands, getPart_admitted]

theorem doOp_addrSet (u : State) (m : Mbx) : doOp u m 0x0004 = doAddrSet u m := rfl

theorem found_of_ownerStands {k : Nat} (h : OwnerStands s k) : ¬ (k ≠ 0 ∧ (k > 64 ∨ (getPart s (k - 1)).isNone = true)) := by
  rintro ⟨hne, hbad⟩
  obtain h0 | ⟨hle, hsome⟩ := h
  · exact hne h0
  · cases hpart : getPart s (k - 1) with
    | none => simp [hpart] at hsome
    | some pt =>
      simp only [hpart, Option.isNone_some, Bool.false_eq_true, or_false] at hbad
      omega

theorem doAddrSet_removes (hport : lportExists s (bf m 0 1) = true) (hflags : bf m 2 1 < 8) (hpri : bf m 3 1 < 64) (hbody : bOver m 32 = false)
    (howner : OwnerStands s (bf m 1 1)) (hremove : bf m 2 1 % 2 = 0) (hentry : (getEntry s (bf m 0 1) (bf m 1 1)).isSome = true) :
    doAddrSet s m = (removeEntry s (bf m 0 1) (bf m 1 1), .done 0 []) := by
  rw [doAddrSet, hport, hbody, if_neg (by simp; omega), if_neg (found_of_ownerStands howner), if_pos hremove, if_pos hentry]
  rfl

theorem addrSet_removes_row (h : Admits s m 0x0004) (hport : lportExists s (bf m 0 1) = true) (hflags : bf m 2 1 < 8) (hpri : bf m 3 1 < 64)
    (hbody : bOver m 32 = false) (howner : OwnerStands s (bf m 1 1)) (hremove : bf m 2 1 % 2 = 0)
    (hentry : (getEntry s (bf m 0 1) (bf m 1 1)).isSome = true) : exec (.addrSet m) s = .next (orDenied s m 0x0004
      (settleCmd (cmdOf s m 0x0004) (removeEntry (admitted s m 0x0004) (bf m 0 1) (bf m 1 1), .done 0 []))) := by
  have hdo : doAddrSet (admitted s m 0x0004) m = (removeEntry (admitted s m 0x0004) (bf m 0 1) (bf m 1 1), .done 0 []) :=
    doAddrSet_removes ((lportExists_admitted ..).trans hport) hflags hpri hbody (ownerStands_admitted howner) hremove
      ((congrArg Option.isSome (getEntry_admitted ..)).trans hentry)
  rw [← doOp_addrSet] at hdo
  have hexec := exec_mailRow_admits (mailRow_mem (m := m) (e := (.addrSet m, 0x0004)) 3 rfl) h (by
    intro c hc
    rw [hdo, settleCmd_sole (removeEntry_sole (admitted_sole _) _ _)] at hc
    exact absurd hc List.not_mem_nil)
  rwa [hdo] at hexec

/-- The entry that the request describes; the secure associations and the held count are those of the entry that it replaces (log 44). -/
def entryAsked (s : State) (m : Mbx) : AddrEntry :=
  { flags := bf m 2 1, pd := bf m 3 1 % 8, pc := bf m 3 1 / 8, vlan := bf m 4 2, mac := bf m 6 6, ip4 := bf m 12 4, ip6 := bf m 16 16
    sas := ((getEntry s (bf m 0 1) (bf m 1 1)).map (fun x => x.sas)).getD []
    held := ((getEntry s (bf m 0 1) (bf m 1 1)).map (fun x => x.held)).getD 0 }

/-- The state with the entry set, in flash too where it is the device's (R494). -/
def entryGiven (s : State) (l k : Nat) (e : AddrEntry) : State :=
  if k = 0 then storeDevEntry (setEntry s l k (some e)) l else setEntry s l k (some e)

theorem doAddrSet_sets (hport : lportExists s (bf m 0 1) = true) (hflags : bf m 2 1 < 8) (hpri : bf m 3 1 < 64) (hbody : bOver m 32 = false)
    (howner : OwnerStands s (bf m 1 1)) (hset : bf m 2 1 % 2 = 1) (hkind : bf m 2 1 ≠ 1) (hclasses : (entryAsked s m).pd ≠ (entryAsked s m).pc)
    (hvlan : (entryAsked s m).vlan ≤ 4094) (hmac : multicast (entryAsked s m).mac = false)
    (hclash : entryClash s (bf m 0 1) (bf m 1 1) (entryAsked s m) = false) :
    doAddrSet s m = (entryGiven s (bf m 0 1) (bf m 1 1) (entryAsked s m), .done 0 []) := by
  have hgood : ¬ (bf m 2 1 / 2 = 0 ∨ (entryAsked s m).pd = (entryAsked s m).pc ∨ (entryAsked s m).vlan > 4094 ∨
      multicast (entryAsked s m).mac = true ∨ entryClash s (bf m 0 1) (bf m 1 1) (entryAsked s m) = true) := by
    simp only [hmac, hclash, Bool.false_eq_true, or_false]
    omega
  rw [doAddrSet, hport, hbody, if_neg (by simp; omega), if_neg (found_of_ownerStands howner), if_neg (by omega)]
  exact if_neg hgood

theorem addrSet_sets_row (h : Admits s m 0x0004) (hport : lportExists s (bf m 0 1) = true) (hflags : bf m 2 1 < 8) (hpri : bf m 3 1 < 64)
    (hbody : bOver m 32 = false) (howner : OwnerStands s (bf m 1 1)) (hset : bf m 2 1 % 2 = 1) (hkind : bf m 2 1 ≠ 1)
    (hclasses : (entryAsked s m).pd ≠ (entryAsked s m).pc) (hvlan : (entryAsked s m).vlan ≤ 4094) (hmac : multicast (entryAsked s m).mac = false)
    (hclash : entryClash s (bf m 0 1) (bf m 1 1) (entryAsked s m) = false) :
    Answers (.addrSet m) s m 0x0004 (entryGiven (admitted s m 0x0004) (bf m 0 1) (bf m 1 1) (entryAsked s m)) [] := by
  have hentry : entryAsked (admitted s m 0x0004) m = entryAsked s m := by rw [entryAsked, getEntry_admitted, entryAsked]
  have hclash' : entryClash (admitted s m 0x0004) (bf m 0 1) (bf m 1 1) (entryAsked s m) = false :=
    (admitted_keeps (entryClash · (bf m 0 1) (bf m 1 1) (entryAsked s m)) (fun _ _ _ _ _ _ _ _ => rfl) s m 0x0004).trans hclash
  have hdo := doAddrSet_sets (s := admitted s m 0x0004) ((lportExists_admitted ..).trans hport) hflags hpri hbody
    (ownerStands_admitted howner) hset hkind (by rwa [hentry]) (by rwa [hentry]) (by rwa [hentry]) (by rwa [hentry])
  rw [hentry] at hdo
  refine answers_of_doOp (doAddrSet · m) (doOp_addrSet · m) (mailRow_mem 3 rfl) h hdo ?_
  unfold entryGiven
  split_ifs <;> rfl

end

/-- Settles O49: each command passes the checks that its hypotheses name, and its meaning completes in the state in which it is outstanding.
An entry that is set keeps its secure associations and held count (the model's reading, notes/assumptions/44.md). -/
theorem deviceCommands : Obligations.DeviceCommands := by
  rintro s m a rfl
  refine ⟨deviceStatus_row, subscribe_row, portMode_row, fun h hport hflags hpri hbody howner => ⟨addrSet_removes_row h hport hflags hpri hbody howner, ?_⟩,
    ?_, ?_, dieReset_row, deviceReset_row, shutdown_row⟩
  · intro e hset hflags' hpd hpc hvlan hmac hip4 hip6 hsas hheld hkind hclasses hvlanOk hmacOk hclash u hu
    have he : e = entryAsked s m := by
      cases e
      simp_all only [entryAsked]
    subst he hu
    have hrow := addrSet_sets_row h hport hflags hpri hbody howner hset hkind hclasses hvlanOk hmacOk hclash
    rwa [entryGiven] at hrow
  · intro p h hport hversion hbody hp
    have hrow := ptpSet_row h hport hversion hbody hp
    rw [ptpChosen] at hrow
    exact ⟨_, rfl, flash_ptp_eta .., hrow⟩
  · rintro l h hbody rfl
    have hrow := reinstate_row h hbody
    refine ⟨_, rfl, fun h0 => ?_, fun h1 => ?_, fun h2 => ?_⟩
    · rwa [h0] at hrow
    · rwa [h1] at hrow
    · rwa [h2] at hrow

end Sys2Proof.Machine
end

section
/-! SUPPORT. The meanings of the commands of loads, jobs and buckets (R37, R264, R265, R281, R408 to R415). -/

namespace Sys2Proof.Machine

section
variable {s : State} {m : Mbx} {pt : Part} {op : Nat}

/-- The partition of the request's scope stands as it stood when its command starts. -/
theorem partOf_admitted (h : partOf s m pt) : getPart (admitted s m op) (scopePart m) = some pt := (getPart_admitted ..).trans h

@[simp] theorem partHeld_admitted (q : Part) : partHeld (admitted s m op) q = partHeld s q :=
  admitted_keeps (partHeld · q) (fun _ _ _ _ _ _ _ _ => rfl) ..
@[simp] theorem partOut_admitted (q : Part) : partOut (admitted s m op) q = partOut s q :=
  admitted_keeps (partOut · q) (fun _ _ _ _ _ _ _ _ => rfl) ..
@[simp] theorem jobRuns_admitted (k : Nat) : jobRuns (admitted s m op) k = jobRuns s k :=
  admitted_keeps (jobRuns · k) (fun _ _ _ _ _ _ _ _ => rfl) ..
@[simp] theorem bucketOpenBad_admitted (k : Nat) (q : Part) (t : Nat) (b : Bucket) :
    bucketOpenBad (admitted s m op) k q t b = bucketOpenBad s k q t b :=
  admitted_keeps (bucketOpenBad · k q t b) (fun _ _ _ _ _ _ _ _ => rfl) ..

/-! ### Host content (R398) -/

theorem sameCmd_cmdOf : sameCmd (cmdOf s m op) m = true := sameCmd_self (cmdOf s m op)

/-- The first host buffer of a command that has just started is asked for. -/
theorem startFetch_admitted {v : Qp} {a key n : Nat} {r : List (Nat × Nat × Nat)} (hpair : getQp s m.qpn = some v) (hgood : v.error = false)
    (hbufs : bufsOf (cmdOf s m op) = (a, key, n) :: r) (hn : n ≠ 0) : startFetch (admitted s m op) m =
      (sendOn (modCmd (admitted s m op) m (fun c => { c with want := n })) m.qpn
        { psn := 0, kind := 2, addr := a, rkey := key, len := n, job := m.tag }, .wait) := by
  have hfound : findCmd (admitted s m op) m = some (cmdOf s m op) := List.find?_cons_of_pos sameCmd_cmdOf
  have hfirst : (bufsOf (cmdOf s m op))[(cmdOf s m op).fetched.length]? = some (a, key, n) := by rw [hbufs]; rfl
  rw [startFetch, fetchNext, hfound]
  simp only [hfirst, if_neg hn, getQp_admitted, hpair, hgood, Bool.false_eq_true, if_false]

/-- A command that has started and waits for host content is settled. -/
theorem settled_modCmd {u : State} {f : Cmd → Cmd} (hu : u.cmds = [cmdOf s m op])
    (hf : (f (cmdOf s m op)).started = true ∧ (f (cmdOf s m op)).stage ≠ 2) : Settled (modCmd u m f) := by
  intro c hc
  simp only [modCmd, hu, List.map_cons, List.map_nil, List.mem_singleton] at hc
  rw [hc, if_pos sameCmd_cmdOf]
  exact hf

theorem settled_sendOn {u : State} (h : Settled u) (q : Nat) (x : OutMsg) (mail : Option Sent) : Settled (sendOn u q x mail) := by
  rwa [Settled, sendOn_cmds]

/-! ### Loads (R399, R408, R490, R491) -/

/-- The pair on which an admitted request came is without error. -/
theorem pair_of_admits {v : Qp} (h : Admits s m op) (hpair : getQp s m.qpn = some v) : v.error = false := by
  obtain ⟨w, hw, -, hgood, -⟩ := h.pair
  rwa [Option.some.inj (hpair.symm.trans hw)]

theorem imageLoad_row {v : Qp} (hpart : partOf s m pt) (h : Admits s m 0x0201) (hbody : imageLoadBad pt m = false) (hheld : partHeld s pt = false)
    (hlen : bf m 12 4 ≠ 0) (hpair : getQp s m.qpn = some v) : exec (.imageLoad m) s = .next (orDenied s m 0x0201
      (sendOn (modCmd (admitted s m 0x0201) m (fun c => { c with want := bf m 12 4 })) m.qpn
        { psn := 0, kind := 2, addr := bf m 0 8, rkey := bf m 8 4, len := bf m 12 4, job := m.tag })) := by
  have hserved : ¬ (s.service ≠ 0 ∧ m.flags ≠ 1) := by
    have hserved := h.well.2
    unfold notServed at hserved
    split_ifs at hserved
    · exact absurd hserved (by decide)
    · simpa using hserved
  have hdo : doImageLoad (admitted s m 0x0201) m (scopePart m) = startFetch (admitted s m 0x0201) m := by
    simp only [doImageLoad, partOf_admitted hpart, hbody, partHeld_admitted, hheld, admitted_service, hserved, decide_false, Bool.or_self,
      Bool.false_eq_true, if_false]
  have hfetch := startFetch_admitted (op := 0x0201) hpair (pair_of_admits h hpair) rfl hlen
  exact exec_of_doOp_wait (doImageLoad · m (scopePart m)) (fun _ => rfl) (mailRow_mem 21 rfl) h (hdo.trans hfetch)
    (settled_sendOn (settled_modCmd (admitted_cmds ..) (And.intro rfl (Nat.zero_ne_add_one 1))) _ _ _)

theorem concludeImage_good {c : Cmd} {img : List Byte} {k : Nat} (hpart : getPart s k = some pt) (hc : c.m = m) (himg : c.fetched.headD [] = img)
    (hne : img ≠ []) (hdigests : badItem c = none) (hlen : numAt img 12 4 = img.length) (hgood : imageBad s img pt = false) :
    concludeImage s c k = (modCmd (beginLoad (modPart s k (fun q =>
      { q with image := img, digest := none, blobs := [], fenced := 0, chunks := 0, moves := [] })) k) m (fun c => { c with stage := 1 }), .wait) := by
  have hsome : img.isEmpty = false := by simpa using hne
  simp only [concludeImage, hpart, hdigests, himg, hsome, hlen, hgood, hc, ne_eq, not_true_eq_false, Bool.false_eq_true, or_self, if_false]

theorem flockRollCall_complete {c : Cmd} {pt1 : Part} {lacking : List (Nat × Nat)} {u : State} {k : Nat} (hk : k < 64) (hpart : getPart s k = some pt)
    (hmoving : moving pt = false) (hcall : rollCall s k lacking = (u, .complete)) (hpart1 : getPart u k = some pt1)
    (hload : u.cmds.find? (fun c => c.op == 0x0201 && scopePart c.m == k && c.stage == 1) = some c) :
    exec (.flockRollCall k lacking) s =
      .next (afterAction (finish (loadDone u k pt1 c) c 0 (loadBody (some (sha3 pt1.image)) pt1.chunks pt1.fenced))) := by
  refine exec_of_onUnit (decide_eq_true hk) rfl ?_
  simp only [hpart, hmoving, hcall, loadRollCall, hpart1, hload, Bool.false_eq_true, if_false]
  rfl

/-! ### Jobs (R411) -/

theorem jobStart_row (hpart : partOf s m pt) {args : List Byte} (h : Admits s m 0x0202) (hflags : bf m 1 1 = 0) (hrsv : bRsv m 2 6 = false)
    (hrsv2 : bRsv m 28 4 = false) (hlen : bf m 24 4 ≤ 65440) (hbody : bOver m (32 + bf m 24 4) = false) (hout : partOut s pt = false)
    (himage : pt.image ≠ []) (hloading : pt.loading = false) (hrunning : pt.running = false) (hpolicy : bf m 0 1 ≤ 2)
    (hreport : addrBad (bf m 8 8) = false) (haddr : addrBad (bf m 16 8) = false) (hargs : args = slice m.body 32 (bf m 24 4))
    (hplace : firstBad pt true (bf m 16 8) args.length = none) : Answers (.jobStart m) s m 0x0202
      (raiseFloors (startJob (putMem (admitted s m 0x0202) (scopePart m) pt.die (bf m 16 8) args).1 (scopePart m) (bf m 0 1) 0 (bf m 8 8)) pt.clusters)
      (leBytes 8 (pt.job + 1)) := by
  refine answers_of_doOp (doJobStart · m (scopePart m)) (fun _ => rfl) (mailRow_mem 22 rfl) h ?_ (by simp)
  have hlaunch : launch (admitted s m 0x0202) (scopePart m) (bf m 0 1) 0 (bf m 8 8) (bf m 16 8) args =
      okBody (raiseFloors (startJob (putMem (admitted s m 0x0202) (scopePart m) pt.die (bf m 16 8) args).1 (scopePart m) (bf m 0 1) 0 (bf m 8 8))
        pt.clusters) (leBytes 8 (pt.job + 1)) := by
    simp only [launch, partOf_admitted hpart, partOut_admitted, hout, Bool.false_eq_true, if_false]
    rw [if_neg]
    simp only [himage, hloading, hrunning, hreport, haddr, hplace]
    simp
    omega
  rw [doJobStart, if_neg (by simp [hflags, hrsv, hrsv2, hbody]; omega), hflags, ← hargs]
  exact hlaunch

theorem jobAbort_row (h : Admits s m 0x0203) (hbody : bOver m 0 = false) (hruns : jobRuns s (scopePart m) = true) :
    Answers (.jobAbort m) s m 0x0203 (abortPart (admitted s m 0x0203) (scopePart m) 1 (stopScope 0xF0 [] [])) [] := by
  refine answers_of_doOp (doJobAbort · m (scopePart m)) (fun _ => rfl) (mailRow_mem 23 rfl) h ?_ (by simp)
  rw [doJobAbort, hbody, jobRuns_admitted, hruns]
  rfl

theorem jobRestart_row (h : Admits s m 0x0204) (hbody : bOver m 0 = false) (hruns : jobRuns s (scopePart m) = true) :
    Answers (.jobRestart m) s m 0x0204
      (restartPart (stopPart (admitted s m 0x0204) (scopePart m) (stopScope 0xF0 [] [])) (scopePart m)) [] := by
  refine answers_of_doOp (doJobRestart · m (scopePart m)) (fun _ => rfl) (mailRow_mem 24 rfl) h ?_ (by simp)
  rw [doJobRestart, hbody, jobRuns_admitted, hruns]
  rfl

theorem jobStatus_row (hpart : partOf s m pt) (h : Admits s m 0x0205) (hbody : bOver m 0 = false) (hrunning : pt.running = false) :
    Answers (.jobStatus m) s m 0x0205 (admitted s m 0x0205) (slice pt.lastEnd 0 32) := by
  refine answers_of_doOp (doJobStatus · m (scopePart m)) (fun _ => rfl) (mailRow_mem 25 rfl) h ?_ rfl
  simp only [doJobStatus, partOf_admitted hpart, hbody, hrunning, Bool.false_eq_true, if_false]
  rfl

/-! ### Buckets (R264, R265, R281, R415) -/

/-- The bucket that BUCKET_OPEN makes of a FREE one. -/
def openedBucket (m : Mbx) (b : Bucket) : Bucket := { desc := slice m.body 0 64, part := scopePart m, peers := b.peers, closes := b.closes }

theorem bucketOpen_row (hpart : partOf s m pt) (h : Admits s m 0x0301) (htag : tagOf pt (bf m 0 2) = true) (hbody : bOver m 64 = false)
    (hfree : (getBucket s (bf m 0 2)).state = 0) (hrsv : descReserved (openedBucket m (getBucket s (bf m 0 2))) = false)
    (hgood : bTiles (openedBucket m (getBucket s (bf m 0 2))) ≠ 0 →
      bucketOpenBad s (scopePart m) pt (bf m 0 2) (openedBucket m (getBucket s (bf m 0 2))) = false) : Answers (.bucketOpen m) s m 0x0301
      (openRound (setBucket (admitted s m 0x0301) (bf m 0 2) (openedBucket m (getBucket s (bf m 0 2)))) (bf m 0 2) 0 false) [] := by
  refine answers_of_doOp (doBucketOpen · m (scopePart m)) (fun _ => rfl) (mailRow_mem 26 rfl) h ?_ (by simp)
  have hopen : ¬ (bTiles (openedBucket m (getBucket s (bf m 0 2))) ≠ 0 ∧
      bucketOpenBad s (scopePart m) pt (bf m 0 2) (openedBucket m (getBucket s (bf m 0 2))) = true) := by
    rintro ⟨hne, hbad⟩
    exact absurd ((hgood hne).symm.trans hbad) (by decide)
  unfold openedBucket at hrsv hopen ⊢
  simp only [doBucketOpen, partOf_admitted hpart, getBucket_admitted, bucketOpenBad_admitted, hbody, htag, hfree, hrsv, if_neg hopen]
  rfl

theorem bucketClose_row (hpart : partOf s m pt) (h : Admits s m 0x0302) (htag : tagOf pt (bf m 0 2) = true) (hbody : bOver m 2 = false)
    (hused : (getBucket s (bf m 0 2)).state ≠ 0) : Answers (.bucketClose m) s m 0x0302 (setBucket (admitted s m 0x0302) (bf m 0 2)
      { part := scopePart m, peers := (getBucket s (bf m 0 2)).peers, closes := (getBucket s (bf m 0 2)).closes + 1 }) [] := by
  refine answers_of_doOp (doBucketClose · m (scopePart m)) (fun _ => rfl) (mailRow_mem 27 rfl) h ?_ rfl
  have hstate : ((getBucket s (bf m 0 2)).state == 0) = false := by simpa using hused
  simp only [doBucketClose, partOf_admitted hpart, getBucket_admitted, modBucket, hbody, htag, hstate]
  rfl

/-- The fields that BUCKET_QUERY answers (R415). -/
def queryFields (b : Bucket) : List (List Byte) :=
  [leBytes 1 b.state, leBytes 1 b.reason, leBytes 1 (if b.parity then 1 else 0), zeros 1, leBytes 4 b.round,
   leBytes 2 ((tilesOf b (bRank b)).filter (fun t => decide (tget 0 b.final t ≥ bPeers b) && !bShadow b)).length, zeros 6]

theorem queryFields_widths (b : Bucket) : (queryFields b).map List.length = [1, 1, 1, 1, 4, 2, 6] := by
  simp [queryFields, leBytes_length, zeros]

theorem bucketQuery_row (hpart : partOf s m pt) (h : Admits s m 0x0303) (htag : tagOf pt (bf m 0 2) = true) (hbody : bOver m 2 = false) :
    Answers (.bucketQuery m) s m 0x0303 (admitted s m 0x0303) (queryFields (getBucket s (bf m 0 2))).flatten := by
  refine answers_of_doOp (doBucketQuery · m (scopePart m)) (fun _ => rfl) (mailRow_mem 28 rfl) h ?_ rfl
  simp only [doBucketQuery, partOf_admitted hpart, getBucket_admitted, hbody, htag, Bool.false_eq_true, if_false, Bool.not_true]
  simp only [queryFields, List.flatten_cons, List.flatten_nil, List.append_assoc, List.append_nil]
  rfl

theorem peerTable_none_row (hpart : partOf s m pt) (h : Admits s m 0x0304) (hcount : bf m 2 1 = 0) (hrsv : bRsv m 3 5 = false)
    (hbody : bOver m 8 = false) : Answers (.peerTable m) s m 0x0304 (admitted s m 0x0304) [] := by
  refine answers_of_doOp (doPeerTable · m (scopePart m)) (fun _ => rfl) (mailRow_mem 29 rfl) h ?_ rfl
  simp only [doPeerTable, partOf_admitted hpart, hcount, hrsv, hbody]
  rfl

/-- The entries of the request (R281). -/
def peersAsked (m : Mbx) : List (Nat × Nat × Nat) :=
  (List.range (bf m 2 1)).map (fun i => (bf m (8 + 16 * i) 4, bf m (12 + 16 * i) 4, bf m (16 + 16 * i) 8))

theorem peerTable_row (hpart : partOf s m pt) (h : Admits s m 0x0304) (htag : tagOf pt (bf m 0 2) = true) (hpos : 0 < bf m 2 1)
    (hcount : bf m 2 1 ≤ 64) (hrsv : bRsv m 3 5 = false) (hbody : bOver m (8 + 16 * bf m 2 1) = false) (hfree : (getBucket s (bf m 0 2)).state = 0)
    (hzero : ((peersAsked m).filter (· == (0, 0, 0))).length ≤ 1)
    (hpairs : ∀ e, e ∈ peersAsked m → e ≠ (0, 0, 0) → ∃ v, getQp s e.1 = some v ∧ v.mbx = false ∧ v.owner = scopePart m) :
    Answers (.peerTable m) s m 0x0304
      (modBucket (admitted s m 0x0304) (bf m 0 2) (fun b => { b with peers := peersAsked m, part := scopePart m })) [] := by
  refine answers_of_doOp (doPeerTable · m (scopePart m)) (fun _ => rfl) (mailRow_mem 29 rfl) h ?_ rfl
  have hmine : ¬ ((peersAsked m).any (fun e => e != (0, 0, 0) && !(match getQp s e.1 with
      | none => false | some v => !v.mbx && (v.owner == scopePart m))) = true ∨ ((peersAsked m).filter (· == (0, 0, 0))).length > 1) := by
    rintro (hany | hmany)
    · obtain ⟨e, he, hbad⟩ := List.any_eq_true.mp hany
      by_cases h0 : e = (0, 0, 0)
      · simp [h0] at hbad
      · obtain ⟨v, hv, hmbx, howner⟩ := hpairs e he h0
        simp [hv, hmbx, howner] at hbad
    · omega
  unfold peersAsked at hmine ⊢
  have hgood : ¬ (bf m 2 1 > 64 ∨ bRsv m 3 5 = true ∨ bOver m (8 + 16 * bf m 2 1) = true) := by simp [hrsv, hbody]; omega
  simp only [doPeerTable, partOf_admitted hpart, getQp_admitted, getBucket_admitted]
  rw [if_neg hgood, if_neg (by omega), htag, if_neg (by decide), if_neg (by simp [hfree])]
  exact if_neg hmine

end

/-- Settles O51: each command passes the checks that its hypotheses name. That an entry of zeros may stand at any rank of a peer table is the
model's reading (notes/assumptions/73.md). -/
theorem loadJobAndBucketCommands : Obligations.LoadJobAndBucketCommands := by
  rintro s m a k pt rfl rfl hk hpart
  refine ⟨fun v h => imageLoad_row hpart h, fun c img => concludeImage_good hpart, fun c pt1 lacking u => flockRollCall_complete hk hpart,
    fun args h => jobStart_row hpart h, jobAbort_row, jobRestart_row, jobStatus_row hpart, ?_⟩
  intro tag b htag
  rw [htag]
  intro hfirst hlast hb
  rw [hb]
  have htag : tagOf pt (bf m 0 2) = true := decide_eq_true ⟨hfirst, hlast⟩
  refine ⟨?_, fun h => bucketClose_row hpart h htag, fun h hbody => ?_, peerTable_none_row hpart, ?_⟩
  · intro n h hbody hfree hn hrsv hgood
    subst hn
    exact bucketOpen_row hpart h htag hbody hfree hrsv hgood
  · have hfield := slice_flatten (queryFields_widths (getBucket s (bf m 0 2)))
    refine ⟨_, bucketQuery_row hpart h htag hbody, ?_, ?_, hfield 4 4 4 _ rfl rfl (leBytes_length ..)⟩
    · rw [List.length_flatten, queryFields_widths]
      rfl
    · simp [queryFields, leBytes]
  · intro l h hpos hcount hrsv hbody hfree hl
    rw [hl]
    intro hzero hpairs
    have hrow := peerTable_row hpart h htag hpos hcount hrsv hbody hfree hzero hpairs
    rw [peersAsked] at hrow
    exact hrow

end Sys2Proof.Machine
end

section
/-! SUPPORT. The meanings of the commands of regions, queue pairs, memory and diagnostics (R235, R335, R340, R353, R371, R416 to R418, R435). -/

namespace Sys2Proof.Machine

section
variable {s : State} {m : Mbx} {pt : Part} {op : Nat}

@[simp] theorem freeRkey_admitted : freeRkey (admitted s m op) = freeRkey s := admitted_keeps freeRkey (fun _ _ _ _ _ _ _ _ => rfl) ..
@[simp] theorem freeQpn_admitted : freeQpn (admitted s m op) = freeQpn s := admitted_keeps freeQpn (fun _ _ _ _ _ _ _ _ => rfl) ..
@[simp] theorem physAt_admitted (q : Part) (n : Nat) : physAt (admitted s m op) q n = physAt s q n :=
  admitted_keeps (physAt · q n) (fun _ _ _ _ _ _ _ _ => rfl) ..
@[simp] theorem getCore_admitted (p : Nat) : getCore (admitted s m op) p = getCore s p :=
  admitted_keeps (getCore · p) (fun _ _ _ _ _ _ _ _ => rfl) ..
@[simp] theorem coreOk_admitted (p : Nat) : coreOk (admitted s m op) p = coreOk s p :=
  admitted_keeps (coreOk · p) (fun _ _ _ _ _ _ _ _ => rfl) ..
@[simp] theorem screeUnits_admitted : screeUnits (admitted s m op) = screeUnits s := admitted_keeps screeUnits (fun _ _ _ _ _ _ _ _ => rfl) ..
@[simp] theorem dumpAt_admitted (n : Nat) : dumpAt (admitted s m op) n = dumpAt s n :=
  admitted_keeps (dumpAt · n) (fun _ _ _ _ _ _ _ _ => rfl) ..
@[simp] theorem admitted_fused : (admitted s m op).fused = s.fused := admitted_keeps State.fused (fun _ _ _ _ _ _ _ _ => rfl) ..
@[simp] theorem admitted_soft : (admitted s m op).soft = s.soft := admitted_keeps State.soft (fun _ _ _ _ _ _ _ _ => rfl) ..

/-! ### Regions (R371, R416) -/

/-- The region that the request describes. -/
def regionAsked (m : Mbx) : Region := { owner := scopePart m, addr := bf m 0 8, len := bf m 8 8, access := bf m 16 1, tag := bf m 18 2 }

/-- The regions with one entry set. -/
def regionGiven (s : State) (t : Tbl (Option Region)) (r : Nat) (g : Option Region) : State := { s with regions := tset none t r g }

theorem doRegionRegister_eq {r : Nat} (hpart : getPart s (scopePart m) = some pt) (haccess : bf m 16 1 ≤ 3) (hrsv : bRsv m 17 1 = false)
    (hrsv2 : bRsv m 20 4 = false) (hbody : bOver m 24 = false) (haddr : addrBad (bf m 0 8) = false) (hlen : bf m 8 8 ≠ 0)
    (harea : areaBad pt true true (bf m 0 8) (bf m 8 8) = false) (hfree : freeRkey s = some r) :
    doRegionRegister s m (scopePart m) = (regionGiven s s.regions r (some (regionAsked m)), .done 0 (leBytes 4 r)) := by
  rw [doRegionRegister, if_neg (by simp [hrsv, hrsv2, hbody, haddr]; omega), if_neg hlen, hpart]
  simp only [harea, hfree, Bool.false_eq_true, if_false]
  rfl

theorem regionRegister_row {r : Nat} (hpart : partOf s m pt) (h : Admits s m 0x0401) (haccess : bf m 16 1 ≤ 3) (hrsv : bRsv m 17 1 = false)
    (hrsv2 : bRsv m 20 4 = false) (hbody : bOver m 24 = false) (haddr : addrBad (bf m 0 8) = false) (hlen : bf m 8 8 ≠ 0)
    (harea : areaBad pt true true (bf m 0 8) (bf m 8 8) = false) (hfree : freeRkey s = some r) :
    Answers (.regionRegister m) s m 0x0401 (regionGiven (admitted s m 0x0401) s.regions r (some (regionAsked m))) (leBytes 4 r) := by
  have hdo := doRegionRegister_eq (s := admitted s m 0x0401) (partOf_admitted hpart) haccess hrsv hrsv2 hbody haddr hlen harea
    (freeRkey_admitted.trans hfree)
  rw [admitted_regions] at hdo
  exact answers_of_doOp (doRegionRegister · m (scopePart m)) (fun _ => rfl) (mailRow_mem 30 rfl) h hdo rfl

theorem doRegionDeregister_eq {r : Region} (hbody : bOver m 4 = false) (hregion : getRegion s (bf m 0 4) = some r) (howner : r.owner = scopePart m)
    (haccess : r.access.testBit 2 = false) :
    doRegionDeregister s m (scopePart m) = (regionGiven s s.regions (bf m 0 4) none, .done 0 []) := by
  simp only [doRegionDeregister, hbody, hregion, howner, haccess, ne_eq, not_true_eq_false, Bool.false_eq_true, false_and, if_false]
  rfl

theorem regionDeregister_row {r : Region} (h : Admits s m 0x0402) (hbody : bOver m 4 = false) (hregion : getRegion s (bf m 0 4) = some r)
    (howner : r.owner = scopePart m) (haccess : r.access.testBit 2 = false) :
    Answers (.regionDeregister m) s m 0x0402 (regionGiven (admitted s m 0x0402) s.regions (bf m 0 4) none) [] := by
  have hdo := doRegionDeregister_eq (s := admitted s m 0x0402) hbody ((getRegion_admitted ..).trans hregion) howner haccess
  rw [admitted_regions] at hdo
  exact answers_of_doOp (doRegionDeregister · m (scopePart m)) (fun _ => rfl) (mailRow_mem 31 rfl) h hdo rfl

/-! ### Queue pairs (R371, R416) -/

/-- The pair that the body of R416 describes, under the number `q`. -/
def pairAsked (m : Mbx) (owner : Nat) (mbx : Bool) (q : Nat) : Qp :=
  { owner := owner, mbx := mbx, lport := bf m 0 1, mtu := bf m 1 1, retry := bf m 2 1 % 8, rnr := bf m 2 1 / 8, timeout := bf m 3 1
    remote := bf m 4 3, remoteIp := bf m 8 16, reads := bf m 24 1, udp := Config.udpPort q % 65536 }

theorem createQp_eq {owner q : Nat} {mbx : Bool} (hbody : qpBodyBad m = false) (hport : lportExists s (bf m 0 1) = true)
    (hentry : (getEntry s (bf m 0 1) (entryOf owner)).isSome = true) (hfree : freeQpn s = some q) : createQp s m owner mbx =
      (setQp s q (some (pairAsked m owner mbx q)), .done 0 (leBytes 4 q ++ leBytes 2 (pairAsked m owner mbx q).udp)) := by
  have hnone : (getEntry s (bf m 0 1) (entryOf owner)).isNone = false := by
    rw [← Option.not_isSome, hentry]
    rfl
  rw [createQp]
  simp only [hbody, hport, hnone, hfree]
  rfl

theorem qpCreate_row {q : Nat} (h : Admits s m 0x0403) (hbody : qpBodyBad m = false) (hport : lportExists s (bf m 0 1) = true)
    (hentry : (getEntry s (bf m 0 1) (entryOf (scopePart m))).isSome = true) (hfree : freeQpn s = some q) :
    Answers (.qpCreate m) s m 0x0403 (setQp (admitted s m 0x0403) q (some (pairAsked m (scopePart m) false q)))
      (leBytes 4 q ++ leBytes 2 (pairAsked m (scopePart m) false q).udp) := by
  have hdo := createQp_eq (s := admitted s m 0x0403) (mbx := false) hbody ((lportExists_admitted ..).trans hport)
    ((congrArg Option.isSome (getEntry_admitted ..)).trans hentry) (freeQpn_admitted.trans hfree)
  exact answers_of_doOp (doQpCreate · m (scopePart m)) (fun _ => rfl) (mailRow_mem 32 rfl) h hdo rfl

/-- The loss of another pair leaves the commands as they are. -/
theorem destroyQp_cmds_other {u : State} {q : Nat} (h : ∀ c ∈ u.cmds, c.m.qpn ≠ q) : (destroyQp u q).cmds = u.cmds := by
  refine (List.map_congr_left (g := id) fun c hc => ?_).trans (by rw [List.map_id, qpError_cmds])
  rw [qpError_cmds] at hc
  exact if_neg (h c hc)

theorem doQpDestroy_eq {v : Qp} (hbody : bOver m 4 = false) (hpair : getQp s (bf m 0 4) = some v) (hmbx : v.mbx = false)
    (howner : v.owner = scopePart m) : doQpDestroy s m (scopePart m) = (destroyQp s (bf m 0 4), .done 0 []) := by
  simp only [doQpDestroy, hbody, hpair, hmbx, howner, Bool.false_eq_true, if_false]
  exact if_pos (by simp)

theorem qpDestroy_row {v : Qp} (h : Admits s m 0x0404) (hbody : bOver m 4 = false) (hpair : getQp s (bf m 0 4) = some v) (hmbx : v.mbx = false)
    (howner : v.owner = scopePart m) : Answers (.qpDestroy m) s m 0x0404 (destroyQp (admitted s m 0x0404) (bf m 0 4)) [] := by
  have hother : m.qpn ≠ bf m 0 4 := by
    intro hown
    obtain ⟨w, hw, hmail, -⟩ := h.pair
    rw [hown, hpair] at hw
    rw [← Option.some.inj hw, hmbx] at hmail
    exact absurd hmail (by decide)
  refine answers_of_doOp (doQpDestroy · m (scopePart m)) (fun _ => rfl) (mailRow_mem 33 rfl) h
    (doQpDestroy_eq hbody ((getQp_admitted ..).trans hpair) hmbx howner) ?_
  rw [destroyQp_cmds_other, admitted_cmds]
  intro c hc
  rw [admitted_cmds, List.mem_singleton] at hc
  rw [hc]
  exact hother

theorem doRecvPost_one {v : Qp} (hpart : getPart s (scopePart m) = some pt) (hpair : getQp s (bf m 0 4) = some v) (hmbx : v.mbx = false)
    (howner : v.owner = scopePart m) (hcount : bf m 4 2 = 1) (hrsv : bRsv m 6 2 = false) (hbody : bOver m 24 = false)
    (haddr : addrBad (bf m 8 8) = false) (hlen : bf m 16 4 ≥ 16) (hplace : firstBad pt true (bf m 8 8) (bf m 16 4) = none) (hcore : bf m 23 1 = 0)
    (hroom : v.recvs.length < 1024) : doRecvPost s m (scopePart m) =
      (setQp s (bf m 0 4) (some { v with recvs := v.recvs ++ [(bf m 8 8, bf m 16 4, bf m 20 2, bf m 22 1, bf m 23 1)] }), .done 0 []) := by
  have hne : (bf m 16 4 != 0) = true := by simp; omega
  have hkept : [(bf m 8 8, bf m 16 4, bf m 20 2, bf m 22 1, bf m 23 1)].filter (fun e => e.2.1 != 0) =
      [(bf m 8 8, bf m 16 4, bf m 20 2, bf m 22 1, bf m 23 1)] := 
    List.filter_eq_self.mpr fun e he => by rw [List.mem_singleton.mp he]; exact hne
  have hchecked : ¬ (v.mbx = true ∨ v.owner ≠ scopePart m) := by simp [hmbx, howner]
  rw [doRecvPost, hcount, hpart, hpair]
  simp only [List.range_one, List.map_cons, List.map_nil, Nat.mul_zero, Nat.add_zero, Nat.reduceAdd, Nat.mul_one, hkept, if_neg hchecked]
  rw [if_neg (by simp [hrsv, hbody, haddr]), if_neg (by decide), if_neg (by simp [hplace, hcore]; omega), if_neg (by simp; omega)]
  rfl

theorem recvPost_row {v : Qp} (hpart : partOf s m pt) (h : Admits s m 0x0405) (hpair : getQp s (bf m 0 4) = some v) (hmbx : v.mbx = false)
    (howner : v.owner = scopePart m) (hcount : bf m 4 2 = 1) (hrsv : bRsv m 6 2 = false) (hbody : bOver m 24 = false)
    (haddr : addrBad (bf m 8 8) = false) (hlen : bf m 16 4 ≥ 16) (hplace : firstBad pt true (bf m 8 8) (bf m 16 4) = none) (hcore : bf m 23 1 = 0)
    (hroom : v.recvs.length < 1024) : Answers (.recvPost m) s m 0x0405 (setQp (admitted s m 0x0405) (bf m 0 4)
      (some { v with recvs := v.recvs ++ [(bf m 8 8, bf m 16 4, bf m 20 2, bf m 22 1, bf m 23 1)] })) [] :=
  answers_of_doOp (doRecvPost · m (scopePart m)) (fun _ => rfl) (mailRow_mem 34 rfl) h
    (doRecvPost_one (partOf_admitted hpart) ((getQp_admitted ..).trans hpair) hmbx howner hcount hrsv hbody haddr hlen hplace hcore hroom) rfl

/-! ### Memory (R235, R398, R416) -/

theorem memWrite_row {v : Qp} (hpart : partOf s m pt) (h : Admits s m 0x0406) (hmode : bf m 24 1 = 0) (hbody : bOver m 25 = false)
    (haddr : addrBad (bf m 0 8) = false) (hplace : firstBad pt true (bf m 0 8) (bf m 20 4) = none) (hlen : bf m 20 4 ≠ 0)
    (hpair : getQp s m.qpn = some v) : exec (.memWrite m) s = .next (orDenied s m 0x0406
      (sendOn (modCmd (admitted s m 0x0406) m (fun c => { c with want := bf m 20 4 })) m.qpn
        { psn := 0, kind := 2, addr := bf m 8 8, rkey := bf m 16 4, len := bf m 20 4, job := m.tag })) := by
  have hdo : doMemWrite (admitted s m 0x0406) m (scopePart m) = startFetch (admitted s m 0x0406) m := by
    simp only [doMemWrite, partOf_admitted hpart, hostBuf, hmode, hbody, haddr, hlen, hplace]
    simp
  have hfetch := startFetch_admitted (op := 0x0406) hpair (pair_of_admits h hpair) rfl hlen
  exact exec_of_doOp_wait (doMemWrite · m (scopePart m)) (fun _ => rfl) (mailRow_mem 35 rfl) h (hdo.trans hfetch)
    (settled_sendOn (settled_modCmd (admitted_cmds ..) (And.intro rfl (Nat.zero_ne_add_one 1))) _ _ _)

theorem concludeWrite_unsealed {c : Cmd} {l : List Byte} (k : Nat) (hc : c.m = m) (hl : c.fetched = [l]) (hmode : bf m 24 1 = 0) :
    concludeWrite s c k = (s, .done 0 (leBytes 8 l.length)) := by
  have hseal : ¬ (bf m 24 1 = 1 ∧ l ≠ []) := by omega
  simp only [concludeWrite, hc, hl, List.headD_cons, if_neg hseal]
  rfl

theorem memRead_row {u : State} {l : List Byte} (hpart : partOf s m pt) (h : Admits s m 0x0407) (hmode : bf m 24 1 = 0) (hbody : bOver m 25 = false)
    (haddr : addrBad (bf m 0 8) = false) (hplace : firstBad pt false (bf m 0 8) (bf m 20 4) = none)
    (hread : readBlocks (scopePart m) pt.die false (bf m 20 4 / 256 + 2) (bf m 0 8) (bf m 20 4) [] (admitted s m 0x0407) = (u, l, none))
    (hl : l ≠ []) : exec (.memRead m) s = .next (orDenied s m 0x0407
      (sendOn (modCmd u m (fun c => { c with stage := 1, fetched := [leBytes 8 l.length ++ leBytes 8 0xFFFFFFFFFFFFFFFF] })) m.qpn
        { psn := 0, kind := 1, addr := bf m 8 8, rkey := bf m 16 4, data := l, len := l.length, job := m.tag })) := by
  obtain ⟨v, hpair, -, hgood, -⟩ := h.pair
  have hcmds : u.cmds = [cmdOf s m 0x0407] := by
    have hkept := readBlocks_cmds (admitted s m 0x0407) (scopePart m) pt.die false (bf m 20 4 / 256 + 2) (bf m 0 8) (bf m 20 4) []
    rwa [hread] at hkept
  refine exec_of_doOp_wait (doMemRead · m (scopePart m)) (fun _ => rfl) (mailRow_mem 36 rfl) h ?_
    (settled_sendOn (settled_modCmd hcmds (And.intro rfl (by decide : (1 : Nat) ≠ 2))) _ _ _)
  have hgoodBody : ¬ (bf m 24 1 > 1 ∨ bOver m 25 = true ∨ addrBad (bf m 0 8) = true ∨
      (bf m 20 4 ≠ 0 ∧ (firstBad pt false (bf m 0 8) (bf m 20 4)).isSome = true)) := by simp [hmode, hbody, haddr, hplace]
  have hmode1 : decide (bf m 24 1 = 1) = false := by simp [hmode]
  simp only [doMemRead, partOf_admitted hpart, getQp_admitted, hpair, hostBuf, if_neg hgoodBody, hmode1, hread, if_neg hl, hgood,
    Bool.false_eq_true, if_false]
  rfl

/-! ### Diagnostics (R335, R340, R353, R418, R435) -/

theorem countersRead_row (hpart : partOf s m pt) (h : Admits s m 0x0501) (hsteward : tenant s m = false) (hcount : bf m 2 2 ≤ 2046)
    (hbody : bOver m 4 = false) (hcores : bf m 0 2 + bf m 2 2 ≤ coresOf pt) : Answers (.countersRead m) s m 0x0501 (admitted s m 0x0501)
      ((List.range (bf m 2 2)).flatMap (fun i => counterBytes (getCore s (physAt s pt (bf m 0 2 + i))) id)) := by
  refine answers_of_doOp (doCountersRead · m (scopePart m)) (fun _ => rfl) (mailRow_mem 37 rfl) h ?_ rfl
  simp only [doCountersRead, partOf_admitted hpart, tenant_admitted, hsteward, physAt_admitted, getCore_admitted, Bool.false_eq_true, if_false]
  rw [if_neg (by simp [hbody]; omega)]
  rfl

theorem coreStateRead_row (h : Admits s m 0x0502) (hsteward : tenant s m = false) (hdevice : scopePart m = 64) (hbody : bOver m 2 = false)
    (hcore : coreOk s (bf m 0 2) = true) : Answers (.coreStateRead m) s m 0x0502 (admitted s m 0x0502)
      (fullState (admitted s m 0x0502) (bf m 0 2)) := by
  refine answers_of_doOp (doCoreStateRead · m (scopePart m)) (fun _ => rfl) (mailRow_mem 38 rfl) h ?_ rfl
  simp only [doCoreStateRead, hdevice, coreOk_admitted, hcore, hbody, tenant_admitted, hsteward, Bool.false_eq_true, if_true, if_false]
  rfl

theorem screeRead_row {l : List (Nat × Nat)} (h : Admits s m 0x0503) (hsteward : tenant s m = false) (hcount : bf m 2 2 ≤ 511) (hbody : bOver m 4 = false)
    (hunits : scopePart m = 64 ∧ l = screeUnits s ∨ scopePart m ≠ 64 ∧ partOf s m pt ∧ l = (screeUnits s).filter (unitOfPart pt)) :
    Answers (.screeRead m) s m 0x0503 (admitted s m 0x0503) (((l.drop (bf m 0 2)).take (bf m 2 2)).flatMap (screeBytes (admitted s m 0x0503) false)) := by
  refine answers_of_doOp (doScreeRead · m (scopePart m)) (fun _ => rfl) (mailRow_mem 39 rfl) h ?_ rfl
  have hgood : ¬ (bf m 2 2 > 511 ∨ bOver m 4 = true) := by simp [hbody]; omega
  obtain ⟨hdevice, rfl⟩ | ⟨hscope, hpart, rfl⟩ := hunits
  · simp only [doScreeRead, if_neg hgood, hdevice, tenant_admitted, hsteward, screeUnits_admitted, ne_eq, not_true_eq_false, if_false]
    rfl
  · simp only [doScreeRead, if_neg hgood, if_pos hscope, partOf_admitted hpart, tenant_admitted, hsteward, screeUnits_admitted]
    rfl

theorem dumpRead_row (h : Admits s m 0x0504) (hsteward : tenant s m = false) (hslot : bf m 0 1 < 10) (hrsv : bRsv m 1 3 = false)
    (hbody : bOver m 12 = false) (hlen : bf m 8 4 ≤ 65472) (hbytes : (dumpAt s (bf m 0 1)).bytes ≠ [])
    (hscope : scopePart m = 64 ∨ (dumpAt s (bf m 0 1)).part = scopePart m) : Answers (.dumpRead m) s m 0x0504 (admitted s m 0x0504)
      (((dumpAt s (bf m 0 1)).bytes.drop (bf m 4 4)).take (bf m 8 4)) := by
  refine answers_of_doOp (doDumpRead · m (scopePart m)) (fun _ => rfl) (mailRow_mem 40 rfl) h ?_ rfl
  have hgood : ¬ ((bRsv m 1 3 || bOver m 12 || decide (bf m 8 4 > 65472) || (decide (bf m 0 1 ≥ 10) && bf m 0 1 != 0xFF)) = true) := by
    simp [hrsv, hbody]
    omega
  have hvisible : ¬ (scopePart m ≠ 64 ∧ (dumpAt s (bf m 0 1)).part ≠ scopePart m) := by
    rintro ⟨h64, hother⟩
    exact hscope.elim h64 hother
  simp only [doDumpRead, tenant_admitted, hsteward, dumpAt_admitted, if_neg hgood, if_neg hvisible, Bool.false_eq_true, if_false, if_neg hbytes]
  rw [if_neg (by omega)]
  split_ifs with hzero
  · rw [hzero, List.take_zero]
    rfl
  · rfl

theorem spoilRead_row (h : Admits s m 0x0505) (hcount : bf m 2 2 ≤ 4092) (hbody : bOver m 4 = false) :
    Answers (.spoilRead m) s m 0x0505 (admitted s m 0x0505) ((((s.fused ++ s.soft).drop (bf m 0 2)).take (bf m 2 2)).flatMap spoilBytes) := by
  refine answers_of_doOp (doSpoilRead · m) (fun _ => rfl) (mailRow_mem 41 rfl) h ?_ rfl
  rw [doSpoilRead, if_neg (by simp [hbody]; omega), admitted_fused, admitted_soft]
  rfl

theorem doSoundingCfg_eq (hcount : bf m 0 1 ≤ 20) (hbody : bOver m 1 = false) (hpos : bf m 0 1 ≠ 0) :
    doSoundingCfg s m = ({ s with sweepMin := bf m 0 1 }, .done 0 []) := by
  rw [doSoundingCfg, if_neg (by simp [hbody]; omega), if_neg hpos]
  rfl

theorem soundingCfg_row (h : Admits s m 0x0506) (hcount : bf m 0 1 ≤ 20) (hbody : bOver m 1 = false) (hpos : bf m 0 1 ≠ 0) :
    Answers (.soundingCfg m) s m 0x0506 { admitted s m 0x0506 with sweepMin := bf m 0 1 } [] :=
  answers_of_doOp (doSoundingCfg · m) (fun _ => rfl) (mailRow_mem 42 rfl) h (doSoundingCfg_eq hcount hbody hpos) rfl

end

/-- Settles O52: each command passes the checks that its hypotheses name. The lowest free rkey and pair number, and the records and dumps that
a partition's scope covers, are the model's reading (notes/assumptions/48.md, 42.md, 81.md). -/
theorem memoryAndDiagnosticCommands : Obligations.MemoryAndDiagnosticCommands := by
  rintro s m a k pt rfl rfl
  refine ⟨fun hpart _ => ⟨?_, ?_, fun q h hbody hport hentry hfree => ⟨pairAsked m (scopePart m) false q, rfl, rfl, rfl, rfl, rfl, rfl,
      qpCreate_row h hbody hport hentry hfree⟩, fun v => qpDestroy_row, ?_, fun v => memWrite_row hpart,
      fun c l => concludeWrite_unsealed (scopePart m), fun u l => memRead_row hpart, countersRead_row hpart⟩,
    coreStateRead_row, fun l => screeRead_row, dumpRead_row, spoilRead_row, soundingCfg_row⟩
  · intro r h haccess hrsv hrsv2 hbody haddr hlen harea hfree g hg
    rw [hg]
    exact regionRegister_row hpart h haccess hrsv hrsv2 hbody haddr hlen harea hfree
  · exact fun r => regionDeregister_row
  · intro v h hpair hmbx howner hcount hrsv hbody haddr hlen hplace hcore hroom l hl
    rw [hl]
    exact recvPost_row hpart h hpair hmbx howner hcount hrsv hbody haddr hlen hplace hcore hroom

end Sys2Proof.Machine
end

section
/-! SUPPORT. What O50 and O53 turn on: whether a signature verifies (R386). `Config.sigVerifies` is opaque, so that no proof can say. Where none
verifies, no steward's command is carried out and both hold; one signature that verifies refutes each. -/

namespace Sys2Proof.Machine

/-- No signature verifies under any key. -/
def NoSignature : Prop := ∀ key message signature, Config.sigVerifies key message signature = false

section
variable {s t : State} {m : Mbx} {pt : Part} {i : Instr} {op : Nat} {b : List Byte}

/-! ### Requests without a good signature -/

/-- A request whose signature is not good is answered so, whatever its command is. -/
theorem exec_unsigned (hrow : (i, op) ∈ mailRows m) (h : Admits s m op) (hsig : signedOk s m op = false) (u : State) :
    exec i s = .next (orDenied s m op u) := by
  obtain ⟨v, hpair, hmbx, hgood, hroom, -⟩ := h.pair
  obtain ⟨info, hinfo⟩ := Option.isSome_iff_exists.mp (opInfo_mailRow m _ hrow)
  have hrefusal := refusal_admits h hinfo hpair
  rw [if_neg (by simp [hsig])] at hrefusal
  rw [exec_mailRow s m _ hrow, request_refused ⟨hpair, hmbx, hgood, h.quiet.service⟩ hroom hrefusal, if_neg (by decide), orDenied,
    if_neg (by simp [hsig])]

theorem signatureOk_unsigned (hno : NoSignature) : signatureOk s m op = false := by
  unfold signatureOk
  dsimp only
  split
  · rfl
  · exact hno ..

/-- Only the steward's pairs carry the steward's commands, and only with a good signature. -/
theorem signedOk_steward (hno : NoSignature) (h : Admits s m op) {info : OpInfo} (hinfo : opInfo op = some info) (honly : info.steward = true) :
    signedOk s m op = false := by
  obtain ⟨v, hpair, -, -, -, hdenied, -⟩ := h.pair
  have howner : v.owner = 64 := by
    by_contra hne
    simp [scopeDenied, hne, hinfo, honly] at hdenied
  simp [signedOk, hpair, howner, signatureOk_unsigned hno]

theorem exec_steward_unsigned (hno : NoSignature) (n : Nat) (hrow : (mailRows m)[n]? = some (i, op)) (h : Admits s m op)
    (hinfo : (opInfo op).map (fun e => e.steward) = some true) (u : State) : exec i s = .next (orDenied s m op u) := by
  obtain ⟨info, hinfo, honly⟩ := Option.map_eq_some_iff.mp hinfo
  exact exec_unsigned (mailRow_mem n hrow) h (signedOk_steward hno h hinfo honly) u


/-- A request that is not a tenant's is the steward's. -/
theorem signedOk_of_not_tenant (hno : NoSignature) (h : Admits s m op) (hsteward : tenant s m = false) : signedOk s m op = false := by
  obtain ⟨v, hpair, -, -, -, hdenied, -⟩ := h.pair
  have hscope : m.scope ≤ 64 := by
    have hwell := h.well.1
    simp only [msgBad, decide_eq_false_iff_not] at hwell
    omega
  have howner : v.owner = 64 := by
    by_contra hne
    simp only [scopeDenied, if_neg hne, Bool.or_eq_false_iff, decide_eq_false_iff_not] at hdenied
    simp [tenant, ownerOf, hpair] at hsteward
    omega
  simp [signedOk, hpair, howner, signatureOk_unsigned hno]

/-! ### The partitions' commands without a signature (R345, R406) -/

@[simp] theorem failPairs_cmds (k : Nat) : (failPairs s k).cmds = s.cmds := foldl_cmds (fun s q => qpError_cmds s q) _ s

@[simp] theorem closePorts_cmds (c : Nat) : (closePorts s c).cmds = s.cmds := by
  unfold closePorts
  exact foldl_cmds (fun s _ => modEnd_cmds s ..) _ s

@[simp] theorem resetClusters_cmds (q : Part) : (resetClusters s q).cmds = s.cmds := by
  rw [resetClusters, emptyContexts_cmds]
  exact foldl_cmds (fun s c => (closePorts_cmds c).trans (resetCluster_cmds s _ c)) _ s

@[simp] theorem resetPart_cmds (k cause : Nat) : (resetPart s k cause).cmds = s.cmds := by
  unfold resetPart
  dsimp only
  split <;> simp

/-- An only command has no others to answer. -/
theorem answerOthers_admitted (k st : Nat) : answerOthers (admitted s m op) k st m = admitted s m op := by
  simp [answerOthers, sameCmd_cmdOf]

@[simp] theorem partStateCode_admitted (q : Part) : partStateCode (admitted s m op) q = partStateCode s q :=
  admitted_keeps (partStateCode · q) (fun _ _ _ _ _ _ _ _ => rfl) ..

theorem partReset_row (hpart : partOf s m pt) (h : Admits s m 0x010B) (hbody : bOver m 0 = false)
    (hdies : (diesOf pt).all (fun d => (getDie s d).resetting) = false) :
    Answers (.partReset m) s m 0x010B (resetPart (admitted s m 0x010B) (scopePart m) 0xF0) [] := by
  refine answers_of_doOp (doPartReset · m (scopePart m)) (fun _ => rfl) (mailRow_mem 19 rfl) h ?_ (by simp)
  simp only [doPartReset, answerOthers_admitted, hbody, partOf_admitted hpart, getDie_admitted, Option.any_some, hdies, Bool.false_eq_true, if_false]
  rfl

theorem partReset_merged_row (hpart : partOf s m pt) (h : Admits s m 0x010B) (hbody : bOver m 0 = false)
    (hdies : (diesOf pt).all (fun d => (getDie s d).resetting) = true) :
    exec (.partReset m) s = .next (orDenied s m 0x010B (failPairs (modPart (admitted s m 0x010B) (scopePart m) unloaded) (scopePart m))) := by
  refine exec_of_doOp_wait (doPartReset · m (scopePart m)) (fun _ => rfl) (mailRow_mem 19 rfl) h ?_ ?_
  · simp only [doPartReset, answerOthers_admitted, hbody, partOf_admitted hpart, getDie_admitted, Option.any_some, hdies, Bool.false_eq_true, if_false,
      if_true]
  · simp [Settled, cmdOf]

/-- The fields that PART_STATUS answers (R406). -/
def partFields (s : State) (k : Nat) (pt : Part) : List (List Byte) :=
  [leBytes 1 k, leBytes 1 pt.kind, leBytes 1 (partStateCode s pt),
   leBytes 1 (if pt.kind = 0 then pt.clusters.length else pt.clusters.length / 16),
   leBytes 2 (if pt.kind = 0 then (pt.clusters.map (fun c => 2 ^ (c % 16))).sum else ((diesOf pt).map (fun d => 2 ^ d)).sum),
   reserveBytes pt.declared, leBytes 2 pt.bucketAt, leBytes 2 pt.buckets, zeros 2, leBytes 4 pt.epoch,
   leBytes 1 (pt.windows.filter (fun e => bit e.2 98)).length, leBytes 1 pt.hbm.length, leBytes 1 pt.ddr.length, leBytes 1 (mbxPairs s k),
   leBytes 8 pt.job, (match pt.digest with | none => zeros 32 | some d => digestBytes d)]

theorem partFields_widths (k : Nat) (pt : Part) : (partFields s k pt).map List.length = [1, 1, 1, 1, 2, 4, 2, 2, 2, 4, 1, 1, 1, 1, 8, 32] := by
  have hdigest : (match pt.digest with | none => zeros 32 | some d => digestBytes d).length = 32 := by
    cases pt.digest <;> simp [zeros, digestBytes, leBytes_length]
  simp [partFields, leBytes_length, zeros, reserveBytes]
  simpa [zeros] using hdigest

theorem partStatus_row (hpart : partOf s m pt) (h : Admits s m 0x010C) (hbody : bOver m 0 = false) :
    Answers (.partStatus m) s m 0x010C (admitted s m 0x010C) (partFields (admitted s m 0x010C) (scopePart m) pt).flatten := by
  refine answers_of_doOp (doPartStatus · m (scopePart m)) (fun _ => rfl) (mailRow_mem 20 rfl) h ?_ rfl
  simp only [doPartStatus, partOf_admitted hpart, hbody, Bool.false_eq_true, if_false]
  simp only [partFields, List.flatten_cons, List.flatten_nil, List.append_assoc, List.append_nil]
  rfl

end

/-- What PART_CREATE says of the new partition `v` can be met, whatever else is said of it. -/
theorem created_exists (kind : Nat) (clusters declared : List Nat) (tag buckets : Nat) (x : State) (keys : Nat → List Byte) (tags : Nat → List Byte)
    {P : Part → State → Prop} (hP : ∀ v u, P v u) : ∃ (v : Part) (u : State), v.kind = kind ∧ v.clusters = clusters ∧ v.declared = declared ∧
    v.bucketAt = tag ∧ v.buckets = buckets ∧ v.image = [] ∧ v.running = false ∧ u = x ∧ v.xts = keys u.freeSeq ∧ v.tagKey = tags u.freeSeq ∧
    v.epoch = 1 ∧ P v u :=
  ⟨{ kind := kind, clusters := clusters, declared := declared, bucketAt := tag, buckets := buckets, xts := keys x.freeSeq, tagKey := tags x.freeSeq }, x,
    rfl, rfl, rfl, rfl, rfl, rfl, rfl, rfl, rfl, rfl, rfl, hP ..⟩

/-- Every clause of O50 but those of PART_RESET and PART_STATUS is about a steward's command; those two hold anyway. -/
theorem partitionCommands_of_noSignature (hno : NoSignature) : Obligations.PartitionCommands := by
  rintro s m a k pt rfl rfl -
  refine ⟨fun p tag h _ _ _ _ => ?_, fun hpart => ⟨?_, ?_, ?_, fun first units h _ _ _ _ _ _ _ => ⟨?_, ?_⟩, ?_, fun q h _ _ _ _ _ => ?_, ?_, fun h _ _ => ⟨?_, ?_⟩, ?_,
    fun h hbody => ⟨partReset_row hpart h hbody, partReset_merged_row hpart h hbody⟩, fun h hbody => ?_⟩⟩
  · exact created_exists _ _ _ tag _ _ (fun n => leBytes 64 (Config.freeValue n 0)) (fun n => leBytes 32 (Config.freeValue n 1)) fun v u => exec_steward_unsigned hno 9 rfl h rfl _
  · exact fun h _ => exec_steward_unsigned hno 10 rfl h rfl _
  · exact fun h _ _ _ _ => exec_steward_unsigned hno 11 rfl h rfl _
  · exact fun _ h _ _ _ _ _ _ _ _ => exec_steward_unsigned hno 12 rfl h rfl _
  · exact fun _ _ _ _ _ _ => exec_steward_unsigned hno 13 rfl h rfl _
  · exact fun _ _ _ => exec_steward_unsigned hno 13 rfl h rfl _
  · exact fun h _ _ _ _ => exec_steward_unsigned hno 14 rfl h rfl _
  · exact ⟨pairAsked m (scopePart m) true q, rfl, rfl, rfl, rfl, rfl, rfl, exec_steward_unsigned hno 15 rfl h rfl _⟩
  · exact fun _ h _ _ _ _ => exec_steward_unsigned hno 16 rfl h rfl _
  · exact fun _ => exec_steward_unsigned hno 17 rfl h rfl _
  · exact fun _ _ _ _ _ => exec_steward_unsigned hno 17 rfl h rfl _
  · exact fun h _ _ => exec_steward_unsigned hno 18 rfl h rfl _
  · have hfield := slice_flatten (partFields_widths (s := admitted s m 0x010C) (scopePart m) pt)
    refine ⟨_, partStatus_row hpart h hbody, rfl, hfield 1 1 1 _ rfl rfl (leBytes_length ..), ?_, hfield 6 10 2 _ rfl rfl (leBytes_length ..),
      hfield 7 12 2 _ rfl rfl (leBytes_length ..), hfield 9 16 4 _ rfl rfl (leBytes_length ..), hfield 14 24 8 _ rfl rfl (leBytes_length ..)⟩
    have hstate := hfield 2 2 1 _ rfl rfl (leBytes_length ..)
    rwa [partStateCode_admitted] at hstate

/-! ### Security and meter without a signature (R420, R429, R432, R437) -/

section
variable {s : State} {m : Mbx} {c : Cmd} {l : List Byte}

theorem attest_row (h : Admits s m 0x0601) (hbody : bOver m 32 = false) : Answers (.attest m) s m 0x0601 (admitted s m 0x0601)
    (reportBody (admitted s m 0x0601) (scopePart m) (slice m.body 0 32) ++
      slice (Config.signOf s.idKey (ctxBytes "CM7 attestation" ++ reportBody (admitted s m 0x0601) (scopePart m) (slice m.body 0 32))) 0 2420) := by
  have hkey : (admitted s m 0x0601).idKey = s.idKey := admitted_keeps State.idKey (fun _ _ _ _ _ _ _ _ => rfl) ..
  refine answers_of_doOp (doAttest · m (scopePart m)) (fun _ => rfl) (mailRow_mem 43 rfl) h ?_ rfl
  rw [doAttest, hbody, hkey, if_neg (by decide)]
  rfl

/-- The fields that IDENTITY_READ answers (R432). -/
def identityFields (s : State) : List (List Byte) :=
  [slice (Config.publicOf s.idKey) 0 1312, slice s.flash.serial 0 16, leBytes 1 (productCode s.product), leBytes 1 (identityClass s), zeros 2,
   digestBytes (sha3 (Config.publicKey 3)), endorsement s]

theorem identityFields_widths (s : State) : (identityFields s).map List.length = [1312, 16, 1, 1, 2, 32, 2420] := by
  simp [identityFields, length_slice, leBytes_length, zeros, digestBytes, endorsement]

theorem doIdentityRead_eq (hbody : bOver m 0 = false) : doIdentityRead s m = (s, .done 0 (identityFields s).flatten) := by
  rw [doIdentityRead, hbody, if_neg (by decide)]
  simp only [identityFields, identityBytes, List.flatten_cons, List.flatten_nil, List.append_assoc, List.append_nil]
  rfl

theorem identityRead_row (h : Admits s m 0x0602) (hbody : bOver m 0 = false) : ∃ b, Answers (.identityRead m) s m 0x0602 (admitted s m 0x0602) b ∧
    b.take 1312 = slice (Config.publicOf s.idKey) 0 1312 ∧ slice b 1312 16 = slice s.flash.serial 0 16 := by
  have hkey : (admitted s m 0x0602).idKey = s.idKey := admitted_keeps State.idKey (fun _ _ _ _ _ _ _ _ => rfl) ..
  have hserial : (admitted s m 0x0602).flash.serial = s.flash.serial :=
    admitted_keeps (fun s => s.flash.serial) (fun _ _ _ _ _ _ _ _ => rfl) ..
  have hfield := slice_flatten (identityFields_widths (admitted s m 0x0602)) 1 1312 16 _ rfl rfl (length_slice ..)
  refine ⟨_, answers_of_doOp (doIdentityRead · m) (fun _ => rfl) (mailRow_mem 44 rfl) h (doIdentityRead_eq hbody) rfl, ?_, ?_⟩
  · rw [identityFields, List.flatten_cons, List.take_left' (length_slice ..), hkey]
  · rw [hfield, hserial]

theorem meterIdentity_row (h : Admits s m 0x0703) (hbody : bOver m 0 = false) (hruns : meterRuns s.meter = true) :
    Answers (.meterIdentity m) s m 0x0703 (admitted s m 0x0703) (slice (Config.publicKey 2) 0 1312 ++ leBytes 1 (sealState (admitted s m 0x0703))) := by
  have hmeter : meterRuns (admitted s m 0x0703).meter = meterRuns s.meter := admitted_keeps (fun s => meterRuns s.meter) (fun _ _ _ _ _ _ _ _ => rfl) ..
  refine answers_of_doOp (doMeterIdentity · m) (fun _ => rfl) (mailRow_mem 52 rfl) h ?_ rfl
  rw [doMeterIdentity, hbody, hmeter, hruns]
  rfl

theorem imageStatus_unsigned (hfields : fwFieldsOk l = true) (hfresh : fwFresh s l = true) (hsig : fwSigOk l = false) : imageStatus s l = stAuth := by
  simp [imageStatus, hfields, hfresh, hsig]

theorem concludeFw_unsigned (hl : c.fetched = [l]) (hdigest : digestBytes (sha3 (l.take (fwLength l))) = slice c.m.body 16 32)
    (hfields : fwFieldsOk l = true) (hfresh : fwFresh s l = true) (hsig : fwSigOk l = false) : concludeFw s c = (s, .done stAuth []) := by
  have hne : l ≠ [] := by
    rintro rfl
    exact absurd hfields (by decide)
  simp only [concludeFw, hl, List.headD_cons, if_neg hne, hdigest, imageStatus_unsigned hfields hfresh hsig]
  exact (if_neg (not_not_intro rfl)).trans (if_pos (by decide))

end

/-- The clauses of O53 that a tenant's request can meet hold anyway; the others are about a signature that verifies. -/
theorem securityAndMeterCommands_of_noSignature (hno : NoSignature) : Obligations.SecurityAndMeterCommands := by
  rintro s m a k rfl rfl
  refine ⟨fun r h hbody hr => ?_, identityRead_row, fun _ _ h _ _ _ _ _ _ _ _ _ => exec_steward_unsigned hno 45 rfl h rfl _,
    fun h _ => exec_steward_unsigned hno 46 rfl h rfl _, fun _ h _ _ _ => exec_steward_unsigned hno 47 rfl h rfl _,
    fun c l hl hdigest hfields hfresh _ _ => ⟨fun hsig => ?_, concludeFw_unsigned hl hdigest hfields hfresh⟩,
    fun _ h _ _ _ _ _ _ _ => ⟨fun _ => exec_steward_unsigned hno 48 rfl h rfl _, fun _ => exec_steward_unsigned hno 48 rfl h rfl _⟩,
    fun _ h _ _ _ => exec_steward_unsigned hno 49 rfl h rfl _, fun h _ _ hsteward _ _ => ?_,
    fun h _ _ _ _ _ => exec_steward_unsigned hno 51 rfl h rfl _, meterIdentity_row⟩
  · rw [hr]
    exact attest_row h hbody
  · exact absurd ((hno ..).symm.trans hsig) (by decide)
  · refine ⟨leBytes 8 (bf m 0 8) ++ leBytes 2 1 ++ zeros 6 ++ zeros 32 ++ slice (tget [] s.meter.records (bf m 0 8 % 208)) 0 3328,
      exec_unsigned (mailRow_mem 50 rfl) h (signedOk_of_not_tenant hno h hsteward) _, ?_, ?_⟩
    · rw [List.append_assoc, List.take_left' (by simp [leBytes_length, zeros])]
    · rw [slice_eq_take_drop (by simp [leBytes_length, zeros, length_slice]), List.drop_left' (by simp [leBytes_length, zeros]),
        List.take_of_length_le (by simp [length_slice])]

/-! ### One signature that verifies (R386, R404, R405, R422) -/

/-- A request of the steward's on the pair 3. -/
def stewardRequest (scope : Nat) (body : List Byte) : Mbx :=
  { qpn := 3, tag := 1, version := 1, flags := 1, status := 0, scope := scope, rsv := 0, seq := 1, time := 0, retry := 0, lost := 0
    len := body.length, body := body, sig := List.replicate 2420 0, trail := 0 }

/-- A device in service with the one partition `pt`, the pairs `qps`, and the steward's key in force. -/
def keyedState (pt : Part) (qps : Tbl (Option Qp)) : State :=
  { State.reset with
    boot := .service, ouvosUp := true, qps := qps, parts := [(0, some pt)]
    flash := { State.reset.flash with lc := 3, steward := some [], stewardTag := Config.keyTag State.reset.storageKey [] } }

/-- What the steward signs (R386). -/
def signedBytes (s : State) (m : Mbx) (op : Nat) : List Byte :=
  ctxBytes "CM7 steward" ++ digestBytes (sha3 (Config.publicOf (classSeed s 1))) ++ headerBytes m op ++ m.body

/-- A partition whose first die the product lacks, with a cluster of that die in reserve. -/
def lostDie : State := setClu (keyedState { die := 5 } [(3, some { owner := 64, mbx := true })]) 83 2 0

/-- The steward's own pair is listed, and behind it a pair of the partition under the same number. -/
def listedTwice : State := keyedState {} [(3, some { owner := 64, mbx := true }), (3, some { owner := 0 })]

theorem quiet_of_onePart {s : State} {pt : Part} (hup : s.ouvosUp = true) (hboot : s.boot = .service) (hcmds : s.cmds = [])
    (hfresh : devNs s < s.genAt + 3600000000000) (hparts : s.parts = [(0, some pt)])
    (hidle : actionPending s pt = false ∧ pt.isolate = none ∧ pt.due = []) : Quiet s := by
  refine ⟨hup, hboot, hcmds, hfresh, fun p q hq => ?_⟩
  rw [getPart, hparts, tget, tget] at hq
  split_ifs at hq
  rwa [← Option.some.inj hq]

theorem admits_lostDie : Admits lostDie (stewardRequest 0 [0xFF, 0xFF, 0xFF, 0xFF]) 0x0103 where
  quiet := quiet_of_onePart (pt := { die := 5 }) rfl rfl rfl (by decide +kernel) rfl (by decide +kernel)
  pair := ⟨{ owner := 64, mbx := true }, rfl, rfl, rfl, by decide, by decide +kernel, fun _ => by decide +kernel, by decide +kernel⟩
  well := by decide +kernel
  scope := fun i hi => by
    obtain rfl := Option.some.inj hi
    decide
  exists_ := fun _ => rfl

theorem admits_listedTwice : Admits listedTwice (stewardRequest 64 [3]) 0x0607 where
  quiet := quiet_of_onePart (pt := {}) rfl rfl rfl (by decide +kernel) rfl (by decide +kernel)
  pair := ⟨{ owner := 64, mbx := true }, rfl, rfl, rfl, by decide, by decide +kernel, fun _ => by decide +kernel, by decide +kernel⟩
  well := by decide +kernel
  scope := fun i hi => by
    obtain rfl := Option.some.inj hi
    decide
  exists_ := fun h => absurd rfl h

theorem signedOk_keyed {s : State} {m : Mbx} {op : Nat} {v : Qp} (hpair : getQp s m.qpn = some v) (hsteward : s.flash.steward = some [])
    (htag : s.flash.stewardTag = Config.keyTag s.storageKey []) (hop : op ≠ 0x0604)
    (hsig : Config.sigVerifies [] (signedBytes s m op) m.sig = true) : signedOk s m op = true := by
  have hkey : stewardKey s = some [] := by simp [stewardKey, hsteward, htag]
  have hfirst : firstKey s op = false := by simp [firstKey, hop]
  have hok : signatureOk s m op = true := by
    rw [signatureOk, hfirst, if_neg (by decide), hkey]
    exact hsig
  simp [signedOk, hpair, hok]

/-- PART_RESERVE drops the cluster of the lacking die, which `heldReserves` does not see; the statement keeps it. -/
theorem not_partitionCommands_of_signature
    (hsig : Config.sigVerifies [] (signedBytes lostDie (stewardRequest 0 [0xFF, 0xFF, 0xFF, 0xFF]) 0x0103) (List.replicate 2420 0) = true) :
    ¬ Obligations.PartitionCommands := by
  intro hall
  obtain ⟨-, hpart⟩ := hall lostDie (stewardRequest 0 [0xFF, 0xFF, 0xFF, 0xFF]) _ 0 { die := 5 } rfl rfl (by decide)
  obtain ⟨-, hreserve, -⟩ := hpart rfl
  have hsaid := hreserve admits_lostDie (by decide) (by decide) rfl (by decide +kernel)
  have hdone : (doPartReserve (admitted lostDie (stewardRequest 0 [0xFF, 0xFF, 0xFF, 0xFF]) 0x0103) (stewardRequest 0 [0xFF, 0xFF, 0xFF, 0xFF]) 0).2 =
      .done 0 [] := by decide +kernel
  have hcmds : (doPartReserve (admitted lostDie (stewardRequest 0 [0xFF, 0xFF, 0xFF, 0xFF]) 0x0103) (stewardRequest 0 [0xFF, 0xFF, 0xFF, 0xFF]) 0).1.cmds =
      [cmdOf lostDie (stewardRequest 0 [0xFF, 0xFF, 0xFF, 0xFF]) 0x0103] := by decide +kernel
  have hdoes := answers_of_doOp (doPartReserve · (stewardRequest 0 [0xFF, 0xFF, 0xFF, 0xFF]) 0) (fun _ => rfl) (mailRow_mem 11 rfl) admits_lostDie
    (Prod.ext rfl hdone) hcmds
  rw [Answers, orDenied, if_pos (signedOk_keyed rfl rfl rfl (by decide) hsig)] at hsaid hdoes
  have heq := Host.Outcome.next.inj (hsaid.symm.trans hdoes)
  have hcluster := congrArg (cluState · 83) heq
  revert hcluster
  decide +kernel

/-- What PART_DELETE does once the partition's pairs are gone (R404). -/
def afterPairs (s : State) (pt : Part) (part : Nat) : State :=
  let s3 := (List.range 8).foldl (fun s l => if (getEntry s l (entryOf part)).isSome then removeEntry s l (entryOf part) else s) s
  let s4 := { s3 with regions := s3.regions.filter (fun e => match e.2 with | none => true | some r => r.owner != part) }
  let s5 := (List.range pt.buckets).foldl (fun s i => modBucket s (pt.bucketAt + i) (fun b => { closes := b.closes + 1 })) s4
  let s6 := (pt.clusters ++ heldReserves s5 part).foldl dropCluster s5
  setPart { s6 with reusable := tset 0 s6.reusable part (s6.fab + 1) } part none

/-- The state in which a partition that runs no job has stopped. -/
def partStopped (s : State) (part : Nat) : State := dropActions (stopPart s part (stopScope 0xF0 [] [])) part

theorem deletePart_idle {s : State} {pt : Part} {part : Nat} (hpart : getPart s part = some pt) (hrunning : pt.running = false) :
    deletePart s part = afterPairs (destroyQps (partStopped s part) (fun v => v.owner == part)) pt part := by
  rw [deletePart, hpart]
  simp only [hrunning, Bool.false_eq_true, if_false]
  rfl

/-- A pair that is lost while no bucket is open loses its own work only. -/
theorem qpError_unopened {s : State} {q : Nat} {v : Qp} (hpair : getQp s q = some v) (hgood : v.error = false) (hbuckets : s.buckets = []) :
    qpError s q =
      setQp s q (some { v with error := true, outstanding := [], txq := [], later := [], events := [], recvs := [], rnrWait := false }) := by
  rw [qpError_eq, hpair]
  simp only [hgood, Bool.false_eq_true, if_false]
  refine foldl_fixed_of_mem fun t _ => if_neg ?_
  rintro ⟨hopen, -⟩
  rw [getBucket, setQp_buckets, hbuckets, tget_nil] at hopen
  exact absurd hopen (by decide)

/-- The step of LIFECYCLE that deletes the partition `p` (R422). -/
def partGone (s : State) (p : Nat) : State := deletePart { s with cmds := s.cmds.filter (fun c => scopePart c.m != p || c.op == 0x0607) } p

theorem transit_cmds (s : State) : (transit s 3).cmds = ((List.range 64).foldl partGone s).cmds := by
  have hstep : (fun s p => deletePart { s with cmds := s.cmds.filter (fun c => scopePart c.m != p || c.op == 0x0607) } p) = partGone := rfl
  rw [transit, if_pos (.inl rfl), hstep]

theorem doLifecycle_eq {s : State} {m : Mbx} {n : Nat} (hbody : bOver m 1 = false) (hn : bf m 0 1 = n)
    (hpath : lifeCycle s.flash.lc = 1 ∧ 2 ≤ n ∧ n ≤ 4 ∨ lifeCycle s.flash.lc = 2 ∧ 3 ≤ n ∧ n ≤ 4) :
    doLifecycle s m = ({ transit { s with flash := { s.flash with transition := some n } } n with resetPend := some 0 }, .done 0 []) := by
  rw [doLifecycle, hbody, hn]
  exact if_neg (by simp [hpath])

/-- The transition of `listedTwice` to the scrapped state is under way. -/
def scrapping : State :=
  { admitted listedTwice (stewardRequest 64 [3]) 0x0607 with
    flash := { (admitted listedTwice (stewardRequest 64 [3]) 0x0607).flash with transition := some 3 } }

/-- The partition of `listedTwice` has stopped. -/
def stopped : State :=
  partStopped { scrapping with cmds := scrapping.cmds.filter (fun c => scopePart c.m != 0 || c.op == 0x0607) } 0

/-- The steward's own pair is lost. -/
def pairLost : State :=
  setQp (orphan (setQp stopped 3 (some { owner := 64, mbx := true, error := true })) 3) 3 none

theorem destroyQps_stopped : destroyQps stopped (fun v => v.owner == 0) = pairLost := by
  have hpairs : qpsWhere stopped (fun v => v.owner == 0) = [3] := by decide +kernel
  have hpair : getQp stopped 3 = some { owner := 64, mbx := true } := by decide +kernel
  have hbuckets : stopped.buckets = [] := by decide +kernel
  rw [destroyQps, hpairs, List.foldl_cons, List.foldl_nil, destroyQp, qpError_unopened hpair rfl hbuckets, pairLost]

theorem transit_scrapping_cmds : (transit scrapping 3).cmds = [renamed (cmdOf listedTwice (stewardRequest 64 [3]) 0x0607) 16777219] := by
  have hrange : List.range 64 = 0 :: (List.range 63).map (· + 1) := by decide
  have hfirst : partGone scrapping 0 = afterPairs pairLost {} 0 := by
    rw [partGone, deletePart_idle (pt := {}) (by decide +kernel) rfl, ← destroyQps_stopped]
    rfl
  rw [transit_cmds, hrange, List.foldl_cons, hfirst]
  decide +kernel

theorem resetPend_cmds (t : State) (n : Nat) : ({ t with resetPend := some n } : State).cmds = t.cmds := rfl

theorem soleCmd_resetPend {c : Cmd} {t : State} (h : SoleCmd c t) (n : Nat) : SoleCmd c { t with resetPend := some n } := h

/-- LIFECYCLE destroys the steward's own pair with the partition's, and completes under the number that the command then has. -/
theorem not_securityAndMeterCommands_of_signature
    (hsig : Config.sigVerifies [] (signedBytes listedTwice (stewardRequest 64 [3]) 0x0607) (List.replicate 2420 0) = true) :
    ¬ Obligations.SecurityAndMeterCommands := by
  intro hall
  obtain ⟨-, -, -, -, -, -, -, hlife, -⟩ := hall listedTwice (stewardRequest 64 [3]) _ 64 rfl rfl
  have hsaid : Answers (.lifecycle (stewardRequest 64 [3])) listedTwice (stewardRequest 64 [3]) 0x0607
      { transit scrapping 3 with resetPend := some 0 } [] := hlife 3 admits_listedTwice (by decide) (by decide) (by decide +kernel)
  have hsole : SoleCmd (cmdOf listedTwice (stewardRequest 64 [3]) 0x0607) (transit scrapping 3) :=
    ⟨16777219, transit_scrapping_cmds, by decide, by decide⟩
  have hdo : doOp (admitted listedTwice (stewardRequest 64 [3]) 0x0607) (stewardRequest 64 [3]) 0x0607 =
      ({ transit scrapping 3 with resetPend := some 0 }, .done 0 []) :=
    doLifecycle_eq (s := admitted listedTwice (stewardRequest 64 [3]) 0x0607) (m := stewardRequest 64 [3]) (n := 3) (by decide) (by decide)
      (by decide +kernel)
  have hnone := settleCmd_sole (soleCmd_resetPend hsole 0) 0 []
  have hdoes := exec_mailRow_admits (mailRow_mem (m := stewardRequest 64 [3]) (e := (.lifecycle (stewardRequest 64 [3]), 0x0607)) 49 rfl)
    admits_listedTwice (by
      intro c hc
      rw [hdo, hnone] at hc
      exact absurd hc List.not_mem_nil)
  have hsigned := signedOk_keyed (s := listedTwice) (m := stewardRequest 64 [3]) (op := 0x0607) rfl rfl rfl (by decide) hsig
  rw [Answers, orDenied, if_pos hsigned] at hsaid
  rw [hdo, orDenied, if_pos hsigned] at hdoes
  have hcmds := congrArg State.cmds (Host.Outcome.next.inj (hsaid.symm.trans hdoes))
  rw [hnone, finish_cmds, resetPend_cmds, transit_scrapping_cmds] at hcmds
  revert hcmds
  decide

end Sys2Proof.Machine
end
